-- ==== Sys2Proof/Word.lean ====
section
/-! DEFINITION. Word.lean: the word types and their plainest arithmetic. -/
namespace Sys2Proof

/-- A register, an Onnus general register or a word of memory (R8, R93). -/
abbrev Word := BitVec 32

/-- One byte of memory. -/
abbrev Byte := BitVec 8

/-- An Onnus accumulator (R93). -/
abbrev Acc := BitVec 72

/-- A Stroke engine pair SP0–SP8 (R42). -/
abbrev PairNo := Fin 9

/-- A crew C0–C31. -/
abbrev CrewNo := Fin 32

/-- A leg L0–L63. -/
abbrev LegNo := Fin 64

/-- A gate-link port, and the tile on it, G0–G15. -/
abbrev TileNo := Fin 16

/-- A sigma-delta stream (R236): 0–63 the legs, 64–79 the DC links of tiles G0–G15. -/
abbrev StreamNo := Fin 80

/-- A safety group, a safety input, a test-pulse output or a safe brake output, 0–7. -/
abbrev Oct := Fin 8

/-- A safety island: `false` is SAFA, `true` is SAFB. -/
abbrev Island := Bool

/-- A ring port: 0 is A, 1 is B. -/
abbrev RingPort := Fin 2

/-- A field or a position port, 0–15. -/
abbrev Port16 := Fin 16

end Sys2Proof
end

