-- ==== Sys2Proof/Config.lean ====
section
/-! DEFINITION. Config.lean: the values the spec leaves open. None of them has a body, so nothing can be proved of a
value of theirs (assumption log 2). -/
namespace Sys2Proof

/-- A fresh free value, by the number of free values taken before it (`State.freeCount`). It serves every value the
spec gives as a range or does not give: cycle counts stated min–max (R100), drains, the nonce, measured results. -/
opaque Config.freeNat : Nat → Nat

/-- The capability block of the tile at port k (R214): each tile maker's own. -/
opaque Config.tileCap : Nat → List Byte

/-- The implementation-defined offset of an ATAN2 result within the bound of R114: a function of the two inputs alone. -/
opaque Config.atan2Offset : Word → Word → Nat

end Sys2Proof
end

