-- ==== Sys2Proof/Machine/Fp.lean ====
section
/-! DEFINITION. Machine/Fp.lean: binary32 and binary64 arithmetic by exact integers, with the rules of R107. -/
namespace Sys2Proof.Machine

/-- The sticky exception bits an operation sets, in the order of CSR FSTAT (R90): NV, DZ, OF, UF, NX, QSAT. -/
structure FFlags where
  nv : Bool := false
  dz : Bool := false
  of_ : Bool := false
  uf : Bool := false
  nx : Bool := false
  qsat : Bool := false
  deriving DecidableEq, Repr

/-- Sticky union. -/
def FFlags.or (a b : FFlags) : FFlags :=
  ⟨a.nv || b.nv, a.dz || b.dz, a.of_ || b.of_, a.uf || b.uf, a.nx || b.nx, a.qsat || b.qsat⟩

/-- FSTAT [5:0]: QSAT, NX, UF, OF, DZ, NV from bit 5 down. -/
def FFlags.toNat (f : FFlags) : Nat :=
  f.nv.toNat + 2 * f.dz.toNat + 4 * f.of_.toNat + 8 * f.uf.toNat + 16 * f.nx.toNat + 32 * f.qsat.toNat

def fNone : FFlags := {}
def fNV : FFlags := { nv := true }
def fDZ : FFlags := { dz := true }
def fNX : FFlags := { nx := true }
def fUFNX : FFlags := { uf := true, nx := true }
def fOFNX : FFlags := { of_ := true, nx := true }
def fQSAT : FFlags := { qsat := true }

/-- A decoded operand. `fin s m e` is (−1)^s × m × 2^e. -/
inductive FVal where
  | nan (signalling : Bool)
  | inf (s : Bool)
  | fin (s : Bool) (m : Nat) (e : Int)
  deriving DecidableEq, Repr

/-- A binary interchange format: `mb` stored mantissa bits, `eb` exponent bits. -/
structure FFmt where
  mb : Nat
  eb : Nat
  deriving DecidableEq, Repr

def f32 : FFmt := ⟨23, 8⟩
def f64 : FFmt := ⟨52, 11⟩

def FFmt.bias (F : FFmt) : Nat := 2 ^ (F.eb - 1) - 1
/-- The exponent of the least normal value's unit in the last place: −149 for binary32. -/
def FFmt.emin (F : FFmt) : Int := 1 - (F.bias : Int) - F.mb
def FFmt.expAll (F : FFmt) : Nat := 2 ^ F.eb - 1
/-- Packs sign, biased exponent and stored mantissa. -/
def FFmt.pack (F : FFmt) (s : Bool) (be m : Nat) : Nat := (s.toNat * 2 ^ F.eb + be) * 2 ^ F.mb + m
def FFmt.zero (F : FFmt) (s : Bool) : Nat := F.pack s 0 0
def FFmt.inf (F : FFmt) (s : Bool) : Nat := F.pack s F.expAll 0
/-- The canonical quiet NaN (R107: 0x7FC0_0000 in binary32). -/
def FFmt.qnan (F : FFmt) : Nat := F.pack false F.expAll (2 ^ (F.mb - 1))

/-- Decodes `n`; a subnormal input is taken as zero of the same sign (R107). -/
def FFmt.val (F : FFmt) (n : Nat) : FVal :=
  let s := n / 2 ^ (F.mb + F.eb) % 2 == 1
  let be := n / 2 ^ F.mb % 2 ^ F.eb
  let m := n % 2 ^ F.mb
  if be = F.expAll then
    if m = 0 then .inf s else .nan (m < 2 ^ (F.mb - 1))
  else if be = 0 then .fin s 0 0
  else .fin s (2 ^ F.mb + m) ((be : Int) - F.bias - F.mb)

/-- Number of bits of `n`. -/
def bitLen (n : Nat) : Nat := if n = 0 then 0 else Nat.log2 n + 1

/-- m × 2^e with `sticky` below it, rounded to nearest even to an integer multiple of 2^q; answers the multiple and
whether the value changed. -/
def roundAt (m : Nat) (e q : Int) (sticky : Bool) : Nat × Bool :=
  if q ≤ e then (m * 2 ^ (e - q).toNat, sticky)
  else
    let k := (q - e).toNat
    let t := m / 2 ^ k
    let r := m % 2 ^ k
    let half := 2 ^ (k - 1)
    let up := r > half || (r == half && (sticky || t % 2 == 1))
    ((if up then t + 1 else t), r ≠ 0 || sticky)

/-- Rounds (−1)^s × (m × 2^e, with `sticky` below) once into the format. A result that would be subnormal before
rounding is zero of the same sign with UF and NX; overflow is infinity with OF and NX (R107). -/
def FFmt.round (F : FFmt) (s : Bool) (m : Nat) (e : Int) (sticky : Bool) : Nat × FFlags :=
  if m = 0 then (F.zero s, if sticky then fUFNX else fNone)
  else
    let top := e + (bitLen m : Int) - 1
    if top < 1 - (F.bias : Int) then (F.zero s, fUFNX)
    else
      let q := top - F.mb
      let (t, nx) := roundAt m e q sticky
      let (t, q) := if t = 2 ^ (F.mb + 1) then (2 ^ F.mb, q + 1) else (t, q)
      let be := q + F.mb + F.bias
      if be ≥ F.expAll then (F.inf s, fOFNX)
      else (F.pack s be.toNat (t - 2 ^ F.mb), { nx := nx })

def FVal.isSNan : FVal → Bool
  | .nan b => b
  | _ => false

def FVal.isNan : FVal → Bool
  | .nan _ => true
  | _ => false

def FVal.neg : FVal → FVal
  | .nan b => .nan b
  | .inf s => .inf (!s)
  | .fin s m e => .fin (!s) m e

/-- The canonical NaN, with NV where `nv`. -/
def FFmt.nanOut (F : FFmt) (nv : Bool) : Nat × FFlags := (F.qnan, { nv := nv })

/-- Exact product. -/
def fmulVal (a b : FVal) : Option FVal :=
  match a, b with
  | .fin s m e, .fin t n f => some (.fin (s != t) (m * n) (e + f))
  | .inf s, .fin t n _ => if n = 0 then none else some (.inf (s != t))
  | .fin s m _, .inf t => if m = 0 then none else some (.inf (s != t))
  | .inf s, .inf t => some (.inf (s != t))
  | _, _ => none

/-- Adds two non-NaN values and rounds once; ∞ − ∞ is invalid. -/
def FFmt.addVal (F : FFmt) (a b : FVal) : Nat × FFlags :=
  match a, b with
  | .inf s, .inf t => if s == t then (F.inf s, fNone) else F.nanOut true
  | .inf s, _ => (F.inf s, fNone)
  | _, .inf t => (F.inf t, fNone)
  | .fin s m e, .fin t n f =>
    let q := if m = 0 then f else if n = 0 then e else min e f
    let x : Int := (if s then -1 else 1) * (m * 2 ^ (e - q).toNat : Nat)
    let y : Int := (if t then -1 else 1) * (n * 2 ^ (f - q).toNat : Nat)
    let z := (if m = 0 then 0 else x) + (if n = 0 then 0 else y)
    if z = 0 then (F.zero (if m = 0 && n = 0 then s && t else false), fNone)
    else F.round (z < 0) z.natAbs q false
  | _, _ => F.nanOut false

def FFmt.addN (F : FFmt) (x y : Nat) : Nat × FFlags :=
  let a := F.val x
  let b := F.val y
  if a.isNan || b.isNan then F.nanOut (a.isSNan || b.isSNan) else F.addVal a b

def FFmt.negBits (F : FFmt) (x : Nat) : Nat :=
  let t := 2 ^ (F.mb + F.eb)
  if x / t % 2 = 1 then x - t else x + t

def FFmt.subN (F : FFmt) (x y : Nat) : Nat × FFlags :=
  let a := F.val x
  let b := F.val y
  if a.isNan || b.isNan then F.nanOut (a.isSNan || b.isSNan) else F.addVal a b.neg

def FFmt.mulN (F : FFmt) (x y : Nat) : Nat × FFlags :=
  let a := F.val x
  let b := F.val y
  if a.isNan || b.isNan then F.nanOut (a.isSNan || b.isSNan)
  else match fmulVal a b with
    | none => F.nanOut true
    | some (.fin s m e) => F.round s m e false
    | some (.inf s) => (F.inf s, fNone)
    | some (.nan b) => F.nanOut b

/-- fma(x, y, z): one rounding (R108). -/
def FFmt.fmaN (F : FFmt) (x y z : Nat) : Nat × FFlags :=
  let a := F.val x
  let b := F.val y
  let c := F.val z
  match a.isNan || b.isNan, fmulVal a b with
  | true, _ => F.nanOut (a.isSNan || b.isSNan || c.isSNan)
  | false, none => F.nanOut true
  | false, some p => if c.isNan then F.nanOut c.isSNan else F.addVal p c

def FFmt.divN (F : FFmt) (x y : Nat) : Nat × FFlags :=
  match F.val x, F.val y with
  | .fin s m e, .fin t n f =>
    if n = 0 then
      if m = 0 then F.nanOut true else (F.inf (s != t), fDZ)
    else
      let k := 2 * F.mb + 8
      let num := m * 2 ^ k
      F.round (s != t) (num / n) (e - f - k) (num % n ≠ 0)
  | .inf s, .fin t _ _ => (F.inf (s != t), fNone)
  | .fin s _ _, .inf t => (F.zero (s != t), fNone)
  | .inf _, .inf _ => F.nanOut true
  | a, b => F.nanOut (a.isSNan || b.isSNan)

/-- Integer square root by bits, `fuel` bits from the top. -/
def isqrtAux : Nat → Nat → Nat → Nat
  | 0, _, r => r
  | k + 1, n, r => if (r + 2 ^ k) * (r + 2 ^ k) ≤ n then isqrtAux k n (r + 2 ^ k) else isqrtAux k n r

def isqrt (n : Nat) : Nat := isqrtAux (bitLen n / 2 + 1) n 0

def FFmt.sqrtN (F : FFmt) (x : Nat) : Nat × FFlags :=
  match F.val x with
  | .nan b => F.nanOut b
  | .inf s => if s then F.nanOut true else (F.inf false, fNone)
  | .fin s m e =>
    if m = 0 then (F.zero s, fNone)
    else if s then F.nanOut true
    else
      let k : Nat := 2 * F.mb + 8
      let (m, e) := if e % 2 = 0 then (m, e) else (2 * m, e - 1)
      let num := m * 4 ^ k
      let r := isqrt num
      F.round false r (e / 2 - k) (r * r ≠ num)

/-- Order of two non-NaN values as integers on a common scale; infinities beyond every finite value. -/
def fcmpVal (a b : FVal) : Ordering :=
  match a, b with
  | .inf s, .inf t => compare (!s).toNat (!t).toNat
  | .inf s, _ => if s then .lt else .gt
  | _, .inf t => if t then .gt else .lt
  | .fin s m e, .fin t n f =>
    let q := min e f
    let x : Int := (if s then -1 else 1) * (m * 2 ^ (e - q).toNat : Nat)
    let y : Int := (if t then -1 else 1) * (n * 2 ^ (f - q).toNat : Nat)
    compare x y
  | _, _ => .eq

def FFmt.ltN (F : FFmt) (x y : Nat) : Bool :=
  let a := F.val x
  let b := F.val y
  !(a.isNan || b.isNan) && fcmpVal a b == .lt

def FFmt.eqN (F : FFmt) (x y : Nat) : Bool :=
  let a := F.val x
  let b := F.val y
  !(a.isNan || b.isNan) && fcmpVal a b == .eq

def FFmt.leN (F : FFmt) (x y : Nat) : Bool := F.ltN x y || F.eqN x y

/-- A flushed copy: a subnormal operand reads as zero of its sign (R107); a NaN is made canonical. -/
def FFmt.canon (F : FFmt) (x : Nat) : Nat :=
  match F.val x with
  | .nan _ => F.qnan
  | .inf s => F.inf s
  | .fin s m _ => if m = 0 then F.zero s else x

/-- FMIN and FMAX: one NaN gives the other input, two the canonical NaN; −0 < +0; NV on a signalling NaN. -/
def FFmt.minMaxN (F : FFmt) (mx : Bool) (x y : Nat) : Nat × FFlags :=
  let a := F.val x
  let b := F.val y
  let fl : FFlags := { nv := a.isSNan || b.isSNan }
  let sgn (n : Nat) : Bool := n / 2 ^ (F.mb + F.eb) % 2 == 1
  if a.isNan then (F.canon y, fl)
  else if b.isNan then (F.canon x, fl)
  else
    let xLess := match fcmpVal a b with
      | .lt => true
      | .gt => false
      | .eq => sgn x && !sgn y
    ((if xLess != mx then F.canon x else F.canon y), fl)

/-- A signed integer times 2^e, rounded once. -/
def FFmt.ofInt (F : FFmt) (z e : Int) : Nat × FFlags :=
  if z = 0 then (F.zero false, fNone) else F.round (z < 0) z.natAbs e false

/-- The value times 2^k rounded to the nearest integer, ties to even; `none` for NaN or an infinity. -/
def FFmt.toIntN (F : FFmt) (x : Nat) (k : Int) : Option (Int × Bool) :=
  match F.val x with
  | .fin s m e =>
    let (t, nx) := roundAt m (e + k) 0 false
    some (if s then -(t : Int) else t, nx)
  | _ => none

/-- The exact value as numerator and power of two: value = z × 2^e; `none` for NaN or an infinity. -/
def FFmt.exactN (F : FFmt) (x : Nat) : Option (Int × Int) :=
  match F.val x with
  | .fin s m e => some (if s then -(m : Int) else m, e)
  | _ => none

/-! ### binary32 on words -/
/-- A binary32 result with its flags. -/
abbrev FRes := Word × FFlags

def w32 (r : Nat × FFlags) : FRes := (BitVec.ofNat 32 r.1, r.2)
def fadd (x y : Word) : FRes := w32 (f32.addN x.toNat y.toNat)
def fsub (x y : Word) : FRes := w32 (f32.subN x.toNat y.toNat)
def fmul (x y : Word) : FRes := w32 (f32.mulN x.toNat y.toNat)
def fdiv (x y : Word) : FRes := w32 (f32.divN x.toNat y.toNat)
def fsqrt (x : Word) : FRes := w32 (f32.sqrtN x.toNat)
def ffma (x y z : Word) : FRes := w32 (f32.fmaN x.toNat y.toNat z.toNat)
def fmin (x y : Word) : FRes := w32 (f32.minMaxN false x.toNat y.toNat)
def fmax (x y : Word) : FRes := w32 (f32.minMaxN true x.toNat y.toNat)
def fneg (x : Word) : Word := x ^^^ 0x80000000#32
def fabs (x : Word) : Word := x &&& 0x7FFFFFFF#32
def flt (x y : Word) : Bool := f32.ltN x.toNat y.toNat
def feq (x y : Word) : Bool := f32.eqN x.toNat y.toNat
def fle (x y : Word) : Bool := f32.leN x.toNat y.toNat
def fIsNan (x : Word) : Bool := (f32.val x.toNat).isNan
def fIsSNan (x : Word) : Bool := (f32.val x.toNat).isSNan
def fIsFinite (x : Word) : Bool := match f32.val x.toNat with
  | .fin _ _ _ => true
  | _ => false
def fOfInt (z : Int) : Word := BitVec.ofNat 32 (f32.ofInt z 0).1
/-- z × 2^e as binary32. -/
def fOfDyadic (z e : Int) : Word := BitVec.ofNat 32 (f32.ofInt z e).1
def fone : Word := 0x3F800000#32
def fqnan : Word := 0x7FC00000#32
def fNeg (x : Word) : Bool := x.getLsbD 31

end Sys2Proof.Machine
end

