-- ==== Sys2Proof/Machine/Bits.lean ====
section
/-! DEFINITION. Machine/Bits.lean: bit fields, sign extension, byte order, the canonical lists and the CRCs. -/
namespace Sys2Proof.Machine

/-- Bits hi..lo of a number. -/
def bitsOf (n hi lo : Nat) : Nat := n / 2 ^ lo % 2 ^ (hi + 1 - lo)

/-- Word `w` with bits hi..lo replaced by `v` (cut to the field). -/
def setField (w : Word) (hi lo v : Nat) : Word :=
  let m := 2 ^ (hi + 1 - lo)
  let n := w.toNat
  BitVec.ofNat 32 (n - n / 2 ^ lo % m * 2 ^ lo + v % m * 2 ^ lo)

/-- A two's complement reading of the low `w` bits of `n`. -/
def sextNat (w n : Nat) : Int :=
  let m := n % 2 ^ w
  if m < 2 ^ (w - 1) then (m : Int) else (m : Int) - 2 ^ w

/-- `z` modulo 2^w as a natural number. -/
def wrapInt (w : Nat) (z : Int) : Nat := (z % 2 ^ w).toNat

/-- `z` clamped to [lo, hi]. -/
def clampInt (lo hi z : Int) : Int := if z < lo then lo else if z > hi then hi else z

/-- num / den rounded to nearest, ties away from zero (R154). -/
def roundDiv (num : Int) (den : Nat) : Int :=
  if num ≥ 0 then (2 * num + den) / (2 * den) else -((2 * -num + den) / (2 * den))

/-- Little-endian bytes to a number (R7). -/
def leNat : List Byte → Nat
  | [] => 0
  | b :: r => b.toNat + 256 * leNat r

/-- A number as `n` little-endian bytes (R7). -/
def leBytes : Nat → Nat → List Byte
  | 0, _ => []
  | n + 1, v => BitVec.ofNat 8 v :: leBytes n (v / 256)

/-- Big-endian bytes to a number. -/
def beNat (l : List Byte) : Nat := l.foldl (fun a b => a * 256 + b.toNat) 0

/-- A number as `n` big-endian bytes. -/
def beBytes (n v : Nat) : List Byte := (leBytes n v).reverse

/-- Bytes [o, o+n) of a list, zero beyond its end. -/
def slice (l : List Byte) (o n : Nat) : List Byte :=
  let t := (l.drop o).take n
  t ++ List.replicate (n - t.length) 0

/-- Little-endian field at offset `o`, `n` bytes. -/
def leAt (l : List Byte) (o n : Nat) : Nat := leNat (slice l o n)

/-- Big-endian field at offset `o`, `n` bytes. -/
def beAt (l : List Byte) (o n : Nat) : Nat := beNat (slice l o n)

/-! ### Canonical lists: addresses strictly rising, no entry equal to what an unlisted address reads as -/
section
variable {α : Type} [DecidableEq α]

/-- The value at `k`, or `d` where none is listed. -/
def mget (d : α) : List (Nat × α) → Nat → α
  | [], _ => d
  | (a, v) :: r, k => if a = k then v else mget d r k

/-- Inserts a pair before the first greater key. -/
def minsert (k : Nat) (v : α) : List (Nat × α) → List (Nat × α)
  | [] => [(k, v)]
  | (a, w) :: r => if k < a then (k, v) :: (a, w) :: r else (a, w) :: minsert k v r

/-- Writes `v` at `k`; writing what an unlisted key reads as removes the entry. -/
def mset (d : α) (l : List (Nat × α)) (k : Nat) (v : α) : List (Nat × α) :=
  let r := l.filter (fun p => p.1 ≠ k)
  if v = d then r else minsert k v r

/-- Keys strictly rising and no entry equal to the default. -/
def mwf (d : Nat → α) : List (Nat × α) → Bool
  | [] => true
  | [(a, v)] => v ≠ d a
  | (a, v) :: (b, w) :: r => decide (a < b) && decide (v ≠ d a) && mwf d ((b, w) :: r)
end

/-! ### Cyclic redundancy checks -/
/-- One reflected CRC step per bit. -/
def crcReflBits (poly : Nat) : Nat → Nat → Nat
  | 0, c => c
  | n + 1, c => crcReflBits poly n (if c % 2 = 1 then (c / 2) ^^^ poly else c / 2)

/-- CRC-32, polynomial 0x04C1_1DB7 reflected, initial and final XOR 0xFFFF_FFFF (R70). -/
def crc32 (l : List Byte) : Nat :=
  (l.foldl (fun c b => crcReflBits 0xEDB88320 8 (c ^^^ b.toNat)) 0xFFFFFFFF) ^^^ 0xFFFFFFFF

/-- One most-significant-bit-first CRC step per bit, `w` bits wide. -/
def crcMsbBits (w poly : Nat) : Nat → Nat → Nat
  | 0, c => c
  | n + 1, c => crcMsbBits w poly n
      (if c / 2 ^ (w - 1) % 2 = 1 then ((c * 2) % 2 ^ w) ^^^ poly else c * 2 % 2 ^ w)

/-- A most-significant-bit-first CRC over bytes, `w` ≥ 8. -/
def crcMsb (w poly init : Nat) (l : List Byte) : Nat :=
  l.foldl (fun c b => crcMsbBits w poly 8 (c ^^^ (b.toNat * 2 ^ (w - 8)))) init

/-- A most-significant-bit-first CRC over single bits, first bit first. -/
def crcBits (w poly init : Nat) (l : List Bool) : Nat :=
  l.foldl (fun c b =>
    let t := (c / 2 ^ (w - 1) % 2 == 1) != b
    if t then ((c * 2) % 2 ^ w) ^^^ poly else c * 2 % 2 ^ w) init

end Sys2Proof.Machine
end

