-- ==== Sys2Proof/Machine/RegMap.lean ====
section
/-! DEFINITION. Machine/RegMap.lean: every register the register tables of the spec give, as a row (address,
instances, access masks, Reset column), an address function `R.<REGISTER>` and one `F.<REGISTER>_<FIELD>` per field.
The names are the spec's own, with dots and brackets written as underscores. -/
namespace Sys2Proof.Machine

/-- One field of one register: the address of its register and its bit range. -/
structure Fld where
  addr : Nat
  hi : Nat
  lo : Nat
  deriving DecidableEq, Repr

/-- One row of a register table (R9, R11, R24): first address, the strides and counts of its instances (largest stride
first), the masks of its access codes and its Reset column. A bit in no mask is `ro`. `step` is added to the reset once per instance;
`rig` masks the fields marked "rig". -/
structure RegRow where
  base : Nat
  dims : List (Nat × Nat)
  rw : Nat
  wo : Nat
  w1c : Nat
  rsv : Nat
  reset : Nat
  step : Nat := 0
  rig : Nat := 0
  deriving DecidableEq, Repr

/-! ### SYS -/
/-- R37. -/
abbrev R.SYS_DMA_SEL : Nat := 0x400000A0
abbrev F.SYS_DMA_SEL_IDX : Fld := ⟨R.SYS_DMA_SEL, 7, 0⟩
/-- R37. -/
abbrev R.SYS_DMA_BASE : Nat := 0x400000A4
abbrev F.SYS_DMA_BASE_ADDR : Fld := ⟨R.SYS_DMA_BASE, 31, 3⟩
/-- R37. -/
abbrev R.SYS_DMA_LEN : Nat := 0x400000A8
abbrev F.SYS_DMA_LEN_LEN : Fld := ⟨R.SYS_DMA_LEN, 20, 0⟩
/-- R40. -/
abbrev R.SYS_ID : Nat := 0x40000000
abbrev F.SYS_ID_PART : Fld := ⟨R.SYS_ID, 31, 16⟩
abbrev F.SYS_ID_DIE : Fld := ⟨R.SYS_ID, 15, 8⟩
/-- R40. -/
abbrev R.SYS_CLAIM_REQ : Nat := 0x40000004
abbrev F.SYS_CLAIM_REQ_OP : Fld := ⟨R.SYS_CLAIM_REQ, 31, 31⟩
abbrev F.SYS_CLAIM_REQ_OWNER : Fld := ⟨R.SYS_CLAIM_REQ, 23, 16⟩
abbrev F.SYS_CLAIM_REQ_RES : Fld := ⟨R.SYS_CLAIM_REQ, 15, 0⟩
/-- R40. -/
abbrev R.SYS_CLAIM_STAT : Nat := 0x40000008
abbrev F.SYS_CLAIM_STAT_BUSY : Fld := ⟨R.SYS_CLAIM_STAT, 31, 31⟩
abbrev F.SYS_CLAIM_STAT_HOLDER : Fld := ⟨R.SYS_CLAIM_STAT, 23, 16⟩
abbrev F.SYS_CLAIM_STAT_RESULT : Fld := ⟨R.SYS_CLAIM_STAT, 1, 0⟩
/-- R40. -/
abbrev R.SYS_CLAIM_QRY : Nat := 0x4000000C
abbrev F.SYS_CLAIM_QRY_RES : Fld := ⟨R.SYS_CLAIM_QRY, 15, 0⟩
/-- R40. -/
abbrev R.SYS_CLAIM_OWN : Nat := 0x40000010
abbrev F.SYS_CLAIM_OWN_OWNER : Fld := ⟨R.SYS_CLAIM_OWN, 7, 0⟩
/-- R40. -/
abbrev R.SYS_RETRY_T (k : Nat) : Nat := 0x40000020 + 0x4 * k
abbrev F.SYS_RETRY_T_COUNT (k : Nat) : Fld := ⟨R.SYS_RETRY_T k, 31, 0⟩
/-- R40. -/
abbrev R.SYS_RETRY_L (k : Nat) : Nat := 0x40000040 + 0x4 * k
abbrev F.SYS_RETRY_L_COUNT (k : Nat) : Fld := ⟨R.SYS_RETRY_L k, 31, 0⟩
/-- R40. -/
abbrev R.SYS_CNT_CLR : Nat := 0x40000060
abbrev F.SYS_CNT_CLR_ECC : Fld := ⟨R.SYS_CNT_CLR, 6, 6⟩
abbrev F.SYS_CNT_CLR_OVF : Fld := ⟨R.SYS_CNT_CLR, 5, 5⟩
abbrev F.SYS_CNT_CLR_RETRY : Fld := ⟨R.SYS_CNT_CLR, 4, 0⟩
/-- R40. -/
abbrev R.SYS_ECC_CE : Nat := 0x40000064
abbrev F.SYS_ECC_CE_COUNT : Fld := ⟨R.SYS_ECC_CE, 31, 0⟩
/-- R40. -/
abbrev R.SYS_FLT_CNT : Nat := 0x40000068
abbrev F.SYS_FLT_CNT_N : Fld := ⟨R.SYS_FLT_CNT, 6, 0⟩
/-- R40. -/
abbrev R.SYS_FLT_OVF : Nat := 0x4000006C
abbrev F.SYS_FLT_OVF_COUNT : Fld := ⟨R.SYS_FLT_OVF, 31, 0⟩
/-- R40. -/
abbrev R.SYS_FLT_IDX : Nat := 0x40000080
abbrev F.SYS_FLT_IDX_IDX : Fld := ⟨R.SYS_FLT_IDX, 5, 0⟩
/-- R40. -/
abbrev R.SYS_FLT_ENT0 : Nat := 0x40000084
abbrev F.SYS_FLT_ENT0_COUNT : Fld := ⟨R.SYS_FLT_ENT0, 31, 24⟩
abbrev F.SYS_FLT_ENT0_INST : Fld := ⟨R.SYS_FLT_ENT0, 23, 16⟩
abbrev F.SYS_FLT_ENT0_CODE : Fld := ⟨R.SYS_FLT_ENT0, 15, 0⟩
/-- R40. -/
abbrev R.SYS_FLT_ENT1 : Nat := 0x40000088
abbrev F.SYS_FLT_ENT1_SEC : Fld := ⟨R.SYS_FLT_ENT1, 31, 0⟩
/-- R40. -/
abbrev R.SYS_FLT_ENT2 : Nat := 0x4000008C
abbrev F.SYS_FLT_ENT2_NS : Fld := ⟨R.SYS_FLT_ENT2, 29, 0⟩
/-! ### AON -/
/-- R465. -/
abbrev R.AON_SET : Nat := 0x40010000
abbrev F.AON_SET_STUCK_S : Fld := ⟨R.AON_SET, 15, 8⟩
abbrev F.AON_SET_STUCK_EN : Fld := ⟨R.AON_SET, 2, 2⟩
abbrev F.AON_SET_RIGPIN_EN : Fld := ⟨R.AON_SET, 0, 0⟩
/-- R465. -/
abbrev R.AON_RIG : Nat := 0x40010004
abbrev F.AON_RIG_NONE : Fld := ⟨R.AON_RIG, 11, 11⟩
abbrev F.AON_RIG_ACTIVE : Fld := ⟨R.AON_RIG, 10, 8⟩
abbrev F.AON_RIG_PINS : Fld := ⟨R.AON_RIG, 5, 3⟩
abbrev F.AON_RIG_LAST : Fld := ⟨R.AON_RIG, 2, 0⟩
/-- R465. -/
abbrev R.AON_PWRCTL : Nat := 0x40010008
abbrev F.AON_PWRCTL_REST : Fld := ⟨R.AON_PWRCTL, 31, 31⟩
abbrev F.AON_PWRCTL_READY : Fld := ⟨R.AON_PWRCTL, 30, 30⟩
abbrev F.AON_PWRCTL_LRET : Fld := ⟨R.AON_PWRCTL, 2, 0⟩
/-- R465. -/
abbrev R.AON_IDLE : Nat := 0x4001000C
abbrev F.AON_IDLE_MS : Fld := ⟨R.AON_IDLE, 23, 0⟩
/-- R465. -/
abbrev R.AON_PWRSTAT : Nat := 0x40010010
abbrev F.AON_PWRSTAT_DOM : Fld := ⟨R.AON_PWRSTAT, 17, 4⟩
abbrev F.AON_PWRSTAT_STATE : Fld := ⟨R.AON_PWRSTAT, 2, 0⟩
/-- R465. -/
abbrev R.AON_WAKE : Nat := 0x40010014
abbrev F.AON_WAKE_LAST : Fld := ⟨R.AON_WAKE, 19, 16⟩
abbrev F.AON_WAKE_EN : Fld := ⟨R.AON_WAKE, 3, 0⟩
/-- R465. -/
abbrev R.AON_RTC_L : Nat := 0x40010018
abbrev F.AON_RTC_L_S : Fld := ⟨R.AON_RTC_L, 31, 0⟩
/-- R465. -/
abbrev R.AON_RTC_H : Nat := 0x4001001C
abbrev F.AON_RTC_H_SYNC : Fld := ⟨R.AON_RTC_H, 16, 16⟩
abbrev F.AON_RTC_H_S : Fld := ⟨R.AON_RTC_H, 15, 0⟩
/-- R465. -/
abbrev R.AON_ALARM_L : Nat := 0x40010020
abbrev F.AON_ALARM_L_S : Fld := ⟨R.AON_ALARM_L, 31, 0⟩
/-- R465. -/
abbrev R.AON_ALARM_H : Nat := 0x40010024
abbrev F.AON_ALARM_H_S : Fld := ⟨R.AON_ALARM_H, 15, 0⟩
/-- R465. -/
abbrev R.AON_WDT : Nat := 0x40010028
abbrev F.AON_WDT_KICK : Fld := ⟨R.AON_WDT, 31, 24⟩
abbrev F.AON_WDT_PERIOD : Fld := ⟨R.AON_WDT, 13, 0⟩
/-- R465. -/
abbrev R.AON_TRIP : Nat := 0x4001002C
abbrev F.AON_TRIP_BTRIP : Fld := ⟨R.AON_TRIP, 1, 1⟩
abbrev F.AON_TRIP_THREST : Fld := ⟨R.AON_TRIP, 0, 0⟩
/-! ### RESET -/
/-- R466. -/
abbrev R.RESET_CAUSE : Nat := 0x40020000
abbrev F.RESET_CAUSE_CODE : Fld := ⟨R.RESET_CAUSE, 15, 0⟩
/-- R466. -/
abbrev R.RESET_CTL : Nat := 0x40020004
abbrev F.RESET_CTL_KEY : Fld := ⟨R.RESET_CTL, 15, 8⟩
abbrev F.RESET_CTL_SWRST : Fld := ⟨R.RESET_CTL, 0, 0⟩
/-- R466. -/
abbrev R.RESET_STUCK : Nat := 0x40020008
abbrev F.RESET_STUCK_STUCKSEEN : Fld := ⟨R.RESET_STUCK, 1, 1⟩
abbrev F.RESET_STUCK_IGN : Fld := ⟨R.RESET_STUCK, 0, 0⟩
/-- R466. -/
abbrev R.RESET_CNT (c : Nat) : Nat := 0x40020040 + 0x4 * c
abbrev F.RESET_CNT_COUNT (c : Nat) : Fld := ⟨R.RESET_CNT c, 31, 0⟩
/-! ### HK -/
/-- R500. -/
abbrev R.HK_STAT : Nat := 0x40030000
abbrev F.HK_STAT_WIN : Fld := ⟨R.HK_STAT, 2, 2⟩
abbrev F.HK_STAT_LEVEL : Fld := ⟨R.HK_STAT, 1, 0⟩
/-- R500. -/
abbrev R.HK_TMAX : Nat := 0x40030004
abbrev F.HK_TMAX_T : Fld := ⟨R.HK_TMAX, 15, 0⟩
/-- R500. -/
abbrev R.HK_THR : Nat := 0x40030008
abbrev F.HK_THR_PAUSE : Fld := ⟨R.HK_THR, 7, 0⟩
/-- R500. -/
abbrev R.HK_ROUNDS : Nat := 0x4003000C
abbrev F.HK_ROUNDS_COUNT : Fld := ⟨R.HK_ROUNDS, 31, 0⟩
/-- R500. -/
abbrev R.HK_EVT : Nat := 0x40030010
abbrev F.HK_EVT_LIMIT : Fld := ⟨R.HK_EVT, 2, 2⟩
abbrev F.HK_EVT_WINCHG : Fld := ⟨R.HK_EVT, 1, 1⟩
abbrev F.HK_EVT_LEVELCHG : Fld := ⟨R.HK_EVT, 0, 0⟩
/-- R500. -/
abbrev R.HK_OUT_L : Nat := 0x40030014
abbrev F.HK_OUT_L_OUT : Fld := ⟨R.HK_OUT_L, 31, 0⟩
/-- R500. -/
abbrev R.HK_OUT_H : Nat := 0x40030018
abbrev F.HK_OUT_H_OUT : Fld := ⟨R.HK_OUT_H, 15, 0⟩
/-- R500. -/
abbrev R.HK_CH (c : Nat) : Nat := 0x40030100 + 0x4 * c
abbrev F.HK_CH_VALID (c : Nat) : Fld := ⟨R.HK_CH c, 31, 31⟩
abbrev F.HK_CH_V (c : Nat) : Fld := ⟨R.HK_CH c, 15, 0⟩
/-- R500. -/
abbrev R.HK_LIM (c : Nat) : Nat := 0x40030200 + 0x4 * c
abbrev F.HK_LIM_HI (c : Nat) : Fld := ⟨R.HK_LIM c, 31, 16⟩
abbrev F.HK_LIM_LO (c : Nat) : Fld := ⟨R.HK_LIM c, 15, 0⟩
/-! ### SAFETY -/
/-- R324. -/
abbrev R.SAFETY_ID : Nat := 0x40040000
abbrev F.SAFETY_ID_BREV : Fld := ⟨R.SAFETY_ID, 15, 8⟩
abbrev F.SAFETY_ID_AREV : Fld := ⟨R.SAFETY_ID, 7, 0⟩
/-- R324. -/
abbrev R.SAFETY_ISL : Nat := 0x40040004
abbrev F.SAFETY_ISL_PB_OK : Fld := ⟨R.SAFETY_ISL, 9, 9⟩
abbrev F.SAFETY_ISL_PA_OK : Fld := ⟨R.SAFETY_ISL, 8, 8⟩
abbrev F.SAFETY_ISL_BST : Fld := ⟨R.SAFETY_ISL, 7, 4⟩
abbrev F.SAFETY_ISL_AST : Fld := ⟨R.SAFETY_ISL, 3, 0⟩
/-- R324. -/
abbrev R.SAFETY_CRC_A : Nat := 0x40040008
abbrev F.SAFETY_CRC_A_CRC : Fld := ⟨R.SAFETY_CRC_A, 31, 0⟩
/-- R324. -/
abbrev R.SAFETY_CRC_B : Nat := 0x4004000C
abbrev F.SAFETY_CRC_B_CRC : Fld := ⟨R.SAFETY_CRC_B, 31, 0⟩
/-- R324. -/
abbrev R.SAFETY_PID : Nat := 0x40040010
abbrev F.SAFETY_PID_ID : Fld := ⟨R.SAFETY_PID, 31, 0⟩
/-- R324. -/
abbrev R.SAFETY_GREQ : Nat := 0x40040014
abbrev F.SAFETY_GREQ_REQ : Fld := ⟨R.SAFETY_GREQ, 31, 0⟩
/-- R324. -/
abbrev R.SAFETY_MISC : Nat := 0x40040018
abbrev F.SAFETY_MISC_THREQ : Fld := ⟨R.SAFETY_MISC, 8, 8⟩
abbrev F.SAFETY_MISC_TPOACT : Fld := ⟨R.SAFETY_MISC, 7, 4⟩
abbrev F.SAFETY_MISC_TPOF : Fld := ⟨R.SAFETY_MISC, 3, 0⟩
/-- R324. -/
abbrev R.SAFETY_SI (i : Nat) : Nat := 0x40040040 + 0x4 * i
abbrev F.SAFETY_SI_RSTHOLD (i : Nat) : Fld := ⟨R.SAFETY_SI i, 8, 8⟩
abbrev F.SAFETY_SI_TPFLT (i : Nat) : Fld := ⟨R.SAFETY_SI i, 7, 7⟩
abbrev F.SAFETY_SI_DISC (i : Nat) : Fld := ⟨R.SAFETY_SI i, 6, 6⟩
abbrev F.SAFETY_SI_DEMAND (i : Nat) : Fld := ⟨R.SAFETY_SI i, 5, 5⟩
abbrev F.SAFETY_SI_PULSE (i : Nat) : Fld := ⟨R.SAFETY_SI i, 4, 4⟩
abbrev F.SAFETY_SI_BRAW (i : Nat) : Fld := ⟨R.SAFETY_SI i, 3, 3⟩
abbrev F.SAFETY_SI_ARAW (i : Nat) : Fld := ⟨R.SAFETY_SI i, 2, 2⟩
abbrev F.SAFETY_SI_BFILT (i : Nat) : Fld := ⟨R.SAFETY_SI i, 1, 1⟩
abbrev F.SAFETY_SI_AFILT (i : Nat) : Fld := ⟨R.SAFETY_SI i, 0, 0⟩
/-- R324. -/
abbrev R.SAFETY_GRP_STAT (g : Nat) : Nat := 0x40040080 + 0x10 * g
abbrev F.SAFETY_GRP_STAT_CAUSE (g : Nat) : Fld := ⟨R.SAFETY_GRP_STAT g, 19, 16⟩
abbrev F.SAFETY_GRP_STAT_NOTICE (g : Nat) : Fld := ⟨R.SAFETY_GRP_STAT g, 13, 13⟩
abbrev F.SAFETY_GRP_STAT_SBCPEND (g : Nat) : Fld := ⟨R.SAFETY_GRP_STAT g, 12, 12⟩
abbrev F.SAFETY_GRP_STAT_STOB (g : Nat) : Fld := ⟨R.SAFETY_GRP_STAT g, 11, 11⟩
abbrev F.SAFETY_GRP_STAT_STOA (g : Nat) : Fld := ⟨R.SAFETY_GRP_STAT g, 10, 10⟩
abbrev F.SAFETY_GRP_STAT_BSTATE (g : Nat) : Fld := ⟨R.SAFETY_GRP_STAT g, 6, 4⟩
abbrev F.SAFETY_GRP_STAT_ASTATE (g : Nat) : Fld := ⟨R.SAFETY_GRP_STAT g, 2, 0⟩
/-- R324. -/
abbrev R.SAFETY_GRP_SPD (g : Nat) : Nat := 0x40040084 + 0x10 * g
abbrev F.SAFETY_GRP_SPD_B (g : Nat) : Fld := ⟨R.SAFETY_GRP_SPD g, 31, 16⟩
abbrev F.SAFETY_GRP_SPD_A (g : Nat) : Fld := ⟨R.SAFETY_GRP_SPD g, 15, 0⟩
/-- R324. -/
abbrev R.SAFETY_GRP_SS1T (g : Nat) : Nat := 0x40040088 + 0x10 * g
abbrev F.SAFETY_GRP_SS1T_MS (g : Nat) : Fld := ⟨R.SAFETY_GRP_SS1T g, 15, 0⟩
/-- R324. -/
abbrev R.SAFETY_GRP_DEMCNT (g : Nat) : Nat := 0x4004008C + 0x10 * g
abbrev F.SAFETY_GRP_DEMCNT_COUNT (g : Nat) : Fld := ⟨R.SAFETY_GRP_DEMCNT g, 31, 0⟩
/-- R324. -/
abbrev R.SAFETY_SBO (b : Nat) : Nat := 0x40040100 + 0x4 * b
abbrev F.SAFETY_SBO_REQ (b : Nat) : Fld := ⟨R.SAFETY_SBO b, 3, 3⟩
abbrev F.SAFETY_SBO_FLT (b : Nat) : Fld := ⟨R.SAFETY_SBO b, 2, 2⟩
abbrev F.SAFETY_SBO_B (b : Nat) : Fld := ⟨R.SAFETY_SBO b, 1, 1⟩
abbrev F.SAFETY_SBO_A (b : Nat) : Fld := ⟨R.SAFETY_SBO b, 0, 0⟩
/-! ### MOD -/
/-- R182. -/
abbrev R.MOD_STAT : Nat := 0x40050000
abbrev F.MOD_STAT_NRUN : Fld := ⟨R.MOD_STAT, 13, 8⟩
abbrev F.MOD_STAT_ON : Fld := ⟨R.MOD_STAT, 0, 0⟩
/-- R182. -/
abbrev R.MOD_TB : Nat := 0x40050004
abbrev F.MOD_TB_COUNT : Fld := ⟨R.MOD_TB, 31, 0⟩
/-- R182. -/
abbrev R.MOD_TBUSE : Nat := 0x40050008
abbrev F.MOD_TBUSE_USE : Fld := ⟨R.MOD_TBUSE, 15, 0⟩
/-- R182. -/
abbrev R.MOD_NANCNT : Nat := 0x4005000C
abbrev F.MOD_NANCNT_COUNT : Fld := ⟨R.MOD_NANCNT, 31, 0⟩
/-- R182. -/
abbrev R.MOD_SHOOTCNT : Nat := 0x40050010
abbrev F.MOD_SHOOTCNT_COUNT : Fld := ⟨R.MOD_SHOOTCNT, 31, 0⟩
/-- R182. -/
abbrev R.MOD_TBL_ADDR : Nat := 0x40051000
abbrev F.MOD_TBL_ADDR_TABLE : Fld := ⟨R.MOD_TBL_ADDR, 17, 14⟩
abbrev F.MOD_TBL_ADDR_INDEX : Fld := ⟨R.MOD_TBL_ADDR, 13, 0⟩
/-- R182. -/
abbrev R.MOD_TBL_DATA : Nat := 0x40051004
abbrev F.MOD_TBL_DATA_DATA : Fld := ⟨R.MOD_TBL_DATA, 31, 0⟩
/-! ### LEG -/
/-- R183. -/
abbrev R.LEG_CTL (x : Nat) : Nat := 0x40060000 + 0x400 * x
abbrev F.LEG_CTL_OWNER (x : Nat) : Fld := ⟨R.LEG_CTL x, 15, 8⟩
abbrev F.LEG_CTL_CPEN (x : Nat) : Fld := ⟨R.LEG_CTL x, 2, 2⟩
abbrev F.LEG_CTL_MODE (x : Nat) : Fld := ⟨R.LEG_CTL x, 1, 0⟩
/-- R183. -/
abbrev R.LEG_DT (x : Nat) : Nat := 0x40060004 + 0x400 * x
abbrev F.LEG_DT_DT_HL (x : Nat) : Fld := ⟨R.LEG_DT x, 25, 16⟩
abbrev F.LEG_DT_DT_LH (x : Nat) : Fld := ⟨R.LEG_DT x, 9, 0⟩
/-- R183. -/
abbrev R.LEG_MINPW (x : Nat) : Nat := 0x40060008 + 0x400 * x
abbrev F.LEG_MINPW_PW (x : Nat) : Fld := ⟨R.LEG_MINPW x, 7, 0⟩
/-- R183. -/
abbrev R.LEG_BOOT (x : Nat) : Nat := 0x4006000C + 0x400 * x
abbrev F.LEG_BOOT_TBMAX (x : Nat) : Fld := ⟨R.LEG_BOOT x, 31, 16⟩
abbrev F.LEG_BOOT_REFW (x : Nat) : Fld := ⟨R.LEG_BOOT x, 11, 0⟩
/-- R183. -/
abbrev R.LEG_RAW (x : Nat) : Nat := 0x40060010 + 0x400 * x
abbrev F.LEG_RAW_LS (x : Nat) : Fld := ⟨R.LEG_RAW x, 1, 1⟩
abbrev F.LEG_RAW_HS (x : Nat) : Fld := ⟨R.LEG_RAW x, 0, 0⟩
/-- R183. -/
abbrev R.LEG_LVL (x : Nat) : Nat := 0x40060014 + 0x400 * x
abbrev F.LEG_LVL_LASTING (x : Nat) : Fld := ⟨R.LEG_LVL x, 4, 4⟩
abbrev F.LEG_LVL_LOCK (x : Nat) : Fld := ⟨R.LEG_LVL x, 3, 3⟩
abbrev F.LEG_LVL_DTW (x : Nat) : Fld := ⟨R.LEG_LVL x, 2, 2⟩
abbrev F.LEG_LVL_LS (x : Nat) : Fld := ⟨R.LEG_LVL x, 1, 1⟩
abbrev F.LEG_LVL_HS (x : Nat) : Fld := ⟨R.LEG_LVL x, 0, 0⟩
/-- R183. -/
abbrev R.LEG_CMP (x : Nat) : Nat := 0x40060018 + 0x400 * x
abbrev F.LEG_CMP_C (x : Nat) : Fld := ⟨R.LEG_CMP x, 19, 0⟩
/-- R183. -/
abbrev R.LEG_EVT (x : Nat) : Nat := 0x4006001C + 0x400 * x
abbrev F.LEG_EVT_PDROP (x : Nat) : Fld := ⟨R.LEG_EVT x, 2, 2⟩
abbrev F.LEG_EVT_BOOTCAP (x : Nat) : Fld := ⟨R.LEG_EVT x, 1, 1⟩
abbrev F.LEG_EVT_SHOOT (x : Nat) : Fld := ⟨R.LEG_EVT x, 0, 0⟩
/-- R183. -/
abbrev R.LEG_SHOOTCNT (x : Nat) : Nat := 0x40060020 + 0x400 * x
abbrev F.LEG_SHOOTCNT_COUNT (x : Nat) : Fld := ⟨R.LEG_SHOOTCNT x, 31, 0⟩
/-- R183. -/
abbrev R.LEG_REFCNT (x : Nat) : Nat := 0x40060024 + 0x400 * x
abbrev F.LEG_REFCNT_COUNT (x : Nat) : Fld := ⟨R.LEG_REFCNT x, 31, 0⟩
/-- R183. -/
abbrev R.LEG_PDROPCNT (x : Nat) : Nat := 0x40060028 + 0x400 * x
abbrev F.LEG_PDROPCNT_COUNT (x : Nat) : Fld := ⟨R.LEG_PDROPCNT x, 31, 0⟩
/-- R183. -/
abbrev R.LEG_EDGECNT (x : Nat) : Nat := 0x4006002C + 0x400 * x
abbrev F.LEG_EDGECNT_COUNT (x : Nat) : Fld := ⟨R.LEG_EDGECNT x, 31, 0⟩
/-! ### CREW -/
/-- R184. -/
abbrev R.CREW_CTL (n : Nat) : Nat := 0x40070000 + 0x800 * n
abbrev F.CREW_CTL_STOP (n : Nat) : Fld := ⟨R.CREW_CTL n, 1, 1⟩
abbrev F.CREW_CTL_START (n : Nat) : Fld := ⟨R.CREW_CTL n, 0, 0⟩
/-- R184. -/
abbrev R.CREW_CFG (n : Nat) : Nat := 0x40070004 + 0x800 * n
abbrev F.CREW_CFG_REV (n : Nat) : Fld := ⟨R.CREW_CFG n, 27, 27⟩
abbrev F.CREW_CFG_SIX (n : Nat) : Fld := ⟨R.CREW_CFG n, 26, 26⟩
abbrev F.CREW_CFG_PROJ (n : Nat) : Fld := ⟨R.CREW_CFG n, 25, 25⟩
abbrev F.CREW_CFG_REJOIN (n : Nat) : Fld := ⟨R.CREW_CFG n, 24, 24⟩
abbrev F.CREW_CFG_CDIV (n : Nat) : Fld := ⟨R.CREW_CFG n, 23, 20⟩
abbrev F.CREW_CFG_CATCH (n : Nat) : Fld := ⟨R.CREW_CFG n, 19, 18⟩
abbrev F.CREW_CFG_UPD (n : Nat) : Fld := ⟨R.CREW_CFG n, 17, 16⟩
abbrev F.CREW_CFG_FSMODE (n : Nat) : Fld := ⟨R.CREW_CFG n, 15, 14⟩
abbrev F.CREW_CFG_DERATE (n : Nat) : Fld := ⟨R.CREW_CFG n, 13, 13⟩
abbrev F.CREW_CFG_MMIN (n : Nat) : Fld := ⟨R.CREW_CFG n, 11, 8⟩
abbrev F.CREW_CFG_M (n : Nat) : Fld := ⟨R.CREW_CFG n, 7, 4⟩
abbrev F.CREW_CFG_KIND (n : Nat) : Fld := ⟨R.CREW_CFG n, 2, 0⟩
/-- R184. -/
abbrev R.CREW_CPER (n : Nat) : Nat := 0x40070008 + 0x800 * n
abbrev F.CREW_CPER_PERIOD (n : Nat) : Fld := ⟨R.CREW_CPER n, 20, 0⟩
/-- R184. -/
abbrev R.CREW_CDLY (n : Nat) : Nat := 0x4007000C + 0x800 * n
abbrev F.CREW_CDLY_DLY (n : Nat) : Fld := ⟨R.CREW_CDLY n, 15, 0⟩
/-- R184. -/
abbrev R.CREW_TILE (n : Nat) : Nat := 0x40070010 + 0x800 * n
abbrev F.CREW_TILE_T0T7 (n : Nat) : Fld := ⟨R.CREW_TILE n, 31, 0⟩
/-- R184. -/
abbrev R.CREW_POSN (n : Nat) : Nat := 0x40070014 + 0x800 * n
abbrev F.CREW_POSN_P0P7 (n : Nat) : Fld := ⟨R.CREW_POSN n, 15, 0⟩
/-- R184. -/
abbrev R.CREW_TBL (n : Nat) : Nat := 0x40070018 + 0x800 * n
abbrev F.CREW_TBL_TABLE (n : Nat) : Fld := ⟨R.CREW_TBL n, 3, 0⟩
/-- R184. -/
abbrev R.CREW_DLIM (n : Nat) : Nat := 0x4007001C + 0x800 * n
abbrev F.CREW_DLIM_DMAX (n : Nat) : Fld := ⟨R.CREW_DLIM n, 31, 16⟩
abbrev F.CREW_DLIM_DMIN (n : Nat) : Fld := ⟨R.CREW_DLIM n, 15, 0⟩
/-- R184. -/
abbrev R.CREW_PRECH (n : Nat) : Nat := 0x40070020 + 0x800 * n
abbrev F.CREW_PRECH_US (n : Nat) : Fld := ⟨R.CREW_PRECH n, 9, 0⟩
/-- R184. -/
abbrev R.CREW_ASRC (n : Nat) : Nat := 0x40070024 + 0x800 * n
abbrev F.CREW_ASRC_SRC (n : Nat) : Fld := ⟨R.CREW_ASRC n, 1, 0⟩
/-- R184. -/
abbrev R.CREW_ANG (n : Nat) : Nat := 0x40070028 + 0x800 * n
abbrev F.CREW_ANG_ANG (n : Nat) : Fld := ⟨R.CREW_ANG n, 31, 0⟩
/-- R184. -/
abbrev R.CREW_SPD (n : Nat) : Nat := 0x4007002C + 0x800 * n
abbrev F.CREW_SPD_INC (n : Nat) : Fld := ⟨R.CREW_SPD n, 31, 0⟩
/-- R184. -/
abbrev R.CREW_ANGSET (n : Nat) : Nat := 0x40070030 + 0x800 * n
abbrev F.CREW_ANGSET_ANG (n : Nat) : Fld := ⟨R.CREW_ANGSET n, 31, 0⟩
/-- R184. -/
abbrev R.CREW_CMD_OFS (n : Nat) : Nat := 0x40070034 + 0x800 * n
abbrev F.CREW_CMD_OFS_OFS (n : Nat) : Fld := ⟨R.CREW_CMD_OFS n, 31, 0⟩
/-- R184. -/
abbrev R.CREW_CMD_AMP (n : Nat) : Nat := 0x40070038 + 0x800 * n
abbrev F.CREW_CMD_AMP_AMP (n : Nat) : Fld := ⟨R.CREW_CMD_AMP n, 31, 0⟩
/-- R184. -/
abbrev R.CREW_OFS_ACT (n : Nat) : Nat := 0x4007003C + 0x800 * n
abbrev F.CREW_OFS_ACT_OFS (n : Nat) : Fld := ⟨R.CREW_OFS_ACT n, 31, 0⟩
/-- R184. -/
abbrev R.CREW_AMP_ACT (n : Nat) : Nat := 0x40070040 + 0x800 * n
abbrev F.CREW_AMP_ACT_AMP (n : Nat) : Fld := ⟨R.CREW_AMP_ACT n, 31, 0⟩
/-- R184. -/
abbrev R.CREW_STAT (n : Nat) : Nat := 0x40070044 + 0x800 * n
abbrev F.CREW_STAT_FLT (n : Nat) : Fld := ⟨R.CREW_STAT n, 20, 20⟩
abbrev F.CREW_STAT_LEAD (n : Nat) : Fld := ⟨R.CREW_STAT n, 19, 19⟩
abbrev F.CREW_STAT_SEAMST (n : Nat) : Fld := ⟨R.CREW_STAT n, 18, 16⟩
abbrev F.CREW_STAT_SETS (n : Nat) : Fld := ⟨R.CREW_STAT n, 15, 8⟩
abbrev F.CREW_STAT_MACT (n : Nat) : Fld := ⟨R.CREW_STAT n, 7, 4⟩
abbrev F.CREW_STAT_STATE (n : Nat) : Fld := ⟨R.CREW_STAT n, 2, 0⟩
/-- R184. -/
abbrev R.CREW_EVT (n : Nat) : Nat := 0x40070048 + 0x800 * n
abbrev F.CREW_EVT_LEADCHG (n : Nat) : Fld := ⟨R.CREW_EVT n, 7, 7⟩
abbrev F.CREW_EVT_SEAMCHG (n : Nat) : Fld := ⟨R.CREW_EVT n, 6, 6⟩
abbrev F.CREW_EVT_FSTOP (n : Nat) : Fld := ⟨R.CREW_EVT n, 5, 5⟩
abbrev F.CREW_EVT_AMPNAN (n : Nat) : Fld := ⟨R.CREW_EVT n, 4, 4⟩
abbrev F.CREW_EVT_BOOTCAP (n : Nat) : Fld := ⟨R.CREW_EVT n, 3, 3⟩
abbrev F.CREW_EVT_SHOOT (n : Nat) : Fld := ⟨R.CREW_EVT n, 2, 2⟩
abbrev F.CREW_EVT_SETJOIN (n : Nat) : Fld := ⟨R.CREW_EVT n, 1, 1⟩
abbrev F.CREW_EVT_SETDROP (n : Nat) : Fld := ⟨R.CREW_EVT n, 0, 0⟩
/-- R184. -/
abbrev R.CREW_DRATE (n : Nat) : Nat := 0x4007004C + 0x800 * n
abbrev F.CREW_DRATE_K (n : Nat) : Fld := ⟨R.CREW_DRATE n, 31, 0⟩
/-- R184. -/
abbrev R.CREW_CSEQ (n : Nat) : Nat := 0x40070050 + 0x800 * n
abbrev F.CREW_CSEQ_SEQ (n : Nat) : Fld := ⟨R.CREW_CSEQ n, 31, 0⟩
/-- R184. -/
abbrev R.CREW_FCAUSE (n : Nat) : Nat := 0x40070054 + 0x800 * n
abbrev F.CREW_FCAUSE_CODE (n : Nat) : Fld := ⟨R.CREW_FCAUSE n, 15, 0⟩
/-- R184. -/
abbrev R.CREW_IPH (n k : Nat) : Nat := 0x40070060 + 0x800 * n + 0x4 * k
abbrev F.CREW_IPH_I (n k : Nat) : Fld := ⟨R.CREW_IPH n k, 31, 0⟩
/-- R184. -/
abbrev R.CREW_SHARE (n : Nat) : Nat := 0x40070080 + 0x800 * n
abbrev F.CREW_SHARE_EN (n : Nat) : Fld := ⟨R.CREW_SHARE n, 24, 24⟩
abbrev F.CREW_SHARE_LIM (n : Nat) : Fld := ⟨R.CREW_SHARE n, 23, 16⟩
abbrev F.CREW_SHARE_KS (n : Nat) : Fld := ⟨R.CREW_SHARE n, 15, 0⟩
/-- R184. -/
abbrev R.CREW_TRIM (n i : Nat) : Nat := 0x400700C0 + 0x800 * n + 0x4 * i
abbrev F.CREW_TRIM_D (n i : Nat) : Fld := ⟨R.CREW_TRIM n i, 31, 0⟩
/-- R184. -/
abbrev R.CREW_CHOP (n : Nat) : Nat := 0x40070120 + 0x800 * n
abbrev F.CREW_CHOP_DMODE (n : Nat) : Fld := ⟨R.CREW_CHOP n, 24, 24⟩
abbrev F.CREW_CHOP_BLANK (n : Nat) : Fld := ⟨R.CREW_CHOP n, 23, 16⟩
abbrev F.CREW_CHOP_TOFF (n : Nat) : Fld := ⟨R.CREW_CHOP n, 13, 8⟩
abbrev F.CREW_CHOP_FDF (n : Nat) : Fld := ⟨R.CREW_CHOP n, 6, 0⟩
/-- R184. -/
abbrev R.CREW_IREF (n : Nat) : Nat := 0x40070124 + 0x800 * n
abbrev F.CREW_IREF_I (n : Nat) : Fld := ⟨R.CREW_IREF n, 15, 0⟩
/-- R184. -/
abbrev R.CREW_DUMP (n : Nat) : Nat := 0x40070128 + 0x800 * n
abbrev F.CREW_DUMP_VOFF (n : Nat) : Fld := ⟨R.CREW_DUMP n, 31, 16⟩
abbrev F.CREW_DUMP_VON (n : Nat) : Fld := ⟨R.CREW_DUMP n, 15, 0⟩
/-- R184. -/
abbrev R.CREW_TANDEM (n : Nat) : Nat := 0x40070140 + 0x800 * n
abbrev F.CREW_TANDEM_CSYNC (n : Nat) : Fld := ⟨R.CREW_TANDEM n, 6, 6⟩
abbrev F.CREW_TANDEM_LEADLOSS (n : Nat) : Fld := ⟨R.CREW_TANDEM n, 5, 5⟩
abbrev F.CREW_TANDEM_LEADER (n : Nat) : Fld := ⟨R.CREW_TANDEM n, 4, 4⟩
abbrev F.CREW_TANDEM_EN (n : Nat) : Fld := ⟨R.CREW_TANDEM n, 3, 3⟩
abbrev F.CREW_TANDEM_GROUP (n : Nat) : Fld := ⟨R.CREW_TANDEM n, 2, 0⟩
/-- R184. -/
abbrev R.CREW_TQREF (n : Nat) : Nat := 0x40070144 + 0x800 * n
abbrev F.CREW_TQREF_T (n : Nat) : Fld := ⟨R.CREW_TQREF n, 31, 0⟩
/-- R184. -/
abbrev R.CREW_TQIN (n : Nat) : Nat := 0x40070148 + 0x800 * n
abbrev F.CREW_TQIN_T (n : Nat) : Fld := ⟨R.CREW_TQIN n, 31, 0⟩
/-- R184. -/
abbrev R.CREW_TRATIO (n : Nat) : Nat := 0x4007014C + 0x800 * n
abbrev F.CREW_TRATIO_R (n : Nat) : Fld := ⟨R.CREW_TRATIO n, 31, 0⟩
/-- R184. -/
abbrev R.CREW_TDROOP (n : Nat) : Nat := 0x40070150 + 0x800 * n
abbrev F.CREW_TDROOP_D (n : Nat) : Fld := ⟨R.CREW_TDROOP n, 31, 0⟩
/-- R184. -/
abbrev R.CREW_SEAM (n : Nat) : Nat := 0x40070160 + 0x800 * n
abbrev F.CREW_SEAM_SLEW (n : Nat) : Fld := ⟨R.CREW_SEAM n, 23, 20⟩
abbrev F.CREW_SEAM_MTOT (n : Nat) : Fld := ⟨R.CREW_SEAM n, 17, 12⟩
abbrev F.CREW_SEAM_GIDX0 (n : Nat) : Fld := ⟨R.CREW_SEAM n, 8, 4⟩
abbrev F.CREW_SEAM_EN (n : Nat) : Fld := ⟨R.CREW_SEAM n, 0, 0⟩
/-- R184. -/
abbrev R.CREW_SEAM_EPOCH (n : Nat) : Nat := 0x40070164 + 0x800 * n
abbrev F.CREW_SEAM_EPOCH_E (n : Nat) : Fld := ⟨R.CREW_SEAM_EPOCH n, 20, 0⟩
/-- R184. -/
abbrev R.CREW_SEAM_ERR (n : Nat) : Nat := 0x40070168 + 0x800 * n
abbrev F.CREW_SEAM_ERR_E (n : Nat) : Fld := ⟨R.CREW_SEAM_ERR n, 31, 0⟩
/-- R184. -/
abbrev R.CREW_SEAM_HOLD (n : Nat) : Nat := 0x4007016C + 0x800 * n
abbrev F.CREW_SEAM_HOLD_MS (n : Nat) : Fld := ⟨R.CREW_SEAM_HOLD n, 11, 0⟩
/-- R263. -/
abbrev R.CREW_ILIM (n : Nat) : Nat := 0x40070180 + 0x800 * n
abbrev F.CREW_ILIM_I (n : Nat) : Fld := ⟨R.CREW_ILIM n, 31, 0⟩
/-- R263. -/
abbrev R.CREW_TQLIM (n : Nat) : Nat := 0x40070184 + 0x800 * n
abbrev F.CREW_TQLIM_T (n : Nat) : Fld := ⟨R.CREW_TQLIM n, 31, 0⟩
/-- R263. -/
abbrev R.CREW_TQOVL (n : Nat) : Nat := 0x40070188 + 0x800 * n
abbrev F.CREW_TQOVL_T (n : Nat) : Fld := ⟨R.CREW_TQOVL n, 31, 0⟩
/-- R263. -/
abbrev R.CREW_TQIND (n : Nat) : Nat := 0x4007018C + 0x800 * n
abbrev F.CREW_TQIND_T (n : Nat) : Fld := ⟨R.CREW_TQIND n, 31, 0⟩
/-- R263. -/
abbrev R.CREW_TQACT (n : Nat) : Nat := 0x40070190 + 0x800 * n
abbrev F.CREW_TQACT_T (n : Nat) : Fld := ⟨R.CREW_TQACT n, 31, 0⟩
/-- R263. -/
abbrev R.CREW_IACT (n : Nat) : Nat := 0x40070194 + 0x800 * n
abbrev F.CREW_IACT_I (n : Nat) : Fld := ⟨R.CREW_IACT n, 31, 0⟩
/-- R263. -/
abbrev R.CREW_LSTAT (n : Nat) : Nat := 0x40070198 + 0x800 * n
abbrev F.CREW_LSTAT_INVRUN (n : Nat) : Fld := ⟨R.CREW_LSTAT n, 15, 8⟩
abbrev F.CREW_LSTAT_REN (n : Nat) : Fld := ⟨R.CREW_LSTAT n, 5, 5⟩
abbrev F.CREW_LSTAT_TH (n : Nat) : Fld := ⟨R.CREW_LSTAT n, 4, 4⟩
abbrev F.CREW_LSTAT_SLESS (n : Nat) : Fld := ⟨R.CREW_LSTAT n, 3, 3⟩
abbrev F.CREW_LSTAT_POSLOST (n : Nat) : Fld := ⟨R.CREW_LSTAT n, 2, 2⟩
abbrev F.CREW_LSTAT_VVAL (n : Nat) : Fld := ⟨R.CREW_LSTAT n, 1, 1⟩
abbrev F.CREW_LSTAT_IVAL (n : Nat) : Fld := ⟨R.CREW_LSTAT n, 0, 0⟩
/-- R263. -/
abbrev R.CREW_VDC (n : Nat) : Nat := 0x4007019C + 0x800 * n
abbrev F.CREW_VDC_V (n : Nat) : Fld := ⟨R.CREW_VDC n, 15, 0⟩
/-- R263. -/
abbrev R.CREW_OCLIM (n : Nat) : Nat := 0x400701A0 + 0x800 * n
abbrev F.CREW_OCLIM_OCN (n : Nat) : Fld := ⟨R.CREW_OCLIM n, 31, 28⟩
abbrev F.CREW_OCLIM_LIM (n : Nat) : Fld := ⟨R.CREW_OCLIM n, 15, 0⟩
/-- R263. -/
abbrev R.CREW_LATECNT (n : Nat) : Nat := 0x400701A4 + 0x800 * n
abbrev F.CREW_LATECNT_COUNT (n : Nat) : Fld := ⟨R.CREW_LATECNT n, 31, 0⟩
/-- R263. -/
abbrev R.CREW_EMG (n : Nat) : Nat := 0x400701A8 + 0x800 * n
abbrev F.CREW_EMG_A1 (n : Nat) : Fld := ⟨R.CREW_EMG n, 3, 2⟩
abbrev F.CREW_EMG_A0 (n : Nat) : Fld := ⟨R.CREW_EMG n, 1, 0⟩
/-- R263. -/
abbrev R.CREW_THK (n : Nat) : Nat := 0x400701AC + 0x800 * n
abbrev F.CREW_THK_K (n : Nat) : Fld := ⟨R.CREW_THK n, 31, 0⟩
/-- R263. -/
abbrev R.CREW_SLESS (n : Nat) : Nat := 0x400701B0 + 0x800 * n
abbrev F.CREW_SLESS_EN (n : Nat) : Fld := ⟨R.CREW_SLESS n, 31, 31⟩
abbrev F.CREW_SLESS_TLOW (n : Nat) : Fld := ⟨R.CREW_SLESS n, 23, 12⟩
abbrev F.CREW_SLESS_VMIN (n : Nat) : Fld := ⟨R.CREW_SLESS n, 11, 0⟩
/-- R263. -/
abbrev R.CREW_G_CFG (n : Nat) : Nat := 0x40070200 + 0x800 * n
abbrev F.CREW_G_CFG_BSH (n : Nat) : Fld := ⟨R.CREW_G_CFG n, 26, 22⟩
abbrev F.CREW_G_CFG_CM1 (n : Nat) : Fld := ⟨R.CREW_G_CFG n, 21, 18⟩
abbrev F.CREW_G_CFG_WM1 (n : Nat) : Fld := ⟨R.CREW_G_CFG n, 17, 12⟩
abbrev F.CREW_G_CFG_PORT (n : Nat) : Fld := ⟨R.CREW_G_CFG n, 11, 8⟩
abbrev F.CREW_G_CFG_SSRC (n : Nat) : Fld := ⟨R.CREW_G_CFG n, 6, 5⟩
abbrev F.CREW_G_CFG_POL2 (n : Nat) : Fld := ⟨R.CREW_G_CFG n, 4, 3⟩
abbrev F.CREW_G_CFG_POL (n : Nat) : Fld := ⟨R.CREW_G_CFG n, 2, 1⟩
abbrev F.CREW_G_CFG_EN (n : Nat) : Fld := ⟨R.CREW_G_CFG n, 0, 0⟩
/-- R263. -/
abbrev R.CREW_G_KT (n : Nat) : Nat := 0x40070204 + 0x800 * n
abbrev F.CREW_G_KT_K (n : Nat) : Fld := ⟨R.CREW_G_KT n, 31, 0⟩
/-- R263. -/
abbrev R.CREW_G_JE (n : Nat) : Nat := 0x40070208 + 0x800 * n
abbrev F.CREW_G_JE_J (n : Nat) : Fld := ⟨R.CREW_G_JE n, 31, 0⟩
/-- R263. -/
abbrev R.CREW_G_STEP (n : Nat) : Nat := 0x4007020C + 0x800 * n
abbrev F.CREW_G_STEP_S (n : Nat) : Fld := ⟨R.CREW_G_STEP n, 31, 0⟩
/-- R263. -/
abbrev R.CREW_G_TIME (n : Nat) : Nat := 0x40070210 + 0x800 * n
abbrev F.CREW_G_TIME_COOL (n : Nat) : Fld := ⟨R.CREW_G_TIME n, 31, 16⟩
abbrev F.CREW_G_TIME_HOLD (n : Nat) : Fld := ⟨R.CREW_G_TIME n, 15, 0⟩
/-- R263. -/
abbrev R.CREW_G_RCLR (n : Nat) : Nat := 0x40070214 + 0x800 * n
abbrev F.CREW_G_RCLR_C (n : Nat) : Fld := ⟨R.CREW_G_RCLR n, 31, 0⟩
/-- R263. -/
abbrev R.CREW_G_RTIME (n : Nat) : Nat := 0x40070218 + 0x800 * n
abbrev F.CREW_G_RTIME_RMAX (n : Nat) : Fld := ⟨R.CREW_G_RTIME n, 27, 16⟩
abbrev F.CREW_G_RTIME_RDWELL (n : Nat) : Fld := ⟨R.CREW_G_RTIME n, 15, 0⟩
/-- R263. -/
abbrev R.CREW_G_TQREN (n : Nat) : Nat := 0x4007021C + 0x800 * n
abbrev F.CREW_G_TQREN_T (n : Nat) : Fld := ⟨R.CREW_G_TQREN n, 31, 0⟩
/-- R263. -/
abbrev R.CREW_G_STAT (n : Nat) : Nat := 0x40070220 + 0x800 * n
abbrev F.CREW_G_STAT_SS1REQ (n : Nat) : Fld := ⟨R.CREW_G_STAT n, 3, 3⟩
abbrev F.CREW_G_STAT_STATE (n : Nat) : Fld := ⟨R.CREW_G_STAT n, 2, 0⟩
/-- R263. -/
abbrev R.CREW_G_TL (n : Nat) : Nat := 0x40070224 + 0x800 * n
abbrev F.CREW_G_TL_T (n : Nat) : Fld := ⟨R.CREW_G_TL n, 31, 0⟩
/-- R263. -/
abbrev R.CREW_G_BASE (n : Nat) : Nat := 0x40070228 + 0x800 * n
abbrev F.CREW_G_BASE_B (n : Nat) : Fld := ⟨R.CREW_G_BASE n, 31, 0⟩
/-- R263. -/
abbrev R.CREW_G_DETCNT (n : Nat) : Nat := 0x4007022C + 0x800 * n
abbrev F.CREW_G_DETCNT_COUNT (n : Nat) : Fld := ⟨R.CREW_G_DETCNT n, 31, 0⟩
/-- R263. -/
abbrev R.CREW_G_EVT (n : Nat) : Nat := 0x40070230 + 0x800 * n
abbrev F.CREW_G_EVT_IGNORED (n : Nat) : Fld := ⟨R.CREW_G_EVT n, 4, 4⟩
abbrev F.CREW_G_EVT_RECOVER (n : Nat) : Fld := ⟨R.CREW_G_EVT n, 3, 3⟩
abbrev F.CREW_G_EVT_HOLDEND (n : Nat) : Fld := ⟨R.CREW_G_EVT n, 2, 2⟩
abbrev F.CREW_G_EVT_TRIP (n : Nat) : Fld := ⟨R.CREW_G_EVT n, 1, 1⟩
abbrev F.CREW_G_EVT_DET (n : Nat) : Fld := ⟨R.CREW_G_EVT n, 0, 0⟩
/-- R263. -/
abbrev R.CREW_G_DET_T (n : Nat) : Nat := 0x40070234 + 0x800 * n
abbrev F.CREW_G_DET_T_T (n : Nat) : Fld := ⟨R.CREW_G_DET_T n, 31, 0⟩
/-- R404. -/
abbrev R.CREW_SEAM_TX (n w : Nat) : Nat := 0x40070300 + 0x800 * n + 0x4 * w
abbrev F.CREW_SEAM_TX_U (n w : Nat) : Fld := ⟨R.CREW_SEAM_TX n w, 31, 0⟩
/-- R404. -/
abbrev R.CREW_SEAM_RXV (n : Nat) : Nat := 0x40070310 + 0x800 * n
abbrev F.CREW_SEAM_RXV_LOST (n : Nat) : Fld := ⟨R.CREW_SEAM_RXV n, 7, 4⟩
abbrev F.CREW_SEAM_RXV_V (n : Nat) : Fld := ⟨R.CREW_SEAM_RXV n, 3, 0⟩
/-- R404. -/
abbrev R.CREW_SEAM_RXSEQ (n : Nat) : Nat := 0x40070314 + 0x800 * n
abbrev F.CREW_SEAM_RXSEQ_K (n : Nat) : Fld := ⟨R.CREW_SEAM_RXSEQ n, 31, 0⟩
/-- R404. -/
abbrev R.CREW_SEAM_RX_FLAGS (n g : Nat) : Nat := 0x40070320 + 0x800 * n + 0x20 * g
abbrev F.CREW_SEAM_RX_FLAGS_NMEM (n g : Nat) : Fld := ⟨R.CREW_SEAM_RX_FLAGS n g, 31, 24⟩
abbrev F.CREW_SEAM_RX_FLAGS_MACT (n g : Nat) : Fld := ⟨R.CREW_SEAM_RX_FLAGS n g, 23, 16⟩
abbrev F.CREW_SEAM_RX_FLAGS_FLAGS (n g : Nat) : Fld := ⟨R.CREW_SEAM_RX_FLAGS n g, 7, 0⟩
/-- R404. -/
abbrev R.CREW_SEAM_RX_TQREF (n g : Nat) : Nat := 0x40070324 + 0x800 * n + 0x20 * g
abbrev F.CREW_SEAM_RX_TQREF_T (n g : Nat) : Fld := ⟨R.CREW_SEAM_RX_TQREF n g, 31, 0⟩
/-- R404. -/
abbrev R.CREW_SEAM_RX_SPD (n g : Nat) : Nat := 0x40070328 + 0x800 * n + 0x20 * g
abbrev F.CREW_SEAM_RX_SPD_V (n g : Nat) : Fld := ⟨R.CREW_SEAM_RX_SPD n g, 31, 0⟩
/-- R404. -/
abbrev R.CREW_SEAM_RX_DRATE (n g : Nat) : Nat := 0x4007032C + 0x800 * n + 0x20 * g
abbrev F.CREW_SEAM_RX_DRATE_K (n g : Nat) : Fld := ⟨R.CREW_SEAM_RX_DRATE n g, 31, 0⟩
/-- R404. -/
abbrev R.CREW_SEAM_RX_USR (n g w : Nat) : Nat := 0x40070330 + 0x800 * n + 0x20 * g + 0x4 * w
abbrev F.CREW_SEAM_RX_USR_U (n g w : Nat) : Fld := ⟨R.CREW_SEAM_RX_USR n g w, 31, 0⟩
/-- R63. -/
abbrev R.CREW_LDG_T (n i : Nat) : Nat := 0x40070400 + 0x800 * n + 0xC * i
abbrev F.CREW_LDG_T_CATCH_T (n i : Nat) : Fld := ⟨R.CREW_LDG_T n i, 31, 0⟩
/-- R63. -/
abbrev R.CREW_LDG_W (n i : Nat) : Nat := 0x40070404 + 0x800 * n + 0xC * i
abbrev F.CREW_LDG_W_VALID (n i : Nat) : Fld := ⟨R.CREW_LDG_W n i, 31, 31⟩
abbrev F.CREW_LDG_W_NOWRITE (n i : Nat) : Fld := ⟨R.CREW_LDG_W n i, 30, 30⟩
abbrev F.CREW_LDG_W_MULTI (n i : Nat) : Fld := ⟨R.CREW_LDG_W n i, 29, 29⟩
abbrev F.CREW_LDG_W_TAKEOVER (n i : Nat) : Fld := ⟨R.CREW_LDG_W n i, 28, 28⟩
abbrev F.CREW_LDG_W_WR_DLY (n i : Nat) : Fld := ⟨R.CREW_LDG_W n i, 23, 0⟩
/-- R63. -/
abbrev R.CREW_LDG_A (n i : Nat) : Nat := 0x40070408 + 0x800 * n + 0xC * i
abbrev F.CREW_LDG_A_SEQ (n i : Nat) : Fld := ⟨R.CREW_LDG_A n i, 31, 24⟩
abbrev F.CREW_LDG_A_AP_DLY (n i : Nat) : Fld := ⟨R.CREW_LDG_A n i, 23, 0⟩
/-- R63. -/
abbrev R.CREW_LDG_HEAD (n : Nat) : Nat := 0x40070700 + 0x800 * n
abbrev F.CREW_LDG_HEAD_IDX (n : Nat) : Fld := ⟨R.CREW_LDG_HEAD n, 5, 0⟩
/-! ### PROF -/
/-- R294. -/
abbrev R.PROF_CTL (n : Nat) : Nat := 0x40080000 + 0x800 * n
abbrev F.PROF_CTL_HALTQ (n : Nat) : Fld := ⟨R.PROF_CTL n, 9, 9⟩
abbrev F.PROF_CTL_STOP (n : Nat) : Fld := ⟨R.PROF_CTL n, 8, 8⟩
abbrev F.PROF_CTL_MODE (n : Nat) : Fld := ⟨R.PROF_CTL n, 1, 0⟩
/-- R294. -/
abbrev R.PROF_CFG (n : Nat) : Nat := 0x40080004 + 0x800 * n
abbrev F.PROF_CFG_PEN (n : Nat) : Fld := ⟨R.PROF_CFG n, 9, 9⟩
abbrev F.PROF_CFG_UNIT (n : Nat) : Fld := ⟨R.PROF_CFG n, 8, 8⟩
abbrev F.PROF_CFG_PORT (n : Nat) : Fld := ⟨R.PROF_CFG n, 7, 4⟩
/-- R294. -/
abbrev R.PROF_VSTART (n : Nat) : Nat := 0x40080008 + 0x800 * n
abbrev F.PROF_VSTART_V (n : Nat) : Fld := ⟨R.PROF_VSTART n, 30, 0⟩
/-- R294. -/
abbrev R.PROF_VSTOP (n : Nat) : Nat := 0x4008000C + 0x800 * n
abbrev F.PROF_VSTOP_V (n : Nat) : Fld := ⟨R.PROF_VSTOP n, 30, 0⟩
/-- R294. -/
abbrev R.PROF_VBRK (n : Nat) : Nat := 0x40080010 + 0x800 * n
abbrev F.PROF_VBRK_V (n : Nat) : Fld := ⟨R.PROF_VBRK n, 30, 0⟩
/-- R294. -/
abbrev R.PROF_VMAX (n : Nat) : Nat := 0x40080014 + 0x800 * n
abbrev F.PROF_VMAX_V (n : Nat) : Fld := ⟨R.PROF_VMAX n, 30, 0⟩
/-- R294. -/
abbrev R.PROF_A1 (n : Nat) : Nat := 0x40080018 + 0x800 * n
abbrev F.PROF_A1_A (n : Nat) : Fld := ⟨R.PROF_A1 n, 31, 0⟩
/-- R294. -/
abbrev R.PROF_A2 (n : Nat) : Nat := 0x4008001C + 0x800 * n
abbrev F.PROF_A2_A (n : Nat) : Fld := ⟨R.PROF_A2 n, 31, 0⟩
/-- R294. -/
abbrev R.PROF_D2 (n : Nat) : Nat := 0x40080020 + 0x800 * n
abbrev F.PROF_D2_A (n : Nat) : Fld := ⟨R.PROF_D2 n, 31, 0⟩
/-- R294. -/
abbrev R.PROF_D1 (n : Nat) : Nat := 0x40080024 + 0x800 * n
abbrev F.PROF_D1_A (n : Nat) : Fld := ⟨R.PROF_D1 n, 31, 0⟩
/-- R294. -/
abbrev R.PROF_DABS (n : Nat) : Nat := 0x40080028 + 0x800 * n
abbrev F.PROF_DABS_A (n : Nat) : Fld := ⟨R.PROF_DABS n, 31, 0⟩
/-- R294. -/
abbrev R.PROF_DWELL (n : Nat) : Nat := 0x4008002C + 0x800 * n
abbrev F.PROF_DWELL_MS (n : Nat) : Fld := ⟨R.PROF_DWELL n, 13, 0⟩
/-- R294. -/
abbrev R.PROF_TGT_L (n : Nat) : Nat := 0x40080030 + 0x800 * n
abbrev F.PROF_TGT_L_T (n : Nat) : Fld := ⟨R.PROF_TGT_L n, 31, 0⟩
/-- R294. -/
abbrev R.PROF_TGT_H (n : Nat) : Nat := 0x40080034 + 0x800 * n
abbrev F.PROF_TGT_H_T (n : Nat) : Fld := ⟨R.PROF_TGT_H n, 31, 0⟩
/-- R294. -/
abbrev R.PROF_VTGT (n : Nat) : Nat := 0x40080038 + 0x800 * n
abbrev F.PROF_VTGT_V (n : Nat) : Fld := ⟨R.PROF_VTGT n, 31, 0⟩
/-- R294. -/
abbrev R.PROF_STILL (n : Nat) : Nat := 0x4008003C + 0x800 * n
abbrev F.PROF_STILL_HOLDF (n : Nat) : Fld := ⟨R.PROF_STILL n, 31, 20⟩
abbrev F.PROF_STILL_POLICY (n : Nat) : Fld := ⟨R.PROF_STILL n, 17, 16⟩
abbrev F.PROF_STILL_STDLY (n : Nat) : Fld := ⟨R.PROF_STILL n, 15, 0⟩
/-- R294. -/
abbrev R.PROF_POS_L (n : Nat) : Nat := 0x40080040 + 0x800 * n
abbrev F.PROF_POS_L_P (n : Nat) : Fld := ⟨R.PROF_POS_L n, 31, 0⟩
/-- R294. -/
abbrev R.PROF_POS_H (n : Nat) : Nat := 0x40080044 + 0x800 * n
abbrev F.PROF_POS_H_P (n : Nat) : Fld := ⟨R.PROF_POS_H n, 31, 0⟩
/-- R294. -/
abbrev R.PROF_POS_F (n : Nat) : Nat := 0x40080048 + 0x800 * n
abbrev F.PROF_POS_F_F (n : Nat) : Fld := ⟨R.PROF_POS_F n, 17, 0⟩
/-- R294. -/
abbrev R.PROF_VEL (n : Nat) : Nat := 0x4008004C + 0x800 * n
abbrev F.PROF_VEL_V (n : Nat) : Fld := ⟨R.PROF_VEL n, 31, 0⟩
/-- R294. -/
abbrev R.PROF_HOLDK (n : Nat) : Nat := 0x40080050 + 0x800 * n
abbrev F.PROF_HOLDK_K (n : Nat) : Fld := ⟨R.PROF_HOLDK n, 31, 0⟩
/-- R294. -/
abbrev R.PROF_PSTAT (n : Nat) : Nat := 0x40080054 + 0x800 * n
abbrev F.PROF_PSTAT_CRASH (n : Nat) : Fld := ⟨R.PROF_PSTAT n, 16, 16⟩
abbrev F.PROF_PSTAT_IARLAG (n : Nat) : Fld := ⟨R.PROF_PSTAT n, 15, 15⟩
abbrev F.PROF_PSTAT_BRKFB (n : Nat) : Fld := ⟨R.PROF_PSTAT n, 14, 14⟩
abbrev F.PROF_PSTAT_BRKOUT (n : Nat) : Fld := ⟨R.PROF_PSTAT n, 13, 13⟩
abbrev F.PROF_PSTAT_OVS (n : Nat) : Fld := ⟨R.PROF_PSTAT n, 12, 12⟩
abbrev F.PROF_PSTAT_APPR (n : Nat) : Fld := ⟨R.PROF_PSTAT n, 11, 11⟩
abbrev F.PROF_PSTAT_LASTDIR (n : Nat) : Fld := ⟨R.PROF_PSTAT n, 10, 10⟩
abbrev F.PROF_PSTAT_DIR (n : Nat) : Fld := ⟨R.PROF_PSTAT n, 9, 9⟩
abbrev F.PROF_PSTAT_SEG (n : Nat) : Fld := ⟨R.PROF_PSTAT n, 8, 6⟩
abbrev F.PROF_PSTAT_STATE (n : Nat) : Fld := ⟨R.PROF_PSTAT n, 3, 0⟩
/-- R294. -/
abbrev R.PROF_EVT (n : Nat) : Nat := 0x40080058 + 0x800 * n
abbrev F.PROF_EVT_CRIGN (n : Nat) : Fld := ⟨R.PROF_EVT n, 9, 9⟩
abbrev F.PROF_EVT_IARMISS (n : Nat) : Fld := ⟨R.PROF_EVT n, 8, 8⟩
abbrev F.PROF_EVT_FOLLOWEND (n : Nat) : Fld := ⟨R.PROF_EVT n, 7, 7⟩
abbrev F.PROF_EVT_BRKFAIL (n : Nat) : Fld := ⟨R.PROF_EVT n, 6, 6⟩
abbrev F.PROF_EVT_BRKREL (n : Nat) : Fld := ⟨R.PROF_EVT n, 5, 5⟩
abbrev F.PROF_EVT_BRKSET (n : Nat) : Fld := ⟨R.PROF_EVT n, 4, 4⟩
abbrev F.PROF_EVT_IARLAG (n : Nat) : Fld := ⟨R.PROF_EVT n, 3, 3⟩
abbrev F.PROF_EVT_OVERSHOOT (n : Nat) : Fld := ⟨R.PROF_EVT n, 2, 2⟩
abbrev F.PROF_EVT_REVERSAL (n : Nat) : Fld := ⟨R.PROF_EVT n, 1, 1⟩
abbrev F.PROF_EVT_ARRIVED (n : Nat) : Fld := ⟨R.PROF_EVT n, 0, 0⟩
/-- R294. -/
abbrev R.PROF_OVSCNT (n : Nat) : Nat := 0x4008005C + 0x800 * n
abbrev F.PROF_OVSCNT_COUNT (n : Nat) : Fld := ⟨R.PROF_OVSCNT n, 31, 0⟩
/-- R294. -/
abbrev R.PROF_PAYOUT (n : Nat) : Nat := 0x40080060 + 0x800 * n
abbrev F.PROF_PAYOUT_C (n : Nat) : Fld := ⟨R.PROF_PAYOUT n, 31, 0⟩
/-- R294. -/
abbrev R.PROF_BRK (n : Nat) : Nat := 0x40080064 + 0x800 * n
abbrev F.PROF_BRK_OFFSTOP (n : Nat) : Fld := ⟨R.PROF_BRK n, 14, 14⟩
abbrev F.PROF_BRK_FBPOL (n : Nat) : Fld := ⟨R.PROF_BRK n, 13, 13⟩
abbrev F.PROF_BRK_FBIDX (n : Nat) : Fld := ⟨R.PROF_BRK n, 12, 8⟩
abbrev F.PROF_BRK_FBEN (n : Nat) : Fld := ⟨R.PROF_BRK n, 7, 7⟩
abbrev F.PROF_BRK_OIDX (n : Nat) : Fld := ⟨R.PROF_BRK n, 6, 2⟩
abbrev F.PROF_BRK_OUT (n : Nat) : Fld := ⟨R.PROF_BRK n, 1, 0⟩
/-- R294. -/
abbrev R.PROF_BRKT (n : Nat) : Nat := 0x40080068 + 0x800 * n
abbrev F.PROF_BRKT_TPRE (n : Nat) : Fld := ⟨R.PROF_BRKT n, 31, 24⟩
abbrev F.PROF_BRKT_TOPEN (n : Nat) : Fld := ⟨R.PROF_BRKT n, 23, 16⟩
abbrev F.PROF_BRKT_TREL (n : Nat) : Fld := ⟨R.PROF_BRKT n, 15, 8⟩
abbrev F.PROF_BRKT_TSET (n : Nat) : Fld := ⟨R.PROF_BRKT n, 7, 0⟩
/-- R294. -/
abbrev R.PROF_CRVEL (n : Nat) : Nat := 0x40080070 + 0x800 * n
abbrev F.PROF_CRVEL_V (n : Nat) : Fld := ⟨R.PROF_CRVEL n, 30, 0⟩
/-- R294. -/
abbrev R.PROF_CRACC (n : Nat) : Nat := 0x40080074 + 0x800 * n
abbrev F.PROF_CRACC_A (n : Nat) : Fld := ⟨R.PROF_CRACC n, 31, 0⟩
/-- R294. -/
abbrev R.PROF_CRCTL (n : Nat) : Nat := 0x40080078 + 0x800 * n
abbrev F.PROF_CRCTL_CRDWELL (n : Nat) : Fld := ⟨R.PROF_CRCTL n, 31, 16⟩
abbrev F.PROF_CRCTL_CRVDC (n : Nat) : Fld := ⟨R.PROF_CRCTL n, 15, 0⟩
/-- R294. -/
abbrev R.PROF_IAR_PER (n : Nat) : Nat := 0x40080080 + 0x800 * n
abbrev F.PROF_IAR_PER_US (n : Nat) : Fld := ⟨R.PROF_IAR_PER n, 9, 0⟩
/-- R294. -/
abbrev R.PROF_SETP_L (n : Nat) : Nat := 0x40080084 + 0x800 * n
abbrev F.PROF_SETP_L_S (n : Nat) : Fld := ⟨R.PROF_SETP_L n, 31, 0⟩
/-- R294. -/
abbrev R.PROF_SETP_H (n : Nat) : Nat := 0x40080088 + 0x800 * n
abbrev F.PROF_SETP_H_S (n : Nat) : Fld := ⟨R.PROF_SETP_H n, 31, 0⟩
/-- R294. -/
abbrev R.PROF_IARMISSCNT (n : Nat) : Nat := 0x4008008C + 0x800 * n
abbrev F.PROF_IARMISSCNT_COUNT (n : Nat) : Fld := ⟨R.PROF_IARMISSCNT n, 31, 0⟩
/-- R294. -/
abbrev R.PROF_IARLAGCNT (n : Nat) : Nat := 0x40080090 + 0x800 * n
abbrev F.PROF_IARLAGCNT_COUNT (n : Nat) : Fld := ⟨R.PROF_IARLAGCNT n, 31, 0⟩
/-! ### SINC -/
/-- R262. -/
abbrev R.SINC_CTL : Nat := 0x40090000
abbrev F.SINC_CTL_RFV : Fld := ⟨R.SINC_CTL, 29, 24⟩
abbrev F.SINC_CTL_RV : Fld := ⟨R.SINC_CTL, 16, 8⟩
abbrev F.SINC_CTL_MISSMAX : Fld := ⟨R.SINC_CTL, 5, 0⟩
/-- R262. -/
abbrev R.SINC_TILE_VDC (k : Nat) : Nat := 0x40090100 + 0x20 * k
abbrev F.SINC_TILE_VDC_VALID (k : Nat) : Fld := ⟨R.SINC_TILE_VDC k, 31, 31⟩
abbrev F.SINC_TILE_VDC_MISS (k : Nat) : Fld := ⟨R.SINC_TILE_VDC k, 30, 30⟩
abbrev F.SINC_TILE_VDC_V (k : Nat) : Fld := ⟨R.SINC_TILE_VDC k, 15, 0⟩
/-- R262. -/
abbrev R.SINC_TILE_VDCF (k : Nat) : Nat := 0x40090104 + 0x20 * k
abbrev F.SINC_TILE_VDCF_V (k : Nat) : Fld := ⟨R.SINC_TILE_VDCF k, 15, 0⟩
/-- R262. -/
abbrev R.SINC_TILE_VLIM (k : Nat) : Nat := 0x40090108 + 0x20 * k
abbrev F.SINC_TILE_VLIM_VOV (k : Nat) : Fld := ⟨R.SINC_TILE_VLIM k, 31, 16⟩
abbrev F.SINC_TILE_VLIM_VUV (k : Nat) : Fld := ⟨R.SINC_TILE_VLIM k, 15, 0⟩
/-- R262. -/
abbrev R.SINC_TILE_VUVTH (k : Nat) : Nat := 0x4009010C + 0x20 * k
abbrev F.SINC_TILE_VUVTH_VSTOP (k : Nat) : Fld := ⟨R.SINC_TILE_VUVTH k, 31, 31⟩
abbrev F.SINC_TILE_VUVTH_V (k : Nat) : Fld := ⟨R.SINC_TILE_VUVTH k, 15, 0⟩
/-- R262. -/
abbrev R.SINC_LEG_CRES (x : Nat) : Nat := 0x40090400 + 0x10 * x
abbrev F.SINC_LEG_CRES_VALID (x : Nat) : Fld := ⟨R.SINC_LEG_CRES x, 31, 31⟩
abbrev F.SINC_LEG_CRES_MISS (x : Nat) : Fld := ⟨R.SINC_LEG_CRES x, 30, 30⟩
abbrev F.SINC_LEG_CRES_SAT (x : Nat) : Fld := ⟨R.SINC_LEG_CRES x, 29, 29⟩
abbrev F.SINC_LEG_CRES_SEQ (x : Nat) : Fld := ⟨R.SINC_LEG_CRES x, 23, 16⟩
abbrev F.SINC_LEG_CRES_I (x : Nat) : Fld := ⟨R.SINC_LEG_CRES x, 15, 0⟩
/-- R262. -/
abbrev R.SINC_LEG_FRES (x : Nat) : Nat := 0x40090404 + 0x10 * x
abbrev F.SINC_LEG_FRES_I (x : Nat) : Fld := ⟨R.SINC_LEG_FRES x, 15, 0⟩
/-- R262. -/
abbrev R.SINC_LEG_CAL (x : Nat) : Nat := 0x40090408 + 0x10 * x
abbrev F.SINC_LEG_CAL_GAIN (x : Nat) : Fld := ⟨R.SINC_LEG_CAL x, 31, 16⟩
abbrev F.SINC_LEG_CAL_OFS (x : Nat) : Fld := ⟨R.SINC_LEG_CAL x, 15, 0⟩
/-- R262. -/
abbrev R.SINC_LEG_SATCNT (x : Nat) : Nat := 0x4009040C + 0x10 * x
abbrev F.SINC_LEG_SATCNT_COUNT (x : Nat) : Fld := ⟨R.SINC_LEG_SATCNT x, 31, 0⟩
/-- R262. -/
abbrev R.SINC_CREW_CFG (n : Nat) : Nat := 0x40090800 + 0x40 * n
abbrev F.SINC_CREW_CFG_CEN (n : Nat) : Fld := ⟨R.SINC_CREW_CFG n, 24, 24⟩
abbrev F.SINC_CREW_CFG_RF (n : Nat) : Fld := ⟨R.SINC_CREW_CFG n, 21, 16⟩
abbrev F.SINC_CREW_CFG_R (n : Nat) : Fld := ⟨R.SINC_CREW_CFG n, 8, 0⟩
/-- R262. -/
abbrev R.SINC_CREW_ANGS (n : Nat) : Nat := 0x40090804 + 0x40 * n
abbrev F.SINC_CREW_ANGS_ANG (n : Nat) : Fld := ⟨R.SINC_CREW_ANGS n, 31, 0⟩
/-- R262. -/
abbrev R.SINC_CREW_TS (n : Nat) : Nat := 0x40090808 + 0x40 * n
abbrev F.SINC_CREW_TS_T (n : Nat) : Fld := ⟨R.SINC_CREW_TS n, 31, 0⟩
/-- R262. -/
abbrev R.SINC_CREW_PWR (n : Nat) : Nat := 0x4009080C + 0x40 * n
abbrev F.SINC_CREW_PWR_P (n : Nat) : Fld := ⟨R.SINC_CREW_PWR n, 31, 0⟩
/-- R262. -/
abbrev R.SINC_CREW_EPOS_L (n : Nat) : Nat := 0x40090810 + 0x40 * n
abbrev F.SINC_CREW_EPOS_L_E (n : Nat) : Fld := ⟨R.SINC_CREW_EPOS_L n, 31, 0⟩
/-- R262. -/
abbrev R.SINC_CREW_EPOS_H (n : Nat) : Nat := 0x40090814 + 0x40 * n
abbrev F.SINC_CREW_EPOS_H_E (n : Nat) : Fld := ⟨R.SINC_CREW_EPOS_H n, 31, 0⟩
/-- R262. -/
abbrev R.SINC_CREW_ENEG_L (n : Nat) : Nat := 0x40090818 + 0x40 * n
abbrev F.SINC_CREW_ENEG_L_E (n : Nat) : Fld := ⟨R.SINC_CREW_ENEG_L n, 31, 0⟩
/-- R262. -/
abbrev R.SINC_CREW_ENEG_H (n : Nat) : Nat := 0x4009081C + 0x40 * n
abbrev F.SINC_CREW_ENEG_H_E (n : Nat) : Fld := ⟨R.SINC_CREW_ENEG_H n, 31, 0⟩
/-- R262. -/
abbrev R.SINC_CREW_ECLR (n : Nat) : Nat := 0x40090820 + 0x40 * n
abbrev F.SINC_CREW_ECLR_CLR (n : Nat) : Fld := ⟨R.SINC_CREW_ECLR n, 0, 0⟩
/-! ### YILOS -/
/-- R234. -/
abbrev R.YILOS_CTL (k : Nat) : Nat := 0x400A0000 + 0x1000 * k
abbrev F.YILOS_CTL_TXEQ (k : Nat) : Fld := ⟨R.YILOS_CTL k, 15, 8⟩
abbrev F.YILOS_CTL_VMAX (k : Nat) : Fld := ⟨R.YILOS_CTL k, 5, 4⟩
abbrev F.YILOS_CTL_RETRAIN (k : Nat) : Fld := ⟨R.YILOS_CTL k, 1, 1⟩
abbrev F.YILOS_CTL_EN (k : Nat) : Fld := ⟨R.YILOS_CTL k, 0, 0⟩
/-- R234. -/
abbrev R.YILOS_STAT (k : Nat) : Nat := 0x400A0004 + 0x1000 * k
abbrev F.YILOS_STAT_SWF (k : Nat) : Fld := ⟨R.YILOS_STAT k, 23, 16⟩
abbrev F.YILOS_STAT_OTW (k : Nat) : Fld := ⟨R.YILOS_STAT k, 15, 15⟩
abbrev F.YILOS_STAT_STOIN (k : Nat) : Fld := ⟨R.YILOS_STAT k, 14, 14⟩
abbrev F.YILOS_STAT_VER (k : Nat) : Fld := ⟨R.YILOS_STAT k, 13, 12⟩
abbrev F.YILOS_STAT_STATE (k : Nat) : Fld := ⟨R.YILOS_STAT k, 3, 0⟩
/-- R234. -/
abbrev R.YILOS_DLY (k : Nat) : Nat := 0x400A0008 + 0x1000 * k
abbrev F.YILOS_DLY_PAD (k : Nat) : Fld := ⟨R.YILOS_DLY k, 23, 16⟩
abbrev F.YILOS_DLY_D (k : Nat) : Fld := ⟨R.YILOS_DLY k, 7, 0⟩
/-- R234. -/
abbrev R.YILOS_LVL (k : Nat) : Nat := 0x400A000C + 0x1000 * k
abbrev F.YILOS_LVL_CMD (k : Nat) : Fld := ⟨R.YILOS_LVL k, 7, 0⟩
/-- R234. -/
abbrev R.YILOS_QSTAT (k : Nat) : Nat := 0x400A0010 + 0x1000 * k
abbrev F.YILOS_QSTAT_QMAX (k : Nat) : Fld := ⟨R.YILOS_QSTAT k, 21, 16⟩
abbrev F.YILOS_QSTAT_QN (k : Nat) : Fld := ⟨R.YILOS_QSTAT k, 5, 0⟩
/-- R234. -/
abbrev R.YILOS_FNUM (k : Nat) : Nat := 0x400A0014 + 0x1000 * k
abbrev F.YILOS_FNUM_N (k : Nat) : Fld := ⟨R.YILOS_FNUM k, 31, 0⟩
/-- R234. -/
abbrev R.YILOS_CLR (k : Nat) : Nat := 0x400A0018 + 0x1000 * k
abbrev F.YILOS_CLR_CNT (k : Nat) : Fld := ⟨R.YILOS_CLR k, 0, 0⟩
/-- R234. -/
abbrev R.YILOS_CAP (k i : Nat) : Nat := 0x400A0040 + 0x1000 * k + 0x4 * i
abbrev F.YILOS_CAP_B (k i : Nat) : Fld := ⟨R.YILOS_CAP k i, 31, 0⟩
/-- R234. -/
abbrev R.YILOS_TEL (k c : Nat) : Nat := 0x400A0080 + 0x1000 * k + 0x4 * c
abbrev F.YILOS_TEL_FN (k c : Nat) : Fld := ⟨R.YILOS_TEL k c, 31, 16⟩
abbrev F.YILOS_TEL_VAL (k c : Nat) : Fld := ⟨R.YILOS_TEL k c, 15, 0⟩
/-- R234. -/
abbrev R.YILOS_EVT (k : Nat) : Nat := 0x400A0100 + 0x1000 * k
abbrev F.YILOS_EVT_DIAGDONE (k : Nat) : Fld := ⟨R.YILOS_EVT k, 9, 9⟩
abbrev F.YILOS_EVT_WDRAW (k : Nat) : Fld := ⟨R.YILOS_EVT k, 8, 8⟩
abbrev F.YILOS_EVT_LATE (k : Nat) : Fld := ⟨R.YILOS_EVT k, 7, 7⟩
abbrev F.YILOS_EVT_SNAPFIX (k : Nat) : Fld := ⟨R.YILOS_EVT k, 6, 6⟩
abbrev F.YILOS_EVT_INTLK (k : Nat) : Fld := ⟨R.YILOS_EVT k, 5, 5⟩
abbrev F.YILOS_EVT_OTW (k : Nat) : Fld := ⟨R.YILOS_EVT k, 4, 4⟩
abbrev F.YILOS_EVT_STOCHG (k : Nat) : Fld := ⟨R.YILOS_EVT k, 3, 3⟩
abbrev F.YILOS_EVT_SWF (k : Nat) : Fld := ⟨R.YILOS_EVT k, 2, 2⟩
abbrev F.YILOS_EVT_TRAINED (k : Nat) : Fld := ⟨R.YILOS_EVT k, 1, 1⟩
abbrev F.YILOS_EVT_LINKLOST (k : Nat) : Fld := ⟨R.YILOS_EVT k, 0, 0⟩
/-- R234. -/
abbrev R.YILOS_DLBADCNT (k : Nat) : Nat := 0x400A0140 + 0x1000 * k
abbrev F.YILOS_DLBADCNT_COUNT (k : Nat) : Fld := ⟨R.YILOS_DLBADCNT k, 31, 0⟩
/-- R234. -/
abbrev R.YILOS_ULBADCNT (k : Nat) : Nat := 0x400A0144 + 0x1000 * k
abbrev F.YILOS_ULBADCNT_COUNT (k : Nat) : Fld := ⟨R.YILOS_ULBADCNT k, 31, 0⟩
/-- R234. -/
abbrev R.YILOS_EV2CNT (k : Nat) : Nat := 0x400A0148 + 0x1000 * k
abbrev F.YILOS_EV2CNT_COUNT (k : Nat) : Fld := ⟨R.YILOS_EV2CNT k, 31, 0⟩
/-- R234. -/
abbrev R.YILOS_EVLOSTCNT (k : Nat) : Nat := 0x400A014C + 0x1000 * k
abbrev F.YILOS_EVLOSTCNT_COUNT (k : Nat) : Fld := ⟨R.YILOS_EVLOSTCNT k, 31, 0⟩
/-- R234. -/
abbrev R.YILOS_WDRAWCNT (k : Nat) : Nat := 0x400A0150 + 0x1000 * k
abbrev F.YILOS_WDRAWCNT_COUNT (k : Nat) : Fld := ⟨R.YILOS_WDRAWCNT k, 31, 0⟩
/-- R234. -/
abbrev R.YILOS_EVCNT (k : Nat) : Nat := 0x400A0154 + 0x1000 * k
abbrev F.YILOS_EVCNT_COUNT (k : Nat) : Fld := ⟨R.YILOS_EVCNT k, 31, 0⟩
/-- R234. -/
abbrev R.YILOS_INTLKCNT (k : Nat) : Nat := 0x400A0158 + 0x1000 * k
abbrev F.YILOS_INTLKCNT_COUNT (k : Nat) : Fld := ⟨R.YILOS_INTLKCNT k, 31, 0⟩
/-- R234. -/
abbrev R.YILOS_SNAPCNT (k : Nat) : Nat := 0x400A015C + 0x1000 * k
abbrev F.YILOS_SNAPCNT_COUNT (k : Nat) : Fld := ⟨R.YILOS_SNAPCNT k, 31, 0⟩
/-- R234. -/
abbrev R.YILOS_LATECNT (k : Nat) : Nat := 0x400A0160 + 0x1000 * k
abbrev F.YILOS_LATECNT_COUNT (k : Nat) : Fld := ⟨R.YILOS_LATECNT k, 31, 0⟩
/-- R234. -/
abbrev R.YILOS_SWFTCNT (k : Nat) : Nat := 0x400A0164 + 0x1000 * k
abbrev F.YILOS_SWFTCNT_COUNT (k : Nat) : Fld := ⟨R.YILOS_SWFTCNT k, 31, 0⟩
/-- R234. -/
abbrev R.YILOS_SWFLCNT (k : Nat) : Nat := 0x400A0168 + 0x1000 * k
abbrev F.YILOS_SWFLCNT_COUNT (k : Nat) : Fld := ⟨R.YILOS_SWFLCNT k, 31, 0⟩
/-- R234. -/
abbrev R.YILOS_DIAG_STAT (k : Nat) : Nat := 0x400A0180 + 0x1000 * k
abbrev F.YILOS_DIAG_STAT_BUSY (k : Nat) : Fld := ⟨R.YILOS_DIAG_STAT k, 20, 20⟩
abbrev F.YILOS_DIAG_STAT_DONE (k : Nat) : Fld := ⟨R.YILOS_DIAG_STAT k, 19, 16⟩
abbrev F.YILOS_DIAG_STAT_V (k : Nat) : Fld := ⟨R.YILOS_DIAG_STAT k, 15, 0⟩
/-- R234. -/
abbrev R.YILOS_DIAG_VA (k p : Nat) : Nat := 0x400A0190 + 0x1000 * k + 0x8 * p
abbrev F.YILOS_DIAG_VA_VSRC (k p : Nat) : Fld := ⟨R.YILOS_DIAG_VA k p, 31, 16⟩
abbrev F.YILOS_DIAG_VA_V0 (k p : Nat) : Fld := ⟨R.YILOS_DIAG_VA k p, 15, 0⟩
/-- R234. -/
abbrev R.YILOS_DIAG_VB (k p : Nat) : Nat := 0x400A0194 + 0x1000 * k + 0x8 * p
abbrev F.YILOS_DIAG_VB_VDC (k p : Nat) : Fld := ⟨R.YILOS_DIAG_VB k p, 31, 16⟩
abbrev F.YILOS_DIAG_VB_VSNK (k p : Nat) : Fld := ⟨R.YILOS_DIAG_VB k p, 15, 0⟩
/-- R234. -/
abbrev R.YILOS_MWR (k : Nat) : Nat := 0x400A0800 + 0x1000 * k
abbrev F.YILOS_MWR_RD (k : Nat) : Fld := ⟨R.YILOS_MWR k, 16, 16⟩
abbrev F.YILOS_MWR_ADDR (k : Nat) : Fld := ⟨R.YILOS_MWR k, 15, 8⟩
abbrev F.YILOS_MWR_DATA (k : Nat) : Fld := ⟨R.YILOS_MWR k, 7, 0⟩
/-- R234. -/
abbrev R.YILOS_MSTAT (k : Nat) : Nat := 0x400A0804 + 0x1000 * k
abbrev F.YILOS_MSTAT_RDATA (k : Nat) : Fld := ⟨R.YILOS_MSTAT k, 15, 8⟩
abbrev F.YILOS_MSTAT_RVALID (k : Nat) : Fld := ⟨R.YILOS_MSTAT k, 7, 7⟩
abbrev F.YILOS_MSTAT_OVF (k : Nat) : Fld := ⟨R.YILOS_MSTAT k, 6, 6⟩
abbrev F.YILOS_MSTAT_QN (k : Nat) : Fld := ⟨R.YILOS_MSTAT k, 3, 0⟩
/-- R234. -/
abbrev R.YILOS_DIAG_CTL (k : Nat) : Nat := 0x400A0808 + 0x1000 * k
abbrev F.YILOS_DIAG_CTL_SETTLE (k : Nat) : Fld := ⟨R.YILOS_DIAG_CTL k, 23, 16⟩
abbrev F.YILOS_DIAG_CTL_START (k : Nat) : Fld := ⟨R.YILOS_DIAG_CTL k, 8, 8⟩
abbrev F.YILOS_DIAG_CTL_LEGS (k : Nat) : Fld := ⟨R.YILOS_DIAG_CTL k, 3, 0⟩
/-- R234. -/
abbrev R.YILOS_DIAG_THR (k : Nat) : Nat := 0x400A080C + 0x1000 * k
abbrev F.YILOS_DIAG_THR_HI (k : Nat) : Fld := ⟨R.YILOS_DIAG_THR k, 31, 24⟩
abbrev F.YILOS_DIAG_THR_LO (k : Nat) : Fld := ⟨R.YILOS_DIAG_THR k, 23, 16⟩
abbrev F.YILOS_DIAG_THR_FOLLOW (k : Nat) : Fld := ⟨R.YILOS_DIAG_THR k, 15, 8⟩
/-- R234. -/
abbrev R.YILOS_DIAG_VMIN (k : Nat) : Nat := 0x400A0810 + 0x1000 * k
abbrev F.YILOS_DIAG_VMIN_V (k : Nat) : Fld := ⟨R.YILOS_DIAG_VMIN k, 15, 0⟩
/-! ### POS -/
/-- R295. -/
abbrev R.POS_CFG (j : Nat) : Nat := 0x400B0000 + 0x100 * j
abbrev F.POS_CFG_FILT (j : Nat) : Fld := ⟨R.POS_CFG j, 11, 8⟩
abbrev F.POS_CFG_ZEN (j : Nat) : Fld := ⟨R.POS_CFG j, 4, 4⟩
abbrev F.POS_CFG_GRAY (j : Nat) : Fld := ⟨R.POS_CFG j, 3, 3⟩
abbrev F.POS_CFG_INV (j : Nat) : Fld := ⟨R.POS_CFG j, 2, 2⟩
abbrev F.POS_CFG_MODE (j : Nat) : Fld := ⟨R.POS_CFG j, 1, 0⟩
/-- R295. -/
abbrev R.POS_SER (j : Nat) : Nat := 0x400B0004 + 0x100 * j
abbrev F.POS_SER_TOUT (j : Nat) : Fld := ⟨R.POS_SER j, 31, 24⟩
abbrev F.POS_SER_CLKDIV (j : Nat) : Fld := ⟨R.POS_SER j, 23, 16⟩
abbrev F.POS_SER_PAR (j : Nat) : Fld := ⟨R.POS_SER j, 9, 9⟩
abbrev F.POS_SER_EW (j : Nat) : Fld := ⟨R.POS_SER j, 8, 8⟩
abbrev F.POS_SER_CRC (j : Nat) : Fld := ⟨R.POS_SER j, 7, 7⟩
abbrev F.POS_SER_LEN (j : Nat) : Fld := ⟨R.POS_SER j, 5, 0⟩
/-- R295. -/
abbrev R.POS_TRIG (j : Nat) : Nat := 0x400B0008 + 0x100 * j
abbrev F.POS_TRIG_PER (j : Nat) : Fld := ⟨R.POS_TRIG j, 31, 16⟩
abbrev F.POS_TRIG_CREW (j : Nat) : Fld := ⟨R.POS_TRIG j, 5, 1⟩
abbrev F.POS_TRIG_SRC (j : Nat) : Fld := ⟨R.POS_TRIG j, 0, 0⟩
/-- R295. -/
abbrev R.POS_STAT (j : Nat) : Nat := 0x400B000C + 0x100 * j
abbrev F.POS_STAT_ZSEEN (j : Nat) : Fld := ⟨R.POS_STAT j, 7, 7⟩
abbrev F.POS_STAT_LINEF (j : Nat) : Fld := ⟨R.POS_STAT j, 6, 6⟩
abbrev F.POS_STAT_WBIT (j : Nat) : Fld := ⟨R.POS_STAT j, 5, 5⟩
abbrev F.POS_STAT_EBIT (j : Nat) : Fld := ⟨R.POS_STAT j, 4, 4⟩
abbrev F.POS_STAT_STATE (j : Nat) : Fld := ⟨R.POS_STAT j, 1, 0⟩
/-- R295. -/
abbrev R.POS_CNT_L (j : Nat) : Nat := 0x400B0010 + 0x100 * j
abbrev F.POS_CNT_L_C (j : Nat) : Fld := ⟨R.POS_CNT_L j, 31, 0⟩
/-- R295. -/
abbrev R.POS_CNT_H (j : Nat) : Nat := 0x400B0014 + 0x100 * j
abbrev F.POS_CNT_H_C (j : Nat) : Fld := ⟨R.POS_CNT_H j, 31, 0⟩
/-- R295. -/
abbrev R.POS_RAW (j : Nat) : Nat := 0x400B0018 + 0x100 * j
abbrev F.POS_RAW_R (j : Nat) : Fld := ⟨R.POS_RAW j, 31, 0⟩
/-- R295. -/
abbrev R.POS_TSTAMP (j : Nat) : Nat := 0x400B001C + 0x100 * j
abbrev F.POS_TSTAMP_T (j : Nat) : Fld := ⟨R.POS_TSTAMP j, 31, 0⟩
/-- R295. -/
abbrev R.POS_ZCAP_L (j : Nat) : Nat := 0x400B0020 + 0x100 * j
abbrev F.POS_ZCAP_L_C (j : Nat) : Fld := ⟨R.POS_ZCAP_L j, 31, 0⟩
/-- R295. -/
abbrev R.POS_ZCAP_H (j : Nat) : Nat := 0x400B0024 + 0x100 * j
abbrev F.POS_ZCAP_H_C (j : Nat) : Fld := ⟨R.POS_ZCAP_H j, 31, 0⟩
/-- R295. -/
abbrev R.POS_CTL (j : Nat) : Nat := 0x400B0028 + 0x100 * j
abbrev F.POS_CTL_REARM (j : Nat) : Fld := ⟨R.POS_CTL j, 1, 1⟩
abbrev F.POS_CTL_CLR (j : Nat) : Fld := ⟨R.POS_CTL j, 0, 0⟩
/-- R295. -/
abbrev R.POS_ERRCNT (j : Nat) : Nat := 0x400B002C + 0x100 * j
abbrev F.POS_ERRCNT_COUNT (j : Nat) : Fld := ⟨R.POS_ERRCNT j, 31, 0⟩
/-- R295. -/
abbrev R.POS_ILLCNT (j : Nat) : Nat := 0x400B0030 + 0x100 * j
abbrev F.POS_ILLCNT_COUNT (j : Nat) : Fld := ⟨R.POS_ILLCNT j, 31, 0⟩
/-- R295. -/
abbrev R.POS_LINECNT (j : Nat) : Nat := 0x400B0034 + 0x100 * j
abbrev F.POS_LINECNT_COUNT (j : Nat) : Fld := ⟨R.POS_LINECNT j, 31, 0⟩
/-! ### RING -/
/-- R402. -/
abbrev R.RING_CFG : Nat := 0x400C0000
abbrev F.RING_CFG_RETYPE : Fld := ⟨R.RING_CFG, 31, 16⟩
abbrev F.RING_CFG_SPEED : Fld := ⟨R.RING_CFG, 4, 4⟩
abbrev F.RING_CFG_EN : Fld := ⟨R.RING_CFG, 0, 0⟩
/-- R402. -/
abbrev R.RING_MAC_L : Nat := 0x400C0004
abbrev F.RING_MAC_L_MAC : Fld := ⟨R.RING_MAC_L, 31, 0⟩
/-- R402. -/
abbrev R.RING_MAC_H : Nat := 0x400C0008
abbrev F.RING_MAC_H_MAC : Fld := ⟨R.RING_MAC_H, 15, 0⟩
/-- R402. -/
abbrev R.RING_SEAMDA : Nat := 0x400C000C
abbrev F.RING_SEAMDA_DA : Fld := ⟨R.RING_SEAMDA, 31, 0⟩
/-- R402. -/
abbrev R.RING_STAT : Nat := 0x400C0010
abbrev F.RING_STAT_NODES : Fld := ⟨R.RING_STAT, 26, 16⟩
abbrev F.RING_STAT_CLASH : Fld := ⟨R.RING_STAT, 3, 3⟩
abbrev F.RING_STAT_BROKEN : Fld := ⟨R.RING_STAT, 2, 2⟩
abbrev F.RING_STAT_LNKB : Fld := ⟨R.RING_STAT, 1, 1⟩
abbrev F.RING_STAT_LNKA : Fld := ⟨R.RING_STAT, 0, 0⟩
/-- R402. -/
abbrev R.RING_EVT : Nat := 0x400C0014
abbrev F.RING_EVT_LEAVE : Fld := ⟨R.RING_EVT, 4, 4⟩
abbrev F.RING_EVT_BYP : Fld := ⟨R.RING_EVT, 3, 3⟩
abbrev F.RING_EVT_BROKEN : Fld := ⟨R.RING_EVT, 2, 2⟩
abbrev F.RING_EVT_LINKB : Fld := ⟨R.RING_EVT, 1, 1⟩
abbrev F.RING_EVT_LINKA : Fld := ⟨R.RING_EVT, 0, 0⟩
/-- R402. -/
abbrev R.RING_LEAVE_L : Nat := 0x400C0018
abbrev F.RING_LEAVE_L_MAC : Fld := ⟨R.RING_LEAVE_L, 31, 0⟩
/-- R402. -/
abbrev R.RING_LEAVE_H : Nat := 0x400C001C
abbrev F.RING_LEAVE_H_MAC : Fld := ⟨R.RING_LEAVE_H, 15, 0⟩
/-- R402. -/
abbrev R.RING_PORT_CTL (p : Nat) : Nat := 0x400C0040 + 0x40 * p
abbrev F.RING_PORT_CTL_TXEN (p : Nat) : Fld := ⟨R.RING_PORT_CTL p, 1, 1⟩
abbrev F.RING_PORT_CTL_PHYRSTN (p : Nat) : Fld := ⟨R.RING_PORT_CTL p, 0, 0⟩
/-- R402. -/
abbrev R.RING_PORT_STAT (p : Nat) : Nat := 0x400C0044 + 0x40 * p
abbrev F.RING_PORT_STAT_TUSE (p : Nat) : Fld := ⟨R.RING_PORT_STAT p, 2, 2⟩
abbrev F.RING_PORT_STAT_PCS (p : Nat) : Fld := ⟨R.RING_PORT_STAT p, 1, 1⟩
abbrev F.RING_PORT_STAT_LINK (p : Nat) : Fld := ⟨R.RING_PORT_STAT p, 0, 0⟩
/-- R402. -/
abbrev R.RING_PORT_TSCOR (p : Nat) : Nat := 0x400C0048 + 0x40 * p
abbrev F.RING_PORT_TSCOR_TX (p : Nat) : Fld := ⟨R.RING_PORT_TSCOR p, 31, 16⟩
abbrev F.RING_PORT_TSCOR_RX (p : Nat) : Fld := ⟨R.RING_PORT_TSCOR p, 15, 0⟩
/-- R402. -/
abbrev R.RING_PORT_PDLY (p : Nat) : Nat := 0x400C004C + 0x40 * p
abbrev F.RING_PORT_PDLY_D (p : Nat) : Fld := ⟨R.RING_PORT_PDLY p, 31, 0⟩
/-- R402. -/
abbrev R.RING_PORT_NRR (p : Nat) : Nat := 0x400C0050 + 0x40 * p
abbrev F.RING_PORT_NRR_PPB (p : Nat) : Fld := ⟨R.RING_PORT_NRR p, 31, 0⟩
/-- R402. -/
abbrev R.RING_PORT_RXCNT (p : Nat) : Nat := 0x400C0054 + 0x40 * p
abbrev F.RING_PORT_RXCNT_COUNT (p : Nat) : Fld := ⟨R.RING_PORT_RXCNT p, 31, 0⟩
/-- R402. -/
abbrev R.RING_PORT_RXERR (p : Nat) : Nat := 0x400C0058 + 0x40 * p
abbrev F.RING_PORT_RXERR_COUNT (p : Nat) : Fld := ⟨R.RING_PORT_RXERR p, 31, 0⟩
/-- R402. -/
abbrev R.RING_PORT_TXCNT (p : Nat) : Nat := 0x400C005C + 0x40 * p
abbrev F.RING_PORT_TXCNT_COUNT (p : Nat) : Fld := ⟨R.RING_PORT_TXCNT p, 31, 0⟩
/-- R402. -/
abbrev R.RING_PORT_DUPCNT (p : Nat) : Nat := 0x400C0060 + 0x40 * p
abbrev F.RING_PORT_DUPCNT_COUNT (p : Nat) : Fld := ⟨R.RING_PORT_DUPCNT p, 31, 0⟩
/-- R402. -/
abbrev R.RING_PORT_FWDDROP (p : Nat) : Nat := 0x400C0064 + 0x40 * p
abbrev F.RING_PORT_FWDDROP_COUNT (p : Nat) : Fld := ⟨R.RING_PORT_FWDDROP p, 31, 0⟩
/-- R402. -/
abbrev R.RING_MDIO_CMD : Nat := 0x400C00C0
abbrev F.RING_MDIO_CMD_GO : Fld := ⟨R.RING_MDIO_CMD, 31, 31⟩
abbrev F.RING_MDIO_CMD_C45 : Fld := ⟨R.RING_MDIO_CMD, 30, 30⟩
abbrev F.RING_MDIO_CMD_OP : Fld := ⟨R.RING_MDIO_CMD, 29, 28⟩
abbrev F.RING_MDIO_CMD_PHYAD : Fld := ⟨R.RING_MDIO_CMD, 25, 21⟩
abbrev F.RING_MDIO_CMD_REG : Fld := ⟨R.RING_MDIO_CMD, 20, 16⟩
abbrev F.RING_MDIO_CMD_DATA : Fld := ⟨R.RING_MDIO_CMD, 15, 0⟩
/-- R402. -/
abbrev R.RING_MDIO_STAT : Nat := 0x400C00C4
abbrev F.RING_MDIO_STAT_BUSY : Fld := ⟨R.RING_MDIO_STAT, 31, 31⟩
abbrev F.RING_MDIO_STAT_NOACK : Fld := ⟨R.RING_MDIO_STAT, 30, 30⟩
abbrev F.RING_MDIO_STAT_RDATA : Fld := ⟨R.RING_MDIO_STAT, 15, 0⟩
/-- R402. -/
abbrev R.RING_MDC : Nat := 0x400C00C8
abbrev F.RING_MDC_DIV : Fld := ⟨R.RING_MDC, 7, 0⟩
/-- R402. -/
abbrev R.RING_BYP : Nat := 0x400C00D0
abbrev F.RING_BYP_TSET : Fld := ⟨R.RING_BYP, 31, 16⟩
abbrev F.RING_BYP_MISMATCH : Fld := ⟨R.RING_BYP, 10, 10⟩
abbrev F.RING_BYP_SENSE : Fld := ⟨R.RING_BYP, 9, 9⟩
abbrev F.RING_BYP_HOLD : Fld := ⟨R.RING_BYP, 8, 8⟩
abbrev F.RING_BYP_LEAVE : Fld := ⟨R.RING_BYP, 1, 1⟩
abbrev F.RING_BYP_INSERT : Fld := ⟨R.RING_BYP, 0, 0⟩
/-- R402. -/
abbrev R.RING_WIN : Nat := 0x400C00E0
abbrev F.RING_WIN_EN : Fld := ⟨R.RING_WIN, 0, 0⟩
/-- R402. -/
abbrev R.RING_WPER : Nat := 0x400C00E4
abbrev F.RING_WPER_PER : Fld := ⟨R.RING_WPER, 20, 0⟩
/-- R402. -/
abbrev R.RING_WOFS : Nat := 0x400C00E8
abbrev F.RING_WOFS_OFS : Fld := ⟨R.RING_WOFS, 20, 0⟩
/-- R402. -/
abbrev R.RING_WLEN : Nat := 0x400C00EC
abbrev F.RING_WLEN_LEN : Fld := ⟨R.RING_WLEN, 20, 0⟩
/-- R402. -/
abbrev R.RING_LQ_CTL (e : Nat) : Nat := 0x400C0400 + 0x10 * e
abbrev F.RING_LQ_CTL_ARM (e : Nat) : Fld := ⟨R.RING_LQ_CTL e, 31, 31⟩
abbrev F.RING_LQ_CTL_SEAM (e : Nat) : Fld := ⟨R.RING_LQ_CTL e, 30, 30⟩
abbrev F.RING_LQ_CTL_PAIR (e : Nat) : Fld := ⟨R.RING_LQ_CTL e, 29, 29⟩
abbrev F.RING_LQ_CTL_DLY (e : Nat) : Fld := ⟨R.RING_LQ_CTL e, 28, 28⟩
abbrev F.RING_LQ_CTL_ST (e : Nat) : Fld := ⟨R.RING_LQ_CTL e, 27, 26⟩
abbrev F.RING_LQ_CTL_LEN (e : Nat) : Fld := ⟨R.RING_LQ_CTL e, 10, 0⟩
/-- R402. -/
abbrev R.RING_LQ_BUF (e : Nat) : Nat := 0x400C0404 + 0x10 * e
abbrev F.RING_LQ_BUF_ADDR (e : Nat) : Fld := ⟨R.RING_LQ_BUF e, 31, 0⟩
/-- R402. -/
abbrev R.RING_LQ_TS (e : Nat) : Nat := 0x400C0408 + 0x10 * e
abbrev F.RING_LQ_TS_S (e : Nat) : Fld := ⟨R.RING_LQ_TS e, 31, 0⟩
/-- R402. -/
abbrev R.RING_LQ_TNS (e : Nat) : Nat := 0x400C040C + 0x10 * e
abbrev F.RING_LQ_TNS_NS (e : Nat) : Fld := ⟨R.RING_LQ_TNS e, 29, 0⟩
/-- R402. -/
abbrev R.RING_SEAM_CFG (n : Nat) : Nat := 0x400C0800 + 0x20 * n
abbrev F.RING_SEAM_CFG_GROUP (n : Nat) : Fld := ⟨R.RING_SEAM_CFG n, 31, 16⟩
abbrev F.RING_SEAM_CFG_MIDX (n : Nat) : Fld := ⟨R.RING_SEAM_CFG n, 15, 14⟩
abbrev F.RING_SEAM_CFG_NMM1 (n : Nat) : Fld := ⟨R.RING_SEAM_CFG n, 13, 12⟩
abbrev F.RING_SEAM_CFG_DIV (n : Nat) : Fld := ⟨R.RING_SEAM_CFG n, 11, 6⟩
abbrev F.RING_SEAM_CFG_QENT (n : Nat) : Fld := ⟨R.RING_SEAM_CFG n, 5, 1⟩
abbrev F.RING_SEAM_CFG_EN (n : Nat) : Fld := ⟨R.RING_SEAM_CFG n, 0, 0⟩
/-- R402. -/
abbrev R.RING_SEAM_LOFS (n : Nat) : Nat := 0x400C0804 + 0x20 * n
abbrev F.RING_SEAM_LOFS_C (n : Nat) : Fld := ⟨R.RING_SEAM_LOFS n, 20, 0⟩
/-- R402. -/
abbrev R.RING_SEAM_DL (n : Nat) : Nat := 0x400C0808 + 0x20 * n
abbrev F.RING_SEAM_DL_C (n : Nat) : Fld := ⟨R.RING_SEAM_DL n, 20, 0⟩
/-- R402. -/
abbrev R.RING_SEAM_MISSCNT (n : Nat) : Nat := 0x400C080C + 0x20 * n
abbrev F.RING_SEAM_MISSCNT_COUNT (n : Nat) : Fld := ⟨R.RING_SEAM_MISSCNT n, 31, 0⟩
/-- R402. -/
abbrev R.RING_SEAM_LOSTCNT (n : Nat) : Nat := 0x400C0810 + 0x20 * n
abbrev F.RING_SEAM_LOSTCNT_COUNT (n : Nat) : Fld := ⟨R.RING_SEAM_LOSTCNT n, 31, 0⟩
/-- R402. -/
abbrev R.RING_SEAM_BADCNT (n : Nat) : Nat := 0x400C0814 + 0x20 * n
abbrev F.RING_SEAM_BADCNT_COUNT (n : Nat) : Fld := ⟨R.RING_SEAM_BADCNT n, 31, 0⟩
/-! ### TIME -/
/-- R403. -/
abbrev R.TIME_STAT : Nat := 0x400D0000
abbrev F.TIME_STAT_SELP : Fld := ⟨R.TIME_STAT, 5, 5⟩
abbrev F.TIME_STAT_LCONV : Fld := ⟨R.TIME_STAT, 4, 4⟩
abbrev F.TIME_STAT_LFIRST : Fld := ⟨R.TIME_STAT, 3, 3⟩
abbrev F.TIME_STAT_STATE : Fld := ⟨R.TIME_STAT, 2, 0⟩
/-- R403. -/
abbrev R.TIME_CT_SL : Nat := 0x400D0004
abbrev F.TIME_CT_SL_S : Fld := ⟨R.TIME_CT_SL, 31, 0⟩
/-- R403. -/
abbrev R.TIME_CT_SH : Nat := 0x400D0008
abbrev F.TIME_CT_SH_S : Fld := ⟨R.TIME_CT_SH, 15, 0⟩
/-- R403. -/
abbrev R.TIME_CT_NS : Nat := 0x400D000C
abbrev F.TIME_CT_NS_NS : Fld := ⟨R.TIME_CT_NS, 29, 0⟩
/-- R403. -/
abbrev R.TIME_CT_FR : Nat := 0x400D0010
abbrev F.TIME_CT_FR_F : Fld := ⟨R.TIME_CT_FR, 31, 0⟩
/-- R403. -/
abbrev R.TIME_LT_SL : Nat := 0x400D0014
abbrev F.TIME_LT_SL_S : Fld := ⟨R.TIME_LT_SL, 31, 0⟩
/-- R403. -/
abbrev R.TIME_LT_SH : Nat := 0x400D0018
abbrev F.TIME_LT_SH_S : Fld := ⟨R.TIME_LT_SH, 15, 0⟩
/-- R403. -/
abbrev R.TIME_LT_NS : Nat := 0x400D001C
abbrev F.TIME_LT_NS_NS : Fld := ⟨R.TIME_LT_NS, 29, 0⟩
/-- R403. -/
abbrev R.TIME_LT_FR : Nat := 0x400D0020
abbrev F.TIME_LT_FR_F : Fld := ⟨R.TIME_LT_FR, 31, 0⟩
/-- R403. -/
abbrev R.TIME_OFS : Nat := 0x400D0024
abbrev F.TIME_OFS_O : Fld := ⟨R.TIME_OFS, 31, 0⟩
/-- R403. -/
abbrev R.TIME_RATE : Nat := 0x400D0028
abbrev F.TIME_RATE_R : Fld := ⟨R.TIME_RATE, 31, 0⟩
/-- R403. -/
abbrev R.TIME_LDIFF : Nat := 0x400D002C
abbrev F.TIME_LDIFF_D : Fld := ⟨R.TIME_LDIFF, 31, 0⟩
/-- R403. -/
abbrev R.TIME_GMID_L : Nat := 0x400D0030
abbrev F.TIME_GMID_L_ID : Fld := ⟨R.TIME_GMID_L, 31, 0⟩
/-- R403. -/
abbrev R.TIME_GMID_H : Nat := 0x400D0034
abbrev F.TIME_GMID_H_ID : Fld := ⟨R.TIME_GMID_H, 31, 0⟩
/-- R403. -/
abbrev R.TIME_UTCOFS : Nat := 0x400D0038
abbrev F.TIME_UTCOFS_S : Fld := ⟨R.TIME_UTCOFS, 15, 0⟩
/-- R403. -/
abbrev R.TIME_STEPCNT : Nat := 0x400D003C
abbrev F.TIME_STEPCNT_COUNT : Fld := ⟨R.TIME_STEPCNT, 31, 0⟩
/-- R403. -/
abbrev R.TIME_SYNCCNT : Nat := 0x400D0040
abbrev F.TIME_SYNCCNT_COUNT : Fld := ⟨R.TIME_SYNCCNT, 31, 0⟩
/-- R403. -/
abbrev R.TIME_KP : Nat := 0x400D0080
abbrev F.TIME_KP_K : Fld := ⟨R.TIME_KP, 31, 0⟩
/-- R403. -/
abbrev R.TIME_KI : Nat := 0x400D0084
abbrev F.TIME_KI_K : Fld := ⟨R.TIME_KI, 31, 0⟩
/-- R403. -/
abbrev R.TIME_RMAX : Nat := 0x400D0088
abbrev F.TIME_RMAX_R : Fld := ⟨R.TIME_RMAX, 31, 0⟩
/-- R403. -/
abbrev R.TIME_STEPTHR : Nat := 0x400D008C
abbrev F.TIME_STEPTHR_NS : Fld := ⟨R.TIME_STEPTHR, 31, 0⟩
/-- R403. -/
abbrev R.TIME_LOCK : Nat := 0x400D0090
abbrev F.TIME_LOCK_N : Fld := ⟨R.TIME_LOCK, 23, 16⟩
abbrev F.TIME_LOCK_THR : Fld := ⟨R.TIME_LOCK, 15, 0⟩
/-- R403. -/
abbrev R.TIME_UNLOCK : Nat := 0x400D0094
abbrev F.TIME_UNLOCK_N : Fld := ⟨R.TIME_UNLOCK, 23, 16⟩
abbrev F.TIME_UNLOCK_THR : Fld := ⟨R.TIME_UNLOCK, 15, 0⟩
/-- R403. -/
abbrev R.TIME_SYNCLOSS : Nat := 0x400D0098
abbrev F.TIME_SYNCLOSS_N : Fld := ⟨R.TIME_SYNCLOSS, 7, 0⟩
/-- R403. -/
abbrev R.TIME_LRMAX : Nat := 0x400D009C
abbrev F.TIME_LRMAX_R : Fld := ⟨R.TIME_LRMAX, 31, 0⟩
/-- R403. -/
abbrev R.TIME_LK : Nat := 0x400D00A0
abbrev F.TIME_LK_K : Fld := ⟨R.TIME_LK, 31, 0⟩
/-- R403. -/
abbrev R.TIME_PTP : Nat := 0x400D00C0
abbrev F.TIME_PTP_PRIO2 : Fld := ⟨R.TIME_PTP, 31, 24⟩
abbrev F.TIME_PTP_PRIO1 : Fld := ⟨R.TIME_PTP, 23, 16⟩
abbrev F.TIME_PTP_SYNCSEL : Fld := ⟨R.TIME_PTP, 10, 9⟩
abbrev F.TIME_PTP_SLAVEONLY : Fld := ⟨R.TIME_PTP, 8, 8⟩
abbrev F.TIME_PTP_DOMAIN : Fld := ⟨R.TIME_PTP, 6, 0⟩
/-- R403. -/
abbrev R.TIME_PDMAX : Nat := 0x400D00C4
abbrev F.TIME_PDMAX_NS : Fld := ⟨R.TIME_PDMAX, 15, 0⟩
/-! ### FIELD -/
/-- R438. -/
abbrev R.FIELD_CTL : Nat := 0x400E0000
abbrev F.FIELD_CTL_PAIR : Fld := ⟨R.FIELD_CTL, 7, 0⟩
/-- R438. -/
abbrev R.FIELD_STAT : Nat := 0x400E0004
abbrev F.FIELD_STAT_NACT : Fld := ⟨R.FIELD_STAT, 11, 0⟩
/-- R438. -/
abbrev R.FIELD_SUBMIN : Nat := 0x400E0008
abbrev F.FIELD_SUBMIN_MS : Fld := ⟨R.FIELD_SUBMIN, 15, 0⟩
/-- R438. -/
abbrev R.FIELD_SUBN : Nat := 0x400E000C
abbrev F.FIELD_SUBN_N : Fld := ⟨R.FIELD_SUBN, 12, 0⟩
/-- R438. -/
abbrev R.FIELD_SWR_A : Nat := 0x400E0010
abbrev F.FIELD_SWR_A_ADDR : Fld := ⟨R.FIELD_SWR_A, 19, 0⟩
/-- R438. -/
abbrev R.FIELD_SWR_V : Nat := 0x400E0014
abbrev F.FIELD_SWR_V_V : Fld := ⟨R.FIELD_SWR_V, 31, 0⟩
/-- R438. -/
abbrev R.FIELD_WRREJ : Nat := 0x400E0018
abbrev F.FIELD_WRREJ_COUNT : Fld := ⟨R.FIELD_WRREJ, 31, 0⟩
/-- R438. -/
abbrev R.FIELD_LASTF : Nat := 0x400E001C
abbrev F.FIELD_LASTF_PORT : Fld := ⟨R.FIELD_LASTF, 11, 8⟩
abbrev F.FIELD_LASTF_ADDR : Fld := ⟨R.FIELD_LASTF, 7, 0⟩
/-- R438. -/
abbrev R.FIELD_SCH_SEL : Nat := 0x400E0020
abbrev F.FIELD_SCH_SEL_PORT : Fld := ⟨R.FIELD_SCH_SEL, 15, 12⟩
abbrev F.FIELD_SCH_SEL_SLOT : Fld := ⟨R.FIELD_SCH_SEL, 8, 0⟩
/-- R438. -/
abbrev R.FIELD_SCH_D0 : Nat := 0x400E0024
abbrev F.FIELD_SCH_D0_D : Fld := ⟨R.FIELD_SCH_D0, 31, 0⟩
/-- R438. -/
abbrev R.FIELD_SCH_D1 : Nat := 0x400E0028
abbrev F.FIELD_SCH_D1_D : Fld := ⟨R.FIELD_SCH_D1, 31, 0⟩
/-- R438. -/
abbrev R.FIELD_NT_SEL : Nat := 0x400E0030
abbrev F.FIELD_NT_SEL_IDX : Fld := ⟨R.FIELD_NT_SEL, 11, 0⟩
/-- R438. -/
abbrev R.FIELD_NT_SER : Nat := 0x400E0034
abbrev F.FIELD_NT_SER_SERIAL : Fld := ⟨R.FIELD_NT_SER, 31, 0⟩
/-- R438. -/
abbrev R.FIELD_NT_LOC : Nat := 0x400E0038
abbrev F.FIELD_NT_LOC_DUAL : Fld := ⟨R.FIELD_NT_LOC, 16, 16⟩
abbrev F.FIELD_NT_LOC_VALID : Fld := ⟨R.FIELD_NT_LOC, 15, 15⟩
abbrev F.FIELD_NT_LOC_PORT : Fld := ⟨R.FIELD_NT_LOC, 11, 8⟩
abbrev F.FIELD_NT_LOC_ADDR : Fld := ⟨R.FIELD_NT_LOC, 7, 0⟩
/-- R438. -/
abbrev R.FIELD_CLR : Nat := 0x400E003C
abbrev F.FIELD_CLR_CNT : Fld := ⟨R.FIELD_CLR, 0, 0⟩
/-- R439. -/
abbrev R.FIELD_PORT_CTL (j : Nat) : Nat := 0x400E0100 + 0x40 * j
abbrev F.FIELD_PORT_CTL_NLOST (j : Nat) : Fld := ⟨R.FIELD_PORT_CTL j, 31, 28⟩
abbrev F.FIELD_PORT_CTL_RATE (j : Nat) : Fld := ⟨R.FIELD_PORT_CTL j, 27, 24⟩
abbrev F.FIELD_PORT_CTL_VMAX (j : Nat) : Fld := ⟨R.FIELD_PORT_CTL j, 23, 22⟩
abbrev F.FIELD_PORT_CTL_AUTO (j : Nat) : Fld := ⟨R.FIELD_PORT_CTL j, 21, 21⟩
abbrev F.FIELD_PORT_CTL_FREEZE (j : Nat) : Fld := ⟨R.FIELD_PORT_CTL j, 20, 20⟩
abbrev F.FIELD_PORT_CTL_EN (j : Nat) : Fld := ⟨R.FIELD_PORT_CTL j, 0, 0⟩
/-- R439. -/
abbrev R.FIELD_PORT_CYC (j : Nat) : Nat := 0x400E0104 + 0x40 * j
abbrev F.FIELD_PORT_CYC_US (j : Nat) : Fld := ⟨R.FIELD_PORT_CYC j, 19, 0⟩
/-- R439. -/
abbrev R.FIELD_PORT_ACYC (j : Nat) : Nat := 0x400E0108 + 0x40 * j
abbrev F.FIELD_PORT_ACYC_US (j : Nat) : Fld := ⟨R.FIELD_PORT_ACYC j, 19, 0⟩
/-- R439. -/
abbrev R.FIELD_PORT_NSLOT (j : Nat) : Nat := 0x400E010C + 0x40 * j
abbrev F.FIELD_PORT_NSLOT_N (j : Nat) : Fld := ⟨R.FIELD_PORT_NSLOT j, 9, 0⟩
/-- R439. -/
abbrev R.FIELD_PORT_STAT (j : Nat) : Nat := 0x400E0110 + 0x40 * j
abbrev F.FIELD_PORT_STAT_NACT (j : Nat) : Fld := ⟨R.FIELD_PORT_STAT j, 15, 8⟩
abbrev F.FIELD_PORT_STAT_DISC (j : Nat) : Fld := ⟨R.FIELD_PORT_STAT j, 2, 2⟩
abbrev F.FIELD_PORT_STAT_OVR (j : Nat) : Fld := ⟨R.FIELD_PORT_STAT j, 1, 1⟩
abbrev F.FIELD_PORT_STAT_RUN (j : Nat) : Fld := ⟨R.FIELD_PORT_STAT j, 0, 0⟩
/-- R439. -/
abbrev R.FIELD_PORT_CYCCNT (j : Nat) : Nat := 0x400E0114 + 0x40 * j
abbrev F.FIELD_PORT_CYCCNT_COUNT (j : Nat) : Fld := ⟨R.FIELD_PORT_CYCCNT j, 31, 0⟩
/-- R439. -/
abbrev R.FIELD_PORT_CYCMAX (j : Nat) : Nat := 0x400E0118 + 0x40 * j
abbrev F.FIELD_PORT_CYCMAX_US (j : Nat) : Fld := ⟨R.FIELD_PORT_CYCMAX j, 19, 0⟩
/-- R439. -/
abbrev R.FIELD_PORT_ERRCNT (j : Nat) : Nat := 0x400E011C + 0x40 * j
abbrev F.FIELD_PORT_ERRCNT_COUNT (j : Nat) : Fld := ⟨R.FIELD_PORT_ERRCNT j, 31, 0⟩
/-- R439. -/
abbrev R.FIELD_PORT_TOCNT (j : Nat) : Nat := 0x400E0120 + 0x40 * j
abbrev F.FIELD_PORT_TOCNT_COUNT (j : Nat) : Fld := ⟨R.FIELD_PORT_TOCNT j, 31, 0⟩
/-- R439. -/
abbrev R.FIELD_PORT_OVRCNT (j : Nat) : Nat := 0x400E0124 + 0x40 * j
abbrev F.FIELD_PORT_OVRCNT_COUNT (j : Nat) : Fld := ⟨R.FIELD_PORT_OVRCNT j, 31, 0⟩
/-- R439. -/
abbrev R.FIELD_PORT_UNKCNT (j : Nat) : Nat := 0x400E0128 + 0x40 * j
abbrev F.FIELD_PORT_UNKCNT_COUNT (j : Nat) : Fld := ⟨R.FIELD_PORT_UNKCNT j, 31, 0⟩
/-- R439. -/
abbrev R.FIELD_PORT_DISCCNT (j : Nat) : Nat := 0x400E012C + 0x40 * j
abbrev F.FIELD_PORT_DISCCNT_COUNT (j : Nat) : Fld := ⟨R.FIELD_PORT_DISCCNT j, 31, 0⟩
/-- R440. -/
abbrev R.FIELD_NODE (j a : Nat) : Nat := 0x400E1000 + 0x400 * j + 0x4 * a
abbrev F.FIELD_NODE_MAXLEN (j a : Nat) : Fld := ⟨R.FIELD_NODE j a, 31, 24⟩
abbrev F.FIELD_NODE_VER (j a : Nat) : Fld := ⟨R.FIELD_NODE j a, 23, 22⟩
abbrev F.FIELD_NODE_DUAL (j a : Nat) : Fld := ⟨R.FIELD_NODE j a, 21, 21⟩
abbrev F.FIELD_NODE_ALTOK (j a : Nat) : Fld := ⟨R.FIELD_NODE j a, 20, 20⟩
abbrev F.FIELD_NODE_PRIOK (j a : Nat) : Fld := ⟨R.FIELD_NODE j a, 19, 19⟩
abbrev F.FIELD_NODE_STATE (j a : Nat) : Fld := ⟨R.FIELD_NODE j a, 18, 16⟩
abbrev F.FIELD_NODE_MISS (j a : Nat) : Fld := ⟨R.FIELD_NODE j a, 15, 9⟩
abbrev F.FIELD_NODE_NPT (j a : Nat) : Fld := ⟨R.FIELD_NODE j a, 8, 0⟩
/-- R440. -/
abbrev R.FIELD_NSER (j a : Nat) : Nat := 0x400E5000 + 0x400 * j + 0x4 * a
abbrev F.FIELD_NSER_SERIAL (j a : Nat) : Fld := ⟨R.FIELD_NSER j a, 31, 0⟩
/-! ### MASTER -/
/-- R366. -/
abbrev R.MASTER_CFG : Nat := 0x400F0000
abbrev F.MASTER_CFG_ETYPE : Fld := ⟨R.MASTER_CFG, 31, 16⟩
abbrev F.MASTER_CFG_HBSTOP : Fld := ⟨R.MASTER_CFG, 7, 7⟩
abbrev F.MASTER_CFG_MRESTART : Fld := ⟨R.MASTER_CFG, 6, 6⟩
abbrev F.MASTER_CFG_AUTH : Fld := ⟨R.MASTER_CFG, 5, 5⟩
abbrev F.MASTER_CFG_RVER : Fld := ⟨R.MASTER_CFG, 4, 4⟩
abbrev F.MASTER_CFG_PATH : Fld := ⟨R.MASTER_CFG, 0, 0⟩
/-- R366. -/
abbrev R.MASTER_NEXTSEQ : Nat := 0x400F0004
abbrev F.MASTER_NEXTSEQ_SEQ : Fld := ⟨R.MASTER_NEXTSEQ, 31, 0⟩
/-- R366. -/
abbrev R.MASTER_EPOCH : Nat := 0x400F0008
abbrev F.MASTER_EPOCH_E : Fld := ⟨R.MASTER_EPOCH, 15, 0⟩
/-- R366. -/
abbrev R.MASTER_RSEQ : Nat := 0x400F000C
abbrev F.MASTER_RSEQ_R : Fld := ⟨R.MASTER_RSEQ, 31, 0⟩
/-- R366. -/
abbrev R.MASTER_ACK_RSEQ : Nat := 0x400F0010
abbrev F.MASTER_ACK_RSEQ_R : Fld := ⟨R.MASTER_ACK_RSEQ, 31, 0⟩
/-- R366. -/
abbrev R.MASTER_ACK_EPOCH : Nat := 0x400F0014
abbrev F.MASTER_ACK_EPOCH_E : Fld := ⟨R.MASTER_ACK_EPOCH, 15, 0⟩
/-- R366. -/
abbrev R.MASTER_HBTO : Nat := 0x400F0018
abbrev F.MASTER_HBTO_MS : Fld := ⟨R.MASTER_HBTO, 15, 0⟩
/-- R366. -/
abbrev R.MASTER_RTO : Nat := 0x400F001C
abbrev F.MASTER_RTO_MS : Fld := ⟨R.MASTER_RTO, 13, 0⟩
/-- R366. -/
abbrev R.MASTER_MMAC_L : Nat := 0x400F0020
abbrev F.MASTER_MMAC_L_MAC : Fld := ⟨R.MASTER_MMAC_L, 31, 0⟩
/-- R366. -/
abbrev R.MASTER_MMAC_H : Nat := 0x400F0024
abbrev F.MASTER_MMAC_H_MAC : Fld := ⟨R.MASTER_MMAC_H, 15, 0⟩
/-- R366. -/
abbrev R.MASTER_JSTAT : Nat := 0x400F0030
abbrev F.MASTER_JSTAT_FREE : Fld := ⟨R.MASTER_JSTAT, 23, 16⟩
abbrev F.MASTER_JSTAT_M1LOST : Fld := ⟨R.MASTER_JSTAT, 6, 6⟩
abbrev F.MASTER_JSTAT_M0LOST : Fld := ⟨R.MASTER_JSTAT, 5, 5⟩
abbrev F.MASTER_JSTAT_HALT : Fld := ⟨R.MASTER_JSTAT, 4, 4⟩
abbrev F.MASTER_JSTAT_RECOV : Fld := ⟨R.MASTER_JSTAT, 3, 3⟩
abbrev F.MASTER_JSTAT_OPEN : Fld := ⟨R.MASTER_JSTAT, 2, 2⟩
abbrev F.MASTER_JSTAT_PFAIL : Fld := ⟨R.MASTER_JSTAT, 1, 1⟩
abbrev F.MASTER_JSTAT_WIN : Fld := ⟨R.MASTER_JSTAT, 0, 0⟩
/-- R366. -/
abbrev R.MASTER_BATCHMAX : Nat := 0x400F0034
abbrev F.MASTER_BATCHMAX_NS : Fld := ⟨R.MASTER_BATCHMAX, 15, 0⟩
/-- R366. -/
abbrev R.MASTER_QSTAT : Nat := 0x400F0038
abbrev F.MASTER_QSTAT_UNACK : Fld := ⟨R.MASTER_QSTAT, 26, 16⟩
abbrev F.MASTER_QSTAT_QN : Fld := ⟨R.MASTER_QSTAT, 6, 0⟩
/-- R366. -/
abbrev R.MASTER_CNT (c : Nat) : Nat := 0x400F0040 + 0x4 * c
abbrev F.MASTER_CNT_COUNT (c : Nat) : Fld := ⟨R.MASTER_CNT c, 31, 0⟩
/-- R366. -/
abbrev R.MASTER_CNTCLR : Nat := 0x400F0060
abbrev F.MASTER_CNTCLR_BMAX : Fld := ⟨R.MASTER_CNTCLR, 8, 8⟩
abbrev F.MASTER_CNTCLR_CNT : Fld := ⟨R.MASTER_CNTCLR, 7, 0⟩
/-- R366. -/
abbrev R.MASTER_LANE_RUN (l : Nat) : Nat := 0x400F0100 + 0x8 * l
abbrev F.MASTER_LANE_RUN_SEQ (l : Nat) : Fld := ⟨R.MASTER_LANE_RUN l, 31, 0⟩
/-- R366. -/
abbrev R.MASTER_LANE_STAT (l : Nat) : Nat := 0x400F0104 + 0x8 * l
abbrev F.MASTER_LANE_STAT_QUEUED (l : Nat) : Fld := ⟨R.MASTER_LANE_STAT l, 15, 8⟩
abbrev F.MASTER_LANE_STAT_CANCELREQ (l : Nat) : Fld := ⟨R.MASTER_LANE_STAT l, 1, 1⟩
abbrev F.MASTER_LANE_STAT_BUSY (l : Nat) : Fld := ⟨R.MASTER_LANE_STAT l, 0, 0⟩
/-! ### NVM -/
/-- R500. -/
abbrev R.NVM_STAT : Nat := 0x40100000
abbrev F.NVM_STAT_CHUNK : Fld := ⟨R.NVM_STAT, 2, 2⟩
abbrev F.NVM_STAT_URGENT : Fld := ⟨R.NVM_STAT, 1, 1⟩
abbrev F.NVM_STAT_WIN : Fld := ⟨R.NVM_STAT, 0, 0⟩
/-- R500. -/
abbrev R.NVM_SCRUB : Nat := 0x40100004
abbrev F.NVM_SCRUB_HOURS : Fld := ⟨R.NVM_SCRUB, 7, 0⟩
/-- R500. -/
abbrev R.NVM_CECNT (m : Nat) : Nat := 0x40100008 + 0x4 * m
abbrev F.NVM_CECNT_COUNT (m : Nat) : Fld := ⟨R.NVM_CECNT m, 31, 0⟩
/-- R500. -/
abbrev R.NVM_UECNT (m : Nat) : Nat := 0x40100010 + 0x4 * m
abbrev F.NVM_UECNT_COUNT (m : Nat) : Fld := ⟨R.NVM_UECNT m, 31, 0⟩
/-- R500. -/
abbrev R.NVM_LOG_HEAD : Nat := 0x40100018
abbrev F.NVM_LOG_HEAD_LAP : Fld := ⟨R.NVM_LOG_HEAD, 17, 16⟩
abbrev F.NVM_LOG_HEAD_IDX : Fld := ⟨R.NVM_LOG_HEAD, 15, 0⟩
/-- R500. -/
abbrev R.NVM_WEAR_SEL : Nat := 0x40100020
abbrev F.NVM_WEAR_SEL_REGION : Fld := ⟨R.NVM_WEAR_SEL, 7, 0⟩
/-- R500. -/
abbrev R.NVM_WEAR : Nat := 0x40100024
abbrev F.NVM_WEAR_PASSES : Fld := ⟨R.NVM_WEAR, 31, 0⟩
/-! ### SE -/
/-- R91. -/
abbrev R.SE_CTL : Nat := 0x40110000
abbrev F.SE_CTL_TPAIR : Fld := ⟨R.SE_CTL, 7, 4⟩
abbrev F.SE_CTL_RETEST : Fld := ⟨R.SE_CTL, 0, 0⟩
/-- R91. -/
abbrev R.SE_SPARE : Nat := 0x40110004
abbrev F.SE_SPARE_AVAIL : Fld := ⟨R.SE_SPARE, 8, 8⟩
abbrev F.SE_SPARE_PAIR : Fld := ⟨R.SE_SPARE, 3, 0⟩
/-- R91. -/
abbrev R.SE_PAIR_STAT (p : Nat) : Nat := 0x40110010 + 0x4 * p
abbrev F.SE_PAIR_STAT_KEPT (p : Nat) : Fld := ⟨R.SE_PAIR_STAT p, 26, 24⟩
abbrev F.SE_PAIR_STAT_CE (p : Nat) : Fld := ⟨R.SE_PAIR_STAT p, 23, 16⟩
abbrev F.SE_PAIR_STAT_MISM (p : Nat) : Fld := ⟨R.SE_PAIR_STAT p, 15, 8⟩
abbrev F.SE_PAIR_STAT_HOME (p : Nat) : Fld := ⟨R.SE_PAIR_STAT p, 7, 4⟩
abbrev F.SE_PAIR_STAT_STATE (p : Nat) : Fld := ⟨R.SE_PAIR_STAT p, 2, 0⟩
/-- R91. -/
abbrev R.SE_TAKE_LAST : Nat := 0x40110040
abbrev F.SE_TAKE_LAST_RDUR : Fld := ⟨R.SE_TAKE_LAST, 31, 16⟩
abbrev F.SE_TAKE_LAST_HOST : Fld := ⟨R.SE_TAKE_LAST, 11, 8⟩
abbrev F.SE_TAKE_LAST_HOME : Fld := ⟨R.SE_TAKE_LAST, 7, 4⟩
abbrev F.SE_TAKE_LAST_RESULT : Fld := ⟨R.SE_TAKE_LAST, 1, 0⟩
/-- R91. -/
abbrev R.SE_CKPT_BASE_L : Nat := 0x40110048
abbrev F.SE_CKPT_BASE_L_ADDR : Fld := ⟨R.SE_CKPT_BASE_L, 31, 17⟩
/-- R91. -/
abbrev R.SE_CKPT_BASE_H : Nat := 0x4011004C
abbrev F.SE_CKPT_BASE_H_ADDR : Fld := ⟨R.SE_CKPT_BASE_H, 31, 17⟩
/-- R91. -/
abbrev R.SE_IMG_BASE_L : Nat := 0x40110050
abbrev F.SE_IMG_BASE_L_ADDR : Fld := ⟨R.SE_IMG_BASE_L, 31, 16⟩
/-- R91. -/
abbrev R.SE_IMG_BASE_H : Nat := 0x40110054
abbrev F.SE_IMG_BASE_H_ADDR : Fld := ⟨R.SE_IMG_BASE_H, 31, 16⟩
/-- R91. -/
abbrev R.SE_TASK_SEL : Nat := 0x40110080
abbrev F.SE_TASK_SEL_PAIR : Fld := ⟨R.SE_TASK_SEL, 7, 4⟩
abbrev F.SE_TASK_SEL_TASK : Fld := ⟨R.SE_TASK_SEL, 3, 0⟩
/-- R91. -/
abbrev R.SE_TASK_DESC0 : Nat := 0x40110084
abbrev F.SE_TASK_DESC0_EN : Fld := ⟨R.SE_TASK_DESC0, 31, 31⟩
abbrev F.SE_TASK_DESC0_SRC : Fld := ⟨R.SE_TASK_DESC0, 30, 28⟩
abbrev F.SE_TASK_DESC0_POCKET : Fld := ⟨R.SE_TASK_DESC0, 27, 27⟩
abbrev F.SE_TASK_DESC0_IDX : Fld := ⟨R.SE_TASK_DESC0, 19, 0⟩
/-- R91. -/
abbrev R.SE_TASK_DESC1 : Nat := 0x40110088
abbrev F.SE_TASK_DESC1_BG : Fld := ⟨R.SE_TASK_DESC1, 25, 25⟩
abbrev F.SE_TASK_DESC1_FLIM : Fld := ⟨R.SE_TASK_DESC1, 23, 20⟩
abbrev F.SE_TASK_DESC1_BUDGET : Fld := ⟨R.SE_TASK_DESC1, 19, 0⟩
/-- R91. -/
abbrev R.SE_TASK_STAT : Nat := 0x4011008C
abbrev F.SE_TASK_STAT_COAL : Fld := ⟨R.SE_TASK_STAT, 31, 24⟩
abbrev F.SE_TASK_STAT_LASTFLT : Fld := ⟨R.SE_TASK_STAT, 23, 8⟩
abbrev F.SE_TASK_STAT_FCNT : Fld := ⟨R.SE_TASK_STAT, 7, 4⟩
abbrev F.SE_TASK_STAT_PEND : Fld := ⟨R.SE_TASK_STAT, 3, 3⟩
abbrev F.SE_TASK_STAT_STATE : Fld := ⟨R.SE_TASK_STAT, 2, 0⟩
/-- R91. -/
abbrev R.SE_TASK_ACT : Nat := 0x40110090
abbrev F.SE_TASK_ACT_COUNT : Fld := ⟨R.SE_TASK_ACT, 31, 0⟩
/-- R91. -/
abbrev R.SE_MEM_SEL : Nat := 0x401100A0
abbrev F.SE_MEM_SEL_SPACE : Fld := ⟨R.SE_MEM_SEL, 8, 8⟩
abbrev F.SE_MEM_SEL_PAIR : Fld := ⟨R.SE_MEM_SEL, 3, 0⟩
/-- R91. -/
abbrev R.SE_MEM_ADDR : Nat := 0x401100A4
abbrev F.SE_MEM_ADDR_WORD : Fld := ⟨R.SE_MEM_ADDR, 16, 2⟩
/-- R91. -/
abbrev R.SE_MEM_DATA : Nat := 0x401100A8
abbrev F.SE_MEM_DATA_DATA : Fld := ⟨R.SE_MEM_DATA, 31, 0⟩
/-- R91. -/
abbrev R.SE_COEF_SEL : Nat := 0x401100C0
abbrev F.SE_COEF_SEL_WORD : Fld := ⟨R.SE_COEF_SEL, 15, 12⟩
abbrev F.SE_COEF_SEL_BANK : Fld := ⟨R.SE_COEF_SEL, 10, 10⟩
abbrev F.SE_COEF_SEL_LOOP : Fld := ⟨R.SE_COEF_SEL, 9, 0⟩
/-- R91. -/
abbrev R.SE_COEF_DATA : Nat := 0x401100C4
abbrev F.SE_COEF_DATA_DATA : Fld := ⟨R.SE_COEF_DATA, 31, 0⟩
/-- R91. -/
abbrev R.SE_COEF_SWAP : Nat := 0x401100C8
abbrev F.SE_COEF_SWAP_BANK : Fld := ⟨R.SE_COEF_SWAP, 10, 10⟩
abbrev F.SE_COEF_SWAP_LOOP : Fld := ⟨R.SE_COEF_SWAP, 9, 0⟩
/-- R91. -/
abbrev R.SE_TMR_CTL (k : Nat) : Nat := 0x40110100 + 0x8 * k
abbrev F.SE_TMR_CTL_EN (k : Nat) : Fld := ⟨R.SE_TMR_CTL k, 31, 31⟩
abbrev F.SE_TMR_CTL_ONESHOT (k : Nat) : Fld := ⟨R.SE_TMR_CTL k, 30, 30⟩
/-- R91. -/
abbrev R.SE_TMR_PER (k : Nat) : Nat := 0x40110104 + 0x8 * k
abbrev F.SE_TMR_PER_PERIOD (k : Nat) : Fld := ⟨R.SE_TMR_PER k, 23, 0⟩
/-- R500. -/
abbrev R.SE_SWAP : Nat := 0x40110060
abbrev F.SE_SWAP_GO : Fld := ⟨R.SE_SWAP, 31, 31⟩
abbrev F.SE_SWAP_PAIR : Fld := ⟨R.SE_SWAP, 3, 0⟩
/-- R500. -/
abbrev R.SE_SWAP_STAT : Nat := 0x40110064
abbrev F.SE_SWAP_STAT_WAIT : Fld := ⟨R.SE_SWAP_STAT, 31, 16⟩
abbrev F.SE_SWAP_STAT_RESULT : Fld := ⟨R.SE_SWAP_STAT, 1, 0⟩
/-! ### COX and MBOX -/
/-- R469. -/
abbrev R.MBOX_REQ (p : Nat) : Nat := 0x40120000 + 0x40 * p
abbrev F.MBOX_REQ_SEQ (p : Nat) : Fld := ⟨R.MBOX_REQ p, 15, 8⟩
abbrev F.MBOX_REQ_CODE (p : Nat) : Fld := ⟨R.MBOX_REQ p, 7, 0⟩
/-- R469. -/
abbrev R.MBOX_ARG (p i : Nat) : Nat := 0x40120004 + 0x40 * p + 0x4 * i
abbrev F.MBOX_ARG_A (p i : Nat) : Fld := ⟨R.MBOX_ARG p i, 31, 0⟩
/-- R469. -/
abbrev R.MBOX_RSP (p : Nat) : Nat := 0x40120014 + 0x40 * p
abbrev F.MBOX_RSP_OVF (p : Nat) : Fld := ⟨R.MBOX_RSP p, 16, 16⟩
abbrev F.MBOX_RSP_SEQ (p : Nat) : Fld := ⟨R.MBOX_RSP p, 15, 8⟩
abbrev F.MBOX_RSP_RESULT (p : Nat) : Fld := ⟨R.MBOX_RSP p, 7, 0⟩
/-- R500. -/
abbrev R.COX_LOCK_DEV : Nat := 0x40121000
abbrev F.COX_LOCK_DEV_ACT : Fld := ⟨R.COX_LOCK_DEV, 7, 0⟩
/-- R500. -/
abbrev R.COX_LOCK_DIAG : Nat := 0x40121004
abbrev F.COX_LOCK_DIAG_CREWS : Fld := ⟨R.COX_LOCK_DIAG, 31, 0⟩
/-- R500. -/
abbrev R.COX_LOCK_CAL : Nat := 0x40121008
abbrev F.COX_LOCK_CAL_CREWS : Fld := ⟨R.COX_LOCK_CAL, 31, 0⟩
/-- R500. -/
abbrev R.COX_LOCK_Q (k : Nat) : Nat := 0x40121010 + 0x4 * k
abbrev F.COX_LOCK_Q_VALID (k : Nat) : Fld := ⟨R.COX_LOCK_Q k, 31, 31⟩
abbrev F.COX_LOCK_Q_CREW (k : Nat) : Fld := ⟨R.COX_LOCK_Q k, 15, 8⟩
abbrev F.COX_LOCK_Q_ACT (k : Nat) : Fld := ⟨R.COX_LOCK_Q k, 7, 0⟩
/-! ### AUXADC -/
/-- R521. -/
abbrev R.AUXADC_CTL : Nat := 0x40130000
abbrev F.AUXADC_CTL_EN : Fld := ⟨R.AUXADC_CTL, 0, 0⟩
/-- R521. -/
abbrev R.AUXADC_STAT : Nat := 0x40130004
abbrev F.AUXADC_STAT_BUSY : Fld := ⟨R.AUXADC_STAT, 8, 8⟩
abbrev F.AUXADC_STAT_FREE : Fld := ⟨R.AUXADC_STAT, 7, 0⟩
/-- R521. -/
abbrev R.AUXADC_EVT : Nat := 0x40130008
abbrev F.AUXADC_EVT_LIMIT : Fld := ⟨R.AUXADC_EVT, 7, 0⟩
/-- R521. -/
abbrev R.AUXADC_SKIPCNT : Nat := 0x4013000C
abbrev F.AUXADC_SKIPCNT_COUNT : Fld := ⟨R.AUXADC_SKIPCNT, 31, 0⟩
/-- R521. -/
abbrev R.AUXADC_CH_CFG (a : Nat) : Nat := 0x40130100 + 0x10 * a
abbrev F.AUXADC_CH_CFG_START (a : Nat) : Fld := ⟨R.AUXADC_CH_CFG a, 16, 16⟩
abbrev F.AUXADC_CH_CFG_OSR (a : Nat) : Fld := ⟨R.AUXADC_CH_CFG a, 15, 12⟩
abbrev F.AUXADC_CH_CFG_CREW (a : Nat) : Fld := ⟨R.AUXADC_CH_CFG a, 9, 5⟩
abbrev F.AUXADC_CH_CFG_MODE (a : Nat) : Fld := ⟨R.AUXADC_CH_CFG a, 2, 1⟩
abbrev F.AUXADC_CH_CFG_EN (a : Nat) : Fld := ⟨R.AUXADC_CH_CFG a, 0, 0⟩
/-- R521. -/
abbrev R.AUXADC_CH_RES (a : Nat) : Nat := 0x40130104 + 0x10 * a
abbrev F.AUXADC_CH_RES_VALID (a : Nat) : Fld := ⟨R.AUXADC_CH_RES a, 31, 31⟩
abbrev F.AUXADC_CH_RES_NEW (a : Nat) : Fld := ⟨R.AUXADC_CH_RES a, 30, 30⟩
abbrev F.AUXADC_CH_RES_OVR (a : Nat) : Fld := ⟨R.AUXADC_CH_RES a, 29, 29⟩
abbrev F.AUXADC_CH_RES_V (a : Nat) : Fld := ⟨R.AUXADC_CH_RES a, 15, 0⟩
/-- R521. -/
abbrev R.AUXADC_CH_TS (a : Nat) : Nat := 0x40130108 + 0x10 * a
abbrev F.AUXADC_CH_TS_T (a : Nat) : Fld := ⟨R.AUXADC_CH_TS a, 31, 0⟩
/-- R521. -/
abbrev R.AUXADC_CH_LIM (a : Nat) : Nat := 0x4013010C + 0x10 * a
abbrev F.AUXADC_CH_LIM_HI (a : Nat) : Fld := ⟨R.AUXADC_CH_LIM a, 31, 16⟩
abbrev F.AUXADC_CH_LIM_LO (a : Nat) : Fld := ⟨R.AUXADC_CH_LIM a, 15, 0⟩
/-! ### GPIO -/
/-- R518. -/
abbrev R.GPIO_IN : Nat := 0x40140000
abbrev F.GPIO_IN_IN : Fld := ⟨R.GPIO_IN, 31, 0⟩
/-- R518. -/
abbrev R.GPIO_OUT : Nat := 0x40140004
abbrev F.GPIO_OUT_OUT : Fld := ⟨R.GPIO_OUT, 31, 0⟩
/-- R518. -/
abbrev R.GPIO_OE : Nat := 0x40140008
abbrev F.GPIO_OE_OE : Fld := ⟨R.GPIO_OE, 31, 0⟩
/-- R518. -/
abbrev R.GPIO_BRK : Nat := 0x4014000C
abbrev F.GPIO_BRK_BRK : Fld := ⟨R.GPIO_BRK, 31, 0⟩
/-! ### CRYPTO -/
/-- R500. -/
abbrev R.CRYPTO_LCS : Nat := 0x40150000
abbrev F.CRYPTO_LCS_KEY : Fld := ⟨R.CRYPTO_LCS, 15, 8⟩
abbrev F.CRYPTO_LCS_LCS : Fld := ⟨R.CRYPTO_LCS, 1, 0⟩
/-- R500. -/
abbrev R.CRYPTO_POL : Nat := 0x40150004
abbrev F.CRYPTO_POL_ROLLIMG : Fld := ⟨R.CRYPTO_POL, 1, 1⟩
abbrev F.CRYPTO_POL_SIGIMG : Fld := ⟨R.CRYPTO_POL, 0, 0⟩
/-- R500. -/
abbrev R.CRYPTO_FW : Nat := 0x40150008
abbrev F.CRYPTO_FW_CONFIRM : Fld := ⟨R.CRYPTO_FW, 31, 31⟩
abbrev F.CRYPTO_FW_TRIES : Fld := ⟨R.CRYPTO_FW, 7, 6⟩
abbrev F.CRYPTO_FW_TRIALV : Fld := ⟨R.CRYPTO_FW, 5, 5⟩
abbrev F.CRYPTO_FW_TSLOT : Fld := ⟨R.CRYPTO_FW, 4, 4⟩
abbrev F.CRYPTO_FW_CSLOT : Fld := ⟨R.CRYPTO_FW, 3, 3⟩
abbrev F.CRYPTO_FW_RSLOT : Fld := ⟨R.CRYPTO_FW, 2, 2⟩
abbrev F.CRYPTO_FW_OKB : Fld := ⟨R.CRYPTO_FW, 1, 1⟩
abbrev F.CRYPTO_FW_OKA : Fld := ⟨R.CRYPTO_FW, 0, 0⟩
/-- R500. -/
abbrev R.CRYPTO_ROLLFW : Nat := 0x4015000C
abbrev F.CRYPTO_ROLLFW_SVN : Fld := ⟨R.CRYPTO_ROLLFW, 31, 0⟩
/-- R500. -/
abbrev R.CRYPTO_CHAL (i : Nat) : Nat := 0x40150020 + 0x4 * i
abbrev F.CRYPTO_CHAL_N (i : Nat) : Fld := ⟨R.CRYPTO_CHAL i, 31, 0⟩
/-- R500. -/
abbrev R.CRYPTO_JTAG : Nat := 0x40150040
abbrev F.CRYPTO_JTAG_FAILS : Fld := ⟨R.CRYPTO_JTAG, 2, 1⟩
abbrev F.CRYPTO_JTAG_OPEN : Fld := ⟨R.CRYPTO_JTAG, 0, 0⟩

/-- The SYS window, as its tables give it. -/
def regRows0 : List RegRow :=
  [⟨0x400000A0, [], 0xFF, 0, 0, 0xFFFFFF00, 0, 0, 0⟩,
   ⟨0x400000A4, [], 0xFFFFFFF8, 0, 0, 7, 0, 0, 0⟩,
   ⟨0x400000A8, [], 0x1FFFFF, 0, 0, 0xFFE00000, 0, 0, 0⟩,
   ⟨0x40000000, [], 0, 0, 0, 0xFF, 0x6400100, 0, 0⟩,
   ⟨0x40000004, [], 0, 0x80FFFFFF, 0, 0x7F000000, 0, 0, 0⟩,
   ⟨0x40000008, [], 0, 0, 0, 0x7F00FFFC, 0, 0, 0⟩,
   ⟨0x4000000C, [], 0xFFFF, 0, 0, 0xFFFF0000, 0, 0, 0⟩,
   ⟨0x40000010, [], 0, 0, 0, 0xFFFFFF00, 0, 0, 0⟩,
   ⟨0x40000020, [(4, 5)], 0, 0, 0, 0, 0, 0, 0⟩,
   ⟨0x40000040, [(4, 5)], 0, 0, 0, 0, 0, 0, 0⟩,
   ⟨0x40000060, [], 0, 0x7F, 0, 0xFFFFFF80, 0, 0, 0⟩,
   ⟨0x40000064, [], 0, 0, 0, 0, 0, 0, 0⟩,
   ⟨0x40000068, [], 0, 0, 0, 0xFFFFFF80, 0, 0, 0⟩,
   ⟨0x4000006C, [], 0, 0, 0, 0, 0, 0, 0⟩,
   ⟨0x40000080, [], 0x3F, 0, 0, 0xFFFFFFC0, 0, 0, 0⟩,
   ⟨0x40000084, [], 0, 0, 0, 0, 0, 0, 0⟩,
   ⟨0x40000088, [], 0, 0, 0, 0, 0, 0, 0⟩,
   ⟨0x4000008C, [], 0, 0, 0, 0xC0000000, 0, 0, 0⟩]

/-- The AON window, as its tables give it. -/
def regRows1 : List RegRow :=
  [⟨0x40010000, [], 0xFF05, 0, 0, 0xFFFF00FA, 0x404, 0, 0⟩,
   ⟨0x40010004, [], 0, 0, 0, 0xFFFFF0C0, 0x800, 0, 0⟩,
   ⟨0x40010008, [], 0x40000000, 0x80000000, 0, 0x3FFFFFF8, 7, 0, 7⟩,
   ⟨0x4001000C, [], 0, 0, 0, 0xFF000000, 0x2710, 0, 0xFFFFFF⟩,
   ⟨0x40010010, [], 0, 0, 0, 0xFFFC0008, 0, 0, 0⟩,
   ⟨0x40010014, [], 0xF, 0, 0, 0xFFF0FFF0, 0xF, 0, 0⟩,
   ⟨0x40010018, [], 0, 0, 0, 0, 0, 0, 0⟩,
   ⟨0x4001001C, [], 0, 0, 0, 0xFFFE0000, 0, 0, 0⟩,
   ⟨0x40010020, [], 0xFFFFFFFF, 0, 0, 0, 0, 0, 0⟩,
   ⟨0x40010024, [], 0xFFFF, 0, 0, 0xFFFF0000, 0, 0, 0⟩,
   ⟨0x40010028, [], 0x3FFF, 0xFF000000, 0, 0xFFC000, 0x3E8, 0, 0⟩,
   ⟨0x4001002C, [], 0, 0, 0, 0xFFFFFFFC, 0, 0, 0⟩]

/-- The RESET window, as its tables give it. -/
def regRows2 : List RegRow :=
  [⟨0x40020000, [], 0, 0, 0, 0xFFFF0000, 1, 0, 0⟩,
   ⟨0x40020004, [], 0, 0xFF01, 0, 0xFFFF00FE, 0, 0, 0⟩,
   ⟨0x40020008, [], 0, 0, 2, 0xFFFFFFFC, 0, 0, 0⟩,
   ⟨0x40020044, [(4, 9)], 0, 0, 0, 0, 0, 0, 0⟩]

/-- The HK window, as its tables give it. -/
def regRows3 : List RegRow :=
  [⟨0x40030000, [], 0, 0, 0, 0xFFFFFFF8, 0, 0, 0⟩,
   ⟨0x40030004, [], 0, 0, 0, 0xFFFF0000, 0, 0, 0⟩,
   ⟨0x40030008, [], 0xFF, 0, 0, 0xFFFFFF00, 0x32, 0, 0⟩,
   ⟨0x4003000C, [], 0, 0, 0, 0, 0, 0, 0⟩,
   ⟨0x40030010, [], 0, 0, 7, 0xFFFFFFF8, 0, 0, 0⟩,
   ⟨0x40030014, [], 0, 0, 0, 0, 0, 0, 0⟩,
   ⟨0x40030018, [], 0, 0, 0, 0xFFFF0000, 0, 0, 0⟩,
   ⟨0x40030100, [(4, 48)], 0, 0, 0, 0x7FFF0000, 0, 0, 0⟩,
   ⟨0x40030200, [(4, 48)], 0xFFFFFFFF, 0, 0, 0, 0x7FFF8000, 0, 0⟩]

/-- The SAFETY window, as its tables give it. -/
def regRows4 : List RegRow :=
  [⟨0x40040000, [], 0, 0, 0, 0xFFFF0000, 0x101, 0, 0⟩,
   ⟨0x40040004, [], 0, 0, 0, 0xFFFFFC00, 0, 0, 0⟩,
   ⟨0x40040008, [], 0, 0, 0, 0, 0, 0, 0⟩,
   ⟨0x4004000C, [], 0, 0, 0, 0, 0, 0, 0⟩,
   ⟨0x40040010, [], 0, 0, 0, 0, 0, 0, 0⟩,
   ⟨0x40040014, [], 0, 0, 0, 0, 0, 0, 0⟩,
   ⟨0x40040018, [], 0, 0, 0, 0xFFFFFE00, 0xF0, 0, 0⟩,
   ⟨0x40040040, [(4, 8)], 0, 0, 0, 0xFFFFFE00, 0x20, 0, 0⟩,
   ⟨0x40040080, [(0x10, 8)], 0, 0, 0, 0xFFF0C388, 0, 0, 0⟩,
   ⟨0x40040084, [(0x10, 8)], 0, 0, 0, 0, 0, 0, 0⟩,
   ⟨0x40040088, [(0x10, 8)], 0, 0, 0, 0xFFFF0000, 0, 0, 0⟩,
   ⟨0x4004008C, [(0x10, 8)], 0, 0, 0, 0, 0, 0, 0⟩,
   ⟨0x40040100, [(4, 8)], 0, 0, 0, 0xFFFFFFF0, 0, 0, 0⟩]

/-- The MOD window, as its tables give it. -/
def regRows5 : List RegRow :=
  [⟨0x40050000, [], 0, 0, 0, 0xFFFFC0FE, 0, 0, 0⟩,
   ⟨0x40050004, [], 0, 0, 0, 0, 0, 0, 0⟩,
   ⟨0x40050008, [], 0, 0, 0, 0xFFFF0000, 0, 0, 0⟩,
   ⟨0x4005000C, [], 0, 0, 0, 0, 0, 0, 0⟩,
   ⟨0x40050010, [], 0, 0, 0, 0, 0, 0, 0⟩,
   ⟨0x40051000, [], 0x3FFFF, 0, 0, 0xFFFC0000, 0, 0, 0⟩,
   ⟨0x40051004, [], 0xFFFFFFFF, 0, 0, 0, 0, 0, 0⟩]

/-- The LEG window, as its tables give it. -/
def regRows6 : List RegRow :=
  [⟨0x40060000, [(0x400, 64)], 3, 0, 0, 0xFFFF00F8, 0xFF00, 0, 4⟩,
   ⟨0x40060004, [(0x400, 64)], 0x3FF03FF, 0, 0, 0xFC00FC00, 0xA000A0, 0, 0⟩,
   ⟨0x40060008, [(0x400, 64)], 0xFF, 0, 0, 0xFFFFFF00, 0x28, 0, 0⟩,
   ⟨0x4006000C, [(0x400, 64)], 0xFFF, 0, 0, 0xF000, 0x640, 0, 0⟩,
   ⟨0x40060010, [(0x400, 64)], 3, 0, 0, 0xFFFFFFFC, 0, 0, 0⟩,
   ⟨0x40060014, [(0x400, 64)], 0, 0, 0, 0xFFFFFFE0, 0, 0, 0⟩,
   ⟨0x40060018, [(0x400, 64)], 0, 0, 0, 0xFFF00000, 0, 0, 0⟩,
   ⟨0x4006001C, [(0x400, 64)], 0, 0, 7, 0xFFFFFFF8, 0, 0, 0⟩,
   ⟨0x40060020, [(0x400, 64)], 0, 0, 0, 0, 0, 0, 0⟩,
   ⟨0x40060024, [(0x400, 64)], 0, 0, 0, 0, 0, 0, 0⟩,
   ⟨0x40060028, [(0x400, 64)], 0, 0, 0, 0, 0, 0, 0⟩,
   ⟨0x4006002C, [(0x400, 64)], 0, 0, 0, 0, 0, 0, 0⟩]

/-- The CREW window, as its tables give it. -/
def regRows7 : List RegRow :=
  [⟨0x40070000, [(0x800, 32)], 0, 3, 0, 0xFFFFFFFC, 0, 0, 0⟩,
   ⟨0x40070004, [(0x800, 32)], 0, 0, 0, 0xF0001008, 0, 0, 0xFFFEFF7⟩,
   ⟨0x40070008, [(0x800, 32)], 0, 0, 0, 0xFFE00000, 0, 0, 0x1FFFFF⟩,
   ⟨0x4007000C, [(0x800, 32)], 0, 0, 0, 0xFFFF0000, 0x1E0, 0, 0xFFFF⟩,
   ⟨0x40070010, [(0x800, 32)], 0, 0, 0, 0, 0, 0, 0xFFFFFFFF⟩,
   ⟨0x40070014, [(0x800, 32)], 0, 0, 0, 0xFFFF0000, 0, 0, 0xFFFF⟩,
   ⟨0x40070018, [(0x800, 32)], 0, 0, 0, 0xFFFFFFF0, 0, 0, 0xF⟩,
   ⟨0x4007001C, [(0x800, 32)], 0xFFFFFFFF, 0, 0, 0, 0xFFFF0000, 0, 0⟩,
   ⟨0x40070020, [(0x800, 32)], 0x3FF, 0, 0, 0xFFFFFC00, 0x14, 0, 0⟩,
   ⟨0x40070024, [(0x800, 32)], 3, 0, 0, 0xFFFFFFFC, 0, 0, 0⟩,
   ⟨0x40070028, [(0x800, 32)], 0, 0, 0, 0, 0, 0, 0⟩,
   ⟨0x4007002C, [(0x800, 32)], 0xFFFFFFFF, 0, 0, 0, 0, 0, 0⟩,
   ⟨0x40070030, [(0x800, 32)], 0, 0xFFFFFFFF, 0, 0, 0, 0, 0⟩,
   ⟨0x40070034, [(0x800, 32)], 0xFFFFFFFF, 0, 0, 0, 0, 0, 0⟩,
   ⟨0x40070038, [(0x800, 32)], 0xFFFFFFFF, 0, 0, 0, 0, 0, 0⟩,
   ⟨0x4007003C, [(0x800, 32)], 0, 0, 0, 0, 0, 0, 0⟩,
   ⟨0x40070040, [(0x800, 32)], 0, 0, 0, 0, 0, 0, 0⟩,
   ⟨0x40070044, [(0x800, 32)], 0, 0, 0, 0xFFE00008, 0, 0, 0⟩,
   ⟨0x40070048, [(0x800, 32)], 0, 0, 0xFF, 0xFFFFFF00, 0, 0, 0⟩,
   ⟨0x4007004C, [(0x800, 32)], 0, 0, 0, 0, 0x3F800000, 0, 0⟩] ++
  [⟨0x40070050, [(0x800, 32)], 0, 0, 0, 0, 0, 0, 0⟩,
   ⟨0x40070054, [(0x800, 32)], 0, 0, 0, 0xFFFF0000, 0, 0, 0⟩,
   ⟨0x40070060, [(0x800, 32), (4, 6)], 0, 0, 0, 0, 0, 0, 0⟩,
   ⟨0x40070080, [(0x800, 32)], 0, 0, 0, 0xFE000000, 0, 0, 0x1FFFFFF⟩,
   ⟨0x400700C0, [(0x800, 32), (4, 24)], 0, 0, 0, 0, 0, 0, 0⟩,
   ⟨0x40070120, [(0x800, 32)], 0x1FF3F7F, 0, 0, 0xFE00C080, 0x641310, 0, 0⟩,
   ⟨0x40070124, [(0x800, 32)], 0xFFFF, 0, 0, 0xFFFF0000, 0, 0, 0⟩,
   ⟨0x40070128, [(0x800, 32)], 0xFFFFFFFF, 0, 0, 0, 0xFFFF, 0, 0⟩,
   ⟨0x40070140, [(0x800, 32)], 0, 0, 0, 0xFFFFFF80, 0, 0, 0x7F⟩,
   ⟨0x40070144, [(0x800, 32)], 0xFFFFFFFF, 0, 0, 0, 0, 0, 0⟩,
   ⟨0x40070148, [(0x800, 32)], 0, 0, 0, 0, 0, 0, 0⟩,
   ⟨0x4007014C, [(0x800, 32)], 0xFFFFFFFF, 0, 0, 0, 0x3F800000, 0, 0⟩,
   ⟨0x40070150, [(0x800, 32)], 0xFFFFFFFF, 0, 0, 0, 0, 0, 0⟩,
   ⟨0x40070160, [(0x800, 32)], 0, 0, 0, 0xFF0C0E0E, 0x800000, 0, 0xF3F1F1⟩,
   ⟨0x40070164, [(0x800, 32)], 0, 0, 0, 0xFFE00000, 0, 0, 0x1FFFFF⟩,
   ⟨0x40070168, [(0x800, 32)], 0, 0, 0, 0, 0, 0, 0⟩,
   ⟨0x4007016C, [(0x800, 32)], 0, 0, 0, 0xFFFFF000, 0x7D0, 0, 0xFFF⟩,
   ⟨0x40070180, [(0x800, 32)], 0xFFFFFFFF, 0, 0, 0, 0, 0, 0⟩,
   ⟨0x40070184, [(0x800, 32)], 0xFFFFFFFF, 0, 0, 0, 0, 0, 0⟩,
   ⟨0x40070188, [(0x800, 32)], 0xFFFFFFFF, 0, 0, 0, 0, 0, 0⟩] ++
  [⟨0x4007018C, [(0x800, 32)], 0xFFFFFFFF, 0, 0, 0, 0, 0, 0⟩,
   ⟨0x40070190, [(0x800, 32)], 0, 0, 0, 0, 0, 0, 0⟩,
   ⟨0x40070194, [(0x800, 32)], 0, 0, 0, 0, 0, 0, 0⟩,
   ⟨0x40070198, [(0x800, 32)], 0, 0, 0, 0xFFFF00C0, 0, 0, 0⟩,
   ⟨0x4007019C, [(0x800, 32)], 0, 0, 0, 0xFFFF0000, 0, 0, 0⟩,
   ⟨0x400701A0, [(0x800, 32)], 0xF000FFFF, 0, 0, 0xFFF0000, 0x40007FFF, 0, 0⟩,
   ⟨0x400701A4, [(0x800, 32)], 0, 0, 0, 0, 0, 0, 0⟩,
   ⟨0x400701A8, [(0x800, 32)], 0, 0, 0, 0xFFFFFFF0, 0, 0, 0xF⟩,
   ⟨0x400701AC, [(0x800, 32)], 0xFFFFFFFF, 0, 0, 0, 0x3F800000, 0, 0⟩,
   ⟨0x400701B0, [(0x800, 32)], 0, 0, 0, 0x7F000000, 0x64000, 0, 0x80FFFFFF⟩,
   ⟨0x40070200, [(0x800, 32)], 0, 0, 0, 0xF8000080, 0x30CF000, 0, 0x7FFFF7F⟩,
   ⟨0x40070204, [(0x800, 32)], 0xFFFFFFFF, 0, 0, 0, 0, 0, 0⟩,
   ⟨0x40070208, [(0x800, 32)], 0xFFFFFFFF, 0, 0, 0, 0, 0, 0⟩,
   ⟨0x4007020C, [(0x800, 32)], 0xFFFFFFFF, 0, 0, 0, 0, 0, 0⟩,
   ⟨0x40070210, [(0x800, 32)], 0xFFFFFFFF, 0, 0, 0, 0x3E801F4, 0, 0⟩,
   ⟨0x40070214, [(0x800, 32)], 0xFFFFFFFF, 0, 0, 0, 0, 0, 0⟩,
   ⟨0x40070218, [(0x800, 32)], 0xFFFFFFF, 0, 0, 0xF0000000, 0x3C00C8, 0, 0⟩,
   ⟨0x4007021C, [(0x800, 32)], 0xFFFFFFFF, 0, 0, 0, 0, 0, 0⟩,
   ⟨0x40070220, [(0x800, 32)], 0, 0, 0, 0xFFFFFFF0, 0, 0, 0⟩,
   ⟨0x40070224, [(0x800, 32)], 0, 0, 0, 0, 0, 0, 0⟩] ++
  [⟨0x40070228, [(0x800, 32)], 0, 0, 0, 0, 0, 0, 0⟩,
   ⟨0x4007022C, [(0x800, 32)], 0, 0, 0, 0, 0, 0, 0⟩,
   ⟨0x40070230, [(0x800, 32)], 0, 0, 0x1F, 0xFFFFFFE0, 0, 0, 0⟩,
   ⟨0x40070234, [(0x800, 32)], 0, 0, 0, 0, 0, 0, 0⟩,
   ⟨0x40070300, [(0x800, 32), (4, 4)], 0xFFFFFFFF, 0, 0, 0, 0, 0, 0⟩,
   ⟨0x40070310, [(0x800, 32)], 0, 0, 0, 0xFFFFFF00, 0, 0, 0⟩,
   ⟨0x40070314, [(0x800, 32)], 0, 0, 0, 0, 0, 0, 0⟩,
   ⟨0x40070320, [(0x800, 32), (0x20, 4)], 0, 0, 0, 0xFF00, 0, 0, 0⟩,
   ⟨0x40070324, [(0x800, 32), (0x20, 4)], 0, 0, 0, 0, 0, 0, 0⟩,
   ⟨0x40070328, [(0x800, 32), (0x20, 4)], 0, 0, 0, 0, 0, 0, 0⟩,
   ⟨0x4007032C, [(0x800, 32), (0x20, 4)], 0, 0, 0, 0, 0, 0, 0⟩,
   ⟨0x40070330, [(0x800, 32), (0x20, 4), (4, 4)], 0, 0, 0, 0, 0, 0, 0⟩,
   ⟨0x40070400, [(0x800, 32), (0xC, 64)], 0, 0, 0, 0, 0, 0, 0⟩,
   ⟨0x40070404, [(0x800, 32), (0xC, 64)], 0, 0, 0, 0xF000000, 0, 0, 0⟩,
   ⟨0x40070408, [(0x800, 32), (0xC, 64)], 0, 0, 0, 0, 0, 0, 0⟩,
   ⟨0x40070700, [(0x800, 32)], 0, 0, 0, 0xFFFFFFC0, 0, 0, 0⟩]

/-- The PROF window, as its tables give it. -/
def regRows8 : List RegRow :=
  [⟨0x40080000, [(0x800, 32)], 3, 0x300, 0, 0xFFFFFCFC, 0, 0, 0⟩,
   ⟨0x40080004, [(0x800, 32)], 0, 0, 0, 0xFFFFFC0F, 0, 0, 0x3F0⟩,
   ⟨0x40080008, [(0x800, 32)], 0x7FFFFFFF, 0, 0, 0x80000000, 0, 0, 0⟩,
   ⟨0x4008000C, [(0x800, 32)], 0x7FFFFFFF, 0, 0, 0x80000000, 0, 0, 0⟩,
   ⟨0x40080010, [(0x800, 32)], 0x7FFFFFFF, 0, 0, 0x80000000, 0, 0, 0⟩,
   ⟨0x40080014, [(0x800, 32)], 0x7FFFFFFF, 0, 0, 0x80000000, 1, 0, 0⟩,
   ⟨0x40080018, [(0x800, 32)], 0xFFFFFFFF, 0, 0, 0, 1, 0, 0⟩,
   ⟨0x4008001C, [(0x800, 32)], 0xFFFFFFFF, 0, 0, 0, 1, 0, 0⟩,
   ⟨0x40080020, [(0x800, 32)], 0xFFFFFFFF, 0, 0, 0, 1, 0, 0⟩,
   ⟨0x40080024, [(0x800, 32)], 0xFFFFFFFF, 0, 0, 0, 1, 0, 0⟩,
   ⟨0x40080028, [(0x800, 32)], 0xFFFFFFFF, 0, 0, 0, 1, 0, 0⟩,
   ⟨0x4008002C, [(0x800, 32)], 0x3FFF, 0, 0, 0xFFFFC000, 0, 0, 0⟩,
   ⟨0x40080030, [(0x800, 32)], 0xFFFFFFFF, 0, 0, 0, 0, 0, 0⟩,
   ⟨0x40080034, [(0x800, 32)], 0xFFFFFFFF, 0, 0, 0, 0, 0, 0⟩,
   ⟨0x40080038, [(0x800, 32)], 0xFFFFFFFF, 0, 0, 0, 0, 0, 0⟩,
   ⟨0x4008003C, [(0x800, 32)], 0xFFF3FFFF, 0, 0, 0xC0000, 0x800001F4, 0, 0⟩,
   ⟨0x40080040, [(0x800, 32)], 0, 0, 0, 0, 0, 0, 0⟩,
   ⟨0x40080044, [(0x800, 32)], 0, 0, 0, 0, 0, 0, 0⟩,
   ⟨0x40080048, [(0x800, 32)], 0, 0, 0, 0xFFFC0000, 0, 0, 0⟩,
   ⟨0x4008004C, [(0x800, 32)], 0, 0, 0, 0, 0, 0, 0⟩] ++
  [⟨0x40080050, [(0x800, 32)], 0, 0, 0, 0, 0x3F800000, 0, 0⟩,
   ⟨0x40080054, [(0x800, 32)], 0, 0, 0, 0xFFFE0030, 0x2000, 0, 0⟩,
   ⟨0x40080058, [(0x800, 32)], 0, 0, 0x3FF, 0xFFFFFC00, 0, 0, 0⟩,
   ⟨0x4008005C, [(0x800, 32)], 0, 0, 0, 0, 0, 0, 0⟩,
   ⟨0x40080060, [(0x800, 32)], 0, 0, 0, 0, 0, 0, 0⟩,
   ⟨0x40080064, [(0x800, 32)], 0, 0, 0, 0xFFFF8000, 0, 0, 0x7FFF⟩,
   ⟨0x40080068, [(0x800, 32)], 0xFFFFFFFF, 0, 0, 0, 0x19641964, 0, 0⟩,
   ⟨0x40080070, [(0x800, 32)], 0, 0, 0, 0x80000000, 0, 0, 0x7FFFFFFF⟩,
   ⟨0x40080074, [(0x800, 32)], 0, 0, 0, 0, 1, 0, 0xFFFFFFFF⟩,
   ⟨0x40080078, [(0x800, 32)], 0, 0, 0, 0, 0xFFFF, 0, 0xFFFFFFFF⟩,
   ⟨0x40080080, [(0x800, 32)], 0x3FF, 0, 0, 0xFFFFFC00, 0x3E8, 0, 0⟩,
   ⟨0x40080084, [(0x800, 32)], 0xFFFFFFFF, 0, 0, 0, 0, 0, 0⟩,
   ⟨0x40080088, [(0x800, 32)], 0xFFFFFFFF, 0, 0, 0, 0, 0, 0⟩,
   ⟨0x4008008C, [(0x800, 32)], 0, 0, 0, 0, 0, 0, 0⟩,
   ⟨0x40080090, [(0x800, 32)], 0, 0, 0, 0, 0, 0, 0⟩]

/-- The SINC window, as its tables give it. -/
def regRows9 : List RegRow :=
  [⟨0x40090000, [], 0x3F01FF3F, 0, 0, 0xC0FE00C0, 0x8004008, 0, 0⟩,
   ⟨0x40090100, [(0x20, 16)], 0, 0, 0, 0x3FFF0000, 0, 0, 0⟩,
   ⟨0x40090104, [(0x20, 16)], 0, 0, 0, 0xFFFF0000, 0, 0, 0⟩,
   ⟨0x40090108, [(0x20, 16)], 0xFFFFFFFF, 0, 0, 0, 0x7FFF0000, 0, 0⟩,
   ⟨0x4009010C, [(0x20, 16)], 0x8000FFFF, 0, 0, 0x7FFF0000, 0, 0, 0⟩,
   ⟨0x40090400, [(0x10, 64)], 0, 0, 0, 0x1F000000, 0, 0, 0⟩,
   ⟨0x40090404, [(0x10, 64)], 0, 0, 0, 0xFFFF0000, 0, 0, 0⟩,
   ⟨0x40090408, [(0x10, 64)], 0xFFFFFFFF, 0, 0, 0, 0x80000000, 0, 0⟩,
   ⟨0x4009040C, [(0x10, 64)], 0, 0, 0, 0, 0, 0, 0⟩,
   ⟨0x40090800, [(0x40, 32)], 0, 0, 0, 0xFEC0FE00, 0x80040, 0, 0x13F01FF⟩,
   ⟨0x40090804, [(0x40, 32)], 0, 0, 0, 0, 0, 0, 0⟩,
   ⟨0x40090808, [(0x40, 32)], 0, 0, 0, 0, 0, 0, 0⟩,
   ⟨0x4009080C, [(0x40, 32)], 0, 0, 0, 0, 0, 0, 0⟩,
   ⟨0x40090810, [(0x40, 32)], 0, 0, 0, 0, 0, 0, 0⟩,
   ⟨0x40090814, [(0x40, 32)], 0, 0, 0, 0, 0, 0, 0⟩,
   ⟨0x40090818, [(0x40, 32)], 0, 0, 0, 0, 0, 0, 0⟩,
   ⟨0x4009081C, [(0x40, 32)], 0, 0, 0, 0, 0, 0, 0⟩,
   ⟨0x40090820, [(0x40, 32)], 0, 1, 0, 0xFFFFFFFE, 0, 0, 0⟩]

/-- The YILOS window, as its tables give it. -/
def regRows10 : List RegRow :=
  [⟨0x400A0000, [(0x1000, 16)], 0xFF31, 2, 0, 0xFFFF00CC, 0x1E20, 0, 0⟩,
   ⟨0x400A0004, [(0x1000, 16)], 0, 0, 0, 0xFF000FF0, 0, 0, 0⟩,
   ⟨0x400A0008, [(0x1000, 16)], 0, 0, 0, 0xFF00FF00, 0, 0, 0⟩,
   ⟨0x400A000C, [(0x1000, 16)], 0, 0, 0, 0xFFFFFF00, 0, 0, 0⟩,
   ⟨0x400A0010, [(0x1000, 16)], 0, 0, 0, 0xFFC0FFC0, 0, 0, 0⟩,
   ⟨0x400A0014, [(0x1000, 16)], 0, 0, 0, 0, 0, 0, 0⟩,
   ⟨0x400A0018, [(0x1000, 16)], 0, 1, 0, 0xFFFFFFFE, 0, 0, 0⟩,
   ⟨0x400A0040, [(0x1000, 16), (4, 16)], 0, 0, 0, 0, 0, 0, 0⟩,
   ⟨0x400A0080, [(0x1000, 16), (4, 16)], 0, 0, 0, 0, 0, 0, 0⟩,
   ⟨0x400A0100, [(0x1000, 16)], 0, 0, 0x3FF, 0xFFFFFC00, 0, 0, 0⟩,
   ⟨0x400A0140, [(0x1000, 16)], 0, 0, 0, 0, 0, 0, 0⟩,
   ⟨0x400A0144, [(0x1000, 16)], 0, 0, 0, 0, 0, 0, 0⟩,
   ⟨0x400A0148, [(0x1000, 16)], 0, 0, 0, 0, 0, 0, 0⟩,
   ⟨0x400A014C, [(0x1000, 16)], 0, 0, 0, 0, 0, 0, 0⟩,
   ⟨0x400A0150, [(0x1000, 16)], 0, 0, 0, 0, 0, 0, 0⟩,
   ⟨0x400A0154, [(0x1000, 16)], 0, 0, 0, 0, 0, 0, 0⟩,
   ⟨0x400A0158, [(0x1000, 16)], 0, 0, 0, 0, 0, 0, 0⟩,
   ⟨0x400A015C, [(0x1000, 16)], 0, 0, 0, 0, 0, 0, 0⟩,
   ⟨0x400A0160, [(0x1000, 16)], 0, 0, 0, 0, 0, 0, 0⟩,
   ⟨0x400A0164, [(0x1000, 16)], 0, 0, 0, 0, 0, 0, 0⟩] ++
  [⟨0x400A0168, [(0x1000, 16)], 0, 0, 0, 0, 0, 0, 0⟩,
   ⟨0x400A0180, [(0x1000, 16)], 0, 0, 0, 0xFFE00000, 0, 0, 0⟩,
   ⟨0x400A0190, [(0x1000, 16), (8, 4)], 0, 0, 0, 0, 0, 0, 0⟩,
   ⟨0x400A0194, [(0x1000, 16), (8, 4)], 0, 0, 0, 0, 0, 0, 0⟩,
   ⟨0x400A0800, [(0x1000, 16)], 0, 0x1FFFF, 0, 0xFFFE0000, 0, 0, 0⟩,
   ⟨0x400A0804, [(0x1000, 16)], 0, 0, 0x40, 0xFFFF0030, 0, 0, 0⟩,
   ⟨0x400A0808, [(0x1000, 16)], 0xFF000F, 0x100, 0, 0xFF00FEF0, 0x140000, 0, 0⟩,
   ⟨0x400A080C, [(0x1000, 16)], 0xFFFFFF00, 0, 0, 0xFF, 0xCC330D00, 0, 0⟩,
   ⟨0x400A0810, [(0x1000, 16)], 0xFFFF, 0, 0, 0xFFFF0000, 0x64, 0, 0⟩]

/-- The POS window, as its tables give it. -/
def regRows11 : List RegRow :=
  [⟨0x400B0000, [(0x100, 16)], 0xF1F, 0, 0, 0xFFFFF0E0, 0x100, 0, 0⟩,
   ⟨0x400B0004, [(0x100, 16)], 0xFFFF03BF, 0, 0, 0xFC40, 0x28270018, 0, 0⟩,
   ⟨0x400B0008, [(0x100, 16)], 0xFFFF003F, 0, 0, 0xFFC0, 0x640000, 0, 0⟩,
   ⟨0x400B000C, [(0x100, 16)], 0, 0, 0x80, 0xFFFFFF0C, 0, 0, 0⟩,
   ⟨0x400B0010, [(0x100, 16)], 0, 0, 0, 0, 0, 0, 0⟩,
   ⟨0x400B0014, [(0x100, 16)], 0, 0, 0, 0, 0, 0, 0⟩,
   ⟨0x400B0018, [(0x100, 16)], 0, 0, 0, 0, 0, 0, 0⟩,
   ⟨0x400B001C, [(0x100, 16)], 0, 0, 0, 0, 0, 0, 0⟩,
   ⟨0x400B0020, [(0x100, 16)], 0, 0, 0, 0, 0, 0, 0⟩,
   ⟨0x400B0024, [(0x100, 16)], 0, 0, 0, 0, 0, 0, 0⟩,
   ⟨0x400B0028, [(0x100, 16)], 0, 3, 0, 0xFFFFFFFC, 0, 0, 0⟩,
   ⟨0x400B002C, [(0x100, 16)], 0, 0, 0, 0, 0, 0, 0⟩,
   ⟨0x400B0030, [(0x100, 16)], 0, 0, 0, 0, 0, 0, 0⟩,
   ⟨0x400B0034, [(0x100, 16)], 0, 0, 0, 0, 0, 0, 0⟩]

/-- The RING window, as its tables give it. -/
def regRows12 : List RegRow :=
  [⟨0x400C0000, [], 0, 0, 0, 0xFFEE, 0x88B60000, 0, 0xFFFF0011⟩,
   ⟨0x400C0004, [], 0, 0, 0, 0, 0, 0, 0xFFFFFFFF⟩,
   ⟨0x400C0008, [], 0, 0, 0, 0xFFFF0000, 0, 0, 0xFFFF⟩,
   ⟨0x400C000C, [], 0, 0, 0, 0, 3, 0, 0xFFFFFFFF⟩,
   ⟨0x400C0010, [], 0, 0, 0, 0xF800FFF0, 0, 0, 0⟩,
   ⟨0x400C0014, [], 0, 0, 0x1F, 0xFFFFFFE0, 0, 0, 0⟩,
   ⟨0x400C0018, [], 0, 0, 0, 0, 0, 0, 0⟩,
   ⟨0x400C001C, [], 0, 0, 0, 0xFFFF0000, 0, 0, 0⟩,
   ⟨0x400C0040, [(0x40, 2)], 3, 0, 0, 0xFFFFFFFC, 0, 0, 0⟩,
   ⟨0x400C0044, [(0x40, 2)], 0, 0, 0, 0xFFFFFFF8, 0, 0, 0⟩,
   ⟨0x400C0048, [(0x40, 2)], 0xFFFFFFFF, 0, 0, 0, 0, 0, 0⟩,
   ⟨0x400C004C, [(0x40, 2)], 0, 0, 0, 0, 0, 0, 0⟩,
   ⟨0x400C0050, [(0x40, 2)], 0, 0, 0, 0, 0, 0, 0⟩,
   ⟨0x400C0054, [(0x40, 2)], 0, 0, 0, 0, 0, 0, 0⟩,
   ⟨0x400C0058, [(0x40, 2)], 0, 0, 0, 0, 0, 0, 0⟩,
   ⟨0x400C005C, [(0x40, 2)], 0, 0, 0, 0, 0, 0, 0⟩,
   ⟨0x400C0060, [(0x40, 2)], 0, 0, 0, 0, 0, 0, 0⟩,
   ⟨0x400C0064, [(0x40, 2)], 0, 0, 0, 0, 0, 0, 0⟩,
   ⟨0x400C00C0, [], 0x73FFFFFF, 0x80000000, 0, 0xC000000, 0, 0, 0⟩,
   ⟨0x400C00C4, [], 0, 0, 0x40000000, 0x3FFF0000, 0, 0, 0⟩] ++
  [⟨0x400C00C8, [], 0xFF, 0, 0, 0xFFFFFF00, 0x9F, 0, 0⟩,
   ⟨0x400C00D0, [], 0xFFFF0001, 2, 0, 0xF8FC, 0x140000, 0, 0⟩,
   ⟨0x400C00E0, [], 0, 0, 0, 0xFFFFFFFE, 0, 0, 1⟩,
   ⟨0x400C00E4, [], 0, 0, 0, 0xFFE00000, 0, 0, 0x1FFFFF⟩,
   ⟨0x400C00E8, [], 0, 0, 0, 0xFFE00000, 0, 0, 0x1FFFFF⟩,
   ⟨0x400C00EC, [], 0, 0, 0, 0xFFE00000, 0, 0, 0x1FFFFF⟩,
   ⟨0x400C0400, [(0x10, 64)], 0xA00007FF, 0, 0x10000000, 0x3FFF800, 0x3C, 0, 0⟩,
   ⟨0x400C0404, [(0x10, 64)], 0xFFFFFFFF, 0, 0, 0, 0, 0, 0⟩,
   ⟨0x400C0408, [(0x10, 64)], 0xFFFFFFFF, 0, 0, 0, 0, 0, 0⟩,
   ⟨0x400C040C, [(0x10, 64)], 0x3FFFFFFF, 0, 0, 0xC0000000, 0, 0, 0⟩,
   ⟨0x400C0800, [(0x20, 32)], 0, 0, 0, 0, 0, 0, 0xFFFFFFFF⟩,
   ⟨0x400C0804, [(0x20, 32)], 0, 0, 0, 0xFFE00000, 0, 0, 0x1FFFFF⟩,
   ⟨0x400C0808, [(0x20, 32)], 0, 0, 0, 0xFFE00000, 0, 0, 0x1FFFFF⟩,
   ⟨0x400C080C, [(0x20, 32)], 0, 0, 0, 0, 0, 0, 0⟩,
   ⟨0x400C0810, [(0x20, 32)], 0, 0, 0, 0, 0, 0, 0⟩,
   ⟨0x400C0814, [(0x20, 32)], 0, 0, 0, 0, 0, 0, 0⟩]

/-- The TIME window, as its tables give it. -/
def regRows13 : List RegRow :=
  [⟨0x400D0000, [], 0, 0, 0, 0xFFFFFFC0, 0, 0, 0⟩,
   ⟨0x400D0004, [], 0, 0, 0, 0, 0, 0, 0⟩,
   ⟨0x400D0008, [], 0, 0, 0, 0xFFFF0000, 0, 0, 0⟩,
   ⟨0x400D000C, [], 0, 0, 0, 0xC0000000, 0, 0, 0⟩,
   ⟨0x400D0010, [], 0, 0, 0, 0, 0, 0, 0⟩,
   ⟨0x400D0014, [], 0, 0, 0, 0, 0, 0, 0⟩,
   ⟨0x400D0018, [], 0, 0, 0, 0xFFFF0000, 0, 0, 0⟩,
   ⟨0x400D001C, [], 0, 0, 0, 0xC0000000, 0, 0, 0⟩,
   ⟨0x400D0020, [], 0, 0, 0, 0, 0, 0, 0⟩,
   ⟨0x400D0024, [], 0, 0, 0, 0, 0, 0, 0⟩,
   ⟨0x400D0028, [], 0, 0, 0, 0, 0, 0, 0⟩,
   ⟨0x400D002C, [], 0, 0, 0, 0, 0, 0, 0⟩,
   ⟨0x400D0030, [], 0, 0, 0, 0, 0, 0, 0⟩,
   ⟨0x400D0034, [], 0, 0, 0, 0, 0, 0, 0⟩,
   ⟨0x400D0038, [], 0, 0, 0, 0xFFFF0000, 0, 0, 0⟩,
   ⟨0x400D003C, [], 0, 0, 0, 0, 0, 0, 0⟩,
   ⟨0x400D0040, [], 0, 0, 0, 0, 0, 0, 0⟩,
   ⟨0x400D0080, [], 0xFFFFFFFF, 0, 0, 0, 0x41000000, 0, 0⟩,
   ⟨0x400D0084, [], 0xFFFFFFFF, 0, 0, 0, 0x3F000000, 0, 0⟩,
   ⟨0x400D0088, [], 0xFFFFFFFF, 0, 0, 0, 0x48435000, 0, 0⟩] ++
  [⟨0x400D008C, [], 0xFFFFFFFF, 0, 0, 0, 0x3E8, 0, 0⟩,
   ⟨0x400D0090, [], 0xFFFFFF, 0, 0, 0xFF000000, 0x100064, 0, 0⟩,
   ⟨0x400D0094, [], 0xFFFFFF, 0, 0, 0xFF000000, 0x401F4, 0, 0⟩,
   ⟨0x400D0098, [], 0xFF, 0, 0, 0xFFFFFF00, 8, 0, 0⟩,
   ⟨0x400D009C, [], 0xFFFFFFFF, 0, 0, 0, 0x47C35000, 0, 0⟩,
   ⟨0x400D00A0, [], 0xFFFFFFFF, 0, 0, 0, 0x3E800000, 0, 0⟩,
   ⟨0x400D00C0, [], 0xFFFF077F, 0, 0, 0xF880, 0x80800500, 0, 0⟩,
   ⟨0x400D00C4, [], 0xFFFF, 0, 0, 0xFFFF0000, 0x1388, 0, 0⟩]

/-- The FIELD window, as its tables give it. -/
def regRows14 : List RegRow :=
  [⟨0x400E0000, [], 0, 0, 0, 0xFFFFFF00, 0, 0, 0xFF⟩,
   ⟨0x400E0004, [], 0, 0, 0, 0xFFFFF000, 0, 0, 0⟩,
   ⟨0x400E0008, [], 0xFFFF, 0, 0, 0xFFFF0000, 0xA, 0, 0⟩,
   ⟨0x400E000C, [], 0, 0, 0, 0xFFFFE000, 0, 0, 0⟩,
   ⟨0x400E0010, [], 0xFFFFF, 0, 0, 0xFFF00000, 0, 0, 0⟩,
   ⟨0x400E0014, [], 0, 0xFFFFFFFF, 0, 0, 0, 0, 0⟩,
   ⟨0x400E0018, [], 0, 0, 0, 0, 0, 0, 0⟩,
   ⟨0x400E001C, [], 0, 0, 0, 0xFFFFF000, 0, 0, 0⟩,
   ⟨0x400E0020, [], 0xF1FF, 0, 0, 0xFFFF0E00, 0, 0, 0⟩,
   ⟨0x400E0024, [], 0, 0, 0, 0, 0, 0, 0xFFFFFFFF⟩,
   ⟨0x400E0028, [], 0, 0, 0, 0, 0, 0, 0xFFFFFFFF⟩,
   ⟨0x400E0030, [], 0xFFF, 0, 0, 0xFFFFF000, 0, 0, 0⟩,
   ⟨0x400E0034, [], 0, 0, 0, 0, 0, 0, 0xFFFFFFFF⟩,
   ⟨0x400E0038, [], 0, 0, 0, 0xFFFE7000, 0, 0, 0x18FFF⟩,
   ⟨0x400E003C, [], 0, 1, 0, 0xFFFFFFFE, 0, 0, 0⟩,
   ⟨0x400E0100, [(0x40, 16)], 0, 0, 0, 0xFFFFE, 0x38C00000, 0, 0xFFF00001⟩,
   ⟨0x400E0104, [(0x40, 16)], 0, 0, 0, 0xFFF00000, 0x2710, 0, 0xFFFFF⟩,
   ⟨0x400E0108, [(0x40, 16)], 0, 0, 0, 0xFFF00000, 0x3E8, 0, 0xFFFFF⟩,
   ⟨0x400E010C, [(0x40, 16)], 0, 0, 0, 0xFFFFFC00, 0, 0, 0x3FF⟩,
   ⟨0x400E0110, [(0x40, 16)], 0, 0, 0, 0xFFFF00F8, 0, 0, 0⟩] ++
  [⟨0x400E0114, [(0x40, 16)], 0, 0, 0, 0, 0, 0, 0⟩,
   ⟨0x400E0118, [(0x40, 16)], 0, 0, 0, 0xFFF00000, 0, 0, 0⟩,
   ⟨0x400E011C, [(0x40, 16)], 0, 0, 0, 0, 0, 0, 0⟩,
   ⟨0x400E0120, [(0x40, 16)], 0, 0, 0, 0, 0, 0, 0⟩,
   ⟨0x400E0124, [(0x40, 16)], 0, 0, 0, 0, 0, 0, 0⟩,
   ⟨0x400E0128, [(0x40, 16)], 0, 0, 0, 0, 0, 0, 0⟩,
   ⟨0x400E012C, [(0x40, 16)], 0, 0, 0, 0, 0, 0, 0⟩,
   ⟨0x400E1000, [(0x400, 16), (4, 256)], 0, 0, 0, 0, 0, 0, 0⟩,
   ⟨0x400E5000, [(0x400, 16), (4, 256)], 0, 0, 0, 0, 0, 0, 0⟩]

/-- The MASTER window, as its tables give it. -/
def regRows15 : List RegRow :=
  [⟨0x400F0000, [], 0, 0, 0, 0xFF0E, 0x88B50010, 0, 0xFFFF00F1⟩,
   ⟨0x400F0004, [], 0, 0, 0, 0, 1, 0, 0⟩,
   ⟨0x400F0008, [], 0, 0, 0, 0xFFFF0000, 0, 0, 0⟩,
   ⟨0x400F000C, [], 0, 0, 0, 0, 0, 0, 0⟩,
   ⟨0x400F0010, [], 0, 0, 0, 0, 0, 0, 0⟩,
   ⟨0x400F0014, [], 0, 0, 0, 0xFFFF0000, 0, 0, 0⟩,
   ⟨0x400F0018, [], 0, 0, 0, 0xFFFF0000, 0, 0, 0xFFFF⟩,
   ⟨0x400F001C, [], 0x3FFF, 0, 0, 0xFFFFC000, 0x64, 0, 0⟩,
   ⟨0x400F0020, [], 0, 0, 0, 0, 0, 0, 0xFFFFFFFF⟩,
   ⟨0x400F0024, [], 0, 0, 0, 0xFFFF0000, 0, 0, 0xFFFF⟩,
   ⟨0x400F0030, [], 0, 0, 0, 0xFF00FF80, 0, 0, 0⟩,
   ⟨0x400F0034, [], 0, 0, 0, 0xFFFF0000, 0, 0, 0⟩,
   ⟨0x400F0038, [], 0, 0, 0, 0xF800FF80, 0, 0, 0⟩,
   ⟨0x400F0040, [(4, 8)], 0, 0, 0, 0, 0, 0, 0⟩,
   ⟨0x400F0060, [], 0, 0x1FF, 0, 0xFFFFFE00, 0, 0, 0⟩,
   ⟨0x400F0100, [(8, 33)], 0, 0, 0, 0, 0, 0, 0⟩,
   ⟨0x400F0104, [(8, 33)], 0, 0, 0, 0xFFFF00FC, 0, 0, 0⟩]

/-- The NVM window, as its tables give it. -/
def regRows16 : List RegRow :=
  [⟨0x40100000, [], 0, 0, 0, 0xFFFFFFF8, 0, 0, 0⟩,
   ⟨0x40100004, [], 0xFF, 0, 0, 0xFFFFFF00, 0x18, 0, 0⟩,
   ⟨0x40100008, [(4, 2)], 0, 0, 0, 0, 0, 0, 0⟩,
   ⟨0x40100010, [(4, 2)], 0, 0, 0, 0, 0, 0, 0⟩,
   ⟨0x40100018, [], 0, 0, 0, 0xFFFC0000, 0, 0, 0⟩,
   ⟨0x40100020, [], 0xFF, 0, 0, 0xFFFFFF00, 0, 0, 0⟩,
   ⟨0x40100024, [], 0, 0, 0, 0, 0, 0, 0⟩]

/-- The SE window, as its tables give it. -/
def regRows17 : List RegRow :=
  [⟨0x40110000, [], 0xF0, 1, 0, 0xFFFFFF0E, 0, 0, 0⟩,
   ⟨0x40110004, [], 0, 0, 0, 0xFFFFFEF0, 8, 0, 0⟩,
   ⟨0x40110010, [(4, 9)], 0, 0, 0, 0xF8000008, 0, 16, 0⟩,
   ⟨0x40110040, [], 0, 0, 0, 0xF00C, 0, 0, 0⟩,
   ⟨0x40110048, [], 0xFFFE0000, 0, 0, 0x1FFFF, 0, 0, 0⟩,
   ⟨0x4011004C, [], 0xFFFE0000, 0, 0, 0x1FFFF, 0, 0, 0⟩,
   ⟨0x40110050, [], 0xFFFF0000, 0, 0, 0xFFFF, 0, 0, 0⟩,
   ⟨0x40110054, [], 0xFFFF0000, 0, 0, 0xFFFF, 0, 0, 0⟩,
   ⟨0x40110080, [], 0xFF, 0, 0, 0xFFFFFF00, 0, 0, 0⟩,
   ⟨0x40110084, [], 0xF80FFFFF, 0, 0, 0x7F00000, 0, 0, 0⟩,
   ⟨0x40110088, [], 0x2FFFFFF, 0, 0, 0xFD000000, 0x300000, 0, 0⟩,
   ⟨0x4011008C, [], 0, 0, 0, 0, 0, 0, 0⟩,
   ⟨0x40110090, [], 0, 0, 0, 0, 0, 0, 0⟩,
   ⟨0x401100A0, [], 0x10F, 0, 0, 0xFFFFFEF0, 0, 0, 0⟩,
   ⟨0x401100A4, [], 0x1FFFC, 0, 0, 0xFFFE0003, 0, 0, 0⟩,
   ⟨0x401100A8, [], 0xFFFFFFFF, 0, 0, 0, 0, 0, 0⟩,
   ⟨0x401100C0, [], 0xF7FF, 0, 0, 0xFFFF0800, 0, 0, 0⟩,
   ⟨0x401100C4, [], 0xFFFFFFFF, 0, 0, 0, 0, 0, 0⟩,
   ⟨0x401100C8, [], 0, 0x7FF, 0, 0xFFFFF800, 0, 0, 0⟩,
   ⟨0x40110100, [(8, 64)], 0xC0000000, 0, 0, 0x3FFFFFFF, 0, 0, 0⟩] ++
  [⟨0x40110104, [(8, 64)], 0xFFFFFF, 0, 0, 0xFF000000, 0, 0, 0⟩,
   ⟨0x40110060, [], 0xF, 0x80000000, 0, 0x7FFFFFF0, 0, 0, 0⟩,
   ⟨0x40110064, [], 0, 0, 0, 0xFFFC, 0, 0, 0⟩]

/-- The COX and MBOX window, as its tables give it. -/
def regRows18 : List RegRow :=
  [⟨0x40120000, [(0x40, 9)], 0xFFFF, 0, 0, 0xFFFF0000, 0, 0, 0⟩,
   ⟨0x40120004, [(0x40, 9), (4, 4)], 0xFFFFFFFF, 0, 0, 0, 0, 0, 0⟩,
   ⟨0x40120014, [(0x40, 9)], 0, 0, 0x10000, 0xFFFE0000, 0, 0, 0⟩,
   ⟨0x40121000, [], 0, 0, 0, 0xFFFFFF00, 0, 0, 0⟩,
   ⟨0x40121004, [], 0, 0, 0, 0, 0, 0, 0⟩,
   ⟨0x40121008, [], 0, 0, 0, 0, 0, 0, 0⟩,
   ⟨0x40121010, [(4, 4)], 0, 0, 0, 0x7FFF0000, 0, 0, 0⟩]

/-- The AUXADC window, as its tables give it. -/
def regRows19 : List RegRow :=
  [⟨0x40130000, [], 1, 0, 0, 0xFFFFFFFE, 0, 0, 0⟩,
   ⟨0x40130004, [], 0, 0, 0, 0xFFFFFE00, 0, 0, 0⟩,
   ⟨0x40130008, [], 0, 0, 0xFF, 0xFFFFFF00, 0, 0, 0⟩,
   ⟨0x4013000C, [], 0, 0, 0, 0, 0, 0, 0⟩,
   ⟨0x40130100, [(0x10, 8)], 0xF3E7, 0x10000, 0, 0xFFFE0C18, 0, 0, 0⟩,
   ⟨0x40130104, [(0x10, 8)], 0, 0, 0, 0x1FFF0000, 0, 0, 0⟩,
   ⟨0x40130108, [(0x10, 8)], 0, 0, 0, 0, 0, 0, 0⟩,
   ⟨0x4013010C, [(0x10, 8)], 0xFFFFFFFF, 0, 0, 0, 0xFFFF0000, 0, 0⟩]

/-- The GPIO window, as its tables give it. -/
def regRows20 : List RegRow :=
  [⟨0x40140000, [], 0, 0, 0, 0, 0, 0, 0⟩,
   ⟨0x40140004, [], 0xFFFFFFFF, 0, 0, 0, 0, 0, 0⟩,
   ⟨0x40140008, [], 0xFFFFFFFF, 0, 0, 0, 0, 0, 0⟩,
   ⟨0x4014000C, [], 0, 0, 0, 0, 0, 0, 0⟩]

/-- The CRYPTO window, as its tables give it. -/
def regRows21 : List RegRow :=
  [⟨0x40150000, [], 3, 0xFF00, 0, 0xFFFF00FC, 0, 0, 0⟩,
   ⟨0x40150004, [], 0, 0, 0, 0xFFFFFFFC, 0, 0, 3⟩,
   ⟨0x40150008, [], 0, 0x80000000, 0, 0x7FFFFF00, 0, 0, 0⟩,
   ⟨0x4015000C, [], 0, 0, 0, 0, 0, 0, 0⟩,
   ⟨0x40150020, [(4, 8)], 0, 0, 0, 0, 0, 0, 0⟩,
   ⟨0x40150040, [], 0, 0, 0, 0xFFFFFFF8, 0, 0, 0⟩]

/-- The rows of the 64 KB window number `w` (R23), by bits 31..16 of the address less 0x4000. -/
def regRows (w : Nat) : List RegRow :=
  match w with
  | 0 => regRows0
  | 1 => regRows1
  | 2 => regRows2
  | 3 => regRows3
  | 4 => regRows4
  | 5 => regRows5
  | 6 => regRows6
  | 7 => regRows7
  | 8 => regRows8
  | 9 => regRows9
  | 10 => regRows10
  | 11 => regRows11
  | 12 => regRows12
  | 13 => regRows13
  | 14 => regRows14
  | 15 => regRows15
  | 16 => regRows16
  | 17 => regRows17
  | 18 => regRows18
  | 19 => regRows19
  | 20 => regRows20
  | 21 => regRows21
  | _ => []

end Sys2Proof.Machine
end

