-- ==== Sys2Proof/Syntax.lean ====
section
/-! DEFINITION. Syntax.lean: the commands of the BX640, one constructor per row of the opcode table, and the types of their
operands. An event that comes from outside carries what it brings as operands; an Onnus instruction carries the pair that
issues it and its fields. -/
namespace Sys2Proof

/-- A ring frame as received (R371): addresses with octet 0 in [7:0], its HSR tag, the EtherType behind the tag, and whether
its FCS and code groups are good. -/
structure RingFrame where
  dst : BitVec 48
  src : BitVec 48
  path : BitVec 4
  seq : BitVec 16
  etype : BitVec 16
  payload : List Byte
  good : Bool
  deriving DecidableEq, Repr

/-- A time field of a PTP message. -/
structure PtpTime where
  sec : BitVec 48
  ns : BitVec 32
  deriving DecidableEq, Repr

/-- What the BX640 reads of a received PTP message (R383): source MAC and HSR sequence where it carries a tag, domain,
two-step flag, sequence, sender, correction in 2^−16 ns and the timestamp carried. -/
structure PtpMsg where
  src : BitVec 48
  hsrSeq : BitVec 16
  domain : BitVec 8
  twoStep : Bool
  seq : BitVec 16
  sender : BitVec 64
  corr : BitVec 64
  time : PtpTime
  deriving DecidableEq, Repr

/-- A change that `n` samples in a row have seen: to the high level, or a count up, where `up` (R289, R301). -/
structure Sampled where
  up : Bool
  n : Nat
  deriving DecidableEq, Repr

/-- A change of both A and B of a position port that `n` samples in a row have seen (R289). -/
structure PortSeen where
  port : Port16
  n : Nat
  deriving DecidableEq, Repr

/-- What a safety island sees of a position port in a window of 1 ms (R310): a line fault, an illegal transition, the change of
its ×4 count, and the last good position of a serial port. -/
structure SpeedObs where
  line : Bool
  ill : Bool
  diff : Word
  pos : Option (BitVec 40)
  deriving DecidableEq, Repr

/-- The data set of an Announce (R383). -/
structure PtpClock where
  prio1 : Byte
  cls : Byte
  accuracy : Byte
  variance : BitVec 16
  prio2 : Byte
  ident : BitVec 64
  utcOfs : BitVec 16
  deriving DecidableEq, Repr

/-- What an MRAM write ends with (R29 class 2): good at once, good after its rewrite, failed twice. -/
inductive WrRes where
  | ok | rewritten | failed
  deriving DecidableEq, Repr

/-- What the line gave in a read (R288, R291): the position bits as sent, nE and nW as reported active, the CRC or parity
bits, whether Ack and Start were seen in 20 clock periods, and the slave timeout within TOUT. -/
structure SerialIn where
  data : BitVec 40
  err : Bool
  warn : Bool
  check : BitVec 6
  ack : Bool
  tout : Bool
  deriving DecidableEq, Repr

/-- Levels read back: STO_A, STO_B, SBO_A and SBO_B, bit g or b. -/
structure Readback where
  stoA : BitVec 8
  stoB : BitVec 8
  sboA : BitVec 8
  sboB : BitVec 8
  deriving DecidableEq, Repr

/-- The size of a Cox access (R8). -/
inductive AccSize where
  | byte | half | word
  deriving DecidableEq, Repr

/-- The commands, in the order of the opcode table. -/
inductive Instr where
  /-- REGISTER_WRITE (R9). -/
  | registerWrite (a : Word) (sz : AccSize) (v : Option Word)
  /-- CLAIM_REQ_CLAIM (R34). -/
  | claimReqClaim (owner : Byte) (res : BitVec 16)
  /-- CLAIM_REQ_RELEASE (R34). -/
  | claimReqRelease (owner : Byte) (res : BitVec 16)
  /-- CLAIM_TABLE_REQUEST (R35). -/
  | claimTableRequest
  /-- DMA_LEN_WRITE (R37). -/
  | dmaLenWrite (len : BitVec 21)
  /-- CNT_CLR_ECC (R40). -/
  | cntClrEcc
  /-- CNT_CLR_OVF (R40). -/
  | cntClrOvf
  /-- CNT_CLR_RETRY (R40). -/
  | cntClrRetry (k : Fin 5)
  /-- SE_MISMATCH (R48). -/
  | seMismatch (p : PairNo)
  /-- SE_MEM_UE (R44). -/
  | seMemUe (p : PairNo)
  /-- RESTORE_COMPLETE (R74). -/
  | restoreComplete (p : PairNo)
  /-- DOMAIN_RELOAD_COMPLETE (R45). -/
  | domainReloadComplete (p : PairNo)
  /-- SE_RETEST (R79). -/
  | seRetest (v : Word)
  /-- SPARE_SELF_TEST (R80). -/
  | spareSelfTest (p : PairNo)
  /-- SELF_TEST_COMPLETE (R79). -/
  | selfTestComplete (p : PairNo) (pass : Bool)
  /-- TASK_DISPATCH (R57). -/
  | taskDispatch (p : PairNo)
  /-- TASK_PREEMPT (R51). -/
  | taskPreempt (p : PairNo)
  /-- TASK_BUDGET (R54). -/
  | taskBudget (p : PairNo)
  /-- TIMER_EXPIRY (R60). -/
  | timerExpiry (k : Fin 64)
  /-- CATCH (R62). -/
  | crewCatch (n : CrewNo)
  /-- CHECKPOINT_RECORD_WRITE (R71). -/
  | checkpointRecordWrite (p : PairNo)
  /-- SE_MEM_DATA_WRITE (R89). -/
  | seMemDataWrite (v : Word)
  /-- SE_MEM_DATA_READ (R91). -/
  | seMemDataRead
  /-- COEF_DATA_WRITE (R82). -/
  | coefDataWrite (v : Word)
  /-- COEF_SWAP (R84). -/
  | coefSwap (v : Word)
  /-- OUTBOUND_QUEUE_DRAIN (R102). -/
  | outboundQueueDrain (p : PairNo)
  /-- ADD (R109). -/
  | add (p : PairNo) (gd gs1 gs2 : BitVec 5)
  /-- SUB (R109). -/
  | sub (p : PairNo) (gd gs1 gs2 : BitVec 5)
  /-- AND (R109). -/
  | and (p : PairNo) (gd gs1 gs2 : BitVec 5)
  /-- OR (R109). -/
  | or (p : PairNo) (gd gs1 gs2 : BitVec 5)
  /-- XOR (R109). -/
  | xor (p : PairNo) (gd gs1 gs2 : BitVec 5)
  /-- SLL (R109). -/
  | sll (p : PairNo) (gd gs1 gs2 : BitVec 5)
  /-- SRL (R109). -/
  | srl (p : PairNo) (gd gs1 gs2 : BitVec 5)
  /-- SRA (R109). -/
  | sra (p : PairNo) (gd gs1 gs2 : BitVec 5)
  /-- SLT (R109). -/
  | slt (p : PairNo) (gd gs1 gs2 : BitVec 5)
  /-- SLTU (R109). -/
  | sltu (p : PairNo) (gd gs1 gs2 : BitVec 5)
  /-- MIN (R109). -/
  | min (p : PairNo) (gd gs1 gs2 : BitVec 5)
  /-- MAX (R109). -/
  | max (p : PairNo) (gd gs1 gs2 : BitVec 5)
  /-- MINU (R109). -/
  | minu (p : PairNo) (gd gs1 gs2 : BitVec 5)
  /-- MAXU (R109). -/
  | maxu (p : PairNo) (gd gs1 gs2 : BitVec 5)
  /-- CLZ (R109). -/
  | clz (p : PairNo) (gd gs1 gs2 : BitVec 5)
  /-- MUL (R109). -/
  | mul (p : PairNo) (gd gs1 gs2 : BitVec 5)
  /-- MULH (R109). -/
  | mulh (p : PairNo) (gd gs1 gs2 : BitVec 5)
  /-- MULHU (R109). -/
  | mulhu (p : PairNo) (gd gs1 gs2 : BitVec 5)
  /-- DIV (R109). -/
  | div (p : PairNo) (gd gs1 gs2 : BitVec 5)
  /-- DIVU (R109). -/
  | divu (p : PairNo) (gd gs1 gs2 : BitVec 5)
  /-- REM (R109). -/
  | rem (p : PairNo) (gd gs1 gs2 : BitVec 5)
  /-- REMU (R109). -/
  | remu (p : PairNo) (gd gs1 gs2 : BitVec 5)
  /-- ADDI (R109). -/
  | addi (p : PairNo) (gd gs1 : BitVec 5) (imm : BitVec 15)
  /-- ANDI (R109). -/
  | andi (p : PairNo) (gd gs1 : BitVec 5) (imm : BitVec 15)
  /-- ORI (R109). -/
  | ori (p : PairNo) (gd gs1 : BitVec 5) (imm : BitVec 15)
  /-- XORI (R109). -/
  | xori (p : PairNo) (gd gs1 : BitVec 5) (imm : BitVec 15)
  /-- SLTI (R109). -/
  | slti (p : PairNo) (gd gs1 : BitVec 5) (imm : BitVec 15)
  /-- SLTIU (R109). -/
  | sltiu (p : PairNo) (gd gs1 : BitVec 5) (imm : BitVec 15)
  /-- SLLI (R109). -/
  | slli (p : PairNo) (gd gs1 : BitVec 5) (imm : BitVec 15)
  /-- SRLI (R109). -/
  | srli (p : PairNo) (gd gs1 : BitVec 5) (imm : BitVec 15)
  /-- SRAI (R109). -/
  | srai (p : PairNo) (gd gs1 : BitVec 5) (imm : BitVec 15)
  /-- LUI (R109). -/
  | lui (p : PairNo) (gd : BitVec 5) (imm : BitVec 20)
  /-- QADD (R110). -/
  | qadd (p : PairNo) (gd gs1 gs2 : BitVec 5)
  /-- QSUB (R110). -/
  | qsub (p : PairNo) (gd gs1 gs2 : BitVec 5)
  /-- QMUL (R110). -/
  | qmul (p : PairNo) (gd gs1 gs2 : BitVec 5)
  /-- QNEG (R110). -/
  | qneg (p : PairNo) (gd gs1 gs2 : BitVec 5)
  /-- QABS (R110). -/
  | qabs (p : PairNo) (gd gs1 gs2 : BitVec 5)
  /-- QSHL (R110). -/
  | qshl (p : PairNo) (gd gs1 gs2 : BitVec 5)
  /-- QSHR (R110). -/
  | qshr (p : PairNo) (gd gs1 gs2 : BitVec 5)
  /-- QADD2 (R110). -/
  | qadd2 (p : PairNo) (gd gs1 gs2 : BitVec 5)
  /-- QSUB2 (R110). -/
  | qsub2 (p : PairNo) (gd gs1 gs2 : BitVec 5)
  /-- QMUL2 (R110). -/
  | qmul2 (p : PairNo) (gd gs1 gs2 : BitVec 5)
  /-- QPACK (R110). -/
  | qpack (p : PairNo) (gd gs1 gs2 : BitVec 5)
  /-- MAC (R110). -/
  | mac (p : PairNo) (gd gs1 gs2 : BitVec 5)
  /-- MSU (R110). -/
  | msu (p : PairNo) (gd gs1 gs2 : BitVec 5)
  /-- MACZ (R110). -/
  | macz (p : PairNo) (gd gs1 gs2 : BitVec 5)
  /-- MAC2 (R110). -/
  | mac2 (p : PairNo) (gd gs1 gs2 : BitVec 5)
  /-- ACLR (R110). -/
  | aclr (p : PairNo) (gd gs1 gs2 : BitVec 5)
  /-- AWR (R110). -/
  | awr (p : PairNo) (gd gs1 gs2 : BitVec 5)
  /-- ARD (R111). -/
  | ard (p : PairNo) (gd gs1 : BitVec 5) (imm : BitVec 15)
  /-- FADD (R107). -/
  | fadd (p : PairNo) (gd gs1 gs2 : BitVec 5)
  /-- FSUB (R107). -/
  | fsub (p : PairNo) (gd gs1 gs2 : BitVec 5)
  /-- FMUL (R107). -/
  | fmul (p : PairNo) (gd gs1 gs2 : BitVec 5)
  /-- FDIV (R107). -/
  | fdiv (p : PairNo) (gd gs1 gs2 : BitVec 5)
  /-- FSQRT (R107). -/
  | fsqrt (p : PairNo) (gd gs1 gs2 : BitVec 5)
  /-- FMA (R108). -/
  | fma (p : PairNo) (gd gs1 gs2 : BitVec 5)
  /-- FNMS (R108). -/
  | fnms (p : PairNo) (gd gs1 gs2 : BitVec 5)
  /-- FMIN (R107). -/
  | fmin (p : PairNo) (gd gs1 gs2 : BitVec 5)
  /-- FMAX (R107). -/
  | fmax (p : PairNo) (gd gs1 gs2 : BitVec 5)
  /-- FABS (R107). -/
  | fabs (p : PairNo) (gd gs1 gs2 : BitVec 5)
  /-- FNEG (R107). -/
  | fneg (p : PairNo) (gd gs1 gs2 : BitVec 5)
  /-- FSAT (R107). -/
  | fsat (p : PairNo) (gd gs1 gs2 : BitVec 5)
  /-- FCVT_S_W (R107). -/
  | fcvtSW (p : PairNo) (gd gs1 gs2 : BitVec 5)
  /-- FCVT_W_S (R107). -/
  | fcvtWS (p : PairNo) (gd gs1 gs2 : BitVec 5)
  /-- FCVT_S_Q (R107). -/
  | fcvtSQ (p : PairNo) (gd gs1 gs2 : BitVec 5)
  /-- FCVT_Q_S (R107). -/
  | fcvtQS (p : PairNo) (gd gs1 gs2 : BitVec 5)
  /-- FMV_G_F (R107). -/
  | fmvGF (p : PairNo) (gd gs1 gs2 : BitVec 5)
  /-- FMV_F_G (R107). -/
  | fmvFG (p : PairNo) (gd gs1 gs2 : BitVec 5)
  /-- FEQ (R107). -/
  | feq (p : PairNo) (gd gs1 gs2 : BitVec 5)
  /-- FLT (R107). -/
  | flt (p : PairNo) (gd gs1 gs2 : BitVec 5)
  /-- FLE (R107). -/
  | fle (p : PairNo) (gd gs1 gs2 : BitVec 5)
  /-- CLARKE (R113). -/
  | clarke (p : PairNo) (gd gs1 gs2 : BitVec 5)
  /-- PARK (R113). -/
  | park (p : PairNo) (gd gs1 gs2 : BitVec 5)
  /-- IPARK (R113). -/
  | ipark (p : PairNo) (gd gs1 gs2 : BitVec 5)
  /-- SINCOS (R112). -/
  | sincos (p : PairNo) (gd gs1 gs2 : BitVec 5)
  /-- ATAN2 (R114). -/
  | atan2 (p : PairNo) (gd gs1 gs2 : BitVec 5)
  /-- BIQ (R115). -/
  | biq (p : PairNo) (gd gs1 gs2 : BitVec 5)
  /-- LIM2 (R116). -/
  | lim2 (p : PairNo) (gd gs1 gs2 : BitVec 5)
  /-- LIM2D (R116). -/
  | lim2d (p : PairNo) (gd gs1 gs2 : BitVec 5)
  /-- LDW (R118). -/
  | ldw (p : PairNo) (gd gs1 : BitVec 5) (imm : BitVec 15)
  /-- LDH (R118). -/
  | ldh (p : PairNo) (gd gs1 : BitVec 5) (imm : BitVec 15)
  /-- LDHU (R118). -/
  | ldhu (p : PairNo) (gd gs1 : BitVec 5) (imm : BitVec 15)
  /-- LDB (R118). -/
  | ldb (p : PairNo) (gd gs1 : BitVec 5) (imm : BitVec 15)
  /-- LDBU (R118). -/
  | ldbu (p : PairNo) (gd gs1 : BitVec 5) (imm : BitVec 15)
  /-- FLW (R118). -/
  | flw (p : PairNo) (gd gs1 : BitVec 5) (imm : BitVec 15)
  /-- STW (R118). -/
  | stw (p : PairNo) (gd gs1 : BitVec 5) (imm : BitVec 15)
  /-- STH (R118). -/
  | sth (p : PairNo) (gd gs1 : BitVec 5) (imm : BitVec 15)
  /-- STB (R118). -/
  | stb (p : PairNo) (gd gs1 : BitVec 5) (imm : BitVec 15)
  /-- FSW (R118). -/
  | fsw (p : PairNo) (gd gs1 : BitVec 5) (imm : BitVec 15)
  /-- SWAPW (R119). -/
  | swapw (p : PairNo) (gd gs1 gs2 : BitVec 5)
  /-- CASW (R119). -/
  | casw (p : PairNo) (gd gs1 gs2 : BitVec 5)
  /-- BEQ (R120). -/
  | beq (p : PairNo) (gs1 gs2 : BitVec 5) (off : BitVec 15)
  /-- BNE (R120). -/
  | bne (p : PairNo) (gs1 gs2 : BitVec 5) (off : BitVec 15)
  /-- BLT (R120). -/
  | blt (p : PairNo) (gs1 gs2 : BitVec 5) (off : BitVec 15)
  /-- BGE (R120). -/
  | bge (p : PairNo) (gs1 gs2 : BitVec 5) (off : BitVec 15)
  /-- BLTU (R120). -/
  | bltu (p : PairNo) (gs1 gs2 : BitVec 5) (off : BitVec 15)
  /-- BGEU (R120). -/
  | bgeu (p : PairNo) (gs1 gs2 : BitVec 5) (off : BitVec 15)
  /-- JAL (R121). -/
  | jal (p : PairNo) (gd : BitVec 5) (imm : BitVec 20)
  /-- JALR (R121). -/
  | jalr (p : PairNo) (gd gs1 : BitVec 5) (imm : BitVec 15)
  /-- LOOP (R122). -/
  | loop (p : PairNo) (gd gs1 : BitVec 5) (imm : BitVec 15)
  /-- LOOPI (R122). -/
  | loopi (p : PairNo) (gd : BitVec 5) (imm : BitVec 20)
  /-- PIN (R123). -/
  | pin (p : PairNo) (g : BitVec 5) (port : BitVec 16)
  /-- POUT_MODE0 (R123). -/
  | poutMode0 (p : PairNo) (g : BitVec 5) (port : BitVec 16)
  /-- POUT_MODE1 (R123). -/
  | poutMode1 (p : PairNo) (g : BitVec 5) (port : BitVec 16)
  /-- PSET_OR (R124). -/
  | psetOr (p : PairNo) (g : BitVec 5) (port : BitVec 16)
  /-- PSET_ANDNOT (R124). -/
  | psetAndnot (p : PairNo) (g : BitVec 5) (port : BitVec 16)
  /-- PSET_XOR (R124). -/
  | psetXor (p : PairNo) (g : BitVec 5) (port : BitVec 16)
  /-- PINR (R125). -/
  | pinr (p : PairNo) (gd gs1 gs2 : BitVec 5)
  /-- POUTR (R125). -/
  | poutr (p : PairNo) (gd gs1 gs2 : BitVec 5)
  /-- SIGRD (R126). -/
  | sigrd (p : PairNo) (gd gs1 gs2 : BitVec 5)
  /-- SIGRDI (R126). -/
  | sigrdi (p : PairNo) (gd : BitVec 5) (imm : BitVec 20)
  /-- SIGWR (R126). -/
  | sigwr (p : PairNo) (gd gs1 gs2 : BitVec 5)
  /-- TRIGGER (R127). -/
  | trigger (p : PairNo) (gd gs1 gs2 : BitVec 5)
  /-- WAITCATCH (R128). -/
  | waitcatch (p : PairNo) (gd : BitVec 5) (imm : BitVec 20)
  /-- YIELD (R128). -/
  | yield (p : PairNo) (gd : BitVec 5) (imm : BitVec 20)
  /-- ORDEND (R128). -/
  | ordend (p : PairNo) (gd gs1 : BitVec 5) (imm : BitVec 15)
  /-- ORDARG (R129). -/
  | ordarg (p : PairNo) (gd gs1 : BitVec 5) (imm : BitVec 15)
  /-- ORDHDR (R129). -/
  | ordhdr (p : PairNo) (gd gs1 : BitVec 5) (imm : BitVec 15)
  /-- CLAIM (R130). -/
  | claim (p : PairNo) (gd gs1 gs2 : BitVec 5)
  /-- RELEASE (R130). -/
  | release (p : PairNo) (gd gs1 gs2 : BitVec 5)
  /-- CSRRD (R131). -/
  | csrrd (p : PairNo) (gd gs1 : BitVec 5) (imm : BitVec 15)
  /-- CSRWR (R131). -/
  | csrwr (p : PairNo) (gd gs1 : BitVec 5) (imm : BitVec 15)
  /-- TRAP (R131). -/
  | trap (p : PairNo) (gd : BitVec 5) (imm : BitVec 20)
  /-- PISTEP (R117). -/
  | pistep (p : PairNo) (gd gs1 : BitVec 5) (imm : BitVec 15)
  /-- PISTEPR (R117). -/
  | pistepr (p : PairNo) (gd gs1 gs2 : BitVec 5)
  /-- TAS_TICK (R148). -/
  | tasTick
  /-- CARRIER_VALLEY (R156). -/
  | carrierValley (n : CrewNo) (j : Fin 8)
  /-- CARRIER_PEAK (R156). -/
  | carrierPeak (n : CrewNo) (j : Fin 8)
  /-- SEAM_HOLD_EXPIRY (R181). -/
  | seamHoldExpiry (n : CrewNo)
  /-- EDGE_DECISION (R155). -/
  | edgeDecision (x : LegNo)
  /-- DEAD_TIME_EXPIRY (R159). -/
  | deadTimeExpiry (x : LegNo)
  /-- CREW_START (R138). -/
  | crewStart (n : CrewNo)
  /-- CREW_STOP (R138). -/
  | crewStop (n : CrewNo)
  /-- STO_LINE_CHANGE (R307). -/
  | stoLineChange (g : Oct)
  /-- CMD_OFS_WRITE (R153). -/
  | cmdOfsWrite (n : CrewNo) (v : Word)
  /-- CMD_AMP_WRITE (R153). -/
  | cmdAmpWrite (n : CrewNo) (v : Word)
  /-- ANGSET_WRITE (R149). -/
  | angsetWrite (n : CrewNo) (v : Word)
  /-- TBL_DATA_ACCESS (R150). -/
  | tblDataAccess (w : Option Word)
  /-- LEG_MODE_WRITE (R162). -/
  | legModeWrite (x : LegNo) (m : BitVec 2)
  /-- LEG_RAW_WRITE (R162). -/
  | legRawWrite (x : LegNo) (hs ls : Bool)
  /-- SHOOT_LOCKOUT_END (R162). -/
  | shootLockoutEnd (x : LegNo)
  /-- LEG_DT_WRITE (R159). -/
  | legDtWrite (x : LegNo) (v : Word)
  /-- LEG_MINPW_WRITE (R160). -/
  | legMinpwWrite (x : LegNo) (pw : BitVec 8)
  /-- BOOTSTRAP_REFRESH (R163). -/
  | bootstrapRefresh (x : LegNo)
  /-- REFRESH_PULSE_END (R163). -/
  | refreshPulseEnd (x : LegNo)
  /-- CHOP_FAST_DECAY_END (R172). -/
  | chopFastDecayEnd (n : CrewNo) (b : Bool)
  /-- CHOP_OFF_TIME_END (R172). -/
  | chopOffTimeEnd (n : CrewNo) (b : Bool)
  /-- DOWNLINK_FRAME (R205). -/
  | downlinkFrame (k : TileNo)
  /-- UPLINK_FRAME (R200). -/
  | uplinkFrame (k : TileNo) (other : Bool) (f : BitVec 80)
  /-- STO_DISAGREE (R230). -/
  | stoDisagree (k : TileNo)
  /-- TILE_FRAME_RECEIVE (R210). -/
  | tileFrameReceive (k : TileNo) (err other : Bool) (f : BitVec 80)
  /-- TILE_EVENT_APPLY (R190). -/
  | tileEventApply (k : TileNo)
  /-- TILE_STO_INPUT (R227). -/
  | tileStoInput (k : TileNo) (b off : Bool)
  /-- TILE_UVLO (R223). -/
  | tileUvlo (k : TileNo) (high : Option (Fin 4)) (below : Bool)
  /-- TILE_DIDT_TRIP (R224). -/
  | tileDidtTrip (k : TileNo) (w : Fin 8)
  /-- TILE_POWER_UP (R228). -/
  | tilePowerUp (k : TileNo)
  /-- YILOS_EN (R218). -/
  | yilosEn (k : TileNo) (en : Bool)
  /-- YILOS_RETRAIN (R218). -/
  | yilosRetrain (k : TileNo)
  /-- TRAINING_FRAME (R213). -/
  | trainingFrame (k : TileNo) (err other : Bool) (f : BitVec 80) (sent came : Nat)
  /-- TRAINING_TIMEOUT (R218). -/
  | trainingTimeout (k : TileNo)
  /-- LINK_UP (R219). -/
  | linkUp (k : TileNo)
  /-- PARK_COMPLETE (R218). -/
  | parkComplete (k : TileNo)
  /-- YILOS_CLR (R234). -/
  | yilosClr (k : TileNo)
  /-- YILOS_MWR (R234). -/
  | yilosMwr (k : TileNo) (rd : Bool) (addr data : Byte)
  /-- DIAG_START (R231). -/
  | diagStart (k : TileNo) (v : Word)
  /-- DIAG_SETTLE_END (R232). -/
  | diagSettleEnd (k : TileNo) (r0 r1 r2 r3 : BitVec 16)
  /-- SINC_SAMPLE_ENTRY (R236). -/
  | sincSampleEntry (k : TileNo)
  /-- FAST_RESULT (R239). -/
  | fastResult (x : StreamNo) (d : Nat)
  /-- CONTROL_RESULT (R238). -/
  | controlResult (x : StreamNo) (d : Nat)
  /-- GUARD_HOLD_END (R257). -/
  | guardHoldEnd (n : CrewNo)
  /-- GUARD_COOL_END (R257). -/
  | guardCoolEnd (n : CrewNo)
  /-- GUARD_RENDER_LIMIT (R257). -/
  | guardRenderLimit (n : CrewNo)
  /-- GUARD_RECOVER (R257). -/
  | guardRecover (n : CrewNo)
  /-- EMG_SAMPLE (R259). -/
  | emgSample (low0 low1 : Bool)
  /-- SLESS_LOWSPEED (R261). -/
  | slessLowspeed (n : CrewNo)
  /-- ECLR_WRITE (R262). -/
  | eclrWrite (n : CrewNo) (clr : Bool)
  /-- EPOS_L_READ (R262). -/
  | eposLRead (n : CrewNo)
  /-- ENEG_L_READ (R262). -/
  | enegLRead (n : CrewNo)
  /-- DWELL_END (R272). -/
  | dwellEnd (n : CrewNo)
  /-- STANDSTILL_DELAY_END (R278). -/
  | standstillDelayEnd (n : CrewNo)
  /-- BRAKE_TSET_END (R280). -/
  | brakeTsetEnd (n : CrewNo)
  /-- BRAKE_TPRE_END (R280). -/
  | brakeTpreEnd (n : CrewNo)
  /-- BRAKE_TOPEN_END (R280). -/
  | brakeTopenEnd (n : CrewNo)
  /-- BRAKE_FEEDBACK (R280). -/
  | brakeFeedback (n : CrewNo) (level : Bool)
  /-- TREL_RAMP_END (R280). -/
  | trelRampEnd (n : CrewNo)
  /-- PROF_TGT_H_WRITE (R274). -/
  | profTgtHWrite (n : CrewNo) (v : Word)
  /-- PROF_VTGT_WRITE (R274). -/
  | profVtgtWrite (n : CrewNo) (v : Word)
  /-- PROF_MODE_WRITE (R274). -/
  | profModeWrite (n : CrewNo) (m : BitVec 2)
  /-- PROF_STOP (R277). -/
  | profStop (n : CrewNo)
  /-- PROF_HALTQ (R277). -/
  | profHaltq (n : CrewNo)
  /-- PROF_PARAM_WRITE (R269). -/
  | profParamWrite (n : CrewNo) (i : Fin 10) (v : Word)
  /-- IAR_PER_WRITE (R286). -/
  | iarPerWrite (n : CrewNo) (us : BitVec 10)
  /-- SETP_H_WRITE (R284). -/
  | setpHWrite (n : CrewNo) (v : Word)
  /-- IARUM_PERIOD_BOUNDARY (R284). -/
  | iarumPeriodBoundary (n : CrewNo)
  /-- PROF_POS_L_READ (R294). -/
  | profPosLRead (n : CrewNo)
  /-- Z_CAPTURE (R289). -/
  | zCapture (j : Port16)
  /-- ILLEGAL_TRANSITION (R289). -/
  | illegalTransition (e : PortSeen)
  /-- LINE_FAULT (R293). -/
  | lineFault (j : Port16) (on : Bool)
  /-- POS_LINE (R293). -/
  | posLine (j : Port16)
  /-- POS_READ_TRIGGER (R290). -/
  | posReadTrigger (j : Port16)
  /-- SERIAL_READ_COMPLETE (R291). -/
  | serialReadComplete (j : Port16) (i : SerialIn)
  /-- SERIAL_READ_RETRY (R291). -/
  | serialReadRetry (j : Port16)
  /-- POS_REARM (R295). -/
  | posRearm (j : Port16)
  /-- POS_CLR (R295). -/
  | posClr (j : Port16)
  /-- POS_CNT_L_READ (R295). -/
  | posCntLRead (j : Port16)
  /-- POS_ZCAP_L_READ (R295). -/
  | posZcapLRead (j : Port16)
  /-- SI_FILTER_CHANGE (R301). -/
  | siFilterChange (i : Oct) (b : Island) (e : Sampled)
  /-- RESET_HELD (R312). -/
  | resetHeld (i : Oct)
  /-- SI_DISCREP (R303). -/
  | siDiscrep (i : Oct)
  /-- TPO_PULSE (R304). -/
  | tpoPulse (j : Fin 4) (follows : Bool)
  /-- TPO_PULSE_END (R304). -/
  | tpoPulseEnd (j : Fin 4) (follows : Bool)
  /-- TEST_PULSE_WINDOW_END (R305). -/
  | testPulseWindowEnd (i : Oct) (n : Nat)
  /-- ISLAND_EVALUATION (R300). -/
  | islandEvaluation (isl : Island) (rb : Readback)
  /-- SPEED_WINDOW_END (R310). -/
  | speedWindowEnd (g : Oct) (oa ob : SpeedObs)
  /-- SS1_TIMER_EXPIRY (R309). -/
  | ss1TimerExpiry (isl : Island) (g : Oct)
  /-- SBC_DELAY_END (R311). -/
  | sbcDelayEnd (isl : Island) (g : Oct)
  /-- STO_TEST_PULSE (R315). -/
  | stoTestPulse (isl : Island) (g : Oct) (seen : Bool)
  /-- SBO_TEST_PULSE (R315). -/
  | sboTestPulse (isl : Island) (b : Oct) (seen : Bool)
  /-- ISLAND_START (R299). -/
  | islandStart (isl : Island)
  /-- ISLAND_START_COMPLETE (R299). -/
  | islandStartComplete (isl : Island) (pass : Bool)
  /-- RING_FRAGMENT (R327). -/
  | ringFragment (p : RingPort) (f : RingFrame)
  /-- REASSEMBLY_TIMEOUT (R327). -/
  | reassemblyTimeout
  /-- MASTER_FRAME (R333). -/
  | masterFrame (ring : Bool)
  /-- BATCH_CLOSE (R341). -/
  | batchClose
  /-- BATCH_COMMIT (R341). -/
  | batchCommit (r0 r1 : WrRes) (dur : Nat)
  /-- ORDER_START (R344). -/
  | orderStart
  /-- ORD_CALL (R345). -/
  | ordCall (lane : Fin 33)
  /-- ORD_LOADPROG (R349). -/
  | ordLoadprog
  /-- ORD_RIGSWITCH (R447). -/
  | ordRigswitch
  /-- ORD_READSIG (R349). -/
  | ordReadsig
  /-- ORD_WRITESIG (R349). -/
  | ordWritesig
  /-- ORD_SUBSCRIBE (R349). -/
  | ordSubscribe
  /-- ORD_SWAPBANK (R349). -/
  | ordSwapbank
  /-- ORD_CLEARFAULT (R349). -/
  | ordClearfault
  /-- ORD_DUMP (R499). -/
  | ordDump
  /-- REPORT_SEND (R353). -/
  | reportSend
  /-- REPORT_RESEND_TIMEOUT (R353). -/
  | reportResendTimeout
  /-- MASTER_SILENT (R355). -/
  | masterSilent
  /-- MP_WRITE (R362). -/
  | mpWrite (l : List Byte)
  /-- MP_READ (R362). -/
  | mpRead (n : Nat)
  /-- MP_STATUS (R362). -/
  | mpStatus
  /-- JOURNAL_RECOVERY (R356). -/
  | journalRecovery
  /-- RING_FRAME (R372). -/
  | ringFrame (p : RingPort) (f : RingFrame)
  /-- SUPERVISION_FRAME (R373). -/
  | supervisionFrame (p : RingPort) (f : RingFrame) (named : BitVec 48)
  /-- SUPERVISION_SEND (R371). -/
  | supervisionSend
  /-- RING_BROKEN (R373). -/
  | ringBroken
  /-- NODE_FORGET (R371). -/
  | nodeForget
  /-- RING_LINK_CHANGE (R374). -/
  | ringLinkChange (p : RingPort) (up : Bool)
  /-- EGRESS_FRAME_START (R375). -/
  | egressFrameStart (p : RingPort)
  /-- PROTECTED_WINDOW_OPEN (R377). -/
  | protectedWindowOpen
  /-- PROTECTED_WINDOW_CLOSE (R377). -/
  | protectedWindowClose
  /-- PHYRSTN_WRITE (R369). -/
  | phyrstnWrite (p : RingPort) (v : Bool)
  /-- TXEN_WRITE (R369). -/
  | txenWrite (p : RingPort) (v : Bool)
  /-- MDIO_OPERATION (R370). -/
  | mdioOperation (v : Word)
  /-- MDIO_COMPLETE (R370). -/
  | mdioComplete (data : BitVec 16) (ack : Bool)
  /-- BYP_INSERT_WRITE (R378). -/
  | bypInsertWrite (v : Bool)
  /-- BYP_LEAVE_WRITE (R380). -/
  | bypLeaveWrite
  /-- LEAVE_EXPIRY (R380). -/
  | leaveExpiry
  /-- BYP_SENSE_CHANGE (R379). -/
  | bypSenseChange (level : Bool)
  /-- BYP_MISMATCH (R379). -/
  | bypMismatch
  /-- LEAVE_ANNOUNCEMENT (R381). -/
  | leaveAnnouncement (p : RingPort) (f : RingFrame)
  /-- SYNC (R388). -/
  | sync (p : RingPort) (m : PtpMsg)
  /-- FOLLOW_UP (R384). -/
  | followUp (p : RingPort) (m : PtpMsg)
  /-- ANNOUNCE (R387). -/
  | announce (p : RingPort) (m : PtpMsg) (c : PtpClock)
  /-- PDELAY_REQ (R385). -/
  | pdelayReq (p : RingPort) (m : PtpMsg)
  /-- PDELAY_RESP (R385). -/
  | pdelayResp (p : RingPort) (m : PtpMsg)
  /-- PDELAY_RESP_FOLLOW_UP (R385). -/
  | pdelayRespFollowUp (p : RingPort) (m : PtpMsg)
  /-- PDELAY_REQ_SEND (R385). -/
  | pdelayReqSend (p : RingPort)
  /-- PDELAY_TIMEOUT (R385). -/
  | pdelayTimeout (p : RingPort)
  /-- SYNC_SEND (R383). -/
  | syncSend
  /-- ANNOUNCE_SEND (R383). -/
  | announceSend
  /-- SYNC_LOSS (R389). -/
  | syncLoss
  /-- ANNOUNCE_TIMEOUT (R389). -/
  | announceTimeout
  /-- RTC_UPDATE (R387). -/
  | rtcUpdate
  /-- CT_SL_READ (R403). -/
  | ctSlRead
  /-- LT_SL_READ (R403). -/
  | ltSlRead
  /-- LQ_ARM (R394). -/
  | lqArm (e : LegNo) (v : Word)
  /-- LQ_LAUNCH (R394). -/
  | lqLaunch (e : LegNo)
  /-- SEAM_PAYLOAD_READ (R398). -/
  | seamPayloadRead (n : CrewNo)
  /-- SEAM_FRAME (R399). -/
  | seamFrame (p : RingPort) (f : RingFrame)
  /-- SEAM_DEADLINE (R400). -/
  | seamDeadline (n : CrewNo)
  /-- FIELD_CYCLE_START (R423). -/
  | fieldCycleStart (j : Port16)
  /-- CYCLIC (R412). -/
  | cyclic (j : Port16)
  /-- CHANGE (R412). -/
  | change (j : Port16)
  /-- READ (R412). -/
  | read (j : Port16)
  /-- WRITE (R412). -/
  | write (j : Port16)
  /-- ASSIGN (R417). -/
  | assign (j : Port16)
  /-- CAP (R418). -/
  | cap (j : Port16)
  /-- DISCOVER (R416). -/
  | discover (j : Port16)
  /-- FREEZE (R412). -/
  | freeze (j : Port16)
  /-- FIELD_RESPONSE (R413). -/
  | fieldResponse (j : Port16) (l : List Byte) (lineErr : Bool) (dt : Nat)
  /-- FIELD_TIMEOUT (R411). -/
  | fieldTimeout (j : Port16)
  /-- DISCOVERY_ROUND (R416). -/
  | discoveryRound (j : Port16)
  /-- SIGNAL_MAP_SWEEP (R431). -/
  | signalMapSweep
  /-- INTERNAL_POCKET_REFRESH (R435). -/
  | internalPocketRefresh
  /-- SUBSCRIPTION_REPORT (R437). -/
  | subscriptionReport (a : BitVec 20)
  /-- FIELD_SWR_V (R433). -/
  | fieldSwrV (v : Word)
  /-- FIELD_CLR (R438). -/
  | fieldClr (cnt : Bool)
  /-- MAP_STORE (R434). -/
  | mapStore
  /-- VAON_POWER_ON (R450). -/
  | vaonPowerOn (bootMode : Bool) (rigSel : BitVec 3)
  /-- VAON_POWER_LOSS (R450). -/
  | vaonPowerLoss
  /-- RST_N_LOW (R451). -/
  | rstNLow
  /-- RST_N_RELEASE (R450). -/
  | rstNRelease (bootMode : Bool) (rigSel : BitVec 3)
  /-- BOOT_COMPLETE (R456). -/
  | bootComplete (tj : BitVec 16)
  /-- STUCK_RESET (R452). -/
  | stuckReset
  /-- STUCK_IGNORE_CLEAR (R452). -/
  | stuckIgnoreClear
  /-- WATCHDOG_EXPIRY (R454). -/
  | watchdogExpiry
  /-- AON_WDT_KICK (R454). -/
  | aonWdtKick
  /-- SOFTWARE_RESET (R450). -/
  | softwareReset
  /-- SUPPLY_UV (R450). -/
  | supplyUv (vana : Bool)
  /-- SUPPLY_UV_RELEASE (R530). -/
  | supplyUvRelease
  /-- BACKUP_TRIP (R455). -/
  | backupTrip
  /-- BACKUP_TRIP_CLEAR (R455). -/
  | backupTripClear
  /-- PFAIL_N (R343). -/
  | pfailN (low : Bool)
  /-- AON_READY_WRITE (R457). -/
  | aonReadyWrite (v : Bool)
  /-- READY_REACHED (R458). -/
  | readyReached
  /-- READY_TIMEOUT (R458). -/
  | readyTimeout
  /-- IDLE_TIMEOUT (R457). -/
  | idleTimeout
  /-- AON_REST_WRITE (R459). -/
  | aonRestWrite
  /-- REST_ENTRY_END (R457). -/
  | restEntryEnd
  /-- WAKE (R460). -/
  | wake (src : Fin 4)
  /-- DOMAIN_FAIL (R463). -/
  | domainFail (d : Fin 14)
  /-- MBOX_REQ_WRITE (R469). -/
  | mboxReqWrite (p : PairNo) (v : Word)
  /-- MBOX_MAINTENANCE (R469). -/
  | mboxMaintenance
  /-- MBOX_USER_LOG (R469). -/
  | mboxUserLog
  /-- MBOX_REST (R469). -/
  | mboxRest
  /-- MBOX_FIRMWARE_CHUNK (R469). -/
  | mboxFirmwareChunk
  /-- MBOX_FIRMWARE_ACTIVATE (R489). -/
  | mboxFirmwareActivate
  /-- MBOX_DUMP_SLOT_LOCK (R497). -/
  | mboxDumpSlotLock
  /-- HK_ROUND (R470). -/
  | hkRound
  /-- HK_SAMPLE (R471). -/
  | hkSample (c : Fin 48) (v : BitVec 16)
  /-- THERMAL_SHUTDOWN_REST (R474). -/
  | thermalShutdownRest
  /-- NVM_CHUNK_WRITE (R476). -/
  | nvmChunkWrite (res : WrRes)
  /-- SCRUB_STEP_DUE (R477). -/
  | scrubStepDue
  /-- WEAR_SAVE (R478). -/
  | wearSave
  /-- FIRMWARE_IMAGE_WRITE (R481). -/
  | firmwareImageWrite
  /-- RIG_WRITE (R481). -/
  | rigWrite
  /-- MRAM_SCRUB (R477). -/
  | mramScrub
  /-- JOURNAL_COMPACTION (R481). -/
  | journalCompaction
  /-- SRAM_BANK_TEST (R481). -/
  | sramBankTest (bad : Option (Fin 2))
  /-- LOG_EXPORT (R481). -/
  | logExport
  /-- CAPSIZE_DUMP (R497). -/
  | capsizeDump (cox stack : List Byte) (res : WrRes)
  /-- OFF_STATE_DIAGNOSTICS (R481). -/
  | offStateDiagnostics
  /-- ENCODER_CALIBRATION (R481). -/
  | encoderCalibration
  /-- MAINTENANCE_ACTIVITY_END (R483). -/
  | maintenanceActivityEnd (act crew : Byte)
  /-- FW_CONFIRM (R489). -/
  | fwConfirm (v : Word)
  /-- LCS_WRITE (R487). -/
  | lcsWrite (v : Word)
  /-- SE_SWAP_GO (R493). -/
  | seSwapGo (v : Word)
  /-- LIVE_REPLACEMENT_INSTANT (R494). -/
  | liveReplacementInstant
  /-- LIVE_SWAP_TIMEOUT (R494). -/
  | liveSwapTimeout
  /-- COX_EXCEPTION (R496). -/
  | coxException (cox stack : List Byte) (res : WrRes)
  /-- FIRMWARE_ASSERTION (R496). -/
  | firmwareAssertion (cox stack : List Byte) (res : WrRes)
  /-- GPIO_OUT_WRITE (R518). -/
  | gpioOutWrite (owner : Byte) (v : Word)
  /-- GPIO_OE_WRITE (R518). -/
  | gpioOeWrite (owner : Byte) (v : Word)
  /-- AUX_CFG_WRITE (R520). -/
  | auxCfgWrite (a : Oct) (v : Word)
  /-- AUX_START (R520). -/
  | auxStart (a : Oct)
  /-- AUX_CONVERSION (R520). -/
  | auxConversion (a : Oct) (v : BitVec 16)
  /-- AUX_RESULT (R520). -/
  | auxResult (a : Oct)
  /-- AUX_RES_READ (R521). -/
  | auxResRead (a : Oct)
  /-- TAP_RESET (R522). -/
  | tapReset
  /-- IDCODE (R523). -/
  | idcode
  /-- SAMPLE_PRELOAD (R523). -/
  | samplePreload (pins tdi : BitVec 750)
  /-- EXTEST (R525). -/
  | extest (pins tdi : BitVec 750)
  /-- CLAMP (R525). -/
  | clamp
  /-- HIGHZ (R525). -/
  | highz
  /-- CHAL (R523). -/
  | chal
  /-- ANSWER (R491). -/
  | answer (data : BitVec 776)
  /-- RLOAD (R526). -/
  | rload (slot : Bool) (off : Word) (data : BitVec 64) (res : WrRes)
  /-- SYSRST (R523). -/
  | sysrst
  /-- KEYWR (R526). -/
  | keywr (target : Byte) (data : BitVec 768)
  /-- BYPASS (R523). -/
  | bypass (tdi : Bool)
  /-- RTC_L_READ (R465). -/
  | rtcLRead
  /-- MASTER_CNTCLR (R366). -/
  | masterCntclr (v : Word)
  /-- TEST_N (R511). -/
  | testN (low : Bool)
  /-- XTAL32_STABLE (R456). -/
  | xtal32Stable
  /-- QUADRATURE_EDGE (R289). -/
  | quadratureEdge (j : Port16) (e : Sampled)
  /-- TILE_INTERLOCK_RELEASE (R222). -/
  | tileInterlockRelease (k : TileNo) (w : Fin 8)
  /-- TILE_OVERTEMP_SHUTDOWN (R226). -/
  | tileOvertempShutdown (k : TileNo) (w : Fin 8) (driver isOver : Bool)
  deriving DecidableEq, Repr

end Sys2Proof
end

