-- ==== Sys2Proof/Machine/State.lean ====
section
/-! DEFINITION. Machine/State.lean: the whole state of the device as plain data, its fault and refusal names, and the
state after reset. Registers stand in `regs` under their addresses (Machine/RegMap.lean has their Reset column); the
records below hold what the spec gives the machine beside its registers. -/
namespace Sys2Proof.Machine

/-! ### System -/
/-- A time value of CTIME or LTIME (R5). -/
structure TimeVal where
  sec : Nat := 0
  ns : Nat := 0
  frac : Nat := 0
  deriving DecidableEq, Repr

/-- A request on its way to the claim table (R35): from the Cox or from an order or task. -/
structure ClaimReq where
  cox : Bool
  release : Bool
  owner : Nat
  res : Nat
  /-- `now` of its arrival at the table. -/
  at0 : Nat := 0
  /-- The pair whose CLAIM or RELEASE waits for it. -/
  pair : Option Nat := none
  deriving DecidableEq, Repr

/-- One entry of the fault table (R38). -/
structure FaultRec where
  code : Nat
  inst : Nat
  count : Nat
  sec : Nat
  ns : Nat
  deriving DecidableEq, Repr

/-- Faults not entered since the table last had room: how many, and the LTIME of the first (R38). -/
structure LostFaults where
  count : Nat
  sec : Nat
  ns : Nat
  deriving DecidableEq, Repr

/-- Report types (R329). -/
inductive RepType where
  | accept | start | endRep | event
  deriving DecidableEq, Repr

/-- A report, formed and not yet acknowledged (R350 to R353). -/
structure ReportRec where
  typ : RepType
  epoch : Nat
  rseq : Nat
  oseq : Nat := 0
  lane : Nat := 0
  body : List Byte
  /-- `now` of its last sending; none while it has not been sent. -/
  sentAt : Option Nat := none
  /-- Sent again with RESEND = 1 when it next goes out. -/
  resend : Bool := false
  /-- A repeated ACCEPT that is gone once sent (R337). -/
  once : Bool := false
  /-- Due to be sent (queued, or its resend time has come). -/
  due : Bool := true
  deriving DecidableEq, Repr

/-- One record of the event log (R479). -/
structure LogRec where
  sec : Nat
  ns : Nat
  kind : Nat
  code : Nat
  inst : Nat
  data : Nat
  deriving DecidableEq, Repr

/-! ### Stroke engines -/
/-- The architectural state of one Onnus task (R93), which its context slot holds (R94). -/
structure Ctx where
  g : Vector Word 32 := Vector.replicate 32 0
  f : Vector Word 16 := Vector.replicate 16 0
  a : Vector Acc 8 := Vector.replicate 8 0
  pc : BitVec 16 := 0
  fstat : Word := 0
  resume : Word := 0
  tcause : Word := 0
  tpc : Word := 0
  tval : Word := 0
  lcnt : Word := 0
  lbeg : BitVec 16 := 0
  lend : BitVec 16 := 0
  cycleh : Word := 0
  deriving DecidableEq, Repr

/-- Task states (R57). -/
inductive TaskSt where
  | disabled | waiting | ready | running
  deriving DecidableEq, Repr

/-- One task of a home pair: its descriptor words (R91), its state (R57) and what its activation holds. -/
structure TaskRec where
  desc0 : Word := 0
  desc1 : Word := 0x00300000#32
  st : TaskSt := .disabled
  pend : Bool := false
  fcnt : Nat := 0
  coal : Nat := 0
  lastFlt : Nat := 0
  act : Nat := 0
  ctx : Ctx := {}
  /-- The activation started from ENTRY (R54, R57). -/
  initial : Bool := false
  /-- A catch overrun made the activation unclean (R53). -/
  unclean : Bool := false
  /-- The activation has run since it became ready (R59: the throttle delays only its start). -/
  begun : Bool := false
  budLeft : Nat := 0
  catchT : Word := 0
  catchSeq : Word := 0
  prevAp : Word := 0
  ordSeq : Word := 0
  /-- `now` at which the previous activation ended (R59). -/
  lastEnd : Nat := 0
  /-- The task was in a domain that went off and restarts when it reloads (R45). -/
  lost : Bool := false
  deriving DecidableEq, Repr

/-- One entry of an image's task table (R87). -/
structure ImgTask where
  task : Nat
  ckptSize : Nat
  entry : Nat
  resume : Nat
  ckptOff : Nat
  deriving DecidableEq, Repr

/-- What the header and task table of a loaded image say (R87). -/
structure ImgInfo where
  minisa : Nat := 2
  imemSize : Nat := 0
  dmemSize : Nat := 0
  bssSize : Nat := 0
  imageId : Nat := 0
  imageVer : Nat := 0
  tasks : List ImgTask := []
  deriving DecidableEq, Repr

/-- One entry of a pair's outbound queue (R102). -/
inductive OutEntry where
  /-- A shared-SRAM store of `size` bytes. -/
  | store (addr size : Nat) (val : Word)
  /-- A port write under an owner code, to the register at Cox address `addr`. -/
  | port (owner addr : Nat) (val : Word)
  /-- A port read-modify-write: 0 or, 1 and-not, 2 xor (R123). -/
  | pset (owner mode addr : Nat) (val : Word)
  | sigwr (sig : Nat) (val : Word)
  | trigger (sig : Nat)
  deriving DecidableEq, Repr

/-- A checkpoint record in a pair's writer buffer (R69 to R71). -/
structure CkptRec where
  crew : Nat
  seq : Word
  task : Nat
  home : Nat
  imageId : Nat
  ctx : Ctx
  region : List Byte
  /-- Restart of the crew's catch sequence it was captured under (R72). -/
  gen : Nat := 0
  deriving DecidableEq, Repr

/-- One physical Stroke engine pair beside its registers. -/
structure PairRec where
  imem : List Host.Cell := []
  dmem : List Host.Cell := []
  queue : List OutEntry := []
  ckpt : List CkptRec := []
  cycle : Nat := 0
  /-- Words of IMEM (false) and DMEM (true) with a single-bit or an uncorrectable error, by word address (R44). -/
  ce : List (Bool × Nat) := []
  ue : List (Bool × Nat) := []
  /-- The running task's CLAIM or RELEASE waits at the claim table (R35). -/
  claimWait : Bool := false
  /-- A host whose restore has not completed (R73); the failed pair, and `now` of the detection, or of the start of a reload
  (R45). -/
  restoring : Bool := false
  failed : Nat := 0
  failedAt : Nat := 0
  /-- `now` at the start of the latest periodic self-test, or since when the pair has been SPARE (R80). -/
  testAt : Nat := 0
  /-- A SPARE pair runs its self-test (R80). -/
  testing : Bool := false
  /-- The pair's domain was off and its memories are being reloaded (R45). -/
  reloading : Bool := false
  deriving DecidableEq, Repr

/-- One loop id of the coefficient store (R82): the two banks, the loop state and CTRL. -/
structure LoopRec where
  a : Vector Word 6 := Vector.replicate 6 0
  b : Vector Word 6 := Vector.replicate 6 0
  i : Word := 0
  e : Word := 0
  out : Word := 0
  ctrl : Word := 0x7F#32
  deriving DecidableEq, Repr

/-! ### Modulator -/
/-- A phase command that has arrived and waits for its tick (R64, R153). -/
structure PhaseCmd where
  arrival : Nat
  ofs : Word
  amp : Word
  /-- First load point after the carrier point of the catch it belongs to (R254). -/
  load : Option Nat := none
  deriving DecidableEq, Repr

/-- Chopper phase states (R172). -/
inductive ChopSt where
  | on | fast | slow
  deriving DecidableEq, Repr

/-- One chopper phase (R171 to R173). -/
structure ChopRec where
  st : ChopSt := .slow
  /-- The polarity in force since the last entry to ON: true is positive. -/
  pos : Bool := true
  onSince : Nat := 0
  /-- The off timer runs; `tb` at its start. -/
  offRun : Bool := false
  offAt : Nat := 0
  /-- CHOP as it stood at the last entry to ON (R173). -/
  chop : Word := 0x00641310#32
  /-- Sign of the last fast result, for a zero crossing in FAST. -/
  lastNeg : Bool := false
  deriving DecidableEq, Repr

/-- What a crew's snatch guard holds beside its registers (R255 to R257). -/
structure GuardRec where
  /-- w of the latest ticks, newest first. -/
  w : List Word := []
  /-- Consecutive ticks beyond G_STEP. -/
  run : Nat := 0
  b0 : Word := 0
  /-- RENDER was entered by an EMG pin. -/
  byEmg : Bool := false
  /-- `now` at which the hold, cool or render timer started. -/
  t0 : Nat := 0
  /-- `now` since when tl has been at or below b0 + G_RCLR. -/
  since : Option Nat := none
  /-- Count of the position port at the last tick. -/
  cnt : Int := 0
  /-- G writes that wait for ARMED (R263). -/
  late : List (Nat × Word) := []
  deriving DecidableEq, Repr

/-- One set's carrier (R143, R144): its next point, which is a peak where the carrier counts up. -/
structure CarRec where
  /-- `tb` of that point. -/
  next : Nat := 0
  /-- Counts of the half-period that ends there, and of the whole period. -/
  len : Nat := 0
  per : Nat := 0
  /-- `tb` of the set's latest load point (R156, R158). -/
  loadAt : Option Nat := none
  deriving DecidableEq, Repr

/-- What a crew's modulator holds beside its registers. -/
structure CrewRec where
  /-- Commands waiting for a tick, oldest first. -/
  cmds : List PhaseCmd := []
  /-- ANGSET written since the last tick. -/
  angSet : Option Word := none
  /-- The open ledger entry: timebase at the catch, arrival and apply delays of the first command (R63, R64). -/
  ldgOpen : Bool := false
  ldgT : Nat := 0
  ldgWr : Option Nat := none
  ldgAp : Option Nat := none
  ldgMulti : Bool := false
  ldgTake : Bool := false
  /-- CATCHSEQ starts again at 0 (R147). -/
  firstCatch : Bool := true
  /-- `now` at CTL.START. -/
  startAt : Nat := 0
  /-- Sets whose modulation runs; bit j. -/
  runSets : Nat := 0
  /-- The carriers by set, and the sets whose carrier counts up; bit j. -/
  cars : List (Nat × CarRec) := []
  upSets : Nat := 0
  /-- Sets that go off at their next valley (CTL.STOP). -/
  stopSets : Nat := 0
  /-- Sets dropped since the last tick, whose all-off events the tick decides. -/
  dropSets : Nat := 0
  /-- Sets to clear from sharing at the next valley of the others. -/
  trimClear : Nat := 0
  /-- Sets rejoining, with `now` of the ORD_CLEARFAULT (R170). -/
  rejoin : List (Nat × Nat) := []
  /-- Increment of the latest tick (R149, R154). -/
  inc : Int := 0
  /-- ANG after each of the latest ticks with the tick's count, newest first (R247). -/
  angHist : List (Nat × Word) := []
  /-- Fault stop whose edges the next tick decides (R140). -/
  fstopPend : Bool := false
  /-- Causes latched since FSTOP was entered, each with its leg or tile where it has one (R561). -/
  causes : List (Nat × Nat) := []
  /-- The owning pair is fenced and the restore is not done (R75). -/
  takeover : Bool := false
  /-- The lost leader's successor takes over at its next catch (R178). -/
  leadPend : Bool := false
  /-- Seam counters: aligned valleys, valleys beyond the limit, `now` at the entry of HOLDOVER (R181). -/
  seamOk : Nat := 0
  seamBad : Nat := 0
  seamHold : Nat := 0
  /-- Counts by which the periods that begin now are shortened (R180). -/
  seamCorr : Int := 0
  chopA : ChopRec := {}
  chopB : ChopRec := {}
  /-- `tb` of set 0's latest carrier point that has a catch, and `tb` of that catch while it is to come (R145). -/
  tc : Nat := 0
  catchDue : Option Nat := none
  /-- Selected carrier points to pass before the next one that has a catch (CFG.CDIV). -/
  catchN : Nat := 0
  /-- First load point after the carrier point of the latest catch (R254). -/
  load : Option Nat := none
  /-- TS of the catch before, and the energies in units of 2^-149 / 800,000 mJ (R253). -/
  epos : Nat := 0
  eneg : Nat := 0
  guard : GuardRec := {}
  /-- The crew's position port was lost and the next tick decides (R261). -/
  lossPend : Bool := false
  /-- `now` since which abs(SPD) has been below SLESS.VMIN in fallback and RUN (R261). -/
  slowAt : Option Nat := none
  /-- The record this crew resumes from at its first catch after a restore (R76). -/
  resume : Bool := false
  /-- Restarts of CATCHSEQ, and the sequences of the checkpoint records written to the banks since the last of them: the
  latest for each slot (R70, R72). -/
  gen : Nat := 0
  caps : List Word := []
  /-- A cause of fault stop found while the crew was UNUSED: it acts when its carriers start (R80, R559). -/
  wakeStop : Option Nat := none
  deriving DecidableEq, Repr

/-- What a leg's modulator holds beside its registers. -/
structure LegRec where
  /-- An on-edge waits for its instant: true is the high side; and that instant, in `tb`. -/
  pendOn : Option Bool := none
  pendAt : Nat := 0
  /-- Level the carrier or the mode asks for: none is both off. -/
  want : Option Bool := none
  /-- `tb` of the last off-edge of each side, and of the last high-side on-edge (R163). -/
  hsOff : Nat := 0
  lsOff : Nat := 0
  hsOn : Nat := 0
  /-- RAW written and not yet taken. -/
  rawPend : Bool := false
  /-- MODE changed and not yet taken. -/
  modePend : Bool := false
  /-- `now` of the last shoot request that still counts (R162). -/
  lastShoot : Option Nat := none
  /-- `tb` at which the shoot lockout began, and its end once the set's valley has come. -/
  lockAt : Nat := 0
  lockEnd : Option Nat := none
  /-- DT in force until the next valley (R159). -/
  dtAct : Option Word := none
  /-- A bootstrap refresh in progress (R163), and `tb` at which its low-side pulse began. -/
  refresh : Bool := false
  refAt : Nat := 0
  /-- Both switches stay off until modulation or RAW commands them (R162, R562). -/
  held : Bool := false
  /-- Sum and number of fast results since the last valley (R165). -/
  fastSum : Int := 0
  fastN : Nat := 0
  /-- The same over the carrier period that ended at the set's latest valley. -/
  perSum : Int := 0
  perN : Nat := 0
  /-- The leg has crossed its compare in this half-period (R157). -/
  changed : Bool := false
  /-- The compare in use at t_s of the latest carrier point that has a catch (R253). -/
  cmpTs : Nat := 0
  /-- LASTING was set and the tick has not yet decided the off-edges (R562). -/
  lastPend : Bool := false
  deriving DecidableEq, Repr

/-! ### Yilos links and tiles -/
/-- What a downlink event does: a switch takes a level, or every leg of a mask goes off (R194). -/
inductive EvKind where
  | switch (s : Nat) (level : Bool)
  | groupOff (mask : Nat)
  deriving DecidableEq, Repr

/-- A pending event of a port queue: its decision time in timebase counts (R191). -/
structure LinkEv where
  td : Nat
  kind : EvKind
  deriving DecidableEq, Repr

/-- Classification of a switch fault (R229). -/
inductive SwfStage where
  /-- No fault open. -/
  | idle
  /-- Seen set; waits for the switch's next on-edge. -/
  | seen
  /-- The on-edge was decided: its apply instant, and that of the next off-edge. -/
  | armed (on : Nat) (off : Option Nat)
  deriving DecidableEq, Repr

/-- A diagnostic in progress (R232): legs left, the leg and mode under test and what was read. -/
structure DiagRec where
  legs : List Nat
  leg : Nat
  mode : Nat
  /-- `tb` at which the mode's write of tile register 0x10 was sent: the settle time runs. -/
  sent : Option Nat := none
  /-- Readback legs still to be read in this mode, and the number of the state frame that selected the first of them. -/
  qs : List Nat := []
  sel : Option Nat := none
  /-- Ratios read in this mode, by readback leg. -/
  cur : List (Nat × Nat) := []
  v0 : List Nat := []
  vsrc : List Nat := []
  vsnk : List Nat := []
  deriving DecidableEq, Repr

/-- One gate-link port of the BX640 beside its registers. -/
structure LinkRec where
  /-- Pending events, oldest decision first (R205). -/
  queue : List LinkEv := []
  /-- Level of each switch as last admitted (R204). -/
  adm : Nat := 0
  /-- Events sent whose apply instants, here in `td`, are to come; and the levels that those before them give, for SNAP. -/
  due : List LinkEv := []
  snap : Nat := 0
  /-- Slot count of frame 0, the number of the next payload frame, and the slot count of the last frame of any kind. -/
  s0 : Nat := 0
  next : Nat := 0
  slot : Nat := 0
  newFmt : Nat := 0
  newA : Nat := 0
  newB : Nat := 0
  /-- The last payload frame; and the last frame on the downlink line, none where it is idle (R187). -/
  frame : BitVec 64 := 0
  line : Option (BitVec 80) := none
  /-- Running disparity, negative, of the transmitter and the receiver (R186). -/
  txNeg : Bool := true
  rxNeg : Bool := true
  /-- Events of the latest frames, newest first, with their frame numbers (R211). -/
  hist : List (Nat × Nat) := []
  upNum : Nat := 0
  /-- DLBAD of the previous uplink frame; none where that frame was bad. -/
  prevBad : Option Bool := none
  badRow : Nat := 0
  /-- Bits of the last uplink frame; none where it was bad. -/
  up : Option (BitVec 64) := none
  swf : List (Nat × SwfStage) := []
  /-- Training: good SYNC frames in a row, capability copies, delay measurements, chosen version. -/
  syncN : Nat := 0
  capCur : List Byte := []
  capPrev : List Byte := []
  delays : List Nat := []
  /-- `tb` at which the training stage began (R218); DELAY frames sent; START and PARK frames left. -/
  stAt : Nat := 0
  dseq : Nat := 0
  startLeft : Nat := 0
  parkLeft : Nat := 0
  /-- `tb` since when STOIN has differed from the STO group, and fault 0x0409 has been entered for it (R230). -/
  stoDiff : Option Nat := none
  stoSaid : Bool := false
  /-- Maintenance operations waiting: (MOP, MDATA) (R197, R234); the preloads that wait for room, as (address, data); and the
  operations of the diagnostic (R232). -/
  mops : List (Nat × Nat) := []
  feed : List (Nat × Nat) := []
  dop : List (Nat × Nat) := []
  /-- The tile's address pointer as last sent; and a read on its way: of this tile register, sent in this state frame. -/
  mptr : Nat := 0
  rdAt : Option (Nat × Nat) := none
  diag : Option DiagRec := none
  /-- DT_HL and DT_LH minimum of the legs, by R214. -/
  dtMin : List Nat := [0, 0, 0, 0]
  deriving DecidableEq, Repr

/-- One Yilos tile, as its obligations describe it (R220 to R228). -/
structure TileRec where
  /-- The tile waits for SYNC, or is in training after it; every switch is off. -/
  waiting : Bool := true
  synced : Bool := false
  /-- Link version taken in training, and the offset of the next CAP frame (R213, R214). -/
  ver : Nat := 0
  capOfs : Nat := 0
  /-- Applied level of each switch. -/
  lvl : Nat := 0
  /-- Fault latch and cause of each switch. -/
  latch : Nat := 0
  cause : List (Nat × Nat) := []
  /-- Causes still present at each switch: bit c is cause c (R203, R226). -/
  present : List (Nat × Nat) := []
  /-- Supplies below their trip level, by the switches they hold off. -/
  uvHold : Nat := 0
  /-- STO inputs: true is off, as of an input that no STO output drives (R227, R537). -/
  stoA : Bool := true
  stoB : Bool := true
  /-- STOIN to report: an off state since the last uplink frame. -/
  stoSeen : Bool := false
  /-- Switches that stay off after STO until their next on-event (R227). -/
  stoHold : Nat := 255
  pend : List LinkEv := []
  /-- On-commands held back by the interlock. -/
  defer : Nat := 0
  prevFmt : Option Nat := none
  prevGood : Bool := false
  bad : Nat := 0
  frameNo : Nat := 0
  ptr : Nat := 0
  regs : List (Nat × Byte) := []
  /-- Flags for the next uplink frame. -/
  intlk : Bool := false
  late : Bool := false
  snapfix : Bool := false
  dlbad : Bool := false
  lastRead : Nat := 0
  cpen : Nat := 0
  /-- Instant count of the last off of each switch, by switch. -/
  offAt : List (Nat × Nat) := []
  /-- Test current flows (R225); the last di/dt trip: its switch and instant (R202, R224). -/
  itest : Bool := false
  trip : Option (Nat × Nat) := none
  /-- Node voltages of the legs in the settled diagnostic mode, by readback leg; none where no mode has settled (R225, R232). -/
  node : List Nat := []
  /-- Telemetry channel of the next uplink frame (R202). -/
  tsel : Nat := 0
  /-- The uplink frame on the line, and running disparity, negative, of the transmitter and the receiver. -/
  up : Option (BitVec 80) := none
  txNeg : Bool := true
  rxNeg : Bool := true
  deriving DecidableEq, Repr

/-! ### Current measurement -/
/-- One sigma-delta stream (R236 to R239): 0–63 legs, 64–79 the DC links of the tiles. -/
structure SincRec where
  /-- Samples, newest first, each with its substituted mark (R237). -/
  bits : List (Bool × Bool) := []
  /-- Timebase count of the newest sample. -/
  newest : Nat := 0
  lastGood : Bool := false
  /-- The latest control result and its marks. -/
  res : Int := 0
  valid : Bool := false
  miss : Bool := false
  sat : Bool := false
  fast : Int := 0
  /-- Last sample instants of the latest fast and control results (R239, R244). -/
  fastL : Nat := 0
  ctlL : Nat := 0
  /-- Consecutive fast results beyond OCLIM.LIM, and that this run of them has stopped the crew (R249). -/
  oc : Nat := 0
  ocHit : Bool := false
  /-- The DC link stands above VOV, or below the undervoltage level (R250). -/
  isOver : Bool := false
  under : Bool := false
  deriving DecidableEq, Repr

/-- Debouncing of one EMG pin (R259). -/
structure EmgPin where
  /-- Consecutive samples at the level that would change `on`. -/
  n : Nat := 0
  on : Bool := false
  deriving DecidableEq, Repr

/-! ### Motion profiles and position ports -/
/-- What a profile unit holds beside its registers. Positions are in 2^-18 counts, speeds in 2^-40 counts per tick. -/
structure ProfRec where
  pos : Int := 0
  s : Nat := 0
  neg : Bool := false
  /-- Increment of the latest tick, in 2^-18 counts. -/
  v : Int := 0
  /-- The committed target, in counts. -/
  tgt : Int := 0
  /-- `now` at which the speed last became 0 (R272). -/
  t0 : Nat := 0
  stop : Bool := false
  haltq : Bool := false
  /-- A goal written with or after the stop is kept (R274); the tick in which a goal was last written. -/
  keep : Bool := false
  goalTick : Option Nat := none
  /-- The start tick is due (R271). -/
  start : Bool := false
  /-- `now` at entry of STILL, and of the present step of the brake handshake. -/
  since : Nat := 0
  /-- Fault 0x0604 was entered in this BSET. -/
  setFail : Bool := false
  /-- Ticks of the torque ramp passed (R280). -/
  ramp : Nat := 0
  /-- A request that arose in BSET waits for BRAKED (R280). -/
  reqWait : Bool := false
  /-- State before FROZEN, and a RENDER of the guard entered while frozen (R281). -/
  frozen : Nat := 0
  frzRender : Bool := false
  /-- The SS1 notice has been acted on (R309). -/
  notice : Bool := false
  /-- A crash stop waits for FROZEN or the brake handshake to end (R283). -/
  crashPend : Bool := false
  /-- Speed measured in FOLLOW, and counts moved, in 2^-18 counts. -/
  meas : Int := 0
  payout : Int := 0
  /-- Position-port count at the last tick, for PAYOUT and FOLLOW. -/
  portCnt : Int := 0
  /-- Iarum interpolation (R284 to R286), positions in counts (S) and 2^-18 counts (q). -/
  sPrev : Int := 0
  sNew : Int := 0
  perStart : Option Nat := none
  setp : Option Int := none
  misses : Nat := 0
  lag : Bool := false
  /-- The reference is frozen here until the next set-point. -/
  hold : Option Int := none
  deriving DecidableEq, Repr

/-- What a position port holds beside its registers. -/
structure PosRec where
  cnt : Int := 0
  raw : Nat := 0
  /-- The next good read sets CNT. -/
  rebase : Bool := true
  zcap : Int := 0
  /-- A serial read runs; it is the retry; the retry is due after the pause. -/
  busy : Bool := false
  retry : Bool := false
  due : Bool := false
  /-- `now` until which the pause lasts. -/
  pause : Nat := 0
  /-- STAT.LINEF was set during the read. -/
  lineSeen : Bool := false
  /-- `tb` at the trigger of the read. -/
  trig : Nat := 0
  /-- CFG, SER and TRIG in force: while STATE is OK a write acts from the next trigger (R295). -/
  cfg : Word := 0x100
  ser : Word := 0x28270018
  trg : Word := 0x640000
  /-- `now` of the latest periodic trigger, and `tb` of the latest trigger by a catch (R290). -/
  trigAt : Nat := 0
  trigTs : Nat := 0
  lastIll : Option Nat := none
  lineAt : Nat := 0
  deriving DecidableEq, Repr

/-! ### Safety -/
/-- A safety input's sealed parameters (R316). -/
structure SiCfg where
  func : Nat := 0
  filt : Nat := 1
  disc : Nat := 1
  gmask : Nat := 0
  tpa : Nat := 0
  tpb : Nat := 0
  flags : Nat := 0
  deriving DecidableEq, Repr

/-- A group's sealed parameters (R316). -/
structure GrpCfg where
  tiles : Nat := 0
  mode : Nat := 0
  port : Nat := 255
  sbmask : Nat := 0
  sbdly : Nat := 0
  rstin : Nat := 255
  reqmask : Nat := 0
  vzero : Nat := 0
  vtol : Nat := 0
  dramp : Nat := 0
  tdly : Nat := 0
  tmax : Nat := 1
  spdtol : Nat := 0
  deriving DecidableEq, Repr

/-- A sealed section as read (R316). -/
structure SealSec where
  id : Nat := 0
  si : List SiCfg := []
  grp : List GrpCfg := []
  /-- TPW and TPP of each test-pulse output. -/
  tpo : List (Nat × Nat) := []
  sboCrew : List Nat := []
  crewGrp : List Nat := []
  crc : Nat := 0
  deriving DecidableEq, Repr

/-- One group in one island (R309 to R315). -/
structure IslGrp where
  /-- 0 STO, 1 WAITRST, 2 RELEASED, 3 SS1, 4 FAULT. -/
  st : Nat := 0
  /-- Internal faults latched: codes 0x0703–0x0709. -/
  latch : List Nat := []
  ss1At : Nat := 0
  v0 : Nat := 0
  thermal : Bool := false
  /-- Windows in a row at or below VZERO. -/
  zero : Nat := 0
  /-- Speed of the latest window (none is invalid), and whether an evaluation has judged it. -/
  speed : Option Nat := none
  judged : Bool := true
  /-- `now` at the end of that window, and the last good position in it (R310). -/
  winEnd : Nat := 0
  lastPos : Option Nat := none
  /-- The SS1 notice of this island. -/
  notice : Bool := false
  /-- SBDLY of this group runs, and since when (`now`). -/
  sbPend : Bool := false
  sbAt : Nat := 0
  /-- `now` at the latest test pulse of the STO output (R315). -/
  pulseAt : Nat := 0
  /-- Evaluations in a row at which the readback of the STO output differed. -/
  bad : Nat := 0
  deriving DecidableEq, Repr

/-- One safety island beside its mirror registers. -/
structure IslRec where
  sec : Option SealSec := none
  grps : List (Nat × IslGrp) := []
  /-- Brake outputs commanded high, and readback misses in a row. -/
  sbo : Nat := 0
  sboBad : List (Nat × Nat) := []
  /-- `now` at the latest test pulse of a brake output (R315). -/
  sboAt : List (Nat × Nat) := []
  /-- Request lines and the thermal request at the last evaluation, and `now` of it (R300). -/
  req : Nat := 0
  thr : Bool := false
  evalAt : Nat := 0
  deriving DecidableEq, Repr

/-- One safety input beside its mirror register. -/
structure SiRec where
  /-- `now` at which both filtered channels came to run, and to disagree. -/
  runAt : Option Nat := none
  disAt : Option Nat := none
  /-- Both filtered channels have been in demand since the latched fault. -/
  both : Bool := false
  /-- A valid reset has come and waits for the evaluations of SAFA and SAFB. -/
  rstA : Bool := false
  rstB : Bool := false
  /-- A reset pulse of valid length has ended on one channel (R312). -/
  pulse : Bool := false
  /-- The test-pulse window that is open: its TPO, and `now` at the start of the pulse (R305). -/
  win : Option (Nat × Nat) := none
  deriving DecidableEq, Repr

/-! ### Orders and the journal -/
/-- States of an order that has been placed (R345). `starting`: its START record is on its way to the journal. -/
inductive OrdSt where
  | placed | queued | starting | running | terminal
  deriving DecidableEq, Repr

/-- An order placed in a batch or accepted (R339, R345). -/
structure OrderRec where
  seq : Nat
  lane : Nat
  opcode : Nat
  flags : Nat
  ver : Nat
  crc : Nat
  /-- The whole frame as received (R330), and its body. -/
  frame : List Byte
  body : List Byte
  /-- Source MAC of the frame; empty on the local port. -/
  mac : List Byte := []
  st : OrdSt := .placed
  /-- The lane's task has had the order-arrival event; its activation has not ended. -/
  delivered : Bool := false
  held : Bool := false
  cancelReq : Bool := false
  /-- Steps done (R348). -/
  step : Nat := 0
  /-- It starts again after a reset (R357). -/
  restarted : Bool := false
  /-- A maintenance activity works for it (R349). -/
  maint : Bool := false
  /-- It was journaled RUNNING before the reset and keeps its START (R357). -/
  rolled : Bool := false
  deriving DecidableEq, Repr

/-- A journal record before or after its commit (R340): `tag` is RSEQ, or the step number of PROGRESS. -/
structure JRec where
  typ : Nat
  lane : Nat
  seq : Nat
  epoch : Nat
  tag : Nat
  batch : Nat := 0
  payload : List Byte
  deriving DecidableEq, Repr

/-- A committed batch that is still in the ring: its position, counted in bytes from the first batch ever, and its records. -/
structure JBatch where
  no : Nat
  pos : Nat
  size : Nat
  recs : List JRec
  deriving DecidableEq, Repr

/-- The journal controller (R340 to R343). -/
structure JournalRec where
  /-- Records pending for a later batch, oldest first. -/
  wait : List JRec := []
  /-- Records of the batch that is open or being written. -/
  batch : List JRec := []
  /-- 0 no batch, 1 open, 2 closed and being written. -/
  phase : Nat := 0
  openAt : Nat := 0
  closeAt : Nat := 0
  /-- Next batch number. -/
  next : Nat := 1
  /-- Write and reclaim positions, counted in bytes. -/
  head : Nat := 0
  tail : Nat := 0
  done : List JBatch := []
  /-- Batches that a compaction is writing (R481). -/
  comp : List JBatch := []
  deriving DecidableEq, Repr

/-- An accepted sequence (R337): its CRC and its ACCEPT report. -/
structure AccRec where
  seq : Nat
  crc : Nat
  epoch : Nat
  rseq : Nat
  opcode : Nat
  lane : Nat
  body : List Byte
  deriving DecidableEq, Repr

/-- A ring frame in reassembly (R327). -/
structure ReasmRec where
  mac : List Byte
  xid : Nat
  cnt : Nat
  parts : List (Nat × List Byte)
  at0 : Nat
  deriving DecidableEq, Repr

/-! ### Ring and time -/
/-- What a PTP frame at an egress port carries: message type, sequence, correction in 2^−16 ns, timestamp. A frame that is
forwarded also holds its domain, its sender, the two-step flag and, for a Sync, the receive timestamp, the link delay of the
ingress port (both in 2^−32 ns) and its neighbour rate ratio in ppb (R384). -/
structure PtpTx where
  kind : Nat
  seq : Nat
  corr : Int
  sec : Nat
  ns : Nat
  own : Bool := true
  dom : Nat := 0
  sender : Nat := 0
  two : Bool := false
  rx : Option (Int × Int × Int) := none
  deriving DecidableEq, Repr

/-- A frame that waits at an egress port (R375, R376), from its destination to its payload; `at0` is the earliest `now` at
which it can start there (its residence, R376). -/
structure TxFrame where
  express : Bool
  at0 : Nat := 0
  bytes : List Byte := []
  ptp : Option PtpTx := none
  deriving DecidableEq, Repr

/-- One egress port: its forwarding buffer, `now` until which a frame is on the line, and the frame last started. -/
structure EgressRec where
  wait : List TxFrame := []
  busy : Nat := 0
  last : Option TxFrame := none
  deriving DecidableEq, Repr

/-- An entry of the HSR node table (R371): `now` at the last supervision frame on each port. -/
structure HsrNode where
  mac : Nat
  seenA : Nat
  seenB : Nat
  deriving DecidableEq, Repr

/-- An entry of the duplicate table (R371). -/
structure DupRec where
  mac : Nat
  seq : Nat
  at0 : Nat
  deriving DecidableEq, Repr

/-- The ring block beside its registers. -/
structure RingRec where
  eg0 : EgressRec := {}
  eg1 : EgressRec := {}
  dups : List DupRec := []
  nodes : List HsrNode := []
  seq : Nat := 0
  supSeq : Nat := 0
  supAt : Nat := 0
  winOpen : Bool := false
  /-- `now` of the leave announcement sent by a LEAVE write. -/
  leaveAt : Option Nat := none
  /-- `now` since when BYP_SENSE has differed from BYP_HOLD. -/
  bypDiff : Option Nat := none
  /-- HSR sequence of a launched entry whose partner has not been sent, by entry 0–31 (R393). -/
  pairSeq : List (Nat × Nat) := []
  /-- `now` at the start of the MDIO operation that runs. -/
  mdioAt : Nat := 0
  deriving DecidableEq, Repr

/-- A seam crew's frames (R398 to R400). -/
structure SeamRec where
  /-- The payload read for the next launch, and its period. -/
  tx : List Byte := []
  k : Nat := 0
  /-- Frames taken in this period. -/
  taken : List (Nat × List Byte) := []
  /-- Members whose frame was taken in the period before, and those whose classification has started. -/
  prev : Nat := 0
  started : Nat := 0
  /-- A good frame came since the last discard. -/
  good : Bool := true
  deriving DecidableEq, Repr

/-- A grandmaster's data set (R383). -/
structure GmRec where
  prio1 : Nat
  cls : Nat
  accuracy : Nat
  variance : Nat
  prio2 : Nat
  ident : Nat
  deriving DecidableEq, Repr

/-- One ring port's share of the PTP clock. -/
structure PtpPort where
  /-- A two-step Sync waits for its Follow_Up: sequence, receive time and correction. -/
  sync : Option (Nat × Int × Int) := none
  /-- Correction of the latest Sync. -/
  corr : Int := 0
  seen : Bool := false
  /-- Peer delay measurement under way: sequence, `now` and t1; then t4 and t2. Times in 2^−32 ns. -/
  req : Option (Nat × Nat × Int) := none
  resp : Option (Int × Int) := none
  pdSeq : Nat := 0
  good : Nat := 0
  bad : Nat := 0
  /-- t3 and t4 of the measurement before. -/
  last : Option (Int × Int) := none
  /-- `now` at the last Pdelay_Req sent. -/
  reqAt : Nat := 0
  /-- The two-step Sync that this port last forwarded: domain, sender, sequence and the correction that its Follow_Up takes
  (R384). -/
  fwd : Option (Nat × Nat × Nat × Int) := none
  deriving DecidableEq, Repr

/-- The clock beside its registers (R388 to R392). -/
structure ClockRec where
  i : Word := 0
  lrate : Word := 0
  inTol : Nat := 0
  outTol : Nat := 0
  miss : Nat := 0
  gm : Option GmRec := none
  /-- The port that feeds the servo has been chosen. -/
  sel : Bool := false
  p0 : PtpPort := {}
  p1 : PtpPort := {}
  syncSeq : Nat := 0
  annSeq : Nat := 0
  /-- Sync intervals in a row without a Sync on the selected port (R386). -/
  selMiss : Nat := 0
  /-- `now` of the last Sync used, or of the interval last counted without one; of the last Announce; of the last Sync and
  Announce sent; and of the last write of the real-time counter. -/
  syncAt : Nat := 0
  annAt : Nat := 0
  syncTx : Nat := 0
  annTx : Nat := 0
  rtcAt : Nat := 0
  deriving DecidableEq, Repr

/-! ### Field ports and the signal map -/
/-- One entry of the signal map (R429). -/
structure SigEnt where
  v : Word := 0
  q : Nat := 0
  wr : Bool := false
  old : Bool := false
  path : Bool := false
  typ : Nat := 7
  chg : Nat := 0
  stamp : Nat := 0
  deriving DecidableEq, Repr

/-- A Huzami transaction (R412): a request that is due, or sent and not answered. `slot`, `a0` and `a1` hold the slot, the
first point and count, the page, the prefix and its length, or the serial and address, by type; `vals` the output values. -/
structure FTxn where
  typ : Nat
  addr : Nat
  ver : Nat := 1
  payload : List Byte := []
  retry : Bool := false
  sent : Bool := false
  slot : Nat := 0
  a0 : Nat := 0
  a1 : Nat := 0
  vals : List (Nat × Word) := []
  /-- A probe of a discovery round that has been abandoned (R416). -/
  stale : Bool := false
  deriving DecidableEq, Repr

/-- A field port beside its registers. -/
structure FieldPort where
  /-- Every node is to be released by broadcast (R416). -/
  relAll : Bool := false
  cyc : Nat := 0
  /-- 0 no cycle, 1 slots, 2 acyclic phase. -/
  phase : Nat := 0
  frz : Bool := false
  slot : Nat := 0
  txn : Option FTxn := none
  /-- The last request frame put on the line. -/
  out : List Byte := []
  /-- Discovery probes to come: (prefix, length); and a serial that is to be assigned, with its address. -/
  stack : List (Nat × Nat) := []
  asg : Option (Nat × Nat) := none
  /-- Nodes to be released: address and serial. -/
  rel : List (Nat × Nat) := []
  startAt : Nat := 0
  acycAt : Nat := 0
  lastAt : Nat := 0
  /-- Serials of fault 0x0A03 since rig activation. -/
  unk : List Nat := []
  discAt : Nat := 0
  /-- `now` at the end of the last request's last stop bit, and before which no start bit may follow (R411). -/
  reqEnd : Nat := 0
  freeAt : Nat := 0
  deriving DecidableEq, Repr

/-- A node as one port reaches it, beside FIELD.NODE and NSER. -/
structure FNode where
  cap : List Byte := []
  desc : List Nat := []
  flags : Nat := 0
  /-- Setup on this port is complete. -/
  up : Bool := false
  setup : Bool := false
  /-- Next point to read in setup, and the values read. -/
  rdNext : Nat := 0
  vals : List (Nat × Word) := []
  ackSeq : Nat := 0
  good : Nat := 0
  bad : Nat := 0
  pathBad : Nat := 0
  /-- Cycle whose response was used (R427). -/
  used : Option Nat := none
  deriving DecidableEq, Repr

/-- An entry of the rig's node table (R438). -/
structure NodeTab where
  serial : Nat
  port : Nat
  addr : Nat
  dual : Bool
  deriving DecidableEq, Repr

/-! ### Cox management -/
/-- Who asked for a maintenance activity (R481). -/
inductive MaintSrc where
  | auto
  | order (seq : Nat)
  | mbox (p : Nat)
  deriving DecidableEq, Repr

/-- A maintenance request or a running activity (R481 to R483); `crew` is 0xFF for a device-wide activity. -/
structure MaintReq where
  act : Nat
  crew : Nat := 0xFF
  a1 : Nat := 0
  a2 : Nat := 0
  a3 : Nat := 0
  src : MaintSrc := .auto
  /-- Its own command has run. -/
  began : Bool := false
  /-- Outcome: 1 done, 2 aborted, 3 failed. -/
  out : Nat := 1
  deriving DecidableEq, Repr

/-- A non-urgent MRAM write that waits (R476): its owner is an activity code, or 0 for the event log. -/
structure ChunkRec where
  addr : Nat
  data : List Byte
  owner : Nat
  /-- Log records in it. -/
  recs : Nat := 0
  deriving DecidableEq, Repr

/-- A live replacement that waits for its instant (R493, R494). -/
structure SwapRec where
  pair : Nat
  spare : Nat
  goAt : Nat
  deriving DecidableEq, Repr


/-- An auxiliary converter channel beside its registers (R520): conversions of the result under way, their sum, and whether the
last result lay outside the limits. -/
structure AuxRec where
  n : Nat := 0
  sum : Nat := 0
  out : Bool := false
  /-- A catch or a START asked for conversions that have not ended. -/
  due : Nat := 0
  /-- `now` before which the acquisition of the next conversion asked for does not end. -/
  acq : Nat := 0
  /-- A result is complete and waits for its 200 ns, counted from `doneAt`. -/
  done : Option Nat := none
  doneAt : Nat := 0
  deriving DecidableEq, Repr

/-- The test access port (R522 to R526). -/
structure TapRec where
  /-- The instruction register; IDCODE after a TAP reset. -/
  ir : Nat := 1
  /-- Boundary cells, nearest TDI first: 750 bits. -/
  boundary : Nat := 0
  /-- The next IDCODE capture shows a lasting RLOAD failure. -/
  idBad : Bool := false
  /-- What the last shift brought out, least significant bit first. -/
  out : Nat := 0
  deriving DecidableEq, Repr

/-- Reasons a step stops with a fault: none. The device reports its faults in its fault table and goes on. -/
inductive Fault where
  /-- Raised by no command; it stands so that the type has a value. Safe. -/
  | none
  deriving DecidableEq, Repr

/-- Reasons a command has no meaning here. -/
inductive Refusal where
  /-- The command has no meaning yet; raised by `exec`'s arm of it. Safe. -/
  | notModelled (mnemonic : String)
  deriving DecidableEq, Repr

/-- The machine. -/
structure State where
  /-- Commands waiting, first in first out. -/
  pending : List Instr := []
  /-- Register words that differ from their Reset column, by address. -/
  regs : List (Nat × Word) := []
  /-- Bytes of SRAM, MRAM and Cox RAM that differ from 0, by address. -/
  mem : List Host.Cell := []
  /-- SRAM and MRAM words (8-byte aligned addresses) with an uncorrectable or a correctable error. -/
  eccUe : List Nat := []
  eccCe : List Nat := []
  /-- Time since power-on in counts of 1.25 ns; the modulator timebase (R143, R148), and what it was at the last tick; CTIME and
  LTIME (R387). -/
  now : Nat := 0
  tb : Nat := 0
  lastTick : Nat := 0
  ctime : TimeVal := {}
  ltime : TimeVal := {}
  /-- Power domains PD0–PD13 that are on, and those retained: bit d. -/
  domOn : Nat := 0
  domRet : Nat := 0
  /-- Free values taken so far (the model's own field). -/
  freeCount : Nat := 0
  /-- Reserved-write counters by window number (R10). -/
  rsvWrites : List (Nat × Nat) := []
  /-- w1c bits that the hardware has set at this very count, by register (R11). -/
  raised : List (Nat × Nat) := []
  /-- The last bus fault raised to the Cox: code and address (R25). -/
  busFault : Option (Nat × Nat) := none
  /-- The word the last read command returned. -/
  rdata : Word := 0
  /-- The claim table: resource and owner code (R34); and the requests on their way to it (R35). -/
  claims : List (Nat × Nat) := []
  claimReqs : List ClaimReq := []
  /-- DMA buffer descriptors: base and length (R37). -/
  dma : List (Nat × (Nat × Nat)) := []
  /-- The fault table, oldest first, and the faults that found it full (R38). -/
  faults : List FaultRec := []
  fltLost : Option LostFaults := none
  /-- `now` of the next expiry of each running general timer (R60). -/
  tmrDue : List (Nat × Nat) := []
  /-- Onnus tasks by 16 × home pair + task number (R48, R57). -/
  tasks : List (Nat × TaskRec) := []
  /-- Stroke engine pairs by physical number (R42, R73). -/
  pairs : List (Nat × PairRec) := []
  /-- The loaded image of each home pair (R87). -/
  images : List (Nat × ImgInfo) := []
  /-- The coefficient store by loop id (R82). -/
  loops : List (Nat × LoopRec) := []
  /-- The modulator's crews (R138), and its legs (R155, R159). -/
  crews : List (Nat × CrewRec) := []
  legs : List (Nat × LegRec) := []
  /-- Gate-link ports (R188, R204). -/
  links : List (Nat × LinkRec) := []
  /-- Tile register preloads of the active rig, by port (R443 TILEREG). -/
  tilePre : List (Nat × List Byte) := []
  /-- The Yilos tiles at their ports (R220). -/
  tiles : List (Nat × TileRec) := []
  /-- Sigma-delta streams (R236). -/
  sincs : List (Nat × SincRec) := []
  /-- The two EMG pins (R259). -/
  emg0 : EmgPin := {}
  emg1 : EmgPin := {}
  /-- `now` at the latest sample of the EMG pins (R259). -/
  emgAt : Nat := 0
  /-- Profile units (R270). -/
  profs : List (Nat × ProfRec) := []
  /-- Position ports (R288, R295). -/
  poss : List (Nat × PosRec) := []
  /-- The safety islands SAFA and SAFB (R299), and the safety inputs (R301, R303). -/
  islA : IslRec := {}
  islB : IslRec := {}
  sis : List (Nat × SiRec) := []
  /-- The rig that boot has chosen, or that is active (R445). -/
  rigSel : Option Nat := none
  /-- Windows in a row in which the islands' speeds of a group differed (R310), and `now` since when the two STO outputs of a
  group have differed (R314). -/
  spdDiff : List (Nat × Nat) := []
  /-- `now` at the start of the latest pulse of each test-pulse output (R304). -/
  tpoAt : List (Nat × Nat) := []
  stoDiff : List (Nat × Nat) := []
  /-- Modulator table RAM entries that differ from 0, by index 16384 t + i (R150). -/
  ptab : List (Nat × Word) := []
  /-- Reports formed and not acknowledged, oldest first (R353); EVENT reports dropped since room last existed. -/
  reports : List ReportRec := []
  repLost : Nat := 0
  /-- The journal's epoch is open (R358): reports can be formed. -/
  epochOpen : Bool := false
  /-- Orders placed or accepted and not ended, and ended ones whose task has not ended its activation, in order of acceptance. -/
  orders : List OrderRec := []
  /-- The journal controller (R340 to R343). -/
  jnl : JournalRec := {}
  /-- PFAIL_N has closed the journal until the next boot. -/
  pfLatch : Bool := false
  /-- The last 4,096 accepted sequences, newest first (R337). -/
  accHist : List AccRec := []
  /-- Orders accepted in the current 1 ms window: the window's number and their count (R338). -/
  accWin : Nat × Nat := (0, 0)
  /-- `now` at the last valid frame (R355), and whether the silence has been reported. -/
  mLast : Nat := 0
  mSilent : Bool := false
  /-- Frames received on the local master port (R362), and reassembled on the ring with their source MAC. -/
  mpRx : List (List Byte) := []
  ringRxQ : List (List Byte × List Byte) := []
  /-- Frames in reassembly (R327). -/
  reasm : List ReasmRec := []
  /-- Bytes the local master port last drove. -/
  mpOut : List Byte := []
  /-- Source MAC of the most recently accepted order (R328), and the XID of the next report. -/
  lastMac : List Byte := []
  txXid : Nat := 0
  /-- VAON is present. -/
  powered : Bool := false
  /-- Resets in force, by cause code of R450; 0 stands for TEST_N (R511). -/
  rstBy : List Nat := [1]
  /-- The level of RST_N, and `now` since it has had it; the supplies below their level: bit 0 VCORE, bit 1 VANA. -/
  rstLow : Bool := false
  rstAt : Nat := 0
  uvRails : Nat := 0
  /-- The device is in Rest; `now` at Rest entry. -/
  inRest : Bool := false
  restAt : Nat := 0
  /-- The boot under way is a resume boot (R460); the boot ROM is in recovery (R488). -/
  resumeBoot : Bool := false
  recovery : Bool := false
  /-- `now` at the last valid KICK, and whether the firmware has written KICK since boot (R454). -/
  kickAt : Nat := 0
  kicked : Bool := false
  /-- `now` since when the device has been idle in Ready (R457). -/
  idleAt : Nat := 0
  /-- Levels of BOOT_MODE and RIG_SEL at the balls (R510). -/
  bootMode : Bool := false
  rigPins : Nat := 0
  /-- `now` of a demand whose Ready has not been reached, and the order that made it (R457, R458). -/
  demandAt : Option Nat := none
  demandBy : Option Nat := none
  /-- The activation lock of a rig switch (R448). -/
  actLock : Bool := false
  /-- The maintenance lock: running and queued activities (R481, R483); and non-urgent MRAM chunks that wait (R476). -/
  maintRun : List MaintReq := []
  maintQ : List MaintReq := []
  chunks : List ChunkRec := []
  /-- `now` at the end of the latest non-urgent chunk (R476), and of the last save of the wear counts (R478). -/
  chunkAt : Nat := 0
  wearAt : Nat := 0
  /-- Next MRAM scrub step and `now` of the last one (R477); `now` at which the next housekeeping round starts (R470). -/
  scrubPos : Nat := 0
  scrubAt : Nat := 0
  hkAt : Nat := 0
  /-- Corrected SRAM errors since the last housekeeping round (R39). -/
  hkCe : Nat := 0
  /-- The thermal shutdown raised its request at this `now` (R474). -/
  thrAt : Option Nat := none
  /-- A live replacement that waits for its instant (R493, R494). -/
  swap : Option SwapRec := none
  /-- Image-store slot of each pair, where live replacement has changed it (R494): (home pair, slot). -/
  slotMap : List (Nat × Nat) := []
  /-- The firmware digest that AON holds (R488). -/
  fwDigest : List Byte := []
  /-- JTAG stays open until the next reset by R491. -/
  jtagOpen : Bool := false
  /-- The test access port (R522). -/
  tap : TapRec := {}
  /-- Auxiliary converter channels (R520). -/
  auxs : List (Nat × AuxRec) := []
  /-- `now` at the end of the converter's latest conversion, and the latest free-running channel (R520). -/
  auxAt : Nat := 0
  auxLast : Nat := 7
  /-- The signal map by signal address (R429). -/
  sig : List (Nat × SigEnt) := []
  /-- Subscriptions (R437); per address `now` of its last report and whether a change is held. -/
  subs : List Nat := []
  subT : List (Nat × (Nat × Bool)) := []
  /-- `now` at the last sweep of the map (R431) and at the last refresh of the internal pockets (R435). -/
  sweepAt : Nat := 0
  pockAt : Nat := 0
  /-- Field ports (R423), nodes by 256 × port + address (R421), and the rig's node table (R417). -/
  fports : List (Nat × FieldPort) := []
  fnodes : List (Nat × FNode) := []
  nodeTab : List NodeTab := []
  /-- Slot words by 512 j + slot, and the slots disabled for their node (R420, R422). -/
  sched : List (Nat × (Word × Word)) := []
  schedOff : List Nat := []
  /-- The ring block (R371), the seam frames of the crews (R398) and the PTP clock (R388). -/
  ring : RingRec := {}
  seams : List (Nat × SeamRec) := []
  clock : ClockRec := {}
  /-- The real-time counter: its seconds, and `now` at which it had them. -/
  rtcSec : Nat := 0
  rtcAt : Nat := 0
  /-- 64-bit word writes of each MRAM region (R478), and as saved. -/
  wear : List (Nat × Nat) := []
  wearSaved : List (Nat × Nat) := []
  /-- The Cox log buffer (R480), and records dropped. -/
  logBuf : List LogRec := []
  logLost : Nat := 0
  deriving DecidableEq, Repr

/-- The machine right after reset. -/
def State.reset : State := {}

end Sys2Proof.Machine
end

