-- ==== Sys2Proof/Machine/Ops.lean ====
section
/-! DEFINITION. Machine/Ops.lean: the named operations over registers, memory, free values, time, faults, claims and the
records of State. Every meaning is written over these. -/
namespace Sys2Proof.Machine

/-- What a command answers. -/
abbrev Out := Host.Outcome State Fault Refusal

/-! ### Register map -/
/-- The instance offset reached by walking the strides, and what is left. -/
def dimWalk : List (Nat × Nat) → Nat → Nat × Nat
  | [], d => (0, d)
  | (st, ct) :: r, d =>
    let i := min (d / st) (ct - 1)
    let (j, rest) := dimWalk r (d - i * st)
    (if j = 0 then i else j, rest)

/-- Does the row hold a register at `a`? -/
def RegRow.holds (r : RegRow) (a : Nat) : Bool := r.base ≤ a && (dimWalk r.dims (a - r.base)).2 == 0

/-- The Reset column of the row's register at `a` (R11). -/
def RegRow.resetAt (r : RegRow) (a : Nat) : Nat := r.reset + r.step * (dimWalk r.dims (a - r.base)).1

/-- Window number of a peripheral address (R23). -/
def winOf (a : Nat) : Nat := a / 0x10000 - 0x4000

def findRow (a : Nat) : Option RegRow :=
  if a < 0x40000000 then none else (regRows (winOf a)).find? (fun r => r.holds a)

/-- Reset value of the word at `a`; 0 where no register stands. -/
def resetVal (a : Nat) : Word :=
  match findRow a with
  | some r => BitVec.ofNat 32 (r.resetAt a)
  | none => 0

/-! ### The register file -/
/-- The stored word at `a`. -/
def State.rd (s : State) (a : Nat) : Word := mget (resetVal a) s.regs a

/-- Stores a word. -/
def State.wr (s : State) (a : Nat) (v : Word) : State := { s with regs := mset (resetVal a) s.regs a v }

/-- A field as a number. -/
def State.get (s : State) (f : Fld) : Nat := bitsOf (s.rd f.addr).toNat f.hi f.lo

/-- Sets a field, cut to its width. -/
def State.put (s : State) (f : Fld) (v : Nat) : State := s.wr f.addr (setField (s.rd f.addr) f.hi f.lo v)

/-- A field that is not 0. -/
def State.bit (s : State) (f : Fld) : Bool := s.get f != 0

def State.putB (s : State) (f : Fld) (b : Bool) : State := s.put f b.toNat

/-- The hardware sets a w1c bit: a 1 that software writes at this very count does not clear it (R11). -/
def State.raise (s : State) (f : Fld) : State :=
  { s.putB f true with raised := mset 0 s.raised f.addr (mget 0 s.raised f.addr ||| 2 ^ f.lo) }

/-- Bit `i` of a field. -/
def State.bitAt (s : State) (f : Fld) (i : Nat) : Bool := (s.get f).testBit i

/-- A number with bit `i` set or cleared. -/
def natBit (n i : Nat) (b : Bool) : Nat := if n.testBit i = b then n else if b then n + 2 ^ i else n - 2 ^ i

/-- Number of bits set among the low `w`. -/
def popCount : Nat → Nat → Nat
  | 0, _ => 0
  | w + 1, n => (n.testBit w).toNat + popCount w n

def State.setBitAt (s : State) (f : Fld) (i : Nat) (b : Bool) : State := s.put f (natBit (s.get f) i b)

/-- The hardware sets bit i of a field of w1c bits. -/
def State.raiseBit (s : State) (f : Fld) (i : Nat) : State :=
  { s.setBitAt f i true with raised := mset 0 s.raised f.addr (mget 0 s.raised f.addr ||| 2 ^ (f.lo + i)) }

/-- A counter field that saturates. -/
def State.incSat (s : State) (f : Fld) : State :=
  let m := 2 ^ (f.hi + 1 - f.lo) - 1
  s.put f (min m (s.get f + 1))

/-- A counter field that wraps. -/
def State.incWrap (s : State) (f : Fld) : State := s.put f (s.get f + 1)

def State.addSat (s : State) (f : Fld) (n : Nat) : State :=
  let m := 2 ^ (f.hi + 1 - f.lo) - 1
  s.put f (min m (s.get f + n))

/-- A field as a signed number. -/
def State.getI (s : State) (f : Fld) : Int := sextNat (f.hi + 1 - f.lo) (s.get f)

def State.putI (s : State) (f : Fld) (z : Int) : State := s.put f (wrapInt (f.hi + 1 - f.lo) z)

/-- A numeric loop over 0 … n−1. -/
def loopN (n : Nat) (f : Nat → State → State) (s : State) : State :=
  (List.range n).foldl (fun s i => f i s) s

/-- A loop over a list. -/
def loopL {α : Type} (l : List α) (f : α → State → State) (s : State) : State := l.foldl (fun s x => f x s) s

/-! ### Records beside the registers -/
def State.task (s : State) (k : Nat) : TaskRec := mget {} s.tasks k
def State.setTask (s : State) (k : Nat) (v : TaskRec) : State := { s with tasks := mset {} s.tasks k v }
def State.pair (s : State) (k : Nat) : PairRec := mget {} s.pairs k
def State.setPair (s : State) (k : Nat) (v : PairRec) : State := { s with pairs := mset {} s.pairs k v }
def State.image (s : State) (k : Nat) : ImgInfo := mget {} s.images k
def State.setImage (s : State) (k : Nat) (v : ImgInfo) : State := { s with images := mset {} s.images k v }
def State.loop (s : State) (k : Nat) : LoopRec := mget {} s.loops k
def State.setLoop (s : State) (k : Nat) (v : LoopRec) : State := { s with loops := mset {} s.loops k v }
def State.crew (s : State) (k : Nat) : CrewRec := mget {} s.crews k
def State.setCrew (s : State) (k : Nat) (v : CrewRec) : State := { s with crews := mset {} s.crews k v }
def State.leg (s : State) (k : Nat) : LegRec := mget {} s.legs k
def State.setLeg (s : State) (k : Nat) (v : LegRec) : State := { s with legs := mset {} s.legs k v }
def State.link (s : State) (k : Nat) : LinkRec := mget {} s.links k
def State.setLink (s : State) (k : Nat) (v : LinkRec) : State := { s with links := mset {} s.links k v }
def State.tile (s : State) (k : Nat) : TileRec := mget {} s.tiles k
def State.setTile (s : State) (k : Nat) (v : TileRec) : State := { s with tiles := mset {} s.tiles k v }
def State.sinc (s : State) (k : Nat) : SincRec := mget {} s.sincs k
def State.setSinc (s : State) (k : Nat) (v : SincRec) : State := { s with sincs := mset {} s.sincs k v }
def State.prof (s : State) (k : Nat) : ProfRec := mget {} s.profs k
def State.setProf (s : State) (k : Nat) (v : ProfRec) : State := { s with profs := mset {} s.profs k v }
def State.pos (s : State) (k : Nat) : PosRec := mget {} s.poss k
def State.setPos (s : State) (k : Nat) (v : PosRec) : State := { s with poss := mset {} s.poss k v }
def State.si (s : State) (k : Nat) : SiRec := mget {} s.sis k
def State.setSi (s : State) (k : Nat) (v : SiRec) : State := { s with sis := mset {} s.sis k v }
def State.isl (s : State) (b : Island) : IslRec := if b then s.islB else s.islA
def State.setIsl (s : State) (b : Island) (v : IslRec) : State := if b then { s with islB := v } else { s with islA := v }
def IslRec.grp (r : IslRec) (g : Nat) : IslGrp := mget {} r.grps g
def IslRec.setGrp (r : IslRec) (g : Nat) (v : IslGrp) : IslRec := { r with grps := mset {} r.grps g v }
def State.seam (s : State) (k : Nat) : SeamRec := mget {} s.seams k
def State.setSeam (s : State) (k : Nat) (v : SeamRec) : State := { s with seams := mset {} s.seams k v }
def State.sigAt (s : State) (k : Nat) : SigEnt := mget {} s.sig k
def State.setSig (s : State) (k : Nat) (v : SigEnt) : State := { s with sig := mset {} s.sig k v }
def State.fport (s : State) (k : Nat) : FieldPort := mget {} s.fports k
def State.setFport (s : State) (k : Nat) (v : FieldPort) : State := { s with fports := mset {} s.fports k v }
def State.fnode (s : State) (k : Nat) : FNode := mget {} s.fnodes k
def State.setFnode (s : State) (k : Nat) (v : FNode) : State := { s with fnodes := mset {} s.fnodes k v }
def State.ptabAt (s : State) (i : Nat) : Word := mget 0 s.ptab i
def State.setPtab (s : State) (i : Nat) (v : Word) : State := { s with ptab := mset 0 s.ptab i v }

/-! ### Free values -/
/-- A fresh free value, which nothing constrains. -/
def State.free (s : State) : Nat × State := (Config.freeNat s.freeCount, { s with freeCount := s.freeCount + 1 })

/-- A fresh free value from lo to hi. -/
def State.freeIn (s : State) (lo hi : Nat) : Nat × State :=
  (lo + Config.freeNat s.freeCount % (hi - lo + 1), { s with freeCount := s.freeCount + 1 })

/-! ### Time -/
/-- Adds a duration in units of 2^−32 ns (R5). -/
def TimeVal.add (t : TimeVal) (d : Nat) : TimeVal :=
  let f := t.frac + d
  let n := t.ns + f / 2 ^ 32
  { sec := (t.sec + n / 1000000000) % 2 ^ 48, ns := n % 1000000000, frac := f % 2 ^ 32 }

/-- The time as one number of nanoseconds. -/
def TimeVal.toNs (t : TimeVal) : Nat := t.sec * 1000000000 + t.ns

def TimeVal.ofNs (n : Nat) : TimeVal := { sec := n / 1000000000 % 2 ^ 48, ns := n % 1000000000, frac := 0 }

/-- The 12 bytes of a time field in a report (R351). -/
def TimeVal.bytes12 (t : TimeVal) : List Byte := leBytes 6 t.sec ++ leBytes 4 t.ns ++ [0, 0]

/-- Units of 2^−32 ns by which a clock of binary32 rate error `ppb` (parts per 10^9) advances in `k` counts of 1.25 ns. -/
def clockStep (k : Nat) (ppb : Word) : Nat :=
  -- 1.25 ns = 5·2^30 units of 2^−32 ns
  let base : Int := (k * 5 * 2 ^ 30 : Nat)
  match f32m ppb with
  | some (z, e) =>
    let num : Int := base * z
    let d : Int := if e ≥ 0 then num * 2 ^ e.toNat / 1000000000 else num / (1000000000 * 2 ^ (-e).toNat)
    (base + d).toNat
  | none => base.toNat
where
  /-- A finite binary32 word as z × 2^e. -/
  f32m (w : Word) : Option (Int × Int) :=
    let n := w.toNat
    let be := n / 2 ^ 23 % 256
    if be = 255 then none
    else if be = 0 then some (0, 0)
    else
      let m : Int := Int.ofNat (2 ^ 23 + n % 2 ^ 23)
      some (if n / 2 ^ 31 = 1 then -m else m, Int.ofNat be - 150)

/-- `k` counts of 1.25 ns pass (R62 timebase, R388, R392). CTIME runs at its servo rate; LTIME is steered to it. -/
def State.advance (s : State) (k : Nat) : State :=
  let on := s.bit F.MOD_STAT_ON
  { s with
    now := s.now + k
    raised := if k = 0 then s.raised else []
    tb := if on then s.tb + k else s.tb
    ctime := s.ctime.add (clockStep k (s.rd R.TIME_RATE))
    ltime := s.ltime.add (clockStep k s.clock.lrate) }

/-- Time passes up to timebase count `t`, if it is still to come. -/
def State.advanceTb (s : State) (t : Nat) : State := if t ≤ s.tb then s else s.advance (t - s.tb)

/-- Time passes up to `now` = t, if it is still to come. -/
def State.until (s : State) (t : Nat) : State := if t ≤ s.now then s else s.advance (t - s.now)

/-- The next multiple of `p`: after `last`, and not before `now`. -/
def nextMult (p last now : Nat) : Nat := max ((last / p + 1) * p) ((now + p - 1) / p * p)

/-- Counts of 1.25 ns in a millisecond. -/
abbrev msCounts : Nat := 800000

/-- Power domain of window `w` (R23). The SAFETY mirror is held in the two island domains. -/
def winDomain (w : Nat) : List Nat :=
  if w = 1 || w = 2 then [0]
  else if w = 4 then [1, 2]
  else if 5 ≤ w && w ≤ 10 then [8]
  else if w = 11 || w = 14 then [6]
  else if w = 12 || w = 13 then [5]
  else if w = 15 then [7]
  else if w = 16 then [4]
  else [3]

/-- A domain that is on, or retained with its registers kept: a retained window is not off. -/
def State.domainOn (s : State) (d : Nat) : Bool := s.domOn.testBit d || s.domRet.testBit d

/-- A domain whose clocks run. -/
def State.domainRun (s : State) (d : Nat) : Bool := s.domOn.testBit d

def State.windowOn (s : State) (w : Nat) : Bool := (winDomain w).any s.domainOn

/-! ### Memory -/
/-- SRAM-L, SRAM-H, MRAM and Cox RAM: what a byte nothing has written reads as (assumption log 3). -/
def memDefault : Byte := 0

/-- The canonical form of the memory list. -/
abbrev Memory.wf (m : List Host.Cell) : Prop := mwf (fun _ => memDefault) m = true

/-- One byte. -/
def State.byteAt (s : State) (a : Nat) : Byte := mget memDefault s.mem a

def State.setByte (s : State) (a : Nat) (b : Byte) : State := { s with mem := mset memDefault s.mem a b }

/-- `n` bytes from `a`. -/
def State.bytes (s : State) (a n : Nat) : List Byte := (List.range n).map (fun i => s.byteAt (a + i))

def memPut (m : List Host.Cell) : Nat → List Byte → List Host.Cell
  | _, [] => m
  | a, b :: r => memPut (mset memDefault m a b) (a + 1) r

/-- Stores bytes from `a` on. -/
def State.setBytes (s : State) (a : Nat) (l : List Byte) : State := { s with mem := memPut s.mem a l }

/-- A little-endian number of `n` bytes (R7). -/
def State.rdN (s : State) (a n : Nat) : Nat := leNat (s.bytes a n)
def State.wrN (s : State) (a n v : Nat) : State := s.setBytes a (leBytes n v)

/-- The entries of a list of cells that lie in [lo, lo+n), moved to start at `dst`. -/
def cellsIn (m : List Host.Cell) (lo n dst : Nat) : List Host.Cell :=
  (m.filter (fun c => lo ≤ c.1 && c.1 < lo + n)).map (fun c => (c.1 - lo + dst, c.2))

/-- A byte of a private memory. -/
def cellAt (m : List Host.Cell) (a : Nat) : Byte := mget memDefault m a
def cellWord (m : List Host.Cell) (a n : Nat) : Nat := leNat ((List.range n).map (fun i => cellAt m (a + i)))

/-- Regions of the Cox address map (R21). -/
inductive Region where
  | bootRom | coxRam | sramL | sigMap | sramH | mram0 | mram1 | periph | unmapped
  deriving DecidableEq, Repr

def regionOf (a : Nat) : Region :=
  if a < 0x00020000 then .bootRom
  else if 0x08000000 ≤ a && a < 0x08040000 then .coxRam
  else if 0x10000000 ≤ a && a < 0x10C00000 then .sramL
  else if 0x10C00000 ≤ a && a < 0x11400000 then .sigMap
  else if 0x11400000 ≤ a && a < 0x11800000 then .sramH
  else if 0x20000000 ≤ a && a < 0x20800000 then .mram0
  else if 0x20800000 ≤ a && a < 0x21000000 then .mram1
  else if 0x40000000 ≤ a && a < 0x40160000 then .periph
  else .unmapped

/-- Bank number of an SRAM address for fault 0x0106: 0 SRAM-L, 1 SRAM-H. -/
def bankOf (a : Nat) : Nat := if a < 0x10C00000 then 0 else 1

/-- The whole range lies in SRAM-L or in SRAM-H general use (R37). -/
def rangeInSram (a n : Nat) : Bool :=
  (0x10000000 ≤ a && a + n ≤ 0x10C00000) || (0x11400000 ≤ a && a + n ≤ 0x11800000)

def rangesOverlap (a n b m : Nat) : Bool := a < b + m && b < a + n

/-! ### Reports, the event log and the fault table -/
/-- Puts a formed report into the list, ahead of later reports of its epoch (R353). -/
def repInsert (r : ReportRec) : List ReportRec → List ReportRec
  | [] => [r]
  | x :: l => if x.epoch = r.epoch && r.rseq < x.rseq then r :: x :: l else x :: repInsert r l

/-- Reports that wait for their acknowledgement. -/
def State.unacked (s : State) : Nat := (s.reports.filter (fun r => !r.once)).length

def State.addReport (s : State) (r : ReportRec) : State :=
  let s := { s with reports := repInsert r s.reports }
  s.put F.MASTER_QSTAT_UNACK s.unacked

/-- Takes the next RSEQ of the present epoch (R350). -/
def State.newRseq (s : State) : Nat × State :=
  let q := s.get F.MASTER_RSEQ_R + 1
  (q, s.put F.MASTER_RSEQ_R q)

/-- Forms a report with the next RSEQ of the present epoch (R350). -/
def State.formReport (s : State) (typ : RepType) (oseq lane : Nat) (body : List Byte) : State :=
  let (q, s) := s.newRseq
  s.addReport { typ := typ, epoch := s.get F.MASTER_EPOCH_E, rseq := q, oseq := oseq, lane := lane, body := body }

/-- Body of an EVENT report (R351). -/
def State.eventBody (s : State) (kind : Nat) (data : List Byte) : List Byte :=
  leBytes 2 kind ++ [0, 0] ++ s.ltime.bytes12 ++ data

/-- Puts a record into the Cox log buffer of 512; one that finds it full is dropped and counted (R479, R480). -/
def State.logRec (s : State) (kind code inst data : Nat) : State :=
  if s.logBuf.length ≥ 512 then { s with logLost := min 65535 (s.logLost + 1) }
  else { s with logBuf := s.logBuf ++
      [({ sec := s.ltime.sec, ns := s.ltime.ns, kind := kind, code := code, inst := inst, data := data } : LogRec)] }

/-- The entry of the fault table that a fault makes: true where it is a new entry (R38). A new entry is copied to the event
log. With 64 entries FLT_OVF counts, and 0x0120 keeps what was lost. -/
def State.enterFault (s : State) (code inst : Nat) : Bool × State :=
  let i := inst % 256
  if s.faults.any (fun e => e.code == code && e.inst == i) then
    (false, { s with faults := s.faults.map (fun (e : FaultRec) =>
        if e.code == code && e.inst == i then { e with count := min 255 (e.count + 1) } else e) })
  else if s.faults.length < 64 then
    let s := { s with faults := s.faults ++
      [({ code := code, inst := i, count := 1, sec := s.ltime.sec, ns := s.ltime.ns } : FaultRec)] }
    (true, s.logRec 1 code i 1)
  else
    let s := s.incSat F.SYS_FLT_OVF_COUNT
    if s.faults.any (fun e => e.code == 0x0120) then
      (false, { s with faults := s.faults.map (fun (e : FaultRec) =>
          if e.code == 0x0120 then { e with count := min 255 (e.count + 1) } else e) })
    else
      (false, match s.fltLost with
        | none => { s with fltLost := some { count := 1, sec := s.ltime.sec, ns := s.ltime.ns } }
        | some l => { s with fltLost := some { l with count := l.count + 1 } })

/-- An EVENT report dropped at 1,024 unacknowledged reports (R353): it is counted and fault 0x0808 is entered, whose own
EVENT, where the entry is new, is dropped the same way. -/
def State.dropEvent (s : State) : State :=
  let (new, s) := { s with repLost := s.repLost + 1 }.enterFault 0x0808 0
  if new then ({ s with repLost := s.repLost + 1 }.enterFault 0x0808 0).2 else s

/-- EVENT 0x0008 once room exists again (R353). -/
def State.flushLost (s : State) : State :=
  if s.epochOpen && s.repLost > 0 && s.unacked < 1024 then
    { s with repLost := 0 }.formReport .event 0 0 (s.eventBody 8 (leBytes 4 s.repLost))
  else s

/-- Queues an EVENT report, or drops it at 1,024 unacknowledged reports (R353). -/
def State.event (s : State) (kind : Nat) (data : List Byte) : State :=
  if !s.epochOpen then s
  else
    let s := s.flushLost
    if s.unacked ≥ 1024 then s.dropEvent
    else s.formReport .event 0 0 (s.eventBody kind data)

/-- Enters a fault (R38); a new entry is sent as EVENT 0x0005 (assumption log 4). -/
def State.fault (s : State) (code inst : Nat) : State :=
  let (new, s) := s.enterFault code inst
  if new then s.event 5 (leBytes 2 code ++ leBytes 1 (inst % 256) ++ [1]) else s

/-- Removes the entries that `p` names; later entries move down (R41). The first free place is taken by 0x0120 where
faults were not entered (R38). Each removal is logged (R479 KIND 2). -/
def State.clearFaults (s : State) (p : FaultRec → Bool) : State :=
  let gone := s.faults.filter p
  let s := { s with faults := s.faults.filter (fun e => !p e) }
  let s := loopL gone (fun e s => s.logRec 2 e.code e.inst 0) s
  match s.fltLost with
  | some l =>
    if s.faults.length < 64 then
      let c := min 255 l.count
      let s : State := { s with
        faults := s.faults ++ [{ code := 0x0120, inst := 0, count := c, sec := l.sec, ns := l.ns }], fltLost := none }
      (s.logRec 1 0x0120 0 c).event 5 (leBytes 2 0x0120 ++ [0] ++ leBytes 1 c)
    else s
  | none => s

/-- Retry counters (R29). -/
def State.retryT (s : State) (cls : Nat) : State := s.incSat (F.SYS_RETRY_T_COUNT cls)
def State.retryL (s : State) (cls : Nat) : State := s.incSat (F.SYS_RETRY_L_COUNT cls)

/-- A refused Cox access: the named fault is raised to the Cox (R25). -/
def State.coxBusFault (s : State) (code addr : Nat) : State := { s with busFault := some (code, addr) }

/-- A write of the register at `a`: refused with 0x0104 while its window's domain is off (R25). -/
def State.onReg (s : State) (a : Nat) (f : State → Out) : Out :=
  if s.windowOn (winOf a) then f s else .next (s.coxBusFault 0x0104 a)

/-- The reserved-write counter of a window (R10). DESIGN CHOICE: the spec names it and gives it no register and no width;
32 bits that saturate, as the block counters of SYS do (assumption log 62). -/
def State.countRsv (s : State) (w : Nat) : State :=
  { s with rsvWrites := mset 0 s.rsvWrites w (min 0xFFFFFFFF (mget 0 s.rsvWrites w + 1)) }

/-- A word on its way into the register at `a`: a nonzero value of a reserved field is counted and written as 0 (R10), and a
1 for a w1c bit that the hardware has set at this very count does not clear it (R11). -/
def State.takeWord (s : State) (a : Nat) (v : Word) : Word × State :=
  match findRow a with
  | none => (v, s)
  | some r =>
    let rsv := BitVec.ofNat 32 r.rsv
    let held := BitVec.ofNat 32 (r.w1c &&& mget 0 s.raised a)
    (v &&& ~~~(rsv ||| held), if v &&& rsv = 0 then s else s.countRsv (winOf a))

/-- A write of a whole word by a command of its own. -/
def State.onRegW (s : State) (a : Nat) (v : Word) (f : Word → State → Out) : Out :=
  s.onReg a fun s =>
    let (v, s) := s.takeWord a v
    f v s

/-- A read of it: a refused one returns 0. -/
def State.onRegRead (s : State) (a : Nat) (f : State → Out) : Out :=
  if s.windowOn (winOf a) then f s else .next { s.coxBusFault 0x0104 a with rdata := 0 }

/-! ### SRAM error words (R27) -/
def wordOf (a : Nat) : Nat := a / 8 * 8

/-- The access [a, a+n) touches an uncorrectable word. -/
def State.touchesUe (s : State) (a n : Nat) : Bool :=
  s.eccUe.any (fun w => w < a + n && a < w + 8)

/-- A single-bit error met by an access is corrected, written back and counted. -/
def State.correctCe (s : State) (a n : Nat) : State :=
  let hit := s.eccCe.filter (fun w => w < a + n && a < w + 8)
  let s := { s with eccCe := s.eccCe.filter (fun w => !(w < a + n && a < w + 8)), hkCe := s.hkCe + hit.length }
  loopL hit (fun _ s => s.incSat F.SYS_ECC_CE_COUNT) s

/-- A load of `n` bytes of SRAM: the value, or none where an uncorrectable word is touched, which enters 0x0106 with the
bank as instance. -/
def State.sramLoad (s : State) (a n : Nat) : Option Nat × State :=
  let s := s.correctCe a n
  if s.touchesUe a n then (none, s.fault 0x0106 (bankOf a)) else (some (s.rdN a n), s)

/-- A store of `n` bytes of SRAM. Into an uncorrectable word it fails unless it replaces all 8 bytes. -/
def State.sramStore (s : State) (a n v : Nat) : Bool × State :=
  let s := s.correctCe a n
  if s.touchesUe a n then
    if a % 8 = 0 && n = 8 then (true, { s.wrN a n v with eccUe := s.eccUe.filter (fun w => w != a) })
    else (false, s.fault 0x0106 (bankOf a))
  else (true, s.wrN a n v)

/-- The words of a device-side write that it replaces only in part, and that are uncorrectable (R27). -/
def State.partUe (s : State) (a n : Nat) : List Nat :=
  s.eccUe.filter (fun w => w < a + n && a < w + 8 && !(a ≤ w && w + 8 ≤ a + n))

/-- A device-side write of bytes: it replaces the words it covers whole. A word it covers in part is read to rewrite its check
bits: a single-bit error of it is corrected; an uncorrectable one keeps all its bytes, and SRAM enters 0x0106 (R27). -/
def State.devWrite (s : State) (a : Nat) (l : List Byte) : State :=
  let n := l.length
  let keep (w : Nat) : Bool := !(a ≤ w && w + 8 ≤ a + n)
  let s := { s with eccCe := s.eccCe.filter keep }
  let s := if a < 0x20000000 then s.correctCe a n else s
  let old := if a < 0x20000000 then (s.partUe a n).map (fun w => (w, s.bytes w 8)) else []
  let s := { s.setBytes a l with eccUe := s.eccUe.filter keep }
  loopL old (fun e s => (s.setBytes e.1 e.2).fault 0x0106 (bankOf e.1)) s

/-! ### Claims (R32 to R36) -/
/-- Index range of a resource class (R32). -/
def classLimit (c : Nat) : Nat :=
  match c with
  | 0 => 32 | 1 => 8 | 2 => 16 | 3 => 16 | 4 => 16 | 5 => 64 | 6 => 64 | 7 => 256 | 8 => 64 | 9 => 2
  | _ => 0

def validRes (r : Nat) : Bool := r % 4096 < classLimit (r / 4096)

/-- The owner codes a rig's claim record may name (R36). -/
def validRigOwner (o : Nat) : Bool := o == 0x02 || (0x10 ≤ o && o ≤ 0x2F) || (0x30 ≤ o && o ≤ 0x38) || o == 0x40

def State.ownerOf (s : State) (r : Nat) : Nat := mget 0 s.claims r
def State.setOwner (s : State) (r o : Nat) : State := { s with claims := mset 0 s.claims r o }

/-- Results of a claim-table request, as SYS.CLAIM_STAT.RESULT codes them. -/
inductive ClaimRes where
  | done | conflict | notOwner | badId
  deriving DecidableEq, Repr

def ClaimRes.code : ClaimRes → Nat
  | .done => 0 | .conflict => 1 | .notOwner => 2 | .badId => 3

/-- The fault a refused request enters (R34). -/
def ClaimRes.faultCode : ClaimRes → Nat
  | .done => 0 | .conflict => 0x0110 | .notOwner => 0x0111 | .badId => 0x0112

/-- Frees a resource; a released descriptor's base and length become 0 (R37). -/
def State.freeRes (s : State) (r : Nat) : State :=
  let s := s.setOwner r 0
  if r / 4096 ≠ 7 then s
  else
    let s := { s with dma := mset (0, 0) s.dma (r % 4096) (0, 0) }
    if s.get F.SYS_DMA_SEL_IDX = r % 4096 then (s.wr R.SYS_DMA_BASE 0).wr R.SYS_DMA_LEN 0 else s

/-- One request at the claim table (R34). -/
def State.claimOp (s : State) (release : Bool) (owner res : Nat) : ClaimRes × State :=
  if !validRes res then (.badId, s)
  else
    let h := s.ownerOf res
    if release then
      if h = owner then (.done, s.freeRes res) else (.notOwner, s)
    else if h = 0 then (.done, s.setOwner res owner)
    else if h = owner then (.done, s)
    else (.conflict, s)

def State.dmaOf (s : State) (d : Nat) : Nat × Nat := mget (0, 0) s.dma d

/-- Some claimed descriptor whose holder satisfies `p` overlaps the range. -/
def State.dmaOverlap (s : State) (a n : Nat) (p : Nat → Bool) : Bool :=
  s.dma.any (fun (d, b, l) => rangesOverlap a n b l && p (s.ownerOf (0x7000 + d)))

/-- The checkpoint areas and image stores of R560, as (base, size). -/
def State.seAreas (s : State) : List (Nat × Nat) :=
  [((s.rd R.SE_CKPT_BASE_L).toNat, 131072), ((s.rd R.SE_CKPT_BASE_H).toNat, 131072),
   ((s.rd R.SE_IMG_BASE_L).toNat, 1769472), ((s.rd R.SE_IMG_BASE_H).toNat, 1769472)]

/-! ### Auxiliary converter channels (R520) -/
def State.aux (s : State) (a : Nat) : AuxRec := mget {} s.auxs a
def State.setAux (s : State) (a : Nat) (v : AuxRec) : State := { s with auxs := mset {} s.auxs a v }

/-- Channel a is claimed. -/
def State.auxHeld (s : State) (a : Nat) : Bool := s.ownerOf (0x1000 + a) != 0

/-- Channel a is converted. -/
def State.auxOn (s : State) (a : Nat) : Bool := s.bit F.AUXADC_CTL_EN && s.auxHeld a && s.bit (F.AUXADC_CH_CFG_EN a)

/-- AUXADC.STAT follows the channels. -/
def State.auxShow (s : State) : State :=
  let free := (List.range 8).foldl (fun m a => if s.auxOn a && s.get (F.AUXADC_CH_CFG_MODE a) = 0 then m + 2 ^ a else m) 0
  let busy := free != 0 || (List.range 8).any (fun a => s.auxOn a && (s.aux a).due != 0)
  (s.put F.AUXADC_STAT_FREE free).putB F.AUXADC_STAT_BUSY busy

/-- `now` at the instant 600 ns after crew n's carrier point: t_s (R242, R520). -/
def State.sampleNow (s : State) (n : Nat) : Nat := ((s.now : Int) + ((s.crew n).tc + 480 : Nat) - s.tb).toNat

/-- A catch of crew n asks for the conversions of its channels, with an acquisition that ends at t_s. -/
def State.auxCatch (s : State) (n : Nat) : State :=
  loopN 8 (fun a s =>
    let x := s.aux a
    if s.auxOn a && s.get (F.AUXADC_CH_CFG_MODE a) = 1 && s.get (F.AUXADC_CH_CFG_CREW a) = n then
      s.setAux a { x with
        due := x.due + 2 ^ s.get (F.AUXADC_CH_CFG_OSR a), acq := if x.due = 0 then s.sampleNow n else x.acq }
    else s) s

end Sys2Proof.Machine
end

