-- ==== Sys2Proof/Machine/OrderOps.lean ====
section
/-! DEFINITION. Machine/OrderOps.lean: orders and the journal: the operations that frames, batches, crew events and tasks
share (R334 to R348). -/
namespace Sys2Proof.Machine

/-! ### MRAM writes -/
/-- Region of an MRAM address (R478): 0–127 in M0, 128–255 in M1. -/
def mramRegion (a : Nat) : Nat := (a - 0x20000000) / 65536

/-- Counts the 64-bit words written; a region that reaches 8 × 10^9 writes per word enters fault 0x0C08 (R478). -/
def State.countWear (s : State) (a n : Nat) : State :=
  let r := mramRegion a
  let old := mget 0 s.wear r
  let new := old + (n + 7) / 8
  let s := { s with wear := mset 0 s.wear r new }
  if old / 8192 < 8000000000 && new / 8192 ≥ 8000000000 then s.fault 0x0C08 r else s

/-- A write of MRAM bytes. -/
def State.mramWrite (s : State) (a : Nat) (l : List Byte) : State := (s.devWrite a l).countWear a l.length

/-- A verified write whose command carries no outcome: at the first attempt, at the rewrite, or a lasting failure, which leaves
the target as it was (R29 class 2, R476). Which it is, is a free value (assumption log 72). -/
def State.mramTry (s : State) (a : Nat) (l : List Byte) : State :=
  let (o, s) := s.freeIn 0 2
  match o with
  | 0 => s.mramWrite a l
  | 1 => (s.retryT 2).mramWrite a l
  | _ => (s.retryL 2).fault 0x0C06 ((a - 0x20000000) / 0x800000)

/-- Macro 0 or 1 is marked lost (R342). -/
def State.macroLost (s : State) (m : Nat) : Bool := s.bit (if m = 0 then F.MASTER_JSTAT_M0LOST else F.MASTER_JSTAT_M1LOST)

/-! ### Journal records (R340) -/
/-- Base of the journal in each macro, and its size. -/
def jBase (m : Nat) : Nat := 0x20400000 + 0x800000 * m
abbrev jRing : Nat := 1048576
abbrev jBatchMax : Nat := 6144

def round32 (n : Nat) : Nat := (n + 31) / 32 * 32

def JRec.size (r : JRec) : Nat := 32 + round32 r.payload.length

def JRec.bytes (r : JRec) : List Byte :=
  let h := leBytes 1 r.typ ++ leBytes 1 r.lane ++ leBytes 2 r.payload.length ++ leBytes 4 r.seq ++ leBytes 2 r.epoch ++
    [0, 0] ++ leBytes 4 r.tag ++ leBytes 4 r.batch ++ leBytes 4 (crc32 r.payload) ++ [0, 0, 0, 0]
  slice (h ++ leBytes 4 (crc32 h) ++ r.payload) 0 r.size

def recsSize (l : List JRec) : Nat := l.foldl (fun n r => n + r.size) 0

/-- The COMMIT record of a batch: its number and the CRC of all its records. -/
def commitRec (no epoch : Nat) (l : List JRec) : JRec :=
  { typ := 8, lane := 0, seq := 0, epoch := epoch, tag := 0, batch := no
    payload := leBytes 4 (crc32 (l.flatMap JRec.bytes)) }

/-- Free bytes of the ring, shown in 1/256 of it. -/
def State.jFree (s : State) : Nat := jRing - (s.jnl.head - s.jnl.tail)

def State.showFree (s : State) : State := s.put F.MASTER_JSTAT_FREE (min 255 (s.jFree / 4096))

/-- Writes bytes at a ring position of macro m, going on at the ring's start after its end. -/
def State.jPut (s : State) (m pos : Nat) (l : List Byte) : State :=
  let p := pos % jRing
  let n := jRing - p
  let s := s.mramWrite (jBase m + p) (l.take n)
  if l.length > n then s.mramWrite (jBase m) (l.drop n) else s

/-- Reads bytes of the ring; none where a word cannot be corrected. -/
def State.jGet (s : State) (m pos n : Nat) : Option (List Byte) :=
  let a (i : Nat) := jBase m + (pos + i) % jRing
  if (List.range n).any (fun i => s.touchesUe (a i) 1) then none else some ((List.range n).map (fun i => s.byteAt (a i)))

/-- A batch can open: the write window is open, PFAIL_N not asserted, the journal neither halted nor closed (R343). -/
def State.jCanOpen (s : State) : Bool :=
  s.epochOpen && s.bit F.MASTER_JSTAT_WIN && !s.bit F.MASTER_JSTAT_PFAIL && !s.pfLatch && !s.bit F.MASTER_JSTAT_HALT

/-- Waiting records that still fit beside `used` bytes and the COMMIT record. -/
def takeFit : Nat → List JRec → List JRec × List JRec
  | _, [] => ([], [])
  | used, r :: l =>
    if used + r.size + 64 ≤ jBatchMax then
      let (a, b) := takeFit (used + r.size) l
      (r :: a, b)
    else ([], r :: l)

/-- Opens a batch where one may open, and fills the open one (R341). -/
def State.jKick (s : State) : State :=
  let j := s.jnl
  if j.phase = 2 || j.wait.isEmpty || (j.phase = 0 && !s.jCanOpen) then
    -- a batch refused under PFAIL_N keeps the journal closed until the next boot (R517)
    if j.phase = 0 && !j.wait.isEmpty && s.bit F.MASTER_JSTAT_PFAIL then { s with pfLatch := true } else s
  else
    let (a, b) := takeFit (recsSize j.batch) j.wait
    let j := { j with wait := b, batch := j.batch ++ a, phase := 1, openAt := if j.phase = 0 then s.now else j.openAt }
    { s with jnl := j }.putB F.MASTER_JSTAT_OPEN true

/-! ### Orders -/
/-- Class M: ORD_CALL alone (R334, R335). -/
def OrderRec.classM (o : OrderRec) : Bool := o.opcode == 1

/-- Waiting to start. -/
def OrderRec.waiting (o : OrderRec) : Bool := o.st == .placed || o.st == .queued

def OrderRec.isRunning (o : OrderRec) : Bool := o.st == .starting || o.st == .running

/-- MASTER.LANE and MASTER.QSTAT.QN (R366). -/
def State.showOrders (s : State) : State :=
  let s := s.put F.MASTER_QSTAT_QN (s.orders.filter OrderRec.waiting).length
  let s := s.putB F.MASTER_JSTAT_RECOV (s.orders.any (fun o => o.rolled && o.isRunning))
  loopN 33 (fun l s =>
    let q := (s.orders.filter (fun o => o.lane == l && o.st == .queued)).length
    let run := s.orders.find? (fun o => o.lane == l && o.isRunning)
    let can := s.orders.any (fun o => o.lane == l && (o.isRunning || o.held) && o.cancelReq)
    let s := s.put (F.MASTER_LANE_RUN_SEQ l) ((run.map (·.seq)).getD 0)
    let s := s.put (F.MASTER_LANE_STAT_QUEUED l) q
    let s := s.putB (F.MASTER_LANE_STAT_BUSY l) run.isSome
    s.putB (F.MASTER_LANE_STAT_CANCELREQ l) can) s

/-- Changes the orders that `p` names; ended orders that no activation holds leave the list. -/
def State.mapOrders (s : State) (p : OrderRec → Bool) (f : OrderRec → OrderRec) : State :=
  let l := s.orders.map (fun o => if p o then f o else o)
  ({ s with orders := l.filter (fun o => o.st != OrdSt.terminal || o.held) }).showOrders

def State.orderOf (s : State) (seq : Nat) : Option OrderRec :=
  s.orders.find? (fun o => o.seq == seq && o.st != OrdSt.terminal)

/-- The order that runs on a lane. -/
def State.laneOrder (s : State) (lane : Nat) : Option OrderRec := s.orders.find? (fun o => o.lane == lane && o.isRunning)

/-- The order whose activation the lane's task runs, ended or not (R345, R346). -/
def State.heldOrder (s : State) (lane : Nat) : Option OrderRec := s.orders.find? (fun o => o.lane == lane && o.held)

/-- A START record that cannot be journaled any more, or whose batch committed, lets the order run (R345). -/
def State.orderStarted (s : State) (seq : Nat) : State :=
  s.mapOrders (fun o => o.seq == seq && o.st == .starting) (fun o => { o with st := .running })

/-- The report of a committed record, or of one that a halted journal does not take (R342). -/
def State.recReport (s : State) (r : JRec) : State :=
  if r.typ = 2 then
    (s.addReport { typ := .start, epoch := r.epoch, rseq := r.tag, oseq := r.seq, lane := r.lane, body := r.payload }).orderStarted
      r.seq
  else if r.typ = 3 then
    s.addReport { typ := .endRep, epoch := r.epoch, rseq := r.tag, oseq := r.seq, lane := r.lane, body := r.payload }
  else s

/-- A record becomes pending (R341). A halted journal sends START and END reports unjournaled (R342). -/
def State.jAdd (s : State) (r : JRec) : State :=
  if s.bit F.MASTER_JSTAT_HALT then
    if r.typ = 2 || r.typ = 3 then
      let (q, s) := s.newRseq
      s.recReport { r with tag := q }
    else s
  else { s with jnl := { s.jnl with wait := s.jnl.wait ++ [r] } }.jKick

/-- TERM of a status code (R351, R364). -/
def termOf (st : Nat) : Nat :=
  if st = 0 then 0 else if st = 0x40 then 2 else if st = 0x50 then 3 else if st = 0x51 then 4 else if st = 0x52 then 5 else 1

def State.endBody (s : State) (seq status : Nat) (data : List Byte) : List Byte :=
  leBytes 4 seq ++ leBytes 1 status ++ leBytes 1 (termOf status) ++ [0, 0] ++ s.ltime.bytes12 ++ data

/-- An order ends: it is terminal, and its END record becomes pending (R345). -/
def State.endOrder (s : State) (seq status : Nat) (data : List Byte) : State :=
  match s.orderOf seq with
  | none => s
  | some o =>
    -- the idle time counts from the end of the last ORD_CALL (R457)
    let s := if o.classM then { s with idleAt := s.now } else s
    let s := s.mapOrders (fun x => x.seq == seq && x.st != OrdSt.terminal) (fun x =>
      { x with st := .terminal, cancelReq := x.cancelReq || ((status = 0x51 || status = 0x52) && x.isRunning) })
    s.jAdd { typ := 3, lane := o.lane, seq := seq, epoch := s.get F.MASTER_EPOCH_E, tag := 0
             payload := s.endBody seq status data }

/-- A crew event on a lane (R345): its queued and running class M orders end; CANCELREQ is set on the running one. -/
def State.endLane (s : State) (lane status : Nat) : State :=
  let l := s.orders.filter (fun o => o.lane == lane && o.classM && (o.st == .queued || o.isRunning))
  loopL l (fun o s => s.endOrder o.seq status []) s

/-- The activation of the lane's task ends without ORDEND: a running order that it had ends STOPPED_FAULT, and the lane is
free for its next order (R345). -/
def State.endLaneRunning (s : State) (lane status : Nat) : State :=
  let s := match s.heldOrder lane with
    | some o => if o.isRunning then s.endOrder o.seq status [] else s
    | none => s
  s.mapOrders (fun o => o.lane == lane && o.held) (fun o => { o with held := false })

/-- The lane's task ends its activation with ORDEND and a status code (R346, R365). -/
def State.laneOrdEnd (s : State) (lane code : Nat) : State :=
  let st := if code = 0 || (1 ≤ code && code ≤ 3) || (6 ≤ code && code ≤ 10) || code = 0x0C || (0x10 ≤ code && code ≤ 0x3F) ||
    code = 0x40 then code else 0x0C
  s.endLaneRunning lane st

/-- A step of a built-in order is done: its PROGRESS record becomes pending (R348). -/
def State.orderStep (s : State) (o : OrderRec) : State :=
  let s := s.mapOrders (fun x => x.seq == o.seq) (fun x => { x with step := x.step + 1 })
  s.jAdd { typ := 4, lane := o.lane, seq := o.seq, epoch := s.get F.MASTER_EPOCH_E, tag := o.step + 1, payload := [] }

end Sys2Proof.Machine
end

