-- ==== Sys2Proof/Machine/ProfOps.lean ====
section
/-! DEFINITION. Machine/ProfOps.lean: what profile units and snatch guards do when the crew, its pair, its guard or the
islands change state (R257, R258, R280 to R283, R309). -/
namespace Sys2Proof.Machine

/-! ### The crew's STO group -/
/-- The sealed section in force. -/
def State.seal (s : State) : Option SealSec := s.islA.sec.orElse (fun _ => s.islB.sec)

/-- CREWGRP of a crew: its STO group, if it has one (R306, R316). -/
def State.crewGroup (s : State) (n : Nat) : Option Nat :=
  match s.seal with
  | some c => let g := c.crewGrp.getD n 255; if g < 8 then some g else none
  | none => none

/-- STO is asserted on the group while either channel's line shows it (R307). -/
def State.groupSto (s : State) (g : Nat) : Bool := !s.bit (F.SAFETY_GRP_STAT_STOA g) || !s.bit (F.SAFETY_GRP_STAT_STOB g)

/-- Either island raises the SS1 notice of the crew's group (R309). -/
def State.noticeUp (s : State) (n : Nat) : Bool :=
  match s.crewGroup n with
  | some g => s.bit (F.SAFETY_GRP_STAT_NOTICE g)
  | none => false

/-! ### Profile state -/
abbrev pfOFF : Nat := 0
abbrev pfSTILL : Nat := 1
abbrev pfREDUCED : Nat := 2
abbrev pfBSET : Nat := 3
abbrev pfTREL : Nat := 4
abbrev pfBRAKED : Nat := 5
abbrev pfBOPEN : Nat := 6
abbrev pfMOVE : Nat := 7
abbrev pfDWELL : Nat := 8
abbrev pfFOLLOW : Nat := 9
abbrev pfFROZEN : Nat := 10

def State.pf (s : State) (n : Nat) : Nat := s.get (F.PROF_PSTAT_STATE n)
def State.pfMode (s : State) (n : Nat) : Nat := s.get (F.PROF_CTL_MODE n)
def State.pfCrash (s : State) (n : Nat) : Bool := s.bit (F.PROF_PSTAT_CRASH n)

/-- Enters a profile state; timers count from here. SEG is 0 outside MOVE. -/
def State.setPf (s : State) (n st : Nat) : State :=
  let s := s.setProf n { s.prof n with since := s.now }
  let s := if st = pfMOVE then s else s.put (F.PROF_PSTAT_SEG n) 0
  s.put (F.PROF_PSTAT_STATE n) st

def State.setHoldk (s : State) (n : Nat) (w : Word) : State := s.wr (R.PROF_HOLDK n) w

/-- A position in 2^-18 counts, wrapped to 64 bits of counts. -/
def posWrap (z : Int) : Int := sextNat 82 (wrapInt 82 z)

/-- The committed target, and TGT_L and TGT_H: the approach to the one before is over (R270). -/
def State.setTgt (s : State) (n : Nat) (t : Int) : State :=
  let w := wrapInt 64 t
  let s := (s.setProf n { s.prof n with tgt := sextNat 64 w }).putB (F.PROF_PSTAT_APPR n) false
  (s.wr (R.PROF_TGT_L n) (BitVec.ofNat 32 w)).wr (R.PROF_TGT_H n) (BitVec.ofNat 32 (w / 2 ^ 32))

/-- TGT := p rounded toward the last direction, or VTGT := 0; in MODE 2 the reference is frozen at p (R273, R277). -/
def State.profNoGoal (s : State) (n : Nat) : State :=
  let p := (s.prof n).pos
  match s.pfMode n with
  | 1 => s.wr (R.PROF_VTGT n) 0
  | 2 => s.setProf n { s.prof n with sPrev := p, sNew := p, hold := some p }
  | _ => s.setTgt n (if s.bit (F.PROF_PSTAT_LASTDIR n) then p / 2 ^ 18 else -((-p) / 2 ^ 18))

/-- STOP and HALTQ freeze the reference at p in MODE 2, until the next set-point (R277). -/
def State.freezeRef (s : State) (n : Nat) : State :=
  let r := s.prof n
  if s.pfMode n = 2 then s.setProf n { r with hold := some r.pos, sPrev := r.pos, sNew := r.pos } else s

/-- The brake output is set or released (R279). -/
def State.setBrake (s : State) (n : Nat) (on : Bool) : State :=
  let s := s.putB (F.PROF_PSTAT_BRKOUT n) on
  if s.get (F.PROF_BRK_OUT n) = 1 then s.setBitAt F.GPIO_IN_IN (s.get (F.PROF_BRK_OIDX n)) (!on) else s

/-- The Iarum reference q at the present timebase count (R284). -/
def State.iarRef (s : State) (n : Nat) : Int :=
  let r := s.prof n
  match r.hold, r.perStart with
  | some h, _ => h
  | none, some t => r.sPrev + roundDiv ((r.sNew - r.sPrev) * ((s.tb - t : Nat) : Int)) (s.get (F.PROF_IAR_PER_US n) * 800)
  | none, none => r.sPrev

/-- A motion request and its direction, true is negative (R271). -/
def State.motionReq (s : State) (n : Nat) : Option Bool :=
  let r := s.prof n
  let d : Int := match s.pfMode n with
    | 0 => r.tgt * 2 ^ 18 - r.pos
    | 1 => (s.rd (R.PROF_VTGT n)).toInt
    | 2 => s.iarRef n - r.pos
    | _ => 0
  if d = 0 then none else some (decide (d < 0))

/-- The reversal dwell in ms: CRDWELL during a crash stop (R283). -/
def State.dwellMs (s : State) (n : Nat) : Nat :=
  if s.pfCrash n then s.get (F.PROF_CRCTL_CRDWELL n) else s.get (F.PROF_DWELL_MS n)

/-- A start in direction `neg` owes a dwell that has not passed (R272). -/
def State.dwellOwed (s : State) (n : Nat) (neg : Bool) : Bool :=
  neg != s.bit (F.PROF_PSTAT_LASTDIR n) && s.now < (s.prof n).t0 + s.dwellMs n * msCounts

/-- The move or the dwell begins; without a request the unit is STILL. -/
def State.profGo (s : State) (n : Nat) : State :=
  match s.motionReq n with
  | none => s.setPf n pfSTILL
  | some d =>
    if s.dwellOwed n d then s.setPf n pfDWELL
    else (s.setProf n { s.prof n with start := true }).setPf n pfMOVE

/-! ### Events of the state table (R280) -/
/-- The crew leaves RUN. -/
def State.profLeaveRun (s : State) (n : Nat) : State :=
  if s.pf n = pfOFF then s
  else
    let s := if s.bit (F.PROF_PSTAT_BRKOUT n) then s else s.raise (F.PROF_EVT_BRKSET n)
    let s := s.setBrake n true
    let r := s.prof n
    let s := s.setProf n { r with
      s := 0, v := 0, stop := false, haltq := false, keep := false, start := false, crashPend := false, frzRender := false
      t0 := if r.s = 0 then r.t0 else s.now }
    let s := s.profNoGoal n
    let s := s.wr (R.PROF_VEL n) 0
    let s := (s.putB (F.PROF_PSTAT_OVS n) false).putB (F.PROF_PSTAT_APPR n) false
    let s := s.putB (F.PROF_PSTAT_CRASH n) false
    (s.setHoldk n fone).setPf n pfOFF

/-- The crew enters RUN. -/
def State.profEnterRun (s : State) (n : Nat) : State :=
  if s.pf n ≠ pfOFF then s
  else if s.get (F.PROF_BRK_OUT n) ≠ 0 then (s.setHoldk n 0).setPf n pfBRAKED
  else (s.setHoldk n fone).setPf n pfSTILL

/-- Guard states as G_STAT.STATE codes them (R257). -/
abbrev gOFF : Nat := 0
abbrev gARMED : Nat := 1
abbrev gHOLD : Nat := 2
abbrev gCOOL : Nat := 3
abbrev gRENDER : Nat := 4
abbrev gTRIPPED : Nat := 5

def State.guardSt (s : State) (n : Nat) : Nat := s.get (F.CREW_G_STAT_STATE n)

/-- The guard enters RENDER (R280): FOLLOW, or PAYOUT starts with the brake set. -/
def profRender (n : Nat) (s : State) : State :=
  let clear (s : State) : State := (s.setProf n { s.prof n with payout := 0 }).wr (R.PROF_PAYOUT n) 0
  let follow (s : State) : State := (clear (s.setHoldk n fone)).setPf n pfFOLLOW
  let st := s.pf n
  if st = pfMOVE || st = pfSTILL || st = pfREDUCED || st = pfDWELL then follow s
  else if st = pfBSET || st = pfTREL || st = pfBRAKED then clear s
  else if st = pfBOPEN then (if s.bit (F.PROF_PSTAT_BRKOUT n) then s else follow s)
  else if st = pfFROZEN then s.setProf n { s.prof n with frzRender := true }
  else s

/-- FOLLOW ends: the unit goes on from the measured speed (R280, R282). -/
def State.followEnd (s : State) (n : Nat) (halt : Bool) : State :=
  let s := s.raise (F.PROF_EVT_FOLLOWEND n)
  let r := s.prof n
  let sp := min r.meas.natAbs (s.get (F.PROF_VMAX_V n))
  let s := s.setProf n { r with s := sp * 2 ^ 22, neg := r.meas < 0, start := sp == 0, haltq := r.haltq || halt }
  if halt then (s.freezeRef n).setPf n pfMOVE
  else if sp = 0 then (if (s.motionReq n).isSome then s.profGo n else s.setPf n pfSTILL)
  else s.setPf n pfMOVE

/-- The guard leaves RENDER (R280): FOLLOW ends; a held TPRE restarts. -/
def profRenderEnd (n : Nat) (s : State) : State :=
  let st := s.pf n
  if st = pfFOLLOW then s.followEnd n false
  else if st = pfBOPEN && s.bit (F.PROF_PSTAT_BRKOUT n) then s.setProf n { s.prof n with since := s.now }
  else s

/-- The owning pair is fenced (R281). -/
def profFreeze (n : Nat) (s : State) : State :=
  let st := s.pf n
  if st = pfOFF || st = pfFROZEN then s
  else (s.setProf n { s.prof n with frozen := st, frzRender := false }).put (F.PROF_PSTAT_STATE n) pfFROZEN

/-- EMG pin i is asserted and maps to `act` for the crew (R259). -/
def State.emgAct (s : State) (n act : Nat) : Bool :=
  (s.emg0.on && s.get (F.CREW_EMG_A0 n) == act) || (s.emg1.on && s.get (F.CREW_EMG_A1 n) == act)

/-- A crash stop begins or ends (R283). It neither starts under the SS1 notice nor outside RUN. -/
def State.crashCheck (s : State) (n : Nat) : State :=
  let on := s.emgAct n 3
  if s.pfCrash n then (if on then s else s.putB (F.PROF_PSTAT_CRASH n) false)
  else if on && s.get (F.CREW_STAT_STATE n) = 3 && !s.noticeUp n && s.pf n ≠ pfOFF then
    if s.pf n = pfFROZEN then s.setProf n { s.prof n with crashPend := true }
    else
      let r := s.prof n
      let dirNeg := if r.s = 0 then s.bit (F.PROF_PSTAT_LASTDIR n) else r.neg
      let v : Int := (s.get (F.PROF_CRVEL_V n) : Nat)
      let s := s.fault 0x0620 n
      let s := s.putB (F.PROF_PSTAT_CRASH n) true
      let s := s.put (F.PROF_CTL_MODE n) 1
      let s := s.wr (R.PROF_VTGT n) (BitVec.ofInt 32 (if dirNeg then v else -v))
      s.setProf n { s.prof n with crashPend := false }
  else s

/-- The SS1 notice (R309, R280, R283): acted on once as it rises. -/
def State.noticeTick (s : State) (n : Nat) : State :=
  let up := s.noticeUp n
  let r := s.prof n
  if !up then (if r.notice then s.setProf n { r with notice := false } else s)
  else if r.notice || s.get (F.CREW_STAT_STATE n) ≠ 3 || s.pf n = pfFROZEN || s.pf n = pfOFF then s
  else
    let s := s.setProf n { r with notice := true }
    let s := if s.pfCrash n then (s.putB (F.PROF_PSTAT_CRASH n) false).wr (R.PROF_VTGT n) 0 else s
    if s.pf n = pfFOLLOW then s.followEnd n true
    else (s.setProf n { s.prof n with haltq := true, keep := false }).freezeRef n

/-- The crew's catch task resumes (R280, R281): the unit goes on from the state before the freeze. The standstill delay of
STILL starts again; a notice still raised ends FOLLOW at once. -/
def profResume (n : Nat) (s : State) : State :=
  if s.pf n ≠ pfFROZEN then s
  else
    let r := s.prof n
    let s := (s.setProf n { r with frzRender := false, since := if r.frozen = pfSTILL then s.now else r.since }).put
      (F.PROF_PSTAT_STATE n) r.frozen
    let s := if r.frozen = pfFOLLOW then s.noticeTick n else s
    let s := if s.pf n ≠ r.frozen then s
      else if r.frzRender && s.guardSt n = gRENDER then profRender n s
      else if r.frozen = pfFOLLOW && s.guardSt n ≠ gRENDER then s.followEnd n false
      else s
    if r.crashPend then s.crashCheck n else s

/-! ### The snatch guard (R257, R258) -/
/-- Leaves RENDER: REN clears, and the profile is told. -/
def State.guardUnrender (s : State) (n : Nat) : State :=
  if s.guardSt n = gRENDER then (s.putB (F.CREW_LSTAT_REN n) false) else s

/-- The guard enters ARMED; late register writes take effect (R263), a request line falls (R258). -/
def State.guardArm (s : State) (n : Nat) : State :=
  let was := s.guardSt n
  let s := s.guardUnrender n
  let g := (s.crew n).guard
  let s := loopL g.late (fun w s => s.wr w.1 w.2) s
  let s := s.setCrew n { s.crew n with guard := { g with late := [], since := none } }
  let s := s.putB (F.CREW_G_STAT_SS1REQ n) false
  let s := s.setBitAt F.SAFETY_GREQ_REQ n false
  let s := s.put (F.CREW_G_STAT_STATE n) gARMED
  if was = gRENDER then profRenderEnd n s else s

/-- Enters TRIPPED: the SS1 request line is driven (R258). -/
def State.guardTrip (s : State) (n : Nat) : State :=
  let was := s.guardSt n
  let s := s.guardUnrender n
  let s := (s.putB (F.CREW_G_STAT_SS1REQ n) true).raise (F.CREW_G_EVT_TRIP n)
  let s := s.setBitAt F.SAFETY_GREQ_REQ n true
  let s := (s.fault 0x0512 n).put (F.CREW_G_STAT_STATE n) gTRIPPED
  if was = gRENDER then profRenderEnd n s else s

/-- Enters RENDER, by an EMG pin or by a detection. -/
def State.guardRender (s : State) (n : Nat) (emg : Bool) : State :=
  let g := (s.crew n).guard
  let s := s.setCrew n { s.crew n with guard := { g with b0 := s.rd (R.CREW_G_BASE n), byEmg := emg, t0 := s.now, since := none } }
  let s := s.fault (if emg then 0x0531 else 0x0511) n
  let s := if emg then s.putB (F.CREW_LSTAT_REN n) true else s
  profRender n (s.put (F.CREW_G_STAT_STATE n) gRENDER)

/-- Leaves RENDER on recovery or because the crew left RUN: base := b0. -/
def State.guardBack (s : State) (n : Nat) : State := (s.wr (R.CREW_G_BASE n) (s.crew n).guard.b0).guardArm n

/-- The crew leaves RUN. -/
def State.guardLeaveRun (s : State) (n : Nat) : State :=
  if s.guardSt n = gHOLD then s.guardArm n
  else if s.guardSt n = gRENDER then s.guardBack n
  else s

/-- The count of the low-speed time of a fallen-back crew in RUN starts, goes on or ends (R261). -/
def slessTrack (n : Nat) (s : State) : State :=
  let low := s.bit (F.CREW_LSTAT_SLESS n) && s.get (F.CREW_STAT_STATE n) == 3 &&
    (s.rd (R.CREW_SPD n)).toInt.natAbs < s.get (F.CREW_SLESS_VMIN n) * 256
  s.setCrew n { s.crew n with slowAt := if low then some ((s.crew n).slowAt.getD s.now) else none }

/-! ### What the crew state tells both -/
/-- The crew's state has changed: the profile unit and the guard follow (R280, R257). -/
def profCrewState (n : Nat) (s : State) : State :=
  let s := slessTrack n s
  if s.get (F.CREW_STAT_STATE n) = 3 then s.profEnterRun n
  else (s.profLeaveRun n).guardLeaveRun n

/-- A fault stop tells the profile unit (R140). -/
def profFaultStop (n : Nat) (s : State) : State := profCrewState n s

end Sys2Proof.Machine
end

