-- ==== Sys2Proof/Machine/ModOps.lean ====
section
/-! DEFINITION. Machine/ModOps.lean: what the modulator's and the gate link's commands share: crew placement, the port
queue (R204 to R208), edge decisions (R159 to R161), crew fault stop (R140) and set loss (R168). -/
namespace Sys2Proof.Machine

/-! ### Crew placement (R133 to R137) -/
def State.crewKind (s : State) (n : Nat) : Nat := s.get (F.CREW_CFG_KIND n)
def State.crewState (s : State) (n : Nat) : Nat := s.get (F.CREW_STAT_STATE n)
def State.crewM (s : State) (n : Nat) : Nat := s.get (F.CREW_CFG_M n)

/-- Crew states as STAT.STATE codes them (R138). -/
abbrev cUNUSED : Nat := 0
abbrev cIDLE : Nat := 1
abbrev cARMED : Nat := 2
abbrev cRUN : Nat := 3
abbrev cFSTOP : Nat := 4
abbrev cSAFE : Nat := 5

/-- Legs per set by kind (R133). -/
def kindLegs (kind : Nat) : Nat :=
  match kind with
  | 1 => 3 | 2 => 6 | 3 => 2 | 4 => 4 | 5 => 1
  | _ => 0

/-- Tile number in field h of CREW.TILE (R134). -/
def tileField (tile h : Nat) : Nat := tile / 2 ^ (4 * h) % 16

/-- First position of set j in CREW.POSN (R134). -/
def posnField (posn j : Nat) : Nat := posn / 2 ^ (2 * j) % 4

/-- The leg of phase k of set j, from the words of a crew's configuration (R133, R137). -/
def placeLeg (kind tile posn j k : Nat) : Nat :=
  match kind with
  | 1 => 4 * tileField tile j + k
  | 2 => if k < 3 then 4 * tileField tile (2 * j) + k else 4 * tileField tile (2 * j + 1) + (k - 3)
  | 3 => 4 * tileField tile j + (posnField posn j + k) % 4
  | 4 => 4 * tileField tile 0 + k
  | _ => 4 * tileField tile 0 + posnField posn 0

def State.crewLeg (s : State) (n j k : Nat) : Nat :=
  placeLeg (s.crewKind n) (s.rd (R.CREW_TILE n)).toNat (s.rd (R.CREW_POSN n)).toNat j k

/-- The legs of a set, phase by phase. -/
def State.setLegs (s : State) (n j : Nat) : List Nat :=
  (List.range (kindLegs (s.crewKind n))).map (s.crewLeg n j)

def State.crewLegs (s : State) (n : Nat) : List Nat :=
  (List.range (s.crewM n)).flatMap (s.setLegs n)

/-- The tiles of a set. -/
def State.setTiles (s : State) (n j : Nat) : List Nat := ((s.setLegs n j).map (· / 4)).eraseDups

/-- The crew that owns a leg. -/
def State.legCrew (s : State) (x : Nat) : Option Nat :=
  let o := s.get (F.LEG_CTL_OWNER x)
  if o < 32 then some o else none

/-- Set and phase of a leg in its crew. -/
def State.legSet (s : State) (n x : Nat) : Option (Nat × Nat) :=
  ((List.range (s.crewM n)).flatMap (fun j =>
    (List.range (kindLegs (s.crewKind n))).map (fun k => (j, k)))).find? (fun p => s.crewLeg n p.1 p.2 == x)

def State.setActive (s : State) (n j : Nat) : Bool := s.bitAt (F.CREW_STAT_SETS n) j

/-- The sets of a crew that are active. -/
def State.activeSets (s : State) (n : Nat) : List Nat := (List.range 8).filter (s.setActive n)

/-! ### The port queue (R204 to R208) -/
/-- Port states as YILOS.STAT.STATE codes them (R218). -/
abbrev lOFF : Nat := 0
abbrev lSYNC : Nat := 1
abbrev lCAP : Nat := 2
abbrev lDELAY : Nat := 3
abbrev lVER : Nat := 4
abbrev lUP : Nat := 5
abbrev lLOST : Nat := 6
abbrev lFAILED : Nat := 7
abbrev lPARK : Nat := 8

def State.linkState (s : State) (k : Nat) : Nat := s.get (F.YILOS_STAT_STATE k)

/-- 0 group-off, 1 off, 2 on: the order at equal deadlines (R205). -/
def EvKind.rank : EvKind → Nat
  | .groupOff _ => 0
  | .switch _ false => 1
  | .switch _ true => 2

def EvKind.num : EvKind → Nat
  | .groupOff _ => 0
  | .switch s _ => s

def EvKind.isGroup : EvKind → Bool
  | .groupOff _ => true
  | _ => false

/-- The order in which the scheduler takes events (R205). A deadline is the last slot multiple of 80 at or before
t_d + 288 counts (R191). -/
def LinkEv.deadline (e : LinkEv) : Nat := (e.td + 288) / 80 * 80

def LinkEv.before (a b : LinkEv) : Bool :=
  a.deadline < b.deadline || (a.deadline == b.deadline &&
    (a.kind.rank < b.kind.rank || (a.kind.rank == b.kind.rank && a.kind.num < b.kind.num)))

/-- Insertion by the scheduler's order. -/
def evInsert (e : LinkEv) : List LinkEv → List LinkEv
  | [] => [e]
  | x :: r => if x.before e then x :: evInsert e r else e :: x :: r

def evSort (l : List LinkEv) : List LinkEv := l.foldr evInsert []

/-- Is applied before: the earlier instant first, then group-off, off, on (R221). `td` is the apply instant here. -/
def LinkEv.sooner (a b : LinkEv) : Bool :=
  a.td < b.td || (a.td == b.td && (a.kind.rank < b.kind.rank || (a.kind.rank == b.kind.rank && a.kind.num < b.kind.num)))

def apInsert (e : LinkEv) : List LinkEv → List LinkEv
  | [] => [e]
  | x :: r => if e.sooner x then e :: x :: r else x :: apInsert e r

/-- The order in which events are applied (R221). -/
def apSort (l : List LinkEv) : List LinkEv := l.foldl (fun l e => apInsert e l) []

/-- Takes up to `cap` events that frame S may carry, at most one group-off; answers them and the rest (R205). An off-edge whose
last eligible frame is past goes into the next frame with a place (DESIGN CHOICE, assumption log 78). -/
def takeEvents (S : Nat) : Nat → Bool → List LinkEv → List LinkEv × List LinkEv
  | _, _, [] => ([], [])
  | cap, grp, e :: r =>
    let ok := cap > 0 && e.td + 33 ≤ S && !(grp && e.kind.isGroup)
    if ok then
      let (t, u) := takeEvents S (cap - 1) (grp || e.kind.isGroup) r
      (e :: t, u)
    else
      let (t, u) := takeEvents S cap grp r
      (t, e :: u)

/-- Events frame number `f` may carry: none in a state frame, one before it, two otherwise (R195). -/
def frameCap (f : Nat) : Nat := if f % 32 = 31 then 0 else if f % 32 = 30 then 1 else 2

/-- The events a frame takes, in slot order. The frame before a state frame takes a group-off or one switch event. -/
def frameTake (f S : Nat) (q : List LinkEv) : List LinkEv × List LinkEv := takeEvents S (frameCap f) false (evSort q)

/-- Can every event be placed by its last eligible frame (R206)? `n` frames are tried from frame f in slot S. -/
def feasible : Nat → Nat → Nat → List LinkEv → Bool
  | 0, _, _, q => q.isEmpty
  | n + 1, f, S, q =>
    let (_, rest) := frameTake f S q
    if rest.any (fun e => e.deadline ≤ S) then false
    else if rest.isEmpty then true
    else feasible n (f + 1) (S + 80) rest

/-- The next frame of the port whose contents are not fixed: number and slot count. -/
def State.nextFrame (s : State) (k : Nat) : Nat × Nat := ((s.link k).next, (s.link k).s0 + 80 * (s.link k).next)

def State.queueFeasible (s : State) (k : Nat) (q : List LinkEv) : Bool :=
  let (f, S) := s.nextFrame k
  feasible 40 f S q

def State.setQueue (s : State) (k : Nat) (q : List LinkEv) : State :=
  let s := s.setLink k { s.link k with queue := q }
  let s := s.put (F.YILOS_QSTAT_QN k) q.length
  s.put (F.YILOS_QSTAT_QMAX k) (max (s.get (F.YILOS_QSTAT_QMAX k)) q.length)

/-- Sets the commanded level of a switch: LEG.LVL.HS or LS. -/
def State.setLvl (s : State) (x : Nat) (hs level : Bool) : State :=
  s.putB (if hs then F.LEG_LVL_HS x else F.LEG_LVL_LS x) level

def State.getLvl (s : State) (x : Nat) (hs : Bool) : Bool :=
  s.bit (if hs then F.LEG_LVL_HS x else F.LEG_LVL_LS x)

/-- The switch of tile switch number w on port k: leg and side. -/
def switchLeg (k w : Nat) : Nat × Bool := (4 * k + w / 2, w % 2 == 1)

/-- Effects of withdrawing an on-edge decided at td (R206): the switch's level is off; a fault latch waits for the next
on-edge again (R229). -/
def State.withdrawn (s : State) (k w td : Nat) (count : Bool) : State :=
  let (x, hs) := switchLeg k w
  let s := s.setLvl x hs false
  let l := s.link k
  let swf := match mget .idle l.swf w with
    | .armed on none => if on = td + 480 then mset .idle l.swf w .seen else l.swf
    | _ => l.swf
  let s := s.setLink k { l with adm := natBit l.adm w false, swf := swf }
  if count then (s.incSat (F.YILOS_WDRAWCNT_COUNT k)).raise (F.YILOS_EVT_WDRAW k) else s

/-- The pending on-edge with the latest deadline. -/
def latestOn (q : List LinkEv) : Option LinkEv :=
  (q.filter (fun e => e.kind.rank == 2)).foldl (fun m e =>
    match m with
    | none => some e
    | some b => if b.deadline ≤ e.deadline then some e else some b) none

/-- Withdraws pending on-edges, latest deadline first, until `ok` holds of the queue (R205, R206). -/
def State.relieve (ok : State → List LinkEv → Bool) (k : Nat) : Nat → State → State
  | 0, s => s
  | n + 1, s =>
    let q := (s.link k).queue
    if ok s q then s
    else match latestOn q with
      | none => s
      | some e => State.relieve ok k n ((s.setQueue k (q.filter (fun x => x != e))).withdrawn k e.kind.num e.td true)

/-- An off-edge or group-off joins the queue; off-edges of several legs decided at one count merge (R204). -/
def mergeOff (td w : Nat) (q : List LinkEv) : List LinkEv :=
  let same (e : LinkEv) : Bool := e.td == td && e.kind.rank < 2
  match q.find? same with
  | some e =>
    let m := match e.kind with
      | .groupOff m => m
      | .switch v _ => 2 ^ (v / 2)
    q.map (fun x => if x == e then { x with kind := .groupOff (natBit m (w / 2) true) } else x)
  | none => q ++ [{ td := td, kind := .switch w false }]

/-- One decided edge of switch w of port k becomes an event, or none (R204 to R206). -/
def State.evAdmit (s : State) (k w : Nat) (level : Bool) : State :=
  let l := s.link k
  if s.linkState k ≠ lUP then
    if level then s.withdrawn k w s.tb false else s
  else if l.adm.testBit w = level then s
  else if level then
    let q := l.queue ++ [{ td := s.tb, kind := .switch w true }]
    if l.queue.length ≥ 32 || !s.queueFeasible k q then s.withdrawn k w s.tb true
    else (s.setLink k { l with adm := natBit l.adm w true }).setQueue k q
  else
    let s := s.relieve (fun _ q => q.length < 32) k 32
    let s := s.setLink k { s.link k with adm := natBit (s.link k).adm w false }
    let s := s.setQueue k (mergeOff s.tb w (s.link k).queue)
    s.relieve (fun s q => s.queueFeasible k q) k 32

/-! ### The port's state (R218) -/
/-- A stage of the port begins. -/
def State.stage (s : State) (k st : Nat) : State :=
  (s.setLink k { s.link k with stAt := s.tb }).put (F.YILOS_STAT_STATE k) st

/-- The port stops: link registers of a link that is down; its downlink is idle. -/
def State.linkDown (s : State) (k st : Nat) : State :=
  let l := s.link k
  let s := s.setLink k { swf := l.swf, dtMin := l.dtMin, s0 := l.s0, frame := l.frame, upNum := l.upNum, diag := l.diag }
  let s := (s.put (F.YILOS_QSTAT_QN k) 0).put (F.YILOS_MSTAT_QN k) 0
  let s := s.put (F.YILOS_LVL_CMD k) 0
  let s := s.put (F.YILOS_STAT_VER k) 0
  let s := s.putB (F.SINC_TILE_VDC_VALID k) false
  -- no result of the tile's streams is valid (R237)
  let s := loopN 4 (fun p s => s.putB (F.SINC_LEG_CRES_VALID (4 * k + p)) false) s
  -- the modulator's level of every switch of the tile is off
  let s := loopN 4 (fun p s => (s.setLvl (4 * k + p) true false).setLvl (4 * k + p) false false) s
  s.stage k st

/-- The port may train: EN, PD8 on, the port claimed (R136, R218). -/
def State.portReady (s : State) (k : Nat) : Bool :=
  s.bit (F.YILOS_CTL_EN k) && s.domainRun 8 && s.ownerOf (0x2000 + k) != 0

/-- Starts training from SYNC. -/
def State.startTraining (s : State) (k : Nat) : State := s.linkDown k lSYNC

/-- The ports in OFF whose conditions hold start training (R218). -/
def State.trainPorts (s : State) : State :=
  loopN 16 (fun k s => if s.linkState k = lOFF && s.portReady k then s.startTraining k else s) s

/-! ### Edges and dead time (R159 to R161) -/
/-- DT in force: the value before a write until the next valley (R159). -/
def State.dtWord (s : State) (x : Nat) : Nat :=
  ((s.leg x).dtAct.getD (s.rd (R.LEG_DT x))).toNat
def State.dtLH (s : State) (x : Nat) : Nat := bitsOf (s.dtWord x) 9 0
def State.dtHL (s : State) (x : Nat) : Nat := bitsOf (s.dtWord x) 25 16

/-- On-edges of switch w wait for classification (R229). -/
def State.noteEdge (s : State) (x : Nat) (hs level : Bool) : State :=
  let k := x / 4
  let w := 2 * (x % 4) + hs.toNat
  let l := s.link k
  let st := mget .idle l.swf w
  let st' : SwfStage := match st, level with
    | .seen, true => .armed (s.tb + 480) none
    | .armed on none, false => .armed on (some (s.tb + 480))
    | t, _ => t
  s.setLink k { l with swf := mset .idle l.swf w st' }

/-- Decides an edge of a switch: the level, the edge counter, its instant and the link event. -/
def State.edge (s : State) (x : Nat) (hs level : Bool) : State :=
  if s.getLvl x hs = level then s
  else
    let s := s.setLvl x hs level
    let s := s.incWrap (F.LEG_EDGECNT_COUNT x)
    let s := s.setLeg x (match hs, level with
      | true, true => { s.leg x with hsOn := s.tb }
      | true, false => { s.leg x with hsOff := s.tb }
      | false, true => s.leg x
      | false, false => { s.leg x with lsOff := s.tb })
    let s := s.noteEdge x hs level
    s.evAdmit (x / 4) (2 * (x % 4) + hs.toNat) level

/-- STO is asserted on the group of the leg's crew: no on-edge is decided (R142). -/
def State.legSto (s : State) (x : Nat) : Bool :=
  match s.legCrew x with
  | some n => s.crewState n == cSAFE || (match s.crewGroup n with
      | some g => s.groupSto g
      | none => false)
  | none => false

/-- The dead time before an on-edge of a side. -/
def State.deadTime (s : State) (x : Nat) (hs : Bool) : Nat := if hs then s.dtLH x else s.dtHL x

/-- The dead time after the other side's last off-edge ends here; 0 where that side has had no edge (R161). -/
def State.freeAt (s : State) (x : Nat) (hs : Bool) : Nat :=
  let t := if hs then (s.leg x).lsOff else (s.leg x).hsOff
  if t = 0 then 0 else t + s.deadTime x hs

/-- An on-edge may be decided now: the partner is off, its dead time is over, and nothing blocks the leg (R142, R161,
R162, R562). -/
def State.mayOn (s : State) (x : Nat) (hs : Bool) : Bool :=
  !s.getLvl x (!hs) && !s.legSto x && !s.bit (F.LEG_LVL_LASTING x) && !s.bit (F.LEG_LVL_LOCK x) && decide (s.freeAt x hs ≤ s.tb)

/-- Both switches off; a pending on-edge is dropped. -/
def State.legOff (s : State) (x : Nat) : State :=
  let s := s.setLeg x { s.leg x with pendOn := none, want := none, refresh := false }
  let s := s.putB (F.LEG_LVL_DTW x) false
  (s.edge x true false).edge x false false

/-- An on-interval is too short to be produced: the switch stays off for it (R160). -/
def State.dropPulse (s : State) (x : Nat) : State := (s.incSat (F.LEG_PDROPCNT_COUNT x)).raise (F.LEG_EVT_PDROP x)

/-- The on-edge of a side is to be decided at `tb` = due: now, or when DEAD_TIME_EXPIRY comes. -/
def State.onAt (s : State) (x : Nat) (hs : Bool) (due : Nat) : State :=
  if due ≤ s.tb then
    let s := s.putB (F.LEG_LVL_DTW x) false
    if s.mayOn x hs then s.edge x hs true else s
  else (s.setLeg x { s.leg x with pendOn := some hs, pendAt := due }).putB (F.LEG_LVL_DTW x) true

/-- Commands a leg to a level (R159): the other side's off-edge now; this side's on-edge the dead time after a change from the
other level, and otherwise as soon as R161 lets it. An on-interval that is planned to end at `tb` = `fin` and is shorter than
MINPW then is not produced (R160). -/
def State.legTo (s : State) (x : Nat) (hs : Bool) (fin : Option Nat) : State :=
  if s.bit (F.LEG_LVL_LASTING x) then s
  else
    let chg := (s.leg x).want == some (!hs) || s.getLvl x (!hs)
    let s := s.setLeg x { s.leg x with want := some hs, pendOn := none, refresh := false }
    let s := s.edge x (!hs) false
    let due := max (s.tb + (if chg then s.deadTime x hs else 0)) (s.freeAt x hs)
    let short := match fin with
      | some t => decide (t < due + s.get (F.LEG_MINPW_PW x))
      | none => false
    if s.getLvl x hs then s.putB (F.LEG_LVL_DTW x) false
    else if short then (s.dropPulse x).putB (F.LEG_LVL_DTW x) false
    else s.onAt x hs due

/-- FSMODE 1 (R140): the high side off, the low side on after DT_HL; a leg in MODE 2 stays off (R162). -/
def State.legShort (s : State) (x : Nat) : State :=
  if s.get (F.LEG_CTL_MODE x) = 2 then s.legOff x
  else if s.bit (F.LEG_LVL_LASTING x) || s.getLvl x false then s
  else
    let s := s.legOff x
    (s.setLeg x { s.leg x with want := some false }).onAt x false (s.tb + s.dtHL x)

/-! ### Crew fault stop and STO -/
/-- Every switch of the crew off. -/
def State.crewOff (s : State) (n : Nat) : State := loopL (s.crewLegs n) (fun x s => s.legOff x) s

/-- Crews of a tandem group with EN = 1 (R175). -/
def State.tandemCrews (s : State) (n : Nat) : List Nat :=
  (List.range 32).filter (fun m => s.bit (F.CREW_TANDEM_EN m) && s.get (F.CREW_TANDEM_GROUP m) == s.get (F.CREW_TANDEM_GROUP n))

/-- MOD.STAT.NRUN and MOD.TBUSE follow the crews' states (R182). -/
def State.modCounts (s : State) : State :=
  let run := ((List.range 32).filter (fun m => s.crewState m == cRUN)).length
  let use := (List.range 32).foldl (fun u m =>
    if s.crewState m == cRUN || s.crewState m == cARMED then natBit u (s.get (F.CREW_TBL_TABLE m)) true else u) 0
  let s := (s.put F.MOD_STAT_NRUN run).put F.MOD_TBUSE_USE use
  -- READY and RUN follow the crews (R457)
  let pw := s.get F.AON_PWRSTAT_STATE
  if pw = 2 && run > 0 then s.put F.AON_PWRSTAT_STATE 3
  else if pw = 3 && run = 0 then { s with idleAt := s.now }.put F.AON_PWRSTAT_STATE 2
  else s

/-- A crew's state; entering ARMED restarts the idle time (R457). -/
def State.setCrewState (s : State) (n st : Nat) : State :=
  let s := if st = cARMED then { s with idleAt := s.now } else s
  (s.put (F.CREW_STAT_STATE n) st).modCounts

/-- Fault stop of one crew (R138, R140), without the tandem rule; `inst` is the leg or tile of the cause. -/
def State.faultStopOne (s : State) (n cause : Nat) (inst : Nat := 0) : State :=
  let st := s.crewState n
  let c := (cause, inst)
  if st = cIDLE || st = cARMED || st = cRUN then
    let s := s.putB (F.CREW_STAT_FLT n) true
    let s := s.put (F.CREW_FCAUSE_CODE n) cause
    let s := s.raise (F.CREW_EVT_FSTOP n)
    let s := s.fault 0x0305 n
    let s := s.setCrew n { s.crew n with fstopPend := true, causes := [c], runSets := 0, stopSets := 0, rejoin := [] }
    let s := s.setCrewState n cFSTOP
    let s := profFaultStop n s
    s.endLane (n + 1) 0x52
  else if st = cFSTOP then
    s.setCrew n { s.crew n with causes := if (s.crew n).causes.contains c then (s.crew n).causes else (s.crew n).causes ++ [c] }
  else s

/-- The lowest-numbered follower in RUN becomes acting leader at its next catch (R178). -/
def State.nextLead (s : State) (n : Nat) : State :=
  match (s.tandemCrews n).filter (fun m => m != n && s.crewState m == cRUN) with
  | m :: _ => s.setCrew m { s.crew m with leadPend := true }
  | [] => s

/-- What the loss of the acting leader causes (R178); a successor that is lost before its catch passes its place on. -/
def State.leadLoss (s : State) (n : Nat) : State :=
  if (s.crew n).leadPend then (s.setCrew n { s.crew n with leadPend := false }).nextLead n
  else if s.bit (F.CREW_TANDEM_EN n) && s.bit (F.CREW_STAT_LEAD n) then
    let s := s.fault 0x030E n
    let fol := (s.tandemCrews n).filter (fun m => m != n && s.crewState m == cRUN)
    if s.bit (F.CREW_TANDEM_LEADLOSS n) then s.nextLead n
    else loopL fol (fun m s => s.faultStopOne m 0x030E) s
  else s

/-- Crew fault stop (R140). -/
def State.faultStop (s : State) (n cause : Nat) (inst : Nat := 0) : State :=
  let was := s.crewState n
  let s := s.faultStopOne n cause inst
  if was = cRUN then s.leadLoss n else s

/-- A cause of fault stop that can come while the crew is UNUSED acts when its carriers start (R80, R559). -/
def State.faultStopAny (s : State) (n cause : Nat) : State :=
  if s.crewState n = cUNUSED then s.setCrew n { s.crew n with wakeStop := some cause } else s.faultStop n cause

/-- STO asserted on the crew's group (R138): all switches off, the lane's orders end STOPPED_SAFETY (R345). -/
def State.crewSafe (s : State) (n : Nat) : State :=
  let was := s.crewState n
  if was = cUNUSED || was = cSAFE then s
  else
    let s := if was = cARMED || was = cRUN then s.crewOff n else s
    let s := s.setCrew n { s.crew n with runSets := 0, stopSets := 0, rejoin := [] }
    let s := s.setCrewState n cSAFE
    let s := profCrewState n s
    let s := s.endLane (n + 1) 0x51
    if was = cRUN then s.leadLoss n else s

/-! ### Set loss (R167 to R169) -/
/-- DRATE := MACT / m (R169). -/
def State.setRate (s : State) (n : Nat) : State :=
  s.wr (R.CREW_DRATE n) (fdiv (fOfInt (s.get (F.CREW_STAT_MACT n))) (fOfInt (s.crewM n))).1

/-- A set is eligible to rejoin: its links are UP and none of its legs is blocked (R561). -/
def State.setEligible (s : State) (n j : Nat) : Bool :=
  (s.setTiles n j).all (fun k => s.linkState k == lUP) && (s.setLegs n j).all (fun x => !s.bit (F.LEG_LVL_LASTING x))

/-- Set j is active again, with all trims 0 (R170). -/
def State.setJoin (s : State) (n j : Nat) : State :=
  let lp := kindLegs (s.crewKind n)
  let s := s.setBitAt (F.CREW_STAT_SETS n) j true
  let s := (s.put (F.CREW_STAT_MACT n) (popCount 8 (s.get (F.CREW_STAT_SETS n)))).setRate n
  (loopN lp (fun k s => s.wr (R.CREW_TRIM n (j * lp + k)) 0) s).raise (F.CREW_EVT_SETJOIN n)

/-- Set j of crew n fails (R168). -/
def State.setFail (s : State) (n j : Nat) : State :=
  if s.crewState n = cUNUSED || !s.setActive n j then s
  else
    let s := s.setBitAt (F.CREW_STAT_SETS n) j false
    let s := s.put (F.CREW_STAT_MACT n) (popCount 8 (s.get (F.CREW_STAT_SETS n)))
    let s := s.setRate n
    let s := s.raise (F.CREW_EVT_SETDROP n)
    let s := s.fault 0x0303 n
    let c := s.crew n
    let s := s.setCrew n { c with
      dropSets := natBit c.dropSets j true, runSets := natBit c.runSets j false
      trimClear := natBit c.trimClear j true, rejoin := c.rejoin.filter (fun p => p.1 != j) }
    let derate := s.bit (F.CREW_CFG_DERATE n)
    if derate && s.get (F.CREW_CFG_MMIN n) ≤ s.get (F.CREW_STAT_MACT n) && s.crewM n ≠ 1 then s
    else if derate then (s.fault 0x0304 n).faultStop n 0x0304
    else s.faultStop n 0x0303

/-- Every set with a leg on tile k fails. -/
def State.tileSetsFail (s : State) (k : Nat) : State :=
  loopN 32 (fun n s => loopN (s.crewM n) (fun j s =>
    if (s.setTiles n j).contains k then s.setFail n j else s) s) s

/-- The set of leg x fails. -/
def State.legSetFails (s : State) (x : Nat) : State :=
  match s.legCrew x with
  | some n => match s.legSet n x with
    | some (j, _) => s.setFail n j
    | none => s
  | none => s

/-- LVL.LASTING of a leg is set: the next tick decides its off-edges and the leg is blocked (R562). -/
def State.legLasting (s : State) (x : Nat) : State :=
  (s.putB (F.LEG_LVL_LASTING x) true).setLeg x { s.leg x with lastPend := true, pendOn := none }

end Sys2Proof.Machine
end

