-- ==== Sys2Proof/Machine/Engine.lean ====
section
/-! DEFINITION. Machine/Engine.lean: Stroke engine pairs, tasks and activations, checkpoints and takeover: the operations
they share (R42 to R81). -/
namespace Sys2Proof.Machine

/-! ### Pairs -/
/-- Pair states as PAIR_STAT.KEPT codes them (R81). -/
abbrev pOFF : Nat := 0
abbrev pACTIVE : Nat := 2
abbrev pSPARE : Nat := 3
abbrev pHOST : Nat := 4
abbrev pFENCED : Nat := 5
abbrev pTEST : Nat := 6
abbrev pFAILED : Nat := 7

def State.pairSt (s : State) (p : Nat) : Nat := s.get (F.SE_PAIR_STAT_KEPT p)
def State.homeOf (s : State) (p : Nat) : Nat := s.get (F.SE_PAIR_STAT_HOME p)
def pairDomain (p : Nat) : Nat := 9 + p / 3

/-- PAIR_STAT.STATE shows the kept state while the domain is on, else RET or OFF; SE.SPARE shows the lowest spare. -/
def State.showPairs (s : State) : State :=
  let s := loopN 9 (fun p s =>
    let d := pairDomain p
    s.put (F.SE_PAIR_STAT_STATE p)
      (if s.domOn.testBit d then s.pairSt p else if s.domRet.testBit d then 1 else 0)) s
  match (List.range 9).find? (fun p => s.pairSt p == pSPARE) with
  | some p => (s.put F.SE_SPARE_PAIR p).putB F.SE_SPARE_AVAIL true
  | none => s.putB F.SE_SPARE_AVAIL false

def State.setPairSt (s : State) (p st : Nat) : State := (s.put (F.SE_PAIR_STAT_KEPT p) st).showPairs

/-- The pair executes instructions: ACTIVE or HOST, its domain on, its memories built. -/
def State.pairRuns (s : State) (p : Nat) : Bool :=
  let r := s.pair p
  (s.pairSt p == pACTIVE || s.pairSt p == pHOST) && s.domainRun (pairDomain p) && !r.restoring && !r.reloading

/-- The pair that runs a home pair's tasks. -/
def State.execPair (s : State) (home : Nat) : Option Nat :=
  (List.range 9).find? (fun p => s.homeOf p == home && (s.pairSt p == pACTIVE || s.pairSt p == pHOST))

/-! ### Tasks -/
/-- Task numbers are 16 × home pair + task (R92). -/
def taskKey (home t : Nat) : Nat := 16 * home + t

def TaskRec.en (t : TaskRec) : Bool := t.desc0.getLsbD 31
def TaskRec.src (t : TaskRec) : Nat := bitsOf t.desc0.toNat 30 28
def TaskRec.pocket (t : TaskRec) : Bool := t.desc0.getLsbD 27
def TaskRec.idx (t : TaskRec) : Nat := bitsOf t.desc0.toNat 19 0
def TaskRec.bg (t : TaskRec) : Bool := t.desc1.getLsbD 25
/-- FLIM: 0 is treated as 1 (R91). -/
def TaskRec.flim (t : TaskRec) : Nat := max 1 (bitsOf t.desc1.toNat 23 20)
def TaskRec.budget (t : TaskRec) : Nat := bitsOf t.desc1.toNat 19 0

/-- Event sources (R49). -/
abbrev srcCatch : Nat := 1
abbrev srcTimer : Nat := 2
abbrev srcOrder : Nat := 3
abbrev srcSignal : Nat := 4

def allTasks : List Nat := List.range 144

/-- Enabled tasks of a source with a predicate on the index. -/
def State.tasksOf (s : State) (src : Nat) (p : TaskRec → Bool) : List Nat :=
  allTasks.filter (fun k => (s.task k).en && (s.task k).src == src && p (s.task k))

/-- The catch task of a crew (R50: at most one). -/
def State.catchTask (s : State) (n : Nat) : Option Nat := (s.tasksOf srcCatch (fun t => t.idx == n)).head?

/-- The home pair that owns a crew (R50). -/
def State.crewHome (s : State) (n : Nat) : Option Nat := (s.catchTask n).map (· / 16)

def State.ownsCrew (s : State) (home n : Nat) : Bool := s.crewHome n == some home

/-- The task bound to an order lane. -/
def State.laneTask (s : State) (lane : Nat) : Option Nat := (s.tasksOf srcOrder (fun t => t.idx == lane)).head?

/-- The owner code under which a task claims (R130). -/
def State.ownerCode (s : State) (key : Nat) : Nat :=
  let t := s.task key
  if t.src = srcCatch then 0x10 + t.idx
  else if t.src = srcOrder && t.idx ≥ 1 && s.ownsCrew (key / 16) (t.idx - 1) then 0x10 + (t.idx - 1)
  else 0x30 + key / 16

/-- The pair's running task. -/
def State.running (s : State) (p : Nat) : Option Nat :=
  ((List.range 16).map (taskKey (s.homeOf p))).find? (fun k => (s.task k).st == .running)

def imgTask (s : State) (key : Nat) : Option ImgTask := (s.image (key / 16)).tasks.find? (fun t => t.task == key % 16)

/-- A new activation of a waiting task: its budget (R54), ready to run. -/
def TaskRec.wake (t : TaskRec) : TaskRec :=
  { t with
    st := .ready, act := min (2 ^ 32 - 1) (t.act + 1), budLeft := t.budget, initial := false, unclean := false, begun := false }

/-- An initial activation: PC := ENTRY, RESUME as the image gives it, budget of R54 (R57). DESIGN CHOICE: FCNT := 0 also for
a task that restarts on a host, where R77 names ENTRY and the initial activation alone (assumption log 63). -/
def State.startInitial (s : State) (key : Nat) : State :=
  let t := s.task key
  let (e, r) := match imgTask s key with
    | some i => (i.entry, i.resume)
    | none => (0, 0)
  s.setTask key { t with
    st := .ready, pend := false, fcnt := 0, initial := true, unclean := false, lost := false, begun := false
    act := min (2 ^ 32 - 1) (t.act + 1), budLeft := 1000000
    ctx := { pc := BitVec.ofNat 16 e, resume := BitVec.ofNat 32 r } }

/-- What the end of an activation does to the task (R52, R56, R57). -/
def State.endActivation (s : State) (key : Nat) (clean : Bool) : State :=
  let t := s.task key
  let f := if clean then 0 else t.fcnt + 1
  let t := { t with fcnt := min 15 f, initial := false, unclean := false, lastEnd := s.now }
  if !clean && f ≥ t.flim then
    let s := s.setTask key { t with st := .disabled, lastFlt := 0x0213 }
    let s := s.fault 0x0213 key
    let s := if t.src = srcOrder then s.endLaneRunning t.idx 0x52 else s
    if t.src = srcCatch then s.faultStop t.idx 0x0213 else s
  else if t.pend then s.setTask key ({ t with pend := false }).wake
  else s.setTask key { t with st := .waiting }

/-- A trap or an exhausted budget ends the activation (R55, R104): TCAUSE, TPC, TVAL, the fault, PC := RESUME, the loop
state cleared. A lane task's order ends STOPPED_FAULT (R345). -/
def State.trap (s : State) (key code soft : Nat) (tval : Word) : State :=
  let t := s.task key
  let c := t.ctx
  let c := { c with
    tcause := BitVec.ofNat 32 (soft % 256 * 65536 + code), tpc := c.pc.setWidth 32, tval := tval
    pc := c.resume.setWidth 16, lcnt := 0 }
  let s := s.setTask key { t with ctx := c, lastFlt := code }
  let s := s.fault code key
  let s := if t.src = srcOrder then s.endLaneRunning t.idx 0x52 else s
  s.endActivation key false

/-- An event becomes PEND: a timer event that finds PEND set is dropped with 0x0212, signal events coalesce (R52). -/
def State.pendEvent (s : State) (key : Nat) : State :=
  let t := s.task key
  if !t.pend then s.setTask key { t with pend := true }
  else if t.src = srcTimer then (s.setTask key { t with lastFlt := 0x0212 }).fault 0x0212 key
  else if t.src = srcSignal then s.setTask key { t with coal := min 255 (t.coal + 1) }
  else s

/-- Delivery of a timer or signal event (R52), of an order arrival (R57) or of a catch to a waiting task. Events of a
retained domain are latched as pending; those of a domain that is off are lost (R45). -/
def State.deliver (s : State) (key : Nat) : State :=
  let t := s.task key
  let p := s.execPair (key / 16)
  let d := match p with
    | some p => pairDomain p
    | none => pairDomain (key / 16)
  if t.st = .disabled then s
  else if !s.domainRun d then
    if s.domRet.testBit d then s.pendEvent key else s
  else match t.st with
    | .waiting => s.setTask key t.wake
    | _ => if t.src = srcTimer || t.src = srcSignal then s.pendEvent key else s

/-- Events that a retained domain has latched are served once it is on (R45). -/
def State.servePend (s : State) : State :=
  loopL allTasks (fun k s =>
    let t := s.task k
    let on := match s.execPair (k / 16) with
      | some p => s.domainRun (pairDomain p)
      | none => false
    if t.st = .waiting && t.pend && on then s.setTask k ({ t with pend := false }).wake else s) s

/-- A signal-change event for an address (R49, R127). -/
def State.signalEvent (s : State) (a : Nat) : State :=
  loopL (s.tasksOf srcSignal (fun t => if t.pocket then t.idx / 256 == a / 256 else t.idx == a))
    (fun k s => s.deliver k) s

/-- A task that may run now: the thermal throttle delays the start of a background task's activation until the pause is over;
an activation that has begun is not held back (R59). -/
def State.throttleDone (s : State) (t : TaskRec) : Bool :=
  !(t.bg && !t.begun && decide (s.get F.HK_STAT_LEVEL ≥ 2) && s.now < t.lastEnd + s.get F.HK_THR_PAUSE * 800)

/-- The highest-priority ready task of a pair that may start. -/
def State.nextReady (s : State) (p : Nat) : Option Nat :=
  ((List.range 16).map (taskKey (s.homeOf p))).find? (fun k =>
    let t := s.task k
    t.st == .ready && s.throttleDone t)

/-- Restores the context and runs the task; the restore's 12 cycles are charged to its budget (R54, R58). -/
def State.runTask (s : State) (key : Nat) : State :=
  let t := s.task key
  s.setTask key { t with st := .running, begun := true, budLeft := t.budLeft - 12 }

/-- Cycles of the engines of pair p pass. -/
def State.spend (s : State) (p n : Nat) : State := s.setPair p { s.pair p with cycle := (s.pair p).cycle + n }

/-! ### Errors in the pairs' memories (R44) -/
/-- Some 32-bit word of the list touches [a, a+n) of IMEM (false) or DMEM (true). -/
def touchW (l : List (Bool × Nat)) (d : Bool) (a n : Nat) : Bool :=
  l.any (fun w => w.1 == d && 4 * w.2 < a + n && a < 4 * w.2 + 4)

/-- A read of [a, a+n): single-bit errors are corrected, written back and counted; none where a word is uncorrectable. -/
def State.memRead (s : State) (p : Nat) (d : Bool) (a n : Nat) : Option State :=
  let r := s.pair p
  if touchW r.ue d a n then none
  else if touchW r.ce d a n then
    let hit := r.ce.filter (fun w => touchW [w] d a n)
    some ((s.setPair p { r with ce := r.ce.filter (fun w => !touchW [w] d a n) }).addSat (F.SE_PAIR_STAT_CE p) hit.length)
  else some s

/-- A write of [a, a+n): a whole word gets new check bits; part of a word is a read of it as well. -/
def State.memStore (s : State) (p : Nat) (d : Bool) (a n : Nat) : Option State :=
  if n = 4 then
    let r := s.pair p
    some (s.setPair p { r with
      ce := r.ce.filter (fun w => !touchW [w] d a n), ue := r.ue.filter (fun w => !touchW [w] d a n) })
  else s.memRead p d a n

/-- What happens to the PC: on to the next word (R122), a taken branch or jump, or set by LOOP. -/
inductive PcAct where
  | seq
  | jump (t : BitVec 16)
  | set (t : BitVec 16)
  deriving DecidableEq, Repr

/-- PC and loop state after an instruction (R122). -/
def Ctx.step (c : Ctx) (pc : PcAct) : Ctx :=
  match pc with
  | .seq =>
    if c.lcnt ≠ 0 && c.pc = c.lend then
      let n := c.lcnt - 1
      { c with lcnt := n, pc := if n = 0 then c.pc + 4 else c.lbeg }
    else { c with pc := c.pc + 4 }
  | .jump t => { c with pc := t, lcnt := if c.lbeg.toNat ≤ t.toNat && t.toNat ≤ c.lend.toNat then c.lcnt else 0 }
  | .set t => { c with pc := t }

/-- The instruction retires: context, budget and cycle count (R54, R100). -/
def State.retire (s : State) (p key : Nat) (c : Ctx) (cyc : Nat) : State :=
  let s := s.setPair p { s.pair p with cycle := (s.pair p).cycle + cyc }
  s.setTask key { s.task key with ctx := c, budLeft := (s.task key).budLeft - cyc }

/-! ### The claim table's requests (R34, R35, R130) -/
/-- The request that the table takes next: of those that arrived first, the one with the lowest owner code. -/
def firstClaim (l : List ClaimReq) : Option ClaimReq :=
  l.foldl (fun b q => match b with
    | none => some q
    | some x => if q.at0 < x.at0 || (q.at0 == x.at0 && q.owner < x.owner) then some q else some x) none

/-- The CLAIM or RELEASE of pair p that waited completes, or traps. -/
def State.claimEnd (s : State) (p : Nat) (r : ClaimRes) (res : Nat) : State :=
  let s := s.setPair p { s.pair p with claimWait := false }
  match s.running p with
  | none => s
  | some key => match r with
    | .done =>
      let (cyc, s) := s.freeIn 10 40
      s.retire p key ((s.task key).ctx.step .seq) cyc
    | .conflict => s.trap key 0x0224 0 (BitVec.ofNat 32 res)
    | .notOwner => s.trap key 0x0111 0 (BitVec.ofNat 32 res)
    | .badId => s.trap key 0x0112 0 (BitVec.ofNat 32 res)

/-- The table takes one request and answers its sender. -/
def State.takeClaim (s : State) : State :=
  match firstClaim s.claimReqs with
  | none => s
  | some q =>
    let s := { s with claimReqs := s.claimReqs.erase q }
    let (r, s) := s.claimOp q.release q.owner q.res
    let s := s.auxShow.trainPorts
    let s := if q.cox then
        ((s.putB F.SYS_CLAIM_STAT_BUSY false).put F.SYS_CLAIM_STAT_RESULT r.code).put F.SYS_CLAIM_STAT_HOLDER (s.ownerOf q.res)
      else s
    match q.pair with
    | some p => if (s.pair p).claimWait then s.claimEnd p r q.res else s
    | none => if r = .done then s else s.fault r.faultCode q.res

/-- Requests are taken until none of pair p's waits: the engine issues one instruction at a time (R100). -/
def State.settleClaim (s : State) (p : Nat) : State :=
  loopN s.claimReqs.length (fun _ s => if (s.pair p).claimWait then s.takeClaim else s) s

/-! ### Context slots and checkpoint records (R69 to R72, R94) -/
/-- The 384 bytes of a context slot (R94). -/
def Ctx.bytes (c : Ctx) : List Byte :=
  let w (v : Word) : List Byte := leBytes 4 v.toNat
  let acc (v : Acc) : List Byte := leBytes 12 (wrapInt 96 v.toInt)
  c.g.toList.flatMap w ++ c.f.toList.flatMap w ++ c.a.toList.flatMap acc ++
    leBytes 4 c.pc.toNat ++ w c.fstat ++ w c.resume ++ w c.tcause ++ w c.tpc ++ w c.tval ++ w c.lcnt ++
    leBytes 2 c.lbeg.toNat ++ leBytes 2 c.lend.toNat ++ w c.cycleh ++ List.replicate 60 0

/-- A context read back from its slot's bytes (R94). -/
def ctxOfBytes (l : List Byte) : Ctx :=
  let w (o : Nat) : Word := BitVec.ofNat 32 (leAt l o 4)
  { g := Vector.ofFn (fun i : Fin 32 => if i.val = 0 then 0 else w (4 * i.val))
    f := Vector.ofFn (fun i : Fin 16 => w (128 + 4 * i.val))
    a := Vector.ofFn (fun i : Fin 8 => BitVec.ofNat 72 (leAt l (192 + 12 * i.val) 9))
    pc := BitVec.ofNat 16 (leAt l 288 2), fstat := w 292 &&& 0x3F#32, resume := w 296 &&& 0xFFFC#32
    tcause := w 300 &&& 0xFFFFFF#32, tpc := w 304, tval := w 308, lcnt := w 312
    lbeg := BitVec.ofNat 16 (leAt l 316 2), lend := BitVec.ofNat 16 (leAt l 318 2), cycleh := w 320 }

/-- The bytes of a checkpoint record with its header (R70). -/
def CkptRec.bytes (r : CkptRec) : List Byte :=
  let tail := leBytes 2 (416 + r.region.length) ++ leBytes 1 r.task ++ leBytes 1 r.home ++ leBytes 4 r.imageId ++
    List.replicate 16 0 ++ r.ctx.bytes ++ r.region
  leBytes 4 r.seq.toNat ++ leBytes 4 (crc32 tail) ++ tail

/-- Address of crew n's slot for sequence q from a checkpoint base (R70). -/
def ckptSlot (base n q : Nat) : Nat := base + (2 * n + q % 2) * 2048

/-- Reads the record in a slot, word by word from SRAM-L and where unreadable from SRAM-H; none where a word is readable in
neither bank, the CRC fails or the image is another (R72, R559). -/
def State.readCkpt (s : State) (slotL slotH n imageId : Nat) (alt : Bool) : Option CkptRec :=
  let byte (i : Nat) : Byte :=
    let l := slotL + i
    let h := slotH + i
    let (a, b) := if alt then (h, l) else (l, h)
    if s.touchesUe a 1 then s.byteAt b else s.byteAt a
  let hdr := (List.range 32).map byte
  let len := leAt hdr 8 2
  if len < 416 || len > 1952 then none
  else
    let all := (List.range len).map byte
    let lost := (List.range len).any (fun i => s.touchesUe (slotL + i) 1 && s.touchesUe (slotH + i) 1)
    if !lost && leAt hdr 4 4 = crc32 (all.drop 8) && leAt hdr 12 4 = imageId then
      some { crew := n, seq := BitVec.ofNat 32 (leAt hdr 0 4), task := leAt hdr 10 1, home := leAt hdr 11 1
             imageId := imageId, ctx := ctxOfBytes ((all.drop 32).take 384), region := all.drop 416
             gen := (s.crew n).gen }
    else none

/-- The catch sequence of crew n's next catch (R147). -/
def State.nextCatch (s : State) (n : Nat) : Word := if (s.crew n).firstCatch then 0 else s.rd (R.CREW_CSEQ n) + 1

/-- Record a is more recent than b, as serial numbers modulo 2^32 (R72). -/
def moreRecent (a b : Word) : Bool := let d := (a - b).toNat; 1 ≤ d && d < 2 ^ 31

/-- The record a restore of crew n uses (R71, R72): the most recent usable one of the writer's buffer and both banks. A record
captured before the sequence last restarted is not used: a buffered one says so itself, one in a bank counts where it has been
written since. -/
def State.bestCkpt (s : State) (home n imageId : Nat) : Option CkptRec :=
  let bl := (s.rd R.SE_CKPT_BASE_L).toNat
  let bh := (s.rd R.SE_CKPT_BASE_H).toNat
  let buf := ((List.range 9).flatMap (fun p => (s.pair p).ckpt)).filter (fun r =>
    r.crew == n && r.home == home && r.imageId == imageId && r.gen == (s.crew n).gen)
  let slots := ([0, 1].flatMap (fun q => [false, true].filterMap (fun alt =>
    s.readCkpt (ckptSlot bl n q) (ckptSlot bh n q) n imageId alt))).filter (fun r => (s.crew n).caps.contains r.seq)
  (slots ++ buf).foldl (fun m r =>
    match m with
    | none => some r
    | some b => if moreRecent b.seq r.seq then some b else some r) none

/-! ### Fence, takeover, restore (R73 to R81) -/
/-- Crews that a home pair owns. -/
def State.homeCrews (s : State) (home : Nat) : List Nat := (List.range 32).filter (fun n => s.ownsCrew home n)

def homeTasks (home : Nat) : List Nat := (List.range 16).map (taskKey home)

/-- The pair's tasks are lost: each becomes DISABLED; an order a lane task was running ends STOPPED_FAULT. -/
def State.loseTasks (s : State) (home : Nat) : State :=
  loopL (homeTasks home) (fun k s =>
    let t := s.task k
    let s := if t.src = srcOrder && (t.st = .running || t.st = .ready) then s.endLaneRunning t.idx 0x52 else s
    if t.st = .disabled then s else s.setTask k { t with st := .disabled, pend := false }) s

/-- A self-test of the pair has ended in failure (R80). -/
def State.selfTestFail (s : State) (p : Nat) : State :=
  ((s.setPair p { s.pair p with testing := false }).setPairSt p pFAILED).fault 0x0208 p

/-- The lowest spare takes over the home pair of a fenced pair p; without one, the tasks are lost (R74, R78). SE.TAKE_LAST.HOME
is the failed pair, as its Meaning column says: p itself, also where p was a host (DEDUCED, assumption log 64). -/
def State.takeOver (s : State) (p home : Nat) : State :=
  match (List.range 9).find? (fun q => s.pairSt q == pSPARE && s.domainRun (pairDomain q)) with
  | some q =>
    let s := s.setPair q { s.pair q with testing := false, restoring := true, failed := p, failedAt := s.now }
    let s := s.put (F.SE_PAIR_STAT_HOME q) home
    let s := s.put F.SE_TAKE_LAST_HOST q
    let s := s.put F.SE_TAKE_LAST_HOME p
    s.setPairSt q pHOST
  | none =>
    let crews := s.homeCrews home
    let s := s.loseTasks home
    let s := s.put F.SE_TAKE_LAST_RESULT 2
    let s := s.put F.SE_TAKE_LAST_HOME p
    let s := s.fault 0x0205 p
    loopL crews (fun n s => (s.setCrew n { s.crew n with takeover := false }).faultStop n 0x0205) s

/-- A pair fault of an ACTIVE or HOST pair: the fence, and the lowest spare or the no-spare handling (R73, R78). -/
def State.fencePair (s : State) (p code : Nat) : State :=
  let home := s.homeOf p
  let s := s.incSat (F.SE_PAIR_STAT_MISM p)
  let s := s.fault code p
  -- a live replacement of the pair ends with RESULT 2 (R495)
  let s := match s.swap with
    | some w => if w.pair = p then { s with swap := none }.put F.SE_SWAP_STAT_RESULT 2 else s
    | none => s
  let s := s.setPair p { s.pair p with restoring := false, claimWait := false }
  let s := s.setPairSt p pFENCED
  -- the running activations end; orders of the lane tasks in progress end STOPPED_FAULT (R345)
  let s := loopL (homeTasks home) (fun k s =>
    let t := s.task k
    if t.src = srcOrder && (t.st = .running || t.st = .ready) then s.endLaneRunning t.idx 0x52 else s) s
  let s := loopL (s.homeCrews home) (fun n s =>
    profFreeze n (s.setCrew n { s.crew n with takeover := true, resume := false })) s
  s.takeOver p home

/-- A mismatch or uncorrectable memory error of pair p (R73): by the pair's state. -/
def State.pairFault (s : State) (p code : Nat) : State :=
  let st := s.pairSt p
  if !s.domainRun (pairDomain p) then s
  else if st = pACTIVE || st = pHOST then s.fencePair p code
  else if st = pSPARE || st = pTEST then (s.incSat (F.SE_PAIR_STAT_MISM p)).selfTestFail p
  else s

/-- Slot number of a home pair's image: its own, but after a live replacement (R494). -/
def State.slotOf (s : State) (home : Nat) : Nat := ((s.slotMap.find? (fun e => e.1 == home)).map (·.2)).getD home

/-- Base of home pair's slot in the image store of a bank (R89). -/
def State.imgSlot (s : State) (high : Bool) (home : Nat) : Nat :=
  (s.rd (if high then R.SE_IMG_BASE_H else R.SE_IMG_BASE_L)).toNat + 196608 * s.slotOf home

/-- Some word of [o, o+n) of the home's image slot is unreadable in both banks (R559). -/
def State.imgUnreadable (s : State) (home o n : Nat) : Bool :=
  let l := s.imgSlot false home
  let h := s.imgSlot true home
  s.eccUe.any (fun w => l + o < w + 8 && w < l + o + n && s.eccUe.any (fun v => v == w - l + h))

/-- Cells of the image store, taken from SRAM-L and, where a word there is unreadable, from SRAM-H. -/
def State.imgCells (s : State) (home o n : Nat) : List Host.Cell :=
  let l := s.imgSlot false home
  let h := s.imgSlot true home
  let base := cellsIn s.mem (l + o) n 0
  let bad := s.eccUe.filter (fun w => l + o < w + 8 && w < l + o + n)
  bad.foldl (fun m w => (List.range 8).foldl (fun m i =>
    let a := w + i
    if l + o ≤ a && a < l + o + n then mset memDefault m (a - l - o) (s.byteAt (a - l + h)) else m) m) base

/-- Image offsets of the IMEM and DMEM sections (R87). -/
def ImgInfo.imemOff (i : ImgInfo) : Nat := 64 + 16 * i.tasks.length
def ImgInfo.dmemOff (i : ImgInfo) : Nat := i.imemOff + i.imemSize

/-- Builds pair p's memories from home's image slot: IMEM, DMEM data, and zeroes after it (R45, R74). None where a word
cannot be read in either bank. -/
def State.buildMem (s : State) (p home : Nat) : Option State :=
  let i := s.image home
  if s.imgUnreadable home i.imemOff (i.imemSize + i.dmemSize) then none
  else some (s.setPair p { s.pair p with
    imem := s.imgCells home i.imemOff i.imemSize
    dmem := s.imgCells home i.dmemOff i.dmemSize
    ce := [], ue := [] })

/-- DMEM region of pair p as bytes. -/
def PairRec.region (r : PairRec) (o n : Nat) : List Byte := (List.range n).map (fun i => cellAt r.dmem (o + i))

end Sys2Proof.Machine
end

