-- ==== Sys2Proof/Machine/Pairs.lean ====
section
/-! DEFINITION. Machine/Pairs.lean: the commands of the Stroke engine pairs, their tasks and the coefficient store. -/
namespace Sys2Proof.Machine

/-! ### Pair faults, self-tests, takeover -/
/-- SE_MISMATCH (R48, R73): the compare differs; the instruction's held effects are discarded and the pair is fenced. -/
def execSeMismatch (p : PairNo) (s : State) : Out := .next (s.pairFault p 0x0201)

/-- SE_MEM_UE (R44): an uncorrectable IMEM or DMEM error is handled as a mismatch with code 0x0202. -/
def execSeMemUe (p : PairNo) (s : State) : Out := .next (s.pairFault p 0x0202)

/-- The restore is abandoned (R559). DESIGN CHOICE: while its self-test runs the host shows TEST, with its own number as HOME;
the table of R81 names only where it ends (assumption log 65). -/
def State.abandonRestore (s : State) (q home : Nat) : State :=
  let crews := s.homeCrews home
  let s := s.fault 0x0209 home
  let s := s.setPair q { s.pair q with restoring := false, testing := true }
  let s := (s.put (F.SE_PAIR_STAT_HOME q) q).setPairSt q pTEST
  let s := s.loseTasks home
  let s := loopL crews (fun n s => (s.setCrew n { s.crew n with takeover := false }).faultStop n 0x0209) s
  s.put F.SE_TAKE_LAST_RESULT 2

/-- Restores one catch task from its record, or restarts it from ENTRY with the crew in fault stop (R74, R76, R78). A DISABLED
task gets its region and context back and stays DISABLED (R57). Answers the LEN restored and whether the crew was stopped. -/
def State.restoreCatch (s : State) (q home key : Nat) : Nat × Bool × State :=
  let t := s.task key
  let run := t.st != .disabled
  match s.bestCkpt home t.idx (s.image home).imageId with
    | some r =>
      let off := match imgTask s key with
        | some i => i.ckptOff
        | none => 0
      let pr := s.pair q
      let s := s.setPair q { pr with dmem := memPut pr.dmem off r.region }
      let s := s.setTask key { t with
        st := if run then .waiting else .disabled, pend := false, initial := false, unclean := false, ctx := r.ctx }
      (416 + r.region.length, false, s.setCrew t.idx { s.crew t.idx with resume := run })
    | none =>
      let s := s.fault 0x0206 t.idx
      let s := (s.setCrew t.idx { s.crew t.idx with takeover := false }).faultStop t.idx 0x0206
      (0, true, if run then s.startInitial key else s)

/-- Counts of 1.25 ns from the detection to the end of a restore of B bytes: T_r = 500 ns + ⌈B / 32⌉ ns (R74), rounded up. -/
def restoreCounts (b : Nat) : Nat := ((500 + (b + 31) / 32) * 4 + 4) / 5

/-- B of R74: what a restore of home moves. -/
def State.restoreBytes (s : State) (home : Nat) : Nat :=
  let i := s.image home
  let cs := (homeTasks home).filter (fun k => (s.task k).en && (s.task k).src == srcCatch)
  cs.foldl (fun b k => b + ((s.bestCkpt home (s.task k).idx i.imageId).map (fun r => 416 + r.region.length)).getD 0)
    (i.imemSize + i.dmemSize + i.bssSize)

/-- One catch task of a restore: the bytes it moves and whether its crew stops, added to those of the tasks before it. -/
def State.restoreStep (q home : Nat) (acc : Nat × Bool × State) (key : Nat) : Nat × Bool × State :=
  let r := acc.2.2.restoreCatch q home key
  (acc.1 + r.1, acc.2.1 || r.2.1, r.2.2)

/-- The tasks of home start on its new host q, whose memories are built (R74 to R77): the catch tasks from their checkpoints,
the others at ENTRY. Answers B, and whether a crew was stopped for want of a record. -/
def State.restoreTasks (s : State) (q home : Nat) : Nat × Bool × State :=
  let i := s.image home
  let keys := (homeTasks home).filter (fun k => (s.task k).en)
  let cs := keys.filter (fun k => (s.task k).src == srcCatch)
  let r := cs.foldl (State.restoreStep q home) (i.imemSize + i.dmemSize + i.bssSize, false, s)
  (r.1, r.2.1, loopL (keys.filter (fun k => (s.task k).src != srcCatch && (s.task k).st != .disabled))
    (fun k s => s.startInitial k) r.2.2)

/-- The end of a restore of home on q that moved `b` bytes (R75, R78): a crew whose catch task was not restored leaves the
takeover. -/
def State.restoreEnd (s : State) (q home b : Nat) (stopped : Bool) : State :=
  let s := s.setPair q { s.pair q with restoring := false }
  let s := loopL (s.homeCrews home) (fun n s =>
    if (s.crew n).resume then s else profResume n (s.setCrew n { s.crew n with takeover := false })) s
  let s := s.put F.SE_TAKE_LAST_RDUR (500 + (b + 31) / 32)
  let s := s.put F.SE_TAKE_LAST_RESULT (if stopped then 3 else 1)
  s.fault 0x0203 (s.pair q).failed

/-- RESTORE_COMPLETE (R74 to R78, R559): T_r after the detection. -/
def execRestoreComplete (p : PairNo) (s : State) : Out :=
  let q := p.val
  if s.pairSt q ≠ pHOST || !(s.pair q).restoring then .next s
  else
    let home := s.homeOf q
    match s.buildMem q home with
    | none => .next (s.abandonRestore q home)
    | some s =>
      let s := s.until ((s.pair q).failedAt + restoreCounts (s.restoreBytes home))
      let r := s.restoreTasks q home
      .next (r.2.2.restoreEnd q home r.1 r.2.1)

/-- DOMAIN_RELOAD_COMPLETE (R45, R559): a reload moves the image's memories at the rate of R74 from the instant its domain came
on. -/
def execDomainReloadComplete (p : PairNo) (s : State) : Out :=
  let q := p.val
  if !(s.pair q).reloading then .next s
  else
    let home := s.homeOf q
    let s := s.setPair q { s.pair q with reloading := false }
    match s.buildMem q home with
    | none =>
      let crews := s.homeCrews home
      let s := (s.fault 0x0209 home).loseTasks home
      .next (loopL crews (fun n s => s.faultStopAny n 0x0209) s)
    | some s =>
      let i := s.image home
      let s := s.until ((s.pair q).failedAt + restoreCounts (i.imemSize + i.dmemSize + i.bssSize))
      .next (loopL ((homeTasks home).filter (fun k => (s.task k).lost)) (fun k s => s.startInitial k) s)

/-- SE_RETEST (R79): a write of SE.CTL; RETEST starts the self-test of TPAIR where it is FENCED. -/
def execSeRetest (v : Word) (s : State) : Out := s.onRegW R.SE_CTL v fun v s =>
  let p := bitsOf v.toNat 7 4
  let s := s.put F.SE_CTL_TPAIR p
  if v.getLsbD 0 && p < 9 && s.pairSt p = pFENCED then
    .next ((s.setPair p { s.pair p with testing := true }).setPairSt p pTEST)
  else .next s

/-- SPARE_SELF_TEST (R80): every 1 s, counted from the one before; the first comes 1 s after the pair became SPARE (DESIGN CHOICE,
assumption log 66). -/
def execSpareSelfTest (p : PairNo) (s : State) : Out :=
  if s.pairSt p = pSPARE && s.domainRun (pairDomain p) && !(s.pair p).testing then
    let s := s.until ((s.pair p).testAt + 1000 * msCounts)
    .next (s.setPair p { s.pair p with testing := true, testAt := s.now })
  else .next s

/-- Boot: once every pair has been self-tested, each failed active pair gets the lowest spare as its host, or 0x0205 (R80). -/
def State.bootHosts (s : State) : State :=
  loopN 8 (fun p s =>
    if s.pairSt p ≠ pFAILED || (s.execPair p).isSome then s
    else match (List.range 9).find? (fun q => s.pairSt q == pSPARE) with
      | some q => ((s.put (F.SE_PAIR_STAT_HOME q) p).setPairSt q pHOST).fault 0x0203 p
      | none => s.fault 0x0205 p) s

/-- A boot self-test result of a pair whose domain came on (R81). -/
def State.bootTest (s : State) (p : Nat) (pass : Bool) : State :=
  if pass then (s.setPair p { s.pair p with testAt := s.now }).setPairSt p (if p = 8 then pSPARE else pACTIVE) else s.selfTestFail p

/-- SELF_TEST_COMPLETE (R79 to R81). -/
def execSelfTestComplete (p : PairNo) (pass : Bool) (s : State) : Out :=
  let q := p.val
  let st := s.pairSt q
  if st = pTEST then
    if pass then
      let s := s.setPair q { s.pair q with testing := false, testAt := s.now }
      .next ((s.put (F.SE_PAIR_STAT_HOME q) q).setPairSt q pSPARE)
    else .next (s.selfTestFail q)
  else if st = pSPARE && (s.pair q).testing then
    if pass then .next (s.setPair q { s.pair q with testing := false }) else .next (s.selfTestFail q)
  else if st = pOFF && s.domainRun (pairDomain q) then
    let s := s.bootTest q pass
    if (List.range 9).all (fun r => s.pairSt r != pOFF || !s.domainRun (pairDomain r)) then .next s.bootHosts else .next s
  else .next s

/-! ### Tasks -/
/-- The DMEM address of the context slot of a task (R94). -/
def ctxSlot (key : Nat) : Nat := 0x1E800 + 384 * (key % 16)

/-- The engines of pair p restore task k's context from its slot and run it; its 12 cycles pass (R54, R58). A context slot that
cannot be read is a pair fault (R44). -/
def State.startTask (s : State) (p k : Nat) : State :=
  match s.memRead p true (ctxSlot k) 384 with
  | none => s.pairFault p 0x0202
  | some s => (s.spend p 12).runTask k

/-- TASK_DISPATCH (R51, R57): an idle engine starts the highest-priority ready task. -/
def execTaskDispatch (p : PairNo) (s : State) : Out :=
  if s.pairRuns p && (s.running p).isNone then
    match s.nextReady p with
    | some k => .next (s.startTask p k)
    | none => .next s
  else .next s

/-- TASK_PREEMPT (R51, R57): the instruction in progress completes, the running task's context is saved in 12 cycles and the
higher-priority ready task runs. -/
def execTaskPreempt (p : PairNo) (s : State) : Out :=
  let s := s.settleClaim p
  if s.pairRuns p then
    match s.running p, s.nextReady p with
    | some r, some k =>
      if k < r then .next (((s.setTask r { s.task r with st := .ready }).spend p 12).startTask p k) else .next s
    | _, _ => .next s
  else .next s

/-- TASK_BUDGET (R54, R55, R106). -/
def execTaskBudget (p : PairNo) (s : State) : Out :=
  let s := s.settleClaim p
  if s.pairRuns p then
    match s.running p with
    | some k => if (s.task k).budLeft = 0 then .next (s.trap k 0x0211 0 0) else .next s
    | none => .next s
  else .next s

/-- A general timer's period in counts of 1.25 ns (R60). -/
def State.tmrPeriod (s : State) (k : Nat) : Nat := s.get (F.SE_TMR_PER_PERIOD k) * 800

/-- A general timer is started or stopped: its first expiry comes one period after EN is set (R60). -/
def State.tmrEn (s : State) (k : Nat) (en : Bool) : State :=
  let was := s.bit (F.SE_TMR_CTL_EN k)
  let en := en && s.get (F.SE_TMR_PER_PERIOD k) != 0
  let s := s.putB (F.SE_TMR_CTL_EN k) en
  if en && !was then { s with tmrDue := mset 0 s.tmrDue k (s.now + s.tmrPeriod k) } else s

/-- TIMER_EXPIRY (R60): at its instant; ONESHOT clears EN, otherwise the next comes one period later; every enabled task bound to
the timer receives the event. -/
def execTimerExpiry (k : Fin 64) (s : State) : Out :=
  if s.bit (F.SE_TMR_CTL_EN k) then
    let due := mget 0 s.tmrDue k.val
    let s := s.until due
    let s := if s.bit (F.SE_TMR_CTL_ONESHOT k) then s.putB (F.SE_TMR_CTL_EN k) false
      else { s with tmrDue := mset 0 s.tmrDue k.val (due + s.tmrPeriod k) }
    .next (loopL (s.tasksOf srcTimer (fun t => t.idx == k.val)) (fun t s => s.deliver t) s)
  else .next s

/-- CHECKPOINT_RECORD_WRITE (R70, R71): the oldest buffered record goes to both banks. -/
def execCheckpointRecordWrite (p : PairNo) (s : State) : Out :=
  let r := s.pair p
  match r.ckpt with
  | [] => .next s
  | c :: rest =>
    let s := s.setPair p { r with ckpt := rest }
    let n := c.crew
    let s := if c.gen = (s.crew n).gen then s.setCrew n { s.crew n with
        caps := c.seq :: (s.crew n).caps.filter (fun q => q.getLsbD 0 != c.seq.getLsbD 0) }
      else s
    let s := s.devWrite (ckptSlot (s.rd R.SE_CKPT_BASE_L).toNat c.crew c.seq.toNat) c.bytes
    .next (s.devWrite (ckptSlot (s.rd R.SE_CKPT_BASE_H).toNat c.crew c.seq.toNat) c.bytes)

/-! ### Indirect memory access (R89) -/
/-- A word of a pair's memories; the context slots show the tasks' contexts (R43, R94). -/
def State.seMemWord (s : State) (p : Nat) (dmem : Bool) (w : Nat) : Word :=
  if !dmem then (if w < 16384 then BitVec.ofNat 32 (cellWord (s.pair p).imem (4 * w) 4) else 0)
  else if 4 * w < 0x1E800 then BitVec.ofNat 32 (cellWord (s.pair p).dmem (4 * w) 4)
  else
    let o := 4 * w - 0x1E800
    BitVec.ofNat 32 (leAt (s.task (taskKey (s.homeOf p) (o / 384))).ctx.bytes (o % 384) 4)

def State.setSeMemWord (s : State) (p : Nat) (dmem : Bool) (w : Nat) (v : Word) : State :=
  let r := s.pair p
  if !dmem then
    if w < 16384 then s.setPair p { r with imem := memPut r.imem (4 * w) (leBytes 4 v.toNat) } else s
  else if 4 * w < 0x1E800 then s.setPair p { r with dmem := memPut r.dmem (4 * w) (leBytes 4 v.toNat) }
  else
    let o := 4 * w - 0x1E800
    let k := taskKey (s.homeOf p) (o / 384)
    let b := (s.task k).ctx.bytes
    let b := b.take (o % 384) ++ leBytes 4 v.toNat ++ b.drop (o % 384 + 4)
    s.setTask k { s.task k with ctx := ctxOfBytes b }

/-- SE.MEM_DATA may be written: every task of the pair is DISABLED, or the pair is SPARE (R89). -/
def State.seMemFree (s : State) (p : Nat) : Bool :=
  s.pairSt p == pSPARE || (homeTasks (s.homeOf p)).all (fun k => (s.task k).st == .disabled)

def State.seMemAdvance (s : State) : State := s.incWrap F.SE_MEM_ADDR_WORD

/-- SE_MEM_DATA_WRITE (R89). A refused write has no effect, on SE.MEM_ADDR.WORD as well (DESIGN CHOICE, assumption log 67). -/
def execSeMemDataWrite (v : Word) (s : State) : Out := s.onReg R.SE_MEM_DATA fun s =>
  let p := s.get F.SE_MEM_SEL_PAIR
  let d := s.bit F.SE_MEM_SEL_SPACE
  let w := s.get F.SE_MEM_ADDR_WORD
  if p ≥ 9 then .next s.seMemAdvance
  else if s.seMemFree p then .next ((((s.memStore p d (4 * w) 4).getD s).setSeMemWord p d w v).seMemAdvance)
  else .next (s.fault 0x0233 p)

/-- SE_MEM_DATA_READ (R91). A single-bit error is corrected; a word that cannot be read is a pair fault, and what the read
returns is a free value (R44). -/
def execSeMemDataRead (s : State) : Out := s.onRegRead R.SE_MEM_DATA fun s =>
  let p := s.get F.SE_MEM_SEL_PAIR
  let d := s.bit F.SE_MEM_SEL_SPACE
  let w := s.get F.SE_MEM_ADDR_WORD
  if p ≥ 9 then .next { s.seMemAdvance with rdata := 0 }
  else match s.memRead p d (4 * w) 4 with
    | some s => .next { s.seMemAdvance with rdata := s.seMemWord p d w }
    | none =>
      let (v, s) := s.free
      .next { (s.pairFault p 0x0202).seMemAdvance with rdata := BitVec.ofNat 32 v }

/-! ### Coefficient store (R82 to R86) -/
/-- CTRL fields of a loop id (R82). -/
def LoopRec.actB (l : LoopRec) : Bool := l.ctrl.getLsbD 9
def LoopRec.pend (l : LoopRec) : Bool := l.ctrl.getLsbD 10
def LoopRec.pbankB (l : LoopRec) : Bool := l.ctrl.getLsbD 11
def LoopRec.keep (l : LoopRec) : Bool := l.ctrl.getLsbD 12
def LoopRec.owner (l : LoopRec) : Nat := bitsOf l.ctrl.toNat 6 0
def LoopRec.bank (l : LoopRec) (b : Bool) : Vector Word 6 := if b then l.b else l.a
def LoopRec.setCtrl (l : LoopRec) (i : Nat) (b : Bool) : LoopRec := { l with ctrl := setField l.ctrl i i b.toNat }

/-- The bumpless swap (R85). -/
def LoopRec.swap (l : LoopRec) : LoopRec :=
  let l := (l.setCtrl 9 l.pbankB).setCtrl 10 false
  if l.keep then l
  else
    let n := l.bank l.actB
    let i := (fsub l.out (fmul n[0] l.e).1).1
    let ii := (fmin (fmax i n[4]).1 n[5]).1
    let u := (fadd (fmul n[0] l.e).1 ii).1
    let o := (fmin (fmax u n[2]).1 n[3]).1
    (({ l with i := ii, out := o }).setCtrl 14 (!feq ii i)).setCtrl 13 (!feq o u)

/-- A swap request (R84): of a crew's loop in RUN it waits for the next catch. -/
def State.swapReq (s : State) (id : Nat) (b : Bool) : State :=
  let l := s.loop id
  if b = l.actB then
    if l.pend then s.setLoop id (l.setCtrl 10 false) else s
  else
    let l := (l.setCtrl 10 true).setCtrl 11 b
    if l.owner < 32 && s.crewState l.owner = cRUN then s.setLoop id l else s.setLoop id l.swap

/-- The pending swaps of a crew's loops take effect at its catch (R84). -/
def State.catchSwaps (s : State) (n : Nat) : State :=
  loopL (s.loops.filter (fun p => p.2.owner == n && p.2.pend)) (fun p s => s.setLoop p.1 (s.loop p.1).swap) s

/-- One word of a loop id, by its word number (R82). -/
def LoopRec.word (l : LoopRec) (b : Bool) (w : Nat) : Word :=
  if h : w < 6 then (l.bank b)[w]
  else match w with
    | 8 => l.i
    | 9 => l.e
    | 10 => l.out
    | 11 => l.ctrl
    | _ => 0

/-- COEF_DATA_WRITE (R82, R86): a word of the active bank, or of the bank named by a pending swap, is refused. -/
def execCoefDataWrite (v : Word) (s : State) : Out := s.onReg R.SE_COEF_DATA fun s =>
  let id := s.get F.SE_COEF_SEL_LOOP
  let w := s.get F.SE_COEF_SEL_WORD
  let b := s.bit F.SE_COEF_SEL_BANK
  let l := s.loop id
  if h : w < 6 then
    if b = l.actB || (l.pend && b = l.pbankB) then .next (s.fault 0x0240 id)
    else .next (s.setLoop id (if b then { l with b := l.b.set w v h } else { l with a := l.a.set w v h }))
  else match w with
    | 8 => .next (s.setLoop id { l with i := v })
    | 9 => .next (s.setLoop id { l with e := v })
    | 10 => .next (s.setLoop id { l with out := v })
    | 11 =>
      let s := if v &&& 0xFFFF8180#32 = 0 then s else s.countRsv (winOf R.SE_COEF_DATA)
      .next (s.setLoop id (l.setCtrl 12 (v.getLsbD 12)))
    | _ => .next s

/-- COEF_SWAP (R84). -/
def execCoefSwap (v : Word) (s : State) : Out := s.onRegW R.SE_COEF_SWAP v fun v s =>
  .next (s.swapReq (bitsOf v.toNat 9 0) (v.getLsbD 10))

end Sys2Proof.Machine
end

