-- ==== Sys2Proof/Machine/Sine.lean ====
section
/-! DEFINITION. Machine/Sine.lean: the fixed sine table T of R112 and the angle arithmetic of R112 to R114. -/
namespace Sys2Proof.Machine

/-- ⌊π × 2^128⌋. -/
def piQ128 : Nat := 1069028584064966747859680373161870783300

/-- The terms of the sine series from x, as Q128: `t` is the current term, `k` its exponent. -/
def sinSeries : Nat → Nat → Nat → Nat → Int → Int
  | 0, _, _, _, acc => acc
  | n + 1, x2, t, k, acc =>
    let t' := t * x2 / 2 ^ 128 / ((k + 1) * (k + 2))
    sinSeries n x2 t' (k + 2) (if k % 4 = 1 then acc - t' else acc + t')

/-- sin(2π i / 16384) × 2^128 for i = 0 to 4096. -/
def sinQuarter (i : Nat) : Nat :=
  let x := piQ128 * i / 8192
  (sinSeries 24 (x * x / 2 ^ 128) x 1 x).toNat

/-- Entry i of T: sin(2π i / 16384) rounded to binary32 (R112). -/
def sineT (i : Nat) : Word :=
  let j := i % 16384
  let s := j ≥ 8192
  let r := j % 8192
  let q := if r ≤ 4096 then r else 8192 - r
  if q = 0 then 0
  else if q = 4096 then BitVec.ofNat 32 (f32.round s 1 0 false).1
  else BitVec.ofNat 32 (f32.round s (sinQuarter q) (-128) true).1

/-- Linear interpolation of T at an angle word, from table offset `o` (R112). -/
def sineAt (o : Nat) (ang : Word) : FRes :=
  let i := ang.toNat / 2 ^ 18
  let u := fOfDyadic (ang.toNat % 2 ^ 18 : Nat) (-18)
  let a := sineT (i + o)
  let d := fsub (sineT (i + o + 1)) a
  let r := ffma d.1 u a
  (r.1, d.2.or r.2)

/-- (s, c) of an angle word (R112). -/
def sinCos (ang : Word) : FRes × FRes := (sineAt 0 ang, sineAt 4096 ang)

/-! ### ATAN2 (R114) -/
/-- atan(p/q) × 2^64 for 0 ≤ p ≤ q·(√2 − 1) or so, by the series; `z` is p/q in Q96. -/
def atanSeries : Nat → Nat → Nat → Nat → Int → Int
  | 0, _, _, _, acc => acc
  | n + 1, z2, t, k, acc =>
    let t' := t * z2 / 2 ^ 96
    let k' := k + 2
    atanSeries n z2 t' k' (if k % 4 = 1 then acc - (t' / k' : Nat) else acc + (t' / k' : Nat))

/-- atan of z (Q96, 0 ≤ z ≤ 1) in Q96, by atan z = π/8 + atan((z − t)/(1 + z t)), t = tan(π/8), where z is above t/2. -/
def atanQ96 (z : Nat) : Int :=
  let one : Nat := 2 ^ 96
  -- ⌊tan(π/8) × 2^96⌋ = ⌊(√2 − 1) 2^96⌋
  let t : Nat := isqrt (2 * one * one) - one
  let base (w : Nat) (neg : Bool) : Int :=
    let w2 := w * w / one
    let r := atanSeries 60 w2 w 1 w
    if neg then -r else r
  if z ≤ t / 2 then base z false
  else
    let den := one + z * t / one
    let p8 : Int := (piQ128 / 2 ^ 35 : Nat)
    if z ≥ t then p8 + base ((z - t) * one / den) false
    else p8 + base ((t - z) * one / den) true

/-- The exact angle of (x, y), not both 0, in angle-word units, rounded down; mantissas on a common scale. Off the axes and
diagonals it is no whole number of units, so an angle taken away from a whole number rounds down one unit lower. -/
def angleFloor (x y : Int) : Nat :=
  let ax := x.natAbs
  let ay := y.natAbs
  let turn : Int := 2 ^ 32
  -- angle within the first octant pair, in units of 2^-32 turn
  let toUnits (a : Int) : Int := a * 2 ^ 32 * 2 ^ 32 / (2 * (piQ128 : Int))
  let up : Int := if ax = ay || ax = 0 || ay = 0 then 0 else 1
  let first : Int :=
    if ay = ax then 2 ^ 29
    else if ay = 0 then 0
    else if ax = 0 then 2 ^ 30
    else if ay ≤ ax then toUnits (atanQ96 (ay * 2 ^ 96 / ax))
    else 2 ^ 30 - (toUnits (atanQ96 (ax * 2 ^ 96 / ay)) + up)
  let a : Int :=
    if x ≥ 0 then (if y ≥ 0 then first else turn - (first + up))
    else (if y ≥ 0 then 2 ^ 31 - (first + up) else 2 ^ 31 + first)
  (a % turn).toNat

/-- ATAN2 of (x, y) = (fs2, fs1). The defined cases of R114 are exact; elsewhere the result is the angle, moved by an
implementation-defined offset within the bound of 1,024 units, a function of the two inputs alone (`Config.atan2Offset`). -/
def atan2 (y x : Word) : FRes :=
  match f32.val x.toNat, f32.val y.toNat with
  | .nan _, _ => (0, fNV)
  | _, .nan _ => (0, fNV)
  | .inf s, .inf t =>
    ((match s, t with
      | false, false => 0x20000000#32
      | true, false => 0x60000000#32
      | true, true => 0xA0000000#32
      | false, true => 0xE0000000#32), fNone)
  | .inf s, .fin _ _ _ => ((if s then 0x80000000#32 else 0#32), fNone)
  | .fin _ _ _, .inf t => ((if t then 0xC0000000#32 else 0x40000000#32), fNone)
  | .fin s m e, .fin t n f =>
    if m = 0 && n = 0 then (0, fNV)
    else if n = 0 && !s then (0, fNone)
    else if m = 0 && !t then (0x40000000#32, fNone)
    else
      let q := if m = 0 then f else if n = 0 then e else min e f
      let xi : Int := (if s then -1 else 1) * (m * 2 ^ (e - q).toNat : Nat)
      let yi : Int := (if t then -1 else 1) * (n * 2 ^ (f - q).toNat : Nat)
      let xi := if m = 0 then 0 else xi
      let yi := if n = 0 then 0 else yi
      let base : Int := angleFloor xi yi
      -- the exact angle is a whole number of units on the axes and diagonals, and lies strictly above `base` elsewhere
      let whole := xi = 0 || yi = 0 || xi.natAbs = yi.natAbs
      let k : Nat := Config.atan2Offset y x
      let d : Int := if whole then (k % 2049 : Nat) - 1024 else (k % 2048 : Nat) - 1023
      (BitVec.ofInt 32 (base + d), fNone)

end Sys2Proof.Machine
end

