-- ==== Sys2Proof/Machine/Operands.lean ====
section
/-! DEFINITION. Machine/Operands.lean: the operand forms of Onnus (R93 to R99): register access, immediates, instruction
words, and the frame every instruction runs in (R99, R100, R104, R106, R122). -/
namespace Sys2Proof.Machine

/-! ### Registers (R93, R95) -/
def Ctx.gr (c : Ctx) (r : BitVec 5) : Word := c.g[r.toNat]'r.isLt
/-- A write to g0 is discarded. -/
def Ctx.setG (c : Ctx) (r : BitVec 5) (v : Word) : Ctx := if r = 0 then c else { c with g := c.g.set r.toNat v r.isLt }
/-- Float register by the low 4 bits of its field. -/
def Ctx.fr (c : Ctx) (r : BitVec 5) : Word := c.f[r.toNat % 16]'(Nat.mod_lt _ (by decide))
def Ctx.setF (c : Ctx) (r : BitVec 5) (v : Word) : Ctx :=
  { c with f := c.f.set (r.toNat % 16) v (Nat.mod_lt _ (by decide)) }
/-- Accumulator by the low 3 bits of its field. -/
def Ctx.ar (c : Ctx) (r : BitVec 5) : Acc := c.a[r.toNat % 8]'(Nat.mod_lt _ (by decide))
def Ctx.setA (c : Ctx) (r : BitVec 5) (v : Acc) : Ctx :=
  { c with a := c.a.set (r.toNat % 8) v (Nat.mod_lt _ (by decide)) }

/-- A float field has bit 4 clear (R95). -/
def fOk (r : BitVec 5) : Bool := !r.getLsbD 4
/-- An accumulator field has bits 4 and 3 clear (R95). -/
def aOk (r : BitVec 5) : Bool := r.toNat < 8
/-- A pair operand names an even register (R95, R99). -/
def evenOk (r : BitVec 5) : Bool := !r.getLsbD 0

/-- "sext" of formats B and D, and of format C (R97). -/
def sext15 (i : BitVec 15) : Word := i.signExtend 32
def zext15 (i : BitVec 15) : Word := i.setWidth 32
def sext20 (i : BitVec 20) : Word := i.signExtend 32

/-! ### Instruction words (R97) -/
def encA (op : Nat) (gd gs1 gs2 : BitVec 5) (func : Nat) : Word :=
  (BitVec.ofNat 7 op) ++ gd ++ gs1 ++ gs2 ++ (BitVec.ofNat 10 func)
def encB (op : Nat) (gd gs1 : BitVec 5) (imm : BitVec 15) : Word := (BitVec.ofNat 7 op) ++ gd ++ gs1 ++ imm
def encC (op : Nat) (gd : BitVec 5) (imm : BitVec 20) : Word := (BitVec.ofNat 7 op) ++ gd ++ imm
def encE (op : Nat) (g : BitVec 5) (port : BitVec 16) (mode : Nat) : Word :=
  (BitVec.ofNat 7 op) ++ g ++ port ++ (BitVec.ofNat 4 mode)

/-! ### The frame of an instruction -/
/-- What an instruction does: it completes with its cycles, it ends the activation, it traps, it waits at the claim table, or it
has met an uncorrectable word of DMEM (R44). -/
inductive IRes where
  | ok (s : State) (c : Ctx) (cyc : Nat) (pc : PcAct)
  | fin (s : State) (c : Ctx)
  | trap (s : State) (code soft : Nat) (tval : Word)
  | wait (s : State)
  | ue

/-- The image of the pair declares Onnus 1 (R132). -/
def State.onnus1 (s : State) (key : Nat) : Bool := (s.image (key / 16)).minisa == 1

/-- Runs an instruction of pair p, once the one before has completed (R100). With no running task, or with no budget left,
nothing issues (R106). Its word is fetched (R44). `legal` says its fields are, `v2` that Onnus 1 lacks it (R99, R132). -/
def runI (p : PairNo) (word : Word) (legal v2 : Bool) (f : State → Nat → Ctx → IRes) (s : State) : Out :=
  let s := s.settleClaim p
  if s.pairRuns p then
    match s.running p with
    | none => .next s
    | some key =>
      if (s.task key).budLeft = 0 then .next s
      else match s.memRead p false (s.task key).ctx.pc.toNat 4 with
        | none => .next (s.pairFault p 0x0202)
        | some s =>
          if !legal || (v2 && s.onnus1 key) then .next (s.trap key 0x0220 0 word)
          else match f s key (s.task key).ctx with
            | .ok s c cyc pc => .next (s.retire p key (c.step pc) cyc)
            | .fin s c =>
              let s := s.retire p key (c.step .seq) 1
              .next (s.endActivation key (!(s.task key).unclean))
            | .trap s code soft tval => .next (s.trap key code soft tval)
            | .wait s => .next s
            | .ue => .next (s.pairFault p 0x0202)
  else .next s

/-- An instruction on the task's own registers alone. -/
def runReg (p : PairNo) (word : Word) (legal v2 : Bool) (cyc : Nat) (f : Ctx → Ctx) (s : State) : Out :=
  runI p word legal v2 (fun s _ c => .ok s (f c) cyc .seq) s

/-- TRAP codes (R92, R105). -/
abbrev tILLEGAL : Nat := 0x0220
abbrev tALIGN : Nat := 0x0221
abbrev tMEM : Nat := 0x0222
abbrev tPORT : Nat := 0x0223
abbrev tCLAIM : Nat := 0x0224
abbrev tLOOP : Nat := 0x0225
abbrev tSOFT : Nat := 0x0226
abbrev tCONTEXT : Nat := 0x0227
abbrev tSIG : Nat := 0x0228

end Sys2Proof.Machine
end

