-- ==== Sys2Proof/Decode.lean ====
section
/-! DEFINITION. Decode.lean: the words of the opcode table, which gives no row any bits, and the words of Onnus instructions
as pairs of opcode and function (R97, R98), read back into commands. -/
namespace Sys2Proof

/-- The table gives no row bits: no word spells a command. -/
def decodeTableWord (_nbits _w : Nat) : Option Instr := none

/-! ### Onnus words (R97, R98) -/
/-- A row of format A: opcode, function and the instruction. -/
structure RowA where
  op : Nat
  func : Nat
  ins : PairNo → BitVec 5 → BitVec 5 → BitVec 5 → Instr

/-- A row of format B. -/
structure RowB where
  op : Nat
  ins : PairNo → BitVec 5 → BitVec 5 → BitVec 15 → Instr

/-- A row of format C. -/
structure RowC where
  op : Nat
  ins : PairNo → BitVec 5 → BitVec 20 → Instr

/-- A row of format E, with its mode. -/
structure RowE where
  op : Nat
  mode : Nat
  ins : PairNo → BitVec 5 → BitVec 16 → Instr

/-- Opcode 0x01: integer ALU. -/
def rowsA1 : List RowA :=
  [⟨0x01, 0x000, .add⟩, ⟨0x01, 0x001, .sub⟩, ⟨0x01, 0x002, .and⟩, ⟨0x01, 0x003, .or⟩, ⟨0x01, 0x004, .xor⟩,
    ⟨0x01, 0x005, .sll⟩, ⟨0x01, 0x006, .srl⟩, ⟨0x01, 0x007, .sra⟩, ⟨0x01, 0x008, .slt⟩, ⟨0x01, 0x009, .sltu⟩,
    ⟨0x01, 0x00A, .min⟩, ⟨0x01, 0x00B, .max⟩, ⟨0x01, 0x00C, .minu⟩, ⟨0x01, 0x00D, .maxu⟩, ⟨0x01, 0x00E, .clz⟩]

/-- Opcode 0x02: multiply and divide. -/
def rowsA2 : List RowA :=
  [⟨0x02, 0x000, .mul⟩, ⟨0x02, 0x001, .mulh⟩, ⟨0x02, 0x002, .mulhu⟩, ⟨0x02, 0x003, .div⟩, ⟨0x02, 0x004, .divu⟩,
    ⟨0x02, 0x005, .rem⟩, ⟨0x02, 0x006, .remu⟩]

/-- Opcode 0x03: saturating fixed point. -/
def rowsA3 : List RowA :=
  [⟨0x03, 0x000, .qadd⟩, ⟨0x03, 0x001, .qsub⟩, ⟨0x03, 0x002, .qmul⟩, ⟨0x03, 0x003, .qneg⟩, ⟨0x03, 0x004, .qabs⟩,
    ⟨0x03, 0x005, .qshl⟩, ⟨0x03, 0x006, .qshr⟩, ⟨0x03, 0x010, .qadd2⟩, ⟨0x03, 0x011, .qsub2⟩, ⟨0x03, 0x012, .qmul2⟩,
    ⟨0x03, 0x013, .qpack⟩]

/-- Opcode 0x04: accumulators. -/
def rowsA4 : List RowA :=
  [⟨0x04, 0x000, .mac⟩, ⟨0x04, 0x001, .msu⟩, ⟨0x04, 0x002, .macz⟩, ⟨0x04, 0x003, .mac2⟩, ⟨0x04, 0x004, .aclr⟩,
    ⟨0x04, 0x005, .awr⟩]

/-- Opcode 0x05: binary32 arithmetic. -/
def rowsA5 : List RowA :=
  [⟨0x05, 0x000, .fadd⟩, ⟨0x05, 0x001, .fsub⟩, ⟨0x05, 0x002, .fmul⟩, ⟨0x05, 0x003, .fdiv⟩, ⟨0x05, 0x004, .fsqrt⟩,
    ⟨0x05, 0x005, .fma⟩, ⟨0x05, 0x006, .fnms⟩, ⟨0x05, 0x007, .fmin⟩, ⟨0x05, 0x008, .fmax⟩, ⟨0x05, 0x009, .fabs⟩,
    ⟨0x05, 0x00A, .fneg⟩, ⟨0x05, 0x00B, .fsat⟩]

/-- Opcode 0x06: binary32 conversion, comparison and moves. -/
def rowsA6 : List RowA :=
  [⟨0x06, 0x000, .fcvtSW⟩, ⟨0x06, 0x001, .fcvtWS⟩, ⟨0x06, 0x002, .fcvtSQ⟩, ⟨0x06, 0x003, .fcvtQS⟩,
    ⟨0x06, 0x004, .fmvGF⟩, ⟨0x06, 0x005, .fmvFG⟩, ⟨0x06, 0x006, .feq⟩, ⟨0x06, 0x007, .flt⟩, ⟨0x06, 0x008, .fle⟩]

/-- Opcode 0x07: drive operations. -/
def rowsA7 : List RowA :=
  [⟨0x07, 0x000, .clarke⟩, ⟨0x07, 0x001, .park⟩, ⟨0x07, 0x002, .ipark⟩, ⟨0x07, 0x003, .sincos⟩, ⟨0x07, 0x004, .atan2⟩,
    ⟨0x07, 0x005, .biq⟩, ⟨0x07, 0x006, .lim2⟩, ⟨0x07, 0x007, .lim2d⟩]

/-- Opcode 0x08: atomics, indirect ports, signal map, claims, PISTEPR. -/
def rowsA8 : List RowA :=
  [⟨0x08, 0x000, .swapw⟩, ⟨0x08, 0x001, .casw⟩, ⟨0x08, 0x002, .pinr⟩, ⟨0x08, 0x003, .poutr⟩, ⟨0x08, 0x004, .sigrd⟩,
    ⟨0x08, 0x005, .sigwr⟩, ⟨0x08, 0x006, .trigger⟩, ⟨0x08, 0x007, .claim⟩, ⟨0x08, 0x008, .release⟩,
    ⟨0x08, 0x009, .pistepr⟩]

/-- Format A. -/
def rowsA : List RowA := rowsA1 ++ rowsA2 ++ rowsA3 ++ rowsA4 ++ rowsA5 ++ rowsA6 ++ rowsA7 ++ rowsA8

/-- Format B, and format D, whose fields lie alike. -/
def rowsB : List RowB :=
  [⟨0x10, .addi⟩, ⟨0x11, .andi⟩, ⟨0x12, .ori⟩, ⟨0x13, .xori⟩, ⟨0x14, .slti⟩, ⟨0x15, .sltiu⟩, ⟨0x16, .slli⟩,
    ⟨0x17, .srli⟩, ⟨0x18, .srai⟩, ⟨0x20, .ldw⟩, ⟨0x21, .ldh⟩, ⟨0x22, .ldhu⟩, ⟨0x23, .ldb⟩, ⟨0x24, .ldbu⟩,
    ⟨0x25, .flw⟩, ⟨0x28, .stw⟩, ⟨0x29, .sth⟩, ⟨0x2A, .stb⟩, ⟨0x2B, .fsw⟩, ⟨0x30, .jalr⟩, ⟨0x31, .loop⟩,
    ⟨0x32, .csrrd⟩, ⟨0x33, .csrwr⟩, ⟨0x34, .pistep⟩, ⟨0x35, .ordarg⟩, ⟨0x36, .ordhdr⟩, ⟨0x37, .ard⟩, ⟨0x38, .ordend⟩,
    ⟨0x50, .beq⟩, ⟨0x51, .bne⟩, ⟨0x52, .blt⟩, ⟨0x53, .bge⟩, ⟨0x54, .bltu⟩, ⟨0x55, .bgeu⟩]

/-- Format C. -/
def rowsC : List RowC :=
  [⟨0x40, .lui⟩, ⟨0x41, .jal⟩, ⟨0x42, .loopi⟩, ⟨0x43, .sigrdi⟩, ⟨0x44, .trap⟩, ⟨0x45, .waitcatch⟩, ⟨0x46, .yield⟩]

/-- Format E. -/
def rowsE : List RowE :=
  [⟨0x60, 0, .pin⟩, ⟨0x61, 0, .poutMode0⟩, ⟨0x61, 1, .poutMode1⟩, ⟨0x62, 0, .psetOr⟩, ⟨0x62, 1, .psetAndnot⟩,
    ⟨0x62, 2, .psetXor⟩]

/-- Fields of a word: the opcode, the register fields of formats A to D, and the immediates. -/
def wordOp (w : Word) : Nat := (w.extractLsb' 25 7).toNat
def wordFunc (w : Word) : Nat := (w.extractLsb' 0 10).toNat
def wordMode (w : Word) : Nat := (w.extractLsb' 0 4).toNat
def wordGd (w : Word) : BitVec 5 := w.extractLsb' 20 5
def wordGs1 (w : Word) : BitVec 5 := w.extractLsb' 15 5
def wordGs2 (w : Word) : BitVec 5 := w.extractLsb' 10 5
def wordImm15 (w : Word) : BitVec 15 := w.extractLsb' 0 15
def wordImm20 (w : Word) : BitVec 20 := w.extractLsb' 0 20
def wordPort (w : Word) : BitVec 16 := w.extractLsb' 4 16

/-- The command that a word of pair p's instruction memory spells; none where its opcode, function or mode is reserved. -/
def onnusDecode (p : PairNo) (w : Word) : Option Instr :=
  match rowsA.find? (fun r => r.op == wordOp w && r.func == wordFunc w) with
  | some r => some (r.ins p (wordGd w) (wordGs1 w) (wordGs2 w))
  | none =>
    match rowsB.find? (fun r => r.op == wordOp w) with
    | some r => some (r.ins p (wordGd w) (wordGs1 w) (wordImm15 w))
    | none =>
      match rowsC.find? (fun r => r.op == wordOp w) with
      | some r => some (r.ins p (wordGd w) (wordImm20 w))
      | none =>
        match rowsE.find? (fun r => r.op == wordOp w && r.mode == wordMode w) with
        | some r => some (r.ins p (wordGd w) (wordPort w))
        | none => none

end Sys2Proof
end

