-- ==== Sys2Proof/Machine/LineCode.lean ====
section
/-! DEFINITION. Machine/LineCode.lean: the 8b/10b line code of the gate links and what a receiver makes of the 80 line bits of
a frame (R186, R187, R213). The code tables and the first disparity are those of IEEE 802.3 Clause 36, which R186 names and
does not print (PRESUMED, assumption log 79). A code group is a number of ten bits, the bit sent first lowest. -/
namespace Sys2Proof.Machine

/-- The six-bit half of D.x at negative running disparity. -/
def code6 : List Nat :=
  [57, 46, 45, 35, 43, 37, 38, 7, 39, 41, 42, 11, 44, 13, 14, 58, 54, 49, 50, 19, 52, 21, 22, 23, 51, 25, 26, 27, 28, 29, 30, 53]

/-- The four-bit half of D.x.y at negative running disparity. -/
def code4 : List Nat := [13, 9, 10, 3, 11, 5, 6, 7]

/-- Ones among the low ten bits. -/
def ones10 (n : Nat) : Nat := ((List.range 10).filter (fun i => n.testBit i)).length

/-- The code group of a byte; `neg` is negative running disparity. -/
def encData (neg : Bool) (b : Nat) : Nat :=
  let x := b % 32
  let y := b / 32 % 8
  let c := code6.getD x 0
  let g6 := if neg || (ones10 c = 3 && x ≠ 7) then c else 63 - c
  let neg4 := if ones10 g6 = 3 then neg else decide (ones10 g6 < 3)
  let alt := y = 7 && (if neg4 then [17, 18, 20] else [11, 13, 14]).contains x
  let c := if alt then 14 else code4.getD y 0
  let g4 := if neg4 || (ones10 c = 2 && y ≠ 3) then c else 15 - c
  g6 + 64 * g4

/-- K28.5. -/
def encK (neg : Bool) : Nat := if neg then 380 else 643

/-- Running disparity after a code group: its own where it is unbalanced. -/
def nextNeg (neg : Bool) (g : Nat) : Bool := if ones10 g = 5 then neg else decide (ones10 g < 5)

/-- A received code group: the byte and whether it is K28.5; none where it is invalid or breaks the disparity. -/
def decGroup (neg : Bool) (g : Nat) : Option (Bool × Byte) :=
  if g = encK neg then some (true, 0xBC)
  else ((List.range 256).find? (fun b => encData neg b == g)).map (fun b => (false, BitVec.ofNat 8 b))

/-- Code groups of a frame's characters from disparity `neg` on, and the disparity after them. -/
def encGroups : Bool → List (Bool × Byte) → List Nat × Bool
  | neg, [] => ([], neg)
  | neg, (k, b) :: r =>
    let g := if k then encK neg else encData neg b.toNat
    let (l, n) := encGroups (nextNeg neg g) r
    (g :: l, n)

/-- The 80 line bits of a frame, the first group lowest (R187). -/
def encLine (neg : Bool) (l : List (Bool × Byte)) : BitVec 80 × Bool :=
  let (g, n) := encGroups neg l
  (BitVec.ofNat 80 (g.foldr (fun x a => x + 1024 * a) 0), n)

def decGroups : Bool → Nat → Nat → List (Option (Bool × Byte)) × Bool
  | neg, 0, _ => ([], neg)
  | neg, n + 1, w =>
    let g := w % 1024
    let (l, m) := decGroups (nextNeg neg g) n (w / 1024)
    (decGroup neg g :: l, m)

/-- The characters of a payload frame: B0 to B7 (R187). -/
def payloadChars (w : BitVec 64) : List (Bool × Byte) := (leBytes 8 w.toNat).map (fun b => (false, b))

/-- The characters of a training frame: K28.5, TT, B1 to B5 and CHK, the exclusive OR of TT to B5 (R213). -/
def trainChars (tt : Byte) (b : List Byte) : List (Bool × Byte) :=
  let d := tt :: slice b 0 5
  (true, 0xBC) :: (d ++ [d.foldl (· ^^^ ·) 0]).map (fun x => (false, x))

/-- What a receiver makes of a frame. -/
inductive RxFrame where
  /-- An invalid code group, a disparity error, a K code group out of place, or a bad CHK. -/
  | bad
  | payload (w : BitVec 64)
  | training (tt : Byte) (b : List Byte)
  deriving DecidableEq, Repr

/-- The frame that eight characters make. -/
def rxChars (l : List (Bool × Byte)) : RxFrame :=
  if l.all (fun c => !c.1) then .payload (BitVec.ofNat 64 (leNat (l.map (·.2))))
  else match l with
    | (true, _) :: r =>
      let d := r.map (·.2)
      if r.all (fun c => !c.1) && d.foldl (· ^^^ ·) 0 == 0 then .training (d.getD 0 0) (slice d 1 5) else .bad
    | _ => .bad

/-- What a line brings: the frame `f` from elsewhere, or, where none is given, the one its sender put on it; a line error leaves
no code group. -/
def lineIn (err other : Bool) (f : BitVec 80) : Option (BitVec 80) :=
  if err then some 0 else if other then some f else none

/-- A received frame and the disparity after it; an idle line brings a bad frame. -/
def rxLine (neg : Bool) (line : Option (BitVec 80)) : RxFrame × Bool :=
  match line with
  | none => (.bad, neg)
  | some w =>
    let (l, n) := decGroups neg 8 w.toNat
    (if l.all (·.isSome) then rxChars (l.filterMap id) else .bad, n)

end Sys2Proof.Machine
end

