-- ==== Sys2Proof/Machine/Modulator.lean ====
section
/-! DEFINITION. Machine/Modulator.lean: angle streams, phase tables, carriers, compares, dead time, raw mode, the chopper
and the crew commands (R138 to R185). -/
namespace Sys2Proof.Machine

/-! ### Angle and table (R149 to R154) -/
/-- An increment clamped to ±1,374,389 (R149). -/
def clampInc (i : Int) : Int := clampInt (-1374389) 1374389 i

/-- The modulator's read of table t at an angle word (R151). -/
def State.tableRead (s : State) (t : Nat) (th : Word) : Int :=
  let i := th.toNat / 2 ^ 18
  let u : Int := (bitsOf th.toNat 17 2 : Nat)
  let a := (s.ptabAt (16384 * t + i)).toInt
  let b := (s.ptabAt (16384 * t + (i + 1) % 16384)).toInt
  a + (b - a) * u / 65536

/-- The phase shift S_k (R152). -/
def phaseShift (kind : Nat) (rev six : Bool) (k : Nat) : Word :=
  let sh3 (k : Nat) : Word := 0x55555555#32 * BitVec.ofNat 32 (if rev then (3 - k) % 3 else k)
  match kind with
  | 1 => sh3 k
  | 2 => if k < 3 then sh3 k else sh3 (k - 3) + (if six then 0x2AAAAAAB#32 else 0x15555555#32)
  | 3 => if k = 0 then 0 else 0x80000000#32
  | 4 => if k < 2 then 0 else 0x40000000#32
  | _ => 0

/-- θ_k = ANG + OFS_ACT − S_k (R152). -/
def State.phaseAngle (s : State) (n k : Nat) : Word :=
  s.rd (R.CREW_ANG n) + s.rd (R.CREW_OFS_ACT n) -
    phaseShift (s.crewKind n) (s.bit (F.CREW_CFG_REV n)) (s.bit (F.CREW_CFG_SIX n)) k

def State.crewPeriod (s : State) (n : Nat) : Nat := s.get (F.CREW_CPER_PERIOD n)
def State.crewH (s : State) (n : Nat) : Nat := s.crewPeriod n / 2

/-! ### Carriers (R143 to R145, R177, R179, R180) -/
def State.car (s : State) (n j : Nat) : CarRec := mget {} (s.crew n).cars j
def State.setCar (s : State) (n j : Nat) (c : CarRec) : State :=
  s.setCrew n { s.crew n with cars := mset {} (s.crew n).cars j c }

/-- The carrier of set j counts up: its next point is a peak. -/
def State.rising (s : State) (n j : Nat) : Bool := (s.crew n).upSets.testBit j

/-- The carrier count of set j: from 0 at the valley to H at the peak and back (R143). -/
def State.carrier (s : State) (n j : Nat) : Nat :=
  let c := s.car n j
  let e := min (s.crewH n) (c.len - (c.next - s.tb))
  if s.rising n j then e else s.crewH n - e

/-- a × b / c rounded, ties up. -/
def ratioUp (a b c : Nat) : Nat := (2 * a * b + c) / (2 * c)

/-- Counts by which set j runs behind set 0 (R144); in a seam, the difference of their shifts behind the seam epoch. -/
def State.setShift (s : State) (n j : Nat) : Nat :=
  let per := s.crewPeriod n
  if s.bit (F.CREW_SEAM_EN n) then
    let g := s.get (F.CREW_SEAM_GIDX0 n)
    let t := s.get (F.CREW_SEAM_MTOT n)
    ratioUp (g + j) per t - ratioUp g per t
  else ratioUp j per (s.crewM n)

/-- The configured leader that a CSYNC follower's carriers are locked to (R177). -/
def State.syncLeader (s : State) (n : Nat) : Option Nat :=
  if s.bit (F.CREW_TANDEM_EN n) && s.bit (F.CREW_TANDEM_CSYNC n) && !s.bit (F.CREW_TANDEM_LEADER n) then
    (s.tandemCrews n).find? (fun m => s.bit (F.CREW_TANDEM_LEADER m))
  else none

/-- Place of set 0 in its carrier period as the crew's carriers start: 0 is the valley. A CSYNC follower runs
round(r × PERIOD / (K × m)) counts behind its leader, where r is its rank among the followers (R177); the other crews start
with set 0's valley (DESIGN CHOICE, assumption log 76). -/
def State.startPlace (s : State) (n : Nat) : Nat :=
  let per := s.crewPeriod n
  match s.syncLeader n with
  | some l =>
    let fol := (s.tandemCrews n).filter (fun m => m != l)
    let r := (fol.filter (fun m => decide (m ≤ n))).length
    let d := s.carrier l 0
    let at0 := if s.crewState l = cUNUSED then 0 else if s.rising l 0 then d else per - d
    (at0 + per - ratioUp r per ((fol.length + 1) * s.crewM n)) % per
  | none => 0

/-- The carriers of crew n start, each at its place (R138, R144, R177). -/
def State.startCarriers (s : State) (n : Nat) : State :=
  let per := s.crewPeriod n
  let h := s.crewH n
  let p0 := s.startPlace n
  loopN (s.crewM n) (fun j s =>
    let p := (p0 + per - s.setShift n j) % per
    let up := 0 < p && p ≤ h
    let d := if p = 0 then 0 else if up then h - p else per - p
    let s := s.setCar n j { next := s.tb + d, len := h, per := per }
    s.setCrew n { s.crew n with upSets := natBit (s.crew n).upSets j up }) s

/-- A CARRIER_VALLEY or CARRIER_PEAK of set j: the state at that point, where it is the set's next one (R143). -/
def State.carrierAt (s : State) (n j : Nat) (valley : Bool) : Option State :=
  if s.crewState n = cUNUSED || s.crewM n ≤ j || s.rising n j = valley then none else some (s.advanceTb (s.car n j).next)

/-- Counts by which crew n shortens the period that begins (R180); a CSYNC follower keeps its lag behind its leader. -/
def State.corrOf (s : State) (n : Nat) : Int :=
  if s.bit (F.CREW_SEAM_EN n) then (s.crew n).seamCorr
  else match s.syncLeader n with
    | some l => (s.crew l).seamCorr
    | none => 0

/-- The period that begins at a valley: PERIOD less the seam's correction, no half of it below 8,000 counts (R180); the
correction is shared by both halves (DESIGN CHOICE, assumption log 76). -/
def State.nextPeriod (s : State) (n : Nat) : Nat :=
  if s.corrOf n = 0 then s.crewPeriod n else max 16000 ((s.crewPeriod n : Int) - s.corrOf n).toNat

/-- Set 0's carrier point: where CFG.CATCH selects it and CFG.CDIV keeps it, a catch follows CDLY counts later (R145). The
compares in use are noted for the metering of that catch (R253). -/
def State.catchPoint (s : State) (n : Nat) (valley : Bool) : State :=
  let sel := s.get (F.CREW_CFG_CATCH n)
  if !(sel = 2 || (sel = 0 && valley) || (sel = 1 && !valley)) then s
  else if (s.crew n).catchN ≠ 0 then s.setCrew n { s.crew n with catchN := (s.crew n).catchN - 1 }
  else
    let s := s.setCrew n { s.crew n with
      tc := s.tb, catchDue := some (s.tb + s.get (F.CREW_CDLY_DLY n)), catchN := s.get (F.CREW_CFG_CDIV n) }
    loopL (s.crewLegs n) (fun x s => s.setLeg x { s.leg x with cmpTs := s.get (F.LEG_CMP_C x) }) s

/-! ### Compares (R154 to R158) -/
/-- Counts from a load point of set j to its next one, by CFG.UPD (R156). -/
def State.loadSpan (s : State) (n j : Nat) : Nat :=
  let c := s.car n j
  match s.get (F.CREW_CFG_UPD n) with
  | 0 => c.per
  | 1 => c.next - s.tb
  | _ => min ((s.tb / 128 + 1) * 128) c.next - s.tb

/-- The compare value of a leg (R154), d × H exact and rounded once. -/
def State.compareOf (s : State) (n j k : Nat) : Nat :=
  let th := s.phaseAngle n k
  let th := if s.bit (F.CREW_CFG_PROJ n)
    then th + BitVec.ofInt 32 (roundDiv ((s.crew n).inc * (s.loadSpan n j : Int)) 256) else th
  let v := s.tableRead (s.get (F.CREW_TBL_TABLE n)) th
  let (z, e) := (f32.exactN (s.rd (R.CREW_AMP_ACT n)).toNat).getD (0, 0)
  let kk := (-e).toNat
  -- d = num / den
  let num : Int := 2 ^ (31 + kk) + z * 2 ^ (e + kk).toNat * v
  let den : Nat := 2 ^ (32 + kk)
  let dmin := s.get (F.CREW_DLIM_DMIN n)
  let dmax := s.get (F.CREW_DLIM_DMAX n)
  let (num, den) : Int × Nat := if num * 65535 < dmin * den then ((dmin : Int), 65535) else (num, den)
  let (num, den) : Int × Nat := if num * 65535 > dmax * den then ((dmax : Int), 65535) else (num, den)
  let h := s.crewH n
  let c := roundDiv (num * h) den + (s.rd (R.CREW_TRIM n (j * kindLegs (s.crewKind n) + k))).toInt
  (clampInt 0 h c).toNat

/-- Carrier modulation applies to PH3, PH6 and HB crews. -/
def State.carrierCrew (s : State) (n : Nat) : Bool := let k := s.crewKind n; k == 1 || k == 2 || k == 3

/-- A leg that the crew's modulation commands: MODE 0. -/
def State.legModulated (s : State) (x : Nat) : Bool := s.get (F.LEG_CTL_MODE x) == 0

/-- LEG.CMP takes a value; up to t_s of the latest carrier point with a catch it is the one that point's metering uses
(R253). -/
def State.putCmp (s : State) (n x c : Nat) : State :=
  let s := s.put (F.LEG_CMP_C x) c
  if s.tb ≤ (s.crew n).tc + 480 then s.setLeg x { s.leg x with cmpTs := s.get (F.LEG_CMP_C x) } else s

/-- COMPARE_LOAD (R154): every leg of set j, at a load point of the set. -/
def State.loadCompares (s : State) (n j : Nat) : State :=
  let s := loopN (kindLegs (s.crewKind n)) (fun k s => s.putCmp n (s.crewLeg n j k) (s.compareOf n j k)) s
  s.setCar n j { s.car n j with loadAt := some s.tb }

/-- Counts from carrier count d for which a side stays on, at compare c (R155). -/
def planSpan (up : Bool) (d c h : Nat) (hs : Bool) : Nat :=
  match hs, up with
  | true, true => c - d
  | true, false => d + c
  | false, true => (h - d) + (h - c)
  | false, false => d - c

/-- `tb` at which the on-interval of a side that begins at carrier count d is planned to end; none where the compare keeps the
side on (R155, R160). -/
def State.planEnd (s : State) (n j x d : Nat) (hs : Bool) : Option Nat :=
  let c := s.get (F.LEG_CMP_C x)
  let h := s.crewH n
  if c = (if hs then h else 0) then none else some (s.tb + planSpan (s.rising n j) d c h hs)

/-- The legs of a set take the levels of the carrier's present count: high below CMP, low at or above; a CMP of H keeps the
high side on (R155). -/
def State.levelNow (s : State) (n j : Nat) : State :=
  let d := s.carrier n j
  loopL ((s.setLegs n j).filter s.legModulated) (fun x s =>
    let c := s.get (F.LEG_CMP_C x)
    let hi := decide (d < c) || c = s.crewH n
    if (s.leg x).want = some hi then s else s.legTo x hi (s.planEnd n j x d hi)) s

def State.setRuns (s : State) (n j : Nat) : Bool := s.crewState n == cRUN && (s.crew n).runSets.testBit j

/-- A set that has not begun begins at its load point once the crew is in RUN (R158); none begins while CTL.STOP runs. -/
def State.setBegin (s : State) (n j : Nat) : State :=
  if s.crewState n = cRUN && s.setActive n j && (s.crew n).stopSets = 0
  then s.setCrew n { s.crew n with runSets := natBit (s.crew n).runSets j true } else s

/-! ### Carrier points -/
/-- The current-sharing loop of a set (R165): the means of the active sets are those of their latest carrier periods. -/
def State.shareTrim (s : State) (n j : Nat) : State :=
  let m := s.crewM n
  let act := s.activeSets n
  if m < 2 || !s.bit (F.CREW_SHARE_EN n) || !s.setActive n j then s
  else
    let lp := kindLegs (s.crewKind n)
    let mean (x : Nat) : Int × Nat := ((s.leg x).perSum, (s.leg x).perN)
    let dmax : Int := (s.get (F.CREW_SHARE_LIM n) * s.crewH n / 10000 : Nat)
    let ks : Int := (s.get (F.CREW_SHARE_KS n) : Nat)
    loopN lp (fun k s =>
      -- exact means as fractions over the product of the counts
      let ms := act.map (fun i => mean (s.crewLeg n i k))
      if ms.any (fun q => q.2 = 0) then s
      else
        let den : Nat := (ms.map (·.2)).foldl (· * ·) 1
        let ijk := mean (s.crewLeg n j k)
        let sum : Int := (ms.map (fun q => q.1 * ((den / q.2 : Nat) : Int))).foldl (· + ·) 0
        let a : Nat := act.length
        -- e = ijk − mean = (a·ijk·den/n − sum) / (a·den)
        let eNum : Int := a * (ijk.1 * ((den / ijk.2 : Nat) : Int)) - sum
        let i := j * lp + k
        let t := (s.rd (R.CREW_TRIM n i)).toInt - roundDiv (eNum * ks) (a * den * 65536)
        s.wr (R.CREW_TRIM n i) (BitVec.ofInt 32 (clampInt (-dmax) dmax t))) s

/-- Trims of sets that dropped since the last valley are cleared (R168); the set's fast sums of the period that ends go to the
sharing loop and start afresh. -/
def State.valleyTrims (s : State) (n j : Nat) : State :=
  let s := loopL (s.setLegs n j) (fun x s => s.setLeg x { s.leg x with
    perSum := (s.leg x).fastSum, perN := (s.leg x).fastN, fastSum := 0, fastN := 0 }) s
  let lp := kindLegs (s.crewKind n)
  let tc := (s.crew n).trimClear
  let s := loopN 8 (fun d s => if tc.testBit d then loopN lp (fun k s => s.wr (R.CREW_TRIM n (d * lp + k)) 0) s else s) s
  (s.setCrew n { s.crew n with trimClear := 0 }).shareTrim n j

/-- A rejoining set restarts at its own valley after PRECH, if it is still eligible (R170); not while CTL.STOP runs. -/
def State.valleyRejoin (s : State) (n j : Nat) : State :=
  let c := s.crew n
  match c.rejoin.find? (fun p => p.1 == j) with
  | some (_, t0) =>
    if c.stopSets = 0 && t0 + min 1000 (s.get (F.CREW_PRECH_US n)) * 800 ≤ s.now then
      let s := s.setCrew n { c with rejoin := c.rejoin.filter (fun p => p.1 != j) }
      if s.setEligible n j then s.setJoin n j else loopL (s.setLegs n j) (fun x s => s.legOff x) s
    else s
  | none => s

/-- Dropped sets that ORD_CLEARFAULT has made eligible begin to rejoin: their low sides precharge in a crew that modulates or is
about to (R170). -/
def State.beginRejoin (s : State) (n : Nat) (sets : List Nat) : State :=
  let s := s.setCrew n { s.crew n with rejoin := (s.crew n).rejoin ++ sets.map (fun j => (j, s.now)) }
  if s.crewState n = cARMED || (s.crewState n = cRUN && (s.crew n).stopSets = 0) then
    loopL sets (fun j s => loopL (s.setLegs n j) (fun x s => s.legTo x false none) s) s
  else s

/-- CTIME in counts: c(T) = floor((seconds × 10^9 + nanoseconds) × 4 / 5) (R179). -/
def TimeVal.counts (t : TimeVal) : Nat := t.toNs * 4 / 5

/-- CTIME is locked: TIME.STAT shows LOCKED or MASTER. -/
def State.ctimeLocked (s : State) : Bool := let st := s.get F.TIME_STAT_STATE; st == 2 || st == 4

/-- Seam states as STAT.SEAMST codes them (R181). -/
def State.seamDegrade (s : State) (n : Nat) : State := (s.put (F.CREW_STAT_SEAMST n) 4).fault 0x0311 n

/-- What R180 lets the crew correct of SEAM_ERR in one period: all of it, or SEAM.SLEW counts in ARMED and RUN. -/
def State.seamStep (s : State) (n : Nat) (err : Int) : Int :=
  if s.crewState n = cARMED || s.crewState n = cRUN then
    clampInt (-(s.get (F.CREW_SEAM_SLEW n) : Int)) (s.get (F.CREW_SEAM_SLEW n)) err
  else err

/-- SEAM_ALIGN at set 0's valley (R179 to R181): SEAM_ERR, the correction of the periods that begin, and the state machine's
valley events. -/
def State.seamValley (s : State) (n : Nat) : State :=
  let st := s.get (F.CREW_STAT_SEAMST n)
  if !s.bit (F.CREW_SEAM_EN n) || s.crewPeriod n = 0 || st = 0 then s
  else
    let per := s.crewPeriod n
    let mtot := max 1 (s.get (F.CREW_SEAM_MTOT n))
    let shift := (2 * s.get (F.CREW_SEAM_GIDX0 n) * per + mtot) / (2 * mtot)
    let r := (((s.ctime.counts : Int) - s.get (F.CREW_SEAM_EPOCH_E n) - shift) % (per : Int)).toNat
    let err : Int := if 2 * r < per then (r : Int) else (r : Int) - per
    let s := s.wr (R.CREW_SEAM_ERR n) (BitVec.ofInt 32 err)
    let ok := err.natAbs ≤ 200
    let c := s.crew n
    let c := { c with seamOk := if ok && s.ctimeLocked then c.seamOk + 1 else 0, seamBad := if ok then 0 else c.seamBad + 1
                      seamCorr := s.seamStep n err }
    let s := s.setCrew n c
    match st with
    | 1 => if c.seamOk ≥ 32 then (s.put (F.CREW_STAT_SEAMST n) 2).raise (F.CREW_EVT_SEAMCHG n) else s
    | 2 => if c.seamBad ≥ 2 then s.seamDegrade n else s
    | 3 => if !ok then s.seamDegrade n else if s.ctimeLocked then s.put (F.CREW_STAT_SEAMST n) 2 else s
    | _ => s

/-- A change of CTIME's lock moves every seam (R181). -/
def State.seamLock (s : State) (locked : Bool) : State :=
  loopN 32 (fun n s =>
    let st := s.get (F.CREW_STAT_SEAMST n)
    if !locked && st = 2 then
      ((s.setCrew n { s.crew n with seamHold := s.now }).put (F.CREW_STAT_SEAMST n) 3).fault 0x0310 n
    else if locked && st = 3 && (s.rd (R.CREW_SEAM_ERR n)).toInt.natAbs ≤ 200 then s.put (F.CREW_STAT_SEAMST n) 2
    else if locked && st = 4 then
      let s := s.setCrew n { s.crew n with seamOk := 0, seamBad := 0 }
      (s.put (F.CREW_STAT_SEAMST n) 1).raise (F.CREW_EVT_SEAMCHG n)
    else s) s

/-- A leg at a valley of its set: a DT that was written takes effect (R159), and a shoot lockout ends max(DT_LH, DT_HL) counts
from here (R162). -/
def State.legValley (s : State) (x : Nat) : State :=
  let s := s.setLeg x { s.leg x with dtAct := none, changed := false }
  if s.bit (F.LEG_LVL_LOCK x) && (s.leg x).lockEnd.isNone then
    s.setLeg x { s.leg x with lockEnd := some (s.tb + max (s.dtLH x) (s.dtHL x)) }
  else s

/-- The set's carrier rises, over half of the period that begins. -/
def State.carrierUp (s : State) (n j : Nat) : State :=
  let c := s.car n j
  let per := s.nextPeriod n
  let s := s.setCar n j { c with next := c.next + per / 2, len := per / 2, per := per }
  s.setCrew n { s.crew n with upSets := natBit (s.crew n).upSets j true }

/-- The set's carrier falls, over the rest of its period. -/
def State.carrierDown (s : State) (n j : Nat) : State :=
  let c := s.car n j
  let s := s.setCar n j { c with next := c.next + (c.per - c.per / 2), len := c.per - c.per / 2 }
  s.setCrew n { s.crew n with upSets := natBit (s.crew n).upSets j false }

/-- A valley of set j: the seam and the catch (set 0), the carrier, dead times and lockouts, trims, a set that rejoins. -/
def State.valleyPrep (s : State) (n j : Nat) : State :=
  let s := if j = 0 then (s.seamValley n).catchPoint n true else s
  let s := s.carrierUp n j
  let s := loopL (s.setLegs n j) (fun x s => s.legValley x) s
  (s.valleyTrims n j).valleyRejoin n j

/-- A stopping set ends at its valley; the crew is IDLE after its last one, with all switches off. -/
def State.valleyStop (s : State) (n j : Nat) : State :=
  let s := loopL (s.setLegs n j) (fun x s => s.legOff x) s
  let c := s.crew n
  let c := { c with stopSets := natBit c.stopSets j false, runSets := natBit c.runSets j false }
  let s := s.setCrew n c
  if c.stopSets = 0 then profCrewState n ((s.crewOff n).setCrewState n cIDLE) else s

/-- A load point of set j: its compares load, it begins if it is to, and it takes the levels of the point. -/
def State.loadPoint (s : State) (n j : Nat) : State :=
  let s := (s.loadCompares n j).setBegin n j
  if s.setRuns n j then s.levelNow n j else s

/-- CARRIER_VALLEY (R143, R156, R158, R165, R170, R179). -/
def execCarrierValley (n : CrewNo) (j : Fin 8) (s : State) : Out :=
  match s.carrierAt n j true with
  | none => .next s
  | some s =>
    let s := s.valleyPrep n j
    if (s.crew n).stopSets.testBit j then .next (s.valleyStop n j)
    else if s.carrierCrew n then .next (s.loadPoint n j)
    else .next s

/-- A peak of set j: the catch (set 0) and the carrier. -/
def State.peakPrep (s : State) (n j : Nat) : State :=
  let s := if j = 0 then s.catchPoint n false else s
  let s := s.carrierDown n j
  loopL (s.setLegs n j) (fun x s => s.setLeg x { s.leg x with changed := false }) s

/-- A peak is a load point in double and immediate mode (R156); in single mode the set takes its levels. -/
def State.peakGo (s : State) (n j : Nat) : State :=
  if s.get (F.CREW_CFG_UPD n) ≥ 1 then s.loadPoint n j
  else if s.setRuns n j then s.levelNow n j else s

/-- CARRIER_PEAK (R143, R156). -/
def execCarrierPeak (n : CrewNo) (j : Fin 8) (s : State) : Out :=
  match s.carrierAt n j false with
  | none => .next s
  | some s =>
    let s := s.peakPrep n j
    if s.carrierCrew n then .next (s.peakGo n j) else .next s

/-- SEAM_HOLD_EXPIRY (R181). -/
def execSeamHoldExpiry (n : CrewNo) (s : State) : Out :=
  if s.get (F.CREW_STAT_SEAMST n) = 3 then
    .next ((s.until ((s.crew n).seamHold + s.get (F.CREW_SEAM_HOLD_MS n) * msCounts)).seamDegrade n)
  else .next s

/-- `tb` at which the carrier of set j crosses compare c in this half-period (R155). -/
def State.crossAt (s : State) (n j c : Nat) : Nat :=
  let r := s.car n j
  r.next + min r.len (if s.rising n j then c else s.crewH n - c) - r.len

/-- The carrier has crossed the leg's compare: low while it rises, high while it falls (R155, R160). -/
def State.cross (s : State) (n j x : Nat) : State :=
  let hi := !s.rising n j
  let s := s.legTo x hi (s.planEnd n j x (s.get (F.LEG_CMP_C x)) hi)
  s.setLeg x { s.leg x with changed := true }

/-- The leg of running set j is to change its level where the carrier crosses CMP in this half-period: it has not done so yet
(R157), and neither a CMP of 0 nor one of H makes a crossing (R155). -/
def State.crosses (s : State) (n j x : Nat) : Bool :=
  let hi := !s.rising n j
  s.setRuns n j && s.legModulated x && s.carrierCrew n && !(s.leg x).changed && (s.leg x).want != some hi &&
    s.get (F.LEG_CMP_C x) != (if hi then 0 else s.crewH n)

/-- EDGE_DECISION (R155, R157, R159, R160): the carrier crosses the leg's compare. -/
def execEdgeDecision (x : LegNo) (s : State) : Out :=
  match s.legCrew x with
  | none => .next s
  | some n =>
    match s.legSet n x with
    | none => .next s
    | some (j, _) =>
      if s.crosses n j x then .next ((s.advanceTb (s.crossAt n j (s.get (F.LEG_CMP_C x)))).cross n j x) else .next s

/-- The low-side pulse of a refresh, where it is not too short to be produced (R160, R163). -/
def State.refreshOn (s : State) (x : Nat) : State :=
  let s := s.setLeg x { s.leg x with refAt := s.tb }
  if max 1 (s.get (F.LEG_BOOT_REFW x)) < s.get (F.LEG_MINPW_PW x) then s.dropPulse x
  else if s.mayOn x false then s.edge x false true
  else s

/-- DEAD_TIME_EXPIRY (R159, R161): an on-edge that waits is decided. -/
def execDeadTimeExpiry (x : LegNo) (s : State) : Out :=
  match (s.leg x).pendOn with
  | none => .next s
  | some hs =>
    let s := s.advanceTb (max (s.leg x).pendAt (s.freeAt x hs))
    let s := s.setLeg x { s.leg x with pendOn := none }
    let s := s.putB (F.LEG_LVL_DTW x) false
    if (s.leg x).refresh && !hs then .next (s.refreshOn x)
    else if s.mayOn x hs then .next (s.edge x hs true)
    else .next s

/-! ### Crew commands -/
/-- Ends a diagnostic on tile k with verdict 7 for unfinished legs (R231). -/
def State.diagAbort (s : State) (k : Nat) : State :=
  match (s.link k).diag with
  | none => s
  | some d =>
    let s := loopL (d.leg :: d.legs) (fun p s =>
      let v := s.get (F.YILOS_DIAG_STAT_V k)
      let s := s.put (F.YILOS_DIAG_STAT_V k) (v - v / 2 ^ (4 * p) % 16 * 2 ^ (4 * p) + 7 * 2 ^ (4 * p))
      s.setBitAt (F.YILOS_DIAG_STAT_DONE k) p true) s
    let l := s.link k
    -- the test current is switched off through tile register 0x10, after an operation pair that has begun
    let s := s.setLink k { l with diag := none, dop := l.dop.take (l.dop.length % 2) ++ [(1, 0x10), (2, 0)] }
    (s.putB (F.YILOS_DIAG_STAT_BUSY k) false).raise (F.YILOS_EVT_DIAGDONE k)

/-- CREW_START (R138, R231); the activation lock of a rig switch makes it have no effect (R448). -/
def State.crewStart (s : State) (n : Nat) : State :=
  if s.crewState n ≠ cIDLE || s.actLock then s
  else match (s.crewLegs n).find? (fun x => !s.legModulated x) with
    | some x => s.fault 0x030C x
    | none =>
      let tiles := ((s.crewLegs n).map (· / 4)).eraseDups
      let s := loopL tiles (fun k s =>
        match (s.link k).diag with
        | some d => if (s.crewLegs n).contains (4 * k + d.leg) || d.legs.any (fun p => (s.crewLegs n).contains (4 * k + p))
            then s.diagAbort k else s
        | none => s) s
      let re := (s.crew n).rejoin.map (fun p => (p.1, s.now))
      let s := loopL (s.activeSets n ++ re.map (·.1)) (fun j s => loopL (s.setLegs n j) (fun x s => s.legTo x false none) s) s
      let s := s.setCrew n { s.crew n with startAt := s.now, runSets := 0, stopSets := 0, rejoin := re }
      profCrewState n (s.setCrewState n cARMED)

/-- CREW_STOP (R138). -/
def State.crewStop (s : State) (n : Nat) : State :=
  if s.crewState n = cARMED then profCrewState n ((s.crewOff n).setCrewState n cIDLE)
  else if s.crewState n = cRUN then
    let sets := s.get (F.CREW_STAT_SETS n)
    if sets = 0 then profCrewState n ((s.crewOff n).setCrewState n cIDLE)
    else s.setCrew n { s.crew n with stopSets := sets }
  else s

def execCrewStart (n : CrewNo) (s : State) : Out := s.onReg (R.CREW_CTL n) fun s =>
  .next (s.crewStart n)
def execCrewStop (n : CrewNo) (s : State) : Out := s.onReg (R.CREW_CTL n) fun s =>
  .next (s.crewStop n)

/-- CMD_OFS_WRITE (R153). -/
def execCmdOfsWrite (n : CrewNo) (v : Word) (s : State) : Out := s.onRegW (R.CREW_CMD_OFS n) v fun v s =>
  .next (s.wr (R.CREW_CMD_OFS n) v)

/-- CMD_AMP_WRITE (R153, R63, R64): commits offset and amplitude; its arrival is recorded in the open ledger entry. -/
def State.cmdAmp (s : State) (n : Nat) (v : Word) : State :=
  let s := s.wr (R.CREW_CMD_AMP n) v
  let c := s.crew n
  let c := { c with cmds := c.cmds ++ [{ arrival := s.tb, ofs := s.rd (R.CREW_CMD_OFS n), amp := v, load := c.load }] }
  let c := if !c.ldgOpen then c
    else if c.ldgWr.isSome then { c with ldgMulti := true } else { c with ldgWr := some (s.tb - c.ldgT) }
  s.setCrew n c

def execCmdAmpWrite (n : CrewNo) (v : Word) (s : State) : Out := s.onRegW (R.CREW_CMD_AMP n) v fun v s =>
  .next (s.cmdAmp n v)

/-- ANGSET_WRITE (R149). -/
def execAngsetWrite (n : CrewNo) (v : Word) (s : State) : Out := s.onRegW (R.CREW_ANGSET n) v fun v s =>
  .next (s.setCrew n { s.crew n with angSet := some v })

/-- TBL_DATA_ACCESS (R150): a read, or a write of `v`. -/
def execTblDataAccess (w : Option Word) (s : State) : Out :=
  (if w.isSome then s.onReg R.MOD_TBL_DATA else s.onRegRead R.MOD_TBL_DATA) fun s =>
  let a := s.get F.MOD_TBL_ADDR_TABLE * 16384 + s.get F.MOD_TBL_ADDR_INDEX
  let adv (s : State) : State :=
    let b := (a + 1) % 262144
    (s.put F.MOD_TBL_ADDR_TABLE (b / 16384)).put F.MOD_TBL_ADDR_INDEX (b % 16384)
  match w with
  | none => .next (adv { s with rdata := s.ptabAt a })
  | some v =>
    if s.bitAt F.MOD_TBUSE_USE (a / 16384) then .next (s.fault 0x0307 (a / 16384))
    else .next (adv (s.setPtab a v))

/-! ### Leg commands -/
/-- LEG_MODE_WRITE (R162). -/
def State.legMode (s : State) (x m : Nat) : State :=
  let busy := match s.legCrew x with
    | some n => s.crewState n == cARMED || s.crewState n == cRUN
    | none => false
  if busy then s.fault 0x030C x
  else if m = 3 then s
  else if m = s.get (F.LEG_CTL_MODE x) then s
  else (s.put (F.LEG_CTL_MODE x) m).setLeg x { s.leg x with modePend := true }

def execLegModeWrite (x : LegNo) (m : BitVec 2) (s : State) : Out := s.onReg (R.LEG_CTL x) fun s =>
  .next (s.legMode x m.toNat)

/-- LEG_RAW_WRITE (R162): taken at the next tick. -/
def State.legRaw (s : State) (x : Nat) (hs ls : Bool) : State :=
  let s := (s.putB (F.LEG_RAW_HS x) hs).putB (F.LEG_RAW_LS x) ls
  s.setLeg x { s.leg x with rawPend := true }

def execLegRawWrite (x : LegNo) (hs ls : Bool) (s : State) : Out := s.onReg (R.LEG_RAW x) fun s =>
  .next (s.legRaw x hs ls)

/-- A shoot request (R162). -/
def State.shoot (s : State) (x : Nat) : State :=
  let l := s.leg x
  let lasting := match l.lastShoot with
    | some t => decide (s.now < t + 800000000)
    | none => false
  let s := s.legOff x
  let s := s.putB (F.LEG_LVL_LOCK x) true
  let s := s.raise (F.LEG_EVT_SHOOT x)
  let s := (s.incSat (F.LEG_SHOOTCNT_COUNT x)).incSat F.MOD_SHOOTCNT_COUNT
  let s := s.fault 0x0301 x
  let s := s.setLeg x { s.leg x with lastShoot := some s.now, lockAt := s.tb, lockEnd := none }
  let s := match s.legCrew x with
    | some n => s.raise (F.CREW_EVT_SHOOT n)
    | none => s
  if lasting then
    let s := (s.fault 0x0302 x).legLasting x
    match s.legCrew x with
    | some n => s.faultStop n 0x0302 x
    | none => s
  else s

/-- What a leg in raw or off mode does at a tick (R162, R562). -/
def State.legTick (s : State) (x : Nat) : State :=
  let l := s.leg x
  if !l.rawPend && !l.modePend && !l.lastPend then s
  else
    let s := s.setLeg x { l with rawPend := false, modePend := false, lastPend := false }
    if s.bit (F.LEG_LVL_LASTING x) then (if l.lastPend then s.legOff x else s)
    else
      let mode := s.get (F.LEG_CTL_MODE x)
      if mode = 1 then
        if s.bit (F.LEG_LVL_LOCK x) then s
        else
          let hs := s.bit (F.LEG_RAW_HS x)
          let ls := s.bit (F.LEG_RAW_LS x)
          if hs && ls then s.shoot x
          else if hs then s.legTo x true none
          else if ls then s.legTo x false none
          else s.legOff x
      else if l.modePend then s.legOff x
      else s

/-- `tb` at which the shoot lockout of a leg ends: max(DT_LH, DT_HL) counts after the set's next valley, none while that has not
come; for a leg that no crew owns, 100 µs and max(DT_LH, DT_HL) after it began (R162). -/
def State.lockoutEnd (s : State) (x : Nat) : Option Nat :=
  if !s.bit (F.LEG_LVL_LOCK x) then none
  else if (s.legCrew x).isSome then (s.leg x).lockEnd
  else some ((s.leg x).lockAt + 80000 + max (s.dtLH x) (s.dtHL x))

/-- SHOOT_LOCKOUT_END (R162). -/
def execShootLockoutEnd (x : LegNo) (s : State) : Out :=
  match s.lockoutEnd x with
  | none => .next s
  | some t =>
    let s := s.advanceTb t
    .next ((s.setLeg x { s.leg x with lockEnd := none }).putB (F.LEG_LVL_LOCK x) false)

/-- Tile minimum dead time of a leg (R159, R214). -/
def State.legDtMin (s : State) (x : Nat) : Nat := (s.link (x / 4)).dtMin.getD (x % 4) 0

/-- LEG_DT_WRITE (R159, R207): the fields of `v`; in force from the next valley. -/
def State.legDt (s : State) (x : Nat) (v : Word) : State :=
  let hl := bitsOf v.toNat 25 16
  let lh := bitsOf v.toNat 9 0
  let m := s.legDtMin x
  let pw := s.get (F.LEG_MINPW_PW x)
  if hl < m || lh < m then s.fault 0x030A x
  else if hl + pw < 176 || lh + pw < 176 then s.fault 0x040A x
  else
    let old := (s.leg x).dtAct.getD (s.rd (R.LEG_DT x))
    let s := (s.put (F.LEG_DT_DT_HL x) hl).put (F.LEG_DT_DT_LH x) lh
    if (s.legCrew x).isSome then s.setLeg x { s.leg x with dtAct := some old } else s

def execLegDtWrite (x : LegNo) (v : Word) (s : State) : Out := s.onRegW (R.LEG_DT x) v fun v s =>
  .next (s.legDt x v)

/-- LEG_MINPW_WRITE (R160, R207). -/
def State.legMinpw (s : State) (x pw : Nat) : State :=
  if pw < 40 then s
  else
    let w := (s.rd (R.LEG_DT x)).toNat
    if bitsOf w 25 16 + pw < 176 || bitsOf w 9 0 + pw < 176 then s.fault 0x040A x
    else s.put (F.LEG_MINPW_PW x) pw

def execLegMinpwWrite (x : LegNo) (pw : BitVec 8) (s : State) : Out := s.onReg (R.LEG_MINPW x) fun s =>
  .next (s.legMinpw x pw.toNat)

/-- BOOTSTRAP_REFRESH (R163): TBMAX µs after the high side's on-edge. -/
def execBootstrapRefresh (x : LegNo) (s : State) : Out :=
  if s.bit (F.LEG_CTL_CPEN x) || s.get (F.LEG_BOOT_TBMAX x) = 0 || !s.getLvl x true then .next s
  else
    let s := s.advanceTb ((s.leg x).hsOn + s.get (F.LEG_BOOT_TBMAX x) * 800)
    let s := (s.incSat (F.LEG_REFCNT_COUNT x)).raise (F.LEG_EVT_BOOTCAP x)
    let s := match s.legCrew x with
      | some n => s.raise (F.CREW_EVT_BOOTCAP n)
      | none => s
    let s := s.edge x true false
    let s := s.setLeg x { s.leg x with refresh := true, pendOn := some false, pendAt := s.tb + s.dtHL x }
    .next (s.putB (F.LEG_LVL_DTW x) true)

/-- REFRESH_PULSE_END (R163): REFW counts after the pulse began; 0 is taken as 1. -/
def execRefreshPulseEnd (x : LegNo) (s : State) : Out :=
  if (s.leg x).refresh && (s.leg x).pendOn.isNone then
    let s := s.advanceTb ((s.leg x).refAt + max 1 (s.get (F.LEG_BOOT_REFW x)))
    let s := s.edge x false false
    let s := s.setLeg x { s.leg x with refresh := false, pendOn := some true, pendAt := s.tb + s.dtLH x }
    .next (s.putB (F.LEG_LVL_DTW x) true)
  else .next s

/-! ### Chopper (R171 to R173) -/
def State.chop (s : State) (n : Nat) (b : Bool) : ChopRec := if b then (s.crew n).chopB else (s.crew n).chopA
def State.setChop (s : State) (n : Nat) (b : Bool) (c : ChopRec) : State :=
  s.setCrew n (if b then { s.crew n with chopB := c } else { s.crew n with chopA := c })

/-- A field of CHOP as it stood at the last entry to ON (R173). -/
def ChopRec.fld (c : ChopRec) (f : Fld) : Nat := bitsOf c.chop.toNat f.hi f.lo

/-- TOFF in counts, and the count of the off timer that ends FAST: FDF above 64 is taken as 64 (R172, R184). -/
def ChopRec.toff (c : ChopRec) (n : Nat) : Nat := (c.fld (F.CREW_CHOP_TOFF n) + 1) * 800
def ChopRec.fastLen (c : ChopRec) (n : Nat) : Nat := (c.toff n * min 64 (c.fld (F.CREW_CHOP_FDF n)) + 63) / 64

/-- The word of CHOP in force: in RUN that of the last entry to ON (R173). -/
def State.chopDmode (s : State) (n : Nat) : Bool :=
  if s.crewState n = cRUN then (s.chop n false).fld (F.CREW_CHOP_DMODE n) != 0 else s.bit (F.CREW_CHOP_DMODE n)

/-- The crew regulates with the chopper: STP2, or COIL with DMODE 0 (R171). -/
def State.chopCrew (s : State) (n : Nat) : Bool := s.crewKind n == 4 || (s.crewKind n == 5 && !s.chopDmode n)

/-- CHOP is taken. -/
def State.chopLatch (s : State) (n : Nat) (b : Bool) : State :=
  s.setChop n b { s.chop n b with chop := s.rd (R.CREW_CHOP n) }

/-- The chopper reference of a phase, scaled by the standstill hold factor, in fast-result counts times 2^31, rounded to
nearest (R171). -/
def State.chopRef (s : State) (n : Nat) (b : Bool) : Int :=
  -- a COIL crew that is a functional brake has reference 0 while the brake is set (R279)
  if (List.range 32).any (fun m => s.get (F.PROF_BRK_OUT m) == 2 && s.get (F.PROF_BRK_OIDX m) == n &&
      s.crewState m != cUNUSED && s.bit (F.PROF_PSTAT_BRKOUT m)) then 0 else
  let iref := (sextNat 16 (s.get (F.CREW_IREF_I n)))
  let v : Int := if s.crewKind n = 4
    then s.tableRead (s.get (F.CREW_TBL_TABLE n)) (s.phaseAngle n (if b then 2 else 0)) else 2 ^ 31
  let (z, e) := (f32.exactN (s.rd (R.PROF_HOLDK n)).toNat).getD (0, 0)
  let x := iref * v * z
  if e ≥ 0 then x * 2 ^ e.toNat else roundDiv x (2 ^ (-e).toNat)

/-- A leg of a chopper phase takes a level, planned to end at `fin`; one that has it already keeps it. -/
def State.chopLeg (s : State) (x : Nat) (hs : Bool) (fin : Option Nat) : State :=
  if (s.leg x).want = some hs then s else s.legTo x hs fin

/-- The bridge levels of a chopper state (R172). While the off timer runs, the end of an on-interval is planned: that of FAST,
or of the off-time (R160). -/
def State.chopApply (s : State) (n : Nat) (b : Bool) : State :=
  let c := s.chop n b
  let off := if c.offRun then some (c.offAt + c.toff n) else none
  let fast := if c.offRun then some (c.offAt + c.fastLen n) else none
  let x := s.crewLeg n 0 (if b then 2 else 0)
  if s.crewKind n = 4 then
    let y := s.crewLeg n 0 (if b then 3 else 1)
    match c.st with
    | .on => (s.chopLeg x c.pos none).chopLeg y (!c.pos) none
    -- the leg that goes low stays low through SLOW
    | .fast => (s.chopLeg x (!c.pos) (if c.pos then off else fast)).chopLeg y c.pos (if c.pos then fast else off)
    | .slow => (s.chopLeg x false off).chopLeg y false off
  else
    match c.st with
    | .on => s.chopLeg x true none
    | .fast => s.legOff x
    | .slow => s.chopLeg x false off

/-- The phase goes to SLOW. -/
def State.chopSlow (s : State) (n : Nat) (b : Bool) : State := (s.setChop n b { s.chop n b with st := .slow }).chopApply n b

/-- The phase begins ON: polarity and CHOP are taken here (R172, R173). A COIL crew that becomes a dump switch here turns its
switches off (R174). -/
def State.chopOn (s : State) (n : Nat) (b : Bool) : State :=
  let s := s.setChop n b { st := .on, pos := s.chopRef n b ≥ 0, onSince := s.now, offRun := false
                           chop := s.rd (R.CREW_CHOP n), lastNeg := false }
  if s.chopCrew n then s.chopApply n b
  else (s.setChop n b { s.chop n b with st := .slow }).legOff (s.crewLeg n 0 0)

/-- A chopper phase starts with the crew's RUN: ON, or SLOW where its reference is 0. -/
def State.chopBegin (s : State) (n : Nat) (b : Bool) : State :=
  if s.chopRef n b ≠ 0 then s.chopOn n b else (s.setChop n b { s.chop n b with offRun := false }).chopSlow n b

/-- CHOP_FAST_DECAY_END (R172): the off timer passes FDF / 64 of TOFF. -/
def execChopFastDecayEnd (n : CrewNo) (b : Bool) (s : State) : Out :=
  let c := s.chop n b
  if s.crewState n = cRUN && s.chopCrew n && c.st = .fast then
    .next ((s.advanceTb (c.offAt + c.fastLen n)).chopSlow n b)
  else .next s

/-- CHOP_OFF_TIME_END (R172): the off timer reaches TOFF. A phase that has come to SLOW without an off timer, or whose timer ended
at reference 0, goes ON once the reference is not 0 (DEDUCED, assumption log 77). -/
def execChopOffTimeEnd (n : CrewNo) (b : Bool) (s : State) : Out :=
  let c := s.chop n b
  if s.crewState n = cRUN && s.chopCrew n && c.st = .slow then
    let s := if c.offRun then s.advanceTb (c.offAt + c.toff n) else s
    if s.chopRef n b ≠ 0 then .next (s.chopOn n b) else .next (s.setChop n b { c with offRun := false })
  else .next s

/-! ### The modulator's part of a TAS tick (R148, R149, R153) -/
/-- One waiting phase command is applied; a NaN amplitude as 0.0 (R153); a late one is counted (R254). -/
def State.applyCmd (s : State) (n : Nat) (c : PhaseCmd) : State :=
  -- late: applied after the first load point that follows its catch's carrier point (R254)
  let late := match c.load with
    | some l => decide (l < s.tb)
    | none => false
  let s := if late then (s.incSat (F.CREW_LATECNT_COUNT n)).fault 0x0507 n else s
  let s := s.wr (R.CREW_OFS_ACT n) c.ofs
  if fIsNan c.amp then
    let s := s.wr (R.CREW_AMP_ACT n) 0
    ((s.incSat F.MOD_NANCNT_COUNT).raise (F.CREW_EVT_AMPNAN n)).fault 0x0306 n
  else s.wr (R.CREW_AMP_ACT n) (fmin (fmax c.amp 0).1 0x40000000#32).1

/-- Commands that arrived by this tick are applied; AP_DLY of the open entry is that of its first command (R64). -/
def State.applyCmds (s : State) (n : Nat) : State :=
  let c := s.crew n
  let s := loopL c.cmds (fun m s => s.applyCmd n m) s
  let c := s.crew n
  s.setCrew n { c with
    cmds := []
    ldgAp := if c.ldgOpen && c.ldgWr.isSome && c.ldgAp.isNone then some (s.tb - c.ldgT) else c.ldgAp }

/-- The angle advances by `inc` (already clamped), or takes ANGSET (R149). -/
def State.angleTick (s : State) (n : Nat) (inc : Int) : State :=
  let c := s.crew n
  match c.angSet with
  | some a => (s.wr (R.CREW_ANG n) a).setCrew n { c with
      angSet := none, inc := 0, angHist := ((s.tb, a) :: c.angHist).take 520 }
  | none =>
    let a := s.rd (R.CREW_ANG n) + BitVec.ofInt 32 inc
    (s.wr (R.CREW_ANG n) a).setCrew n { c with inc := inc, angHist := ((s.tb, a) :: c.angHist).take 520 }

/-- Edges that wait for the tick: fault stop (R140), dropped sets (R168). -/
def State.crewTickEdges (s : State) (n : Nat) : State :=
  let c := s.crew n
  let s := if c.dropSets = 0 then s
    else loopN 8 (fun j s => if c.dropSets.testBit j then loopL (s.setLegs n j) (fun x s => s.legOff x) s else s) s
  let s := if c.fstopPend then
      if s.get (F.CREW_CFG_FSMODE n) = 1 then loopL (s.crewLegs n) (fun x s => s.legShort x) s else s.crewOff n
    else s
  s.setCrew n { s.crew n with dropSets := 0, fstopPend := false }

/-- The edges of a running set that the newest compares place at or before this instant are decided now (R157). -/
def State.crossNow (s : State) (n j : Nat) : State :=
  loopL (s.setLegs n j) (fun x s =>
    if s.crosses n j x && decide (s.crossAt n j (s.get (F.LEG_CMP_C x)) ≤ s.tb) then s.cross n j x else s) s

/-- Immediate mode: each tick is a load point of every set (R156); a set that begins at it takes its levels (R158), and one that
runs the edges that are due (R157). -/
def State.immediateTick (s : State) (n : Nat) : State :=
  if s.get (F.CREW_CFG_UPD n) = 2 && s.carrierCrew n then
    loopN (s.crewM n) (fun j s =>
      if s.setRuns n j then (s.loadCompares n j).crossNow n j else s.loadPoint n j) s
  else s

end Sys2Proof.Machine
end

