-- ==== Sys2Proof/Machine/Yilos.lean ====
section
/-! DEFINITION. Machine/Yilos.lean: the gate-link ports and the Yilos tiles: frames, training, faults, diagnostics and the
tile obligations (R186 to R235). -/
namespace Sys2Proof.Machine

/-! ### Frames (R193 to R200) -/
/-- CRC-10 over bits [53:0], fed from bit 0 upward; register bit 9 goes to frame bit 63 (R199). -/
def crc10 (w : Nat) : Nat := crcBits 10 0x233 0x3FF ((List.range 54).map (fun i => w.testBit i))

/-- Completes a payload frame with its CRC. -/
def withCrc10 (w : Nat) : BitVec 64 := BitVec.ofNat 64 (w % 2 ^ 54 + crc10 w * 2 ^ 54)

def crc10Ok (f : BitVec 64) : Bool := f.toNat / 2 ^ 54 == crc10 f.toNat

/-- A slot of 12 bits: OFS, then switch and level or the leg mask (R194). S is the frame's slot count. -/
def slotBits (S : Nat) (e : LinkEv) : Nat :=
  let ofs := (e.td + 288 - S) % 256
  match e.kind with
  | .switch s l => ofs + s * 256 + l.toNat * 2048
  | .groupOff m => ofs + m * 256

/-- NEWFMT and the two new slots of the events a frame takes: a group-off goes to NA (R194). -/
def frameSlots (S : Nat) (l : List LinkEv) : Nat × Nat × Nat :=
  let g := l.filter (fun e => e.kind.isGroup)
  let w := l.filter (fun e => !e.kind.isGroup)
  match g, w with
  | e :: _, [] => (3, slotBits S e, 0)
  | e :: _, f :: _ => (4, slotBits S e, slotBits S f)
  | [], [] => (0, 0, 0)
  | [], [e] => (1, slotBits S e, 0)
  | [], e :: f :: _ => (2, slotBits S e, slotBits S f)

/-- A level word after an event. -/
def applyEv (l : Nat) : EvKind → Nat
  | .switch s b => natBit l s b
  | .groupOff m => (List.range 4).foldl (fun l p => if m.testBit p then natBit (natBit l (2 * p) false) (2 * p + 1) false else l) l

/-- CPEN of the tile's legs, for link version 2 (R195, R216). -/
def State.cpenBits (s : State) (k : Nat) : Nat :=
  if s.get (F.YILOS_STAT_VER k) = 2 then
    (List.range 4).foldl (fun n p => natBit n p (s.bit (F.LEG_CTL_CPEN (4 * k + p)))) 0
  else 0

/-! ### The maintenance channel (R197, R234) -/
/-- Requests that wait for room enter the queue of eight. -/
def LinkRec.refill (l : LinkRec) : LinkRec :=
  let n := (16 - l.mops.length) / 2
  { l with mops := l.mops ++ (l.feed.take n).flatMap (fun e => [(1, e.1), (2, e.2)]), feed := l.feed.drop n }

/-- The operation of the diagnostic that was sent in frame f at `tb` = t: its settle time begins, or its readback leg is selected
(R232). -/
def DiagRec.wrote (d : DiagRec) (f t : Nat) : DiagRec :=
  if d.qs.isEmpty then { d with sent := some t } else { d with sel := some f }

/-- The maintenance operation of state frame f, sent at `tb` = t. A request's two operations go in consecutive state frames
(R234); between requests the diagnostic's come first. -/
def LinkRec.takeMop (l : LinkRec) (f t : Nat) : (Nat × Nat) × LinkRec :=
  if l.dop.length % 2 = 1 || (l.mops.length % 2 = 0 && !l.dop.isEmpty) then
    match l.dop with
    | [] => ((0, 0), l)
    | [m] => (m, { l with dop := [], diag := l.diag.map (fun d => d.wrote f t) })
    | m :: r => (m, { l with dop := r, mptr := m.2 })
  else
    match l.mops with
    | [] => ((0, 0), l)
    | m :: r => (m, ({ l with
        mops := r, mptr := if m.1 = 1 then m.2 else l.mptr
        rdAt := if m.1 = 3 then some (l.mptr, f) else l.rdAt } : LinkRec).refill)

/-- MSTAT.QN shows the queued requests. -/
def State.showMops (s : State) (k : Nat) : State := s.put (F.YILOS_MSTAT_QN k) (((s.link k).mops.length + 1) / 2)

/-! ### The downlink (R186 to R196, R213, R218, R219) -/
/-- A frame goes onto the downlink in slot S. -/
def State.putLine (s : State) (k S : Nat) (l : List (Bool × Byte)) : State :=
  let (w, n) := encLine (s.link k).txNeg l
  s.setLink k { s.link k with line := some w, txNeg := n, slot := S }

/-- The next payload frame of link k is formed and sent: its events leave the queue (R205 to R209). -/
def State.sendFrame (s : State) (k : Nat) : State :=
  let (f, S) := s.nextFrame k
  let s := s.advanceTb (S - 33)
  let l := s.link k
  let (take, rest) := frameTake f S l.queue
  let (fmt, a, b) := frameSlots S take
  let state := f % 32 = 31
  -- levels whose apply instant is at or before P = S + 240 ns
  let due := apSort (l.due ++ take.map (fun e => { e with td := S + 192 + (e.td + 288 - S) }))
  let snap := (due.filter (fun e => e.td ≤ S + 192)).foldl (fun n e => applyEv n e.kind) l.snap
  let ((mop, md), l) := if state then l.takeMop f s.tb else ((0, 0), l)
  let w :=
    if state then
      -- the first state frame carries SNAP = 0 (R219)
      l.newFmt * 2 ^ 3 + (if f = 31 then 0 else snap) * 2 ^ 6 + s.cpenBits k * 2 ^ 14 + md * 2 ^ 22 + mop * 2 ^ 30 + l.newA * 2 ^ 42
    else fmt + (if f % 32 = 0 then 0 else l.newFmt) * 2 ^ 3 + a * 2 ^ 6 + b * 2 ^ 18 +
      (if f % 32 = 0 then 0 else l.newA * 2 ^ 30 + l.newB * 2 ^ 42)
  let cmd := take.foldl (fun n e => applyEv n e.kind) (s.get (F.YILOS_LVL_CMD k))
  let s := s.setLink k { l with
    next := f + 1, newFmt := fmt, newA := a, newB := b, frame := withCrc10 w
    due := due.filter (fun e => !(e.td ≤ S + 192)), snap := snap, hist := ((f, take.length) :: l.hist).take 8 }
  let s := (s.putLine k S (payloadChars (withCrc10 w))).setQueue k rest
  let s := s.wr (R.YILOS_FNUM k) (BitVec.ofNat 32 f)
  let s := (s.put (F.YILOS_LVL_CMD k) cmd).showMops k
  s.wr (R.YILOS_EVCNT k) (s.rd (R.YILOS_EVCNT k) + BitVec.ofNat 32 take.length)

/-- Slot of the next training or PARK frame: the one after the last frame (R187); the first one takes the next slot. -/
def State.trainSlot (s : State) (k : Nat) : Nat :=
  if (s.link k).slot = 0 then (s.tb + 33 + 79) / 80 * 80 else (s.link k).slot + 80

/-- A training frame goes out (R213). -/
def State.sendTrain (s : State) (k tt b1 : Nat) : State :=
  let S := s.trainSlot k
  (s.advanceTb (S - 33)).putLine k S (trainChars (BitVec.ofNat 8 tt) [BitVec.ofNat 8 b1])

/-- Capability byte i of the port's tile as YILOS.CAP mirrors it. -/
def State.capByte (s : State) (k i : Nat) : Nat := (s.rd (R.YILOS_CAP k (i / 4))).toNat / 2 ^ (8 * (i % 4)) % 256

/-- The highest common link version (R216). -/
def State.commonVersion (s : State) (k : Nat) : Nat :=
  let vers := s.capByte k 1
  let vmax := s.get (F.YILOS_CTL_VMAX k)
  if vers.testBit 1 && vmax ≥ 2 then 2 else if vers.testBit 0 then 1 else 0

/-- The frame that follows on the downlink (R205, R213, R218): in UP a payload frame; in training the frames of the stage; in
PARK what is queued, then the PARK frames. In the other states the line is idle. -/
def State.downFrame (s : State) (k : Nat) : State :=
  let st := s.linkState k
  let l := s.link k
  if st = lUP then s.sendFrame k
  else if st = lSYNC then s.sendTrain k 1 0
  else if st = lCAP then s.sendTrain k 2 0
  else if st = lDELAY then (s.setLink k { l with dseq := l.dseq + 1 }).sendTrain k 4 l.dseq
  else if st = lVER then
    if s.get (F.YILOS_STAT_VER k) = 0 then s.sendTrain k 5 (s.commonVersion k)
    else if l.startLeft = 0 then s
    else (s.setLink k { l with startLeft := l.startLeft - 1 }).sendTrain k 6 l.startLeft
  else if st = lPARK then
    if !l.queue.isEmpty then s.sendFrame k
    else if l.parkLeft = 0 then s
    else (s.setLink k { l with parkLeft := l.parkLeft - 1 }).sendTrain k 7 0
  else s

/-- DOWNLINK_FRAME (R193 to R196, R204, R205, R213): the next frame of the port is fixed and sent. -/
def execDownlinkFrame (k : TileNo) (s : State) : Out := .next (s.downFrame k)

/-- LINK_LOST (R212): the queue is discarded, STATE is LOST, the tile's sets fail. -/
def State.linkLost (s : State) (k : Nat) : State :=
  let s := s.fault 0x0401 k
  let s := s.raise (F.YILOS_EVT_LINKLOST k)
  let s := s.diagAbort k
  (s.linkDown k lLOST).tileSetsFail k

/-! ### The uplink at the BX640 (R200 to R203, R210 to R212, R229, R230) -/
/-- Classifies the events of frame j from the DLBAD reports of frames j and j + 1 (R211). -/
def State.classify (s : State) (k j : Nat) (b0 b1 : Bool) : State :=
  let n := ((s.link k).hist.find? (fun h => h.1 == j)).map (·.2) |>.getD 0
  if !b0 then s
  else if !b1 then loopN n (fun _ s => (s.retryT 1).incSat (F.YILOS_EV2CNT_COUNT k)) s
  else
    let s := loopN n (fun _ s => (s.retryL 1).incSat (F.YILOS_EVLOSTCNT_COUNT k)) s
    if n > 0 then s.fault 0x0406 k else s

/-- Switch-fault classification by an uplink frame that starts at count u (R229); `old` are the latches of the last good
frame before it. After a lasting verdict the fault stays seen until the switch's next on-edge. -/
def State.swfClass (s : State) (k u old swf : Nat) : State :=
  loopN 8 (fun w s =>
    let l := s.link k
    let set := swf.testBit w
    let inst := 8 * k + w
    let put (st : SwfStage) (s : State) : State :=
      let l := s.link k
      s.setLink k { l with swf := mset .idle l.swf w st }
    match mget .idle l.swf w with
    | .idle => if set then put .seen (s.fault 0x0407 inst) else s
    | .seen => s
    | .armed on off =>
      if set && on + 40 ≤ u && (match off with
        | some t => decide (u ≤ t)
        | none => true) then
        let s := put .seen ((s.fault 0x0408 inst).incSat (F.YILOS_SWFLCNT_COUNT k))
        let x := 4 * k + w / 2
        (s.legLasting x).legSetFails x
      else match off with
        | some t =>
          if t < u then
            let s := put (if set then .seen else .idle) (s.incSat (F.YILOS_SWFTCNT_COUNT k))
            if set && !old.testBit w then s.fault 0x0407 inst else s
          else s
        | none => s) s

/-- A fault cause as the BX640 takes it: 5 and 7 to 15 as 6 (R203). -/
def causeCode (c : Nat) : Nat := if c = 5 || 7 ≤ c then 6 else c

/-- A telemetry value as the BX640 takes it. -/
def telValue (c v : Nat) : Nat :=
  if c = 6 || c = 7 then (List.range 4).foldl (fun n i => n + causeCode (v / 2 ^ (4 * i) % 16) * 2 ^ (4 * i)) 0 else v

/-! ### Off-state diagnostics (R231 to R233) -/
def State.setVerdict (s : State) (k p v : Nat) : State :=
  let w := s.get (F.YILOS_DIAG_STAT_V k)
  let s := s.put (F.YILOS_DIAG_STAT_V k) (w - w / 2 ^ (4 * p) % 16 * 2 ^ (4 * p) + v * 2 ^ (4 * p))
  let s := s.setBitAt (F.YILOS_DIAG_STAT_DONE k) p true
  if 2 ≤ v && v ≤ 6 then s.fault 0x040E (4 * k + p) else s

/-- The diagnostic writes tile register 0x10. -/
def State.diagWrite (s : State) (k v : Nat) : State :=
  s.setLink k { s.link k with dop := (s.link k).dop ++ [(1, 0x10), (2, v)] }

/-- A mode of a leg's test begins: 3 measure, 1 source, 2 sink (R198, R232). -/
def State.diagMode (s : State) (k : Nat) (d : DiagRec) : State :=
  (s.setLink k { s.link k with diag := some { d with sent := none, qs := [], sel := none, cur := [] } }).diagWrite k (d.mode + 4 * d.leg)

/-- The diagnostic ends: tile register 0x10 to 0, BUSY 0, DIAGDONE. -/
def State.diagEnd (s : State) (k : Nat) : State :=
  let s := (s.setLink k { s.link k with diag := none }).diagWrite k 0
  (s.putB (F.YILOS_DIAG_STAT_BUSY k) false).raise (F.YILOS_EVT_DIAGDONE k)

/-- The named legs of a mask, ascending. -/
def maskLegs (m : Nat) : List Nat := (List.range 4).filter (fun p => m.testBit p)

/-- DIAG_START (R231, R232): DIAG_CTL is written with START = 1. -/
def State.diagStart (s : State) (k : Nat) : State :=
  let legs := maskLegs (s.get (F.YILOS_DIAG_CTL_LEGS k))
  let s := s.put (F.YILOS_DIAG_STAT_DONE k) 0
  let legOk (p : Nat) : Bool :=
    let x := 4 * k + p
    !s.getLvl x true && !s.getLvl x false && (match s.legCrew x with
      | some n => s.crewState n == cIDLE || s.crewState n == cSAFE
      | none => true)
  if s.linkState k = lUP && (s.capByte k 3).testBit 1 && legs.all legOk then
    if s.get (F.YILOS_TEL_VAL k 12) < s.get (F.YILOS_DIAG_VMIN_V k) then
      let s := loopL legs (fun p s => s.setVerdict k p 2) s
      (s.putB (F.YILOS_DIAG_STAT_BUSY k) false).raise (F.YILOS_EVT_DIAGDONE k)
    else match legs with
      | [] => s.raise (F.YILOS_EVT_DIAGDONE k)
      | p :: r => (s.diagMode k { legs := r, leg := p, mode := 3 }).putB (F.YILOS_DIAG_STAT_BUSY k) true
  else (loopL legs (fun p s => s.setVerdict k p 7) s).raise (F.YILOS_EVT_DIAGDONE k)

def execDiagStart (k : TileNo) (v : Word) (s : State) : Out := s.onRegW (R.YILOS_DIAG_CTL k) v fun v s =>
  let s := (s.put (F.YILOS_DIAG_CTL_LEGS k) (bitsOf v.toNat 3 0)).put (F.YILOS_DIAG_CTL_SETTLE k) (bitsOf v.toNat 23 16)
  if v.getLsbD 8 then .next (s.diagStart k) else .next s

/-- The verdict of leg p from what was read (R233). -/
def State.verdict (s : State) (k : Nat) (d : DiagRec) : Nat :=
  let p := d.leg
  let hi := s.get (F.YILOS_DIAG_THR_HI k) * 256
  let lo := s.get (F.YILOS_DIAG_THR_LO k) * 256
  let fol := s.get (F.YILOS_DIAG_THR_FOLLOW k) * 256
  let at_ (l : List Nat) (q : Nat) : Nat := l.getD q 0
  let diff (a b : Nat) : Nat := if a < b then b - a else a - b
  let x := 4 * k + p
  let same (q : Nat) : Bool := match s.legCrew x, s.legCrew (4 * k + q) with
    | some n, some m => n == m && (s.legSet n x).map (·.1) == (s.legSet m (4 * k + q)).map (·.1)
    | _, _ => false
  let sameCrew (q : Nat) : Bool := match s.legCrew x, s.legCrew (4 * k + q) with
    | some n, some m => n == m
    | _, _ => false
  let present := (List.range 4).filter (fun q => q != p && (s.capByte k 2).testBit q)
  let mates := present.filter same
  if at_ d.vsnk p ≥ hi then 3
  else if at_ d.vsrc p ≤ lo then 4
  else if !mates.isEmpty && mates.all (fun q => diff (at_ d.vsrc q) (at_ d.vsrc p) > fol) then 5
  else if (present.filter (fun q => !sameCrew q)).any (fun q => diff (at_ d.vsrc q) (at_ d.v0 q) > fol) then 6
  else 1

/-- A mode's ratios are read and the sequence advances (R232). -/
def State.diagSettle (s : State) (k : Nat) (d : DiagRec) (ratios : List Nat) : State :=
  let p := d.leg
  if d.mode = 3 then s.diagMode k { d with mode := 1, v0 := ratios }
  else if d.mode = 1 then s.diagMode k { d with mode := 2, vsrc := ratios }
  else
    let d := { d with vsnk := ratios }
    let s := (s.put (F.YILOS_DIAG_VA_V0 k p) (d.v0.getD p 0)).put (F.YILOS_DIAG_VA_VSRC k p) (d.vsrc.getD p 0)
    let s := (s.put (F.YILOS_DIAG_VB_VSNK k p) (d.vsnk.getD p 0)).put (F.YILOS_DIAG_VB_VDC k p) (s.get (F.YILOS_TEL_VAL k 12))
    let s := s.setVerdict k p (s.verdict k d)
    match d.legs with
    | [] => s.diagEnd k
    | q :: r => s.diagMode k { legs := r, leg := q, mode := 3 }

/-- The readback of the present legs goes on: the next one is selected, or the mode is done (R232). -/
def State.diagNext (s : State) (k : Nat) (d : DiagRec) : State :=
  match d.qs with
  | [] => s.diagSettle k d ((List.range 4).map (fun q => mget 0 d.cur q))
  | q :: _ => (s.setLink k { s.link k with diag := some { d with sel := none } }).diagWrite k (d.mode + 4 * d.leg + 16 * q)

/-- DIAG_SETTLE_END (R232): SETTLE × 10 µs after the mode was written; 0 is taken as 1. The readback of the node voltages, which
are `l` at the tile's legs, begins. -/
def State.diagSettled (s : State) (k t : Nat) (l : List Nat) : State :=
  let s := s.advanceTb (t + max 1 (s.get (F.YILOS_DIAG_CTL_SETTLE k)) * 8000)
  let s := s.setTile k { s.tile k with node := l }
  match (s.link k).diag with
  | some d => s.diagNext k { d with sent := none, qs := (List.range 4).filter (fun q => (s.capByte k 2).testBit q) }
  | none => s

def execDiagSettleEnd (k : TileNo) (r0 r1 r2 r3 : BitVec 16) (s : State) : Out :=
  match (s.link k).diag.bind (·.sent) with
  | none => .next s
  | some t => .next (s.diagSettled k t [r0.toNat, r1.toNat, r2.toNat, r3.toNat])

/-- A node voltage on telemetry channel 8 of uplink frame j: it is that of the selected leg from 1 µs after the selection on
(R225). -/
def State.diagTel (s : State) (k j v : Nat) : State :=
  match (s.link k).diag with
  | none => s
  | some d => match d.qs, d.sel with
    | q :: r, some f => if f + 10 ≤ j then s.diagNext k { d with qs := r, sel := none, cur := mset 0 d.cur q v } else s
    | _, _ => s

/-- The STO group of tile k is asserted; a tile of no group reads its inputs off (R227, R230). -/
def State.tileSto (s : State) (k : Nat) : Bool :=
  match s.seal with
  | some c => match (List.range 8).find? (fun g => ((c.grp.getD g {}).tiles.testBit k)) with
    | some g => s.groupSto g
    | none => true
  | none => true

/-- STAT.STOIN against the state of the tile's STO group: since when they differ (R230). -/
def State.stoTrack (s : State) (k : Nat) : State :=
  let l := s.link k
  if s.linkState k ≠ lUP || s.bit (F.YILOS_STAT_STOIN k) == s.tileSto k then s.setLink k { l with stoDiff := none, stoSaid := false }
  else if l.stoDiff.isSome then s
  else s.setLink k { l with stoDiff := some s.tb }

/-- STO_DISAGREE (R230): the difference has lasted more than 20 µs. -/
def execStoDisagree (k : TileNo) (s : State) : Out :=
  let l := s.link k
  match l.stoDiff with
  | some t =>
    if l.stoSaid then .next s
    else .next (((s.advanceTb (t + 16001)).setLink k { l with stoSaid := true }).fault 0x0409 k)
  | none => .next s

/-- What a good uplink frame w of number j says: the class of the downlink frame before, telemetry, read data, states and
events of the tile. -/
def State.uplinkGood (s : State) (k j w : Nat) (dl : Bool) (l : LinkRec) : State :=
  let s := if dl then s.incSat (F.YILOS_DLBADCNT_COUNT k) else s
  let s := match l.prevBad with
    | some b => s.classify k (j - 1) b dl
    | none => s
  -- telemetry (R202)
  let c := bitsOf w 13 10
  let v := bitsOf w 29 14
  let s := s.wr (R.YILOS_TEL k c) (BitVec.ofNat 32 (telValue c v + j % 65536 * 65536))
  let s := match c, (s.link k).rdAt with
    | 9, some (a, f) =>
      if v / 256 = a && f ≤ j then
        -- RVALID is that of the last request
        let more := (s.link k).mops.any (fun m => m.1 == 3)
        let s := s.setLink k { s.link k with rdAt := none }
        (s.put (F.YILOS_MSTAT_RDATA k) (v % 256)).putB (F.YILOS_MSTAT_RVALID k) (!more)
      else s
    | _, _ => s
  let s := if c = 8 then s.diagTel k j v else s
  -- flags
  let swf := bitsOf w 37 30
  let old := s.get (F.YILOS_STAT_SWF k)
  let s := if (List.range 8).any (fun i => swf.testBit i && !old.testBit i)
    then s.raise (F.YILOS_EVT_SWF k) else s
  let s := s.put (F.YILOS_STAT_SWF k) swf
  -- the frame starts 60 ns after A_j
  let s := s.swfClass k (l.s0 + j * 80 + 208) old swf
  let sto := w.testBit 38
  let s := if sto != s.bit (F.YILOS_STAT_STOIN k) then s.raise (F.YILOS_EVT_STOCHG k) else s
  let s := (s.putB (F.YILOS_STAT_STOIN k) sto).stoTrack k
  let s := if w.testBit 39 then
      ((s.raise (F.YILOS_EVT_INTLK k)).incSat (F.YILOS_INTLKCNT_COUNT k)).fault 0x040B k else s
  let s := if w.testBit 40 then
      ((s.raise (F.YILOS_EVT_LATE k)).incSat (F.YILOS_LATECNT_COUNT k)).fault 0x040F k else s
  let s := if w.testBit 41 then
      ((s.raise (F.YILOS_EVT_SNAPFIX k)).incSat (F.YILOS_SNAPCNT_COUNT k)).fault 0x040C k else s
  let otw := w.testBit 43
  let s := if otw && !s.bit (F.YILOS_STAT_OTW k) then
      (s.raise (F.YILOS_EVT_OTW k)).fault 0x040D k else s
  s.putB (F.YILOS_STAT_OTW k) otw

/-- What the uplink brings: the line bits `rx`, or the frame as the tile sent it; the tile's frame is taken from the line. -/
def State.upRx (s : State) (k : Nat) (rx : Option (BitVec 80)) : RxFrame × State :=
  let l := s.link k
  let t := s.tile k
  let (f, n) := rxLine l.rxNeg (rx.orElse (fun _ => t.up))
  (f, (s.setLink k { l with rxNeg := n }).setTile k { t with up := none })

/-- A payload frame that passes the receiver's checks (R199). -/
def RxFrame.good : RxFrame → Option (BitVec 64)
  | .payload w => if crc10Ok w then some w else none
  | _ => none

/-- An uplink frame at a port in UP: `f` is its payload, none where the frame is bad. -/
def State.uplinkTake (s : State) (k : Nat) (f : Option (BitVec 64)) : State :=
  let l := s.link k
  let j := l.upNum
  let dl := f.map (fun w => w.getLsbD 42)
  let badRow := if dl = some false then 0 else l.badRow + 1
  let s := s.setLink k { l with upNum := j + 1, badRow := badRow, prevBad := dl, up := f }
  let s := match f with
    | some w => s.uplinkGood k j w.toNat (w.getLsbD 42) l
    | none => s.incSat (F.YILOS_ULBADCNT_COUNT k)
  if badRow ≥ 3 then s.linkLost k else s

/-- UPLINK_FRAME (R200 to R202, R211, R212, R229, R230): the 80 line bits that arrive are those the tile sent, or `f`. -/
def execUplinkFrame (k : TileNo) (other : Bool) (f : BitVec 80) (s : State) : Out :=
  if s.linkState k ≠ lUP then .next s
  else
    let (f, s) := s.upRx k (lineIn false other f)
    .next (s.uplinkTake k f.good)

/-! ### The tile (R196 to R198, R210, R220 to R228) -/
/-- A byte of the tile's capability block (R214). -/
def tileCapAt (k i : Nat) : Nat := leAt (Config.tileCap k) i 1

/-- Registers a tile holds read-write: thresholds, DIAG, the warning threshold (R198). -/
def tileRw (a : Nat) : Bool := a < 8 || a = 0x10 || a = 0x11 || a ≥ 0x80

def TileRec.reg (t : TileRec) (a : Nat) : Nat := (mget 0 t.regs a).toNat

/-- Turns switches of a mask off at the tile; their deferred on-commands are dropped. -/
def TileRec.off (t : TileRec) (mask at_ : Nat) : TileRec :=
  { t with
    lvl := (List.range 8).foldl (fun l i => if mask.testBit i then natBit l i false else l) t.lvl
    defer := (List.range 8).foldl (fun l i => if mask.testBit i then natBit l i false else l) t.defer
    offAt := (List.range 8).foldl (fun m i => if mask.testBit i && t.lvl.testBit i then mset 0 m i at_ else m) t.offAt }

def partner (w : Nat) : Nat := if w % 2 = 0 then w + 1 else w - 1

/-- Minimum dead time of leg p by a capability block: DTMIN, or the leg's extension where larger (R214). -/
def capDt (b : List Byte) (p : Nat) : Nat :=
  (List.range (min 8 (leAt b 28 1))).foldl (fun m j =>
    let o := 32 + 4 * j
    if leAt b o 1 = 1 && leAt b (o + 1) 1 = p then max m (leAt b (o + 2) 2) else m) (leAt b 6 2)

/-- Minimum dead time of the leg of switch w at the tile, in counts. -/
def tileDt (k w : Nat) : Nat := capDt (Config.tileCap k) (w / 2)

/-- Either STO input is off. -/
def TileRec.sto (t : TileRec) : Bool := t.stoA || t.stoB

/-- The fault latch of switch w is set, and a level does not clear it, or its cause stands (R226). -/
def TileRec.barred (t : TileRec) (w : Nat) (edge : Bool) : Bool :=
  t.uvHold.testBit w || (t.latch.testBit w && (!edge || mget 0 t.present w != 0))

/-- An on-command for switch w at instant `at_`: the fault latch clears at this edge if its cause has gone (R226); the
interlock may defer it (R222); STO discards it, and after STO the switch waits for an on-event (R227). `edge` is false for a
snapshot level (R196). It ends the test current of its leg (R225). -/
def State.tileOn (s : State) (k w at_ : Nat) (edge : Bool) : State :=
  let t := s.tile k
  if t.sto || t.waiting || t.lvl.testBit w || t.barred w edge || (!edge && t.stoHold.testBit w) then s
  else
    let t := if edge then { t with latch := natBit t.latch w false, cause := mset 0 t.cause w 0, stoHold := natBit t.stoHold w false
                                   trip := if t.trip.map (·.1) = some w then none else t.trip } else t
    let t := { t with itest := t.itest && t.reg 0x10 / 4 % 4 != w / 2 }
    let p := partner w
    let off := mget 0 t.offAt p
    if t.lvl.testBit p || (off ≠ 0 && at_ < off + tileDt k w) then
      s.setTile k { t with defer := natBit t.defer w true, intlk := true }
    else s.setTile k { t with lvl := natBit t.lvl w true }

/-- One event at the tile: an event whose level already matches has no effect (R221). -/
def State.tileEv (s : State) (k : Nat) (e : EvKind) (at_ : Nat) : State :=
  match e with
  | .groupOff m => s.setTile k ((s.tile k).off (applyEv 255 (.groupOff m) ^^^ 255) at_)
  | .switch w false => s.setTile k ((s.tile k).off (2 ^ w) at_)
  | .switch w true => s.tileOn k w at_ true

/-- The pending events whose apply instant has come by t, in order (R221). -/
def State.tileDue (s : State) (k t : Nat) : State :=
  let r := s.tile k
  let s := s.setTile k { r with pend := r.pend.filter (fun e => !(e.td ≤ t)) }
  loopL (apSort (r.pend.filter (fun e => e.td ≤ t))) (fun e s => s.tileEv k e.kind e.td) s

/-- A slot read back: event kind and apply count relative to the anchor frame. -/
def slotEv (group : Bool) (slot : Nat) : Nat × EvKind :=
  (slot % 256, if group then .groupOff (bitsOf slot 11 8) else .switch (bitsOf slot 10 8) (slot.testBit 11))

/-- The events a format code and two slots name (R194). -/
def fmtEvents (fmt a b : Nat) : List (Nat × EvKind) :=
  match fmt with
  | 1 => [slotEv false a]
  | 2 => [slotEv false a, slotEv false b]
  | 3 => [slotEv true a]
  | 4 => [slotEv true a, slotEv false b]
  | _ => []

/-- The payload of a frame is bad at the tile: its CRC, a format code, REPFMT against a good frame before, or NEWFMT of a state
frame (R199). -/
def tileBad (t : TileRec) (w : Nat) (state : Bool) : Bool :=
  w / 2 ^ 54 != crc10 w || w % 8 ≥ 5 || bitsOf w 5 3 ≥ 5 || (state && w % 8 != 0) ||
    (t.prevGood && (match t.prevFmt with
      | some p => bitsOf w 5 3 != (if !state && t.frameNo % 32 = 0 then 0 else p)
      | none => false))

/-- A write of tile register a (R198): a threshold outside the declared range is ignored; bits [7:6] of DIAG are 0, and a new DIAG
switches the test current of its leg, which flows only with both switches off (R225). -/
def TileRec.write (t : TileRec) (k a v : Nat) : TileRec :=
  let v := if a = 0x10 then v % 64 else v
  let ok := tileRw a && (a ≥ 8 || (tileCapAt k 14 ≤ v && v ≤ tileCapAt k 15))
  let held := t.reg 0x10 % 16
  let t := { t with regs := if ok then mset 0 t.regs a (BitVec.ofNat 8 v) else t.regs }
  if a ≠ 0x10 then t
  else
    let p := v / 4 % 4
    { t with node := if v % 16 = held then t.node else [], itest := (v % 4 == 1 || v % 4 == 2) && (tileCapAt k 3).testBit 1 && (tileCapAt k 2).testBit p &&
        !t.lvl.testBit (2 * p) && !t.lvl.testBit (2 * p + 1) }

/-- The maintenance operation of a state frame (R197, R198). -/
def State.tileMop (s : State) (k mop md : Nat) : State :=
  let t := s.tile k
  match mop with
  | 1 => s.setTile k { t with ptr := md }
  | 2 => s.setTile k { t.write k t.ptr md with ptr := (t.ptr + 1) % 256 }
  | 3 =>
    let v := if 0x20 ≤ t.ptr && t.ptr < 0x60 then tileCapAt k (t.ptr - 0x20) else t.reg t.ptr
    s.setTile k { t with lastRead := t.ptr * 256 + v }
  | _ => s

/-- The snapshot of a state frame at its instant P (R196); CPEN counts on a version 2 link (R216). -/
def State.tileSnap (s : State) (k w P : Nat) : State :=
  let snap := bitsOf w 13 6
  let before := (s.tile k).lvl
  let s := s.setTile k ((s.tile k).off (255 - snap) P)
  let s := loopN 8 (fun i s => if snap.testBit i then s.tileOn k i P false else s) s
  let t := s.tile k
  s.setTile k { t with snapfix := t.snapfix || t.lvl != before, cpen := if t.ver = 2 then bitsOf w 17 14 else t.cpen }

/-- A good downlink frame w reaches tile k at `anchor`: its events, the events repeated from the frame before, and in a state
frame the snapshot and the maintenance word. -/
def State.tileGood (s : State) (k w n : Nat) (state : Bool) (anchor : Nat) (t : TileRec) : State :=
  let ev (a : Nat) (l : List (Nat × EvKind)) : List LinkEv := l.map (fun e => { td := a + 32 + e.1, kind := e.2 })
  let new := if state then [] else ev anchor (fmtEvents (w % 8) (bitsOf w 17 6) (bitsOf w 29 18))
  -- repeats count only where the previous frame was not received good (R210)
  let rep := if t.prevGood || n = 0 then []
    else if state then fmtEvents (if bitsOf w 5 3 = 3 || bitsOf w 5 3 = 4 then 3 else if bitsOf w 5 3 = 0 then 0 else 1)
      (bitsOf w 53 42) 0
    else fmtEvents (bitsOf w 5 3) (bitsOf w 41 30) (bitsOf w 53 42)
  let rep := ev (anchor - 80) rep
  let decoded := anchor + 32
  let lateNow := rep.filter (fun e => e.td ≤ decoded)
  let s := s.setTile k { t with
    bad := 0, prevGood := true, prevFmt := some (if state then 0 else w % 8), dlbad := false, frameNo := n + 1
    late := t.late || !lateNow.isEmpty
    pend := t.pend ++ new ++ rep.filter (fun e => !(e.td ≤ decoded)) }
  let s := s.tileDue k decoded
  let s := loopL (apSort lateNow) (fun e s => s.tileEv k e.kind decoded) s
  if state then (s.tileSnap k w decoded).tileMop k (bitsOf w 33 30) (bitsOf w 29 22) else s

/-- Causes of four switches from w0 on, as a telemetry value (R202, R203). -/
def TileRec.causes (t : TileRec) (w0 : Nat) : Nat :=
  (List.range 4).foldl (fun n i => n + (if t.latch.testBit (w0 + i) then mget 0 t.cause (w0 + i) else 0) * 2 ^ (4 * i)) 0

/-- TVAL of a channel (R202): `x` is what the tile measures on it, `temp` its temperature; `anchor` is the latest one. -/
def TileRec.tval (t : TileRec) (anchor c x temp : Nat) : Nat :=
  match c with
  | 4 => temp % 65536
  | 6 => t.causes 0
  | 7 => t.causes 4
  | 8 => if t.node.isEmpty then x % 65536 else t.node.getD (t.reg 0x10 / 16 % 4) 0 % 65536
  | 9 => t.lastRead
  | 10 => if t.ver ≠ 2 then 0 else match t.trip with
    | some (w, at_) => w + 8 + (at_ - anchor) % 256 * 16
    | none => 0
  | 11 => if t.ver = 2 then x % 16 else 0
  | 13 | 14 | 15 => 0
  | _ => x % 65536

/-- Bits [53:0] of an uplink frame (R200 to R202, R227): `isd` the ten bitstream bits. -/
def TileRec.upWord (t : TileRec) (anchor isd x temp : Nat) : Nat :=
  let otw := decide (64 * (t.reg 0x11 : Int) ≤ sextNat 16 temp)
  isd % 1024 + t.tsel * 2 ^ 10 + t.tval anchor t.tsel x temp * 2 ^ 14 + t.latch % 256 * 2 ^ 30 +
    (t.sto || t.stoSeen).toNat * 2 ^ 38 + t.intlk.toNat * 2 ^ 39 + t.late.toNat * 2 ^ 40 + t.snapfix.toNat * 2 ^ 41 +
    t.dlbad.toNat * 2 ^ 42 + otw.toNat * 2 ^ 43 + t.reg 0x10 % 16 * 2 ^ 44

/-- The tile puts a frame on the uplink. -/
def State.tilePut (s : State) (k : Nat) (l : List (Bool × Byte)) : State :=
  let t := s.tile k
  let (w, n) := encLine t.txNeg l
  s.setTile k { t with up := some w, txNeg := n }

/-- The tile starts its uplink frame 60 ns after the anchor (R200): the events due by then are applied, and what is reported once
is cleared. The bitstreams, the analog telemetry and the temperature come from outside: free values. -/
def State.tileUplink (s : State) (k anchor : Nat) : State :=
  let s := (s.advanceTb (anchor + 48)).tileDue k (anchor + 48)
  let (isd, s) := s.free
  let (x, s) := s.free
  let (temp, s) := s.free
  let t := s.tile k
  let w := withCrc10 (t.upWord anchor isd x temp)
  (s.setTile k { t with intlk := false, late := false, snapfix := false, stoSeen := false, tsel := (t.tsel + 1) % 16 }).tilePut k
    (payloadChars w)

/-- The tile waits for training with every switch off; its pending events are gone (R212, R228). -/
def TileRec.toWait (t : TileRec) (at_ : Nat) : TileRec :=
  { t.off 255 at_ with waiting := true, synced := false, pend := [], prevGood := false, prevFmt := none, bad := 0, itest := false }

/-- PARK at the tile: it waits with its fault latches clear (R228). -/
def TileRec.park (t : TileRec) (at_ : Nat) : TileRec := { t.toWait at_ with latch := 0, cause := [], trip := none }

/-- A bad downlink frame at the tile; the third in a row is the loss of the link (R212). -/
def TileRec.badFrame (t : TileRec) (at_ : Nat) : TileRec :=
  if t.bad + 1 ≥ 3 then t.toWait at_
  else { t with bad := t.bad + 1, prevGood := false, prevFmt := none, dlbad := true, frameNo := t.frameNo + 1 }

/-- Length of a capability block. -/
def capLen (b : List Byte) : Nat := 32 + 4 * min 8 (leAt b 28 1)

/-- A training frame at a tile that waits (R213, R214, R217, R228): it aligns on SYNC; then it answers CAPREQ with the next part of
its block, echoes DELAY and VERSION, and begins with frame 0 after the last START. -/
def State.tileTrain (s : State) (k tt b1 : Nat) (b : List Byte) : State :=
  let t := s.tile k
  if tt = 1 then (s.setTile k { t with synced := true, capOfs := 0, ver := 0 }).tilePut k (trainChars 1 [])
  else if tt = 7 then s.setTile k (t.park s.tb)
  else if !t.synced then s
  else match tt with
    | 2 => (s.setTile k { t with capOfs := if t.capOfs + 4 < capLen (Config.tileCap k) then t.capOfs + 4 else 0 }).tilePut k
        (trainChars 3 (BitVec.ofNat 8 t.capOfs :: slice (Config.tileCap k) t.capOfs 4))
    | 4 => s.tilePut k (trainChars 4 b)
    | 5 => (s.setTile k { t with ver := b1 }).tilePut k (trainChars 5 b)
    | 6 => if b1 ≠ 1 then s else s.setTile k { t with
        waiting := false, frameNo := 0, bad := 0, prevGood := false, prevFmt := none, pend := [], tsel := 0
        intlk := false, late := false, snapfix := false, dlbad := false }
    | _ => s

/-- What the downlink brings: the line bits `rx`, or the frame as the port sent it. -/
def State.downRx (s : State) (k : Nat) (rx : Option (BitVec 80)) : RxFrame × State :=
  let t := s.tile k
  let (f, n) := rxLine t.rxNeg (rx.orElse (fun _ => (s.link k).line))
  (f, s.setTile k { t with rxNeg := n })

/-- A frame at a tile that is in operation: the number of its anchor; the tile answers each with its uplink frame, unless it has
lost the link or is parked. -/
def State.tileRun (s : State) (k : Nat) (f : RxFrame) : State :=
  let t := s.tile k
  let n := t.frameNo
  let anchor := (s.link k).s0 + 80 * n + 160
  let s := s.advanceTb (anchor + 32)
  let state := n % 32 = 31
  let bad (s : State) : State := s.setTile k (t.badFrame s.tb)
  let s := match f with
    | .payload w => if tileBad t w.toNat state then bad s else s.tileGood k w.toNat n state anchor t
    | .training tt _ => if tt = 7 then s.setTile k (t.park s.tb) else bad s
    | .bad => bad s
  if (s.tile k).waiting then s else s.tileUplink k anchor

/-- TILE_FRAME_RECEIVE (R196, R199, R210, R212, R213, R221, R228): the 80 line bits that arrive at the tile are those the port
sent, or `f`; `err` is a line error. -/
def execTileFrameReceive (k : TileNo) (err other : Bool) (f : BitVec 80) (s : State) : Out :=
  let k := k.val
  let (f, s) := s.downRx k (lineIn err other f)
  if (s.tile k).waiting then
    match f with
    | .training tt b => .next (s.tileTrain k tt.toNat (leAt b 0 1) b)
    | _ => .next s
  else .next (s.tileRun k f)

/-- TILE_EVENT_APPLY (R190, R221): the events of the earliest apply instant, group-off first, then off, then on. -/
def execTileEventApply (k : TileNo) (s : State) : Out :=
  let k := k.val
  match (s.tile k).pend with
  | [] => .next s
  | e :: r =>
    let m := r.foldl (fun m x => min m x.td) e.td
    .next ((s.advanceTb m).tileDue k m)

/-- The STO output of channel b that is wired to tile k is high: its group's, by the sealed section (R227, R537). -/
def State.tileWire (s : State) (k : Nat) (b : Bool) : Bool :=
  match s.seal with
  | some c => (List.range 8).any (fun g => (c.grp.getD g {}).tiles.testBit k &&
      s.bit (if b then F.SAFETY_GRP_STAT_STOB g else F.SAFETY_GRP_STAT_STOA g))
  | none => false

/-- TILE_STO_INPUT (R227): an input changes; off turns every gate off, and on-events are discarded. It returns only with the output
that it is wired to. -/
def execTileStoInput (k : TileNo) (b off : Bool) (s : State) : Out :=
  let t := s.tile k
  let t := if b then { t with stoB := off } else { t with stoA := off }
  if off then .next (s.setTile k { (t.off 255 s.tb) with
    stoSeen := true, stoHold := 255, pend := t.pend.filter (fun e => e.kind.rank < 2) })
  else if s.tileWire k b then .next (s.setTile k t)
  else .next s

/-- Sets a switch's fault latch and turns the switch off (R226); `stands` says whether the cause stays present. -/
def State.tileLatch (s : State) (k w cause : Nat) (stands : Bool) : State :=
  let t := (s.tile k).off (2 ^ w) s.tb
  s.setTile k { t with
    latch := natBit t.latch w true, cause := mset 0 t.cause w cause
    present := if stands then mset 0 t.present w (natBit (mget 0 t.present w) cause true) else t.present }

/-- A cause of a switch's fault latch goes (R226). -/
def State.tileCauseGone (s : State) (k w cause : Nat) : State :=
  let t := s.tile k
  s.setTile k { t with present := mset 0 t.present w (natBit (mget 0 t.present w) cause false) }

/-- TILE_UVLO (R223): a supply falls below its trip level, or exceeds its clear level. A high-side supply feeds its own
switch; the low-side supply feeds the low switches. -/
def execTileUvlo (k : TileNo) (high : Option (Fin 4)) (below : Bool) (s : State) : Out :=
  let k := k.val
  let fed := match high with
    | some p => [2 * p.val + 1]
    | none => [0, 2, 4, 6]
  let cause := if high.isSome then 3 else 2
  .next (loopL fed (fun w s =>
    let s := if below then s.tileLatch k w cause true else s.tileCauseGone k w cause
    s.setTile k { s.tile k with uvHold := natBit (s.tile k).uvHold w below }) s)

/-- TILE_DIDT_TRIP (R224, R203): the switch goes off and its latch is set; a version 1 tile reports cause 6. The cause goes with the
current. -/
def execTileDidtTrip (k : TileNo) (w : Fin 8) (s : State) : Out :=
  let s := s.tileLatch k w (if (s.tile k).ver = 2 then 1 else 6) false
  .next (s.setTile k { s.tile k with trip := some (w.val, s.tb) })

/-- TILE_OVERTEMP_SHUTDOWN (R203, R226): cause 4, or 6 for a driver fault; `over` says whether the cause stands. -/
def execTileOvertempShutdown (k : TileNo) (w : Fin 8) (driver isOver : Bool) (s : State) : Out :=
  let c := if driver then 6 else 4
  .next (if isOver then s.tileLatch k w c true else s.tileCauseGone k w c)

/-- TILE_POWER_UP (R228). -/
def execTilePowerUp (k : TileNo) (s : State) : Out :=
  let t := s.tile k
  .next (s.setTile k { stoA := t.stoA, stoB := t.stoB })

/-- TILE_INTERLOCK_RELEASE (R222): a deferred switch turns on once its partner is off and the dead time has passed. -/
def execTileInterlockRelease (k : TileNo) (w : Fin 8) (s : State) : Out :=
  let t := s.tile k
  let p := partner w
  if t.defer.testBit w && !t.lvl.testBit p && !t.sto then
    let s := s.advanceTb (mget 0 t.offAt p + tileDt k w)
    .next (s.setTile k { s.tile k with defer := natBit t.defer w false, lvl := natBit t.lvl w true })
  else .next s

/-! ### Training (R213 to R219) -/
/-- The port leaves: from UP an all-off group event and 8 PARK frames, else OFF at once (R218). -/
def State.stopPort (s : State) (k : Nat) : State :=
  let st := s.linkState k
  if st = lUP then
    let s := s.diagAbort k
    let s := loopN 4 (fun p s => s.legOff (4 * k + p)) s
    let l := s.link k
    let s := s.setQueue k (l.queue.filter (fun e => !(e.td == s.tb && e.kind.rank < 2)) ++ [{ td := s.tb, kind := .groupOff 15 }])
    let s := (s.setLink k { s.link k with parkLeft := 8 }).putB (F.SINC_TILE_VDC_VALID k) false
    let s := loopN 4 (fun p s => s.putB (F.SINC_LEG_CRES_VALID (4 * k + p)) false) s
    s.stage k lPARK
  else if st = lOFF || st = lPARK then s
  else s.linkDown k lOFF

/-- YILOS_EN (R218): a write of CTL.EN. -/
def State.yilosEn (s : State) (k : Nat) (en : Bool) : State :=
  let s := s.putB (F.YILOS_CTL_EN k) en
  if en then (if s.linkState k = lOFF && s.portReady k then s.startTraining k else s) else s.stopPort k

def execYilosEn (k : TileNo) (en : Bool) (s : State) : Out := s.onReg (R.YILOS_CTL k) fun s =>
  .next (s.yilosEn k en)

/-- YILOS_RETRAIN (R218). -/
def State.yilosRetrain (s : State) (k : Nat) : State :=
  let st := s.linkState k
  if (st = lLOST || st = lFAILED) && s.bit (F.YILOS_CTL_EN k) && s.domainRun 8 then s.startTraining k else s

def execYilosRetrain (k : TileNo) (s : State) : Out := s.onReg (R.YILOS_CTL k) fun s =>
  .next (s.yilosRetrain k)

/-- The capability block is rejected (R215). -/
def capBad (b : List Byte) : Bool :=
  let n := leAt b 28 1
  let len := 32 + 4 * n
  leAt b 0 1 != 1 || n > 8 ||
    leAt b 30 2 != crcMsb 16 0x1021 0xFFFF (b.take 30 ++ (b.take len).drop 32) ||
    leAt b 2 1 == 0 || leAt b 2 1 / 16 != 0 || leAt b 3 1 / 16 != 0 || leAt b 29 1 != 0 ||
    leAt b 6 2 > 1023 || leAt b 9 1 ≤ leAt b 8 1 || leAt b 11 1 ≤ leAt b 10 1 || leAt b 14 1 > leAt b 15 1

/-- The block is taken: YILOS.CAP, LEG.BOOT.TBMAX and the legs' minimum dead times (R215). -/
def State.takeCap (s : State) (k : Nat) (b : List Byte) : State :=
  let s := loopN 16 (fun i s => s.wr (R.YILOS_CAP k i) (BitVec.ofNat 32 (leAt b (4 * i) 4))) s
  let s := loopN 4 (fun p s => s.put (F.LEG_BOOT_TBMAX (4 * k + p)) (leAt b 4 2)) s
  s.setLink k { s.link k with dtMin := (List.range 4).map (capDt b) }

def State.trainFail (s : State) (k code : Nat) : State := (s.linkDown k lFAILED).fault code k

/-- A SYNC frame, or what is none, in SYNC: 64 good ones in a row end it (R218). -/
def State.takeSync (s : State) (k : Nat) (ok : Bool) : State :=
  let l := s.link k
  if !ok then s.setLink k { l with syncN := 0 }
  else if l.syncN + 1 ≥ 64 then (s.setLink k { l with syncN := 0, capCur := [], capPrev := [] }).stage k lCAP
  else s.setLink k { l with syncN := l.syncN + 1 }

/-- A CAP frame: the block is judged after two identical complete copies (R214). -/
def State.takeCapFrame (s : State) (k ofs : Nat) (d : List Byte) : State :=
  let l := s.link k
  let cur := if ofs = l.capCur.length then l.capCur ++ d else if ofs = 0 then d else []
  let n := leAt cur 28 1
  let len := if cur.length ≥ 32 then 32 + 4 * (if n > 8 then 0 else n) else 32
  if cur.length < len || cur.length < 32 then s.setLink k { l with capCur := cur }
  else if l.capPrev = cur then
    if capBad cur then s.trainFail k 0x0403
    else ((s.takeCap k cur).setLink k { (s.takeCap k cur).link k with capCur := [], delays := [], dseq := 0 }).stage k lDELAY
  else s.setLink k { l with capCur := [], capPrev := cur }

/-- One of the round trips of the DELAY stage, in ns: 16 that agree within 2 ns give D (R217). -/
def State.takeDelay (s : State) (k rt : Nat) : State :=
  let l := s.link k
  let ds := l.delays ++ [rt]
  if ds.length < 16 then s.setLink k { l with delays := ds }
  else
    let lo := ds.foldl min rt
    let hi := ds.foldl max rt
    let d := (rt - 280) / 2 + 12
    if rt < 280 || hi - lo > 2 || d > 100 then s.trainFail k 0x0405
    else
      let s := (s.put (F.YILOS_DLY_D k) d).put (F.YILOS_DLY_PAD k) (100 - d)
      let s := s.setLink k { l with delays := [] }
      if s.commonVersion k = 0 then s.trainFail k 0x0404 else s.stage k lVER

/-- A received training frame (R213 to R218); for DELAY, `rt` is the measured round trip of R217 in ns, and the echo must carry
one of the numbers sent. -/
def State.trainingFrame (s : State) (k : Nat) (f : RxFrame) (rt : Nat) : State :=
  let st := s.linkState k
  let l := s.link k
  match f with
  | .training tt b =>
    let b1 := leAt b 0 1
    if st = lSYNC then s.takeSync k (tt = 1)
    else if st = lCAP && tt = 3 then s.takeCapFrame k b1 (slice b 1 4)
    else if st = lDELAY && tt = 4 && (l.dseq + 255 - b1) % 256 < min 256 l.dseq then s.takeDelay k rt
    else if st = lVER && tt = 5 && b1 = s.commonVersion k && s.get (F.YILOS_STAT_VER k) = 0 then
      (s.put (F.YILOS_STAT_VER k) b1).setLink k { l with startLeft := 8 }
    else s
  | _ => if st = lSYNC then s.takeSync k false else s

/-- TRAINING_FRAME (R213 to R218): the line bits that arrive are those the tile sent, or `f`; `err` is a line error. `sent` and
`came` are the instants, in ns, from which and to which the round trip of R217 is measured. -/
def execTrainingFrame (k : TileNo) (err other : Bool) (f : BitVec 80) (sent came : Nat) (s : State) : Out :=
  let st := s.linkState k
  if st = lSYNC || st = lCAP || st = lDELAY || st = lVER then
    let (f, s) := s.upRx k (lineIn err other f)
    .next (s.trainingFrame k f (came - sent))
  else .next s

/-- The limit of the training stage that runs: its end in `tb` and its fault (R218). -/
def State.stageLimit (s : State) (k : Nat) : Option (Nat × Nat) :=
  let st := s.linkState k
  let t := (s.link k).stAt
  if st = lSYNC then some (t + 80000, 0x0402)
  else if st = lCAP then some (t + 16000, 0x0403)
  else if st = lDELAY then some (t + 8000, 0x0405)
  else if st = lVER && s.get (F.YILOS_STAT_VER k) = 0 then some (t + 8000, 0x0404)
  else none

/-- TRAINING_TIMEOUT (R218). -/
def execTrainingTimeout (k : TileNo) (s : State) : Out :=
  match s.stageLimit k with
  | some (t, code) => .next ((s.advanceTb t).trainFail k code)
  | none => .next s

/-- The rig's TILEREG preloads of the tile wait for the maintenance queue: registers 0x00–0x07, 0x10 and 0x11 (R443, R449). -/
def State.tilePreload (s : State) (k : Nat) : State :=
  match s.tilePre.find? (fun e => e.1 == k) with
  | none => s
  | some e =>
    let regs := [0, 1, 2, 3, 4, 5, 6, 7, 0x10, 0x11]
    let l := s.link k
    (s.setLink k ({ l with feed := l.feed ++ (regs.zip e.2).map (fun (a, b) => (a, b.toNat)) } : LinkRec).refill).showMops k

/-- LINK_UP (R188, R189, R218): the countdown after the version's echo has ended; frame 0 follows in the next slot. -/
def execLinkUp (k : TileNo) (s : State) : Out :=
  if s.linkState k = lVER && s.get (F.YILOS_STAT_VER k) ≠ 0 && (s.link k).startLeft = 0 then
    let k := k.val
    let v := s.get (F.YILOS_STAT_VER k)
    let S := s.trainSlot k
    let l := s.link k
    let s := (s.linkDown k lUP).put (F.YILOS_STAT_VER k) v
    let s := s.setLink k { s.link k with upNum := 0, s0 := S, slot := l.slot, line := l.line, txNeg := l.txNeg, rxNeg := l.rxNeg }
    let s := s.wr (R.YILOS_FNUM k) 0
    .next ((s.tilePreload k).raise (F.YILOS_EVT_TRAINED k))
  else .next s

/-- PARK_COMPLETE (R218): the all-off event and 8 PARK frames are sent. -/
def execParkComplete (k : TileNo) (s : State) : Out :=
  if s.linkState k = lPARK && (s.link k).queue.isEmpty && (s.link k).parkLeft = 0 then
    let s := s.linkDown k lOFF
    .next (if s.portReady k then s.startTraining k else s)
  else .next s

/-- YILOS_CLR (R234): the counters at 0x140–0x168 and QMAX. -/
def State.yilosClr (s : State) (k : Nat) : State :=
  let s := loopN 11 (fun i s => s.wr (R.YILOS_DLBADCNT k + 4 * i) 0) s
  s.put (F.YILOS_QSTAT_QMAX k) 0

def execYilosClr (k : TileNo) (s : State) : Out := s.onReg (R.YILOS_CLR k) fun s =>
  .next (s.yilosClr k)

/-- YILOS_MWR (R234): MOP 1 then MOP 2 or 3; a write while 8 requests wait has no effect but OVF. -/
def State.yilosMwr (s : State) (k : Nat) (rd : Bool) (addr data : Nat) : State :=
  let l := s.link k
  if l.mops.length + 2 > 16 then s.raise (F.YILOS_MSTAT_OVF k)
  else
    let s := s.setLink k { l with mops := l.mops ++ [(1, addr), (if rd then 3 else 2, if rd then 0 else data)] }
    let s := if rd then s.putB (F.YILOS_MSTAT_RVALID k) false else s
    s.showMops k

def execYilosMwr (k : TileNo) (rd : Bool) (addr data : Byte) (s : State) : Out := s.onReg (R.YILOS_MWR k) fun s =>
  .next (s.yilosMwr k rd addr.toNat data.toNat)

end Sys2Proof.Machine
end

