-- ==== Sys2Proof/Machine/Sinc.lean ====
section
/-! DEFINITION. Machine/Sinc.lean: current and voltage measurement, limits, metering, the snatch guard and the EMG pins
(R236 to R264). -/
namespace Sys2Proof.Machine

/-! ### Filters (R237 to R239) -/
/-- A tap list convolved with `r` ones. -/
def boxConv (r : Nat) (l : List Nat) : List Nat :=
  (List.range (l.length + r - 1)).map (fun i => ((l.take (i + 1)).drop (i + 1 - r)).foldl (· + ·) 0)

/-- 2R − 1 taps of sum R^2. -/
def taps2 (r : Nat) : List Nat := boxConv r (List.replicate r 1)
/-- 3R − 2 taps of sum R^3. -/
def taps3 (r : Nat) : List Nat := boxConv r (taps2 r)

/-- A result with its marks. -/
structure SincRes where
  i : Int
  sat : Bool
  /-- Substituted samples in its window. -/
  subst : Nat
  deriving DecidableEq, Repr

/-- R238: the filter sum over the window that ends `skip` samples before the newest, calibrated and clamped twice. -/
def sincResult (r : SincRec) (taps : List Nat) (total skip ofs gain : Nat) : SincRes :=
  let win := (List.range taps.length).map (fun i => r.bits.getD (skip + i) (false, true))
  let sum := (List.zip taps win).foldl (fun a p => if p.2.1 then a + p.1 else a) 0
  let raw := roundDiv ((65536 * sum : Nat) : Int) total - 32768
  let raw' := clampInt (-32767) 32767 raw
  let cal := roundDiv ((raw' - sextNat 16 ofs) * gain) 32768
  let res := clampInt (-32767) 32767 cal
  { i := res, sat := raw' != raw || res != cal, subst := (win.filter (·.2)).length }

/-- Control result of a stream (R238). -/
def State.ctlResult (s : State) (x skip : Nat) : SincRes :=
  if x < 64 then
    let r := match s.legCrew x with
      | some n => s.get (F.SINC_CREW_CFG_R n)
      | none => 64
    sincResult (s.sinc x) (taps3 r) (r ^ 3) skip (s.get (F.SINC_LEG_CAL_OFS x)) (s.get (F.SINC_LEG_CAL_GAIN x))
  else
    let r := s.get F.SINC_CTL_RV
    sincResult (s.sinc x) (taps3 r) (r ^ 3) skip 0 32768

/-- The tile of a stream. -/
def streamTile (x : Nat) : Nat := if x < 64 then x / 4 else x - 64

/-- VALID of a result (R237). -/
def State.resValid (s : State) (x : Nat) (r : SincRes) : Bool :=
  r.subst ≤ s.get F.SINC_CTL_MISSMAX && s.linkState (streamTile x) == lUP

/-- The last sample instant of the result that answers the crew's catch (R242). -/
def State.alignedAt (s : State) (n : Nat) : Nat :=
  ((s.crew n).tc + 480 + (3 * s.get (F.SINC_CREW_CFG_R n) - 3) * 20) / 40 * 40

/-- Samples from the newest back to that instant. -/
def State.alignedSkip (s : State) (n x : Nat) : Nat := ((s.sinc x).newest - s.alignedAt n) / 40

/-- The last sample instant of a stream's next result of a row of one every `per` counts after `last`; where samples have passed
without results, the row starts anew with the newest (DESIGN CHOICE, assumption log 85). -/
def SincRec.nextL (r : SincRec) (last per : Nat) : Nat := if last + per + 80 < r.newest then r.newest else last + per

/-- A result at `l` becomes available 300 to 350 ns after it (R240), `d` counts after the earliest. -/
def State.resultAt (s : State) (l d : Nat) : State := s.advanceTb (l + 240 + min d 40)

/-- Puts a control result into the stream's record; a DC-link result shows at once. -/
def State.storeCtl (s : State) (x : Nat) (r : SincRes) : State :=
  let v := s.resValid x r
  let s := s.setSinc x { s.sinc x with res := r.i, valid := v, miss := r.subst ≠ 0, sat := r.sat }
  if x < 64 then s
  else
    let k := x - 64
    let s := (s.putB (F.SINC_TILE_VDC_VALID k) v).putB (F.SINC_TILE_VDC_MISS k) (r.subst ≠ 0)
    s.putI (F.SINC_TILE_VDC_V k) r.i

/-- One sample enters a stream; missing samples repeat the last good one (R237). Samples not received before it, after a
break of the link, are missing as well. -/
def SincRec.push (r : SincRec) (t : Nat) (b : Option Bool) : SincRec :=
  let gap := if r.newest = 0 || t ≤ r.newest + 40 then 0 else min 2048 ((t - r.newest) / 40 - 1)
  let bits := List.replicate gap (r.lastGood, true) ++ r.bits
  { r with
    bits := ((match b with
      | some v => (v, false)
      | none => (r.lastGood, true)) :: bits).take 2048
    newest := t
    lastGood := b.getD r.lastGood }

/-- SINC_SAMPLE_ENTRY (R236, R237): the two samples of each stream of the latest uplink frame. -/
def execSincSampleEntry (k : TileNo) (s : State) : Out :=
  if s.linkState k ≠ lUP then .next s
  else
    let k := k.val
    let l := s.link k
    if l.upNum = 0 then .next s
    else
      -- A_k of that frame, 200 ns after its slot; its bits enter 280 ns later
      let a := l.s0 + (l.upNum - 1) * 80 + 160
      let bit (i : Nat) : Option Bool := l.up.map (fun f => f.toNat.testBit i)
      if a ≤ (s.sinc (64 + k)).newest then .next s
      else .next (loopL ((List.range 4).map (fun p => (4 * k + p, 2 * p)) ++ [(64 + k, 8)]) (fun q s =>
        s.setSinc q.1 (((s.sinc q.1).push (a - 40) (bit q.2)).push a (bit (q.2 + 1)))) (s.advanceTb (a + 224)))

/-- The control result of stream x at `l`, once its samples have come and unless it has been formed. -/
def State.formCtl (s : State) (x l d : Nat) : State :=
  let r := s.sinc x
  if r.newest < l || l ≤ r.ctlL then s
  else
    let s := (s.setSinc x { r with ctlL := l }).resultAt l d
    let q := s.ctlResult x ((r.newest - l) / 40)
    let s := if q.sat && x < 64 then s.incSat (F.SINC_LEG_SATCNT_COUNT x) else s
    s.storeCtl x q

/-- CONTROL_RESULT (R238, R240, R242, R244): a result becomes available. With CEN = 1 it is the one aligned to the carrier
point; otherwise one is formed every R samples, or every RV samples of a DC-link stream. -/
def execControlResult (x : StreamNo) (d : Nat) (s : State) : Out :=
  let x := x.val
  let r := s.sinc x
  if x < 64 then
    match s.legCrew x with
    | none => .next s
    | some n =>
      if s.bit (F.SINC_CREW_CFG_CEN n) then .next (s.formCtl x (s.alignedAt n) d)
      else .next (s.formCtl x (r.nextL r.ctlL (40 * s.get (F.SINC_CREW_CFG_R n))) d)
  else .next (s.formCtl x (r.nextL r.ctlL (40 * s.get F.SINC_CTL_RV)) d)

/-! ### Users of the fast results (R248 to R250) -/
/-- Crews with a set on a tile. -/
def State.crewsOnTile (s : State) (k : Nat) : List Nat :=
  (List.range 32).filter (fun n => s.crewState n != cUNUSED && (s.crewLegs n).any (fun x => x / 4 == k))

/-- Crews with an active set on a tile. -/
def State.activeOnTile (s : State) (k : Nat) : List Nat :=
  (List.range 32).filter (fun n => (s.activeSets n).any (fun j => (s.setTiles n j).contains k))

/-- OVERCURRENT (R249): OCN results in a row have stopped the crew once, and stop it again where it has left the fault stop
or SAFE while they go on. The count starts anew for a leg whose set has not been active. -/
def State.overcurrent (s : State) (n x : Nat) (i : Int) : State :=
  let inSet := match s.legSet n x with
    | some (j, _) => s.setActive n j
    | none => false
  let r := s.sinc x
  let st := s.crewState n
  let c := if inSet && st != cUNUSED && i.natAbs > s.get (F.CREW_OCLIM_LIM n) then r.oc + 1 else 0
  let old := r.ocHit && c ≠ 0
  let hit := max 1 (s.get (F.CREW_OCLIM_OCN n)) ≤ c
  let s := s.setSinc x { r with oc := c, ocHit := old || hit }
  if hit && (!old || st == cIDLE || st == cARMED || st == cRUN) then (s.fault 0x0503 x).faultStop n 0x0503 x else s

/-- The chopper of a phase takes a fast result (R172). -/
def State.chopFast (s : State) (n : Nat) (b : Bool) (i : Int) : State :=
  let c := s.chop n b
  let r := s.chopRef n b
  match c.st with
  | .on =>
    if (r.natAbs : Int) ≤ i * 2 ^ 31 && c.onSince + c.fld (F.CREW_CHOP_BLANK n) * 8 < s.now then
      (s.setChop n b { c with st := if c.fld (F.CREW_CHOP_FDF n) = 0 then .slow else .fast, offRun := true, offAt := s.tb
                              lastNeg := i < 0 }).chopApply n b
    else if r = 0 then (s.setChop n b { c with offRun := false }).chopSlow n b
    else s
  | .fast => if i = 0 || (decide (i < 0)) != c.lastNeg then s.chopSlow n b else s
  | .slow => s

/-- DUMP_SWITCH (R174). -/
def State.dumpSwitch (s : State) (n : Nat) (v : Int) : State :=
  if s.crewKind n ≠ 5 || s.crewState n ≠ cRUN || s.chopCrew n then s
  else
    let x := s.crewLeg n 0 0
    let on := s.getLvl x true
    if !on && (s.get (F.CREW_DUMP_VON n) : Int) ≤ v then
      -- CHOP is taken with the entry to ON (R173)
      let s := (s.setChop n false { s.chop n false with onSince := s.now }).chopLatch n false
      if s.chopCrew n then s.chopBegin n false else s.chopLeg x true none
    else if on && v ≤ (s.get (F.CREW_DUMP_VOFF n) : Int) &&
        (s.chop n false).onSince + (s.chop n false).fld (F.CREW_CHOP_BLANK n) * 8 ≤ s.now then s.legOff x
    else s

/-- The comparisons of R250: each crossing enters its fault once, and with VSTOP stops the crews. -/
def State.dcCheck (s : State) (k : Nat) (v : Int) : State :=
  if s.linkState k ≠ lUP then s
  else
    let th := (s.crewsOnTile k).any (fun n => s.bit (F.CREW_LSTAT_TH n))
    let lo : Int := if th then (s.get (F.SINC_TILE_VUVTH_V k) : Nat) else (s.get (F.SINC_TILE_VLIM_VUV k) : Nat)
    let isOver := decide ((s.get (F.SINC_TILE_VLIM_VOV k) : Int) < v)
    let under := decide (v < lo)
    let r := s.sinc (64 + k)
    let s := s.setSinc (64 + k) { r with isOver := isOver, under := under }
    let hit (code : Nat) (s : State) : State :=
      let s := s.fault code k
      if s.bit (F.SINC_TILE_VUVTH_VSTOP k) then
        loopL ((s.crewsOnTile k).filter (fun n => s.crewState n == cARMED || s.crewState n == cRUN))
          (fun n s => s.faultStop n code k) s
      else s
    let s := if isOver && !r.isOver then hit 0x0504 s else s
    if under && !r.under then hit 0x0505 s else s

/-- The choppers of a crew take the fast result of leg x (R165, R172). -/
def State.fastChop (s : State) (n x : Nat) (i : Int) : State :=
  if !(s.chopCrew n && s.crewState n == cRUN) then s
  else if s.crewKind n = 5 then s.chopFast n false i
  else
    let use (b : Bool) : Nat := s.crewLeg n 0 ((if b then 2 else 0) + (if (s.chop n b).pos then 0 else 1))
    if x = use false then s.chopFast n false i
    else if x = use true then s.chopFast n true i
    else s

/-- The fast result of leg x that ends `skip` samples before the newest (R239, R249): shown, summed and checked. -/
def State.fastLeg (s : State) (n x skip : Nat) : State :=
  let rf := s.get (F.SINC_CREW_CFG_RF n)
  let i := (sincResult (s.sinc x) (taps2 rf) (rf ^ 2) skip (s.get (F.SINC_LEG_CAL_OFS x)) (s.get (F.SINC_LEG_CAL_GAIN x))).i
  let s := s.putI (F.SINC_LEG_FRES_I x) i
  let s := s.setSinc x { s.sinc x with fast := i }
  let s := s.setLeg x { s.leg x with fastSum := (s.leg x).fastSum + i, fastN := (s.leg x).fastN + 1 }
  (s.overcurrent n x i).fastChop n x i

/-- The fast result of the DC link of tile k (R239, R174, R250). -/
def State.fastTile (s : State) (k skip : Nat) : State :=
  let rf := s.get F.SINC_CTL_RFV
  let v := (sincResult (s.sinc (64 + k)) (taps2 rf) (rf ^ 2) skip 0 32768).i
  let s := s.putI (F.SINC_TILE_VDCF_V k) v
  let s := s.setSinc (64 + k) { s.sinc (64 + k) with fast := v }
  let s := s.dcCheck k v
  loopL ((List.range 32).filter (fun n => s.crewKind n == 5 && s.crewLeg n 0 0 / 4 == k)) (fun n s => s.dumpSwitch n v) s

/-- The fast result of stream x whose last sample is at `l` becomes available. -/
def State.formFast (s : State) (x l d : Nat) : State :=
  let r := s.sinc x
  if r.newest < l then s
  else
    let skip := (r.newest - l) / 40
    let s := (s.setSinc x { r with fastL := l }).resultAt l d
    if x < 64 then
      match s.legCrew x with
      | none => s
      | some n => s.fastLeg n x skip
    else s.fastTile (x - 64) skip

/-- FAST_RESULT (R239, R240, R165, R172, R174, R249, R250): the result at the next sample instant. -/
def execFastResult (x : StreamNo) (d : Nat) (s : State) : Out :=
  .next (s.formFast x ((s.sinc x).nextL (s.sinc x).fastL 40) d)

/-! ### What a catch does with the results (R245 to R253) -/
/-- The places in a set of the legs of phase k (R137): an STP2 phase has two. -/
def phaseLegs (kind k : Nat) : List Nat := if kind = 4 then [2 * k, 2 * k + 1] else [k]
def kindPhases (kind : Nat) : Nat := if kind = 4 then 2 else kindLegs kind

/-- The measurement step of a catch (R245 step 1, R246, R247): `seq` is the catch's sequence byte. -/
def State.catchMeasure (s : State) (n seq : Nat) : State :=
  let cen := s.bit (F.SINC_CREW_CFG_CEN n)
  let kind := s.crewKind n
  let act := s.activeSets n
  let legs := act.flatMap (s.setLegs n)
  let s := loopL legs (fun x s =>
    let s := if cen then s.storeCtl x (s.ctlResult x (s.alignedSkip n x)) else s
    let r := s.sinc x
    let v := r.valid && s.linkState (x / 4) == lUP
    s.wr (R.SINC_LEG_CRES x) (BitVec.ofNat 32 (v.toNat * 2 ^ 31 + r.miss.toNat * 2 ^ 30 + r.sat.toNat * 2 ^ 29 +
      seq % 256 * 2 ^ 16 + wrapInt 16 r.res))) s
  let s := loopN (kindPhases kind) (fun k s =>
    let sum : Int := (act.flatMap (fun j => (phaseLegs kind k).map (fun i => (s.sinc (s.crewLeg n j i)).res))).foldl (· + ·) 0
    s.wr (R.CREW_IPH n k) (BitVec.ofInt 32 sum)) s
  let ival := legs.all (fun x => s.bit (F.SINC_LEG_CRES_VALID x))
  let s := s.putB (F.CREW_LSTAT_IVAL n) ival
  let inv := if ival then 0 else min 255 (s.get (F.CREW_LSTAT_INVRUN n) + 1)
  let s := s.put (F.CREW_LSTAT_INVRUN n) inv
  let tiles := (legs.map (· / 4)).eraseDups
  let vsum : Int := (tiles.map (fun k => sextNat 16 (s.get (F.SINC_TILE_VDC_V k)))).foldl (· + ·) 0
  let s := if tiles.isEmpty then s else s.putI (F.CREW_VDC_V n) (roundDiv vsum tiles.length)
  let vval := tiles.all (fun k => s.bit (F.SINC_TILE_VDC_VALID k) && s.linkState k == lUP)
  let s := s.putB (F.CREW_LSTAT_VVAL n) vval
  -- ANG after the latest tick at or before t_s (R247)
  let ts := (s.crew n).tc + 480
  let s := s.wr (R.SINC_CREW_ANGS n) (match (s.crew n).angHist.find? (fun e => e.1 ≤ ts) with
    | some e => e.2
    | none => s.rd (R.CREW_ANG n))
  let s := s.wr (R.SINC_CREW_TS n) (BitVec.ofNat 32 ts)
  if inv = 3 && s.crewState n = cRUN then (s.fault 0x0502 n).faultStop n 0x0502 else s

/-- LIMIT_UPDATE (R251). -/
def State.catchLimits (s : State) (n : Nat) : State :=
  let base := if s.get (F.CREW_STAT_SEAMST n) = 4 then s.rd (R.CREW_TQIND n) else s.rd (R.CREW_TQLIM n)
  let base := if s.guardSt n = gHOLD then s.rd (R.CREW_TQOVL n) else base
  let base := if s.guardSt n = gRENDER && !s.noticeUp n then s.rd (R.CREW_G_TQREN n) else base
  let k := s.rd (R.CREW_DRATE n)
  let k := if s.bit (F.CREW_LSTAT_TH n) then (fmul k (s.rd (R.CREW_THK n))).1 else k
  (s.wr (R.CREW_TQACT n) (fmul k base).1).wr (R.CREW_IACT n) (fmul k (s.rd (R.CREW_ILIM n))).1

/-- One unit of the energy counters is 2^-149 / 800,000 mJ. -/
def energyMj (e : Nat) : Nat := min (2 ^ 64 - 1) (e / (800000 * 2 ^ 149))

/-- METERING (R253). `prevTs` is TS of the catch before. -/
def State.catchMeter (s : State) (n : Nat) (prevTs : Word) : State :=
  let kind := s.crewKind n
  if kind = 4 || kind = 5 then s.wr (R.SINC_CREW_PWR n) 0
  else if !s.bit (F.CREW_LSTAT_IVAL n) || !s.bit (F.CREW_LSTAT_VVAL n) then s
  else
    let h := s.crewH n
    -- Σ (CMP/H − 1/2) · V · I: exact over 2·H, with V·VFS/32768 and I·IFS/327680
    let num : Int := ((s.activeSets n).flatMap (s.setLegs n)).foldl (fun a x =>
      let k := x / 4
      let d : Int := 2 * ((s.leg x).cmpTs : Int) - h
      let v : Int := (s.sinc (64 + k)).res * ((s.rd (R.YILOS_CAP k 5)).toNat % 65536 : Nat)
      let i : Int := (s.sinc x).res * ((s.rd (R.YILOS_CAP k 4)).toNat / 65536 : Nat)
      a + d * v * i) 0
    let den : Nat := 2 * h * 32768 * 327680
    let p := (fdiv (fOfInt num) (fOfInt den)).1
    let s := s.wr (R.SINC_CREW_PWR n) p
    let dt := (s.rd (R.SINC_CREW_TS n) - prevTs).toNat
    match f32.exactN p.toNat with
    | some (z, e) =>
      let q := z.natAbs * dt * 2 ^ (e + 149).toNat
      let c := s.crew n
      if z > 0 then s.setCrew n { c with epos := c.epos + q }
      else s.setCrew n { c with eneg := c.eneg + q }
    | none => s

/-- ECLR_WRITE (R262). -/
def State.eclr (s : State) (n : Nat) (clr : Bool) : State :=
  if clr then s.setCrew n { s.crew n with epos := 0, eneg := 0 } else s
def execEclrWrite (n : CrewNo) (clr : Bool) (s : State) : Out := s.onReg (R.SINC_CREW_ECLR n) fun s =>
  .next (s.eclr n clr)

/-- A read of EPOS_L or ENEG_L latches the high word (R262). -/
def State.readEnergy (s : State) (n : Nat) (neg : Bool) : Word × State :=
  let e := energyMj (if neg then (s.crew n).eneg else (s.crew n).epos)
  let hi := BitVec.ofNat 32 (e / 2 ^ 32)
  (BitVec.ofNat 32 e, s.wr (if neg then R.SINC_CREW_ENEG_H n else R.SINC_CREW_EPOS_H n) hi)
/-- EPOS_L_READ (R262). -/
def execEposLRead (n : CrewNo) (s : State) : Out := s.onRegRead (R.SINC_CREW_EPOS_L n) fun s =>
  let (w, s) := s.readEnergy n false
  .next { s with rdata := w }
/-- ENEG_L_READ (R262). -/
def execEnegLRead (n : CrewNo) (s : State) : Out := s.onRegRead (R.SINC_CREW_ENEG_L n) fun s =>
  let (w, s) := s.readEnergy n true
  .next { s with rdata := w }

/-! ### The snatch guard (R255 to R257) -/
/-- Sum of the fast results of phase k over the active sets. -/
def State.fastPhase (s : State) (n k : Nat) : Int :=
  ((s.activeSets n).map (fun j => (s.sinc (s.crewLeg n j k)).fast)).foldl (· + ·) 0

/-- iq of three phases from phase k0 on at an angle (R255, R113). -/
def State.guardIq (s : State) (n k0 : Nat) (ang : Word) : Word :=
  let x := fOfInt (s.fastPhase n k0)
  let b := fOfInt (s.fastPhase n (k0 + 1))
  let y := (fmul (fadd (fadd x b).1 b).1 0x3F13CD3A#32).1
  let sn := fOfDyadic (s.tableRead 0 ang) (-31)
  let cs := fOfDyadic (s.tableRead 0 (ang + 0x40000000#32)) (-31)
  (fsub (fmul y cs).1 (fmul x sn).1).1

/-- The guard's step at a TAS tick (R255, R256, and the rows of R257 that a tick decides). -/
def State.guardTick (s : State) (n : Nat) : State :=
  if !s.bit (F.CREW_G_CFG_EN n) || s.crewState n = cUNUSED || s.guardSt n = gOFF then s
  else
    let g := (s.crew n).guard
    let port := s.bit (F.CREW_G_CFG_SSRC n) && !s.bit (F.CREW_LSTAT_SLESS n)
    let cnt := (s.pos (s.get (F.CREW_G_CFG_PORT n))).cnt
    let w := fOfInt (if port then cnt - g.cnt else (s.crew n).inc)
    let hist := (w :: g.w).take 33
    let W := s.get (F.CREW_G_CFG_WM1 n) + 1
    let a := (fdiv (fsub w (hist.getD W 0)).1 (fOfInt W)).1
    let ang := s.rd (R.CREW_ANG n)
    let iq := match s.crewKind n with
      | 1 => s.guardIq n 0 ang
      | 2 => (fmul 0x3F000000#32 (fadd (s.guardIq n 0 ang)
          (s.guardIq n 3 (ang - phaseShift 2 (s.bit (F.CREW_CFG_REV n)) (s.bit (F.CREW_CFG_SIX n)) 3))).1).1
      | _ => fOfInt (s.fastPhase n 0)
    let tl := (fsub (fmul (s.rd (R.CREW_G_KT n)) iq).1 (fmul (s.rd (R.CREW_G_JE n)) a).1).1
    let base := s.rd (R.CREW_G_BASE n)
    let st := s.guardSt n
    let s := s.wr (R.CREW_G_TL n) tl
    let s := if st = gARMED || st = gCOOL then
        s.wr (R.CREW_G_BASE n) (fadd base (fmul (fsub tl base).1 (fOfDyadic 1 (-(s.get (F.CREW_G_CFG_BSH n) : Int)))).1).1
      else s
    let run := s.crewState n == cRUN
    let big := run && flt (s.rd (R.CREW_G_STEP n)) (fabs (fsub tl base).1)
    let c := if big then g.run + 1 else 0
    let low := st = gRENDER && !g.byEmg && fle tl (fadd g.b0 (s.rd (R.CREW_G_RCLR n))).1
    let s := s.setCrew n { s.crew n with guard := { g with
      w := hist, run := c, cnt := cnt, since := if low then some (g.since.getD s.now) else none } }
    if run && c = s.get (F.CREW_G_CFG_CM1 n) + 1 then
      let s := s.wr (R.CREW_G_DET_T n) (BitVec.ofNat 32 s.tb)
      let s := (s.incSat (F.CREW_G_DETCNT_COUNT n)).raise (F.CREW_G_EVT_DET n)
      if st = gARMED then
        match s.get (F.CREW_G_CFG_POL n) with
        | 0 =>
          let s := s.setCrew n { s.crew n with guard := { (s.crew n).guard with t0 := s.now } }
          (s.fault 0x0510 n).put (F.CREW_G_STAT_STATE n) gHOLD
        | 1 => s.guardRender n false
        | 2 => s.guardTrip n
        | _ => s
      else if st = gCOOL then
        if s.get (F.CREW_G_CFG_POL2 n) = 1 then s.guardTrip n
        else (s.raise (F.CREW_G_EVT_IGNORED n)).fault 0x0513 n
      else s
    else s

/-- OFF with G_CFG.EN = 1 at rig activation: base := tl, ARMED (R257). -/
def State.guardStart (s : State) (n : Nat) : State :=
  if s.bit (F.CREW_G_CFG_EN n) then
    let s := s.setCrew n { s.crew n with guard := { cnt := (s.pos (s.get (F.CREW_G_CFG_PORT n))).cnt } }
    (s.wr (R.CREW_G_BASE n) (s.rd (R.CREW_G_TL n))).put (F.CREW_G_STAT_STATE n) gARMED
  else s

/-- GUARD_HOLD_END (R257). -/
def execGuardHoldEnd (n : CrewNo) (s : State) : Out :=
  if s.guardSt n = gHOLD then
    let s := s.until ((s.crew n).guard.t0 + s.get (F.CREW_G_TIME_HOLD n) * msCounts)
    let s := s.raise (F.CREW_G_EVT_HOLDEND n)
    let s := s.setCrew n { s.crew n with guard := { (s.crew n).guard with t0 := s.now } }
    .next (s.put (F.CREW_G_STAT_STATE n) gCOOL)
  else .next s

/-- GUARD_COOL_END (R257): a COOL of 0 ms ends at the tick after entry. -/
def execGuardCoolEnd (n : CrewNo) (s : State) : Out :=
  if s.guardSt n = gCOOL then
    let t := (s.crew n).guard.t0
    let tick := 128 - (s.tb - (s.now - t)) % 128
    let cool := s.get (F.CREW_G_TIME_COOL n)
    .next ((s.until (t + if cool = 0 then tick else cool * msCounts)).guardArm n)
  else .next s

/-- GUARD_RENDER_LIMIT (R257). -/
def execGuardRenderLimit (n : CrewNo) (s : State) : Out :=
  let g := (s.crew n).guard
  if s.guardSt n = gRENDER && !g.byEmg then
    .next ((s.until (g.t0 + s.get (F.CREW_G_RTIME_RMAX n) * 1000 * msCounts)).guardTrip n)
  else .next s

/-- GUARD_RECOVER (R257): tl has stayed at or below b0 + G_RCLR for RDWELL. The render timer, listed before it, goes first
where it ends at the same count (R13). -/
def execGuardRecover (n : CrewNo) (s : State) : Out :=
  let g := (s.crew n).guard
  match g.since with
  | some t =>
    let due := t + s.get (F.CREW_G_RTIME_RDWELL n) * msCounts
    if s.guardSt n = gRENDER && !g.byEmg && due < g.t0 + s.get (F.CREW_G_RTIME_RMAX n) * 1000 * msCounts then
      let s := s.until due
      .next ((s.raise (F.CREW_G_EVT_RECOVER n)).guardBack n)
    else .next s
  | none => .next s

/-! ### EMG pins and sensorless fallback (R259 to R261) -/
/-- One sample of a pin: 10 in a row at the other level change it. -/
def EmgPin.sample (p : EmgPin) (low : Bool) : EmgPin :=
  if low = p.on then { p with n := 0 }
  else if p.n + 1 ≥ 10 then { n := 0, on := low }
  else { p with n := p.n + 1 }

/-- What a sample of the EMG pins does to a crew (R257, R260, R283): take-home, crash stop and render. `new0` and `new1`
say that a pin has become asserted. -/
def State.emgCrew (s : State) (new0 new1 : Bool) (n : Nat) : State :=
  let th := s.emgAct n 1
  let s := if th && !s.bit (F.CREW_LSTAT_TH n) then s.fault 0x0530 n else s
  let s := s.putB (F.CREW_LSTAT_TH n) th
  let s := s.crashCheck n
  let edge := (new0 && s.get (F.CREW_EMG_A0 n) == 2) || (new1 && s.get (F.CREW_EMG_A1 n) == 2)
  let st := s.guardSt n
  if edge && s.crewState n = cRUN && s.bit (F.CREW_G_CFG_EN n) && !s.emgAct n 3 &&
      (st = gARMED || st = gHOLD || st = gCOOL) then s.guardRender n true
  else if st = gRENDER && (s.crew n).guard.byEmg && !s.emgAct n 2 then
    (s.raise (F.CREW_G_EVT_RECOVER n)).guardBack n
  else s

/-- EMG_SAMPLE (R259, R260, R283): every 100 µs; `low0` and `low1` are the pins' levels, true is low. -/
def execEmgSample (low0 low1 : Bool) (s : State) : Out :=
  let s := s.until (s.emgAt + 80000)
  let s := { s with emgAt := s.now }
  let was0 := s.emg0.on
  let was1 := s.emg1.on
  let s := { s with emg0 := s.emg0.sample low0, emg1 := s.emg1.sample low1 }
  .next (loopL ((List.range 32).filter (fun n => s.crewState n != cUNUSED))
    (fun n u => u.emgCrew (s.emg0.on && !was0) (s.emg1.on && !was1) n) s)

/-- SLESS_LOWSPEED (R261): abs(SPD) has been below VMIN for TLOW ms. -/
def execSlessLowspeed (n : CrewNo) (s : State) : Out :=
  match (s.crew n).slowAt with
  | some t => .next (((s.until (t + s.get (F.CREW_SLESS_TLOW n) * msCounts)).fault 0x0522 n).faultStop n 0x0522)
  | none => .next s

/-- What a tick decides after the lasting loss of the crew's position port (R261). -/
def State.posLossTick (s : State) (n : Nat) : State :=
  if !(s.crew n).lossPend then s
  else
    let s := s.setCrew n { s.crew n with lossPend := false }
    if s.bit (F.CREW_SLESS_EN n) || s.bit (F.CREW_LSTAT_TH n) then
      (slessTrack n ((s.putB (F.CREW_LSTAT_POSLOST n) true).putB (F.CREW_LSTAT_SLESS n) true)).fault 0x0520 n
    else (s.fault 0x0521 n).faultStop n 0x0521

end Sys2Proof.Machine
end

