-- ==== Sys2Proof/Machine/Position.lean ====
section
/-! DEFINITION. Machine/Position.lean: the position ports (R287 to R295). -/
namespace Sys2Proof.Machine

/-- Port states as POS.STAT.STATE codes them (R295). -/
abbrev poOFF : Nat := 0
abbrev poOK : Nat := 1
abbrev poLOST : Nat := 2

def State.posSt (s : State) (j : Nat) : Nat := s.get (F.POS_STAT_STATE j)
/-- A field of a register's word. -/
def wordFld (w : Word) (f : Fld) : Nat := bitsOf w.toNat f.hi f.lo

/-- The mode in force (R288, R295). -/
def State.posMode (s : State) (j : Nat) : Nat := wordFld (s.pos j).cfg (F.POS_CFG_MODE j)

/-- The crew that has the port assigned (R287). -/
def State.portCrews (s : State) (j : Nat) : List Nat :=
  (List.range 32).filter (fun n => s.crewState n != cUNUSED && s.bit (F.PROF_CFG_PEN n) && s.get (F.PROF_CFG_PORT n) == j)

/-- A lasting loss (R291, R293): LOST, and the next tick decides for its crew (R261). -/
def State.portLost (s : State) (j code : Nat) : State :=
  let s := s.put (F.POS_STAT_STATE j) poLOST
  let s := (s.retryL 3).fault code j
  let s := s.setPos j { s.pos j with busy := false, due := false }
  loopL (s.portCrews j) (fun n s => s.setCrew n { s.crew n with lossPend := true }) s

/-- STATE follows the mode in force: OFF in mode 0, OK in another. A LOST port stays so until REARM (R293). The periodic
triggers count from the entry into OK (DESIGN CHOICE, assumption log 81). -/
def State.posState (s : State) (j : Nat) : State :=
  if s.posSt j = poLOST then s
  else if s.posMode j = 0 then
    (s.put (F.POS_STAT_STATE j) poOFF).setPos j { s.pos j with busy := false, due := false }
  else if s.posSt j = poOFF then
    (s.put (F.POS_STAT_STATE j) poOK).setPos j { s.pos j with rebase := true, trigAt := s.now }
  else s

/-- CFG, SER and TRIG come into force (R295). -/
def State.posTake (s : State) (j : Nat) : State :=
  (s.setPos j { s.pos j with cfg := s.rd (R.POS_CFG j), ser := s.rd (R.POS_SER j), trg := s.rd (R.POS_TRIG j) }).posState j

/-- The registers of port j have been written: while STATE is OK they act from the next trigger (R295). -/
def State.posWritten (s : State) (j : Nat) : State := if s.posSt j = poOK then s else s.posTake j

/-- A level of A or B counts after FILT + 1 samples, one every 2.5 ns (R289): `n` samples have seen it. -/
def State.posStable (s : State) (j n : Nat) : Bool := wordFld (s.pos j).cfg (F.POS_CFG_FILT j) + 1 ≤ n

/-- A count, wrapped to 64 bits. -/
def cntWrap (z : Int) : Int := sextNat 64 (wrapInt 64 z)

/-- QUADRATURE_EDGE (R289): a change of A or B; `e.up` is its direction before INV. -/
def execQuadratureEdge (j : Port16) (e : Sampled) (s : State) : Out :=
  if s.posMode j = 1 && s.posSt j = poOK && s.posStable j e.n then
    let d : Int := if e.up != (wordFld (s.pos j).cfg (F.POS_CFG_INV j) == 1) then 1 else -1
    .next (s.setPos j { s.pos j with cnt := cntWrap ((s.pos j).cnt + d) })
  else .next s

/-- Z_CAPTURE (R289). -/
def execZCapture (j : Port16) (s : State) : Out :=
  if s.posMode j = 1 && wordFld (s.pos j).cfg (F.POS_CFG_ZEN j) = 1 then
    .next ((s.setPos j { s.pos j with zcap := (s.pos j).cnt }).raise (F.POS_STAT_ZSEEN j))
  else .next s

/-- ILLEGAL_TRANSITION (R289, R293): a change of both A and B; a second one within 1 ms is a loss. -/
def execIllegalTransition (e : PortSeen) (s : State) : Out :=
  let j := e.port
  if s.posMode j = 1 && s.posStable j e.n then
    let r := s.pos j
    let s := s.incSat (F.POS_ILLCNT_COUNT j)
    let second := match r.lastIll with
      | some t => decide (s.now ≤ t + msCounts)
      | none => false
    let s := s.setPos j { r with lastIll := some s.now }
    if second then (if s.posSt j = poOK then .next (s.portLost j 0x0613) else .next s)
    else .next (s.retryT 3)
  else .next s

/-- LINE_FAULT (R293): the detector asserts STAT.LINEF, or releases it; one released before it lasted is transient. -/
def execLineFault (j : Port16) (on : Bool) (s : State) : Out :=
  if s.posMode j = 0 || on = s.bit (F.POS_STAT_LINEF j) then .next s
  else
    let s := s.putB (F.POS_STAT_LINEF j) on
    if on then
      .next ((s.incSat (F.POS_LINECNT_COUNT j)).setPos j { s.pos j with lineAt := s.now, lineSeen := true })
    else if s.posMode j = 1 && s.posSt j = poOK then .next (s.retryT 3)
    else .next s

/-- POS_LINE (R293): LINEF has lasted 2 µs. -/
def execPosLine (j : Port16) (s : State) : Out :=
  if s.posMode j = 1 && s.bit (F.POS_STAT_LINEF j) && s.posSt j = poOK then
    .next ((s.until ((s.pos j).lineAt + 1600)).portLost j 0x0612)
  else .next s

/-- A serial read starts, at a trigger or as the retry (R290, R291). -/
def State.startRead (s : State) (j : Nat) (retry : Bool) : State :=
  s.setPos j { s.pos j with
    busy := true, retry := retry, due := false, lineSeen := s.bit (F.POS_STAT_LINEF j), trig := s.tb }

/-- The port's next trigger, and the clock at it (R290): TRIG.PER after the one before, or t_s of a catch of crew TRIG.CREW
that has not yet given one. -/
def State.posTrigger (s : State) (j : Nat) : Option State :=
  let r := s.pos j
  if wordFld r.trg (F.POS_TRIG_SRC j) = 0 then
    let t := r.trigAt + wordFld r.trg (F.POS_TRIG_PER j) * 800
    some ((s.until t).setPos j { r with trigAt := t })
  else
    let n := wordFld r.trg (F.POS_TRIG_CREW j)
    let t := (s.crew n).tc + 480
    if s.crewState n = cUNUSED || t = r.trigTs then none
    else some ((s.advanceTb t).setPos j { r with trigTs := t })

/-- POS_READ_TRIGGER (R290, R295): dropped while a read, its retry or its pause is in progress; otherwise what has been
written acts, and in a serial mode a read starts. -/
def execPosReadTrigger (j : Port16) (s : State) : Out :=
  if s.posSt j ≠ poOK then .next s
  else
    match s.posTrigger j with
    | none => .next s
    | some s =>
      if (s.pos j).busy || (s.pos j).due || s.now < (s.pos j).pause then .next s
      else
        let s := s.posTake j
        if 2 ≤ s.posMode j then .next (s.startRead j false) else .next s

/-- The low `n` bits, most significant first. -/
def bitsMsb (n v : Nat) : List Bool := ((List.range n).map (fun i => v.testBit i)).reverse

/-- Gray decoding of `n` bits. -/
def grayDecode (n v : Nat) : Nat :=
  ((bitsMsb n v).foldl (fun (acc : Nat × Bool) b => let x := acc.2 != b; (2 * acc.1 + x.toNat, x)) (0, false)).1

/-- The read is good (R288, R291). nE and nW are sent active low. -/
def State.readGood (s : State) (j : Nat) (i : SerialIn) : Bool :=
  let len := wordFld (s.pos j).ser (F.POS_SER_LEN j)
  let d := i.data.toNat % 2 ^ len
  let line := !(s.pos j).lineSeen && !s.bit (F.POS_STAT_LINEF j)
  if wordFld (s.pos j).cfg (F.POS_CFG_MODE j) = 2 then
    line && (!(wordFld (s.pos j).ser (F.POS_SER_PAR j) == 1) || (popCount len d + i.check.toNat % 2) % 2 == 0)
  else
    let ew := (wordFld (s.pos j).ser (F.POS_SER_EW j) == 1)
    let bits := bitsMsb len d ++ (if ew then [!i.err, !i.warn] else [])
    line && i.ack && i.tout && !(ew && i.err) &&
      (!(wordFld (s.pos j).ser (F.POS_SER_CRC j) == 1) || crcBits 6 0x03 0 bits ^^^ 0x3F == i.check.toNat)

/-- A good read extends CNT (R292). -/
def State.takeRead (s : State) (j : Nat) (i : SerialIn) : State :=
  let len := wordFld (s.pos j).ser (F.POS_SER_LEN j)
  let d := i.data.toNat % 2 ^ len
  let raw := if wordFld (s.pos j).cfg (F.POS_CFG_GRAY j) = 1 then grayDecode len d else d
  let r := s.pos j
  let step := sextNat len ((raw + 2 ^ len - r.raw % 2 ^ len) % 2 ^ len)
  let cnt := if r.rebase then sextNat len raw
    else cntWrap (r.cnt + (if wordFld (s.pos j).cfg (F.POS_CFG_INV j) = 1 then -step else step))
  let s := s.setPos j { r with cnt := cnt, raw := raw, rebase := false }
  let s := s.wr (R.POS_RAW j) (BitVec.ofNat 32 raw)
  -- the latch instant lies within the read's longest time (R290)
  let (t, s) := s.freeIn r.trig (r.trig + (len + 29) * 4 * (wordFld (s.pos j).ser (F.POS_SER_CLKDIV j) + 1) + 160)
  s.wr (R.POS_TSTAMP j) (BitVec.ofNat 32 t)

/-- SERIAL_READ_COMPLETE (R291, R292). STAT shows nE and nW of the last read that brought them; each assertion of nW enters
0x0614, whether or not that read counts as good. -/
def execSerialReadComplete (j : Port16) (i : SerialIn) (s : State) : Out :=
  let r := s.pos j
  if !r.busy then .next s
  else
    let good := s.readGood j i
    let ew := (wordFld (s.pos j).ser (F.POS_SER_EW j) == 1) && wordFld (s.pos j).cfg (F.POS_CFG_MODE j) = 3
    let s := s.setPos j { r with busy := false, pause := s.now + wordFld (s.pos j).ser (F.POS_SER_TOUT j) * 800, due := !good && !r.retry }
    let s := if ew && i.ack then
        let s := if i.warn && !s.bit (F.POS_STAT_WBIT j) then s.fault 0x0614 j else s
        (s.putB (F.POS_STAT_EBIT j) i.err).putB (F.POS_STAT_WBIT j) i.warn
      else s
    if good then
      let s := s.takeRead j i
      if r.retry then .next (s.retryT 3) else .next s
    else if r.retry then .next (s.portLost j 0x0611)
    else .next (s.incSat (F.POS_ERRCNT_COUNT j))

/-- SERIAL_READ_RETRY (R291): at once after the pause. -/
def execSerialReadRetry (j : Port16) (s : State) : Out :=
  if (s.pos j).due then .next ((s.until (s.pos j).pause).startRead j true) else .next s

/-- POS_REARM (R293, R295): LOST ends, for OK or, in mode 0, for OFF. -/
def State.posRearm (s : State) (j : Nat) : State :=
  let s := s.setPos j { s.pos j with rebase := true, lastIll := none }
  if s.posSt j = poLOST then (s.put (F.POS_STAT_STATE j) poOFF).posState j else s
def execPosRearm (j : Port16) (s : State) : Out := s.onReg (R.POS_CTL j) fun s =>
  .next (s.posRearm j)

/-- POS_CLR (R295). -/
def State.posClr (s : State) (j : Nat) : State :=
  ((s.wr (R.POS_ERRCNT j) 0).wr (R.POS_ILLCNT j) 0).wr (R.POS_LINECNT j) 0
def execPosClr (j : Port16) (s : State) : Out := s.onReg (R.POS_CTL j) fun s =>
  .next (s.posClr j)

/-- A 64-bit number read as its low word; the high word is latched in a register. -/
def State.readLatch (s : State) (z : Int) (hiReg : Nat) : Word × State :=
  let w := wrapInt 64 z
  (BitVec.ofNat 32 w, s.wr hiReg (BitVec.ofNat 32 (w / 2 ^ 32)))

/-- POS_CNT_L_READ (R295). -/
def execPosCntLRead (j : Port16) (s : State) : Out := s.onRegRead (R.POS_CNT_L j) fun s =>
  let (w, s) := s.readLatch (s.pos j).cnt (R.POS_CNT_H j)
  .next { s with rdata := w }

/-- POS_ZCAP_L_READ (R295). -/
def execPosZcapLRead (j : Port16) (s : State) : Out := s.onRegRead (R.POS_ZCAP_L j) fun s =>
  let (w, s) := s.readLatch (s.pos j).zcap (R.POS_ZCAP_H j)
  .next { s with rdata := w }

end Sys2Proof.Machine
end

