-- ==== Sys2Proof/Machine/Profile.lean ====
section
/-! DEFINITION. Machine/Profile.lean: the profile unit's tick, standstill, brake, FOLLOW, crash stop and Iarum set-points
(R265 to R286). -/
namespace Sys2Proof.Machine

/-! ### Speeds and rates -/
/-- A speed register in 2^-40 counts per tick (R266). -/
def spd40 (v : Nat) : Nat := v * 2 ^ 22

/-- An internal speed rounded to 2^-18 counts, ties away from zero (R268). -/
def incOf (s40 : Nat) : Nat := (s40 + 2 ^ 21) / 2 ^ 22

structure ProfRates where
  a1 : Nat
  a2 : Nat
  d2 : Nat
  d1 : Nat
  dabs : Nat
  deriving DecidableEq, Repr

/-- The rates in force: CRACC for all during a crash stop (R283). -/
def State.rates (s : State) (n : Nat) : ProfRates :=
  if s.pfCrash n then
    let a := s.get (F.PROF_CRACC_A n)
    ⟨a, a, a, a, a⟩
  else ⟨s.get (F.PROF_A1_A n), s.get (F.PROF_A2_A n), s.get (F.PROF_D2_A n), s.get (F.PROF_D1_A n), s.get (F.PROF_DABS_A n)⟩

/-- The stopping distance D(s) in counts as binary64 (R270). -/
def stopDist (s vbrk vstop d2 d1 : Nat) : Nat :=
  let sp (v : Nat) : Nat := (f64.ofInt v (-40)).1
  let rt (a : Nat) : Nat := (f64.ofInt a (-40)).1
  let sq (x : Nat) : Nat := (f64.mulN x x).1
  let seg (a b d : Nat) : Nat := (f64.divN (f64.subN (sq a) (sq b)).1 (f64.mulN (f64.ofInt 2 0).1 d).1).1
  if s > vbrk then (f64.addN (seg (sp s) (sp vbrk) (rt d2)) (seg (sp vbrk) (sp vstop) (rt d1))).1
  else if vstop < s then seg (sp s) (sp vstop) (rt d1)
  else 0

/-! ### Output of a tick -/
/-- The unit outputs increment v (2^-18 counts) with internal speed `sp`: position, VEL, DIR, LASTDIR and T0 (R268, R272). -/
def State.profOut (s : State) (n : Nat) (v : Int) (sp : Nat) : State :=
  let r := s.prof n
  let r := { r with pos := posWrap (r.pos + v), v := v, s := sp, t0 := if sp = 0 && (v ≠ 0 || r.s ≠ 0) then s.now else r.t0 }
  let s := s.setProf n r
  let s := s.wr (R.PROF_VEL n) (BitVec.ofInt 32 v)
  let s := s.putB (F.PROF_PSTAT_DIR n) r.neg
  if v = 0 then s else s.putB (F.PROF_PSTAT_LASTDIR n) (v < 0)

def State.seg (s : State) (n k : Nat) : State := s.put (F.PROF_PSTAT_SEG n) k

/-- The fast DC-link result of a tile with an active set is at or above CRVDC (R283). -/
def State.regenLimit (s : State) (n : Nat) : Bool :=
  ((s.activeSets n).flatMap (s.setTiles n)).any (fun k => (s.get (F.PROF_CRCTL_CRVDC n) : Int) ≤ (s.sinc (64 + k)).fast)

/-- STOP and HALTQ are over: without a goal kept, the goal becomes the position reached (R273, R274). In MODE 2 the reference
stays frozen, at the position reached, unless a set-point has resumed it (R277; DEDUCED, assumption log 82). -/
def State.stopDone (s : State) (n : Nat) : State :=
  let r := s.prof n
  let s := if r.keep || (s.pfMode n = 2 && r.hold.isNone) then s else s.profNoGoal n
  s.setProf n { s.prof n with stop := false, haltq := false, keep := false }

/-- The move ended with stopped = 1 (R273). An approach stays one until its target is reached (R270). -/
def State.moveStopped (s : State) (n : Nat) : State :=
  let r := s.prof n
  let ovs := s.bit (F.PROF_PSTAT_OVS n)
  let s := s.putB (F.PROF_PSTAT_OVS n) false
  if r.stop || r.haltq then (s.stopDone n).setPf n pfSTILL
  else
    let rev := ovs || (s.motionReq n).isSome
    let s := if rev then s.raise (F.PROF_EVT_REVERSAL n) else s
    match s.motionReq n with
    | none => s.setPf n pfSTILL
    | some d =>
      if s.dwellOwed n d then s.setPf n pfDWELL else s.setProf n { s.prof n with start := true }

/-- The move ended at its target (R273). -/
def State.moveArrived (s : State) (n : Nat) : State :=
  let s := s.putB (F.PROF_PSTAT_APPR n) false
  (s.raise (F.PROF_EVT_ARRIVED n)).setPf n pfSTILL

/-- A MODE 2 tick: the output follows q under VMAX and DABS (R285). -/
def State.iarTick (s : State) (n : Nat) : State :=
  let r := s.prof n
  let q := s.iarRef n
  let want : Int := (q - r.pos) * 2 ^ 22
  let vmax : Int := (spd40 (s.get (F.PROF_VMAX_V n)) : Nat)
  let w1 := clampInt (-vmax) vmax want
  let prev : Int := if r.neg then -(r.s : Int) else r.s
  let da : Int := ((s.rates n).dabs : Nat)
  let w2 := clampInt (prev - da) (prev + da) w1
  let s := s.setProf n { s.prof n with neg := w2 < 0, lag := r.lag || w2 != want }
  let v : Int := if w2 < 0 then -(incOf w2.natAbs : Int) else incOf w2.natAbs
  let s := s.profOut n v w2.natAbs
  let s := s.seg n 4
  let r := s.prof n
  if w2 = 0 && q = r.pos && (r.hold.isSome || r.sPrev = r.sNew) then s.setPf n pfSTILL else s

/-- The start tick (R271). In MODE 2 its output is that of R285. -/
def State.startTick (s : State) (n : Nat) : State :=
  let s := s.setProf n { s.prof n with start := false }
  if s.pfMode n = 2 && (s.motionReq n).isSome then (if s.pf n = pfMOVE then s else s.setPf n pfMOVE).iarTick n else
  match s.motionReq n with
  | none => (s.profOut n 0 0).setPf n pfSTILL
  | some neg =>
    let s := s.setProf n { s.prof n with neg := neg }
    let r := s.prof n
    let v0 := s.get (F.PROF_VSTART_V n)
    let v1 := if s.pfMode n = 1 then min v0 (s.rd (R.PROF_VTGT n)).toInt.natAbs else v0
    let s := if s.pf n = pfMOVE then s else s.setPf n pfMOVE
    let s := s.seg n 1
    let rem := (r.tgt * 2 ^ 18 - r.pos).natAbs
    let sgn (z : Nat) : Int := if neg then -(z : Int) else z
    if s.pfMode n = 0 && rem < v1 then (s.profOut n (sgn rem) 0).moveArrived n
    else s.profOut n (sgn v1) (spd40 v1)

/-- r ≤ D(s) + s, compared exactly on the scale 2^-1200: the distance left is within the stopping distance (R271). -/
def withinStop (D : Nat) (rem : Int) (v : Nat) : Bool :=
  let (dz, de) := (f64.exactN D).getD (0, 0)
  decide (rem * 2 ^ 1182 ≤ dz * 2 ^ (de + 1200).toNat + (v : Int) * 2 ^ 1160)

/-- One tick in state MOVE (R270). -/
def State.moveTick (s : State) (n : Nat) : State :=
  let r := s.prof n
  let mode := s.pfMode n
  if r.start then
    if r.stop || r.haltq then ((s.setProf n { r with start := false }).stopDone n).setPf n pfSTILL else s.startTick n
  else if mode = 2 && !r.stop && !r.haltq then s.iarTick n
  else
    let rt := s.rates n
    let vstop := spd40 (s.get (F.PROF_VSTOP_V n))
    let vbrk := spd40 (s.get (F.PROF_VBRK_V n))
    let vmax := spd40 (s.get (F.PROF_VMAX_V n))
    let vtgt := (s.rd (R.PROF_VTGT n)).toInt
    let sgn (z : Nat) : Int := if r.neg then -(z : Int) else z
    -- remaining distance in 2^-18 counts
    let rem : Int := if r.neg then r.pos - r.tgt * 2 ^ 18 else r.tgt * 2 ^ 18 - r.pos
    let appr := s.bit (F.PROF_PSTAT_APPR n)
    let ovs0 := s.bit (F.PROF_PSTAT_OVS n)
    let isOver := mode = 0 && !ovs0 && appr &&
      decide ((rt.dabs : Int) * rem * 2 ^ 23 < (r.s : Int) * r.s - (vstop : Int) * vstop)
    let s := if isOver then
        (((s.putB (F.PROF_PSTAT_OVS n) true).incSat (F.PROF_OVSCNT_COUNT n)).raise (F.PROF_EVT_OVERSHOOT n)).fault 0x0603 n
      else s
    let ovs := ovs0 || isOver
    let down := r.stop || r.haltq || ovs || (mode = 0 && rem ≤ 0) || (mode = 1 && (vtgt = 0 || decide (vtgt < 0) != r.neg))
    let bandD := if r.s > vbrk then rt.d2 else rt.d1
    let segD := if r.s > vbrk then 5 else 6
    let regen := s.pfCrash n && s.regenLimit n
    if down then
      let dq := if regen then 0 else if r.haltq || ovs then rt.dabs else bandD
      let s1 := r.s - dq
      if s1 ≤ vstop then ((s.seg n segD).profOut n (sgn (incOf vstop)) 0).moveStopped n
      else (s.seg n segD).profOut n (sgn (incOf s1)) s1
    else
      let D := stopDist r.s vbrk vstop rt.d2 rt.d1
      let near := mode = 0 && withinStop D rem r.s
      if mode = 0 && (appr || near) then
        let s := s.putB (F.PROF_PSTAT_APPR n) true
        let ratio := (f64.divN D (f64.ofInt rem (-18)).1).1
        let one := (f64.ofInt 1 0).1
        let k := if f64.ltN one ratio then ratio else one
        let scaled := match f64.toIntN (f64.mulN (f64.ofInt bandD (-40)).1 k).1 40 with
          | some (z, _) => z.toNat
          | none => rt.dabs
        let dq := if regen then 0 else min rt.dabs scaled
        let s1 := max (r.s - dq) vstop
        let s := s.seg n (if s1 = vstop then 7 else segD)
        if rem * 2 ^ 22 ≤ (s1 : Int) then (s.profOut n (sgn rem.toNat) 0).moveArrived n
        else s.profOut n (sgn (incOf s1)) s1
      else
        let want := if mode = 0 then vmax else min (spd40 vtgt.natAbs) vmax
        let bandA := if r.s < vbrk then rt.a1 else rt.a2
        let s1 := if r.s < want then min (r.s + bandA) want
          else if r.s > want then max (r.s - (if regen then 0 else bandD)) want else r.s
        let s := s.seg n (if r.s < want then (if r.s < vbrk then 2 else 3) else if r.s > want then segD else 4)
        s.profOut n (sgn (incOf s1)) s1

/-! ### Counts moved with the guard in RENDER (R280, R282) -/
/-- What the crew moves by in this tick, in 2^-18 counts. -/
def State.movedBy (s : State) (n : Nat) (angInc : Int) : Int :=
  if s.bit (F.PROF_CFG_UNIT n) then ((s.pos (s.get (F.PROF_CFG_PORT n))).cnt - (s.prof n).portCnt) * 2 ^ 18 else angInc

def State.addPayout (s : State) (n : Nat) (d : Int) : State :=
  let p := (s.prof n).payout + d
  (s.setProf n { s.prof n with payout := p }).wr (R.PROF_PAYOUT n)
    (BitVec.ofInt 32 (clampInt (-(2 ^ 31)) (2 ^ 31 - 1) (p / 2 ^ 18)))

/-- One tick of FOLLOW (R282). -/
def State.followTick (s : State) (n : Nat) (angInc : Int) : State :=
  let d := s.movedBy n angInc
  let s := s.addPayout n d
  let r := s.prof n
  let p := if s.bit (F.PROF_CFG_UNIT n) then (s.pos (s.get (F.PROF_CFG_PORT n))).cnt * 2 ^ 18 else posWrap (r.pos + d)
  let s := s.setProf n { r with pos := p, v := d, meas := d, s := spd40 d.natAbs, neg := d < 0 }
  let s := s.wr (R.PROF_VEL n) (BitVec.ofInt 32 d)
  let s := s.putB (F.PROF_PSTAT_DIR n) (d < 0)
  if d = 0 then s.setProf n { s.prof n with t0 := if r.s = 0 then r.t0 else s.now }
  else s.putB (F.PROF_PSTAT_LASTDIR n) (d < 0)


/-- One tick of a standing unit: a request starts it (R280). -/
def State.standTick (s : State) (n : Nat) : State :=
  let st := s.pf n
  let r := s.prof n
  let s := if r.stop || r.haltq then s.stopDone n else s
  let s := s.setProf n { s.prof n with v := 0 }
  let s := s.wr (R.PROF_VEL n) 0
  match s.motionReq n with
  | none =>
    let s := s.setProf n { s.prof n with reqWait := false }
    if st = pfDWELL then s.setPf n pfSTILL else s
  | some d =>
    if st = pfSTILL || st = pfREDUCED then
      let s := if st = pfREDUCED then s.setHoldk n fone else s
      if s.dwellOwed n d then s.setPf n pfDWELL else (s.setPf n pfMOVE).startTick n
    else if st = pfDWELL then
      if d = s.bit (F.PROF_PSTAT_LASTDIR n) then (s.setPf n pfMOVE).startTick n else s
    else if st = pfBSET then (if r.setFail then (s.setBrake n false).setPf n pfBOPEN else s)
    else if (st = pfTREL && !(s.prof n).reqWait) || st = pfBRAKED then (s.setHoldk n fone).setPf n pfBOPEN
    else s

/-- The torque ramp of TREL: HOLDK falls linearly over TREL × 2 ms, one step per tick (R280). -/
def State.rampTick (s : State) (n : Nat) : State :=
  let steps := s.get (F.PROF_BRKT_TREL n) * 12500
  let r := s.prof n
  let k := min steps (r.ramp + 1)
  let s := s.setProf n { r with ramp := k }
  s.setHoldk n (if steps = 0 then 0 else (fdiv (fOfInt ((steps - k : Nat) : Int)) (fOfInt steps)).1)

/-- The first tick after a write of MODE 2 is the first period boundary: S_prev and S_new are p (R284). -/
def State.iarStart (s : State) (n : Nat) : State :=
  let r := s.prof n
  if s.pfMode n = 2 && r.perStart.isNone then s.setProf n { r with perStart := some s.tb, sPrev := r.pos, sNew := r.pos } else s

/-- PROFILE_STEP: one tick of the unit (R270 to R286). `angInc` is the angle stream's increment where CREW.ASRC is not 0. -/
def State.profTick (s : State) (n : Nat) (angInc : Int) : State :=
  let s := (s.iarStart n).crashCheck n
  let s := s.noticeTick n
  let st := s.pf n
  let s :=
    if st = pfOFF then s
    else if st = pfFROZEN then
      let r := s.prof n
      s.setProf n { r with pos := posWrap (r.pos + r.v) }
    else if st = pfMOVE then s.moveTick n
    else if st = pfFOLLOW then s.followTick n angInc
    else
      let s := if s.guardSt n = gRENDER && (st = pfBSET || st = pfTREL || st = pfBRAKED)
        then s.addPayout n (s.movedBy n angInc) else s
      let s := s.standTick n
      if s.pf n = pfTREL then s.rampTick n else s
  s.setProf n { s.prof n with portCnt := (s.pos (s.get (F.PROF_CFG_PORT n))).cnt }

/-! ### Standstill and brake (R278 to R280) -/
/-- The dwell is over: the move that is requested starts, else the unit stands (R272). -/
def State.dwellOver (s : State) (n : Nat) : State :=
  match s.motionReq n with
  | some _ => (s.setProf n { s.prof n with start := true }).setPf n pfMOVE
  | none => s.setPf n pfSTILL

/-- DWELL_END (R272). -/
def execDwellEnd (n : CrewNo) (s : State) : Out :=
  if s.pf n = pfDWELL then .next ((s.until ((s.prof n).t0 + s.dwellMs n * msCounts)).dwellOver n) else .next s

/-- The standstill policy acts: none, current reduction or the setting of the brake (R278). -/
def State.standPolicy (s : State) (n : Nat) : State :=
  match s.get (F.PROF_STILL_POLICY n) with
  | 1 => (s.setHoldk n (fOfDyadic (s.get (F.PROF_STILL_HOLDF n)) (-12))).setPf n pfREDUCED
  | 2 =>
    let s := (s.setBrake n true).raise (F.PROF_EVT_BRKSET n)
    (s.setProf n { s.prof n with setFail := false }).setPf n pfBSET
  | _ => s

/-- STANDSTILL_DELAY_END (R278). -/
def execStandstillDelayEnd (n : CrewNo) (s : State) : Out :=
  if s.pf n = pfSTILL then .next ((s.until ((s.prof n).since + s.get (F.PROF_STILL_STDLY n) * msCounts)).standPolicy n)
  else .next s

/-- The feedback pin shows the brake set, with FBEN = 1. -/
def State.fbSet (s : State) (n : Nat) : Bool := s.bit (F.PROF_PSTAT_BRKFB n)

/-- The torque ramp starts; a request that stands already waits until BRAKED (R280). -/
def State.startRamp (s : State) (n : Nat) : State :=
  (s.setProf n { s.prof n with ramp := 0, reqWait := (s.motionReq n).isSome }).setPf n pfTREL

/-- The brake is open: the move, or the dwell it owes (R280). -/
def State.brakeOpen (s : State) (n : Nat) : State := (s.raise (F.PROF_EVT_BRKREL n)).profGo n

/-- BRAKE_TSET_END (R280). -/
def execBrakeTsetEnd (n : CrewNo) (s : State) : Out :=
  if s.pf n = pfBSET && !(s.prof n).setFail then
    let s := s.until ((s.prof n).since + s.get (F.PROF_BRKT_TSET n) * 2 * msCounts)
    if !s.bit (F.PROF_BRK_FBEN n) || s.fbSet n then .next (s.startRamp n)
    else
      let s := (s.raise (F.PROF_EVT_BRKFAIL n)).fault 0x0604 n
      .next (s.setProf n { s.prof n with setFail := true })
  else .next s

/-- BRAKE_TPRE_END (R280): the release waits while the guard is in RENDER. -/
def execBrakeTpreEnd (n : CrewNo) (s : State) : Out :=
  if s.pf n = pfBOPEN && s.bit (F.PROF_PSTAT_BRKOUT n) && s.guardSt n ≠ gRENDER then
    let s := s.until ((s.prof n).since + s.get (F.PROF_BRKT_TPRE n) * 2 * msCounts)
    .next ((s.setBrake n false).setProf n { s.prof n with since := s.now })
  else .next s

/-- BRAKE_TOPEN_END (R280). -/
def execBrakeTopenEnd (n : CrewNo) (s : State) : Out :=
  if s.pf n = pfBOPEN && !s.bit (F.PROF_PSTAT_BRKOUT n) then
    let s := s.until ((s.prof n).since + s.get (F.PROF_BRKT_TOPEN n) * 2 * msCounts)
    if !s.bit (F.PROF_BRK_FBEN n) || !s.fbSet n then .next (s.brakeOpen n)
    else
      let s := (s.raise (F.PROF_EVT_BRKFAIL n)).fault 0x0605 n
      let s := (s.setBrake n true).profNoGoal n
      .next (s.startRamp n)
  else .next s

/-- BRAKE_FEEDBACK (R279, R280): the level of pin GPIO[FBIDX]. -/
def execBrakeFeedback (n : CrewNo) (level : Bool) (s : State) : Out :=
  if !s.bit (F.PROF_BRK_FBEN n) then .next s
  else
    let s := s.setBitAt F.GPIO_IN_IN (s.get (F.PROF_BRK_FBIDX n)) level
    let set := level == s.bit (F.PROF_BRK_FBPOL n)
    let s := s.putB (F.PROF_PSTAT_BRKFB n) set
    if s.pf n = pfBSET && set then .next (s.startRamp n)
    else if s.pf n = pfBOPEN && !set && !s.bit (F.PROF_PSTAT_BRKOUT n) then .next (s.brakeOpen n)
    else .next s

/-- TREL_RAMP_END (R280): HOLDK has reached 0.0. -/
def execTrelRampEnd (n : CrewNo) (s : State) : Out :=
  if s.pf n = pfTREL && s.rd (R.PROF_HOLDK n) == 0 then
    let s := (s.setHoldk n 0).setPf n pfBRAKED
    if s.bit (F.PROF_BRK_OFFSTOP n) then .next (s.crewStop n) else .next s
  else .next s

/-! ### Goals (R274, R277) -/
/-- A write that a crash stop ignores (R283). -/
def State.crashIgn (s : State) (n : Nat) (f : State → State) : State :=
  if s.pfCrash n then s.raise (F.PROF_EVT_CRIGN n) else f s

/-- A new goal has been written: one written with or after a stop is kept for its end (R274). -/
def State.goalWritten (s : State) (n : Nat) : State :=
  let r := s.prof n
  s.setProf n { r with goalTick := some (s.tb / 128), keep := r.keep || r.stop || r.haltq }

/-- PROF_TGT_H_WRITE (R274): TGT_L and TGT_H commit together. -/
def State.profTgtH (s : State) (n : Nat) (v : Word) : State :=
  s.crashIgn n (fun s =>
    let s := s.wr (R.PROF_TGT_H n) v
    let t := sextNat 64 ((s.rd (R.PROF_TGT_L n)).toNat + v.toNat * 2 ^ 32)
    ((s.setProf n { s.prof n with tgt := t }).putB (F.PROF_PSTAT_APPR n) false).goalWritten n)
def execProfTgtHWrite (n : CrewNo) (v : Word) (s : State) : Out := s.onRegW (R.PROF_TGT_H n) v fun v s =>
  .next (s.profTgtH n v)

/-- PROF_VTGT_WRITE (R274). -/
def State.profVtgt (s : State) (n : Nat) (v : Word) : State :=
  s.crashIgn n (fun s => (s.wr (R.PROF_VTGT n) v).goalWritten n)
def execProfVtgtWrite (n : CrewNo) (v : Word) (s : State) : Out := s.onRegW (R.PROF_VTGT n) v fun v s =>
  .next (s.profVtgt n v)

/-- PROF_MODE_WRITE (R274, R284): MODE 2 starts with S_prev and S_new at p; 3 has no effect (R294). -/
def State.profModeWr (s : State) (n m : Nat) : State :=
  s.crashIgn n (fun s => if m = 3 then s else
    let s := s.put (F.PROF_CTL_MODE n) m
    let r := s.prof n
    let s := if m = 2 then
        s.setProf n { r with sPrev := r.pos, sNew := r.pos, perStart := none, setp := none, misses := 0, lag := false, hold := none }
      else s
    s.goalWritten n)
def execProfModeWrite (n : CrewNo) (m : BitVec 2) (s : State) : Out := s.onReg (R.PROF_CTL n) fun s =>
  .next (s.profModeWr n m.toNat)

/-- A stop is commanded; a goal written since the last tick is kept (R274). In MODE 2 the reference freezes at p (R277). -/
def State.profHalt (s : State) (n : Nat) (quick : Bool) : State :=
  s.crashIgn n (fun s =>
    let r := s.prof n
    (s.setProf n { r with keep := r.keep || r.goalTick == some (s.tb / 128)
                          stop := r.stop || !quick, haltq := r.haltq || quick }).freezeRef n)
/-- PROF_STOP (R277). -/
def execProfStop (n : CrewNo) (s : State) : Out := s.onReg (R.PROF_CTL n) fun s =>
  .next (s.profHalt n false)
/-- PROF_HALTQ (R277). -/
def execProfHaltq (n : CrewNo) (s : State) : Out := s.onReg (R.PROF_CTL n) fun s =>
  .next (s.profHalt n true)

/-! ### Parameters (R269, R286) -/
/-- The conditions of R269. -/
def State.profParamsOk (s : State) (n : Nat) : Bool :=
  let vs := s.get (F.PROF_VSTART_V n)
  let vb := s.get (F.PROF_VBRK_V n)
  let vm := s.get (F.PROF_VMAX_V n)
  let d1 := s.get (F.PROF_D1_A n)
  let d2 := s.get (F.PROF_D2_A n)
  vs ≤ vb && vb ≤ vm && s.get (F.PROF_VSTOP_V n) ≤ vb && 1 ≤ vm && s.get (F.PROF_A1_A n) != 0 && s.get (F.PROF_A2_A n) != 0 &&
    d2 != 0 && d1 != 0 && max d1 d2 ≤ s.get (F.PROF_DABS_A n) && s.get (F.PROF_DWELL_MS n) ≤ 10000 &&
    (s.bit (F.PROF_CFG_UNIT n) || vm ≤ 1374389)

/-- PROF_PARAM_WRITE (R269): registers VSTART to DWELL in their order, `i` from 0. -/
def State.profParam (s : State) (n i : Nat) (v : Word) : State :=
  let a := R.PROF_VSTART n + 4 * i
  let v := if i < 4 then v &&& 0x7FFFFFFF#32 else if i = 9 then v &&& 0x3FFF#32 else v
  let t := s.wr a v
  if t.profParamsOk n then t else s.fault 0x0602 n
def execProfParamWrite (n : CrewNo) (i : Fin 10) (v : Word) (s : State) : Out :=
  s.onRegW (R.PROF_VSTART n + 4 * i.val) v fun v s =>
  .next (s.profParam n i v)

/-- IAR_PER_WRITE (R286). -/
def State.iarPer (s : State) (n v : Nat) : State :=
  if 50 ≤ v && v ≤ 1000 then s.put (F.PROF_IAR_PER_US n) v else s.fault 0x0607 n
def execIarPerWrite (n : CrewNo) (us : BitVec 10) (s : State) : Out := s.onReg (R.PROF_IAR_PER n) fun s =>
  .next (s.iarPer n us.toNat)

/-- SETP_H_WRITE (R284): SETP_L and SETP_H commit; the latest of a period counts. -/
def State.setpH (s : State) (n : Nat) (v : Word) : State :=
  let s := s.wr (R.PROF_SETP_H n) v
  let z := sextNat 64 ((s.rd (R.PROF_SETP_L n)).toNat + v.toNat * 2 ^ 32)
  s.setProf n { s.prof n with setp := some z }
def execSetpHWrite (n : CrewNo) (v : Word) (s : State) : Out := s.onRegW (R.PROF_SETP_H n) v fun v s =>
  .next (s.setpH n v)

/-- IARUM_PERIOD_BOUNDARY (R284 to R286). -/
def execIarumPeriodBoundary (n : CrewNo) (s : State) : Out :=
  match (s.prof n).perStart with
  | none => .next s
  | some t0 =>
    if s.pfMode n ≠ 2 then .next s
    else
      let s := s.advanceTb (t0 + s.get (F.PROF_IAR_PER_US n) * 800)
      let r := s.prof n
      -- clamping in the period that ends
      let s := if r.lag then
          let s := if s.bit (F.PROF_PSTAT_IARLAG n) then s else s.fault 0x0608 n
          ((s.incSat (F.PROF_IARLAGCNT_COUNT n)).raise (F.PROF_EVT_IARLAG n)).putB (F.PROF_PSTAT_IARLAG n) true
        else s.putB (F.PROF_PSTAT_IARLAG n) false
      let r := { r with lag := false, perStart := some s.tb }
      match r.setp with
      | some z =>
        .next (s.setProf n { r with sPrev := r.hold.getD r.sNew, sNew := z * 2 ^ 18, setp := none, misses := 0, hold := none })
      | none =>
        if r.misses = 0 then
          let s := s.setProf n { r with sPrev := r.sNew, sNew := r.sNew + (r.sNew - r.sPrev), misses := 1 }
          .next ((s.incSat (F.PROF_IARMISSCNT_COUNT n)).raise (F.PROF_EVT_IARMISS n))
        else if r.misses = 1 then
          .next ((s.setProf n { r with hold := some (r.hold.getD r.sNew), misses := 2 }).fault 0x0606 n)
        else .next (s.setProf n r)

/-- A read of POS_L latches POS_H and POS_F (R294). -/
def State.readProfPos (s : State) (n : Nat) : Word × State :=
  let p := (s.prof n).pos
  let s := s.wr (R.PROF_POS_F n) (BitVec.ofInt 32 (p % 2 ^ 18))
  s.readLatch (p / 2 ^ 18) (R.PROF_POS_H n)
/-- PROF_POS_L_READ (R294). -/
def execProfPosLRead (n : CrewNo) (s : State) : Out := s.onRegRead (R.PROF_POS_L n) fun s =>
  let (w, s) := s.readProfPos n
  .next { s with rdata := w }

end Sys2Proof.Machine
end

