-- ==== Sys2Proof/Machine/Catch.lean ====
section
/-! DEFINITION. Machine/Catch.lean: the catch, the TAS tick and the STO lines of the crews (R53, R62 to R64, R76, R138,
R142, R145 to R149, R158, R176, R178, R245, R307). -/
namespace Sys2Proof.Machine

/-! ### The ledger (R63, R64) -/
/-- LEDGER_ENTRY_COMPLETE: the entry of the latest catch. A command that waits for its tick is applied at the next one. A delay
beyond 24 bits wraps in its field (DESIGN CHOICE, assumption log 75). -/
def State.ledgerComplete (s : State) (n : Nat) : State :=
  let c := s.crew n
  if !c.ldgOpen then s
  else
    let seq := (s.rd (R.CREW_CSEQ n)).toNat
    let i := seq % 64
    let wr := c.ldgWr.getD 0
    let ap := match c.ldgWr with
      | none => 0
      | some w => c.ldgAp.getD ((c.ldgT + w + 127) / 128 * 128 - c.ldgT)
    let s := s.wr (R.CREW_LDG_T n i) (BitVec.ofNat 32 c.ldgT)
    let s := s.wr (R.CREW_LDG_W n i) (BitVec.ofNat 32 (2 ^ 31 + c.ldgWr.isNone.toNat * 2 ^ 30 + c.ldgMulti.toNat * 2 ^ 29 +
      c.ldgTake.toNat * 2 ^ 28 + wr % 2 ^ 24))
    let s := s.wr (R.CREW_LDG_A n i) (BitVec.ofNat 32 (seq % 256 * 2 ^ 24 + ap % 2 ^ 24))
    s.put (F.CREW_LDG_HEAD_IDX n) i

/-- VALID, NOWRITE and AP_DLY of the newest complete entry, which the next catch task reads as PREVAP (R65, R90). -/
def State.prevAp (s : State) (n : Nat) : Nat :=
  let i := s.get (F.CREW_LDG_HEAD_IDX n)
  bitsOf (s.rd (R.CREW_LDG_W n i)).toNat 31 30 * 2 ^ 30 + s.get (F.CREW_LDG_A_AP_DLY n i)

/-- A new entry is opened (R62). -/
def State.ledgerOpen (s : State) (n seq : Nat) (take : Bool) : State :=
  let s := s.wr (R.CREW_CSEQ n) (BitVec.ofNat 32 seq)
  let i := seq % 64
  let s := s.wr (R.CREW_LDG_T n i) (BitVec.ofNat 32 s.tb)
  let s := s.wr (R.CREW_LDG_W n i) 0
  s.setCrew n { s.crew n with ldgOpen := true, ldgT := s.tb, ldgWr := none, ldgAp := none, ldgMulti := false, ldgTake := take
                              firstCatch := false }

/-! ### The catch -/
/-- First load point of set 0 after the carrier point of the catch, for UPD 0 and 1 (R254). CDLY is below H (R146), so it is
the set's next point, or the valley after it. -/
def State.catchLoad (s : State) (n : Nat) : Option Nat :=
  let c := s.car n 0
  match s.get (F.CREW_CFG_UPD n) with
  | 0 => some (if s.rising n 0 then c.next + (c.per - c.len) else c.next)
  | 1 => some c.next
  | _ => none

/-- The sets whose modulation begins when the crew enters RUN: set 0 and every set that has had a load point at or after set
0's carrier point (R158). -/
def State.runFirst (s : State) (n : Nat) : List Nat :=
  (List.range (s.crewM n)).filter (fun j => s.setActive n j && (j == 0 || (match (s.car n j).loadAt with
    | some t => decide ((s.crew n).tc ≤ t)
    | none => false)))

/-- The crew enters RUN (R138, R158). -/
def State.enterRun (s : State) (n : Nat) : State :=
  let s := s.setCrewState n cRUN
  let s := profCrewState n s
  if s.carrierCrew n then
    loopL (s.runFirst n) (fun j s =>
      (s.setCrew n { s.crew n with runSets := natBit (s.crew n).runSets j true }).levelNow n j) s
  else
    let s := s.setCrew n { s.crew n with runSets := 1 }
    let s := (s.chopLatch n false).chopLatch n true
    if s.chopCrew n then
      let s := s.chopBegin n false
      if s.crewKind n = 4 then s.chopBegin n true else s
    else s

/-- The lost leader's successor takes over (R178). -/
def State.takeLead (s : State) (n : Nat) : State :=
  if (s.crew n).leadPend && s.crewState n = cRUN then
    let s := loopL (s.tandemCrews n) (fun m s => s.putB (F.CREW_STAT_LEAD m) false) s
    let s := (s.putB (F.CREW_STAT_LEAD n) true).raise (F.CREW_EVT_LEADCHG n)
    s.setCrew n { s.crew n with leadPend := false }
  else s

/-- TANDEM_INPUT (R176); while a successor waits for its catch, every TQIN holds (R178). -/
def State.tandemInputs (s : State) (n : Nat) : State :=
  if s.bit (F.CREW_TANDEM_EN n) && s.bit (F.CREW_STAT_LEAD n) && (s.tandemCrews n).all (fun m => !(s.crew m).leadPend) then
    let sp (m : Nat) : Word := fOfInt (s.crew m).inc
    loopL ((s.tandemCrews n).filter (fun m => m != n)) (fun m s =>
      let a := (fmul (s.rd (R.CREW_TRATIO m)) (s.rd (R.CREW_TQREF n))).1
      let b := (fmul (s.rd (R.CREW_TDROOP m)) (fsub (sp m) (sp n)).1).1
      s.wr (R.CREW_TQIN m) (fsub a b).1) s
  else s

/-- The catch reaches its task (R53, R62, R76). -/
def State.wakeCatch (s : State) (n seq prev : Nat) : State :=
  match s.catchTask n with
  | none => s
  | some key =>
    let c := s.crew n
    if c.takeover && !c.resume then s
    else
      let s := if c.takeover then profResume n (s.setCrew n { c with takeover := false, resume := false })
        else s.setCrew n { c with resume := false }
      let t := s.task key
      let runs := match s.execPair (key / 16) with
        | some p => s.pairRuns p
        | none => false
      if t.st = .disabled || !runs then s
      else if t.st = .waiting then
        s.setTask key ({ t with
          catchT := BitVec.ofNat 32 s.tb, catchSeq := BitVec.ofNat 32 seq, prevAp := BitVec.ofNat 32 prev }).wake
      else if t.initial then s
      else (s.setTask key { t with unclean := true }).fault 0x0210 n

/-- The catch of the latest kept carrier point of set 0 is still to come (R145): its instant. -/
def State.catchAt (s : State) (n : Nat) : Option Nat := if s.crewState n = cUNUSED then none else (s.crew n).catchDue

/-- A catch of crew n falls within the next `k` counts: the one due, or that of set 0's next carrier point (R145). -/
def State.catchWithin (s : State) (n k : Nat) : Bool :=
  let c := s.crew n
  let sel := s.get (F.CREW_CFG_CATCH n)
  let peak := c.upSets.testBit 0
  s.crewState n != cUNUSED &&
    ((match c.catchDue with
      | some t => decide (t ≤ s.tb + k)
      | none => false) ||
    (s.carrierCrew n && c.catchN == 0 && (sel == 2 || sel == peak.toNat) &&
      decide ((s.car n 0).next + s.get (F.CREW_CDLY_DLY n) ≤ s.tb + k)))

/-- The sequence of crew n's next catch (R62): 0 for the first. -/
def State.catchSeqNext (s : State) (n : Nat) : Nat :=
  if (s.crew n).firstCatch then 0 else ((s.rd (R.CREW_CSEQ n)).toNat + 1) % 2 ^ 32

/-- What catch `seq` of crew n does before its task wakes (R145, R245): the ledger record of the one before is completed by its
caller; a new one opens, the measurements are latched in the four steps of R245, and an ARMED crew whose precharge is over
enters RUN. -/
def State.catchLatch (s : State) (n seq : Nat) : State :=
  let s := s.ledgerOpen n seq ((s.crew n).takeover && !(s.crew n).resume)
  let s := s.setCrew n { s.crew n with load := s.catchLoad n }
  let ts := s.rd (R.SINC_CREW_TS n)
  let s := (s.catchMeasure n seq).catchMeter n ts
  let s := (s.auxCatch n).catchSwaps n
  let s := (s.takeLead n).tandemInputs n
  let s := s.catchLimits n
  if s.crewState n = cARMED && (s.crew n).startAt + min 1000 (s.get (F.CREW_PRECH_US n)) * 800 ≤ s.now then s.enterRun n else s

/-- A catch of crew n at this instant (R62, R145, R245). -/
def State.catchRun (s : State) (n : Nat) : State :=
  let s := s.setCrew n { s.crew n with catchDue := none }
  let seq := s.catchSeqNext n
  let s := s.ledgerComplete n
  (s.catchLatch n seq).wakeCatch n seq (s.prevAp n)

/-- CATCH (R62, R145). -/
def execCatch (n : CrewNo) (s : State) : Out :=
  match s.catchAt n with
  | none => .next s
  | some t => .next ((s.advanceTb t).catchRun n)

/-! ### The TAS tick -/
/-- The angle increment of a crew whose ASRC is 1 or 2, and of one in takeover or FOLLOW: the latest one (R75, R149). -/
def State.angInc (s : State) (n : Nat) : Int :=
  if (s.crew n).takeover then (s.crew n).inc
  else match s.get (F.CREW_ASRC_SRC n) with
    | 1 => clampInc (s.rd (R.CREW_SPD n)).toInt
    | 2 => 0
    | _ => (s.crew n).inc

/-- A tick's part for an UNUSED crew: its angle stream stands, but ANGSET and phase commands are taken (R139, R149). -/
def State.idleTick (s : State) (n : Nat) : State :=
  let s := if (s.crew n).angSet.isSome then s.angleTick n 0 else s
  s.applyCmds n

/-- One crew's part of a tick: loss of its port, profile, angle, commands, edges, guard. -/
def State.crewTick (s : State) (n : Nat) : State :=
  let s := s.posLossTick n
  let a := s.angInc n
  let s := s.profTick n a
  let inc := if (s.crew n).takeover || s.get (F.CREW_ASRC_SRC n) ≠ 0 || s.pf n = pfFOLLOW then a else clampInc (s.prof n).v
  let s := s.angleTick n inc
  let s := s.applyCmds n
  let s := s.crewTickEdges n
  let s := s.immediateTick n
  s.guardTick n

/-- TAS_TICK (R148): the next timebase count whose bits [6:0] are 0. -/
def execTasTick (s : State) : Out :=
  if !s.bit F.MOD_STAT_ON then .next s
  else
    let t := max ((s.lastTick / 128 + 1) * 128) ((s.tb + 127) / 128 * 128)
    let s := s.advanceTb t
    let s := { s with lastTick := t }
    let s := loopN 32 (fun n s => if s.crewState n = cUNUSED then s.idleTick n else s.crewTick n) s
    .next (loopN 64 (fun x s => s.legTick x) s)

/-! ### STO lines (R138, R307) -/
/-- Sets that are active again, with MACT, DRATE, trims and EVT.SETJOIN (R170, R561). -/
def State.returnSets (s : State) (n : Nat) : State :=
  loopN (s.crewM n) (fun j s => if s.setActive n j || !s.setEligible n j then s else s.setJoin n j)
    (s.setCrew n { s.crew n with rejoin := [] })

/-- The crew goes from FSTOP or SAFE to IDLE: AMP_ACT := 0.0 and its eligible sets return (R138, R170). -/
def State.crewToIdle (s : State) (n : Nat) : State :=
  ((s.wr (R.CREW_AMP_ACT n) 0).returnSets n).setCrewState n cIDLE


/-- The group's line as its crews take it. -/
def State.crewSto (s : State) (n : Nat) (sto : Bool) : State :=
  if sto then s.crewSafe n
  else if s.crewState n = cSAFE then
    if s.bit (F.CREW_STAT_FLT n) then s.setCrewState n cFSTOP else s.crewToIdle n
  else s

/-- STO_LINE_CHANGE (R307, R138). -/
def execStoLineChange (g : Oct) (s : State) : Out :=
  let s := loopL ((List.range 32).filter (fun n => s.crewGroup n == some g.val)) (fun n s => s.crewSto n (s.groupSto g)) s
  .next (loopN 16 (fun k s => s.stoTrack k) s)

end Sys2Proof.Machine
end

