-- ==== Sys2Proof/Machine/Domains.lean ====
section
/-! DEFINITION. Machine/Domains.lean: power domains and power states, and what a demand and the fall to Listen do to crews,
ports and engines (R19, R45, R138, R457, R458). -/
namespace Sys2Proof.Machine

/-! ### Domains and power states -/
/-- AON.PWRSTAT.STATE codes. -/
abbrev pwBOOT : Nat := 0
abbrev pwLISTEN : Nat := 1
abbrev pwREADY : Nat := 2
abbrev pwRUN : Nat := 3
abbrev pwRESTENTRY : Nat := 4

def State.pw (s : State) : Nat := s.get F.AON_PWRSTAT_STATE
def State.setPw (s : State) (st : Nat) : State := s.put F.AON_PWRSTAT_STATE st

/-- AON.PWRSTAT.DOM, SE.PAIR_STAT and MOD.STAT.ON show the domains that are on. -/
def State.showDomains (s : State) : State :=
  ((s.put F.AON_PWRSTAT_DOM (s.domOn % 2 ^ 14)).putB F.MOD_STAT_ON (s.domOn.testBit 8)).showPairs

/-- Domain d comes on. -/
def State.domainUp (s : State) (d : Nat) : State :=
  { s with domOn := natBit s.domOn d true, domRet := natBit s.domRet d false }

/-- Domain d goes off, or is retained. -/
def State.domainDown (s : State) (d : Nat) (ret : Bool) : State :=
  { s with domOn := natBit s.domOn d false, domRet := natBit s.domRet d ret }

/-- A domain that has gone off, not retained, has lost its registers and what stands beside them: they come back at their reset
values (R11). -/
def State.domainLost (s : State) (d : Nat) : State :=
  let s := { s with regs := s.regs.filter (fun e => winDomain (winOf e.1) != [d]) }
  if d = 8 then { s with crews := [], legs := [], links := [], sincs := [], profs := [] }
  else s

/-- An engine domain that goes off in Listen has lost its memories; its enabled tasks restart when it comes on (R45). -/
def State.engineLost (s : State) (d : Nat) : State :=
  loopL ((List.range 9).filter (fun p => pairDomain p == d)) (fun p s =>
    let r := s.pair p
    let s := s.setPair p { r with imem := [], dmem := [], ce := [], ue := [], queue := [], reloading := false }
    if s.pairSt p == pACTIVE || s.pairSt p == pHOST then
      loopL (homeTasks (s.homeOf p)) (fun k s =>
        let t := s.task k
        if t.st = .disabled then s else s.setTask k { t with st := .waiting, pend := false, lost := true, ctx := {} }) s
    else s) s

/-- The device takes the Listen states of its domains: PD8 retained, each engine domain as AON.PWRCTL.LRET sets (R19, R458). -/
def State.listenDomains (s : State) : State :=
  let s := s.domainDown 8 true
  let s := loopN 3 (fun i s =>
    if s.bitAt F.AON_PWRCTL_LRET i then s.domainDown (9 + i) true else (s.domainDown (9 + i) false).engineLost (9 + i)) s
  s.showDomains

/-- Every crew goes to UNUSED, keeping STAT.FLT and FCAUSE (R138, R458). -/
def State.crewsUnused (s : State) : State :=
  loopN 32 (fun n s =>
    if s.crewState n = cUNUSED then s
    else
      let s := (s.crewOff n).setCrewState n cUNUSED
      profCrewState n (s.setCrew n { s.crew n with
        cars := [], runSets := 0, upSets := 0, stopSets := 0, dropSets := 0, catchDue := none, rejoin := [], seamCorr := 0
        fstopPend := false, lossPend := false })) s

/-- A crew leaves UNUSED (R138, R458): AMP_ACT := 0.0, its carriers start, its catch sequence restarts, its ledger is cleared; IDLE,
or FSTOP where STAT.FLT is 1. A group in STO takes it on to SAFE. -/
def State.crewAwake (s : State) (n : Nat) : State :=
  if s.crewKind n = 0 || s.crewState n ≠ cUNUSED then s
  else
    let cause := (s.crew n).wakeStop
    let s := s.wr (R.CREW_AMP_ACT n) 0
    let s := s.setCrew n { s.crew n with
      ldgOpen := false, ldgT := 0, ldgWr := none, ldgAp := none, ldgMulti := false, ldgTake := false
      firstCatch := true, caps := [], gen := (s.crew n).gen + 1, wakeStop := none, runSets := 0, upSets := 0, cars := []
      stopSets := 0, dropSets := 0, trimClear := 0, rejoin := [], load := none, catchDue := none, catchN := 0, seamCorr := 0 }
    let s := s.startCarriers n
    let s := loopN 64 (fun i s => ((s.wr (R.CREW_LDG_T n i) 0).wr (R.CREW_LDG_W n i) 0).wr (R.CREW_LDG_A n i) 0) s
    let s := s.wr (R.CREW_LDG_HEAD n) 0
    let s := s.setCrewState n (if s.bit (F.CREW_STAT_FLT n) then cFSTOP else cIDLE)
    let s := match cause with
      | some x => s.faultStop n x
      | none => s
    match s.crewGroup n with
    | some g => if s.groupSto g then s.crewSafe n else s
    | none => s

/-- PD8 and the engine domains come up for a demand: a port with EN = 1 starts training, a pair whose domain was off reloads
(R45, R218, R458). -/
def State.powerUp (s : State) : State :=
  let off := (List.range 3).filter (fun i => !s.domainOn (9 + i))
  let s := loopL [9, 10, 11, 8] (fun d s => s.domainUp d) s
  let s := loopL ((List.range 9).filter (fun p => off.contains (p / 3) && (s.pairSt p == pACTIVE || s.pairSt p == pHOST)))
    (fun p s => s.setPair p { s.pair p with reloading := true, failedAt := s.now }) s
  s.showDomains.servePend.trainPorts

/-- A demand (R457, R458): in Listen PD8 and the engine domains come up, and the order that made it is remembered; otherwise it
restarts the idle time. -/
def State.demand (s : State) (by_ : Option Nat) : State :=
  if s.pw = pwLISTEN && s.demandAt.isNone then { s with demandAt := some s.now, demandBy := by_ }.powerUp
  else { s with idleAt := s.now }

end Sys2Proof.Machine
end

