-- ==== Sys2Proof/Machine/FieldOps.lean ====
section
/-! DEFINITION. Machine/FieldOps.lean: the signal map and its subscriptions (R428 to R437), and the node registers. -/
namespace Sys2Proof.Machine

/-! ### Entries -/
/-- LTIME in ms modulo 65,536 (R431). -/
def State.stampNow (s : State) : Nat := (s.ltime.sec * 1000 + s.ltime.ns / 1000000) % 65536

/-- The status word with its STAMP (R429). -/
def SigEnt.status (e : SigEnt) : Nat :=
  e.q * 2 ^ 30 + e.wr.toNat * 2 ^ 29 + e.old.toNat * 2 ^ 28 + e.path.toNat * 2 ^ 27 + e.typ * 2 ^ 24 +
    e.chg % 256 * 2 ^ 16 + e.stamp % 65536

/-- AGE (R431). -/
def State.sigAge (s : State) (e : SigEnt) : Nat :=
  if e.old || e.q = 0 then 65535 else (s.stampNow + 65536 - e.stamp % 65536) % 65536

/-- The entry as SIGRD, ORD_READSIG and EVENT reports deliver it: value and status word with AGE. -/
def State.sigWords (s : State) (a : Nat) : Word × Word :=
  let e := s.sigAt a
  (e.v, BitVec.ofNat 32 ({ e with stamp := s.sigAge e }.status))

def State.sigBytes (s : State) (a : Nat) : List Byte :=
  let (v, w) := s.sigWords a
  leBytes 4 v.toNat ++ leBytes 4 w.toNat

/-- Cox address of an entry. -/
def sigCell (a : Nat) : Nat := 0x10C00000 + 8 * a

/-! ### Subscriptions (R437) -/
def State.subscribed (s : State) (a : Nat) : Bool :=
  s.subs.any (fun k => if k ≥ 2 ^ 31 then k / 256 % 4096 == a / 256 else k == a)

def State.subSend (s : State) (a : Nat) : State :=
  let s := { s with subT := mset (0, false) s.subT a (s.now + 1, false) }
  s.event 4 (leBytes 4 a ++ s.sigBytes a)

/-- End of the interval in which address `a` may not report again; 0 before its first report. -/
def State.subEnd (s : State) (a : Nat) : Nat :=
  let r := mget (0, false) s.subT a
  if r.1 = 0 then 0 else r.1 - 1 + s.get F.FIELD_SUBMIN_MS * msCounts

def State.subChange (s : State) (a : Nat) : State :=
  if !s.subscribed a then s
  else if s.now ≥ s.subEnd a then s.subSend a
  else { s with subT := mset (0, false) s.subT a ((mget (0, false) s.subT a).1, true) }

/-- A signal change: tasks and subscriptions hear of it (R436). -/
def State.sigChanged (s : State) (a : Nat) : State := (s.signalEvent a).subChange a

/-- SUBSCRIPTION_REPORT. -/
def execSubscriptionReport (a : BitVec 20) (s : State) : Out :=
  let r := mget (0, false) s.subT a.toNat
  if r.2 && s.subscribed a.toNat then .next ((s.until (s.subEnd a.toNat)).subSend a.toNat) else .next s

/-! ### Updates and writes -/
/-- An access to an entry: a single-bit error is corrected (R27); an entry with a double-bit error enters fault 0x0106 and is
rewritten with value 0 and Q BAD (R434). -/
def State.sigTouch (s : State) (a : Nat) : State :=
  let s := s.correctCe (sigCell a) 8
  if s.eccUe.contains (sigCell a) then
    let s := { s with eccUe := s.eccUe.filter (fun w => w != sigCell a) }
    let e := s.sigAt a
    let s := (s.fault 0x0106 1).setSig a { e with v := 0, q := 3, chg := if e.v = 0 then e.chg else (e.chg + 1) % 256 }
    s.sigChanged a
  else s

/-- An update from the entry's source (R431, R432). -/
def State.sigUpdate (s : State) (a : Nat) (v : Word) (q typ : Nat) (path : Bool) : State :=
  let s := s.sigTouch a
  let e := s.sigAt a
  let n := { e with v := v, q := q, typ := typ, path := path, old := false, stamp := s.stampNow
                    chg := if v = e.v then e.chg else (e.chg + 1) % 256 }
  let s := s.setSig a n
  if v ≠ e.v || q ≠ e.q then s.sigChanged a else s

/-- Port and address of a field pocket (R428). -/
def pocketPort (p : Nat) : Nat := p / 254
def pocketAddr (p : Nat) : Nat := p % 254 + 1
def nodeKey (j a : Nat) : Nat := 256 * j + a
def nodePocket (j a : Nat) : Nat := 254 * j + (a - 1)

/-- Node states (R421). -/
abbrev nFREE : Nat := 0
abbrev nSETUP : Nat := 1
abbrev nACTIVE : Nat := 2
abbrev nLOST : Nat := 3
abbrev nREJECTED : Nat := 4

def State.nodeSt (s : State) (j a : Nat) : Nat := s.get (F.FIELD_NODE_STATE j a)

/-- The node table marks the node as dual-homed (R426). -/
def State.isDual (s : State) (j a : Nat) : Bool :=
  s.bitAt F.FIELD_CTL_PAIR (j % 8) && s.nodeTab.any (fun t => t.dual && t.port == j % 8 && t.addr == a)

/-- The port that holds the node's state: Fn for a dual-homed node. -/
def State.homePort (s : State) (j a : Nat) : Nat := if s.isDual j a then j % 8 else j

/-- Descriptors of the node's points. -/
def State.nodeDesc (s : State) (j a : Nat) : List Nat :=
  let d := (s.fnode (nodeKey j a)).desc
  if d.isEmpty && s.isDual j a then (s.fnode (nodeKey (j % 8 + 8) a)).desc else d

def descSize (d : Nat) : Nat := if d % 4 = 0 then 1 else if d % 4 = 1 then 2 else 4
def descOut (d : Nat) : Bool := d.testBit 2
def descType (d : Nat) : Nat := d / 8 % 4

/-- A point value as it enters the value word (R430). -/
def pointWord (d : Nat) (l : List Byte) : Word :=
  let n := leNat l
  if descType d = 1 then BitVec.ofInt 32 (sextNat (8 * descSize d) n)
  else if descType d = 3 then (if n = 0 then 0 else 1)
  else BitVec.ofNat 32 n

/-- A write of SIGWR, ORD_WRITESIG or FIELD.SWR_V (R433): whether it took effect. -/
def State.sigWrite (s : State) (a : Nat) (v : Word) : Bool × State :=
  let p := a / 256
  let q := a % 256
  let j := pocketPort p
  let n := pocketAddr p
  let st := s.nodeSt j n
  let ok := p < 4064 && (st = nACTIVE || st = nLOST) && s.homePort j n = j &&
    (match (s.nodeDesc j n)[q]? with
      | some d => descOut d
      | none => false)
  if !ok then (false, (s.incSat F.FIELD_WRREJ_COUNT).fault 0x0A0C 0)
  else
    let s := s.sigTouch a
    let e := s.sigAt a
    let s := s.setSig a { e with v := v, wr := true, chg := if v = e.v then e.chg else (e.chg + 1) % 256 }
    (true, if v = e.v then s else s.sigChanged a)

/-- SIGNAL_MAP_SWEEP of one entry: OLD once its age has reached 32,768 ms (R431). -/
def State.sigSweep (s : State) (a : Nat) : State :=
  let s := s.sigTouch a
  let e := s.sigAt a
  if e.q ≠ 0 && (s.stampNow + 65536 - e.stamp % 65536) % 65536 ≥ 32768 then s.setSig a { e with old := true } else s

/-- The sweep visits every entry, once every 32 s; those with Q NONE keep AGE 65,535 without it. -/
def execSignalMapSweep (s : State) : Out :=
  let s := s.until (s.sweepAt + 32000 * msCounts)
  .next (loopL (s.sig.map (·.1)) (fun a s => s.sigSweep a) { s with sweepAt := s.now })

def execFieldSwrV (v : Word) (s : State) : Out := s.onRegW R.FIELD_SWR_V v fun v s =>
  .next (s.sigWrite (s.get F.FIELD_SWR_A_ADDR) v).2

/-- MAP_STORE: a direct Cox store into the map (R434). -/
def execMapStore (s : State) : Out := .next (s.fault 0x0A0D 0)

/-- FIELD_CLR: every counter of the window (R438). -/
def State.fieldClear (s : State) : State :=
  let s := s.put F.FIELD_WRREJ_COUNT 0
  loopN 16 (fun j s => loopL [F.FIELD_PORT_CYCCNT_COUNT j, F.FIELD_PORT_ERRCNT_COUNT j, F.FIELD_PORT_TOCNT_COUNT j,
    F.FIELD_PORT_OVRCNT_COUNT j, F.FIELD_PORT_UNKCNT_COUNT j, F.FIELD_PORT_DISCCNT_COUNT j]
    (fun f s => s.put f 0) s) s

def execFieldClr (cnt : Bool) (s : State) : Out := s.onReg R.FIELD_CLR fun s =>
  .next (if cnt then s.fieldClear else s)

end Sys2Proof.Machine
end

