-- ==== Sys2Proof/Machine/Field.lean ====
section
/-! DEFINITION. Machine/Field.lean: the field ports: frames, transactions, discovery, node setup, schedules and paired ports
(R406 to R427). -/
namespace Sys2Proof.Machine

/-! ### Frames (R409, R410) -/
/-- CRC-16/CCITT as R409 states it. -/
def fieldCrc (l : List Byte) : Nat := crcMsb 16 0x1021 0xFFFF l

/-- The request frame of a transaction. -/
def FTxn.frame (t : FTxn) : List Byte :=
  let body := leBytes 1 t.addr ++ leBytes 1 (t.typ * 16 + t.retry.toNat * 8 + t.ver) ++ leBytes 1 t.payload.length ++ t.payload
  0xD5 :: body ++ beBytes 2 (fieldCrc body)

/-- Bit time of a port in counts of 1.25 ns, times 60 (R439). -/
def State.bitTime60 (s : State) (j : Nat) : Nat :=
  match s.get (F.FIELD_PORT_CTL_RATE j) with
  | 0 => 192000 | 1 => 96000 | 2 => 48000 | 3 => 32000 | 4 => 24000 | 5 => 16000 | 6 => 12000 | 7 => 8000 | _ => 4000

/-- n bit times of port j in counts of 1.25 ns, rounded up. -/
def State.bitTimes (s : State) (j n : Nat) : Nat := (n * s.bitTime60 j + 59) / 60

/-- The longest a transaction takes, in counts (R411). -/
def State.txnTime (s : State) (j pq pr : Nat) : Nat := s.bitTimes j (10 * (12 + pq + pr) + 30) + 8000

/-- FDE of port j, high where true: it goes low one bit time after the stop bit of the request's last character (R408). -/
def State.fdeHigh (s : State) (j : Nat) : Bool :=
  s.domainRun 6 && decide (0 < (s.fport j).reqEnd) && decide (s.now < (s.fport j).reqEnd + s.bitTimes j 1)

/-- A transaction is over now: the line stays idle for 30 bit times (R411). -/
def State.lineIdle (s : State) (j : Nat) : State :=
  s.setFport j { s.fport j with txn := none, lastAt := s.now, freeAt := s.now + s.bitTimes j 30 }

/-! ### Points and slots -/
/-- Points of [first, first+cnt) that the node declares with the given direction, ascending. -/
def pointRange (desc : List Nat) (first cnt : Nat) (out : Bool) : List (Nat × Nat) :=
  ((List.range cnt).map (· + first)).filterMap (fun q =>
    match desc[q]? with
    | some d => if descOut d == out then some (q, d) else none
    | none => none)

def pointsSize (l : List (Nat × Nat)) : Nat := l.foldl (fun n x => n + descSize x.2) 0

/-- Fields of the slot words (R422). -/
def State.slotWords (s : State) (j i : Nat) : Nat × Nat :=
  let w := mget (0, 0) s.sched (512 * j + i)
  (w.1.toNat, w.2.toNat)
def slotEn (d0 : Nat) : Bool := d0.testBit 31
def slotKind (d0 : Nat) : Nat := bitsOf d0 30 28
def slotAddr (d0 : Nat) : Nat := bitsOf d0 23 16

def State.nodeVer (s : State) (j a : Nat) : Nat := s.get (F.FIELD_NODE_VER (s.homePort j a) a)
def State.nodeMaxlen (s : State) (j a : Nat) : Nat := s.get (F.FIELD_NODE_MAXLEN (s.homePort j a) a)

/-- The node answers on port j: ACTIVE, and set up on this port. -/
def State.nodeUp (s : State) (j a : Nat) : Bool :=
  s.nodeSt (s.homePort j a) a == nACTIVE && (s.fnode (nodeKey j a)).up

/-- Value words of output points, and their bytes as a request carries them (R430). -/
def State.outVals (s : State) (j a : Nat) (l : List (Nat × Nat)) : List (Nat × Word) :=
  l.map (fun x => (x.1, (s.sigAt (256 * nodePocket (s.homePort j a) a + x.1)).v))
def valBytes (d : Nat) (v : Word) : List Byte := leBytes (descSize d) v.toNat

/-- The transaction of slot i on port j; none where the slot is skipped. -/
def State.slotTxn (s : State) (j i : Nat) : Option FTxn :=
  let (d0, d1) := s.slotWords j i
  let a := slotAddr d0
  if !slotEn d0 || slotKind d0 ≥ 2 || !s.nodeUp j a || s.schedOff.contains (512 * j + i) then none
  else
    let ver := s.nodeVer j a
    let desc := s.nodeDesc j a
    if slotKind d0 = 1 then
      if ver < 2 then none
      else some { typ := 1, addr := a, ver := ver, slot := i, payload := leBytes 1 (s.fnode (nodeKey j a)).ackSeq }
    else
      let outs := pointRange desc (bitsOf d1 15 8) (bitsOf d1 7 0) true
      let vals := s.outVals j a outs
      let tag := if ver = 3 then leBytes 1 ((s.fport (if s.isDual j a then j % 8 else j)).cyc % 256) else []
      some { typ := 0, addr := a, ver := ver, slot := i, vals := vals
             payload := tag ++ (outs.zip vals).flatMap (fun (x, v) => valBytes x.2 v.2) }

/-- Input points of a slot. -/
def State.slotIns (s : State) (j i : Nat) : List (Nat × Nat) :=
  let (d0, _) := s.slotWords j i
  pointRange (s.nodeDesc j (slotAddr d0)) (bitsOf d0 15 8) (bitsOf d0 7 0) false

/-- Nodes of a port in setup on it. -/
def State.setupNodes (s : State) (j : Nat) : List Nat :=
  (List.range 254).map (· + 1) |>.filter (fun a => (s.fnode (nodeKey j a)).setup)

/-- The capability block has arrived: 18 + NPT bytes (R418). One with NPT above 256 is judged by its first page (R419). -/
def capDone (c : List Byte) : Bool :=
  c.length ≥ 32 && (c.length ≥ 18 + leAt c 10 2 || decide (256 < leAt c 10 2)) || c.length ≥ 18 && c.length == 18 + leAt c 10 2

/-- The setup transaction of a node: the next CAP page, or the next READ (R418, R420). -/
def State.setupTxn (s : State) (j a : Nat) : Option FTxn :=
  let n := s.fnode (nodeKey j a)
  if !n.setup then none
  else if n.desc.isEmpty && !(capDone n.cap) then
    some { typ := 5, addr := a, a0 := n.cap.length / 32, payload := leBytes 1 (n.cap.length / 32) }
  else
    let desc := n.desc
    -- from the next input point on, declared points up to MAXLEN response bytes
    match (List.range desc.length).find? (fun q => n.rdNext ≤ q && !descOut (desc.getD q 0)) with
    | none => none
    | some q =>
      let cnt := readCount (s.nodeMaxlen j a) (desc.drop q) 255
      some { typ := 2, addr := a, ver := s.nodeVer j a, a0 := q, a1 := cnt, payload := leBytes 1 q ++ leBytes 1 cnt }
where
  readCount : Nat → List Nat → Nat → Nat
    | _, [], _ => 0
    | _, _, 0 => 0
    | m, d :: r, k + 1 => if descSize d ≤ m then readCount (m - descSize d) r k + 1 else 0

/-- Points that some CYCLIC slot of the node carries. -/
def State.carried (s : State) (j a : Nat) : List Nat :=
  (List.range (s.get (F.FIELD_PORT_NSLOT_N j))).flatMap (fun i =>
    let (d0, d1) := s.slotWords j i
    if slotEn d0 && slotKind d0 = 0 && slotAddr d0 = a && !s.schedOff.contains (512 * j + i) then
      (List.range (bitsOf d1 7 0)).map (· + bitsOf d1 15 8) else [])

/-- The WRITE that is due for a node: its outputs with WR = 1 that no CYCLIC slot carries (R423). -/
def State.writeTxn (s : State) (j a : Nat) : Option FTxn :=
  let h := s.homePort j a
  if !s.nodeUp j a || (h ≠ j && (s.fnode (nodeKey h a)).up) then none
  else
    let c := s.carried j a
    let desc := s.nodeDesc j a
    let pts := (pointRange desc 0 desc.length true).filter (fun x =>
      (s.sigAt (256 * nodePocket h a + x.1)).wr && !c.contains x.1)
    let fit := (takeLen (s.nodeMaxlen j a - 1) pts).take 255
    if fit.isEmpty then none
    else
      let vals := s.outVals j a fit
      some { typ := 3, addr := a, ver := s.nodeVer j a, vals := vals
             payload := leBytes 1 fit.length ++ (fit.zip vals).flatMap (fun (x, v) => leBytes 1 x.1 ++ valBytes x.2 v.2) }
where
  takeLen : Nat → List (Nat × Nat) → List (Nat × Nat)
    | _, [] => []
    | m, x :: r => if 1 + descSize x.2 ≤ m then x :: takeLen (m - 1 - descSize x.2) r else []

/-- Longest response payload of a transaction. -/
def State.txnRsp (s : State) (j : Nat) (t : FTxn) : Nat :=
  match t.typ with
  | 2 => (((s.fnode (nodeKey j t.addr)).desc.drop t.a0).take t.a1).foldl (fun n d => n + descSize d) 0
  | 4 => 4
  | 5 => 32
  | 6 => 6
  | _ => 0

/-- First acyclic transaction due, in the order of R423. -/
def State.acyclicTxn (s : State) (j : Nat) : Option FTxn :=
  let f := s.fport j
  let asg := f.asg.map (fun (ser, a) => ({ typ := 4, addr := 255, a0 := ser, a1 := a
                                           payload := leBytes 4 ser ++ leBytes 1 a ++ [1] } : FTxn))
  let disc := f.stack.head?.map (fun (pf, pl) => ({ typ := 6, addr := 255, a0 := pf, a1 := pl
                                                    payload := leBytes 4 pf ++ leBytes 1 pl } : FTxn))
  let rel := f.rel.head?.map (fun (a, ser) => ({ typ := 4, addr := a, a0 := ser, a1 := 255
                                                 payload := leBytes 4 ser ++ [255, 1] } : FTxn))
  let setup := (s.setupNodes j).findSome? (s.setupTxn j)
  let write := ((List.range 254).map (· + 1)).findSome? (s.writeTxn j)
  let t := asg <|> disc <|> rel <|> setup <|> write
  -- it starts only if its longest time ends within ACYC of the phase's start
  t.filter (fun t => max s.now (max f.freeAt f.acycAt) + s.txnTime j t.payload.length (s.txnRsp j t) ≤
    f.acycAt + s.get (F.FIELD_PORT_ACYC_US j) * 800)

/-- First slot from `i` on that is not skipped. -/
def State.nextSlot (s : State) (j i : Nat) : Option FTxn :=
  ((List.range (s.get (F.FIELD_PORT_NSLOT_N j))).filter (fun k => i ≤ k)).findSome? (s.slotTxn j)

def State.fieldRunning (s : State) (j : Nat) : Bool := s.bit (F.FIELD_PORT_STAT_RUN j) && s.domainRun 6

/-- The transaction that port j does next; none while one is on the line. -/
def State.nextTxn (s : State) (j : Nat) : Option FTxn :=
  let f := s.fport j
  if !s.fieldRunning j then none
  else
    match f.txn with
    | some t => if t.sent then none else some t
    | none =>
      if f.relAll then some { typ := 4, addr := 0, a0 := 0xFFFFFFFF, a1 := 255, payload := leBytes 4 0xFFFFFFFF ++ [255, 1] }
      else if f.phase = 1 then
        if f.frz then some { typ := 7, addr := 0, payload := leBytes 4 f.cyc } else s.nextSlot j f.slot
      else if f.phase = 2 then s.acyclicTxn j
      else none

/-- Counts of idle time of the GAP slots from slot i up to slot k (R422). -/
def State.gapTime (s : State) (j i k : Nat) : Nat :=
  ((List.range k).filter (fun n => i ≤ n)).foldl (fun t n =>
    let (d0, d1) := s.slotWords j n
    if slotEn d0 && slotKind d0 = 2 then t + bitsOf d1 31 16 * 800 else t) 0

/-- Once no slot is left, the acyclic phase begins, after the last gaps (R422, R423). -/
def State.fieldSettle (s : State) (j : Nat) : State :=
  let f := s.fport j
  if f.phase = 1 && !f.frz && f.txn.isNone && (s.nextSlot j f.slot).isNone then
    let t := max s.now (f.freeAt + s.gapTime j f.slot (s.get (F.FIELD_PORT_NSLOT_N j)))
    s.setFport j { f with phase := 2, acycAt := t, lastAt := max f.lastAt t }
  else s

/-- The line is free for transaction t of port j: the idle time, the gaps before its slot and, under throttle, the pause are
over (R411, R422, R424, R473). FDE rises one bit time before the start bit (R408). -/
def State.lineReady (s : State) (j : Nat) (t : FTxn) : State :=
  let f := s.fport j
  let gap := if t.typ ≤ 1 && f.phase = 1 then s.gapTime j f.slot t.slot else 0
  let s := s.until (max (f.freeAt + gap) (if f.phase = 2 then f.acycAt else 0) - s.bitTimes j 1)
  if s.get F.HK_STAT_LEVEL ≥ 2 then s.advance (s.get F.HK_THR_PAUSE * 800) else s

/-- Sends the next transaction where it has the type asked for. A broadcast leaves the line idle from its own end on. -/
def State.fieldSend (s : State) (j typ : Nat) : State :=
  match s.nextTxn j with
  | none => s
  | some t =>
    if t.typ ≠ typ then s
    else
      let s := s.lineReady j t
      let s := if typ = 6 then s.incSat (F.FIELD_PORT_DISCCNT_COUNT j) else s
      let f := s.fport j
      let fin := s.now + s.bitTimes j (1 + 10 * (6 + t.payload.length))
      let idle := fin + s.bitTimes j 30
      let f := { f with out := t.frame, txn := some { t with sent := true }, reqEnd := fin, freeAt := idle }
      let f :=
        if typ = 4 && t.addr = 0 then { f with relAll := false, txn := none, lastAt := fin }
        else if typ = 7 then { f with frz := false, txn := none, lastAt := fin }
        else if typ = 6 then { f with stack := f.stack.drop 1 }
        else if typ ≤ 1 then { f with slot := t.slot + 1 }
        else f
      (s.setFport j f).fieldSettle j

def execCyclic (j : Port16) (s : State) : Out := .next (s.fieldSend j 0)
def execChange (j : Port16) (s : State) : Out := .next (s.fieldSend j 1)
def execRead (j : Port16) (s : State) : Out := .next (s.fieldSend j 2)
def execWrite (j : Port16) (s : State) : Out := .next (s.fieldSend j 3)
def execAssign (j : Port16) (s : State) : Out := .next (s.fieldSend j 4)
def execCap (j : Port16) (s : State) : Out := .next (s.fieldSend j 5)
def execDiscover (j : Port16) (s : State) : Out := .next (s.fieldSend j 6)
def execFreeze (j : Port16) (s : State) : Out := .next (s.fieldSend j 7)

/-! ### Node states (R421) -/
def State.setNodeSt (s : State) (j a st : Nat) : State :=
  let was := s.nodeSt j a == nACTIVE
  let s := s.put (F.FIELD_NODE_STATE j a) st
  let is := st == nACTIVE
  if was == is then s
  else
    let d (n : Nat) : Nat := if is then n + 1 else n - 1
    (s.put (F.FIELD_PORT_STAT_NACT j) (d (s.get (F.FIELD_PORT_STAT_NACT j)))).put F.FIELD_STAT_NACT
      (d (s.get F.FIELD_STAT_NACT))

/-- Updates of every declared point of a node. -/
def State.nodeEntries (s : State) (h a : Nat) (f : Nat → Nat → State → State) : State :=
  let desc := s.nodeDesc h a
  loopL ((List.range desc.length).map (fun q => (q, desc.getD q 0))) (fun x s => f x.1 x.2 s) s

def entryAt (h a q : Nat) : Nat := 256 * nodePocket h a + q

/-- Setup is complete on port j: the node is ACTIVE (R421, R432). -/
def State.nodeReady (s : State) (j a : Nat) : State :=
  let h := s.homePort j a
  let n := s.fnode (nodeKey j a)
  let s := s.setFnode (nodeKey j a) { n with up := true, setup := false, ackSeq := 0 }
  let s := if h = j then s.putB (F.FIELD_NODE_PRIOK h a) true else s.putB (F.FIELD_NODE_ALTOK h a) true
  if s.nodeSt h a = nACTIVE then s
  else
    let s := (s.setNodeSt h a nACTIVE).put (F.FIELD_NODE_MISS h a) 0
    s.nodeEntries h a (fun q d s =>
      let k := entryAt h a q
      if descOut d then
        let s := s.sigUpdate k (s.sigAt k).v 1 (descType d) (j ≠ h)
        s.setSig k { s.sigAt k with wr := true }
      else
        match n.vals.find? (fun x => x.1 == q) with
        | some x => s.sigUpdate k x.2 1 (descType d) (j ≠ h)
        | none => s.sigUpdate k (s.sigAt k).v 1 (descType d) (j ≠ h))

/-- A node is lost (R421, R432). -/
def State.nodeLose (s : State) (h a : Nat) : State :=
  let s := (s.setNodeSt h a nLOST).fault 0x0A05 a
  let drop (j : Nat) (s : State) : State := s.setFnode (nodeKey j a) { s.fnode (nodeKey j a) with up := false, setup := false }
  let s := s.nodeEntries h a (fun q _ s =>
    let k := entryAt h a q
    s.sigUpdate k (s.sigAt k).v 2 (s.sigAt k).typ (s.sigAt k).path)
  let s := drop h s
  if s.isDual h a then drop (h + 8) s else s

/-- A node leaves the port for good: FREE or REJECTED, its release due. -/
def State.nodeRelease (s : State) (j a st : Nat) : State :=
  let h := s.homePort j a
  let ser := s.get (F.FIELD_NSER_SERIAL h a)
  let f := s.fport j
  let s := s.setFport j { f with rel := f.rel ++ [(a, ser)] }
  let s := s.setFnode (nodeKey j a) { s.fnode (nodeKey j a) with setup := false, up := false, cap := [] }
  let other := s.isDual j a && (s.fnode (nodeKey (if j = h then h + 8 else h) a)).up
  if other then s
  else
    let s := s.setNodeSt h a st
    if st = nFREE then s.wr (R.FIELD_NODE h a) 0 |>.wr (R.FIELD_NSER h a) 0 else s

/-- The capability block is sound (R419). -/
def State.capOk (s : State) (j a : Nat) (c : List Byte) : Bool :=
  let npt := leAt c 10 2
  let vers := leAt c 1 1
  let ver := bestVer vers (s.get (F.FIELD_PORT_CTL_VMAX j))
  let ds := (List.range npt).map (fun q => leAt c (16 + q) 1)
  let h := s.homePort j a
  leAt c 0 1 = 1 && vers < 8 && ver ≠ 0 && 1 ≤ leAt c 2 1 && leAt c 2 1 ≤ 240 && npt ≤ 256 &&
    leAt c 6 4 = s.get (F.FIELD_NSER_SERIAL h a) && leAt c 3 1 < 4 && leAt c 14 2 = 0 &&
    ds.all (fun d => d < 32 && d % 4 ≠ 3 && (descType d ≠ 2 || d % 4 = 2) && !(ver = 1 && d % 4 = 2)) &&
    leAt c (16 + npt) 2 = fieldCrc (c.take (16 + npt)) &&
    (!s.isDual j a || (leAt c 3 1 % 2 = 1 && ver = 3))
where
  /-- Highest common version; 0 none (R415). -/
  bestVer (vers vmax : Nat) : Nat :=
    if vers.testBit 2 && vmax ≥ 3 then 3 else if vers.testBit 1 && vmax ≥ 2 then 2 else if vers.testBit 0 && vmax ≥ 1 then 1 else 0

/-- Slots of the node whose payloads exceed its MAXLEN are disabled (R420). -/
def State.checkSlots (s : State) (j a : Nat) : State :=
  let m := s.nodeMaxlen j a
  let ver := s.nodeVer j a
  let desc := s.nodeDesc j a
  loopN (s.get (F.FIELD_PORT_NSLOT_N j)) (fun i s =>
    let (d0, d1) := s.slotWords j i
    if slotEn d0 && slotKind d0 = 0 && slotAddr d0 = a then
      let rq := pointsSize (pointRange desc (bitsOf d1 15 8) (bitsOf d1 7 0) true) + (if ver = 3 then 1 else 0)
      let rs := pointsSize (pointRange desc (bitsOf d0 15 8) (bitsOf d0 7 0) false)
      let off := s.schedOff.filter (· != 512 * j + i)
      if rq > m || rs > m then { s with schedOff := (512 * j + i) :: off }.fault 0x0A07 a else { s with schedOff := off }
    else s) s

/-- After a good CAP page or READ: the block is judged once whole, and setup ends when every input has been read. -/
def State.setupStep (s : State) (j a : Nat) : State :=
  let key := nodeKey j a
  let n := s.fnode key
  let s :=
    if n.desc.isEmpty && capDone n.cap && n.setup then
      let c := n.cap.take (18 + leAt n.cap 10 2)
      if s.capOk j a c then
        let h := s.homePort j a
        let ver := State.capOk.bestVer (leAt c 1 1) (s.get (F.FIELD_PORT_CTL_VMAX j))
        let npt := leAt c 10 2
        let s := s.setFnode key { n with desc := (List.range npt).map (fun q => leAt c (16 + q) 1), flags := leAt c 3 1 }
        let s := s.put (F.FIELD_NODE_MAXLEN h a) (if ver = 1 then min 64 (leAt c 2 1) else leAt c 2 1)
        let s := s.put (F.FIELD_NODE_VER h a) ver
        let s := s.putB (F.FIELD_NODE_DUAL h a) (s.isDual j a)
        s.put (F.FIELD_NODE_NPT h a) npt
      else ((s.nodeRelease j a nREJECTED).fault 0x0A06 a)
    else s
  let n := s.fnode key
  if n.setup && capDone n.cap && (s.setupTxn j a).isNone then (s.checkSlots j a).nodeReady j a else s

/-! ### Discovery (R416, R417) -/
/-- Address for a serial discovered on port j: none where it is ignored or unknown. -/
def State.discovered (s : State) (j ser : Nat) : State :=
  let addrs := (List.range 254).map (· + 1)
  let f := s.fport j
  let known := addrs.find? (fun a => s.get (F.FIELD_NSER_SERIAL (s.homePort j a) a) == ser &&
    s.nodeSt (s.homePort j a) a ≠ nFREE)
  let tab := s.nodeTab.find? (fun t => t.serial == ser && (t.port == j || (t.dual && t.port + 8 == j)))
  let assign (a : Nat) : State := s.setFport j { f with asg := some (ser, a) }
  match known with
  | some a =>
    let h := s.homePort j a
    let st := s.nodeSt h a
    if st = nLOST then assign a
    else if st = nREJECTED then s
    -- the second line of a dual-homed node
    else if s.isDual j a && !(s.fnode (nodeKey j a)).up && !(s.fnode (nodeKey j a)).setup then assign a
    else s
  | none =>
    match tab with
    | some t => if s.nodeSt (s.homePort j t.addr) t.addr = nFREE then assign t.addr else s
    | none =>
      let reserved (a : Nat) : Bool := s.nodeTab.any (fun t => (t.port == j || (t.dual && t.port + 8 == j)) && t.addr == a)
      let free := if s.bit (F.FIELD_PORT_CTL_AUTO j) then addrs.find? (fun a => s.nodeSt j a = nFREE && !reserved a) else none
      match free with
      | some a => assign a
      | none =>
        let s := s.incSat (F.FIELD_PORT_UNKCNT_COUNT j)
        if f.unk.contains ser then s else (s.setFport j { f with unk := ser :: f.unk }).fault 0x0A03 j

/-- A node has taken its address: FREE or LOST to SETUP. -/
def State.assigned (s : State) (j ser a : Nat) : State :=
  let h := s.homePort j a
  let s := s.wr (R.FIELD_NSER h a) (BitVec.ofNat 32 ser)
  let s := s.setFnode (nodeKey j a) { setup := true }
  if s.nodeSt h a = nACTIVE then s else s.setNodeSt h a nSETUP

/-- DISCOVERY_ROUND: every 1 s on each enabled port; it abandons one still running, and a probe of that one on the line counts
for nothing. -/
def execDiscoveryRound (j : Port16) (s : State) : Out :=
  if !s.fieldRunning j then .next s
  else
    let s := s.until ((s.fport j).discAt + 1000 * msCounts)
    let f := s.fport j
    .next ((s.setFport j { f with stack := [(0, 0)], asg := none, discAt := s.now
                                  txn := f.txn.map (fun t => { t with stale := t.typ == 6 }) }).putB
      (F.FIELD_PORT_STAT_DISC j) true)

/-- The round has ended once no probe and no assignment is left. -/
def State.discEnd (s : State) (j : Nat) : State :=
  let f := s.fport j
  if f.stack.isEmpty && f.asg.isNone && (match f.txn with
      | some t => t.typ != 6
      | none => true) then s.putB (F.FIELD_PORT_STAT_DISC j) false else s

/-! ### Responses (R411 to R414) -/
/-- Length that a good response payload must have; none where any length within MAXLEN will do. -/
def State.rspLen (s : State) (j : Nat) (t : FTxn) : Option Nat :=
  match t.typ with
  | 0 => some (pointsSize (s.slotIns j t.slot))
  | 1 => none
  | 2 => some (s.txnRsp j t)
  | 3 => some 0
  | 4 => some 4
  | 5 =>
    let n := s.fnode (nodeKey j t.addr)
    if t.a0 = 0 then none else some (min 32 (18 + leAt n.cap 10 2 - 32 * t.a0))
  | _ => some 6

/-- A CHANGE payload: SEQ, CNT, then entries of declared input points; none where it does not parse. -/
def parseChange (desc : List Nat) (l : List Byte) : Option (List (Nat × Word)) :=
  if l.length < 2 || leAt l 0 1 = 0 then none else go (leAt l 1 1) (l.drop 2)
where
  go : Nat → List Byte → Option (List (Nat × Word))
    | 0, l => if l.isEmpty then some [] else none
    | k + 1, l =>
      match l with
      | [] => none
      | q :: r =>
        match desc[q.toNat]? with
        | none => none
        | some d =>
          if r.length < descSize d then none
          else (go k (r.drop (descSize d))).map (fun t => (q.toNat, pointWord d (r.take (descSize d))) :: t)

/-- What a response frame is (R413). -/
inductive FRsp where
  | bad
  | err (code : Nat)
  | good (payload : List Byte)
  deriving DecidableEq, Repr

/-- Checks a response against its request. -/
def State.fieldCheck (s : State) (j : Nat) (t : FTxn) (l : List Byte) : FRsp :=
  let len := leAt l 3 1
  let ctl := leAt l 2 1
  let addr := if t.typ = 4 then t.a1 else t.addr
  let maxlen := if t.typ ≤ 3 then s.nodeMaxlen j t.addr else 240
  let pl := (l.drop 4).take len
  let frameOk := l.length ≥ 6 && leAt l 0 1 = 0xD5 && len ≤ 240 && len ≤ maxlen && l.length = 6 + len &&
    beAt l (4 + len) 2 = fieldCrc ((l.drop 1).take (3 + len)) && leAt l 1 1 = addr && ctl ≥ 128 &&
    ctl / 16 % 8 = t.typ && ctl % 8 = t.ver
  if !frameOk then .bad
  else if ctl.testBit 3 then (if len = 1 then .err (leAt pl 0 1) else .bad)
  else
    let lenOk := match s.rspLen j t with
      | some n => len = n
      | none => if t.typ = 5 then len = 32 || (len ≥ 18 && len = 18 + leAt pl 10 2) else true
    let chgOk := t.typ ≠ 1 || (parseChange (s.nodeDesc j t.addr) pl).isSome
    let serOk := t.typ ≠ 4 || leAt pl 0 4 = t.a0
    if lenOk && chgOk && serOk then .good pl else .bad

/-- Inputs of a good CYCLIC or CHANGE enter the map; of a dual-homed node the first response of a cycle is used (R427). -/
def State.takeInputs (s : State) (j a : Nat) (vals : List (Nat × Word)) : State :=
  let h := s.homePort j a
  let desc := s.nodeDesc j a
  let cyc := (s.fport h).cyc
  let r := s.fnode (nodeKey h a)
  if s.isDual j a && r.used = some (2 * cyc + (if j = h then 1 else 0)) then s
  else
    -- remember which port delivered in this cycle
    let s := s.setFnode (nodeKey h a) { r with used := some (2 * cyc + (if j = h then 0 else 1)) }
    loopL vals (fun x s => s.sigUpdate (entryAt h a x.1) x.2 1 (descType (desc.getD x.1 0)) (j ≠ h)) s

/-- WR clears where the entry still holds the value that was sent (R433). -/
def State.confirm (s : State) (h a : Nat) (vals : List (Nat × Word)) : State :=
  loopL vals (fun x s =>
    let k := entryAt h a x.1
    let e := s.sigAt k
    if e.v = x.2 then s.setSig k { e with wr := false } else s) s

/-- Splits the bytes of a run of points into their value words. -/
def splitVals : List (Nat × Nat) → List Byte → List (Nat × Word)
  | [], _ => []
  | (q, d) :: r, l => (q, pointWord d (l.take (descSize d))) :: splitVals r (l.drop (descSize d))

/-- A good transaction with a node (R421, R427). -/
def State.nodeGood (s : State) (j a : Nat) : State :=
  let h := s.homePort j a
  let n := s.fnode (nodeKey j a)
  let s := s.setFnode (nodeKey j a) { n with good := n.good + 1, pathBad := 0 }
  let s := if h = j then s.putB (F.FIELD_NODE_PRIOK h a) true else s.putB (F.FIELD_NODE_ALTOK h a) true
  s.put (F.FIELD_NODE_MISS h a) 0

/-- What a good response does. -/
def State.fieldGood (s : State) (j : Nat) (t : FTxn) (pl : List Byte) : State :=
  let a := t.addr
  let key := nodeKey j a
  let s := if t.retry then s.retryT 0 else s
  let s := s.lineIdle j
  match t.typ with
  | 0 =>
    let s := s.nodeGood j a
    let s := s.takeInputs j a (splitVals (s.slotIns j t.slot) pl)
    s.confirm (s.homePort j a) a t.vals
  | 1 =>
    let s := s.nodeGood j a
    let s := s.setFnode key { s.fnode key with ackSeq := leAt pl 0 1 }
    s.takeInputs j a ((parseChange (s.nodeDesc j a) pl).getD [])
  | 2 =>
    let s := s.nodeGood j a
    let n := s.fnode key
    let ds := (n.desc.drop t.a0).take t.a1
    let pts := (List.range ds.length).map (fun i => (t.a0 + i, ds.getD i 0))
    let s := s.setFnode key { n with vals := n.vals ++ splitVals pts pl, rdNext := t.a0 + t.a1 }
    s.setupStep j a
  | 3 => (s.nodeGood j a).confirm (s.homePort j a) a t.vals
  | 4 =>
    let f := s.fport j
    if t.addr = 255 then (s.setFport j { f with asg := none }).assigned j t.a0 t.a1
    else s.setFport j { f with rel := f.rel.drop 1 }
  | 5 =>
    let n := s.fnode key
    let s := s.nodeGood j a
    let s := s.setFnode key { s.fnode key with cap := n.cap ++ pl }
    s.setupStep j a
  | _ => if t.stale then s else s.discovered j (leAt pl 0 4)

/-- A lasting failure (R414, R417, R421). -/
def State.fieldLasting (s : State) (j : Nat) (t : FTxn) : State :=
  let a := t.addr
  let key := nodeKey j a
  let s := ((s.retryL 0).put F.FIELD_LASTF_PORT j).put F.FIELD_LASTF_ADDR a
  let s := (s.fault 0x0A01 a).lineIdle j
  let miss (s : State) : State := s.setFnode key { s.fnode key with bad := (s.fnode key).bad + 1 }
  match t.typ with
  | 4 =>
    let f := s.fport j
    if t.addr = 255 then s.setFport j { f with asg := none } else s.setFport j { f with rel := f.rel.drop 1 }
  | 5 => s.nodeRelease j a nFREE
  | 2 => if (s.fnode key).setup then s.nodeRelease j a nFREE else miss s
  | _ => miss s

/-- An attempt has failed: repeated once, or lasting (R414). DISCOVER is never repeated. -/
def State.fieldFail (s : State) (j : Nat) (t : FTxn) : State :=
  if t.retry then s.fieldLasting j t
  else
    let s := (s.incSat (F.FIELD_PORT_ERRCNT_COUNT j)).lineIdle j
    s.setFport j { s.fport j with txn := some { t with retry := true, sent := false } }

/-- Line activity without a good frame at a probe: the prefix is split, or two nodes share a serial (R416). -/
def State.discSplit (s : State) (j : Nat) (t : FTxn) : State :=
  let s := s.lineIdle j
  let f := s.fport j
  if t.stale then s
  else if t.a1 = 32 then s.fault 0x0A04 j
  else s.setFport j { f with stack := (t.a0 + 2 ^ (31 - t.a1), t.a1 + 1) :: (t.a0, t.a1 + 1) :: f.stack }

/-- FIELD_RESPONSE: the characters received, whether a stop bit was missing or a gap was too long, and the counts of 1.25 ns
since the end of the request. -/
def execFieldResponse (j : Port16) (l : List Byte) (lineErr : Bool) (dt : Nat) (s : State) : Out :=
  match (s.fport j).txn with
  | none => .next s
  | some t =>
    if !t.sent then .next s
    else
      let s := s.until ((s.fport j).reqEnd + dt)
      let r := if lineErr then .bad else s.fieldCheck j t l
      let s :=
        match r with
        | .good pl => s.fieldGood j t pl
        | .err _ => if t.typ = 6 then (s.fault 0x0A09 t.addr).discSplit j t else (s.fault 0x0A09 t.addr).fieldFail j t
        | .bad => if t.typ = 6 then s.discSplit j t else s.fieldFail j t
      .next ((s.fieldSettle j).discEnd j)

/-- FIELD_TIMEOUT: no start bit within 12 µs after the request. -/
def execFieldTimeout (j : Port16) (s : State) : Out :=
  match (s.fport j).txn with
  | none => .next s
  | some t =>
    if !t.sent then .next s
    else
      let s := (s.until ((s.fport j).reqEnd + 9600)).incSat (F.FIELD_PORT_TOCNT_COUNT j)
      let s := if t.typ = 6 then s.lineIdle j else s.fieldFail j t
      .next ((s.fieldSettle j).discEnd j)

/-! ### Cycles (R423, R424) -/
/-- Misses of the cycle just ended for the node whose home is port h (R421, R427). -/
def State.countMiss (s : State) (h a : Nat) : State :=
  let st := s.nodeSt h a
  let dual := s.isDual h a
  let p := s.fnode (nodeKey h a)
  let q := if dual then s.fnode (nodeKey (h + 8) a) else {}
  let good := p.good + q.good
  let bad := p.bad + q.bad
  let s := s.setFnode (nodeKey h a) { p with good := 0, bad := 0 }
  let s := if dual then s.setFnode (nodeKey (h + 8) a) { q with good := 0, bad := 0 } else s
  if st ≠ nACTIVE then s
  else
    let lim := s.get (F.FIELD_PORT_CTL_NLOST h)
    let path (j : Nat) (n o : FNode) (f : Fld) (s : State) : State :=
      if dual && n.bad > 0 && n.good = 0 && o.good > 0 then
        let s := s.setFnode (nodeKey j a) { s.fnode (nodeKey j a) with pathBad := n.pathBad + 1 }
        if n.pathBad + 1 = lim then (s.putB f false).fault 0x0A0A a else s
      else s
    let s := path h p q (F.FIELD_NODE_PRIOK h a) s
    let s := path (h + 8) q p (F.FIELD_NODE_ALTOK h a) s
    if good = 0 && bad > 0 then
      let m := s.get (F.FIELD_NODE_MISS h a) + 1
      let s := s.put (F.FIELD_NODE_MISS h a) (min 127 m)
      if m ≥ lim then s.nodeLose h a else s
    else s

/-- The port's cycle can start: none runs, or its acyclic phase has nothing on the line. -/
def State.cycleFree (s : State) (j : Nat) : Bool :=
  let f := s.fport j
  f.phase != 1 && f.txn.isNone && !f.relAll

/-- One port starts its cycle. -/
def State.cycleStart (s : State) (j : Nat) : State :=
  let f := s.fport j
  let due := f.startAt + s.get (F.FIELD_PORT_CYC_US j) * 800
  let first := f.phase = 0
  let s := if first then s else s.until (max due f.lastAt)
  let isOver := !first && f.lastAt > due
  let len := (f.lastAt - f.startAt) / 800
  let s := if !first && len > s.get (F.FIELD_PORT_CYCMAX_US j) then s.put (F.FIELD_PORT_CYCMAX_US j) (min 1048575 len) else s
  let was := s.bit (F.FIELD_PORT_STAT_OVR j)
  let s := s.putB (F.FIELD_PORT_STAT_OVR j) isOver
  let s :=
    if isOver then
      let s := s.incSat (F.FIELD_PORT_OVRCNT_COUNT j)
      if !was && s.get F.HK_STAT_LEVEL < 2 then s.fault 0x0A08 j else s
    else s
  let s := s.incWrap (F.FIELD_PORT_CYCCNT_COUNT j)
  let s := loopL ((List.range 254).map (· + 1)) (fun a s => if s.homePort j a = j then s.countMiss j a else s) s
  let f := s.fport j
  (s.setFport j { f with cyc := (f.cyc + 1) % 2 ^ 32, phase := 1, frz := s.bit (F.FIELD_PORT_CTL_FREEZE j), slot := 0
                         startAt := s.now, lastAt := s.now }).fieldSettle j

/-- FIELD_CYCLE_START: both ports of a pair start at one instant (R426). -/
def execFieldCycleStart (j : Port16) (s : State) : Out :=
  let ports := if s.bitAt F.FIELD_CTL_PAIR (j.val % 8) then [j.val % 8, j.val % 8 + 8] else [j.val]
  if ports.all (fun p => s.fieldRunning p && s.cycleFree p) then .next (loopL ports (fun p s => s.cycleStart p) s)
  else .next s

/-! ### Start and stop -/
/-- Rig activation: every node of every port is released, and every pocket of field nodes has Q NONE (R416, R421, R449). -/
def State.fieldRelease (s : State) : State :=
  let s := { s with sig := s.sig.filter (fun e => e.1 ≥ 256 * 4064), fnodes := [], fports := [], schedOff := [] }
  let s := { s with regs := s.regs.filter (fun e => !(0x400E1000 ≤ e.1 && e.1 < 0x400E9000)) }
  let s := s.put F.FIELD_STAT_NACT 0
  loopN 16 (fun j s => (s.put (F.FIELD_PORT_STAT_NACT j) 0).putB (F.FIELD_PORT_STAT_RUN j) false) s

/-- Starts the enabled field ports: broadcast release, then discovery and cycles (R416, R449). -/
def State.fieldStart (s : State) : State :=
  loopN 16 (fun j s =>
    if s.bit (F.FIELD_PORT_CTL_EN j) then
      ((s.setFport j { relAll := true, stack := [(0, 0)], discAt := s.now }).putB (F.FIELD_PORT_STAT_RUN j) true).putB
        (F.FIELD_PORT_STAT_DISC j) true
    else s) s

/-- ORD_CLEARFAULT of 0x0A06: rejected nodes of the address are forgotten (R421). -/
def State.fieldForget (s : State) (a : Nat) : State :=
  loopN 16 (fun j s =>
    if 1 ≤ a && a ≤ 254 && s.nodeSt j a = nREJECTED then (s.wr (R.FIELD_NODE j a) 0).wr (R.FIELD_NSER j a) 0 else s) s

end Sys2Proof.Machine
end

