-- ==== Sys2Proof/Machine/Islands.lean ====
section
/-! DEFINITION. Machine/Islands.lean: the safety islands, their inputs, groups and brake outputs (R297 to R325). -/
namespace Sys2Proof.Machine

/-! ### The sealed section (R316, R317) -/
def allZero (l : List Byte) (o n : Nat) : Bool := (slice l o n).all (fun b => b == 0)

/-- Reads the fields of a section. -/
def parseSeal (l : List Byte) : SealSec :=
  { id := leAt l 8 4
    si := (List.range 8).map (fun i =>
      let o := 0x10 + 8 * i
      { func := leAt l o 1, filt := leAt l (o + 1) 1, disc := leAt l (o + 2) 2, gmask := leAt l (o + 4) 1
        tpa := leAt l (o + 5) 1, tpb := leAt l (o + 6) 1, flags := leAt l (o + 7) 1 })
    grp := (List.range 8).map (fun g =>
      let o := 0x50 + 32 * g
      { tiles := leAt l o 2, mode := leAt l (o + 2) 1, port := leAt l (o + 3) 1, sbmask := leAt l (o + 4) 1
        sbdly := leAt l (o + 5) 1, rstin := leAt l (o + 6) 1, reqmask := leAt l (o + 7) 1, vzero := leAt l (o + 8) 4
        vtol := leAt l (o + 12) 4, dramp := leAt l (o + 16) 4, tdly := leAt l (o + 20) 2, tmax := leAt l (o + 22) 2
        spdtol := leAt l (o + 24) 4 })
    tpo := (List.range 4).map (fun j => (leAt l (0x150 + 4 * j) 1, leAt l (0x152 + 4 * j) 2))
    sboCrew := (List.range 8).map (fun b => leAt l (0x160 + b) 1)
    crewGrp := (List.range 32).map (fun n => leAt l (0x168 + n) 1)
    crc := crc32 (l.take 0x3FC) }

/-- SEAL is right. -/
def sealGood (l : List Byte) : Bool := leAt l 0x3FC 4 == crc32 (l.take 0x3FC)

/-- A test-pulse byte: enabled, on one of the two TPOs of its channel, with a filter longer than the pulse (R305). -/
def tpOk (c : SealSec) (i : SiCfg) (tp lo : Nat) : Bool :=
  tp % 128 / 4 == 0 &&
    (tp < 128 || (lo ≤ tp % 4 && tp % 4 < lo + 2 && (c.tpo.getD (tp % 4) (1, 10)).1 < i.filt * 5))

/-- Every field meets its range (R316, R317). -/
def sealRange (l : List Byte) (c : SealSec) : Bool :=
  leAt l 0 4 == 0x53465331 && leAt l 4 2 == 1 && allZero l 6 2 && allZero l 12 4 && allZero l 0x188 628 &&
  c.si.all (fun i => i.func ≤ 3 && 1 ≤ i.filt && i.filt ≤ 40 && 1 ≤ i.disc && i.disc ≤ 1000 &&
    (i.func != 3 || i.gmask == 0) && i.flags ≤ 1 && tpOk c i i.tpa 0 && tpOk c i i.tpb 2) &&
  (List.range 8).all (fun g => allZero l (0x50 + 32 * g + 28) 4) &&
  c.grp.all (fun g => g.mode ≤ 3 && (g.port ≤ 15 || g.port == 255) && g.sbdly ≤ 100 &&
    (g.rstin == 255 || (g.rstin ≤ 7 && (c.si.getD g.rstin {}).func == 3)) && 1 ≤ g.tmax && g.tmax ≤ 10000 &&
    (g.mode % 2 == 0 || g.port != 255)) &&
  (List.range 8).all (fun g => (List.range g).all (fun h =>
    (c.grp.getD g {}).tiles &&& (c.grp.getD h {}).tiles == 0)) &&
  (List.range 4).all (fun j => allZero l (0x151 + 4 * j) 1) &&
  c.tpo.all (fun t => 1 ≤ t.1 && t.1 ≤ 10 && 10 ≤ t.2 && t.2 ≤ 1000 && t.2 % 10 == 0) &&
  c.sboCrew.all (fun n => n ≤ 31 || n == 255) && c.crewGrp.all (fun g => g ≤ 7 || g == 255)

/-- Base of rig r in M0 and M1 (R22, R442). -/
def rigBase (m1 : Bool) (r : Nat) : Nat := (if m1 then 0x20800000 else 0x20000000) + 0x80000 * r

def State.sealBytes (s : State) (m1 : Bool) (r : Nat) : List Byte := s.bytes (rigBase m1 r + 0x7FC00) 1024

/-- The sealed section of rig r, or the fault code that refuses it (R317). -/
def State.takeSeal (s : State) (r : Nat) : SealSec ⊕ Nat :=
  let a := s.sealBytes false r
  let b := s.sealBytes true r
  if s.touchesUe (rigBase false r + 0x7FC00) 1024 || s.touchesUe (rigBase true r + 0x7FC00) 1024 ||
      !sealGood a || !sealGood b || a != b then .inr 0x070A
  else
    let c := parseSeal a
    if sealRange a c then .inl c else .inr 0x070B

/-! ### Mirrors -/
/-- Island states as SAFETY.ISL codes them. -/
abbrev iOFF : Nat := 0
abbrev iBOOT : Nat := 1
abbrev iACTIVE : Nat := 2
abbrev iLOAD : Nat := 3
abbrev iHALT : Nat := 4

def State.islSt (s : State) (b : Island) : Nat := s.get (if b then F.SAFETY_ISL_BST else F.SAFETY_ISL_AST)

/-- Group states (R313). -/
abbrev gsSTO : Nat := 0
abbrev gsWAITRST : Nat := 1
abbrev gsRELEASED : Nat := 2
abbrev gsSS1 : Nat := 3
abbrev gsFAULT : Nat := 4

/-- The island's STO output of a group is commanded high. -/
def IslGrp.high (x : IslGrp) : Bool := x.st == gsRELEASED || x.st == gsSS1

/-- The mirror of group g follows both islands. -/
def State.mirrorGrp (s : State) (g : Nat) : State :=
  let a := s.islA.grp g
  let b := s.islB.grp g
  let s := (s.put (F.SAFETY_GRP_STAT_ASTATE g) a.st).put (F.SAFETY_GRP_STAT_BSTATE g) b.st
  let s := (s.putB (F.SAFETY_GRP_STAT_STOA g) a.high).putB (F.SAFETY_GRP_STAT_STOB g) b.high
  let s := (s.putB (F.SAFETY_GRP_STAT_SBCPEND g) (a.sbPend || b.sbPend)).putB (F.SAFETY_GRP_STAT_NOTICE g) (a.notice || b.notice)
  s.put (F.SAFETY_GRP_STAT_CAUSE g) ((a.latch.head?.getD (b.latch.head?.getD 0)) % 16)

def State.mirrorSbo (s : State) : State :=
  loopN 8 (fun b s => (s.putB (F.SAFETY_SBO_A b) (s.islA.sbo.testBit b)).putB (F.SAFETY_SBO_B b) (s.islB.sbo.testBit b)) s

def State.setGrp (s : State) (b : Island) (g : Nat) (x : IslGrp) : State :=
  (s.setIsl b ((s.isl b).setGrp g x)).mirrorGrp g

/-- Latches an internal fault on group g in both islands (R310, R314); the table entry has the given instance. -/
def State.latchBoth (s : State) (g code : Nat) : State :=
  let put (b : Island) (s : State) : State :=
    let x := (s.isl b).grp g
    if x.latch.contains code then s else s.setGrp b g { x with latch := x.latch ++ [code] }
  put true (put false s)

/-! ### Safety inputs (R301 to R305, R312) -/
def State.siCfg (s : State) (i : Nat) : SiCfg :=
  match s.seal with
  | some c => c.si.getD i {}
  | none => {}

/-- A TPO with a readback fault feeds the input. -/
def State.siTpoFault (s : State) (i : Nat) : Bool :=
  let c := s.siCfg i
  (c.tpa ≥ 128 && s.bitAt F.SAFETY_MISC_TPOF (c.tpa % 4)) || (c.tpb ≥ 128 && s.bitAt F.SAFETY_MISC_TPOF (c.tpb % 4))

/-- DEMAND (R302 to R304). -/
def State.showDemand (s : State) (i : Nat) : State :=
  s.putB (F.SAFETY_SI_DEMAND i) (!s.bit (F.SAFETY_SI_AFILT i) || !s.bit (F.SAFETY_SI_BFILT i) ||
    s.bit (F.SAFETY_SI_DISC i) || s.bit (F.SAFETY_SI_TPFLT i) || s.siTpoFault i)

/-- A valid reset on input i clears the latched faults of the inputs of its groups (R303, R305). -/
def State.resetLatches (s : State) (i : Nat) : State :=
  match s.seal with
  | none => s
  | some c =>
    loopN 8 (fun j s =>
      let mine := j == i || (List.range 8).any (fun g => (c.si.getD j {}).gmask.testBit g && (c.grp.getD g {}).rstin == i)
      if mine && (s.si j).both then
        ((s.putB (F.SAFETY_SI_DISC j) false).putB (F.SAFETY_SI_TPFLT j) false).showDemand j
      else s) s

/-- The record of an input after its filtered channels came to `fa` and `fb` at `now` (R303, R312), and whether a valid reset
has come. `wasRun` says both channels ran before, `func` is the function of the input, `hold` its RSTHOLD: a reset is a run of
100 ms to 2 s of both channels that both leave. -/
def SiRec.filtered (r : SiRec) (fa fb wasRun hold : Bool) (func now : Nat) : SiRec × Bool :=
  let r := { r with disAt := if fa = fb then none else some (r.disAt.getD now) }
  let r := if fa && fb then { r with runAt := some (r.runAt.getD now), pulse := false }
    else if wasRun && func = 3 then
      let ok := match r.runAt with
        | some t => decide (t + 80000000 ≤ now) && decide (now ≤ t + 1600000000) && !hold
        | none => false
      { r with runAt := none, pulse := ok }
    else { r with runAt := none }
  let reset := !fa && !fb && r.pulse
  let r := if !fa && !fb then { r with both := true, pulse := false } else r
  (if reset then { r with rstA := true, rstB := true } else r, reset)

/-- The level asks for run: channel B of an input with ANTI is inverted (R297). -/
def State.siRun (s : State) (i : Nat) (b high : Bool) : Bool := if b then high != ((s.siCfg i).flags % 2 == 1) else high

/-- The raw state of a channel. -/
def State.siRaw (s : State) (i : Nat) (b run : Bool) : State :=
  s.putB (if b then F.SAFETY_SI_BRAW i else F.SAFETY_SI_ARAW i) run

/-- A filtered level of input i reaches channel A or B of its island (R301, R303, R312). -/
def State.siFilter (s : State) (i : Nat) (b high : Bool) : State :=
  let c := s.siCfg i
  let run := s.siRun i b high
  let wasRun := s.bit (F.SAFETY_SI_AFILT i) && s.bit (F.SAFETY_SI_BFILT i)
  let s := (s.siRaw i b run).putB (if b then F.SAFETY_SI_BFILT i else F.SAFETY_SI_AFILT i) run
  let fa := s.bit (F.SAFETY_SI_AFILT i)
  let fb := s.bit (F.SAFETY_SI_BFILT i)
  let (r, reset) := (s.si i).filtered fa fb wasRun (s.bit (F.SAFETY_SI_RSTHOLD i)) c.func s.now
  let s := s.setSi i r
  let s := if fa && fb then s else s.putB (F.SAFETY_SI_RSTHOLD i) false
  let s := s.showDemand i
  if reset then s.resetLatches i else s

/-- SI_FILTER_CHANGE (R301, R312): channel A or B of input i has held a level for `e.n` sampling periods of 50 µs. The raw state shows it; the filtered state follows once that makes FILT × 0.5 ms. -/
def execSiFilterChange (i : Oct) (b : Island) (e : Sampled) (s : State) : Out :=
  if s.islSt b ≠ iACTIVE then .next s
  else if e.n < 10 * (s.siCfg i).filt then .next (s.siRaw i b (s.siRun i b e.up))
  else .next (s.siFilter i b e.up)

/-- RESET_HELD (R312). -/
def execResetHeld (i : Oct) (s : State) : Out :=
  match (s.si i).runAt with
  | some t =>
    if (s.siCfg i).func = 3 && !s.bit (F.SAFETY_SI_RSTHOLD i) then
      let s := s.until (t + 1600000001)
      .next ((s.putB (F.SAFETY_SI_RSTHOLD i) true).fault 0x070D i)
    else .next s
  | none => .next s

/-- Latches a discrepancy or test-pulse fault: both channels must be seen in demand after it. -/
def State.latchSi (s : State) (i : Nat) (f : Fld) (code : Nat) : State :=
  let s := (s.putB f true).fault code i
  let s := s.setSi i { s.si i with both := !s.bit (F.SAFETY_SI_AFILT i) && !s.bit (F.SAFETY_SI_BFILT i) }
  s.showDemand i

/-- SI_DISCREP (R303): the channels have disagreed for longer than DISC. -/
def execSiDiscrep (i : Oct) (s : State) : Out :=
  match (s.si i).disAt with
  | some t =>
    if (s.siCfg i).func = 0 then .next s
    else .next ((s.until (t + (s.siCfg i).disc * msCounts + 1)).latchSi i (F.SAFETY_SI_DISC i) 0x0701)
  | none => .next s

/-- The sample 50 µs after a change of TPO j: `follows` says whether the readback shows the command (R304). -/
def State.tpoCheck (s : State) (j : Nat) (follows : Bool) : State :=
  let s := s.setBitAt F.SAFETY_MISC_TPOF j (!follows)
  let s := loopN 8 (fun i s => s.showDemand i) s
  if follows then s
  else
    let s := s.fault 0x0703 j
    match s.seal with
    | none => s
    | some c => loopN 8 (fun g s =>
        if c.si.any (fun i => i.gmask.testBit g && ((i.tpa == 128 + j) || (i.tpb == 128 + j))) then s.latchBoth g 0x0703 else s) s

/-- The island that drives TPO j (R297). -/
def tpoIsland (j : Nat) : Island := decide (2 ≤ j)

/-- TPW and TPP of TPO j (R316). -/
def State.tpoCfg (s : State) (j : Nat) : Option (Nat × Nat) := s.seal.map (fun c => c.tpo.getD j (1, 10))

/-- The start of the next pulse of TPO j, of period `tpp` ms: at the start of its slot. Frames of 10 ms start at multiples of
10 ms of the clock, and TPO j pulses in those whose number TPP / 10 divides (DESIGN CHOICE, assumption log 83). -/
def State.tpoStart (s : State) (j tpp : Nat) : Nat :=
  let o := j * 2000000
  nextMult (tpp * msCounts) (mget 0 s.tpoAt j - o) (s.now - o) + o

/-- A pulse of TPO j starts at t (R304, R305): the windows of the inputs wired through it open. -/
def State.tpoBegin (s : State) (j t : Nat) (follows : Bool) : State :=
  let s := s.until t
  let s := { s with tpoAt := mset 0 s.tpoAt j t }.setBitAt F.SAFETY_MISC_TPOACT j false
  let s := loopN 8 (fun i s =>
    let c := s.siCfg i
    if c.func ≠ 0 && (c.tpa = 128 + j || c.tpb = 128 + j) then
      (s.setSi i { s.si i with win := some (j, t) }).putB (F.SAFETY_SI_PULSE i) true
    else s) s
  s.tpoCheck j follows

/-- TPO_PULSE (R304, R305). -/
def execTpoPulse (j : Fin 4) (follows : Bool) (s : State) : Out :=
  match s.tpoCfg j with
  | none => .next s
  | some (_, tpp) =>
    if s.islSt (tpoIsland j) ≠ iACTIVE || !s.bitAt F.SAFETY_MISC_TPOACT j then .next s
    else .next (s.tpoBegin j (s.tpoStart j tpp) follows)

/-- TPO_PULSE_END (R304): TPW × 100 µs after its start. -/
def execTpoPulseEnd (j : Fin 4) (follows : Bool) (s : State) : Out :=
  if s.bitAt F.SAFETY_MISC_TPOACT j then .next s
  else
    let w := ((s.tpoCfg j).getD (1, 10)).1
    .next (((s.until (mget 0 s.tpoAt j + w * 80000)).setBitAt F.SAFETY_MISC_TPOACT j true).tpoCheck j follows)

/-- TEST_PULSE_WINDOW_END (R305): the channel has read low in `n` samples of the window, which ends TPW × 100 µs + 100 µs after
the start of the pulse. -/
def execTestPulseWindowEnd (i : Oct) (n : Nat) (s : State) : Out :=
  match (s.si i).win with
  | none => .next s
  | some (j, t) =>
    let w := ((s.tpoCfg j).getD (1, 10)).1
    let s := s.until (t + (w + 1) * 80000)
    let s := (s.setSi i { s.si i with win := none }).putB (F.SAFETY_SI_PULSE i) false
    if w ≤ n then .next s else .next (s.latchSi i (F.SAFETY_SI_TPFLT i) 0x0702)

/-! ### Brake outputs (R311) -/
/-- The functional line of brake output b asks for release. -/
def State.sboReq (s : State) (c : SealSec) (b : Nat) : Bool :=
  let n := c.sboCrew.getD b 255
  n == 255 || !s.bit (F.PROF_PSTAT_BRKOUT n)

/-- The brake outputs of an island follow its groups and the functional lines. -/
def State.sboEval (s : State) (isl : Island) : State :=
  let r := s.isl isl
  match r.sec with
  | none => (s.setIsl isl { r with sbo := 0 }).mirrorSbo
  | some c =>
    let s := loopN 8 (fun b s => s.putB (F.SAFETY_SBO_REQ b) (s.sboReq c b)) s
    let out := (List.range 8).foldl (fun m b =>
      let gs := (List.range 8).filter (fun g => (c.grp.getD g {}).sbmask.testBit b)
      let up := gs.all (fun g => (r.grp g).high)
      -- a delay of SBDLY only holds an output that is high
      let hold := gs.all (fun g => (r.grp g).high || (r.grp g).sbPend) && r.sbo.testBit b
      if !gs.isEmpty && (up || hold) && s.sboReq c b then m + 2 ^ b else m) 0
    (s.setIsl isl { r with sbo := out }).mirrorSbo

/-- The group's STO output goes low: SBC per R311. -/
def State.grpDown (s : State) (isl : Island) (g st : Nat) : State :=
  let x := (s.isl isl).grp g
  let dly := match (s.isl isl).sec with
    | some c => (c.grp.getD g {}).sbdly
    | none => 0
  let s := s.setGrp isl g { x with st := st, notice := false, sbPend := x.high && decide (0 < dly), sbAt := s.now, zero := 0 }
  s.sboEval isl

/-! ### The evaluation (R300, R309, R313, R314) -/
/-- R314: an output that differs from its island's command at two consecutive evaluations, and channels that differ for
more than 1 ms. -/
def State.readbacks (s : State) (isl : Island) (rb : Readback) : State :=
  let sto := if isl then rb.stoB else rb.stoA
  let sbo := if isl then rb.sboB else rb.sboA
  let s := loopN 8 (fun g s =>
    let x := (s.isl isl).grp g
    let bad := if sto.getLsbD g = x.high then 0 else x.bad + 1
    let s := s.setGrp isl g { x with bad := min 2 bad }
    let s := if bad = 2 then (s.fault 0x0704 g).latchBoth g 0x0704 else s
    if rb.stoA.getLsbD g = rb.stoB.getLsbD g then { s with stoDiff := s.stoDiff.filter (fun p => p.1 != g) }
    else
      match s.stoDiff.find? (fun p => p.1 == g) with
      | none => { s with stoDiff := s.stoDiff ++ [(g, s.now)] }
      | some (_, t) =>
        if t + msCounts < s.now && !((s.isl isl).grp g).latch.contains 0x0706 then (s.fault 0x0706 g).latchBoth g 0x0706 else s) s
  loopN 8 (fun b s =>
    let r := s.isl isl
    let bad := if sbo.getLsbD b = r.sbo.testBit b then 0 else mget 0 r.sboBad b + 1
    let s := s.setIsl isl { r with sboBad := mset 0 r.sboBad b (min 2 bad) }
    if bad = 2 then
      let s := (s.putB (F.SAFETY_SBO_FLT b) true).fault 0x0705 b
      match s.seal with
      | some c => loopN 8 (fun g s => if (c.grp.getD g {}).sbmask.testBit b then s.latchBoth g 0x0705 else s) s
      | none => s
    else s) s

/-- Inputs with function `f` in demand on group g. -/
def State.demands (s : State) (c : SealSec) (f g : Nat) : Bool :=
  (List.range 8).any (fun i => (c.si.getD i {}).func == f && (c.si.getD i {}).gmask.testBit g && s.bit (F.SAFETY_SI_DEMAND i))

/-- The latched cause has gone (R313). -/
def State.causeGone (s : State) (isl : Island) (g code : Nat) : Bool :=
  let r := s.isl isl
  match code with
  | 0x0703 => match r.sec with
    | some c => (List.range 8).all (fun i => !((c.si.getD i {}).gmask.testBit g && s.siTpoFault i))
    | none => true
  | 0x0704 => (r.grp g).bad == 0
  | 0x0705 => r.sboBad.all (fun p => p.2 == 0)
  | 0x0706 => s.stoDiff.all (fun p => p.1 != g)
  | 0x0707 => mget 0 s.spdDiff g == 0
  | 0x0709 => (r.grp g).speed.isSome
  | _ => true

/-- A demand or request is served: counted once, by the island that serves it first. -/
def State.served (s : State) (isl : Island) (g code inst : Nat) : State :=
  if ((s.isl (!isl)).grp g).high || s.islSt (!isl) ≠ iACTIVE then
    (s.incSat (F.SAFETY_GRP_DEMCNT_COUNT g)).fault code inst
  else s

/-- SS1 starts (R309): the speed is captured, the timer starts, the notice is raised. With MODE 1 an invalid speed ends it
at once. -/
def State.ss1Start (s : State) (isl : Island) (g : Nat) (cfg : GrpCfg) (thermal : Bool) : State :=
  let x := (s.isl isl).grp g
  if cfg.mode % 2 = 1 && x.speed.isNone then
    let s := s.fault 0x0709 g
    (s.setGrp isl g { x with latch := x.latch ++ [0x0709] }).grpDown isl g gsFAULT
  else
    let s := s.setGrp isl g { x with st := gsSS1, ss1At := s.now, v0 := x.speed.getD 0, thermal := thermal, zero := 0
                                     judged := true, notice := true }
    s.wr (R.SAFETY_GRP_SS1T g) 0

/-- TMAX of the SS1 that runs: a thermal one has at most 200 ms (R313). -/
def ss1Tmax (cfg : GrpCfg) (x : IslGrp) : Nat := if x.thermal then min cfg.tmax 200 else cfg.tmax

/-- v exceeds the envelope at `dt` counts after the start (R309), computed without rounding. -/
def beyondEnvelope (cfg : GrpCfg) (v0 v dt : Nat) : Bool :=
  let k : Nat := 65536 * msCounts
  let lim : Int := ((v0 + cfg.vtol) * k : Nat) - (cfg.dramp * (dt - cfg.tdly * msCounts) : Nat)
  let low : Int := ((cfg.vzero + cfg.vtol) * k : Nat)
  let lim := if dt < cfg.tdly * msCounts then (((v0 + cfg.vtol) * k : Nat) : Int) else lim
  decide (max lim low < ((v * k : Nat) : Int))

/-- SS1 in progress at an evaluation (R309). -/
def State.ss1Eval (s : State) (isl : Island) (g : Nat) (cfg : GrpCfg) : State :=
  let x := (s.isl isl).grp g
  let ms := (s.now - x.ss1At) / msCounts
  let s := s.put (F.SAFETY_GRP_SS1T_MS g) (min 65535 ms)
  let fail (code : Nat) (s : State) : State :=
    let s := s.fault code g
    (s.setGrp isl g { (s.isl isl).grp g with latch := ((s.isl isl).grp g).latch ++ [code], judged := true }).grpDown isl g gsFAULT
  if ss1Tmax cfg x ≤ ms then s.grpDown isl g gsSTO
  else if cfg.mode % 2 = 1 && !x.judged then
    match x.speed with
    | none => fail 0x0709 s
    | some v =>
      if beyondEnvelope cfg x.v0 v (x.winEnd - x.ss1At) then fail 0x0708 s
      else
        let z := if v ≤ cfg.vzero then x.zero + 1 else 0
        let s := s.setGrp isl g { x with judged := true, zero := z }
        if z ≥ 2 then s.grpDown isl g gsSTO else s
  else s

/-- One group in one island at an evaluation (R313). -/
def State.grpEval (s : State) (isl : Island) (c : SealSec) (g : Nat) : State :=
  let cfg := c.grp.getD g {}
  let x := (s.isl isl).grp g
  let sto := s.demands c 1 g
  let ss1 := s.demands c 2 g
  let flt := (List.range 8).any (fun i => (c.si.getD i {}).gmask.testBit g &&
    (s.bit (F.SAFETY_SI_DISC i) || s.bit (F.SAFETY_SI_TPFLT i)))
  let reset := cfg.rstin < 8 && (if isl then (s.si cfg.rstin).rstB else (s.si cfg.rstin).rstA)
  let r := s.isl isl
  let crews := (List.range 32).filter (fun n => c.crewGrp.getD n 255 == g)
  let guard := if cfg.reqmask.testBit 0 then
      crews.find? (fun n => s.bitAt F.SAFETY_GREQ_REQ n && !r.req.testBit n) else none
  let therm := cfg.reqmask.testBit 1 && s.bit F.SAFETY_MISC_THREQ && !r.thr
  let release (s : State) : State := s.setGrp isl g { (s.isl isl).grp g with st := gsRELEASED, latch := [], sbPend := false }
  if !x.latch.isEmpty && x.st ≠ gsFAULT then s.grpDown isl g gsFAULT
  else match x.st with
    | 0 => if sto || ss1 || flt then s else if cfg.mode.testBit 1 then s.setGrp isl g { x with st := gsWAITRST } else release s
    | 1 => if sto || ss1 || flt then s.setGrp isl g { x with st := gsSTO } else if reset then release s else s
    | 2 =>
      if sto then (s.served isl g 0x0710 g).grpDown isl g gsSTO
      else if ss1 || flt then (s.served isl g 0x0711 g).ss1Start isl g cfg false
      else match guard with
        | some n => (s.served isl g 0x0712 n).ss1Start isl g cfg false
        | none => if therm then (s.served isl g 0x0713 0).ss1Start isl g cfg true else s
    | 3 => if sto then (s.served isl g 0x0710 g).grpDown isl g gsSTO else s.ss1Eval isl g cfg
    | _ => if reset && !sto && !ss1 && !flt && x.latch.all (fun k => s.causeGone isl g k) then release s else s

/-- ISLAND_EVALUATION (R300, R313, R314): every 125 µs. -/
def execIslandEvaluation (isl : Island) (rb : Readback) (s : State) : Out :=
  if s.islSt isl ≠ iACTIVE then .next s
  else match (s.isl isl).sec with
    | none => .next s
    | some c =>
      let s := (s.until ((s.isl isl).evalAt + 100000)).readbacks isl rb
      let s := loopN 8 (fun g s => s.grpEval isl c g) s
      let s := s.sboEval isl
      let s := loopN 8 (fun i s => s.setSi i (if isl then { s.si i with rstB := false } else { s.si i with rstA := false })) s
      .next (s.setIsl isl { s.isl isl with req := s.get F.SAFETY_GREQ_REQ, thr := s.bit F.SAFETY_MISC_THREQ, evalAt := s.now })

/-- The speed an active island measures on a port in a window (R310); none is invalid. In a serial mode it takes the last good
positions of this window and the one before; without the latter the speed is invalid (DESIGN CHOICE, assumption log 84). -/
def State.islMeasure (s : State) (b : Island) (g port : Nat) (o : SpeedObs) : Option Nat :=
  if s.islSt b ≠ iACTIVE || o.line || o.ill then none
  else if s.posMode port = 1 then some o.diff.toInt.natAbs
  else
    match o.pos, ((s.isl b).grp g).lastPos with
    | some p, some q =>
      let len := wordFld (s.pos port).ser (F.POS_SER_LEN port)
      some (sextNat len ((p.toNat + 2 ^ 40 - q) % 2 ^ len)).natAbs
    | _, _ => none

/-- An active island takes the speed of group g for the window that has ended. -/
def State.islSpeed (s : State) (b : Island) (g : Nat) (v : Option Nat) (o : SpeedObs) : State :=
  if s.islSt b = iACTIVE then
    s.setGrp b g { (s.isl b).grp g with speed := v, judged := false, winEnd := s.now, lastPos := o.pos.map (·.toNat) }
  else s

/-- A speed as SAFETY.GRP.SPD shows it (R324). -/
def speedShow (v : Option Nat) : Nat := match v with
  | some w => min 0xFFFE w
  | none => 0xFFFF

/-- Two speeds differ by more than SPDTOL (R310). -/
def speedsDiffer (tol : Nat) (va vb : Option Nat) : Bool := match va, vb with
  | some a, some b => decide (tol < max a b - min a b)
  | _, _ => false

/-- The islands compare the speeds of a window: ten windows in a row that differ latch 0x0707 (R310). -/
def State.speedCompare (s : State) (g tol : Nat) (va vb : Option Nat) : State :=
  let k := if speedsDiffer tol va vb then mget 0 s.spdDiff g + 1 else 0
  let s := { s with spdDiff := mset 0 s.spdDiff g (min 10 k) }
  if k = 10 then (s.fault 0x0707 g).latchBoth g 0x0707 else s

/-- The end of a window of group g, measured on `port`. -/
def State.speedWindow (s : State) (g : Nat) (cfg : GrpCfg) (oa ob : SpeedObs) : State :=
  let va := s.islMeasure false g cfg.port oa
  let vb := s.islMeasure true g cfg.port ob
  let s := (s.islSpeed false g va oa).islSpeed true g vb ob
  let s := (s.put (F.SAFETY_GRP_SPD_A g) (speedShow va)).put (F.SAFETY_GRP_SPD_B g) (speedShow vb)
  s.speedCompare g cfg.spdtol va vb

/-- SPEED_WINDOW_END (R310): a window of 1 ms has ended, in which the islands saw `oa` and `ob`. The windows of both end at the
multiples of 1 ms of the clock (DESIGN CHOICE, assumption log 83). -/
def execSpeedWindowEnd (g : Oct) (oa ob : SpeedObs) (s : State) : Out :=
  match s.seal with
  | none => .next s
  | some c =>
    let cfg := c.grp.getD g {}
    if cfg.mode % 2 = 0 then .next s
    else .next ((s.until (nextMult msCounts (max (s.islA.grp g).winEnd (s.islB.grp g).winEnd) s.now)).speedWindow g cfg oa ob)

/-- SS1_TIMER_EXPIRY (R309). -/
def execSs1TimerExpiry (isl : Island) (g : Oct) (s : State) : Out :=
  match (s.isl isl).sec with
  | none => .next s
  | some c =>
    let x := (s.isl isl).grp g
    if x.st = gsSS1 then
      let t := ss1Tmax (c.grp.getD g {}) x
      let s := s.until (x.ss1At + t * msCounts)
      let s := s.put (F.SAFETY_GRP_SS1T_MS g) t
      .next (s.grpDown isl g gsSTO)
    else .next s

/-- SBC_DELAY_END (R311). -/
def execSbcDelayEnd (isl : Island) (g : Oct) (s : State) : Out :=
  let x := (s.isl isl).grp g
  if x.sbPend then
    let dly := match (s.isl isl).sec with
      | some c => (c.grp.getD g {}).sbdly
      | none => 0
    .next (((s.until (x.sbAt + dly * 10 * msCounts)).setGrp isl g { x with sbPend := false }).sboEval isl)
  else .next s

/-- STO_TEST_PULSE (R315): `seen` says whether the readback showed the pulse. Channel A pulses at multiples of 100 ms of the
clock, channel B 50 ms after it (DESIGN CHOICE, assumption log 83). -/
def execStoTestPulse (isl : Island) (g : Oct) (seen : Bool) (s : State) : Out :=
  let x := (s.isl isl).grp g
  if s.islSt isl = iACTIVE && x.high then
    let o := if isl then 40000000 else 0
    let t := nextMult 80000000 (x.pulseAt - o) (s.now - o) + o
    let s := (s.until t).setGrp isl g { x with pulseAt := t }
    if seen then .next s else .next ((s.fault 0x0704 g).latchBoth g 0x0704)
  else .next s

/-- SBO_TEST_PULSE (R315): at multiples of 1 s of the clock (DESIGN CHOICE, assumption log 83). -/
def execSboTestPulse (isl : Island) (b : Oct) (seen : Bool) (s : State) : Out :=
  let r := s.isl isl
  if s.islSt isl = iACTIVE && r.sbo.testBit b then
    let t := nextMult 800000000 (mget 0 r.sboAt b) s.now
    let s := (s.until t).setIsl isl { r with sboAt := mset 0 r.sboAt b t }
    if seen then .next s
    else
      let s := (s.putB (F.SAFETY_SBO_FLT b) true).fault 0x0705 b
      match s.seal with
      | some c => .next (loopN 8 (fun g s => if (c.grp.getD g {}).sbmask.testBit b then s.latchBoth g 0x0705 else s) s)
      | none => .next s
  else .next s

/-! ### Start and reload (R299, R317, R318) -/
/-- The island's outputs are low: every group in STO, every brake set. -/
def State.islLow (s : State) (isl : Island) : State :=
  let s := s.setIsl isl { (s.isl isl) with grps := [], sbo := 0, sboBad := [] }
  (loopN 8 (fun g s => s.mirrorGrp g) s).mirrorSbo

def State.setIslSt (s : State) (isl : Island) (st : Nat) : State :=
  s.put (if isl then F.SAFETY_ISL_BST else F.SAFETY_ISL_AST) st

/-- The island's domain goes off, or it is reset (R298). -/
def State.islOff (s : State) (isl : Island) : State :=
  let s := s.setIsl isl {}
  let s := s.putB (if isl then F.SAFETY_ISL_PB_OK else F.SAFETY_ISL_PA_OK) false
  (s.islLow isl).setIslSt isl iOFF

/-- The island takes the sealed section of rig r (R317): every group enters STO. -/
def State.islTake (s : State) (isl : Island) (r : Nat) : State :=
  let ok (s : State) (b : Bool) : State := s.putB (if isl then F.SAFETY_ISL_PB_OK else F.SAFETY_ISL_PA_OK) b
  let s := s.wr (if isl then R.SAFETY_CRC_B else R.SAFETY_CRC_A)
    (BitVec.ofNat 32 (crc32 ((s.sealBytes isl r).take 0x3FC)))
  match s.takeSeal r with
  | .inl c =>
    let s := (s.setIsl isl { s.isl isl with sec := some c }).islLow isl
    let s := s.wr R.SAFETY_PID (BitVec.ofNat 32 c.id)
    loopN 8 (fun i s => s.showDemand i) (ok s true)
  | .inr code =>
    let s := (s.setIsl isl { s.isl isl with sec := none }).islLow isl
    (ok s false).fault code isl.toNat

/-- ISLAND_START (R299): the domain has come on. -/
def execIslandStart (isl : Island) (s : State) : Out :=
  if s.domainRun (if isl then 2 else 1) && s.islSt isl = iOFF then .next ((s.islLow isl).setIslSt isl iBOOT)
  else .next s

/-- ISLAND_START_COMPLETE (R299): the result of the self-test; then the sealed section is taken. -/
def execIslandStartComplete (isl : Island) (pass : Bool) (s : State) : Out :=
  if s.islSt isl ≠ iBOOT then .next s
  else if !pass then .next ((s.setIslSt isl iHALT).fault 0x070C isl.toNat)
  else
    let s := (s.setIslSt isl iACTIVE).setIsl isl { s.isl isl with evalAt := s.now }
    match s.rigSel with
    | some r => .next (s.islTake isl r)
    | none => .next s

end Sys2Proof.Machine
end

