-- ==== Sys2Proof/Machine/MaintOps.lean ====
section
/-! DEFINITION. Machine/MaintOps.lean: the maintenance lock and non-urgent MRAM chunks (R475, R476, R481 to R483). -/
namespace Sys2Proof.Machine

/-- Device-wide activity (R481). -/
def MaintReq.device (r : MaintReq) : Bool := r.act < 16

/-- Two activities conflict (R482). -/
def maintConflict (a b : MaintReq) : Bool :=
  (a.device && b.device) || (!a.device && !b.device && a.crew == b.crew) || pair a b || pair b a
where
  pair (d c : MaintReq) : Bool := d.device && !c.device && (d.act == 7 || (d.act == 3 && c.act == 17))

/-- Crews of the running activities of a code, as a bit mask. -/
def State.lockMask (s : State) (a : Nat) : Nat := (s.maintRun.filter (fun r => r.act == a)).foldl (fun m r => natBit m r.crew true) 0

/-- The running device-wide activity, 0 with none. -/
def State.lockDev (s : State) : Nat := ((s.maintRun.find? MaintReq.device).map (·.act)).getD 0

/-- Entry k of the queue as it shows. -/
def showLockQ (l : List MaintReq) (s : State) (k : Nat) : State :=
  match l[k]? with
  | some r => ((s.putB (F.COX_LOCK_Q_VALID k) true).put (F.COX_LOCK_Q_CREW k) r.crew).put (F.COX_LOCK_Q_ACT k) r.act
  | none => s.wr (R.COX_LOCK_Q k) 0

/-- COX.LOCK registers (R500). -/
def State.showLock (s : State) : State :=
  (List.range 4).foldl (showLockQ s.maintQ)
    (((s.put F.COX_LOCK_DEV_ACT s.lockDev).put F.COX_LOCK_DIAG_CREWS (s.lockMask 16)).put F.COX_LOCK_CAL_CREWS (s.lockMask 17))

/-- An activity starts; it is logged with KIND 5 (R483). -/
def State.maintStart (s : State) (r : MaintReq) : State :=
  let s := match r.src with
    | .mbox p => s.put (F.MBOX_RSP_RESULT p) 1
    | _ => s
  ({ s with maintRun := s.maintRun ++ [r] }.logRec 5 r.act r.crew 0).showLock

/-- What the lock answers to a request (R483). -/
inductive MaintAns where
  | started | queued | refused | dup
  deriving DecidableEq, Repr

/-- A request at the lock. -/
def State.maintSubmit (s : State) (r : MaintReq) : MaintAns × State :=
  let all := s.maintRun ++ s.maintQ
  if all.any (fun x => x.act == r.act && x.crew == r.crew) then (.dup, s)
  else if !all.any (maintConflict r) then (.started, s.maintStart r)
  else if s.maintQ.length < 4 then (.queued, { s with maintQ := s.maintQ ++ [r] }.showLock)
  else (.refused, s)

/-- Queued requests that conflict with no running activity and no older request still queued start, oldest first. -/
def State.maintScan (s : State) : State :=
  let q := s.maintQ
  let s := { s with maintQ := [] }
  (q.foldl (fun (s : State) r =>
    if (s.maintRun ++ s.maintQ).any (maintConflict r) then { s with maintQ := s.maintQ ++ [r] } else s.maintStart r) s).showLock

/-- The running activity of a code that has not begun its work. -/
def State.maintReady (s : State) (act : Nat) : Option MaintReq := s.maintRun.find? (fun r => r.act == act && !r.began)

def State.maintSet (s : State) (act crew : Nat) (f : MaintReq → MaintReq) : State :=
  { s with maintRun := s.maintRun.map (fun r => if r.act = act && r.crew = crew then f r else r) }

/-- Cuts data into chunks of up to 512 bytes (R476). -/
def cutChunks (owner : Nat) : Nat → Nat → List Byte → List ChunkRec
  | 0, _, _ => []
  | _, _, [] => []
  | n + 1, a, l => { addr := a, data := l.take 512, owner := owner } :: cutChunks owner n (a + 512) (l.drop 512)

def State.addChunks (s : State) (owner addr : Nat) (l : List Byte) : State :=
  { s with chunks := s.chunks ++ cutChunks owner (l.length / 512 + 1) addr l }

/-- The MRAM write window shows in three registers (R475). -/
def State.setWindow (s : State) (b : Bool) : State :=
  ((s.putB F.MASTER_JSTAT_WIN b).putB F.NVM_STAT_WIN b).putB F.HK_STAT_WIN b

/-- One request of journal compaction by the journal controller, while FREE is below 128 (R481). -/
def State.askCompaction (s : State) : State :=
  if s.get F.MASTER_JSTAT_FREE < 128 && s.epochOpen then (s.maintSubmit { act := 4 }).2 else s

end Sys2Proof.Machine
end

