-- ==== Sys2Proof/Machine/Ring.lean ====
section
/-! DEFINITION. Machine/Ring.lean: ring ports, HSR, the egress ports, bypass, MDIO, launch-time queues and seam frames
(R368 to R381, R393 to R401). -/
namespace Sys2Proof.Machine

/-! ### Time as a fine integer, and the timestamps of a port -/
/-- A time in units of 2^−32 ns. -/
def TimeVal.fine (t : TimeVal) : Int := Int.ofNat (t.toNs * 2 ^ 32 + t.frac)

/-- A time value from units of 2^−32 ns. A time before 0 is taken as 0: the spec gives none (DESIGN CHOICE, assumption log 74). -/
def TimeVal.ofFine (z : Int) : TimeVal :=
  let n := z.toNat
  { sec := n / 2 ^ 32 / 1000000000 % 2 ^ 48, ns := n / 2 ^ 32 % 1000000000, frac := n % 2 ^ 32 }

def ptpFine (t : PtpTime) : Int := Int.ofNat ((t.sec.toNat * 1000000000 + t.ns.toNat) * 2 ^ 32)

/-- A correction of 2^−16 ns. -/
def corrFine (c : BitVec 64) : Int := c.toInt * 2 ^ 16

/-- Receive and send timestamps of a port, now (R382): resolution 0.25 ns, corrected by TSCOR. -/
def State.rxStamp (s : State) (p : Nat) : Int :=
  s.ctime.fine / 2 ^ 30 * 2 ^ 30 - s.getI (F.RING_PORT_TSCOR_RX p) * 2 ^ 28
def State.txStamp (s : State) (p : Nat) : Int :=
  s.ctime.fine / 2 ^ 30 * 2 ^ 30 + s.getI (F.RING_PORT_TSCOR_TX p) * 2 ^ 28

/-- Mean link delay of a port. -/
def State.pdlyFine (s : State) (p : Nat) : Int := Int.ofNat (s.get (F.RING_PORT_PDLY_D p) * 2 ^ 28)

def State.ptpPort (s : State) (p : Nat) : PtpPort := if p = 0 then s.clock.p0 else s.clock.p1
def State.setPtpPort (s : State) (p : Nat) (v : PtpPort) : State :=
  if p = 0 then { s with clock := { s.clock with p0 := v } } else { s with clock := { s.clock with p1 := v } }

/-! ### Egress ports -/
def State.egress (s : State) (p : Nat) : EgressRec := if p = 0 then s.ring.eg0 else s.ring.eg1
def State.setEgress (s : State) (p : Nat) (e : EgressRec) : State :=
  if p = 0 then { s with ring := { s.ring with eg0 := e } } else { s with ring := { s.ring with eg1 := e } }

def State.ringEn (s : State) : Bool := s.bit F.RING_CFG_EN
def State.ringLink (s : State) (p : Nat) : Bool := s.bit (F.RING_PORT_STAT_LINK p)

/-- Own MAC (R372). -/
def State.ownMac (s : State) : Nat := s.get F.RING_MAC_L_MAC + 2 ^ 32 * s.get F.RING_MAC_H_MAC

/-- Six octets of an address, octet 0 first. -/
def macBytes (m : Nat) : List Byte := leBytes 6 m

/-- A frame with its HSR tag, from the destination to the payload. The order of the tag's fields and its LSDU size are
IEC 62439-3's (PRESUMED, assumption log 6). -/
def hsrFrame (dst src path seq etype : Nat) (payload : List Byte) : List Byte :=
  macBytes dst ++ macBytes src ++ beBytes 2 0x892F ++ beBytes 2 (path % 16 * 4096 + (payload.length + 6) % 4096) ++
    beBytes 2 seq ++ beBytes 2 etype ++ payload

/-- Bytes on the wire: FCS, preamble and gap added; a PTP frame counts 64. -/
def TxFrame.wire (f : TxFrame) : Nat := (if f.ptp.isSome then 64 else max 60 f.bytes.length + 4) + 20

/-- Bytes that the forwarding buffer holds of a class. -/
def EgressRec.held (e : EgressRec) (express : Bool) : Nat :=
  (e.wait.filter (fun f => f.express == express)).foldl (fun n f => n + f.wire) 0

/-- Queues a frame at egress port p: lost without link (R374); a bulk frame that does not fit beside the reserved 2 KB is
dropped with fault 0x0906 (R376). -/
def State.egressPut (s : State) (p : Nat) (f : TxFrame) : State :=
  if !s.ringEn || !s.ringLink p then s
  else
    let e := s.egress p
    if !f.express && e.held false + f.wire > 14336 then (s.incSat (F.RING_PORT_FWDDROP_COUNT p)).fault 0x0906 p
    else s.setEgress p { e with wait := e.wait ++ [f] }

/-- Time on the line in counts of 1.25 ns (R368, R377). -/
def State.lineTime (s : State) (n : Nat) : Nat := if s.bit F.RING_CFG_SPEED then (n * 64 + 24) / 25 else (n * 32 + 4) / 5

/-- The correction that a forwarded Sync takes at its start of frame at port p, in 2^−16 ns: the residence between its two
timestamps and the link delay of the ingress port, scaled by the neighbour rate ratio (R384). -/
def State.ptpAdd (s : State) (p : Nat) (x : PtpTx) : Int :=
  match x.rx with
  | some (t, link, ppb) => (s.txStamp p - t + link) * (1000000000 + ppb) / 1000000000 / 2 ^ 16
  | none => 0

/-- A PTP frame as it leaves port p (R384): a one-step Sync is corrected in flight, and a Follow_Up takes the correction of the
two-step Sync it belongs to. -/
def State.ptpOut (s : State) (p : Nat) (x : PtpTx) : PtpTx :=
  if x.own then x
  else if x.kind = 0 && !x.two then { x with corr := x.corr + s.ptpAdd p x }
  else if x.kind = 8 then
    match (s.ptpPort p).fwd with
    | some (d, id, q, c) => if d = x.dom && id = x.sender && q = x.seq then { x with corr := x.corr + c } else x
    | none => x
  else x

/-- What the start of a PTP frame at port p leads to: the send time of an own Pdelay_Req is t1 (R385); an own Sync and an own
Pdelay_Resp are followed by the message that carries their send time (R383); the correction of a forwarded two-step Sync is
kept for its Follow_Up (R384). -/
def State.ptpStarted (s : State) (p : Nat) (x : PtpTx) : State :=
  let t := s.txStamp p
  let v := TimeVal.ofFine t
  let r := s.ptpPort p
  if !x.own then
    if x.kind = 0 && x.two then s.setPtpPort p { r with fwd := some (x.dom, x.sender, x.seq, s.ptpAdd p x) } else s
  else if x.kind = 2 then
    match r.req with
    | some (q, a, _) => if q = x.seq then s.setPtpPort p { r with req := some (q, a, t) } else s
    | none => s
  else if x.kind = 0 then s.egressPut p { express := true, ptp := some { kind := 8, seq := x.seq, corr := 0, sec := v.sec, ns := v.ns } }
  else if x.kind = 3 then s.egressPut p { express := true, ptp := some { kind := 0xA, seq := x.seq, corr := 0, sec := v.sec, ns := v.ns } }
  else s

/-- A frame starts at egress port p. -/
def State.egressStart (s : State) (p : Nat) (f : TxFrame) : State :=
  let f := { f with ptp := f.ptp.map (s.ptpOut p) }
  let s := s.setEgress p { s.egress p with busy := s.now + s.lineTime f.wire, last := some f }
  let s := s.incSat (F.RING_PORT_TXCNT_COUNT p)
  match f.ptp with
  | some x => s.ptpStarted p x
  | none => s

/-- Counts since the protected window last opened (R377). -/
def State.winPhase (s : State) : Nat :=
  let per := max 1 (s.get F.RING_WPER_PER)
  (s.ctime.counts + per - s.get F.RING_WOFS_OFS % per) % per

/-- A bulk frame may start: outside the window, and over before the next one opens (R377). -/
def State.bulkMayStart (s : State) (f : TxFrame) : Bool :=
  if !s.bit F.RING_WIN_EN then true
  else
    let per := max 1 (s.get F.RING_WPER_PER)
    !s.ring.winOpen && s.winPhase ≥ s.get F.RING_WLEN_LEN && s.winPhase + s.lineTime f.wire ≤ per

/-- The instant at which the next waiting frame can start: the line is free and a frame's residence is over (R376). -/
def EgressRec.startAt (e : EgressRec) : Nat :=
  match e.wait with
  | [] => e.busy
  | f :: r => max e.busy (r.foldl (fun m g => min m g.at0) f.at0)

/-- The frame that starts at port p now: a waiting express frame, else the oldest bulk frame if it may start (R375). -/
def State.egressPick (s : State) (p : Nat) : Option TxFrame :=
  let w := (s.egress p).wait.filter (fun f => f.at0 ≤ s.now)
  match w.find? (·.express) with
  | some f => some f
  | none => w.head?.filter s.bulkMayStart

/-- EGRESS_FRAME_START (R375, R376). -/
def execEgressFrameStart (p : RingPort) (s : State) : Out :=
  if !s.ringEn || !s.ringLink p || !s.bit (F.RING_PORT_CTL_TXEN p) then .next s
  else
    let u := s.until (s.egress p).startAt
    match u.egressPick p with
    | some f => .next ((u.setEgress p { u.egress p with wait := (u.egress p).wait.erase f }).egressStart p f)
    | none => .next s

/-- The residence of a frame that finds its egress port idle, in counts: a free value within R376's limits. -/
def State.residence (s : State) : Nat × State := if s.bit F.RING_CFG_SPEED then s.freeIn 96 128 else s.freeIn 192 256

/-- Sends an own frame on both ports with one HSR sequence number. -/
def State.ringSend (s : State) (express : Bool) (dst etype : Nat) (payload : List Byte) : State :=
  let q := s.ring.seq
  let s := { s with ring := { s.ring with seq := (q + 1) % 65536 } }
  loopN 2 (fun p s => s.egressPut p { express := express, bytes := hsrFrame dst s.ownMac p q etype payload }) s

/-! ### Reception (R372) -/
/-- Counts of 1.25 ns in 400 ms. -/
abbrev dupForget : Nat := 400 * msCounts

/-- A frame on port p: whether it is delivered, and its forwarding. The duplicate table serves the frames delivered here; a
second copy of one is discarded (assumption log 7). -/
def State.ringRx (s : State) (p : Nat) (express : Bool) (f : RingFrame) : Bool × State :=
  if !s.ringEn || !s.ringLink p then (false, s)
  else if !f.good then (false, s.incSat (F.RING_PORT_RXERR_COUNT p))
  else
    let s := s.incSat (F.RING_PORT_RXCNT_COUNT p)
    let own := s.ownMac
    let multi := f.dst.getLsbD 0
    if f.src.toNat = own then (false, s)
    else if f.dst.toNat = own || multi then
      let dups := s.ring.dups.filter (fun d => s.now < d.at0 + dupForget)
      if dups.any (fun d => d.mac == f.src.toNat && d.seq == f.seq.toNat) then
        (false, s.incSat (F.RING_PORT_DUPCNT_COUNT p))
      else
        let s := { s with ring := { s.ring with
          dups := (({ mac := f.src.toNat, seq := f.seq.toNat, at0 := s.now } : DupRec) :: dups).take 2048 } }
        (true, if multi then fwd s else s)
    else (false, fwd s)
where
  /-- The frame goes on, unchanged, at the other port. -/
  fwd (s : State) : State :=
    let (d, s) := s.residence
    s.egressPut (1 - p) { express := express, at0 := s.now + d
                          bytes := hsrFrame f.dst.toNat f.src.toNat f.path.toNat f.seq.toNat f.etype.toNat f.payload }

/-- RING_FRAME: no rule gives a delivered ordinary frame a further effect. -/
def execRingFrame (p : RingPort) (f : RingFrame) (s : State) : Out := .next (s.ringRx p false f).2

/-! ### Supervision and the node table (R371, R373) -/
/-- Six seconds, three LifeCheckIntervals. -/
abbrev heardFor : Nat := 6000 * msCounts

def State.setNodes (s : State) (l : List HsrNode) : State :=
  { s with ring := { s.ring with nodes := l } }.put F.RING_STAT_NODES l.length

/-- Heard on both ports within 6 s. -/
def HsrNode.both (n : HsrNode) (now : Nat) : Bool := now < n.seenA + heardFor && now < n.seenB + heardFor

/-- A supervision frame that came on port p and names `m` (R371 to R373): the own address is a clash; another node is seen on
that port; with 1,024 nodes known, one more enters fault 0x0905. -/
def State.supHeard (s : State) (p m : Nat) : State :=
  let own := s.ownMac
  let s := if m = own then (s.putB F.RING_STAT_CLASH true).fault 0x0907 0 else s
  let l := s.ring.nodes
  let s :=
    if m = own then s
    else if l.any (fun n => n.mac == m) then
      s.setNodes (l.map (fun n =>
        if n.mac = m then (if p = 0 then { n with seenA := s.now } else { n with seenB := s.now }) else n))
    else if l.length ≥ 1024 then s.fault 0x0905 0
    else s.setNodes (l ++ [{ mac := m, seenA := s.now, seenB := s.now }])
  if s.ring.nodes.all (fun n => n.both s.now) then s.putB F.RING_STAT_BROKEN false else s

/-- SUPERVISION_FRAME that names `named` (R373). -/
def execSupervisionFrame (p : RingPort) (f : RingFrame) (named : BitVec 48) (s : State) : Out :=
  if !s.ringEn || !s.ringLink p || !f.good || f.src.toNat = s.ownMac then .next (s.ringRx p false f).2
  else .next ((s.ringRx p false f).2.supHeard p named.toNat)

/-- SUPERVISION_SEND: every 2 s on both ports. The payload is IEC 62439-3's (PRESUMED, assumption log 6). -/
def execSupervisionSend (s : State) : Out :=
  if !s.ringEn then .next s
  else
    let s := s.until (s.ring.supAt + 2000 * msCounts)
    -- under throttle the frame waits for the pause (R473)
    let at0 := s.now
    let s := if s.get F.HK_STAT_LEVEL ≥ 2 then s.advance (s.get F.HK_THR_PAUSE * 800) else s
    let q := s.ring.supSeq
    let s := { s with ring := { s.ring with supAt := at0, supSeq := (q + 1) % 65536 } }
    .next (s.ringSend false 0x0001004E1501 0x88FB
      (beBytes 2 1 ++ beBytes 2 q ++ [23, 6] ++ macBytes s.ownMac ++ [0, 0]))

/-- Heard on one port only for 6 s. -/
def HsrNode.oneSided (n : HsrNode) (now : Nat) : Bool := (now < n.seenA + heardFor) != (now < n.seenB + heardFor)

/-- The instants at which nodes become one-sided, of those to come. -/
def State.brokenDues (s : State) : List Nat :=
  (s.ring.nodes.filter (fun n => n.seenA != n.seenB && s.now < min n.seenA n.seenB + heardFor)).map
    (fun n => min n.seenA n.seenB + heardFor)

/-- Time passes up to the earliest of some instants. -/
def State.untilFirst (s : State) (l : List Nat) : State :=
  match l with
  | [] => s
  | d :: r => s.until (r.foldl min d)

/-- RING_BROKEN: some node has been heard on one port only for 6 s. -/
def execRingBroken (s : State) : Out :=
  if s.bit F.RING_STAT_BROKEN then .next s
  else
    let u := if s.ring.nodes.any (fun n => n.oneSided s.now) then s else s.untilFirst s.brokenDues
    if u.ring.nodes.any (fun n => n.oneSided u.now) then
      .next (((u.putB F.RING_STAT_BROKEN true).raise F.RING_EVT_BROKEN).fault 0x0902 0)
    else .next s

/-- `now` at which a node is forgotten. -/
def HsrNode.forgetAt (n : HsrNode) : Nat := max n.seenA n.seenB + 60000 * msCounts

/-- NODE_FORGET: nodes not heard for 60 s leave the table; the first of them sets the instant. -/
def execNodeForget (s : State) : Out :=
  let s := s.untilFirst (s.ring.nodes.map HsrNode.forgetAt)
  .next (s.setNodes (s.ring.nodes.filter (fun n => s.now < n.forgetAt)))

/-- RING_LINK_CHANGE (R374). -/
def execRingLinkChange (p : RingPort) (up : Bool) (s : State) : Out :=
  if !s.ringEn || s.ringLink p == up then .next s
  else
    let s := (s.putB (F.RING_PORT_STAT_LINK p) up).putB (F.RING_PORT_STAT_PCS p) up
    let s := if p.val = 0 then (s.putB F.RING_STAT_LNKA up).raise F.RING_EVT_LINKA
      else (s.putB F.RING_STAT_LNKB up).raise F.RING_EVT_LINKB
    .next (if up then s else (s.setEgress p { s.egress p with wait := [] }).fault 0x0901 p)

/-! ### The protected window (R377) -/
def execProtectedWindowOpen (s : State) : Out :=
  if !s.ringEn || !s.bit F.RING_WIN_EN || s.ring.winOpen then .next s
  else
    let per := max 1 (s.get F.RING_WPER_PER)
    let s := if s.winPhase < s.get F.RING_WLEN_LEN then s else s.advance (per - s.winPhase)
    .next { s with ring := { s.ring with winOpen := true } }

def execProtectedWindowClose (s : State) : Out :=
  if !s.ring.winOpen then .next s
  else
    let l := s.get F.RING_WLEN_LEN
    let s := if s.winPhase < l then s.advance (l - s.winPhase) else s
    .next { s with ring := { s.ring with winOpen := false } }

/-! ### PHYs and MDIO (R369, R370) -/
def execPhyrstnWrite (p : RingPort) (v : Bool) (s : State) : Out := s.onReg (R.RING_PORT_CTL p) fun s =>
  .next (s.putB (F.RING_PORT_CTL_PHYRSTN p) v)
def execTxenWrite (p : RingPort) (v : Bool) (s : State) : Out := s.onReg (R.RING_PORT_CTL p) fun s =>
  .next (s.putB (F.RING_PORT_CTL_TXEN p) v)

/-- PHYRST_N of port p, high where true: low while PD5 is off or in reset, and until CTL.PHYRSTN is 1 (R369). -/
def State.phyrstN (s : State) (p : Nat) : Bool := s.domainRun 5 && s.rstBy.isEmpty && s.bit (F.RING_PORT_CTL_PHYRSTN p)

/-- Counts that an MDIO operation takes: a frame of 64 MDC periods of 2·(DIV + 1)/400 MHz (R370; the 32 bits of preamble and 32
of frame are IEEE 802.3's, PRESUMED, assumption log 86). -/
def State.mdioTime (s : State) : Nat := 64 * (4 * (s.get F.RING_MDC_DIV + 1))

/-- A write of RING.MDIO_CMD. -/
def State.mdioWrite (s : State) (v : Word) : State :=
  if s.bit F.RING_MDIO_STAT_BUSY then s
  else
    let s := s.wr R.RING_MDIO_CMD (v &&& 0x73FFFFFF#32)
    if v.getLsbD 31 then { s.putB F.RING_MDIO_STAT_BUSY true with
      ring := { (s.putB F.RING_MDIO_STAT_BUSY true).ring with mdioAt := s.now } } else s

def execMdioOperation (v : Word) (s : State) : Out := s.onRegW R.RING_MDIO_CMD v fun v s =>
  .next (s.mdioWrite v)

/-- MDIO_COMPLETE with the word read and whether the PHY drove the turnaround bit low. -/
def execMdioComplete (data : BitVec 16) (ack : Bool) (s : State) : Out :=
  if !s.bit F.RING_MDIO_STAT_BUSY then .next s
  else
    let s := (s.until (s.ring.mdioAt + s.mdioTime)).putB F.RING_MDIO_STAT_BUSY false
    let op := s.get F.RING_MDIO_CMD_OP
    if op = 2 || (op = 3 && s.bit F.RING_MDIO_CMD_C45) then
      if ack then .next (s.put F.RING_MDIO_STAT_RDATA data.toNat)
      else .next (((s.put F.RING_MDIO_STAT_RDATA 0xFFFF).raise F.RING_MDIO_STAT_NOACK).fault 0x0904
        (s.get F.RING_MDIO_CMD_PHYAD))
    else .next s

/-! ### Bypass (R378 to R381) -/
/-- BYP_SENSE against BYP_HOLD: when the difference began, and MISMATCH cleared where they agree (R379). -/
def State.bypCheck (s : State) : State :=
  if s.bit F.RING_BYP_SENSE == s.bit F.RING_BYP_HOLD then
    { s with ring := { s.ring with bypDiff := none } }.putB F.RING_BYP_MISMATCH false
  else if s.ring.bypDiff.isNone then { s with ring := { s.ring with bypDiff := some s.now } }
  else s

def State.setHold (s : State) (b : Bool) : State := (s.putB F.RING_BYP_HOLD b).bypCheck

/-- The device is in Rest or its VAON is absent, in reset, or not: nothing then holds the bypass closed but INSERT. -/
def State.bypAllowed (s : State) : Bool := s.powered && s.rstBy.isEmpty && !s.inRest

/-- A leave announcement (R381, R397): reason 1 Rest entry, 2 LEAVE write. -/
def State.sendLeave (s : State) (reason : Nat) : State :=
  let dst := s.get F.RING_SEAMDA_DA + 2 ^ 32 * 0xFFFF
  s.ringSend true dst (s.get F.RING_CFG_RETYPE) ([2, 1] ++ leBytes 1 reason ++ [0] ++ s.ltime.bytes12)

/-- A write of RING.BYP.INSERT. -/
def State.bypInsert (s : State) (v : Bool) : State :=
  let s := s.putB F.RING_BYP_INSERT v
  -- during a Rest entry the line does not rise any more (R378)
  if v then s.setHold (s.bypAllowed && (s.get F.AON_PWRSTAT_STATE ≠ 4 || s.bit F.RING_BYP_HOLD))
  else { s with ring := { s.ring with leaveAt := none } }.setHold false

def execBypInsertWrite (v : Bool) (s : State) : Out := s.onReg R.RING_BYP fun s =>
  .next (s.bypInsert v)

/-- A write of 1 to RING.BYP.LEAVE. -/
def State.bypLeave (s : State) : State :=
  if s.ring.leaveAt.isSome then s
  else { s.sendLeave 2 with ring := { (s.sendLeave 2).ring with leaveAt := some s.now } }.putB F.RING_BYP_INSERT false

def execBypLeaveWrite (s : State) : Out := s.onReg R.RING_BYP fun s =>
  .next s.bypLeave

/-- LEAVE_EXPIRY: 5 ms after the announcement. -/
def execLeaveExpiry (s : State) : Out :=
  match s.ring.leaveAt with
  | none => .next s
  | some t =>
    let s := s.until (t + 5 * msCounts)
    .next (({ s with ring := { s.ring with leaveAt := none } }.putB F.RING_BYP_INSERT false).setHold false)

def execBypSenseChange (level : Bool) (s : State) : Out :=
  if s.bit F.RING_BYP_SENSE == level then .next s
  else .next (((s.putB F.RING_BYP_SENSE level).raise F.RING_EVT_BYP).bypCheck)

/-- BYP_MISMATCH: the two have differed for TSET ms. -/
def execBypMismatch (s : State) : Out :=
  match s.ring.bypDiff with
  | some t =>
    if s.bit F.RING_BYP_MISMATCH then .next s
    else
      let s := s.until (t + s.get F.RING_BYP_TSET * msCounts + 1)
      .next ((s.putB F.RING_BYP_MISMATCH true).fault 0x0903 0)
  | none => .next s

/-- LEAVE_ANNOUNCEMENT: a ring control frame of KIND 2. -/
def execLeaveAnnouncement (p : RingPort) (f : RingFrame) (s : State) : Out :=
  let (d, s) := s.ringRx p true f
  if d && f.etype.toNat = s.get F.RING_CFG_RETYPE && leAt f.payload 0 1 = 2 then
    let s := s.raise F.RING_EVT_LEAVE
    let s := s.put F.RING_LEAVE_L_MAC (f.src.toNat % 2 ^ 32)
    let s := s.put F.RING_LEAVE_H_MAC (f.src.toNat / 2 ^ 32)
    .next (s.fault 0x0908 p)
  else .next s

/-! ### Launch-time queues (R393, R394) -/
/-- The launch time of an entry against CTIME: seconds [31:0] and nanoseconds. -/
def State.lqDue (s : State) (e : Nat) : Bool :=
  let t := s.get (F.RING_LQ_TS_S e) * 1000000000 + s.get (F.RING_LQ_TNS_NS e)
  let c := s.ctime.sec % 2 ^ 32 * 1000000000 + s.ctime.ns
  t ≤ c

/-- Nanoseconds until the launch time. -/
def State.lqWait (s : State) (e : Nat) : Nat :=
  s.get (F.RING_LQ_TS_S e) * 1000000000 + s.get (F.RING_LQ_TNS_NS e) -
    (s.ctime.sec % 2 ^ 32 * 1000000000 + s.ctime.ns)

/-- Arms an entry: LATE where its time has passed. -/
def State.lqArmNow (s : State) (e : Nat) : State :=
  if s.lqDue e then ((s.put (F.RING_LQ_CTL_ST e) 3).putB (F.RING_LQ_CTL_ARM e) false).fault 0x0920 e
  else (s.put (F.RING_LQ_CTL_ST e) 1).putB (F.RING_LQ_CTL_ARM e) true

/-- A write of RING.LQ[e].CTL by the owner code given. -/
def State.lqCtlWrite (s : State) (e owner : Nat) (v : Word) : State :=
  if s.get (F.RING_LQ_CTL_ST e) = 1 then s
  else
    let n := bitsOf v.toNat 10 0
    let s := if 60 ≤ n && n ≤ 1514 then s.put (F.RING_LQ_CTL_LEN e) n else s
    let s := if e < 32 then s.putB (F.RING_LQ_CTL_PAIR e) (v.getLsbD 29) else s
    let s := if v.getLsbD 28 then s.putB (F.RING_LQ_CTL_DLY e) false else s
    if !v.getLsbD 31 then s
    else
      let h := s.ownerOf (0x6000 + e)
      let a := s.get (F.RING_LQ_BUF_ADDR e)
      let l := s.get (F.RING_LQ_CTL_LEN e)
      let inDma := s.dma.any (fun (d, b, m) => b ≤ a && a + l ≤ b + m && s.ownerOf (0x7000 + d) == h)
      if h = owner && h ≠ 0 && inDma then s.lqArmNow e else s

/-- A write of RING.LQ[e].BUF, TS or TNS: no effect while the entry is armed. -/
def State.lqWrite (s : State) (e addr : Nat) (v : Word) : State :=
  if s.get (F.RING_LQ_CTL_ST e) = 1 then s else s.wr addr v

/-- LQ_ARM: the Cox writes RING.LQ[e].CTL. -/
def execLqArm (e : LegNo) (v : Word) (s : State) : Out := s.onRegW (R.RING_LQ_CTL e) v fun v s =>
  .next (s.lqCtlWrite e 0x01 v)

/-- The HSR sequence of a launched entry: the pair's copies share one (R393). -/
def State.lqSeq (s : State) (e : Nat) : Nat × State :=
  let b := e % 32
  let q := s.ring.seq
  let fresh (keep : Bool) : Nat × State := (q, { s with ring := { s.ring with
    seq := (q + 1) % 65536, pairSeq := if keep then (b, q) :: s.ring.pairSeq else s.ring.pairSeq } })
  if s.bit (F.RING_LQ_CTL_PAIR b) then
    match s.ring.pairSeq.find? (fun x => x.1 == b) with
    | some x => (x.2, { s with ring := { s.ring with pairSeq := s.ring.pairSeq.filter (fun y => y.1 != b) } })
    | none => fresh true
  else fresh false

/-- The crew whose seam frames an entry sends. -/
def State.lqCrew (s : State) (e : Nat) : Option Nat :=
  (List.range 32).find? (fun n => s.bit (F.RING_SEAM_CFG_EN n) && s.bit (F.CREW_SEAM_EN n) &&
    s.get (F.RING_SEAM_CFG_QENT n) == e % 32)

/-- A read of a DMA buffer: single-bit errors are corrected and counted; a word that cannot be read enters 0x0106 and gives
zeros (R27). -/
def State.dmaLoad (s : State) (a n : Nat) : List Byte × State :=
  let s := s.correctCe a n
  ((List.range n).map (fun i => if s.touchesUe (a + i) 1 then 0 else s.byteAt (a + i)),
    loopL (s.eccUe.filter (fun w => w < a + n && a < w + 8)) (fun w s => s.fault 0x0106 (bankOf w)) s)

/-- The bytes that launch entry e sends with sequence number q: the payload of its seam crew, or its buffer (R394, R398). -/
def State.lqBytes (s : State) (e p q : Nat) (buf : List Byte) : List Byte :=
  if s.bit (F.RING_LQ_CTL_SEAM e) then
    match s.lqCrew e with
    | some n =>
      let dst := s.get F.RING_SEAMDA_DA + 2 ^ 32 * leNat (beBytes 2 (s.get (F.RING_SEAM_CFG_GROUP n)))
      hsrFrame dst s.ownMac p q (s.get F.RING_CFG_RETYPE) (s.seam n).tx
    | none => []
  else
    hsrFrame (leAt buf 0 6) (leAt buf 6 6) p q (beAt buf 12 2) (buf.drop 14)

/-- The launch time of entry e comes; where the port is still sending, its end comes too, and DLY is set (R394). -/
def State.lqAwait (s : State) (e : Nat) : State :=
  let s := s.advance ((s.lqWait e * 4 + 4) / 5)
  let busy := (s.egress (e / 32)).busy
  if s.now < busy then (s.until busy).raise (F.RING_LQ_CTL_DLY e) else s

/-- Entry e is sent, where its port sends at all: its sequence number is taken and ST becomes SENT (R394). -/
def State.lqSend (s : State) (e : Nat) : State :=
  let p := e / 32
  let x := s.lqSeq e
  let (buf, s) := if x.2.bit (F.RING_LQ_CTL_SEAM e) then ([], x.2)
    else x.2.dmaLoad (x.2.get (F.RING_LQ_BUF_ADDR e)) (x.2.get (F.RING_LQ_CTL_LEN e))
  let bytes := s.lqBytes e p x.1 buf
  let s := if s.ringEn && s.ringLink p && s.bit (F.RING_PORT_CTL_TXEN p) then
    s.egressStart p { express := true, bytes := bytes } else s
  (s.put (F.RING_LQ_CTL_ST e) 2).putB (F.RING_LQ_CTL_ARM e) false

/-- LQ_LAUNCH (R394): the armed entry goes. -/
def execLqLaunch (e : LegNo) (s : State) : Out :=
  if s.get (F.RING_LQ_CTL_ST e) ≠ 1 then .next s else .next ((s.lqAwait e).lqSend e)

/-- Seam period in counts (R395). -/
def State.seamPeriod (s : State) (n : Nat) : Nat := (s.get (F.RING_SEAM_CFG_DIV n) + 1) * s.get (F.CREW_CPER_PERIOD n)

def State.seamOn (s : State) (n : Nat) : Bool :=
  s.bit (F.CREW_SEAM_EN n) && s.bit (F.RING_SEAM_CFG_EN n) && decide (0 < s.seamPeriod n)

/-- c(T) − SEAM_EPOCH − LOFS. -/
def State.seamDist (s : State) (n : Nat) : Int :=
  (s.ctime.counts : Int) - s.get (F.CREW_SEAM_EPOCH_E n) - s.get (F.RING_SEAM_LOFS_C n)

/-- Number of the period launched last, and counts since its launch (R396). -/
def State.seamK (s : State) (n : Nat) : Nat := (s.seamDist n / (s.seamPeriod n : Int) % 2 ^ 32).toNat
def State.seamSince (s : State) (n : Nat) : Nat := (s.seamDist n % (s.seamPeriod n : Int)).toNat

def State.seamNmem (s : State) (n : Nat) : Nat := s.get (F.RING_SEAM_CFG_NMM1 n) + 1
def State.seamMidx (s : State) (n : Nat) : Nat := s.get (F.RING_SEAM_CFG_MIDX n)

/-- The 40-byte payload of crew n for period k (R397). -/
def State.seamPayload (s : State) (n k : Nat) : List Byte :=
  let st := s.crewState n
  let sm := s.get (F.CREW_STAT_SEAMST n)
  let fl := (st == cRUN).toNat + 2 * (sm == 2).toNat + 4 * s.ctimeLocked.toNat + 8 * (st == cFSTOP).toNat +
    16 * (st == cSAFE).toNat + 32 * (sm == 4).toNat
  let w (a : Nat) : List Byte := leBytes 4 (s.rd a).toNat
  [1, 1] ++ leBytes 2 (s.get (F.RING_SEAM_CFG_GROUP n)) ++ leBytes 1 (s.seamMidx n) ++ leBytes 1 fl ++
    leBytes 1 (s.get (F.CREW_STAT_MACT n)) ++ leBytes 1 (s.seamNmem n) ++ leBytes 4 k ++
    w (R.CREW_TQREF n) ++ w (R.CREW_SPD n) ++ w (R.CREW_DRATE n) ++
    w (R.CREW_SEAM_TX n 0) ++ w (R.CREW_SEAM_TX n 1) ++ w (R.CREW_SEAM_TX n 2) ++ w (R.CREW_SEAM_TX n 3)

/-- Places a payload in CREW[n].SEAM_RX[g] (R404). -/
def State.seamStore (s : State) (n g : Nat) (l : List Byte) : State :=
  let s := s.put (F.CREW_SEAM_RX_FLAGS_NMEM n g) (leAt l 7 1)
  let s := s.put (F.CREW_SEAM_RX_FLAGS_MACT n g) (leAt l 6 1)
  let s := s.put (F.CREW_SEAM_RX_FLAGS_FLAGS n g) (leAt l 5 1)
  let w (o : Nat) : Word := BitVec.ofNat 32 (leAt l o 4)
  let s := s.wr (R.CREW_SEAM_RX_TQREF n g) (w 12)
  let s := s.wr (R.CREW_SEAM_RX_SPD n g) (w 16)
  let s := s.wr (R.CREW_SEAM_RX_DRATE n g) (w 20)
  loopN 4 (fun i s => s.wr (R.CREW_SEAM_RX_USR n g i) (w (24 + 4 * i))) s

/-- The crew's payload is read and stored, and its pair of launch entries armed for the next cycle (R398). -/
def State.seamPrepare (s : State) (n : Nat) : State :=
  let left := s.seamPeriod n - s.seamSince n
  let k := (s.seamK n + 1) % 2 ^ 32
  let tx := s.seamPayload n k
  let s := s.setSeam n { s.seam n with tx := tx, k := k }
  let s := s.seamStore n (s.seamMidx n) tx
  let t := s.ctime.add (left * 5 * 2 ^ 30)
  let e := s.get (F.RING_SEAM_CFG_QENT n)
  let s := s.putB (F.RING_LQ_CTL_PAIR e) true
  loopL [e, e + 32] (fun e s =>
    let s := (s.put (F.RING_LQ_TS_S e) t.sec).put (F.RING_LQ_TNS_NS e) t.ns
    ((s.putB (F.RING_LQ_CTL_SEAM e) true).putB (F.RING_LQ_CTL_ARM e) true).put (F.RING_LQ_CTL_ST e) 1) s

/-- SEAM_PAYLOAD_READ (R398): 2 µs before the cycle starts. -/
def execSeamPayloadRead (n : CrewNo) (s : State) : Out :=
  if !s.seamOn n || !s.ringEn then .next s
  else
    let left := s.seamPeriod n - s.seamSince n
    .next ((if left > 1600 then s.advance (left - 1600) else s).seamPrepare n)

/-- A seam payload reaches crew n: it is kept where the group, the member, the cycle and the deadline fit; else it is bad
(R399). -/
def State.seamTake (s : State) (n : Nat) (l : List Byte) : State :=
  let g := leAt l 4 1
  if !s.seamOn n || leAt l 2 2 ≠ s.get (F.RING_SEAM_CFG_GROUP n) then s
  else
    let r := s.seam n
    if g < s.seamNmem n && g ≠ s.seamMidx n && s.seamSince n ≤ s.get (F.RING_SEAM_DL_C n) && leAt l 8 4 = s.seamK n then
      s.setSeam n { r with taken := (g, l) :: r.taken.filter (fun x => x.1 != g), good := true }
    else
      let s := s.incSat (F.RING_SEAM_BADCNT_COUNT n)
      if r.good then (s.setSeam n { r with good := false }).fault 0x0923 n else s

/-- SEAM_FRAME (R399). -/
def execSeamFrame (p : RingPort) (f : RingFrame) (s : State) : Out :=
  let (d, s) := s.ringRx p true f
  if !d || f.etype.toNat ≠ s.get F.RING_CFG_RETYPE || leAt f.payload 0 1 ≠ 1 || leAt f.payload 1 1 ≠ 1 then .next s
  else .next (loopN 32 (fun n s => s.seamTake n f.payload) s)

/-- The deadline of a cycle: what has come is stored, and each member that has started is judged (R400). -/
def State.seamClose (s : State) (n : Nat) : State :=
  let r := s.seam n
  let me := s.seamMidx n
  let v := natBit (r.taken.foldl (fun m x => natBit m x.1 true) 0) me true
  let s := loopL r.taken (fun x s => s.seamStore n x.1 x.2) s
  let s := (s.put (F.CREW_SEAM_RXV_V n) v).put (F.CREW_SEAM_RXSEQ_K n) (s.seamK n)
  let started := r.started ||| v
  let s := loopN (s.seamNmem n) (fun g s =>
    if g = me || !r.started.testBit g then s
    else
      let was := r.prev.testBit g
      let is := v.testBit g
      if is && !was then
        ((s.retryT 4).incSat (F.RING_SEAM_MISSCNT_COUNT n)).setBitAt (F.CREW_SEAM_RXV_LOST n) g false
      else if !is && !was then
        let s := ((s.retryL 4).incSat (F.RING_SEAM_LOSTCNT_COUNT n)).setBitAt (F.CREW_SEAM_RXV_LOST n) g true
        let s := s.fault 0x0921 n
        let st := s.get (F.CREW_STAT_SEAMST n)
        if st = 2 || st = 3 then s.seamDegrade n else s
      else s) s
  s.setSeam n { s.seam n with taken := [], prev := v, started := started }

/-- SEAM_DEADLINE (R400). -/
def execSeamDeadline (n : CrewNo) (s : State) : Out :=
  if !s.seamOn n || !s.ringEn then .next s
  else
    let dl := s.get (F.RING_SEAM_DL_C n)
    .next ((if s.seamSince n < dl then s.advance (dl - s.seamSince n) else s).seamClose n)

end Sys2Proof.Machine
end

