-- ==== Sys2Proof/Machine/Orders.lean ====
section
/-! DEFINITION. Machine/Orders.lean: master path, frame checks, link orders, commit batches, the start of orders, reports
and the local master port (R326 to R347, R350 to R355, R362). -/
namespace Sys2Proof.Machine

/-! ### Frames (R330 to R333) -/
/-- The master path: the ring only where the active rig selects it (R326). -/
def State.pathRing (s : State) : Bool := s.bit F.MASTER_CFG_PATH && !s.bit F.AON_RIG_NONE

/-- The order key, and whether it is set (R486, R492). -/
def State.orderKey (s : State) : List Byte := s.bytes 0x20700210 32
def State.orderKeySet (s : State) : Bool := s.byteAt 0x20700230 == 1

/-- The tag of a frame over bytes 0 to 15 and the body (R331). -/
def State.frameTag (s : State) (hdrBody : List Byte) : List Byte := (hmac256 s.orderKey hdrBody).take 16

def linkOrder (op : Nat) : Bool := op == 8 || op == 10 || op == 11
def opcodeListed (op : Nat) : Bool := 1 ≤ op && op ≤ 12

/-- The body of an order keeps its layout and ranges (R349, R352, R354, R355). -/
def bodyOk (op : Nat) (b : List Byte) : Bool :=
  let n := b.length
  let cnt := leAt b 0 2
  let words (o st k : Nat) : List Nat := (List.range k).map (fun i => leAt b (o + st * i) 4)
  match op with
  | 1 => true
  | 2 => n ≥ 12 && n ≤ 8 + 4088 && n % 4 = 0 && leAt b 0 1 < 8 && leAt b 1 3 = 0 && leAt b 4 4 % 4 = 0 &&
      leAt b 4 4 + (n - 8) ≤ 524288
  | 3 => n = 4 && leAt b 0 1 < 8 && leAt b 1 3 = 0
  | 4 => n = 4 + 4 * cnt && cnt ≤ 500 && leAt b 2 2 = 0 && (words 4 4 cnt).all (· < 2 ^ 20)
  | 5 => n = 4 + 8 * cnt && cnt ≤ 500 && leAt b 2 2 = 0 && (words 4 8 cnt).all (fun a => a / 256 < 4064)
  | 6 => n = 4 + 4 * leAt b 2 2 && leAt b 0 1 ≤ 2 && leAt b 1 1 = 0 && leAt b 2 2 ≤ 500 &&
      (words 4 4 (leAt b 2 2)).all (fun a => a % 2 ^ 31 < 2 ^ 20)
  | 7 => n = 4 + 4 * cnt && cnt ≤ 256 && leAt b 2 2 = 0 &&
      (words 4 4 cnt).all (fun a => a % 65536 < 1024 && a / 65536 % 256 ≤ 1 && a / 2 ^ 24 = 0)
  | 8 => n = 4
  | 9 => n = 8 && leAt b 0 1 ≤ 4 && leAt b 1 1 = 0
  | 10 => n = 8 && leAt b 2 2 = 0
  | 11 => n ≤ 16
  | 12 => n = 12 && leAt b 0 1 < 4 && leAt b 1 3 = 0 && 1 ≤ leAt b 8 4 && leAt b 8 4 ≤ 4076 &&
      leAt b 4 4 + leAt b 8 4 ≤ 262144
  | _ => false

/-- The frame with its parts. -/
structure FrameParts where
  ver : Nat
  flags : Nat
  lane : Nat
  opcode : Nat
  seq : Nat
  w10 : Nat
  crc : Nat
  body : List Byte
  tag : List Byte

def frameParts (l : List Byte) : FrameParts :=
  let n := leAt l 8 2
  { ver := leAt l 0 1, flags := leAt l 1 1, lane := leAt l 2 1, opcode := leAt l 3 1, seq := leAt l 4 4
    w10 := leAt l 10 2, crc := leAt l 12 4, body := (l.drop 16).take n, tag := (l.drop (16 + n)).take 16 }

/-- Step 1 of R333: the length. -/
def frameLenOk (l : List Byte) : Bool :=
  l.length ≥ 16 && leAt l 8 2 ≤ 4096 && l.length = 16 + leAt l 8 2 + (if leAt l 1 1 % 2 = 1 then 16 else 0)

/-- Step 2: the CRC over bytes 0 to 11 and the body. -/
def frameCrcOk (l : List Byte) : Bool := crc32 (l.take 12 ++ (frameParts l).body) = (frameParts l).crc

/-- Steps 3 to 7: none where they pass; else the status, and whether step 5 failed. -/
def State.headerCheck (s : State) (l : List Byte) : Option (Nat × Bool) :=
  let f := frameParts l
  if f.ver ≠ 2 && f.ver ≠ 3 then some (0x82, false)
  else if f.flags ≥ 4 || f.w10 ≠ 0 then some (0x83, false)
  else
    let tag := f.flags % 2 = 1
    let t : Option Nat :=
      if s.bit F.MASTER_CFG_AUTH then
        if f.ver = 2 || !tag then some 0x86
        else if s.orderKeySet && s.frameTag (l.take 16 ++ f.body) = f.tag then none else some 0x87
      else if f.ver = 2 && tag then some 0x87
      else none
    match t with
    | some c => some (c, true)
    | none =>
      if !opcodeListed f.opcode then some (0x85, false)
      else if f.lane > (if f.opcode = 1 then 32 else 0) then some (0x84, false)
      else if (f.seq = 0) != linkOrder f.opcode then some (0x83, false)
      else none

/-! ### Reports -/
/-- Body of an ACCEPT report (R351). -/
def State.acceptBody (s : State) (oseq status opcode : Nat) : List Byte :=
  leBytes 4 oseq ++ leBytes 1 status ++ leBytes 1 opcode ++ [0, 0] ++ leBytes 4 (s.get F.MASTER_NEXTSEQ_SEQ) ++
    s.ltime.bytes12

/-- A refusal: ACCEPT with its status (R333). -/
def State.refuse (s : State) (f : FrameParts) (status : Nat) : State :=
  let s := s.incSat (F.MASTER_CNT_COUNT 3)
  s.formReport .accept f.seq f.lane (s.acceptBody f.seq status f.opcode)

/-- The code of a report type (R330). -/
def RepType.code : RepType → Nat
  | .accept => 0x81 | .start => 0x82 | .endRep => 0x83 | .event => 0x84

/-- Offset of LTIME in a report body (R351). -/
def RepType.timeAt : RepType → Nat
  | .accept => 12 | .start => 8 | .endRep => 8 | .event => 4

/-- The frame of a report (R330 to R332). -/
def State.reportFrame (s : State) (r : ReportRec) : List Byte :=
  let v3 := s.bit F.MASTER_CFG_RVER
  let o := r.typ.timeAt
  let body := if v3 then r.body else r.body.take o ++ r.body.drop (o + 12)
  let tag := s.bit F.MASTER_CFG_AUTH
  let h := leBytes 1 (if v3 then 3 else 2) ++ leBytes 1 (tag.toNat + 2 * r.resend.toNat) ++ leBytes 1 r.lane ++
    leBytes 1 r.typ.code ++ leBytes 4 r.rseq ++ leBytes 2 body.length ++ leBytes 2 r.epoch
  let f := h ++ leBytes 4 (crc32 (h ++ body)) ++ body
  if tag then f ++ s.frameTag f else f

/-- Rank of a due report: the RESET event, then resends, then new reports (R353, R358). -/
def ReportRec.rank (r : ReportRec) : Nat :=
  if r.typ == .event && r.rseq == 1 && r.sentAt.isNone then 0 else if r.resend then 1 else 2

/-- The next report to send: lowest rank, oldest first. -/
def State.nextDue (s : State) : Option ReportRec :=
  if s.get F.AON_PWRSTAT_STATE = 0 then none
  else
    let due := s.reports.filter (·.due)
    (due.find? (·.rank == 0)) <|> (due.find? (·.rank == 1)) <|> due.head?

def State.dueCount (s : State) : Nat := if s.get F.AON_PWRSTAT_STATE = 0 then 0 else (s.reports.filter (·.due)).length

/-- A report has been sent: it waits for its acknowledgement, or is gone where it was a repetition alone. -/
def State.reportSent (s : State) (r : ReportRec) : State :=
  let same (x : ReportRec) : Bool := x.epoch == r.epoch && x.rseq == r.rseq && x.once == r.once && x.due
  if r.once then { s with reports := s.reports.filter (fun x => !same x) }
  else { s with reports := s.reports.map (fun x => if same x then { x with due := false, sentAt := some s.now } else x) }

/-- A standing report is sent again with RESEND = 1. -/
def ReportRec.again (r : ReportRec) : ReportRec := { r with due := true, resend := true }

/-! ### Sequence and capacity (R337, R338) -/
/-- After 0xFFFF_FFFF the sequence goes on at 1. -/
def nextSeq (n : Nat) : Nat := if n = 2 ^ 32 - 1 then 1 else n + 1

/-- The RSEQ of a duplicate's ACCEPT. -/
def State.dupRseq (s : State) (a : AccRec) : Nat × State := if a.rseq = 0 then s.newRseq else (a.rseq, s)

/-- And its epoch. -/
def State.dupEpoch (s : State) (a : AccRec) : Nat := if a.rseq = 0 then s.get F.MASTER_EPOCH_E else a.epoch

/-- A duplicate: its ACCEPT is sent again. Where its RSEQ is not known any more a new one is formed (log 8). -/
def State.duplicate (s : State) (a : AccRec) : State :=
  let s := s.incSat (F.MASTER_CNT_COUNT 4)
  let hit (r : ReportRec) : Bool := r.typ == .accept && r.epoch == a.epoch && r.rseq == a.rseq && r.oseq == a.seq
  if s.reports.any hit then { s with reports := s.reports.map (fun r => if hit r then r.again else r) }
  else
    let body := if a.body.isEmpty then s.acceptBody a.seq 0 a.opcode else a.body
    let e := s.dupEpoch a
    let (q, s) := s.dupRseq a
    let r : ReportRec := { typ := .accept, epoch := e, rseq := q, oseq := a.seq, lane := a.lane, body := body, resend := true,
                           once := true }
    { s with reports := s.reports ++ [r] }

/-- Step 10: the status of a refusal for want of capacity. -/
def State.capacity (s : State) : Option Nat :=
  let n := if s.accWin.1 = s.now / msCounts then s.accWin.2 else 0
  if (s.orders.filter OrderRec.waiting).length ≥ 64 || n ≥ 20 || s.unacked ≥ 768 then some 0x88
  else if s.jFree < 65536 then some 0x89
  else if !s.jCanOpen || s.get F.AON_PWRSTAT_STATE = 4 then some 0x8A
  else none

/-- The order is placed in the open batch or waits for the next one (R339). -/
def State.placeOrder (s : State) (f : FrameParts) (frame mac : List Byte) : State :=
  let w := s.now / msCounts
  let o : OrderRec := { seq := f.seq, lane := f.lane, opcode := f.opcode, flags := f.flags, ver := f.ver, crc := f.crc
                        frame := frame, body := f.body, mac := mac }
  let s := { s with accWin := (w, if s.accWin.1 = w then s.accWin.2 + 1 else 1), orders := s.orders ++ [o] }
  let s := s.put F.MASTER_NEXTSEQ_SEQ (nextSeq f.seq)
  (s.jAdd { typ := 1, lane := f.lane, seq := f.seq, epoch := s.get F.MASTER_EPOCH_E, tag := 0, payload := frame }).showOrders

/-! ### Link orders (R352, R354, R355) -/
/-- Epoch `a` is earlier than `b` (R350). -/
def epochEarlier (a b : Nat) : Bool := let d := (b + 65536 - a) % 65536; 1 ≤ d && d ≤ 32767

/-- The point (epoch e, RSEQ r) covers the report. -/
def ackCovers (e r : Nat) (x : ReportRec) : Bool := epochEarlier x.epoch e || (x.epoch == e && x.rseq ≤ r)

/-- ORD_ACKREP. -/
def State.ackRep (s : State) (body : List Byte) : State :=
  let e := leAt body 0 2
  let r := leAt body 4 4
  let oe := s.get F.MASTER_ACK_EPOCH_E
  let or_ := s.get F.MASTER_ACK_RSEQ_R
  if epochEarlier e oe || (e = oe && r < or_) then s
  else
    let s := (s.put F.MASTER_ACK_EPOCH_E e).put F.MASTER_ACK_RSEQ_R r
    let ended := s.reports.filter (fun x => ackCovers e r x && x.typ == .endRep)
    let s := { s with reports := s.reports.filter (fun x => !ackCovers e r x) }
    let s := s.put F.MASTER_QSTAT_UNACK s.unacked
    let s := loopL ended (fun x s =>
      s.jAdd { typ := 6, lane := x.lane, seq := x.oseq, epoch := s.get F.MASTER_EPOCH_E, tag := 0, payload := body }) s
    s.flushLost

/-- ORD_CANCEL, answered by EVENT 0x0003. -/
def State.ordCancel (s : State) (q : Nat) : State :=
  let answer (s : State) (res : Nat) : State := s.event 3 (leBytes 4 q ++ leBytes 1 res ++ [0, 0, 0])
  match s.orderOf q with
  | some o =>
    if o.st == .queued then answer (s.endOrder q 0x40 []) 0
    else if o.st == .placed then answer s 4
    else if o.classM then answer (s.mapOrders (fun x => x.seq == q) (fun x => { x with cancelReq := true })) 1
    else answer s 2
  | none => answer s (if s.accHist.any (fun a => a.seq == q) then 3 else 4)

/-- ORD_HEARTBEAT is echoed in EVENT 0x0002. -/
def State.heartbeat (s : State) (body : List Byte) : State := s.event 2 body

/-- A valid frame restarts the silence timer (R355). -/
def State.heard (s : State) : State := { s with mLast := s.now, mSilent := false }

/-- A received frame at its checks (R333). -/
def State.takeFrame (s : State) (path : Nat) (l mac : List Byte) : State :=
  if !frameLenOk l then (s.incSat (F.MASTER_CNT_COUNT 1)).fault 0x0802 path
  else if !frameCrcOk l then (s.incSat (F.MASTER_CNT_COUNT 0)).fault 0x0801 path
  else
    let f := frameParts l
    match s.headerCheck l with
    | some (c, tag) =>
      let s := if tag then (s.incSat (F.MASTER_CNT_COUNT 2)).fault 0x0803 path else s
      s.refuse f c
    | none =>
      if linkOrder f.opcode then
        if !bodyOk f.opcode f.body then s.refuse f 0x8D
        else
          let s := s.heard
          if f.opcode = 8 then s.ordCancel (leAt f.body 0 4)
          else if f.opcode = 10 then s.ackRep f.body
          else s.heartbeat f.body
      else if f.seq ≠ s.get F.MASTER_NEXTSEQ_SEQ then
        match s.accHist.find? (fun a => a.seq == f.seq) with
        | some a => if a.crc = f.crc then s.heard.duplicate a else s.refuse f 0x8E
        | none => (s.refuse f 0x80).fault 0x0804 path
      else if !bodyOk f.opcode f.body then s.refuse f 0x8D
      else
        match s.capacity with
        | some c => if c = 0x89 then (s.refuse f c).fault 0x0807 0 else s.refuse f c
        | none => s.heard.placeOrder f l mac

/-- MASTER_FRAME: the oldest frame received on a path is taken. Frames of the other path are discarded unread (R326). -/
def execMasterFrame (ring : Bool) (s : State) : Out :=
  if !s.epochOpen then .next s
  else if ring then
    match s.ringRxQ with
    | [] => .next s
    | (mac, l) :: r =>
      let s := { s with ringRxQ := r }
      .next (if s.pathRing then s.takeFrame 1 l mac else s.incSat (F.MASTER_CNT_COUNT 6))
  else
    match s.mpRx with
    | [] => .next s
    | l :: r =>
      let s := { s with mpRx := r }
      .next (if s.pathRing then s.incSat (F.MASTER_CNT_COUNT 6) else s.takeFrame 0 l [])

/-! ### Reassembly (R327) -/
/-- The order frame's length as its LEN and TAG give it; padding behind it is dropped. -/
def trimFrame (l : List Byte) : List Byte :=
  let n := 16 + leAt l 8 2 + (if leAt l 1 1 % 2 = 1 then 16 else 0)
  if l.length ≥ 16 then l.take n else l

/-- A fragment from `mac` joins its message (R327): XID, IDX and CNT, then the data. A whole message waits for MASTER_FRAME; at
most 4 messages are open, and a fifth drops the oldest. -/
def State.fragment (s : State) (mac pay : List Byte) : State :=
  -- a fragment whose header breaks a limit is dropped whole and counted with the length drops (R31)
  let xid := leAt pay 0 2
  let idx := leAt pay 2 1
  let cnt := leAt pay 3 1
  let data := pay.drop 4
  if pay.length < 4 || cnt = 0 || cnt > 3 || idx ≥ cnt then s.incSat (F.MASTER_CNT_COUNT 1)
  else
    let hit (r : ReasmRec) : Bool := r.mac == mac && r.xid == xid
    let old := (s.reasm.find? hit).getD { mac := mac, xid := xid, cnt := cnt, parts := [], at0 := s.now }
    let r := { old with parts := (idx, data) :: old.parts.filter (fun x => x.1 != idx) }
    if (List.range r.cnt).all (fun i => r.parts.any (fun x => x.1 == i)) then
      let whole := (List.range r.cnt).flatMap (fun i => ((r.parts.find? (fun x => x.1 == i)).map (·.2)).getD [])
      let s := { s with ringRxQ := s.ringRxQ ++ [(mac, trimFrame whole)] }
      { s with reasm := s.reasm.filter (fun x => !hit x) }
    else if s.reasm.any hit then { s with reasm := s.reasm.map (fun x => if hit x then r else x) }
    else { s with reasm := (if s.reasm.length ≥ 4 then s.reasm.drop 1 else s.reasm) ++ [r] }

/-- RING_FRAGMENT (R327, R325). -/
def execRingFragment (p : RingPort) (f : RingFrame) (s : State) : Out :=
  let (d, s) := s.ringRx p false f
  if !d || f.etype.toNat ≠ s.get F.MASTER_CFG_ETYPE then .next s
  else if !s.pathRing then .next (s.incSat (F.MASTER_CNT_COUNT 6))
  else .next (s.fragment (macBytes f.src.toNat) f.payload)

/-- REASSEMBLY_TIMEOUT: the oldest reassembly, 1 ms after its first fragment. -/
def execReassemblyTimeout (s : State) : Out :=
  match s.reasm with
  | [] => .next s
  | r :: l =>
    let s := { s with reasm := l }
    .next (((s.until (r.at0 + msCounts)).incSat (F.MASTER_CNT_COUNT 7)).fault 0x0809 0)

/-! ### Commit batches (R341 to R343) -/
/-- BATCH_CLOSE: at 8 µs, or at once where the batch is full. RSEQ is given to the records that form reports (R350). -/
def State.batchClose (s : State) : State :=
  let j := s.jnl
  if j.phase ≠ 1 then s
  else
    let full := !j.wait.isEmpty || recsSize j.batch + 96 > jBatchMax
    let s := if full then s else s.until (j.openAt + 6400)
    let (recs, s) := j.batch.foldl (fun (acc : List JRec × State) r =>
      let (l, s) := acc
      if 1 ≤ r.typ && r.typ ≤ 3 then
        let (q, s) := s.newRseq
        (l ++ [{ r with tag := q, batch := j.next }], s)
      else (l ++ [{ r with batch := j.next }], s)) ([], s)
    { s with jnl := { s.jnl with batch := recs, phase := 2, closeAt := s.now } }.putB F.NVM_STAT_URGENT true

def execBatchClose (s : State) : Out := .next s.batchClose

/-- A committed record takes effect (R339, R345, R348). -/
def State.committed (s : State) (r : JRec) : State :=
  if r.typ = 1 then
    match s.orders.find? (fun o => o.seq == r.seq && o.st == .placed) with
    | none => s
    | some o =>
      let s := s.mapOrders (fun x => x.seq == r.seq && x.st == .placed) (fun x => { x with st := .queued })
      let s := s.incSat (F.MASTER_CNT_COUNT 5)
      let s := if o.mac.isEmpty then s else { s with lastMac := o.mac }
      let body := s.acceptBody r.seq 0 o.opcode
      let a : AccRec := { seq := r.seq, crc := o.crc, epoch := r.epoch, rseq := r.tag, opcode := o.opcode, lane := o.lane
                          body := body }
      let s := { s with accHist := (a :: s.accHist).take 4096 }
      s.addReport { typ := .accept, epoch := r.epoch, rseq := r.tag, oseq := r.seq, lane := o.lane, body := body }
  else s.recReport r

/-- A discarded batch (R339): every placed order goes, NEXTSEQ returns to the first of them; the other records wait again,
ahead of later ones. -/
def State.batchDiscard (s : State) : State :=
  let placed := s.orders.filter (fun o => o.st == .placed)
  let j := s.jnl
  let keep (l : List JRec) : List JRec := l.filter (fun r => r.typ != 1)
  let s := { s with jnl := { j with wait := keep j.batch ++ keep j.wait, batch := [], phase := 0 }
                    orders := s.orders.filter (fun o => o.st != OrdSt.placed) }
  let s := match placed.head? with
    | some o => s.put F.MASTER_NEXTSEQ_SEQ o.seq
    | none => s
  (s.putB F.MASTER_JSTAT_OPEN false).showOrders

/-- A macro is lost: mark, faults and EVENT 0x0006 (R342, R476). -/
def State.loseMacro (s : State) (m : Nat) : State :=
  let s := (s.retryL 2).fault 0x0C06 m
  let s := s.putB (if m = 0 then F.MASTER_JSTAT_M0LOST else F.MASTER_JSTAT_M1LOST) true
  (s.fault 0x0805 m).event 6 (leBytes 1 m ++ [0, 0, 0])

/-- The batch of journal j is committed in the macros that `good` names (R339, R341): its records and the COMMIT record are
written, BATCHMAX is kept, and what each record lets go on goes on. -/
def State.batchWritten (s : State) (j : JournalRec) (good : Nat → Bool) : State :=
  let all := j.batch ++ [commitRec j.next (s.get F.MASTER_EPOCH_E) j.batch]
  let bytes := all.flatMap JRec.bytes
  let size := recsSize all
  let s := loopN 2 (fun m s => if good m then s.jPut m j.head bytes else s) s
  let b : JBatch := { no := j.next, pos := j.head, size := size, recs := all }
  let s := { s with jnl := { s.jnl with
    batch := [], phase := 0, next := j.next + 1, head := j.head + size, done := s.jnl.done ++ [b] } }
  let s := s.putB F.MASTER_JSTAT_OPEN false
  let t := (s.now - j.closeAt) / 8
  let s := if t > s.get F.MASTER_BATCHMAX_NS then s.put F.MASTER_BATCHMAX_NS (min 65535 t) else s
  let s := s.showFree
  let s := loopL j.batch (fun r s => s.committed r) s
  s.askCompaction.jKick

/-- BATCH_COMMIT: `dur` counts of 1.25 ns after the close, with what each macro's write ended with. -/
def State.batchCommit (s : State) (r0 r1 : WrRes) (dur : Nat) : State :=
  let j := s.jnl
  if j.phase ≠ 2 then s
  else
    let s := (s.until (j.closeAt + min dur 38400)).putB F.NVM_STAT_URGENT false
    let use (m : Nat) : Bool := !s.macroLost m
    let res (m : Nat) : WrRes := if m = 0 then r0 else r1
    let good (m : Nat) : Bool := use m && res m != .failed
    let s := loopN 2 (fun m s =>
      if !use m then s
      else match res m with
        | .ok => s
        | .rewritten => s.retryT 2
        | .failed => s.loseMacro m) s
    if s.macroLost 0 && s.macroLost 1 then
      -- both lost: the batch goes, the journal halts, and reports of waiting records are sent unjournaled (R342)
      let s := s.batchDiscard
      let s := (s.putB F.MASTER_JSTAT_HALT true).fault 0x0806 0
      let w := s.jnl.wait
      let s := { s with jnl := { s.jnl with wait := [] } }
      loopL w (fun r s => s.jAdd r) s
    else if dur > 38400 then s.batchDiscard.jKick
    else s.batchWritten j good

def execBatchCommit (r0 r1 : WrRes) (dur : Nat) (s : State) : Out := .next (s.batchCommit r0 r1 dur)

/-! ### Starting orders (R344, R345) -/
/-- Orders wait on the lanes of a pair under live replacement, and on lanes 1 to 32 under the activation lock. -/
def State.laneLocked (s : State) (lane : Nat) : Bool :=
  (s.actLock && lane ≥ 1) ||
    (match s.swap, s.laneTask lane with
      | some w, some k => k / 16 == s.homeOf w.pair
      | _, _ => false)

/-- ORDER_START: the earliest order that has not started starts, where its lane is free. -/
def State.orderStart (s : State) : State :=
  match s.orders.find? OrderRec.waiting with
  | none => s
  | some o =>
    if o.st == .placed || (s.laneOrder o.lane).isSome || (s.heldOrder o.lane).isSome || s.laneLocked o.lane ||
        s.get F.AON_PWRSTAT_STATE = 0 then s
    else if o.classM && (s.laneTask o.lane).isNone then s.endOrder o.seq 0x0A []
    else if o.classM && s.get F.AON_PWRSTAT_STATE ≠ 2 && s.get F.AON_PWRSTAT_STATE ≠ 3 then s.demand (some o.seq)
    else
      let s := s.mapOrders (fun x => x.seq == o.seq && x.st == .queued) (fun x => { x with st := .starting })
      s.jAdd { typ := 2, lane := o.lane, seq := o.seq, epoch := s.get F.MASTER_EPOCH_E, tag := 0
               payload := leBytes 4 o.seq ++ leBytes 1 o.restarted.toNat ++ [0, 0, 0] ++ s.ltime.bytes12 }

def execOrderStart (s : State) : Out := .next s.orderStart

/-- ORD_CALL: once its START record has committed, the lane's task has the order-arrival event (R345). A task that is
DISABLED ends it STOPPED_FAULT; one still in its initial activation holds it (R52). -/
def execOrdCall (lane : Fin 33) (s : State) : Out :=
  match s.laneOrder lane with
  | none => .next s
  | some o =>
    if !o.classM || o.st != .running || o.held then .next s
    else
      match s.laneTask lane with
      | none => .next (s.endOrder o.seq 0x52 [])
      | some k =>
        match (s.task k).st with
        | .disabled => .next (s.endOrder o.seq 0x52 [])
        | .waiting =>
          let s := s.mapOrders (fun x => x.seq == o.seq) (fun x => { x with delivered := true, held := true })
          let s := s.setTask k { s.task k with ordSeq := BitVec.ofNat 32 o.seq }
          .next (s.deliver k)
        | _ => .next s

/-! ### Reports on the way (R353, R362) -/
/-- Splits a report into ring fragments (R327). -/
def fragments (xid cnt : Nat) : Nat → List Byte → List (List Byte)
  | 0, _ => []
  | k + 1, l =>
    let d := l.take 1496
    let p := leBytes 2 xid ++ leBytes 1 (cnt - (k + 1)) ++ leBytes 1 cnt ++ d
    slice p 0 (max 46 p.length) :: fragments xid cnt k (l.drop 1496)

/-- REPORT_SEND: the next due report on the ring. -/
def execReportSend (s : State) : Out :=
  if !s.pathRing || !s.ringEn then .next s
  else
    match s.nextDue with
    | none => .next s
    | some r =>
      let l := s.reportFrame r
      let m := s.get F.MASTER_MMAC_L_MAC + 2 ^ 32 * s.get F.MASTER_MMAC_H_MAC
      let dst := if m ≠ 0 then m else leNat s.lastMac
      let cnt := (l.length + 1495) / 1496
      let xid := s.txXid
      let s := { s with txXid := (xid + 1) % 65536 }
      let s := loopL (fragments xid cnt cnt l) (fun p s => s.ringSend false dst (s.get F.MASTER_CFG_ETYPE) p) s
      .next (s.reportSent r)

/-- REPORT_RESEND_TIMEOUT: reports unacknowledged for RTO since their last sending are due again. -/
def execReportResendTimeout (s : State) : Out :=
  let t := s.get F.MASTER_RTO_MS * msCounts
  let old (r : ReportRec) : Bool := !r.due && !r.once && (match r.sentAt with
    | some a => a + t ≤ s.now
    | none => false)
  -- where none is due yet, time passes to the first that will be
  let first := (s.reports.filterMap (fun r => if r.due || r.once then none else r.sentAt)).foldl
    (fun (m : Option Nat) a => match m with
      | none => some a
      | some b => some (min a b)) none
  if s.reports.any old then .next { s with reports := s.reports.map (fun r => if old r then r.again else r) }
  else
    match first with
    | none => .next s
    | some a =>
      let s := s.until (a + t)
      .next { s with reports := s.reports.map (fun r => if !r.due && !r.once && r.sentAt == some a then r.again else r) }

/-- MASTER_SILENT (R355). -/
def execMasterSilent (s : State) : Out :=
  let h := s.get F.MASTER_HBTO_MS
  if h = 0 || s.mSilent then .next s
  else
    let s := s.until (s.mLast + h * msCounts)
    let s := { s with mSilent := true }
    let s := (s.fault 0x080A s.pathRing.toNat).event 7 (leBytes 2 h ++ [0, 0])
    if s.bit F.MASTER_CFG_HBSTOP then
      let q := s.orders.filter (fun o => o.st == .queued && o.classM)
      let s := loopL q (fun o s => s.endOrder o.seq 0x40 []) s
      .next (s.mapOrders (fun o => o.isRunning && o.classM) (fun o => { o with cancelReq := true }))
    else .next s

/-! ### The local master port (R362) -/
/-- The level of MP_ATTN_N, true is high: low while a report is due for sending, and while PD7 is off (R363, R507). It follows the
reports at once: the 100 ns within which it goes high after the READ of the last are not told apart. -/
def State.mpAttnN (s : State) : Bool := s.domainRun 7 && s.dueCount == 0

/-- MP_WRITE of the bytes clocked in before MP_CS_N rose. -/
def execMpWrite (l : List Byte) (s : State) : Out :=
  if !s.domainRun 7 then .next s
  else if s.pathRing then .next (s.incSat (F.MASTER_CNT_COUNT 6))
  else if s.mpRx.length ≥ 2 then .next (s.incSat (F.MASTER_CNT_COUNT 1))
  else if l.length < 16 || (leAt l 8 2 ≤ 4096 && !frameLenOk l) then
    .next ((s.incSat (F.MASTER_CNT_COUNT 1)).fault 0x080D 0)
  else .next { s with mpRx := s.mpRx ++ [l] }

/-- MP_READ of `n` bytes: the report counts as sent once its last byte has been clocked out. -/
def execMpRead (n : Nat) (s : State) : Out :=
  if !s.domainRun 7 then .next { s with mpOut := List.replicate n 0xFF } else
  match (if s.pathRing then none else s.nextDue) with
  | none => .next { s with mpOut := List.replicate n 0 }
  | some r =>
    let l := s.reportFrame r
    let s := { s with mpOut := slice l 0 n }
    .next (if n ≥ l.length then s.reportSent r else s)

/-- MP_STATUS. While PD7 is off the pull-ups of MP_IO make every byte read 0xFF (R507). -/
def execMpStatus (s : State) : Out :=
  if !s.domainRun 7 then .next { s with mpOut := List.replicate 8 0xFF } else
  let l := leBytes 4 (s.get F.MASTER_NEXTSEQ_SEQ) ++ leBytes 1 (2 - s.mpRx.length) ++
    leBytes 1 ((s.rd R.MASTER_JSTAT).toNat % 256) ++ leBytes 2 s.dueCount
  .next { s with mpOut := l }

/-- A write of MASTER.CNTCLR (R366). -/
def State.cntClr (s : State) (v : Word) : State :=
  let s := loopN 8 (fun c s => if v.getLsbD c then s.put (F.MASTER_CNT_COUNT c) 0 else s) s
  if v.getLsbD 8 then s.put F.MASTER_BATCHMAX_NS 0 else s

def execMasterCntclr (v : Word) (s : State) : Out := s.onRegW R.MASTER_CNTCLR v fun v s =>
  .next (s.cntClr v)

end Sys2Proof.Machine
end

