-- ==== Sys2Proof/Machine/Time.lean ====
section
/-! DEFINITION. Machine/Time.lean: network time: PTP messages, link delay, the CTIME servo, LTIME and the real-time counter
(R382 to R392, R403). Times are held as integers in units of 2^−32 ns. -/
namespace Sys2Proof.Machine

/-- Time states (R390). -/
abbrev tFREE : Nat := 0
abbrev tACQ : Nat := 1
abbrev tLOCKED : Nat := 2
abbrev tHOLD : Nat := 3
abbrev tMASTER : Nat := 4

def State.timeSt (s : State) : Nat := s.get F.TIME_STAT_STATE

/-- TIME.LDIFF and LCONV (R392). -/
def State.showLdiff (s : State) : State :=
  let d := s.ltime.fine - s.ctime.fine
  (s.wr R.TIME_LDIFF (fOfDyadic d (-32))).putB F.TIME_STAT_LCONV (d.natAbs ≤ 1000 * 2 ^ 32)

/-- LTIME := CTIME at the first entry to LOCKED or MASTER since boot (R392). A step backward enters 0x0912; the event log
takes the values before and after it. -/
def State.firstLock (s : State) : State :=
  if s.bit F.TIME_STAT_LFIRST then s
  else
    let back := s.ctime.fine < s.ltime.fine
    let s := if back then (s.logRec 7 0 0 0).fault 0x0912 0 else s.logRec 7 0 0 0
    let s := { s with ltime := s.ctime }
    ((s.logRec 7 0 1 0).putB F.TIME_STAT_LFIRST true).showLdiff

/-- A change of the time state; seams hear of lock gained and lost (R181). -/
def State.setTimeSt (s : State) (st : Nat) : State :=
  let was := s.ctimeLocked
  let s := s.put F.TIME_STAT_STATE st
  let s := { s with clock := { s.clock with inTol := 0, outTol := 0 } }
  let is := s.ctimeLocked
  if was != is then s.seamLock is else s

/-- The steered LTIME rate (R392): RATE + min(max(−LK·d, −LRMAX), LRMAX). -/
def State.steer (s : State) : State :=
  let s := s.showLdiff
  let lk := s.rd R.TIME_LK
  let lm := s.rd R.TIME_LRMAX
  let x := (fmul (fneg lk) (s.rd R.TIME_LDIFF)).1
  let c := (fmin (fmax x (fneg lm)).1 lm).1
  { s with clock := { s.clock with lrate := (fadd (s.rd R.TIME_RATE) c).1 } }

/-- Own clockIdentity: the EUI-64 of RING.MAC (PRESUMED, assumption log 6). -/
def State.ownIdent (s : State) : Nat :=
  let m := macBytes s.ownMac
  leNat (m.take 3 ++ [0xFF, 0xFE] ++ m.drop 3)

/-- The clock enters MASTER (R390). -/
def State.becomeMaster (s : State) : State :=
  let s := s.wr R.TIME_RATE 0
  let s := s.setTimeSt tMASTER
  let id := s.ownIdent
  let s := (s.wr R.TIME_GMID_L (BitVec.ofNat 32 id)).wr R.TIME_GMID_H (BitVec.ofNat 32 (id / 2 ^ 32))
  s.firstLock

/-- The clock is lost (R389, R390): both rates stay as they are. -/
def State.clockLost (s : State) : State :=
  let st := s.timeSt
  if st = tACQ || st = tLOCKED then (s.setTimeSt tHOLD).fault 0x0910 0 else s

/-- An offset used by the servo (R388, R390), in units of 2^−32 ns. -/
def State.useOffset (s : State) (oz : Int) : State :=
  let st := s.timeSt
  if st = tMASTER then s
  else
    let o := fOfDyadic oz (-32)
    let ab := fabs o
    let isOver (thr : Nat) : Bool := flt (fOfInt thr) ab
    let s :=
      if st = tACQ && isOver (s.get F.TIME_STEPTHR_NS) then
        let s := { s with ctime := TimeVal.ofFine (s.ctime.fine - oz) }
        (s.incSat F.TIME_STEPCNT_COUNT).fault 0x0911 0
      else
        let rm := s.rd R.TIME_RMAX
        let clamp (x : Word) : Word := (fmin (fmax x (fneg rm)).1 rm).1
        let i := clamp (fadd s.clock.i (fmul (s.rd R.TIME_KI) o).1).1
        let s := { s with clock := { s.clock with i := i } }
        s.wr R.TIME_RATE (clamp (fneg (fadd (fmul (s.rd R.TIME_KP) o).1 i).1))
    let s := (s.wr R.TIME_OFS o).incWrap F.TIME_SYNCCNT_COUNT
    let s := { s with clock := { s.clock with miss := 0, selMiss := 0, syncAt := s.now } }
    if st = tFREE || st = tHOLD then s.setTimeSt tACQ
    else if st = tACQ then
      let n : Nat := if isOver (s.get F.TIME_LOCK_THR) then 0 else s.clock.inTol + 1
      let s := { s with clock := { s.clock with inTol := n } }
      if n ≥ s.get F.TIME_LOCK_N then (s.setTimeSt tLOCKED).firstLock.steer else s
    else
      let n : Nat := if isOver (s.get F.TIME_UNLOCK_THR) then s.clock.outTol + 1 else 0
      let s := { s with clock := { s.clock with outTol := n } }
      let s := s.steer
      if n ≥ s.get F.TIME_UNLOCK_N then (s.setTimeSt tACQ).fault 0x0913 0 else s

/-- The port whose Sync feeds the clock (R386): with SYNCSEL 2 the usable port whose latest Sync had the smaller
correction is taken first, and kept until it fails. -/
def State.pickPort (s : State) : State :=
  let sel := s.get F.TIME_PTP_SYNCSEL
  if sel < 2 then s.put F.TIME_STAT_SELP sel
  else if s.clock.sel && s.bit (F.RING_PORT_STAT_TUSE (s.get F.TIME_STAT_SELP)) then s
  else
    let u0 := s.bit (F.RING_PORT_STAT_TUSE 0) && s.clock.p0.seen
    let u1 := s.bit (F.RING_PORT_STAT_TUSE 1) && s.clock.p1.seen
    let go (p : Nat) : State := { s with clock := { s.clock with sel := true } }.put F.TIME_STAT_SELP p
    if u0 && u1 then go (if s.clock.p1.corr < s.clock.p0.corr then 1 else 0)
    else if u0 then go 0
    else if u1 then go 1
    else s

/-- A Sync of port p with its receive time, origin time and correction: used where the port feeds the clock (R386). -/
def State.syncUsed (s : State) (p : Nat) (t2 t1 corr : Int) : State :=
  let s := s.setPtpPort p { s.ptpPort p with corr := corr, seen := true, sync := none }
  let s := s.pickPort
  if s.get F.TIME_STAT_SELP = p && s.bit (F.RING_PORT_STAT_TUSE p) then
    s.useOffset (t2 - (t1 + corr + s.pdlyFine p))
  else s

/-- A message whose timestamp has a nanoseconds value of 10^9 or more is rejected (R5): it is neither used nor sent on. -/
def timeBad (m : PtpMsg) : Bool := 1000000000 ≤ m.time.ns.toNat

/-- A tagged PTP message on port p: none where it is not heard (own, rejected, or ring not in use). -/
def State.ptpHeard (s : State) (p : Nat) (m : PtpMsg) : Bool × State :=
  if !s.ringEn || !s.ringLink p then (false, s)
  else
    let s := s.incSat (F.RING_PORT_RXCNT_COUNT p)
    (m.src.toNat != s.ownMac && !timeBad m, s)

/-- Messages of other domains are not used (R383). -/
def State.ptpOurs (s : State) (m : PtpMsg) : Bool := m.domain.toNat == s.get F.TIME_PTP_DOMAIN

/-- A PTP message goes on at the other port after its residence; a Sync carries what its correction is computed from when it
leaves (R384). -/
def State.ptpForward (s : State) (p kind : Nat) (m : PtpMsg) : State :=
  let rx := if kind = 0 then some (s.rxStamp p, s.pdlyFine p, s.getI (F.RING_PORT_NRR_PPB p)) else none
  let (d, s) := s.residence
  s.egressPut (1 - p) { express := true, at0 := s.now + d
                        ptp := some { kind := kind, seq := m.seq.toNat, corr := m.corr.toInt, sec := m.time.sec.toNat
                                      ns := m.time.ns.toNat, own := false, dom := m.domain.toNat, sender := m.sender.toNat
                                      two := m.twoStep, rx := rx } }

/-- SYNC (R384, R388). -/
def execSync (p : RingPort) (m : PtpMsg) (s : State) : Out :=
  let (h, s) := s.ptpHeard p m
  if !h then .next s
  else
    let t2 := s.rxStamp p
    let s := s.ptpForward p 0 m
    if !s.ptpOurs m then .next s
    else if m.twoStep then .next (s.setPtpPort p { s.ptpPort p with sync := some (m.seq.toNat, t2, corrFine m.corr) })
    else .next (s.syncUsed p t2 (ptpFine m.time) (corrFine m.corr))

/-- FOLLOW_UP (R384, R388). -/
def execFollowUp (p : RingPort) (m : PtpMsg) (s : State) : Out :=
  let (h, s) := s.ptpHeard p m
  if !h then .next s
  else
    let s := s.ptpForward p 8 m
    if !s.ptpOurs m then .next s
    else
      match (s.ptpPort p).sync with
      | some (q, t2, c) => if q = m.seq.toNat then .next (s.syncUsed p t2 (ptpFine m.time) (c + corrFine m.corr)) else .next s
      | none => .next s

/-- The order of two data sets in the default algorithm: lower is better (R383). -/
def GmRec.key (g : GmRec) : List Nat :=
  -- octet 0 of the identity ranks first
  [g.prio1, g.cls, g.accuracy, g.variance, g.prio2, beNat (leBytes 8 g.ident)]

def keyLess : List Nat → List Nat → Bool
  | x :: a, y :: b => x < y || (x == y && keyLess a b)
  | _, _ => false

/-- This BX640's own data set; accuracy and variance are those of IEEE 1588 for an unknown clock (PRESUMED, log 6). -/
def State.ownClock (s : State) : GmRec :=
  { prio1 := s.get F.TIME_PTP_PRIO1, cls := 248, accuracy := 0xFE, variance := 0xFFFF, prio2 := s.get F.TIME_PTP_PRIO2
    ident := s.ownIdent }

/-- The algorithm has selected this BX640 (R390). -/
def State.selectSelf (s : State) : State :=
  let st := s.timeSt
  let s := { s with clock := { s.clock with gm := none } }
  if s.bit F.TIME_PTP_SLAVEONLY then s
  else if st = tFREE || st = tHOLD then s.becomeMaster
  else s

/-- An Announce of our own domain offers the clock `g` (R387, R390): a clock that is better than the one followed, or is that one,
is taken, unless the BX640 itself is the better master. -/
def State.offerGm (s : State) (g : GmRec) (utc : Nat) : State :=
  let better := match s.clock.gm with
    | none => true
    | some b => b.ident == g.ident || keyLess g.key b.key
  if !better then s
  else if !s.bit F.TIME_PTP_SLAVEONLY && keyLess s.ownClock.key g.key then s.selectSelf
  else
    let changed := match s.clock.gm with
      | none => false
      | some b => b.ident != g.ident
    let s := { s with clock := { s.clock with gm := some g } }
    let s := s.put F.TIME_UTCOFS_S utc
    let s := (s.wr R.TIME_GMID_L (BitVec.ofNat 32 g.ident)).wr R.TIME_GMID_H (BitVec.ofNat 32 (g.ident / 2 ^ 32))
    let st := s.timeSt
    if st = tMASTER then s.setTimeSt tACQ
    else if st = tLOCKED && changed then (s.setTimeSt tACQ).fault 0x0915 0
    else s

/-- The clock an Announce describes. -/
def gmOf (c : PtpClock) : GmRec :=
  { prio1 := c.prio1.toNat, cls := c.cls.toNat, accuracy := c.accuracy.toNat, variance := c.variance.toNat
    prio2 := c.prio2.toNat, ident := c.ident.toNat }

/-- An Announce has arrived now. -/
def State.heardAnnounce (s : State) : State := { s with clock := { s.clock with annAt := s.now } }

/-- ANNOUNCE (R387, R390). -/
def execAnnounce (p : RingPort) (m : PtpMsg) (c : PtpClock) (s : State) : Out :=
  let (h, s) := s.ptpHeard p m
  if !h then .next s
  else
    let s := s.ptpForward p 0xB m
    if !s.ptpOurs m then .next s else .next (s.heardAnnounce.offerGm (gmOf c) c.utcOfs.toNat)

/-- ANNOUNCE_TIMEOUT: no Announce for 3 s (R389); a master-capable clock is then selected itself. -/
def execAnnounceTimeout (s : State) : Out :=
  .next (s.until (s.clock.annAt + 3000 * msCounts)).clockLost.selectSelf

/-- Counts in a Sync interval of 1/32 s (R383). -/
abbrev syncInterval : Nat := 25000000

/-- A Sync interval ends without a Sync used. -/
def State.clockMiss (s : State) : State :=
  let s := s.until (s.clock.syncAt + syncInterval)
  { s with clock := { s.clock with miss := s.clock.miss + 1, selMiss := s.clock.selMiss + 1, syncAt := s.now } }

/-- SYNC_LOSS: one Sync interval has passed without a Sync used (R386, R389). -/
def execSyncLoss (s : State) : Out :=
  let s := s.clockMiss
  let other := 1 - s.get F.TIME_STAT_SELP
  let s := if s.clock.selMiss ≥ 3 && s.get F.TIME_PTP_SYNCSEL = 2 && s.bit (F.RING_PORT_STAT_TUSE other) then
    { s with clock := { s.clock with selMiss := 0 } }.put F.TIME_STAT_SELP other else s
  if s.clock.miss ≥ s.get F.TIME_SYNCLOSS_N then .next s.clockLost else .next s

/-! ### Link delay (R385) -/
/-- An own PTP message is queued at port p, where the port sends at all. -/
def State.ptpSend (s : State) (p kind seq : Nat) (corr t : Int) : State :=
  if !s.bit (F.RING_PORT_CTL_TXEN p) then s
  else
    let v := TimeVal.ofFine t
    s.egressPut p { express := true, ptp := some { kind := kind, seq := seq, corr := corr, sec := v.sec, ns := v.ns } }

/-- PDELAY_REQ: answered by Pdelay_Resp with the receive time; its Follow_Up with the send time is queued when that starts. -/
def execPdelayReq (p : RingPort) (m : PtpMsg) (s : State) : Out :=
  if !s.ringEn || !s.ringLink p then .next s
  else
    let s := s.incSat (F.RING_PORT_RXCNT_COUNT p)
    if timeBad m then .next s else .next (s.ptpSend p 3 m.seq.toNat 0 (s.rxStamp p))

/-- PDELAY_REQ_SEND: once per second; a port without link measures too, and fails. -/
def execPdelayReqSend (p : RingPort) (s : State) : Out :=
  if !s.ringEn then .next s
  else
    let s := s.until ((s.ptpPort p).reqAt + 1000 * msCounts)
    let r := s.ptpPort p
    let s := s.setPtpPort p { r with req := some (r.pdSeq, s.now, s.txStamp p), resp := none, pdSeq := (r.pdSeq + 1) % 65536
                                     reqAt := s.now }
    .next (s.ptpSend p 2 r.pdSeq 0 0)

/-- A measurement has failed; after three in a row the port is not usable for time, and the clock may be lost. -/
def State.pdFail (s : State) (p : Nat) : State :=
  let r := s.ptpPort p
  let s := s.setPtpPort p { r with req := none, resp := none, good := 0, bad := min 3 (r.bad + 1) }
  if r.bad + 1 = 3 then
    let s := (s.putB (F.RING_PORT_STAT_TUSE p) false).fault 0x0914 p
    let s := s.pickPort
    if !s.bit (F.RING_PORT_STAT_TUSE 0) && !s.bit (F.RING_PORT_STAT_TUSE 1) then s.clockLost else s
  else s

/-- PDELAY_RESP: t2, and the receive time t4. -/
def execPdelayResp (p : RingPort) (m : PtpMsg) (s : State) : Out :=
  if !s.ringEn || !s.ringLink p then .next s
  else
    let s := s.incSat (F.RING_PORT_RXCNT_COUNT p)
    match (s.ptpPort p).req with
    | some (q, t, _) =>
      if q = m.seq.toNat && s.now ≤ t + 10 * msCounts && !timeBad m then
        .next (s.setPtpPort p { s.ptpPort p with resp := some (s.rxStamp p, ptpFine m.time) })
      else .next s
    | none => .next s

/-- An exchange of port p is complete (R385): d is the mean delay and the neighbour rate ratio comes of two successive responses, both
computed as in IEEE 1588 (PRESUMED, assumption log 6); t3 and t4 are the sending and the own instant of this response. -/
def State.pdTaken (s : State) (p : RingPort) (r : PtpPort) (d t3 t4 : Int) : State :=
  let s := s.put (F.RING_PORT_PDLY_D p) (d / 2 ^ 28).toNat
  let s := match r.last with
    | some (a3, a4) =>
      if t4 - a4 > 0 then s.putI (F.RING_PORT_NRR_PPB p) (((t3 - a3) - (t4 - a4)) * 1000000000 / (t4 - a4)) else s
    | none => s
  let s := s.setPtpPort p { s.ptpPort p with last := some (t3, t4) }
  if d ≤ Int.ofNat (s.get F.TIME_PDMAX_NS) * 2 ^ 32 then
    let s := s.setPtpPort p { s.ptpPort p with req := none, resp := none, bad := 0, good := min 3 (r.good + 1) }
    if r.good + 1 ≥ 3 then s.putB (F.RING_PORT_STAT_TUSE p) true else s
  else s.pdFail p

/-- PDELAY_RESP_FOLLOW_UP (R385). -/
def execPdelayRespFollowUp (p : RingPort) (m : PtpMsg) (s : State) : Out :=
  if !s.ringEn || !s.ringLink p then .next s
  else
    let s := s.incSat (F.RING_PORT_RXCNT_COUNT p)
    let r := s.ptpPort p
    match r.req, r.resp with
    | some (q, t, t1), some (t4, t2) =>
      if q = m.seq.toNat && s.now ≤ t + 10 * msCounts && !timeBad m then
        let t3 := ptpFine m.time
        .next (s.pdTaken p r (((t4 - t1) - (t3 - t2) + corrFine m.corr * -1) / 2) t3 t4)
      else .next s
    | _, _ => .next s

/-- PDELAY_TIMEOUT: 10 ms without an answer. -/
def execPdelayTimeout (p : RingPort) (s : State) : Out :=
  match (s.ptpPort p).req with
  | some (_, t, _) => .next ((s.until (t + 10 * msCounts)).pdFail p)
  | none => .next s

/-! ### Master -/
/-- SYNC_SEND: every 1/32 s a two-step Sync on both ports, whose Follow_Up is queued when it starts; LTIME is steered once per
interval in MASTER (R392). -/
def execSyncSend (s : State) : Out :=
  if s.timeSt ≠ tMASTER then .next s
  else
    let s := s.until (s.clock.syncTx + syncInterval)
    let q := s.clock.syncSeq
    let s := { s with clock := { s.clock with syncSeq := (q + 1) % 65536, syncTx := s.now } }
    .next (loopN 2 (fun p s => s.ptpSend p 0 q 0 0) s).steer

/-- ANNOUNCE_SEND: every second on both ports. -/
def execAnnounceSend (s : State) : Out :=
  if s.timeSt ≠ tMASTER then .next s
  else
    let s := s.until (s.clock.annTx + 1000 * msCounts)
    let q := s.clock.annSeq
    let s := { s with clock := { s.clock with annSeq := (q + 1) % 65536, annTx := s.now } }
    .next (loopN 2 (fun p s => s.ptpSend p 0xB q 0 s.ctime.fine) s)

/-! ### The real-time counter and time reads -/
/-- Seconds of the real-time counter now. -/
def State.rtc (s : State) : Nat := (s.rtcSec + (s.now - s.rtcAt) / 800000000) % 2 ^ 48

/-- RTC_UPDATE: once per second while LOCKED (R387). -/
def execRtcUpdate (s : State) : Out :=
  if s.timeSt = tLOCKED then
    let s := s.until (s.clock.rtcAt + 1000 * msCounts)
    .next { s with rtcSec := s.ltime.sec, rtcAt := s.now, clock := { s.clock with rtcAt := s.now } }
  else .next s

/-- A read of AON.RTC_L: the low seconds, latching the high ones (R465). -/
def State.readRtcL (s : State) : Word × State :=
  let r := s.rtc
  (BitVec.ofNat 32 r, s.put F.AON_RTC_H_S (r / 2 ^ 32))

/-- A read of TIME.CT_SL or LT_SL (R403). -/
def State.readCt (s : State) : Word × State :=
  let t := s.ctime
  (BitVec.ofNat 32 t.sec, ((s.put F.TIME_CT_SH_S (t.sec / 2 ^ 32)).put F.TIME_CT_NS_NS t.ns).put F.TIME_CT_FR_F t.frac)

def State.readLt (s : State) : Word × State :=
  let t := s.ltime
  (BitVec.ofNat 32 t.sec, ((s.put F.TIME_LT_SH_S (t.sec / 2 ^ 32)).put F.TIME_LT_NS_NS t.ns).put F.TIME_LT_FR_F t.frac)

def execRtcLRead (s : State) : Out := s.onRegRead R.AON_RTC_L fun s =>
  let (w, s) := s.readRtcL
  .next { s with rdata := w }
def execCtSlRead (s : State) : Out := s.onRegRead R.TIME_CT_SL fun s =>
  let (w, s) := s.readCt
  .next { s with rdata := w }
def execLtSlRead (s : State) : Out := s.onRegRead R.TIME_LT_SL fun s =>
  let (w, s) := s.readLt
  .next { s with rdata := w }

end Sys2Proof.Machine
end

