-- ==== Sys2Proof/Machine/PowerOps.lean ====
section
/-! DEFINITION. Machine/PowerOps.lean: power domains, resets, power states, Rest, and the always-on settings: the
operations they share (R19, R450 to R463). -/
namespace Sys2Proof.Machine

/-- The device falls back to Listen (R458). -/
def State.toListen (s : State) : State :=
  let s := s.crewsUnused
  let s := loopN 16 (fun k s => s.stopPort k) s
  let s := s.listenDomains
  { s with demandAt := none, demandBy := none }.setPw pwLISTEN

/-- The idle conditions of R457. -/
def State.isIdle (s : State) : Bool :=
  (List.range 32).all (fun n => s.crewState n != cARMED && s.crewState n != cRUN) &&
    s.orders.all (fun o => !(o.classM && (o.st == .queued || o.isRunning))) && !s.bit F.AON_PWRCTL_READY

/-! ### The always-on settings (R453) -/
def settingsAt (m : Nat) : Nat := 0x20701000 + 0x800000 * m

/-- The settings copy: AON.SET, the watchdog period, the wake enables, LAST, and a CRC (its layout: assumption log 11). -/
def State.settingsBytes (s : State) : List Byte :=
  let l := leBytes 4 ((s.rd R.AON_SET).toNat % 65536) ++ leBytes 2 (s.get F.AON_WDT_PERIOD) ++
    leBytes 1 (s.get F.AON_WAKE_EN) ++ leBytes 1 (s.get F.AON_RIG_LAST)
  l ++ leBytes 4 (crc32 l)

/-- The Cox writes its copy to both macros, as an urgent write (R453, R476). -/
def State.saveSettings (s : State) : State :=
  let l := s.settingsBytes
  (s.mramTry (settingsAt 0) l).mramTry (settingsAt 1) l

/-- The Cox restores the copy after VAON loss, from the first macro whose copy is good. -/
def State.restoreSettings (s : State) : State :=
  let good (m : Nat) : Bool :=
    let l := s.bytes (settingsAt m) 12
    !s.touchesUe (settingsAt m) 12 && leAt l 8 4 == crc32 (l.take 8) && l.take 8 != List.replicate 8 0
  match [0, 1].find? good with
  | none => s
  | some m =>
    let l := s.bytes (settingsAt m) 12
    let s := s.wr R.AON_SET (BitVec.ofNat 32 (leAt l 0 4))
    ((s.put F.AON_WDT_PERIOD (leAt l 4 2)).put F.AON_WAKE_EN (leAt l 6 1)).put F.AON_RIG_LAST (leAt l 7 1)

/-! ### Resets (R450, R451) -/
/-- A register of PD0. -/
def aonReg (a : Nat) : Bool := winOf a = 1 || winOf a = 2

def inMram (a : Nat) : Bool := 0x20000000 ≤ a && a < 0x21000000

/-- A tile after the BX640's links have stopped: every switch off, waiting for SYNC (R220). -/
def TileRec.stopped (t : TileRec) : TileRec := { t with waiting := true, lvl := 0, pend := [], defer := 0 }

/-- Every domain but PD0 goes to its reset state; MRAM, the always-on registers, the real-time counter and the TAP stay.
SRAM and Cox RAM read as never written (assumption log 3). The reserved-write counters of every block are cleared, those of
the PD0 blocks too (DESIGN CHOICE, assumption log 62). -/
def State.resetDomains (s : State) : State :=
  let r : State := {}
  { r with
    pending := s.pending, now := s.now, freeCount := s.freeCount
    regs := s.regs.filter (fun e => aonReg e.1)
    mem := s.mem.filter (fun e => inMram e.1)
    eccUe := s.eccUe.filter inMram, eccCe := s.eccCe.filter inMram
    tiles := s.tiles.map (fun t => (t.1, t.2.stopped))
    rtcSec := s.rtcSec, rtcAt := s.rtcAt
    wear := s.wearSaved, wearSaved := s.wearSaved
    jnl := { next := s.jnl.next, head := s.jnl.head, tail := s.jnl.tail, done := s.jnl.done }
    powered := s.powered, rstBy := s.rstBy, rstLow := s.rstLow, rstAt := s.rstAt, uvRails := s.uvRails
    bootMode := s.bootMode, rigPins := s.rigPins, fwDigest := s.fwDigest, tap := s.tap
    clock := { syncAt := s.now, annAt := s.now }
    kickAt := s.now, domOn := if s.powered then 1 else 0 }

/-- A commit batch in progress is committed or discarded, within 48 µs (R356, R451): which is a free value. -/
def State.settleBatch (s : State) : State :=
  if s.jnl.phase = 2 then
    let (v, s) := s.freeIn 0 1
    if v = 1 then s.batchCommit .ok .ok 38400 else s.batchDiscard
  else s

/-- A reset of R450 or a hold asserts: outputs go safe, and every domain but PD0 resets (R451). -/
def State.assertReset (s : State) : State :=
  let s := s.settleBatch.resetDomains
  ({ s with inRest := false, resumeBoot := false }.setPw pwBOOT).showDomains

/-- Counts a reset and holds its code: the code of the first stands while a reset is in force (R450). -/
def State.noteReset (s : State) (code : Nat) : State :=
  let s := if s.rstBy.filter (· != 0) |>.isEmpty then s.put F.RESET_CAUSE_CODE code else s
  s.incSat (F.RESET_CNT_COUNT code)

/-! ### Keys, life cycle and firmware slots (R484 to R488) -/
def keysAt (m : Nat) : Nat := 0x20700000 + 0x800000 * m

/-- The macro whose keys area is taken: M0, or M1 where M0 has an uncorrectable word in its first 4 KB. -/
def State.keysMacro (s : State) : Nat := if s.touchesUe (keysAt 0) 4096 then 1 else 0

def State.keyByte (s : State) (o : Nat) : Nat := (s.byteAt (keysAt s.keysMacro + o)).toNat
def State.keyNat (s : State) (o n : Nat) : Nat := s.rdN (keysAt s.keysMacro + o) n

/-- CRYPTO writes the keys area in both macros. -/
def State.keyWrite (s : State) (o : Nat) (l : List Byte) : State :=
  (s.mramTry (keysAt 0 + o) l).mramTry (keysAt 1 + o) l

/-- LCS: any value but 1 and 3 is treated as DEPLOYED (R487). -/
def State.lcs (s : State) : Nat := let v := s.keyByte 4; if v = 1 || v = 3 then v else 2

/-- Key slot k is in state 1. -/
def State.keyValid (s : State) (k : Nat) : Bool := s.keyByte (0x10 + 128 * k) == 1

/-- A signature by key k over a digest. X and Y stand in memory little-endian (R7); r and s are big-endian (R485). -/
def State.sigOk (s : State) (k : Nat) (digest : List Byte) (r t : List Byte) : Bool :=
  let a := keysAt s.keysMacro + 0x10 + 128 * k
  s.keyValid k && ecdsaVerify (s.rdN (a + 8) 48) (s.rdN (a + 56) 48) digest (beNat r) (beNat t)

/-- A signature trailer over the bytes before it (R485). -/
def State.trailerOk (s : State) (body trailer : List Byte) : Bool :=
  let k := leAt trailer 4 1
  leAt trailer 0 4 == 0x54474953 && k < 4 && leAt trailer 5 1 == 1 && leAt trailer 6 2 == 0 &&
    (slice trailer 104 24).all (fun b => b == 0) &&
    s.sigOk k (sha384 (body ++ trailer.take 8)) (slice trailer 8 48) (slice trailer 56 48)

def fwSlot (b : Nat) : Nat := if b = 0 then 0x20500000 else 0x20D00000

/-- Body bytes of a slot's header, where its fields are right (R484). -/
def State.fwLen (s : State) (b : Nat) : Option Nat :=
  let h := s.bytes (fwSlot b) 256
  let n := leAt h 0x10 4
  if leAt h 0 4 = 0x57465843 && leAt h 4 2 = 1 && leAt h 6 2 < 2 && n % 8 = 0 && n ≤ 1048192 &&
      (h.drop 0x1C).all (fun x => x == 0) then some n else none

def State.fwSvn (s : State) (b : Nat) : Nat := s.rdN (fwSlot b + 0xC) 4
def State.fwVer (s : State) (b : Nat) : Nat := s.rdN (fwSlot b + 8) 4
def State.fwSigned (s : State) (b : Nat) : Bool := s.rdN (fwSlot b + 6) 2 % 2 == 1
def State.rollFw (s : State) : Nat := s.keyNat 8 4

/-- SHA-384 digest of a slot's header and body. -/
def State.fwHash (s : State) (b : Nat) : List Byte :=
  match s.fwLen b with
  | some n => sha384 (s.bytes (fwSlot b) (256 + n))
  | none => []

/-- Slot b is bootable (R488). -/
def State.fwOk (s : State) (b : Nat) : Bool :=
  match s.fwLen b with
  | none => false
  | some n =>
    let a := fwSlot b
    let end_ := 256 + n
    let l := s.bytes a (end_ + 128)
    !s.touchesUe a (end_ + 128) && crc32 (slice l 256 n) == leAt l 0x18 4 && s.rollFw ≤ s.fwSvn b &&
      (if s.fwSigned b then s.trailerOk (l.take end_) (l.drop end_) else s.lcs == 1)

/-- FW_STATE: CSLOT, TSLOT, TRIALV, TRIES (R486). -/
structure FwState where
  cslot : Nat
  tslot : Nat
  trialv : Bool
  tries : Nat
  deriving DecidableEq, Repr

def State.fwState (s : State) : FwState :=
  let v := s.keyNat 0xC 4
  { cslot := bitsOf v 0 0, tslot := bitsOf v 1 1, trialv := v.testBit 2, tries := bitsOf v 5 4 }

/-- FW_STATE is written, and CRYPTO.FW shows it. -/
def State.showFw (s : State) : State :=
  let f := s.fwState
  let s := (s.put F.CRYPTO_FW_CSLOT f.cslot).put F.CRYPTO_FW_TSLOT f.tslot
  let s := (s.putB F.CRYPTO_FW_TRIALV f.trialv).put F.CRYPTO_FW_TRIES f.tries
  (s.put F.CRYPTO_ROLLFW_SVN s.rollFw).put F.CRYPTO_LCS_LCS (s.keyByte 4)

def State.setFwState (s : State) (f : FwState) : State :=
  (s.keyWrite 0xC (leBytes 4 (f.cslot + 2 * f.tslot + 4 * f.trialv.toNat + 16 * f.tries))).showFw

/-- A log record of KIND 6 (R479). -/
def State.logFw (s : State) (code slot : Nat) : State := s.logRec 6 code slot (s.fwVer slot % 65536)

/-- The boot ROM's choice of a slot (R488): none is recovery. -/
def State.chooseSlot (s : State) : Option Nat × State :=
  let okA := s.fwOk 0
  let okB := s.fwOk 1
  let ok (b : Nat) : Bool := if b = 0 then okA else okB
  let s := (s.putB F.CRYPTO_FW_OKA okA).putB F.CRYPTO_FW_OKB okB
  let f := s.fwState
  if f.trialv && ok f.tslot && f.tries < 2 then (some f.tslot, s.setFwState { f with tries := f.tries + 1 })
  else
    let s := if f.trialv then ((s.setFwState { f with trialv := false }).logFw 4 f.tslot).fault 0x0C22 f.tslot else s
    if ok f.cslot then (some f.cslot, s)
    else if ok (1 - f.cslot) then (some (1 - f.cslot), s.fault 0x0C20 f.cslot)
    else (none, s)

/-- CRYPTO.CHAL takes a new nonce (R491). -/
def State.newNonce (s : State) : State :=
  loopN 8 (fun i s => let (v, s) := s.free; s.put (F.CRYPTO_CHAL_N i) v) s

/-! ### The modulator's own tables (R150) -/
/-- sin(2π k / 49152) × 2^128. -/
def sinThird (k : Nat) : Int :=
  let j := k % 49152
  let r := j % 24576
  let q := if r ≤ 12288 then r else 24576 - r
  let x := piQ128 * q / 24576
  let v : Int := if q = 12288 then 2 ^ 128 else (sinSeries 24 (x * x / 2 ^ 128) x 1 x).toNat
  if j ≥ 24576 then -v else v

/-- A Q128 value as a Q31 word, rounded to nearest and saturated. -/
def q31Of (z : Int) : Word := BitVec.ofInt 32 (clampInt (-(2 ^ 31)) (2 ^ 31 - 1) ((z + 2 ^ 96) / 2 ^ 97))

/-- Entries of tables 0 and 1. -/
def bootEntry (i : Nat) : Word :=
  if i < 16384 then q31Of (sinThird (3 * i))
  else
    let a := sinThird (3 * i)
    let b := sinThird (3 * i + 16384)
    let c := sinThird (3 * i + 32768)
    q31Of (a - (max a (max b c) + min a (min b c)) / 2)

def bootTables : List (Nat × Word) :=
  (List.range 32768).filterMap (fun i => let v := bootEntry i; if v = 0 then none else some (i, v))

/-! ### The event log ring (R479) -/
def logAt (i : Nat) : Nat := 0x20600000 + 16 * i

/-- The head of the ring and the LAP of the next record: the first record unwritten or of another LAP than its predecessor. -/
def State.logHead (s : State) : Nat × Nat :=
  let lap (i : Nat) : Nat := (s.byteAt (logAt i + 9)).toNat / 64
  let blank (i : Nat) : Bool := (s.byteAt (logAt i + 13)) == 0
  if blank 0 then (0, 0)
  else match (List.range 65535).find? (fun i => blank (i + 1) || lap (i + 1) != lap i) with
    | some i => (i + 1, lap 0)
    | none => (0, (lap 0 + 1) % 4)

/-- NVM.LOG_HEAD at boot (R480). -/
def State.findHead (s : State) : State := (s.put F.NVM_LOG_HEAD_IDX s.logHead.1).put F.NVM_LOG_HEAD_LAP s.logHead.2

/-! ### Rest (R457, R459) -/
/-- The conditions of R459. -/
def State.restOk (s : State) : Bool :=
  (s.pw = pwLISTEN || s.pw = pwREADY || s.pw = pwRUN) &&
    (List.range 32).all (fun n => s.crewState n != cARMED && s.crewState n != cRUN) &&
    s.orders.all (fun o => !(o.st == .queued || o.isRunning)) && s.maintRun.isEmpty && s.maintQ.isEmpty

/-- The wear counts are saved to the calibration area (R478); a lasting write failure leaves the counts saved before. The
outcome is a free value (assumption log 72). -/
def State.saveWear (s : State) : State :=
  let (o, s) := s.freeIn 0 2
  match o with
  | 0 => { s with wearSaved := s.wear }
  | 1 => { s.retryT 2 with wearSaved := s.wear }
  | _ => (s.retryL 2).fault 0x0C06 0

/-- Rest entry starts: the leave announcement goes out (R381, R459). -/
def State.enterRest (s : State) (thermal : Bool) : State :=
  let s := if s.pw = pwREADY || s.pw = pwRUN then s.toListen else s
  let s := s.putB F.AON_TRIP_THREST thermal
  let s := (s.sendLeave 1).saveSettings.saveWear
  { s with restAt := s.now }.setPw pwRESTENTRY

/-- A write of AON.PWRCTL.REST = 1 (R457, R459): true where it is taken. -/
def State.restRequest (s : State) : Bool × State :=
  if s.restOk then (true, s.enterRest false)
  else if s.pw = pwLISTEN || s.pw = pwREADY || s.pw = pwRUN then (false, s.fault 0x0B20 0)
  else (false, s)

/-- A write of AON.PWRCTL.READY (R457). -/
def State.readyWrite (s : State) (b : Bool) : State :=
  let s := { s with idleAt := s.now }.putB F.AON_PWRCTL_READY b
  if b then s.demand none else s

/-- A valid KICK (R454). -/
def State.kick (s : State) : State := { s with kickAt := s.now, kicked := true }

end Sys2Proof.Machine
end

