-- ==== Sys2Proof/Machine/Images.lean ====
section
/-! DEFINITION. Machine/Images.lean: Onnus images: their layout, the checks of R88 and R490, and loading one into a pair
(R87 to R89). -/
namespace Sys2Proof.Machine

/-- Header and task table of an image (R87). -/
def parseImage (l : List Byte) : ImgInfo :=
  let n := leAt l 0x14 1
  { minisa := leAt l 6 1, imemSize := leAt l 8 4, dmemSize := leAt l 0xC 4, bssSize := leAt l 0x10 4
    imageId := leAt l 0x18 4, imageVer := leAt l 0x1C 4
    tasks := (List.range n).map (fun k =>
      let o := 64 + 16 * k
      { task := leAt l o 1, ckptSize := leAt l (o + 2) 2, entry := leAt l (o + 4) 2, resume := leAt l (o + 6) 2
        ckptOff := leAt l (o + 8) 4 }) }

/-- Bytes of an image before its trailer. -/
def ImgInfo.size (i : ImgInfo) : Nat := 64 + 16 * i.tasks.length + i.imemSize + i.dmemSize

/-- Step 3 of R88: every size, count and offset rule of R87, and the length. -/
def imageSizesOk (l : List Byte) (i : ImgInfo) : Bool :=
  let n := leAt l 0x14 1
  let zero (o k : Nat) : Bool := (slice l o k).all (fun b => b == 0)
  let pcOk (a : Nat) : Bool := a % 4 == 0 && a < i.imemSize
  let nums := i.tasks.map (·.task)
  1 ≤ n && n ≤ 16 && i.imemSize % 4 == 0 && i.imemSize ≤ 65536 && i.dmemSize + i.bssSize ≤ 124928 &&
    leAt l 7 1 < 2 && zero 0x15 3 && zero 0x24 28 &&
    i.tasks.all (fun t => t.task < 16 && t.ckptSize % 32 == 0 && t.ckptSize ≤ 1536 && pcOk t.entry && pcOk t.resume &&
      t.ckptOff % 32 == 0 && t.ckptOff + t.ckptSize ≤ i.dmemSize + i.bssSize) &&
    nums.eraseDups.length == n &&
    (List.range n).all (fun k => zero (64 + 16 * k + 1) 1 && zero (64 + 16 * k + 12) 4) &&
    l.length == i.size + (if leAt l 7 1 % 2 == 1 then 128 else 0)

/-- The checks of R88 and R490 on an image for pair p: none where it passes, else its fault. -/
def State.imageFault (s : State) (l : List Byte) (sig roll : Bool) : Option Nat :=
  let i := parseImage l
  if leAt l 0 4 ≠ 0x534E4E4F || leAt l 4 2 ≠ 1 || i.minisa = 0 then some 0x0231
  else if i.minisa > 2 then some 0x0230
  else if !imageSizesOk l i then some 0x0232
  else if leAt l 0x20 4 ≠ crc32 (slice l 0x40 (i.size - 0x40)) then some 0x0231
  else if sig && !(leAt l 7 1 % 2 == 1 && s.trailerOk (l.take i.size) (l.drop i.size)) then some 0x0C23
  else if roll && (List.range 64).any (fun k =>
      let id := s.keyNat (0x400 + 8 * k) 4
      id != 0 && id == i.imageId && i.imageVer < s.keyNat (0x404 + 8 * k) 4) then some 0x0C24
  else none

/-- An image is copied into both banks of the image store, and its header is taken (R89). No copy is ever written outside SRAM:
`ok` says that the registers of R560 place the store. A rig that enables no task is not refused while they do not; its image is
then not copied (DEDUCED, assumption log 71). -/
def State.storeImage (s : State) (ok : Bool) (home : Nat) (l : List Byte) : State :=
  let s := if ok then (s.devWrite (s.imgSlot false home) l).devWrite (s.imgSlot true home) l else s
  s.setImage home (parseImage l)

/-- The image's entry in ROLL_IMG is raised, or created; 0x0C25 where no free entry is left (R490). -/
def State.raiseRoll (s : State) (i : ImgInfo) : State :=
  let id (k : Nat) : Nat := s.keyNat (0x400 + 8 * k) 4
  if i.imageId = 0 then s
  else match (List.range 64).find? (fun k => id k == i.imageId) with
    | some k => if s.keyNat (0x404 + 8 * k) 4 < i.imageVer then s.keyWrite (0x404 + 8 * k) (leBytes 4 i.imageVer) else s
    | none =>
      match (List.range 64).find? (fun k => id k == 0) with
      | some k => s.keyWrite (0x400 + 8 * k) (leBytes 4 i.imageId ++ leBytes 4 i.imageVer)
      | none => s.fault 0x0C25 0

end Sys2Proof.Machine
end

