-- ==== Sys2Proof/Machine/CoxOps.lean ====
section
/-! DEFINITION. Machine/CoxOps.lean: what writes of the Cox's own registers do: the mailbox, the life cycle, firmware
confirmation, live replacement and software reset (R450, R469, R487, R489, R493). -/
namespace Sys2Proof.Machine

/-! ### Mailbox (R469) -/
/-- A request of slot p is pending. -/
def State.mboxPending (s : State) (p : Nat) : Bool :=
  let r := s.get (F.MBOX_RSP_RESULT p)
  s.get (F.MBOX_RSP_SEQ p) != s.get (F.MBOX_REQ_SEQ p) || r == 1 || r == 2

/-- A write of MBOX[p].REQ. -/
def State.mboxReq (s : State) (p : Nat) (v : Word) : State :=
  if s.mboxPending p then s.raise (F.MBOX_RSP_OVF p)
  else (s.put (F.MBOX_REQ_SEQ p) (bitsOf v.toNat 15 8)).put (F.MBOX_REQ_CODE p) (bitsOf v.toNat 7 0)

/-- The Cox answers slot p. -/
def State.mboxAnswer (s : State) (p res : Nat) : State :=
  (s.put (F.MBOX_RSP_SEQ p) (s.get (F.MBOX_REQ_SEQ p))).put (F.MBOX_RSP_RESULT p) res

def State.mboxArg (s : State) (p i : Nat) : Nat := (s.rd (R.MBOX_ARG p i)).toNat

/-! ### Life cycle and firmware (R487, R489) -/
/-- JTAG is open in DEV and RETURNED, or by R491 until the next reset. -/
def State.jtagFree (s : State) : Bool := s.lcs == 1 || s.lcs == 3 || s.jtagOpen

def State.showJtag (s : State) : State := s.putB F.CRYPTO_JTAG_OPEN s.jtagFree

/-- A write of CRYPTO.LCS. -/
def State.lcsWrite (s : State) (v : Word) : State :=
  if bitsOf v.toNat 15 8 = 0x3C && bitsOf v.toNat 1 0 = 2 && s.lcs = 1 then
    ((s.keyWrite 4 [2]).logRec 9 3 0 2).showFw.showJtag
  else s

/-- A write of CRYPTO.FW.CONFIRM = 1. -/
def State.fwConfirm (s : State) : State :=
  let b := s.get F.CRYPTO_FW_RSLOT
  let f := s.fwState
  let s := s.keyWrite 8 (leBytes 4 (max s.rollFw (s.fwSvn b)))
  (s.setFwState { f with cslot := b, trialv := false }).logFw 3 b

/-! ### Live replacement (R493) -/
/-- The image in a slot of the image store, up to the length its header gives. -/
def State.slotImage (s : State) (home : Nat) : List Byte :=
  let a := s.imgSlot false home
  let i := parseImage (s.bytes a 64)
  let n := 64 + 16 * s.rdN (a + 0x14) 1 + i.imemSize + i.dmemSize
  s.bytes a (min 196608 (n + (if s.rdN (a + 7) 1 % 2 = 1 then 128 else 0)))

/-- The task tables agree as R493 asks. -/
def swapTables (s : State) (home : Nat) (old new : ImgInfo) : Bool :=
  let nums (i : ImgInfo) := (List.range 16).filter (fun t => i.tasks.any (fun x => x.task == t))
  let entry (i : ImgInfo) (t : Nat) := i.tasks.find? (fun x => x.task == t)
  nums old == nums new && (List.range 16).all (fun t =>
    let k := s.task (taskKey home t)
    !(k.en && k.src == srcCatch) || (entry old t).map (fun x => (x.ckptSize, x.ckptOff)) ==
      (entry new t).map (fun x => (x.ckptSize, x.ckptOff)))

/-- A write of SE.SWAP. -/
def State.seSwap (s : State) (v : Word) : State :=
  let p := bitsOf v.toNat 3 0
  let s := s.put F.SE_SWAP_PAIR p
  if !v.getLsbD 31 || s.swap.isSome then s
  else
    let q := s.get F.SE_SPARE_PAIR
    let home := s.homeOf p
    let l := s.slotImage q
    let busy := s.orders.any (fun o => o.isRunning && (match s.laneTask o.lane with
      | some k => k / 16 == home
      | none => false))
    let ok := p < 9 && s.bit F.SE_SPARE_AVAIL && (s.pairSt p == pACTIVE || s.pairSt p == pHOST) &&
      (s.imageFault l (s.bit F.CRYPTO_POL_SIGIMG) (s.bit F.CRYPTO_POL_ROLLIMG)).isNone &&
      swapTables s home (s.image home) (parseImage l) && !busy
    if ok then { s with swap := some { pair := p, spare := q, goAt := s.now } }.wr R.SE_SWAP_STAT 0
    else (s.put F.SE_SWAP_STAT_RESULT 3).fault 0x0C30 p

end Sys2Proof.Machine
end

