-- ==== Sys2Proof/Machine/RigStore.lean ====
section
/-! DEFINITION. Machine/RigStore.lean: a rig's layout, its sections, and whether it is valid (R442 to R444). -/
namespace Sys2Proof.Machine

/-- An entry of the section directory (R442). -/
structure RigSec where
  typ : Nat
  idx : Nat
  off : Nat
  size : Nat
  deriving DecidableEq, Repr

abbrev rsREGLOAD : Nat := 1
abbrev rsCLAIMS : Nat := 2
abbrev rsTASKS : Nat := 3
abbrev rsIMAGE : Nat := 4
abbrev rsPTABLE : Nat := 5
abbrev rsCOEF : Nat := 6
abbrev rsFIELD : Nat := 7
abbrev rsTILEREG : Nat := 8

/-- The directory of a rig. -/
def rigSecs (l : List Byte) : List RigSec :=
  (List.range (leAt l 6 1)).map (fun k =>
    let o := 0x20 + 12 * k
    { typ := leAt l o 1, idx := leAt l (o + 1) 1, off := leAt l (o + 4) 4, size := leAt l (o + 8) 4 })

/-- The last INDEX of a section type (R443). -/
def secLimit (t : Nat) : Nat :=
  if t = rsTASKS || t = rsIMAGE then 8 else if t = rsFIELD || t = rsTILEREG then 15 else if t = rsPTABLE then 15 else 0

/-- A section's INDEX is listed, its SIZE matches its content and its reserved bytes are 0 (R443, R444). -/
def RigSec.ok (l : List Byte) (x : RigSec) : Bool :=
  let c := slice l x.off x.size
  let recs (n o k : Nat) : Bool := (List.range (x.size / n)).all (fun i => allZero c (n * i + o) k)
  let nslot := leAt c 0 2
  x.idx ≤ secLimit x.typ && (x.typ != rsPTABLE || 2 ≤ x.idx) &&
    (if x.typ = rsREGLOAD then x.size % 8 == 0
     else if x.typ = rsCLAIMS then x.size % 4 == 0 && recs 4 3 1
     else if x.typ = rsTASKS then x.size == 196 && allZero c 1 3
     else if x.typ = rsIMAGE then true
     else if x.typ = rsPTABLE then x.size == 65536
     else if x.typ = rsCOEF then x.size % 64 == 0 && recs 64 52 12
     else if x.typ = rsFIELD then
       4 ≤ x.size && nslot ≤ 512 && 4 + 8 * nslot ≤ x.size && (x.size - 4 - 8 * nslot) % 8 == 0 && allZero c 2 2 &&
         (List.range ((x.size - 4 - 8 * nslot) / 8)).all (fun i => allZero c (4 + 8 * nslot + 8 * i + 6) 2)
     else if x.typ = rsTILEREG then x.size == 12 && allZero c 10 2
     else false)

/-- The header's own fields (R442). -/
def rigHeaderOk (h : List Byte) : Bool :=
  let n := leAt h 6 1
  leAt h 0 4 == 0x31474952 && leAt h 4 2 == 1 && 1 ≤ n && n ≤ 15 && allZero h 7 1 && allZero h 0xC 4 && allZero h 0x18 8 &&
    0x100 ≤ leAt h 0x10 4 && leAt h 0x10 4 ≤ 0x7FC00 && (List.range n).all (fun k => allZero h (0x22 + 12 * k) 2) &&
    allZero h (0x20 + 12 * n) (0xFC - (0x20 + 12 * n)) && crc32 (h.take 0xFC) == leAt h 0xFC 4

/-- A copy, from its header to LENGTH − 1, is well formed (R444). -/
def rigWellFormed (l : List Byte) : Bool :=
  let ss := rigSecs l
  crc32 (l.drop 0x100) == leAt l 0x14 4 &&
    ss.all (fun x => x.off % 32 == 0 && 0x100 ≤ x.off && x.off + x.size ≤ l.length && x.ok l) &&
    (List.range ss.length).all (fun i => (List.range i).all (fun j =>
      match ss[i]?, ss[j]? with
      | some a, some b => !rangesOverlap a.off a.size b.off b.size && !(a.typ == b.typ && a.idx == b.idx)
      | _, _ => true))

/-- A well-formed copy of rig r in one macro. -/
def State.rigCopy (s : State) (m1 : Bool) (r : Nat) : Option (List Byte) :=
  let a := rigBase m1 r
  let h := s.bytes a 256
  let n := leAt h 0x10 4
  if s.touchesUe a 256 || !rigHeaderOk h || s.touchesUe a n then none
  else
    let l := s.bytes a n
    if rigWellFormed l then some l else none

/-- The rig store asks for the rewrite of macro m's copy of rig r from the other (R444). -/
def State.rigRepair (s : State) (r m : Nat) : State := (s.maintSubmit { act := 2, a1 := r, a2 := m }).2

/-- The rig store takes rig r (R444): its bytes where it is valid. One good copy alone is copied over the other, under the
maintenance activity "rig write" with no order behind it: a1 is the rig and a2 the macro that is rewritten. -/
def State.rigTake (s : State) (r : Nat) : Option (List Byte) × State :=
  match s.rigCopy false r, s.rigCopy true r with
  | some a, some b => if a = b then (some a, s) else (none, s.fault 0x0B03 r)
  | some a, none => (some a, (s.fault 0x0B02 r).rigRepair r 1)
  | none, some b => (some b, (s.fault 0x0B02 r).rigRepair r 0)
  | none, none => (none, s.fault 0x0B01 r)

/-- The content of a section, where the rig has it. -/
def rigSec (l : List Byte) (t i : Nat) : Option (List Byte) :=
  ((rigSecs l).find? (fun x => x.typ == t && x.idx == i)).map (fun x => slice l x.off x.size)

/-- Records of n bytes. -/
def cutRecs (n : Nat) (l : List Byte) : List (List Byte) := (List.range (l.length / n)).map (fun i => slice l (n * i) n)

/-- REGLOAD records: address and value, in order. -/
def rigLoads (l : List Byte) : List (Nat × Word) :=
  ((rigSec l rsREGLOAD 0).map (fun c => (cutRecs 8 c).map (fun x => (leAt x 0 4, BitVec.ofNat 32 (leAt x 4 4))))).getD []

/-- CLAIMS records: resource ID and owner code. -/
def rigClaims (l : List Byte) : List (Nat × Nat) :=
  ((rigSec l rsCLAIMS 0).map (fun c => (cutRecs 4 c).map (fun x => (leAt x 0 2, leAt x 2 1)))).getD []

/-- One enabled task of a rig: its key, descriptor words and timer period. -/
structure RigTask where
  key : Nat
  d0 : Word
  d1 : Word
  per : Nat
  deriving DecidableEq, Repr

def RigTask.toRec (t : RigTask) : TaskRec := { desc0 := t.d0, desc1 := t.d1 }

/-- The TASKS sections: per pair its image number and its 16 task records. -/
def rigTasks (l : List Byte) : List (Nat × Nat × List RigTask) :=
  (List.range 9).filterMap (fun p => (rigSec l rsTASKS p).map (fun c =>
    (p, leAt c 0 1, (List.range 16).map (fun t =>
      { key := taskKey p t, d0 := BitVec.ofNat 32 (leAt c (4 + 12 * t) 4), d1 := BitVec.ofNat 32 (leAt c (8 + 12 * t) 4)
        per := leAt c (12 + 12 * t) 4 }))))

def rigImage (l : List Byte) (k : Nat) : Option (List Byte) := rigSec l rsIMAGE k

/-- Node table entries of port j: serial, address, DUAL. -/
def rigNodes (l : List Byte) (j : Nat) : List NodeTab :=
  match rigSec l rsFIELD j with
  | none => []
  | some c => (cutRecs 8 (c.drop (4 + 8 * leAt c 0 2))).map (fun x =>
      { serial := leAt x 0 4, port := j, addr := leAt x 4 1, dual := leAt x 5 1 == 1 })

/-- Slots of port j. -/
def rigSlots (l : List Byte) (j : Nat) : List (Nat × Nat) :=
  match rigSec l rsFIELD j with
  | none => []
  | some c => (cutRecs 8 (slice c 4 (8 * leAt c 0 2))).map (fun x => (leAt x 0 4, leAt x 4 4))

/-- The rig store's answer without its faults. -/
def State.rigValid (s : State) (r : Nat) : Bool :=
  match s.rigCopy false r, s.rigCopy true r with
  | some a, some b => a == b
  | none, none => false
  | _, _ => true

end Sys2Proof.Machine
end

