-- ==== Sys2Proof/Machine/Boot.lean ====
section
/-! DEFINITION. Machine/Boot.lean: the cold and the resume boot up to the choice of the rig, and momentary resets
(R445, R450, R456, R460, R488). -/
namespace Sys2Proof.Machine

/-- Every domain is on during boot (R456). -/
def State.bootDomains (s : State) : State := { s with domOn := 2 ^ 14 - 1, domRet := 0 }.showDomains

/-- The slot the boot ROM runs: by R488 at a cold boot, by the digest that AON holds at a resume boot (R460). -/
def State.bootSlot (s : State) (resume : Bool) : Option Nat × State :=
  let c := s.fwState.cslot
  match (if resume then [c, 1 - c].find? (fun b => s.fwHash b != [] && s.fwHash b == s.fwDigest) else none) with
  | some b => (some b, s)
  | none => s.chooseSlot

/-- The rig of this boot is chosen and checked (R445, R460). -/
def State.bootRig (s : State) (resume : Bool) : State :=
  let r := if resume then s.get F.AON_RIG_ACTIVE
    else if s.bit F.AON_SET_RIGPIN_EN then s.get F.AON_RIG_PINS else s.get F.AON_RIG_LAST
  if resume && s.bit F.AON_RIG_NONE then { s with rigSel := none }
  else
    let s := s.putB F.AON_RIG_NONE true
    match s.rigTake r with
    | (some _, s) => { s with rigSel := some r }
    | (none, s) => { s with rigSel := none }.fault 0x0B04 r

/-- The boot ROM stays in recovery: PD0, PD3 and PD4 alone are on (R488, R510). -/
def State.enterRecovery (s : State) : State :=
  { s with recovery := true, domOn := 0b11001, domRet := 0 }.showDomains

/-- A boot, from the release of reset or the wake up to the start of the firmware. The islands, the pairs' self-tests and the
journal's recovery follow as events of their own. -/
def State.boot (s : State) (vaonLost resume : Bool) : State :=
  let s := { s with kickAt := s.now, kicked := false, resumeBoot := resume, inRest := false, recovery := false, hkAt := s.now, scrubAt := s.now }
  let s := (s.setPw pwBOOT).bootDomains
  let s := if vaonLost then s.restoreSettings else s
  let s := if resume then s else s.put F.AON_RIG_PINS s.rigPins
  let t := s.rtc
  let s := { s with ctime := { sec := t }, ltime := { sec := t }, lastTick := 0, ptab := bootTables }
  let s := s.findHead.newNonce.showFw.showJtag
  if s.bootMode && !resume then s.enterRecovery
  else match s.bootSlot resume with
    | (none, s) => s.enterRecovery
    | (some b, s) =>
      let s := { s.put F.CRYPTO_FW_RSLOT b with fwDigest := s.fwHash b }
      s.bootRig resume

/-- A cold boot starts once no reset is in force (R450, R456). -/
def State.coldBoot (s : State) (vaonLost : Bool) : State :=
  if s.powered && s.rstBy.isEmpty then s.boot vaonLost false else s

/-- A reset that ends as soon as it has acted: causes 3, 4, 5 and 9. -/
def State.startReset (s : State) (code : Nat) : State :=
  if s.powered then (s.noteReset code).assertReset.coldBoot false else s

/-- A reset that stays in force (R450, R511). -/
def State.holdReset (s : State) (code : Nat) : State :=
  let s := if code = 0 || s.rstBy.contains code then s else s.noteReset code
  if s.rstBy.contains code then s else { s.assertReset with rstBy := code :: s.rstBy }

/-- It is released. -/
def State.releaseReset (s : State) (code : Nat) : State :=
  if s.rstBy.contains code then { s with rstBy := s.rstBy.filter (· != code) }.coldBoot false else s

end Sys2Proof.Machine
end

