-- ==== Sys2Proof/Machine/PinOps.lean ====
section
/-! DEFINITION. Machine/PinOps.lean: the claim request register, DMA descriptors, GPIO and the auxiliary converter's
registers (R34, R37, R40, R518 to R521). -/
namespace Sys2Proof.Machine

/-! ### SYS -/
/-- A Cox write of SYS.CLAIM_REQ. While a request is pending it has no effect; an owner code other than 0x01 and 0x40 is
refused at once (R40). -/
def State.claimReq (s : State) (release : Bool) (owner res : Nat) : State :=
  if s.bit F.SYS_CLAIM_STAT_BUSY then s
  else if owner ≠ 1 && owner ≠ 0x40 then
    ((s.put F.SYS_CLAIM_STAT_RESULT 3).put F.SYS_CLAIM_STAT_HOLDER (s.ownerOf res)).fault 0x0112 res
  else { s with claimReqs := s.claimReqs ++
      [({ cox := true, release := release, owner := owner, res := res, at0 := s.now } : ClaimReq)] }.putB F.SYS_CLAIM_STAT_BUSY true

/-- A write of SYS.DMA_SEL shows the selected descriptor (assumption log 16). -/
def State.dmaSel (s : State) (d : Nat) : State :=
  let s := s.put F.SYS_DMA_SEL_IDX d
  let (b, l) := s.dmaOf d
  (s.wr R.SYS_DMA_BASE (BitVec.ofNat 32 b)).wr R.SYS_DMA_LEN (BitVec.ofNat 32 l)

/-- The rules of R37 for descriptor d. -/
def State.dmaOk (s : State) (d base len : Nat) : Bool :=
  let h := s.ownerOf (0x7000 + d)
  h != 0 && len % 8 == 0 && 8 ≤ len && len ≤ 1048576 && rangeInSram base len &&
    s.seAreas.all (fun x => !rangesOverlap base len x.1 x.2) &&
    s.dma.all (fun e => e.1 == d || !rangesOverlap base len e.2.1 e.2.2 || s.ownerOf (0x7000 + e.1) == h)

/-- A write of SYS.DMA_LEN commits the staged base with it (R37). -/
def State.dmaLen (s : State) (len : Nat) : State :=
  let d := s.get F.SYS_DMA_SEL_IDX
  let base := s.get F.SYS_DMA_BASE_ADDR * 8
  if s.dmaOk d base len then { s with dma := mset (0, 0) s.dma d (base, len) }.put F.SYS_DMA_LEN_LEN len
  else s.fault 0x0113 d

/-- Writing SYS.CNT_CLR (R40). -/
def State.clrEcc (s : State) : State := s.wr R.SYS_ECC_CE 0
def State.clrOvf (s : State) : State := s.wr R.SYS_FLT_OVF 0
def State.clrRetry (s : State) (k : Nat) : State := (s.wr (R.SYS_RETRY_T k) 0).wr (R.SYS_RETRY_L k) 0

/-! ### GPIO (R518, R519) -/
/-- Functional brake outputs. -/
def State.brkPins (s : State) : Nat :=
  (List.range 32).foldl (fun m n => if s.get (F.PROF_BRK_OUT n) = 1 then natBit m (s.get (F.PROF_BRK_OIDX n)) true else m) 0

/-- The pins a driver holds show their level in GPIO.IN: functional brakes as their profile unit drives them, others OUT. -/
def State.gpioShow (s : State) : State :=
  let oe := s.get F.GPIO_OE_OE
  let out := s.get F.GPIO_OUT_OUT
  let brk := s.get F.GPIO_BRK_BRK
  let n := (List.range 32).foldl (fun (m : Nat) g => if oe.testBit g && !brk.testBit g then natBit m g (out.testBit g) else m)
    (s.get F.GPIO_IN_IN)
  let n := (List.range 32).foldl (fun (m : Nat) c =>
    if s.get (F.PROF_BRK_OUT c) = 1 then natBit m (s.get (F.PROF_BRK_OIDX c)) (!s.bit (F.PROF_PSTAT_BRKOUT c)) else m) n
  s.put F.GPIO_IN_IN n

/-- A write of GPIO.OUT or OE by a writer whose pins are those `mine` says. -/
def State.gpioWrite (s : State) (a : Nat) (mine : Nat → Bool) (v : Word) : State :=
  let brk := s.get F.GPIO_BRK_BRK
  let n := (List.range 32).foldl (fun (m : Nat) g => if mine g && !brk.testBit g then natBit m g (v.getLsbD g) else m) (s.rd a).toNat
  (s.wr a (BitVec.ofNat 32 n)).gpioShow

/-- Pins the Cox writes: those held by 0x01 or 0x02. -/
def State.coxPin (s : State) (g : Nat) : Bool := s.ownerOf g == 1 || s.ownerOf g == 2

/-! ### Auxiliary converter (R520) -/

/-- A write of CFG.START = 1: a series of 2^OSR conversions in MODE 2. -/
def State.auxStart (s : State) (a : Nat) : State :=
  if s.get (F.AUXADC_CH_CFG_MODE a) = 2 && s.bit (F.AUXADC_CH_CFG_EN a) then
    (s.setAux a { s.aux a with n := 0, sum := 0, due := 2 ^ s.get (F.AUXADC_CH_CFG_OSR a), acq := s.now + 200 }).auxShow
  else s

/-- A channel's configuration breaks a rule of R520. -/
def State.auxBad (s : State) (a : Nat) (en : Bool) (mode crew : Nat) : Bool :=
  (en && !s.auxHeld a) || (mode == 1 && s.crewKind crew == 0)

/-- The mode a write of CH[a].CFG asks for; 3 leaves it as it is. -/
def State.auxMode (s : State) (a : Nat) (v : Word) : Nat :=
  if bitsOf v.toNat 2 1 = 3 then s.get (F.AUXADC_CH_CFG_MODE a) else bitsOf v.toNat 2 1

/-- The write is refused. -/
def State.auxRefused (s : State) (a : Nat) (v : Word) : Bool :=
  s.auxBad a (v.getLsbD 0) (s.auxMode a v) (bitsOf v.toNat 9 5)

/-- A write of CH[a].CFG but its START. -/
def State.auxCfg (s : State) (a : Nat) (v : Word) : State :=
  let w := v.toNat
  let en := w.testBit 0
  let mode := s.auxMode a v
  let osr := if bitsOf w 15 12 > 8 then s.get (F.AUXADC_CH_CFG_OSR a) else bitsOf w 15 12
  let crew := bitsOf w 9 5
  if s.auxRefused a v then s.fault 0x0130 a
  else
    let was := s.bit (F.AUXADC_CH_CFG_EN a)
    let s := (s.putB (F.AUXADC_CH_CFG_EN a) en).put (F.AUXADC_CH_CFG_MODE a) mode
    let s := (s.put (F.AUXADC_CH_CFG_OSR a) osr).put (F.AUXADC_CH_CFG_CREW a) crew
    let s := if en && !was then s.putB (F.AUXADC_CH_RES_VALID a) false else s
    (s.setAux a { out := (s.aux a).out }).auxShow

/-- A read of CH[a].RES (R521). -/
def State.auxRead (s : State) (a : Nat) : Word × State :=
  (s.rd (R.AUXADC_CH_RES a), (s.putB (F.AUXADC_CH_RES_NEW a) false).putB (F.AUXADC_CH_RES_OVR a) false)

end Sys2Proof.Machine
end

