-- ==== Sys2Proof/Machine/RegIO.lean ====
section
/-! DEFINITION. Machine/RegIO.lean: what a write and a read of a register do, whoever makes them (R9, R10, and the register
tables). Rights are checked before. -/
namespace Sys2Proof.Machine

/-- The next state of an operation that never stops. -/
def nextOf (s : State) (o : Out) : State :=
  match o with
  | .next t => t
  | _ => s

/-! ### Plain fields -/
/-- Fields whose values outside a stated range have no effect: high bit, low bit, smallest and largest value. -/
def fieldRanges (a : Nat) : List (Nat × Nat × Nat × Nat) :=
  let o := a % 65536
  match winOf a with
  | 1 => if o = 0 then [(15, 8, 1, 60)] else if o = 0x28 then [(13, 0, 10, 10000)] else []
  | 3 => if o = 8 then [(7, 0, 1, 255)] else []
  | 6 => if o % 0x400 = 0 then [(1, 0, 0, 2)] else if o % 0x400 = 8 then [(7, 0, 40, 255)] else []
  | 7 =>
    let o := o % 0x800
    if o = 0x24 then [(1, 0, 0, 2)] else if o = 0x210 then [(15, 0, 1, 10000)]
    else if o = 0x218 then [(27, 16, 1, 3600), (15, 0, 1, 10000)]
    else if o = 0x200 then [(26, 22, 4, 20), (17, 12, 0, 31), (6, 5, 0, 1), (4, 3, 0, 1), (2, 1, 0, 2)] else []
  | 8 =>
    let o := o % 0x800
    if o = 0 then [(1, 0, 0, 2)] else if o = 0x3C then [(17, 16, 0, 2)]
    else if o = 0x78 then [(31, 16, 0, 10000)] else if o = 0x80 then [(9, 0, 50, 1000)] else []
  | 9 => if o = 0 then [(29, 24, 4, 31), (16, 8, 8, 256)] else []
  | 10 => if o % 0x1000 = 0 then [(5, 4, 1, 2)] else []
  | 11 =>
    let o := o % 0x100
    if o = 0 then [(11, 8, 0, 3)] else if o = 4 then [(31, 24, 1, 255), (23, 16, 19, 255), (5, 0, 8, 40)]
    else if o = 8 then [(31, 16, 1, 65535)] else []
  | 12 =>
    if o = 0xC8 then [(7, 0, 79, 255)] else if o = 0xD0 then [(31, 16, 1, 65535)]
    else if 0x400 ≤ o && o < 0x800 && o % 16 = 0xC then [(29, 0, 0, 999999999)] else []
  | 13 =>
    if o = 0x90 || o = 0x94 then [(23, 16, 1, 255)] else if o = 0x98 then [(7, 0, 2, 255)]
    else if o = 0xC0 then [(10, 9, 0, 2)] else []
  | 14 => if o = 8 then [(15, 0, 1, 10000)] else []
  | 15 => if o = 0x1C then [(13, 0, 10, 10000)] else []
  | 16 => if o = 4 then [(7, 0, 1, 168)] else []
  | _ => []

/-- A field outside its range keeps the old value. -/
def keepBad (l : List (Nat × Nat × Nat × Nat)) (old v : Word) : Word :=
  l.foldl (fun v (hi, lo, mn, mx) =>
    let x := bitsOf v.toNat hi lo
    if mn ≤ x && x ≤ mx then v else setField v hi lo (bitsOf old.toNat hi lo)) v

/-- The word a plain write leaves (R9): rw bits from the write, w1c bits cleared where it is 1. -/
def RegRow.plain (r : RegRow) (old v : Word) : Word :=
  let rw := BitVec.ofNat 32 r.rw
  let w1c := BitVec.ofNat 32 r.w1c
  ((old &&& ~~~(rw ||| w1c)) ||| (v &&& rw)) ||| (old &&& w1c &&& ~~~v)

/-- A plain write of the register at `a`. -/
def State.plainWrite (s : State) (r : RegRow) (a : Nat) (v : Word) : State :=
  let old := s.rd a
  s.wr a (r.plain old (keepBad (fieldRanges a) old v))


/-! ### Windows -/
def State.wrSys (s : State) (r : RegRow) (a : Nat) (v : Word) : State :=
  let n := v.toNat
  if a = R.SYS_CLAIM_REQ then s.claimReq (n.testBit 31) (bitsOf n 23 16) (bitsOf n 15 0)
  else if a = R.SYS_DMA_SEL then s.dmaSel (bitsOf n 7 0)
  else if a = R.SYS_DMA_LEN then s.dmaLen (bitsOf n 20 0)
  else if a = R.SYS_CNT_CLR then
    let s := if n.testBit 6 then s.clrEcc else s
    let s := if n.testBit 5 then s.clrOvf else s
    loopN 5 (fun k s => if n.testBit k then s.clrRetry k else s) s
  else s.plainWrite r a v

def State.wrAon (s : State) (r : RegRow) (a : Nat) (v : Word) : State :=
  if a = R.AON_SET || a = R.AON_WAKE then (s.plainWrite r a v).saveSettings
  else if a = R.AON_PWRCTL then
    let s := if s.bit F.AON_PWRCTL_READY != v.getLsbD 30 || v.getLsbD 30 then s.readyWrite (v.getLsbD 30) else s
    if v.getLsbD 31 then s.restRequest.2 else s
  else if a = R.AON_WDT then
    let s := (s.plainWrite r a v).saveSettings
    if bitsOf v.toNat 31 24 = 0x5A then s.kick else s
  else s.plainWrite r a v

def State.wrReset (s : State) (r : RegRow) (a : Nat) (v : Word) : State :=
  if a = R.RESET_CTL then (if bitsOf v.toNat 15 8 = 0xA5 && v.getLsbD 0 then s.startReset 5 else s)
  else s.plainWrite r a v

def State.wrMod (s : State) (r : RegRow) (a : Nat) (v : Word) : State :=
  if a = R.MOD_TBL_DATA then nextOf s (execTblDataAccess (some v) s) else s.plainWrite r a v

def State.wrLeg (s : State) (r : RegRow) (a : Nat) (v : Word) : State :=
  let x := a % 65536 / 0x400
  match a % 0x400 with
  | 0 => s.legMode x (bitsOf v.toNat 1 0)
  | 4 => s.legDt x v
  | 8 => s.legMinpw x (bitsOf v.toNat 7 0)
  | 0x10 => s.legRaw x (v.getLsbD 0) (v.getLsbD 1)
  | _ => s.plainWrite r a v

/-- A write of a guard register waits for ARMED while the guard is in HOLD or RENDER (R263). -/
def State.guardWrite (s : State) (r : RegRow) (n a : Nat) (v : Word) : State :=
  if s.guardSt n = gHOLD || s.guardSt n = gRENDER then
    let g := (s.crew n).guard
    let old := match g.late.find? (fun x => x.1 == a) with
      | some x => x.2
      | none => s.rd a
    let w := r.plain old (keepBad (fieldRanges a) old v)
    s.setCrew n { s.crew n with guard := { g with late := g.late.filter (fun x => x.1 != a) ++ [(a, w)] } }
  else s.plainWrite r a v

def State.wrCrew (s : State) (r : RegRow) (a : Nat) (v : Word) : State :=
  let n := a % 65536 / 0x800
  let o := a % 0x800
  if o = 0 then
    if v.getLsbD 1 then s.crewStop n else if v.getLsbD 0 then s.crewStart n else s
  else if o = 0x30 then s.setCrew n { s.crew n with angSet := some v }
  else if o = 0x38 then s.cmdAmp n v
  else if 0x204 ≤ o && o ≤ 0x21C then s.guardWrite r n a v
  else if o = 0x2C then slessTrack n (s.plainWrite r a v)
  else s.plainWrite r a v

def State.wrProf (s : State) (r : RegRow) (a : Nat) (v : Word) : State :=
  let n := a % 65536 / 0x800
  let o := a % 0x800
  if o = 0 then
    let m := bitsOf v.toNat 1 0
    let s := if m = s.pfMode n && !s.pfCrash n then s else s.profModeWr n m
    let s := if v.getLsbD 8 then s.profHalt n false else s
    if v.getLsbD 9 then s.profHalt n true else s
  else if 8 ≤ o && o ≤ 0x2C then s.profParam n ((o - 8) / 4) v
  else if o = 0x34 then s.profTgtH n v
  else if o = 0x38 then s.profVtgt n v
  else if o = 0x80 then s.iarPer n (bitsOf v.toNat 9 0)
  else if o = 0x88 then s.setpH n v
  else s.plainWrite r a v

def State.wrSinc (s : State) (r : RegRow) (a : Nat) (v : Word) : State :=
  let o := a % 65536
  if 0x800 ≤ o && o < 0x1000 && o % 0x40 = 0x20 then s.eclr ((o - 0x800) / 0x40) (v.getLsbD 0) else s.plainWrite r a v

def State.wrYilos (s : State) (r : RegRow) (a : Nat) (v : Word) : State :=
  let k := a % 65536 / 0x1000
  match a % 0x1000 with
  | 0 =>
    let en := v.getLsbD 0
    let was := s.bit (F.YILOS_CTL_EN k)
    let s := s.plainWrite r a v
    -- TXEQ above 120 is taken as 120
    let s := s.put (F.YILOS_CTL_TXEQ k) (min 120 (s.get (F.YILOS_CTL_TXEQ k)))
    let s := if en != was then s.yilosEn k en else s
    if v.getLsbD 1 then s.yilosRetrain k else s
  | 0x18 => if v.getLsbD 0 then s.yilosClr k else s
  | 0x800 => s.yilosMwr k (v.getLsbD 16) (bitsOf v.toNat 15 8) (bitsOf v.toNat 7 0)
  | 0x808 =>
    if h : k < 16 then nextOf s (execDiagStart ⟨k, h⟩ v s) else s
  | _ => s.plainWrite r a v

def State.wrPos (s : State) (r : RegRow) (a : Nat) (v : Word) : State :=
  let j := a % 65536 / 0x100
  match a % 0x100 with
  | 0x28 =>
    let s := if v.getLsbD 0 then s.posClr j else s
    if v.getLsbD 1 then s.posRearm j else s
  | _ => (s.plainWrite r a v).posWritten j

def State.wrRing (s : State) (r : RegRow) (a : Nat) (v : Word) : State :=
  let o := a % 65536
  if a = R.RING_MDIO_CMD then s.mdioWrite v
  else if a = R.RING_BYP then
    let s := s.wr a (setField (s.rd a) 31 16 (bitsOf (keepBad (fieldRanges a) (s.rd a) v).toNat 31 16))
    let s := if s.bit F.RING_BYP_INSERT != v.getLsbD 0 then s.bypInsert (v.getLsbD 0) else s
    if v.getLsbD 1 then s.bypLeave else s
  else if 0x400 ≤ o && o < 0x800 then
    let e := (o - 0x400) / 16
    if o % 16 = 0 then s.lqCtlWrite e 0x01 v
    else s.lqWrite e a (r.plain (s.rd a) (keepBad (fieldRanges a) (s.rd a) v))
  else s.plainWrite r a v

def State.wrTime (s : State) (r : RegRow) (a : Nat) (v : Word) : State :=
  if a = R.TIME_LRMAX then (if fle v 0x47C35000#32 then s.wr a v else s) else s.plainWrite r a v

def State.wrField (s : State) (r : RegRow) (a : Nat) (v : Word) : State :=
  if a = R.FIELD_SWR_V then nextOf s (execFieldSwrV v s)
  else if a = R.FIELD_CLR then (if v.getLsbD 0 then s.fieldClear else s)
  else s.plainWrite r a v

def State.wrMaster (s : State) (r : RegRow) (a : Nat) (v : Word) : State :=
  if a = R.MASTER_CNTCLR then s.cntClr v else s.plainWrite r a v

/-- Any task of any pair is enabled. -/
def State.anyTask (s : State) : Bool := allTasks.any (fun k => (s.task k).st != .disabled)

def State.wrSe (s : State) (r : RegRow) (a : Nat) (v : Word) : State :=
  let key := taskKey (s.get F.SE_TASK_SEL_PAIR) (s.get F.SE_TASK_SEL_TASK)
  let o := a % 65536
  if a = R.SE_CTL then nextOf s (execSeRetest v s)
  else if 0x48 ≤ o && o ≤ 0x54 then (if s.anyTask then s else s.plainWrite r a v)
  else if a = R.SE_TASK_DESC0 then
    if (s.task key).st = .disabled then s.setTask key { s.task key with desc0 := v &&& BitVec.ofNat 32 r.rw } else s
  else if a = R.SE_TASK_DESC1 then
    if (s.task key).st = .disabled then s.setTask key { s.task key with desc1 := v &&& BitVec.ofNat 32 r.rw } else s
  else if a = R.SE_MEM_DATA then nextOf s (execSeMemDataWrite v s)
  else if a = R.SE_COEF_DATA then nextOf s (execCoefDataWrite v s)
  else if a = R.SE_COEF_SWAP then nextOf s (execCoefSwap v s)
  else if a = R.SE_SWAP then s.seSwap v
  else if 0x100 ≤ o && o < 0x300 then
    let k := (o - 0x100) / 8
    if o % 8 = 0 then (s.putB (F.SE_TMR_CTL_ONESHOT k) (v.getLsbD 30)).tmrEn k (v.getLsbD 31)
    else
      let s := s.plainWrite r a v
      if s.get (F.SE_TMR_PER_PERIOD k) = 0 then s.putB (F.SE_TMR_CTL_EN k) false else s
  else s.plainWrite r a v

def State.wrCox (s : State) (r : RegRow) (a : Nat) (v : Word) : State :=
  let o := a % 65536
  if o < 0x1000 && o % 0x40 = 0 then s.mboxReq (o / 0x40) v else s.plainWrite r a v

def State.wrAux (s : State) (r : RegRow) (a : Nat) (v : Word) : State :=
  let o := a % 65536
  if 0x100 ≤ o && o < 0x180 && o % 16 = 0 then
    let c := (o - 0x100) / 16
    if v.getLsbD 16 && !s.auxRefused c v then (s.auxCfg c v).auxStart c else s.auxCfg c v
  else (s.plainWrite r a v).auxShow

def State.wrGpio (s : State) (mine : Nat → Bool) (r : RegRow) (a : Nat) (v : Word) : State :=
  if a = R.GPIO_OUT || a = R.GPIO_OE then s.gpioWrite a mine v else s.plainWrite r a v

def State.wrCrypto (s : State) (r : RegRow) (a : Nat) (v : Word) : State :=
  if a = R.CRYPTO_LCS then s.lcsWrite v
  else if a = R.CRYPTO_FW then (if v.getLsbD 31 then s.fwConfirm else s)
  else s.plainWrite r a v

/-- A write of the register at `a` (R9, R10): a reserved field that is not 0 is counted and stays 0; the rest is written. -/
def State.regWrite (s : State) (mine : Nat → Bool) (a : Nat) (v : Word) : State :=
  match findRow a with
  | none => s
  | some r =>
    let (v, s) := s.takeWord a v
    match winOf a with
    | 0 => s.wrSys r a v
    | 1 => s.wrAon r a v
    | 2 => s.wrReset r a v
    | 5 => s.wrMod r a v
    | 6 => s.wrLeg r a v
    | 7 => s.wrCrew r a v
    | 8 => s.wrProf r a v
    | 9 => s.wrSinc r a v
    | 10 => s.wrYilos r a v
    | 11 => s.wrPos r a v
    | 12 => s.wrRing r a v
    | 13 => s.wrTime r a v
    | 14 => s.wrField r a v
    | 15 => s.wrMaster r a v
    | 17 => s.wrSe r a v
    | 18 => s.wrCox r a v
    | 19 => s.wrAux r a v
    | 20 => s.wrGpio mine r a v
    | 21 => s.wrCrypto r a v
    | _ => s.plainWrite r a v

/-- A write by the Cox. -/
def State.coxWrite (s : State) (a : Nat) (v : Word) : State := s.regWrite s.coxPin a v

/-! ### Reads -/
/-- Entry k of the fault table, as SYS.FLT_ENT0 to FLT_ENT2 show it (R41). -/
def State.fltWord (s : State) (i : Nat) : Word :=
  match s.faults[s.get F.SYS_FLT_IDX_IDX]? with
  | none => 0
  | some e => BitVec.ofNat 32 (match i with
    | 0 => e.code + e.inst * 65536 + e.count * 16777216
    | 1 => e.sec
    | _ => e.ns)

/-- SE.TASK_STAT of the selected task. -/
def TaskRec.stat (t : TaskRec) : Word :=
  let st := match t.st with
    | .disabled => 0 | .waiting => 1 | .ready => 2 | .running => 3
  BitVec.ofNat 32 (st + t.pend.toNat * 8 + t.fcnt * 16 + t.lastFlt * 256 + t.coal * 16777216)

/-- What the register at `a` shows, without the effects of a read. -/
def State.readView (s : State) (a : Nat) : Word :=
  let key := taskKey (s.get F.SE_TASK_SEL_PAIR) (s.get F.SE_TASK_SEL_TASK)
  let n := a % 65536 / 0x800
  let j := a % 65536 / 0x100
  if winOf a = 8 && a % 0x800 = 0x40 then (s.readProfPos n).1
  else if winOf a = 8 && a % 0x800 = 0x44 then ((s.readProfPos n).2).rd a
  else if winOf a = 11 && a % 0x100 = 0x10 then (s.readLatch (s.pos j).cnt (R.POS_CNT_H j)).1
  else if winOf a = 11 && a % 0x100 = 0x20 then (s.readLatch (s.pos j).zcap (R.POS_ZCAP_H j)).1
  else if a = R.SYS_CLAIM_OWN then BitVec.ofNat 32 (s.ownerOf (s.get F.SYS_CLAIM_QRY_RES))
  else if a = R.SYS_FLT_CNT then BitVec.ofNat 32 s.faults.length
  else if a = R.SYS_FLT_ENT0 then s.fltWord 0
  else if a = R.SYS_FLT_ENT1 then s.fltWord 1
  else if a = R.SYS_FLT_ENT2 then s.fltWord 2
  else if a = R.MOD_TB then BitVec.ofNat 32 s.tb
  else if a = R.NVM_STAT then (if s.now < s.chunkAt then s.rd a ||| 4#32 else s.rd a)
  else if a = R.NVM_WEAR then BitVec.ofNat 32 (mget 0 s.wear (s.get F.NVM_WEAR_SEL_REGION) / 8192)
  else if a = R.SE_TASK_DESC0 then (s.task key).desc0
  else if a = R.SE_TASK_DESC1 then (s.task key).desc1
  else if a = R.SE_TASK_STAT then (s.task key).stat
  else if a = R.SE_TASK_ACT then BitVec.ofNat 32 (s.task key).act
  else if a = R.SE_COEF_DATA then (s.loop (s.get F.SE_COEF_SEL_LOOP)).word (s.bit F.SE_COEF_SEL_BANK) (s.get F.SE_COEF_SEL_WORD)
  else if a = R.FIELD_SCH_D0 then BitVec.ofNat 32 (s.slotWords (s.get F.FIELD_SCH_SEL_PORT) (s.get F.FIELD_SCH_SEL_SLOT)).1
  else if a = R.FIELD_SCH_D1 then BitVec.ofNat 32 (s.slotWords (s.get F.FIELD_SCH_SEL_PORT) (s.get F.FIELD_SCH_SEL_SLOT)).2
  else if a = R.FIELD_NT_SER then BitVec.ofNat 32 ((s.nodeTab[s.get F.FIELD_NT_SEL_IDX]?).map (·.serial) |>.getD 0)
  else if a = R.FIELD_NT_LOC then BitVec.ofNat 32 ((s.nodeTab[s.get F.FIELD_NT_SEL_IDX]?).map (fun e =>
    e.addr + e.port * 256 + 32768 + e.dual.toNat * 65536) |>.getD 0)
  else s.rd a

/-- A read of the register at `a` (R9): its value, and what the read does. A wo or rsv field reads 0; an address without a
register reads 0. -/
def State.regRead (s : State) (a : Nat) : Word × State :=
  match findRow a with
  | none => (0, s)
  | some r =>
    let o := a % 65536
    let n := o / 0x800
    let j := o / 0x100
    let (v, s) : Word × State :=
      if a = R.AON_RTC_L then s.readRtcL
      else if a = R.TIME_CT_SL then s.readCt
      else if a = R.TIME_LT_SL then s.readLt
      else if a = R.MOD_TBL_DATA then
        let t := nextOf s (execTblDataAccess none s)
        (t.rdata, { t with rdata := s.rdata })
      else if a = R.SE_MEM_DATA then
        let t := nextOf s (execSeMemDataRead s)
        (t.rdata, { t with rdata := s.rdata })
      else if winOf a = 8 && a % 0x800 = 0x40 then s.readProfPos n
      else if winOf a = 9 && 0x800 ≤ o && o < 0x1000 && o % 0x40 = 0x10 then s.readEnergy ((o - 0x800) / 0x40) false
      else if winOf a = 9 && 0x800 ≤ o && o < 0x1000 && o % 0x40 = 0x18 then s.readEnergy ((o - 0x800) / 0x40) true
      else if winOf a = 11 && a % 0x100 = 0x10 then s.readLatch (s.pos j).cnt (R.POS_CNT_H j)
      else if winOf a = 11 && a % 0x100 = 0x20 then s.readLatch (s.pos j).zcap (R.POS_ZCAP_H j)
      else if winOf a = 19 && 0x100 ≤ o && o < 0x180 && o % 16 = 4 then s.auxRead ((o - 0x100) / 16)
      else if winOf a = 8 && a % 0x800 = 0x44 then (s.rd a, s)
      else (s.readView a, s)
    (v &&& ~~~(BitVec.ofNat 32 (r.wo ||| r.rsv)), s)

end Sys2Proof.Machine
end

