-- ==== Sys2Proof/Machine/PortSpace.lean ====
section
/-! DEFINITION. Machine/PortSpace.lean: the port space of the Stroke engines, its write rights, and a pair's outbound queue
(R66 to R68, R102, R103, R123, R124). -/
namespace Sys2Proof.Machine

/-- The Cox address a port address maps to (R66, R468). Blocks from 0x40 on do not exist: a block number has 6 bits. -/
def portTarget (home : Nat) (port : BitVec 16) : Nat :=
  let b := bitsOf port.toNat 15 10
  let w := bitsOf port.toNat 9 0
  if b < 0x20 then
    if w < 512 then R.CREW_CTL b + 4 * w else R.PROF_CTL b + 4 * (w - 512)
  else if b < 0x30 then R.LEG_CTL (4 * (b - 0x20) + w / 256) + 4 * (w % 256)
  else if b < 0x38 then R.YILOS_CTL (2 * (b - 0x30) + w / 512) + 4 * (w % 512)
  else match b with
    | 0x38 => 0x40050000 + 4 * w
    | 0x39 => 0x40090000 + 4 * w
    | 0x3A => 0x400B0000 + 4 * w
    | 0x3B => 0x40040000 + 4 * w
    | 0x3C => 0x400D0000 + 4 * w
    | 0x3D => R.MBOX_REQ home + 4 * (w % 16)
    | 0x3E => 0x40130000 + 4 * w
    | _ => 0x40140000 + 4 * w

/-- An owner code whose resources the home pair's tasks may write (R68). -/
def State.pairOwns (s : State) (home o : Nat) : Bool :=
  o == 0x30 + home || (0x10 ≤ o && o < 0x30 && s.ownsCrew home (o - 0x10))

/-- The home pair's tasks may write the register at `a` (R68). In a block whose rights go by register, an offset without one may
be written, without effect (R67). -/
def State.portWritable (s : State) (home a : Nat) : Bool :=
  let o := a % 65536
  let legOk (x : Nat) : Bool := match s.legCrew x with
    | some n => s.ownsCrew home n
    | none => false
  let free := (findRow a).isNone && [5, 9, 11, 19, 20].contains (winOf a)
  free || (match winOf a with
    | 6 => legOk (o / 0x400)
    | 7 => s.ownsCrew home (o / 0x800)
    | 8 => s.ownsCrew home (o / 0x800)
    | 9 =>
      if 0x400 ≤ o && o < 0x800 then legOk ((o - 0x400) / 0x10)
      else if 0x800 ≤ o && o < 0x1000 then s.ownsCrew home ((o - 0x800) / 0x40) else false
    | 11 => s.pairOwns home (s.ownerOf (0x4000 + o / 0x100))
    | 18 => true
    | 19 => 0x100 ≤ o && o < 0x180 && s.pairOwns home (s.ownerOf (0x1000 + (o - 0x100) / 0x10))
    | 20 => (a == R.GPIO_OUT || a == R.GPIO_OE) && (List.range 32).any (fun g => s.pairOwns home (s.ownerOf g))
    | _ => false)

/-- A port write reaches its block, under the writer's owner code. A block whose domain is off takes nothing. -/
def State.portWrite (s : State) (owner a : Nat) (v : Word) : State :=
  if s.windowOn (winOf a) then s.regWrite (fun g => s.ownerOf g == owner) a v else s

/-- A read-modify-write in the block (R123, R124). -/
def State.portSet (s : State) (owner mode a : Nat) (v : Word) : State :=
  let old := match findRow a with
    | some r => s.readView a &&& ~~~(BitVec.ofNat 32 (r.wo ||| r.rsv))
    | none => 0
  let w := match mode with
    | 0 => old ||| v
    | 1 => old &&& ~~~v
    | _ => old ^^^ v
  s.portWrite owner a w

/-- A queued entry matches the address of a load, a port read or a signal-map read (R103). -/
def OutEntry.touches (e : OutEntry) (a n : Nat) : Bool :=
  match e with
  | .store b m _ => rangesOverlap a n b m
  | _ => false

def OutEntry.isPort (e : OutEntry) (a : Nat) : Bool :=
  match e with
  | .port _ b _ => a == b
  | .pset _ _ b _ => a == b
  | _ => false

def OutEntry.isSig (e : OutEntry) (a : Nat) : Bool :=
  match e with
  | .sigwr b _ => a == b
  | .trigger b => a == b
  | _ => false

/-- The effect of an entry at its target (R102). -/
def State.drainEffect (s : State) (e : OutEntry) : State :=
  match e with
  | .store a n v => (s.sramStore a n v.toNat).2
  | .port o a v => s.portWrite o a v
  | .pset o m a v => s.portSet o m a v
  | .sigwr a v => (s.sigWrite a v).2
  | .trigger a => s.signalEvent a

/-- The oldest entry of pair p drains, and its slot frees. -/
def State.drainOne (s : State) (p : Nat) : State :=
  match (s.pair p).queue with
  | [] => s
  | e :: r => (s.setPair p { s.pair p with queue := r }).drainEffect e

/-- n entries drain, oldest first. -/
def State.drainN (s : State) (p : Nat) : Nat → State
  | 0 => s
  | n + 1 => (s.drainOne p).drainN p n

/-- The queue drains up to its last entry that `f` matches (R103). -/
def State.drainTo (s : State) (p : Nat) (f : OutEntry → Bool) : State :=
  let q := (s.pair p).queue
  let n := (List.range q.length).foldl (fun m i => match q[i]? with
    | some e => if f e then i + 1 else m
    | none => m) 0
  s.drainN p n

/-- An entry is posted. With all 8 slots full, the instruction stalls until the oldest has drained (R102). -/
def State.post (s : State) (p : Nat) (e : OutEntry) : State :=
  let s := if (s.pair p).queue.length ≥ 8 then s.drainOne p else s
  s.setPair p { s.pair p with queue := (s.pair p).queue ++ [e] }

/-- OUTBOUND_QUEUE_DRAIN (R102). A fenced pair's entries drain as well: they passed their compare (R47). -/
def execOutboundQueueDrain (p : PairNo) (s : State) : Out := .next (s.drainOne p)

end Sys2Proof.Machine
end

