-- ==== Sys2Proof/Machine/RigApply.lean ====
section
/-! DEFINITION. Machine/RigApply.lean: rig activation: the content rules, the claim list, and applying a rig (R36, R443,
R447 to R449). -/
namespace Sys2Proof.Machine

/-! ### Loading fields (R443) -/
/-- Windows whose rw fields return to reset: MOD, LEG, CREW, PROF, SINC and POS. -/
def rigResetWin (w : Nat) : Bool := (5 ≤ w && w ≤ 9) || w == 11

/-- What stays of a stored register: none where it reads as after reset. -/
def rigBack (p : Nat × Word) : Option (Nat × Word) :=
  match findRow p.1 with
  | none => some p
  | some r =>
    let m := BitVec.ofNat 32 (r.rig ||| (if rigResetWin (winOf p.1) then r.rw else 0))
    let z := BitVec.ofNat 32 (r.resetAt p.1)
    let v := (p.2 &&& ~~~m) ||| (z &&& m)
    if v = z then none else some (p.1, v)

/-- Fields marked "rig" and the rw fields of the crew windows return to reset. -/
def State.rigReset (s : State) : State :=
  let s := { s with regs := s.regs.filterMap rigBack }
  loopN 16 (fun j s => s.posTake j) s

/-- One REGLOAD record. A value outside a field's stated range has no effect, but for CLKDIV and LEN of a position port, which
the content rules refuse (R288). CTL.EN of a gate-link port is decided by items 2 and 7 of R449. -/
def State.rigLoad (s : State) (a : Nat) (v : Word) : State :=
  match findRow a with
  | none => s
  | some r =>
    let w := winOf a
    let g := BitVec.ofNat 32 r.rig
    let m := BitVec.ofNat 32 r.rw
    let s := if r.rig = 0 || (w = 14 && 0x24 ≤ a % 65536 && a % 65536 < 0x100) || (w = 14 && a % 64 = 0xC) then s
      else s.wr a ((s.rd a &&& ~~~g) ||| (keepBad (fieldRanges a) (s.rd a) v &&& g))
    if r.rw = 0 then s
    else if 6 ≤ w && w ≤ 9 then
      let u := keepBad (fieldRanges a) (s.rd a) v
      s.wr a ((s.rd a &&& ~~~m) ||| (u &&& m))
    else if w = 11 then
      let l := (fieldRanges a).filter (fun x => a % 0x100 != 4 || x.1 == 31)
      let u := keepBad l (s.rd a) v
      (s.wr a ((s.rd a &&& ~~~m) ||| (u &&& m))).posTake (a % 65536 / 0x100)
    else if w = 20 then s.gpioWrite a (fun g => s.ownerOf g == 2) v
    else if w = 10 && a % 0x1000 = 0 then s.regWrite (fun _ => false) a ((v &&& m &&& ~~~1#32) ||| (s.rd a &&& 1#32))
    else if w = 0 || w = 1 || w = 5 || (10 ≤ w && w ≤ 15) || w = 17 then s.regWrite (fun _ => false) a (v &&& m)
    else s

def State.rigLoadAll (s : State) (l : List (Nat × Word)) : State := loopL l (fun x s => s.rigLoad x.1 x.2) s

/-- The claims held by owners 0x02 to 0x40 are released and the rig's are installed (R36). -/
def State.rigClaim (s : State) (l : List (Nat × Nat)) : State :=
  let s := loopL (s.claims.filter (fun e => 2 ≤ e.2 && e.2 ≤ 0x40)) (fun e s => s.freeRes e.1) s
  loopL l (fun e s => s.setOwner e.1 e.2) s

/-- The claim list passes (R36): 0x0112 for each record with an invalid ID or owner. -/
def claimsBad (l : List (Nat × Nat)) : List Nat :=
  (l.filter (fun e => !validRes e.1 || !validRigOwner e.2)).map (·.1)

def State.claimsOk (s : State) (l : List (Nat × Nat)) : Bool :=
  (claimsBad l).isEmpty && (l.map (·.1)).eraseDups.length == l.length && l.all (fun e => s.ownerOf e.1 != 1)

/-- The enabled tasks of a rig by home pair; a section for SP8 loads nothing (R50). -/
def rigEnabled (l : List Byte) : List RigTask :=
  ((rigTasks l).flatMap (fun x => x.2.2)).filter (fun t => t.toRec.en)

/-- The tasks as the TASKS sections give them, all DISABLED. -/
def State.rigTaskTable (s : State) (l : List Byte) : State :=
  loopL (((rigTasks l).filter (fun x => x.1 < 8)).flatMap (fun x => x.2.2)) (fun t s => s.setTask t.key t.toRec)
    { s with tasks := [] }

/-- The configuration the rig would give, on which the content rules are judged. -/
def State.rigCand (s : State) (l : List Byte) : State :=
  let s := { s with regs := s.regs.filterMap rigBack }
  (((s.rigClaim ((rigClaims l).filter (fun e => validRes e.1))).rigTaskTable l).rigLoadAll (rigLoads l))

/-! ### Content rules (step 3 of R447): each gives its faults -/
def usedCrews (s : State) : List Nat := (List.range 32).filter (fun n => s.crewKind n != 0)

/-- R135: what is wrong with crew n on its own. -/
def placeBad (s : State) (n : Nat) : Bool :=
  let kind := s.crewKind n
  let m := s.crewM n
  let mm := s.get (F.CREW_CFG_MMIN n)
  let posn := (s.rd (R.CREW_POSN n)).toNat
  let most := if kind = 1 || kind = 3 then 8 else if kind = 2 then 4 else 1
  let tiles := (List.range m).flatMap (fun j => s.setTiles n j)
  let halves := if kind = 2 then 2 * m else m
  kind > 5 || m = 0 || m > most || mm = 0 || mm > m || tiles.eraseDups.length ≠ halves ||
    (kind ≠ 3 && kind ≠ 5 && posn ≠ 0) || (kind = 3 && (List.range m).any (fun j => posnField posn j % 2 == 1)) ||
    (s.crewLegs n).any (fun x =>
      let c := (s.rd (R.YILOS_CAP (x / 4) 0)).toNat
      -- a block that has never been read cannot be judged (assumption log 20)
      c != 0 && !c.testBit (16 + x % 4))

def chkPlace (s : State) : List (Nat × Nat) :=
  ((usedCrews s).filter (fun n => placeBad s n || (s.crewLegs n).any (fun x =>
    (usedCrews s).any (fun k => k != n && (s.crewLegs k).contains x)))).map (fun n => (0x0308, n))

/-- R146, R156, R174. -/
def chkTiming (s : State) : List (Nat × Nat) :=
  ((usedCrews s).filter (fun n =>
    let per := s.crewPeriod n
    let c := s.get (F.CREW_CFG_CATCH n)
    per % 2 == 1 || per < 16000 || 1600000 < per || per * (s.get (F.CREW_CFG_CDIV n) + 1) < 8000 * (if c = 2 then 2 else 1) ||
      per / 2 ≤ s.get (F.CREW_CDLY_DLY n) || c == 3 || 2 ≤ s.get (F.CREW_CFG_FSMODE n) || s.get (F.CREW_CFG_UPD n) == 3 ||
      (s.crewKind n == 5 && s.get (F.CREW_CHOP_DMODE n) == 1 &&
        decide ((s.rd (R.CREW_DUMP n)).toNat % 65536 ≤ (s.rd (R.CREW_DUMP n)).toNat / 65536)))).map (fun n => (0x0309, n))

/-- R159, R164 and R207, leg by leg. -/
def chkLegs (s : State) : List (Nat × Nat) :=
  (List.range 64).flatMap (fun x =>
    let hl := s.get (F.LEG_DT_DT_HL x)
    let lh := s.get (F.LEG_DT_DT_LH x)
    let pw := s.get (F.LEG_MINPW_PW x)
    let k := x / 4
    (if hl < s.legDtMin x || lh < s.legDtMin x then [(0x030A, x)] else []) ++
    (if s.bit (F.LEG_CTL_CPEN x) && !(s.linkState k == lUP && s.get (F.YILOS_STAT_VER k) == 2 &&
        (s.rd (R.YILOS_CAP k 0)).getLsbD 24) then [(0x030B, x)] else []) ++
    (if hl + pw < 176 || lh + pw < 176 then [(0x040A, x)] else []))

/-- R175 and R177, group by group; the instance is the group's lowest crew. -/
def chkTandem (s : State) : List (Nat × Nat) :=
  (List.range 8).filterMap (fun g =>
    let l := (List.range 32).filter (fun n => s.bit (F.CREW_TANDEM_EN n) && s.get (F.CREW_TANDEM_GROUP n) == g)
    match l with
    | [] => none
    | a :: _ =>
      let kinds := (l.map s.crewKind).eraseDups
      let pers := (l.map s.crewPeriod).eraseDups
      if l.length < 2 || 4 < l.length || kinds.length ≠ 1 || kinds = [0] ||
          (l.filter (fun n => s.bit (F.CREW_TANDEM_LEADER n))).length ≠ 1 ||
          (l.any (fun n => s.bit (F.CREW_TANDEM_CSYNC n)) && pers.length ≠ 1) then some (0x030D, a) else none)

/-- R179 and R395. -/
def chkSeam (s : State) : List (Nat × Nat) :=
  ((usedCrews s).filter (fun n => s.bit (F.CREW_SEAM_EN n))).flatMap (fun n =>
    let mates := (usedCrews s).filter (fun k => s.bit (F.CREW_SEAM_EN k) &&
      s.get (F.RING_SEAM_CFG_GROUP k) == s.get (F.RING_SEAM_CFG_GROUP n))
    let q := s.get (F.RING_SEAM_CFG_QENT n)
    (if s.get (F.CREW_SEAM_MTOT n) < s.get (F.CREW_SEAM_GIDX0 n) + s.crewM n ||
        mates.any (fun k => s.crewPeriod k != s.crewPeriod n) then [(0x030F, n)] else []) ++
    (if !s.bit (F.RING_SEAM_CFG_EN n) || s.seamNmem n < 2 || s.seamNmem n ≤ s.seamMidx n ||
        s.seamPeriod n ≤ s.get (F.RING_SEAM_DL_C n) || s.seamPeriod n ≤ s.get (F.RING_SEAM_LOFS_C n) || !s.bit F.RING_WIN_EN ||
        s.ownerOf (0x6000 + q) != 0x10 + n || s.ownerOf (0x6000 + q + 32) != 0x10 + n then [(0x0922, n)] else []))

/-- R243, R255 and R256. -/
def chkSinc (s : State) : List (Nat × Nat) :=
  (usedCrews s).flatMap (fun n =>
    let r := s.get (F.SINC_CREW_CFG_R n)
    let rf := s.get (F.SINC_CREW_CFG_RF n)
    let k := s.crewKind n
    (if r < 8 || 256 < r || rf < 4 || 31 < rf ||
        (s.bit (F.SINC_CREW_CFG_CEN n) && s.get (F.CREW_CDLY_DLY n) < 60 * r + 700) then [(0x0501, n)] else []) ++
    (if s.bit (F.CREW_G_CFG_EN n) && (k == 4 || k == 5 ||
        10000 < (2 * rf - 2) * 50 + 350 + (s.get (F.CREW_G_CFG_WM1 n) + s.get (F.CREW_G_CFG_CM1 n) + 2) * 160)
      then [(0x0514, n)] else []))

/-- R269, R279 and R287. -/
def chkProf (s : State) : List (Nat × Nat) :=
  ((List.range 32).filter (fun n =>
    let out := s.get (F.PROF_BRK_OUT n)
    let pin (g : Nat) : Bool := s.ownerOf g == 0x10 + n
    !s.profParamsOk n || out == 3 || (out == 2 && s.crewKind (s.get (F.PROF_BRK_OIDX n)) != 5) ||
      (out == 1 && !pin (s.get (F.PROF_BRK_OIDX n))) || (s.bit (F.PROF_BRK_FBEN n) && !pin (s.get (F.PROF_BRK_FBIDX n))) ||
      (s.bit (F.PROF_CFG_PEN n) && s.ownerOf (0x4000 + s.get (F.PROF_CFG_PORT n)) != 0x10 + n) ||
      (s.bit (F.PROF_CFG_UNIT n) && (!s.bit (F.PROF_CFG_PEN n) || s.get (F.CREW_ASRC_SRC n) == 0)))).map (fun n => (0x0601, n))

/-- R291: the clock divider and length of a serial port. -/
def chkPos (s : State) : List (Nat × Nat) :=
  ((List.range 16).filter (fun j => 2 ≤ s.posMode j &&
    (s.get (F.POS_SER_CLKDIV j) < 19 || s.get (F.POS_SER_LEN j) < 8 || 40 < s.get (F.POS_SER_LEN j)))).map (fun j => (0x0610, j))

/-- R520. -/
def chkAux (s : State) : List (Nat × Nat) :=
  ((List.range 8).filter (fun a => s.auxBad a (s.bit (F.AUXADC_CH_CFG_EN a)) (s.get (F.AUXADC_CH_CFG_MODE a))
    (s.get (F.AUXADC_CH_CFG_CREW a)))).map (fun a => (0x0130, a))

/-- R306, R317 and R318 on the sealed section of rig r. -/
def chkSeal (s : State) (r : Nat) : List (Nat × Nat) :=
  match s.takeSeal r with
  | .inr code => [(code, 0), (code, 1)]
  | .inl c =>
    ((usedCrews s).filter (fun n =>
      let g := c.crewGrp.getD n 255
      g > 7 || (s.crewLegs n).any (fun x => !(c.grp.getD g {}).tiles.testBit (x / 4)) ||
        (s.get (F.PROF_BRK_OUT n) == 2 && c.crewGrp.getD (s.get (F.PROF_BRK_OIDX n)) 255 != g))).map (fun n => (0x070E, n))

/-- R425 and R426. -/
def chkField (s : State) (l : List Byte) : List (Nat × Nat) :=
  let nodes := (List.range 16).flatMap (rigNodes l)
  let ser := nodes.map (·.serial)
  ((List.range 16).filter (fun j =>
    let mine := rigNodes l j
    let cyc := s.get (F.FIELD_PORT_CYC_US j)
    let acyc := s.get (F.FIELD_PORT_ACYC_US j)
    let used (d : Nat × Nat) : Bool := slotEn d.1
    let slots := rigSlots l j
    slots.any (fun d => used d && (2 < slotKind d.1 || (slotKind d.1 < 2 && (slotAddr d.1 == 0 || slotAddr d.1 == 255)) ||
        256 < bitsOf d.1 15 8 + bitsOf d.1 7 0 || 256 < bitsOf d.2 15 8 + bitsOf d.2 7 0)) ||
      cyc < 100 || 1000000 < cyc || cyc < acyc || 8 < s.get (F.FIELD_PORT_CTL_RATE j) ||
      mine.any (fun e => (ser.filter (· == e.serial)).length != 1 ||
        (mine.filter (fun x => x.addr == e.addr)).length != 1 ||
        (e.dual && !(j < 8 && s.bitAt F.FIELD_CTL_PAIR j)) ||
        (8 ≤ j && (rigNodes l (j - 8)).any (fun x => x.dual && x.addr == e.addr))) ||
      (s.bit (F.FIELD_PORT_CTL_EN j) && s.ownerOf (0x3000 + j) != 2) ||
      (j < 8 && s.bitAt F.FIELD_CTL_PAIR j &&
        (let k := j + 8
         let other := rigSlots l k
         s.get (F.FIELD_PORT_CTL_RATE j) != s.get (F.FIELD_PORT_CTL_RATE k) || cyc != s.get (F.FIELD_PORT_CYC_US k) ||
           acyc != s.get (F.FIELD_PORT_ACYC_US k) || slots.length != other.length ||
           mine.any (fun e => e.dual && (List.range slots.length).any (fun i =>
             let a := slots.getD i (0, 0)
             let b := other.getD i (0, 0)
             ((slotEn a.1 && slotAddr a.1 == e.addr) || (slotEn b.1 && slotAddr b.1 == e.addr)) && a != b)))))).map
    (fun j => (0x0A02, j))

/-- Sum of two fractions. -/
def fracAdd (a b : Nat × Nat) : Nat × Nat := (a.1 * b.2 + b.1 * a.2, a.2 * b.2)

/-- Catches per second of crew n as a fraction (R145). -/
def catchRate (s : State) (n : Nat) : Nat × Nat :=
  let per := s.crewPeriod n
  if per = 0 || s.crewKind n = 0 then (0, 1)
  else (800000000 * (if s.get (F.CREW_CFG_CATCH n) = 2 then 2 else 1), per * (s.get (F.CREW_CFG_CDIV n) + 1))

/-- The load check of R61 on the enabled tasks of pair p. -/
def loadOk (s : State) (img : Option ImgInfo) (ts : List RigTask) : Bool :=
  let catches := ts.filter (fun t => t.toRec.src == srcCatch)
  let timers := ts.filter (fun t => t.toRec.src == srcTimer && t.per != 0)
  let ck (t : RigTask) : Nat := ((img.map (·.tasks)).getD []).find? (fun i => i.task == t.key % 16) |>.map (·.ckptSize) |>.getD 0
  let load := (catches.map (fun t => let r := catchRate s t.toRec.idx; (t.toRec.budget * r.1, r.2))).foldl fracAdd (0, 1)
  let load := (timers.map (fun t => (t.toRec.budget * 1000000, t.per))).foldl fracAdd load
  let ckpt := (catches.map (fun t => let r := catchRate s t.toRec.idx; ((416 + ck t) * r.1, r.2))).foldl fracAdd (0, 1)
  load.1 ≤ 900000000 * load.2 && ckpt.1 ≤ 800000000 * ckpt.2

/-- The checkpoint areas and image stores lie as R560 says. -/
def seAreasOk (s : State) : Bool :=
  let l := s.seAreas
  let inL (x : Nat × Nat) : Bool := 0x10000000 ≤ x.1 && x.1 + x.2 ≤ 0x10C00000
  let inH (x : Nat × Nat) : Bool := 0x11400000 ≤ x.1 && x.1 + x.2 ≤ 0x11800000
  inL (l.getD 0 (0, 0)) && inH (l.getD 1 (0, 0)) && inL (l.getD 2 (0, 0)) && inH (l.getD 3 (0, 0)) &&
    (List.range 4).all (fun i => (List.range i).all (fun j =>
      let a := l.getD i (0, 0)
      let b := l.getD j (0, 0)
      !rangesOverlap a.1 a.2 b.1 b.2)) &&
    l.all (fun x => !s.dmaOverlap x.1 x.2 (fun _ => true))

/-- The binding rules of R50 that one enabled task t breaks among all enabled tasks. -/
def bindBad (ts : List RigTask) (t : RigTask) : Bool :=
  let r := t.toRec
  let same := ts.filter (fun u => u.toRec.src == r.src && u.toRec.idx == r.idx)
  let src := r.src
  src == 0 || src > 4 || r.budget == 0 || t.key ≥ 128 ||
    (src == srcCatch && (31 < r.idx || same.length != 1 || r.bg)) ||
    (src == srcTimer && (63 < r.idx || t.per == 0 || 16777215 < t.per || same.any (fun u => u.per != t.per))) ||
    (src == srcOrder && (32 < r.idx || same.length != 1 ||
      (1 ≤ r.idx && !ts.any (fun u => u.toRec.src == srcCatch && u.toRec.idx + 1 == r.idx && u.key / 16 == t.key / 16))))

/-- R50, R54, R61, R88, R490 and R560, pair by pair. -/
def chkTasks (s : State) (l : List Byte) : List (Nat × Nat) :=
  let ts := rigEnabled l
  let areas := ts.isEmpty || seAreasOk s
  (rigTasks l).flatMap (fun (p, no, _) =>
    let mine := ts.filter (fun t => t.key / 16 == p)
    let img := rigImage l no
    let info := img.map parseImage
    let bad : Bool := mine.any (fun t => bindBad ts t || !((info.map (·.tasks)).getD []).any (fun i => i.task == t.key % 16)) ||
      !loadOk s info mine || (!areas && !mine.isEmpty)
    (match (if p < 8 then img else none) with
      | some b => (match s.imageFault b (s.bit F.CRYPTO_POL_SIGIMG) (s.bit F.CRYPTO_POL_ROLLIMG) with
        | some c => [(c, p)]
        | none => [])
      | none => []) ++ (if bad then [(0x0214, p)] else []))

/-- Every content rule that rig r breaks, with its fault and instance. -/
def State.rigFaults (s : State) (r : Nat) (l : List Byte) : List (Nat × Nat) :=
  let c := s.rigCand l
  chkSeal c r ++ chkPlace c ++ chkTiming c ++ chkLegs c ++ chkTandem c ++ chkSeam c ++ chkSinc c ++ chkProf c ++ chkPos c ++
    chkAux c ++ chkField c l ++ chkTasks c l

/-- Step 3 of R447: true where the rig passes; else the faults of what it breaks, and 0x0B06. -/
def State.rigContent (s : State) (r : Nat) (l : List Byte) : Bool × State :=
  let bad := s.rigFaults r l
  if bad.isEmpty then (true, s) else (false, (loopL bad (fun e s => s.fault e.1 e.2) s).fault 0x0B06 r)

/-- The first record of a claim list that breaks a check of R36. -/
def State.claimsFirst (s : State) (l : List (Nat × Nat)) : Nat :=
  ((l.find? (fun e => (claimsBad l).contains e.1 || 1 < (l.filter (fun x => x.1 == e.1)).length || s.ownerOf e.1 == 1)).map
    (·.1)).getD 0

/-- Step 4 (R36): a failed check is a rig claim conflict, fault 0x0110 (R39), with the first record that breaks one (DESIGN
CHOICE, assumption log 70); an invalid ID or owner code also enters 0x0112. -/
def State.rigClaimCheck (s : State) (l : List Byte) : Bool × State :=
  let c := rigClaims l
  if s.claimsOk c then (true, s)
  else (false, loopL (claimsBad c) (fun x s => s.fault 0x0112 x) (s.fault 0x0110 (s.claimsFirst c)))

/-! ### At rest (R448) -/
def State.crewAtRest (s : State) (n : Nat) : Bool :=
  let st := s.crewState n
  st == cUNUSED || st == cSAFE ||
    ((st == cIDLE || st == cFSTOP) && s.get (F.PROF_BRK_OUT n) != 0 && s.bit (F.PROF_PSTAT_BRKOUT n))

/-- The first crew that is not at rest. -/
def State.notAtRest (s : State) : Option Nat := (List.range 32).find? (fun n => !s.crewAtRest n)

/-! ### Applying (R449) -/
/-- Item 2: tasks, crews, guards and ports. -/
def State.rigStop (s : State) : State :=
  let s := loopN 33 (fun i s => s.endLaneRunning i 0x52) s
  let s := { s with tasks := [] }
  let s := s.crewsUnused
  let s := loopN 32 (fun n s =>
    let s := (s.putB (F.CREW_STAT_FLT n) false).wr (R.CREW_FCAUSE n) 0
    let s := s.setBitAt F.SAFETY_GREQ_REQ n false
    (s.wr (R.CREW_G_STAT n) 0).setCrew n { ({} : CrewRec) with
      epos := (s.crew n).epos, eneg := (s.crew n).eneg, upSets := 0 }) s
  loopN 16 (fun k s => s.yilosEn k false) s

/-- Item 5, the modulator's legs and the profile units. -/
def State.rigUnits (s : State) : State :=
  let s := loopN 64 (fun x s =>
    let s := s.legOff x
    let l := s.leg x
    s.setLeg x { hsOff := l.hsOff, lsOff := l.lsOff, hsOn := l.hsOn, held := true, lastShoot := l.lastShoot, lockAt := l.lockAt }) s
  let s := loopN 32 (fun n s => s.setProf n { pos := (s.prof n).pos, t0 := (s.prof n).t0 }) s
  { s with poss := [] }.rigReset

/-- A phase table section (R150). -/
def State.rigTable (s : State) (t : Nat) (c : List Byte) : State :=
  let new := ((List.range 16384).map (fun i => (16384 * t + i, BitVec.ofNat 32 (leAt c (4 * i) 4)))).filter (fun e => e.2 != 0#32)
  { s with ptab := s.ptab.filter (fun e => e.1 < 16384 * t) ++ new ++ s.ptab.filter (fun e => 16384 * (t + 1) ≤ e.1) }

/-- A COEF record (R82). -/
def State.rigCoef (s : State) (c : List Byte) : State :=
  let id := leAt c 0 2
  let bank (o : Nat) : Vector Word 6 := Vector.ofFn (fun i : Fin 6 => BitVec.ofNat 32 (leAt c (o + 4 * i.val) 4))
  if id < 1024 then
    s.setLoop id { a := bank 4, b := bank 28, ctrl := BitVec.ofNat 32 (leAt c 2 1 % 128 + (if leAt c 3 1 = 0 then 0 else 4096)) }
  else s

/-- Item 5, the field sections (R422, R438). -/
def State.rigField (s : State) (l : List Byte) : State :=
  let s := { s with nodeTab := (List.range 16).flatMap (rigNodes l), sched := [], schedOff := [] }
  loopN 16 (fun j s =>
    let sl := rigSlots l j
    let s := s.put (F.FIELD_PORT_NSLOT_N j) sl.length
    loopL ((List.range sl.length).zip sl) (fun (i, d) s =>
      { s with sched := mset (0, 0) s.sched (512 * j + i) (BitVec.ofNat 32 d.1, BitVec.ofNat 32 d.2) }) s) s

/-- Item 5, the images (R89) into the image store and the pairs that run them. -/
def State.rigImages (s : State) (l : List Byte) : State :=
  let roll := s.bit F.CRYPTO_POL_ROLLIMG
  loopL ((rigTasks l).filter (fun x => x.1 < 8)) (fun (p, no, _) s =>
    match rigImage l no with
    | none => s
    | some b =>
      let s := s.storeImage (seAreasOk s) p b
      let s := if roll then s.raiseRoll (parseImage b) else s
      match s.execPair p with
      | some q => match s.buildMem q p with
        | some t => t
        | none => s
      | none => s) { s with images := [], slotMap := [] }

/-- Item 6, the tasks and timers (R57, R60). -/
def State.rigStart (s : State) (l : List Byte) : State :=
  let s := s.rigTaskTable l
  let en := (rigEnabled l).filter (fun t => t.key < 128)
  let s := loopL en (fun t s => if (s.execPair (t.key / 16)).isSome then s.startInitial t.key else s) s
  loopL (en.filter (fun t => t.toRec.src == srcTimer)) (fun t s =>
    let k := t.toRec.idx
    let s := (s.put (F.SE_TMR_PER_PERIOD k) t.per).putB (F.SE_TMR_CTL_ONESHOT k) false
    (s.putB (F.SE_TMR_CTL_EN k) false).tmrEn k true) s

/-- Item 6, the crews (R138). A crew whose pair has failed without a host stops (R78). -/
def State.rigCrews (s : State) : State :=
  loopL (usedCrews s) (fun n s =>
    let m := s.crewM n
    let s := loopL (s.crewLegs n) (fun x s => s.put (F.LEG_CTL_OWNER x) n) s
    let s := (s.put (F.CREW_STAT_SETS n) (2 ^ m - 1)).put (F.CREW_STAT_MACT n) m
    let s := s.putB (F.CREW_STAT_LEAD n) (s.bit (F.CREW_TANDEM_EN n) && s.bit (F.CREW_TANDEM_LEADER n))
    let s := s.put (F.CREW_STAT_SEAMST n) (s.bit (F.CREW_SEAM_EN n)).toNat
    let s := ((s.setRate n).crewAwake n).guardStart n
    match s.crewHome n with
    | some h => if (s.execPair h).isNone then s.faultStop n 0x0205 else s
    | none => s) s

/-- The gate-link ports that the crews use. -/
def State.crewPorts (s : State) : List Nat :=
  (List.range 16).filter (fun k => (usedCrews s).any (fun n => (s.crewLegs n).any (fun x => x / 4 == k)))

/-- Item 7. -/
def State.rigPorts (s : State) : State := loopL s.crewPorts (fun k s => s.yilosEn k true) s

/-- Items 1 to 6, and 8 of R449 where it comes before item 7 can (at boot). -/
def State.rigApply (s : State) (r : Nat) (l : List Byte) : State :=
  let s := { s with rigSel := some r }
  let s := (s.put F.AON_RIG_LAST r).put F.AON_RIG_ACTIVE r
  let s := (s.putB F.AON_RIG_NONE false).saveSettings
  let s := s.rigStop
  let s := (s.rigClaim (rigClaims l)).auxShow
  let s := s.fieldRelease.rigUnits
  let s := { s with loops := [] }
  let s := loopN 64 (fun x s => s.put (F.LEG_CTL_OWNER x) 0xFF) s
  let s := loopN 32 (fun n s => (((s.put (F.CREW_STAT_SETS n) 0).put (F.CREW_STAT_MACT n) 0).put (F.CREW_STAT_SEAMST n) 0).putB
    (F.CREW_STAT_LEAD n) false) s
  let s := s.rigLoadAll (rigLoads l)
  let s := s.rigImages l
  let s := loopN 14 (fun i s => match rigSec l rsPTABLE (i + 2) with
    | some c => s.rigTable (i + 2) c
    | none => s) s
  let s := loopL (((rigSec l rsCOEF 0).map (cutRecs 64)).getD []) (fun c s => s.rigCoef c) s
  let s := s.rigField l
  let s := { s with tilePre := (List.range 16).filterMap (fun k => (rigSec l rsTILEREG k).map (fun c => (k, c.take 10))) }
  let s := loopL [false, true] (fun b s => if s.islSt b = iACTIVE then s.islTake b r else s) s
  let s := (s.wr R.GPIO_BRK (BitVec.ofNat 32 s.brkPins)).gpioShow
  let s := s.rigStart l
  s.rigCrews

/-- Activation at boot of the rig that boot took (R447, R449): false where no rig becomes active. Item 7 follows the end of
boot. -/
def State.rigBoot (s : State) (r : Nat) : Bool × State :=
  match (s.rigCopy false r).orElse (fun _ => s.rigCopy true r) with
  | none => (false, s)
  | some l =>
    match s.rigContent r l with
    | (false, s) => (false, s)
    | (true, s) =>
      match s.rigClaimCheck l with
      | (false, s) => (false, s)
      | (true, s) => (true, (s.rigApply r l).fieldStart)

end Sys2Proof.Machine
end

