-- ==== Sys2Proof/Machine/PowerCmds.lean ====
section
/-! DEFINITION. Machine/PowerCmds.lean: supplies, resets, boot, power states, Rest and wake (R343, R450 to R463, R510, R511). -/
namespace Sys2Proof.Machine

/-! ### VAON and RST_N -/
/-- The pins sampled at the release of reset (R445, R510). -/
def State.samplePins (s : State) (bootMode : Bool) (rigSel : BitVec 3) : State :=
  { s with bootMode := bootMode, rigPins := rigSel.toNat }

/-- VAON_POWER_ON (R450, R530). -/
def execVaonPowerOn (bootMode : Bool) (rigSel : BitVec 3) (s : State) : Out :=
  if s.powered then .next s
  else
    let s := (s.samplePins bootMode rigSel).put F.RESET_CAUSE_CODE 1
    let s := s.incSat (F.RESET_CNT_COUNT 1)
    .next ({ s with powered := true, rstBy := s.rstBy.filter (· != 1), kickAt := s.now, rtcSec := 0, rtcAt := s.now
                    domOn := 1 }.showDomains.coldBoot true)

/-- VAON_POWER_LOSS (R450): every domain resets, PD0 included; MRAM keeps its contents. -/
def execVaonPowerLoss (s : State) : Out :=
  if !s.powered then .next s
  else
    let s := { s with powered := false }.resetDomains
    let s := { s with regs := [] }
    .next { s with domOn := 0, rstBy := 1 :: s.rstBy.filter (fun c => c == 0 || c == 2), uvRails := 0, rtcSec := 0
                   rtcAt := s.now, fwDigest := [], tap := {} }

/-- RST_N_LOW (R451). While RESET.STUCK.IGN = 1 the level alone changes (R452). -/
def execRstNLow (s : State) : Out :=
  if s.rstLow then .next s
  else
    let s := { s with rstLow := true, rstAt := s.now }
    if s.bit F.RESET_STUCK_IGN then .next s else .next (s.holdReset 2)

/-- RST_N_RELEASE (R450, R452). -/
def execRstNRelease (bootMode : Bool) (rigSel : BitVec 3) (s : State) : Out :=
  if !s.rstLow then .next s
  else .next (({ s with rstLow := false, rstAt := s.now }.samplePins bootMode rigSel).releaseReset 2)

/-- STUCK_RESET (R452): RST_N has been low for STUCK_S seconds. -/
def execStuckReset (s : State) : Out :=
  if s.powered && s.rstLow && s.rstBy.contains 2 && !s.rstBy.contains 0 && s.bit F.AON_SET_STUCK_EN then
    let s := s.until (s.rstAt + s.get F.AON_SET_STUCK_S * 1000 * msCounts)
    let s := if s.rstBy.all (fun c => c == 2) then s.put F.RESET_CAUSE_CODE 3 else s
    let s := s.incSat (F.RESET_CNT_COUNT 3)
    let s := (s.putB F.RESET_STUCK_IGN true).raise F.RESET_STUCK_STUCKSEEN
    .next (s.releaseReset 2)
  else .next s

/-- STUCK_IGNORE_CLEAR (R452). -/
def execStuckIgnoreClear (s : State) : Out :=
  if s.bit F.RESET_STUCK_IGN && !s.rstLow then .next ((s.until (s.rstAt + 100 * msCounts)).putB F.RESET_STUCK_IGN false)
  else .next s

/-- TEST_N (R511): low holds every domain but PD0 in reset; RESET.CAUSE does not change. -/
def execTestN (low : Bool) (s : State) : Out := .next (if low then s.holdReset 0 else s.releaseReset 0)

/-! ### Watchdog, software reset, supplies, trip -/
/-- WATCHDOG_EXPIRY (R454): 2,000 ms during boot until the first KICK. In recovery the boot ROM serves the watchdog (R488). -/
def execWatchdogExpiry (s : State) : Out :=
  if s.powered && s.rstBy.isEmpty && !s.inRest && !s.recovery then
    .next ((s.until (s.kickAt + (if s.kicked then s.get F.AON_WDT_PERIOD else 2000) * msCounts)).startReset 4)
  else .next s

/-- AON_WDT_KICK (R454). -/
def execAonWdtKick (s : State) : Out := s.onReg R.AON_WDT fun s => .next s.kick

/-- SOFTWARE_RESET (R450). -/
def execSoftwareReset (s : State) : Out := s.onReg R.RESET_CTL fun s => .next (s.startReset 5)

/-- SUPPLY_UV (R450, R530): VCORE, or VANA, below its level for 2 µs. -/
def execSupplyUv (vana : Bool) (s : State) : Out :=
  if !s.powered then .next s
  else
    let s := s.advance 1600
    .next ({ s with uvRails := natBit (s.uvRails % 4) vana.toNat true }.holdReset 6)

/-- SUPPLY_UV_RELEASE (R530): both in range for 100 µs. -/
def execSupplyUvRelease (s : State) : Out :=
  if s.rstBy.contains 6 then .next ((s.advance 80000).releaseReset 6) else .next s

/-- BACKUP_TRIP (R455). -/
def execBackupTrip (s : State) : Out :=
  if !s.powered || s.inRest then .next s else .next ((s.putB F.AON_TRIP_BTRIP true).holdReset 7)

/-- BACKUP_TRIP_CLEAR (R455). -/
def execBackupTripClear (s : State) : Out :=
  if s.bit F.AON_TRIP_BTRIP then .next ((s.putB F.AON_TRIP_BTRIP false).releaseReset 7) else .next s

/-- PFAIL_N (R343, R517): low for 1 µs closes the journal; returning high reopens it unless a batch was refused meanwhile. -/
def execPfailN (low : Bool) (s : State) : Out :=
  if !s.domainRun 7 then .next s
  else if low then .next (s.putB F.MASTER_JSTAT_PFAIL true)
  else if s.pfLatch then .next s
  else .next (s.putB F.MASTER_JSTAT_PFAIL false).jKick

/-! ### The end of boot (R456, R460) -/
/-- What boot waits for: the epoch is open, every pair whose domain is on has been tested, each island is ACTIVE, HALT or off. -/
def State.bootDone (s : State) : Bool :=
  s.powered && s.pw == pwBOOT && s.rstBy.isEmpty && !s.inRest && !s.recovery && s.epochOpen &&
    (List.range 9).all (fun p => s.pairSt p != pOFF || !s.domainRun (pairDomain p)) &&
    [false, true].all (fun b => s.islSt b == iACTIVE || s.islSt b == iHALT || !s.domainRun (if b then 2 else 1))

/-- Faults 0x0B10 to 0x0B13, from RESET.CAUSE. -/
def State.causeFaults (s : State) : State :=
  let c := s.get F.RESET_CAUSE_CODE
  let s := if c = 3 then s.fault 0x0B10 0 else if c = 4 then s.fault 0x0B11 0 else if c = 7 then s.fault 0x0B13 0 else s
  let s := if c = 6 then loopN 2 (fun i s => if s.uvRails.testBit i then s.fault 0x0B12 i else s) s else s
  { s with uvRails := 0 }

/-- EVENT 0x0001, the first report of the epoch (R351, R358). -/
def State.resetEvent (s : State) : State :=
  s.addReport { typ := .event, epoch := s.get F.MASTER_EPOCH_E, rseq := 1, oseq := 0, lane := 0
                body := s.eventBody 1 (leBytes 4 (s.rd R.MASTER_NEXTSEQ).toNat ++ leBytes 2 (s.get F.RESET_CAUSE_CODE) ++ [0, 0]) }

/-- The end of boot (R456, R457): the rig that boot chose is applied, or none with fault 0x0B04; the ring PHYs leave reset; the
state is LISTEN, EVENT 0x0001 is formed and the reset is logged; a junction temperature at the limit after a thermal rest goes
to REST again. -/
def State.bootEnd (s : State) (tj : BitVec 16) : State :=
  let (ok, s) : Bool × State := match s.rigSel with
    | some r => s.rigBoot r
    | none => (false, s)
  let s := if ok then s else
    let s := match s.rigSel with
      | some r => s.fault 0x0B04 r
      | none => s
    { s with rigSel := none }.putB F.AON_RIG_NONE true
  let s := s.crewsUnused.listenDomains
  let s := if ok then s.rigPorts else s
  let s := loopN 2 (fun p s => s.putB (F.RING_PORT_CTL_PHYRSTN p) true) s
  let s := { s with idleAt := s.now, mLast := s.now, mSilent := false }.setPw pwLISTEN
  let s := s.resetEvent
  let s := s.causeFaults.logRec 3 (s.get F.RESET_CAUSE_CODE) 0 s.resumeBoot.toNat
  if s.bit F.AON_TRIP_THREST && 7040 ≤ tj.toInt then (s.fault 0x0B23 0).enterRest true else s

/-- BOOT_COMPLETE (R456). `tj` is the first reading of the junction temperature, in 1/64 °C. -/
def execBootComplete (tj : BitVec 16) (s : State) : Out :=
  if !s.bootDone then .next s else .next (s.bootEnd tj)

/-! ### Power states (R457 to R463) -/
/-- AON_READY_WRITE (R457). -/
def execAonReadyWrite (v : Bool) (s : State) : Out := s.onReg R.AON_PWRCTL fun s => .next (s.readyWrite v)

/-- What Ready waits for (R458). -/
def State.readyOk (s : State) : Bool :=
  [8, 9, 10, 11].all s.domainRun &&
    (List.range 9).all (fun p => !(s.pair p).reloading || !(s.pairSt p == pACTIVE || s.pairSt p == pHOST)) &&
    s.crewPorts.all (fun k => s.linkState k == lUP || s.linkState k == lFAILED)

/-- READY_REACHED (R458). -/
def execReadyReached (s : State) : Out :=
  if s.pw = pwLISTEN && s.demandAt.isSome && s.readyOk then
    let s := { s with demandAt := none, demandBy := none, idleAt := s.now }.setPw pwREADY
    .next (loopN 32 (fun n s => s.crewAwake n) s)
  else .next s

/-- READY_TIMEOUT (R458): Ready not reached within 1 ms of the demand. -/
def execReadyTimeout (s : State) : Out :=
  match s.demandAt with
  | some t =>
    if s.pw = pwLISTEN then
      let s := (s.until (t + msCounts)).fault 0x0B22 0
      let s := match s.demandBy with
        | some q => s.endOrder q 0x52 []
        | none => s
      .next s.toListen
    else .next s
  | none => .next s

/-- IDLE_TIMEOUT (R457, R458). -/
def execIdleTimeout (s : State) : Out :=
  if s.pw = pwREADY && s.isIdle && s.get F.AON_IDLE_MS ≠ 0 then
    .next (s.until (s.idleAt + s.get F.AON_IDLE_MS * msCounts)).toListen
  else .next s

/-- AON_REST_WRITE (R459). -/
def execAonRestWrite (s : State) : Out := s.onReg R.AON_PWRCTL fun s => .next s.restRequest.2

/-- REST_ENTRY_END (R457, R463): 5 ms after Rest entry started BYP_HOLD falls and every domain but PD0 goes off. -/
def execRestEntryEnd (s : State) : Out :=
  if s.pw = pwRESTENTRY then
    let s := s.until (s.restAt + 5 * msCounts)
    let s := (s.setHold false).settleBatch.resetDomains
    .next { s with inRest := true, restAt := s.now }.showDomains
  else .next s

/-- WAKE (R460, R461): source 1 WAKE_N, 2 a safety input, 3 F0, 4 the alarm. -/
def execWake (src : Fin 4) (s : State) : Out :=
  let i := src.val
  let alarm := s.get F.AON_ALARM_L_S + 2 ^ 32 * s.get F.AON_ALARM_H_S
  if !s.inRest || !s.bitAt F.AON_WAKE_EN i || (s.bit F.AON_TRIP_THREST && (i = 1 || i = 2)) then .next s
  else if i = 3 && (alarm = 0 || alarm < s.rtc) then .next s
  else
    let s := if i = 3 then s.until (s.rtcAt + (alarm - s.rtcSec) * 1000 * msCounts) else s
    let s := (s.put F.AON_WAKE_LAST (i + 1)).noteReset 8
    .next (s.boot false true)

/-- DOMAIN_FAIL (R463): a domain that was turning on has not reported power-good within 100 µs. -/
def execDomainFail (d : Fin 14) (s : State) : Out :=
  let k := d.val
  let turning := s.pw == pwBOOT || (s.demandAt.isSome && 8 ≤ k && k ≤ 11)
  if k ≠ 0 && s.domainRun k && turning then
    let s := match s.demandAt with
      | some t => s.until (t + 80000)
      | none => s
    let s := (s.domainDown k false).domainLost k
    let s := if 9 ≤ k && k ≤ 11 then s.engineLost k else s
    let s := if k = 8 then loopN 16 (fun p s => s.linkDown p lOFF) s else s
    let s := if k = 1 || k = 2 then s.islOff (k == 2) else s
    .next (s.showDomains.fault 0x0B21 k)
  else .next s

/-- XTAL32_STABLE (R456): the real-time counter runs from the crystal. -/
def execXtal32Stable (s : State) : Out :=
  if s.powered then .next (s.putB F.AON_RTC_H_SYNC true) else .next s

end Sys2Proof.Machine
end

