-- ==== Sys2Proof/Machine/OrdExec.lean ====
section
/-! DEFINITION. Machine/OrdExec.lean: the built-in orders (R348, R349, R447), what ORD_CLEARFAULT clears, and the journal's
recovery at boot (R356 to R358). -/
namespace Sys2Proof.Machine

/-! ### Built-in orders -/
/-- The running built-in order of an opcode. -/
def State.builtin (s : State) (op : Nat) : Option OrderRec := s.orders.find? (fun o => o.opcode == op && o.st == .running)

/-- Its last step is done: PROGRESS, then END DONE with its data. -/
def State.orderDone (s : State) (o : OrderRec) (data : List Byte) : State := (s.orderStep o).endOrder o.seq 0 data

def State.markMaint (s : State) (seq : Nat) : State := s.mapOrders (fun x => x.seq == seq) (fun x => { x with maint := true })

/-- ORD_LOADPROG (R349): the rig write is asked of the maintenance lock; RIG_WRITE and the end of the activity follow. -/
def execOrdLoadprog (s : State) : Out :=
  match s.builtin 2 with
  | none => .next s
  | some o =>
    if o.maint then .next s
    else
      let r := leAt o.body 0 1
      if !s.bit F.AON_RIG_NONE && s.get F.AON_RIG_ACTIVE = r then .next (s.endOrder o.seq 0x06 [])
      else
        match s.maintSubmit { act := 2, a1 := r, src := .order o.seq } with
        | (.started, s) => .next (s.markMaint o.seq)
        | (.queued, s) => .next (s.markMaint o.seq)
        | (_, s) => .next (s.endOrder o.seq 0x07 [])

/-- Steps 5 and 6 of R447. -/
def State.rigSwitchEnd (s : State) (o : OrderRec) (r : Nat) : State :=
  let s := { s with actLock := false }
  if s.notAtRest.isSome then s.endOrder o.seq 0x01 []
  else match (s.rigCopy false r).orElse (fun _ => s.rigCopy true r) with
    | none => s.endOrder o.seq 0x02 []
    | some l => (((s.rigApply r l).orderDone o []).rigPorts).fieldStart

/-- Steps 2 to 4 of R447: with them the activation lock is set. -/
def State.rigSwitchCheck (s : State) (o : OrderRec) (r : Nat) : State :=
  match s.notAtRest with
  | some n => (s.fault 0x0B05 n).endOrder o.seq 0x01 []
  | none =>
    match (s.rigCopy false r).orElse (fun _ => s.rigCopy true r) with
    | none => s.endOrder o.seq 0x02 []
    | some l =>
      match s.rigContent r l with
      | (false, s) => s.endOrder o.seq 0x02 []
      | (true, s) =>
        match s.rigClaimCheck l with
        | (false, s) => s.endOrder o.seq 0x03 []
        | (true, s) => { s with actLock := true }

/-- ORD_RIGSWITCH (R447): first step 1, then, once the device is in Ready or Run, steps 2 to 4, then steps 5 and 6. Each is a
command of its own, since crews may move between them. -/
def execOrdRigswitch (s : State) : Out :=
  match s.builtin 3 with
  | none => .next s
  | some o =>
    let r := leAt o.body 0 1
    if s.pw = pwBOOT || s.pw = pwRESTENTRY then .next s
    else if !o.maint then
      match s.rigTake r with
      | (none, s) => .next (s.endOrder o.seq 0x02 [])
      | (some _, s) => .next ((s.markMaint o.seq).demand (some o.seq))
    else if s.pw = pwLISTEN then .next (s.demand (some o.seq))
    else if s.actLock then .next (s.rigSwitchEnd o r)
    else .next (s.rigSwitchCheck o r)

/-- ORD_READSIG (R349, R435). -/
def execOrdReadsig (s : State) : Out :=
  match s.builtin 4 with
  | none => .next s
  | some o =>
    let l := (List.range (leAt o.body 0 2)).map (fun i => leAt o.body (4 + 4 * i) 4)
    let s := loopL l (fun a s => s.sigTouch a) s
    .next (s.orderDone o (l.flatMap s.sigBytes))

/-- ORD_WRITESIG (R349, R433): one step per pair. A step ends when a request has carried its value; the order fails with the
first pair that is refused or whose node goes LOST before. -/
def execOrdWritesig (s : State) : Out :=
  match s.builtin 5 with
  | none => .next s
  | some o =>
    if leAt o.body 0 2 ≤ o.step then .next (s.endOrder o.seq 0 [])
    else
      let a := leAt o.body (4 + 8 * o.step) 4
      let v := BitVec.ofNat 32 (leAt o.body (8 + 8 * o.step) 4)
      if !o.maint then
        match s.sigWrite a v with
        | (true, s) => .next (s.markMaint o.seq)
        | (false, s) => .next (s.endOrder o.seq 0x09 [])
      else if !(s.sigAt a).wr then
        let s := (s.mapOrders (fun x => x.seq == o.seq) (fun x => { x with maint := false })).orderStep o
        if leAt o.body 0 2 ≤ o.step + 1 then .next (s.endOrder o.seq 0 []) else .next s
      else if s.nodeSt (pocketPort (a / 256)) (pocketAddr (a / 256)) ≠ nACTIVE then .next (s.endOrder o.seq 0x09 [])
      else .next s

/-- The subscription table, and FIELD.SUBN (R437). -/
def State.setSubs (s : State) (l : List Nat) : State :=
  ({ s with subs := l }).put F.FIELD_SUBN_N l.length

/-- ORD_SUBSCRIBE (R349, R437). -/
def execOrdSubscribe (s : State) : Out :=
  match s.builtin 6 with
  | none => .next s
  | some o =>
    let op := leAt o.body 0 1
    let l := (List.range (leAt o.body 2 2)).map (fun i => leAt o.body (4 + 4 * i) 4)
    let add := s.subs ++ (l.eraseDups.filter (fun k => !s.subs.contains k))
    if op = 0 then
      if 4096 < add.length then .next (s.endOrder o.seq 0x08 []) else .next ((s.setSubs add).orderDone o [])
    else if op = 1 then .next ((s.setSubs (s.subs.filter (fun k => !l.contains k))).orderDone o [])
    else .next ((s.setSubs []).orderDone o [])

/-- ORD_SWAPBANK (R84, R349): one step per entry. -/
def execOrdSwapbank (s : State) : Out :=
  match s.builtin 7 with
  | none => .next s
  | some o =>
    let n := leAt o.body 0 2
    if n ≤ o.step then .next (s.endOrder o.seq 0 [])
    else
      let s := s.swapReq (leAt o.body (4 + 4 * o.step) 2) (leAt o.body (6 + 4 * o.step) 1 == 1)
      let s := s.orderStep o
      if n ≤ o.step + 1 then .next (s.endOrder o.seq 0 []) else .next s

/-- Base of a capsize dump slot (R498). -/
def dumpAt (k : Nat) : Nat := 0x20E00000 + 0x40000 * k

/-- ORD_DUMP (R349, R499). -/
def execOrdDump (s : State) : Out :=
  match s.builtin 12 with
  | none => .next s
  | some o => .next (s.orderDone o (s.bytes (dumpAt (leAt o.body 0 1) + leAt o.body 4 4) (leAt o.body 8 4)))

/-! ### ORD_CLEARFAULT -/
/-- Fault codes whose instance is a crew, a leg, a task, by the fault tables. -/
def crewCodes : List Nat :=
  [0x0206, 0x0207, 0x0210, 0x0303, 0x0304, 0x0305, 0x0306, 0x0308, 0x0309, 0x030D, 0x030E, 0x030F, 0x0310, 0x0311, 0x0501,
   0x0502, 0x0507, 0x0510, 0x0511, 0x0512, 0x0513, 0x0514, 0x0520, 0x0521, 0x0522, 0x0530, 0x0531, 0x0601, 0x0602, 0x0603,
   0x0604, 0x0605, 0x0606, 0x0607, 0x0608, 0x0620, 0x070E, 0x0712, 0x0921, 0x0922, 0x0923, 0x0B05]
def legCodes : List Nat := [0x0301, 0x0302, 0x030A, 0x030B, 0x030C, 0x040A, 0x040E, 0x0503]
def taskCodes : List Nat := [0x0211, 0x0212, 0x0213, 0x0220, 0x0221, 0x0222, 0x0223, 0x0224, 0x0225, 0x0226, 0x0227, 0x0228]

/-- A leg is named (R162, R562): LASTING clears and earlier shoot requests are forgotten; both switches stay off until modulation
or RAW commands them. -/
def State.clearLeg (s : State) (x : Nat) : State :=
  let was := s.bit (F.LEG_LVL_LASTING x)
  let s := s.putB (F.LEG_LVL_LASTING x) false
  s.setLeg x { s.leg x with lastShoot := none, lastPend := false, held := was || (s.leg x).held }

/-- A task is named (R57): DISABLED goes to WAITING with FCNT := 0 and PC := RESUME. -/
def State.clearTask (s : State) (k : Nat) : State :=
  let t := s.task k
  if t.st = .disabled && t.en && (s.execPair (k / 16)).isSome then
    s.setTask k { t with st := .waiting, fcnt := 0, pend := false, initial := false
                         ctx := { t.ctx with pc := t.ctx.resume.setWidth 16 } }
  else s

/-- A latched cause of a crew's fault stop is gone (R561); `c` holds its code and its leg or tile. -/
def State.crewCauseGone (s : State) (n : Nat) (c : Nat × Nat) : Bool :=
  let (cause, i) := c
  let m := s.crewM n
  let ok := ((List.range m).filter (s.setEligible n)).length
  let legs := s.crewLegs n
  if cause = 0x0303 || cause = 0x0304 then
    if s.bit (F.CREW_CFG_DERATE n) && m ≠ 1 then s.get (F.CREW_CFG_MMIN n) ≤ ok else ok == m
  else if cause = 0x0302 then !s.bit (F.LEG_LVL_LASTING i)
  else if cause = 0x0213 || cause = 0x0205 || cause = 0x0206 || cause = 0x0209 then
    match s.catchTask n with
    | some k => (s.task k).st != .disabled && (s.execPair (k / 16)).isSome
    | none => false
  else if cause = 0x030E then
    (s.tandemCrews n).all (fun k => !s.bit (F.CREW_TANDEM_LEADER k) || (s.crewState k != cFSTOP && s.crewState k != cSAFE))
  else if cause = 0x0503 then legs.all (fun x => decide ((s.sinc x).oc < max 1 (s.get (F.CREW_OCLIM_OCN n))))
  else if cause = 0x0504 then !(s.sinc (64 + i)).isOver
  else if cause = 0x0505 then !(s.sinc (64 + i)).under
  else if cause = 0x0502 then s.get (F.CREW_LSTAT_INVRUN n) < 3
  else if cause = 0x0521 then s.get (F.POS_STAT_STATE (s.get (F.PROF_CFG_PORT n))) != poLOST
  else true

/-- A crew is named: POSLOST and SLESS (R261), a tripped guard (R257), its fault stop (R138, R561), its dropped sets (R170). -/
def State.clearCrew (s : State) (n : Nat) : State :=
  let lost := s.get (F.POS_STAT_STATE (s.get (F.PROF_CFG_PORT n))) == poLOST
  let s := if lost then s
    else slessTrack n ((s.putB (F.CREW_LSTAT_POSLOST n) false).putB (F.CREW_LSTAT_SLESS n) false)
  let st := s.crewState n
  let s := if s.guardSt n = gTRIPPED && (st = cSAFE || st = cFSTOP) then
      (s.wr (R.CREW_G_BASE n) (s.rd (R.CREW_G_TL n))).guardArm n
    else s
  if st = cFSTOP then
    if (s.crew n).causes.all (s.crewCauseGone n) then
      ((s.setCrew n { s.crew n with causes := [] }).putB (F.CREW_STAT_FLT n) false).crewToIdle n
    else s
  else if st ≠ cUNUSED && st ≠ cSAFE && s.bit (F.CREW_CFG_REJOIN n) then
    let new := (List.range (s.crewM n)).filter (fun j =>
      !s.setActive n j && s.setEligible n j && !(s.crew n).rejoin.any (fun p => p.1 == j))
    s.beginRejoin n new
  else s

/-- Entries of fault 0x0A06 that are removed forget their nodes (R421). -/
def State.clearEntries (s : State) (p : FaultRec → Bool) : State :=
  let gone := s.faults.filter (fun e => p e && e.code == 0x0A06)
  loopL gone (fun e s => s.fieldForget e.inst) (s.clearFaults p)

/-- ORD_CLEARFAULT (R349): an entry, a crew, a leg, a task, or all. CODE selects among the entries of what is named; 0 takes
all of them. -/
def execOrdClearfault (s : State) : Out :=
  match s.builtin 9 with
  | none => .next s
  | some o =>
    let kind := leAt o.body 0 1
    let code := leAt o.body 2 2
    let inst := leAt o.body 4 4
    let mine (l : List Nat) (e : FaultRec) : Bool := e.inst == inst && (if code = 0 then l.contains e.code else e.code == code)
    let s := if kind = 0 then s.clearEntries (fun e => e.code == code && e.inst == inst)
      else if kind = 1 then (if inst < 32 then s.clearCrew inst else s).clearEntries (mine crewCodes)
      else if kind = 2 then (if inst < 64 then s.clearLeg inst else s).clearEntries (mine legCodes)
      else if kind = 3 then (if inst < 144 then s.clearTask inst else s).clearEntries (mine taskCodes)
      else
        let s := loopN 144 (fun k s => s.clearTask k) (loopN 64 (fun x s => s.clearLeg x) s)
        (loopN 32 (fun n s => s.clearCrew n) s).clearEntries (fun _ => true)
    .next (s.orderDone o [])

/-! ### Journal recovery (R356 to R358) -/
/-- What the records read at boot say. -/
structure Recov where
  orders : List OrderRec := []
  hist : List AccRec := []
  ends : List JRec := []
  ack : Option (Nat × Nat) := none
  epoch : Nat := 0
  next : Nat := 1
  deriving DecidableEq, Repr

/-- An order as its ORDER record gives it. -/
def orderOfFrame (l : List Byte) : OrderRec :=
  let f := frameParts l
  { seq := f.seq, lane := f.lane, opcode := f.opcode, flags := f.flags, ver := f.ver, crc := f.crc, frame := l, body := f.body
    st := .queued }

/-- The pairs of an INDEX record, oldest first. -/
def indexPairs (l : List Byte) : List (Nat × Nat) := (List.range (l.length / 8)).map (fun i => (leAt l (8 * i) 4, leAt l (8 * i + 4) 4))

/-- One record. Every record carries an epoch; the newest one's stands. -/
def Recov.take (x : Recov) (r : JRec) : Recov :=
  let x := { x with epoch := r.epoch }
  let upd (f : OrderRec → OrderRec) : List OrderRec := x.orders.map (fun o => if o.seq == r.seq then f o else o)
  match r.typ with
  | 1 =>
    let o := orderOfFrame r.payload
    if x.orders.any (fun y => y.seq == o.seq) then x
    else
      { x with
        orders := x.orders ++ [o], next := nextSeq o.seq
        hist := { seq := o.seq, crc := o.crc, epoch := r.epoch, rseq := r.tag, opcode := o.opcode, lane := o.lane, body := [] } ::
          x.hist.filter (fun a => a.seq != o.seq) }
  | 2 => { x with orders := upd (fun o => { o with st := .running }) }
  | 3 => { x with orders := x.orders.filter (fun o => o.seq != r.seq), ends := x.ends.filter (fun e => e.seq != r.seq) ++ [r] }
  | 4 => { x with orders := upd (fun o => { o with step := max o.step r.tag }) }
  | 6 => { x with ends := x.ends.filter (fun e => e.seq != r.seq), ack := some (leAt r.payload 0 2, leAt r.payload 4 4) }
  | 7 =>
    let l := indexPairs r.payload
    let old (q c : Nat) : AccRec := (x.hist.find? (fun a => a.seq == q)).getD
      { seq := q, crc := c, epoch := 0, rseq := 0, opcode := 0, lane := 0, body := [] }
    { x with hist := (l.map (fun (q, c) => old q c)).reverse ++ x.hist.filter (fun a => !l.any (fun p => p.1 == a.seq))
             next := match l.getLast? with
               | some p => nextSeq p.1
               | none => x.next }
  | _ => x

/-- The records of a batch with their ring positions. -/
def recPlaces : Nat → List JRec → List (JRec × Nat)
  | _, [] => []
  | p, r :: l => (r, p) :: recPlaces (p + r.size) l

/-- One batch at boot: the records that count, those bad in both macros, and the repair of a copy (R356). -/
def State.readBatch (s : State) (b : JBatch) : (List JRec × List JRec) × State :=
  let l := recPlaces b.pos b.recs
  let ok (m : Nat) (x : JRec × Nat) : Bool := s.jGet m x.2 x.1.size == some x.1.bytes
  let good (m : Nat) : Bool := l.all (ok m)
  let all := b.recs.flatMap JRec.bytes
  if good 0 && good 1 then ((b.recs, []), s)
  else if good 0 then ((b.recs, []), (s.jPut 1 b.pos all).fault 0x080B 1)
  else if good 1 then ((b.recs, []), (s.jPut 0 b.pos all).fault 0x080B 0)
  else
    let bad := (l.filter (fun x => !ok 0 x && !ok 1 x)).map (·.1)
    let s := loopL bad (fun _ s => s.fault 0x080E 0) s
    if bad.any (fun r => r.typ == 8) then (([], b.recs), s) else ((b.recs.filter (fun r => !bad.contains r), bad), s)

/-- Every batch, oldest first. -/
def State.readBatches (s : State) : List JBatch → (List JRec × List JRec) × State
  | [] => (([], []), s)
  | b :: l =>
    let ((g, x), s) := s.readBatch b
    let ((gs, xs), s) := s.readBatches l
    ((g ++ gs, x ++ xs), s)

/-- MASTER.CFG.MRESTART as the rig that boot has chosen gives it. -/
def State.mrestart (s : State) : Bool :=
  match s.rigSel with
  | none => false
  | some r =>
    match (s.rigCopy false r).orElse (fun _ => s.rigCopy true r) with
    | none => false
    | some l => match (rigLoads l).reverse.find? (fun x => x.1 == R.MASTER_CFG) with
      | some x => x.2.getLsbD 6
      | none => false

/-- What the records of the journal restore (R356 to R358): NEXTSEQ, the next epoch, the acknowledged report, the orders and
the reports of their ends. `bad` holds the records that could not be read whole. RSEQ 1 of the new epoch is kept for EVENT
0x0001, which the end of boot forms. -/
def State.recoverFrom (s : State) (good bad : List JRec) : State :=
  let x := good.foldl Recov.take {}
  let lost (q : Nat) : Bool := bad.any (fun r => r.typ != 8 && r.typ != 7 && r.typ != 5 && r.seq == q)
  let orders := x.orders.filter (fun o => !lost o.seq)
  let ends := x.ends.filter (fun r => !lost r.seq)
  let mr := s.mrestart
  let again (o : OrderRec) : Bool := o.classM && mr && o.flags.testBit 1
  let orders := orders.map (fun o =>
    if o.classM then { o with st := .queued, restarted := again o } else { o with rolled := o.st == .running })
  let s := s.put F.MASTER_NEXTSEQ_SEQ x.next
  let s := s.put F.MASTER_EPOCH_E (x.epoch + 1)
  let s := s.put F.MASTER_RSEQ_R 1
  let s := match x.ack with
    | some (e, r) => (s.put F.MASTER_ACK_EPOCH_E e).put F.MASTER_ACK_RSEQ_R r
    | none => s
  let s := { s with epochOpen := true, orders := orders }
  let s := { s with accHist := (x.hist.filter (fun (a : AccRec) => !lost a.seq)).take 4096 }
  let s := s.jAdd { typ := 5, lane := 0, seq := 0, epoch := s.get F.MASTER_EPOCH_E, tag := 0, payload := [] }
  let s := loopL ends (fun r s => s.addReport
    { typ := .endRep, epoch := r.epoch, rseq := r.tag, oseq := r.seq, lane := r.lane, body := r.payload, resend := true }) s
  let s := loopL (orders.filter (fun o => o.classM && !again o)) (fun o s => s.endOrder o.seq 0x50 []) s
  let s := if orders.any (·.rolled) then s.fault 0x080C 0 else s
  s.showFree.showOrders

/-- JOURNAL_RECOVERY (R356). -/
def execJournalRecovery (s : State) : Out :=
  if s.pw ≠ pwBOOT || !s.domainRun 7 || !s.domainRun 4 || s.epochOpen || !s.rstBy.isEmpty || s.recovery then .next s
  else
    let ((good, bad), s) := s.readBatches s.jnl.done
    .next (s.recoverFrom good bad)

end Sys2Proof.Machine
end

