-- ==== Sys2Proof/Machine/Pockets.lean ====
section
/-! DEFINITION. Machine/Pockets.lean: the internal pockets of the signal map (R435). -/
namespace Sys2Proof.Machine

/-- TYPE of an internal point: unsigned, signed, binary32 (R429). -/
abbrev tyU : Nat := 4
abbrev tyS : Nat := 5
abbrev tyF : Nat := 6

/-- The points of crew n: register, type, and whether the point turns BAD with LSTAT.IVAL or VVAL at 0. -/
def crewPoints (n : Nat) : List (Nat × Nat × Bool) :=
  [(R.CREW_STAT n, tyU, false), (R.CREW_EVT n, tyU, false), (R.CREW_ANG n, tyU, false), (R.CREW_SPD n, tyS, false),
   (R.CREW_IPH n 0, tyS, true), (R.CREW_IPH n 1, tyS, true), (R.CREW_IPH n 2, tyS, true), (R.CREW_IPH n 3, tyS, true),
   (R.CREW_IPH n 4, tyS, true), (R.CREW_IPH n 5, tyS, true), (R.CREW_VDC n, tyU, true), (R.CREW_TQACT n, tyF, false),
   (R.CREW_IACT n, tyF, false), (R.SINC_CREW_PWR n, tyF, true), (R.PROF_POS_L n, tyU, false), (R.PROF_POS_H n, tyS, false),
   (R.PROF_VEL n, tyS, false), (R.PROF_PSTAT n, tyU, false), (R.CREW_G_STAT n, tyU, false), (R.CREW_LSTAT n, tyU, false),
   (R.CREW_FCAUSE n, tyU, false), (R.CREW_DRATE n, tyF, false)]

def legPoints (x : Nat) : List Nat := [R.LEG_LVL x, R.LEG_CMP x, R.SINC_LEG_CRES x, R.SINC_LEG_FRES x, R.LEG_SHOOTCNT x]

def tilePoints (k : Nat) : List Nat :=
  [R.YILOS_STAT k, R.SINC_TILE_VDC k, R.YILOS_TEL k 4, R.YILOS_TEL k 12, R.YILOS_DLBADCNT k, R.YILOS_EVLOSTCNT k,
   R.YILOS_SWFLCNT k, R.YILOS_DIAG_STAT k]

/-- Points of the safety pocket: item and register. -/
def safetyPoints : List (Nat × Nat) :=
  [(0, R.SAFETY_ISL), (1, R.SAFETY_PID), (2, R.SAFETY_MISC)] ++
    (List.range 8).flatMap (fun i => [(8 + i, R.SAFETY_GRP_STAT i), (16 + i, R.SAFETY_SI i), (24 + i, R.SAFETY_SBO i)])

def devicePoints : List (Nat × Nat) :=
  [(0, R.SYS_FLT_CNT), (1, R.TIME_STAT), (2, R.RING_STAT), (3, R.MASTER_JSTAT), (4, R.FIELD_STAT), (5, R.SE_SPARE)]

/-- One point takes its register's value: GOOD, or BAD, while the register's domain is on; HELD with its value kept while it is
off. -/
def State.pocketPoint (s : State) (a reg typ : Nat) (bad : Bool) : State :=
  if (winDomain (winOf reg)).any s.domainRun then s.sigUpdate a (s.readView reg) (if bad then 3 else 1) typ false
  else if (s.sigAt a).q = 2 then s
  else s.sigUpdate a (s.sigAt a).v 2 typ false

/-- Pocket 4,077, refreshed at each housekeeping round (R470). -/
def State.pocketHk (s : State) : State :=
  let s := loopN 48 (fun c s => s.pocketPoint (4077 * 256 + c) (R.HK_CH c) tyU false) s
  loopN 8 (fun a s => s.pocketPoint (4077 * 256 + 48 + a) (R.AUXADC_CH_RES a) tyU false) s

/-- The other internal pockets, refreshed every 1 ms. -/
def State.pocketsRefresh (s : State) : State :=
  let s := loopN 32 (fun n s =>
    let bad := !s.bit (F.CREW_LSTAT_IVAL n) || !s.bit (F.CREW_LSTAT_VVAL n)
    loopL ((crewPoints n).zipIdx) (fun x s =>
      s.pocketPoint ((4064 + n / 4) * 256 + 64 * (n % 4) + x.2) x.1.1 x.1.2.1 (x.1.2.2 && bad)) s) s
  let s := loopN 64 (fun x s =>
    loopL ((legPoints x).zipIdx) (fun r s => s.pocketPoint ((4072 + x / 16) * 256 + 16 * (x % 16) + r.2) r.1 tyU false) s) s
  let s := loopN 16 (fun k s =>
    loopL ((tilePoints k).zipIdx) (fun r s => s.pocketPoint (4076 * 256 + 16 * k + r.2) r.1 tyU false) s) s
  let s := loopL safetyPoints (fun r s => s.pocketPoint (4078 * 256 + r.1) r.2 tyU false) s
  loopL devicePoints (fun r s => s.pocketPoint (4079 * 256 + r.1) r.2 tyU false) s

/-- INTERNAL_POCKET_REFRESH: the 1 ms refresh. -/
def execInternalPocketRefresh (s : State) : Out :=
  let s := s.until (s.pockAt + msCounts)
  .next { s with pockAt := s.now }.pocketsRefresh

end Sys2Proof.Machine
end

