-- ==== Sys2Proof/Machine/CoxCmds.lean ====
section
/-! DEFINITION. Machine/CoxCmds.lean: the Cox's commands: the mailbox, housekeeping and the thermal levels, non-urgent MRAM
writes, maintenance activities, firmware and image updates, and the capsize dump (R468 to R500). -/
namespace Sys2Proof.Machine

/-- The Cox runs its firmware. -/
def State.coxUp (s : State) : Bool := s.domainRun 3 && !s.recovery && s.rstBy.isEmpty && s.pw != pwBOOT

/-- The maintenance activities of crew scope name a crew; the others use 0xFF (R479). -/
abbrev devCrew : Nat := 0xFF

/-! ### Mailbox (R469) -/
def execMboxReqWrite (p : PairNo) (v : Word) (s : State) : Out := s.onRegW (R.MBOX_REQ p) v fun v s => .next (s.mboxReq p v)

/-- The slot whose request the Cox serves next. -/
def State.mboxNext (s : State) : Option Nat :=
  (List.range 9).find? (fun p => s.get (F.MBOX_RSP_SEQ p) != s.get (F.MBOX_REQ_SEQ p))

/-- Serves the next slot where its CODE is `code`; a CODE that is not listed is answered with RESULT 4. -/
def State.mboxServe (s : State) (code : Nat) (f : Nat → State → State) : State :=
  match s.mboxNext with
  | none => s
  | some p =>
    if !s.coxUp then s
    else
      let c := s.get (F.MBOX_REQ_CODE p)
      if c = 0 || 6 < c then s.mboxAnswer p 4 else if c = code then f p s else s

/-- An activity is asked of the lock; its RESULT is 1, 2, 3 or 4 (R483). -/
def State.mboxSubmit (s : State) (p : Nat) (r : MaintReq) : State :=
  match s.maintSubmit { r with src := .mbox p } with
  | (.started, s) => s.mboxAnswer p 1
  | (.queued, s) => s.mboxAnswer p 2
  | (.refused, s) => s.mboxAnswer p 3
  | (.dup, s) => s.mboxAnswer p 4

/-- A range in SRAM general use, outside the checkpoint areas, the image stores and every claimed DMA buffer (R481). -/
def State.sramFree (s : State) (a n : Nat) : Bool :=
  rangeInSram a n && s.seAreas.all (fun x => !rangesOverlap a n x.1 x.2) && !s.dmaOverlap a n (fun o => o != 0)

/-- The arguments of CODE 1 are in their ranges (R481). -/
def State.mboxMaintOk (s : State) (act a1 a2 a3 : Nat) : Bool :=
  match act with
  | 4 => true
  | 5 => 0 < a3 && a3 % 64 == 0 && a3 ≤ 4194304 && s.sramFree a2 a3
  | 6 =>
    let n := a3 % 131072
    a3 < 131072 && 1 ≤ n && n ≤ 65536 && a2 < 65536 && s.sramFree a1 (16 * n)
  | 7 => true
  | 16 => a1 < 32
  | 17 => a1 < 32 && rangeInSram a2 256
  | _ => false

/-- MBOX_MAINTENANCE: CODE 1. -/
def execMboxMaintenance (s : State) : Out :=
  .next (s.mboxServe 1 (fun p s =>
    let act := s.mboxArg p 0
    let a1 := s.mboxArg p 1
    let a2 := s.mboxArg p 2
    let a3 := s.mboxArg p 3
    if !s.mboxMaintOk act a1 a2 a3 then s.mboxAnswer p 4
    else s.mboxSubmit p { act := act, crew := if act < 16 then devCrew else a1, a1 := a1, a2 := a2, a3 := a3 }))

/-- MBOX_USER_LOG: CODE 2, a log record of KIND 11. -/
def execMboxUserLog (s : State) : Out :=
  .next (s.mboxServe 2 (fun p s => (s.logRec 11 (s.mboxArg p 0 % 65536) p (s.mboxArg p 1 % 65536)).mboxAnswer p 0))

/-- MBOX_REST: CODE 3. -/
def execMboxRest (s : State) : Out :=
  .next (s.mboxServe 3 (fun p s => match s.restRequest with
    | (true, s) => s.mboxAnswer p 0
    | (false, s) => s.mboxAnswer p 6))

/-- MBOX_FIRMWARE_CHUNK: CODE 4. -/
def execMboxFirmwareChunk (s : State) : Out :=
  .next (s.mboxServe 4 (fun p s =>
    let a := s.mboxArg p 0
    let n := s.mboxArg p 1
    let o := s.mboxArg p 2
    if n % 8 = 0 && 8 ≤ n && n ≤ 65536 && o + n ≤ 1048576 && rangeInSram a n then
      s.mboxSubmit p { act := 1, a1 := a, a2 := n, a3 := o }
    else s.mboxAnswer p 4))

/-- MBOX_FIRMWARE_ACTIVATE: CODE 5 (R489 step 2). -/
def execMboxFirmwareActivate (s : State) : Out :=
  .next (s.mboxServe 5 (fun p s =>
    let b := 1 - s.get F.CRYPTO_FW_RSLOT
    let ok := s.fwOk b
    let s := s.putB (if b = 0 then F.CRYPTO_FW_OKA else F.CRYPTO_FW_OKB) ok
    if ok then
      ((s.setFwState { s.fwState with tslot := b, trialv := true, tries := 0 }).logFw 2 b).mboxAnswer p 0
    else s.mboxAnswer p 6))

/-! ### Capsize dump slots (R497, R498) -/
/-- A slot's header is good: it holds a dump. -/
def State.dumpValid (s : State) (k : Nat) : Bool :=
  let h := s.bytes (dumpAt k) 64
  leAt h 0 4 == 0x4B535043 && leAt h 4 2 == 1 && crc32 (h.take 60) == leAt h 60 4 && !s.touchesUe (dumpAt k) 64

def State.dumpLocked (s : State) (k : Nat) : Bool := s.dumpValid k && (s.rdN (dumpAt k + 6) 2).testBit 0
def State.dumpSeq (s : State) (k : Nat) : Nat := if s.dumpValid k then s.rdN (dumpAt k + 8) 4 else 0

/-- MBOX_DUMP_SLOT_LOCK: CODE 6 sets the header's LOCK bit, and its CRC with it. -/
def execMboxDumpSlotLock (s : State) : Out :=
  .next (s.mboxServe 6 (fun p s =>
    let k := s.mboxArg p 0
    let v := s.mboxArg p 1
    if 4 ≤ k || 2 ≤ v then s.mboxAnswer p 4
    else if s.dumpValid k then
      let h := s.bytes (dumpAt k) 60
      let h := h.take 6 ++ leBytes 2 v ++ h.drop 8
      (s.mramTry (dumpAt k) (h ++ leBytes 4 (crc32 h))).mboxAnswer p 0
    else s.mboxAnswer p 0))

/-! ### Housekeeping (R470 to R475) -/
/-- Counts of 1.25 ns in a housekeeping round of 10 ms. -/
abbrev hkPeriod : Nat := 8000000

/-- HK_ROUND: the next round starts; more than 16 corrected SRAM errors since the one before enter fault 0x0105 (R39). -/
def execHkRound (s : State) : Out :=
  if !s.domainRun 3 then .next s
  else
    let s := s.until s.hkAt
    let s := if s.hkCe > 16 then s.fault 0x0105 0 else s
    .next ({ s with hkAt := s.hkAt + hkPeriod, hkCe := 0 }.incWrap F.HK_ROUNDS_COUNT).pocketHk

/-- Channels in signed 1/64 °C. -/
def hkSigned (c : Nat) : Bool := c < 12 || (28 ≤ c && c < 44) || c = 46 || c = 47

/-- A channel's value or limit as a number. -/
def hkNum (c v : Nat) : Int := if hkSigned c then sextNat 16 v else v

/-- The channel's bit of HK.OUT_L or HK.OUT_H. -/
def State.hkOut (s : State) (c : Nat) : Bool :=
  if c < 32 then s.bitAt F.HK_OUT_L_OUT c else s.bitAt F.HK_OUT_H_OUT (c - 32)
def State.setHkOut (s : State) (c : Nat) (b : Bool) : State :=
  if c < 32 then s.setBitAt F.HK_OUT_L_OUT c b else s.setBitAt F.HK_OUT_H_OUT (c - 32) b

/-- The limits of one channel (R471). -/
def State.hkLimit (s : State) (c : Nat) : State :=
  let v := hkNum c (s.get (F.HK_CH_V c))
  let out := decide (v < hkNum c (s.get (F.HK_LIM_LO c)) ∨ hkNum c (s.get (F.HK_LIM_HI c)) < v)
  if out && !s.hkOut c then ((s.setHkOut c true).raise F.HK_EVT_LIMIT).fault 0x0C04 c
  else if out then s
  else s.setHkOut c false

/-- The valid readings among some channels. -/
def State.hkTemps (s : State) (l : List Nat) : List Int :=
  (l.filter (fun c => s.bit (F.HK_CH_VALID c))).map (fun c => hkNum c (s.get (F.HK_CH_V c)))

def maxOf (l : List Int) : Int := l.foldl max (l.headD 0)
def minOf (l : List Int) : Int := l.foldl min (l.headD 0)

/-- A change of the thermal level. -/
def State.hkSetLevel (s : State) (v : Nat) (tj : Int) : State :=
  ((s.put F.HK_STAT_LEVEL v).raise F.HK_EVT_LEVELCHG).logRec 4 v 0 (wrapInt 16 tj)

/-- The level machine (R472): 130, 118, 113, 110 and 105 °C in 1/64 °C. Entering SHUTDOWN raises the thermal request (R474). -/
def State.hkLevel (s : State) : State :=
  let tj := maxOf (s.hkTemps (List.range 12))
  let s := s.put F.HK_TMAX_T (wrapInt 16 tj)
  let l := s.get F.HK_STAT_LEVEL
  if l < 3 && 8320 ≤ tj then
    { ((s.hkSetLevel 3 tj).fault 0x0C03 0).putB F.SAFETY_MISC_THREQ true with thrAt := some s.now }
  else if l < 2 && 7552 ≤ tj then (s.hkSetLevel 2 tj).fault 0x0C02 0
  else if l = 0 && 7040 ≤ tj then (s.hkSetLevel 1 tj).fault 0x0C01 0
  else if l = 1 && tj ≤ 6720 then s.hkSetLevel 0 tj
  else if l = 2 && tj ≤ 7232 then s.hkSetLevel 1 tj
  else s

/-- The MRAM write window (R475): it closes beyond 120 °C or below −40 °C, and opens at 118 °C and −38 °C. -/
def State.hkWindow (s : State) : State :=
  let l := s.hkTemps (List.range 12 ++ [46, 47])
  if l.isEmpty then s
  else if s.bit F.HK_STAT_WIN then
    if maxOf l > 7680 || minOf l < -2560 then ((s.setWindow false).raise F.HK_EVT_WINCHG).fault 0x0C05 0 else s
  else if maxOf l ≤ 7552 && -2432 ≤ minOf l then ((s.setWindow true).raise F.HK_EVT_WINCHG).jKick
  else s

/-- HK_SAMPLE: channel c is sampled 40 µs × c after the start of its round; `v` is what the converter gives, and for a tile
what TEL[4] holds. -/
def execHkSample (c : Fin 48) (v : BitVec 16) (s : State) : Out :=
  if !s.domainRun 3 then .next s
  else
    let s := s.until (s.hkAt - hkPeriod + 32000 * c.val)
    let tile := 28 ≤ c.val && c.val < 44
    let k := c.val - 28
    if tile && s.linkState k ≠ lUP then .next (s.putB (F.HK_CH_VALID c) false)
    else
      let x := if tile then s.get (F.YILOS_TEL_VAL k 4) else v.toNat
      let s := ((s.put (F.HK_CH_V c) x).putB (F.HK_CH_VALID c) true).hkLimit c
      let s := if c.val < 12 then s.hkLevel else s
      .next (if c.val < 12 || 46 ≤ c.val then s.hkWindow else s)

/-- A group with REQMASK[1] = 1 is in STO, WAITRST or FAULT in both islands (R474). -/
def State.thermalQuiet (s : State) : Bool :=
  let quiet (r : IslRec) : Bool := match r.sec with
    | none => true
    | some c => (List.range 8).all (fun g =>
        !(c.grp.getD g {}).reqmask.testBit 1 || (r.grp g).st == 0 || (r.grp g).st == 1 || (r.grp g).st == 4)
  quiet s.islA && quiet s.islB

/-- THERMAL_SHUTDOWN_REST (R474 steps 2 and 3): at once where the groups have stopped, else at 201 ms. -/
def execThermalShutdownRest (s : State) : Out :=
  match s.thrAt with
  | none => .next s
  | some t =>
    if s.pw = pwLISTEN || s.pw = pwREADY || s.pw = pwRUN then
      let s := if s.thermalQuiet then s else s.until (t + 201 * msCounts)
      .next ({ s with thrAt := none }.enterRest true)
    else .next s

/-! ### Non-urgent MRAM writes and the event log (R475 to R480) -/
/-- A non-urgent chunk may start. -/
def State.nvmFree (s : State) : Bool := s.domainRun 4 && s.bit F.NVM_STAT_WIN && s.jnl.phase == 0

/-- The 16 bytes of a log record (R479). -/
def LogRec.bytes (r : LogRec) (lap : Nat) : List Byte :=
  leBytes 6 r.sec ++ leBytes 4 (r.ns % 2 ^ 30 + lap * 2 ^ 30) ++ leBytes 2 r.code ++ leBytes 1 r.inst ++ leBytes 1 r.kind ++
    leBytes 2 r.data

/-- Records lost: KIND 10 and fault 0x0C09 once the buffer has room (R480). -/
def State.logLostShow (s : State) : State :=
  if s.logLost > 0 && s.logBuf.length < 512 then
    let n := s.logLost
    ({ s with logLost := 0 }.logRec 10 0 0 n).fault 0x0C09 0
  else s

/-- A log chunk of 32 records at the head of the ring. -/
def State.logChunk (s : State) (res : WrRes) : State :=
  let l := s.logBuf.take 32
  let i := s.get F.NVM_LOG_HEAD_IDX
  let lap := s.get F.NVM_LOG_HEAD_LAP
  let place (k : Nat) : Nat × Nat := ((i + k) % 65536, (lap + (i + k) / 65536) % 4)
  let s := { s with logBuf := s.logBuf.drop 32 }
  match res with
  | .failed => { (s.retryL 2).fault 0x0C06 0 with logLost := min 65535 (s.logLost + 32) }.logLostShow
  | r =>
    let s := if r = .rewritten then s.retryT 2 else s
    let s := loopN 32 (fun k s => match l[k]? with
      | some x => s.mramWrite (logAt (place k).1) (x.bytes (place k).2)
      | none => s) s
    ((s.put F.NVM_LOG_HEAD_IDX (place 32).1).put F.NVM_LOG_HEAD_LAP (place 32).2).logLostShow

/-- The waiting chunk of an activity that comes first. A failed one lets its owner know: firmware ends with RESULT 6, a rig's
target copy and every other stay as they are (R476). -/
def State.dataChunk (s : State) (c : ChunkRec) (res : WrRes) : State :=
  let s := { s with chunks := s.chunks.drop 1 }
  match res with
  | .failed =>
    let s := (s.retryL 2).fault 0x0C06 ((c.addr - 0x20000000) / 0x800000)
    let act := c.owner % 256
    if act = 2 || act = 3 then s else s.maintSet act (c.owner / 256) (fun r => { r with out := 3 })
  | r => (if r = .rewritten then s.retryT 2 else s).mramWrite c.addr c.data

/-- Counts that a chunk of n bytes takes, at 256 bytes per µs and twice where it is rewritten (R476; that it takes no less is a
DESIGN CHOICE, assumption log 88). -/
def chunkTime (n : Nat) (res : WrRes) : Nat := (n * 800 + 255) / 256 * (if res = .ok then 1 else 2)

/-- NVM_CHUNK_WRITE: the log's chunk where 32 records wait, else the first waiting chunk; one at a time, and under thermal
throttle after its pause (R473). -/
def execNvmChunkWrite (res : WrRes) (s : State) : Out :=
  let logs := 32 ≤ s.logBuf.length && s.coxUp
  if !s.nvmFree || !(logs || !s.chunks.isEmpty) then .next s
  else
    let s := s.until s.chunkAt
    let s := if s.get F.HK_STAT_LEVEL ≥ 2 then s.advance (s.get F.HK_THR_PAUSE * 800) else s
    let n := if logs then 512 else (s.chunks.headD { addr := 0, data := [], owner := 0 }).data.length
    let s := { s with chunkAt := s.now + chunkTime n res }
    if logs then .next (s.logChunk res)
    else match s.chunks with
      | c :: _ => .next (s.dataChunk c res)
      | [] => .next s

/-- SCRUB_STEP_DUE: 4,096 steps in NVM.SCRUB.HOURS hours; a step that finds the queue full comes again after 1 s (R477). -/
def execScrubStepDue (s : State) : Out :=
  if !s.coxUp || !s.domainRun 4 then .next s
  else
    let per := s.get F.NVM_SCRUB_HOURS * 703125000
    let s := s.until (s.scrubAt + per)
    match s.maintSubmit { act := 3 } with
    | (.refused, s) => .next { s with scrubAt := s.now + 800000000 - per }
    | (_, s) => .next { s with scrubAt := s.now }

/-- WEAR_SAVE: the wear counts go to the calibration area every hour (R478). -/
def execWearSave (s : State) : Out :=
  if !s.nvmFree then .next s
  else
    let s := s.until (s.wearAt + 3600000 * msCounts)
    .next { s with wearAt := s.now }.saveWear

/-! ### Maintenance activities (R481 to R483) -/
/-- The running activity of a code begins its work. -/
def State.maintBegin (s : State) (act : Nat) (f : MaintReq → State → State) : State :=
  match s.maintReady act with
  | none => s
  | some r => if !s.coxUp then s else f r (s.maintSet act r.crew (fun x => { x with began := true }))

def State.maintFail (s : State) (r : MaintReq) : State := s.maintSet r.act r.crew (fun x => { x with out := 3 })

def chunkOwner (r : MaintReq) : Nat := r.act + 256 * r.crew

/-- The Cox reads SRAM for an activity; none where a word cannot be corrected. -/
def State.coxBytes (s : State) (a n : Nat) : Option (List Byte) × State :=
  let s := s.correctCe a n
  if s.touchesUe a n then (none, s.fault 0x0106 (bankOf a)) else (some (s.bytes a n), s)

/-- FIRMWARE_IMAGE_WRITE: to the slot that is not running (R489). -/
def execFirmwareImageWrite (s : State) : Out :=
  .next (s.maintBegin 1 (fun r s =>
    match s.coxBytes r.a1 r.a2 with
    | (some l, s) => s.addChunks (chunkOwner r) (fwSlot (1 - s.get F.CRYPTO_FW_RSLOT) + r.a3) l
    | (none, s) => s.maintFail r))

/-- RIG_WRITE: an ORD_LOADPROG's data go to both copies; a repair copies the good one over the other (R349, R444). -/
def execRigWrite (s : State) : Out :=
  .next (s.maintBegin 2 (fun r s =>
    match r.src with
    | .order q => match s.orderOf q with
      | some o =>
        let s := s.addChunks (chunkOwner r) (rigBase false r.a1 + leAt o.body 4 4) (o.body.drop 8)
        s.addChunks (chunkOwner r) (rigBase true r.a1 + leAt o.body 4 4) (o.body.drop 8)
      | none => s
    | _ => match s.rigCopy (r.a2 = 0) r.a1 with
      | some l => s.addChunks (chunkOwner r) (rigBase (r.a2 = 1) r.a1) l
      | none => s))

/-- The copy of an MRAM word in the other macro, where the area is mirrored (R22, R486). -/
def mirrorOf (a : Nat) : Option Nat :=
  let o := (a - 0x20000000) % 0x800000
  if o < 0x500000 || 0x700000 ≤ o then some (if a < 0x20800000 then a + 0x800000 else a - 0x800000) else none

/-- The scrub of a corrected word of macro m: rewritten as a non-urgent chunk (R477). -/
def State.scrubCe (s : State) (own m w : Nat) : State := (s.incSat (F.NVM_CECNT_COUNT m)).addChunks own w (s.bytes w 8)

/-- The scrub of an uncorrectable word of macro m: rewritten from the other macro where it is good there (R477). -/
def State.scrubUe (s : State) (own m w : Nat) : State :=
  let s := (s.incSat (F.NVM_UECNT_COUNT m)).fault 0x0C07 m
  match mirrorOf w with
  | some v => if s.touchesUe v 8 then s else s.addChunks own w (s.bytes v 8)
  | none => s

/-- One 4 KB step of the scrub (R477). -/
def State.scrubStep (s : State) (own : Nat) : State :=
  let a := 0x20000000 + 4096 * (s.scrubPos % 4096)
  let m := (a - 0x20000000) / 0x800000
  let here (w : Nat) : Bool := a ≤ w && w < a + 4096
  let s := { s with scrubPos := (s.scrubPos + 1) % 4096 }
  let s := loopL (s.eccCe.filter here) (fun w s => s.scrubCe own m w) s
  loopL (s.eccUe.filter here) (fun w s => s.scrubUe own m w) s

/-- MRAM_SCRUB. -/
def execMramScrub (s : State) : Out := .next (s.maintBegin 3 (fun r s => s.scrubStep (chunkOwner r)))

/-- A journal record is live (R340). -/
def State.jLive (s : State) (r : JRec) : Bool :=
  let open_ (q : Nat) : Bool := s.orders.any (fun o => o.seq == q && o.st != OrdSt.terminal) ||
    (s.jnl.wait ++ s.jnl.batch).any (fun x => x.typ == 3 && x.seq == q)
  match r.typ with
  | 1 => open_ r.seq
  | 2 => open_ r.seq
  | 4 => open_ r.seq
  | 3 => s.reports.any (fun x => x.typ == .endRep && x.epoch == r.epoch && x.rseq == r.tag)
  | _ => false

/-- Cuts a list into pieces of n. -/
def cutList {α : Type} (n : Nat) : Nat → List α → List (List α)
  | 0, _ => []
  | _, [] => []
  | k + 1, l => l.take n :: cutList n k (l.drop n)

/-- Packs records into batches, each with its COMMIT record. -/
def packBatches (epoch : Nat) : Nat → Nat → Nat → List JRec → List JBatch
  | 0, _, _, _ => []
  | _, _, _, [] => []
  | k + 1, no, pos, r :: l =>
    let (a, b) := takeFit r.size l
    let recs := (r :: a).map (fun x => { x with batch := no })
    let all := recs ++ [commitRec no epoch recs]
    { no := no, pos := pos, size := recsSize all, recs := all } :: packBatches epoch k (no + 1) (pos + recsSize all) b

/-- The ring positions of some bytes, cut where the ring wraps. -/
def ringPieces (pos : Nat) (l : List Byte) : List (Nat × List Byte) :=
  let p := pos % jRing
  let n := jRing - p
  if l.length > n then [(p, l.take n), (0, l.drop n)] else [(p, l)]

/-- The batches a compaction writes at the write position: the live records, INDEX records of the last 4,096 accepted
sequences, and an EPOCH record (R340, R481). -/
def State.compBatches (s : State) : List JBatch :=
  let e := s.get F.MASTER_EPOCH_E
  let live := (s.jnl.done.flatMap (·.recs)).filter s.jLive
  let idx := (cutList 700 6 s.accHist.reverse).map (fun l =>
    ({ typ := 7, lane := 0, seq := 0, epoch := e, tag := 0
       payload := l.flatMap (fun a => leBytes 4 a.seq ++ leBytes 4 a.crc) } : JRec))
  let ep : JRec := { typ := 5, lane := 0, seq := 0, epoch := e, tag := 0, payload := [] }
  let all := live ++ idx ++ [ep]
  packBatches e (all.length + 1) s.jnl.next s.jnl.head all

def batchesSize (l : List JBatch) : Nat := l.foldl (fun n b => n + b.size) 0

/-- Their bytes wait as chunks for each macro of the journal; the write position moves past them. -/
def State.compWrite (s : State) (own : Nat) (comp : List JBatch) : State :=
  let s := loopL comp (fun b s =>
    loopL (ringPieces b.pos (b.recs.flatMap JRec.bytes)) (fun x s =>
      loopN 2 (fun m s => if s.macroLost m then s else s.addChunks own (jBase m + x.1) x.2) s) s) s
  { s with jnl := { s.jnl with comp := comp, next := s.jnl.next + comp.length, head := s.jnl.head + batchesSize comp } }.showFree

/-- JOURNAL_COMPACTION: at the end of the activity the new batches replace everything before them (R340, R481). -/
def execJournalCompaction (s : State) : Out :=
  .next (s.maintBegin 4 (fun r s =>
    if s.jFree < batchesSize s.compBatches then s.maintFail r else s.compWrite (chunkOwner r) s.compBatches))

/-- The compaction has ended: the batches before it are reclaimed. -/
def State.compactionEnd (s : State) (ok : Bool) : State :=
  match s.jnl.comp with
  | [] => s
  | b :: l =>
    if !ok then { s with jnl := { s.jnl with comp := [] } }
    else
      let later := s.jnl.done.filter (fun x => decide (b.pos ≤ x.pos))
      { s with jnl := { s.jnl with comp := [], done := b :: l ++ later, tail := b.pos } }.showFree.jKick

/-- The march test leaves the bytes of its range open: a free value each word. -/
def State.marchTest (s : State) (a n : Nat) : State :=
  loopN (n / 8) (fun i s => let (v, s) := s.free; s.devWrite (a + 8 * i) (leBytes 8 v)) s

/-- SRAM_BANK_TEST: the march test has run over the range; `bad` is the bank it found faulty. -/
def execSramBankTest (bad : Option (Fin 2)) (s : State) : Out :=
  .next (s.maintBegin 5 (fun r s => match bad with
    | some b => ((s.marchTest r.a2 r.a3).fault 0x0C50 b).maintFail r
    | none => s.marchTest r.a2 r.a3))

/-- LOG_EXPORT: records of the ring, 16 bytes each, to SRAM (R481). -/
def execLogExport (s : State) : Out :=
  .next (s.maintBegin 6 (fun r s =>
    loopN (r.a3 % 131072) (fun i s => s.devWrite (r.a1 + 16 * i) (s.bytes (logAt ((r.a2 + i) % 65536)) 16)) s))

/-- OFF_STATE_DIAGNOSTICS: the Cox writes YILOS[k].DIAG_CTL with the legs and START (R231, R481). -/
def execOffStateDiagnostics (s : State) : Out :=
  .next (s.maintBegin 16 (fun r s =>
    let k := r.a2 % 16
    if s.windowOn (winOf (R.YILOS_DIAG_CTL k)) then
      (s.put (F.YILOS_DIAG_CTL_LEGS k) (bitsOf r.a2 11 8)).diagStart k
    else (s.coxBusFault 0x0104 (R.YILOS_DIAG_CTL k)).maintFail r))

/-- ENCODER_CALIBRATION: the crew's 256-byte record goes to the calibration area of both macros (R481, R486). -/
def execEncoderCalibration (s : State) : Out :=
  .next (s.maintBegin 17 (fun r s =>
    match s.coxBytes r.a2 256 with
    | (some l, s) =>
      let s := s.addChunks (chunkOwner r) (keysAt 0 + 0x2000 + 256 * r.crew) l
      s.addChunks (chunkOwner r) (keysAt 1 + 0x2000 + 256 * r.crew) l
    | (none, s) => s.maintFail r))

/-- The activity has no work left. -/
def State.maintDone (s : State) (r : MaintReq) : Bool :=
  r.began && !s.chunks.any (fun c => c.owner == chunkOwner r) &&
    (r.act != 16 || r.out == 3 || !s.bit (F.YILOS_DIAG_STAT_BUSY (r.a2 % 16)))

/-- MAINTENANCE_ACTIVITY_END: the outcome goes to the log and to who asked, and the lock starts queued requests (R483). -/
def execMaintenanceActivityEnd (act crew : Byte) (s : State) : Out :=
  match s.maintRun.find? (fun r => r.act == act.toNat && r.crew == crew.toNat) with
  | none => .next s
  | some r =>
    if !s.maintDone r then .next s
    else
      let s := { s with maintRun := s.maintRun.filter (fun x => !(x.act == r.act && x.crew == r.crew)) }
      let s := s.logRec 5 r.act r.crew r.out
      let s := if r.act = 1 && r.out = 1 then s.logFw 1 (1 - s.get F.CRYPTO_FW_RSLOT) else s
      let s := if r.act = 4 then s.compactionEnd (r.out = 1) else s
      let s := match r.src with
        | .mbox p => s.put (F.MBOX_RSP_RESULT p) (if r.out = 1 then 0 else if r.out = 2 then 5 else 6)
        | .order q => match s.orderOf q with
          | some o => s.orderDone o []
          | none => s
        | .auto => s
      .next s.maintScan.askCompaction

/-! ### Firmware, life cycle and live replacement (R487 to R495) -/
def execFwConfirm (v : Word) (s : State) : Out := s.onRegW R.CRYPTO_FW v fun v s =>
  .next (if v.getLsbD 31 then s.fwConfirm else s)

def execLcsWrite (v : Word) (s : State) : Out := s.onRegW R.CRYPTO_LCS v fun v s => .next (s.lcsWrite v)

def execSeSwapGo (v : Word) (s : State) : Out := s.onRegW R.SE_SWAP v fun v s => .next (s.seSwap v)

/-- The request for a live replacement ends. -/
def State.swapEnd (s : State) (res : Nat) : State := { s with swap := none }.put F.SE_SWAP_STAT_RESULT res

/-- Slots of the image store change owner: the spare's becomes the home's. -/
def State.swapSlots (s : State) (home q : Nat) : State :=
  let a := s.slotOf home
  let b := s.slotOf q
  { s with slotMap := (home, b) :: (q, a) :: s.slotMap.filter (fun e => e.1 != home && e.1 != q) }

/-- A catch task on the new image: RESUME of its task table, registers and FSTAT 0, its region restored where the crew has a
record (R494). Answers the bytes of the record. -/
def State.swapCatch (s : State) (q home key oldId : Nat) : Nat × State :=
  let t := s.task key
  let (off, res) := match imgTask s key with
    | some i => (i.ckptOff, i.resume)
    | none => (0, 0)
  let s := s.setTask key { t with ctx := { pc := BitVec.ofNat 16 res, resume := BitVec.ofNat 32 res } }
  match s.bestCkpt home t.idx oldId with
  | some r => (416 + r.region.length, s.setPair q { s.pair q with dmem := memPut (s.pair q).dmem off r.region })
  | none => (0, s)

/-- The catch tasks of a home that run. -/
def State.catchKeys (s : State) (home : Nat) : List Nat :=
  (homeTasks home).filter (fun k => (s.task k).en && (s.task k).src == srcCatch && (s.task k).st != .disabled)

/-- An instant of R494 for the request in force: within 1 ms of GO, with every catch task of the pair WAITING (a record is
captured by the WAITCATCH that makes its task wait, R69) and no catch of its crews within 2 µs. -/
def State.swapReady (s : State) (w : SwapRec) : Bool :=
  decide (s.now ≤ w.goAt + msCounts) && s.pairSt w.spare == pSPARE && (s.pairSt w.pair == pACTIVE || s.pairSt w.pair == pHOST) &&
    (s.catchKeys (s.homeOf w.pair)).all (fun k => (s.task k).st == .waiting) &&
    (s.homeCrews (s.homeOf w.pair)).all (fun n => !s.catchWithin n 1600)

/-- The pair is fenced without a fault and the spare hosts its home with the new image (R494, R495). -/
def State.liveReplace (s : State) (w : SwapRec) : State :=
  let p := w.pair
  let q := w.spare
  let home := s.homeOf p
  let cs := s.catchKeys home
  let others := (homeTasks home).filter (fun k => (s.task k).en && (s.task k).src != srcCatch && (s.task k).st != .disabled)
  let oldId := (s.image home).imageId
  let s := s.put F.SE_SWAP_STAT_WAIT (min 65535 ((s.now - w.goAt) / 800))
  let s := s.setPairSt p pFENCED
  let s := (s.swapSlots home q).setImage home (parseImage (s.slotImage q))
  let s := s.setPair q { s.pair q with testing := false, restoring := false, reloading := false }
  let (n, s) := cs.foldl (fun acc k =>
    let (b, s') := acc.2.swapCatch q home k oldId
    (acc.1 + b, s')) (0, s)
  let s := s.advance ((4 * (500 + (n + 31) / 32) + 4) / 5)
  let s := (s.put (F.SE_PAIR_STAT_HOME q) home).setPairSt q pHOST
  let s := loopL others (fun k s => s.startInitial k) s
  (s.swapEnd 1).fault 0x0C31 p

/-- LIVE_REPLACEMENT_INSTANT (R494). -/
def execLiveReplacementInstant (s : State) : Out :=
  match s.swap with
  | none => .next s
  | some w => if s.swapReady w then .next (s.liveReplace w) else .next s

/-- LIVE_SWAP_TIMEOUT (R494): no instant within 1 ms of GO. -/
def execLiveSwapTimeout (s : State) : Out :=
  match s.swap with
  | none => .next s
  | some w => .next (((s.until (w.goAt + msCounts)).swapEnd 2).fault 0x0C30 w.pair)

/-! ### Capsize dump (R496 to R498) -/
/-- Words as their registers read, from base to base + 4 n. -/
def State.winBytes (s : State) (base n : Nat) : List Byte :=
  (List.range n).flatMap (fun i => leBytes 4 (s.readView (base + 4 * i)).toNat)

def State.regsBytes (s : State) (l : List Nat) : List Byte := l.flatMap (fun a => leBytes 4 (s.readView a).toNat)

/-- One section: TYPE, SIZE, content, padding. -/
def dumpSec (typ : Nat) (l : List Byte) : List Byte :=
  leBytes 2 typ ++ [0, 0] ++ leBytes 4 l.length ++ slice l 0 ((l.length + 7) / 8 * 8)

/-- The newest 256 log records: of the ring, then of the Cox buffer. -/
def State.newestLogs (s : State) : List Byte :=
  let i := s.get F.NVM_LOG_HEAD_IDX
  let lap := s.get F.NVM_LOG_HEAD_LAP
  let n := min 256 s.logBuf.length
  let ring := (List.range (256 - n)).map (fun k => s.bytes (logAt ((i + 65536 + k - (256 - n)) % 65536)) 16)
  let ring := ring.filter (fun l => leAt l 13 1 != 0)
  let skip := s.logBuf.length - n
  let buf := (List.range n).map (fun k =>
    ((s.logBuf[skip + k]?).map (fun r => r.bytes ((lap + (i + skip + k) / 65536) % 4))).getD [])
  ring.flatten ++ buf.flatten

/-- The sections of R498; the registers and stack of the Cox come from outside. -/
def State.dumpSections (s : State) (cox stack : List Byte) : List Byte :=
  dumpSec 1 cox ++
  dumpSec 2 ((List.range 64).flatMap (fun i =>
    let s := s.put F.SYS_FLT_IDX_IDX i
    s.regsBytes [R.SYS_FLT_ENT0, R.SYS_FLT_ENT1, R.SYS_FLT_ENT2])) ++
  dumpSec 3 (s.winBytes 0x40000000 64 ++ s.winBytes 0x40020000 32 ++ s.winBytes 0x40010000 12) ++
  dumpSec 4 ((List.range 32).flatMap (fun n =>
    s.regsBytes [R.CREW_STAT n, R.CREW_FCAUSE n, R.CREW_LSTAT n, R.CREW_G_STAT n, R.PROF_PSTAT n])) ++
  dumpSec 5 (s.regsBytes ((List.range 9).map (fun p => R.SE_PAIR_STAT p)) ++ s.regsBytes [R.SE_TAKE_LAST] ++
    allTasks.flatMap (fun k => leBytes 4 (s.task k).stat.toNat)) ++
  dumpSec 6 (s.winBytes 0x400F0000 24 ++ s.winBytes 0x400F0100 66) ++
  dumpSec 7 s.newestLogs ++
  dumpSec 8 (stack.take 65536) ++
  dumpSec 9 (s.winBytes 0x40120000 144) ++
  dumpSec 10 (s.regsBytes ([R.RING_STAT, R.TIME_STAT] ++ (List.range 16).map (fun k => R.YILOS_STAT k)))

/-- The slot a dump goes to (R497): none where all four are locked. -/
def State.dumpSlot (s : State) : Option Nat :=
  ((List.range 4).filter (fun k => !s.dumpLocked k)).foldl (fun b k =>
    match b with
    | none => some k
    | some j => if s.dumpSeq k < s.dumpSeq j then some k else some j) none

/-- Writes a dump; its header last. Answers whether it is written. A write that fails twice leaves no valid header (R476). -/
def State.writeDump (s : State) (trigger : Nat) (cox stack : List Byte) (res : WrRes) : Bool × State :=
  if !s.bit F.NVM_STAT_WIN || s.bit F.MASTER_JSTAT_PFAIL || !s.domainRun 4 then (false, s)
  else match s.dumpSlot with
    | none => (false, s.fault 0x0C41 0)
    | some k =>
      let seq := ([0, 1, 2, 3].map s.dumpSeq).foldl max 0 + 1
      let body := (s.dumpSections cox stack).take (262144 - 64)
      let h := leBytes 4 0x4B535043 ++ leBytes 2 1 ++ leBytes 2 0 ++ leBytes 4 seq ++ leBytes 2 trigger ++
        leBytes 2 (if trigger = 3 then 0x0806 else 0) ++ s.ltime.bytes12 ++ leBytes 4 (64 + body.length) ++ leBytes 2 10 ++
        leBytes 2 0 ++ leBytes 4 (crc32 body) ++ List.replicate 20 0
      let s := (s.mramWrite (dumpAt k) (List.replicate 64 0)).mramWrite (dumpAt k + 64) body
      match res with
      | .failed => (false, (s.retryL 2).fault 0x0C06 1)
      | r =>
        let s := if r = .rewritten then s.retryT 2 else s
        let s := s.mramWrite (dumpAt k) (h ++ leBytes 4 (crc32 h))
        (true, (s.fault 0x0C40 k).logRec 8 trigger k (seq % 65536))

/-- A dump of triggers 1 to 3 and the software reset behind it (R496, R497). -/
def State.fatal (s : State) (trigger : Nat) (cox stack : List Byte) (res : WrRes) : State :=
  if !s.coxUp then s else ((s.writeDump trigger cox stack res).2).startReset 5

/-- CAPSIZE_DUMP: after a journal halt (trigger 3), or as maintenance activity 7 (trigger 4). -/
def execCapsizeDump (cox stack : List Byte) (res : WrRes) (s : State) : Out :=
  if s.bit F.MASTER_JSTAT_HALT then .next (s.fatal 3 cox stack res)
  else .next (s.maintBegin 7 (fun r s =>
    match s.writeDump 4 cox stack res with
    | (true, s) => s
    | (false, s) => s.maintFail r))

def execCoxException (cox stack : List Byte) (res : WrRes) (s : State) : Out := .next (s.fatal 1 cox stack res)
def execFirmwareAssertion (cox stack : List Byte) (res : WrRes) (s : State) : Out := .next (s.fatal 2 cox stack res)

end Sys2Proof.Machine
end

