-- ==== Sys2Proof/Machine/JtagCmds.lean ====
section
/-! DEFINITION. Machine/JtagCmds.lean: the test access port (R491, R492, R522 to R526). -/
namespace Sys2Proof.Machine

/-- Balls of the boundary register times three cells (R524). -/
abbrev bsrLen : Nat := 750

/-- A hold by EXTEST, CLAMP or HIGHZ ends: another instruction is loaded, or the TAP resets (R525). -/
def State.jtagRelease (s : State) : State := s.releaseReset 9

/-- An instruction is loaded at Update-IR. `out` of the record keeps what the following scan of the data register brings out. -/
def State.jtagIr (s : State) (code : Nat) : State := { s with tap := { s.tap with ir := code } }

/-- What the scan of the data register brings out. -/
def State.tapOut (s : State) (n : Nat) : State := { s with tap := { s.tap with out := n } }

/-- A scan of the boundary register: the balls' levels out, the next boundary in. -/
def State.tapScan (s : State) (pins tdi : Nat) : State := { s with tap := { s.tap with out := pins, boundary := tdi } }

/-- A code that selects the bypass register: the register captures 0, then follows TDI. -/
def State.jtagBypass (s : State) (tdi : Nat) : State := s.tapOut (2 * tdi)

/-- TAP_RESET (R522): IDCODE is loaded. -/
def execTapReset (s : State) : Out :=
  if s.powered then .next (s.jtagRelease.jtagIr 0x01) else .next s

/-- IDCODE: 32 bits out; bit 0 shows a lasting RLOAD failure once (R523, R526). -/
def execIdcode (s : State) : Out :=
  if !s.powered then .next s
  else
    let s := s.jtagRelease.jtagIr 0x01
    .next { s with tap := { s.tap with out := if s.tap.idBad then 0x106406D6 else 0x106406D7, idBad := false } }

/-- SAMPLE/PRELOAD: the balls' levels out, the next boundary in; bypass while locked. -/
def execSamplePreload (pins tdi : BitVec 750) (s : State) : Out :=
  if !s.powered then .next s
  else
    let s := s.jtagRelease.jtagIr 0x02
    if s.jtagFree then .next (s.tapScan pins.toNat tdi.toNat)
    else .next (s.jtagBypass tdi.toNat)

/-- An instruction that holds the domains in reset with cause 0x0009, while JTAG is open. -/
def State.jtagHold (s : State) (code : Nat) : Bool × State :=
  if s.jtagFree then (true, (s.jtagIr code).holdReset 9) else (false, s.jtagRelease.jtagIr code)

/-- EXTEST: the balls follow the boundary register; `pins` are captured and `tdi` becomes the boundary (R523, R525). -/
def execExtest (pins tdi : BitVec 750) (s : State) : Out :=
  if !s.powered then .next s
  else match s.jtagHold 0x03 with
    | (true, s) => .next (s.tapScan pins.toNat tdi.toNat)
    | (false, s) => .next (s.jtagBypass tdi.toNat)

def execClamp (s : State) : Out := if s.powered then .next (s.jtagHold 0x04).2 else .next s
def execHighz (s : State) : Out := if s.powered then .next (s.jtagHold 0x05).2 else .next s

/-- The nonce of CRYPTO.CHAL, and SYS.ID, as bytes. -/
def State.nonce (s : State) : List Byte := (List.range 8).flatMap (fun i => leBytes 4 (s.rd (R.CRYPTO_CHAL i)).toNat)
def State.sysIdBytes (s : State) : List Byte := leBytes 4 (s.rd R.SYS_ID).toNat

/-- CHAL: 288 bits out (R523). -/
def execChal (s : State) : Out :=
  if !s.powered then .next s
  else
    let s := s.jtagRelease.jtagIr 0x20
    .next (s.tapOut (leNat (s.nonce ++ s.sysIdBytes)))

/-- RETURNED is entered; the order key is erased (R487). -/
def State.enterReturned (s : State) : State :=
  let s := (s.keyWrite 0x210 (List.replicate 33 0)).keyWrite 4 [3]
  ((s.logRec 9 3 0 3).showFw).showJtag

/-- An answer of operation `op` (R491). -/
def State.jtagAnswer (s : State) (op : Nat) (r t : List Byte) : State :=
  if s.get F.CRYPTO_JTAG_FAILS = 3 then s
  else
    let d := sha384 (s.nonce ++ s.sysIdBytes ++ leBytes 1 op)
    let key := (List.range 4).find? (fun k => s.sigOk k d r t)
    let s := match (if op = 1 || op = 2 then key else none) with
      | none => s.put F.CRYPTO_JTAG_FAILS (s.get F.CRYPTO_JTAG_FAILS + 1)
      | some k =>
        let s := if op = 1 then ({ s with jtagOpen := true }.logRec 9 1 k s.lcs).showJtag else s.enterReturned
        s.fault 0x0C26 0
    s.newNonce

/-- ANSWER: 776 bits in: operation byte, r, s (R523). -/
def execAnswer (data : BitVec 776) (s : State) : Out :=
  if !s.powered then .next s
  else
    let s := s.jtagRelease.jtagIr 0x21
    let l := leBytes 97 data.toNat
    if s.domainRun 3 then .next (s.jtagAnswer (leAt l 0 1) (slice l 1 48) (slice l 49 48)) else .next s

/-- RLOAD may write: in recovery, under the write window, to a multiple of 8 inside the slot (R526). -/
def State.rloadOk (s : State) (off : Nat) : Bool :=
  s.recovery && s.domainRun 4 && s.bit F.NVM_STAT_WIN && off % 8 == 0 && decide (off < 1048576)

/-- The word goes into a firmware slot; `res` is what the write ends with. -/
def State.rloadWrite (s : State) (slot off : Nat) (l : List Byte) (res : WrRes) : State :=
  match res with
  | .failed => { (s.retryL 2).fault 0x0C06 slot with tap := { s.tap with idBad := true } }
  | .rewritten => (s.retryT 2).mramWrite (fwSlot slot + off) l
  | .ok => s.mramWrite (fwSlot slot + off) l

/-- RLOAD: a 64-bit word into a firmware slot (R526). -/
def execRload (slot : Bool) (off : Word) (data : BitVec 64) (res : WrRes) (s : State) : Out :=
  if !s.powered then .next s
  else
    let s := s.jtagRelease.jtagIr 0x30
    let tdi := slot.toNat + 2 * off.toNat + 2 ^ 33 * data.toNat
    if !s.jtagFree then .next (s.jtagBypass tdi)
    else if !s.rloadOk off.toNat then .next (s.tapOut tdi)
    else .next ((s.tapOut tdi).rloadWrite slot.toNat off.toNat (leBytes 8 data.toNat) res)

/-- SYSRST: a reset with cause 0x0009 at Update-IR (R523). -/
def execSysrst (s : State) : Out :=
  if !s.powered then .next s
  else
    let s := s.jtagRelease.jtagIr 0x31
    if s.jtagFree then .next (s.startReset 9) else .next s

/-- KEYWR: a key slot, its revocation or the order key (R492, R526). -/
def execKeywr (target : Byte) (data : BitVec 768) (s : State) : Out :=
  if !s.powered then .next s
  else
    let s := s.jtagRelease.jtagIr 0x32
    if !s.jtagFree then .next (s.jtagBypass (target.toNat + 256 * data.toNat))
    else
      let l := leBytes 96 data.toNat
      let t := target.toNat
      if !s.domainRun 3 then .next s
      else if s.lcs = 3 then .next (s.fault 0x0C27 0)
      else if t < 4 then
        .next (((s.keyWrite (0x10 + 128 * t + 8) l).keyWrite (0x10 + 128 * t) [1]).logRec 9 2 t s.lcs)
      else if t = 4 then .next (((s.keyWrite 0x210 (l.take 32)).keyWrite 0x230 [1]).logRec 9 2 0 s.lcs)
      else if 0x80 ≤ t && t < 0x84 then .next ((s.keyWrite (0x10 + 128 * (t - 0x80)) [2]).logRec 9 2 (t - 0x80) s.lcs)
      else .next s

/-- BYPASS. -/
def execBypass (tdi : Bool) (s : State) : Out :=
  if s.powered then .next ((s.jtagRelease.jtagIr 0xFF).jtagBypass tdi.toNat) else .next s

end Sys2Proof.Machine
end

