-- ==== Sys2Proof/Machine/Flags.lean ====
section
/-! DEFINITION. Machine/Flags.lean: FSTAT and the saturating forms (R90, R107, R110). -/
namespace Sys2Proof.Machine

/-- Sets the sticky bits of CSR FSTAT. -/
def Ctx.flags (c : Ctx) (f : FFlags) : Ctx := { c with fstat := c.fstat ||| BitVec.ofNat 32 f.toNat }

/-- sat32, sat16 and sat72; a clamp that changes a value is QSAT (R110). -/
def satTo (w : Nat) (z : Int) : Int := clampInt (-(2 ^ (w - 1))) (2 ^ (w - 1) - 1) z
def satFlag (w : Nat) (z : Int) : FFlags := { qsat := satTo w z != z }

/-- A g register takes sat32 of a value. -/
def Ctx.setGSat (c : Ctx) (gd : BitVec 5) (z : Int) : Ctx :=
  (c.setG gd (BitVec.ofInt 32 (satTo 32 z))).flags (satFlag 32 z)

/-- An accumulator takes sat72 of a value. -/
def Ctx.setASat (c : Ctx) (a : BitVec 5) (z : Int) : Ctx :=
  (c.setA a (BitVec.ofInt 72 (satTo 72 z))).flags (satFlag 72 z)

/-- A float register takes a result with its flags. -/
def Ctx.setFR (c : Ctx) (fd : BitVec 5) (r : FRes) : Ctx := (c.setF fd r.1).flags r.2

/-- Signed halves of a word. -/
def hiHalf (w : Word) : Int := (w.extractLsb' 16 16).toInt
def loHalf (w : Word) : Int := (w.extractLsb' 0 16).toInt

/-- Two halves, each saturated to 16 bits. -/
def Ctx.setHalves (c : Ctx) (gd : BitVec 5) (h l : Int) : Ctx :=
  let w : Word := (BitVec.ofInt 16 (satTo 16 h)) ++ (BitVec.ofInt 16 (satTo 16 l))
  (c.setG gd w).flags ((satFlag 16 h).or (satFlag 16 l))

end Sys2Proof.Machine
end

