-- ==== Sys2Proof/Machine/OnnusFloat.lean ====
section
/-! DEFINITION. Machine/OnnusFloat.lean: binary32 and drive instructions, and PISTEP (R107, R108, R112 to R117). -/
namespace Sys2Proof.Machine

/-- A binary32 instruction of two sources. -/
def floatA (func cyc : Nat) (f : Word → Word → FRes) (p : PairNo) (gd gs1 gs2 : BitVec 5) (s : State) : Out :=
  runReg p (encA 5 gd gs1 gs2 func) (fOk gd && fOk gs1 && fOk gs2) false cyc
    (fun c => c.setFR gd (f (c.fr gs1) (c.fr gs2))) s

/-- A binary32 instruction of one source; gs2 is unused. -/
def floatU (func cyc : Nat) (f : Word → FRes) (p : PairNo) (gd gs1 gs2 : BitVec 5) (s : State) : Out :=
  runReg p (encA 5 gd gs1 gs2 func) (fOk gd && fOk gs1 && gs2 == 0) false cyc (fun c => c.setFR gd (f (c.fr gs1))) s

def execFadd := floatA 0x000 1 fadd
def execFsub := floatA 0x001 1 fsub
def execFmul := floatA 0x002 1 fmul
def execFdiv := floatA 0x003 12 fdiv
def execFsqrt := floatU 0x004 12 fsqrt

/-- fma of ±fs1, fs2, fd; under Onnus 1 the product is rounded, then the sum (R132). -/
def fmaI (func : Nat) (neg : Bool) (p : PairNo) (gd gs1 gs2 : BitVec 5) (s : State) : Out :=
  runI p (encA 5 gd gs1 gs2 func) (fOk gd && fOk gs1 && fOk gs2) false (fun s key c =>
    let x := if neg then fneg (c.fr gs1) else c.fr gs1
    let r : FRes := if s.onnus1 key then
        let m := fmul x (c.fr gs2)
        let a := fadd m.1 (c.fr gd)
        (a.1, m.2.or a.2)
      else ffma x (c.fr gs2) (c.fr gd)
    .ok s (c.setFR gd r) 1 .seq) s
def execFma := fmaI 0x005 false
def execFnms := fmaI 0x006 true
def execFmin := floatA 0x007 1 fmin
def execFmax := floatA 0x008 1 fmax
def execFabs := floatU 0x009 1 (fun x => (fabs x, fNone))
def execFneg := floatU 0x00A 1 (fun x => (fneg x, fNone))
/-- fs1 clamped to ±abs fs2; NV on a signalling NaN only. -/
def fsat (x y : Word) : FRes :=
  if fIsNan x || fIsNan y then (fqnan, { nv := fIsSNan x || fIsSNan y })
  else
    let m := fabs y
    ((fmin (fmax x (fneg m)).1 m).1, fNone)
def execFsat (p : PairNo) (gd gs1 gs2 : BitVec 5) (s : State) : Out :=
  runReg p (encA 5 gd gs1 gs2 0x00B) (fOk gd && fOk gs1 && fOk gs2) true 1
    (fun c => c.setFR gd (fsat (c.fr gs1) (c.fr gs2))) s

/-! ### Conversions, moves and comparisons -/
/-- A g register from a float register; gs2 is unused. -/
def cvtGF (func : Nat) (f : Word → Word × FFlags) (p : PairNo) (gd gs1 gs2 : BitVec 5) (s : State) : Out :=
  runReg p (encA 6 gd gs1 gs2 func) (fOk gs1 && gs2 == 0) false 1
    (fun c => (c.setG gd (f (c.fr gs1)).1).flags (f (c.fr gs1)).2) s
/-- A float register from a g register; gs2 is unused. -/
def cvtFG (func : Nat) (f : Word → FRes) (p : PairNo) (gd gs1 gs2 : BitVec 5) (s : State) : Out :=
  runReg p (encA 6 gd gs1 gs2 func) (fOk gd && gs2 == 0) false 1 (fun c => c.setFR gd (f (c.gr gs1))) s

/-- To a signed integer, nearest even, saturating; NaN gives 0 (NV on NaN and out of range). -/
def fcvtWS (x : Word) : Word × FFlags :=
  match f32.val x.toNat, f32.toIntN x.toNat 0 with
  | .inf s, _ => (if s then 0x80000000#32 else 0x7FFFFFFF#32, fNV)
  | _, some (z, nx) =>
    if satTo 32 z ≠ z then (BitVec.ofInt 32 (satTo 32 z), fNV) else (BitVec.ofInt 32 z, { nx := nx })
  | _, none => (0, fNV)
/-- To Q31; QSAT when the clamp acts, NX when rounding changes the value and it does not. -/
def fcvtQS (x : Word) : Word × FFlags :=
  match f32.val x.toNat, f32.toIntN x.toNat 31 with
  | .inf s, _ => (if s then 0x80000000#32 else 0x7FFFFFFF#32, fQSAT)
  | _, some (z, nx) =>
    if satTo 32 z ≠ z then (BitVec.ofInt 32 (satTo 32 z), fQSAT) else (BitVec.ofInt 32 z, { nx := nx })
  | _, none => (0, fNV)

def execFcvtSW := cvtFG 0x000 (fun w => w32 (f32.ofInt w.toInt 0))
def execFcvtWS := cvtGF 0x001 fcvtWS
def execFcvtSQ := cvtFG 0x002 (fun w => w32 (f32.ofInt w.toInt (-31)))
def execFcvtQS := cvtGF 0x003 fcvtQS
def execFmvGF := cvtGF 0x004 (fun w => (w, fNone))
def execFmvFG := cvtFG 0x005 (fun w => (w, fNone))

/-- A comparison; `quiet` comparisons set NV on a signalling NaN only. -/
def cmpF (func : Nat) (quiet : Bool) (f : Word → Word → Bool) (p : PairNo) (gd gs1 gs2 : BitVec 5) (s : State) : Out :=
  runReg p (encA 6 gd gs1 gs2 func) (fOk gs1 && fOk gs2) false 1 (fun c =>
    let x := c.fr gs1
    let y := c.fr gs2
    (c.setG gd (if f x y then 1 else 0)).flags
      { nv := if quiet then fIsSNan x || fIsSNan y else fIsNan x || fIsNan y }) s
def execFeq := cmpF 0x006 true feq
def execFlt := cmpF 0x007 false flt
def execFle := cmpF 0x008 false fle

/-! ### Drive operations (R112 to R116) -/
/-- The next register of a float pair. -/
def nextReg (r : BitVec 5) : BitVec 5 := r + 1

def Ctx.setFPair (c : Ctx) (fd : BitVec 5) (a b : FRes) : Ctx := ((c.setF fd a.1).setF (nextReg fd) b.1).flags (a.2.or b.2)

def clarkeK : Word := 0x3F13CD3A#32

def execClarke (p : PairNo) (gd gs1 gs2 : BitVec 5) (s : State) : Out :=
  runReg p (encA 7 gd gs1 gs2 0x000) (fOk gd && evenOk gd && fOk gs1 && fOk gs2) false 2 (fun c =>
    let a := c.fr gs1
    let b := c.fr gs2
    let t := fadd a b
    let u := fadd t.1 b
    let r := fmul u.1 clarkeK
    c.setFPair gd (a, fNone) (r.1, (t.2.or u.2).or r.2)) s

def execPark (p : PairNo) (gd gs1 gs2 : BitVec 5) (s : State) : Out :=
  runReg p (encA 7 gd gs1 gs2 0x001) (fOk gd && evenOk gd && fOk gs1 && evenOk gs1) false 3 (fun c =>
    let sc := sinCos (c.gr gs2)
    let x := c.fr gs1
    let y := c.fr (nextReg gs1)
    let m := fmul x sc.2.1
    let d := ffma y sc.1.1 m.1
    let n := fmul x sc.1.1
    let q := ffma y sc.2.1 (fneg n.1)
    (c.setFPair gd d q).flags ((m.2.or n.2).or (sc.1.2.or sc.2.2))) s

def execIpark (p : PairNo) (gd gs1 gs2 : BitVec 5) (s : State) : Out :=
  runReg p (encA 7 gd gs1 gs2 0x002) (fOk gd && evenOk gd && fOk gs1 && evenOk gs1) false 3 (fun c =>
    let sc := sinCos (c.gr gs2)
    let d := c.fr gs1
    let q := c.fr (nextReg gs1)
    let m := fmul d sc.2.1
    let a := ffma (fneg q) sc.1.1 m.1
    let n := fmul d sc.1.1
    let b := ffma q sc.2.1 n.1
    (c.setFPair gd a b).flags ((m.2.or n.2).or (sc.1.2.or sc.2.2))) s

def execSincos (p : PairNo) (gd gs1 gs2 : BitVec 5) (s : State) : Out :=
  runReg p (encA 7 gd gs1 gs2 0x003) (fOk gd && evenOk gd && gs2 == 0) false 2 (fun c =>
    let sc := sinCos (c.gr gs1)
    c.setFPair gd sc.1 sc.2) s

def execAtan2 (p : PairNo) (gd gs1 gs2 : BitVec 5) (s : State) : Out :=
  runReg p (encA 7 gd gs1 gs2 0x004) (fOk gs1 && fOk gs2) false 8 (fun c =>
    let r := atan2 (c.fr gs1) (c.fr gs2)
    (c.setG gd r.1).flags r.2) s

/-- BIQ (R115): one biquad step on a DMEM block. -/
def execBiq (p : PairNo) (gd gs1 gs2 : BitVec 5) (s : State) : Out :=
  runI p (encA 7 gd gs1 gs2 0x005) (fOk gd && fOk gs1) false (fun s _ c =>
    let a := (c.gr gs2).toNat
    if a % 4 ≠ 0 then .trap s tALIGN 0 (c.gr gs2)
    else if a + 28 > 0x1E800 then .trap s tMEM 0 (c.gr gs2)
    else match s.memRead p true a 28 with
    | none => .ue
    | some s =>
      let r := s.pair p
      let w (i : Nat) : Word := BitVec.ofNat 32 (cellWord r.dmem (a + 4 * i) 4)
      let x := c.fr gs1
      let y := ffma (w 0) x (w 5)
      let t1 := ffma (w 1) x (w 6)
      let n1 := ffma (fneg (w 3)) y.1 t1.1
      let t2 := fmul (w 2) x
      let n2 := ffma (fneg (w 4)) y.1 t2.1
      let s := s.setPair p { r with dmem := memPut r.dmem (a + 20) (leBytes 4 n1.1.toNat ++ leBytes 4 n2.1.toNat) }
      .ok s ((c.setF gd y.1).flags ((y.2.or (t1.2.or n1.2)).or (t2.2.or n2.2))) 6 .seq) s

/-- r is NaN or negative: NV and no change (R116). A negative zero is not negative. -/
def limBad (r : Word) : Bool := fIsNan r || flt r 0

def execLim2 (p : PairNo) (gd gs1 gs2 : BitVec 5) (s : State) : Out :=
  runReg p (encA 7 gd gs1 gs2 0x006) (fOk gd && evenOk gd && fOk gs1 && gs2 == 0) true 6 (fun c =>
    let r := c.fr gs1
    let x := c.fr gd
    let y := c.fr (nextReg gd)
    if limBad r then c.flags fNV
    else
      let xx := fmul x x
      let m := ffma y y xx.1
      let rr := fmul r r
      -- the comparison sets NV on a NaN, as FLT does
      let fl := ((xx.2.or m.2).or rr.2).or { nv := fIsNan m.1 || fIsNan rr.1 }
      if flt rr.1 m.1 then
        let q := fsqrt m.1
        let h := fdiv r q.1
        let a := fmul x h.1
        let b := fmul y h.1
        (c.setFPair gd a b).flags (fl.or (q.2.or h.2))
      else c.flags fl) s

def execLim2d (p : PairNo) (gd gs1 gs2 : BitVec 5) (s : State) : Out :=
  runReg p (encA 7 gd gs1 gs2 0x007) (fOk gd && evenOk gd && fOk gs1 && gs2 == 0) true 6 (fun c =>
    let r := c.fr gs1
    if limBad r then c.flags fNV
    else
      let x0 := fmax (c.fr gd) (fneg r)
      let x := fmin x0.1 r
      let rr := fmul r r
      let d := ffma (fneg x.1) x.1 rr.1
      let z := fmax d.1 0
      let w := fsqrt z.1
      let y0 := fmax (c.fr (nextReg gd)) (fneg w.1)
      let y := fmin y0.1 w.1
      (c.setFPair gd x y).flags ((x0.2.or rr.2).or ((d.2.or z.2).or (w.2.or y0.2)))) s

/-! ### PISTEP (R83, R117) -/
/-- One step of a loop (R83): the loop, its result and the flags. -/
def LoopRec.piStep (l : LoopRec) (e : Word) : LoopRec × FRes :=
  let b := l.bank l.actB
  let ki := fmul b[1] e
  let it := fadd l.i ki.1
  let kp := fmul b[0] e
  let ut := fadd kp.1 it.1
  let hold := (flt b[3] ut.1 && flt 0 ki.1) || (flt ut.1 b[2] && flt ki.1 0)
  let c1 := fmax it.1 b[4]
  let c2 := fmin c1.1 b[5]
  let i := if hold then l.i else c2.1
  let u := fadd kp.1 i
  let o1 := fmax u.1 b[2]
  let o := fmin o1.1 b[3]
  let l := ((l.setCtrl 14 (!feq i it.1)).setCtrl 13 (!feq o.1 u.1))
  let fl := (ki.2.or it.2).or ((kp.2.or ut.2).or ((if hold then fNone else c1.2.or c2.2).or (u.2.or (o1.2.or o.2))))
  ({ l with i := i, e := e, out := o.1 }, (o.1, fl))

/-- May the task on home pair h step a loop of this owner (R83)? -/
def State.loopAllowed (s : State) (home owner : Nat) : Bool :=
  if owner < 32 then s.ownsCrew home owner else owner == 0x20 + home

/-- A PI step on loop id `id` with the error in fs1 and the result to fd, in 4–42 cycles (R117). -/
def piInstr (id : Nat) (gd gs1 : BitVec 5) (s : State) (key : Nat) (c : Ctx) : IRes :=
  let l := s.loop id
  if !s.loopAllowed (key / 16) l.owner then .trap s tLOOP 0 (BitVec.ofNat 32 id)
  else
    let (cyc, s) := s.freeIn 4 42
    let e := c.fr gs1
    if !fIsFinite e then .ok s ((c.setF gd l.out).flags fNV) cyc .seq
    else
      let (l', r) := l.piStep e
      .ok (s.setLoop id l') (c.setFR gd r) cyc .seq

/-- PISTEP: the loop id is imm[9:0]; imm[14:10] is unused. -/
def execPistep (p : PairNo) (gd gs1 : BitVec 5) (imm : BitVec 15) (s : State) : Out :=
  runI p (encB 0x34 gd gs1 imm) (fOk gd && fOk gs1 && decide (imm.toNat < 1024)) false
    (piInstr (imm.toNat % 1024) gd gs1) s

/-- PISTEPR: the loop id is gs2[9:0]. -/
def execPistepr (p : PairNo) (gd gs1 gs2 : BitVec 5) (s : State) : Out :=
  runI p (encA 8 gd gs1 gs2 0x009) (fOk gd && fOk gs1) true
    (fun s key c => piInstr ((c.gr gs2).toNat % 1024) gd gs1 s key c) s

end Sys2Proof.Machine
end

