-- ==== Sys2Proof/Machine/OnnusMem.lean ====
section
/-! DEFINITION. Machine/OnnusMem.lean: Onnus loads, stores and atomics (R101, R118, R119). -/
namespace Sys2Proof.Machine

/-- Where an engine address leads (R101). -/
inductive MemTgt where
  | dmem | sram | bad
  deriving DecidableEq, Repr

/-- The target of an access of n bytes. -/
def State.memTarget (s : State) (a n : Nat) : MemTgt :=
  if a + n ≤ 0x1E800 then .dmem
  else if rangeInSram a n && s.seAreas.all (fun x => !rangesOverlap a n x.1 x.2) then .sram
  else .bad

/-- A store would write into a DMA buffer of another owner (R37). -/
def State.dmaForeign (s : State) (owner a n : Nat) : Bool := s.dmaOverlap a n (fun h => h != owner)

/-- Bytes of a pair's own DMEM. -/
def State.dmemSet (s : State) (p a : Nat) (l : List Byte) : State :=
  s.setPair p { s.pair p with dmem := memPut (s.pair p).dmem a l }

/-- A load of n bytes into a register, as `set` says. -/
def loadI (p : PairNo) (n : Nat) (base : Word) (imm : BitVec 15) (set : Ctx → Nat → Ctx) (s : State) (c : Ctx) : IRes :=
  let ea := base + sext15 imm
  let a := ea.toNat
  if a % n ≠ 0 then .trap s tALIGN 0 ea
  else match s.memTarget a n with
    | .bad => .trap s tMEM 0 ea
    | .dmem => match s.memRead p true a n with
      | some s => .ok s (set c (cellWord (s.pair p).dmem a n)) 1 .seq
      | none => .ue
    | .sram =>
      let s := s.drainTo p (fun e => e.touches a n)
      let (v, s) := s.sramLoad a n
      let (cyc, s) := s.freeIn 20 60
      match v with
      | some v => .ok s (set c v) cyc .seq
      | none => .trap s 0x0106 0 ea

/-- A store of n bytes. -/
def storeI (p : PairNo) (n : Nat) (base : Word) (imm : BitVec 15) (val : Word) (s : State) (key : Nat) (c : Ctx) : IRes :=
  let ea := base + sext15 imm
  let a := ea.toNat
  if a % n ≠ 0 then .trap s tALIGN 0 ea
  else match s.memTarget a n with
    | .bad => .trap s tMEM 0 ea
    | .dmem => match s.memStore p true a n with
      | some s => .ok (s.dmemSet p a (leBytes n val.toNat)) c 1 .seq
      | none => .ue
    | .sram =>
      if s.dmaForeign (s.ownerCode key) a n then .trap s tMEM 0 ea
      else .ok (s.post p (.store a n val)) c 1 .seq

/-- LDW to LDBU and FLW. -/
def loadOp (op n : Nat) (ok : Bool) (set : Ctx → Nat → Ctx) (p : PairNo) (gd gs1 : BitVec 5) (imm : BitVec 15) (s : State) : Out :=
  runI p (encB op gd gs1 imm) ok false (fun s _ c => loadI p n (c.gr gs1) imm set s c) s

/-- STW to STB and FSW. -/
def storeOp (op n : Nat) (ok : Bool) (val : Ctx → Word) (p : PairNo) (gd gs1 : BitVec 5) (imm : BitVec 15) (s : State) : Out :=
  runI p (encB op gd gs1 imm) ok false (fun s key c => storeI p n (c.gr gs1) imm (val c) s key c) s

def execLdw (p : PairNo) (gd gs1 : BitVec 5) (imm : BitVec 15) (s : State) : Out :=
  loadOp 0x20 4 true (fun c v => c.setG gd (BitVec.ofNat 32 v)) p gd gs1 imm s
def execLdh (p : PairNo) (gd gs1 : BitVec 5) (imm : BitVec 15) (s : State) : Out :=
  loadOp 0x21 2 true (fun c v => c.setG gd ((BitVec.ofNat 16 v).signExtend 32)) p gd gs1 imm s
def execLdhu (p : PairNo) (gd gs1 : BitVec 5) (imm : BitVec 15) (s : State) : Out :=
  loadOp 0x22 2 true (fun c v => c.setG gd (BitVec.ofNat 32 v)) p gd gs1 imm s
def execLdb (p : PairNo) (gd gs1 : BitVec 5) (imm : BitVec 15) (s : State) : Out :=
  loadOp 0x23 1 true (fun c v => c.setG gd ((BitVec.ofNat 8 v).signExtend 32)) p gd gs1 imm s
def execLdbu (p : PairNo) (gd gs1 : BitVec 5) (imm : BitVec 15) (s : State) : Out :=
  loadOp 0x24 1 true (fun c v => c.setG gd (BitVec.ofNat 32 v)) p gd gs1 imm s
def execFlw (p : PairNo) (gd gs1 : BitVec 5) (imm : BitVec 15) (s : State) : Out :=
  loadOp 0x25 4 (fOk gd) (fun c v => c.setF gd (BitVec.ofNat 32 v)) p gd gs1 imm s
def execStw (p : PairNo) (gd gs1 : BitVec 5) (imm : BitVec 15) (s : State) : Out :=
  storeOp 0x28 4 true (fun c => c.gr gd) p gd gs1 imm s
def execSth (p : PairNo) (gd gs1 : BitVec 5) (imm : BitVec 15) (s : State) : Out :=
  storeOp 0x29 2 true (fun c => c.gr gd) p gd gs1 imm s
def execStb (p : PairNo) (gd gs1 : BitVec 5) (imm : BitVec 15) (s : State) : Out :=
  storeOp 0x2A 1 true (fun c => c.gr gd) p gd gs1 imm s
def execFsw (p : PairNo) (gd gs1 : BitVec 5) (imm : BitVec 15) (s : State) : Out :=
  storeOp 0x2B 4 (fOk gd) (fun c => c.fr gd) p gd gs1 imm s

/-- SWAPW and CASW (R119): `new` is the word to store for an old one, or none. A word of shared SRAM is taken once everything
the queue holds has drained, so that the task's accesses take effect in program order (R103). -/
def atomicI (p : PairNo) (gd gs1 : BitVec 5) (new : Ctx → Word → Option Word) (s : State) (key : Nat) (c : Ctx) : IRes :=
  let ea := c.gr gs1
  let a := ea.toNat
  if a % 4 ≠ 0 then .trap s tALIGN 0 ea
  else match s.memTarget a 4 with
    | .bad => .trap s tMEM 0 ea
    | .dmem => match s.memRead p true a 4 with
      | none => .ue
      | some s =>
        let old := BitVec.ofNat 32 (cellWord (s.pair p).dmem a 4)
        let s := match new c old with
          | some v => s.dmemSet p a (leBytes 4 v.toNat)
          | none => s
        .ok s (c.setG gd old) 1 .seq
    | .sram =>
      if s.dmaForeign (s.ownerCode key) a 4 then .trap s tMEM 0 ea
      else
        let s := s.drainN p (s.pair p).queue.length
        let (v, s) := s.sramLoad a 4
        let (cyc, s) := s.freeIn 20 60
        match v with
        | none => .trap s 0x0106 0 ea
        | some v =>
          let old := BitVec.ofNat 32 v
          let s := match new c old with
            | some v => s.wrN a 4 v.toNat
            | none => s
          .ok s (c.setG gd old) cyc .seq

def execSwapw (p : PairNo) (gd gs1 gs2 : BitVec 5) (s : State) : Out :=
  runI p (encA 8 gd gs1 gs2 0) true false (atomicI p gd gs1 (fun c _ => some (c.gr gs2))) s
def execCasw (p : PairNo) (gd gs1 gs2 : BitVec 5) (s : State) : Out :=
  runI p (encA 8 gd gs1 gs2 1) true true (atomicI p gd gs1 (fun c old => if old = c.gr gd then some (c.gr gs2) else none)) s

end Sys2Proof.Machine
end

