-- ==== Sys2Proof/Machine/OnnusFlow.lean ====
section
/-! DEFINITION. Machine/OnnusFlow.lean: Onnus branches, jumps and zero-overhead loops (R120 to R122). -/
namespace Sys2Proof.Machine

/-- A jump to t: within 0x0000 to 0xFFFC, or TRAP_MEM at the jump. -/
def jumpI (t : Int) (s : State) (c : Ctx) : IRes :=
  if 0 ≤ t && t ≤ 0xFFFC then .ok s c 2 (.jump (BitVec.ofInt 16 t)) else .trap s tMEM 0 (BitVec.ofInt 32 t)

/-- PC + 4 × off. -/
def relTarget (c : Ctx) (off : Int) : Int := (c.pc.toNat : Int) + 4 * off

/-- A branch on a condition of gs1 and gs2 (R120). -/
def branch (op : Nat) (f : Word → Word → Bool) (p : PairNo) (gs1 gs2 : BitVec 5) (off : BitVec 15) (s : State) : Out :=
  runI p (encB op gs1 gs2 off) true false (fun s _ c =>
    if f (c.gr gs1) (c.gr gs2) then jumpI (relTarget c off.toInt) s c else .ok s c 1 .seq) s

def execBeq (p : PairNo) (gs1 gs2 : BitVec 5) (off : BitVec 15) (s : State) : Out :=
  branch 0x50 (fun a b => a == b) p gs1 gs2 off s
def execBne (p : PairNo) (gs1 gs2 : BitVec 5) (off : BitVec 15) (s : State) : Out :=
  branch 0x51 (fun a b => a != b) p gs1 gs2 off s
def execBlt (p : PairNo) (gs1 gs2 : BitVec 5) (off : BitVec 15) (s : State) : Out :=
  branch 0x52 (fun a b => a.slt b) p gs1 gs2 off s
def execBge (p : PairNo) (gs1 gs2 : BitVec 5) (off : BitVec 15) (s : State) : Out :=
  branch 0x53 (fun a b => !a.slt b) p gs1 gs2 off s
def execBltu (p : PairNo) (gs1 gs2 : BitVec 5) (off : BitVec 15) (s : State) : Out :=
  branch 0x54 (fun a b => a.ult b) p gs1 gs2 off s
def execBgeu (p : PairNo) (gs1 gs2 : BitVec 5) (off : BitVec 15) (s : State) : Out :=
  branch 0x55 (fun a b => !a.ult b) p gs1 gs2 off s

/-- The address of the next word. -/
def Ctx.link (c : Ctx) : Word := (c.pc + 4).setWidth 32

/-- JAL (R121). -/
def execJal (p : PairNo) (gd : BitVec 5) (imm : BitVec 20) (s : State) : Out :=
  runI p (encC 0x41 gd imm) true false (fun s _ c => jumpI (relTarget c imm.toInt) s (c.setG gd c.link)) s

/-- JALR (R121): the source is read before gd is written. -/
def execJalr (p : PairNo) (gd gs1 : BitVec 5) (imm : BitVec 15) (s : State) : Out :=
  runI p (encB 0x30 gd gs1 imm) true false (fun s _ c =>
    let t := c.gr gs1 + sext15 imm
    if t.toNat % 4 ≠ 0 then .trap s tALIGN 0 t else jumpI t.toNat s (c.setG gd c.link)) s

/-- LOOP and LOOPI with a count and a body of n instructions (R122, R132). -/
def loopI (word : Word) (count : Word) (n : Nat) (s : State) (key : Nat) (c : Ctx) : IRes :=
  if c.lcnt ≠ 0 then .trap s tILLEGAL 0 word
  else
    let count := if count = 0 && s.onnus1 key then 1 else count
    if count = 0 then .ok s c 1 (.set (c.pc + BitVec.ofNat 16 (4 * (n + 1))))
    else .ok s { c with lcnt := count, lbeg := c.pc + 4, lend := c.pc + BitVec.ofNat 16 (4 * n) } 1 (.set (c.pc + 4))

def execLoop (p : PairNo) (gd gs1 : BitVec 5) (imm : BitVec 15) (s : State) : Out :=
  let w := encB 0x31 gd gs1 imm
  runI p w (gd = 0 && 1 ≤ imm.toNat && imm.toNat < 4096) false (fun s key c => loopI w (c.gr gs1) imm.toNat s key c) s

def execLoopi (p : PairNo) (gd : BitVec 5) (imm : BitVec 20) (s : State) : Out :=
  let w := encC 0x42 gd imm
  runI p w (gd = 0 && bitsOf imm.toNat 7 0 ≠ 0) true
    (loopI w (BitVec.ofNat 32 (bitsOf imm.toNat 19 8)) (bitsOf imm.toNat 7 0)) s

end Sys2Proof.Machine
end

