-- ==== Sys2Proof/Machine/OnnusInt.lean ====
section
/-! DEFINITION. Machine/OnnusInt.lean: integer, multiply, divide, fixed-point and accumulator instructions (R109 to R111). -/
namespace Sys2Proof.Machine

/-- An integer instruction of format A on two g registers. -/
def intA (op func cyc : Nat) (g2 : Bool) (f : Word → Word → Word) (p : PairNo) (gd gs1 gs2 : BitVec 5) (s : State) : Out :=
  runReg p (encA op gd gs1 gs2 func) (g2 || gs2 == 0) false cyc (fun c => c.setG gd (f (c.gr gs1) (c.gr gs2))) s

/-- An immediate instruction of format B. -/
def intB (op : Nat) (ok : Bool) (f : Word → Word) (p : PairNo) (gd gs1 : BitVec 5) (imm : BitVec 15) (s : State) : Out :=
  runReg p (encB op gd gs1 imm) ok false 1 (fun c => c.setG gd (f (c.gr gs1))) s

def b01 (b : Bool) : Word := if b then 1 else 0
def clz32 (w : Word) : Nat := 32 - bitLen w.toNat

def divS (a b : Word) : Word :=
  if b = 0 then 0xFFFFFFFF#32 else if a = 0x80000000#32 && b = 0xFFFFFFFF#32 then 0x80000000#32 else a.sdiv b
def divU (a b : Word) : Word := if b = 0 then 0xFFFFFFFF#32 else a / b
def remS (a b : Word) : Word :=
  if b = 0 then a else if a = 0x80000000#32 && b = 0xFFFFFFFF#32 then 0 else a.srem b
def remU (a b : Word) : Word := if b = 0 then a else a % b

def execAdd := intA 1 0x000 1 true (· + ·)
def execSub := intA 1 0x001 1 true (· - ·)
def execAnd := intA 1 0x002 1 true (· &&& ·)
def execOr := intA 1 0x003 1 true (· ||| ·)
def execXor := intA 1 0x004 1 true (· ^^^ ·)
def execSll := intA 1 0x005 1 true (fun a b => a <<< (b.toNat % 32))
def execSrl := intA 1 0x006 1 true (fun a b => a >>> (b.toNat % 32))
def execSra := intA 1 0x007 1 true (fun a b => a.sshiftRight (b.toNat % 32))
def execSlt := intA 1 0x008 1 true (fun a b => b01 (a.slt b))
def execSltu := intA 1 0x009 1 true (fun a b => b01 (a.ult b))
def execMin := intA 1 0x00A 1 true (fun a b => if b.slt a then b else a)
def execMax := intA 1 0x00B 1 true (fun a b => if a.slt b then b else a)
def execMinu := intA 1 0x00C 1 true (fun a b => if b.ult a then b else a)
def execMaxu := intA 1 0x00D 1 true (fun a b => if a.ult b then b else a)
def execClz := intA 1 0x00E 1 false (fun a _ => BitVec.ofNat 32 (clz32 a))
def execMul := intA 2 0x000 1 true (· * ·)
def execMulh := intA 2 0x001 1 true (fun a b => BitVec.ofInt 32 (a.toInt * b.toInt / 2 ^ 32))
def execMulhu := intA 2 0x002 1 true (fun a b => BitVec.ofNat 32 (a.toNat * b.toNat / 2 ^ 32))
def execDiv := intA 2 0x003 12 true divS
def execDivu := intA 2 0x004 12 true divU
def execRem := intA 2 0x005 12 true remS
def execRemu := intA 2 0x006 12 true remU

def execAddi (p : PairNo) (gd gs1 : BitVec 5) (imm : BitVec 15) (s : State) : Out :=
  intB 0x10 true (· + sext15 imm) p gd gs1 imm s
def execAndi (p : PairNo) (gd gs1 : BitVec 5) (imm : BitVec 15) (s : State) : Out :=
  intB 0x11 true (· &&& zext15 imm) p gd gs1 imm s
def execOri (p : PairNo) (gd gs1 : BitVec 5) (imm : BitVec 15) (s : State) : Out :=
  intB 0x12 true (· ||| zext15 imm) p gd gs1 imm s
def execXori (p : PairNo) (gd gs1 : BitVec 5) (imm : BitVec 15) (s : State) : Out :=
  intB 0x13 true (· ^^^ zext15 imm) p gd gs1 imm s
def execSlti (p : PairNo) (gd gs1 : BitVec 5) (imm : BitVec 15) (s : State) : Out :=
  intB 0x14 true (fun a => b01 (a.slt (sext15 imm))) p gd gs1 imm s
def execSltiu (p : PairNo) (gd gs1 : BitVec 5) (imm : BitVec 15) (s : State) : Out :=
  intB 0x15 true (fun a => b01 (a.ult (sext15 imm))) p gd gs1 imm s
/-- imm[14:5] is unused in the shifts. -/
def shOk (imm : BitVec 15) : Bool := imm.toNat < 32
def execSlli (p : PairNo) (gd gs1 : BitVec 5) (imm : BitVec 15) (s : State) : Out :=
  intB 0x16 (shOk imm) (· <<< (imm.toNat % 32)) p gd gs1 imm s
def execSrli (p : PairNo) (gd gs1 : BitVec 5) (imm : BitVec 15) (s : State) : Out :=
  intB 0x17 (shOk imm) (· >>> (imm.toNat % 32)) p gd gs1 imm s
def execSrai (p : PairNo) (gd gs1 : BitVec 5) (imm : BitVec 15) (s : State) : Out :=
  intB 0x18 (shOk imm) (fun a => a.sshiftRight (imm.toNat % 32)) p gd gs1 imm s
def execLui (p : PairNo) (gd : BitVec 5) (imm : BitVec 20) (s : State) : Out :=
  runReg p (encC 0x40 gd imm) true false 1 (fun c => c.setG gd (imm ++ 0#12)) s

/-! ### Saturating fixed point (R110) -/
/-- A saturating instruction on two g registers. -/
def fixA (func : Nat) (g2 : Bool) (f : Int → Int → Int) (p : PairNo) (gd gs1 gs2 : BitVec 5) (s : State) : Out :=
  runReg p (encA 3 gd gs1 gs2 func) (g2 || gs2 == 0) false 1
    (fun c => c.setGSat gd (f (c.gr gs1).toInt (c.gr gs2).toInt)) s

/-- A saturating instruction on the halves of two g registers. -/
def fixH (func : Nat) (f : Int → Int → Int) (p : PairNo) (gd gs1 gs2 : BitVec 5) (s : State) : Out :=
  runReg p (encA 3 gd gs1 gs2 func) true false 1 (fun c =>
    c.setHalves gd (f (hiHalf (c.gr gs1)) (hiHalf (c.gr gs2))) (f (loHalf (c.gr gs1)) (loHalf (c.gr gs2)))) s

def execQadd := fixA 0x000 true (· + ·)
def execQsub := fixA 0x001 true (· - ·)
/-- QMUL adds 2^30 before the shift; an Onnus 1 image truncates (R132). -/
def execQmul (p : PairNo) (gd gs1 gs2 : BitVec 5) (s : State) : Out :=
  runI p (encA 3 gd gs1 gs2 0x002) true false (fun s key c =>
    let r : Int := if s.onnus1 key then 0 else 2 ^ 30
    .ok s (c.setGSat gd (((c.gr gs1).toInt * (c.gr gs2).toInt + r) / 2 ^ 31)) 1 .seq) s
def execQneg := fixA 0x003 false (fun a _ => -a)
def execQabs := fixA 0x004 false (fun a _ => a.natAbs)
def execQshl := fixA 0x005 true (fun a b => a * 2 ^ (b % 32).toNat)
def execQshr := fixA 0x006 true (fun a b =>
  let n := (b % 32).toNat
  if n = 0 then a else (a + 2 ^ (n - 1)) / 2 ^ n)
def execQadd2 := fixH 0x010 (· + ·)
def execQsub2 := fixH 0x011 (· - ·)
def execQmul2 (p : PairNo) (gd gs1 gs2 : BitVec 5) (s : State) : Out :=
  runI p (encA 3 gd gs1 gs2 0x012) true false (fun s key c =>
    let r : Int := if s.onnus1 key then 0 else 2 ^ 14
    .ok s (c.setHalves gd ((hiHalf (c.gr gs1) * hiHalf (c.gr gs2) + r) / 2 ^ 15)
      ((loHalf (c.gr gs1) * loHalf (c.gr gs2) + r) / 2 ^ 15)) 1 .seq) s
def execQpack (p : PairNo) (gd gs1 gs2 : BitVec 5) (s : State) : Out :=
  runReg p (encA 3 gd gs1 gs2 0x013) true true 1
    (fun c => c.setHalves gd (((c.gr gs1).toInt + 2 ^ 15) / 2 ^ 16) (((c.gr gs2).toInt + 2 ^ 15) / 2 ^ 16)) s

/-! ### Accumulators (R110, R111) -/
/-- An accumulator instruction: the accumulator in gd from itself and two g registers, saturated. -/
def accA (func : Nat) (v2 : Bool) (f : Int → Word → Word → Int) (p : PairNo) (gd gs1 gs2 : BitVec 5) (s : State) : Out :=
  runReg p (encA 4 gd gs1 gs2 func) (aOk gd) v2 1
    (fun c => c.setASat gd (f (c.ar gd).toInt (c.gr gs1) (c.gr gs2))) s

def execMac := accA 0x000 false (fun a x y => a + x.toInt * y.toInt)
def execMsu := accA 0x001 false (fun a x y => a - x.toInt * y.toInt)
def execMacz := accA 0x002 false (fun _ x y => x.toInt * y.toInt)
def execMac2 := accA 0x003 true (fun a x y => a + hiHalf x * hiHalf y + loHalf x * loHalf y)
def execAclr (p : PairNo) (gd gs1 gs2 : BitVec 5) (s : State) : Out :=
  runReg p (encA 4 gd gs1 gs2 0x004) (aOk gd && gs1 == 0 && gs2 == 0) false 1 (fun c => c.setA gd 0) s
def execAwr (p : PairNo) (gd gs1 gs2 : BitVec 5) (s : State) : Out :=
  runReg p (encA 4 gd gs1 gs2 0x005) (aOk gd && gs2 == 0) false 1
    (fun c => c.setA gd (BitVec.ofInt 72 ((c.gr gs1).toInt * 2 ^ 31))) s
/-- ARD: shift k = imm[5:0]; imm[14:6] is unused. -/
def execArd (p : PairNo) (gd gs1 : BitVec 5) (imm : BitVec 15) (s : State) : Out :=
  runReg p (encB 0x37 gd gs1 imm) (aOk gs1 && decide (imm.toNat < 64)) false 1 (fun c =>
    let k := imm.toNat % 64
    let a := (c.ar gs1).toInt
    c.setGSat gd (if k = 0 then a else (a + 2 ^ (k - 1)) / 2 ^ k)) s

end Sys2Proof.Machine
end

