-- ==== Sys2Proof/Machine/OnnusPort.lean ====
section
/-! DEFINITION. Machine/OnnusPort.lean: Onnus port and signal-map access, claims (R123 to R127, R130). -/
namespace Sys2Proof.Machine

/-- A port read (R123): entries of the queue for the same register drain first (R103); TRAP_BUS where the block's domain is off. -/
def portReadI (p : PairNo) (gd : BitVec 5) (port : BitVec 16) (s : State) (key : Nat) (c : Ctx) : IRes :=
  let a := portTarget (key / 16) port
  let s := s.drainTo p (fun e => e.isPort a)
  if !s.windowOn (winOf a) then .trap s 0x0104 0 (port.setWidth 32)
  else
    let (v, s) := s.regRead a
    let (cyc, s) := s.freeIn 10 40
    .ok s (c.setG gd v) cyc .seq

/-- The checks of a port write, and then `f` with the target and the owner code (R68, R104). -/
def portWriteI (port : BitVec 16) (f : State → Nat → Nat → State × Nat) (s : State) (key : Nat) (c : Ctx) : IRes :=
  let home := key / 16
  let a := portTarget home port
  if !s.portWritable home a then .trap s tPORT 0 (port.setWidth 32)
  else if !s.windowOn (winOf a) then .trap s 0x0104 0 (port.setWidth 32)
  else
    let (s, cyc) := f s a (s.ownerCode key)
    .ok s c cyc .seq

/-- A posted write. -/
def postedI (p : PairNo) (v : Word) (s : State) (a o : Nat) : State × Nat := (s.post p (.port o a v), 1)

/-- A posted read-modify-write. -/
def postedSetI (p : PairNo) (mode : Nat) (v : Word) (s : State) (a o : Nat) : State × Nat := (s.post p (.pset o mode a v), 1)

/-- A write that completes once it has reached its block; what was posted before has drained by then (R103). -/
def writtenI (p : PairNo) (v : Word) (s : State) (a o : Nat) : State × Nat :=
  let s := (s.drainN p (s.pair p).queue.length).portWrite o a v
  let (cyc, s) := s.freeIn 10 40
  (s, cyc)

def execPin (p : PairNo) (g : BitVec 5) (port : BitVec 16) (s : State) : Out :=
  runI p (encE 0x60 g port 0) true false (portReadI p g port) s
def execPoutMode0 (p : PairNo) (g : BitVec 5) (port : BitVec 16) (s : State) : Out :=
  runI p (encE 0x61 g port 0) true false (fun s key c => portWriteI port (postedI p (c.gr g)) s key c) s
def execPoutMode1 (p : PairNo) (g : BitVec 5) (port : BitVec 16) (s : State) : Out :=
  runI p (encE 0x61 g port 1) true false (fun s key c => portWriteI port (writtenI p (c.gr g)) s key c) s
def execPsetOr (p : PairNo) (g : BitVec 5) (port : BitVec 16) (s : State) : Out :=
  runI p (encE 0x62 g port 0) true false (fun s key c => portWriteI port (postedSetI p 0 (c.gr g)) s key c) s
def execPsetAndnot (p : PairNo) (g : BitVec 5) (port : BitVec 16) (s : State) : Out :=
  runI p (encE 0x62 g port 1) true false (fun s key c => portWriteI port (postedSetI p 1 (c.gr g)) s key c) s
def execPsetXor (p : PairNo) (g : BitVec 5) (port : BitVec 16) (s : State) : Out :=
  runI p (encE 0x62 g port 2) true false (fun s key c => portWriteI port (postedSetI p 2 (c.gr g)) s key c) s

/-- PINR: the address is gs1[15:0]; gs2 is unused (R125). -/
def execPinr (p : PairNo) (gd gs1 gs2 : BitVec 5) (s : State) : Out :=
  runI p (encA 8 gd gs1 gs2 2) (gs2 = 0) false (fun s key c => portReadI p gd ((c.gr gs1).setWidth 16) s key c) s

/-- POUTR: posts gs2; gd is unused (R125). -/
def execPoutr (p : PairNo) (gd gs1 gs2 : BitVec 5) (s : State) : Out :=
  runI p (encA 8 gd gs1 gs2 3) (gd = 0) false (fun s key c =>
    portWriteI ((c.gr gs1).setWidth 16) (postedI p (c.gr gs2)) s key c) s

/-! ### Signal map (R126, R127) -/
/-- A read of an entry: both words into gd and gd + 1; under Onnus 1 the value word alone into gd (R132). -/
def sigReadI (p : PairNo) (gd : BitVec 5) (addr : Word) (s : State) (key : Nat) (c : Ctx) : IRes :=
  let a := addr.toNat
  if a ≥ 2 ^ 20 then .trap s tSIG 0 addr
  else
    let v1 := s.onnus1 key
    let s := s.drainTo p (fun e => e.isSig a)
    let (cyc, s) := s.freeIn 20 60
    let s := s.correctCe (sigCell a) 8
    if s.eccUe.contains (sigCell a) then .trap (s.sigTouch a) 0x0106 0 addr
    else
      let (v, st) := s.sigWords a
      .ok s (if v1 then c.setG gd v else (c.setG gd v).setG (gd + 1) st) cyc .seq

/-- SIGRD; gd must be even under Onnus 2. -/
def execSigrd (p : PairNo) (gd gs1 gs2 : BitVec 5) (s : State) : Out :=
  let w := encA 8 gd gs1 gs2 4
  runI p w (gs2 = 0) false (fun s key c =>
    if !s.onnus1 key && !evenOk gd then .trap s tILLEGAL 0 w else sigReadI p gd (c.gr gs1) s key c) s

def execSigrdi (p : PairNo) (gd : BitVec 5) (imm : BitVec 20) (s : State) : Out :=
  runI p (encC 0x43 gd imm) (evenOk gd) true (sigReadI p gd (imm.setWidth 32)) s

def execSigwr (p : PairNo) (gd gs1 gs2 : BitVec 5) (s : State) : Out :=
  runI p (encA 8 gd gs1 gs2 5) (gd = 0) false (fun s _ c =>
    let a := (c.gr gs1).toNat
    if a ≥ 4064 * 256 then .trap s tSIG 0 (c.gr gs1) else .ok (s.post p (.sigwr a (c.gr gs2))) c 1 .seq) s

def execTrigger (p : PairNo) (gd gs1 gs2 : BitVec 5) (s : State) : Out :=
  runI p (encA 8 gd gs1 gs2 6) (gd = 0 && gs2 = 0) true (fun s _ c =>
    let a := (c.gr gs1).toNat
    if a ≥ 2 ^ 20 then .trap s tSIG 0 (c.gr gs1) else .ok (s.post p (.trigger a)) c 1 .seq) s

/-! ### Claims (R34, R130) -/
/-- A claim or release under the task's owner code reaches the claim table; the instruction completes when the table has taken
it (R35, R100). Its way there takes no time (DESIGN CHOICE, assumption log 68). -/
def claimI (p : PairNo) (release : Bool) (res : Nat) (s : State) (key : Nat) : IRes :=
  let q : ClaimReq := { cox := false, release := release, owner := s.ownerCode key, res := res, at0 := s.now, pair := some p.val }
  .wait ({ s with claimReqs := s.claimReqs ++ [q] }.setPair p { s.pair p with claimWait := true })

def execClaim (p : PairNo) (gd gs1 gs2 : BitVec 5) (s : State) : Out :=
  runI p (encA 8 gd gs1 gs2 7) (gd = 0 && gs2 = 0) true (fun s key c => claimI p false (bitsOf (c.gr gs1).toNat 15 0) s key) s
def execRelease (p : PairNo) (gd gs1 gs2 : BitVec 5) (s : State) : Out :=
  runI p (encA 8 gd gs1 gs2 8) (gd = 0 && gs2 = 0) true (fun s key c => claimI p true (bitsOf (c.gr gs1).toNat 15 0) s key) s

end Sys2Proof.Machine
end

