-- ==== Sys2Proof/Machine/OnnusSys.lean ====
section
/-! DEFINITION. Machine/OnnusSys.lean: Onnus end instructions, order instructions, CSRs and TRAP (R69, R90, R128 to R131). -/
namespace Sys2Proof.Machine

/-- The checks of an end instruction (R104, R122, R128): no loop runs, and the task has one of the sources. -/
def endI (word : Word) (src : Nat → Bool) (f : State → Nat → Ctx → State) (s : State) (key : Nat) (c : Ctx) : IRes :=
  if c.lcnt ≠ 0 then .trap s tILLEGAL 0 word
  else if !src (s.task key).src then .trap s tCONTEXT 0 word
  else .fin (f s key c) c

/-- WAITCATCH captures a checkpoint record, numbered with the next catch; a full buffer drops it (R69, R71). -/
def State.capture (s : State) (p : Nat) (key : Nat) (c : Ctx) : State :=
  let t := s.task key
  let home := key / 16
  let img := s.image home
  let reg := match imgTask s key with
    | some i => (s.pair p).region i.ckptOff i.ckptSize
    | none => []
  let r : CkptRec := { crew := t.idx, seq := s.nextCatch t.idx, task := key % 16, home := home
                       imageId := img.imageId, ctx := c.step .seq, region := reg, gen := (s.crew t.idx).gen }
  let q := s.pair p
  if q.ckpt.length ≥ 4 then s.fault 0x0207 t.idx else s.setPair p { q with ckpt := q.ckpt ++ [r] }

/-- The capture reads the task's checkpoint region (R44, R69). -/
def State.captureRead (s : State) (p key : Nat) : Option State :=
  match imgTask s key with
  | some i => s.memRead p true i.ckptOff i.ckptSize
  | none => some s

def execWaitcatch (p : PairNo) (gd : BitVec 5) (imm : BitVec 20) (s : State) : Out :=
  let w := encC 0x45 gd imm
  runI p w (gd = 0 && imm = 0) false (fun s key c =>
    match s.captureRead p key with
    | none =>
      if c.lcnt ≠ 0 then .trap s tILLEGAL 0 w else if (s.task key).src ≠ srcCatch then .trap s tCONTEXT 0 w else .ue
    | some u =>
      endI w (· == srcCatch) (fun _ key c => u.capture p key c) s key c) s

def execYield (p : PairNo) (gd : BitVec 5) (imm : BitVec 20) (s : State) : Out :=
  let w := encC 0x46 gd imm
  runI p w (gd = 0 && imm = 0) false (endI w (fun x => x == srcTimer || x == srcSignal) (fun s _ _ => s)) s

/-- ORDEND: the status code is gs1[7:0]. -/
def execOrdend (p : PairNo) (gd gs1 : BitVec 5) (imm : BitVec 15) (s : State) : Out :=
  let w := encB 0x38 gd gs1 imm
  runI p w (gd = 0 && imm = 0) false
    (endI w (· == srcOrder) (fun s key c => s.laneOrdEnd (s.task key).idx (bitsOf (c.gr gs1).toNat 7 0))) s

/-- The order a lane task runs. -/
def State.taskOrder (s : State) (key : Nat) : Option OrderRec := s.heldOrder (s.task key).idx

/-- ORDARG (R129). -/
def execOrdarg (p : PairNo) (gd gs1 : BitVec 5) (imm : BitVec 15) (s : State) : Out :=
  let w := encB 0x35 gd gs1 imm
  runI p w true false (fun s key c =>
    if (s.task key).src ≠ srcOrder then .trap s tCONTEXT 0 w
    else
      let off := c.gr gs1 + sext15 imm
      if off.toNat % 4 ≠ 0 then .trap s tALIGN 0 off
      else
        let body := ((s.taskOrder key).map (·.body)).getD []
        let v := if off.toNat < 4096 then leAt body off.toNat 4 else 0
        let (cyc, s) := s.freeIn 20 60
        .ok s (c.setG gd (BitVec.ofNat 32 v)) cyc .seq) s

/-- ORDHDR (R129). -/
def execOrdhdr (p : PairNo) (gd gs1 : BitVec 5) (imm : BitVec 15) (s : State) : Out :=
  let w := encB 0x36 gd gs1 imm
  runI p w (gs1 = 0 && imm.toNat < 4) false (fun s key c =>
    if (s.task key).src ≠ srcOrder then .trap s tCONTEXT 0 w
    else
      let v := match s.taskOrder key with
        | none => 0
        | some o => match imm.toNat with
          | 0 => o.opcode
          | 1 => o.body.length
          | 2 => o.lane
          | _ => o.flags
      let (cyc, s) := s.freeIn 20 60
      .ok s (c.setG gd (BitVec.ofNat 32 v)) cyc .seq) s

/-! ### CSRs (R90) -/
/-- A CSR's value. -/
def State.csr (s : State) (p key : Nat) (c : Ctx) (n : Nat) : Word :=
  let t := s.task key
  let cy := (s.pair p).cycle
  match n with
  | 0 => BitVec.ofNat 32 (key / 16 + p * 16 + 2 * 256)
  | 1 => BitVec.ofNat 32 (key % 16 + t.src * 16 + t.idx * 128)
  | 2 => BitVec.ofNat 32 cy
  | 3 => c.cycleh
  | 4 => BitVec.ofNat 32 t.budLeft
  | 5 => if t.src = srcCatch then t.catchT else 0
  | 6 => if t.src = srcCatch then t.catchSeq else 0
  | 7 => if t.src = srcCatch then t.prevAp else 0
  | 8 => c.resume &&& 0xFFFC#32
  | 9 => c.fstat &&& 0x3F#32
  | 10 => c.tcause
  | 11 => c.tpc
  | 12 => c.tval
  | 13 => BitVec.ofNat 32 t.fcnt
  | 14 => if t.src = srcOrder then t.ordSeq else 0
  | _ => 0

/-- Cycles in which the engines of pair p had nothing to run pass before a read of CYCLE: how many is a free value, since the
commands carry no instant (assumption log 69). -/
def State.idleCycles (s : State) (p : Nat) : State :=
  let (n, s) := s.free
  s.spend p n

/-- CSRRD: a read of CYCLE latches CYCLEH. -/
def execCsrrd (p : PairNo) (gd gs1 : BitVec 5) (imm : BitVec 15) (s : State) : Out :=
  runI p (encB 0x32 gd gs1 imm) (gs1 = 0 && imm.toNat < 4096) false (fun s key c =>
    let s := if imm.toNat = 2 then s.idleCycles p else s
    let v := s.csr p key c imm.toNat
    let c := if imm.toNat = 2 then { c with cycleh := BitVec.ofNat 32 ((s.pair p).cycle / 2 ^ 32) } else c
    .ok s (c.setG gd v) 1 .seq) s

/-- CSRWR: RESUME.ADDR and FSTAT alone may be written. -/
def execCsrwr (p : PairNo) (gd gs1 : BitVec 5) (imm : BitVec 15) (s : State) : Out :=
  let w := encB 0x33 gd gs1 imm
  runI p w (gd = 0 && (imm.toNat = 8 || imm.toNat = 9)) false (fun s _ c =>
    let v := c.gr gs1
    let c := if imm.toNat = 8 then { c with resume := v &&& 0xFFFC#32 } else { c with fstat := v &&& 0x3F#32 }
    .ok s c 1 .seq) s

/-- TRAP. -/
def execTrap (p : PairNo) (gd : BitVec 5) (imm : BitVec 20) (s : State) : Out :=
  runI p (encC 0x44 gd imm) (gd = 0 && imm.toNat < 256) false (fun s _ _ => .trap s tSOFT imm.toNat 0) s

end Sys2Proof.Machine
end

