-- ==== Sys2Proof/Machine/PinCmds.lean ====
section
/-! DEFINITION. Machine/PinCmds.lean: the commands of GPIO and the auxiliary converter (R518 to R521). -/
namespace Sys2Proof.Machine

/-- Pins a writer holds: the Cox writes for 0x01 and 0x02. -/
def State.pinsOf (s : State) (owner : Nat) (g : Nat) : Bool :=
  if owner = 1 || owner = 2 then s.coxPin g else s.ownerOf g == owner

/-- GPIO_OUT_WRITE and GPIO_OE_WRITE (R518), by the writer's owner code. -/
def execGpioOutWrite (owner : Byte) (v : Word) (s : State) : Out := s.onRegW R.GPIO_OUT v fun v s =>
  .next (s.gpioWrite R.GPIO_OUT (s.pinsOf owner.toNat) v)

def execGpioOeWrite (owner : Byte) (v : Word) (s : State) : Out := s.onRegW R.GPIO_OE v fun v s =>
  .next (s.gpioWrite R.GPIO_OE (s.pinsOf owner.toNat) v)

/-- AUX_CFG_WRITE (R520): EN, MODE, CREW and OSR; AUX_START is the write of START. -/
def execAuxCfgWrite (a : Oct) (v : Word) (s : State) : Out := s.onRegW (R.AUXADC_CH_CFG a) v fun v s => .next (s.auxCfg a v)

def execAuxStart (a : Oct) (s : State) : Out := s.onReg (R.AUXADC_CH_CFG a) fun s => .next (s.auxStart a)

/-- The crew of a MODE 1 channel runs a carrier: PD8 runs, and the crew is of KIND 1 to 3 and not UNUSED (R139). -/
def State.auxCarrier (s : State) (a : Nat) : Bool :=
  let n := s.get (F.AUXADC_CH_CFG_CREW a)
  s.domainRun 8 && s.carrierCrew n && s.crewState n != cUNUSED

/-- The next channel of the free-running sequence: ascending, and from the highest back to the lowest. -/
def State.auxNext (s : State) : Option Nat :=
  ((List.range 8).map (fun i => (s.auxLast + 1 + i) % 8)).find? (fun a => s.auxOn a && s.get (F.AUXADC_CH_CFG_MODE a) == 0)

/-- Channels whose catch conversions have been asked for and not made. -/
def State.auxCatches (s : State) : List Nat :=
  (List.range 8).filter (fun a => s.auxOn a && s.get (F.AUXADC_CH_CFG_MODE a) == 1 && (s.aux a).due != 0 && s.auxCarrier a)

/-- `now` at which the next conversion of channel a has its acquisition end. Conversions take 1 µs each, 250 ns of it the
acquisition, one after the other; a catch conversion is placed at t_s, the others no earlier than now. -/
def State.auxAcq (s : State) (a : Nat) : Nat :=
  let free := s.auxAt + 200
  if s.get (F.AUXADC_CH_CFG_MODE a) = 1 then max free (s.aux a).acq
  else max (max free (if s.get (F.AUXADC_CH_CFG_MODE a) = 2 then (s.aux a).acq else 0)) (s.now - 600)

/-- Channel a is the next one: catch conversions go in the order of their instants and, at one instant, ascending, a channel's
series whole (DESIGN CHOICE, assumption log 91); another conversion waits where it would overlap one. -/
def State.auxTurn (s : State) (a : Nat) : Bool :=
  let x := s.aux a
  if s.get (F.AUXADC_CH_CFG_MODE a) = 1 then
    x.due != 0 && s.auxCatches.all (fun b => x.acq < (s.aux b).acq || (x.acq == (s.aux b).acq && a ≤ b))
  else
    (if s.get (F.AUXADC_CH_CFG_MODE a) = 0 then s.auxNext == some a else x.due != 0) &&
      s.auxCatches.all (fun b => decide (s.auxAcq a + 800 ≤ (s.aux b).acq))

/-- The conversion has ended, and TS takes its acquisition end; 0 while PD8 is not on. -/
def State.auxConvert (s : State) (a : Nat) : State :=
  let t := s.auxAcq a
  let s := s.until (t + 600)
  let s := { s with auxAt := t + 600, auxLast := if s.get (F.AUXADC_CH_CFG_MODE a) = 0 then a else s.auxLast }
  s.wr (R.AUXADC_CH_TS a) (if s.domainRun 8 then BitVec.ofInt 32 ((s.tb : Int) + t - s.now) else 0)

/-- A conversion enters the average; 2^OSR of them make a result, rounded to nearest with ties upward. -/
def State.auxSample (s : State) (a v : Nat) : State :=
  let x := s.aux a
  let k := s.get (F.AUXADC_CH_CFG_OSR a)
  if x.n + 1 < 2 ^ k then (s.setAux a { x with due := x.due - 1, n := x.n + 1, sum := x.sum + v }).auxShow
  else (s.setAux a { x with
    due := x.due - 1, n := 0, sum := 0, done := some ((2 * (x.sum + v) + 2 ^ k) / (2 * 2 ^ k)), doneAt := s.auxAt }).auxShow

/-- AUX_CONVERSION: a conversion of channel a ends with what the converter gave; a catch conversion without a carrier is
skipped. -/
def execAuxConversion (a : Oct) (v : BitVec 16) (s : State) : Out :=
  if !s.domainRun 3 || !s.auxOn a then .next s
  else
    let mode := s.get (F.AUXADC_CH_CFG_MODE a)
    if mode = 1 && !s.auxCarrier a then
      .next ((s.incSat F.AUXADC_SKIPCNT_COUNT).setAux a { s.aux a with n := 0, sum := 0, due := 0 }).auxShow
    else if !s.auxTurn a then .next s
    else .next ((s.auxConvert a).auxSample a v.toNat)

/-- A result goes to RES; one still NEW is replaced with OVR. -/
def State.auxPut (s : State) (a v : Nat) : State :=
  let s := if s.bit (F.AUXADC_CH_RES_NEW a) then s.putB (F.AUXADC_CH_RES_OVR a) true else s
  ((s.put (F.AUXADC_CH_RES_V a) v).putB (F.AUXADC_CH_RES_NEW a) true).putB (F.AUXADC_CH_RES_VALID a) true

def State.auxOut (s : State) (a v : Nat) : Bool :=
  decide (v < s.get (F.AUXADC_CH_LIM_LO a)) || decide (s.get (F.AUXADC_CH_LIM_HI a) < v)

/-- It is compared with LIM: fault 0x0131 once for each crossing. -/
def State.auxLimit (s : State) (a v : Nat) : State :=
  let s := if s.auxOut a v && !(s.aux a).out then (s.raiseBit F.AUXADC_EVT_LIMIT a).fault 0x0131 a else s
  s.setAux a { s.aux a with done := none, out := s.auxOut a v }

/-- A single series that is complete clears EN. -/
def State.auxSeriesEnd (s : State) (a : Nat) : State :=
  (if s.get (F.AUXADC_CH_CFG_MODE a) = 2 && (s.aux a).due = 0 then s.putB (F.AUXADC_CH_CFG_EN a) false else s).auxShow

/-- AUX_RESULT: 200 ns after its last conversion a result is written to RES. -/
def execAuxResult (a : Oct) (s : State) : Out :=
  match (s.aux a).done with
  | none => .next s
  | some v =>
    if s.domainRun 3 then .next ((((s.until ((s.aux a).doneAt + 160)).auxPut a v).auxLimit a v).auxSeriesEnd a) else .next s

/-- AUX_RES_READ (R521). -/
def execAuxResRead (a : Oct) (s : State) : Out := s.onRegRead (R.AUXADC_CH_RES a) fun s =>
  let (v, s) := s.auxRead a
  .next { s with rdata := v }

end Sys2Proof.Machine
end

