-- ==== Sys2Proof/Machine/SysCmds.lean ====
section
/-! DEFINITION. Machine/SysCmds.lean: the commands of SYS: register writes, claims, descriptors and counters
(R8 to R10, R25, R34, R35, R37, R40). -/
namespace Sys2Proof.Machine

def accBytes : AccSize → Nat
  | .byte => 1 | .half => 2 | .word => 4

/-- Power domain of a memory region. -/
def regionDomain : Region → Nat
  | .bootRom => 3 | .coxRam => 3 | .sramL => 12 | .sramH => 13 | .sigMap => 13 | .mram0 => 4 | .mram1 => 4
  | .periph => 3 | .unmapped => 3

/-- The bus fault of an access of n bytes at a, if it is refused (R8, R21, R25). DESIGN CHOICE (assumption log 73): where several
refusals apply the order is 0x0101, 0x0102, 0x0104, 0x0103; memory in a domain that is off is refused as a window is. -/
def State.coxRefused (s : State) (a : Nat) (sz : AccSize) (store : Bool) : Option Nat :=
  let e := a + accBytes sz - 1
  let r := regionOf a
  let q := regionOf e
  let ro (x : Region) : Bool := x == .bootRom || x == .mram0 || x == .mram1
  if r = .periph then
    if sz ≠ .word || a % 4 ≠ 0 then some 0x0101
    else if !s.windowOn (winOf a) then some 0x0104
    else if store && winOf a = 4 then some 0x0103
    else none
  else if r = .unmapped || q = .unmapped then some 0x0102
  else if !s.domainOn (regionDomain r) || !s.domainOn (regionDomain q) then some 0x0104
  else if store && (ro r || ro q) then some 0x0103
  else none

/-- A store of n bytes by the Cox (R25 to R27, R434): the signal map takes none. -/
def State.coxStore (s : State) (a : Nat) (sz : AccSize) (v : Word) : State :=
  let n := accBytes sz
  match s.coxRefused a sz true with
  | some c => s.coxBusFault c a
  | none => match regionOf a, regionOf (a + n - 1) with
    | .periph, _ => s.coxWrite a v
    | .sigMap, _ | _, .sigMap => s.fault 0x0A0D 0
    | .coxRam, _ => s.wrN a n v.toNat
    | _, _ =>
      let (ok, s) := s.sramStore a n v.toNat
      if ok then s else s.coxBusFault 0x0106 a

/-- Bytes [a, a+n) of the signal map, from its entries (R429). -/
def State.mapBytes (s : State) (a n : Nat) : List Byte :=
  (List.range n).map (fun i => (s.sigBytes ((a + i - 0x10C00000) / 8)).getD ((a + i) % 8) 0)

/-- A load of n bytes by the Cox (R8, R25 to R27): a refused one returns 0. What boot ROM holds is a free value. -/
def State.coxLoad (s : State) (a : Nat) (sz : AccSize) : Word × State :=
  let n := accBytes sz
  match s.coxRefused a sz false with
  | some c => (0, s.coxBusFault c a)
  | none => match regionOf a with
    | .periph => s.regRead a
    | .bootRom =>
      let (v, s) := s.free
      (BitVec.ofNat 32 (v % 2 ^ (8 * n)), s)
    | .sigMap =>
      let s := s.correctCe a n
      if s.touchesUe a n then (0, (s.fault 0x0106 (bankOf a)).coxBusFault 0x0106 a)
      else (BitVec.ofNat 32 (leNat (s.mapBytes a n)), s)
    | .sramL | .sramH => match s.sramLoad a n with
      | (some v, s) => (BitVec.ofNat 32 v, s)
      | (none, s) => (0, s.coxBusFault 0x0106 a)
    | _ => (BitVec.ofNat 32 (s.rdN a n), s)

/-- REGISTER_WRITE (R9): an access of the Cox that has no row of its own, to a register or to memory: a write of a word, or with
none a read (R8, R25). -/
def execRegisterWrite (a : Word) (sz : AccSize) (w : Option Word) (s : State) : Out :=
  match w with
  | some v => .next (s.coxStore a.toNat sz v)
  | none =>
    let (v, s) := s.coxLoad a.toNat sz
    .next { s with rdata := v }

/-- CLAIM_REQ_CLAIM and CLAIM_REQ_RELEASE (R34, R40). -/
def execClaimReqClaim (owner : Byte) (res : BitVec 16) (s : State) : Out := s.onReg R.SYS_CLAIM_REQ fun s =>
  .next (s.claimReq false owner.toNat res.toNat)
def execClaimReqRelease (owner : Byte) (res : BitVec 16) (s : State) : Out := s.onReg R.SYS_CLAIM_REQ fun s =>
  .next (s.claimReq true owner.toNat res.toNat)

/-- CLAIM_TABLE_REQUEST (R34, R35): one request is taken. -/
def execClaimTableRequest (s : State) : Out := .next s.takeClaim

/-- DMA_LEN_WRITE (R37). -/
def execDmaLenWrite (len : BitVec 21) (s : State) : Out := s.onReg R.SYS_DMA_LEN fun s => .next (s.dmaLen len.toNat)

/-- CNT_CLR_ECC, CNT_CLR_OVF and CNT_CLR_RETRY (R40). -/
def execCntClrEcc (s : State) : Out := s.onReg R.SYS_CNT_CLR fun s => .next s.clrEcc
def execCntClrOvf (s : State) : Out := s.onReg R.SYS_CNT_CLR fun s => .next s.clrOvf
def execCntClrRetry (k : Fin 5) (s : State) : Out := s.onReg R.SYS_CNT_CLR fun s => .next (s.clrRetry k)

end Sys2Proof.Machine
end

