-- ==== Sys2Proof/Machine/Dispatch.lean ====
section
/-! DEFINITION. Machine/Dispatch.lean: exec, the effect of each command; one arm per constructor. -/
namespace Sys2Proof.Machine

/-- The effect of a command on everything but the queue. -/
def exec (i : Instr) (s : State) : Host.Outcome State Fault Refusal :=
  match i with
  | .registerWrite a sz v => Sys2Proof.Machine.execRegisterWrite a sz v s
  | .claimReqClaim owner res => Sys2Proof.Machine.execClaimReqClaim owner res s
  | .claimReqRelease owner res => Sys2Proof.Machine.execClaimReqRelease owner res s
  | .claimTableRequest => Sys2Proof.Machine.execClaimTableRequest s
  | .dmaLenWrite len => Sys2Proof.Machine.execDmaLenWrite len s
  | .cntClrEcc => Sys2Proof.Machine.execCntClrEcc s
  | .cntClrOvf => Sys2Proof.Machine.execCntClrOvf s
  | .cntClrRetry k => Sys2Proof.Machine.execCntClrRetry k s
  | .seMismatch p => Sys2Proof.Machine.execSeMismatch p s
  | .seMemUe p => Sys2Proof.Machine.execSeMemUe p s
  | .restoreComplete p => Sys2Proof.Machine.execRestoreComplete p s
  | .domainReloadComplete p => Sys2Proof.Machine.execDomainReloadComplete p s
  | .seRetest v => Sys2Proof.Machine.execSeRetest v s
  | .spareSelfTest p => Sys2Proof.Machine.execSpareSelfTest p s
  | .selfTestComplete p pass => Sys2Proof.Machine.execSelfTestComplete p pass s
  | .taskDispatch p => Sys2Proof.Machine.execTaskDispatch p s
  | .taskPreempt p => Sys2Proof.Machine.execTaskPreempt p s
  | .taskBudget p => Sys2Proof.Machine.execTaskBudget p s
  | .timerExpiry k => Sys2Proof.Machine.execTimerExpiry k s
  | .crewCatch n => Sys2Proof.Machine.execCatch n s
  | .checkpointRecordWrite p => Sys2Proof.Machine.execCheckpointRecordWrite p s
  | .seMemDataWrite v => Sys2Proof.Machine.execSeMemDataWrite v s
  | .seMemDataRead => Sys2Proof.Machine.execSeMemDataRead s
  | .coefDataWrite v => Sys2Proof.Machine.execCoefDataWrite v s
  | .coefSwap v => Sys2Proof.Machine.execCoefSwap v s
  | .outboundQueueDrain p => Sys2Proof.Machine.execOutboundQueueDrain p s
  | .add p gd gs1 gs2 => Sys2Proof.Machine.execAdd p gd gs1 gs2 s
  | .sub p gd gs1 gs2 => Sys2Proof.Machine.execSub p gd gs1 gs2 s
  | .and p gd gs1 gs2 => Sys2Proof.Machine.execAnd p gd gs1 gs2 s
  | .or p gd gs1 gs2 => Sys2Proof.Machine.execOr p gd gs1 gs2 s
  | .xor p gd gs1 gs2 => Sys2Proof.Machine.execXor p gd gs1 gs2 s
  | .sll p gd gs1 gs2 => Sys2Proof.Machine.execSll p gd gs1 gs2 s
  | .srl p gd gs1 gs2 => Sys2Proof.Machine.execSrl p gd gs1 gs2 s
  | .sra p gd gs1 gs2 => Sys2Proof.Machine.execSra p gd gs1 gs2 s
  | .slt p gd gs1 gs2 => Sys2Proof.Machine.execSlt p gd gs1 gs2 s
  | .sltu p gd gs1 gs2 => Sys2Proof.Machine.execSltu p gd gs1 gs2 s
  | .min p gd gs1 gs2 => Sys2Proof.Machine.execMin p gd gs1 gs2 s
  | .max p gd gs1 gs2 => Sys2Proof.Machine.execMax p gd gs1 gs2 s
  | .minu p gd gs1 gs2 => Sys2Proof.Machine.execMinu p gd gs1 gs2 s
  | .maxu p gd gs1 gs2 => Sys2Proof.Machine.execMaxu p gd gs1 gs2 s
  | .clz p gd gs1 gs2 => Sys2Proof.Machine.execClz p gd gs1 gs2 s
  | .mul p gd gs1 gs2 => Sys2Proof.Machine.execMul p gd gs1 gs2 s
  | .mulh p gd gs1 gs2 => Sys2Proof.Machine.execMulh p gd gs1 gs2 s
  | .mulhu p gd gs1 gs2 => Sys2Proof.Machine.execMulhu p gd gs1 gs2 s
  | .div p gd gs1 gs2 => Sys2Proof.Machine.execDiv p gd gs1 gs2 s
  | .divu p gd gs1 gs2 => Sys2Proof.Machine.execDivu p gd gs1 gs2 s
  | .rem p gd gs1 gs2 => Sys2Proof.Machine.execRem p gd gs1 gs2 s
  | .remu p gd gs1 gs2 => Sys2Proof.Machine.execRemu p gd gs1 gs2 s
  | .addi p gd gs1 imm => Sys2Proof.Machine.execAddi p gd gs1 imm s
  | .andi p gd gs1 imm => Sys2Proof.Machine.execAndi p gd gs1 imm s
  | .ori p gd gs1 imm => Sys2Proof.Machine.execOri p gd gs1 imm s
  | .xori p gd gs1 imm => Sys2Proof.Machine.execXori p gd gs1 imm s
  | .slti p gd gs1 imm => Sys2Proof.Machine.execSlti p gd gs1 imm s
  | .sltiu p gd gs1 imm => Sys2Proof.Machine.execSltiu p gd gs1 imm s
  | .slli p gd gs1 imm => Sys2Proof.Machine.execSlli p gd gs1 imm s
  | .srli p gd gs1 imm => Sys2Proof.Machine.execSrli p gd gs1 imm s
  | .srai p gd gs1 imm => Sys2Proof.Machine.execSrai p gd gs1 imm s
  | .lui p gd imm => Sys2Proof.Machine.execLui p gd imm s
  | .qadd p gd gs1 gs2 => Sys2Proof.Machine.execQadd p gd gs1 gs2 s
  | .qsub p gd gs1 gs2 => Sys2Proof.Machine.execQsub p gd gs1 gs2 s
  | .qmul p gd gs1 gs2 => Sys2Proof.Machine.execQmul p gd gs1 gs2 s
  | .qneg p gd gs1 gs2 => Sys2Proof.Machine.execQneg p gd gs1 gs2 s
  | .qabs p gd gs1 gs2 => Sys2Proof.Machine.execQabs p gd gs1 gs2 s
  | .qshl p gd gs1 gs2 => Sys2Proof.Machine.execQshl p gd gs1 gs2 s
  | .qshr p gd gs1 gs2 => Sys2Proof.Machine.execQshr p gd gs1 gs2 s
  | .qadd2 p gd gs1 gs2 => Sys2Proof.Machine.execQadd2 p gd gs1 gs2 s
  | .qsub2 p gd gs1 gs2 => Sys2Proof.Machine.execQsub2 p gd gs1 gs2 s
  | .qmul2 p gd gs1 gs2 => Sys2Proof.Machine.execQmul2 p gd gs1 gs2 s
  | .qpack p gd gs1 gs2 => Sys2Proof.Machine.execQpack p gd gs1 gs2 s
  | .mac p gd gs1 gs2 => Sys2Proof.Machine.execMac p gd gs1 gs2 s
  | .msu p gd gs1 gs2 => Sys2Proof.Machine.execMsu p gd gs1 gs2 s
  | .macz p gd gs1 gs2 => Sys2Proof.Machine.execMacz p gd gs1 gs2 s
  | .mac2 p gd gs1 gs2 => Sys2Proof.Machine.execMac2 p gd gs1 gs2 s
  | .aclr p gd gs1 gs2 => Sys2Proof.Machine.execAclr p gd gs1 gs2 s
  | .awr p gd gs1 gs2 => Sys2Proof.Machine.execAwr p gd gs1 gs2 s
  | .ard p gd gs1 imm => Sys2Proof.Machine.execArd p gd gs1 imm s
  | .fadd p gd gs1 gs2 => Sys2Proof.Machine.execFadd p gd gs1 gs2 s
  | .fsub p gd gs1 gs2 => Sys2Proof.Machine.execFsub p gd gs1 gs2 s
  | .fmul p gd gs1 gs2 => Sys2Proof.Machine.execFmul p gd gs1 gs2 s
  | .fdiv p gd gs1 gs2 => Sys2Proof.Machine.execFdiv p gd gs1 gs2 s
  | .fsqrt p gd gs1 gs2 => Sys2Proof.Machine.execFsqrt p gd gs1 gs2 s
  | .fma p gd gs1 gs2 => Sys2Proof.Machine.execFma p gd gs1 gs2 s
  | .fnms p gd gs1 gs2 => Sys2Proof.Machine.execFnms p gd gs1 gs2 s
  | .fmin p gd gs1 gs2 => Sys2Proof.Machine.execFmin p gd gs1 gs2 s
  | .fmax p gd gs1 gs2 => Sys2Proof.Machine.execFmax p gd gs1 gs2 s
  | .fabs p gd gs1 gs2 => Sys2Proof.Machine.execFabs p gd gs1 gs2 s
  | .fneg p gd gs1 gs2 => Sys2Proof.Machine.execFneg p gd gs1 gs2 s
  | .fsat p gd gs1 gs2 => Sys2Proof.Machine.execFsat p gd gs1 gs2 s
  | .fcvtSW p gd gs1 gs2 => Sys2Proof.Machine.execFcvtSW p gd gs1 gs2 s
  | .fcvtWS p gd gs1 gs2 => Sys2Proof.Machine.execFcvtWS p gd gs1 gs2 s
  | .fcvtSQ p gd gs1 gs2 => Sys2Proof.Machine.execFcvtSQ p gd gs1 gs2 s
  | .fcvtQS p gd gs1 gs2 => Sys2Proof.Machine.execFcvtQS p gd gs1 gs2 s
  | .fmvGF p gd gs1 gs2 => Sys2Proof.Machine.execFmvGF p gd gs1 gs2 s
  | .fmvFG p gd gs1 gs2 => Sys2Proof.Machine.execFmvFG p gd gs1 gs2 s
  | .feq p gd gs1 gs2 => Sys2Proof.Machine.execFeq p gd gs1 gs2 s
  | .flt p gd gs1 gs2 => Sys2Proof.Machine.execFlt p gd gs1 gs2 s
  | .fle p gd gs1 gs2 => Sys2Proof.Machine.execFle p gd gs1 gs2 s
  | .clarke p gd gs1 gs2 => Sys2Proof.Machine.execClarke p gd gs1 gs2 s
  | .park p gd gs1 gs2 => Sys2Proof.Machine.execPark p gd gs1 gs2 s
  | .ipark p gd gs1 gs2 => Sys2Proof.Machine.execIpark p gd gs1 gs2 s
  | .sincos p gd gs1 gs2 => Sys2Proof.Machine.execSincos p gd gs1 gs2 s
  | .atan2 p gd gs1 gs2 => Sys2Proof.Machine.execAtan2 p gd gs1 gs2 s
  | .biq p gd gs1 gs2 => Sys2Proof.Machine.execBiq p gd gs1 gs2 s
  | .lim2 p gd gs1 gs2 => Sys2Proof.Machine.execLim2 p gd gs1 gs2 s
  | .lim2d p gd gs1 gs2 => Sys2Proof.Machine.execLim2d p gd gs1 gs2 s
  | .ldw p gd gs1 imm => Sys2Proof.Machine.execLdw p gd gs1 imm s
  | .ldh p gd gs1 imm => Sys2Proof.Machine.execLdh p gd gs1 imm s
  | .ldhu p gd gs1 imm => Sys2Proof.Machine.execLdhu p gd gs1 imm s
  | .ldb p gd gs1 imm => Sys2Proof.Machine.execLdb p gd gs1 imm s
  | .ldbu p gd gs1 imm => Sys2Proof.Machine.execLdbu p gd gs1 imm s
  | .flw p gd gs1 imm => Sys2Proof.Machine.execFlw p gd gs1 imm s
  | .stw p gd gs1 imm => Sys2Proof.Machine.execStw p gd gs1 imm s
  | .sth p gd gs1 imm => Sys2Proof.Machine.execSth p gd gs1 imm s
  | .stb p gd gs1 imm => Sys2Proof.Machine.execStb p gd gs1 imm s
  | .fsw p gd gs1 imm => Sys2Proof.Machine.execFsw p gd gs1 imm s
  | .swapw p gd gs1 gs2 => Sys2Proof.Machine.execSwapw p gd gs1 gs2 s
  | .casw p gd gs1 gs2 => Sys2Proof.Machine.execCasw p gd gs1 gs2 s
  | .beq p gs1 gs2 off => Sys2Proof.Machine.execBeq p gs1 gs2 off s
  | .bne p gs1 gs2 off => Sys2Proof.Machine.execBne p gs1 gs2 off s
  | .blt p gs1 gs2 off => Sys2Proof.Machine.execBlt p gs1 gs2 off s
  | .bge p gs1 gs2 off => Sys2Proof.Machine.execBge p gs1 gs2 off s
  | .bltu p gs1 gs2 off => Sys2Proof.Machine.execBltu p gs1 gs2 off s
  | .bgeu p gs1 gs2 off => Sys2Proof.Machine.execBgeu p gs1 gs2 off s
  | .jal p gd imm => Sys2Proof.Machine.execJal p gd imm s
  | .jalr p gd gs1 imm => Sys2Proof.Machine.execJalr p gd gs1 imm s
  | .loop p gd gs1 imm => Sys2Proof.Machine.execLoop p gd gs1 imm s
  | .loopi p gd imm => Sys2Proof.Machine.execLoopi p gd imm s
  | .pin p g port => Sys2Proof.Machine.execPin p g port s
  | .poutMode0 p g port => Sys2Proof.Machine.execPoutMode0 p g port s
  | .poutMode1 p g port => Sys2Proof.Machine.execPoutMode1 p g port s
  | .psetOr p g port => Sys2Proof.Machine.execPsetOr p g port s
  | .psetAndnot p g port => Sys2Proof.Machine.execPsetAndnot p g port s
  | .psetXor p g port => Sys2Proof.Machine.execPsetXor p g port s
  | .pinr p gd gs1 gs2 => Sys2Proof.Machine.execPinr p gd gs1 gs2 s
  | .poutr p gd gs1 gs2 => Sys2Proof.Machine.execPoutr p gd gs1 gs2 s
  | .sigrd p gd gs1 gs2 => Sys2Proof.Machine.execSigrd p gd gs1 gs2 s
  | .sigrdi p gd imm => Sys2Proof.Machine.execSigrdi p gd imm s
  | .sigwr p gd gs1 gs2 => Sys2Proof.Machine.execSigwr p gd gs1 gs2 s
  | .trigger p gd gs1 gs2 => Sys2Proof.Machine.execTrigger p gd gs1 gs2 s
  | .waitcatch p gd imm => Sys2Proof.Machine.execWaitcatch p gd imm s
  | .yield p gd imm => Sys2Proof.Machine.execYield p gd imm s
  | .ordend p gd gs1 imm => Sys2Proof.Machine.execOrdend p gd gs1 imm s
  | .ordarg p gd gs1 imm => Sys2Proof.Machine.execOrdarg p gd gs1 imm s
  | .ordhdr p gd gs1 imm => Sys2Proof.Machine.execOrdhdr p gd gs1 imm s
  | .claim p gd gs1 gs2 => Sys2Proof.Machine.execClaim p gd gs1 gs2 s
  | .release p gd gs1 gs2 => Sys2Proof.Machine.execRelease p gd gs1 gs2 s
  | .csrrd p gd gs1 imm => Sys2Proof.Machine.execCsrrd p gd gs1 imm s
  | .csrwr p gd gs1 imm => Sys2Proof.Machine.execCsrwr p gd gs1 imm s
  | .trap p gd imm => Sys2Proof.Machine.execTrap p gd imm s
  | .pistep p gd gs1 imm => Sys2Proof.Machine.execPistep p gd gs1 imm s
  | .pistepr p gd gs1 gs2 => Sys2Proof.Machine.execPistepr p gd gs1 gs2 s
  | .tasTick => Sys2Proof.Machine.execTasTick s
  | .carrierValley n j => Sys2Proof.Machine.execCarrierValley n j s
  | .carrierPeak n j => Sys2Proof.Machine.execCarrierPeak n j s
  | .seamHoldExpiry n => Sys2Proof.Machine.execSeamHoldExpiry n s
  | .edgeDecision x => Sys2Proof.Machine.execEdgeDecision x s
  | .deadTimeExpiry x => Sys2Proof.Machine.execDeadTimeExpiry x s
  | .crewStart n => Sys2Proof.Machine.execCrewStart n s
  | .crewStop n => Sys2Proof.Machine.execCrewStop n s
  | .stoLineChange g => Sys2Proof.Machine.execStoLineChange g s
  | .cmdOfsWrite n v => Sys2Proof.Machine.execCmdOfsWrite n v s
  | .cmdAmpWrite n v => Sys2Proof.Machine.execCmdAmpWrite n v s
  | .angsetWrite n v => Sys2Proof.Machine.execAngsetWrite n v s
  | .tblDataAccess w => Sys2Proof.Machine.execTblDataAccess w s
  | .legModeWrite x m => Sys2Proof.Machine.execLegModeWrite x m s
  | .legRawWrite x hs ls => Sys2Proof.Machine.execLegRawWrite x hs ls s
  | .shootLockoutEnd x => Sys2Proof.Machine.execShootLockoutEnd x s
  | .legDtWrite x v => Sys2Proof.Machine.execLegDtWrite x v s
  | .legMinpwWrite x pw => Sys2Proof.Machine.execLegMinpwWrite x pw s
  | .bootstrapRefresh x => Sys2Proof.Machine.execBootstrapRefresh x s
  | .refreshPulseEnd x => Sys2Proof.Machine.execRefreshPulseEnd x s
  | .chopFastDecayEnd n b => Sys2Proof.Machine.execChopFastDecayEnd n b s
  | .chopOffTimeEnd n b => Sys2Proof.Machine.execChopOffTimeEnd n b s
  | .downlinkFrame k => Sys2Proof.Machine.execDownlinkFrame k s
  | .uplinkFrame k other f => Sys2Proof.Machine.execUplinkFrame k other f s
  | .stoDisagree k => Sys2Proof.Machine.execStoDisagree k s
  | .tileFrameReceive k err other f => Sys2Proof.Machine.execTileFrameReceive k err other f s
  | .tileEventApply k => Sys2Proof.Machine.execTileEventApply k s
  | .tileStoInput k b off => Sys2Proof.Machine.execTileStoInput k b off s
  | .tileUvlo k high below => Sys2Proof.Machine.execTileUvlo k high below s
  | .tileDidtTrip k w => Sys2Proof.Machine.execTileDidtTrip k w s
  | .tilePowerUp k => Sys2Proof.Machine.execTilePowerUp k s
  | .yilosEn k en => Sys2Proof.Machine.execYilosEn k en s
  | .yilosRetrain k => Sys2Proof.Machine.execYilosRetrain k s
  | .trainingFrame k err other f sent came => Sys2Proof.Machine.execTrainingFrame k err other f sent came s
  | .trainingTimeout k => Sys2Proof.Machine.execTrainingTimeout k s
  | .linkUp k => Sys2Proof.Machine.execLinkUp k s
  | .parkComplete k => Sys2Proof.Machine.execParkComplete k s
  | .yilosClr k => Sys2Proof.Machine.execYilosClr k s
  | .yilosMwr k rd addr data => Sys2Proof.Machine.execYilosMwr k rd addr data s
  | .diagStart k v => Sys2Proof.Machine.execDiagStart k v s
  | .diagSettleEnd k r0 r1 r2 r3 => Sys2Proof.Machine.execDiagSettleEnd k r0 r1 r2 r3 s
  | .sincSampleEntry k => Sys2Proof.Machine.execSincSampleEntry k s
  | .fastResult x d => Sys2Proof.Machine.execFastResult x d s
  | .controlResult x d => Sys2Proof.Machine.execControlResult x d s
  | .guardHoldEnd n => Sys2Proof.Machine.execGuardHoldEnd n s
  | .guardCoolEnd n => Sys2Proof.Machine.execGuardCoolEnd n s
  | .guardRenderLimit n => Sys2Proof.Machine.execGuardRenderLimit n s
  | .guardRecover n => Sys2Proof.Machine.execGuardRecover n s
  | .emgSample low0 low1 => Sys2Proof.Machine.execEmgSample low0 low1 s
  | .slessLowspeed n => Sys2Proof.Machine.execSlessLowspeed n s
  | .eclrWrite n clr => Sys2Proof.Machine.execEclrWrite n clr s
  | .eposLRead n => Sys2Proof.Machine.execEposLRead n s
  | .enegLRead n => Sys2Proof.Machine.execEnegLRead n s
  | .dwellEnd n => Sys2Proof.Machine.execDwellEnd n s
  | .standstillDelayEnd n => Sys2Proof.Machine.execStandstillDelayEnd n s
  | .brakeTsetEnd n => Sys2Proof.Machine.execBrakeTsetEnd n s
  | .brakeTpreEnd n => Sys2Proof.Machine.execBrakeTpreEnd n s
  | .brakeTopenEnd n => Sys2Proof.Machine.execBrakeTopenEnd n s
  | .brakeFeedback n level => Sys2Proof.Machine.execBrakeFeedback n level s
  | .trelRampEnd n => Sys2Proof.Machine.execTrelRampEnd n s
  | .profTgtHWrite n v => Sys2Proof.Machine.execProfTgtHWrite n v s
  | .profVtgtWrite n v => Sys2Proof.Machine.execProfVtgtWrite n v s
  | .profModeWrite n m => Sys2Proof.Machine.execProfModeWrite n m s
  | .profStop n => Sys2Proof.Machine.execProfStop n s
  | .profHaltq n => Sys2Proof.Machine.execProfHaltq n s
  | .profParamWrite n i0 v => Sys2Proof.Machine.execProfParamWrite n i0 v s
  | .iarPerWrite n us => Sys2Proof.Machine.execIarPerWrite n us s
  | .setpHWrite n v => Sys2Proof.Machine.execSetpHWrite n v s
  | .iarumPeriodBoundary n => Sys2Proof.Machine.execIarumPeriodBoundary n s
  | .profPosLRead n => Sys2Proof.Machine.execProfPosLRead n s
  | .zCapture j => Sys2Proof.Machine.execZCapture j s
  | .illegalTransition e => Sys2Proof.Machine.execIllegalTransition e s
  | .lineFault j on => Sys2Proof.Machine.execLineFault j on s
  | .posLine j => Sys2Proof.Machine.execPosLine j s
  | .posReadTrigger j => Sys2Proof.Machine.execPosReadTrigger j s
  | .serialReadComplete j i0 => Sys2Proof.Machine.execSerialReadComplete j i0 s
  | .serialReadRetry j => Sys2Proof.Machine.execSerialReadRetry j s
  | .posRearm j => Sys2Proof.Machine.execPosRearm j s
  | .posClr j => Sys2Proof.Machine.execPosClr j s
  | .posCntLRead j => Sys2Proof.Machine.execPosCntLRead j s
  | .posZcapLRead j => Sys2Proof.Machine.execPosZcapLRead j s
  | .siFilterChange i0 b e => Sys2Proof.Machine.execSiFilterChange i0 b e s
  | .resetHeld i0 => Sys2Proof.Machine.execResetHeld i0 s
  | .siDiscrep i0 => Sys2Proof.Machine.execSiDiscrep i0 s
  | .tpoPulse j follows => Sys2Proof.Machine.execTpoPulse j follows s
  | .tpoPulseEnd j follows => Sys2Proof.Machine.execTpoPulseEnd j follows s
  | .testPulseWindowEnd i0 n => Sys2Proof.Machine.execTestPulseWindowEnd i0 n s
  | .islandEvaluation isl rb => Sys2Proof.Machine.execIslandEvaluation isl rb s
  | .speedWindowEnd g oa ob => Sys2Proof.Machine.execSpeedWindowEnd g oa ob s
  | .ss1TimerExpiry isl g => Sys2Proof.Machine.execSs1TimerExpiry isl g s
  | .sbcDelayEnd isl g => Sys2Proof.Machine.execSbcDelayEnd isl g s
  | .stoTestPulse isl g seen => Sys2Proof.Machine.execStoTestPulse isl g seen s
  | .sboTestPulse isl b seen => Sys2Proof.Machine.execSboTestPulse isl b seen s
  | .islandStart isl => Sys2Proof.Machine.execIslandStart isl s
  | .islandStartComplete isl pass => Sys2Proof.Machine.execIslandStartComplete isl pass s
  | .ringFragment p f => Sys2Proof.Machine.execRingFragment p f s
  | .reassemblyTimeout => Sys2Proof.Machine.execReassemblyTimeout s
  | .masterFrame ring => Sys2Proof.Machine.execMasterFrame ring s
  | .batchClose => Sys2Proof.Machine.execBatchClose s
  | .batchCommit r0 r1 dur => Sys2Proof.Machine.execBatchCommit r0 r1 dur s
  | .orderStart => Sys2Proof.Machine.execOrderStart s
  | .ordCall lane => Sys2Proof.Machine.execOrdCall lane s
  | .ordLoadprog => Sys2Proof.Machine.execOrdLoadprog s
  | .ordRigswitch => Sys2Proof.Machine.execOrdRigswitch s
  | .ordReadsig => Sys2Proof.Machine.execOrdReadsig s
  | .ordWritesig => Sys2Proof.Machine.execOrdWritesig s
  | .ordSubscribe => Sys2Proof.Machine.execOrdSubscribe s
  | .ordSwapbank => Sys2Proof.Machine.execOrdSwapbank s
  | .ordClearfault => Sys2Proof.Machine.execOrdClearfault s
  | .ordDump => Sys2Proof.Machine.execOrdDump s
  | .reportSend => Sys2Proof.Machine.execReportSend s
  | .reportResendTimeout => Sys2Proof.Machine.execReportResendTimeout s
  | .masterSilent => Sys2Proof.Machine.execMasterSilent s
  | .mpWrite l => Sys2Proof.Machine.execMpWrite l s
  | .mpRead n => Sys2Proof.Machine.execMpRead n s
  | .mpStatus => Sys2Proof.Machine.execMpStatus s
  | .journalRecovery => Sys2Proof.Machine.execJournalRecovery s
  | .ringFrame p f => Sys2Proof.Machine.execRingFrame p f s
  | .supervisionFrame p f named => Sys2Proof.Machine.execSupervisionFrame p f named s
  | .supervisionSend => Sys2Proof.Machine.execSupervisionSend s
  | .ringBroken => Sys2Proof.Machine.execRingBroken s
  | .nodeForget => Sys2Proof.Machine.execNodeForget s
  | .ringLinkChange p up => Sys2Proof.Machine.execRingLinkChange p up s
  | .egressFrameStart p => Sys2Proof.Machine.execEgressFrameStart p s
  | .protectedWindowOpen => Sys2Proof.Machine.execProtectedWindowOpen s
  | .protectedWindowClose => Sys2Proof.Machine.execProtectedWindowClose s
  | .phyrstnWrite p v => Sys2Proof.Machine.execPhyrstnWrite p v s
  | .txenWrite p v => Sys2Proof.Machine.execTxenWrite p v s
  | .mdioOperation v => Sys2Proof.Machine.execMdioOperation v s
  | .mdioComplete data ack => Sys2Proof.Machine.execMdioComplete data ack s
  | .bypInsertWrite v => Sys2Proof.Machine.execBypInsertWrite v s
  | .bypLeaveWrite => Sys2Proof.Machine.execBypLeaveWrite s
  | .leaveExpiry => Sys2Proof.Machine.execLeaveExpiry s
  | .bypSenseChange level => Sys2Proof.Machine.execBypSenseChange level s
  | .bypMismatch => Sys2Proof.Machine.execBypMismatch s
  | .leaveAnnouncement p f => Sys2Proof.Machine.execLeaveAnnouncement p f s
  | .sync p m => Sys2Proof.Machine.execSync p m s
  | .followUp p m => Sys2Proof.Machine.execFollowUp p m s
  | .announce p m c => Sys2Proof.Machine.execAnnounce p m c s
  | .pdelayReq p m => Sys2Proof.Machine.execPdelayReq p m s
  | .pdelayResp p m => Sys2Proof.Machine.execPdelayResp p m s
  | .pdelayRespFollowUp p m => Sys2Proof.Machine.execPdelayRespFollowUp p m s
  | .pdelayReqSend p => Sys2Proof.Machine.execPdelayReqSend p s
  | .pdelayTimeout p => Sys2Proof.Machine.execPdelayTimeout p s
  | .syncSend => Sys2Proof.Machine.execSyncSend s
  | .announceSend => Sys2Proof.Machine.execAnnounceSend s
  | .syncLoss => Sys2Proof.Machine.execSyncLoss s
  | .announceTimeout => Sys2Proof.Machine.execAnnounceTimeout s
  | .rtcUpdate => Sys2Proof.Machine.execRtcUpdate s
  | .ctSlRead => Sys2Proof.Machine.execCtSlRead s
  | .ltSlRead => Sys2Proof.Machine.execLtSlRead s
  | .lqArm e v => Sys2Proof.Machine.execLqArm e v s
  | .lqLaunch e => Sys2Proof.Machine.execLqLaunch e s
  | .seamPayloadRead n => Sys2Proof.Machine.execSeamPayloadRead n s
  | .seamFrame p f => Sys2Proof.Machine.execSeamFrame p f s
  | .seamDeadline n => Sys2Proof.Machine.execSeamDeadline n s
  | .fieldCycleStart j => Sys2Proof.Machine.execFieldCycleStart j s
  | .cyclic j => Sys2Proof.Machine.execCyclic j s
  | .change j => Sys2Proof.Machine.execChange j s
  | .read j => Sys2Proof.Machine.execRead j s
  | .write j => Sys2Proof.Machine.execWrite j s
  | .assign j => Sys2Proof.Machine.execAssign j s
  | .cap j => Sys2Proof.Machine.execCap j s
  | .discover j => Sys2Proof.Machine.execDiscover j s
  | .freeze j => Sys2Proof.Machine.execFreeze j s
  | .fieldResponse j l lineErr dt => Sys2Proof.Machine.execFieldResponse j l lineErr dt s
  | .fieldTimeout j => Sys2Proof.Machine.execFieldTimeout j s
  | .discoveryRound j => Sys2Proof.Machine.execDiscoveryRound j s
  | .signalMapSweep => Sys2Proof.Machine.execSignalMapSweep s
  | .internalPocketRefresh => Sys2Proof.Machine.execInternalPocketRefresh s
  | .subscriptionReport a => Sys2Proof.Machine.execSubscriptionReport a s
  | .fieldSwrV v => Sys2Proof.Machine.execFieldSwrV v s
  | .fieldClr cnt => Sys2Proof.Machine.execFieldClr cnt s
  | .mapStore => Sys2Proof.Machine.execMapStore s
  | .vaonPowerOn bootMode rigSel => Sys2Proof.Machine.execVaonPowerOn bootMode rigSel s
  | .vaonPowerLoss => Sys2Proof.Machine.execVaonPowerLoss s
  | .rstNLow => Sys2Proof.Machine.execRstNLow s
  | .rstNRelease bootMode rigSel => Sys2Proof.Machine.execRstNRelease bootMode rigSel s
  | .bootComplete tj => Sys2Proof.Machine.execBootComplete tj s
  | .stuckReset => Sys2Proof.Machine.execStuckReset s
  | .stuckIgnoreClear => Sys2Proof.Machine.execStuckIgnoreClear s
  | .watchdogExpiry => Sys2Proof.Machine.execWatchdogExpiry s
  | .aonWdtKick => Sys2Proof.Machine.execAonWdtKick s
  | .softwareReset => Sys2Proof.Machine.execSoftwareReset s
  | .supplyUv vana => Sys2Proof.Machine.execSupplyUv vana s
  | .supplyUvRelease => Sys2Proof.Machine.execSupplyUvRelease s
  | .backupTrip => Sys2Proof.Machine.execBackupTrip s
  | .backupTripClear => Sys2Proof.Machine.execBackupTripClear s
  | .pfailN low => Sys2Proof.Machine.execPfailN low s
  | .aonReadyWrite v => Sys2Proof.Machine.execAonReadyWrite v s
  | .readyReached => Sys2Proof.Machine.execReadyReached s
  | .readyTimeout => Sys2Proof.Machine.execReadyTimeout s
  | .idleTimeout => Sys2Proof.Machine.execIdleTimeout s
  | .aonRestWrite => Sys2Proof.Machine.execAonRestWrite s
  | .restEntryEnd => Sys2Proof.Machine.execRestEntryEnd s
  | .wake src => Sys2Proof.Machine.execWake src s
  | .domainFail d => Sys2Proof.Machine.execDomainFail d s
  | .mboxReqWrite p v => Sys2Proof.Machine.execMboxReqWrite p v s
  | .mboxMaintenance => Sys2Proof.Machine.execMboxMaintenance s
  | .mboxUserLog => Sys2Proof.Machine.execMboxUserLog s
  | .mboxRest => Sys2Proof.Machine.execMboxRest s
  | .mboxFirmwareChunk => Sys2Proof.Machine.execMboxFirmwareChunk s
  | .mboxFirmwareActivate => Sys2Proof.Machine.execMboxFirmwareActivate s
  | .mboxDumpSlotLock => Sys2Proof.Machine.execMboxDumpSlotLock s
  | .hkRound => Sys2Proof.Machine.execHkRound s
  | .hkSample c v => Sys2Proof.Machine.execHkSample c v s
  | .thermalShutdownRest => Sys2Proof.Machine.execThermalShutdownRest s
  | .nvmChunkWrite res => Sys2Proof.Machine.execNvmChunkWrite res s
  | .scrubStepDue => Sys2Proof.Machine.execScrubStepDue s
  | .wearSave => Sys2Proof.Machine.execWearSave s
  | .firmwareImageWrite => Sys2Proof.Machine.execFirmwareImageWrite s
  | .rigWrite => Sys2Proof.Machine.execRigWrite s
  | .mramScrub => Sys2Proof.Machine.execMramScrub s
  | .journalCompaction => Sys2Proof.Machine.execJournalCompaction s
  | .sramBankTest bad => Sys2Proof.Machine.execSramBankTest bad s
  | .logExport => Sys2Proof.Machine.execLogExport s
  | .capsizeDump cox stack res => Sys2Proof.Machine.execCapsizeDump cox stack res s
  | .offStateDiagnostics => Sys2Proof.Machine.execOffStateDiagnostics s
  | .encoderCalibration => Sys2Proof.Machine.execEncoderCalibration s
  | .maintenanceActivityEnd act crew => Sys2Proof.Machine.execMaintenanceActivityEnd act crew s
  | .fwConfirm v => Sys2Proof.Machine.execFwConfirm v s
  | .lcsWrite v => Sys2Proof.Machine.execLcsWrite v s
  | .seSwapGo v => Sys2Proof.Machine.execSeSwapGo v s
  | .liveReplacementInstant => Sys2Proof.Machine.execLiveReplacementInstant s
  | .liveSwapTimeout => Sys2Proof.Machine.execLiveSwapTimeout s
  | .coxException cox stack res => Sys2Proof.Machine.execCoxException cox stack res s
  | .firmwareAssertion cox stack res => Sys2Proof.Machine.execFirmwareAssertion cox stack res s
  | .gpioOutWrite owner v => Sys2Proof.Machine.execGpioOutWrite owner v s
  | .gpioOeWrite owner v => Sys2Proof.Machine.execGpioOeWrite owner v s
  | .auxCfgWrite a v => Sys2Proof.Machine.execAuxCfgWrite a v s
  | .auxStart a => Sys2Proof.Machine.execAuxStart a s
  | .auxConversion a v => Sys2Proof.Machine.execAuxConversion a v s
  | .auxResult a => Sys2Proof.Machine.execAuxResult a s
  | .auxResRead a => Sys2Proof.Machine.execAuxResRead a s
  | .tapReset => Sys2Proof.Machine.execTapReset s
  | .idcode => Sys2Proof.Machine.execIdcode s
  | .samplePreload pins tdi => Sys2Proof.Machine.execSamplePreload pins tdi s
  | .extest pins tdi => Sys2Proof.Machine.execExtest pins tdi s
  | .clamp => Sys2Proof.Machine.execClamp s
  | .highz => Sys2Proof.Machine.execHighz s
  | .chal => Sys2Proof.Machine.execChal s
  | .answer data => Sys2Proof.Machine.execAnswer data s
  | .rload slot off data res => Sys2Proof.Machine.execRload slot off data res s
  | .sysrst => Sys2Proof.Machine.execSysrst s
  | .keywr target data => Sys2Proof.Machine.execKeywr target data s
  | .bypass tdi => Sys2Proof.Machine.execBypass tdi s
  | .rtcLRead => Sys2Proof.Machine.execRtcLRead s
  | .masterCntclr v => Sys2Proof.Machine.execMasterCntclr v s
  | .testN low => Sys2Proof.Machine.execTestN low s
  | .xtal32Stable => Sys2Proof.Machine.execXtal32Stable s
  | .quadratureEdge j e => Sys2Proof.Machine.execQuadratureEdge j e s
  | .tileInterlockRelease k w => Sys2Proof.Machine.execTileInterlockRelease k w s
  | .tileOvertempShutdown k w driver isOver => Sys2Proof.Machine.execTileOvertempShutdown k w driver isOver s

end Sys2Proof.Machine
end

