-- ==== Sys2Proof/Machine/Balls.lean ====
section
/-! DEFINITION. Machine/Balls.lean: the balls of the boundary register and the levels that the device drives on them, in reset
and off, in operation, and under EXTEST, CLAMP and HIGHZ (R298, R378, R408, R504 to R507, R519, R524). Nothing in a step reads
these levels: they are what the board sees of a state. -/
namespace Sys2Proof.Machine

/-- The balls of the VAON and VIO banks that the boundary register covers (R504 to R506, R524). The second argument of the
position pairs tells the − ball; the first one of the safety outputs tells channel B. -/
inductive Ball where
  | rstN | pfailN | wakeN | rigSel (b : Nat) | bootMode | bypHold | bypSense
  | emgN (b : Nat) | mpSck | mpCsN | mpIo (b : Nat) | mpAttnN | mdc | mdio | phyrstN (p : Nat)
  | ftx (j : Nat) | frx (j : Nat) | fde (j : Nat)
  | pa (j : Nat) (neg : Bool) | pb (j : Nat) (neg : Bool) | pz (j : Nat) (neg : Bool)
  | gpio (g : Nat)
  | si (b : Bool) (i : Nat) | sto (b : Bool) (i : Nat) | sbo (b : Bool) (i : Nat) | tpo (j : Nat)
  deriving DecidableEq, Repr

/-- The rows of one block of position and field ports, columns ascending (R505). -/
def blockBalls (b : Nat) : List Ball :=
  let row (p : Nat → Bool → Ball) (f : Nat → Ball) : List Ball :=
    [p b false, p b true, f b, f (b + 8), p (b + 8) false, p (b + 8) true]
  row .pa .ftx ++ row .pb .frx ++ row .pz .fde

/-- The covered balls in ball order: rows A to AY, columns ascending (R504 to R506, R524). -/
def boundaryBalls : List Ball :=
  let asc := List.range 8
  (List.range 8).flatMap blockBalls ++
  -- AL, AM, AN
  asc.map (Ball.si false) ++ [.tpo 0, .tpo 2] ++ asc.reverse.map (Ball.si true) ++
  asc.map (Ball.sto false) ++ [.tpo 1, .tpo 3] ++ asc.reverse.map (Ball.sto true) ++
  asc.map (Ball.sbo false) ++ asc.reverse.map (Ball.sbo true) ++
  -- AT, AU, AY
  (List.range 32).map Ball.gpio ++
  [.mpSck, .mpCsN, .mpIo 0, .mpIo 1, .mpIo 2, .mpIo 3, .mpAttnN, .mdc, .mdio, .phyrstN 0, .phyrstN 1, .emgN 0, .emgN 1] ++
  [.rstN, .pfailN, .wakeN, .rigSel 0, .rigSel 1, .rigSel 2, .bootMode, .bypHold, .bypSense]

/-- The driver that a ball's output and enable cells reach: none of an input, none of the safety outputs and BYP_HOLD (R524). -/
def Ball.cellDriven : Ball → Bool
  | .mpIo _ | .mpAttnN | .mdc | .mdio | .phyrstN _ | .ftx _ | .fde _ | .pa _ _ | .gpio _ | .tpo _ => true
  | _ => false

/-- Balls that stay low throughout EXTEST, CLAMP and HIGHZ (R524). -/
def Ball.heldLow : Ball → Bool
  | .bypHold | .sto _ _ | .sbo _ _ => true
  | _ => false

/-- FTX of a port: the character bit on the line while a request is sent, else high (R407, R409, R507). -/
def State.ftxHigh (s : State) (j : Nat) : Bool :=
  let f := s.fport j
  let bits := 10 * f.out.length
  let start := f.reqEnd - s.bitTimes j bits
  if !s.domainRun 6 || s.now < start || f.reqEnd ≤ s.now then true
  else
    let i := (s.now - start) * 60 / s.bitTime60 j
    if i % 10 = 0 then false else if i % 10 = 9 then true else (f.out.getD (i / 10) 0).getLsbD (i % 10 - 1)

/-- MDC: low while its domain is off; half a period low and half high while an operation runs (R370, R507; low in between is a
DESIGN CHOICE, assumption log 90). -/
def State.mdcHigh (s : State) : Bool :=
  s.domainRun 5 && s.bit F.RING_MDIO_STAT_BUSY && ((s.now - s.ring.mdioAt) / (2 * (s.get F.RING_MDC_DIV + 1))) % 2 == 1

/-- GPIO[g]: a functional brake output is driven by its profile unit, another pin where OE is 1; none is the driver off
(R518, R519). -/
def State.gpioDrive (s : State) (g : Nat) : Option Bool :=
  if !s.domainRun 3 then none
  else if s.bitAt F.GPIO_BRK_BRK g then some (s.brkPins.testBit g && s.bitAt F.GPIO_IN_IN g)
  else if s.bitAt F.GPIO_OE_OE g then some (s.bitAt F.GPIO_OUT_OUT g)
  else none

/-- What the device drives on a ball in operation, and while the ball's domain is off or in reset (R507); none where its driver
is off or it is an input. The serial data of MDIO, MP_IO and the position pairs are not held as levels. -/
def State.ballFunc (s : State) : Ball → Option Bool
  | .bypHold => some (s.powered && s.bit F.RING_BYP_HOLD)
  | .mpAttnN => some s.mpAttnN
  | .mdc => some s.mdcHigh
  | .phyrstN p => some (s.phyrstN p)
  | .ftx j => some (s.ftxHigh j)
  | .fde j => some (s.fdeHigh j)
  | .gpio g => s.gpioDrive g
  | .sto b i => some (s.domainRun (if b then 2 else 1) && ((s.isl b).grp i).high)
  | .sbo b i => some (s.domainRun (if b then 2 else 1) && (s.isl b).sbo.testBit i)
  | .tpo j => some (s.domainRun (if 2 ≤ j then 2 else 1) && s.bitAt F.SAFETY_MISC_TPOACT j)
  | _ => none

/-- The boundary cells drive the balls: EXTEST or CLAMP is in force (R523, R525). -/
def State.cellsDrive (s : State) : Bool := s.rstBy.contains 9 && (s.tap.ir == 3 || s.tap.ir == 4)

/-- Every driver is off: HIGHZ is in force. -/
def State.cellsOff (s : State) : Bool := s.rstBy.contains 9 && s.tap.ir == 5

/-- The level that the device drives on a ball, none where the driver is off. Cells lie three to a ball in ball order, input,
output and enable, nearest TDI first (R524). -/
def State.ballLevel (s : State) (b : Ball) : Option Bool :=
  if !s.cellsDrive && !s.cellsOff then s.ballFunc b
  else if b.heldLow then some false
  else if s.cellsOff || !b.cellDriven then none
  else
    let i := 3 * boundaryBalls.findIdx (· == b)
    if s.tap.boundary.testBit (i + 2) then some (s.tap.boundary.testBit (i + 1)) else none

end Sys2Proof.Machine
end

