-- ==== Sys2Proof/Safety.lean ====
section
/-! DEFINITION. Safety.lean: what counts as a safe run, in the terms that statements use. -/
namespace Sys2Proof.Machine

/-- A command completes in a state: it answers a next state. -/
def Completes (c : Instr) (s : State) : Prop := ∃ t, exec c s = .next t

/-- Every command of a queue completes, one after the other. -/
def SafeRun : List Instr → State → Prop
  | [], _ => True
  | c :: l, s => ∃ t, exec c s = .next t ∧ SafeRun l t

/-- The word of pair p's instruction memory at the PC of its running task (R93, R97). -/
def State.fetchWord (s : State) (p : PairNo) : Option Word :=
  (s.running p).map (fun k => BitVec.ofNat 32 (cellWord (s.pair p).imem (s.task k).ctx.pc.toNat 4))

/-- The instruction that pair p issues is the one its instruction memory holds. -/
def Fetched (p : PairNo) (c : Instr) (s : State) : Prop := (s.fetchWord p).bind (onnusDecode p) = some c

/-! ### What every command keeps -/
/-- The bounds and canonical forms that hold in every state a run reaches: memory and the register list are canonical, the fault
table has at most 64 entries (R38), the Cox log buffer at most 512 (R480), the maintenance queue at most 4 requests (R483), the
local port at most 2 frames (R362), reassembly at most 4 (R327), and 4,096 accepted sequences are kept (R337). -/
structure State.Inv (s : State) : Prop where
  mem : Memory.wf s.mem
  regs : mwf resetVal s.regs = true
  faults : s.faults.length ≤ 64
  logBuf : s.logBuf.length ≤ 512
  maintQ : s.maintQ.length ≤ 4
  mpRx : s.mpRx.length ≤ 2
  reasm : s.reasm.length ≤ 4
  accHist : s.accHist.length ≤ 4096

/-- What lies between a state and a later one: the queue is the same, time has not run back, no free value is taken twice, and
the bounds still hold. -/
structure Keeps (s t : State) : Prop where
  pending : t.pending = s.pending
  now : s.now ≤ t.now
  freeCount : s.freeCount ≤ t.freeCount
  inv : s.Inv → t.Inv

/-! ### Words that the statements use -/
/-- The domain of the window of the register at `a` runs, so that the Cox may write it (R25). -/
def State.up (s : State) (a : Nat) : Prop := s.windowOn (winOf a) = true

/-- The fault has an entry in the fault table (R38). -/
def State.hasFault (s : State) (code inst : Nat) : Prop := ∃ e ∈ s.faults, e.code = code ∧ e.inst = inst

/-- Every byte of memory reads the same. -/
def SameMem (s t : State) : Prop := ∀ a, t.byteAt a = s.byteAt a

/-- Every register but those listed reads the same. -/
def SameRegs (l : List Nat) (s t : State) : Prop := ∀ a, a ∉ l → t.rd a = s.rd a

/-- Pair p is at an instruction boundary of a task that has budget left, no claim of its is unanswered (R35), and the instruction
word it reads has no memory error (R44): it issues an instruction (R93, R100, R106). -/
structure Issues (p : PairNo) (key : Nat) (s : State) : Prop where
  runs : s.pairRuns p = true
  task : s.running p = some key
  left : (s.task key).budLeft ≠ 0
  answered : (s.pair p).claimWait = false
  word : s.memRead p false (s.task key).ctx.pc.toNat 4 = some s

/-- The context of a task. -/
def State.ctx (s : State) (key : Nat) : Ctx := (s.task key).ctx

/-- Instruction i completes in state s: from t, which is s with the instruction's effect outside the task, it retires with the
context c, the PC and loop state moving on, in cyc cycles (R54, R100, R122). -/
def Does (p : PairNo) (key : Nat) (i : Instr) (s t : State) (c : Ctx) (cyc : Nat) : Prop :=
  exec i s = .next (t.retire p key (c.step .seq) cyc)

/-- Instruction i traps in state s (R55, R92, R104). -/
def Traps (key : Nat) (i : Instr) (s : State) (code soft : Nat) (tval : Word) : Prop :=
  exec i s = .next (s.trap key code soft tval)

/-- The loads of R118: the instruction, the bytes it reads, and the register it sets. -/
def loadForms (p : PairNo) (gd gs1 : BitVec 5) (imm : BitVec 15) : List (Instr × Nat × (Ctx → Nat → Ctx)) :=
  [(.ldw p gd gs1 imm, 4, fun c v => c.setG gd (BitVec.ofNat 32 v)),
   (.ldh p gd gs1 imm, 2, fun c v => c.setG gd ((BitVec.ofNat 16 v).signExtend 32)),
   (.ldhu p gd gs1 imm, 2, fun c v => c.setG gd (BitVec.ofNat 32 v)),
   (.ldb p gd gs1 imm, 1, fun c v => c.setG gd ((BitVec.ofNat 8 v).signExtend 32)),
   (.ldbu p gd gs1 imm, 1, fun c v => c.setG gd (BitVec.ofNat 32 v)),
   (.flw p gd gs1 imm, 4, fun c v => c.setF gd (BitVec.ofNat 32 v))]

/-- The stores of R118: the instruction, the bytes it writes, and the register they come from. -/
def storeForms (p : PairNo) (gd gs1 : BitVec 5) (imm : BitVec 15) : List (Instr × Nat × (Ctx → Word)) :=
  [(.stw p gd gs1 imm, 4, fun c => c.gr gd), (.sth p gd gs1 imm, 2, fun c => c.gr gd),
   (.stb p gd gs1 imm, 1, fun c => c.gr gd), (.fsw p gd gs1 imm, 4, fun c => c.fr gd)]

/-- The branches of R120 with their conditions. -/
def branchForms (p : PairNo) (gs1 gs2 : BitVec 5) (off : BitVec 15) : List (Instr × (Word → Word → Bool)) :=
  [(.beq p gs1 gs2 off, fun a b => a == b), (.bne p gs1 gs2 off, fun a b => a != b),
   (.blt p gs1 gs2 off, fun a b => a.slt b), (.bge p gs1 gs2 off, fun a b => !a.slt b),
   (.bltu p gs1 gs2 off, fun a b => a.ult b), (.bgeu p gs1 gs2 off, fun a b => !a.ult b)]

/-- Instruction i completes as a taken branch or jump to t. -/
def Jumps (p : PairNo) (key : Nat) (i : Instr) (s : State) (c : Ctx) (t : BitVec 16) : Prop :=
  exec i s = .next (s.retire p key (c.step (.jump t)) 2)

end Sys2Proof.Machine
end

