-- ==== Sys2Proof/Certificates/Slice0/Obligations.lean ====
section
/-! DEFINITION. Certificates/Slice0/Obligations.lean: the statements for the provers. -/
section
open Sys2Proof Sys2Proof.Machine
set_option linter.unusedVariables false

/-- A step takes the command at the front of the queue and is its execution on the state with the rest of the queue. -/
def Obligations.StepRunsFront : Prop :=
  ∀ (c : Instr) (l : List Instr) (s : State), s.pending = c :: l → step s = exec c { s with pending := l }

/-- With an empty queue a step only lets 1.25 ns pass. The model's choice (assumption log 1), not a rule of the
specification. -/
def Obligations.StepIdlePasses : Prop :=
  ∀ s : State, s.pending = [] → step s = .next (s.advance 1) ∧ (s.advance 1).now = s.now + 1

/-- After reset no command waits, no fault is active, every register holds the reset value of its table, every resource is
free, pairs are OFF and crews UNUSED. SYS.ID reads 0x0640 and 0x01 in its fields. -/
def Obligations.ResetQueueMemory : Prop :=
  State.reset.pending = [] ∧ State.reset.faults = [] ∧ (∀ a, State.reset.rd a = resetVal a) ∧
  (∀ r, State.reset.ownerOf r = 0) ∧ State.reset.pairSt 0 = pOFF ∧ (∀ n, n < 32 → State.reset.crewState n = cUNUSED) ∧
  State.reset.rd R.SYS_ID = 0x06400100#32

/-- Memory and registers are canonical and every bounded list is within its bound in the state after reset. -/
def Obligations.ResetInvariant : Prop :=
  State.reset.Inv

/-- For every state with canonical memory and registers, at most 64 faults, 512 buffered log records, 4 queued maintenance
requests, 2 frames at the local port, 4 reassemblies and 4,096 accepted sequences, every step leaves a state that has them
too; time does not run back, no free value is taken twice, and exactly the front command has left the queue. -/
def Obligations.StepKeepsInvariant : Prop :=
  ∀ s t : State, s.Inv → step s = .next t →
    t.Inv ∧ s.now ≤ t.now ∧ s.freeCount ≤ t.freeCount ∧ t.pending = s.pending.drop 1

/-- Whatever the command, its operands and the state, the command answers a next state, never a fault or a refusal: a
command that the state does not list leaves the state unchanged (R13). The command never touches the queue of waiting
commands. -/
def Obligations.EveryCommandCompletes : Prop :=
  ∀ (c : Instr) (s : State), ∃ t : State, exec c s = .next t ∧ t.pending = s.pending ∧ s.now ≤ t.now ∧ (s.Inv → t.Inv)

/-- A claim on a free resource succeeds and records the owner; the holder claiming again changes nothing; a claim on
another owner's resource and a release by any but the holder are refused and change nothing; a release by the holder frees
it; no other resource changes its owner. A request that names an invalid resource ID is refused and changes nothing. -/
def Obligations.ClaimTableRule : Prop :=
  (∀ (s : State) (r : Bool) (owner res : Nat), validRes res = false → s.claimOp r owner res = (.badId, s)) ∧
  ∀ (s : State) (owner res : Nat), validRes res = true → owner ≠ 0 →
    (s.ownerOf res = 0 → (s.claimOp false owner res).1 = .done ∧ (s.claimOp false owner res).2.ownerOf res = owner) ∧
    (s.ownerOf res = owner → s.claimOp false owner res = (.done, s)) ∧
    (s.ownerOf res ≠ 0 → s.ownerOf res ≠ owner → s.claimOp false owner res = (.conflict, s)) ∧
    (s.ownerOf res ≠ owner → s.claimOp true owner res = (.notOwner, s)) ∧
    (s.ownerOf res = owner → (s.claimOp true owner res).1 = .done ∧ (s.claimOp true owner res).2.ownerOf res = 0) ∧
    (∀ (r : Bool) (q : Nat), q ≠ res →
      (s.claimOp r owner res).2.ownerOf q = s.ownerOf q)

/-- With the claim unit idle, a claim or release by owner 0x01 or 0x40 waits as a request and BUSY reads 1; any other
owner code gets RESULT 3 and fault 0x0112. The claim table takes the oldest request, of those that came in one cycle the
one of the lowest owner code; it clears BUSY for the Cox and enters the fault of a refused one; a task that waits gets its
result and goes on. A DMA length that meets the rules commits base and length together; another enters fault 0x0113.
CNT_CLR clears the corrected-error count, the overflow count, or both counts of a retry class, and nothing else.
Completes: claimReqClaim, claimReqRelease, claimTableRequest, dmaLenWrite, cntClrEcc, cntClrOvf, cntClrRetry. -/
def Obligations.SysCommands : Prop :=
  (∀ (s : State) owner res, s.up R.SYS_CLAIM_REQ → s.bit F.SYS_CLAIM_STAT_BUSY = false → owner = 1 ∨ owner = 0x40 →
    exec (.claimReqClaim owner res) s = .next (State.putB { s with claimReqs := s.claimReqs ++
      [{ cox := true, release := false, owner := owner.toNat, res := res.toNat, at0 := s.now }] } F.SYS_CLAIM_STAT_BUSY true) ∧
    exec (.claimReqRelease owner res) s = .next (State.putB { s with claimReqs := s.claimReqs ++
      [{ cox := true, release := true, owner := owner.toNat, res := res.toNat, at0 := s.now }] } F.SYS_CLAIM_STAT_BUSY true)) ∧
  (∀ (s : State) owner res, s.up R.SYS_CLAIM_REQ → s.bit F.SYS_CLAIM_STAT_BUSY = false → owner ≠ 1 → owner ≠ 0x40 →
    exec (.claimReqClaim owner res) s = .next (((s.put F.SYS_CLAIM_STAT_RESULT 3).put F.SYS_CLAIM_STAT_HOLDER
      (s.ownerOf res.toNat)).fault 0x0112 res.toNat)) ∧
  (∀ l q, firstClaim l = some q → q ∈ l ∧ ∀ x ∈ l, q.at0 < x.at0 ∨ (q.at0 = x.at0 ∧ q.owner ≤ x.owner)) ∧
  (∀ (s : State) q r u, firstClaim s.claimReqs = some q → q.cox = true → q.pair = none →
    State.claimOp { s with claimReqs := s.claimReqs.erase q } q.release q.owner q.res = (r, u) →
    exec .claimTableRequest s =
      let v := u.auxShow.trainPorts
      let t := ((v.putB F.SYS_CLAIM_STAT_BUSY false).put F.SYS_CLAIM_STAT_RESULT r.code).put F.SYS_CLAIM_STAT_HOLDER
        (v.ownerOf q.res)
      .next (if r = .done then t else t.fault r.faultCode q.res)) ∧
  (∀ (s : State) q r u p, firstClaim s.claimReqs = some q → q.cox = false → q.pair = some p →
    State.claimOp { s with claimReqs := s.claimReqs.erase q } q.release q.owner q.res = (r, u) →
    (u.auxShow.trainPorts.pair p).claimWait = true →
    exec .claimTableRequest s = .next (u.auxShow.trainPorts.claimEnd p r q.res)) ∧
  (∀ (s : State) len, s.up R.SYS_DMA_LEN →
    s.dmaOk (s.get F.SYS_DMA_SEL_IDX) (s.get F.SYS_DMA_BASE_ADDR * 8) len.toNat = true →
    exec (.dmaLenWrite len) s = .next (State.put
      { s with dma := (mset (0, 0) s.dma (s.get F.SYS_DMA_SEL_IDX) (s.get F.SYS_DMA_BASE_ADDR * 8, len.toNat)) }
      F.SYS_DMA_LEN_LEN len.toNat)) ∧
  (∀ (s : State) len, s.up R.SYS_DMA_LEN →
    s.dmaOk (s.get F.SYS_DMA_SEL_IDX) (s.get F.SYS_DMA_BASE_ADDR * 8) len.toNat = false →
    exec (.dmaLenWrite len) s = .next (s.fault 0x0113 (s.get F.SYS_DMA_SEL_IDX))) ∧
  (∀ (s : State), s.up R.SYS_CNT_CLR → exec .cntClrEcc s = .next (s.wr R.SYS_ECC_CE 0) ∧
    exec .cntClrOvf s = .next (s.wr R.SYS_FLT_OVF 0) ∧
    (∀ k, exec (.cntClrRetry k) s = .next ((s.wr (R.SYS_RETRY_T k) 0).wr (R.SYS_RETRY_L k) 0)))

/-- An ACTIVE or HOST pair is fenced at a mismatch (0x0201) or an uncorrectable error (0x0202); a spare, or a pair in
test, fails. A spare starts its self-test, 1 s after the one before. A restore ends T_r after the failure: the tasks
start, and RESULT and fault 0x0203 are given; where the image cannot be read it is abandoned. The end of a reload starts
the lost tasks at ENTRY; where the image cannot be read the home pair's crews stop with cause 0x0209. RETEST brings a
fenced pair to TEST; a pass makes it SPARE with its own home, a failure FAILED with fault 0x0208. The 1 s before the first
self-test counts from reset (assumption log 66). Completes: seMismatch, seMemUe, restoreComplete, domainReloadComplete,
seRetest, spareSelfTest, selfTestComplete. -/
def Obligations.PairEvents : Prop :=
  (∀ (s : State) (p : PairNo), s.domainRun (pairDomain p) = true → s.pairSt p = pACTIVE ∨ s.pairSt p = pHOST →
    exec (.seMismatch p) s = .next (s.fencePair p 0x0201) ∧ exec (.seMemUe p) s = .next (s.fencePair p 0x0202)) ∧
  (∀ (s : State) (p : PairNo), s.domainRun (pairDomain p) = true → s.pairSt p = pSPARE ∨ s.pairSt p = pTEST →
    exec (.seMismatch p) s = .next ((s.incSat (F.SE_PAIR_STAT_MISM p)).selfTestFail p) ∧
    exec (.seMemUe p) s = .next ((s.incSat (F.SE_PAIR_STAT_MISM p)).selfTestFail p)) ∧
  (∀ (s : State) (p : PairNo), s.domainRun (pairDomain p) = true → s.pairSt p = pSPARE → (s.pair p).testing = false →
    exec (.spareSelfTest p) s = .next ((s.until ((s.pair p).testAt + 1000 * msCounts)).setPair p
      { s.pair p with testing := true, testAt := (s.until ((s.pair p).testAt + 1000 * msCounts)).now })) ∧
  (∀ (s : State) (p : PairNo) t b stopped u, s.pairSt p = pHOST → (s.pair p).restoring = true → s.buildMem p (s.homeOf p) = some t →
    State.restoreTasks (t.until ((t.pair p).failedAt + restoreCounts (t.restoreBytes (s.homeOf p)))) p (s.homeOf p) =
      (b, stopped, u) →
    exec (.restoreComplete p) s = .next (u.restoreEnd p (s.homeOf p) b stopped)) ∧
  (∀ (s : State) q home b stopped, ∃ u : State, s.restoreEnd q home b stopped = u.fault 0x0203 (u.pair q).failed ∧
    u.get F.SE_TAKE_LAST_RESULT = (if stopped then 3 else 1)) ∧
  (∀ (s : State) (p : PairNo), s.pairSt p = pHOST → (s.pair p).restoring = true → s.buildMem p (s.homeOf p) = none →
    exec (.restoreComplete p) s = .next (s.abandonRestore p (s.homeOf p))) ∧
  (∀ (s : State) (p : PairNo) t, (s.pair p).reloading = true →
    (s.setPair p { s.pair p with reloading := false }).buildMem p (s.homeOf p) = some t →
    let u := t.until ((t.pair p).failedAt +
      restoreCounts ((t.image (s.homeOf p)).imemSize + (t.image (s.homeOf p)).dmemSize + (t.image (s.homeOf p)).bssSize))
    exec (.domainReloadComplete p) s =
      .next (loopL ((homeTasks (s.homeOf p)).filter (fun k => (u.task k).lost)) (fun k s => s.startInitial k) u)) ∧
  (∀ (s : State) (p : PairNo), (s.pair p).reloading = true →
    (s.setPair p { s.pair p with reloading := false }).buildMem p (s.homeOf p) = none →
    let u := s.setPair p { s.pair p with reloading := false }
    exec (.domainReloadComplete p) s =
      .next (loopL (u.homeCrews (s.homeOf p)) (fun n s => s.faultStopAny n 0x0209)
        ((u.fault 0x0209 (s.homeOf p)).loseTasks (s.homeOf p)))) ∧
  (∀ (s : State) v w u, s.up R.SE_CTL → s.takeWord R.SE_CTL v = (w, u) → w.getLsbD 0 = true → bitsOf w.toNat 7 4 < 9 →
    (u.put F.SE_CTL_TPAIR (bitsOf w.toNat 7 4)).pairSt (bitsOf w.toNat 7 4) = pFENCED →
    let t := u.put F.SE_CTL_TPAIR (bitsOf w.toNat 7 4)
    exec (.seRetest v) s = .next ((t.setPair (bitsOf w.toNat 7 4)
      { t.pair (bitsOf w.toNat 7 4) with testing := true }).setPairSt (bitsOf w.toNat 7 4) pTEST)) ∧
  (∀ (s : State) (p : PairNo), s.pairSt p = pTEST →
    exec (.selfTestComplete p true) s = .next (((s.setPair p { s.pair p with testing := false, testAt := s.now }).put
      (F.SE_PAIR_STAT_HOME p) p.val).setPairSt p pSPARE) ∧
    exec (.selfTestComplete p false) s = .next (s.selfTestFail p)) ∧
  (∀ (s : State) (p : PairNo), s.selfTestFail p =
    ((s.setPair p { s.pair p with testing := false }).setPairSt p pFAILED).fault 0x0208 p)

/-- Where a spare pair with its domain on exists, the lowest one starts at that instant to restore the home pair of the
fenced pair, and SE.TAKE_LAST names the host and the pair that failed (a fenced host is named by its own number:
assumption log 64). Where none exists, the home pair loses its tasks, RESULT is 2, fault 0x0205 is entered and its crews
stop. -/
def Obligations.TakeOver : Prop :=
  (∀ (s : State) (p home q : Nat), p < 16 →
    (List.range 9).find? (fun q => s.pairSt q == pSPARE && s.domainRun (pairDomain q)) = some q →
    ((s.takeOver p home).pair q).restoring = true ∧ ((s.takeOver p home).pair q).failed = p ∧
    ((s.takeOver p home).pair q).failedAt = s.now ∧ (s.takeOver p home).get F.SE_TAKE_LAST_HOST = q ∧
    (s.takeOver p home).get F.SE_TAKE_LAST_HOME = p) ∧
  (∀ (s : State) (p home : Nat),
    (List.range 9).find? (fun q => s.pairSt q == pSPARE && s.domainRun (pairDomain q)) = none →
    s.takeOver p home = loopL (s.homeCrews home)
      (fun n s => (s.setCrew n { s.crew n with takeover := false }).faultStop n 0x0205)
      ((((s.loseTasks home).put F.SE_TAKE_LAST_RESULT 2).put F.SE_TAKE_LAST_HOME p).fault 0x0205 p))

/-- A pair with no running task runs its highest ready task, charged 12 cycles for the context restore. A ready task of a
lower number preempts the running one, which becomes ready and costs 12 cycles for its save; nothing else changes; a ready
task of a higher number does not. A context slot with an uncorrectable error is a pair fault. A running task with no
budget left ends with fault 0x0211. A timer expiry, at the instant the timer is due, is delivered to every task bound to
the timer; a one-shot timer clears EN, another is due a period later. Completes: taskDispatch, taskPreempt, taskBudget,
timerExpiry. -/
def Obligations.TaskScheduling : Prop :=
  (∀ (s : State) (p : PairNo) k, s.pairRuns p = true → s.running p = none → s.nextReady p = some k →
    touchW (s.pair p).ue true (ctxSlot k) 384 = false →
    touchW (s.pair p).ce true (ctxSlot k) 384 = false →
    exec (.taskDispatch p) s = .next ((s.spend p 12).setTask k
      { s.task k with st := .running, begun := true, budLeft := (s.task k).budLeft - 12 })) ∧
  (∀ (s : State) (p : PairNo) k r, (s.pair p).claimWait = false → s.pairRuns p = true → s.running p = some r → s.nextReady p = some k →
    k < r → touchW (s.pair p).ue true (ctxSlot k) 384 = false →
    touchW (s.pair p).ce true (ctxSlot k) 384 = false →
    ∃ t : State, exec (.taskPreempt p) s = .next t ∧ t.task r = { s.task r with st := .ready } ∧
      t.task k = { s.task k with st := .running, begun := true, budLeft := (s.task k).budLeft - 12 } ∧
      (t.pair p).cycle = (s.pair p).cycle + 24 ∧ (∀ q, q ≠ p.val → t.pair q = s.pair q) ∧
      (∀ j, j ≠ r → j ≠ k → t.task j = s.task j) ∧ SameMem s t ∧ SameRegs [] s t) ∧
  (∀ (s : State) (p : PairNo) k r, (s.pair p).claimWait = false → s.pairRuns p = true → s.running p = some r → s.nextReady p = some k →
    ¬ k < r → exec (.taskPreempt p) s = .next s) ∧
  (∀ (s : State) (p : PairNo) k, s.memRead p true (ctxSlot k) 384 = none →
    s.startTask p k = s.pairFault p 0x0202) ∧
  (∀ (s : State) (p : PairNo) k, (s.pair p).claimWait = false → s.pairRuns p = true → s.running p = some k → (s.task k).budLeft = 0 →
    exec (.taskBudget p) s = .next (s.trap k 0x0211 0 0)) ∧
  (∀ (s : State) (k : Fin 64), s.bit (F.SE_TMR_CTL_EN k) = true → s.bit (F.SE_TMR_CTL_ONESHOT k) = true →
    ∃ u : State, u = (s.until (mget 0 s.tmrDue k.val)).putB (F.SE_TMR_CTL_EN k) false ∧ u.bit (F.SE_TMR_CTL_EN k) = false ∧
      exec (.timerExpiry k) s = .next (loopL (u.tasksOf srcTimer (fun t => t.idx == k.val)) (fun t s => s.deliver t) u)) ∧
  (∀ (s : State) (k : Fin 64), s.bit (F.SE_TMR_CTL_EN k) = true → s.bit (F.SE_TMR_CTL_ONESHOT k) = false →
    ∃ u : State, u = { s.until (mget 0 s.tmrDue k.val) with
        tmrDue := mset 0 (s.until (mget 0 s.tmrDue k.val)).tmrDue k.val (mget 0 s.tmrDue k.val +
          (s.until (mget 0 s.tmrDue k.val)).tmrPeriod k) } ∧
      exec (.timerExpiry k) s = .next (loopL (u.tasksOf srcTimer (fun t => t.idx == k.val)) (fun t s => s.deliver t) u))

/-- The catch of a crew that is used, at the instant it is due, has the next sequence, 0 for the first; it completes the
ledger record before, latches what the rules name, and wakes the catch task: a WAITING one becomes READY with its full
budget and is given the instant, the sequence and the previous application; nothing else changes by that. The checkpoint
writer takes its oldest record and writes it to its slot in both banks; a record of the activation in force is then one of
the crew's captured sequences. Completes: crewCatch, checkpointRecordWrite. -/
def Obligations.CatchAndCheckpoint : Prop :=
  (∀ (s : State) (n : CrewNo) t, s.crewState n ≠ cUNUSED → (s.crew n).catchDue = some t →
    ∃ u : State, ∃ q, u = State.ledgerComplete ((s.advanceTb t).setCrew n { (s.advanceTb t).crew n with catchDue := none }) n ∧
      ((s.crew n).firstCatch = true → q = 0) ∧
      ((s.crew n).firstCatch = false → q = ((s.rd (R.CREW_CSEQ n)).toNat + 1) % 2 ^ 32) ∧
      exec (.crewCatch n) s = .next ((u.catchLatch n q).wakeCatch n q (u.prevAp n))) ∧
  (∀ (s : State) n seq prev key p, s.catchTask n = some key → (s.crew n).takeover = false → (s.task key).st = .waiting →
    s.execPair (key / 16) = some p → s.pairRuns p = true →
    let t := s.wakeCatch n seq prev
    (t.task key).st = .ready ∧ (t.task key).catchT = BitVec.ofNat 32 s.tb ∧ (t.task key).catchSeq = BitVec.ofNat 32 seq ∧
      (t.task key).prevAp = BitVec.ofNat 32 prev ∧ (t.task key).budLeft = (s.task key).budget ∧
      (∀ k, k ≠ key → t.task k = s.task k) ∧ SameMem s t ∧ SameRegs [] s t) ∧
  (∀ (s : State) (p : PairNo) c rest, (s.pair p).ckpt = c :: rest →
    let u := s.setPair p { s.pair p with ckpt := rest }
    let v := if c.gen = (u.crew c.crew).gen then u.setCrew c.crew { u.crew c.crew with
      caps := c.seq :: (u.crew c.crew).caps.filter (fun q => q.getLsbD 0 != c.seq.getLsbD 0) } else u
    let w := v.devWrite (ckptSlot (v.rd R.SE_CKPT_BASE_L).toNat c.crew c.seq.toNat) c.bytes
    exec (.checkpointRecordWrite p) s = .next (w.devWrite (ckptSlot (w.rd R.SE_CKPT_BASE_H).toNat c.crew c.seq.toNat) c.bytes))

/-- SE.MEM_DATA writes a word of an engine memory that is free and steps the address, or enters 0x0233 with no effect
(assumption log 67); a read corrects a single-bit error, returns the word and steps the address; a word that cannot be
read is a pair fault and reads as a free value; a pair number above 8 reads 0. SE.COEF_DATA sets the word of the loop
state or of a bank that is neither active nor pending; a write to the active bank enters 0x0240. Of CTRL a write sets FRZ
alone. SE.COEF_SWAP requests a swap. Completes: seMemDataWrite, seMemDataRead, coefDataWrite, coefSwap. -/
def Obligations.CoefficientStore : Prop :=
  (∀ (s : State) v, s.up R.SE_MEM_DATA → s.get F.SE_MEM_SEL_PAIR < 9 → s.seMemFree (s.get F.SE_MEM_SEL_PAIR) = true →
    ∃ u : State, s.memStore (s.get F.SE_MEM_SEL_PAIR) (s.bit F.SE_MEM_SEL_SPACE) (4 * s.get F.SE_MEM_ADDR_WORD) 4 = some u ∧
      exec (.seMemDataWrite v) s = .next ((u.setSeMemWord (s.get F.SE_MEM_SEL_PAIR) (s.bit F.SE_MEM_SEL_SPACE)
        (s.get F.SE_MEM_ADDR_WORD) v).incWrap F.SE_MEM_ADDR_WORD)) ∧
  (∀ (s : State) v, s.up R.SE_MEM_DATA → s.get F.SE_MEM_SEL_PAIR < 9 → s.seMemFree (s.get F.SE_MEM_SEL_PAIR) = false →
    exec (.seMemDataWrite v) s = .next (s.fault 0x0233 (s.get F.SE_MEM_SEL_PAIR))) ∧
  (∀ (s : State) u, s.up R.SE_MEM_DATA → s.get F.SE_MEM_SEL_PAIR < 9 →
    s.memRead (s.get F.SE_MEM_SEL_PAIR) (s.bit F.SE_MEM_SEL_SPACE) (4 * s.get F.SE_MEM_ADDR_WORD) 4 = some u →
    ∃ t : State, exec .seMemDataRead s = .next t ∧
    t.rdata = u.seMemWord (s.get F.SE_MEM_SEL_PAIR) (s.bit F.SE_MEM_SEL_SPACE) (s.get F.SE_MEM_ADDR_WORD) ∧
    SameMem u t ∧ SameRegs [R.SE_MEM_ADDR] u t) ∧
  (∀ (s : State) v, s.up R.SE_MEM_DATA → 9 ≤ s.get F.SE_MEM_SEL_PAIR →
    exec (.seMemDataWrite v) s = .next (s.incWrap F.SE_MEM_ADDR_WORD) ∧
    exec .seMemDataRead s = .next { s.incWrap F.SE_MEM_ADDR_WORD with rdata := 0 }) ∧
  (∀ (s : State) x u, s.up R.SE_MEM_DATA → s.get F.SE_MEM_SEL_PAIR < 9 → s.free = (x, u) →
    s.memRead (s.get F.SE_MEM_SEL_PAIR) (s.bit F.SE_MEM_SEL_SPACE) (4 * s.get F.SE_MEM_ADDR_WORD) 4 = none →
    exec .seMemDataRead s = .next { (u.pairFault (s.get F.SE_MEM_SEL_PAIR) 0x0202).incWrap F.SE_MEM_ADDR_WORD with
      rdata := BitVec.ofNat 32 x }) ∧
  (∀ (s : State) v, s.up R.SE_COEF_DATA → 8 ≤ s.get F.SE_COEF_SEL_WORD → ∃ t : State, exec (.coefDataWrite v) s = .next t ∧
    (s.get F.SE_COEF_SEL_WORD = 8 → t.loop (s.get F.SE_COEF_SEL_LOOP) = { s.loop (s.get F.SE_COEF_SEL_LOOP) with i := v }) ∧
    (s.get F.SE_COEF_SEL_WORD = 9 → t.loop (s.get F.SE_COEF_SEL_LOOP) = { s.loop (s.get F.SE_COEF_SEL_LOOP) with e := v }) ∧
    (s.get F.SE_COEF_SEL_WORD = 10 →
      t.loop (s.get F.SE_COEF_SEL_LOOP) = { s.loop (s.get F.SE_COEF_SEL_LOOP) with out := v }) ∧
    (∀ k, k ≠ s.get F.SE_COEF_SEL_LOOP → t.loop k = s.loop k) ∧ SameMem s t ∧ SameRegs [] s t) ∧
  (∀ (s : State) v, s.up R.SE_COEF_DATA → ∀ h : s.get F.SE_COEF_SEL_WORD < 6,
    s.bit F.SE_COEF_SEL_BANK ≠ (s.loop (s.get F.SE_COEF_SEL_LOOP)).actB → (s.loop (s.get F.SE_COEF_SEL_LOOP)).pend = false →
    ∃ t : State, exec (.coefDataWrite v) s = .next t ∧
      ((t.loop (s.get F.SE_COEF_SEL_LOOP)).bank (s.bit F.SE_COEF_SEL_BANK))[s.get F.SE_COEF_SEL_WORD] = v ∧
      (∀ k, k ≠ s.get F.SE_COEF_SEL_LOOP → t.loop k = s.loop k) ∧ SameMem s t ∧ SameRegs [] s t) ∧
  (∀ (s : State) v, s.up R.SE_COEF_DATA → s.get F.SE_COEF_SEL_WORD < 6 →
    s.bit F.SE_COEF_SEL_BANK = (s.loop (s.get F.SE_COEF_SEL_LOOP)).actB →
    exec (.coefDataWrite v) s = .next (s.fault 0x0240 (s.get F.SE_COEF_SEL_LOOP))) ∧
  (∀ (s : State) v, s.up R.SE_COEF_DATA → s.get F.SE_COEF_SEL_WORD = 11 → ∃ t : State, exec (.coefDataWrite v) s = .next t ∧
    t.loop (s.get F.SE_COEF_SEL_LOOP) = (s.loop (s.get F.SE_COEF_SEL_LOOP)).setCtrl 12 (v.getLsbD 12) ∧
    (v &&& 0xFFFF8180#32 = 0 → t.rsvWrites = s.rsvWrites) ∧ (∀ k, k ≠ s.get F.SE_COEF_SEL_LOOP → t.loop k = s.loop k)) ∧
  (∀ (s : State) v w u, s.up R.SE_COEF_SWAP → s.takeWord R.SE_COEF_SWAP v = (w, u) →
    exec (.coefSwap v) s = .next (u.swapReq (bitsOf w.toNat 9 0) (w.getLsbD 10)))

/-- A request naming the active bank cancels a pending swap, or changes nothing where none is pending. Any other request
sets PEND and PBANK for a loop of a crew in Run, and otherwise makes the bank active at once. No other loop changes. -/
def Obligations.SwapRequest : Prop :=
  ∀ (s : State) (id : Nat) (b : Bool),
    (b = (s.loop id).actB → (s.loop id).pend = false → s.swapReq id b = s) ∧
    (b = (s.loop id).actB → (s.loop id).pend = true → ((s.swapReq id b).loop id).pend = false ∧
      ((s.swapReq id b).loop id).actB = (s.loop id).actB) ∧
    (b ≠ (s.loop id).actB → (s.loop id).owner < 32 → s.crewState (s.loop id).owner = cRUN →
      ((s.swapReq id b).loop id).pend = true ∧ ((s.swapReq id b).loop id).pbankB = b ∧
      ((s.swapReq id b).loop id).actB = (s.loop id).actB) ∧
    (b ≠ (s.loop id).actB → ¬((s.loop id).owner < 32 ∧ s.crewState (s.loop id).owner = cRUN) →
      ((s.swapReq id b).loop id).actB = b ∧ ((s.swapReq id b).loop id).pend = false) ∧
    (∀ k, k ≠ id → (s.swapReq id b).loop k = s.loop k)

/-- An integer instruction of format A or B, issued with the task at a boundary and budget left, sets gd from its sources
modulo 2^32, sets no flag, changes no other register, moves the PC on and takes 1 cycle. Shift counts use the low 5 bits.
LUI sets the upper 20 bits. A write to g0 is discarded. CLZ counts leading zeros. Completes: add, sub, and, or, xor, sll,
srl, sra, slt, sltu, min, max, minu, maxu, clz, addi, andi, ori, xori, slti, sltiu, slli, srli, srai, lui. -/
def Obligations.OnnusInteger : Prop :=
  (∀ (s : State) p key gd gs1 gs2, Issues p key s → let c := s.ctx key; let a := c.gr gs1; let b := c.gr gs2
    Does p key (.add p gd gs1 gs2) s s (c.setG gd (a + b)) 1 ∧
    Does p key (.sub p gd gs1 gs2) s s (c.setG gd (a - b)) 1 ∧
    Does p key (.and p gd gs1 gs2) s s (c.setG gd (a &&& b)) 1 ∧
    Does p key (.or p gd gs1 gs2) s s (c.setG gd (a ||| b)) 1 ∧
    Does p key (.xor p gd gs1 gs2) s s (c.setG gd (a ^^^ b)) 1 ∧
    Does p key (.sll p gd gs1 gs2) s s (c.setG gd (a <<< (b.toNat % 32))) 1 ∧
    Does p key (.srl p gd gs1 gs2) s s (c.setG gd (a >>> (b.toNat % 32))) 1 ∧
    Does p key (.sra p gd gs1 gs2) s s (c.setG gd (a.sshiftRight (b.toNat % 32))) 1 ∧
    Does p key (.slt p gd gs1 gs2) s s (c.setG gd (if a.slt b then 1 else 0)) 1 ∧
    Does p key (.sltu p gd gs1 gs2) s s (c.setG gd (if a.ult b then 1 else 0)) 1 ∧
    Does p key (.min p gd gs1 gs2) s s (c.setG gd (if b.slt a then b else a)) 1 ∧
    Does p key (.max p gd gs1 gs2) s s (c.setG gd (if a.slt b then b else a)) 1 ∧
    Does p key (.minu p gd gs1 gs2) s s (c.setG gd (if b.ult a then b else a)) 1 ∧
    Does p key (.maxu p gd gs1 gs2) s s (c.setG gd (if a.ult b then b else a)) 1 ∧
    Does p key (.clz p gd gs1 0) s s (c.setG gd (BitVec.ofNat 32 (clz32 a))) 1) ∧
  (∀ (s : State) p key gd gs1 (imm : BitVec 15), Issues p key s → let c := s.ctx key; let a := c.gr gs1
    Does p key (.addi p gd gs1 imm) s s (c.setG gd (a + imm.signExtend 32)) 1 ∧
    Does p key (.andi p gd gs1 imm) s s (c.setG gd (a &&& imm.setWidth 32)) 1 ∧
    Does p key (.ori p gd gs1 imm) s s (c.setG gd (a ||| imm.setWidth 32)) 1 ∧
    Does p key (.xori p gd gs1 imm) s s (c.setG gd (a ^^^ imm.setWidth 32)) 1 ∧
    Does p key (.slti p gd gs1 imm) s s (c.setG gd (if a.slt (imm.signExtend 32) then 1 else 0)) 1 ∧
    Does p key (.sltiu p gd gs1 imm) s s (c.setG gd (if a.ult (imm.signExtend 32) then 1 else 0)) 1 ∧
    (imm.toNat < 32 →
    Does p key (.slli p gd gs1 imm) s s (c.setG gd (a <<< imm.toNat)) 1 ∧
    Does p key (.srli p gd gs1 imm) s s (c.setG gd (a >>> imm.toNat)) 1 ∧
    Does p key (.srai p gd gs1 imm) s s (c.setG gd (a.sshiftRight imm.toNat)) 1)) ∧
  (∀ (s : State) p key gd (imm : BitVec 20), Issues p key s →
    Does p key (.lui p gd imm) s s ((s.ctx key).setG gd (imm ++ 0#12)) 1) ∧
  (∀ (c : Ctx) (r q : BitVec 5) (v : Word), c.setG 0 v = c ∧ (r ≠ 0 → (c.setG r v).gr r = v) ∧
    (q ≠ r → (c.setG r v).gr q = c.gr q) ∧ (c.setG r v).f = c.f ∧ (c.setG r v).a = c.a ∧ (c.setG r v).fstat = c.fstat)

/-- MUL, MULH and MULHU give the low and the high word of a product in 1 cycle. DIV, DIVU, REM and REMU take 12 cycles;
division by 0 gives all ones, its remainder the dividend; the most negative number divided by -1 gives itself with
remainder 0. Completes: mul, mulh, mulhu, div, divu, rem, remu. -/
def Obligations.OnnusMulDiv : Prop :=
  ∀ (s : State) p key gd gs1 gs2, Issues p key s → let c := s.ctx key; let a := c.gr gs1; let b := c.gr gs2
    Does p key (.mul p gd gs1 gs2) s s (c.setG gd (a * b)) 1 ∧
    Does p key (.mulh p gd gs1 gs2) s s (c.setG gd (BitVec.ofInt 32 (a.toInt * b.toInt / 2 ^ 32))) 1 ∧
    Does p key (.mulhu p gd gs1 gs2) s s (c.setG gd (BitVec.ofNat 32 (a.toNat * b.toNat / 2 ^ 32))) 1 ∧
    (b = 0 → Does p key (.div p gd gs1 gs2) s s (c.setG gd (0xFFFFFFFF#32)) 12 ∧
      Does p key (.divu p gd gs1 gs2) s s (c.setG gd (0xFFFFFFFF#32)) 12 ∧
      Does p key (.rem p gd gs1 gs2) s s (c.setG gd (a)) 12 ∧
      Does p key (.remu p gd gs1 gs2) s s (c.setG gd (a)) 12) ∧
    (b ≠ 0 → ¬(a = 0x80000000#32 ∧ b = 0xFFFFFFFF#32) → Does p key (.div p gd gs1 gs2) s s (c.setG gd (a.sdiv b)) 12 ∧
      Does p key (.rem p gd gs1 gs2) s s (c.setG gd (a.srem b)) 12) ∧
    (a = 0x80000000#32 → b = 0xFFFFFFFF#32 → Does p key (.div p gd gs1 gs2) s s (c.setG gd (0x80000000#32)) 12 ∧
      Does p key (.rem p gd gs1 gs2) s s (c.setG gd (0)) 12) ∧
    (b ≠ 0 → Does p key (.divu p gd gs1 gs2) s s (c.setG gd (a / b)) 12 ∧
      Does p key (.remu p gd gs1 gs2) s s (c.setG gd (a % b)) 12)

/-- The Q31 and Q15 instructions compute exactly, clamp to 32 bits or each half to 16 bits, and set QSAT where a clamp
changes a value; QMUL, QMUL2 and QPACK round half up in an image of Onnus 2. A result within range leaves FSTAT as it was.
Completes: qadd, qsub, qmul, qneg, qabs, qshl, qshr, qadd2, qsub2, qmul2, qpack. -/
def Obligations.OnnusFixed : Prop :=
  (∀ (s : State) p key gd gs1 gs2, Issues p key s → let c := s.ctx key; let a := (c.gr gs1).toInt; let b := (c.gr gs2).toInt
    let n := (c.gr gs2).toNat % 32; let h1 := hiHalf (c.gr gs1); let h2 := hiHalf (c.gr gs2)
    let l1 := loHalf (c.gr gs1); let l2 := loHalf (c.gr gs2)
    Does p key (.qadd p gd gs1 gs2) s s (c.setGSat gd (a + b)) 1 ∧
    Does p key (.qsub p gd gs1 gs2) s s (c.setGSat gd (a - b)) 1 ∧
    Does p key (.qneg p gd gs1 0) s s (c.setGSat gd (-a)) 1 ∧
    Does p key (.qabs p gd gs1 0) s s (c.setGSat gd ((a.natAbs : Int))) 1 ∧
    Does p key (.qshl p gd gs1 gs2) s s (c.setGSat gd (a * 2 ^ n)) 1 ∧
    Does p key (.qshr p gd gs1 gs2) s s (c.setGSat gd (if n = 0 then a else (a + 2 ^ (n - 1)) / 2 ^ n)) 1 ∧
    Does p key (.qadd2 p gd gs1 gs2) s s (c.setHalves gd (h1 + h2) (l1 + l2)) 1 ∧
    Does p key (.qsub2 p gd gs1 gs2) s s (c.setHalves gd (h1 - h2) (l1 - l2)) 1 ∧
    (s.onnus1 key = false → Does p key (.qmul p gd gs1 gs2) s s (c.setGSat gd ((a * b + 2 ^ 30) / 2 ^ 31)) 1 ∧
      Does p key (.qmul2 p gd gs1 gs2) s s (c.setHalves gd ((h1 * h2 + 2 ^ 14) / 2 ^ 15) ((l1 * l2 + 2 ^ 14) / 2 ^ 15)) 1 ∧
      Does p key (.qpack p gd gs1 gs2) s s (c.setHalves gd ((a + 2 ^ 15) / 2 ^ 16) ((b + 2 ^ 15) / 2 ^ 16)) 1)) ∧
  (∀ (c : Ctx) (gd : BitVec 5) (z : Int), (-(2 ^ 31) ≤ z → z < 2 ^ 31 → c.setGSat gd z = c.setG gd (BitVec.ofInt 32 z)) ∧
    (2 ^ 31 ≤ z → c.setGSat gd z = (c.setG gd 0x7FFFFFFF#32).flags fQSAT) ∧
    (z < -(2 ^ 31) → c.setGSat gd z = (c.setG gd 0x80000000#32).flags fQSAT))

/-- MAC, MSU, MACZ and MAC2 add to, subtract from or set an accumulator with sat72; ACLR clears it, AWR sets it to gs1 x
2^31, and ARD reads it shifted with rounding and saturated to 32 bits. No other accumulator and no g or f register
changes. Completes: mac, msu, macz, mac2, aclr, awr, ard. -/
def Obligations.OnnusAccumulator : Prop :=
  (∀ (s : State) p key (ad gs1 gs2 : BitVec 5), Issues p key s → ad.toNat < 8 →
    let c := s.ctx key; let acc := (c.ar ad).toInt; let a := c.gr gs1; let b := c.gr gs2
    Does p key (.mac p ad gs1 gs2) s s (c.setASat ad (acc + a.toInt * b.toInt)) 1 ∧
    Does p key (.msu p ad gs1 gs2) s s (c.setASat ad (acc - a.toInt * b.toInt)) 1 ∧
    Does p key (.macz p ad gs1 gs2) s s (c.setASat ad (a.toInt * b.toInt)) 1 ∧
    Does p key (.aclr p ad 0 0) s s (c.setA ad 0) 1 ∧
    Does p key (.awr p ad gs1 0) s s (c.setA ad (BitVec.ofInt 72 (a.toInt * 2 ^ 31))) 1 ∧
    (s.onnus1 key = false →
      Does p key (.mac2 p ad gs1 gs2) s s (c.setASat ad (acc + hiHalf a * hiHalf b + loHalf a * loHalf b)) 1) ∧
    (∀ (gd : BitVec 5) (imm : BitVec 15), imm.toNat < 64 → Does p key (.ard p gd ad imm) s s
      (c.setGSat gd (if imm.toNat = 0 then acc else (acc + 2 ^ (imm.toNat - 1)) / 2 ^ imm.toNat)) 1)) ∧
  (∀ (c : Ctx) (r q : BitVec 5) (z : Int), r.toNat < 8 → q.toNat < 8 →
    (-(2 ^ 71) ≤ z → z < 2 ^ 71 → ((c.setASat r z).ar r).toInt = z) ∧ (q ≠ r → (c.setASat r z).ar q = c.ar q) ∧
    (c.setASat r z).g = c.g ∧ (c.setASat r z).f = c.f)

/-- The binary32 instructions give the result and the flags of one rounded step; FMA and FNMS round once in an image of
Onnus 2 and twice in one of Onnus 1. Divide and square root take 12 cycles, the rest 1. The conversions and moves go
between a g and an f register; a comparison gives 1 or 0 in a g register. Completes: fadd, fsub, fmul, fdiv, fsqrt, fma,
fnms, fmin, fmax, fabs, fneg, fsat, fcvtSW, fcvtWS, fcvtSQ, fcvtQS, fmvGF, fmvFG, feq, flt, fle. -/
def Obligations.OnnusFloat : Prop :=
  (∀ (s : State) p key gd gs1 gs2, Issues p key s → fOk gd = true → fOk gs1 = true → fOk gs2 = true →
    let c := s.ctx key; let a := c.fr gs1; let b := c.fr gs2; let d := c.fr gd
    Does p key (.fadd p gd gs1 gs2) s s (c.setFR gd (fadd a b)) 1 ∧
    Does p key (.fsub p gd gs1 gs2) s s (c.setFR gd (fsub a b)) 1 ∧
    Does p key (.fmul p gd gs1 gs2) s s (c.setFR gd (fmul a b)) 1 ∧
    Does p key (.fdiv p gd gs1 gs2) s s (c.setFR gd (fdiv a b)) 12 ∧
    Does p key (.fmin p gd gs1 gs2) s s (c.setFR gd (fmin a b)) 1 ∧
    Does p key (.fmax p gd gs1 gs2) s s (c.setFR gd (fmax a b)) 1 ∧
    Does p key (.fsqrt p gd gs1 0) s s (c.setFR gd (fsqrt a)) 12 ∧
    Does p key (.fabs p gd gs1 0) s s ((c.setF gd (fabs a)).flags fNone) 1 ∧
    Does p key (.fneg p gd gs1 0) s s ((c.setF gd (fneg a)).flags fNone) 1 ∧
    (s.onnus1 key = false → Does p key (.fma p gd gs1 gs2) s s (c.setFR gd (ffma a b d)) 1 ∧
      Does p key (.fnms p gd gs1 gs2) s s (c.setFR gd (ffma (fneg a) b d)) 1 ∧
      Does p key (.fsat p gd gs1 gs2) s s (c.setFR gd (fsat a b)) 1) ∧
    (s.onnus1 key = true →
      Does p key (.fma p gd gs1 gs2) s s (c.setFR gd ((fadd (fmul a b).1 d).1, (fmul a b).2.or (fadd (fmul a b).1 d).2)) 1 ∧
      Does p key (.fnms p gd gs1 gs2) s s (c.setFR gd ((fadd (fmul (fneg a) b).1 d).1, (fmul (fneg a) b).2.or (fadd (fmul (fneg a) b).1 d).2)) 1)) ∧
  (∀ (s : State) p key gd gs1, Issues p key s → fOk gs1 = true → let c := s.ctx key; let a := c.fr gs1
    Does p key (.fcvtWS p gd gs1 0) s s ((c.setG gd (fcvtWS a).1).flags (fcvtWS a).2) 1 ∧
    Does p key (.fcvtQS p gd gs1 0) s s ((c.setG gd (fcvtQS a).1).flags (fcvtQS a).2) 1 ∧
    Does p key (.fmvGF p gd gs1 0) s s ((c.setG gd a).flags fNone) 1) ∧
  (∀ (s : State) p key gd gs1, Issues p key s → fOk gd = true → let c := s.ctx key; let v := c.gr gs1
    Does p key (.fcvtSW p gd gs1 0) s s (c.setFR gd (w32 (f32.ofInt v.toInt 0))) 1 ∧
    Does p key (.fcvtSQ p gd gs1 0) s s (c.setFR gd (w32 (f32.ofInt v.toInt (-31)))) 1 ∧
    Does p key (.fmvFG p gd gs1 0) s s ((c.setF gd v).flags fNone) 1) ∧
  (∀ (s : State) p key gd gs1 gs2, Issues p key s → fOk gs1 = true → fOk gs2 = true →
    let c := s.ctx key; let a := c.fr gs1; let b := c.fr gs2
    Does p key (.feq p gd gs1 gs2) s s ((c.setG gd (if feq a b then 1 else 0)).flags { nv := fIsSNan a || fIsSNan b }) 1 ∧
    Does p key (.flt p gd gs1 gs2) s s ((c.setG gd (if flt a b then 1 else 0)).flags { nv := fIsNan a || fIsNan b }) 1 ∧
    Does p key (.fle p gd gs1 gs2) s s ((c.setG gd (if fle a b then 1 else 0)).flags { nv := fIsNan a || fIsNan b }) 1)

/-- CLARKE, PARK, IPARK, SINCOS, ATAN2, BIQ, LIM2 and LIM2D compute the steps of their pseudocode, every step rounded
once, with the flags of the steps; BIQ stores the new s1 and s2 and traps on a misaligned block (0x0221) or one outside
DMEM (0x0222), and a block with an uncorrectable error is a pair fault. LIM2 and LIM2D of a radius that is NaN or negative
set NV alone. ATAN2 is a function of its two inputs; within the bound of 1,024 units its value is free. That the
comparison of LIM2 sets NV on a NaN is deduced, not a sentence of the specification (assumption log 31). Completes:
clarke, park, ipark, sincos, atan2, biq, lim2, lim2d. -/
def Obligations.OnnusDrive : Prop :=
  (∀ (s : State) p key gd gs1 gs2, Issues p key s → fOk gd = true → evenOk gd = true → fOk gs1 = true → fOk gs2 = true →
    let c := s.ctx key; let a := c.fr gs1; let b := c.fr gs2
    let t := fadd a b; let u := fadd t.1 b; let r := fmul u.1 0x3F13CD3A#32
    Does p key (.clarke p gd gs1 gs2) s s (c.setFPair gd (a, fNone) (r.1, (t.2.or u.2).or r.2)) 2) ∧
  (∀ (s : State) p key gd gs1 gs2, Issues p key s → fOk gd = true → evenOk gd = true → fOk gs1 = true → evenOk gs1 = true →
    let c := s.ctx key; let sc := sinCos (c.gr gs2); let x := c.fr gs1; let y := c.fr (gs1 + 1)
    let xs := fmul x sc.1.1; let xc := fmul x sc.2.1
    Does p key (.park p gd gs1 gs2) s s ((c.setFPair gd (ffma y sc.1.1 xc.1) (ffma y sc.2.1 (fneg xs.1))).flags
      ((xc.2.or xs.2).or (sc.1.2.or sc.2.2))) 3 ∧
    Does p key (.ipark p gd gs1 gs2) s s ((c.setFPair gd (ffma (fneg y) sc.1.1 xc.1) (ffma y sc.2.1 xs.1)).flags
      ((xc.2.or xs.2).or (sc.1.2.or sc.2.2))) 3) ∧
  (∀ (s : State) p key gd gs1, Issues p key s → fOk gd = true → evenOk gd = true → let c := s.ctx key
    Does p key (.sincos p gd gs1 0) s s (c.setFPair gd (sinCos (c.gr gs1)).1 (sinCos (c.gr gs1)).2) 2) ∧
  (∀ (s : State) p key gd gs1 gs2, Issues p key s → fOk gs1 = true → fOk gs2 = true → let c := s.ctx key
    let r := atan2 (c.fr gs1) (c.fr gs2)
    Does p key (.atan2 p gd gs1 gs2) s s ((c.setG gd r.1).flags r.2) 8) ∧
  (∀ (s : State) p key gd gs1 gs2, Issues p key s → fOk gd = true → fOk gs1 = true →
    let c := s.ctx key; let a := (c.gr gs2).toNat; let x := c.fr gs1
    (a % 4 ≠ 0 → Traps key (.biq p gd gs1 gs2) s 0x0221 0 (c.gr gs2)) ∧
    (a % 4 = 0 → 0x1E800 < a + 28 → Traps key (.biq p gd gs1 gs2) s 0x0222 0 (c.gr gs2)) ∧
    (a % 4 = 0 → a + 28 ≤ 0x1E800 → s.memRead p true a 28 = none →
      exec (.biq p gd gs1 gs2) s = .next (s.pairFault p 0x0202)) ∧
    (a % 4 = 0 → a + 28 ≤ 0x1E800 → ∀ (u : State), s.memRead p true a 28 = some u →
      let w := fun i => BitVec.ofNat 32 (cellWord (u.pair p).dmem (a + 4 * i) 4)
      let y := ffma (w 0) x (w 5); let n1 := ffma (fneg (w 3)) y.1 (ffma (w 1) x (w 6)).1
      let n2 := ffma (fneg (w 4)) y.1 (fmul (w 2) x).1
      Does p key (.biq p gd gs1 gs2) s
        (u.dmemSet p (a + 20) (leBytes 4 n1.1.toNat ++ leBytes 4 n2.1.toNat))
        ((c.setF gd y.1).flags ((y.2.or ((ffma (w 1) x (w 6)).2.or n1.2)).or ((fmul (w 2) x).2.or n2.2))) 6)) ∧
  (∀ (s : State) p key gd gs1, Issues p key s → fOk gd = true → evenOk gd = true → fOk gs1 = true → s.onnus1 key = false →
    let c := s.ctx key; let r := c.fr gs1; let x := c.fr gd; let y := c.fr (gd + 1)
    (fIsNan r = true ∨ flt r 0 = true → Does p key (.lim2 p gd gs1 0) s s (c.flags fNV) 6 ∧
      Does p key (.lim2d p gd gs1 0) s s (c.flags fNV) 6) ∧
    (fIsNan r = false → flt r 0 = false →
      let xx := fmul x x; let m := ffma y y xx.1; let rr := fmul r r
      let x0 := fmax x (fneg r); let x1 := fmin x0.1 r; let d := ffma (fneg x1.1) x1.1 rr.1; let z := fmax d.1 0
      let w := fsqrt z.1; let y0 := fmax y (fneg w.1); let y1 := fmin y0.1 w.1; let q := fsqrt m.1; let h := fdiv r q.1
      Does p key (.lim2d p gd gs1 0) s s ((c.setFPair gd x1 y1).flags
        ((x0.2.or rr.2).or ((d.2.or z.2).or (w.2.or y0.2)))) 6 ∧
      let fl := ((xx.2.or m.2).or rr.2).or { nv := fIsNan m.1 || fIsNan rr.1 }
      (flt rr.1 m.1 = false → Does p key (.lim2 p gd gs1 0) s s (c.flags fl) 6) ∧
      (flt rr.1 m.1 = true → Does p key (.lim2 p gd gs1 0) s s ((c.setFPair gd (fmul x h.1) (fmul y h.1)).flags
        (fl.or (q.2.or h.2))) 6)))

/-- A load of 4, 2 or 1 bytes traps where it is misaligned (0x0221) or meets no target (0x0222); from DMEM it takes 1
cycle and sets one register from the bytes read, sign- or zero-extended; an uncorrectable word there is a pair fault, a
single-bit error is corrected and counted and nothing else changes; from shared SRAM it first drains the queue entries it
touches and takes 20 to 60 cycles (a free value), and a double-bit error traps with 0x0106. Completes: ldw, ldh, ldhu,
ldb, ldbu, flw. -/
def Obligations.OnnusLoads : Prop :=
  (∀ (s : State) p key gd gs1 (imm : BitVec 15), Issues p key s → fOk gd = true → ∀ x ∈ loadForms p gd gs1 imm,
    let c := s.ctx key; let ea := c.gr gs1 + imm.signExtend 32; let a := ea.toNat
    (a % x.2.1 ≠ 0 → Traps key x.1 s 0x0221 0 ea) ∧
    (a % x.2.1 = 0 → s.memTarget a x.2.1 = .bad → Traps key x.1 s 0x0222 0 ea) ∧
    (a % x.2.1 = 0 → a + x.2.1 ≤ 0x1E800 → ∀ (u : State), s.memRead p true a x.2.1 = some u →
      Does p key x.1 s u (x.2.2 c (cellWord (u.pair p).dmem a x.2.1)) 1) ∧
    (a % x.2.1 = 0 → a + x.2.1 ≤ 0x1E800 → s.memRead p true a x.2.1 = none → exec x.1 s = .next (s.pairFault p 0x0202)) ∧
    (∀ v t, a % x.2.1 = 0 → s.memTarget a x.2.1 = .sram →
      (s.drainTo p (fun e => e.touches a x.2.1)).sramLoad a x.2.1 = (some v, t) →
      ∃ k, 20 ≤ k ∧ k ≤ 60 ∧ Does p key x.1 s { t with freeCount := t.freeCount + 1 } (x.2.2 c v) k) ∧
    (∀ (t : State), a % x.2.1 = 0 → s.memTarget a x.2.1 = .sram →
      (s.drainTo p (fun e => e.touches a x.2.1)).sramLoad a x.2.1 = (none, t) →
      exec x.1 s = .next (State.trap { t with freeCount := t.freeCount + 1 } key 0x0106 0 ea))) ∧
  (∀ (s : State) (p : Nat) d a n, (touchW (s.pair p).ue d a n = true → s.memRead p d a n = none) ∧
    (touchW (s.pair p).ue d a n = false → touchW (s.pair p).ce d a n = false → s.memRead p d a n = some s) ∧
    (touchW (s.pair p).ue d a n = false → touchW (s.pair p).ce d a n = true → ∃ u : State, s.memRead p d a n = some u ∧
      touchW (u.pair p).ce d a n = false ∧ (u.pair p).dmem = (s.pair p).dmem ∧ (u.pair p).imem = (s.pair p).imem ∧
      u.tasks = s.tasks ∧ SameMem s u ∧ SameRegs [R.SE_PAIR_STAT p] s u))

/-- A store of 4, 2 or 1 bytes traps where it is misaligned (0x0221), meets no target or a DMA buffer of another owner
(0x0222); into DMEM it writes exactly its bytes in 1 cycle, every other byte of DMEM, of memory and of the other pairs
unchanged; a whole word leaves no error behind, a part of a word with an uncorrectable error is a pair fault; into shared
SRAM it is posted. Completes: stw, sth, stb, fsw. -/
def Obligations.OnnusStores : Prop :=
  (∀ (s : State) p key gd gs1 (imm : BitVec 15), Issues p key s → fOk gd = true → ∀ x ∈ storeForms p gd gs1 imm,
    let c := s.ctx key; let ea := c.gr gs1 + imm.signExtend 32; let a := ea.toNat
    (a % x.2.1 ≠ 0 → Traps key x.1 s 0x0221 0 ea) ∧
    (a % x.2.1 = 0 → s.memTarget a x.2.1 = .bad → Traps key x.1 s 0x0222 0 ea) ∧
    (a % x.2.1 = 0 → s.memTarget a x.2.1 = .sram → s.dmaForeign (s.ownerCode key) a x.2.1 = true →
      Traps key x.1 s 0x0222 0 ea) ∧
    (a % x.2.1 = 0 → a + x.2.1 ≤ 0x1E800 → ∀ (u : State), s.memStore p true a x.2.1 = some u →
      Does p key x.1 s (u.dmemSet p a (leBytes x.2.1 (x.2.2 c).toNat)) c 1) ∧
    (a % x.2.1 = 0 → a + x.2.1 ≤ 0x1E800 → s.memStore p true a x.2.1 = none →
      exec x.1 s = .next (s.pairFault p 0x0202)) ∧
    (a % x.2.1 = 0 → s.memTarget a x.2.1 = .sram → s.dmaForeign (s.ownerCode key) a x.2.1 = false →
      Does p key x.1 s (s.post p (.store a x.2.1 (x.2.2 c))) c 1)) ∧
  (∀ (s : State) (p : PairNo) a n v, (∀ b, b < a ∨ a + n ≤ b →
      cellAt ((s.dmemSet p a (leBytes n v)).pair p).dmem b = cellAt (s.pair p).dmem b) ∧
    cellWord ((s.dmemSet p a (leBytes n v)).pair p).dmem a n = v % 256 ^ n ∧
    SameMem s (s.dmemSet p a (leBytes n v)) ∧ SameRegs [] s (s.dmemSet p a (leBytes n v)) ∧
    (∀ q, q ≠ p.val → (s.dmemSet p a (leBytes n v)).pair q = s.pair q)) ∧
  (∀ (s : State) (p : Nat) d a n, (n ≠ 4 → s.memStore p d a n = s.memRead p d a n) ∧
    ∃ u : State, s.memStore p d a 4 = some u ∧ touchW (u.pair p).ue d a 4 = false ∧ touchW (u.pair p).ce d a 4 = false ∧
      (u.pair p).dmem = (s.pair p).dmem ∧ (u.pair p).imem = (s.pair p).imem ∧ u.tasks = s.tasks ∧ SameMem s u ∧ SameRegs [] s u)

/-- SWAPW stores gs2 and returns the old word; CASW stores only where the old word equals gd, and returns it either way.
Nothing else of DMEM changes. On shared SRAM everything queued drains first, a DMA buffer of another owner traps (0x0222),
and the instruction waits for the old value, 20 to 60 cycles. Completes: swapw, casw. -/
def Obligations.OnnusAtomics : Prop :=
  (∀ (s : State) p key gd gs1 gs2, Issues p key s → let c := s.ctx key; let a := (c.gr gs1).toNat
    let new := leBytes 4 (c.gr gs2).toNat
    (a % 4 ≠ 0 → Traps key (.swapw p gd gs1 gs2) s 0x0221 0 (c.gr gs1)) ∧
    (a % 4 = 0 → s.memTarget a 4 = .bad → Traps key (.swapw p gd gs1 gs2) s 0x0222 0 (c.gr gs1)) ∧
    (a % 4 = 0 → a + 4 ≤ 0x1E800 → s.memRead p true a 4 = none →
      exec (.swapw p gd gs1 gs2) s = .next (s.pairFault p 0x0202)) ∧
    (a % 4 = 0 → a + 4 ≤ 0x1E800 → ∀ (u : State), s.memRead p true a 4 = some u →
      let old := BitVec.ofNat 32 (cellWord (u.pair p).dmem a 4)
      Does p key (.swapw p gd gs1 gs2) s (u.dmemSet p a new) (c.setG gd old) 1 ∧
      (s.onnus1 key = false → old = c.gr gd → Does p key (.casw p gd gs1 gs2) s (u.dmemSet p a new) (c.setG gd old) 1) ∧
      (s.onnus1 key = false → old ≠ c.gr gd → Does p key (.casw p gd gs1 gs2) s u (c.setG gd old) 1)) ∧
    (a % 4 = 0 → s.memTarget a 4 = .sram → s.dmaForeign (s.ownerCode key) a 4 = true →
      Traps key (.swapw p gd gs1 gs2) s 0x0222 0 (c.gr gs1)) ∧
    (∀ v t, a % 4 = 0 → s.memTarget a 4 = .sram → s.dmaForeign (s.ownerCode key) a 4 = false →
      (s.drainN p (s.pair p).queue.length).sramLoad a 4 = (some v, t) →
      ∃ k, 20 ≤ k ∧ k ≤ 60 ∧ Does p key (.swapw p gd gs1 gs2) s
        (State.wrN { t with freeCount := t.freeCount + 1 } a 4 (c.gr gs2).toNat) (c.setG gd (BitVec.ofNat 32 v)) k ∧
        (s.onnus1 key = false → BitVec.ofNat 32 v = c.gr gd → Does p key (.casw p gd gs1 gs2) s
          (State.wrN { t with freeCount := t.freeCount + 1 } a 4 (c.gr gs2).toNat) (c.setG gd (BitVec.ofNat 32 v)) k) ∧
        (s.onnus1 key = false → BitVec.ofNat 32 v ≠ c.gr gd → Does p key (.casw p gd gs1 gs2) s
          { t with freeCount := t.freeCount + 1 } (c.setG gd (BitVec.ofNat 32 v)) k))) ∧
  (∀ (s : State) a n v, (State.wrN s a n v).rdN a n = v % 256 ^ n ∧
    ∀ b, b < a ∨ a + n ≤ b → (State.wrN s a n v).byteAt b = s.byteAt b)

/-- A branch whose condition fails goes on in 1 cycle and changes no register; a taken branch, JAL and JALR jump in 2
cycles, JAL and JALR with the link in gd, the source read first; a target outside 0 to 0xFFFC traps with 0x0222 and a JALR
target that is not word-aligned with 0x0221, without effect. LOOP and LOOPI set the loop state, skip the body at count 0,
and trap where a loop runs. Completes: beq, bne, blt, bge, bltu, bgeu, jal, jalr, loop, loopi. -/
def Obligations.OnnusFlow : Prop :=
  (∀ (s : State) p key gs1 gs2 (off : BitVec 15), Issues p key s → ∀ x ∈ branchForms p gs1 gs2 off,
    let c := s.ctx key; let t : Int := c.pc.toNat + 4 * off.toInt
    (x.2 (c.gr gs1) (c.gr gs2) = false → Does p key x.1 s s c 1) ∧
    (x.2 (c.gr gs1) (c.gr gs2) = true → 0 ≤ t → t ≤ 0xFFFC → Jumps p key x.1 s c (BitVec.ofInt 16 t)) ∧
    (x.2 (c.gr gs1) (c.gr gs2) = true → ¬(0 ≤ t ∧ t ≤ 0xFFFC) → Traps key x.1 s 0x0222 0 (BitVec.ofInt 32 t))) ∧
  (∀ (s : State) p key gd (imm : BitVec 20), Issues p key s → let c := s.ctx key; let t : Int := c.pc.toNat + 4 * imm.toInt
    (0 ≤ t → t ≤ 0xFFFC → Jumps p key (.jal p gd imm) s (c.setG gd ((c.pc + 4).setWidth 32)) (BitVec.ofInt 16 t)) ∧
    (¬(0 ≤ t ∧ t ≤ 0xFFFC) → Traps key (.jal p gd imm) s 0x0222 0 (BitVec.ofInt 32 t))) ∧
  (∀ (s : State) p key gd gs1 (imm : BitVec 15), Issues p key s → let c := s.ctx key; let t := c.gr gs1 + imm.signExtend 32
    (t.toNat % 4 ≠ 0 → Traps key (.jalr p gd gs1 imm) s 0x0221 0 t) ∧
    (t.toNat % 4 = 0 → t.toNat ≤ 0xFFFC →
      Jumps p key (.jalr p gd gs1 imm) s (c.setG gd ((c.pc + 4).setWidth 32)) (BitVec.ofNat 16 t.toNat)) ∧
    (t.toNat % 4 = 0 → 0xFFFC < t.toNat → Traps key (.jalr p gd gs1 imm) s 0x0222 0 t)) ∧
  (∀ (s : State) p key gs1 (imm : BitVec 15), Issues p key s → 1 ≤ imm.toNat → imm.toNat < 4096 → s.onnus1 key = false →
    let c := s.ctx key; let n := imm.toNat; let i : Instr := .loop p 0 gs1 imm
    (c.lcnt ≠ 0 → Traps key i s 0x0220 0 (encB 0x31 0 gs1 imm)) ∧
    (c.lcnt = 0 → c.gr gs1 = 0 → exec i s = .next (s.retire p key { c with pc := c.pc + BitVec.ofNat 16 (4 * (n + 1)) } 1)) ∧
    (c.lcnt = 0 → c.gr gs1 ≠ 0 → exec i s = .next (s.retire p key
      { c with lcnt := c.gr gs1, lbeg := c.pc + 4, lend := c.pc + BitVec.ofNat 16 (4 * n), pc := c.pc + 4 } 1))) ∧
  (∀ (s : State) p key (imm : BitVec 20), Issues p key s → bitsOf imm.toNat 7 0 ≠ 0 → s.onnus1 key = false →
    let c := s.ctx key; let n := bitsOf imm.toNat 7 0; let k := BitVec.ofNat 32 (bitsOf imm.toNat 19 8)
    let i : Instr := .loopi p 0 imm
    (c.lcnt ≠ 0 → Traps key i s 0x0220 0 (encC 0x42 0 imm)) ∧
    (c.lcnt = 0 → k = 0 → exec i s = .next (s.retire p key { c with pc := c.pc + BitVec.ofNat 16 (4 * (n + 1)) } 1)) ∧
    (c.lcnt = 0 → k ≠ 0 → exec i s = .next (s.retire p key
      { c with lcnt := k, lbeg := c.pc + 4, lend := c.pc + BitVec.ofNat 16 (4 * n), pc := c.pc + 4 } 1)))

/-- Entries are posted at the end of the queue, without any other effect while a slot is free, and drain from its front,
one at a time. Completes: outboundQueueDrain. -/
def Obligations.OutboundQueue : Prop :=
  (∀ (s : State) (p : PairNo), (s.pair p).queue = [] → exec (.outboundQueueDrain p) s = .next s) ∧
  (∀ (s : State) (p : PairNo) e r, (s.pair p).queue = e :: r →
    exec (.outboundQueueDrain p) s = .next ((s.setPair p { s.pair p with queue := r }).drainEffect e)) ∧
  (∀ (s : State) (p : PairNo) e, (s.pair p).queue.length < 8 →
    ((s.post p e).pair p).queue = (s.pair p).queue ++ [e] ∧ SameMem s (s.post p e) ∧ SameRegs [] s (s.post p e) ∧
    (∀ q, q ≠ p.val → (s.post p e).pair q = s.pair q))

/-- PIN and PINR drain the queue entries for their register, trap with 0x0104 where its domain is off, and set g from the
register in 10 to 40 cycles (a free value). A port write that R68 refuses traps with 0x0223, one to a block that is off
with 0x0104; otherwise POUT mode 0, POUTR and PSET post their write in 1 cycle, and POUT mode 1 completes the write after
everything posted before it. Completes: pin, pinr, poutMode0, poutMode1, psetOr, psetAndnot, psetXor, poutr. -/
def Obligations.OnnusPorts : Prop :=
  (∀ (s : State) p key g (port : BitVec 16) gs1, Issues p key s → let c := s.ctx key; let a := portTarget (key / 16) port
    let u := s.drainTo p (fun e => e.isPort a); let b := portTarget (key / 16) ((c.gr gs1).setWidth 16)
    let w := s.drainTo p (fun e => e.isPort b)
    (u.windowOn (winOf a) = false → exec (.pin p g port) s = .next (u.trap key 0x0104 0 (port.setWidth 32))) ∧
    (∀ v t, u.windowOn (winOf a) = true → u.regRead a = (v, t) → ∃ k, 10 ≤ k ∧ k ≤ 40 ∧
      Does p key (.pin p g port) s { t with freeCount := t.freeCount + 1 } (c.setG g v) k) ∧
    (w.windowOn (winOf b) = false →
      exec (.pinr p g gs1 0) s = .next (w.trap key 0x0104 0 (((c.gr gs1).setWidth 16).setWidth 32))) ∧
    (∀ v t, w.windowOn (winOf b) = true → w.regRead b = (v, t) → ∃ k, 10 ≤ k ∧ k ≤ 40 ∧
      Does p key (.pinr p g gs1 0) s { t with freeCount := t.freeCount + 1 } (c.setG g v) k)) ∧
  (∀ (s : State) p key g (port : BitVec 16), Issues p key s → let a := portTarget (key / 16) port
    ∀ i ∈ [.poutMode0 p g port, .poutMode1 p g port, .psetOr p g port, .psetAndnot p g port, .psetXor p g port], 
    (s.portWritable (key / 16) a = false → Traps key i s 0x0223 0 (port.setWidth 32)) ∧
    (s.portWritable (key / 16) a = true → s.windowOn (winOf a) = false → Traps key i s 0x0104 0 (port.setWidth 32))) ∧
  (∀ (s : State) p key g (port : BitVec 16) gs1, Issues p key s → let c := s.ctx key; let v := c.gr g; let o := s.ownerCode key
    let a := portTarget (key / 16) port; let b := portTarget (key / 16) ((c.gr gs1).setWidth 16)
    (s.portWritable (key / 16) a = true → s.windowOn (winOf a) = true →
      Does p key (.poutMode0 p g port) s (s.post p (.port o a v)) c 1 ∧
      Does p key (.psetOr p g port) s (s.post p (.pset o 0 a v)) c 1 ∧
      Does p key (.psetAndnot p g port) s (s.post p (.pset o 1 a v)) c 1 ∧
      Does p key (.psetXor p g port) s (s.post p (.pset o 2 a v)) c 1 ∧
      (∃ k, 10 ≤ k ∧ k ≤ 40 ∧ let t := (s.drainN p (s.pair p).queue.length).portWrite o a v
        Does p key (.poutMode1 p g port) s { t with freeCount := t.freeCount + 1 } c k)) ∧
    (s.portWritable (key / 16) b = false →
      Traps key (.poutr p 0 gs1 g) s 0x0223 0 (((c.gr gs1).setWidth 16).setWidth 32)) ∧
    (s.portWritable (key / 16) b = true → s.windowOn (winOf b) = false →
      Traps key (.poutr p 0 gs1 g) s 0x0104 0 (((c.gr gs1).setWidth 16).setWidth 32)) ∧
    (s.portWritable (key / 16) b = true → s.windowOn (winOf b) = true →
      Does p key (.poutr p 0 gs1 g) s (s.post p (.port o b v)) c 1))

/-- SIGRD and SIGRDI set the register pair from both words of the entry, 20 to 60 cycles; SIGWR and TRIGGER are posted; an
address above 20 bits, or a SIGWR to an internal pocket, traps with 0x0228; an entry with an uncorrectable error traps
with 0x0106. CLAIM and RELEASE send a request under the owner code of the task to the claim table, and the task waits;
when the table has taken it the instruction completes in 10 to 40 cycles, or traps with 0x0224, 0x0111 or 0x0112. That the
request is at the table at once is the model's choice (assumption log 68). Completes: sigrd, sigrdi, sigwr, trigger,
claim, release. -/
def Obligations.OnnusSignals : Prop :=
  (∀ (s : State) p key gd gs1, Issues p key s → evenOk gd = true → s.onnus1 key = false →
    let c := s.ctx key; let a := (c.gr gs1).toNat; let u := s.drainTo p (fun e => e.isSig a)
    let t := State.correctCe { u with freeCount := u.freeCount + 1 } (sigCell a) 8
    (2 ^ 20 ≤ a → Traps key (.sigrd p gd gs1 0) s 0x0228 0 (c.gr gs1)) ∧
    (a < 2 ^ 20 → t.eccUe.contains (sigCell a) = true →
      exec (.sigrd p gd gs1 0) s = .next ((t.sigTouch a).trap key 0x0106 0 (c.gr gs1))) ∧
    (a < 2 ^ 20 → t.eccUe.contains (sigCell a) = false → ∃ k, 20 ≤ k ∧ k ≤ 60 ∧
      Does p key (.sigrd p gd gs1 0) s t ((c.setG gd (t.sigWords a).1).setG (gd + 1) (t.sigWords a).2) k)) ∧
  (∀ (s : State) p key gd (imm : BitVec 20), Issues p key s → evenOk gd = true → s.onnus1 key = false →
    let c := s.ctx key; let a := (imm.setWidth 32).toNat; let u := s.drainTo p (fun e => e.isSig a)
    let t := State.correctCe { u with freeCount := u.freeCount + 1 } (sigCell a) 8
    (t.eccUe.contains (sigCell a) = true → exec (.sigrdi p gd imm) s = .next ((t.sigTouch a).trap key 0x0106 0 (imm.setWidth 32))) ∧
    (t.eccUe.contains (sigCell a) = false → ∃ k, 20 ≤ k ∧ k ≤ 60 ∧
      Does p key (.sigrdi p gd imm) s t ((c.setG gd (t.sigWords a).1).setG (gd + 1) (t.sigWords a).2) k)) ∧
  (∀ (s : State) p key gs1 gs2, Issues p key s → let c := s.ctx key; let a := (c.gr gs1).toNat
    (4064 * 256 ≤ a → Traps key (.sigwr p 0 gs1 gs2) s 0x0228 0 (c.gr gs1)) ∧
    (a < 4064 * 256 → Does p key (.sigwr p 0 gs1 gs2) s (s.post p (.sigwr a (c.gr gs2))) c 1) ∧
    (s.onnus1 key = false → 2 ^ 20 ≤ a → Traps key (.trigger p 0 gs1 0) s 0x0228 0 (c.gr gs1)) ∧
    (s.onnus1 key = false → a < 2 ^ 20 → Does p key (.trigger p 0 gs1 0) s (s.post p (.trigger a)) c 1)) ∧
  (∀ (s : State) p key gs1, Issues p key s → s.onnus1 key = false →
    let c := s.ctx key; let res := bitsOf (c.gr gs1).toNat 15 0; let o := s.ownerCode key
    let q : Bool → ClaimReq := fun r => { cox := false, release := r, owner := o, res := res, at0 := s.now, pair := some p.val }
    let w : PairRec := { s.pair p with claimWait := true }
    exec (.claim p 0 gs1 0) s = .next (State.setPair { s with claimReqs := s.claimReqs ++ [q false] } p w) ∧
    exec (.release p 0 gs1 0) s = .next (State.setPair { s with claimReqs := s.claimReqs ++ [q true] } p w)) ∧
  (∀ (s : State) (p : PairNo) key r res, s.running p = some key →
    let u := s.setPair p { s.pair p with claimWait := false }
    (r = .done → ∃ k, 10 ≤ k ∧ k ≤ 40 ∧ s.claimEnd p r res =
      State.retire { u with freeCount := u.freeCount + 1 } p key ((s.ctx key).step .seq) k) ∧
    (r = .conflict → s.claimEnd p r res = u.trap key 0x0224 0 (BitVec.ofNat 32 res)) ∧
    (r = .notOwner → s.claimEnd p r res = u.trap key 0x0111 0 (BitVec.ofNat 32 res)) ∧
    (r = .badId → s.claimEnd p r res = u.trap key 0x0112 0 (BitVec.ofNat 32 res)))

/-- WAITCATCH, YIELD and ORDEND end the activation of a task of their source, WAITCATCH with the checkpoint capture, whose
uncorrectable word is a pair fault, and ORDEND with the status code; with a loop running they trap with 0x0220, in a task
of another source with 0x0227. ORDARG and ORDHDR read words of the order. CSRRD reads a CSR, a read of CYCLE after a free
number of idle cycles (assumption log 69); CSRWR writes RESUME.ADDR and FSTAT alone. TRAP takes TRAP_SOFT with its code.
Completes: waitcatch, yield, ordend, ordarg, ordhdr, csrrd, csrwr, trap. -/
def Obligations.OnnusSystem : Prop :=
  (∀ (s : State) p key, Issues p key s → let c := s.ctx key
    (c.lcnt ≠ 0 → Traps key (.waitcatch p 0 0) s 0x0220 0 (encC 0x45 0 0) ∧ Traps key (.yield p 0 0) s 0x0220 0 (encC 0x46 0 0)) ∧
    (c.lcnt = 0 → (s.task key).src = srcCatch → (s.captureRead p key = none →
        exec (.waitcatch p 0 0) s = .next (s.pairFault p 0x0202)) ∧
      (∀ v, s.captureRead p key = some v → let u := (v.capture p key c).retire p key (c.step .seq) 1
        exec (.waitcatch p 0 0) s = .next (u.endActivation key (!(u.task key).unclean))) ∧
      Traps key (.yield p 0 0) s 0x0227 0 (encC 0x46 0 0)) ∧
    (c.lcnt = 0 → (s.task key).src = srcTimer ∨ (s.task key).src = srcSignal → let u := s.retire p key (c.step .seq) 1
      exec (.yield p 0 0) s = .next (u.endActivation key (!(u.task key).unclean)) ∧
      Traps key (.waitcatch p 0 0) s 0x0227 0 (encC 0x45 0 0)) ∧
    (∀ gs1, c.lcnt = 0 → (s.task key).src = srcOrder →
      let u := (s.laneOrdEnd (s.task key).idx (bitsOf (c.gr gs1).toNat 7 0)).retire p key (c.step .seq) 1
      exec (.ordend p 0 gs1 0) s = .next (u.endActivation key (!(u.task key).unclean)))) ∧
  (∀ (s : State) p key gd gs1 (imm : BitVec 15), Issues p key s → (s.task key).src = srcOrder →
    let c := s.ctx key; let off := c.gr gs1 + imm.signExtend 32; let t : State := { s with freeCount := s.freeCount + 1 }
    (off.toNat % 4 ≠ 0 → Traps key (.ordarg p gd gs1 imm) s 0x0221 0 off) ∧
    (∀ o, s.taskOrder key = some o → off.toNat % 4 = 0 → ∃ k, 20 ≤ k ∧ k ≤ 60 ∧ Does p key (.ordarg p gd gs1 imm) s t
      (c.setG gd (BitVec.ofNat 32 (if off.toNat < 4096 then leAt o.body off.toNat 4 else 0))) k) ∧
    (∀ o, s.taskOrder key = some o → imm.toNat < 4 → ∃ k, 20 ≤ k ∧ k ≤ 60 ∧ Does p key (.ordhdr p gd 0 imm) s t
      (c.setG gd (BitVec.ofNat 32 (if imm.toNat = 0 then o.opcode else if imm.toNat = 1 then o.body.length
        else if imm.toNat = 2 then o.lane else o.flags))) k)) ∧
  (∀ (s : State) p key gd gs1 (imm : BitVec 15), Issues p key s → (s.task key).src ≠ srcOrder →
    Traps key (.ordarg p gd gs1 imm) s 0x0227 0 (encB 0x35 gd gs1 imm) ∧
    (imm.toNat < 4 → Traps key (.ordhdr p gd 0 imm) s 0x0227 0 (encB 0x36 gd 0 imm))) ∧
  (∀ (s : State) p key gd gs1 (imm : BitVec 15), Issues p key s → let c := s.ctx key
    (imm.toNat < 4096 → imm.toNat ≠ 2 → Does p key (.csrrd p gd 0 imm) s s (c.setG gd (s.csr p key c imm.toNat)) 1) ∧
    (∀ n u, s.free = (n, u) → let t := u.spend p n; Does p key (.csrrd p gd 0 2) s t
      ({ c with cycleh := BitVec.ofNat 32 ((t.pair p).cycle / 2 ^ 32) }.setG gd (BitVec.ofNat 32 (t.pair p).cycle)) 1) ∧
    Does p key (.csrwr p 0 gs1 8) s s { c with resume := c.gr gs1 &&& 0xFFFC#32 } 1 ∧
    Does p key (.csrwr p 0 gs1 9) s s { c with fstat := c.gr gs1 &&& 0x3F#32 } 1 ∧
    (imm.toNat ≠ 8 → imm.toNat ≠ 9 → Traps key (.csrwr p 0 gs1 imm) s 0x0220 0 (encB 0x33 0 gs1 imm))) ∧
  (∀ (s : State) p key (imm : BitVec 20), Issues p key s → imm.toNat < 256 → Traps key (.trap p 0 imm) s 0x0226 imm.toNat 0)

/-- A trap of a timer or signal task sets TCAUSE, TPC and TVAL, the PC to RESUME and LCNT to 0, and leaves every other
register of the task; it counts in FCNT and disables the task at FLIM; no other task changes. -/
def Obligations.TrapTakes : Prop :=
  ∀ (s : State) (key code soft : Nat) (tval : Word), (s.task key).src = srcTimer ∨ (s.task key).src = srcSignal →
    let c := s.ctx key
    (s.trap key code soft tval).ctx key = { c with
      tcause := BitVec.ofNat 32 (soft % 256 * 65536 + code), tpc := c.pc.setWidth 32, tval := tval,
      pc := c.resume.setWidth 16, lcnt := 0 } ∧
    ((s.task key).fcnt + 1 < (s.task key).flim → ((s.trap key code soft tval).task key).fcnt = min 15 ((s.task key).fcnt + 1) ∧
      ((s.task key).pend = false → ((s.trap key code soft tval).task key).st = .waiting)) ∧
    ((s.task key).flim ≤ (s.task key).fcnt + 1 → ((s.trap key code soft tval).task key).st = .disabled) ∧
    (∀ k, k ≠ key → (s.trap key code soft tval).task k = s.task k)

/-- Entering a fault keeps one entry for a code and instance and at most 64 entries; it is a new entry exactly where the
table has room and holds none; with room the fault has an entry afterwards; no entry is lost, changes its code, instance
or time of first occurrence, or counts down below 255. Tasks and memory do not change. -/
def Obligations.FaultTable : Prop :=
  ∀ (s : State) (code inst : Nat),
    (s.faults.Pairwise (fun e f => e.code ≠ f.code ∨ e.inst ≠ f.inst) →
      (s.enterFault code inst).2.faults.Pairwise (fun e f => e.code ≠ f.code ∨ e.inst ≠ f.inst)) ∧
    (s.faults.length ≤ 64 → (s.enterFault code inst).2.faults.length ≤ 64) ∧
    ((s.enterFault code inst).1 = true ↔ s.faults.length < 64 ∧ ∀ e ∈ s.faults, e.code ≠ code ∨ e.inst ≠ inst % 256) ∧
    (s.faults.length < 64 → (s.enterFault code inst).2.hasFault code (inst % 256)) ∧
    (∀ e ∈ s.faults, ∃ f ∈ (s.enterFault code inst).2.faults, f.code = e.code ∧ f.inst = e.inst ∧ f.sec = e.sec ∧
      f.ns = e.ns ∧ (e.count ≤ 255 → e.count ≤ f.count ∧ f.count ≤ 255)) ∧
    (s.enterFault code inst).2.tasks = s.tasks ∧ (s.enterFault code inst).2.mem = s.mem

/-- After an instruction that does not change the PC, the PC moves on, but at LEND of a running loop LCNT counts down and
the PC returns to LBEG unless LCNT reached 0. A jump inside the body keeps the loop running without a decrement; one
outside it ends the loop. -/
def Obligations.LoopRule : Prop :=
  ∀ c : Ctx,
    (c.lcnt = 0 ∨ c.pc ≠ c.lend → c.step .seq = { c with pc := c.pc + 4 }) ∧
    (c.lcnt ≠ 0 → c.lcnt ≠ 1 → c.pc = c.lend → c.step .seq = { c with lcnt := c.lcnt - 1, pc := c.lbeg }) ∧
    (c.lcnt = 1 → c.pc = c.lend → c.step .seq = { c with lcnt := 0, pc := c.pc + 4 }) ∧
    (∀ t : BitVec 16, c.lbeg.toNat ≤ t.toNat → t.toNat ≤ c.lend.toNat → c.step (.jump t) = { c with pc := t }) ∧
    (∀ t : BitVec 16, ¬(c.lbeg.toNat ≤ t.toNat ∧ t.toNat ≤ c.lend.toNat) → c.step (.jump t) = { c with pc := t, lcnt := 0 })

/-- Retiring an instruction sets the context of its task, charges its cycles to the budget and to the cycle count of the
pair, and changes no other task, no other pair, no memory and no register of the block. -/
def Obligations.RetireFrame : Prop :=
  ∀ (s : State) (p key : Nat) (c : Ctx) (cyc : Nat),
    (s.retire p key c cyc).ctx key = c ∧ ((s.retire p key c cyc).task key).budLeft = (s.task key).budLeft - cyc ∧
    ((s.retire p key c cyc).pair p).cycle = (s.pair p).cycle + cyc ∧
    (∀ k, k ≠ key → (s.retire p key c cyc).task k = s.task k) ∧ (∀ q, q ≠ p → (s.retire p key c cyc).pair q = s.pair q) ∧
    SameMem s (s.retire p key c cyc) ∧ SameRegs [] s (s.retire p key c cyc) ∧
    ((s.retire p key c cyc).pair p).dmem = (s.pair p).dmem ∧ ((s.retire p key c cyc).pair p).imem = (s.pair p).imem ∧
    ((s.retire p key c cyc).pair p).queue = (s.pair p).queue

/-- A float field above 15, an accumulator field above 7, an odd register of a pair, or an unused field that is not 0
takes TRAP_ILLEGAL with the instruction word in TVAL. So does each of the twelve instructions that an image of Onnus 1
lacks. -/
def Obligations.OnnusIllegal : Prop :=
  (∀ (s : State) p key gd gs1 gs2, Issues p key s → fOk gd = false ∨ fOk gs1 = false ∨ fOk gs2 = false →
    Traps key (.fadd p gd gs1 gs2) s 0x0220 0 (encA 5 gd gs1 gs2 0x000) ∧
    Traps key (.fmul p gd gs1 gs2) s 0x0220 0 (encA 5 gd gs1 gs2 0x002) ∧
    Traps key (.fma p gd gs1 gs2) s 0x0220 0 (encA 5 gd gs1 gs2 0x005)) ∧
  (∀ (s : State) p key gd gs1 gs2 (imm : BitVec 15), Issues p key s → 8 ≤ gd.toNat →
    Traps key (.mac p gd gs1 gs2) s 0x0220 0 (encA 4 gd gs1 gs2 0x000) ∧
    Traps key (.ard p gs1 gd imm) s 0x0220 0 (encB 0x37 gs1 gd imm)) ∧
  (∀ (s : State) p key gd gs1 gs2, Issues p key s → evenOk gd = false →
    Traps key (.sincos p gd gs1 0) s 0x0220 0 (encA 7 gd gs1 0 0x003) ∧
    Traps key (.park p gd gs1 gs2) s 0x0220 0 (encA 7 gd gs1 gs2 0x001) ∧
    (s.onnus1 key = false → Traps key (.sigrd p gd gs1 0) s 0x0220 0 (encA 8 gd gs1 0 4))) ∧
  (∀ (s : State) p key gd gs1 gs2 (imm : BitVec 15), Issues p key s → gs2 ≠ 0 → 32 ≤ imm.toNat →
    Traps key (.clz p gd gs1 gs2) s 0x0220 0 (encA 1 gd gs1 gs2 0x00E) ∧
    Traps key (.qneg p gd gs1 gs2) s 0x0220 0 (encA 3 gd gs1 gs2 0x003) ∧
    Traps key (.slli p gd gs1 imm) s 0x0220 0 (encB 0x16 gd gs1 imm)) ∧
  (∀ (s : State) p key gd gs1 gs2 (imm : BitVec 20), Issues p key s → s.onnus1 key = true →
    Traps key (.lim2 p gd gs1 0) s 0x0220 0 (encA 7 gd gs1 0 0x006) ∧
    Traps key (.lim2d p gd gs1 0) s 0x0220 0 (encA 7 gd gs1 0 0x007) ∧
    Traps key (.fsat p gd gs1 gs2) s 0x0220 0 (encA 5 gd gs1 gs2 0x00B) ∧
    Traps key (.qpack p gd gs1 gs2) s 0x0220 0 (encA 3 gd gs1 gs2 0x013) ∧
    Traps key (.mac2 p gd gs1 gs2) s 0x0220 0 (encA 4 gd gs1 gs2 0x003) ∧
    Traps key (.casw p gd gs1 gs2) s 0x0220 0 (encA 8 gd gs1 gs2 1) ∧
    Traps key (.loopi p gd imm) s 0x0220 0 (encC 0x42 gd imm) ∧
    Traps key (.sigrdi p gd imm) s 0x0220 0 (encC 0x43 gd imm) ∧
    Traps key (.trigger p gd gs1 gs2) s 0x0220 0 (encA 8 gd gs1 gs2 6) ∧
    Traps key (.claim p gd gs1 gs2) s 0x0220 0 (encA 8 gd gs1 gs2 7) ∧
    Traps key (.release p gd gs1 gs2) s 0x0220 0 (encA 8 gd gs1 gs2 8) ∧
    Traps key (.pistepr p gd gs1 gs2) s 0x0220 0 (encA 8 gd gs1 gs2 9))

/-- In an image of Onnus 1 QMUL and QMUL2 truncate, LOOP with count 0 runs its body once, and SIGRD writes the value word
alone into any gd. -/
def Obligations.OnnusOne : Prop :=
  (∀ (s : State) p key gd gs1 gs2, Issues p key s → s.onnus1 key = true → let c := s.ctx key
    let a := (c.gr gs1).toInt; let b := (c.gr gs2).toInt
    Does p key (.qmul p gd gs1 gs2) s s (c.setGSat gd (a * b / 2 ^ 31)) 1 ∧
    Does p key (.qmul2 p gd gs1 gs2) s s (c.setHalves gd (hiHalf (c.gr gs1) * hiHalf (c.gr gs2) / 2 ^ 15)
      (loHalf (c.gr gs1) * loHalf (c.gr gs2) / 2 ^ 15)) 1) ∧
  (∀ (s : State) p key gs1 (imm : BitVec 15), Issues p key s → s.onnus1 key = true → 1 ≤ imm.toNat → imm.toNat < 4096 →
    let c := s.ctx key
    c.lcnt = 0 → c.gr gs1 = 0 → exec (.loop p 0 gs1 imm) s = .next (s.retire p key
      { c with lcnt := 1, lbeg := c.pc + 4, lend := c.pc + BitVec.ofNat 16 (4 * imm.toNat), pc := c.pc + 4 } 1)) ∧
  (∀ (s : State) p key gd gs1, Issues p key s → s.onnus1 key = true → let c := s.ctx key; let a := (c.gr gs1).toNat
    let u := s.drainTo p (fun e => e.isSig a); let t := State.correctCe { u with freeCount := u.freeCount + 1 } (sigCell a) 8
    a < 2 ^ 20 → t.eccUe.contains (sigCell a) = false → ∃ k, 20 ≤ k ∧ k ≤ 60 ∧
      Does p key (.sigrd p gd gs1 0) s t (c.setG gd (t.sigWords a).1) k)

/-- A PI step that R83 does not allow traps with 0x0225. One whose error is NaN or infinite sets NV, writes OUT and leaves
the loop; any other steps the loop, keeps E and the result as OUT, and changes no bank, no pending swap and not the owner.
It takes 4 to 42 cycles, a free value. Completes: pistep, pistepr. -/
def Obligations.OnnusPistep : Prop :=
  (∀ (s : State) p key gd gs1 (imm : BitVec 15), Issues p key s → fOk gd = true → fOk gs1 = true → imm.toNat < 1024 →
    let c := s.ctx key; let l := s.loop imm.toNat; let e := c.fr gs1
    let t : State := { s with freeCount := s.freeCount + 1 }
    (s.loopAllowed (key / 16) l.owner = false → Traps key (.pistep p gd gs1 imm) s 0x0225 0 (BitVec.ofNat 32 imm.toNat)) ∧
    (s.loopAllowed (key / 16) l.owner = true → fIsFinite e = false → ∃ k, 4 ≤ k ∧ k ≤ 42 ∧
      Does p key (.pistep p gd gs1 imm) s t ((c.setF gd l.out).flags fNV) k) ∧
    (s.loopAllowed (key / 16) l.owner = true → fIsFinite e = true → ∃ k, 4 ≤ k ∧ k ≤ 42 ∧
      Does p key (.pistep p gd gs1 imm) s (t.setLoop imm.toNat (l.piStep e).1) (c.setFR gd (l.piStep e).2) k)) ∧
  (∀ (s : State) p key gd gs1 gs2, Issues p key s → fOk gd = true → fOk gs1 = true → s.onnus1 key = false →
    let c := s.ctx key; let id := (c.gr gs2).toNat % 1024; let l := s.loop id; let e := c.fr gs1
    let t : State := { s with freeCount := s.freeCount + 1 }
    (s.loopAllowed (key / 16) l.owner = false → Traps key (.pistepr p gd gs1 gs2) s 0x0225 0 (BitVec.ofNat 32 id)) ∧
    (s.loopAllowed (key / 16) l.owner = true → fIsFinite e = false → ∃ k, 4 ≤ k ∧ k ≤ 42 ∧
      Does p key (.pistepr p gd gs1 gs2) s t ((c.setF gd l.out).flags fNV) k) ∧
    (s.loopAllowed (key / 16) l.owner = true → fIsFinite e = true → ∃ k, 4 ≤ k ∧ k ≤ 42 ∧
      Does p key (.pistepr p gd gs1 gs2) s (t.setLoop id (l.piStep e).1) (c.setFR gd (l.piStep e).2) k)) ∧
  (∀ (l : LoopRec) e, let r := l.piStep e; r.1.e = e ∧ r.1.out = r.2.1 ∧ r.1.a = l.a ∧ r.1.b = l.b ∧
    r.1.actB = l.actB ∧ r.1.pend = l.pend ∧ r.1.owner = l.owner)

/-- A tick, at the next count of the timebase that is a multiple of 128, evaluates every crew and then every leg. A
carrier that falls comes to its valley, one that rises to its peak, at the instant the carrier has kept: a valley takes
the catch point, the seam and the trims, and ends a stopping set or is a load point; at a peak the set falls, set 0 takes
the catch point where the crew catches at peaks and CFG.CDIV keeps it, due CDLY counts later, and no register changes
before the compares load. The hold of a seam crew that expires degrades it. An edge decision, at the instant the carrier
crosses the compare, changes a modulated leg once in a half carrier. The end of a dead time turns the waiting device on
where it may, or begins the pulse of a refresh. A change of an STO line is passed to every crew of the group, and the
ports that report STO inputs see it. Completes: tasTick, carrierValley, carrierPeak, seamHoldExpiry, edgeDecision,
deadTimeExpiry, stoLineChange. -/
def Obligations.ModulatorTick : Prop :=
  (∀ (s : State), s.bit F.MOD_STAT_ON = true → let t := max ((s.lastTick / 128 + 1) * 128) ((s.tb + 127) / 128 * 128)
    let u : State := { s.advanceTb t with lastTick := t }
    exec .tasTick s = .next (loopN 64 (fun x s => s.legTick x)
      (loopN 32 (fun n s => if s.crewState n = cUNUSED then s.idleTick n else s.crewTick n) u))) ∧
  (∀ (s : State) (n : CrewNo) (j : Fin 8), s.crewState n ≠ cUNUSED → j.val < s.crewM n → s.rising n j = false →
    let v := (s.advanceTb (s.car n j).next).valleyPrep n j
    ((v.crew n).stopSets.testBit j = true → exec (.carrierValley n j) s = .next (v.valleyStop n j)) ∧
    ((v.crew n).stopSets.testBit j = false → v.carrierCrew n = true → exec (.carrierValley n j) s = .next (v.loadPoint n j)) ∧
    ((v.crew n).stopSets.testBit j = false → v.carrierCrew n = false → exec (.carrierValley n j) s = .next v)) ∧
  (∀ (s : State) (n : CrewNo) (j : Fin 8), s.crewState n ≠ cUNUSED → j.val < s.crewM n → s.rising n j = true →
    let v := (s.advanceTb (s.car n j).next).peakPrep n j
    exec (.carrierPeak n j) s = .next (if v.carrierCrew n then v.peakGo n j else v)) ∧
  (∀ (s : State) (n : Nat) (j : Nat), let t := s.peakPrep n j
    (t.crew n).upSets = natBit (s.crew n).upSets j false ∧
    (1 ≤ s.get (F.CREW_CFG_CATCH n) → s.get (F.CREW_CFG_CATCH n) ≤ 2 → j = 0 → (s.crew n).catchN = 0 → (t.crew n).tc = s.tb ∧
      (t.crew n).catchDue = some (s.tb + s.get (F.CREW_CDLY_DLY n)) ∧ (t.crew n).catchN = s.get (F.CREW_CFG_CDIV n)) ∧
    (1 ≤ s.get (F.CREW_CFG_CATCH n) → s.get (F.CREW_CFG_CATCH n) ≤ 2 → j = 0 → (s.crew n).catchN ≠ 0 →
      (t.crew n).catchDue = (s.crew n).catchDue ∧ (t.crew n).catchN = (s.crew n).catchN - 1) ∧
    (∀ m, m ≠ n → t.crew m = s.crew m) ∧ SameRegs [] s t) ∧
  (∀ (s : State) (n : CrewNo), s.get (F.CREW_STAT_SEAMST n) = 3 → exec (.seamHoldExpiry n) s = .next ((s.until ((s.crew n).seamHold + s.get (F.CREW_SEAM_HOLD_MS n) * msCounts)).seamDegrade n)) ∧
  (∀ (s : State) (x : LegNo) n j i, s.legCrew x = some n → s.legSet n x = some (j, i) → s.setRuns n j = true → s.legModulated x = true →
    s.carrierCrew n = true → (s.leg x).changed = false → let c := s.get (F.LEG_CMP_C x)
    (s.leg x).want ≠ some (!s.rising n j) → c ≠ (if s.rising n j then s.crewH n else 0) →
    ∃ u : State, ∃ hi v, u = s.advanceTb (s.crossAt n j c) ∧ hi = !u.rising n j ∧
      v = u.legTo x hi (u.planEnd n j x (u.get (F.LEG_CMP_C x)) hi) ∧
      exec (.edgeDecision x) s = .next (v.setLeg x { v.leg x with changed := true })) ∧
  (∀ (s : State) (x : LegNo) hs, (s.leg x).pendOn = some hs →
    let u := s.advanceTb (max (s.leg x).pendAt (s.freeAt x hs))
    let v := (u.setLeg x { u.leg x with pendOn := none }).putB (F.LEG_LVL_DTW x) false
    (((v.leg x).refresh && !hs) = true → exec (.deadTimeExpiry x) s = .next (v.refreshOn x)) ∧
    (((v.leg x).refresh && !hs) = false → exec (.deadTimeExpiry x) s = .next (if v.mayOn x hs then v.edge x hs true else v))) ∧
  (∀ (s : State) (g : Oct), exec (.stoLineChange g) s = .next (loopN 16 (fun k s => s.stoTrack k)
    (loopL ((List.range 32).filter (fun n => s.crewGroup n == some g.val))
      (fun n u => u.crewSto n (u.groupSto g)) s)))

/-- START and STOP of a crew act in their states: START outside IDLE, or under the activation lock of a rig switch, does
nothing, a leg that is not modulated refuses it with 0x030C; STOP in ARMED makes the crew IDLE, in RUN it lets every
active set end at its next valley. CMD_AMP completes a command with the offset written before. A table word is read or
written at TBL_ADDR, which steps; a write to a table in use enters 0x0307. MODE of a leg in an armed or running crew is
refused with 0x030C; LEG_DT and LEG_MINPW obey the dead-time rules, faults 0x030A and 0x040A; for a leg of a crew the old
dead times stay in force until the next valley. A shoot lockout ends at its instant. The bootstrap refresh turns the high
side off TBMAX after its on-edge and the low side on after the dead time, and back after REFW. The chopper goes from fast
to slow decay at FDF / 64 of the off time, and at its end to the next on time. Completes: crewStart, crewStop,
cmdOfsWrite, cmdAmpWrite, angsetWrite, tblDataAccess, legModeWrite, legRawWrite, shootLockoutEnd, legDtWrite,
legMinpwWrite, bootstrapRefresh, refreshPulseEnd, chopFastDecayEnd, chopOffTimeEnd. -/
def Obligations.ModulatorRegs : Prop :=
  (∀ (s : State) (n : CrewNo), s.up (R.CREW_CTL n) → exec (.crewStart n) s = .next (s.crewStart n) ∧
    exec (.crewStop n) s = .next (s.crewStop n)) ∧
  (∀ (s : State) (n : CrewNo), s.up (R.CREW_CTL n) → s.crewState n ≠ cIDLE → exec (.crewStart n) s = .next s) ∧
  (∀ (s : State) (n : CrewNo), s.up (R.CREW_CTL n) → s.crewState n = cIDLE → s.actLock = true → exec (.crewStart n) s = .next s) ∧
  (∀ (s : State) (n : CrewNo) x, s.up (R.CREW_CTL n) → s.crewState n = cIDLE → s.actLock = false →
    (s.crewLegs n).find? (fun x => !s.legModulated x) = some x → exec (.crewStart n) s = .next (s.fault 0x030C x)) ∧
  (∀ (s : State) (n : CrewNo), s.up (R.CREW_CTL n) → s.crewState n = cARMED → exec (.crewStop n) s =
    .next (profCrewState n ((s.crewOff n).setCrewState n cIDLE))) ∧
  (∀ (s : State) (n : CrewNo), s.up (R.CREW_CTL n) → s.crewState n = cRUN → s.get (F.CREW_STAT_SETS n) ≠ 0 →
    exec (.crewStop n) s = .next (s.setCrew n { s.crew n with stopSets := s.get (F.CREW_STAT_SETS n) })) ∧
  (∀ (s : State) (n : CrewNo) v w u, s.up (R.CREW_CMD_OFS n) → s.takeWord (R.CREW_CMD_OFS n) v = (w, u) →
    exec (.cmdOfsWrite n v) s = .next (u.wr (R.CREW_CMD_OFS n) w)) ∧
  (∀ (s : State) (n : CrewNo) v w u, s.up (R.CREW_CMD_AMP n) → s.takeWord (R.CREW_CMD_AMP n) v = (w, u) →
    ∃ t : State, exec (.cmdAmpWrite n v) s = .next t ∧ t.rd (R.CREW_CMD_AMP n) = w ∧
    (∃ q, (t.crew n).cmds = (u.crew n).cmds ++ [q] ∧ q.arrival = u.tb ∧ q.amp = w ∧ q.load = (u.crew n).load ∧
      q.ofs = (u.wr (R.CREW_CMD_AMP n) w).rd (R.CREW_CMD_OFS n)) ∧ (∀ m, m ≠ n.val → t.crew m = u.crew m) ∧ SameRegs [R.CREW_CMD_AMP n] u t ∧ SameMem u t) ∧
  (∀ (s : State) (n : CrewNo) v w u, s.up (R.CREW_ANGSET n) → s.takeWord (R.CREW_ANGSET n) v = (w, u) →
    exec (.angsetWrite n v) s = .next (u.setCrew n { u.crew n with angSet := some w })) ∧
  (∀ (s : State), s.up R.MOD_TBL_DATA → let a := s.get F.MOD_TBL_ADDR_TABLE * 16384 + s.get F.MOD_TBL_ADDR_INDEX
    let b := (a + 1) % 262144
    (∃ t : State, exec (.tblDataAccess none) s = .next t ∧ t.rdata = s.ptabAt a ∧ t.ptab = s.ptab ∧ SameMem s t) ∧
    (∀ v, s.bitAt F.MOD_TBUSE_USE (a / 16384) = true → exec (.tblDataAccess (some v)) s = .next (s.fault 0x0307 (a / 16384))) ∧
    (∀ v, s.bitAt F.MOD_TBUSE_USE (a / 16384) = false → exec (.tblDataAccess (some v)) s =
      .next (((s.setPtab a v).put F.MOD_TBL_ADDR_TABLE (b / 16384)).put F.MOD_TBL_ADDR_INDEX (b % 16384)))) ∧
  (∀ (s : State) (x : LegNo) m, s.up (R.LEG_CTL x) → s.legCrew x = none → m.toNat ≠ 3 → m.toNat ≠ s.get (F.LEG_CTL_MODE x) →
    exec (.legModeWrite x m) s = .next ((s.put (F.LEG_CTL_MODE x) m.toNat).setLeg x { s.leg x with modePend := true })) ∧
  (∀ (s : State) (x : LegNo) m n, s.up (R.LEG_CTL x) → s.legCrew x = some n → s.crewState n = cARMED ∨ s.crewState n = cRUN →
    exec (.legModeWrite x m) s = .next (s.fault 0x030C x)) ∧
  (∀ (s : State) (x : LegNo) hs ls, s.up (R.LEG_RAW x) → exec (.legRawWrite x hs ls) s =
    .next (((s.putB (F.LEG_RAW_HS x) hs).putB (F.LEG_RAW_LS x) ls).setLeg x { s.leg x with rawPend := true })) ∧
  (∀ (s : State) (x : LegNo), s.bit (F.LEG_LVL_LOCK x) = true → s.legCrew x = none →
    let u := s.advanceTb ((s.leg x).lockAt + 80000 + max (s.dtLH x) (s.dtHL x))
    exec (.shootLockoutEnd x) s = .next ((u.setLeg x { u.leg x with lockEnd := none }).putB (F.LEG_LVL_LOCK x) false)) ∧
  (∀ (s : State) (x : LegNo) n t, s.bit (F.LEG_LVL_LOCK x) = true → s.legCrew x = some n → (s.leg x).lockEnd = some t →
    let u := s.advanceTb t
    exec (.shootLockoutEnd x) s = .next ((u.setLeg x { u.leg x with lockEnd := none }).putB (F.LEG_LVL_LOCK x) false)) ∧
  (∀ (s : State) (x : LegNo) v w r, s.up (R.LEG_DT x) → s.takeWord (R.LEG_DT x) v = (w, r) →
    let hl := bitsOf w.toNat 25 16; let lh := bitsOf w.toNat 9 0; let pw := r.get (F.LEG_MINPW_PW x)
    (hl < r.legDtMin x ∨ lh < r.legDtMin x → exec (.legDtWrite x v) s = .next (r.fault 0x030A x)) ∧
    (r.legDtMin x ≤ hl → r.legDtMin x ≤ lh → hl + pw < 176 ∨ lh + pw < 176 →
      exec (.legDtWrite x v) s = .next (r.fault 0x040A x)) ∧
    (r.legDtMin x ≤ hl → r.legDtMin x ≤ lh → 176 ≤ hl + pw → 176 ≤ lh + pw →
      let t := (r.put (F.LEG_DT_DT_HL x) hl).put (F.LEG_DT_DT_LH x) lh
      (t.legCrew x = none → exec (.legDtWrite x v) s = .next t) ∧
      (t.legCrew x ≠ none → exec (.legDtWrite x v) s =
        .next (t.setLeg x { r.leg x with dtAct := some ((r.leg x).dtAct.getD (r.rd (R.LEG_DT x))) })))) ∧
  (∀ (s : State) (x : LegNo) (pw : BitVec 8), s.up (R.LEG_MINPW x) → 40 ≤ pw.toNat →
    176 ≤ bitsOf (s.rd (R.LEG_DT x)).toNat 25 16 + pw.toNat → 176 ≤ bitsOf (s.rd (R.LEG_DT x)).toNat 9 0 + pw.toNat →
    exec (.legMinpwWrite x pw) s = .next (s.put (F.LEG_MINPW_PW x) pw.toNat)) ∧
  (∀ (s : State) (x : LegNo) (pw : BitVec 8), s.up (R.LEG_MINPW x) → 40 ≤ pw.toNat →
    bitsOf (s.rd (R.LEG_DT x)).toNat 25 16 + pw.toNat < 176 ∨ bitsOf (s.rd (R.LEG_DT x)).toNat 9 0 + pw.toNat < 176 →
    exec (.legMinpwWrite x pw) s = .next (s.fault 0x040A x)) ∧
  (∀ (s : State) (x : LegNo), s.bit (F.LEG_CTL_CPEN x) = false → s.get (F.LEG_BOOT_TBMAX x) ≠ 0 → s.getLvl x true = true →
    let u := s.advanceTb ((s.leg x).hsOn + s.get (F.LEG_BOOT_TBMAX x) * 800)
    let v := (u.incSat (F.LEG_REFCNT_COUNT x)).raise (F.LEG_EVT_BOOTCAP x)
    let w := State.edge (match v.legCrew x with
      | some n => v.raise (F.CREW_EVT_BOOTCAP n)
      | none => v) x true false
    exec (.bootstrapRefresh x) s = .next ((w.setLeg x { w.leg x with
      refresh := true, pendOn := some false, pendAt := w.tb + w.dtHL x }).putB (F.LEG_LVL_DTW x) true)) ∧
  (∀ (s : State) (x : LegNo), (s.leg x).refresh = true → (s.leg x).pendOn = none →
    let u := State.edge (s.advanceTb ((s.leg x).refAt + max 1 (s.get (F.LEG_BOOT_REFW x)))) x false false
    exec (.refreshPulseEnd x) s = .next ((u.setLeg x { u.leg x with
      refresh := false, pendOn := some true, pendAt := u.tb + u.dtLH x }).putB (F.LEG_LVL_DTW x) true)) ∧
  (∀ (s : State) (n : CrewNo) b, s.crewState n = cRUN → s.chopCrew n = true → (s.chop n b).st = .fast →
    let u := s.advanceTb ((s.chop n b).offAt + (s.chop n b).fastLen n)
    exec (.chopFastDecayEnd n b) s = .next ((u.setChop n b { u.chop n b with st := .slow }).chopApply n b)) ∧
  (∀ (s : State) (n : CrewNo) b, s.crewState n = cRUN → s.chopCrew n = true → (s.chop n b).st = .slow →
    let u := if (s.chop n b).offRun then s.advanceTb ((s.chop n b).offAt + (s.chop n b).toff n) else s
    exec (.chopOffTimeEnd n b) s = .next (if u.chopRef n b ≠ 0 then u.chopOn n b
      else u.setChop n b { s.chop n b with offRun := false }))

/-- In UP a downlink frame takes the eligible events from the queue and is numbered and timed as the next frame, 100 ns
after the one before; in SYNC and CAP it is a training frame of the stage; in OFF, LOST and FAILED the line is idle. An
uplink frame whose line bits, codes and CRC are good is taken in; a bad one counts in ULBADCNT and the third in a row is
the loss of the link with fault 0x0401. STAT.STOIN is compared with the STO group of the tile, and a difference of more
than 20 us is fault 0x0409. EN, RETRAIN, the training frames and time-outs follow the port state machine, up to the slot
of frame 0 and EVT.TRAINED. A maintenance request waits as a MOP 1 and a MOP 2 or 3, or sets OVF where 8 wait. The
diagnostic goes on SETTLE x 10 us after it wrote the mode. Completes: downlinkFrame, uplinkFrame, stoDisagree, yilosEn,
yilosRetrain, trainingFrame, trainingTimeout, linkUp, parkComplete, yilosClr, yilosMwr, diagStart, diagSettleEnd. -/
def Obligations.YilosLink : Prop :=
  (∀ (s : State) (k : TileNo), s.linkState k = lUP → ∃ t : State, exec (.downlinkFrame k) s = .next t ∧ (t.link k).slot = (s.nextFrame k).2 ∧
    (t.link k).next = (s.nextFrame k).1 + 1 ∧ t.rd (R.YILOS_FNUM k) = BitVec.ofNat 32 (s.nextFrame k).1 ∧
    (t.link k).queue = (frameTake (s.nextFrame k).1 (s.nextFrame k).2 ((s.advanceTb ((s.nextFrame k).2 - 33)).link k).queue).2) ∧
  (∀ (s : State) (k : TileNo), (s.linkState k = lSYNC → exec (.downlinkFrame k) s = .next (s.sendTrain k 1 0)) ∧
    (s.linkState k = lCAP → exec (.downlinkFrame k) s = .next (s.sendTrain k 2 0)) ∧
    (s.linkState k = lOFF ∨ s.linkState k = lLOST ∨ s.linkState k = lFAILED → exec (.downlinkFrame k) s = .next s)) ∧
  (∀ (s : State) (k : TileNo) tt b1, let t := s.sendTrain k tt b1
    (t.link k).slot = s.trainSlot k ∧ (t.link k).line = some (encLine (s.link k).txNeg (trainChars (BitVec.ofNat 8 tt) [BitVec.ofNat 8 b1])).1) ∧
  (∀ (s : State) (k : TileNo) o g, (s.linkState k ≠ lUP → exec (.uplinkFrame k o g) s = .next s) ∧
    (∀ f u, s.linkState k = lUP → s.upRx k (lineIn false o g) = (f, u) → exec (.uplinkFrame k o g) s = .next (u.uplinkTake k f.good))) ∧
  (∀ (s : State) (k : TileNo) w, w.getLsbD 42 = false → s.uplinkTake k (some w) =
    (s.setLink k { s.link k with upNum := (s.link k).upNum + 1, badRow := 0, prevBad := some false, up := some w }).uplinkGood
      k (s.link k).upNum w.toNat (w.getLsbD 42) (s.link k)) ∧
  (∀ (s : State) (k : TileNo), let u := (s.setLink k { s.link k with
        upNum := (s.link k).upNum + 1, badRow := (s.link k).badRow + 1, prevBad := none, up := none }).incSat (F.YILOS_ULBADCNT_COUNT k)
    ((s.link k).badRow + 1 < 3 → s.uplinkTake k none = u) ∧
    (3 ≤ (s.link k).badRow + 1 → s.uplinkTake k none = u.linkLost k)) ∧
  (∀ w, RxFrame.good (.payload w) = (if crc10Ok w then some w else none)) ∧ RxFrame.good .bad = none ∧
  (∀ (s : State) (k : TileNo), s.linkLost k =
    ((((s.fault 0x0401 k).raise (F.YILOS_EVT_LINKLOST k)).diagAbort k).linkDown k lLOST).tileSetsFail k) ∧
  (∀ (s : State) (k : TileNo), (∀ d, (s.link k).stoDiff = some d → (s.link k).stoSaid = false → let u := s.advanceTb (d + 16001)
      exec (.stoDisagree k) s = .next ((u.setLink k { s.link k with stoSaid := true }).fault 0x0409 k)) ∧
    ((s.link k).stoDiff = none → exec (.stoDisagree k) s = .next s)) ∧
  (∀ (s : State) (k : TileNo), s.bit (F.YILOS_STAT_STOIN k) = s.tileSto k → ((s.stoTrack k).link k).stoDiff = none) ∧
  (∀ (s : State) (k : TileNo), s.linkState k = lUP → s.bit (F.YILOS_STAT_STOIN k) ≠ s.tileSto k → (s.link k).stoDiff = none →
    ((s.stoTrack k).link k).stoDiff = some s.tb) ∧
  (∀ (s : State) (k : TileNo), s.up (R.YILOS_CTL k) →
    (∀ en, exec (.yilosEn k en) s = .next (let u := s.putB (F.YILOS_CTL_EN k) en
      if en then (if u.linkState k = lOFF && u.portReady k then u.startTraining k else u) else u.stopPort k)) ∧
    exec (.yilosRetrain k) s = .next (if (s.linkState k = lLOST || s.linkState k = lFAILED) && s.bit (F.YILOS_CTL_EN k) && s.domainRun 8
      then s.startTraining k else s)) ∧
  (∀ (s : State) (k : TileNo) e o g t1 t2 f u, s.linkState k = lSYNC ∨ s.linkState k = lCAP ∨ s.linkState k = lDELAY ∨ s.linkState k = lVER →
    s.upRx k (lineIn e o g) = (f, u) → exec (.trainingFrame k e o g t1 t2) s = .next (u.trainingFrame k f (t2 - t1))) ∧
  (∀ (s : State) (k : TileNo) b rt, s.linkState k = lSYNC →
    (63 ≤ (s.link k).syncN → (s.trainingFrame k (.training 1 b) rt).linkState k = lCAP) ∧
    (s.trainingFrame k .bad rt = s.setLink k { s.link k with syncN := 0 })) ∧
  (∀ (s : State) (k : TileNo), (s.linkState k = lSYNC → exec (.trainingTimeout k) s = .next ((s.advanceTb ((s.link k).stAt + 80000)).trainFail k 0x0402)) ∧
    (s.linkState k = lCAP → exec (.trainingTimeout k) s = .next ((s.advanceTb ((s.link k).stAt + 16000)).trainFail k 0x0403)) ∧
    (s.linkState k = lDELAY → exec (.trainingTimeout k) s = .next ((s.advanceTb ((s.link k).stAt + 8000)).trainFail k 0x0405)) ∧
    (s.linkState k = lVER → s.get (F.YILOS_STAT_VER k) = 0 →
      exec (.trainingTimeout k) s = .next ((s.advanceTb ((s.link k).stAt + 8000)).trainFail k 0x0404))) ∧
  (∀ (s : State) (k : TileNo), s.linkState k = lVER → s.get (F.YILOS_STAT_VER k) ≠ 0 → (s.link k).startLeft = 0 →
    ∃ t : State, exec (.linkUp k) s = .next (t.raise (F.YILOS_EVT_TRAINED k)) ∧ (t.link k).s0 = s.trainSlot k ∧ (t.link k).upNum = 0) ∧
  (∀ (s : State) (k : TileNo), s.linkState k = lPARK → (s.link k).queue = [] → (s.link k).parkLeft = 0 → exec (.parkComplete k) s =
    .next (if (s.linkDown k lOFF).portReady k then (s.linkDown k lOFF).startTraining k else s.linkDown k lOFF)) ∧
  (∀ (s : State) (k : TileNo), s.up (R.YILOS_CLR k) → ∃ t : State, exec (.yilosClr k) s = .next t ∧ t.get (F.YILOS_QSTAT_QMAX k) = 0) ∧
  (∀ (s : State) (k : TileNo) rd (a d : Byte), s.up (R.YILOS_MWR k) →
    (16 < (s.link k).mops.length + 2 → exec (.yilosMwr k rd a d) s = .next (s.raise (F.YILOS_MSTAT_OVF k))) ∧
    ((s.link k).mops.length + 2 ≤ 16 → ∃ t : State, exec (.yilosMwr k rd a d) s = .next t ∧
      (t.link k).mops = (s.link k).mops ++ [(1, a.toNat), (if rd then 3 else 2, if rd then 0 else d.toNat)])) ∧
  (∀ (s : State) (k : TileNo) v w t, s.up (R.YILOS_DIAG_CTL k) → s.takeWord (R.YILOS_DIAG_CTL k) v = (w, t) →
    let u := (t.put (F.YILOS_DIAG_CTL_LEGS k) (bitsOf w.toNat 3 0)).put (F.YILOS_DIAG_CTL_SETTLE k) (bitsOf w.toNat 23 16)
    exec (.diagStart k v) s = .next (if w.getLsbD 8 then u.diagStart k else u)) ∧
  (∀ (s : State) (k : TileNo) r0 r1 r2 r3 t, (s.link k).diag.bind (·.sent) = some t →
    exec (.diagSettleEnd k r0 r1 r2 r3) s = .next (s.diagSettled k t [r0.toNat, r1.toNat, r2.toNat, r3.toNat])) ∧
  (∀ (s : State) (k : TileNo) d v0, d.mode = 3 → s.diagSettle k d v0 =
    (s.setLink k { s.link k with diag := some { d with mode := 1, v0 := v0, sent := none, qs := [], sel := none, cur := [] } }).diagWrite k (1 + 4 * d.leg))

/-- A tile that waits for training takes no payload frame: SYNC aligns it, PARK clears its latches. In operation a good
frame gives its events and its snapshot, and the tile answers with its uplink frame; the third bad frame in a row turns
every switch off, drops the waiting events and waits for training. The earliest waiting events are applied together, by
apply instant, group-off first. An STO input that goes off turns every gate off and drops the waiting on-events; it
returns with the output it is wired to, and a snapshot level turns no switch on before its next on-event. A protection
sets the latch of its switch with its cause and turns the switch off; while any cause stands, or the supply is low, the
switch stays off, and a level alone never clears a latch. A deferred switch turns on only once its partner is off and the
dead time has passed. That the cause of a slope trip has gone with the current is the choice of the model (log entry 41),
and so is that an STO input returns only with its output (log entry 80). Completes: tileFrameReceive, tileEventApply,
tileStoInput, tileUvlo, tileDidtTrip, tileOvertempShutdown, tilePowerUp, tileInterlockRelease. -/
def Obligations.YilosTile : Prop :=
  (∀ (s : State) (k : TileNo) e o g f u, s.downRx k (lineIn e o g) = (f, u) →
    ((u.tile k).waiting = true → (∀ w, f = .payload w ∨ f = .bad → exec (.tileFrameReceive k e o g) s = .next u) ∧
      (∀ tt b, f = .training tt b → exec (.tileFrameReceive k e o g) s = .next (u.tileTrain k tt.toNat (leAt b 0 1) b))) ∧
    ((u.tile k).waiting = false → exec (.tileFrameReceive k e o g) s = .next (u.tileRun k f))) ∧
  (∀ (s : State) (k : Nat) b1 b, s.tileTrain k 1 b1 b = (s.setTile k { s.tile k with synced := true, capOfs := 0, ver := 0 }).tilePut k (trainChars 1 []) ∧
    s.tileTrain k 7 b1 b = s.setTile k ((s.tile k).park s.tb)) ∧
  (∀ (s : State) (k : Nat) w, let n := (s.tile k).frameNo
    let a := (s.link k).s0 + 80 * n + 160
    let u := s.advanceTb (a + 32)
    (tileBad (s.tile k) w.toNat (n % 32 = 31) = true → let v := u.setTile k ((s.tile k).badFrame u.tb)
      s.tileRun k (.payload w) = (if (v.tile k).waiting then v else v.tileUplink k a)) ∧
    (tileBad (s.tile k) w.toNat (n % 32 = 31) = false → let v := u.tileGood k w.toNat n (n % 32 = 31) a (s.tile k)
      s.tileRun k (.payload w) = (if (v.tile k).waiting then v else v.tileUplink k a)) ∧
    (∀ b, s.tileRun k (.training 7 b) = u.setTile k ((s.tile k).park u.tb))) ∧
  (∀ (t : TileRec) at_, (t.park at_).lvl = (t.off 255 at_).lvl ∧ (t.park at_).latch = 0 ∧ (t.park at_).pend = [] ∧ (t.park at_).waiting = true) ∧
  (∀ (t : TileRec) at_, (t.bad + 1 < 3 → t.badFrame at_ =
      { t with bad := t.bad + 1, prevGood := false, prevFmt := none, dlbad := true, frameNo := t.frameNo + 1 }) ∧
    (3 ≤ t.bad + 1 → (t.badFrame at_).waiting = true ∧ (t.badFrame at_).lvl = (t.off 255 at_).lvl ∧ (t.badFrame at_).pend = [] ∧
      (t.badFrame at_).latch = t.latch)) ∧
  (∀ (s : State) (k : TileNo) e r, (s.tile k).pend = e :: r → let m := r.foldl (fun m x => min m x.td) e.td
    exec (.tileEventApply k) s = .next ((s.advanceTb m).tileDue k m)) ∧
  (∀ (s : State) (k : Nat) (t : Nat), s.tileDue k t = loopL (apSort ((s.tile k).pend.filter (fun e => e.td ≤ t))) (fun e s => s.tileEv k e.kind e.td)
    (s.setTile k { s.tile k with pend := (s.tile k).pend.filter (fun e => !(e.td ≤ t)) })) ∧
  (∀ (s : State) (k : TileNo) b, ∃ t : State, exec (.tileStoInput k b true) s = .next t ∧ (if b then (t.tile k).stoB else (t.tile k).stoA) = true ∧
    (t.tile k).lvl = ((s.tile k).off 255 s.tb).lvl ∧ (t.tile k).stoHold = 255 ∧ (t.tile k).stoSeen = true ∧ ∀ e ∈ (t.tile k).pend, e.kind.rank < 2) ∧
  (∀ (s : State) (k : TileNo) b, (s.tileWire k b = true → exec (.tileStoInput k b false) s =
      .next (s.setTile k (if b then { s.tile k with stoB := false } else { s.tile k with stoA := false }))) ∧
    (s.tileWire k b = false → exec (.tileStoInput k b false) s = .next s)) ∧
  (∀ (s : State) (k : TileNo) (w : Fin 8) d, exec (.tileOvertempShutdown k w d true) s = .next (s.tileLatch k w (if d then 6 else 4) true) ∧
    exec (.tileOvertempShutdown k w d false) s = .next (s.tileCauseGone k w (if d then 6 else 4))) ∧
  (∀ (s : State) (k w c : Nat) st, w < 8 → ((s.tileLatch k w c st).tile k).latch = natBit (s.tile k).latch w true ∧
    ((s.tileLatch k w c st).tile k).lvl = ((s.tile k).off (2 ^ w) s.tb).lvl ∧ mget 0 ((s.tileLatch k w c st).tile k).cause w = c) ∧
  (∀ (s : State) (k w at_ : Nat), (s.tile k).uvHold.testBit w = true ∨ ((s.tile k).latch.testBit w = true ∧ mget 0 (s.tile k).present w ≠ 0) →
    s.tileOn k w at_ true = s) ∧
  (∀ (s : State) (k w at_ : Nat), (s.tile k).latch.testBit w = true ∨ (s.tile k).stoHold.testBit w = true → s.tileOn k w at_ false = s) ∧
  (∀ (s : State) (k : TileNo) (p : Fin 4), let u := s.tileLatch k (2 * p.val + 1) 3 true
    exec (.tileUvlo k (some p) true) s = .next (u.setTile k { u.tile k with uvHold := natBit (u.tile k).uvHold (2 * p.val + 1) true }) ∧
    (let v := s.tileCauseGone k (2 * p.val + 1) 3
     exec (.tileUvlo k (some p) false) s = .next (v.setTile k { v.tile k with uvHold := natBit (v.tile k).uvHold (2 * p.val + 1) false }))) ∧
  (∀ (s : State) (k : TileNo) (w : Fin 8), let u := s.tileLatch k w (if (s.tile k).ver = 2 then 1 else 6) false
    exec (.tileDidtTrip k w) s = .next (u.setTile k { u.tile k with trip := some (w.val, u.tb) })) ∧
  (∀ (s : State) (k : TileNo), exec (.tilePowerUp k) s = .next (s.setTile k { stoA := (s.tile k).stoA, stoB := (s.tile k).stoB })) ∧
  (∀ (s : State) (k : TileNo) (w : Fin 8), (s.tile k).defer.testBit w = true → (s.tile k).lvl.testBit (partner w) = false →
    (s.tile k).sto = false → let u := s.advanceTb (mget 0 (s.tile k).offAt (partner w) + tileDt k w)
    exec (.tileInterlockRelease k w) s = .next (u.setTile k { u.tile k with
      defer := natBit (s.tile k).defer w false, lvl := natBit (s.tile k).lvl w true })) ∧
  (∀ (s : State) (k : TileNo) (w : Fin 8), (s.tile k).lvl.testBit (partner w) = true → exec (.tileInterlockRelease k w) s = .next s)

/-- The samples of an uplink frame enter five streams 50 ns apart, the latest at the anchor of the frame; a missing sample
repeats the last good one and is marked. Every result lies between -32,767 and 32,767. A fast result is formed for every
sample with the crew decimation, shown, summed and checked for overcurrent: OCN results in a row above LIM stop the crew
with 0x0503; that of a link voltage is checked against the levels of its tile. A control result is aligned to the catch
where CEN is 1 and otherwise follows R samples after the one before. The energy counters are cleared by ECLR, and a read
of the low word latches the high word. That the row of results starts anew after a break of the link is the choice of the
model (log entry 85). Completes: sincSampleEntry, fastResult, controlResult, eclrWrite, eposLRead, enegLRead. -/
def Obligations.SincResults : Prop :=
  (∀ (s : State) (k : TileNo), s.linkState k ≠ lUP ∨ (s.link k).upNum = 0 → exec (.sincSampleEntry k) s = .next s) ∧
  (∀ (s : State) (k : TileNo), s.linkState k = lUP → (s.link k).upNum ≠ 0 →
    let a := (s.link k).s0 + ((s.link k).upNum - 1) * 80 + 160
    let bit := fun (i : Nat) => (s.link k).up.map (fun f => f.toNat.testBit i)
    (s.sinc (64 + k.val)).newest < a →
    exec (.sincSampleEntry k) s = .next (loopL ((List.range 4).map (fun p => (4 * k.val + p, 2 * p)) ++ [(64 + k.val, 8)])
      (fun q u => u.setSinc q.1 (((u.sinc q.1).push (a - 40) (bit q.2)).push a (bit (q.2 + 1)))) (s.advanceTb (a + 224)))) ∧
  (∀ (r : SincRec) t, (r.push t none).bits.head? = some (r.lastGood, true) ∧ (r.push t none).lastGood = r.lastGood ∧
    ∀ b, (r.push t (some b)).bits.head? = some (b, false) ∧ (r.push t (some b)).lastGood = b) ∧
  (∀ r taps tot skip ofs gain, -32767 ≤ (sincResult r taps tot skip ofs gain).i ∧ (sincResult r taps tot skip ofs gain).i ≤ 32767) ∧
  (∀ (s : State) (x : StreamNo) d, exec (.fastResult x d) s = .next (s.formFast x ((s.sinc x).nextL (s.sinc x).fastL 40) d)) ∧
  (∀ (s : State) (x l d : Nat), let z := (s.setSinc x { s.sinc x with fastL := l }).resultAt l d
    let q := ((s.sinc x).newest - l) / 40
    ((s.sinc x).newest < l → s.formFast x l d = s) ∧
    (∀ n, l ≤ (s.sinc x).newest → x < 64 → s.legCrew x = some n → s.formFast x l d = z.fastLeg n x q) ∧
    (l ≤ (s.sinc x).newest → x < 64 → s.legCrew x = none → s.formFast x l d = z) ∧
    (l ≤ (s.sinc x).newest → 64 ≤ x → s.formFast x l d = z.fastTile (x - 64) q)) ∧
  (∀ (s : State) (n x q : Nat), let rf := s.get (F.SINC_CREW_CFG_RF n)
    let i := (sincResult (s.sinc x) (taps2 rf) (rf ^ 2) q (s.get (F.SINC_LEG_CAL_OFS x)) (s.get (F.SINC_LEG_CAL_GAIN x))).i
    let u := s.putI (F.SINC_LEG_FRES_I x) i
    let v := u.setSinc x { u.sinc x with fast := i }
    let w := v.setLeg x { v.leg x with fastSum := (v.leg x).fastSum + i, fastN := (v.leg x).fastN + 1 }
    s.fastLeg n x q = (w.overcurrent n x i).fastChop n x i) ∧
  (∀ (s : State) (k q : Nat), let rf := s.get F.SINC_CTL_RFV
    let v := (sincResult (s.sinc (64 + k)) (taps2 rf) (rf ^ 2) q 0 32768).i
    let u := s.putI (F.SINC_TILE_VDCF_V k) v
    let w := (u.setSinc (64 + k) { u.sinc (64 + k) with fast := v }).dcCheck k v
    s.fastTile k q = loopL ((List.range 32).filter (fun n => w.crewKind n == 5 && w.crewLeg n 0 0 / 4 == k)) (fun n u => u.dumpSwitch n v) w) ∧
  (∀ (s : State) (x : StreamNo) d n, x.val < 64 → s.legCrew x = some n → exec (.controlResult x d) s = .next (s.formCtl x
    (if s.bit (F.SINC_CREW_CFG_CEN n) then s.alignedAt n
     else (s.sinc x).nextL (s.sinc x).ctlL (40 * s.get (F.SINC_CREW_CFG_R n))) d)) ∧
  (∀ (s : State) (x : StreamNo) d, (x.val < 64 → s.legCrew x = none → exec (.controlResult x d) s = .next s) ∧
    (64 ≤ x.val → exec (.controlResult x d) s = .next (s.formCtl x ((s.sinc x).nextL (s.sinc x).ctlL (40 * s.get F.SINC_CTL_RV)) d))) ∧
  (∀ (s : State) (x l d : Nat), ((s.sinc x).newest < l ∨ l ≤ (s.sinc x).ctlL → s.formCtl x l d = s) ∧
    (l ≤ (s.sinc x).newest → (s.sinc x).ctlL < l → let z := (s.setSinc x { s.sinc x with ctlL := l }).resultAt l d
      let r := z.ctlResult x (((s.sinc x).newest - l) / 40)
      s.formCtl x l d = (if r.sat && x < 64 then z.incSat (F.SINC_LEG_SATCNT_COUNT x) else z).storeCtl x r)) ∧
  (∀ (s : State) (n x : Nat) i, (i.natAbs ≤ s.get (F.CREW_OCLIM_LIM n) → s.overcurrent n x i = s.setSinc x { s.sinc x with oc := 0, ocHit := false }) ∧
    (∀ j q, s.legSet n x = some (j, q) → s.setActive n j = true → s.crewState n = cRUN → s.get (F.CREW_OCLIM_LIM n) < i.natAbs →
      max 1 (s.get (F.CREW_OCLIM_OCN n)) ≤ (s.sinc x).oc + 1 →
      s.overcurrent n x i = ((s.setSinc x { s.sinc x with oc := (s.sinc x).oc + 1, ocHit := true }).fault 0x0503 x).faultStop n 0x0503 x)) ∧
  (∀ (s : State) (n : CrewNo), s.up (R.SINC_CREW_ECLR n) → exec (.eclrWrite n true) s = .next (s.setCrew n { s.crew n with epos := 0, eneg := 0 }) ∧
    exec (.eclrWrite n false) s = .next s) ∧
  (∀ (s : State) (n : CrewNo), s.up (R.SINC_CREW_EPOS_L n) → ∃ t : State, exec (.eposLRead n) s = .next t ∧
    t.rdata = BitVec.ofNat 32 (energyMj (s.crew n).epos) ∧ t.rd (R.SINC_CREW_EPOS_H n) = BitVec.ofNat 32 (energyMj (s.crew n).epos / 2 ^ 32)) ∧
  (∀ (s : State) (n : CrewNo), s.up (R.SINC_CREW_ENEG_L n) → ∃ t : State, exec (.enegLRead n) s = .next t ∧
    t.rdata = BitVec.ofNat 32 (energyMj (s.crew n).eneg) ∧ t.rd (R.SINC_CREW_ENEG_H n) = BitVec.ofNat 32 (energyMj (s.crew n).eneg / 2 ^ 32))

/-- The hold of the guard ends in COOL, the cool time re-arms it, the render limit trips it and a recovery re-arms it;
neither ends a render that an EMG pin began, and the render limit goes first where both come at one count. An EMG pin is
sampled every 100 us and changes with the tenth sample in a row at its other level; each sample serves every used crew. A
crew without sensor whose speed has been below the lowest for TLOW goes into fault stop with cause 0x0522. Completes:
guardHoldEnd, guardCoolEnd, guardRenderLimit, guardRecover, emgSample, slessLowspeed. -/
def Obligations.SnatchGuard : Prop :=
  (∀ (s : State) (n : CrewNo), s.guardSt n = gHOLD → ∃ t : State, exec (.guardHoldEnd n) s = .next t ∧ t.guardSt n = gCOOL ∧
    (t.crew n).guard.t0 = max s.now ((s.crew n).guard.t0 + s.get (F.CREW_G_TIME_HOLD n) * msCounts)) ∧
  (∀ (s : State) (n : CrewNo), s.guardSt n = gCOOL → (s.get (F.CREW_G_TIME_COOL n) ≠ 0 → exec (.guardCoolEnd n) s =
    .next ((s.until ((s.crew n).guard.t0 + s.get (F.CREW_G_TIME_COOL n) * msCounts)).guardArm n)) ∧
    (s.get (F.CREW_G_TIME_COOL n) = 0 → exec (.guardCoolEnd n) s =
    .next ((s.until ((s.crew n).guard.t0 + (128 - (s.tb - (s.now - (s.crew n).guard.t0)) % 128))).guardArm n))) ∧
  (∀ (s : State) (n : CrewNo), s.guardSt n = gRENDER → (s.crew n).guard.byEmg = false →
    exec (.guardRenderLimit n) s = .next ((s.until ((s.crew n).guard.t0 + s.get (F.CREW_G_RTIME_RMAX n) * 1000 * msCounts)).guardTrip n) ∧
    (∀ z, (s.crew n).guard.since = some z →
      z + s.get (F.CREW_G_RTIME_RDWELL n) * msCounts < (s.crew n).guard.t0 + s.get (F.CREW_G_RTIME_RMAX n) * 1000 * msCounts → exec (.guardRecover n) s =
      .next (((s.until (z + s.get (F.CREW_G_RTIME_RDWELL n) * msCounts)).raise (F.CREW_G_EVT_RECOVER n)).guardBack n))) ∧
  (∀ (s : State) (n : CrewNo), s.guardSt n = gRENDER → (s.crew n).guard.byEmg = true → exec (.guardRenderLimit n) s = .next s ∧
    exec (.guardRecover n) s = .next s) ∧
  (∀ (p : EmgPin) low, (low = p.on → p.sample low = { p with n := 0 }) ∧
    (low ≠ p.on → 9 ≤ p.n → (p.sample low).on = low) ∧ (low ≠ p.on → p.n < 9 → (p.sample low).on = p.on)) ∧
  (∀ (s : State) l0 l1, let w := s.until (s.emgAt + 80000)
    let u : State := { w with emgAt := w.now, emg0 := s.emg0.sample l0, emg1 := s.emg1.sample l1 }
    exec (.emgSample l0 l1) s = .next (loopL ((List.range 32).filter (fun n => u.crewState n != cUNUSED))
      (fun n v => v.emgCrew (u.emg0.on && !s.emg0.on) (u.emg1.on && !s.emg1.on) n) u)) ∧
  (∀ (s : State) (n : CrewNo) x, (s.crew n).slowAt = some x → exec (.slessLowspeed n) s =
    .next (((s.until (x + s.get (F.CREW_SLESS_TLOW n) * msCounts)).fault 0x0522 n).faultStop n 0x0522)) ∧
  (∀ (s : State) (n : CrewNo), (s.crew n).slowAt = none → exec (.slessLowspeed n) s = .next s)

/-- A dwell ends in MOVE where motion is requested, else in STILL; the standstill policy reduces the current or sets the
brake; the brake handshake runs by its times and its feedback, with faults 0x0604 and 0x0605. TGT_H commits the target,
and a write during a crash stop is ignored with CRIGN. STOP and HALTQ are kept for the next tick. A parameter that would
break a condition is refused with 0x0602 and a servo period outside 50 to 1,000 µs with 0x0607. Completes: dwellEnd,
standstillDelayEnd, brakeTsetEnd, brakeTpreEnd, brakeTopenEnd, brakeFeedback, trelRampEnd, profTgtHWrite, profVtgtWrite,
profModeWrite, profStop, profHaltq, profParamWrite, iarPerWrite, setpHWrite, profPosLRead. -/
def Obligations.ProfileUnit : Prop :=
  (∀ (s : State) (n : CrewNo), s.pf n = pfDWELL → exec (.dwellEnd n) s = .next ((s.until ((s.prof n).t0 + s.dwellMs n * msCounts)).dwellOver n)) ∧
  (∀ (s : State) (n : Nat), (∀ b, s.motionReq n = some b → s.dwellOver n = (s.setProf n { s.prof n with start := true }).setPf n pfMOVE) ∧
    (s.motionReq n = none → s.dwellOver n = s.setPf n pfSTILL)) ∧
  (∀ (s : State) (n : CrewNo), s.pf n = pfSTILL → exec (.standstillDelayEnd n) s =
    .next ((s.until ((s.prof n).since + s.get (F.PROF_STILL_STDLY n) * msCounts)).standPolicy n)) ∧
  (∀ (s : State) (n : Nat), (s.get (F.PROF_STILL_POLICY n) = 0 → s.standPolicy n = s) ∧
    (s.get (F.PROF_STILL_POLICY n) = 1 → s.standPolicy n = (s.setHoldk n (fOfDyadic (s.get (F.PROF_STILL_HOLDF n)) (-12))).setPf n pfREDUCED) ∧
    (s.get (F.PROF_STILL_POLICY n) = 2 → let v := (s.setBrake n true).raise (F.PROF_EVT_BRKSET n)
      s.standPolicy n = (v.setProf n { v.prof n with setFail := false }).setPf n pfBSET)) ∧
  (∀ (s : State) (n : CrewNo), s.pf n = pfBSET → (s.prof n).setFail = false → let u := s.until ((s.prof n).since + s.get (F.PROF_BRKT_TSET n) * 2 * msCounts)
    (u.bit (F.PROF_BRK_FBEN n) = false ∨ u.fbSet n = true → exec (.brakeTsetEnd n) s = .next (u.startRamp n)) ∧
    (u.bit (F.PROF_BRK_FBEN n) = true → u.fbSet n = false → let v := (u.raise (F.PROF_EVT_BRKFAIL n)).fault 0x0604 n
      exec (.brakeTsetEnd n) s = .next (v.setProf n { v.prof n with setFail := true }))) ∧
  (∀ (s : State) (n : CrewNo), s.pf n = pfBOPEN → s.bit (F.PROF_PSTAT_BRKOUT n) = true →
    let u := s.until ((s.prof n).since + s.get (F.PROF_BRKT_TPRE n) * 2 * msCounts)
    (s.guardSt n ≠ gRENDER → exec (.brakeTpreEnd n) s = .next ((u.setBrake n false).setProf n { u.prof n with since := u.now })) ∧
    (s.guardSt n = gRENDER → exec (.brakeTpreEnd n) s = .next s)) ∧
  (∀ (s : State) (n : CrewNo), s.pf n = pfBOPEN → s.bit (F.PROF_PSTAT_BRKOUT n) = false →
    let u := s.until ((s.prof n).since + s.get (F.PROF_BRKT_TOPEN n) * 2 * msCounts)
    (u.bit (F.PROF_BRK_FBEN n) = false ∨ u.fbSet n = false → exec (.brakeTopenEnd n) s = .next (u.brakeOpen n)) ∧
    (u.bit (F.PROF_BRK_FBEN n) = true → u.fbSet n = true → exec (.brakeTopenEnd n) s =
      .next (((((u.raise (F.PROF_EVT_BRKFAIL n)).fault 0x0605 n).setBrake n true).profNoGoal n).startRamp n))) ∧
  (∀ (s : State) (n : CrewNo) lv, s.bit (F.PROF_BRK_FBEN n) = true → let u := s.setBitAt F.GPIO_IN_IN (s.get (F.PROF_BRK_FBIDX n)) lv
    let set := lv == u.bit (F.PROF_BRK_FBPOL n)
    let v := u.putB (F.PROF_PSTAT_BRKFB n) set
    exec (.brakeFeedback n lv) s = .next (if v.pf n = pfBSET && set then v.startRamp n
      else if v.pf n = pfBOPEN && !set && !v.bit (F.PROF_PSTAT_BRKOUT n) then v.brakeOpen n else v)) ∧
  (∀ (s : State) (n : CrewNo), s.pf n = pfTREL → s.rd (R.PROF_HOLDK n) = 0 → let u := (s.setHoldk n 0).setPf n pfBRAKED
    exec (.trelRampEnd n) s = .next (if u.bit (F.PROF_BRK_OFFSTOP n) then u.crewStop n else u)) ∧
  (∀ (s : State) (n : CrewNo) v w u, s.up (R.PROF_TGT_H n) → s.takeWord (R.PROF_TGT_H n) v = (w, u) →
    (u.pfCrash n = false → ∃ t : State, exec (.profTgtHWrite n v) s = .next (t.goalWritten n) ∧
      (t.prof n).tgt = sextNat 64 (((u.wr (R.PROF_TGT_H n) w).rd (R.PROF_TGT_L n)).toNat + w.toNat * 2 ^ 32) ∧
      t.bit (F.PROF_PSTAT_APPR n) = false) ∧
    (u.pfCrash n = true → exec (.profTgtHWrite n v) s = .next (u.raise (F.PROF_EVT_CRIGN n)))) ∧
  (∀ (s : State) (n : CrewNo) v w u, s.up (R.PROF_VTGT n) → s.takeWord (R.PROF_VTGT n) v = (w, u) →
    (u.pfCrash n = false → exec (.profVtgtWrite n v) s = .next ((u.wr (R.PROF_VTGT n) w).goalWritten n)) ∧
    (u.pfCrash n = true → exec (.profVtgtWrite n v) s = .next (u.raise (F.PROF_EVT_CRIGN n)))) ∧
  (∀ (s : State) (n : CrewNo), s.up (R.PROF_CTL n) → s.pfCrash n = false → exec (.profModeWrite n 3) s = .next s ∧ (exec (.profModeWrite n 1) s =
    .next ((s.put (F.PROF_CTL_MODE n) 1).goalWritten n))) ∧
  (∀ (s : State) (n : CrewNo), s.up (R.PROF_CTL n) → s.pfCrash n = false → ∃ t : State, ∃ u,
    exec (.profStop n) s = .next t ∧ (t.prof n).stop = true ∧ (t.prof n).haltq = (s.prof n).haltq ∧
    (s.pfMode n = 2 → (t.prof n).hold = some (s.prof n).pos) ∧ (s.pfMode n ≠ 2 → (t.prof n).hold = (s.prof n).hold) ∧
    exec (.profHaltq n) s = .next u ∧ (u.prof n).haltq = true ∧ (u.prof n).stop = (s.prof n).stop) ∧
  (∀ (s : State) (n : CrewNo), s.up (R.PROF_CTL n) → s.pfCrash n = true → exec (.profModeWrite n 1) s = .next (s.raise (F.PROF_EVT_CRIGN n))) ∧
  (∀ (s : State) (n : CrewNo) (i : Fin 10) v w u, s.up (R.PROF_VSTART n + 4 * i.val) → s.takeWord (R.PROF_VSTART n + 4 * i.val) v = (w, u) →
    let t := u.wr (R.PROF_VSTART n + 4 * i.val) (if i.val < 4 then w &&& 0x7FFFFFFF#32 else if i.val = 9 then w &&& 0x3FFF#32 else w)
    exec (.profParamWrite n i v) s = .next (if t.profParamsOk n then t else u.fault 0x0602 n)) ∧
  (∀ (s : State) (n : CrewNo) us, s.up (R.PROF_IAR_PER n) → exec (.iarPerWrite n us) s =
    .next (if 50 ≤ us.toNat && us.toNat ≤ 1000 then s.put (F.PROF_IAR_PER_US n) us.toNat else s.fault 0x0607 n)) ∧
  (∀ (s : State) (n : CrewNo) v w u, s.up (R.PROF_SETP_H n) → s.takeWord (R.PROF_SETP_H n) v = (w, u) → ∃ t : State, exec (.setpHWrite n v) s = .next t ∧
    (t.prof n).setp = some (sextNat 64 (((u.wr (R.PROF_SETP_H n) w).rd (R.PROF_SETP_L n)).toNat + w.toNat * 2 ^ 32))) ∧
  (∀ (s : State) (n : CrewNo), s.up (R.PROF_POS_L n) → ∃ t : State, exec (.profPosLRead n) s = .next t ∧
    t.rdata = BitVec.ofNat 32 (wrapInt 64 ((s.prof n).pos / 2 ^ 18)) ∧
    t.rd (R.PROF_POS_H n) = BitVec.ofNat 32 (wrapInt 64 ((s.prof n).pos / 2 ^ 18) / 2 ^ 32))

/-- At a boundary a committed set-point becomes the new end of the interpolation; the first miss extrapolates with
IARMISS; the second in a row holds the reference with fault 0x0606. Completes: iarumPeriodBoundary. -/
def Obligations.IarumPeriod : Prop :=
  (∀ (s : State) (n : CrewNo), (s.prof n).perStart = none ∨ s.pfMode n ≠ 2 → exec (.iarumPeriodBoundary n) s = .next s) ∧
  (∀ (s : State) (n : CrewNo) t0 z, (s.prof n).perStart = some t0 → s.pfMode n = 2 → (s.prof n).setp = some z →
    ∃ t : State, exec (.iarumPeriodBoundary n) s = .next t ∧ (t.prof n).sNew = z * 2 ^ 18 ∧
      (t.prof n).sPrev = (s.prof n).hold.getD (s.prof n).sNew ∧ (t.prof n).misses = 0 ∧ (t.prof n).setp = none ∧ (t.prof n).hold = none) ∧
  (∀ (s : State) (n : CrewNo) t0, (s.prof n).perStart = some t0 → s.pfMode n = 2 → (s.prof n).setp = none → (s.prof n).misses = 0 →
    ∃ t : State, exec (.iarumPeriodBoundary n) s = .next t ∧ (t.prof n).sNew = (s.prof n).sNew + ((s.prof n).sNew - (s.prof n).sPrev) ∧
      (t.prof n).misses = 1 ∧ t.bit (F.PROF_EVT_IARMISS n) = true) ∧
  (∀ (s : State) (n : CrewNo) t0, (s.prof n).perStart = some t0 → s.pfMode n = 2 → (s.prof n).setp = none → (s.prof n).misses = 1 →
    ∃ u : State, exec (.iarumPeriodBoundary n) s = .next (u.fault 0x0606 n) ∧ (u.prof n).hold = some ((s.prof n).hold.getD (s.prof n).sNew) ∧
      (u.prof n).misses = 2)

/-- In MODE 1 an edge that FILT + 1 samples have seen moves CNT by one, INV reversing it, and Z latches CNT; an illegal
transition counts in ILLCNT, and a second within 1 ms loses the port with 0x0613; a line fault of 2 µs loses it with
0x0612. A serial read starts at a trigger, every TRIG.PER or at t_s of a catch of TRIG.CREW; a trigger is dropped while a
read, its retry or its pause is in progress, and a write acts only from a trigger on while STATE is OK. A failed read is
retried once, and a second failure loses the port with 0x0611. A lost port stays lost until REARM brings it back. A read
of a low word latches the high word. That periodic triggers count from the entry into OK is the choice of the model (log
entry 81). Completes: quadratureEdge, zCapture, illegalTransition, lineFault, posLine, posReadTrigger, serialReadComplete,
serialReadRetry, posRearm, posClr, posCntLRead, posZcapLRead. -/
def Obligations.PositionPorts : Prop :=
  (∀ (s : State) (j : Port16) up n, s.posMode j = 1 → s.posSt j = poOK → s.posStable j n = true → exec (.quadratureEdge j ⟨up, n⟩) s = .next (s.setPos j
    { s.pos j with cnt := cntWrap ((s.pos j).cnt + if up != (wordFld (s.pos j).cfg (F.POS_CFG_INV j) == 1) then 1 else -1) })) ∧
  (∀ (s : State) (j : Port16) up n, s.posStable j n = false → exec (.quadratureEdge j ⟨up, n⟩) s = .next s ∧ exec (.illegalTransition ⟨j, n⟩) s = .next s) ∧
  (∀ (s : State) (j n : Nat), s.posStable j n = decide (wordFld (s.pos j).cfg (F.POS_CFG_FILT j) + 1 ≤ n)) ∧
  (∀ (s : State) (j : Port16), s.posMode j = 1 → wordFld (s.pos j).cfg (F.POS_CFG_ZEN j) = 1 → exec (.zCapture j) s =
    .next ((s.setPos j { s.pos j with zcap := (s.pos j).cnt }).raise (F.POS_STAT_ZSEEN j))) ∧
  (∀ (s : State) (j : Port16), s.posMode j ≠ 1 → exec (.zCapture j) s = .next s ∧ (∀ n, exec (.illegalTransition ⟨j, n⟩) s = .next s) ∧
    (∀ up n, exec (.quadratureEdge j ⟨up, n⟩) s = .next s) ∧ exec (.posLine j) s = .next s) ∧
  (∀ (s : State) (j : Port16) n, s.posMode j = 1 → s.posStable j n = true → let u := s.incSat (F.POS_ILLCNT_COUNT j)
    let v := u.setPos j { s.pos j with lastIll := some u.now }
    ((s.pos j).lastIll = none → exec (.illegalTransition ⟨j, n⟩) s = .next (v.retryT 3)) ∧
    (∀ a, (s.pos j).lastIll = some a → u.now ≤ a + msCounts → v.posSt j = poOK → exec (.illegalTransition ⟨j, n⟩) s = .next (v.portLost j 0x0613))) ∧
  (∀ (s : State) (j : Port16), s.posMode j ≠ 0 → s.bit (F.POS_STAT_LINEF j) = false → let u := s.putB (F.POS_STAT_LINEF j) true
    exec (.lineFault j true) s = .next ((u.incSat (F.POS_LINECNT_COUNT j)).setPos j { u.pos j with lineAt := u.now, lineSeen := true })) ∧
  (∀ (s : State) (j : Port16), s.posMode j = 1 → s.bit (F.POS_STAT_LINEF j) = true → s.posSt j = poOK →
    exec (.posLine j) s = .next ((s.until ((s.pos j).lineAt + 1600)).portLost j 0x0612)) ∧
  (∀ (s : State) (j : Port16) u, s.posSt j = poOK → s.posTrigger j = some u →
    ((u.pos j).busy = true ∨ (u.pos j).due = true ∨ u.now < (u.pos j).pause → exec (.posReadTrigger j) s = .next u) ∧
    ((u.pos j).busy = false → (u.pos j).due = false → (u.pos j).pause ≤ u.now → let v := u.posTake j
      exec (.posReadTrigger j) s = .next (if 2 ≤ v.posMode j then v.startRead j false else v))) ∧
  (∀ (s : State) (j : Nat), wordFld (s.pos j).trg (F.POS_TRIG_SRC j) = 0 → let d := (s.pos j).trigAt + wordFld (s.pos j).trg (F.POS_TRIG_PER j) * 800
    s.posTrigger j = some ((s.until d).setPos j { s.pos j with trigAt := d })) ∧
  (∀ (s : State) (j : Nat), wordFld (s.pos j).trg (F.POS_TRIG_SRC j) ≠ 0 → let n := wordFld (s.pos j).trg (F.POS_TRIG_CREW j)
    let d := (s.crew n).tc + 480
    s.crewState n ≠ cUNUSED → d ≠ (s.pos j).trigTs → s.posTrigger j = some ((s.advanceTb d).setPos j { s.pos j with trigTs := d })) ∧
  (∀ (s : State) (j : Port16), s.posSt j ≠ poOK ∨ s.posTrigger j = none → exec (.posReadTrigger j) s = .next s) ∧
  (∀ (s : State) (j : Nat), s.posSt j = poOK → s.posWritten j = s) ∧
  (∀ (s : State) (j : Nat), s.posSt j = poLOST → s.posState j = s) ∧
  (∀ (s : State) (j : Port16) i, (s.pos j).busy = true → s.readGood j i = false →
    let u := s.setPos j { s.pos j with busy := false, pause := s.now + wordFld (s.pos j).ser (F.POS_SER_TOUT j) * 800, due := !(s.pos j).retry }
    ((wordFld (s.pos j).ser (F.POS_SER_EW j) == 1 && wordFld (s.pos j).cfg (F.POS_CFG_MODE j) = 3) = false ∨ i.ack = false →
      exec (.serialReadComplete j i) s = .next (if (s.pos j).retry then u.portLost j 0x0611 else u.incSat (F.POS_ERRCNT_COUNT j)))) ∧
  (∀ (s : State) (j : Port16) i, (s.pos j).busy = true → s.readGood j i = true →
    let u := s.setPos j { s.pos j with busy := false, pause := s.now + wordFld (s.pos j).ser (F.POS_SER_TOUT j) * 800, due := false }
    ((wordFld (s.pos j).ser (F.POS_SER_EW j) == 1 && wordFld (s.pos j).cfg (F.POS_CFG_MODE j) = 3) = false →
      exec (.serialReadComplete j i) s = .next (if (s.pos j).retry then (u.takeRead j i).retryT 3 else u.takeRead j i)) ∧
    ((wordFld (s.pos j).ser (F.POS_SER_EW j) == 1 && wordFld (s.pos j).cfg (F.POS_CFG_MODE j) = 3) = true → i.ack = true →
      let v := if i.warn && !u.bit (F.POS_STAT_WBIT j) then u.fault 0x0614 j else u
      let w := (v.putB (F.POS_STAT_EBIT j) i.err).putB (F.POS_STAT_WBIT j) i.warn
      exec (.serialReadComplete j i) s = .next (if (s.pos j).retry then (w.takeRead j i).retryT 3 else w.takeRead j i))) ∧
  (∀ (s : State) (j : Port16) i, (s.pos j).busy = false → exec (.serialReadComplete j i) s = .next s) ∧
  (∀ (s : State) (j : Port16), (s.pos j).due = true → exec (.serialReadRetry j) s = .next ((s.until (s.pos j).pause).startRead j true)) ∧
  (∀ (s : State) (j : Port16), s.up (R.POS_CTL j) → s.posSt j = poLOST →
    let u := (s.setPos j { s.pos j with rebase := true, lastIll := none }).put (F.POS_STAT_STATE j) poOFF
    exec (.posRearm j) s = .next (u.posState j)) ∧
  (∀ (s : State) (j : Nat), s.posSt j = poOFF → s.posMode j ≠ 0 → (s.posState j).posSt j = poOK ∧ ((s.posState j).pos j).rebase = true) ∧
  (∀ (s : State) (j : Port16), s.up (R.POS_CTL j) → ∃ t : State, exec (.posClr j) s = .next t ∧ t.rd (R.POS_ERRCNT j) = 0 ∧ t.rd (R.POS_ILLCNT j) = 0 ∧
    t.rd (R.POS_LINECNT j) = 0 ∧ SameRegs [R.POS_ERRCNT j, R.POS_ILLCNT j, R.POS_LINECNT j] s t ∧ t.pos j = s.pos j) ∧
  (∀ (s : State) (j : Port16), s.up (R.POS_CNT_L j) → ∃ t : State, exec (.posCntLRead j) s = .next t ∧ t.rdata = BitVec.ofNat 32 (wrapInt 64 (s.pos j).cnt) ∧
    t.rd (R.POS_CNT_H j) = BitVec.ofNat 32 (wrapInt 64 (s.pos j).cnt / 2 ^ 32)) ∧
  (∀ (s : State) (j : Port16), s.up (R.POS_ZCAP_L j) → ∃ t : State, exec (.posZcapLRead j) s = .next t ∧ t.rdata = BitVec.ofNat 32 (wrapInt 64 (s.pos j).zcap) ∧
    t.rd (R.POS_ZCAP_H j) = BitVec.ofNat 32 (wrapInt 64 (s.pos j).zcap / 2 ^ 32))

/-- An active island shows the level of its channel at once, inverted for channel B of an input with ANTI, and takes it as
filtered once it has held for FILT x 0.5 ms. A reset is valid only where both channels return to demand after a run of 0.1
s to 2.0 s; a longer one latches 0x070D. Channels that differ start the discrepancy time, and a discrepancy that outlasts
DISC latches 0x0701. A pulse of a test output, TPW x 100 us long, is checked at its start and its end; an input that has
read low in fewer than TPW samples of its window, 100 us longer, latches 0x0702. The instants of the pulses are the choice
of the model (log entry 83). Completes: siFilterChange, resetHeld, siDiscrep, tpoPulse, tpoPulseEnd, testPulseWindowEnd.
-/
def Obligations.SafetyInputs : Prop :=
  (∀ (s : State) (i : Oct) b hi n, s.islSt b = iACTIVE →
    (10 * (s.siCfg i).filt ≤ n → exec (.siFilterChange i b ⟨hi, n⟩) s = .next (s.siFilter i b hi)) ∧
    (n < 10 * (s.siCfg i).filt → exec (.siFilterChange i b ⟨hi, n⟩) s = .next (s.siRaw i b (s.siRun i b hi)))) ∧
  (∀ (s : State) (i : Oct) b hi n, s.islSt b ≠ iACTIVE → exec (.siFilterChange i b ⟨hi, n⟩) s = .next s) ∧
  (∀ (s : State) (i : Nat) b hi, (b = false → s.siRun i b hi = hi) ∧ ((s.siCfg i).flags % 2 = 1 → s.siRun i true hi = !hi)) ∧
  (∀ (r : SiRec) fa fb was hold fn now, (r.filtered fa fb was hold fn now).2 = true → fa = false ∧ fb = false ∧
    (r.pulse = true ∨ (fn = 3 ∧ was = true ∧ hold = false ∧ ∃ a, r.runAt = some a ∧ a + 80000000 ≤ now ∧ now ≤ a + 1600000000))) ∧
  (∀ (r : SiRec) fa fb was hold fn now, (fa = fb → (r.filtered fa fb was hold fn now).1.disAt = none) ∧
    (fa ≠ fb → (r.filtered fa fb was hold fn now).1.disAt = some (r.disAt.getD now)) ∧
    (fa = false → fb = false → (r.filtered fa fb was hold fn now).1.both = true)) ∧
  (∀ (s : State) (i : Oct) a, (s.si i).runAt = some a → (s.siCfg i).func = 3 → s.bit (F.SAFETY_SI_RSTHOLD i) = false →
    exec (.resetHeld i) s = .next (((s.until (a + 1600000001)).putB (F.SAFETY_SI_RSTHOLD i) true).fault 0x070D i)) ∧
  (∀ (s : State) (i : Oct) a, (s.si i).disAt = some a → (s.siCfg i).func ≠ 0 → exec (.siDiscrep i) s =
    .next ((s.until (a + (s.siCfg i).disc * msCounts + 1)).latchSi i (F.SAFETY_SI_DISC i) 0x0701)) ∧
  (∀ (s : State) (i : Oct), (s.si i).disAt = none → exec (.siDiscrep i) s = .next s) ∧
  (∀ (s : State) (j : Fin 4) fol w tpp, s.tpoCfg j = some (w, tpp) → s.islSt (tpoIsland j) = iACTIVE → s.bitAt F.SAFETY_MISC_TPOACT j = true →
    exec (.tpoPulse j fol) s = .next (s.tpoBegin j (s.tpoStart j tpp) fol)) ∧
  (∀ (s : State) (j z : Nat) fol, let u := s.until z
    s.tpoBegin j z fol = (loopN 8 (fun i v => if (v.siCfg i).func ≠ 0 && ((v.siCfg i).tpa = 128 + j || (v.siCfg i).tpb = 128 + j)
      then (v.setSi i { v.si i with win := some (j, z) }).putB (F.SAFETY_SI_PULSE i) true else v)
        ({ u with tpoAt := mset 0 u.tpoAt j z }.setBitAt F.SAFETY_MISC_TPOACT j false)).tpoCheck j fol) ∧
  (∀ (s : State) (j : Fin 4) fol, s.bitAt F.SAFETY_MISC_TPOACT j = false → let w := ((s.tpoCfg j).getD (1, 10)).1
    exec (.tpoPulseEnd j fol) s = .next (((s.until (mget 0 s.tpoAt j + w * 80000)).setBitAt F.SAFETY_MISC_TPOACT j true).tpoCheck j fol)) ∧
  (∀ (s : State) (i : Oct) n j z, (s.si i).win = some (j, z) → let w := ((s.tpoCfg j).getD (1, 10)).1
    let u := s.until (z + (w + 1) * 80000)
    let v := (u.setSi i { u.si i with win := none }).putB (F.SAFETY_SI_PULSE i) false
    (w ≤ n → exec (.testPulseWindowEnd i n) s = .next v) ∧
    (n < w → exec (.testPulseWindowEnd i n) s = .next (v.latchSi i (F.SAFETY_SI_TPFLT i) 0x0702))) ∧
  (∀ (s : State) (i : Oct) n, (s.si i).win = none → exec (.testPulseWindowEnd i n) s = .next s)

/-- An island starts in BOOT with its outputs low, goes to HALT with 0x070C where its self-test fails, else to ACTIVE with
the sealed section. Each evaluation, 125 us after the one before, takes the readbacks, evaluates the groups and then the
brake outputs. In a speed window each island takes what it has seen itself; a window without a speed ends the count of
differing windows, and the tenth in a row latches 0x0707. The end of the SS1 time asserts the STO of the group; a brake
output follows its delay; a missing test pulse latches 0x0704 or 0x0705. The instants of the windows and of the pulses are
the choice of the model (log entry 83). Completes: islandStart, islandStartComplete, islandEvaluation, speedWindowEnd,
ss1TimerExpiry, sbcDelayEnd, stoTestPulse, sboTestPulse. -/
def Obligations.SafetyIslands : Prop :=
  (∀ (s : State) isl, s.domainRun (if isl then 2 else 1) = true → s.islSt isl = iOFF → exec (.islandStart isl) s = .next ((s.islLow isl).setIslSt isl iBOOT)) ∧
  (∀ (s : State) isl, s.islSt isl = iBOOT → exec (.islandStartComplete isl false) s = .next ((s.setIslSt isl iHALT).fault 0x070C isl.toNat) ∧
    (let u := s.setIslSt isl iACTIVE
     let v := u.setIsl isl { s.isl isl with evalAt := s.now }
     (∀ r, s.rigSel = some r → exec (.islandStartComplete isl true) s = .next (v.islTake isl r)) ∧
     (s.rigSel = none → exec (.islandStartComplete isl true) s = .next v))) ∧
  (∀ (s : State) isl rb c, s.islSt isl = iACTIVE → (s.isl isl).sec = some c →
    let u := (loopN 8 (fun g v => v.grpEval isl c g) ((s.until ((s.isl isl).evalAt + 100000)).readbacks isl rb)).sboEval isl
    let v := loopN 8 (fun i v => v.setSi i (if isl then { v.si i with rstB := false } else { v.si i with rstA := false })) u
    exec (.islandEvaluation isl rb) s = .next (v.setIsl isl { v.isl isl with req := v.get F.SAFETY_GREQ_REQ, thr := v.bit F.SAFETY_MISC_THREQ, evalAt := v.now })) ∧
  (∀ (s : State) isl rb, (s.islSt isl ≠ iACTIVE ∨ (s.isl isl).sec = none) → exec (.islandEvaluation isl rb) s = .next s) ∧
  (∀ (s : State) (g : Oct) oa ob c, s.seal = some c →
    ((c.grp.getD g {}).mode % 2 = 1 → exec (.speedWindowEnd g oa ob) s = .next ((s.until
      (nextMult msCounts (max (s.islA.grp g).winEnd (s.islB.grp g).winEnd) s.now)).speedWindow g (c.grp.getD g {}) oa ob)) ∧
    ((c.grp.getD g {}).mode % 2 = 0 → exec (.speedWindowEnd g oa ob) s = .next s)) ∧
  (∀ (s : State) b (g port : Nat) o, (s.islSt b ≠ iACTIVE ∨ o.line = true ∨ o.ill = true → s.islMeasure b g port o = none) ∧
    (s.islSt b = iACTIVE → o.line = false → o.ill = false → s.posMode port = 1 → s.islMeasure b g port o = some o.diff.toInt.natAbs)) ∧
  (∀ (s : State) (g tol : Nat) va vb, (va = none ∨ vb = none → mget 0 (s.speedCompare g tol va vb).spdDiff g = 0) ∧
    (∀ x y, va = some x → vb = some y → tol < max x y - min x y → mget 0 s.spdDiff g = 9 →
      s.speedCompare g tol va vb = (({ s with spdDiff := mset 0 s.spdDiff g 10 } : State).fault 0x0707 g).latchBoth g 0x0707)) ∧
  (∀ (s : State) isl (g : Oct) c, (s.isl isl).sec = some c → ((s.isl isl).grp g).st = gsSS1 → let t0 := ss1Tmax (c.grp.getD g {}) ((s.isl isl).grp g)
    exec (.ss1TimerExpiry isl g) s = .next (((s.until (((s.isl isl).grp g).ss1At + t0 * msCounts)).put (F.SAFETY_GRP_SS1T_MS g) t0).grpDown isl g gsSTO)) ∧
  (∀ (s : State) isl (g : Oct), ((s.isl isl).grp g).sbPend = true →
    let dly := (match (s.isl isl).sec with
      | some c => (c.grp.getD g {}).sbdly
      | none => 0)
    exec (.sbcDelayEnd isl g) s = .next (((s.until (((s.isl isl).grp g).sbAt + dly * 10 * msCounts)).setGrp isl g
      { (s.isl isl).grp g with sbPend := false }).sboEval isl)) ∧
  (∀ (s : State) isl (g : Oct) seen, s.islSt isl = iACTIVE → ((s.isl isl).grp g).high = true →
    let o := if isl then 40000000 else 0
    let z := nextMult 80000000 (((s.isl isl).grp g).pulseAt - o) (s.now - o) + o
    let u := (s.until z).setGrp isl g { (s.isl isl).grp g with pulseAt := z }
    exec (.stoTestPulse isl g seen) s = .next (if seen then u else (u.fault 0x0704 g).latchBoth g 0x0704)) ∧
  (∀ (s : State) isl (g : Oct) seen, ((s.isl isl).grp g).high = false → exec (.stoTestPulse isl g seen) s = .next s) ∧
  (∀ (s : State) isl (b : Oct), s.islSt isl = iACTIVE → (s.isl isl).sbo.testBit b = true →
    let z := nextMult 800000000 (mget 0 (s.isl isl).sboAt b) s.now
    let u := (s.until z).setIsl isl { s.isl isl with sboAt := mset 0 (s.isl isl).sboAt b z }
    let v := (u.putB (F.SAFETY_SBO_FLT b) true).fault 0x0705 b
    exec (.sboTestPulse isl b true) s = .next u ∧ (v.seal = none → exec (.sboTestPulse isl b false) s = .next v) ∧
    (∀ c, v.seal = some c → exec (.sboTestPulse isl b false) s =
      .next (loopN 8 (fun g w => if (c.grp.getD g {}).sbmask.testBit b then w.latchBoth g 0x0705 else w) v)))

/-- Fragments and frames of the path that is not selected count in CNT[6]; a frame of wrong length counts in CNT[1] with
0x0802 and one of wrong CRC in CNT[0] with 0x0801; a reassembly of 1 ms fails with 0x0809. A report goes to MMAC, or to
the MAC of the last accepted order, in fragments with a new XID, and is sent again after RTO. A silent master enters
0x080A and, with HBSTOP, ends the queued class M orders. A fragment whose header breaks a limit counts in CNT[1]. The
local port takes a whole frame, drives the next report, or its status; MP_ATTN_N is low while a report is due, and while
the domain is off, when the port takes nothing and reads 0xFF. Completes: ringFragment, reassemblyTimeout, masterFrame,
reportSend, reportResendTimeout, masterSilent, mpWrite, mpRead, mpStatus, masterCntclr. -/
def Obligations.MasterFrames : Prop :=
  (∀ (s : State) (p : RingPort) f, (s.ringRx p false f).1 = true → f.etype.toNat = (s.ringRx p false f).2.get F.MASTER_CFG_ETYPE →
    let u := (s.ringRx p false f).2
    exec (.ringFragment p f) s = .next (if u.pathRing then u.fragment (macBytes f.src.toNat) f.payload else u.incSat (F.MASTER_CNT_COUNT 6))) ∧
  (∀ (s : State) (p : RingPort) f, (s.ringRx p false f).1 = false → exec (.ringFragment p f) s = .next (s.ringRx p false f).2) ∧
  (∀ (s : State) r l, s.reasm = r :: l → exec .reassemblyTimeout s =
    .next (((State.until { s with reasm := l } (r.at0 + msCounts)).incSat (F.MASTER_CNT_COUNT 7)).fault 0x0809 0)) ∧
  (∀ (s : State), s.epochOpen = false → ∀ b, exec (.masterFrame b) s = .next s) ∧
  (∀ (s : State) mac l r, s.epochOpen = true → s.ringRxQ = (mac, l) :: r → let u : State := { s with ringRxQ := r }
    exec (.masterFrame true) s = .next (if u.pathRing then u.takeFrame 1 l mac else u.incSat (F.MASTER_CNT_COUNT 6))) ∧
  (∀ (s : State) l r, s.epochOpen = true → s.mpRx = l :: r → let u : State := { s with mpRx := r }
    exec (.masterFrame false) s = .next (if u.pathRing then u.incSat (F.MASTER_CNT_COUNT 6) else u.takeFrame 0 l [])) ∧
  (∀ (s : State) path l mac, (frameLenOk l = false → s.takeFrame path l mac = (s.incSat (F.MASTER_CNT_COUNT 1)).fault 0x0802 path) ∧
    (frameLenOk l = true → frameCrcOk l = false → s.takeFrame path l mac = (s.incSat (F.MASTER_CNT_COUNT 0)).fault 0x0801 path)) ∧
  (∀ (s : State) r, s.pathRing = true → s.ringEn = true → s.nextDue = some r →
    let m := s.get F.MASTER_MMAC_L_MAC + 2 ^ 32 * s.get F.MASTER_MMAC_H_MAC
    let u : State := { s with txXid := (s.txXid + 1) % 65536 }
    exec .reportSend s = .next ((loopL (fragments s.txXid (((s.reportFrame r).length + 1495) / 1496) (((s.reportFrame r).length + 1495) / 1496) (s.reportFrame r))
      (fun p v => v.ringSend false (if m ≠ 0 then m else leNat s.lastMac) (v.get F.MASTER_CFG_ETYPE) p) u).reportSent r)) ∧
  (∀ (s : State), s.pathRing = false ∨ s.nextDue = none → exec .reportSend s = .next s) ∧
  (∀ (s : State) r, r ∈ s.reports → r.due = false → r.once = false → ∀ a, r.sentAt = some a → a + s.get F.MASTER_RTO_MS * msCounts ≤ s.now →
    ∃ t : State, exec .reportResendTimeout s = .next t ∧ r.again ∈ t.reports) ∧
  (∀ (s : State), s.get F.MASTER_HBTO_MS = 0 ∨ s.mSilent = true → exec .masterSilent s = .next s) ∧
  (∀ (s : State), s.get F.MASTER_HBTO_MS ≠ 0 → s.mSilent = false →
    let u : State := { s.until (s.mLast + s.get F.MASTER_HBTO_MS * msCounts) with mSilent := true }
    let v := (u.fault 0x080A u.pathRing.toNat).event 7 (leBytes 2 (s.get F.MASTER_HBTO_MS) ++ [0, 0])
    (v.bit F.MASTER_CFG_HBSTOP = false → exec .masterSilent s = .next v) ∧
    (v.bit F.MASTER_CFG_HBSTOP = true → exec .masterSilent s =
      .next ((loopL (v.orders.filter (fun o => o.st == .queued && o.classM)) (fun o w => w.endOrder o.seq 0x40 []) v).mapOrders
        (fun o => o.isRunning && o.classM) (fun o => { o with cancelReq := true })))) ∧
  (∀ (s : State) mac pay, pay.length < 4 ∨ leAt pay 3 1 = 0 ∨ 3 < leAt pay 3 1 ∨ leAt pay 3 1 ≤ leAt pay 2 1 →
    s.fragment mac pay = s.incSat (F.MASTER_CNT_COUNT 1)) ∧
  (∀ (s : State) l, s.domainRun 7 = true → (s.pathRing = true → exec (.mpWrite l) s = .next (s.incSat (F.MASTER_CNT_COUNT 6))) ∧
    (s.pathRing = false → 2 ≤ s.mpRx.length → exec (.mpWrite l) s = .next (s.incSat (F.MASTER_CNT_COUNT 1))) ∧
    (s.pathRing = false → s.mpRx.length < 2 → l.length < 16 → exec (.mpWrite l) s = .next ((s.incSat (F.MASTER_CNT_COUNT 1)).fault 0x080D 0)) ∧
    (s.pathRing = false → s.mpRx.length < 2 → frameLenOk l = true → exec (.mpWrite l) s = .next { s with mpRx := s.mpRx ++ [l] })) ∧
  (∀ (s : State) n, s.domainRun 7 = true → (s.pathRing = true ∨ s.nextDue = none) → exec (.mpRead n) s = .next { s with mpOut := List.replicate n 0 }) ∧
  (∀ (s : State) n r, s.domainRun 7 = true → s.pathRing = false → s.nextDue = some r → let u : State := { s with mpOut := slice (s.reportFrame r) 0 n }
    exec (.mpRead n) s = .next (if n ≥ (s.reportFrame r).length then u.reportSent r else u)) ∧
  (∀ (s : State), s.domainRun 7 = true → exec .mpStatus s = .next { s with
    mpOut := leBytes 4 (s.get F.MASTER_NEXTSEQ_SEQ) ++
      leBytes 1 (2 - s.mpRx.length) ++ leBytes 1 ((s.rd R.MASTER_JSTAT).toNat % 256) ++ leBytes 2 s.dueCount }) ∧
  (∀ (s : State) l n, s.domainRun 7 = false → exec (.mpWrite l) s = .next s ∧ exec (.mpRead n) s = .next { s with mpOut := List.replicate n 0xFF } ∧
    exec .mpStatus s = .next { s with mpOut := List.replicate 8 0xFF } ∧ s.mpAttnN = false) ∧
  (∀ (s : State), s.domainRun 7 = true → (s.mpAttnN = false ↔ s.dueCount ≠ 0)) ∧
  (∀ (s : State) v w u, s.up R.MASTER_CNTCLR → s.takeWord R.MASTER_CNTCLR v = (w, u) → exec (.masterCntclr v) s = .next (u.cntClr w))

/-- An open batch closes and is written with URGENT; it is committed where a macro takes it within 48 µs of its close,
else it is discarded whole. Recovery runs once in boot, with the MRAM and the journal domains on, and takes what the
batches hold. Completes: batchClose, batchCommit, journalRecovery. -/
def Obligations.JournalBatches : Prop :=
  (∀ (s : State), s.jnl.phase ≠ 1 → exec .batchClose s = .next s) ∧
  (∀ (s : State), s.jnl.phase = 1 → ∃ t : State, exec .batchClose s = .next t ∧ t.jnl.phase = 2 ∧ t.jnl.closeAt = t.now ∧
    t.bit F.NVM_STAT_URGENT = true) ∧
  (∀ (s : State) r0 r1 d, s.jnl.phase ≠ 2 → exec (.batchCommit r0 r1 d) s = .next s) ∧
  (∀ (s : State) d, s.jnl.phase = 2 → let u := (s.until (s.jnl.closeAt + min d 38400)).putB F.NVM_STAT_URGENT false
    u.macroLost 0 = false → u.macroLost 1 = false →
    (d ≤ 38400 → exec (.batchCommit .ok .ok d) s = .next (u.batchWritten s.jnl (fun m => !u.macroLost m && (if m = 0 then WrRes.ok else .ok) != .failed))) ∧
    (38400 < d → exec (.batchCommit .ok .ok d) s = .next u.batchDiscard.jKick)) ∧
  (∀ (s : State), s.pw = pwBOOT → s.domainRun 7 = true → s.domainRun 4 = true → s.epochOpen = false → s.rstBy = [] → s.recovery = false →
    exec .journalRecovery s = .next ((s.readBatches s.jnl.done).2.recoverFrom (s.readBatches s.jnl.done).1.1 (s.readBatches s.jnl.done).1.2)) ∧
  (∀ (s : State), s.epochOpen = true ∨ s.pw ≠ pwBOOT → exec .journalRecovery s = .next s)

/-- The earliest waiting order starts where its lane is free: a class M order without a task ends 0x0A, another gets its
START record. A running ORD_CALL is delivered to the waiting task of its lane and ends 0x52 where the task is disabled.
LOADPROG of the active rig ends 0x06; RIGSWITCH ends 0x02 where the rig cannot be read and 0x01 with 0x0B05 where a crew
is not at rest; READSIG, WRITESIG, SUBSCRIBE, SWAPBANK, CLEARFAULT and DUMP act by their bodies. Where no such order runs,
nothing happens. The command that runs a built-in order takes one step of it (log entry 42). Completes: orderStart,
ordCall, ordLoadprog, ordRigswitch, ordReadsig, ordWritesig, ordSubscribe, ordSwapbank, ordClearfault, ordDump. -/
def Obligations.OrderExecution : Prop :=
  (∀ (s : State), (s.orders.find? OrderRec.waiting = none → exec .orderStart s = .next s) ∧
    (∀ o, s.orders.find? OrderRec.waiting = some o → o.st ≠ .placed → (s.laneOrder o.lane) = none → s.heldOrder o.lane = none →
      s.laneLocked o.lane = false → s.get F.AON_PWRSTAT_STATE = 2 →
      (o.classM = true → s.laneTask o.lane = none → exec .orderStart s = .next (s.endOrder o.seq 0x0A [])) ∧
      ((o.classM = false ∨ s.laneTask o.lane ≠ none) → exec .orderStart s =
        .next ((s.mapOrders (fun x => x.seq == o.seq && x.st == .queued) (fun x => { x with st := .starting })).jAdd
          { typ := 2, lane := o.lane, seq := o.seq, epoch := (s.mapOrders (fun x => x.seq == o.seq && x.st == .queued) (fun x => { x with st := .starting })).get F.MASTER_EPOCH_E, tag := 0, payload := leBytes 4 o.seq ++ leBytes 1 o.restarted.toNat ++ [0, 0, 0] ++ (s.mapOrders (fun x => x.seq == o.seq && x.st == .queued) (fun x => { x with st := .starting })).ltime.bytes12 })))) ∧
  (∀ (s : State) (lane : Fin 33) o k, s.laneOrder lane = some o → o.classM = true → o.st = .running → o.held = false → s.laneTask lane = some k →
    ((s.task k).st = .disabled → exec (.ordCall lane) s = .next (s.endOrder o.seq 0x52 [])) ∧
    ((s.task k).st = .waiting → let u := s.mapOrders (fun x => x.seq == o.seq) (fun x => { x with delivered := true, held := true })
      exec (.ordCall lane) s = .next ((u.setTask k { u.task k with ordSeq := BitVec.ofNat 32 o.seq }).deliver k))) ∧
  (∀ (s : State) o, s.builtin 2 = some o → o.maint = false → s.bit F.AON_RIG_NONE = false → s.get F.AON_RIG_ACTIVE = leAt o.body 0 1 →
    exec .ordLoadprog s = .next (s.endOrder o.seq 0x06 [])) ∧
  (∀ (s : State) o, s.builtin 2 = some o → o.maint = false → s.bit F.AON_RIG_NONE = true → let x := s.maintSubmit { act := 2, a1 := leAt o.body 0 1, src := .order o.seq }
    exec .ordLoadprog s = .next (if x.1 = .started ∨ x.1 = .queued then x.2.markMaint o.seq else x.2.endOrder o.seq 0x07 [])) ∧
  (∀ (s : State) o, s.builtin 3 = some o → s.pw ≠ pwBOOT → s.pw ≠ pwRESTENTRY →
    (o.maint = false → (s.rigTake (leAt o.body 0 1)).1 = none → exec .ordRigswitch s = .next ((s.rigTake (leAt o.body 0 1)).2.endOrder o.seq 0x02 [])) ∧
    (o.maint = true → s.pw ≠ pwLISTEN → exec .ordRigswitch s =
      .next (if s.actLock then s.rigSwitchEnd o (leAt o.body 0 1) else s.rigSwitchCheck o (leAt o.body 0 1)))) ∧
  (∀ (s : State) o n, s.notAtRest = some n → s.rigSwitchCheck o (leAt o.body 0 1) = (s.fault 0x0B05 n).endOrder o.seq 0x01 []) ∧
  (∀ (s : State) o, s.builtin 4 = some o → let l := (List.range (leAt o.body 0 2)).map (fun i => leAt o.body (4 + 4 * i) 4)
    let u := loopL l (fun a s => s.sigTouch a) s
    exec .ordReadsig s = .next (u.orderDone o (l.flatMap u.sigBytes))) ∧
  (∀ (s : State) o, s.builtin 5 = some o → (leAt o.body 0 2 ≤ o.step → exec .ordWritesig s = .next (s.endOrder o.seq 0 [])) ∧
    (o.step < leAt o.body 0 2 → o.maint = false → let x := s.sigWrite (leAt o.body (4 + 8 * o.step) 4) (BitVec.ofNat 32 (leAt o.body (8 + 8 * o.step) 4))
      exec .ordWritesig s = .next (if x.1 then x.2.markMaint o.seq else x.2.endOrder o.seq 0x09 []))) ∧
  (∀ (s : State) o, s.builtin 6 = some o → let l := (List.range (leAt o.body 2 2)).map (fun i => leAt o.body (4 + 4 * i) 4)
    let add := s.subs ++ (l.eraseDups.filter (fun k => !s.subs.contains k))
    (leAt o.body 0 1 = 0 → exec .ordSubscribe s = .next (if 4096 < add.length then s.endOrder o.seq 0x08 [] else (s.setSubs add).orderDone o [])) ∧
    (leAt o.body 0 1 = 1 → exec .ordSubscribe s = .next ((s.setSubs (s.subs.filter (fun k => !l.contains k))).orderDone o [])) ∧
    (leAt o.body 0 1 = 2 → exec .ordSubscribe s = .next ((s.setSubs []).orderDone o []))) ∧
  (∀ (s : State) o, s.builtin 7 = some o → (leAt o.body 0 2 ≤ o.step → exec .ordSwapbank s = .next (s.endOrder o.seq 0 [])) ∧
    (o.step < leAt o.body 0 2 → let u := (s.swapReq (leAt o.body (4 + 4 * o.step) 2) (leAt o.body (6 + 4 * o.step) 1 == 1)).orderStep o
      exec .ordSwapbank s = .next (if leAt o.body 0 2 ≤ o.step + 1 then u.endOrder o.seq 0 [] else u))) ∧
  (∀ (s : State) o, s.builtin 9 = some o → leAt o.body 0 1 = 0 → exec .ordClearfault s =
    .next ((s.clearEntries (fun e => e.code == leAt o.body 2 2 && e.inst == leAt o.body 4 4)).orderDone o [])) ∧
  (∀ (s : State) o, s.builtin 9 = some o → leAt o.body 0 1 = 4 → let u := loopN 144 (fun k s => s.clearTask k) (loopN 64 (fun x s => s.clearLeg x) s)
    exec .ordClearfault s = .next (((loopN 32 (fun n s => s.clearCrew n) u).clearEntries (fun _ => true)).orderDone o [])) ∧
  (∀ (s : State) o, s.builtin 12 = some o → exec .ordDump s =
    .next (s.orderDone o (s.bytes (dumpAt (leAt o.body 0 1) + leAt o.body 4 4) (leAt o.body 8 4)))) ∧
  (∀ (s : State), (s.builtin 2 = none → exec .ordLoadprog s = .next s) ∧ (s.builtin 3 = none → exec .ordRigswitch s = .next s) ∧
    (s.builtin 4 = none → exec .ordReadsig s = .next s) ∧ (s.builtin 5 = none → exec .ordWritesig s = .next s) ∧
    (s.builtin 6 = none → exec .ordSubscribe s = .next s) ∧ (s.builtin 7 = none → exec .ordSwapbank s = .next s) ∧
    (s.builtin 9 = none → exec .ordClearfault s = .next s) ∧ (s.builtin 12 = none → exec .ordDump s = .next s))

/-- Frames are received only on a linked port of an enabled ring; a bad one counts in RXERR. A supervision frame marks its
node as seen, and one that is sent waits for the throttle pause first; a node seen on one port alone shows the ring broken
with 0x0902. A link that goes enters 0x0901 and drops what waits for the port. An express frame goes before the others,
and nothing goes while TXEN is 0. PHY, MDIO, windows and the bypass follow their registers; a mismatch of the bypass
enters 0x0903. The length of an MDIO operation in MDC periods is the choice of the model (log entry 86). Completes:
ringFrame, supervisionFrame, supervisionSend, ringBroken, nodeForget, ringLinkChange, egressFrameStart,
protectedWindowOpen, protectedWindowClose, phyrstnWrite, txenWrite, mdioOperation, mdioComplete, bypInsertWrite,
bypLeaveWrite, leaveExpiry, bypSenseChange, bypMismatch, leaveAnnouncement. -/
def Obligations.RingPorts : Prop :=
  (∀ (s : State) (p : RingPort) f, exec (.ringFrame p f) s = .next (s.ringRx p false f).2) ∧
  (∀ (s : State) (p : RingPort) f, s.ringEn = true → s.ringLink p = true → f.good = false →
    s.ringRx p false f = (false, s.incSat (F.RING_PORT_RXERR_COUNT p))) ∧
  (∀ (s : State) (p : RingPort) f, s.ringEn = false ∨ s.ringLink p = false → s.ringRx p false f = (false, s)) ∧
  (∀ (s : State) (p : RingPort) f nm, s.ringEn = true → s.ringLink p = true → f.good = true → f.src.toNat ≠ s.ownMac →
    exec (.supervisionFrame p f nm) s = .next ((s.ringRx p false f).2.supHeard p nm.toNat)) ∧
  (∀ (s : State), s.ringEn = true → let u := s.until (s.ring.supAt + 2000 * msCounts)
    let w := if u.get F.HK_STAT_LEVEL ≥ 2 then u.advance (u.get F.HK_THR_PAUSE * 800) else u
    let v : State := { w with ring := { w.ring with supAt := u.now, supSeq := (w.ring.supSeq + 1) % 65536 } }
    exec .supervisionSend s = .next (v.ringSend false 0x0001004E1501 0x88FB
      (beBytes 2 1 ++ beBytes 2 w.ring.supSeq ++ [23, 6] ++ macBytes v.ownMac ++ [0, 0]))) ∧
  (∀ (s : State), s.bit F.RING_STAT_BROKEN = false → (s.ring.nodes.any (fun n => n.oneSided s.now) = true →
      exec .ringBroken s = .next (((s.putB F.RING_STAT_BROKEN true).raise F.RING_EVT_BROKEN).fault 0x0902 0)) ∧
    (let u := s.untilFirst s.brokenDues
     s.ring.nodes.any (fun n => n.oneSided s.now) = false → u.ring.nodes.any (fun n => n.oneSided u.now) = true →
      exec .ringBroken s = .next (((u.putB F.RING_STAT_BROKEN true).raise F.RING_EVT_BROKEN).fault 0x0902 0))) ∧
  (∀ (s : State), let u := s.untilFirst (s.ring.nodes.map HsrNode.forgetAt)
    exec .nodeForget s = .next (u.setNodes (u.ring.nodes.filter (fun n => u.now < n.forgetAt)))) ∧
  (∀ (s : State) (p : RingPort) up, s.ringEn = true → s.ringLink p ≠ up → let u := (s.putB (F.RING_PORT_STAT_LINK p) up).putB (F.RING_PORT_STAT_PCS p) up
    let v := if p.val = 0 then (u.putB F.RING_STAT_LNKA up).raise F.RING_EVT_LINKA else (u.putB F.RING_STAT_LNKB up).raise F.RING_EVT_LINKB
    exec (.ringLinkChange p up) s = .next (if up then v else (v.setEgress p { v.egress p with wait := [] }).fault 0x0901 p)) ∧
  (∀ (s : State) (p : RingPort), s.ringEn = true → s.ringLink p = true → s.bit (F.RING_PORT_CTL_TXEN p) = true → let u := s.until (s.egress p).startAt
    (∀ f, u.egressPick p = some f → exec (.egressFrameStart p) s = .next ((u.setEgress p { u.egress p with wait := (u.egress p).wait.erase f }).egressStart p f)) ∧
    (u.egressPick p = none → exec (.egressFrameStart p) s = .next s)) ∧
  (∀ (s : State) (p : Nat), let w := (s.egress p).wait.filter (fun f => f.at0 ≤ s.now)
    (∀ f, w.find? (·.express) = some f → s.egressPick p = some f) ∧
    (w.find? (·.express) = none → s.egressPick p = w.head?.filter s.bulkMayStart)) ∧
  (∀ (s : State) (p : RingPort), s.bit (F.RING_PORT_CTL_TXEN p) = false → exec (.egressFrameStart p) s = .next s) ∧
  (∀ (s : State), s.ringEn = true → s.bit F.RING_WIN_EN = true → s.ring.winOpen = false → ∃ t : State, exec .protectedWindowOpen s = .next t ∧ t.ring.winOpen = true) ∧
  (∀ (s : State), s.ring.winOpen = true → ∃ t : State, exec .protectedWindowClose s = .next t ∧ t.ring.winOpen = false) ∧
  (∀ (s : State) (p : RingPort) v, s.up (R.RING_PORT_CTL p) → exec (.phyrstnWrite p v) s = .next (s.putB (F.RING_PORT_CTL_PHYRSTN p) v) ∧
    exec (.txenWrite p v) s = .next (s.putB (F.RING_PORT_CTL_TXEN p) v)) ∧
  (∀ (s : State) v w u, s.up R.RING_MDIO_CMD → s.takeWord R.RING_MDIO_CMD v = (w, u) → exec (.mdioOperation v) s = .next (u.mdioWrite w)) ∧
  (∀ (s : State), s.mdioTime = 64 * (4 * (s.get F.RING_MDC_DIV + 1))) ∧
  (∀ (s : State) d, s.bit F.RING_MDIO_STAT_BUSY = true → let u := (s.until (s.ring.mdioAt + s.mdioTime)).putB F.RING_MDIO_STAT_BUSY false
    (u.get F.RING_MDIO_CMD_OP = 2 → exec (.mdioComplete d true) s = .next (u.put F.RING_MDIO_STAT_RDATA d.toNat) ∧
      exec (.mdioComplete d false) s = .next (((u.put F.RING_MDIO_STAT_RDATA 0xFFFF).raise F.RING_MDIO_STAT_NOACK).fault 0x0904 (u.get F.RING_MDIO_CMD_PHYAD))) ∧
    (u.get F.RING_MDIO_CMD_OP = 1 → ∀ a, exec (.mdioComplete d a) s = .next u)) ∧
  (∀ (s : State) v, s.up R.RING_BYP → exec (.bypInsertWrite v) s = .next (s.bypInsert v) ∧ exec .bypLeaveWrite s = .next s.bypLeave) ∧
  (∀ (s : State) a, s.ring.leaveAt = some a → let u := s.until (a + 5 * msCounts)
    exec .leaveExpiry s = .next ((State.putB { u with ring := { u.ring with leaveAt := none } } F.RING_BYP_INSERT false).setHold false)) ∧
  (∀ (s : State) lv, s.bit F.RING_BYP_SENSE ≠ lv → exec (.bypSenseChange lv) s = .next ((s.putB F.RING_BYP_SENSE lv).raise F.RING_EVT_BYP).bypCheck) ∧
  (∀ (s : State) a, s.ring.bypDiff = some a → s.bit F.RING_BYP_MISMATCH = false → exec .bypMismatch s =
    .next (((s.until (a + s.get F.RING_BYP_TSET * msCounts + 1)).putB F.RING_BYP_MISMATCH true).fault 0x0903 0)) ∧
  (∀ (s : State) (p : RingPort) f, (s.ringRx p true f).1 = true → f.etype.toNat = (s.ringRx p true f).2.get F.RING_CFG_RETYPE → leAt f.payload 0 1 = 2 →
    exec (.leaveAnnouncement p f) s = .next (((((s.ringRx p true f).2.raise F.RING_EVT_LEAVE).put F.RING_LEAVE_L_MAC (f.src.toNat % 2 ^ 32)).put
      F.RING_LEAVE_H_MAC (f.src.toNat / 2 ^ 32)).fault 0x0908 p))

/-- A message whose nanoseconds reach 10^9 is rejected. A Sync goes on with its correction, added when it leaves; of the
own domain, a one-step Sync feeds the servo and a two-step Sync waits for its Follow_Up. An Announce offers its clock. The
two ports measure their link delays, once per second. A master sends a Sync every 1/32 s and an Announce every second. A
lost clock goes to HOLDOVER with 0x0910. The RTC takes LTIME only in LOCKED. Reads of the low words latch the rest. An
entry is armed by its owner, is left alone while armed, and becomes SENT at its launch. Seam payloads are read 2,000 ns
before the launch and stored at the deadline; a frame of the own member index is bad. Link delays are computed as IEEE
1588 does (log entry 6); the phases of the periodic messages are the choice of the model (log entry 87). Completes: sync,
followUp, announce, pdelayReq, pdelayResp, pdelayRespFollowUp, pdelayReqSend, pdelayTimeout, syncSend, announceSend,
syncLoss, announceTimeout, rtcUpdate, ctSlRead, ltSlRead, rtcLRead, lqArm, lqLaunch, seamPayloadRead, seamFrame,
seamDeadline. -/
def Obligations.NetworkTime : Prop :=
  (∀ (s : State) (p : RingPort) m, s.ringEn = false ∨ s.ringLink p = false → exec (.sync p m) s = .next s ∧ exec (.followUp p m) s = .next s ∧
    (∀ c, exec (.announce p m c) s = .next s) ∧ exec (.pdelayReq p m) s = .next s ∧ exec (.pdelayResp p m) s = .next s ∧
    exec (.pdelayRespFollowUp p m) s = .next s) ∧
  (∀ (s : State) (p : RingPort) m, s.ringEn = true → s.ringLink p = true → timeBad m = true → let u := s.incSat (F.RING_PORT_RXCNT_COUNT p)
    exec (.sync p m) s = .next u ∧ exec (.followUp p m) s = .next u ∧ (∀ c, exec (.announce p m c) s = .next u) ∧ exec (.pdelayReq p m) s = .next u) ∧
  (∀ m, timeBad m = decide (1000000000 ≤ m.time.ns.toNat)) ∧
  (∀ (s : State) (p : RingPort) m, s.ringEn = true → s.ringLink p = true → m.src.toNat ≠ s.ownMac → timeBad m = false →
    let u := s.incSat (F.RING_PORT_RXCNT_COUNT p)
    let v := u.ptpForward p 0 m
    (v.ptpOurs m = false → exec (.sync p m) s = .next v) ∧
    (v.ptpOurs m = true → m.twoStep = true → exec (.sync p m) s =
      .next (v.setPtpPort p { v.ptpPort p with sync := some (m.seq.toNat, u.rxStamp p, corrFine m.corr) })) ∧
    (v.ptpOurs m = true → m.twoStep = false → exec (.sync p m) s = .next (v.syncUsed p (u.rxStamp p) (ptpFine m.time) (corrFine m.corr)))) ∧
  (∀ (s : State) (p : RingPort) m q a c, s.ringEn = true → s.ringLink p = true → m.src.toNat ≠ s.ownMac → timeBad m = false →
    let v := (s.incSat (F.RING_PORT_RXCNT_COUNT p)).ptpForward p 8 m
    v.ptpOurs m = true → (v.ptpPort p).sync = some (q, a, c) → exec (.followUp p m) s =
      .next (if q = m.seq.toNat then v.syncUsed p a (ptpFine m.time) (c + corrFine m.corr) else v)) ∧
  (∀ (s : State) (p : RingPort) m c, s.ringEn = true → s.ringLink p = true → m.src.toNat ≠ s.ownMac → timeBad m = false →
    let v := (s.incSat (F.RING_PORT_RXCNT_COUNT p)).ptpForward p 0xB m
    exec (.announce p m c) s = .next (if v.ptpOurs m then v.heardAnnounce.offerGm (gmOf c) c.utcOfs.toNat else v)) ∧
  (∀ (s : State) (p : RingPort) m, s.ringEn = true → s.ringLink p = true → timeBad m = false → let u := s.incSat (F.RING_PORT_RXCNT_COUNT p)
    exec (.pdelayReq p m) s = .next (u.ptpSend p 3 m.seq.toNat 0 (u.rxStamp p))) ∧
  (∀ (s : State) (p : RingPort) m q a b, s.ringEn = true → s.ringLink p = true → timeBad m = false → let u := s.incSat (F.RING_PORT_RXCNT_COUNT p)
    (u.ptpPort p).req = some (q, a, b) → q = m.seq.toNat → u.now ≤ a + 10 * msCounts →
    exec (.pdelayResp p m) s = .next (u.setPtpPort p { u.ptpPort p with resp := some (u.rxStamp p, ptpFine m.time) }) ∧
    (∀ x y, (u.ptpPort p).resp = some (x, y) → exec (.pdelayRespFollowUp p m) s =
      .next (u.pdTaken p (u.ptpPort p) (((x - b) - (ptpFine m.time - y) + corrFine m.corr * -1) / 2) (ptpFine m.time) x))) ∧
  (∀ (s : State) (p : RingPort), s.ringEn = true → let v := s.until ((s.ptpPort p).reqAt + 1000 * msCounts)
    let r := v.ptpPort p
    exec (.pdelayReqSend p) s = .next ((v.setPtpPort p { r with
      req := some (r.pdSeq, v.now, v.txStamp p), resp := none, pdSeq := (r.pdSeq + 1) % 65536, reqAt := v.now }).ptpSend p 2 r.pdSeq 0 0)) ∧
  (∀ (s : State) (p : Nat) x, x.own = true → (x.kind = 0 → s.ptpStarted p x = s.egressPut p ({
      express := true
      ptp := some ({ kind := 8, seq := x.seq, corr := 0, sec := (TimeVal.ofFine (s.txStamp p)).sec, ns := (TimeVal.ofFine (s.txStamp p)).ns } : PtpTx) } : TxFrame)) ∧
    (x.kind = 3 → s.ptpStarted p x = s.egressPut p ({
      express := true
      ptp := some ({ kind := 0xA, seq := x.seq, corr := 0, sec := (TimeVal.ofFine (s.txStamp p)).sec, ns := (TimeVal.ofFine (s.txStamp p)).ns } : PtpTx) } : TxFrame))) ∧
  (∀ (s : State) (p : Nat) x, x.own = false → x.kind = 0 → x.two = false → (s.ptpOut p x).corr = x.corr + s.ptpAdd p x) ∧
  (∀ (s : State) (p : RingPort) q a b, (s.ptpPort p).req = some (q, a, b) → exec (.pdelayTimeout p) s = .next ((s.until (a + 10 * msCounts)).pdFail p)) ∧
  (∀ (s : State), s.timeSt ≠ tMASTER → exec .syncSend s = .next s ∧ exec .announceSend s = .next s) ∧
  (∀ (s : State), s.timeSt = tMASTER → let w := s.until (s.clock.annTx + 1000 * msCounts)
    let u : State := { w with clock := { w.clock with annSeq := (w.clock.annSeq + 1) % 65536, annTx := w.now } }
    exec .announceSend s = .next (loopN 2 (fun p v => v.ptpSend p 0xB w.clock.annSeq 0 v.ctime.fine) u)) ∧
  (∀ (s : State), s.timeSt = tMASTER → let w := s.until (s.clock.syncTx + syncInterval)
    let u : State := { w with clock := { w.clock with syncSeq := (w.clock.syncSeq + 1) % 65536, syncTx := w.now } }
    exec .syncSend s = .next (loopN 2 (fun p v => v.ptpSend p 0 w.clock.syncSeq 0 0) u).steer) ∧
  (∀ (s : State), s.clock.miss + 1 < s.get F.TIME_SYNCLOSS_N → s.clock.selMiss + 1 < 3 → exec .syncLoss s = .next s.clockMiss) ∧
  (∀ (s : State), s.clock.selMiss + 1 < 3 → s.get F.TIME_SYNCLOSS_N ≤ s.clock.miss + 1 → exec .syncLoss s = .next s.clockMiss.clockLost) ∧
  (∀ (s : State), exec .announceTimeout s = .next (s.until (s.clock.annAt + 3000 * msCounts)).clockLost.selectSelf) ∧
  (∀ (s : State), s.timeSt = tACQ ∨ s.timeSt = tLOCKED → s.clockLost = (s.setTimeSt tHOLD).fault 0x0910 0) ∧
  (∀ (s : State), (s.timeSt = tLOCKED → let u := s.until (s.clock.rtcAt + 1000 * msCounts)
      exec .rtcUpdate s = .next { u with rtcSec := u.ltime.sec, rtcAt := u.now, clock := { u.clock with rtcAt := u.now } }) ∧
    (s.timeSt ≠ tLOCKED → exec .rtcUpdate s = .next s)) ∧
  (∀ (s : State), s.up R.TIME_CT_SL → exec .ctSlRead s = .next { s.readCt.2 with rdata := s.readCt.1 }) ∧
  (∀ (s : State), s.up R.TIME_LT_SL → exec .ltSlRead s = .next { s.readLt.2 with rdata := s.readLt.1 }) ∧
  (∀ (s : State), s.up R.AON_RTC_L → ∃ t : State, exec .rtcLRead s = .next t ∧ t.rdata = BitVec.ofNat 32 s.rtc ∧ t.get F.AON_RTC_H_S = s.rtc / 2 ^ 32 % 2 ^ 16) ∧
  (∀ (s : State) (e : LegNo) v w u, s.up (R.RING_LQ_CTL e) → s.takeWord (R.RING_LQ_CTL e) v = (w, u) →
    exec (.lqArm e v) s = .next (u.lqCtlWrite e 0x01 w) ∧
    (u.get (F.RING_LQ_CTL_ST e) = 1 → exec (.lqArm e v) s = .next u)) ∧
  (∀ (s : State) (e : LegNo), s.get (F.RING_LQ_CTL_ST e) = 1 → exec (.lqLaunch e) s = .next ((s.lqAwait e).lqSend e)) ∧
  (∀ (s : State) (e : Nat), (s.lqSend e).get (F.RING_LQ_CTL_ST e) = 2 ∧ (s.lqSend e).bit (F.RING_LQ_CTL_ARM e) = false) ∧
  (∀ (s : State) (e : LegNo), s.get (F.RING_LQ_CTL_ST e) ≠ 1 → exec (.lqLaunch e) s = .next s) ∧
  (∀ (s : State) (n : CrewNo), s.seamOn n = true → s.ringEn = true →
    exec (.seamPayloadRead n) s = .next (if 1600 < s.seamPeriod n - s.seamSince n then (s.advance (s.seamPeriod n - s.seamSince n - 1600)).seamPrepare n else s.seamPrepare n) ∧
    exec (.seamDeadline n) s = .next (if s.seamSince n < s.get (F.RING_SEAM_DL_C n) then (s.advance (s.get (F.RING_SEAM_DL_C n) - s.seamSince n)).seamClose n else s.seamClose n)) ∧
  (∀ (s : State) (p : RingPort) f, (s.ringRx p true f).1 = true → f.etype.toNat = (s.ringRx p true f).2.get F.RING_CFG_RETYPE →
    leAt f.payload 0 1 = 1 → leAt f.payload 1 1 = 1 → exec (.seamFrame p f) s = .next (loopN 32 (fun n u => u.seamTake n f.payload) (s.ringRx p true f).2)) ∧
  (∀ (s : State) (n : Nat) l, s.seamOn n = true → leAt l 2 2 = s.get (F.RING_SEAM_CFG_GROUP n) → leAt l 4 1 = s.seamMidx n →
    s.seamTake n l = (let u := s.incSat (F.RING_SEAM_BADCNT_COUNT n)
      if (s.seam n).good then (u.setSeam n { s.seam n with good := false }).fault 0x0923 n else u))

/-- A port sends the transaction it has due, of the type commanded, and no other. A good response acts as its type says; a
failed attempt is repeated once and then fails for good; a response with ERR enters 0x0A09; 12 us without a start bit
after the request is a timeout. The two ports of a pair start their cycles together. A direct store into the map enters
0x0A0D, and a write outside the field pockets is refused with 0x0A0C. The sweep sets OLD at an age of 32,768 ms. A held
change of a subscribed address is reported at the end of its interval. The map is swept every 32 s and the internal
pockets are refreshed every ms. Completes: cyclic, change, read, write, assign, cap, discover, freeze, fieldResponse,
fieldTimeout, discoveryRound, fieldCycleStart, mapStore, fieldSwrV, fieldClr, signalMapSweep, internalPocketRefresh,
subscriptionReport. -/
def Obligations.FieldPorts : Prop :=
  (∀ (s : State) (j : Port16) a i, (a, i) ∈ [(0, Instr.cyclic j), (1, .change j), (2, .read j), (3, .write j), (4, .assign j), (5, .cap j), (6, .discover j), (7, .freeze j)] →
    ((∀ x, s.nextTxn j = some x → x.typ ≠ a) → exec i s = .next s) ∧
    (∀ x, s.nextTxn j = some x → x.typ = a → ∃ t : State, exec i s = .next t ∧ (t.fport j).out = x.frame ∧
      (a ≠ 6 → (t.fport j).reqEnd = (s.lineReady j x).now + (s.lineReady j x).bitTimes j (1 + 10 * (6 + x.payload.length))) ∧
      (a ≠ 7 → x.addr ≠ 0 → (t.fport j).txn = some { x with sent := true }))) ∧
  (∀ (s : State) (j : Port16) l e d, (∀ x, (s.fport j).txn = some x → x.sent = false) →
    exec (.fieldResponse j l e d) s = .next s ∧ exec (.fieldTimeout j) s = .next s) ∧
  (∀ (s : State) (j : Port16) x l d, (s.fport j).txn = some x → x.sent = true → let u := s.until ((s.fport j).reqEnd + d)
    (∀ p, u.fieldCheck j x l = .good p →
      exec (.fieldResponse j l false d) s = .next (((u.fieldGood j x p).fieldSettle j).discEnd j)) ∧
    (∀ e, e = true ∨ u.fieldCheck j x l = .bad → x.typ ≠ 6 → exec (.fieldResponse j l e d) s = .next (((u.fieldFail j x).fieldSettle j).discEnd j)) ∧
    (∀ e, e = true ∨ u.fieldCheck j x l = .bad → x.typ = 6 → exec (.fieldResponse j l e d) s = .next (((u.discSplit j x).fieldSettle j).discEnd j)) ∧
    (∀ c, u.fieldCheck j x l = .err c → x.typ ≠ 6 →
      exec (.fieldResponse j l false d) s = .next ((((u.fault 0x0A09 x.addr).fieldFail j x).fieldSettle j).discEnd j)) ∧
    (∀ c, u.fieldCheck j x l = .err c → x.typ = 6 →
      exec (.fieldResponse j l false d) s = .next ((((u.fault 0x0A09 x.addr).discSplit j x).fieldSettle j).discEnd j))) ∧
  (∀ (s : State) (j : Port16) x, (s.fport j).txn = some x → x.sent = true → let u := (s.until ((s.fport j).reqEnd + 9600)).incSat (F.FIELD_PORT_TOCNT_COUNT j)
    exec (.fieldTimeout j) s = .next (((if x.typ = 6 then u.lineIdle j else u.fieldFail j x).fieldSettle j).discEnd j)) ∧
  (∀ (s : State) (j : Port16) x, x.retry = false → (s.fieldFail j x).fport j = (
    let u := s.incSat (F.FIELD_PORT_ERRCNT_COUNT j)
    { u.fport j with
      txn := some { x with retry := true, sent := false }, lastAt := u.now, freeAt := u.now + u.bitTimes j 30 })) ∧
  (∀ (s : State) (j : Port16) x, x.retry = true → s.fieldFail j x = s.fieldLasting j x) ∧
  (∀ (s : State) (j : Port16), s.fieldRunning j = false → exec (.discoveryRound j) s = .next s) ∧
  (∀ (s : State) (j : Port16), s.fieldRunning j = true → 
    let u := s.until ((s.fport j).discAt + 1000 * msCounts)
    exec (.discoveryRound j) s = .next ((u.setFport j
      { u.fport j with
        stack := [(0, 0)], asg := none, discAt := u.now
        txn := (u.fport j).txn.map (fun x => { x with stale := x.typ == 6 }) }).putB (F.FIELD_PORT_STAT_DISC j) true)) ∧
  (∀ (s : State) (j : Port16), s.bitAt F.FIELD_CTL_PAIR (j.val % 8) = false → exec (.fieldCycleStart j) s =
    .next (if s.fieldRunning j = true ∧ s.cycleFree j = true then s.cycleStart j else s)) ∧
  (∀ (s : State) (j : Port16), s.bitAt F.FIELD_CTL_PAIR (j.val % 8) = true → s.fieldRunning (j.val % 8) = true → s.cycleFree (j.val % 8) = true →
    s.fieldRunning (j.val % 8 + 8) = true → s.cycleFree (j.val % 8 + 8) = true →
    exec (.fieldCycleStart j) s = .next ((s.cycleStart (j.val % 8)).cycleStart (j.val % 8 + 8))) ∧
  (∀ (s : State), exec .mapStore s = .next (s.fault 0x0A0D 0)) ∧
  (∀ (s : State) v u, s.up R.FIELD_SWR_V → ∀ w, s.takeWord R.FIELD_SWR_V v = (w, u) →
    exec (.fieldSwrV v) s = .next (u.sigWrite (u.get F.FIELD_SWR_A_ADDR) w).2) ∧
  (∀ (s : State) a v, 4064 ≤ a / 256 → s.sigWrite a v = (false, (s.incSat F.FIELD_WRREJ_COUNT).fault 0x0A0C 0)) ∧
  (∀ (s : State), s.up R.FIELD_CLR → exec (.fieldClr true) s = .next s.fieldClear ∧ exec (.fieldClr false) s = .next s) ∧
  (∀ (s : State), let u := s.until (s.sweepAt + 32000 * msCounts)
    exec .signalMapSweep s = .next (loopL (u.sig.map (·.1)) (fun a z => z.sigSweep a) { u with sweepAt := u.now })) ∧
  (∀ (s : State) a, let u := s.sigTouch a
    (u.sigAt a).q ≠ 0 → 32768 ≤ (u.stampNow + 65536 - (u.sigAt a).stamp % 65536) % 65536 →
    s.sigSweep a = u.setSig a { u.sigAt a with old := true }) ∧
  (∀ (s : State), let u := s.until (s.pockAt + msCounts)
    exec .internalPocketRefresh s = .next (State.pocketsRefresh { u with pockAt := u.now })) ∧
  (∀ (s : State) a, (mget (0, false) s.subT a.toNat).2 = true → s.subscribed a.toNat = true →
    exec (.subscriptionReport a) s = .next ((s.until (s.subEnd a.toNat)).subSend a.toNat)) ∧
  (∀ (s : State) a, (mget (0, false) s.subT a.toNat).2 = false ∨ s.subscribed a.toNat = false → exec (.subscriptionReport a) s = .next s)

/-- A point value enters the value word zero-extended for unsigned and bool points and sign-extended for signed ones; a
binary32 point enters unchanged, and a bool point of nonzero value as 1. An output point is sent as the low SIZE bytes of
its value word. -/
def Obligations.PointValues : Prop :=
  (∀ (d : Nat) (l : List Byte), d % 4 ≠ 3 → l.length = descSize d →
    (descType d = 0 → (pointWord d l).toNat = leNat l) ∧
    (descType d = 3 → (leNat l = 0 → pointWord d l = 0) ∧ (leNat l ≠ 0 → pointWord d l = 1)) ∧
    (descType d = 1 → (pointWord d l).toInt =
      if leNat l < 2 ^ (8 * descSize d - 1) then (leNat l : Int) else (leNat l : Int) - 2 ^ (8 * descSize d)) ∧
    (descType d = 2 → d % 4 = 2 → (pointWord d l).toNat = leNat l)) ∧
  (∀ (d : Nat) (v : Word), (valBytes d v).length = descSize d ∧
    ∀ a, a < descSize d → (valBytes d v)[a]? = some (v.extractLsb' (8 * a) 8))

/-- A reset records its code unless another is in force, and holds the domains until it is released; the last release
boots cold. RST_N acts only while IGN is 0, and as a stuck reset it is released after STUCK_S seconds with code 3. The
watchdog, the software reset, undervoltage and the backup trip reset with codes 4, 5, 6 and 7. A demand in Listen leads to
Ready, or after 1 ms to fault 0x0B22 and back; an idle device falls to Listen after IDLE.MS ms. Rest is entered only where
its conditions hold, else 0x0B20, and a wake is a resume boot. PFAIL reopens batches only where none was refused (log
entry 43). A domain that fails to turn on goes down with what it holds. Completes: vaonPowerOn, vaonPowerLoss, rstNLow,
rstNRelease, stuckReset, stuckIgnoreClear, testN, watchdogExpiry, aonWdtKick, softwareReset, supplyUv, supplyUvRelease,
backupTrip, backupTripClear, pfailN, bootComplete, aonReadyWrite, aonRestWrite, readyReached, readyTimeout, idleTimeout,
restEntryEnd, wake, domainFail, xtal32Stable. -/
def Obligations.PowerAndReset : Prop :=
  (∀ (s : State) (c : Nat), c < 2 ^ 16 → (s.rstBy.filter (· != 0) = [] → (s.noteReset c).get F.RESET_CAUSE_CODE = c) ∧
    (s.rstBy.filter (· != 0) ≠ [] → (s.noteReset c).get F.RESET_CAUSE_CODE = s.get F.RESET_CAUSE_CODE)) ∧
  (∀ (s : State) (c : Nat), c ≠ 0 → c ∉ s.rstBy → s.holdReset c = { (s.noteReset c).assertReset with rstBy := c :: (s.noteReset c).rstBy }) ∧
  (∀ (s : State), 0 ∉ s.rstBy → exec (.testN true) s = .next { s.assertReset with rstBy := 0 :: s.rstBy }) ∧
  (∀ (s : State) (c : Nat), s.rstBy = [c] → s.powered = true → s.releaseReset c = ({ s with rstBy := [] } : State).boot false false) ∧
  (∀ (s : State), exec (.testN false) s = .next (s.releaseReset 0)) ∧
  (∀ (s : State) (c : Nat), s.powered = true → s.startReset c = (s.noteReset c).assertReset.coldBoot false) ∧
  (∀ (s : State) b r, s.powered = false →
    let u := (State.put { s with bootMode := b, rigPins := r.toNat } F.RESET_CAUSE_CODE 1).incSat (F.RESET_CNT_COUNT 1)
    exec (.vaonPowerOn b r) s = .next ((State.showDomains { u with powered := true, rstBy := s.rstBy.filter (· != 1), kickAt := s.now, rtcSec := 0, rtcAt := s.now, domOn := 1 }).coldBoot true)) ∧
  (∀ (s : State) b r, s.powered = true → exec (.vaonPowerOn b r) s = .next s) ∧
  (∀ (s : State), s.powered = true → ∃ t : State, exec .vaonPowerLoss s = .next t ∧ t.powered = false ∧ t.regs = [] ∧ t.domOn = 0 ∧ 1 ∈ t.rstBy) ∧
  (∀ (s : State), s.rstLow = false → let u : State := { s with rstLow := true, rstAt := s.now }
    exec .rstNLow s = .next (if s.bit F.RESET_STUCK_IGN = true then u else u.holdReset 2)) ∧
  (∀ (s : State) b r, s.rstLow = true → exec (.rstNRelease b r) s =
    .next (State.releaseReset { s with rstLow := false, rstAt := s.now, bootMode := b, rigPins := r.toNat } 2)) ∧
  (∀ (s : State), s.powered = true → s.rstLow = true → s.rstBy = [2] → s.bit F.AON_SET_STUCK_EN = true →
    let u := (((s.until (s.rstAt + s.get F.AON_SET_STUCK_S * 1000 * msCounts)).put F.RESET_CAUSE_CODE 3).incSat (F.RESET_CNT_COUNT 3))
    exec .stuckReset s = .next (((u.putB F.RESET_STUCK_IGN true).raise F.RESET_STUCK_STUCKSEEN).releaseReset 2)) ∧
  (∀ (s : State), s.bit F.AON_SET_STUCK_EN = false ∨ 0 ∈ s.rstBy → exec .stuckReset s = .next s) ∧
  (∀ (s : State), s.bit F.RESET_STUCK_IGN = true → s.rstLow = false →
    exec .stuckIgnoreClear s = .next ((s.until (s.rstAt + 100 * msCounts)).putB F.RESET_STUCK_IGN false)) ∧
  (∀ (s : State), s.powered = true → s.rstBy = [] → s.inRest = false → s.recovery = false → exec .watchdogExpiry s =
    .next ((s.until (s.kickAt + (if s.kicked then s.get F.AON_WDT_PERIOD else 2000) * msCounts)).startReset 4)) ∧
  (∀ (s : State), s.inRest = true ∨ s.recovery = true → exec .watchdogExpiry s = .next s) ∧
  (∀ (s : State), s.up R.AON_WDT → exec .aonWdtKick s = .next { s with kickAt := s.now, kicked := true }) ∧
  (∀ (s : State), s.up R.RESET_CTL → exec .softwareReset s = .next (s.startReset 5)) ∧
  (∀ (s : State) v, s.powered = true → exec (.supplyUv v) s =
    .next (State.holdReset { s.advance 1600 with uvRails := natBit (s.uvRails % 4) v.toNat true } 6)) ∧
  (∀ (s : State), 6 ∈ s.rstBy → exec .supplyUvRelease s = .next ((s.advance 80000).releaseReset 6)) ∧
  (∀ (s : State), s.powered = true → s.inRest = false → exec .backupTrip s = .next ((s.putB F.AON_TRIP_BTRIP true).holdReset 7)) ∧
  (∀ (s : State), s.inRest = true → exec .backupTrip s = .next s) ∧
  (∀ (s : State), s.bit F.AON_TRIP_BTRIP = true → exec .backupTripClear s = .next ((s.putB F.AON_TRIP_BTRIP false).releaseReset 7)) ∧
  (∀ (s : State) v, s.bootDone = true → exec (.bootComplete v) s = .next (s.bootEnd v)) ∧
  (∀ (s : State) v, s.bootDone = false → exec (.bootComplete v) s = .next s) ∧
  (∀ (s : State), s.domainRun 7 = true → exec (.pfailN true) s = .next (s.putB F.MASTER_JSTAT_PFAIL true) ∧
    (s.pfLatch = false → exec (.pfailN false) s = .next (s.putB F.MASTER_JSTAT_PFAIL false).jKick) ∧
    (s.pfLatch = true → exec (.pfailN false) s = .next s)) ∧
  (∀ (s : State) b, s.up R.AON_PWRCTL → let u := State.putB { s with idleAt := s.now } F.AON_PWRCTL_READY b
    exec (.aonReadyWrite b) s = .next (if b = true then u.demand none else u)) ∧
  (∀ (s : State), s.up R.AON_PWRCTL → (s.restOk = true → exec .aonRestWrite s = .next (s.enterRest false)) ∧
    (s.restOk = false → s.pw = pwLISTEN ∨ s.pw = pwREADY ∨ s.pw = pwRUN → exec .aonRestWrite s = .next (s.fault 0x0B20 0))) ∧
  (∀ (s : State), s.pw = pwLISTEN → s.demandAt.isSome = true → s.readyOk = true → exec .readyReached s =
    .next (loopN 32 (fun n u => u.crewAwake n) (State.setPw { s with demandAt := none, demandBy := none, idleAt := s.now } pwREADY))) ∧
  (∀ (s : State), s.pw ≠ pwLISTEN ∨ s.demandAt = none ∨ s.readyOk = false → exec .readyReached s = .next s) ∧
  (∀ (s : State) a, s.demandAt = some a → s.pw = pwLISTEN → let u := (s.until (a + msCounts)).fault 0x0B22 0
    exec .readyTimeout s = .next (match u.demandBy with
      | some q => u.endOrder q 0x52 []
      | none => u).toListen) ∧
  (∀ (s : State), s.pw = pwREADY → s.isIdle = true → s.get F.AON_IDLE_MS ≠ 0 →
    exec .idleTimeout s = .next (s.until (s.idleAt + s.get F.AON_IDLE_MS * msCounts)).toListen) ∧
  (∀ (s : State), s.pw ≠ pwREADY ∨ s.isIdle = false ∨ s.get F.AON_IDLE_MS = 0 → exec .idleTimeout s = .next s) ∧
  (∀ (s : State), s.pw = pwRESTENTRY → let u := (((s.until (s.restAt + 5 * msCounts)).setHold false).settleBatch).resetDomains
    exec .restEntryEnd s = .next (State.showDomains { u with inRest := true, restAt := u.now })) ∧
  (∀ (s : State) (i : Fin 4), i.val ≠ 3 → s.inRest = true → s.bitAt F.AON_WAKE_EN i = true → (i.val = 0 ∨ s.bit F.AON_TRIP_THREST = false) →
    exec (.wake i) s = .next (((s.put F.AON_WAKE_LAST (i + 1)).noteReset 8).boot false true)) ∧
  (∀ (s : State) (i : Fin 4), s.inRest = false ∨ s.bitAt F.AON_WAKE_EN i = false ∨ (s.bit F.AON_TRIP_THREST = true ∧ (i.val = 1 ∨ i.val = 2)) →
    exec (.wake i) s = .next s) ∧
  (∀ (s : State), s.inRest = true → s.bitAt F.AON_WAKE_EN 3 = true →
    let a := s.get F.AON_ALARM_L_S + 2 ^ 32 * s.get F.AON_ALARM_H_S
    a ≠ 0 → s.rtc ≤ a → exec (.wake 3) s =
      .next ((((s.until (s.rtcAt + (a - s.rtcSec) * 1000 * msCounts)).put F.AON_WAKE_LAST 4).noteReset 8).boot false true)) ∧
  (∀ (s : State) (d : Fin 14), d.val ≠ 0 → s.domainRun d = true → s.pw = pwBOOT ∨ (s.demandAt.isSome = true ∧ 8 ≤ d.val ∧ d.val ≤ 11) →
    let u := State.domainLost ((match s.demandAt with
      | some a => s.until (a + 80000)
      | none => s).domainDown d false) d
    exec (.domainFail d) s = .next ((if 9 ≤ d.val ∧ d.val ≤ 11 then u.engineLost d
      else if d.val = 8 then loopN 16 (fun p z => z.linkDown p lOFF) u
      else if d.val = 1 ∨ d.val = 2 then u.islOff (d.val == 2) else u).showDomains.fault 0x0B21 d)) ∧
  (∀ (s : State), s.powered = true → exec .xtal32Stable s = .next (s.putB F.AON_RTC_H_SYNC true))

/-- A write of REQ posts a request, or sets OVF while one is pending. The Cox answers an unlisted CODE with 4 and each
listed one as its row says. The lock refuses a duplicate, starts what conflicts with nothing, queues up to four more and
refuses the rest. A running activity begins its work once: the image and rig writes, the calibration and the scrub queue
chunks, a failed bank test enters 0x0C50, a log export copies 16 bytes a record, diagnostics start on the tile. The end of
an activity is logged, answered, and lets queued requests start. Completes: mboxReqWrite, mboxMaintenance, mboxUserLog,
mboxRest, mboxFirmwareChunk, mboxFirmwareActivate, mboxDumpSlotLock, firmwareImageWrite, rigWrite, mramScrub,
journalCompaction, sramBankTest, logExport, capsizeDump, offStateDiagnostics, encoderCalibration, maintenanceActivityEnd.
-/
def Obligations.MaintenanceAndMailbox : Prop :=
  (∀ (s : State) u (p : PairNo) v, s.up (R.MBOX_REQ p) → ∀ w, s.takeWord (R.MBOX_REQ p) v = (w, u) →
    (u.mboxPending p = true → exec (.mboxReqWrite p v) s = .next (u.raise (F.MBOX_RSP_OVF p))) ∧
    (u.mboxPending p = false → exec (.mboxReqWrite p v) s =
      .next ((u.put (F.MBOX_REQ_SEQ p) (bitsOf w.toNat 15 8)).put (F.MBOX_REQ_CODE p) (bitsOf w.toNat 7 0)))) ∧
  (∀ (s : State) i, i ∈ [Instr.mboxMaintenance, .mboxUserLog, .mboxRest, .mboxFirmwareChunk, .mboxFirmwareActivate, .mboxDumpSlotLock] →
    (s.mboxNext = none ∨ s.coxUp = false → exec i s = .next s) ∧
    (∀ p, s.mboxNext = some p → s.coxUp = true → s.get (F.MBOX_REQ_CODE p) = 0 ∨ 6 < s.get (F.MBOX_REQ_CODE p) →
      exec i s = .next (s.mboxAnswer p 4))) ∧
  (∀ (s : State) p, s.mboxNext = some p → s.coxUp = true → s.get (F.MBOX_REQ_CODE p) = 1 → let a := s.mboxArg p 0
    exec .mboxMaintenance s = .next (if s.mboxMaintOk a (s.mboxArg p 1) (s.mboxArg p 2) (s.mboxArg p 3) = true then
      s.mboxSubmit p { act := a, crew := if a < 16 then devCrew else s.mboxArg p 1, a1 := s.mboxArg p 1, a2 := s.mboxArg p 2, a3 := s.mboxArg p 3 }
      else s.mboxAnswer p 4)) ∧
  (∀ (s : State) p, s.mboxNext = some p → s.coxUp = true → s.get (F.MBOX_REQ_CODE p) = 2 → exec .mboxUserLog s =
    .next ((s.logRec 11 (s.mboxArg p 0 % 65536) p (s.mboxArg p 1 % 65536)).mboxAnswer p 0)) ∧
  (∀ (s : State) p, s.mboxNext = some p → s.coxUp = true → s.get (F.MBOX_REQ_CODE p) = 3 → exec .mboxRest s = .next (s.restRequest.2.mboxAnswer p (if s.restOk = true then 0 else 6))) ∧
  (∀ (s : State) p, s.mboxNext = some p → s.coxUp = true → s.get (F.MBOX_REQ_CODE p) = 4 → let a := s.mboxArg p 0
    s.mboxArg p 1 % 8 = 0 → 8 ≤ s.mboxArg p 1 → s.mboxArg p 1 ≤ 65536 → s.mboxArg p 2 + s.mboxArg p 1 ≤ 1048576 →
    rangeInSram a (s.mboxArg p 1) = true →
    exec .mboxFirmwareChunk s = .next (s.mboxSubmit p { act := 1, a1 := a, a2 := s.mboxArg p 1, a3 := s.mboxArg p 2 })) ∧
  (∀ (s : State) p, s.mboxNext = some p → s.coxUp = true → s.get (F.MBOX_REQ_CODE p) = 5 → let b := 1 - s.get F.CRYPTO_FW_RSLOT
    let u := s.putB (if b = 0 then F.CRYPTO_FW_OKA else F.CRYPTO_FW_OKB) (s.fwOk b)
    exec .mboxFirmwareActivate s = .next (if s.fwOk b = true then
      ((u.setFwState { u.fwState with tslot := b, trialv := true, tries := 0 }).logFw 2 b).mboxAnswer p 0 else u.mboxAnswer p 6)) ∧
  (∀ (s : State) p, s.mboxNext = some p → s.coxUp = true → s.get (F.MBOX_REQ_CODE p) = 6 → s.mboxArg p 0 < 4 → s.mboxArg p 1 < 2 → s.dumpValid (s.mboxArg p 0) = true →
    let h := (s.bytes (dumpAt (s.mboxArg p 0)) 60).take 6 ++ leBytes 2 (s.mboxArg p 1) ++ (s.bytes (dumpAt (s.mboxArg p 0)) 60).drop 8
    exec .mboxDumpSlotLock s = .next ((s.mramTry (dumpAt (s.mboxArg p 0)) (h ++ leBytes 4 (crc32 h))).mboxAnswer p 0)) ∧
  (∀ (s : State) (r : MaintReq), let l := s.maintRun ++ s.maintQ
    (l.any (fun x => x.act == r.act && x.crew == r.crew) = true → s.maintSubmit r = (.dup, s)) ∧
    (l.any (fun x => x.act == r.act && x.crew == r.crew) = false →
      (l.any (maintConflict r) = false → s.maintSubmit r = (.started, s.maintStart r)) ∧
      (l.any (maintConflict r) = true → s.maintQ.length < 4 → s.maintSubmit r = (.queued, State.showLock { s with maintQ := s.maintQ ++ [r] })) ∧
      (l.any (maintConflict r) = true → 4 ≤ s.maintQ.length → s.maintSubmit r = (.refused, s)))) ∧
  (∀ (s : State) i a, (a, i) ∈ [(1, Instr.firmwareImageWrite), (2, .rigWrite), (3, .mramScrub), (4, .journalCompaction), (6, .logExport),
    (16, .offStateDiagnostics), (17, .encoderCalibration)] → s.maintReady a = none ∨ s.coxUp = false → exec i s = .next s) ∧
  (∀ (s : State) r l z, s.maintReady 1 = some r → s.coxUp = true → let u := s.maintSet 1 r.crew (fun x => { x with began := true });
    u.coxBytes r.a1 r.a2 = (some l, z) → exec .firmwareImageWrite s =
      .next (z.addChunks (chunkOwner r) (fwSlot (1 - z.get F.CRYPTO_FW_RSLOT) + r.a3) l)) ∧
  (∀ (s : State) r q x, s.maintReady 2 = some r → s.coxUp = true → let u := s.maintSet 2 r.crew (fun x => { x with began := true });
    r.src = .order q → u.orderOf q = some x → exec .rigWrite s =
      .next ((u.addChunks (chunkOwner r) (rigBase false r.a1 + leAt x.body 4 4) (x.body.drop 8)).addChunks (chunkOwner r)
        (rigBase true r.a1 + leAt x.body 4 4) (x.body.drop 8))) ∧
  (∀ (s : State) r, s.maintReady 3 = some r → s.coxUp = true → let u := s.maintSet 3 r.crew (fun x => { x with began := true });
    exec .mramScrub s = .next (u.scrubStep (chunkOwner r))) ∧
  (∀ (s : State) m, s.eccCe = [] → s.eccUe = [] → s.scrubStep m = { s with scrubPos := (s.scrubPos + 1) % 4096 }) ∧
  (∀ (s : State) r, s.maintReady 4 = some r → s.coxUp = true → let u := s.maintSet 4 r.crew (fun x => { x with began := true });
    exec .journalCompaction s = .next (if u.jFree < batchesSize u.compBatches then u.maintFail r else u.compWrite (chunkOwner r) u.compBatches)) ∧
  (∀ (s : State) r, s.maintReady 5 = some r → s.coxUp = true → let u := s.maintSet 5 r.crew (fun x => { x with began := true });
    (∀ b, exec (.sramBankTest (some b)) s = .next (((u.marchTest r.a2 r.a3).fault 0x0C50 b.val).maintFail r)) ∧
    exec (.sramBankTest none) s = .next (u.marchTest r.a2 r.a3)) ∧
  (∀ (s : State) r, s.maintReady 6 = some r → s.coxUp = true → let u := s.maintSet 6 r.crew (fun x => { x with began := true }); exec .logExport s =
    .next (loopN (r.a3 % 131072) (fun a v => v.devWrite (r.a1 + 16 * a) (v.bytes (logAt ((r.a2 + a) % 65536)) 16)) u)) ∧
  (∀ (s : State) r l k z, s.maintReady 7 = some r → s.coxUp = true → let u := s.maintSet 7 r.crew (fun x => { x with began := true }); s.bit F.MASTER_JSTAT_HALT = false → u.writeDump 4 l k z = (true, (u.writeDump 4 l k z).2) →
    exec (.capsizeDump l k z) s = .next (u.writeDump 4 l k z).2) ∧
  (∀ (s : State) r, s.maintReady 16 = some r → s.coxUp = true → let u := s.maintSet 16 r.crew (fun x => { x with began := true }); let k := r.a2 % 16
    u.up (R.YILOS_DIAG_CTL k) → exec .offStateDiagnostics s = .next ((u.put (F.YILOS_DIAG_CTL_LEGS k) (bitsOf r.a2 11 8)).diagStart k)) ∧
  (∀ (s : State) r l z, s.maintReady 17 = some r → s.coxUp = true → let u := s.maintSet 17 r.crew (fun x => { x with began := true });
    u.coxBytes r.a2 256 = (some l, z) → exec .encoderCalibration s =
      .next ((z.addChunks (chunkOwner r) (keysAt 0 + 0x2000 + 256 * r.crew) l).addChunks (chunkOwner r) (keysAt 1 + 0x2000 + 256 * r.crew) l)) ∧
  (∀ (s : State) a c, s.maintRun.find? (fun r => r.act == a.toNat && r.crew == c.toNat) = none → exec (.maintenanceActivityEnd a c) s = .next s) ∧
  (∀ (s : State) a c r, s.maintRun.find? (fun r => r.act == a.toNat && r.crew == c.toNat) = some r → s.maintDone r = true → r.act ≠ 1 → r.act ≠ 4 →
    let u := State.logRec { s with maintRun := s.maintRun.filter (fun x => !(x.act == r.act && x.crew == r.crew)) } 5 r.act r.crew r.out
    (r.src = .auto → exec (.maintenanceActivityEnd a c) s = .next u.maintScan.askCompaction) ∧
    (∀ p, r.src = .mbox p → exec (.maintenanceActivityEnd a c) s =
      .next (u.put (F.MBOX_RSP_RESULT p) (if r.out = 1 then 0 else if r.out = 2 then 5 else 6)).maintScan.askCompaction))

/-- A round counts, checks the corrected errors and refreshes pocket 4,077; a sample is stored and held against its
limits. Die samples drive the thermal level at 130, 118, 113, 110 and 105 degrees and, with the MRAM sensors, the write
window, which closes beyond 120 or below -40 degrees. A thermal shutdown enters Rest. Non-urgent chunks wait for the
window and for batches. DEV moves to DEPLOYED with KEY 0x3C. A live replacement ends with RESULT 1 and 0x0C31, a late one
with 2 and 0x0C30, a broken one with 3. Fatal errors dump and reset with code 5. Limits are compared signed for
temperatures only (log entry 44); the outcome of a save of the wear counts is free (log entry 72). Completes: hkRound,
hkSample, thermalShutdownRest, nvmChunkWrite, wearSave, scrubStepDue, fwConfirm, lcsWrite, seSwapGo,
liveReplacementInstant, liveSwapTimeout, coxException, firmwareAssertion. -/
def Obligations.CoxHousekeeping : Prop :=
  (∀ (s : State) i, s.domainRun 3 = false → i = Instr.hkRound ∨ (∃ c v, i = .hkSample c v) → exec i s = .next s) ∧
  (∀ (s : State), s.domainRun 3 = true → let u := s.until s.hkAt
    let v := if 16 < u.hkCe then u.fault 0x0105 0 else u
    exec .hkRound s = .next (State.incWrap { v with hkAt := v.hkAt + hkPeriod, hkCe := 0 } F.HK_ROUNDS_COUNT).pocketHk) ∧
  (∀ (s : State) (c : Fin 48) v, s.domainRun 3 = true → c.val < 12 → let u := s.until (s.hkAt - hkPeriod + 32000 * c.val)
    exec (.hkSample c v) s = .next ((((u.put (F.HK_CH_V c) v.toNat).putB (F.HK_CH_VALID c) true).hkLimit c).hkLevel).hkWindow) ∧
  (∀ (s : State) (c : Fin 48) v, s.domainRun 3 = true → 12 ≤ c.val → c.val < 28 ∨ c.val = 44 ∨ c.val = 45 →
    let u := s.until (s.hkAt - hkPeriod + 32000 * c.val)
    exec (.hkSample c v) s = .next (((u.put (F.HK_CH_V c) v.toNat).putB (F.HK_CH_VALID c) true).hkLimit c)) ∧
  (∀ (s : State) (c : Fin 48) v, s.domainRun 3 = true → 28 ≤ c.val → c.val < 44 → let u := s.until (s.hkAt - hkPeriod + 32000 * c.val)
    (u.linkState (c.val - 28) ≠ lUP → exec (.hkSample c v) s = .next (u.putB (F.HK_CH_VALID c) false)) ∧
    (u.linkState (c.val - 28) = lUP → exec (.hkSample c v) s =
      .next (((u.put (F.HK_CH_V c) (u.get (F.YILOS_TEL_VAL (c.val - 28) 4))).putB (F.HK_CH_VALID c) true).hkLimit c))) ∧
  (∀ (s : State) (c : Nat), let v := hkNum c (s.get (F.HK_CH_V c))
    (v < hkNum c (s.get (F.HK_LIM_LO c)) ∨ hkNum c (s.get (F.HK_LIM_HI c)) < v →
      (s.hkOut c = false → s.hkLimit c = ((s.setHkOut c true).raise F.HK_EVT_LIMIT).fault 0x0C04 c) ∧ (s.hkOut c = true → s.hkLimit c = s)) ∧
    (hkNum c (s.get (F.HK_LIM_LO c)) ≤ v → v ≤ hkNum c (s.get (F.HK_LIM_HI c)) → s.hkLimit c = s.setHkOut c false)) ∧
  (∀ (s : State), let a := maxOf (s.hkTemps (List.range 12))
    let u := s.put F.HK_TMAX_T (wrapInt 16 a)
    let l := u.get F.HK_STAT_LEVEL
    (l < 3 → 130 * 64 ≤ a →
      s.hkLevel = { ((u.hkSetLevel 3 a).fault 0x0C03 0).putB F.SAFETY_MISC_THREQ true with thrAt := some u.now }) ∧
    (l < 2 → 118 * 64 ≤ a → a < 130 * 64 → s.hkLevel = (u.hkSetLevel 2 a).fault 0x0C02 0) ∧
    (l = 0 → 110 * 64 ≤ a → a < 118 * 64 → s.hkLevel = (u.hkSetLevel 1 a).fault 0x0C01 0) ∧
    (l = 1 → a ≤ 105 * 64 → s.hkLevel = u.hkSetLevel 0 a) ∧
    (l = 2 → a ≤ 113 * 64 → s.hkLevel = u.hkSetLevel 1 a) ∧
    (l = 3 → s.hkLevel = u)) ∧
  (∀ (s : State), let l := s.hkTemps (List.range 12 ++ [46, 47])
    l ≠ [] → (s.bit F.HK_STAT_WIN = true → 120 * 64 < maxOf l ∨ minOf l < -(40 * 64) →
      s.hkWindow = ((s.setWindow false).raise F.HK_EVT_WINCHG).fault 0x0C05 0) ∧
    (s.bit F.HK_STAT_WIN = false → maxOf l ≤ 118 * 64 → -(38 * 64) ≤ minOf l →
      s.hkWindow = ((s.setWindow true).raise F.HK_EVT_WINCHG).jKick)) ∧
  (∀ (s : State) a, s.thrAt = some a → s.pw = pwLISTEN ∨ s.pw = pwREADY ∨ s.pw = pwRUN →
    let u := if s.thermalQuiet = true then s else s.until (a + 201 * msCounts)
    exec .thermalShutdownRest s = .next (State.enterRest { u with thrAt := none } true)) ∧
  (∀ (s : State), s.thrAt = none → exec .thermalShutdownRest s = .next s) ∧
  (∀ (s : State) r, s.nvmFree = false → exec (.nvmChunkWrite r) s = .next s ∧ exec .wearSave s = .next s) ∧
  (∀ (s : State) r, s.nvmFree = true → 32 ≤ s.logBuf.length → s.coxUp = true → let u := s.until s.chunkAt
    let v := if 2 ≤ u.get F.HK_STAT_LEVEL then u.advance (u.get F.HK_THR_PAUSE * 800) else u
    exec (.nvmChunkWrite r) s = .next (({ v with chunkAt := v.now + chunkTime 512 r } : State).logChunk r)) ∧
  (∀ (s : State) r c l, s.nvmFree = true → s.logBuf.length < 32 → s.chunks = c :: l → let u := s.until s.chunkAt
    let v := if 2 ≤ u.get F.HK_STAT_LEVEL then u.advance (u.get F.HK_THR_PAUSE * 800) else u
    exec (.nvmChunkWrite r) s = .next (({ v with chunkAt := v.now + chunkTime c.data.length r } : State).dataChunk c r)) ∧
  (∀ (s : State) (c : ChunkRec), s.dataChunk c .ok = State.mramWrite { s with chunks := s.chunks.drop 1 } c.addr c.data ∧
    s.dataChunk c .rewritten = (State.retryT { s with chunks := s.chunks.drop 1 } 2).mramWrite c.addr c.data) ∧
  (∀ (s : State), s.nvmFree = true → let u := s.until (s.wearAt + 3600000 * msCounts)
    exec .wearSave s = .next (State.saveWear { u with wearAt := u.now })) ∧
  (∀ (s : State), let x := s.freeIn 0 2
    s.saveWear = (if x.1 = 0 then { x.2 with wearSaved := x.2.wear } else if x.1 = 1 then { x.2.retryT 2 with wearSaved := x.2.wear }
      else (x.2.retryL 2).fault 0x0C06 0)) ∧
  (∀ (s : State), s.coxUp = true → s.domainRun 4 = true → let u := s.until (s.scrubAt + s.get F.NVM_SCRUB_HOURS * 703125000)
    ∀ z : State, u.maintSubmit { act := 3 } = (.started, z) ∨ u.maintSubmit { act := 3 } = (.queued, z) →
    exec .scrubStepDue s = .next { z with scrubAt := z.now }) ∧
  (∀ (s : State) u v, s.up R.CRYPTO_FW → ∀ w, s.takeWord R.CRYPTO_FW v = (w, u) →
    exec (.fwConfirm v) s = .next (if w.getLsbD 31 = true then u.fwConfirm else u)) ∧
  (∀ (s : State) u v, s.up R.CRYPTO_LCS → ∀ w, s.takeWord R.CRYPTO_LCS v = (w, u) →
    (bitsOf w.toNat 15 8 = 0x3C → bitsOf w.toNat 1 0 = 2 → u.lcs = 1 →
      exec (.lcsWrite v) s = .next ((u.keyWrite 4 [2]).logRec 9 3 0 2).showFw.showJtag) ∧
    (bitsOf w.toNat 15 8 ≠ 0x3C ∨ bitsOf w.toNat 1 0 ≠ 2 ∨ u.lcs ≠ 1 → exec (.lcsWrite v) s = .next u)) ∧
  (∀ (s : State) z v, s.up R.SE_SWAP → ∀ w, s.takeWord R.SE_SWAP v = (w, z) → let a := bitsOf w.toNat 3 0
    let u := z.put F.SE_SWAP_PAIR a
    (w.getLsbD 31 = false ∨ u.swap.isSome = true → exec (.seSwapGo v) s = .next u) ∧
    (w.getLsbD 31 = true → u.swap.isSome = false →
      (u.bit F.SE_SPARE_AVAIL = false → exec (.seSwapGo v) s = .next ((u.put F.SE_SWAP_STAT_RESULT 3).fault 0x0C30 a)) ∧
      (a < 9 → u.bit F.SE_SPARE_AVAIL = true → u.pairSt a = pACTIVE ∨ u.pairSt a = pHOST → u.orders = [] →
        u.imageFault (u.slotImage (u.get F.SE_SPARE_PAIR)) (u.bit F.CRYPTO_POL_SIGIMG) (u.bit F.CRYPTO_POL_ROLLIMG) = none →
        swapTables u (u.homeOf a) (u.image (u.homeOf a)) (parseImage (u.slotImage (u.get F.SE_SPARE_PAIR))) = true →
        exec (.seSwapGo v) s = .next (State.wr { u with swap := some { pair := a, spare := u.get F.SE_SPARE_PAIR, goAt := u.now } } R.SE_SWAP_STAT 0)))) ∧
  (∀ (s : State) w, s.swap = some w → s.swapReady w = true → exec .liveReplacementInstant s = .next (s.liveReplace w) ∧
    ∃ t : State, s.liveReplace w = (t.swapEnd 1).fault 0x0C31 w.pair) ∧
  (∀ (s : State), s.swap = none → exec .liveReplacementInstant s = .next s ∧ exec .liveSwapTimeout s = .next s) ∧
  (∀ (s : State) w, s.swap = some w → exec .liveSwapTimeout s = .next (((s.until (w.goAt + msCounts)).swapEnd 2).fault 0x0C30 w.pair)) ∧
  (∀ (s : State) l k r, s.coxUp = true → exec (.coxException l k r) s = .next ((s.writeDump 1 l k r).2.startReset 5) ∧
    exec (.firmwareAssertion l k r) s = .next ((s.writeDump 2 l k r).2.startReset 5) ∧
    (s.bit F.MASTER_JSTAT_HALT = true → exec (.capsizeDump l k r) s = .next ((s.writeDump 3 l k r).2.startReset 5)))

/-- A write of GPIO.OUT or OE changes only those pins of the writer that are no functional brakes. A converter
configuration that breaks a rule enters 0x0130; a series of 2^OSR conversions is averaged, rounding ties up; a read of RES
clears NEW and OVR. A locked TAP shows its bypass register; open, EXTEST, CLAMP and HIGHZ hold the device in reset, SYSRST
resets it with code 9, RLOAD writes a firmware word in recovery alone, and KEYWR writes a key slot except in RETURNED. The
boundary register covers 250 balls; EXTEST, CLAMP and HIGHZ hold BYP_HOLD and the safety outputs low, and HIGHZ turns
every other driver off; in reset the outputs are low but FTX, and the GPIO drivers are off. Catch conversions go in the
order of their instants (log entry 91). Completes: gpioOutWrite, gpioOeWrite, auxCfgWrite, auxStart, auxConversion,
auxResult, auxResRead, tapReset, idcode, samplePreload, extest, clamp, highz, chal, answer, rload, sysrst, keywr, bypass.
-/
def Obligations.PinsAndTap : Prop :=
  (∀ (s : State) u (a : Byte) v, s.up R.GPIO_OUT → ∀ w,
    (s.takeWord R.GPIO_OUT v = (w, u) → exec (.gpioOutWrite a v) s = .next (u.gpioWrite R.GPIO_OUT (u.pinsOf a.toNat) w)) ∧
    (s.takeWord R.GPIO_OE v = (w, u) → exec (.gpioOeWrite a v) s = .next (u.gpioWrite R.GPIO_OE (u.pinsOf a.toNat) w))) ∧
  (∀ (s : State) a v m (g : Nat), a = R.GPIO_OUT ∨ a = R.GPIO_OE → g < 32 → ((s.gpioWrite a m v).rd a).toNat.testBit g =
    if m g = true ∧ (s.get F.GPIO_BRK_BRK).testBit g = false then v.getLsbD g else (s.rd a).toNat.testBit g) ∧
  (∀ (s : State) u (a : Oct) v, s.up (R.AUXADC_CH_CFG a) → ∀ w, s.takeWord (R.AUXADC_CH_CFG a) v = (w, u) →
    exec (.auxCfgWrite a v) s = .next (u.auxCfg a w)) ∧
  (∀ (s : State) (a : Nat) v, s.auxRefused a v = false → (s.auxCfg a v).aux a = { out := (s.aux a).out }) ∧
  (∀ (s : State) (a : Nat) v m, m = (if bitsOf v.toNat 2 1 = 3 then s.get (F.AUXADC_CH_CFG_MODE a) else bitsOf v.toNat 2 1) →
    s.auxBad a (v.toNat.testBit 0) m (bitsOf v.toNat 9 5) = true → s.auxCfg a v = s.fault 0x0130 a) ∧
  (∀ (s : State) (a : Oct), s.up (R.AUXADC_CH_CFG a) →
    (s.get (F.AUXADC_CH_CFG_MODE a) = 2 → s.bit (F.AUXADC_CH_CFG_EN a) = true → exec (.auxStart a) s =
      .next (s.setAux a { s.aux a with n := 0, sum := 0, due := 2 ^ s.get (F.AUXADC_CH_CFG_OSR a), acq := s.now + 200 }).auxShow) ∧
    (s.get (F.AUXADC_CH_CFG_MODE a) ≠ 2 ∨ s.bit (F.AUXADC_CH_CFG_EN a) = false → exec (.auxStart a) s = .next s)) ∧
  (∀ (s : State) (a : Oct) v, s.domainRun 3 = false ∨ s.auxOn a = false → exec (.auxConversion a v) s = .next s) ∧
  (∀ (s : State) (a : Oct) v, s.domainRun 3 = true → s.auxOn a = true → let x := s.aux a
    (s.get (F.AUXADC_CH_CFG_MODE a) = 1 → s.auxCarrier a = false → exec (.auxConversion a v) s =
      .next ((s.incSat F.AUXADC_SKIPCNT_COUNT).setAux a { x with n := 0, sum := 0, due := 0 }).auxShow) ∧
    (s.get (F.AUXADC_CH_CFG_MODE a) ≠ 1 ∨ s.auxCarrier a = true → s.auxTurn a = true →
      exec (.auxConversion a v) s = .next ((s.auxConvert a).auxSample a v.toNat)) ∧
    (s.get (F.AUXADC_CH_CFG_MODE a) ≠ 1 ∨ s.auxCarrier a = true → s.auxTurn a = false → exec (.auxConversion a v) s = .next s)) ∧
  (∀ (s : State) (a v : Nat), let x := s.aux a
    let k := s.get (F.AUXADC_CH_CFG_OSR a)
    (x.n + 1 < 2 ^ k → s.auxSample a v = (s.setAux a { x with due := x.due - 1, n := x.n + 1, sum := x.sum + v }).auxShow) ∧
    (2 ^ k ≤ x.n + 1 → s.auxSample a v =
      (s.setAux a { x with due := x.due - 1, n := 0, sum := 0, done := some ((2 * (x.sum + v) + 2 ^ k) / (2 * 2 ^ k)), doneAt := s.auxAt }).auxShow)) ∧
  (∀ (s : State) (a : Oct), (s.aux a).done = none → exec (.auxResult a) s = .next s) ∧
  (∀ (s : State) (a : Oct) v, (s.aux a).done = some v → s.domainRun 3 = true →
    exec (.auxResult a) s = .next ((((s.until ((s.aux a).doneAt + 160)).auxPut a v).auxLimit a v).auxSeriesEnd a)) ∧
  (∀ (s : State) (a v : Nat), (s.get (F.AUXADC_CH_LIM_LO a) ≤ v → v ≤ s.get (F.AUXADC_CH_LIM_HI a) →
      s.auxLimit a v = s.setAux a { s.aux a with done := none, out := false }) ∧
    (v < s.get (F.AUXADC_CH_LIM_LO a) ∨ s.get (F.AUXADC_CH_LIM_HI a) < v → (s.aux a).out = true →
      s.auxLimit a v = s.setAux a { s.aux a with done := none, out := true })) ∧
  (∀ (s : State) (a : Oct), s.up (R.AUXADC_CH_RES a) → ∃ t : State, exec (.auxResRead a) s = .next t ∧ t.rdata = s.rd (R.AUXADC_CH_RES a) ∧
    t.bit (F.AUXADC_CH_RES_NEW a) = false ∧ t.bit (F.AUXADC_CH_RES_OVR a) = false) ∧
  (∀ (s : State), s.powered = true → let u := s.jtagRelease
    exec .tapReset s = .next (u.jtagIr 0x01) ∧
    (∃ t : State, exec .idcode s = .next t ∧ t.tap.out = (if u.tap.idBad = true then 0x106406D6 else 0x106406D7) ∧ t.tap.idBad = false) ∧
    exec .chal s = .next ((u.jtagIr 0x20).tapOut (leNat ((u.jtagIr 0x20).nonce ++ (u.jtagIr 0x20).sysIdBytes))) ∧
    (∀ b, exec (.bypass b) s = .next ((u.jtagIr 0xFF).jtagBypass b.toNat)) ∧
    (∀ a b, exec (.samplePreload a b) s = .next (if (u.jtagIr 0x02).jtagFree = true then (u.jtagIr 0x02).tapScan a.toNat b.toNat
      else (u.jtagIr 0x02).jtagBypass b.toNat)) ∧
    (∀ a, (u.jtagIr 0x21).domainRun 3 = true → let l := leBytes 97 a.toNat
      exec (.answer a) s = .next ((u.jtagIr 0x21).jtagAnswer (leAt l 0 1) (slice l 1 48) (slice l 49 48))) ∧
    exec .sysrst s = .next (if (u.jtagIr 0x31).jtagFree = true then (u.jtagIr 0x31).startReset 9 else u.jtagIr 0x31)) ∧
  (∀ (s : State), s.powered = true → s.jtagFree = true → exec .clamp s = .next ((s.jtagIr 0x04).holdReset 9) ∧
    exec .highz s = .next ((s.jtagIr 0x05).holdReset 9) ∧
    (∀ a b, exec (.extest a b) s = .next (((s.jtagIr 0x03).holdReset 9).tapScan a.toNat b.toNat))) ∧
  (∀ (s : State), s.powered = true → s.jtagFree = false → exec .clamp s = .next (s.jtagRelease.jtagIr 0x04) ∧
    exec .highz s = .next (s.jtagRelease.jtagIr 0x05) ∧
    (∀ a b, exec (.extest a b) s = .next ((s.jtagRelease.jtagIr 0x03).jtagBypass b.toNat))) ∧
  (∀ (s : State) b (a : Word) d r, s.powered = true → let u := s.jtagRelease.jtagIr 0x30
    let n := b.toNat + 2 * a.toNat + 2 ^ 33 * d.toNat
    (u.jtagFree = false → exec (.rload b a d r) s = .next (u.jtagBypass n)) ∧
    (u.jtagFree = true → u.rloadOk a.toNat = false → exec (.rload b a d r) s = .next (u.tapOut n)) ∧
    (u.jtagFree = true → u.rloadOk a.toNat = true → exec (.rload b a d r) s = .next ((u.tapOut n).rloadWrite b.toNat a.toNat (leBytes 8 d.toNat) r))) ∧
  (∀ (s : State) (a b : Nat) l, s.rloadWrite b a l .ok = s.mramWrite (fwSlot b + a) l ∧ s.rloadWrite b a l .rewritten = (s.retryT 2).mramWrite (fwSlot b + a) l) ∧
  (∀ (s : State) (a : Byte) d, s.powered = true → let u := s.jtagRelease.jtagIr 0x32
    (u.jtagFree = false → exec (.keywr a d) s = .next (u.jtagBypass (a.toNat + 256 * d.toNat))) ∧
    (u.jtagFree = true → u.domainRun 3 = true → u.lcs = 3 → exec (.keywr a d) s = .next (u.fault 0x0C27 0)) ∧
    (u.jtagFree = true → u.lcs ≠ 3 → u.domainRun 3 = true → a.toNat < 4 → exec (.keywr a d) s =
      .next (((u.keyWrite (0x10 + 128 * a.toNat + 8) (leBytes 96 d.toNat)).keyWrite (0x10 + 128 * a.toNat) [1]).logRec 9 2 a.toNat u.lcs))) ∧
  (boundaryBalls.length = 250 ∧ boundaryBalls.Nodup) ∧
  (∀ (s : State) (b : Ball), b = .bypHold ∨ (∃ x i, b = .sto x i) ∨ (∃ x i, b = .sbo x i) → s.cellsDrive = true ∨ s.cellsOff = true →
    s.ballLevel b = some false) ∧
  (∀ (s : State) (b : Ball), s.cellsOff = true → b.heldLow = false → s.ballLevel b = none) ∧
  (∀ (s : State) (b : Ball), s.cellsDrive = false → s.cellsOff = false → s.ballLevel b = s.ballFunc b) ∧
  (∀ b : Ball, State.reset.ballLevel b = (match b with
    | .bypHold | .mpAttnN | .phyrstN _ | .mdc | .fde _ | .sto _ _ | .sbo _ _ | .tpo _ => some false
    | .ftx _ => some true
    | _ => none))

/-- An access outside the address map, or of part of a register, or to a domain that is off, and a store to what is read-
only, is refused with its bus fault; a refused read returns 0. Memory is read and written as its region says. A register
write sets the rw fields, clears the w1c bits where it holds a 1 and the hardware has not set them at that count, leaves
ro fields as they are and every other register as it was; a nonzero reserved field is counted (log entry 62) and written
as 0; an offset without a register takes no effect and reads 0. Where several refusals apply, and for memory in a domain
that is off, the order and the code are the model's (log entry 73). Completes: registerWrite. -/
def Obligations.RegisterWrites : Prop :=
  (∀ (s : State) a z v, exec (.registerWrite a z (some v)) s = .next (s.coxStore a.toNat z v)) ∧
  (∀ (s : State) a z, exec (.registerWrite a z none) s = .next { (s.coxLoad a.toNat z).2 with rdata := (s.coxLoad a.toNat z).1 }) ∧
  (∀ (s : State) (a : Nat) z v, regionOf a ≠ .periph → regionOf a = .unmapped ∨ regionOf (a + accBytes z - 1) = .unmapped →
    s.coxStore a z v = s.coxBusFault 0x0102 a ∧ s.coxLoad a z = (0, s.coxBusFault 0x0102 a)) ∧
  (∀ (s : State) (a : Nat) z v, regionOf a = .periph →
    (z ≠ .word ∨ a % 4 ≠ 0 → s.coxStore a z v = s.coxBusFault 0x0101 a ∧ s.coxLoad a z = (0, s.coxBusFault 0x0101 a)) ∧
    (z = .word → a % 4 = 0 → s.windowOn (winOf a) = false →
      s.coxStore a z v = s.coxBusFault 0x0104 a ∧ s.coxLoad a z = (0, s.coxBusFault 0x0104 a)) ∧
    (z = .word → a % 4 = 0 → s.windowOn (winOf a) = true →
      (winOf a = 4 → s.coxStore a z v = s.coxBusFault 0x0103 a) ∧
      (winOf a ≠ 4 → s.coxStore a z v = s.regWrite s.coxPin a v) ∧ s.coxLoad a z = s.regRead a)) ∧
  (∀ (s : State) (a : Nat) z v, regionOf a ≠ .periph → regionOf a ≠ .unmapped → regionOf (a + accBytes z - 1) = regionOf a →
    (s.domainOn (regionDomain (regionOf a)) = false →
      s.coxStore a z v = s.coxBusFault 0x0104 a ∧ s.coxLoad a z = (0, s.coxBusFault 0x0104 a)) ∧
    (s.domainOn (regionDomain (regionOf a)) = true →
      (regionOf a = .bootRom ∨ regionOf a = .mram0 ∨ regionOf a = .mram1 → s.coxStore a z v = s.coxBusFault 0x0103 a) ∧
      (regionOf a = .mram0 ∨ regionOf a = .mram1 ∨ regionOf a = .coxRam → s.coxLoad a z = (BitVec.ofNat 32 (s.rdN a (accBytes z)), s)) ∧
      (regionOf a = .sigMap → s.coxStore a z v = s.fault 0x0A0D 0) ∧
      (regionOf a = .coxRam → s.coxStore a z v = s.wrN a (accBytes z) v.toNat) ∧
      (regionOf a = .sramL ∨ regionOf a = .sramH →
        ((s.sramStore a (accBytes z) v.toNat).1 = true → s.coxStore a z v = (s.sramStore a (accBytes z) v.toNat).2) ∧
        ((s.sramLoad a (accBytes z)).1 = none → s.coxLoad a z = (0, (s.sramLoad a (accBytes z)).2.coxBusFault 0x0106 a)) ∧
        (∀ x, (s.sramLoad a (accBytes z)).1 = some x → s.coxLoad a z = (BitVec.ofNat 32 x, (s.sramLoad a (accBytes z)).2))))) ∧
  (∀ (s : State) m (a : Nat) v, findRow a = none → s.regWrite m a v = s ∧ s.regRead a = (0, s)) ∧
  (∀ (s : State) m (a : Nat) v r, findRow a = some r → winOf a = 3 ∨ winOf a = 16 →
    s.regWrite m a v = (s.takeWord a v).2.plainWrite r a (s.takeWord a v).1) ∧
  (∀ (s : State) (a : Nat) v r, findRow a = some r →
    (v &&& BitVec.ofNat 32 r.rsv = 0 → (s.takeWord a v).2 = s) ∧
    (v &&& BitVec.ofNat 32 r.rsv ≠ 0 → (s.takeWord a v).2 = s.countRsv (winOf a)) ∧
    (∀ k : Nat, k < 32 → (s.takeWord a v).1.getLsbD k =
      (v.getLsbD k && !(r.rsv.testBit k || r.w1c.testBit k && (mget 0 s.raised a).testBit k)))) ∧
  (∀ (r : RegRow) (x y : Word) (k : Nat), k < 32 →
    (r.rw.testBit k = true → r.w1c.testBit k = false → (r.plain x y).getLsbD k = y.getLsbD k) ∧
    (r.rw.testBit k = false → r.w1c.testBit k = true → (r.plain x y).getLsbD k = (x.getLsbD k && !y.getLsbD k)) ∧
    (r.rw.testBit k = false → r.w1c.testBit k = false → (r.plain x y).getLsbD k = x.getLsbD k)) ∧
  (∀ (s : State) r (a b : Nat) v, b ≠ a → (s.plainWrite r a v).rd b = s.rd b)

/-- The modulator reads table t at an angle word by linear interpolation between the entry of its top 14 bits and the next
one, in 64-bit integer arithmetic with an arithmetic shift; the value read lies between the two entries and is the entry
itself where the fraction is 0. -/
def Obligations.TableRead : Prop :=
  ∀ (s : State) (a : Nat) (z : Word), let i := (z.extractLsb' 18 14).toNat
    let k := (z.extractLsb' 2 16).toNat
    let x := (s.ptabAt (16384 * a + i)).toInt
    let y := (s.ptabAt (16384 * a + (i + 1) % 16384)).toInt
    s.tableRead a z = x + ((y - x) * (k : Int)) >>> (16 : Nat) ∧
    (k = 0 → s.tableRead a z = x) ∧
    min x y ≤ s.tableRead a z ∧ s.tableRead a z ≤ max x y

/-- For every row of the Onnus opcode map, in each of its formats, the word built from its opcode, its function or mode
and any operands decodes to the instruction of that row with those operands. -/
def Obligations.OnnusWordsDecode : Prop :=
  ∀ (p : PairNo),
    (∀ r ∈ rowsA, ∀ (x y z : BitVec 5), onnusDecode p (encA r.op x y z r.func) = some (r.ins p x y z)) ∧
    (∀ r ∈ rowsB, ∀ (x y : BitVec 5) (z : BitVec 15), onnusDecode p (encB r.op x y z) = some (r.ins p x y z)) ∧
    (∀ r ∈ rowsC, ∀ (x : BitVec 5) (z : BitVec 20), onnusDecode p (encC r.op x z) = some (r.ins p x z)) ∧
    (∀ r ∈ rowsE, ∀ (x : BitVec 5) (z : BitVec 16), onnusDecode p (encE r.op x z r.mode) = some (r.ins p x z))

end
end

