-- ==== Sys2Proof/Laws/Lists.lean ====
section
/-! SUPPORT. Laws/Lists.lean: the canonical lists: reading after writing, and the canonical form. -/
namespace Sys2Proof.Machine

section
variable {α : Type} [DecidableEq α]

omit [DecidableEq α] in
theorem mget_filter_self (d : α) (l : List (Nat × α)) (k : Nat) : mget d (l.filter (fun p => p.1 ≠ k)) k = d := by
  induction l with
  | nil => rfl
  | cons x r ih =>
    obtain ⟨a, v⟩ := x
    by_cases h : a = k
    · simp [List.filter, h] at ih ⊢; exact ih
    · simp [List.filter, h, mget] at ih ⊢; exact ih

omit [DecidableEq α] in
theorem mget_filter_other (d : α) (l : List (Nat × α)) {k j : Nat} (h : j ≠ k) :
    mget d (l.filter (fun p => p.1 ≠ k)) j = mget d l j := by
  induction l with
  | nil => rfl
  | cons x r ih =>
    obtain ⟨a, v⟩ := x
    by_cases hk : a = k
    · have : a ≠ j := fun e => h (e ▸ hk)
      simp [List.filter, hk, mget, Ne.symm h] at ih ⊢; exact ih
    · simp only [List.filter, ne_eq, hk, not_false_eq_true, decide_true, mget] at ih ⊢
      rw [ih]

omit [DecidableEq α] in
theorem mget_minsert_self (d : α) (l : List (Nat × α)) (k : Nat) (v : α) (h : ∀ p ∈ l, p.1 ≠ k) :
    mget d (minsert k v l) k = v := by
  induction l with
  | nil => simp [minsert, mget]
  | cons x r ih =>
    obtain ⟨a, w⟩ := x
    have ha : a ≠ k := h (a, w) (by simp)
    unfold minsert
    split
    · simp [mget]
    · simp only [mget, ha, if_false]
      exact ih (fun p hp => h p (List.mem_cons_of_mem _ hp))

omit [DecidableEq α] in
theorem mget_minsert_other (d : α) (l : List (Nat × α)) {k j : Nat} (v : α) (h : j ≠ k) :
    mget d (minsert k v l) j = mget d l j := by
  induction l with
  | nil => simp [minsert, mget, Ne.symm h]
  | cons x r ih =>
    obtain ⟨a, w⟩ := x
    unfold minsert
    split
    · simp [mget, Ne.symm h]
    · simp only [mget, ih]

/-- A write is read back. -/
@[simp] theorem mget_mset_same (d : α) (l : List (Nat × α)) (k : Nat) (v : α) : mget d (mset d l k v) k = v := by
  unfold mset
  by_cases h : v = d
  · simp only [h, if_true]; exact mget_filter_self d l k
  · simp only [h, if_false]
    exact mget_minsert_self d _ k v (fun p hp => by simpa using (List.mem_filter.1 hp).2)

/-- A write leaves every other key alone. -/
theorem mget_mset_other (d e : α) (l : List (Nat × α)) {k j : Nat} (v : α) (h : j ≠ k) :
    mget e (mset d l k v) j = mget e l j := by
  unfold mset
  by_cases hv : v = d
  · simp only [hv, if_true]; exact mget_filter_other e l h
  · simp only [hv, if_false]; rw [mget_minsert_other e _ v h, mget_filter_other e l h]

/-- The canonical form: keys strictly rising from above `b`, no entry equal to its default. -/
def mwfFrom (d : Nat → α) : Option Nat → List (Nat × α) → Prop
  | _, [] => True
  | b, (a, v) :: r => (∀ x, b = some x → x < a) ∧ v ≠ d a ∧ mwfFrom d (some a) r

theorem mwf_iff (d : Nat → α) (l : List (Nat × α)) : mwf d l = true ↔ mwfFrom d none l := by
  suffices h : ∀ l : List (Nat × α), ∀ b : Option Nat,
      mwfFrom d b l ↔ (mwf d l = true ∧ ∀ x a v r, b = some x → l = (a, v) :: r → x < a) by
    rw [h l none]; simp
  intro l
  induction l with
  | nil => intro b; simp [mwfFrom, mwf]
  | cons x r ih =>
    obtain ⟨a, v⟩ := x
    intro b
    cases r with
    | nil =>
      simp only [mwfFrom, mwf, and_true, decide_eq_true_eq]
      constructor
      · rintro ⟨h1, h2⟩
        refine ⟨h2, ?_⟩
        intro x a' v' r' hb he
        injection he with he _
        injection he with he _
        exact he ▸ h1 x hb
      · rintro ⟨h1, h2⟩
        exact ⟨fun x hx => h2 x a v _ hx rfl, h1⟩
    | cons y r =>
      obtain ⟨c, w⟩ := y
      simp only [mwfFrom, mwf] at ih ⊢
      have := ih (some a)
      simp only [Option.some.injEq, forall_eq', Bool.and_eq_true, decide_eq_true_eq] at this ⊢
      constructor
      · rintro ⟨h1, h2, h3⟩
        have h4 := this.1 h3
        refine ⟨⟨⟨h4.2 a c w r rfl rfl, h2⟩, h4.1⟩, ?_⟩
        intro x a' v' r' hb he
        injection he with he _
        injection he with he _
        exact he ▸ h1 x hb
      · rintro ⟨⟨⟨h1, h2⟩, h3⟩, h4⟩
        refine ⟨fun x hx => h4 x a v _ hx rfl, h2, this.2 ⟨h3, ?_⟩⟩
        intro x a' v' r' hb he
        injection he with he _
        injection he with he _
        subst hb; exact he ▸ h1

omit [DecidableEq α] in
theorem mwfFrom_weaken (d : Nat → α) (l : List (Nat × α)) {b c : Option Nat}
    (h : ∀ x, c = some x → ∃ y, b = some y ∧ x ≤ y) (hl : mwfFrom d b l) : mwfFrom d c l := by
  cases l with
  | nil => trivial
  | cons x r =>
    obtain ⟨a, v⟩ := x
    refine ⟨fun x hx => ?_, hl.2⟩
    obtain ⟨y, hy, hxy⟩ := h x hx
    exact Nat.lt_of_le_of_lt hxy (hl.1 y hy)

omit [DecidableEq α] in
theorem mwfFrom_filter (d : Nat → α) (p : Nat × α → Bool) (l : List (Nat × α)) (b : Option Nat) (h : mwfFrom d b l) :
    mwfFrom d b (l.filter p) := by
  induction l generalizing b with
  | nil => trivial
  | cons x r ih =>
    obtain ⟨a, v⟩ := x
    by_cases hp : p (a, v) = true
    · simp only [List.filter, hp]
      exact ⟨h.1, h.2.1, ih _ h.2.2⟩
    · simp only [List.filter, hp]
      refine ih _ (mwfFrom_weaken d r ?_ h.2.2)
      intro x hx
      exact ⟨a, rfl, Nat.le_of_lt (h.1 x hx)⟩

/-- A part of a canonical list is canonical. -/
theorem mwf_filter (d : Nat → α) (p : Nat × α → Bool) (l : List (Nat × α)) (h : mwf d l = true) :
    mwf d (l.filter p) = true := (mwf_iff d _).2 (mwfFrom_filter d p l none ((mwf_iff d l).1 h))

omit [DecidableEq α] in
theorem mwfFrom_filterMap (d : Nat → α) (f : Nat × α → Option (Nat × α)) (l : List (Nat × α))
    (hf : ∀ x y, f x = some y → x.2 ≠ d x.1 → y.1 = x.1 ∧ y.2 ≠ d x.1) (b : Option Nat) (h : mwfFrom d b l) :
    mwfFrom d b (l.filterMap f) := by
  induction l generalizing b with
  | nil => trivial
  | cons x r ih =>
    obtain ⟨a, v⟩ := x
    rw [List.filterMap_cons]
    split
    · refine ih _ (mwfFrom_weaken d r ?_ h.2.2)
      exact fun x hx => ⟨a, rfl, Nat.le_of_lt (h.1 x hx)⟩
    · rename_i y hy
      obtain ⟨c, w⟩ := y
      obtain ⟨h1, h2⟩ := hf _ _ hy h.2.1
      cases h1
      exact ⟨h.1, h2, ih _ h.2.2⟩

/-- New values for the entries of a canonical list, or none, where each new value is no default. -/
theorem mwf_filterMap (d : Nat → α) (f : Nat × α → Option (Nat × α)) (l : List (Nat × α))
    (hf : ∀ x y, f x = some y → x.2 ≠ d x.1 → y.1 = x.1 ∧ y.2 ≠ d x.1) (h : mwf d l = true) : mwf d (l.filterMap f) = true :=
  (mwf_iff d _).2 (mwfFrom_filterMap d f l hf none ((mwf_iff d l).1 h))

omit [DecidableEq α] in
theorem mwfFrom_minsert (d : Nat → α) (k : Nat) (v : α) (hv : v ≠ d k) (l : List (Nat × α)) (b : Option Nat)
    (hb : ∀ x, b = some x → x < k) (hk : ∀ p ∈ l, p.1 ≠ k) (h : mwfFrom d b l) : mwfFrom d b (minsert k v l) := by
  induction l generalizing b with
  | nil => exact ⟨hb, hv, trivial⟩
  | cons x r ih =>
    obtain ⟨a, w⟩ := x
    unfold minsert
    have ha : a ≠ k := hk (a, w) (by simp)
    split
    · rename_i hlt
      exact ⟨hb, hv, fun x hx => by injection hx with hx; exact hx ▸ hlt, h.2⟩
    · rename_i hlt
      have hlt : a < k := by omega
      exact ⟨h.1, h.2.1, ih _ (fun x hx => by injection hx with hx; exact hx ▸ hlt)
        (fun p hp => hk p (List.mem_cons_of_mem _ hp)) h.2.2⟩

/-- A write keeps the canonical form. -/
theorem mwf_mset (d : Nat → α) (l : List (Nat × α)) (k : Nat) (v : α) (h : mwf d l = true) :
    mwf d (mset (d k) l k v) = true := by
  have hf := mwfFrom_filter d (fun p => decide (p.1 ≠ k)) l none ((mwf_iff d l).1 h)
  unfold mset
  by_cases hv : v = d k
  · simp only [hv, if_true]; exact (mwf_iff d _).2 hf
  · simp only [hv, if_false]
    refine (mwf_iff d _).2 (mwfFrom_minsert d k v hv _ none (by simp) ?_ hf)
    intro p hp
    simpa using (List.mem_filter.1 hp).2

end

end Sys2Proof.Machine
end

