-- ==== Sys2Proof/Laws/State.lean ====
section
/-! SUPPORT. Laws/State.lean: what each update of State leaves in each field that the shared operations read, so that no proof
unfolds a record update. -/
namespace Sys2Proof.Machine

/-! ### Registers -/
@[simp] theorem wr_mem (s : State) (a : Nat) (v : Word) : (s.wr a v).mem = s.mem := rfl
@[simp] theorem wr_pending (s : State) (a : Nat) (v : Word) : (s.wr a v).pending = s.pending := rfl
@[simp] theorem wr_now (s : State) (a : Nat) (v : Word) : (s.wr a v).now = s.now := rfl
@[simp] theorem wr_faults (s : State) (a : Nat) (v : Word) : (s.wr a v).faults = s.faults := rfl
@[simp] theorem wr_tasks (s : State) (a : Nat) (v : Word) : (s.wr a v).tasks = s.tasks := rfl
@[simp] theorem wr_pairs (s : State) (a : Nat) (v : Word) : (s.wr a v).pairs = s.pairs := rfl
@[simp] theorem wr_claims (s : State) (a : Nat) (v : Word) : (s.wr a v).claims = s.claims := rfl
@[simp] theorem wr_crews (s : State) (a : Nat) (v : Word) : (s.wr a v).crews = s.crews := rfl
@[simp] theorem wr_legs (s : State) (a : Nat) (v : Word) : (s.wr a v).legs = s.legs := rfl
@[simp] theorem put_mem (s : State) (f : Fld) (v : Nat) : (s.put f v).mem = s.mem := rfl
@[simp] theorem put_pending (s : State) (f : Fld) (v : Nat) : (s.put f v).pending = s.pending := rfl
@[simp] theorem put_now (s : State) (f : Fld) (v : Nat) : (s.put f v).now = s.now := rfl
@[simp] theorem put_faults (s : State) (f : Fld) (v : Nat) : (s.put f v).faults = s.faults := rfl
@[simp] theorem put_tasks (s : State) (f : Fld) (v : Nat) : (s.put f v).tasks = s.tasks := rfl
@[simp] theorem put_pairs (s : State) (f : Fld) (v : Nat) : (s.put f v).pairs = s.pairs := rfl
@[simp] theorem put_claims (s : State) (f : Fld) (v : Nat) : (s.put f v).claims = s.claims := rfl
@[simp] theorem put_crews (s : State) (f : Fld) (v : Nat) : (s.put f v).crews = s.crews := rfl
@[simp] theorem put_legs (s : State) (f : Fld) (v : Nat) : (s.put f v).legs = s.legs := rfl

/-! ### Records -/
@[simp] theorem setTask_regs (s : State) (k : Nat) (v : TaskRec) : (s.setTask k v).regs = s.regs := rfl
@[simp] theorem setTask_mem (s : State) (k : Nat) (v : TaskRec) : (s.setTask k v).mem = s.mem := rfl
@[simp] theorem setTask_pairs (s : State) (k : Nat) (v : TaskRec) : (s.setTask k v).pairs = s.pairs := rfl
@[simp] theorem setTask_pending (s : State) (k : Nat) (v : TaskRec) : (s.setTask k v).pending = s.pending := rfl
@[simp] theorem setPair_regs (s : State) (k : Nat) (v : PairRec) : (s.setPair k v).regs = s.regs := rfl
@[simp] theorem setPair_mem (s : State) (k : Nat) (v : PairRec) : (s.setPair k v).mem = s.mem := rfl
@[simp] theorem setPair_tasks (s : State) (k : Nat) (v : PairRec) : (s.setPair k v).tasks = s.tasks := rfl
@[simp] theorem setPair_pending (s : State) (k : Nat) (v : PairRec) : (s.setPair k v).pending = s.pending := rfl
@[simp] theorem setCrew_regs (s : State) (k : Nat) (v : CrewRec) : (s.setCrew k v).regs = s.regs := rfl
@[simp] theorem setCrew_mem (s : State) (k : Nat) (v : CrewRec) : (s.setCrew k v).mem = s.mem := rfl
@[simp] theorem setCrew_pending (s : State) (k : Nat) (v : CrewRec) : (s.setCrew k v).pending = s.pending := rfl
@[simp] theorem setLeg_regs (s : State) (k : Nat) (v : LegRec) : (s.setLeg k v).regs = s.regs := rfl
@[simp] theorem setLeg_mem (s : State) (k : Nat) (v : LegRec) : (s.setLeg k v).mem = s.mem := rfl
@[simp] theorem setLeg_pending (s : State) (k : Nat) (v : LegRec) : (s.setLeg k v).pending = s.pending := rfl

/-! ### Loops -/
/-- What each round leaves the same, the loop leaves the same. -/
theorem loopL_same {α β : Type} (g : State → β) {l : List α} {f : α → State → State} (h : ∀ a s, g (f a s) = g s) (s : State) :
    g (loopL l f s) = g s := by
  unfold loopL
  induction l generalizing s with
  | nil => rfl
  | cons a r ih => exact (ih _).trans (h a s)

theorem loopN_same {β : Type} (g : State → β) {n : Nat} {f : Nat → State → State} (h : ∀ i s, g (f i s) = g s) (s : State) :
    g (loopN n f s) = g s := loopL_same (l := List.range n) g h s

/-! ### Time -/
@[simp] theorem advance_regs (s : State) (k : Nat) : (s.advance k).regs = s.regs := rfl
@[simp] theorem advance_mem (s : State) (k : Nat) : (s.advance k).mem = s.mem := rfl
@[simp] theorem advance_pending (s : State) (k : Nat) : (s.advance k).pending = s.pending := rfl
@[simp] theorem advance_now (s : State) (k : Nat) : (s.advance k).now = s.now + k := rfl

/-! A command that falls due at an instant lets time pass until then, and nothing else. -/
theorem until_now (s : State) (t : Nat) : (s.until t).now = max s.now t := by
  unfold State.until
  split
  · omega
  · rw [advance_now]; omega
@[simp] theorem until_regs (s : State) (t : Nat) : (s.until t).regs = s.regs := by unfold State.until; split <;> rfl
@[simp] theorem until_mem (s : State) (t : Nat) : (s.until t).mem = s.mem := by unfold State.until; split <;> rfl
@[simp] theorem until_pending (s : State) (t : Nat) : (s.until t).pending = s.pending := by unfold State.until; split <;> rfl
@[simp] theorem until_pairs (s : State) (t : Nat) : (s.until t).pairs = s.pairs := by unfold State.until; split <;> rfl
@[simp] theorem until_tasks (s : State) (t : Nat) : (s.until t).tasks = s.tasks := by unfold State.until; split <;> rfl
@[simp] theorem until_crews (s : State) (t : Nat) : (s.until t).crews = s.crews := by unfold State.until; split <;> rfl
@[simp] theorem until_legs (s : State) (t : Nat) : (s.until t).legs = s.legs := by unfold State.until; split <;> rfl
@[simp] theorem until_claims (s : State) (t : Nat) : (s.until t).claims = s.claims := by unfold State.until; split <;> rfl
@[simp] theorem until_faults (s : State) (t : Nat) : (s.until t).faults = s.faults := by unfold State.until; split <;> rfl
@[simp] theorem advanceTb_regs (s : State) (t : Nat) : (s.advanceTb t).regs = s.regs := by unfold State.advanceTb; split <;> rfl
@[simp] theorem advanceTb_mem (s : State) (t : Nat) : (s.advanceTb t).mem = s.mem := by unfold State.advanceTb; split <;> rfl
@[simp] theorem advanceTb_pending (s : State) (t : Nat) : (s.advanceTb t).pending = s.pending := by unfold State.advanceTb; split <;> rfl
@[simp] theorem advanceTb_pairs (s : State) (t : Nat) : (s.advanceTb t).pairs = s.pairs := by unfold State.advanceTb; split <;> rfl
@[simp] theorem advanceTb_tasks (s : State) (t : Nat) : (s.advanceTb t).tasks = s.tasks := by unfold State.advanceTb; split <;> rfl
@[simp] theorem advanceTb_crews (s : State) (t : Nat) : (s.advanceTb t).crews = s.crews := by unfold State.advanceTb; split <;> rfl
@[simp] theorem advanceTb_legs (s : State) (t : Nat) : (s.advanceTb t).legs = s.legs := by unfold State.advanceTb; split <;> rfl
@[simp] theorem advanceTb_claims (s : State) (t : Nat) : (s.advanceTb t).claims = s.claims := by unfold State.advanceTb; split <;> rfl
@[simp] theorem advanceTb_faults (s : State) (t : Nat) : (s.advanceTb t).faults = s.faults := by unfold State.advanceTb; split <;> rfl
@[simp] theorem until_pair (s : State) (t k : Nat) : (s.until t).pair k = s.pair k := by unfold State.until; split <;> rfl
@[simp] theorem until_task (s : State) (t k : Nat) : (s.until t).task k = s.task k := by unfold State.until; split <;> rfl
@[simp] theorem until_crew (s : State) (t k : Nat) : (s.until t).crew k = s.crew k := by unfold State.until; split <;> rfl
@[simp] theorem until_leg (s : State) (t k : Nat) : (s.until t).leg k = s.leg k := by unfold State.until; split <;> rfl
@[simp] theorem until_rd (s : State) (t k : Nat) : (s.until t).rd k = s.rd k := by unfold State.until; split <;> rfl
@[simp] theorem until_get (s : State) (t : Nat) (f : Fld) : (s.until t).get f = s.get f := by unfold State.until; split <;> rfl
@[simp] theorem until_bit (s : State) (t : Nat) (f : Fld) : (s.until t).bit f = s.bit f := by unfold State.until; split <;> rfl
@[simp] theorem advanceTb_pair (s : State) (t k : Nat) : (s.advanceTb t).pair k = s.pair k := by unfold State.advanceTb; split <;> rfl
@[simp] theorem advanceTb_task (s : State) (t k : Nat) : (s.advanceTb t).task k = s.task k := by unfold State.advanceTb; split <;> rfl
@[simp] theorem advanceTb_crew (s : State) (t k : Nat) : (s.advanceTb t).crew k = s.crew k := by unfold State.advanceTb; split <;> rfl
@[simp] theorem advanceTb_leg (s : State) (t k : Nat) : (s.advanceTb t).leg k = s.leg k := by unfold State.advanceTb; split <;> rfl
@[simp] theorem advanceTb_rd (s : State) (t k : Nat) : (s.advanceTb t).rd k = s.rd k := by unfold State.advanceTb; split <;> rfl
@[simp] theorem advanceTb_get (s : State) (t : Nat) (f : Fld) : (s.advanceTb t).get f = s.get f := by unfold State.advanceTb; split <;> rfl
@[simp] theorem advanceTb_bit (s : State) (t : Nat) (f : Fld) : (s.advanceTb t).bit f = s.bit f := by unfold State.advanceTb; split <;> rfl

/-! ### Memory -/
@[simp] theorem setByte_regs (s : State) (a : Nat) (b : Byte) : (s.setByte a b).regs = s.regs := rfl
@[simp] theorem setByte_pending (s : State) (a : Nat) (b : Byte) : (s.setByte a b).pending = s.pending := rfl
@[simp] theorem setBytes_regs (s : State) (a : Nat) (l : List Byte) : (s.setBytes a l).regs = s.regs := rfl
@[simp] theorem setBytes_pending (s : State) (a : Nat) (l : List Byte) : (s.setBytes a l).pending = s.pending := rfl
@[simp] theorem wrN_regs (s : State) (a n v : Nat) : (s.wrN a n v).regs = s.regs := rfl
@[simp] theorem wrN_pending (s : State) (a n v : Nat) : (s.wrN a n v).pending = s.pending := rfl

/-! ### What a task's issue leaves -/
theorem byteAt_of_mem {s t : State} (h : t.mem = s.mem) (a : Nat) : t.byteAt a = s.byteAt a := by unfold State.byteAt; rw [h]
theorem rd_of_regs {s t : State} (h : t.regs = s.regs) (a : Nat) : t.rd a = s.rd a := by unfold State.rd; rw [h]
@[simp] theorem spend_regs (s : State) (p n : Nat) : (s.spend p n).regs = s.regs := rfl
@[simp] theorem spend_mem (s : State) (p n : Nat) : (s.spend p n).mem = s.mem := rfl
@[simp] theorem spend_pending (s : State) (p n : Nat) : (s.spend p n).pending = s.pending := rfl
@[simp] theorem spend_tasks (s : State) (p n : Nat) : (s.spend p n).tasks = s.tasks := rfl
@[simp] theorem runTask_regs (s : State) (k : Nat) : (s.runTask k).regs = s.regs := rfl
@[simp] theorem runTask_mem (s : State) (k : Nat) : (s.runTask k).mem = s.mem := rfl
@[simp] theorem runTask_pending (s : State) (k : Nat) : (s.runTask k).pending = s.pending := rfl
@[simp] theorem runTask_pairs (s : State) (k : Nat) : (s.runTask k).pairs = s.pairs := rfl

/-! ### Engine memories -/
/-- A read of an engine memory that touches no word with an error (R44). -/
theorem memRead_clean {s : State} {p : Nat} {d : Bool} {a n : Nat} (hu : touchW (s.pair p).ue d a n = false)
    (hc : touchW (s.pair p).ce d a n = false) : s.memRead p d a n = some s := by
  unfold State.memRead
  dsimp only
  rw [hu, hc]
  rfl

end Sys2Proof.Machine
end

