-- ==== Sys2Proof/Laws/Mem.lean ====
section
/-! SUPPORT. Laws/Mem.lean: memory: reading after writing, and every memory operation keeps the canonical form. -/
namespace Sys2Proof.Machine

@[simp] theorem byteAt_setByte_same (s : State) (a : Nat) (b : Byte) : (s.setByte a b).byteAt a = b := by
  simp [State.byteAt, State.setByte]

theorem byteAt_setByte_other (s : State) {a c : Nat} (b : Byte) (h : c ≠ a) : (s.setByte a b).byteAt c = s.byteAt c :=
  mget_mset_other _ _ _ b h

/-- Bytes below a range that is written keep their value. -/
theorem mget_memPut_below (m : List Host.Cell) (a : Nat) (l : List Byte) {c : Nat} (h : c < a) :
    mget memDefault (memPut m a l) c = mget memDefault m c := by
  induction l generalizing m a with
  | nil => rfl
  | cons b r ih => rw [memPut, ih _ _ (by omega), mget_mset_other _ _ _ b (by omega)]

/-- Bytes outside a range that is written keep their value. -/
theorem mget_memPut_outside (m : List Host.Cell) (a : Nat) (l : List Byte) {c : Nat} (h : c < a ∨ a + l.length ≤ c) :
    mget memDefault (memPut m a l) c = mget memDefault m c := by
  induction l generalizing m a with
  | nil => rfl
  | cons b r ih =>
    rw [List.length_cons] at h
    rw [memPut, ih _ _ (by omega), mget_mset_other _ _ _ b (by omega)]

/-- Bytes of a range that is written are read back. -/
theorem mget_memPut_inside (m : List Host.Cell) (a : Nat) (l : List Byte) {i : Nat} (h : i < l.length) :
    mget memDefault (memPut m a l) (a + i) = l[i] := by
  induction l generalizing m a i with
  | nil => simp at h
  | cons b r ih =>
    cases i with
    | zero => rw [memPut, Nat.add_zero, mget_memPut_below _ _ _ (by omega)]; simp
    | succ j =>
      rw [memPut, show a + (j + 1) = a + 1 + j by omega, ih _ _ (by simpa using h)]
      simp

theorem byteAt_setBytes_outside (s : State) (a : Nat) (l : List Byte) {c : Nat} (h : c < a ∨ a + l.length ≤ c) :
    (s.setBytes a l).byteAt c = s.byteAt c := mget_memPut_outside s.mem a l h

theorem byteAt_setBytes_inside (s : State) (a : Nat) (l : List Byte) {i : Nat} (h : i < l.length) :
    (s.setBytes a l).byteAt (a + i) = l[i] := mget_memPut_inside s.mem a l h

theorem leBytes_length (n v : Nat) : (leBytes n v).length = n := by
  induction n generalizing v with
  | zero => rfl
  | succ n ih => simp [leBytes, ih]

theorem leNat_leBytes (n v : Nat) : leNat (leBytes n v) = v % 256 ^ n := by
  induction n generalizing v with
  | zero => simp [leBytes, leNat, Nat.mod_one]
  | succ n ih =>
    simp only [leBytes, leNat, ih, BitVec.toNat_ofNat]
    have h : (256 : Nat) ^ (n + 1) = 256 * 256 ^ n := by rw [Nat.pow_succ, Nat.mul_comm]
    rw [h, Nat.mod_mul, show (2 : Nat) ^ 8 = 256 from rfl]

theorem bytes_setBytes_same (s : State) (a : Nat) (l : List Byte) : (s.setBytes a l).bytes a l.length = l := by
  apply List.ext_getElem
  · simp [State.bytes]
  · intro i h1 h2
    simp only [State.bytes, List.getElem_map, List.getElem_range]
    exact byteAt_setBytes_inside s a l h2

/-- A little-endian number is read back. -/
theorem rdN_wrN_same (s : State) (a n v : Nat) : (s.wrN a n v).rdN a n = v % 256 ^ n := by
  have h := bytes_setBytes_same s a (leBytes n v)
  rw [leBytes_length] at h
  simp only [State.rdN, State.wrN]; rw [h, leNat_leBytes]

theorem byteAt_wrN_outside (s : State) (a n v : Nat) {c : Nat} (h : c < a ∨ a + n ≤ c) :
    (s.wrN a n v).byteAt c = s.byteAt c :=
  byteAt_setBytes_outside s a _ (by rw [leBytes_length]; exact h)

/-! ### The canonical form -/
theorem memPut_wf (m : List Host.Cell) (a : Nat) (l : List Byte) (h : Memory.wf m) : Memory.wf (memPut m a l) := by
  induction l generalizing m a with
  | nil => exact h
  | cons b r ih => exact ih _ _ (mwf_mset (fun _ => memDefault) m a b h)

theorem setByte_wf (s : State) (a : Nat) (b : Byte) (h : Memory.wf s.mem) : Memory.wf (s.setByte a b).mem :=
  mwf_mset (fun _ => memDefault) s.mem a b h

theorem setBytes_wf (s : State) (a : Nat) (l : List Byte) (h : Memory.wf s.mem) : Memory.wf (s.setBytes a l).mem :=
  memPut_wf _ _ _ h

theorem wrN_wf (s : State) (a n v : Nat) (h : Memory.wf s.mem) : Memory.wf (s.wrN a n v).mem := setBytes_wf s a _ h

@[simp] theorem logRec_mem (s : State) (k c i d : Nat) : (s.logRec k c i d).mem = s.mem := by
  unfold State.logRec; split <;> rfl

@[simp] theorem enterFault_mem (s : State) (c i : Nat) : (s.enterFault c i).2.mem = s.mem := by
  unfold State.enterFault
  dsimp only
  split
  · rfl
  · split
    · exact logRec_mem _ _ _ _ _
    · split
      · rfl
      · split <;> rfl

@[simp] theorem dropEvent_mem (s : State) : s.dropEvent.mem = s.mem := by
  unfold State.dropEvent
  dsimp only
  split
  · exact (enterFault_mem _ _ _).trans (enterFault_mem { s with repLost := s.repLost + 1 } _ _)
  · exact enterFault_mem { s with repLost := s.repLost + 1 } _ _

@[simp] theorem event_mem (s : State) (k : Nat) (l : List Byte) : (s.event k l).mem = s.mem := by
  have e : s.flushLost.mem = s.mem := by unfold State.flushLost; split <;> rfl
  unfold State.event
  dsimp only
  split
  · rfl
  · split
    · exact (dropEvent_mem _).trans e
    · exact e

@[simp] theorem fault_mem (s : State) (c i : Nat) : (s.fault c i).mem = s.mem := by
  unfold State.fault
  dsimp only
  split
  · exact (event_mem _ _ _).trans (enterFault_mem _ _ _)
  · exact enterFault_mem _ _ _

theorem foldl_wf {α : Type} {l : List α} {f : State → α → State} (hf : ∀ x a, Memory.wf x.mem → Memory.wf (f x a).mem) :
    ∀ s : State, Memory.wf s.mem → Memory.wf (l.foldl f s).mem := by
  induction l with
  | nil => exact fun _ h => h
  | cons a r ih => exact fun s h => ih _ (hf _ _ h)

theorem correctCe_wf (s : State) (a n : Nat) (h : Memory.wf s.mem) : Memory.wf (s.correctCe a n).mem :=
  foldl_wf (f := fun s _ => s.incSat F.SYS_ECC_CE_COUNT) (fun _ _ h => h) _ h

theorem devWrite_wf (s : State) (a : Nat) (l : List Byte) (h : Memory.wf s.mem) : Memory.wf (s.devWrite a l).mem := by
  refine foldl_wf (fun x e h => ?_) _ (setBytes_wf _ a l ?_)
  · exact (fault_mem _ _ _).symm ▸ setBytes_wf x e.1 e.2 h
  · split
    · exact correctCe_wf _ a _ h
    · exact h

theorem reset_wf : Memory.wf State.reset.mem := rfl

end Sys2Proof.Machine
end

