-- ==== Sys2Proof/Laws/Regs.lean ====
section
/-! SUPPORT. Laws/Regs.lean: register words and their fields: what a write leaves in every word and every field. -/
namespace Sys2Proof.Machine

@[simp] theorem rd_wr_same (s : State) (a : Nat) (v : Word) : (s.wr a v).rd a = v := by
  simp [State.rd, State.wr]

theorem rd_wr_other (s : State) {a b : Nat} (v : Word) (h : b ≠ a) : (s.wr a v).rd b = s.rd b := by
  simp only [State.rd, State.wr]; exact mget_mset_other _ _ _ v h

/-- A field's place in its word. -/
def Fld.ok (f : Fld) : Prop := f.lo ≤ f.hi ∧ f.hi < 32

/-- Fields of one word that do not overlap. -/
def Fld.apart (f g : Fld) : Prop := f.addr ≠ g.addr ∨ f.hi < g.lo ∨ g.hi < f.lo

theorem field_split (n lo m : Nat) : n = n / 2 ^ (lo + m) * 2 ^ (lo + m) + n / 2 ^ lo % 2 ^ m * 2 ^ lo + n % 2 ^ lo := by
  have h1 := Nat.div_add_mod n (2 ^ lo)
  have h2 := Nat.div_add_mod (n / 2 ^ lo) (2 ^ m)
  rw [Nat.div_div_eq_div_mul, ← Nat.pow_add] at h2
  have h3 : n / 2 ^ (lo + m) * 2 ^ (lo + m) = 2 ^ lo * (2 ^ m * (n / 2 ^ (lo + m))) := by
    rw [Nat.pow_add]; ac_rfl
  have h4 : 2 ^ lo * (n / 2 ^ lo) = 2 ^ lo * (2 ^ m * (n / 2 ^ (lo + m))) + n / 2 ^ lo % 2 ^ m * 2 ^ lo := by
    rw [Nat.mul_comm (n / 2 ^ lo % 2 ^ m), ← Nat.mul_add, h2]
  omega

/-- The number that a field write leaves in its word. -/
theorem setField_toNat (w : Word) {hi lo : Nat} (v : Nat) (h1 : lo ≤ hi) (h2 : hi < 32) :
    (setField w hi lo v).toNat =
      w.toNat / 2 ^ (hi + 1) * 2 ^ (hi + 1) + v % 2 ^ (hi + 1 - lo) * 2 ^ lo + w.toNat % 2 ^ lo := by
  obtain ⟨m, hm⟩ : ∃ m, hi + 1 - lo = m := ⟨_, rfl⟩
  have hp : hi + 1 = lo + m := by omega
  obtain ⟨k, hk⟩ : ∃ k, 32 = lo + m + k := ⟨32 - (lo + m), by omega⟩
  have hs := field_split w.toNat lo m
  have hlt : w.toNat < 2 ^ (lo + m) * 2 ^ k := by rw [← Nat.pow_add, ← hk]; exact w.isLt
  have hq : w.toNat / 2 ^ (lo + m) < 2 ^ k := Nat.div_lt_of_lt_mul hlt
  have hv : v % 2 ^ m < 2 ^ m := Nat.mod_lt _ (Nat.two_pow_pos m)
  have hl : w.toNat % 2 ^ lo < 2 ^ lo := Nat.mod_lt _ (Nat.two_pow_pos lo)
  have hin : v % 2 ^ m * 2 ^ lo + w.toNat % 2 ^ lo < 2 ^ (lo + m) := by
    have : v % 2 ^ m * 2 ^ lo + 2 ^ lo ≤ 2 ^ m * 2 ^ lo := by
      rw [← Nat.succ_mul]; exact Nat.mul_le_mul_right _ hv
    rw [Nat.pow_add, Nat.mul_comm (2 ^ lo)]; omega
  have hall : w.toNat / 2 ^ (lo + m) * 2 ^ (lo + m) + v % 2 ^ m * 2 ^ lo + w.toNat % 2 ^ lo < 2 ^ 32 := by
    have : w.toNat / 2 ^ (lo + m) * 2 ^ (lo + m) + 2 ^ (lo + m) ≤ 2 ^ k * 2 ^ (lo + m) := by
      rw [← Nat.succ_mul]; exact Nat.mul_le_mul_right _ hq
    have e : 2 ^ 32 = 2 ^ k * 2 ^ (lo + m) := by rw [← Nat.pow_add]; congr 1; omega
    rw [e]; omega
  have hm' : lo + m - lo = m := by omega
  simp only [setField, hp, hm', BitVec.toNat_ofNat]
  rw [Nat.mod_eq_of_lt]
  · omega
  · omega

/-- Bits of a number made of three parts. -/
theorem bitsOf_parts {a b c lo m : Nat} (hb : b < 2 ^ m) (hc : c < 2 ^ lo) (hi : Nat) (hp : hi + 1 = lo + m) :
    bitsOf (a * 2 ^ (lo + m) + b * 2 ^ lo + c) hi lo = b := by
  have hm : hi + 1 - lo = m := by omega
  have e : a * 2 ^ (lo + m) + b * 2 ^ lo + c = 2 ^ lo * (2 ^ m * a + b) + c := by
    rw [Nat.mul_add, ← Nat.mul_assoc, ← Nat.pow_add]; ac_rfl
  simp only [bitsOf, hm, e]
  rw [Nat.mul_add_div (Nat.two_pow_pos lo), Nat.div_eq_of_lt hc, Nat.add_zero, Nat.mul_add_mod, Nat.mod_eq_of_lt hb]

theorem bitsOf_setField_same (w : Word) {hi lo : Nat} (v : Nat) (h1 : lo ≤ hi) (h2 : hi < 32) :
    bitsOf (setField w hi lo v).toNat hi lo = v % 2 ^ (hi + 1 - lo) := by
  rw [setField_toNat w v h1 h2]
  have hp : hi + 1 = lo + (hi + 1 - lo) := by omega
  conv => lhs; rw [show w.toNat / 2 ^ (hi + 1) * 2 ^ (hi + 1) = w.toNat / 2 ^ (hi + 1) * 2 ^ (lo + (hi + 1 - lo)) by rw [← hp]]
  exact bitsOf_parts (Nat.mod_lt _ (Nat.two_pow_pos _)) (Nat.mod_lt _ (Nat.two_pow_pos _)) hi hp

theorem testBit_parts {a b c lo m i : Nat} (hb : b < 2 ^ m) (hc : c < 2 ^ lo) :
    (a * 2 ^ (lo + m) + b * 2 ^ lo + c).testBit i =
      if i < lo then c.testBit i else if i < lo + m then b.testBit (i - lo) else a.testBit (i - (lo + m)) := by
  have e : a * 2 ^ (lo + m) + b * 2 ^ lo + c = 2 ^ lo * (2 ^ m * a + b) + c := by
    rw [Nat.mul_add, ← Nat.mul_assoc, ← Nat.pow_add]; ac_rfl
  rw [e, Nat.testBit_two_pow_mul_add _ hc]
  split
  · rfl
  · rw [Nat.testBit_two_pow_mul_add _ hb]
    split <;> split <;> first | rfl | omega | (congr 1; omega)

/-- A field write changes the field's bits alone. -/
theorem testBit_setField (w : Word) {hi lo : Nat} (v i : Nat) (h1 : lo ≤ hi) (h2 : hi < 32) :
    (setField w hi lo v).toNat.testBit i =
      if lo ≤ i ∧ i ≤ hi then v.testBit (i - lo) else w.toNat.testBit i := by
  rw [setField_toNat w v h1 h2]
  have hp : hi + 1 = lo + (hi + 1 - lo) := by omega
  rw [show w.toNat / 2 ^ (hi + 1) * 2 ^ (hi + 1) = w.toNat / 2 ^ (hi + 1) * 2 ^ (lo + (hi + 1 - lo)) by rw [← hp],
    testBit_parts (Nat.mod_lt _ (Nat.two_pow_pos _)) (Nat.mod_lt _ (Nat.two_pow_pos _))]
  rw [Nat.testBit_mod_two_pow, Nat.testBit_mod_two_pow, Nat.testBit_div_two_pow]
  by_cases ha : i < lo
  · have : ¬ (lo ≤ i ∧ i ≤ hi) := by omega
    simp [ha, this]
  · by_cases hb : i < lo + (hi + 1 - lo)
    · have h3 : lo ≤ i ∧ i ≤ hi := by omega
      have h4 : i - lo < hi + 1 - lo := by omega
      simp [ha, hb, h3, h4]
    · have h3 : ¬ (lo ≤ i ∧ i ≤ hi) := by omega
      have h4 : i - (lo + (hi + 1 - lo)) + (hi + 1) = i := by omega
      simp only [ha, hb, h3, if_false]
      congr 1

theorem testBit_bitsOf (n hi lo i : Nat) : (bitsOf n hi lo).testBit i = (decide (i < hi + 1 - lo) && n.testBit (lo + i)) := by
  simp only [bitsOf, Nat.testBit_mod_two_pow, Nat.testBit_div_two_pow, Nat.add_comm]

theorem bitsOf_setField_apart (w : Word) {hi lo h l : Nat} (v : Nat) (h1 : lo ≤ hi) (h2 : hi < 32) (h3 : h < lo ∨ hi < l) :
    bitsOf (setField w hi lo v).toNat h l = bitsOf w.toNat h l := by
  apply Nat.eq_of_testBit_eq
  intro i
  rw [testBit_bitsOf, testBit_bitsOf, testBit_setField w v _ h1 h2]
  by_cases hi' : i < h + 1 - l
  · have : ¬ (lo ≤ l + i ∧ l + i ≤ hi) := by omega
    simp [this]
  · simp [hi']

/-- A field reads back what was put, cut to its width. -/
theorem get_put_same (s : State) (f : Fld) (v : Nat) (h : f.ok) : (s.put f v).get f = v % 2 ^ (f.hi + 1 - f.lo) := by
  simp only [State.get, State.put, rd_wr_same]; exact bitsOf_setField_same _ v h.1 h.2

/-- A value that fits is read back as it is. -/
theorem get_put_fits (s : State) (f : Fld) {v : Nat} (h : f.ok) (hv : v < 2 ^ (f.hi + 1 - f.lo)) : (s.put f v).get f = v := by
  rw [get_put_same s f v h, Nat.mod_eq_of_lt hv]

/-- A field write leaves every field apart from it. -/
theorem get_put_apart (s : State) (f g : Fld) (v : Nat) (hf : f.ok) (h : f.apart g) : (s.put f v).get g = s.get g := by
  simp only [State.get, State.put]
  by_cases ha : g.addr = f.addr
  · rw [ha, rd_wr_same]
    refine bitsOf_setField_apart _ v hf.1 hf.2 ?_
    rcases h with h | h | h
    · exact absurd ha.symm h
    · exact Or.inr h
    · exact Or.inl h
  · rw [rd_wr_other s _ ha]

theorem rd_put_other (s : State) (f : Fld) (v : Nat) {b : Nat} (h : b ≠ f.addr) : (s.put f v).rd b = s.rd b :=
  rd_wr_other s _ h

theorem bit_putB (s : State) (f : Fld) (b : Bool) (h : f.ok) : (s.putB f b).bit f = b := by
  have hw : 1 < 2 ^ (f.hi + 1 - f.lo) := Nat.one_lt_two_pow (by have := h.1; omega)
  simp only [State.bit, State.putB]
  rw [get_put_fits s f h (by cases b <;> simp only [Bool.toNat_true, Bool.toNat_false] <;> omega)]
  cases b <;> rfl

/-- An event bit that is raised is set. -/
theorem bit_raise (s : State) (f : Fld) (h : f.ok) : (s.raise f).bit f = true := bit_putB s f true h

theorem bit_putB_apart (s : State) (f g : Fld) (b : Bool) (hf : f.ok) (h : f.apart g) : (s.putB f b).bit g = s.bit g := by
  simp only [State.bit, State.putB, get_put_apart s f g _ hf h]

theorem bit_put_apart (s : State) (f g : Fld) (v : Nat) (hf : f.ok) (h : f.apart g) : (s.put f v).bit g = s.bit g := by
  simp only [State.bit, get_put_apart s f g _ hf h]

/-- A write keeps the register list canonical. -/
theorem wr_canonical (s : State) (a : Nat) (v : Word) (h : mwf resetVal s.regs = true) : mwf resetVal (s.wr a v).regs = true :=
  mwf_mset resetVal s.regs a v h

/-- Setting one bit of a number sets that bit and no other. -/
theorem testBit_natBit (n i j : Nat) (b : Bool) : (natBit n i b).testBit j = if j = i then b else n.testBit j := by
  have e : n = n / 2 ^ (i+1) * 2 ^ (i+1) + (n.testBit i).toNat * 2 ^ i + n % 2 ^ i := by
    have := field_split n i 1
    rwa [show 2 ^ 1 = 2 from rfl, ← Nat.toNat_testBit] at this
  have hb : ∀ c : Bool, c.toNat < 2 ^ 1 := by decide
  have hr : n % 2 ^ i < 2 ^ i := Nat.mod_lt _ (Nat.two_pow_pos _)
  have key : ∀ c : Bool, (n / 2 ^ (i+1) * 2 ^ (i+1) + c.toNat * 2 ^ i + n % 2 ^ i).testBit j = if j = i then c else n.testBit j := by
    intro c
    have k := fun c => testBit_parts (a := n / 2 ^ (i+1)) (i := j) (hb c) hr
    have kn := k (n.testBit i)
    rw [← e] at kn
    rw [k c, kn]
    by_cases h : j = i
    · subst h; cases c <;> simp
    · rw [if_neg h]
      split
      · rfl
      · split
        · omega
        · rfl
  unfold natBit
  by_cases h : n.testBit i = b
  · rw [if_pos h]
    split
    · next g => rw [g, h]
    · rfl
  · rw [if_neg h, ← key b]
    congr 1
    cases b
    · have t : n.testBit i = true := by simpa using h
      rw [t] at e
      rw [if_neg (by decide)]
      simp only [Bool.toNat_true, Bool.toNat_false, Nat.one_mul, Nat.zero_mul] at e ⊢
      omega
    · have t : n.testBit i = false := by simpa using h
      rw [t] at e
      rw [if_pos rfl]
      simp only [Bool.toNat_true, Bool.toNat_false, Nat.one_mul, Nat.zero_mul] at e ⊢
      omega
/-- A pass over bits 0 to n - 1 that sets those chosen by `p`. -/
theorem testBit_foldl_natBit (p v : Nat → Bool) (n m j : Nat) :
    ((List.range n).foldl (fun m g => if p g then natBit m g (v g) else m) m).testBit j =
      if j < n ∧ p j = true then v j else m.testBit j := by
  induction n with
  | zero => simp
  | succ n ih =>
    rw [List.range_succ, List.foldl_append, List.foldl_cons, List.foldl_nil]
    by_cases h : p n = true
    · rw [if_pos h, testBit_natBit, ih]
      by_cases g : j = n
      · subst g; rw [if_pos rfl, if_pos ⟨Nat.lt_succ_self _, h⟩]
      · rw [if_neg g]
        have e : (j < n ∧ p j = true) ↔ (j < n + 1 ∧ p j = true) := by
          constructor <;> rintro ⟨a, b⟩ <;> exact ⟨by omega, b⟩
        simp only [e]
    · rw [if_neg h, ih]
      have e : (j < n ∧ p j = true) ↔ (j < n + 1 ∧ p j = true) := by
        constructor
        · rintro ⟨a, b⟩; exact ⟨by omega, b⟩
        · rintro ⟨a, b⟩
          refine ⟨?_, b⟩
          rcases Nat.lt_or_ge j n with c | c
          · exact c
          · have : j = n := by omega
            subst this; exact absurd b h
      simp only [e]

end Sys2Proof.Machine
end

