-- ==== Sys2Proof/Laws/Keeps.lean ====
section
/-! SUPPORT. Laws/Keeps.lean: what every operation keeps (Safety.Keeps), for the operations of Ops.lean. Each lemma of the form
keeps_f carries Keeps over one operation, so that a proof about a meaning follows the operations it is made of. -/
namespace Sys2Proof.Machine

theorem Keeps.refl (s : State) : Keeps s s := ⟨rfl, Nat.le_refl _, Nat.le_refl _, id⟩

theorem Keeps.trans {a b c : State} (h : Keeps a b) (g : Keeps b c) : Keeps a c :=
  ⟨g.pending.trans h.pending, Nat.le_trans h.now g.now, Nat.le_trans h.freeCount g.freeCount, g.inv ∘ h.inv⟩

/-- Updates of any other field. -/
theorem keeps_mk {s0 x : State}
    {eccUe_ : _} {eccCe_ : _} {tb_ : _} {lastTick_ : _} {ctime_ : _} {ltime_ : _} {domOn_ : _} {domRet_ : _}
    {rsvWrites_ : _} {raised_ : _} {busFault_ : _} {rdata_ : _} {claims_ : _} {claimReqs_ : _} {dma_ : _}
    {fltLost_ : _} {tmrDue_ : _} {tasks_ : _} {pairs_ : _} {images_ : _} {loops_ : _} {crews_ : _} {legs_ : _}
    {links_ : _} {tilePre_ : _} {tiles_ : _} {sincs_ : _} {emg0_ : _} {emg1_ : _} {emgAt_ : _} {profs_ : _} {poss_
    : _} {islA_ : _} {islB_ : _} {sis_ : _} {rigSel_ : _} {spdDiff_ : _} {tpoAt_ : _} {stoDiff_ : _} {ptab_ : _}
    {reports_ : _} {repLost_ : _} {epochOpen_ : _} {orders_ : _} {jnl_ : _} {pfLatch_ : _} {accWin_ : _} {mLast_ :
    _} {mSilent_ : _} {ringRxQ_ : _} {mpOut_ : _} {lastMac_ : _} {txXid_ : _} {powered_ : _} {rstBy_ : _} {rstLow_
    : _} {rstAt_ : _} {uvRails_ : _} {inRest_ : _} {restAt_ : _} {resumeBoot_ : _} {recovery_ : _} {kickAt_ : _}
    {kicked_ : _} {idleAt_ : _} {bootMode_ : _} {rigPins_ : _} {demandAt_ : _} {demandBy_ : _} {actLock_ : _}
    {maintRun_ : _} {chunks_ : _} {chunkAt_ : _} {wearAt_ : _} {scrubPos_ : _} {scrubAt_ : _} {hkAt_ : _} {hkCe_ :
    _} {thrAt_ : _} {swap_ : _} {slotMap_ : _} {fwDigest_ : _} {jtagOpen_ : _} {tap_ : _} {auxs_ : _} {auxAt_ : _}
    {auxLast_ : _} {sig_ : _} {subs_ : _} {subT_ : _} {sweepAt_ : _} {pockAt_ : _} {fports_ : _} {fnodes_ : _}
    {nodeTab_ : _} {sched_ : _} {schedOff_ : _} {ring_ : _} {seams_ : _} {clock_ : _} {rtcSec_ : _} {rtcAt_ : _}
    {wear_ : _} {wearSaved_ : _} {logLost_ : _}
    (h : Keeps s0 x) :
    Keeps s0 (State.mk
      x.pending x.regs x.mem eccUe_ eccCe_ x.now tb_ lastTick_ ctime_ ltime_ domOn_ domRet_ x.freeCount rsvWrites_
      raised_ busFault_ rdata_ claims_ claimReqs_ dma_ x.faults fltLost_ tmrDue_ tasks_ pairs_ images_ loops_ crews_
      legs_ links_ tilePre_ tiles_ sincs_ emg0_ emg1_ emgAt_ profs_ poss_ islA_ islB_ sis_ rigSel_ spdDiff_ tpoAt_
      stoDiff_ ptab_ reports_ repLost_ epochOpen_ orders_ jnl_ pfLatch_ x.accHist accWin_ mLast_ mSilent_ x.mpRx
      ringRxQ_ x.reasm mpOut_ lastMac_ txXid_ powered_ rstBy_ rstLow_ rstAt_ uvRails_ inRest_ restAt_ resumeBoot_
      recovery_ kickAt_ kicked_ idleAt_ bootMode_ rigPins_ demandAt_ demandBy_ actLock_ maintRun_ x.maintQ chunks_
      chunkAt_ wearAt_ scrubPos_ scrubAt_ hkAt_ hkCe_ thrAt_ swap_ slotMap_ fwDigest_ jtagOpen_ tap_ auxs_ auxAt_
      auxLast_ sig_ subs_ subT_ sweepAt_ pockAt_ fports_ fnodes_ nodeTab_ sched_ schedOff_ ring_ seams_ clock_
      rtcSec_ rtcAt_ wear_ wearSaved_ x.logBuf logLost_) :=
  ⟨h.pending, h.now, h.freeCount, fun i => let j := h.inv i; ⟨j.mem, j.regs, j.faults, j.logBuf, j.maintQ, j.mpRx, j.reasm, j.accHist⟩⟩

theorem keeps_ite {s0 a b : State} {c : Prop} [Decidable c] (h : Keeps s0 a) (g : Keeps s0 b) : Keeps s0 (if c then a else b) := by
  split <;> assumption

theorem keeps_dite {s0 : State} {c : Prop} [Decidable c] {a : c → State} {b : ¬ c → State} (h : ∀ x, Keeps s0 (a x))
    (g : ∀ x, Keeps s0 (b x)) : Keeps s0 (dite c a b) := by
  split
  · exact h _
  · exact g _

theorem keeps_foldl {s0 : State} {α : Type} {l : List α} {f : State → α → State} {s : State}
    (hf : ∀ x a, Keeps s0 x → Keeps s0 (f x a)) (h : Keeps s0 s) : Keeps s0 (l.foldl f s) := by
  induction l generalizing s with
  | nil => exact h
  | cons a r ih => exact ih (hf _ _ h)

theorem keeps_foldlP {s0 : State} {α β : Type} {l : List α} {f : β × State → α → β × State} {r : β × State}
    (hf : ∀ x a, Keeps s0 x.2 → Keeps s0 (f x a).2) (h : Keeps s0 r.2) : Keeps s0 (l.foldl f r).2 := by
  induction l generalizing r with
  | nil => exact h
  | cons a t ih => exact ih (hf _ _ h)

theorem keeps_foldlR {s0 : State} {α β γ : Type} {l : List α} {f : β × γ × State → α → β × γ × State} {r : β × γ × State}
    (hf : ∀ x a, Keeps s0 x.2.2 → Keeps s0 (f x a).2.2) (h : Keeps s0 r.2.2) : Keeps s0 (l.foldl f r).2.2 := by
  induction l generalizing r with
  | nil => exact h
  | cons a t ih => exact ih (hf _ _ h)

theorem keeps_loopN {s0 s : State} {n : Nat} {f : Nat → State → State} (hf : ∀ i x, Keeps s0 x → Keeps s0 (f i x)) (h : Keeps s0 s) :
    Keeps s0 (loopN n f s) := keeps_foldl (fun x i => hf i x) h

theorem keeps_loopL {s0 s : State} {α : Type} {l : List α} {f : α → State → State} (hf : ∀ a x, Keeps s0 x → Keeps s0 (f a x))
    (h : Keeps s0 s) : Keeps s0 (loopL l f s) := keeps_foldl (fun x a => hf a x) h

/-! ### Registers, time, free values, memory -/
theorem keeps_wr {s0 s : State} {a : Nat} {v : Word} (h : Keeps s0 s) : Keeps s0 (s.wr a v) :=
  ⟨h.pending, h.now, h.freeCount, fun i => let j := h.inv i
    ⟨j.mem, mwf_mset resetVal s.regs a v j.regs, j.faults, j.logBuf, j.maintQ, j.mpRx, j.reasm, j.accHist⟩⟩

theorem keeps_put {s0 s : State} {f : Fld} {v : Nat} (h : Keeps s0 s) : Keeps s0 (s.put f v) := keeps_wr h
theorem keeps_putB {s0 s : State} {f : Fld} {b : Bool} (h : Keeps s0 s) : Keeps s0 (s.putB f b) := keeps_wr h
theorem keeps_putI {s0 s : State} {f : Fld} {z : Int} (h : Keeps s0 s) : Keeps s0 (s.putI f z) := keeps_wr h
theorem keeps_setBitAt {s0 s : State} {f : Fld} {i : Nat} {b : Bool} (h : Keeps s0 s) : Keeps s0 (s.setBitAt f i b) := keeps_wr h
theorem keeps_incSat {s0 s : State} {f : Fld} (h : Keeps s0 s) : Keeps s0 (s.incSat f) := keeps_wr h
theorem keeps_incWrap {s0 s : State} {f : Fld} (h : Keeps s0 s) : Keeps s0 (s.incWrap f) := keeps_wr h
theorem keeps_addSat {s0 s : State} {f : Fld} {n : Nat} (h : Keeps s0 s) : Keeps s0 (s.addSat f n) := keeps_wr h

theorem keeps_advance {s0 s : State} {k : Nat} (h : Keeps s0 s) : Keeps s0 (s.advance k) :=
  ⟨h.pending, Nat.le_trans h.now (Nat.le_add_right _ _), h.freeCount, fun i => let j := h.inv i
    ⟨j.mem, j.regs, j.faults, j.logBuf, j.maintQ, j.mpRx, j.reasm, j.accHist⟩⟩

theorem keeps_advanceTb {s0 s : State} {t : Nat} (h : Keeps s0 s) : Keeps s0 (s.advanceTb t) := keeps_ite h (keeps_advance h)
theorem keeps_until {s0 s : State} {t : Nat} (h : Keeps s0 s) : Keeps s0 (s.until t) := keeps_ite h (keeps_advance h)

theorem keeps_free {s0 s : State} (h : Keeps s0 s) : Keeps s0 s.free.2 :=
  ⟨h.pending, h.now, Nat.le_trans h.freeCount (Nat.le_succ _), fun i => let j := h.inv i
    ⟨j.mem, j.regs, j.faults, j.logBuf, j.maintQ, j.mpRx, j.reasm, j.accHist⟩⟩

theorem keeps_freeIn {s0 s : State} {lo hi : Nat} (h : Keeps s0 s) : Keeps s0 (s.freeIn lo hi).2 :=
  ⟨h.pending, h.now, Nat.le_trans h.freeCount (Nat.le_succ _), fun i => let j := h.inv i
    ⟨j.mem, j.regs, j.faults, j.logBuf, j.maintQ, j.mpRx, j.reasm, j.accHist⟩⟩

theorem keeps_setMem {s0 s : State} {m : List Host.Cell} (hm : Memory.wf s.mem → Memory.wf m) (h : Keeps s0 s) :
    Keeps s0 { s with mem := m } :=
  ⟨h.pending, h.now, h.freeCount, fun i => let j := h.inv i
    ⟨hm j.mem, j.regs, j.faults, j.logBuf, j.maintQ, j.mpRx, j.reasm, j.accHist⟩⟩

theorem keeps_setByte {s0 s : State} {a : Nat} {b : Byte} (h : Keeps s0 s) : Keeps s0 (s.setByte a b) :=
  keeps_setMem (setByte_wf s a b) h
theorem keeps_setBytes {s0 s : State} {a : Nat} {l : List Byte} (h : Keeps s0 s) : Keeps s0 (s.setBytes a l) :=
  keeps_setMem (setBytes_wf s a l) h
theorem keeps_wrN {s0 s : State} {a n v : Nat} (h : Keeps s0 s) : Keeps s0 (s.wrN a n v) := keeps_setBytes h

/-! ### The fault table and the event log -/
theorem keeps_setFaults {s0 s : State} {l : List FaultRec} (hl : s.faults.length ≤ 64 → l.length ≤ 64) (h : Keeps s0 s) :
    Keeps s0 { s with faults := l } :=
  ⟨h.pending, h.now, h.freeCount, fun i => let j := h.inv i
    ⟨j.mem, j.regs, hl j.faults, j.logBuf, j.maintQ, j.mpRx, j.reasm, j.accHist⟩⟩

theorem keeps_setFaultsLost {s0 s : State} {l : List FaultRec} {f : Option LostFaults} (hl : s.faults.length ≤ 64 → l.length ≤ 64)
    (h : Keeps s0 s) : Keeps s0 { s with faults := l, fltLost := f } :=
  ⟨h.pending, h.now, h.freeCount, fun i => let j := h.inv i
    ⟨j.mem, j.regs, hl j.faults, j.logBuf, j.maintQ, j.mpRx, j.reasm, j.accHist⟩⟩

theorem keeps_setLogBuf {s0 s : State} {l : List LogRec} (hl : s.logBuf.length ≤ 512 → l.length ≤ 512) (h : Keeps s0 s) :
    Keeps s0 { s with logBuf := l } :=
  ⟨h.pending, h.now, h.freeCount, fun i => let j := h.inv i
    ⟨j.mem, j.regs, j.faults, hl j.logBuf, j.maintQ, j.mpRx, j.reasm, j.accHist⟩⟩

theorem keeps_setMaintQ {s0 s : State} {l : List MaintReq} (hl : s.maintQ.length ≤ 4 → l.length ≤ 4) (h : Keeps s0 s) :
    Keeps s0 { s with maintQ := l } :=
  ⟨h.pending, h.now, h.freeCount, fun i => let j := h.inv i
    ⟨j.mem, j.regs, j.faults, j.logBuf, hl j.maintQ, j.mpRx, j.reasm, j.accHist⟩⟩

theorem keeps_logRec {s0 s : State} {kind code inst data : Nat} (h : Keeps s0 s) : Keeps s0 (s.logRec kind code inst data) := by
  unfold State.logRec
  split
  · exact keeps_mk h
  · exact keeps_setLogBuf (fun _ => by rw [List.length_append, List.length_singleton]; omega) h

theorem keeps_enterFault {s0 s : State} {code inst : Nat} (h : Keeps s0 s) : Keeps s0 (s.enterFault code inst).2 := by
  unfold State.enterFault
  dsimp only
  split
  · exact keeps_setFaults (fun i => by rw [List.length_map]; exact i) h
  · split
    · exact keeps_logRec (keeps_setFaults (fun _ => by rw [List.length_append, List.length_singleton]; omega) h)
    · split
      · exact keeps_setFaults (fun i => by rw [List.length_map]; exact i) (keeps_incSat h)
      · split
        · exact keeps_mk (keeps_incSat h)
        · exact keeps_mk (keeps_incSat h)

/-! ### Pairs -/
theorem keeps_iteP {s0 : State} {α : Type} {a b : α × State} {c : Prop} [Decidable c] (h : Keeps s0 a.2) (g : Keeps s0 b.2) :
    Keeps s0 (if c then a else b).2 := by
  split <;> assumption
theorem keeps_iteQ {s0 : State} {α : Type} {a b : State × α} {c : Prop} [Decidable c] (h : Keeps s0 a.1) (g : Keeps s0 b.1) :
    Keeps s0 (if c then a else b).1 := by
  split <;> assumption
theorem keeps_snd {s0 s : State} {α : Type} {a : α} (h : Keeps s0 s) : Keeps s0 (a, s).2 := h
theorem keeps_fst {s0 s : State} {α : Type} {a : α} (h : Keeps s0 s) : Keeps s0 (s, a).1 := h
theorem keeps_of_eqP {s0 s : State} {α : Type} {a : α} {r : α × State} (e : r = (a, s)) (h : Keeps s0 r.2) : Keeps s0 s := by
  rw [e] at h; exact h
theorem keeps_of_eqQ {s0 s : State} {α : Type} {a : α} {r : State × α} (e : r = (s, a)) (h : Keeps s0 r.1) : Keeps s0 s := by
  rw [e] at h; exact h
theorem keeps_of_eqR {s0 s : State} {α β : Type} {a : α} {b : β} {r : α × β × State} (e : r = (a, b, s)) (h : Keeps s0 r.2.2) :
    Keeps s0 s := by
  rw [e] at h; exact h

/-! ### Bounded lists of the order channel -/
theorem keeps_setMpRx {s0 s : State} {l : List (List Byte)} (hl : s.mpRx.length ≤ 2 → l.length ≤ 2) (h : Keeps s0 s) :
    Keeps s0 { s with mpRx := l } :=
  ⟨h.pending, h.now, h.freeCount, fun i => let j := h.inv i
    ⟨j.mem, j.regs, j.faults, j.logBuf, j.maintQ, hl j.mpRx, j.reasm, j.accHist⟩⟩
theorem keeps_setReasm {s0 s : State} {l : List ReasmRec} (hl : s.reasm.length ≤ 4 → l.length ≤ 4) (h : Keeps s0 s) :
    Keeps s0 { s with reasm := l } :=
  ⟨h.pending, h.now, h.freeCount, fun i => let j := h.inv i
    ⟨j.mem, j.regs, j.faults, j.logBuf, j.maintQ, j.mpRx, hl j.reasm, j.accHist⟩⟩
theorem length_shift {α : Type} (l : List α) (x : α) (h : l.length ≤ 4) : ((if l.length ≥ 4 then l.drop 1 else l) ++ [x]).length ≤ 4 := by
  rw [List.length_append, List.length_singleton]
  split
  · rw [List.length_drop]; omega
  · omega
theorem keeps_setAccHist {s0 s : State} {l : List AccRec} (hl : l.length ≤ 4096) (h : Keeps s0 s) :
    Keeps s0 { s with accHist := l } :=
  ⟨h.pending, h.now, h.freeCount, fun i => let j := h.inv i
    ⟨j.mem, j.regs, j.faults, j.logBuf, j.maintQ, j.mpRx, j.reasm, hl⟩⟩
theorem keeps_setRegs {s0 s : State} {m : List (Nat × Word)} (hm : mwf resetVal s.regs = true → mwf resetVal m = true)
    (h : Keeps s0 s) : Keeps s0 { s with regs := m } :=
  ⟨h.pending, h.now, h.freeCount, fun i => let j := h.inv i
    ⟨j.mem, hm j.regs, j.faults, j.logBuf, j.maintQ, j.mpRx, j.reasm, j.accHist⟩⟩

/-! ### What a command answers -/
/-- A command completes, and keeps what Keeps says. -/
def Goes (s0 : State) (o : Out) : Prop := ∃ t, o = .next t ∧ Keeps s0 t

theorem goes_next {s0 t : State} (h : Keeps s0 t) : Goes s0 (.next t) := ⟨t, rfl, h⟩

theorem goes_ite {s0 : State} {a b : Out} {c : Prop} [Decidable c] (h : Goes s0 a) (g : Goes s0 b) : Goes s0 (if c then a else b) := by
  split <;> assumption

/-- What an operation that may have no answer keeps where it has one. -/
def OGoes (s0 : State) (o : Option State) : Prop := ∀ t, o = some t → Keeps s0 t

theorem ogoes_none {s0 : State} : OGoes s0 none := fun _ e => by cases e
theorem ogoes_some {s0 s : State} (h : Keeps s0 s) : OGoes s0 (some s) := fun _ e => by cases e; exact h
theorem ogoes_ite {s0 : State} {a b : Option State} {c : Prop} [Decidable c] (h : OGoes s0 a) (g : OGoes s0 b) :
    OGoes s0 (if c then a else b) := by
  split <;> assumption
theorem keeps_of_eqM {s0 s : State} {r : Option State} (e : r = some s) (h : OGoes s0 r) : Keeps s0 s := h s e
theorem keeps_getD {s0 s : State} {o : Option State} (h : OGoes s0 o) (g : Keeps s0 s) : Keeps s0 (o.getD s) := by
  cases o with
  | none => exact g
  | some t => exact h t rfl

/-- What an Onnus instruction's effect keeps, however it ends. -/
inductive IGoes (s0 : State) : IRes → Prop where
  | ok (s : State) (c : Ctx) (n : Nat) (pc : PcAct) : Keeps s0 s → IGoes s0 (.ok s c n pc)
  | fin (s : State) (c : Ctx) : Keeps s0 s → IGoes s0 (.fin s c)
  | trap (s : State) (a b : Nat) (w : Word) : Keeps s0 s → IGoes s0 (.trap s a b w)
  | wait (s : State) : Keeps s0 s → IGoes s0 (.wait s)
  | ue : IGoes s0 .ue

theorem igoes_ok {s0 s : State} {c : Ctx} {n : Nat} {pc : PcAct} (h : Keeps s0 s) : IGoes s0 (.ok s c n pc) := .ok _ _ _ _ h
theorem igoes_fin {s0 s : State} {c : Ctx} (h : Keeps s0 s) : IGoes s0 (.fin s c) := .fin _ _ h
theorem igoes_trap {s0 s : State} {a b : Nat} {w : Word} (h : Keeps s0 s) : IGoes s0 (.trap s a b w) := .trap _ _ _ _ h
theorem igoes_wait {s0 s : State} (h : Keeps s0 s) : IGoes s0 (.wait s) := .wait _ h
theorem igoes_ue {s0 : State} : IGoes s0 .ue := .ue
theorem igoes_ite {s0 : State} {a b : IRes} {c : Prop} [Decidable c] (h : IGoes s0 a) (g : IGoes s0 b) :
    IGoes s0 (if c then a else b) := by
  split <;> assumption

theorem goes_onReg {s0 s : State} {a : Nat} {f : State → Out} (hf : ∀ x, Keeps s0 x → Goes s0 (f x)) (h : Keeps s0 s) :
    Goes s0 (s.onReg a f) := by
  unfold State.onReg
  split
  · exact hf s h
  · exact goes_next (keeps_mk h)

theorem goes_onRegRead {s0 s : State} {a : Nat} {f : State → Out} (hf : ∀ x, Keeps s0 x → Goes s0 (f x)) (h : Keeps s0 s) :
    Goes s0 (s.onRegRead a f) := by
  unfold State.onRegRead
  split
  · exact hf s h
  · exact goes_next (keeps_mk (keeps_mk h))

end Sys2Proof.Machine
end

