-- ==== Sys2Proof/Laws/KeepsOps.lean ====
section
/-! SUPPORT. Laws/KeepsOps.lean: what the operations of Machine/Ops.lean keep. -/
namespace Sys2Proof.Machine

theorem keeps_raise {s0 : State} {s : State} {f : Fld} (hK : Keeps s0 s) :
    Keeps s0 (State.raise s f) := by
  rw [show @State.raise = _ from by delta State.raise; rfl]
  extract_lets +onlyGivenNames -underBinder -merge x1
  have h1 : Keeps s0 x1 := by
    subst x1
    refine keeps_putB ?_
    assumption
  try clear_value x1
  refine keeps_mk ?_
  assumption

theorem keeps_raiseBit {s0 : State} {s : State} {f : Fld} {i : Nat} (hK : Keeps s0 s) :
    Keeps s0 (State.raiseBit s f i) := by
  rw [show @State.raiseBit = _ from by delta State.raiseBit; rfl]
  extract_lets +onlyGivenNames -underBinder -merge x1
  have h1 : Keeps s0 x1 := by
    subst x1
    refine keeps_setBitAt ?_
    assumption
  try clear_value x1
  refine keeps_mk ?_
  assumption

theorem keeps_setTask {s0 : State} {s : State} {k : Nat} {v : TaskRec} (hK : Keeps s0 s) :
    Keeps s0 (State.setTask s k v) := by
  rw [show @State.setTask = _ from by delta State.setTask; rfl]
  refine keeps_mk ?_
  assumption

theorem keeps_setPair {s0 : State} {s : State} {k : Nat} {v : PairRec} (hK : Keeps s0 s) :
    Keeps s0 (State.setPair s k v) := by
  rw [show @State.setPair = _ from by delta State.setPair; rfl]
  refine keeps_mk ?_
  assumption

theorem keeps_setImage {s0 : State} {s : State} {k : Nat} {v : ImgInfo} (hK : Keeps s0 s) :
    Keeps s0 (State.setImage s k v) := by
  rw [show @State.setImage = _ from by delta State.setImage; rfl]
  refine keeps_mk ?_
  assumption

theorem keeps_setLoop {s0 : State} {s : State} {k : Nat} {v : LoopRec} (hK : Keeps s0 s) :
    Keeps s0 (State.setLoop s k v) := by
  rw [show @State.setLoop = _ from by delta State.setLoop; rfl]
  refine keeps_mk ?_
  assumption

theorem keeps_setCrew {s0 : State} {s : State} {k : Nat} {v : CrewRec} (hK : Keeps s0 s) :
    Keeps s0 (State.setCrew s k v) := by
  rw [show @State.setCrew = _ from by delta State.setCrew; rfl]
  refine keeps_mk ?_
  assumption

theorem keeps_setLeg {s0 : State} {s : State} {k : Nat} {v : LegRec} (hK : Keeps s0 s) :
    Keeps s0 (State.setLeg s k v) := by
  rw [show @State.setLeg = _ from by delta State.setLeg; rfl]
  refine keeps_mk ?_
  assumption

theorem keeps_setLink {s0 : State} {s : State} {k : Nat} {v : LinkRec} (hK : Keeps s0 s) :
    Keeps s0 (State.setLink s k v) := by
  rw [show @State.setLink = _ from by delta State.setLink; rfl]
  refine keeps_mk ?_
  assumption

theorem keeps_setTile {s0 : State} {s : State} {k : Nat} {v : TileRec} (hK : Keeps s0 s) :
    Keeps s0 (State.setTile s k v) := by
  rw [show @State.setTile = _ from by delta State.setTile; rfl]
  refine keeps_mk ?_
  assumption

theorem keeps_setSinc {s0 : State} {s : State} {k : Nat} {v : SincRec} (hK : Keeps s0 s) :
    Keeps s0 (State.setSinc s k v) := by
  rw [show @State.setSinc = _ from by delta State.setSinc; rfl]
  refine keeps_mk ?_
  assumption

theorem keeps_setProf {s0 : State} {s : State} {k : Nat} {v : ProfRec} (hK : Keeps s0 s) :
    Keeps s0 (State.setProf s k v) := by
  rw [show @State.setProf = _ from by delta State.setProf; rfl]
  refine keeps_mk ?_
  assumption

theorem keeps_setPos {s0 : State} {s : State} {k : Nat} {v : PosRec} (hK : Keeps s0 s) :
    Keeps s0 (State.setPos s k v) := by
  rw [show @State.setPos = _ from by delta State.setPos; rfl]
  refine keeps_mk ?_
  assumption

theorem keeps_setSi {s0 : State} {s : State} {k : Nat} {v : SiRec} (hK : Keeps s0 s) :
    Keeps s0 (State.setSi s k v) := by
  rw [show @State.setSi = _ from by delta State.setSi; rfl]
  refine keeps_mk ?_
  assumption

theorem keeps_setIsl {s0 : State} {s : State} {b : Island} {v : IslRec} (hK : Keeps s0 s) :
    Keeps s0 (State.setIsl s b v) := by
  rw [show @State.setIsl = _ from by delta State.setIsl; rfl]
  refine keeps_ite ?_ ?_
  · refine keeps_mk ?_
    assumption
  · refine keeps_mk ?_
    assumption

theorem keeps_setSeam {s0 : State} {s : State} {k : Nat} {v : SeamRec} (hK : Keeps s0 s) :
    Keeps s0 (State.setSeam s k v) := by
  rw [show @State.setSeam = _ from by delta State.setSeam; rfl]
  refine keeps_mk ?_
  assumption

theorem keeps_setSig {s0 : State} {s : State} {k : Nat} {v : SigEnt} (hK : Keeps s0 s) :
    Keeps s0 (State.setSig s k v) := by
  rw [show @State.setSig = _ from by delta State.setSig; rfl]
  refine keeps_mk ?_
  assumption

theorem keeps_setFport {s0 : State} {s : State} {k : Nat} {v : FieldPort} (hK : Keeps s0 s) :
    Keeps s0 (State.setFport s k v) := by
  rw [show @State.setFport = _ from by delta State.setFport; rfl]
  refine keeps_mk ?_
  assumption

theorem keeps_setFnode {s0 : State} {s : State} {k : Nat} {v : FNode} (hK : Keeps s0 s) :
    Keeps s0 (State.setFnode s k v) := by
  rw [show @State.setFnode = _ from by delta State.setFnode; rfl]
  refine keeps_mk ?_
  assumption

theorem keeps_setPtab {s0 : State} {s : State} {i : Nat} {v : Word} (hK : Keeps s0 s) :
    Keeps s0 (State.setPtab s i v) := by
  rw [show @State.setPtab = _ from by delta State.setPtab; rfl]
  refine keeps_mk ?_
  assumption

theorem keeps_addReport {s0 : State} {s : State} {r : ReportRec} (hK : Keeps s0 s) :
    Keeps s0 (State.addReport s r) := by
  rw [show @State.addReport = _ from by delta State.addReport; rfl]
  extract_lets +onlyGivenNames -underBinder -merge x1
  have h1 : Keeps s0 x1 := by
    subst x1
    refine keeps_mk ?_
    assumption
  try clear_value x1
  refine keeps_put ?_
  assumption

theorem keeps_newRseq {s0 : State} {s : State} (hK : Keeps s0 s) :
    Keeps s0 (State.newRseq s).2 := by
  rw [show @State.newRseq = _ from by delta State.newRseq; rfl]
  extract_lets +onlyGivenNames -underBinder -merge x1
  try clear_value x1
  refine keeps_snd ?_
  refine keeps_put ?_
  assumption

theorem keeps_formReport {s0 : State} {s : State} {typ : RepType} {oseq lane : Nat} {body : List Byte} (hK : Keeps s0 s) :
    Keeps s0 (State.formReport s typ oseq lane body) := by
  rw [show @State.formReport = _ from by delta State.formReport; rfl]
  split
  · rename_i heq
    have h1 := keeps_of_eqP (s0 := s0) heq (by
      refine keeps_newRseq ?_
      assumption)
    refine keeps_addReport ?_
    assumption

theorem keeps_dropEvent {s0 : State} {s : State} (hK : Keeps s0 s) :
    Keeps s0 (State.dropEvent s) := by
  rw [show @State.dropEvent = _ from by delta State.dropEvent; rfl]
  split
  · rename_i heq
    have h1 := keeps_of_eqP (s0 := s0) heq (by
      refine keeps_enterFault ?_
      refine keeps_mk ?_
      assumption)
    refine keeps_ite ?_ ?_
    · refine keeps_enterFault ?_
      refine keeps_mk ?_
      assumption
    · assumption

theorem keeps_flushLost {s0 : State} {s : State} (hK : Keeps s0 s) :
    Keeps s0 (State.flushLost s) := by
  rw [show @State.flushLost = _ from by delta State.flushLost; rfl]
  refine keeps_ite ?_ ?_
  · refine keeps_formReport ?_
    refine keeps_mk ?_
    assumption
  · assumption

theorem keeps_event {s0 : State} {s : State} {kind : Nat} {data : List Byte} (hK : Keeps s0 s) :
    Keeps s0 (State.event s kind data) := by
  rw [show @State.event = _ from by delta State.event; rfl]
  refine keeps_ite ?_ ?_
  · assumption
  · extract_lets +onlyGivenNames -underBinder -merge x1
    have h1 : Keeps s0 x1 := by
      subst x1
      refine keeps_flushLost ?_
      assumption
    try clear_value x1
    refine keeps_ite ?_ ?_
    · refine keeps_dropEvent ?_
      assumption
    · refine keeps_formReport ?_
      assumption

theorem keeps_fault {s0 : State} {s : State} {code inst : Nat} (hK : Keeps s0 s) :
    Keeps s0 (State.fault s code inst) := by
  rw [show @State.fault = _ from by delta State.fault; rfl]
  split
  · rename_i heq
    have h1 := keeps_of_eqP (s0 := s0) heq (by
      refine keeps_enterFault ?_
      assumption)
    refine keeps_ite ?_ ?_
    · refine keeps_event ?_
      assumption
    · assumption

theorem keeps_clearFaults {s0 s : State} {p : FaultRec → Bool} (h : Keeps s0 s) : Keeps s0 (s.clearFaults p) := by
  unfold State.clearFaults
  have g : Keeps s0 (loopL (s.faults.filter p) (fun e s => s.logRec 2 e.code e.inst 0)
      { s with faults := s.faults.filter (fun e => !p e) }) :=
    keeps_loopL (fun _ _ h => keeps_logRec h) (keeps_setFaults (fun i => Nat.le_trans (List.length_filter_le _ _) i) h)
  dsimp only
  split
  · split
    · exact keeps_event (keeps_logRec (keeps_setFaultsLost (fun _ => by rw [List.length_append, List.length_singleton]; omega) g))
    · exact g
  · exact g

theorem keeps_retryT {s0 : State} {s : State} {cls : Nat} (hK : Keeps s0 s) :
    Keeps s0 (State.retryT s cls) := by
  rw [show @State.retryT = _ from by delta State.retryT; rfl]
  refine keeps_incSat ?_
  assumption

theorem keeps_retryL {s0 : State} {s : State} {cls : Nat} (hK : Keeps s0 s) :
    Keeps s0 (State.retryL s cls) := by
  rw [show @State.retryL = _ from by delta State.retryL; rfl]
  refine keeps_incSat ?_
  assumption

theorem keeps_coxBusFault {s0 : State} {s : State} {code addr : Nat} (hK : Keeps s0 s) :
    Keeps s0 (State.coxBusFault s code addr) := by
  rw [show @State.coxBusFault = _ from by delta State.coxBusFault; rfl]
  refine keeps_mk ?_
  assumption


theorem keeps_countRsv {s0 : State} {s : State} {w : Nat} (hK : Keeps s0 s) :
    Keeps s0 (State.countRsv s w) := by
  rw [show @State.countRsv = _ from by delta State.countRsv; rfl]
  refine keeps_mk ?_
  assumption

theorem keeps_takeWord {s0 : State} {s : State} {a : Nat} {v : Word} (hK : Keeps s0 s) :
    Keeps s0 (State.takeWord s a v).2 := by
  rw [show @State.takeWord = _ from by delta State.takeWord; rfl]
  split
  · refine keeps_snd ?_
    assumption
  · extract_lets +onlyGivenNames -underBinder -merge x1
    try clear_value x1
    extract_lets +onlyGivenNames -underBinder -merge x2
    try clear_value x2
    refine keeps_snd ?_
    refine keeps_ite ?_ ?_
    · assumption
    · refine keeps_countRsv ?_
      assumption

theorem keeps_onRegW {s0 s : State} {a : Nat} {v : Word} {f : Word → State → Out} (hf : ∀ w x, Keeps s0 x → Goes s0 (f w x))
    (h : Keeps s0 s) : Goes s0 (s.onRegW a v f) := goes_onReg (fun _ hx => hf _ _ (keeps_takeWord hx)) h


theorem keeps_correctCe {s0 : State} {s : State} {a n : Nat} (hK : Keeps s0 s) :
    Keeps s0 (State.correctCe s a n) := by
  rw [show @State.correctCe = _ from by delta State.correctCe; rfl]
  extract_lets +onlyGivenNames -underBinder -merge x1
  try clear_value x1
  extract_lets +onlyGivenNames -underBinder -merge x2
  have h2 : Keeps s0 x2 := by
    subst x2
    refine keeps_mk ?_
    assumption
  try clear_value x2
  refine keeps_loopL (fun a3_0 y3 h3 => ?_) ?_
  · refine keeps_incSat ?_
    assumption
  · assumption

theorem keeps_sramLoad {s0 : State} {s : State} {a n : Nat} (hK : Keeps s0 s) :
    Keeps s0 (State.sramLoad s a n).2 := by
  rw [show @State.sramLoad = _ from by delta State.sramLoad; rfl]
  extract_lets +onlyGivenNames -underBinder -merge x1
  have h1 : Keeps s0 x1 := by
    subst x1
    refine keeps_correctCe ?_
    assumption
  try clear_value x1
  refine keeps_iteP ?_ ?_
  · refine keeps_snd ?_
    refine keeps_fault ?_
    assumption
  · refine keeps_snd ?_
    assumption

theorem keeps_sramStore {s0 : State} {s : State} {a n v : Nat} (hK : Keeps s0 s) :
    Keeps s0 (State.sramStore s a n v).2 := by
  rw [show @State.sramStore = _ from by delta State.sramStore; rfl]
  extract_lets +onlyGivenNames -underBinder -merge x1
  have h1 : Keeps s0 x1 := by
    subst x1
    refine keeps_correctCe ?_
    assumption
  try clear_value x1
  refine keeps_iteP ?_ ?_
  · refine keeps_iteP ?_ ?_
    · refine keeps_snd ?_
      extract_lets +onlyGivenNames -underBinder -merge x2
      have h2 : Keeps s0 x2 := by
        subst x2
        refine keeps_wrN ?_
        assumption
      try clear_value x2
      refine keeps_mk ?_
      assumption
    · refine keeps_snd ?_
      refine keeps_fault ?_
      assumption
  · refine keeps_snd ?_
    refine keeps_wrN ?_
    assumption

theorem keeps_devWrite {s0 : State} {s : State} {a : Nat} {l : List Byte} (hK : Keeps s0 s) :
    Keeps s0 (State.devWrite s a l) := by
  rw [show @State.devWrite = _ from by delta State.devWrite; rfl]
  extract_lets +onlyGivenNames -underBinder -merge x1
  try clear_value x1
  extract_lets +onlyGivenNames -underBinder -merge x2
  subst x2
  try dsimp -zeta -proj only
  extract_lets +onlyGivenNames -underBinder -merge x3
  have h3 : Keeps s0 x3 := by
    subst x3
    refine keeps_mk ?_
    assumption
  try clear_value x3
  extract_lets +onlyGivenNames -underBinder -merge x4
  have h4 : Keeps s0 x4 := by
    subst x4
    refine keeps_ite ?_ ?_
    · refine keeps_correctCe ?_
      assumption
    · assumption
  try clear_value x4
  extract_lets +onlyGivenNames -underBinder -merge x5
  try clear_value x5
  extract_lets +onlyGivenNames -underBinder -merge x6
  have h6 : Keeps s0 x6 := by
    subst x6
    refine keeps_setBytes ?_
    assumption
  try clear_value x6
  extract_lets +onlyGivenNames -underBinder -merge x7
  have h7 : Keeps s0 x7 := by
    subst x7
    refine keeps_mk ?_
    assumption
  try clear_value x7
  refine keeps_loopL (fun a8_0 y8 h8 => ?_) ?_
  · refine keeps_fault ?_
    refine keeps_setBytes ?_
    assumption
  · assumption

theorem keeps_setOwner {s0 : State} {s : State} {r o : Nat} (hK : Keeps s0 s) :
    Keeps s0 (State.setOwner s r o) := by
  rw [show @State.setOwner = _ from by delta State.setOwner; rfl]
  refine keeps_mk ?_
  assumption

theorem keeps_freeRes {s0 : State} {s : State} {r : Nat} (hK : Keeps s0 s) :
    Keeps s0 (State.freeRes s r) := by
  rw [show @State.freeRes = _ from by delta State.freeRes; rfl]
  extract_lets +onlyGivenNames -underBinder -merge x1
  have h1 : Keeps s0 x1 := by
    subst x1
    refine keeps_setOwner ?_
    assumption
  try clear_value x1
  refine keeps_ite ?_ ?_
  · assumption
  · extract_lets +onlyGivenNames -underBinder -merge x2
    have h2 : Keeps s0 x2 := by
      subst x2
      refine keeps_mk ?_
      assumption
    try clear_value x2
    refine keeps_ite ?_ ?_
    · refine keeps_wr ?_
      refine keeps_wr ?_
      assumption
    · assumption

theorem keeps_claimOp {s0 : State} {s : State} {release : Bool} {owner res : Nat} (hK : Keeps s0 s) :
    Keeps s0 (State.claimOp s release owner res).2 := by
  rw [show @State.claimOp = _ from by delta State.claimOp; rfl]
  refine keeps_iteP ?_ ?_
  · refine keeps_snd ?_
    assumption
  · extract_lets +onlyGivenNames -underBinder -merge x1
    try clear_value x1
    refine keeps_iteP ?_ ?_
    · refine keeps_iteP ?_ ?_
      · refine keeps_snd ?_
        refine keeps_freeRes ?_
        assumption
      · refine keeps_snd ?_
        assumption
    · refine keeps_iteP ?_ ?_
      · refine keeps_snd ?_
        refine keeps_setOwner ?_
        assumption
      · refine keeps_iteP ?_ ?_
        · refine keeps_snd ?_
          assumption
        · refine keeps_snd ?_
          assumption

theorem keeps_setAux {s0 : State} {s : State} {a : Nat} {v : AuxRec} (hK : Keeps s0 s) :
    Keeps s0 (State.setAux s a v) := by
  rw [show @State.setAux = _ from by delta State.setAux; rfl]
  refine keeps_mk ?_
  assumption

theorem keeps_auxShow {s0 : State} {s : State} (hK : Keeps s0 s) :
    Keeps s0 (State.auxShow s) := by
  rw [show @State.auxShow = _ from by delta State.auxShow; rfl]
  extract_lets +onlyGivenNames -underBinder -merge x1
  try clear_value x1
  extract_lets +onlyGivenNames -underBinder -merge x2
  try clear_value x2
  refine keeps_putB ?_
  refine keeps_put ?_
  assumption

theorem keeps_auxCatch {s0 : State} {s : State} {n : Nat} (hK : Keeps s0 s) :
    Keeps s0 (State.auxCatch s n) := by
  rw [show @State.auxCatch = _ from by delta State.auxCatch; rfl]
  refine keeps_loopN (fun a1_0 y1 h1 => ?_) ?_
  · extract_lets +onlyGivenNames -underBinder -merge x2
    try clear_value x2
    refine keeps_ite ?_ ?_
    · refine keeps_setAux ?_
      assumption
    · assumption
  · assumption

end Sys2Proof.Machine
end

