-- ==== Sys2Proof/Laws/KeepsOrderOps.lean ====
section
/-! SUPPORT. Laws/KeepsOrderOps.lean: what the operations of Machine/OrderOps.lean keep. -/
namespace Sys2Proof.Machine

theorem keeps_countWear {s0 : State} {s : State} {a n : Nat} (hK : Keeps s0 s) :
    Keeps s0 (State.countWear s a n) := by
  rw [show @State.countWear = _ from by delta State.countWear; rfl]
  extract_lets +onlyGivenNames -underBinder -merge x1
  try clear_value x1
  extract_lets +onlyGivenNames -underBinder -merge x2
  try clear_value x2
  extract_lets +onlyGivenNames -underBinder -merge x3
  try clear_value x3
  extract_lets +onlyGivenNames -underBinder -merge x4
  have h4 : Keeps s0 x4 := by
    subst x4
    refine keeps_mk ?_
    assumption
  try clear_value x4
  refine keeps_ite ?_ ?_
  · refine keeps_fault ?_
    assumption
  · assumption

theorem keeps_mramWrite {s0 : State} {s : State} {a : Nat} {l : List Byte} (hK : Keeps s0 s) :
    Keeps s0 (State.mramWrite s a l) := by
  rw [show @State.mramWrite = _ from by delta State.mramWrite; rfl]
  refine keeps_countWear ?_
  refine keeps_devWrite ?_
  assumption

theorem keeps_mramTry {s0 : State} {s : State} {a : Nat} {l : List Byte} (hK : Keeps s0 s) :
    Keeps s0 (State.mramTry s a l) := by
  rw [show @State.mramTry = _ from by delta State.mramTry; rfl]
  split
  · rename_i heq
    have h1 := keeps_of_eqP (s0 := s0) heq (by
      refine keeps_freeIn ?_
      assumption)
    split
    · refine keeps_mramWrite ?_
      assumption
    · refine keeps_mramWrite ?_
      refine keeps_retryT ?_
      assumption
    · refine keeps_fault ?_
      refine keeps_retryL ?_
      assumption

theorem keeps_showFree {s0 : State} {s : State} (hK : Keeps s0 s) :
    Keeps s0 (State.showFree s) := by
  rw [show @State.showFree = _ from by delta State.showFree; rfl]
  refine keeps_put ?_
  assumption

theorem keeps_jPut {s0 : State} {s : State} {m pos : Nat} {l : List Byte} (hK : Keeps s0 s) :
    Keeps s0 (State.jPut s m pos l) := by
  rw [show @State.jPut = _ from by delta State.jPut; rfl]
  extract_lets +onlyGivenNames -underBinder -merge x1
  try clear_value x1
  extract_lets +onlyGivenNames -underBinder -merge x2
  try clear_value x2
  extract_lets +onlyGivenNames -underBinder -merge x3
  have h3 : Keeps s0 x3 := by
    subst x3
    refine keeps_mramWrite ?_
    assumption
  try clear_value x3
  refine keeps_ite ?_ ?_
  · refine keeps_mramWrite ?_
    assumption
  · assumption

theorem keeps_jKick {s0 : State} {s : State} (hK : Keeps s0 s) :
    Keeps s0 (State.jKick s) := by
  rw [show @State.jKick = _ from by delta State.jKick; rfl]
  extract_lets +onlyGivenNames -underBinder -merge x1
  try clear_value x1
  refine keeps_ite ?_ ?_
  · refine keeps_ite ?_ ?_
    · refine keeps_mk ?_
      assumption
    · assumption
  · split
    · extract_lets +onlyGivenNames -underBinder -merge x2
      try clear_value x2
      refine keeps_putB ?_
      refine keeps_mk ?_
      assumption

theorem keeps_showOrders {s0 : State} {s : State} (hK : Keeps s0 s) :
    Keeps s0 (State.showOrders s) := by
  rw [show @State.showOrders = _ from by delta State.showOrders; rfl]
  extract_lets +onlyGivenNames -underBinder -merge x1
  have h1 : Keeps s0 x1 := by
    subst x1
    refine keeps_put ?_
    assumption
  try clear_value x1
  extract_lets +onlyGivenNames -underBinder -merge x2
  have h2 : Keeps s0 x2 := by
    subst x2
    refine keeps_putB ?_
    assumption
  try clear_value x2
  refine keeps_loopN (fun a3_0 y3 h3 => ?_) ?_
  · extract_lets +onlyGivenNames -underBinder -merge x4
    try clear_value x4
    extract_lets +onlyGivenNames -underBinder -merge x5
    try clear_value x5
    extract_lets +onlyGivenNames -underBinder -merge x6
    try clear_value x6
    extract_lets +onlyGivenNames -underBinder -merge x7
    have h7 : Keeps s0 x7 := by
      subst x7
      refine keeps_put ?_
      assumption
    try clear_value x7
    extract_lets +onlyGivenNames -underBinder -merge x8
    have h8 : Keeps s0 x8 := by
      subst x8
      refine keeps_put ?_
      assumption
    try clear_value x8
    extract_lets +onlyGivenNames -underBinder -merge x9
    have h9 : Keeps s0 x9 := by
      subst x9
      refine keeps_putB ?_
      assumption
    try clear_value x9
    refine keeps_putB ?_
    assumption
  · assumption

theorem keeps_mapOrders {s0 : State} {s : State} {p : OrderRec → Bool} {f : OrderRec → OrderRec} (hK : Keeps s0 s) :
    Keeps s0 (State.mapOrders s p f) := by
  rw [show @State.mapOrders = _ from by delta State.mapOrders; rfl]
  extract_lets +onlyGivenNames -underBinder -merge x1
  try clear_value x1
  refine keeps_showOrders ?_
  refine keeps_mk ?_
  assumption

theorem keeps_orderStarted {s0 : State} {s : State} {seq : Nat} (hK : Keeps s0 s) :
    Keeps s0 (State.orderStarted s seq) := by
  rw [show @State.orderStarted = _ from by delta State.orderStarted; rfl]
  refine keeps_mapOrders ?_
  assumption

theorem keeps_recReport {s0 : State} {s : State} {r : JRec} (hK : Keeps s0 s) :
    Keeps s0 (State.recReport s r) := by
  rw [show @State.recReport = _ from by delta State.recReport; rfl]
  refine keeps_ite ?_ ?_
  · refine keeps_orderStarted ?_
    refine keeps_addReport ?_
    assumption
  · refine keeps_ite ?_ ?_
    · refine keeps_addReport ?_
      assumption
    · assumption

theorem keeps_jAdd {s0 : State} {s : State} {r : JRec} (hK : Keeps s0 s) :
    Keeps s0 (State.jAdd s r) := by
  rw [show @State.jAdd = _ from by delta State.jAdd; rfl]
  refine keeps_ite ?_ ?_
  · refine keeps_ite ?_ ?_
    · split
      · rename_i heq
        have h1 := keeps_of_eqP (s0 := s0) heq (by
          refine keeps_newRseq ?_
          assumption)
        refine keeps_recReport ?_
        assumption
    · assumption
  · refine keeps_jKick ?_
    refine keeps_mk ?_
    assumption

theorem keeps_endOrder {s0 : State} {s : State} {seq status : Nat} {data : List Byte} (hK : Keeps s0 s) :
    Keeps s0 (State.endOrder s seq status data) := by
  rw [show @State.endOrder = _ from by delta State.endOrder; rfl]
  split
  · assumption
  · extract_lets +onlyGivenNames -underBinder -merge x1
    have h1 : Keeps s0 x1 := by
      subst x1
      refine keeps_ite ?_ ?_
      · refine keeps_mk ?_
        assumption
      · assumption
    try clear_value x1
    extract_lets +onlyGivenNames -underBinder -merge x2
    have h2 : Keeps s0 x2 := by
      subst x2
      refine keeps_mapOrders ?_
      assumption
    try clear_value x2
    refine keeps_jAdd ?_
    assumption

theorem keeps_endLane {s0 : State} {s : State} {lane status : Nat} (hK : Keeps s0 s) :
    Keeps s0 (State.endLane s lane status) := by
  rw [show @State.endLane = _ from by delta State.endLane; rfl]
  extract_lets +onlyGivenNames -underBinder -merge x1
  try clear_value x1
  refine keeps_loopL (fun a2_0 y2 h2 => ?_) ?_
  · refine keeps_endOrder ?_
    assumption
  · assumption

theorem keeps_endLaneRunning {s0 : State} {s : State} {lane status : Nat} (hK : Keeps s0 s) :
    Keeps s0 (State.endLaneRunning s lane status) := by
  rw [show @State.endLaneRunning = _ from by delta State.endLaneRunning; rfl]
  extract_lets +onlyGivenNames -underBinder -merge x1
  have h1 : Keeps s0 x1 := by
    subst x1
    split
    · refine keeps_ite ?_ ?_
      · refine keeps_endOrder ?_
        assumption
      · assumption
    · assumption
  try clear_value x1
  refine keeps_mapOrders ?_
  assumption

theorem keeps_laneOrdEnd {s0 : State} {s : State} {lane code : Nat} (hK : Keeps s0 s) :
    Keeps s0 (State.laneOrdEnd s lane code) := by
  rw [show @State.laneOrdEnd = _ from by delta State.laneOrdEnd; rfl]
  extract_lets +onlyGivenNames -underBinder -merge x1
  try clear_value x1
  refine keeps_endLaneRunning ?_
  assumption

theorem keeps_orderStep {s0 : State} {s : State} {o : OrderRec} (hK : Keeps s0 s) :
    Keeps s0 (State.orderStep s o) := by
  rw [show @State.orderStep = _ from by delta State.orderStep; rfl]
  extract_lets +onlyGivenNames -underBinder -merge x1
  have h1 : Keeps s0 x1 := by
    subst x1
    refine keeps_mapOrders ?_
    assumption
  try clear_value x1
  refine keeps_jAdd ?_
  assumption

end Sys2Proof.Machine
end

