-- ==== Sys2Proof/Laws/KeepsProfOps.lean ====
section
/-! SUPPORT. Laws/KeepsProfOps.lean: what the operations of Machine/ProfOps.lean keep. -/
namespace Sys2Proof.Machine

theorem keeps_setPf {s0 : State} {s : State} {n st : Nat} (hK : Keeps s0 s) :
    Keeps s0 (State.setPf s n st) := by
  rw [show @State.setPf = _ from by delta State.setPf; rfl]
  extract_lets +onlyGivenNames -underBinder -merge x1
  try clear_value x1
  extract_lets +onlyGivenNames -underBinder -merge x2
  have h2 : Keeps s0 x2 := by
    subst x2
    refine keeps_setProf ?_
    assumption
  try clear_value x2
  extract_lets +onlyGivenNames -underBinder -merge x3
  have h3 : Keeps s0 x3 := by
    subst x3
    refine keeps_ite ?_ ?_
    · assumption
    · refine keeps_put ?_
      assumption
  try clear_value x3
  refine keeps_put ?_
  assumption

theorem keeps_setHoldk {s0 : State} {s : State} {n : Nat} {w : Word} (hK : Keeps s0 s) :
    Keeps s0 (State.setHoldk s n w) := by
  rw [show @State.setHoldk = _ from by delta State.setHoldk; rfl]
  refine keeps_wr ?_
  assumption

theorem keeps_setTgt {s0 : State} {s : State} {n : Nat} {t : Int} (hK : Keeps s0 s) :
    Keeps s0 (State.setTgt s n t) := by
  rw [show @State.setTgt = _ from by delta State.setTgt; rfl]
  extract_lets +onlyGivenNames -underBinder -merge x1
  try clear_value x1
  extract_lets +onlyGivenNames -underBinder -merge x2
  try clear_value x2
  extract_lets +onlyGivenNames -underBinder -merge x3
  have h3 : Keeps s0 x3 := by
    subst x3
    refine keeps_putB ?_
    refine keeps_setProf ?_
    assumption
  try clear_value x3
  refine keeps_wr ?_
  refine keeps_wr ?_
  assumption

theorem keeps_profNoGoal {s0 : State} {s : State} {n : Nat} (hK : Keeps s0 s) :
    Keeps s0 (State.profNoGoal s n) := by
  rw [show @State.profNoGoal = _ from by delta State.profNoGoal; rfl]
  extract_lets +onlyGivenNames -underBinder -merge x1
  try clear_value x1
  split
  · refine keeps_wr ?_
    assumption
  · refine keeps_setProf ?_
    assumption
  · refine keeps_setTgt ?_
    assumption

theorem keeps_freezeRef {s0 : State} {s : State} {n : Nat} (hK : Keeps s0 s) :
    Keeps s0 (State.freezeRef s n) := by
  rw [show @State.freezeRef = _ from by delta State.freezeRef; rfl]
  extract_lets +onlyGivenNames -underBinder -merge x1
  try clear_value x1
  refine keeps_ite ?_ ?_
  · refine keeps_setProf ?_
    assumption
  · assumption

theorem keeps_setBrake {s0 : State} {s : State} {n : Nat} {on : Bool} (hK : Keeps s0 s) :
    Keeps s0 (State.setBrake s n on) := by
  rw [show @State.setBrake = _ from by delta State.setBrake; rfl]
  extract_lets +onlyGivenNames -underBinder -merge x1
  have h1 : Keeps s0 x1 := by
    subst x1
    refine keeps_putB ?_
    assumption
  try clear_value x1
  refine keeps_ite ?_ ?_
  · refine keeps_setBitAt ?_
    assumption
  · assumption

theorem keeps_profGo {s0 : State} {s : State} {n : Nat} (hK : Keeps s0 s) :
    Keeps s0 (State.profGo s n) := by
  rw [show @State.profGo = _ from by delta State.profGo; rfl]
  split
  · refine keeps_setPf ?_
    assumption
  · refine keeps_ite ?_ ?_
    · refine keeps_setPf ?_
      assumption
    · refine keeps_setPf ?_
      refine keeps_setProf ?_
      assumption

theorem keeps_profLeaveRun {s0 : State} {s : State} {n : Nat} (hK : Keeps s0 s) :
    Keeps s0 (State.profLeaveRun s n) := by
  rw [show @State.profLeaveRun = _ from by delta State.profLeaveRun; rfl]
  refine keeps_ite ?_ ?_
  · assumption
  · extract_lets +onlyGivenNames -underBinder -merge x1
    have h1 : Keeps s0 x1 := by
      subst x1
      refine keeps_ite ?_ ?_
      · assumption
      · refine keeps_raise ?_
        assumption
    try clear_value x1
    extract_lets +onlyGivenNames -underBinder -merge x2
    have h2 : Keeps s0 x2 := by
      subst x2
      refine keeps_setBrake ?_
      assumption
    try clear_value x2
    extract_lets +onlyGivenNames -underBinder -merge x3
    try clear_value x3
    extract_lets +onlyGivenNames -underBinder -merge x4
    have h4 : Keeps s0 x4 := by
      subst x4
      refine keeps_setProf ?_
      assumption
    try clear_value x4
    extract_lets +onlyGivenNames -underBinder -merge x5
    have h5 : Keeps s0 x5 := by
      subst x5
      refine keeps_profNoGoal ?_
      assumption
    try clear_value x5
    extract_lets +onlyGivenNames -underBinder -merge x6
    have h6 : Keeps s0 x6 := by
      subst x6
      refine keeps_wr ?_
      assumption
    try clear_value x6
    extract_lets +onlyGivenNames -underBinder -merge x7
    have h7 : Keeps s0 x7 := by
      subst x7
      refine keeps_putB ?_
      refine keeps_putB ?_
      assumption
    try clear_value x7
    extract_lets +onlyGivenNames -underBinder -merge x8
    have h8 : Keeps s0 x8 := by
      subst x8
      refine keeps_putB ?_
      assumption
    try clear_value x8
    refine keeps_setPf ?_
    refine keeps_setHoldk ?_
    assumption

theorem keeps_profEnterRun {s0 : State} {s : State} {n : Nat} (hK : Keeps s0 s) :
    Keeps s0 (State.profEnterRun s n) := by
  rw [show @State.profEnterRun = _ from by delta State.profEnterRun; rfl]
  refine keeps_ite ?_ ?_
  · assumption
  · refine keeps_ite ?_ ?_
    · refine keeps_setPf ?_
      refine keeps_setHoldk ?_
      assumption
    · refine keeps_setPf ?_
      refine keeps_setHoldk ?_
      assumption

theorem keeps_profRender {s0 : State} {n : Nat} {s : State} (hK : Keeps s0 s) :
    Keeps s0 (profRender n s) := by
  rw [show @profRender = _ from by delta profRender; rfl]
  extract_lets +onlyGivenNames -underBinder -merge x1
  subst x1
  try dsimp -zeta -proj only
  extract_lets +onlyGivenNames -underBinder -merge x2
  subst x2
  try dsimp -zeta -proj only
  extract_lets +onlyGivenNames -underBinder -merge x3
  try clear_value x3
  refine keeps_ite ?_ ?_
  · refine keeps_setPf ?_
    refine keeps_wr ?_
    refine keeps_setProf ?_
    refine keeps_setHoldk ?_
    assumption
  · refine keeps_ite ?_ ?_
    · refine keeps_wr ?_
      refine keeps_setProf ?_
      assumption
    · refine keeps_ite ?_ ?_
      · refine keeps_ite ?_ ?_
        · assumption
        · refine keeps_setPf ?_
          refine keeps_wr ?_
          refine keeps_setProf ?_
          refine keeps_setHoldk ?_
          assumption
      · refine keeps_ite ?_ ?_
        · refine keeps_setProf ?_
          assumption
        · assumption

theorem keeps_followEnd {s0 : State} {s : State} {n : Nat} {halt : Bool} (hK : Keeps s0 s) :
    Keeps s0 (State.followEnd s n halt) := by
  rw [show @State.followEnd = _ from by delta State.followEnd; rfl]
  extract_lets +onlyGivenNames -underBinder -merge x1
  have h1 : Keeps s0 x1 := by
    subst x1
    refine keeps_raise ?_
    assumption
  try clear_value x1
  extract_lets +onlyGivenNames -underBinder -merge x2
  try clear_value x2
  extract_lets +onlyGivenNames -underBinder -merge x3
  try clear_value x3
  extract_lets +onlyGivenNames -underBinder -merge x4
  have h4 : Keeps s0 x4 := by
    subst x4
    refine keeps_setProf ?_
    assumption
  try clear_value x4
  refine keeps_ite ?_ ?_
  · refine keeps_setPf ?_
    refine keeps_freezeRef ?_
    assumption
  · refine keeps_ite ?_ ?_
    · refine keeps_ite ?_ ?_
      · refine keeps_profGo ?_
        assumption
      · refine keeps_setPf ?_
        assumption
    · refine keeps_setPf ?_
      assumption

theorem keeps_profRenderEnd {s0 : State} {n : Nat} {s : State} (hK : Keeps s0 s) :
    Keeps s0 (profRenderEnd n s) := by
  rw [show @profRenderEnd = _ from by delta profRenderEnd; rfl]
  extract_lets +onlyGivenNames -underBinder -merge x1
  try clear_value x1
  refine keeps_ite ?_ ?_
  · refine keeps_followEnd ?_
    assumption
  · refine keeps_ite ?_ ?_
    · refine keeps_setProf ?_
      assumption
    · assumption

theorem keeps_profFreeze {s0 : State} {n : Nat} {s : State} (hK : Keeps s0 s) :
    Keeps s0 (profFreeze n s) := by
  rw [show @profFreeze = _ from by delta profFreeze; rfl]
  extract_lets +onlyGivenNames -underBinder -merge x1
  try clear_value x1
  refine keeps_ite ?_ ?_
  · assumption
  · refine keeps_put ?_
    refine keeps_setProf ?_
    assumption

theorem keeps_crashCheck {s0 : State} {s : State} {n : Nat} (hK : Keeps s0 s) :
    Keeps s0 (State.crashCheck s n) := by
  rw [show @State.crashCheck = _ from by delta State.crashCheck; rfl]
  extract_lets +onlyGivenNames -underBinder -merge x1
  try clear_value x1
  refine keeps_ite ?_ ?_
  · refine keeps_ite ?_ ?_
    · assumption
    · refine keeps_putB ?_
      assumption
  · refine keeps_ite ?_ ?_
    · refine keeps_ite ?_ ?_
      · refine keeps_setProf ?_
        assumption
      · extract_lets +onlyGivenNames -underBinder -merge x2
        try clear_value x2
        extract_lets +onlyGivenNames -underBinder -merge x3
        try clear_value x3
        extract_lets +onlyGivenNames -underBinder -merge x4
        try clear_value x4
        extract_lets +onlyGivenNames -underBinder -merge x5
        have h5 : Keeps s0 x5 := by
          subst x5
          refine keeps_fault ?_
          assumption
        try clear_value x5
        extract_lets +onlyGivenNames -underBinder -merge x6
        have h6 : Keeps s0 x6 := by
          subst x6
          refine keeps_putB ?_
          assumption
        try clear_value x6
        extract_lets +onlyGivenNames -underBinder -merge x7
        have h7 : Keeps s0 x7 := by
          subst x7
          refine keeps_put ?_
          assumption
        try clear_value x7
        extract_lets +onlyGivenNames -underBinder -merge x8
        have h8 : Keeps s0 x8 := by
          subst x8
          refine keeps_wr ?_
          assumption
        try clear_value x8
        refine keeps_setProf ?_
        assumption
    · assumption

theorem keeps_noticeTick {s0 : State} {s : State} {n : Nat} (hK : Keeps s0 s) :
    Keeps s0 (State.noticeTick s n) := by
  rw [show @State.noticeTick = _ from by delta State.noticeTick; rfl]
  extract_lets +onlyGivenNames -underBinder -merge x1
  try clear_value x1
  extract_lets +onlyGivenNames -underBinder -merge x2
  try clear_value x2
  refine keeps_ite ?_ ?_
  · refine keeps_ite ?_ ?_
    · refine keeps_setProf ?_
      assumption
    · assumption
  · refine keeps_ite ?_ ?_
    · assumption
    · extract_lets +onlyGivenNames -underBinder -merge x3
      have h3 : Keeps s0 x3 := by
        subst x3
        refine keeps_setProf ?_
        assumption
      try clear_value x3
      extract_lets +onlyGivenNames -underBinder -merge x4
      have h4 : Keeps s0 x4 := by
        subst x4
        refine keeps_ite ?_ ?_
        · refine keeps_wr ?_
          refine keeps_putB ?_
          assumption
        · assumption
      try clear_value x4
      refine keeps_ite ?_ ?_
      · refine keeps_followEnd ?_
        assumption
      · refine keeps_freezeRef ?_
        refine keeps_setProf ?_
        assumption

theorem keeps_profResume {s0 : State} {n : Nat} {s : State} (hK : Keeps s0 s) :
    Keeps s0 (profResume n s) := by
  rw [show @profResume = _ from by delta profResume; rfl]
  refine keeps_ite ?_ ?_
  · assumption
  · extract_lets +onlyGivenNames -underBinder -merge x1
    try clear_value x1
    extract_lets +onlyGivenNames -underBinder -merge x2
    have h2 : Keeps s0 x2 := by
      subst x2
      refine keeps_put ?_
      refine keeps_setProf ?_
      assumption
    try clear_value x2
    extract_lets +onlyGivenNames -underBinder -merge x3
    have h3 : Keeps s0 x3 := by
      subst x3
      refine keeps_ite ?_ ?_
      · refine keeps_noticeTick ?_
        assumption
      · assumption
    try clear_value x3
    extract_lets +onlyGivenNames -underBinder -merge x4
    have h4 : Keeps s0 x4 := by
      subst x4
      refine keeps_ite ?_ ?_
      · assumption
      · refine keeps_ite ?_ ?_
        · refine keeps_profRender ?_
          assumption
        · refine keeps_ite ?_ ?_
          · refine keeps_followEnd ?_
            assumption
          · assumption
    try clear_value x4
    refine keeps_ite ?_ ?_
    · refine keeps_crashCheck ?_
      assumption
    · assumption

theorem keeps_guardUnrender {s0 : State} {s : State} {n : Nat} (hK : Keeps s0 s) :
    Keeps s0 (State.guardUnrender s n) := by
  rw [show @State.guardUnrender = _ from by delta State.guardUnrender; rfl]
  refine keeps_ite ?_ ?_
  · refine keeps_putB ?_
    assumption
  · assumption

theorem keeps_guardArm {s0 : State} {s : State} {n : Nat} (hK : Keeps s0 s) :
    Keeps s0 (State.guardArm s n) := by
  rw [show @State.guardArm = _ from by delta State.guardArm; rfl]
  extract_lets +onlyGivenNames -underBinder -merge x1
  try clear_value x1
  extract_lets +onlyGivenNames -underBinder -merge x2
  have h2 : Keeps s0 x2 := by
    subst x2
    refine keeps_guardUnrender ?_
    assumption
  try clear_value x2
  extract_lets +onlyGivenNames -underBinder -merge x3
  try clear_value x3
  extract_lets +onlyGivenNames -underBinder -merge x4
  have h4 : Keeps s0 x4 := by
    subst x4
    refine keeps_loopL (fun a5_0 y5 h5 => ?_) ?_
    · refine keeps_wr ?_
      assumption
    · assumption
  try clear_value x4
  extract_lets +onlyGivenNames -underBinder -merge x6
  try clear_value x6
  extract_lets +onlyGivenNames -underBinder -merge x7
  have h7 : Keeps s0 x7 := by
    subst x7
    refine keeps_setCrew ?_
    assumption
  try clear_value x7
  extract_lets +onlyGivenNames -underBinder -merge x8
  have h8 : Keeps s0 x8 := by
    subst x8
    refine keeps_putB ?_
    assumption
  try clear_value x8
  extract_lets +onlyGivenNames -underBinder -merge x9
  have h9 : Keeps s0 x9 := by
    subst x9
    refine keeps_setBitAt ?_
    assumption
  try clear_value x9
  extract_lets +onlyGivenNames -underBinder -merge x10
  have h10 : Keeps s0 x10 := by
    subst x10
    refine keeps_put ?_
    assumption
  try clear_value x10
  refine keeps_ite ?_ ?_
  · refine keeps_profRenderEnd ?_
    assumption
  · assumption

theorem keeps_guardTrip {s0 : State} {s : State} {n : Nat} (hK : Keeps s0 s) :
    Keeps s0 (State.guardTrip s n) := by
  rw [show @State.guardTrip = _ from by delta State.guardTrip; rfl]
  extract_lets +onlyGivenNames -underBinder -merge x1
  try clear_value x1
  extract_lets +onlyGivenNames -underBinder -merge x2
  have h2 : Keeps s0 x2 := by
    subst x2
    refine keeps_guardUnrender ?_
    assumption
  try clear_value x2
  extract_lets +onlyGivenNames -underBinder -merge x3
  have h3 : Keeps s0 x3 := by
    subst x3
    refine keeps_raise ?_
    refine keeps_putB ?_
    assumption
  try clear_value x3
  extract_lets +onlyGivenNames -underBinder -merge x4
  have h4 : Keeps s0 x4 := by
    subst x4
    refine keeps_setBitAt ?_
    assumption
  try clear_value x4
  extract_lets +onlyGivenNames -underBinder -merge x5
  have h5 : Keeps s0 x5 := by
    subst x5
    refine keeps_put ?_
    refine keeps_fault ?_
    assumption
  try clear_value x5
  refine keeps_ite ?_ ?_
  · refine keeps_profRenderEnd ?_
    assumption
  · assumption

theorem keeps_guardRender {s0 : State} {s : State} {n : Nat} {emg : Bool} (hK : Keeps s0 s) :
    Keeps s0 (State.guardRender s n emg) := by
  rw [show @State.guardRender = _ from by delta State.guardRender; rfl]
  extract_lets +onlyGivenNames -underBinder -merge x1
  try clear_value x1
  extract_lets +onlyGivenNames -underBinder -merge x2
  try clear_value x2
  extract_lets +onlyGivenNames -underBinder -merge x3
  have h3 : Keeps s0 x3 := by
    subst x3
    refine keeps_setCrew ?_
    assumption
  try clear_value x3
  extract_lets +onlyGivenNames -underBinder -merge x4
  have h4 : Keeps s0 x4 := by
    subst x4
    refine keeps_fault ?_
    assumption
  try clear_value x4
  extract_lets +onlyGivenNames -underBinder -merge x5
  have h5 : Keeps s0 x5 := by
    subst x5
    refine keeps_ite ?_ ?_
    · refine keeps_putB ?_
      assumption
    · assumption
  try clear_value x5
  refine keeps_profRender ?_
  refine keeps_put ?_
  assumption

theorem keeps_guardBack {s0 : State} {s : State} {n : Nat} (hK : Keeps s0 s) :
    Keeps s0 (State.guardBack s n) := by
  rw [show @State.guardBack = _ from by delta State.guardBack; rfl]
  refine keeps_guardArm ?_
  refine keeps_wr ?_
  assumption

theorem keeps_guardLeaveRun {s0 : State} {s : State} {n : Nat} (hK : Keeps s0 s) :
    Keeps s0 (State.guardLeaveRun s n) := by
  rw [show @State.guardLeaveRun = _ from by delta State.guardLeaveRun; rfl]
  refine keeps_ite ?_ ?_
  · refine keeps_guardArm ?_
    assumption
  · refine keeps_ite ?_ ?_
    · refine keeps_guardBack ?_
      assumption
    · assumption

theorem keeps_slessTrack {s0 : State} {n : Nat} {s : State} (hK : Keeps s0 s) :
    Keeps s0 (slessTrack n s) := by
  rw [show @slessTrack = _ from by delta slessTrack; rfl]
  extract_lets +onlyGivenNames -underBinder -merge x1
  try clear_value x1
  refine keeps_setCrew ?_
  assumption

theorem keeps_profCrewState {s0 : State} {n : Nat} {s : State} (hK : Keeps s0 s) :
    Keeps s0 (profCrewState n s) := by
  rw [show @profCrewState = _ from by delta profCrewState; rfl]
  extract_lets +onlyGivenNames -underBinder -merge x1
  have h1 : Keeps s0 x1 := by
    subst x1
    refine keeps_slessTrack ?_
    assumption
  try clear_value x1
  refine keeps_ite ?_ ?_
  · refine keeps_profEnterRun ?_
    assumption
  · refine keeps_guardLeaveRun ?_
    refine keeps_profLeaveRun ?_
    assumption

theorem keeps_profFaultStop {s0 : State} {n : Nat} {s : State} (hK : Keeps s0 s) :
    Keeps s0 (profFaultStop n s) := by
  rw [show @profFaultStop = _ from by delta profFaultStop; rfl]
  refine keeps_profCrewState ?_
  assumption

end Sys2Proof.Machine
end

