-- ==== Sys2Proof/Laws/KeepsModOps.lean ====
section
/-! SUPPORT. Laws/KeepsModOps.lean: what the operations of Machine/ModOps.lean keep. -/
namespace Sys2Proof.Machine

theorem keeps_setQueue {s0 : State} {s : State} {k : Nat} {q : List LinkEv} (hK : Keeps s0 s) :
    Keeps s0 (State.setQueue s k q) := by
  rw [show @State.setQueue = _ from by delta State.setQueue; rfl]
  extract_lets +onlyGivenNames -underBinder -merge x1
  try clear_value x1
  extract_lets +onlyGivenNames -underBinder -merge x2
  have h2 : Keeps s0 x2 := by
    subst x2
    refine keeps_setLink ?_
    assumption
  try clear_value x2
  extract_lets +onlyGivenNames -underBinder -merge x3
  have h3 : Keeps s0 x3 := by
    subst x3
    refine keeps_put ?_
    assumption
  try clear_value x3
  refine keeps_put ?_
  assumption

theorem keeps_setLvl {s0 : State} {s : State} {x : Nat} {hs level : Bool} (hK : Keeps s0 s) :
    Keeps s0 (State.setLvl s x hs level) := by
  rw [show @State.setLvl = _ from by delta State.setLvl; rfl]
  refine keeps_putB ?_
  assumption

theorem keeps_withdrawn {s0 : State} {s : State} {k w td : Nat} {count : Bool} (hK : Keeps s0 s) :
    Keeps s0 (State.withdrawn s k w td count) := by
  rw [show @State.withdrawn = _ from by delta State.withdrawn; rfl]
  split
  · extract_lets +onlyGivenNames -underBinder -merge x1
    have h1 : Keeps s0 x1 := by
      subst x1
      refine keeps_setLvl ?_
      assumption
    try clear_value x1
    extract_lets +onlyGivenNames -underBinder -merge x2
    try clear_value x2
    extract_lets +onlyGivenNames -underBinder -merge x3
    try clear_value x3
    extract_lets +onlyGivenNames -underBinder -merge x4
    have h4 : Keeps s0 x4 := by
      subst x4
      refine keeps_setLink ?_
      assumption
    try clear_value x4
    refine keeps_ite ?_ ?_
    · refine keeps_raise ?_
      refine keeps_incSat ?_
      assumption
    · assumption

theorem keeps_relieve {s0 s : State} {ok : State → List LinkEv → Bool} {k n : Nat} (h : Keeps s0 s) :
    Keeps s0 (State.relieve ok k n s) := by
  induction n generalizing s with
  | zero => exact h
  | succ n ih =>
    rw [State.relieve]
    split
    · exact h
    · split
      · exact h
      · exact ih (keeps_withdrawn (keeps_setQueue h))

theorem keeps_evAdmit {s0 : State} {s : State} {k w : Nat} {level : Bool} (hK : Keeps s0 s) :
    Keeps s0 (State.evAdmit s k w level) := by
  rw [show @State.evAdmit = _ from by delta State.evAdmit; rfl]
  extract_lets +onlyGivenNames -underBinder -merge x1
  try clear_value x1
  refine keeps_ite ?_ ?_
  · refine keeps_ite ?_ ?_
    · refine keeps_withdrawn ?_
      assumption
    · assumption
  · refine keeps_ite ?_ ?_
    · assumption
    · refine keeps_ite ?_ ?_
      · extract_lets +onlyGivenNames -underBinder -merge x2
        try clear_value x2
        refine keeps_ite ?_ ?_
        · refine keeps_withdrawn ?_
          assumption
        · refine keeps_setQueue ?_
          refine keeps_setLink ?_
          assumption
      · extract_lets +onlyGivenNames -underBinder -merge x3
        have h3 : Keeps s0 x3 := by
          subst x3
          refine keeps_relieve ?_
          assumption
        try clear_value x3
        extract_lets +onlyGivenNames -underBinder -merge x4
        try clear_value x4
        extract_lets +onlyGivenNames -underBinder -merge x5
        have h5 : Keeps s0 x5 := by
          subst x5
          refine keeps_setLink ?_
          assumption
        try clear_value x5
        extract_lets +onlyGivenNames -underBinder -merge x6
        have h6 : Keeps s0 x6 := by
          subst x6
          refine keeps_setQueue ?_
          assumption
        try clear_value x6
        refine keeps_relieve ?_
        assumption

theorem keeps_stage {s0 : State} {s : State} {k st : Nat} (hK : Keeps s0 s) :
    Keeps s0 (State.stage s k st) := by
  rw [show @State.stage = _ from by delta State.stage; rfl]
  refine keeps_put ?_
  refine keeps_setLink ?_
  assumption

theorem keeps_linkDown {s0 : State} {s : State} {k st : Nat} (hK : Keeps s0 s) :
    Keeps s0 (State.linkDown s k st) := by
  rw [show @State.linkDown = _ from by delta State.linkDown; rfl]
  extract_lets +onlyGivenNames -underBinder -merge x1
  try clear_value x1
  extract_lets +onlyGivenNames -underBinder -merge x2
  have h2 : Keeps s0 x2 := by
    subst x2
    refine keeps_setLink ?_
    assumption
  try clear_value x2
  extract_lets +onlyGivenNames -underBinder -merge x3
  have h3 : Keeps s0 x3 := by
    subst x3
    refine keeps_put ?_
    refine keeps_put ?_
    assumption
  try clear_value x3
  extract_lets +onlyGivenNames -underBinder -merge x4
  have h4 : Keeps s0 x4 := by
    subst x4
    refine keeps_put ?_
    assumption
  try clear_value x4
  extract_lets +onlyGivenNames -underBinder -merge x5
  have h5 : Keeps s0 x5 := by
    subst x5
    refine keeps_put ?_
    assumption
  try clear_value x5
  extract_lets +onlyGivenNames -underBinder -merge x6
  have h6 : Keeps s0 x6 := by
    subst x6
    refine keeps_putB ?_
    assumption
  try clear_value x6
  extract_lets +onlyGivenNames -underBinder -merge x7
  have h7 : Keeps s0 x7 := by
    subst x7
    refine keeps_loopN (fun a8_0 y8 h8 => ?_) ?_
    · refine keeps_putB ?_
      assumption
    · assumption
  try clear_value x7
  extract_lets +onlyGivenNames -underBinder -merge x9
  have h9 : Keeps s0 x9 := by
    subst x9
    refine keeps_loopN (fun a10_0 y10 h10 => ?_) ?_
    · refine keeps_setLvl ?_
      refine keeps_setLvl ?_
      assumption
    · assumption
  try clear_value x9
  refine keeps_stage ?_
  assumption

theorem keeps_startTraining {s0 : State} {s : State} {k : Nat} (hK : Keeps s0 s) :
    Keeps s0 (State.startTraining s k) := by
  rw [show @State.startTraining = _ from by delta State.startTraining; rfl]
  refine keeps_linkDown ?_
  assumption

theorem keeps_trainPorts {s0 : State} {s : State} (hK : Keeps s0 s) :
    Keeps s0 (State.trainPorts s) := by
  rw [show @State.trainPorts = _ from by delta State.trainPorts; rfl]
  refine keeps_loopN (fun a1_0 y1 h1 => ?_) ?_
  · refine keeps_ite ?_ ?_
    · refine keeps_startTraining ?_
      assumption
    · assumption
  · assumption

theorem keeps_noteEdge {s0 : State} {s : State} {x : Nat} {hs level : Bool} (hK : Keeps s0 s) :
    Keeps s0 (State.noteEdge s x hs level) := by
  rw [show @State.noteEdge = _ from by delta State.noteEdge; rfl]
  extract_lets +onlyGivenNames -underBinder -merge x1
  try clear_value x1
  extract_lets +onlyGivenNames -underBinder -merge x2
  try clear_value x2
  extract_lets +onlyGivenNames -underBinder -merge x3
  try clear_value x3
  extract_lets +onlyGivenNames -underBinder -merge x4
  try clear_value x4
  extract_lets +onlyGivenNames -underBinder -merge x5
  try clear_value x5
  refine keeps_setLink ?_
  assumption

theorem keeps_edge {s0 : State} {s : State} {x : Nat} {hs level : Bool} (hK : Keeps s0 s) :
    Keeps s0 (State.edge s x hs level) := by
  rw [show @State.edge = _ from by delta State.edge; rfl]
  refine keeps_ite ?_ ?_
  · assumption
  · extract_lets +onlyGivenNames -underBinder -merge x1
    have h1 : Keeps s0 x1 := by
      subst x1
      refine keeps_setLvl ?_
      assumption
    try clear_value x1
    extract_lets +onlyGivenNames -underBinder -merge x2
    have h2 : Keeps s0 x2 := by
      subst x2
      refine keeps_incWrap ?_
      assumption
    try clear_value x2
    extract_lets +onlyGivenNames -underBinder -merge x3
    have h3 : Keeps s0 x3 := by
      subst x3
      refine keeps_setLeg ?_
      assumption
    try clear_value x3
    extract_lets +onlyGivenNames -underBinder -merge x4
    have h4 : Keeps s0 x4 := by
      subst x4
      refine keeps_noteEdge ?_
      assumption
    try clear_value x4
    refine keeps_evAdmit ?_
    assumption

theorem keeps_legOff {s0 : State} {s : State} {x : Nat} (hK : Keeps s0 s) :
    Keeps s0 (State.legOff s x) := by
  rw [show @State.legOff = _ from by delta State.legOff; rfl]
  extract_lets +onlyGivenNames -underBinder -merge x1
  try clear_value x1
  extract_lets +onlyGivenNames -underBinder -merge x2
  have h2 : Keeps s0 x2 := by
    subst x2
    refine keeps_setLeg ?_
    assumption
  try clear_value x2
  extract_lets +onlyGivenNames -underBinder -merge x3
  have h3 : Keeps s0 x3 := by
    subst x3
    refine keeps_putB ?_
    assumption
  try clear_value x3
  refine keeps_edge ?_
  refine keeps_edge ?_
  assumption

theorem keeps_dropPulse {s0 : State} {s : State} {x : Nat} (hK : Keeps s0 s) :
    Keeps s0 (State.dropPulse s x) := by
  rw [show @State.dropPulse = _ from by delta State.dropPulse; rfl]
  refine keeps_raise ?_
  refine keeps_incSat ?_
  assumption

theorem keeps_onAt {s0 : State} {s : State} {x : Nat} {hs : Bool} {due : Nat} (hK : Keeps s0 s) :
    Keeps s0 (State.onAt s x hs due) := by
  rw [show @State.onAt = _ from by delta State.onAt; rfl]
  refine keeps_ite ?_ ?_
  · extract_lets +onlyGivenNames -underBinder -merge x1
    have h1 : Keeps s0 x1 := by
      subst x1
      refine keeps_putB ?_
      assumption
    try clear_value x1
    refine keeps_ite ?_ ?_
    · refine keeps_edge ?_
      assumption
    · assumption
  · refine keeps_putB ?_
    refine keeps_setLeg ?_
    assumption

theorem keeps_legTo {s0 : State} {s : State} {x : Nat} {hs : Bool} {fin : Option Nat} (hK : Keeps s0 s) :
    Keeps s0 (State.legTo s x hs fin) := by
  rw [show @State.legTo = _ from by delta State.legTo; rfl]
  refine keeps_ite ?_ ?_
  · assumption
  · extract_lets +onlyGivenNames -underBinder -merge x1
    try clear_value x1
    extract_lets +onlyGivenNames -underBinder -merge x2
    try clear_value x2
    extract_lets +onlyGivenNames -underBinder -merge x3
    have h3 : Keeps s0 x3 := by
      subst x3
      refine keeps_setLeg ?_
      assumption
    try clear_value x3
    extract_lets +onlyGivenNames -underBinder -merge x4
    have h4 : Keeps s0 x4 := by
      subst x4
      refine keeps_edge ?_
      assumption
    try clear_value x4
    extract_lets +onlyGivenNames -underBinder -merge x5
    try clear_value x5
    extract_lets +onlyGivenNames -underBinder -merge x6
    try clear_value x6
    refine keeps_ite ?_ ?_
    · refine keeps_putB ?_
      assumption
    · refine keeps_ite ?_ ?_
      · refine keeps_putB ?_
        refine keeps_dropPulse ?_
        assumption
      · refine keeps_onAt ?_
        assumption

theorem keeps_legShort {s0 : State} {s : State} {x : Nat} (hK : Keeps s0 s) :
    Keeps s0 (State.legShort s x) := by
  rw [show @State.legShort = _ from by delta State.legShort; rfl]
  refine keeps_ite ?_ ?_
  · refine keeps_legOff ?_
    assumption
  · refine keeps_ite ?_ ?_
    · assumption
    · extract_lets +onlyGivenNames -underBinder -merge x1
      have h1 : Keeps s0 x1 := by
        subst x1
        refine keeps_legOff ?_
        assumption
      try clear_value x1
      refine keeps_onAt ?_
      refine keeps_setLeg ?_
      assumption

theorem keeps_crewOff {s0 : State} {s : State} {n : Nat} (hK : Keeps s0 s) :
    Keeps s0 (State.crewOff s n) := by
  rw [show @State.crewOff = _ from by delta State.crewOff; rfl]
  refine keeps_loopL (fun a1_0 y1 h1 => ?_) ?_
  · refine keeps_legOff ?_
    assumption
  · assumption

theorem keeps_modCounts {s0 : State} {s : State} (hK : Keeps s0 s) :
    Keeps s0 (State.modCounts s) := by
  rw [show @State.modCounts = _ from by delta State.modCounts; rfl]
  extract_lets +onlyGivenNames -underBinder -merge x1
  try clear_value x1
  extract_lets +onlyGivenNames -underBinder -merge x2
  try clear_value x2
  extract_lets +onlyGivenNames -underBinder -merge x3
  have h3 : Keeps s0 x3 := by
    subst x3
    refine keeps_put ?_
    refine keeps_put ?_
    assumption
  try clear_value x3
  extract_lets +onlyGivenNames -underBinder -merge x4
  try clear_value x4
  refine keeps_ite ?_ ?_
  · refine keeps_put ?_
    assumption
  · refine keeps_ite ?_ ?_
    · refine keeps_put ?_
      refine keeps_mk ?_
      assumption
    · assumption

theorem keeps_setCrewState {s0 : State} {s : State} {n st : Nat} (hK : Keeps s0 s) :
    Keeps s0 (State.setCrewState s n st) := by
  rw [show @State.setCrewState = _ from by delta State.setCrewState; rfl]
  extract_lets +onlyGivenNames -underBinder -merge x1
  have h1 : Keeps s0 x1 := by
    subst x1
    refine keeps_ite ?_ ?_
    · refine keeps_mk ?_
      assumption
    · assumption
  try clear_value x1
  refine keeps_modCounts ?_
  refine keeps_put ?_
  assumption

theorem keeps_faultStopOne {s0 : State} {s : State} {n cause : Nat} {inst : Nat} (hK : Keeps s0 s) :
    Keeps s0 (State.faultStopOne s n cause inst) := by
  rw [show @State.faultStopOne = _ from by delta State.faultStopOne; rfl]
  extract_lets +onlyGivenNames -underBinder -merge x1
  try clear_value x1
  extract_lets +onlyGivenNames -underBinder -merge x2
  try clear_value x2
  refine keeps_ite ?_ ?_
  · extract_lets +onlyGivenNames -underBinder -merge x3
    have h3 : Keeps s0 x3 := by
      subst x3
      refine keeps_putB ?_
      assumption
    try clear_value x3
    extract_lets +onlyGivenNames -underBinder -merge x4
    have h4 : Keeps s0 x4 := by
      subst x4
      refine keeps_put ?_
      assumption
    try clear_value x4
    extract_lets +onlyGivenNames -underBinder -merge x5
    have h5 : Keeps s0 x5 := by
      subst x5
      refine keeps_raise ?_
      assumption
    try clear_value x5
    extract_lets +onlyGivenNames -underBinder -merge x6
    have h6 : Keeps s0 x6 := by
      subst x6
      refine keeps_fault ?_
      assumption
    try clear_value x6
    extract_lets +onlyGivenNames -underBinder -merge x7
    try clear_value x7
    extract_lets +onlyGivenNames -underBinder -merge x8
    have h8 : Keeps s0 x8 := by
      subst x8
      refine keeps_setCrew ?_
      assumption
    try clear_value x8
    extract_lets +onlyGivenNames -underBinder -merge x9
    have h9 : Keeps s0 x9 := by
      subst x9
      refine keeps_setCrewState ?_
      assumption
    try clear_value x9
    extract_lets +onlyGivenNames -underBinder -merge x10
    have h10 : Keeps s0 x10 := by
      subst x10
      refine keeps_profFaultStop ?_
      assumption
    try clear_value x10
    refine keeps_endLane ?_
    assumption
  · refine keeps_ite ?_ ?_
    · refine keeps_setCrew ?_
      assumption
    · assumption

theorem keeps_nextLead {s0 : State} {s : State} {n : Nat} (hK : Keeps s0 s) :
    Keeps s0 (State.nextLead s n) := by
  rw [show @State.nextLead = _ from by delta State.nextLead; rfl]
  split
  · refine keeps_setCrew ?_
    assumption
  · assumption

theorem keeps_leadLoss {s0 : State} {s : State} {n : Nat} (hK : Keeps s0 s) :
    Keeps s0 (State.leadLoss s n) := by
  rw [show @State.leadLoss = _ from by delta State.leadLoss; rfl]
  refine keeps_ite ?_ ?_
  · refine keeps_nextLead ?_
    refine keeps_setCrew ?_
    assumption
  · refine keeps_ite ?_ ?_
    · extract_lets +onlyGivenNames -underBinder -merge x1
      have h1 : Keeps s0 x1 := by
        subst x1
        refine keeps_fault ?_
        assumption
      try clear_value x1
      extract_lets +onlyGivenNames -underBinder -merge x2
      try clear_value x2
      refine keeps_ite ?_ ?_
      · refine keeps_nextLead ?_
        assumption
      · refine keeps_loopL (fun a3_0 y3 h3 => ?_) ?_
        · refine keeps_faultStopOne ?_
          assumption
        · assumption
    · assumption

theorem keeps_faultStop {s0 : State} {s : State} {n cause : Nat} {inst : Nat} (hK : Keeps s0 s) :
    Keeps s0 (State.faultStop s n cause inst) := by
  rw [show @State.faultStop = _ from by delta State.faultStop; rfl]
  extract_lets +onlyGivenNames -underBinder -merge x1
  try clear_value x1
  extract_lets +onlyGivenNames -underBinder -merge x2
  have h2 : Keeps s0 x2 := by
    subst x2
    refine keeps_faultStopOne ?_
    assumption
  try clear_value x2
  refine keeps_ite ?_ ?_
  · refine keeps_leadLoss ?_
    assumption
  · assumption

theorem keeps_faultStopAny {s0 : State} {s : State} {n cause : Nat} (hK : Keeps s0 s) :
    Keeps s0 (State.faultStopAny s n cause) := by
  rw [show @State.faultStopAny = _ from by delta State.faultStopAny; rfl]
  refine keeps_ite ?_ ?_
  · refine keeps_setCrew ?_
    assumption
  · refine keeps_faultStop ?_
    assumption

theorem keeps_crewSafe {s0 : State} {s : State} {n : Nat} (hK : Keeps s0 s) :
    Keeps s0 (State.crewSafe s n) := by
  rw [show @State.crewSafe = _ from by delta State.crewSafe; rfl]
  extract_lets +onlyGivenNames -underBinder -merge x1
  try clear_value x1
  refine keeps_ite ?_ ?_
  · assumption
  · extract_lets +onlyGivenNames -underBinder -merge x2
    have h2 : Keeps s0 x2 := by
      subst x2
      refine keeps_ite ?_ ?_
      · refine keeps_crewOff ?_
        assumption
      · assumption
    try clear_value x2
    extract_lets +onlyGivenNames -underBinder -merge x3
    try clear_value x3
    extract_lets +onlyGivenNames -underBinder -merge x4
    have h4 : Keeps s0 x4 := by
      subst x4
      refine keeps_setCrew ?_
      assumption
    try clear_value x4
    extract_lets +onlyGivenNames -underBinder -merge x5
    have h5 : Keeps s0 x5 := by
      subst x5
      refine keeps_setCrewState ?_
      assumption
    try clear_value x5
    extract_lets +onlyGivenNames -underBinder -merge x6
    have h6 : Keeps s0 x6 := by
      subst x6
      refine keeps_profCrewState ?_
      assumption
    try clear_value x6
    extract_lets +onlyGivenNames -underBinder -merge x7
    have h7 : Keeps s0 x7 := by
      subst x7
      refine keeps_endLane ?_
      assumption
    try clear_value x7
    refine keeps_ite ?_ ?_
    · refine keeps_leadLoss ?_
      assumption
    · assumption

theorem keeps_setRate {s0 : State} {s : State} {n : Nat} (hK : Keeps s0 s) :
    Keeps s0 (State.setRate s n) := by
  rw [show @State.setRate = _ from by delta State.setRate; rfl]
  refine keeps_wr ?_
  assumption

theorem keeps_setJoin {s0 : State} {s : State} {n j : Nat} (hK : Keeps s0 s) :
    Keeps s0 (State.setJoin s n j) := by
  rw [show @State.setJoin = _ from by delta State.setJoin; rfl]
  extract_lets +onlyGivenNames -underBinder -merge x1
  try clear_value x1
  extract_lets +onlyGivenNames -underBinder -merge x2
  have h2 : Keeps s0 x2 := by
    subst x2
    refine keeps_setBitAt ?_
    assumption
  try clear_value x2
  extract_lets +onlyGivenNames -underBinder -merge x3
  have h3 : Keeps s0 x3 := by
    subst x3
    refine keeps_setRate ?_
    refine keeps_put ?_
    assumption
  try clear_value x3
  refine keeps_raise ?_
  refine keeps_loopN (fun a4_0 y4 h4 => ?_) ?_
  · refine keeps_wr ?_
    assumption
  · assumption

theorem keeps_setFail {s0 : State} {s : State} {n j : Nat} (hK : Keeps s0 s) :
    Keeps s0 (State.setFail s n j) := by
  rw [show @State.setFail = _ from by delta State.setFail; rfl]
  refine keeps_ite ?_ ?_
  · assumption
  · extract_lets +onlyGivenNames -underBinder -merge x1
    have h1 : Keeps s0 x1 := by
      subst x1
      refine keeps_setBitAt ?_
      assumption
    try clear_value x1
    extract_lets +onlyGivenNames -underBinder -merge x2
    have h2 : Keeps s0 x2 := by
      subst x2
      refine keeps_put ?_
      assumption
    try clear_value x2
    extract_lets +onlyGivenNames -underBinder -merge x3
    have h3 : Keeps s0 x3 := by
      subst x3
      refine keeps_setRate ?_
      assumption
    try clear_value x3
    extract_lets +onlyGivenNames -underBinder -merge x4
    have h4 : Keeps s0 x4 := by
      subst x4
      refine keeps_raise ?_
      assumption
    try clear_value x4
    extract_lets +onlyGivenNames -underBinder -merge x5
    have h5 : Keeps s0 x5 := by
      subst x5
      refine keeps_fault ?_
      assumption
    try clear_value x5
    extract_lets +onlyGivenNames -underBinder -merge x6
    try clear_value x6
    extract_lets +onlyGivenNames -underBinder -merge x7
    have h7 : Keeps s0 x7 := by
      subst x7
      refine keeps_setCrew ?_
      assumption
    try clear_value x7
    extract_lets +onlyGivenNames -underBinder -merge x8
    try clear_value x8
    refine keeps_ite ?_ ?_
    · assumption
    · refine keeps_ite ?_ ?_
      · refine keeps_faultStop ?_
        refine keeps_fault ?_
        assumption
      · refine keeps_faultStop ?_
        assumption

theorem keeps_tileSetsFail {s0 : State} {s : State} {k : Nat} (hK : Keeps s0 s) :
    Keeps s0 (State.tileSetsFail s k) := by
  rw [show @State.tileSetsFail = _ from by delta State.tileSetsFail; rfl]
  refine keeps_loopN (fun a1_0 y1 h1 => ?_) ?_
  · refine keeps_loopN (fun a2_0 y2 h2 => ?_) ?_
    · refine keeps_ite ?_ ?_
      · refine keeps_setFail ?_
        assumption
      · assumption
    · assumption
  · assumption

theorem keeps_legSetFails {s0 : State} {s : State} {x : Nat} (hK : Keeps s0 s) :
    Keeps s0 (State.legSetFails s x) := by
  rw [show @State.legSetFails = _ from by delta State.legSetFails; rfl]
  split
  · split
    · refine keeps_setFail ?_
      assumption
    · assumption
  · assumption

theorem keeps_legLasting {s0 : State} {s : State} {x : Nat} (hK : Keeps s0 s) :
    Keeps s0 (State.legLasting s x) := by
  rw [show @State.legLasting = _ from by delta State.legLasting; rfl]
  refine keeps_setLeg ?_
  refine keeps_putB ?_
  assumption

end Sys2Proof.Machine
end

