-- ==== Sys2Proof/Laws/KeepsEngine.lean ====
section
/-! SUPPORT. Laws/KeepsEngine.lean: what the operations of Machine/Engine.lean keep. -/
namespace Sys2Proof.Machine

theorem keeps_showPairs {s0 : State} {s : State} (hK : Keeps s0 s) :
    Keeps s0 (State.showPairs s) := by
  rw [show @State.showPairs = _ from by delta State.showPairs; rfl]
  extract_lets +onlyGivenNames -underBinder -merge x1
  have h1 : Keeps s0 x1 := by
    subst x1
    refine keeps_loopN (fun a2_0 y2 h2 => ?_) ?_
    · extract_lets +onlyGivenNames -underBinder -merge x3
      try clear_value x3
      refine keeps_put ?_
      assumption
    · assumption
  try clear_value x1
  split
  · refine keeps_putB ?_
    refine keeps_put ?_
    assumption
  · refine keeps_putB ?_
    assumption

theorem keeps_setPairSt {s0 : State} {s : State} {p st : Nat} (hK : Keeps s0 s) :
    Keeps s0 (State.setPairSt s p st) := by
  rw [show @State.setPairSt = _ from by delta State.setPairSt; rfl]
  refine keeps_showPairs ?_
  refine keeps_put ?_
  assumption

theorem keeps_startInitial {s0 : State} {s : State} {key : Nat} (hK : Keeps s0 s) :
    Keeps s0 (State.startInitial s key) := by
  rw [show @State.startInitial = _ from by delta State.startInitial; rfl]
  extract_lets +onlyGivenNames -underBinder -merge x1
  try clear_value x1
  split
  · refine keeps_setTask ?_
    assumption

theorem keeps_endActivation {s0 : State} {s : State} {key : Nat} {clean : Bool} (hK : Keeps s0 s) :
    Keeps s0 (State.endActivation s key clean) := by
  rw [show @State.endActivation = _ from by delta State.endActivation; rfl]
  extract_lets +onlyGivenNames -underBinder -merge x1
  try clear_value x1
  extract_lets +onlyGivenNames -underBinder -merge x2
  try clear_value x2
  extract_lets +onlyGivenNames -underBinder -merge x3
  try clear_value x3
  refine keeps_ite ?_ ?_
  · extract_lets +onlyGivenNames -underBinder -merge x4
    have h4 : Keeps s0 x4 := by
      subst x4
      refine keeps_setTask ?_
      assumption
    try clear_value x4
    extract_lets +onlyGivenNames -underBinder -merge x5
    have h5 : Keeps s0 x5 := by
      subst x5
      refine keeps_fault ?_
      assumption
    try clear_value x5
    extract_lets +onlyGivenNames -underBinder -merge x6
    have h6 : Keeps s0 x6 := by
      subst x6
      refine keeps_ite ?_ ?_
      · refine keeps_endLaneRunning ?_
        assumption
      · assumption
    try clear_value x6
    refine keeps_ite ?_ ?_
    · refine keeps_faultStop ?_
      assumption
    · assumption
  · refine keeps_ite ?_ ?_
    · refine keeps_setTask ?_
      assumption
    · refine keeps_setTask ?_
      assumption

theorem keeps_trap {s0 : State} {s : State} {key code soft : Nat} {tval : Word} (hK : Keeps s0 s) :
    Keeps s0 (State.trap s key code soft tval) := by
  rw [show @State.trap = _ from by delta State.trap; rfl]
  extract_lets +onlyGivenNames -underBinder -merge x1
  try clear_value x1
  extract_lets +onlyGivenNames -underBinder -merge x2
  try clear_value x2
  extract_lets +onlyGivenNames -underBinder -merge x3
  try clear_value x3
  extract_lets +onlyGivenNames -underBinder -merge x4
  have h4 : Keeps s0 x4 := by
    subst x4
    refine keeps_setTask ?_
    assumption
  try clear_value x4
  extract_lets +onlyGivenNames -underBinder -merge x5
  have h5 : Keeps s0 x5 := by
    subst x5
    refine keeps_fault ?_
    assumption
  try clear_value x5
  extract_lets +onlyGivenNames -underBinder -merge x6
  have h6 : Keeps s0 x6 := by
    subst x6
    refine keeps_ite ?_ ?_
    · refine keeps_endLaneRunning ?_
      assumption
    · assumption
  try clear_value x6
  refine keeps_endActivation ?_
  assumption

theorem keeps_pendEvent {s0 : State} {s : State} {key : Nat} (hK : Keeps s0 s) :
    Keeps s0 (State.pendEvent s key) := by
  rw [show @State.pendEvent = _ from by delta State.pendEvent; rfl]
  extract_lets +onlyGivenNames -underBinder -merge x1
  try clear_value x1
  refine keeps_ite ?_ ?_
  · refine keeps_setTask ?_
    assumption
  · refine keeps_ite ?_ ?_
    · refine keeps_fault ?_
      refine keeps_setTask ?_
      assumption
    · refine keeps_ite ?_ ?_
      · refine keeps_setTask ?_
        assumption
      · assumption

theorem keeps_deliver {s0 : State} {s : State} {key : Nat} (hK : Keeps s0 s) :
    Keeps s0 (State.deliver s key) := by
  rw [show @State.deliver = _ from by delta State.deliver; rfl]
  extract_lets +onlyGivenNames -underBinder -merge x1
  try clear_value x1
  extract_lets +onlyGivenNames -underBinder -merge x2
  try clear_value x2
  extract_lets +onlyGivenNames -underBinder -merge x3
  try clear_value x3
  refine keeps_ite ?_ ?_
  · assumption
  · refine keeps_ite ?_ ?_
    · refine keeps_ite ?_ ?_
      · refine keeps_pendEvent ?_
        assumption
      · assumption
    · split
      · refine keeps_setTask ?_
        assumption
      · refine keeps_ite ?_ ?_
        · refine keeps_pendEvent ?_
          assumption
        · assumption

theorem keeps_servePend {s0 : State} {s : State} (hK : Keeps s0 s) :
    Keeps s0 (State.servePend s) := by
  rw [show @State.servePend = _ from by delta State.servePend; rfl]
  refine keeps_loopL (fun a1_0 y1 h1 => ?_) ?_
  · extract_lets +onlyGivenNames -underBinder -merge x2
    try clear_value x2
    extract_lets +onlyGivenNames -underBinder -merge x3
    try clear_value x3
    refine keeps_ite ?_ ?_
    · refine keeps_setTask ?_
      assumption
    · assumption
  · assumption

theorem keeps_signalEvent {s0 : State} {s : State} {a : Nat} (hK : Keeps s0 s) :
    Keeps s0 (State.signalEvent s a) := by
  rw [show @State.signalEvent = _ from by delta State.signalEvent; rfl]
  refine keeps_loopL (fun a1_0 y1 h1 => ?_) ?_
  · refine keeps_deliver ?_
    assumption
  · assumption

theorem keeps_runTask {s0 : State} {s : State} {key : Nat} (hK : Keeps s0 s) :
    Keeps s0 (State.runTask s key) := by
  rw [show @State.runTask = _ from by delta State.runTask; rfl]
  extract_lets +onlyGivenNames -underBinder -merge x1
  try clear_value x1
  refine keeps_setTask ?_
  assumption

theorem keeps_spend {s0 : State} {s : State} {p n : Nat} (hK : Keeps s0 s) :
    Keeps s0 (State.spend s p n) := by
  rw [show @State.spend = _ from by delta State.spend; rfl]
  refine keeps_setPair ?_
  assumption

theorem keeps_memRead {s0 : State} {s : State} {p : Nat} {d : Bool} {a n : Nat} (hK : Keeps s0 s) :
    OGoes s0 (State.memRead s p d a n) := by
  rw [show @State.memRead = _ from by delta State.memRead; rfl]
  extract_lets +onlyGivenNames -underBinder -merge x1
  try clear_value x1
  refine ogoes_ite ?_ ?_
  · exact ogoes_none
  · refine ogoes_ite ?_ ?_
    · extract_lets +onlyGivenNames -underBinder -merge x2
      try clear_value x2
      refine ogoes_some ?_
      refine keeps_addSat ?_
      refine keeps_setPair ?_
      assumption
    · refine ogoes_some ?_
      assumption

theorem keeps_memStore {s0 : State} {s : State} {p : Nat} {d : Bool} {a n : Nat} (hK : Keeps s0 s) :
    OGoes s0 (State.memStore s p d a n) := by
  rw [show @State.memStore = _ from by delta State.memStore; rfl]
  refine ogoes_ite ?_ ?_
  · extract_lets +onlyGivenNames -underBinder -merge x1
    try clear_value x1
    refine ogoes_some ?_
    refine keeps_setPair ?_
    assumption
  · refine keeps_memRead ?_
    assumption

theorem keeps_retire {s0 : State} {s : State} {p key : Nat} {c : Ctx} {cyc : Nat} (hK : Keeps s0 s) :
    Keeps s0 (State.retire s p key c cyc) := by
  rw [show @State.retire = _ from by delta State.retire; rfl]
  extract_lets +onlyGivenNames -underBinder -merge x1
  try clear_value x1
  extract_lets +onlyGivenNames -underBinder -merge x2
  have h2 : Keeps s0 x2 := by
    subst x2
    refine keeps_setPair ?_
    assumption
  try clear_value x2
  refine keeps_setTask ?_
  assumption

theorem keeps_claimEnd {s0 : State} {s : State} {p : Nat} {r : ClaimRes} {res : Nat} (hK : Keeps s0 s) :
    Keeps s0 (State.claimEnd s p r res) := by
  rw [show @State.claimEnd = _ from by delta State.claimEnd; rfl]
  extract_lets +onlyGivenNames -underBinder -merge x1
  try clear_value x1
  extract_lets +onlyGivenNames -underBinder -merge x2
  have h2 : Keeps s0 x2 := by
    subst x2
    refine keeps_setPair ?_
    assumption
  try clear_value x2
  split
  · assumption
  · split
    · split
      · rename_i heq
        have h3 := keeps_of_eqP (s0 := s0) heq (by
          refine keeps_freeIn ?_
          assumption)
        refine keeps_retire ?_
        assumption
    · refine keeps_trap ?_
      assumption
    · refine keeps_trap ?_
      assumption
    · refine keeps_trap ?_
      assumption

theorem keeps_takeClaim {s0 : State} {s : State} (hK : Keeps s0 s) :
    Keeps s0 (State.takeClaim s) := by
  rw [show @State.takeClaim = _ from by delta State.takeClaim; rfl]
  split
  · assumption
  · extract_lets +onlyGivenNames -underBinder -merge x1
    have h1 : Keeps s0 x1 := by
      subst x1
      refine keeps_mk ?_
      assumption
    try clear_value x1
    split
    · rename_i heq
      have h2 := keeps_of_eqP (s0 := s0) heq (by
        refine keeps_claimOp ?_
        assumption)
      extract_lets +onlyGivenNames -underBinder -merge x3
      have h3 : Keeps s0 x3 := by
        subst x3
        refine keeps_trainPorts ?_
        refine keeps_auxShow ?_
        assumption
      try clear_value x3
      extract_lets +onlyGivenNames -underBinder -merge x4
      have h4 : Keeps s0 x4 := by
        subst x4
        refine keeps_ite ?_ ?_
        · refine keeps_put ?_
          refine keeps_put ?_
          refine keeps_putB ?_
          assumption
        · assumption
      try clear_value x4
      split
      · refine keeps_ite ?_ ?_
        · refine keeps_claimEnd ?_
          assumption
        · assumption
      · refine keeps_ite ?_ ?_
        · assumption
        · refine keeps_fault ?_
          assumption

theorem keeps_settleClaim {s0 : State} {s : State} {p : Nat} (hK : Keeps s0 s) :
    Keeps s0 (State.settleClaim s p) := by
  rw [show @State.settleClaim = _ from by delta State.settleClaim; rfl]
  refine keeps_loopN (fun a1_0 y1 h1 => ?_) ?_
  · refine keeps_ite ?_ ?_
    · refine keeps_takeClaim ?_
      assumption
    · assumption
  · assumption

theorem keeps_loseTasks {s0 : State} {s : State} {home : Nat} (hK : Keeps s0 s) :
    Keeps s0 (State.loseTasks s home) := by
  rw [show @State.loseTasks = _ from by delta State.loseTasks; rfl]
  refine keeps_loopL (fun a1_0 y1 h1 => ?_) ?_
  · extract_lets +onlyGivenNames -underBinder -merge x2
    try clear_value x2
    extract_lets +onlyGivenNames -underBinder -merge x3
    have h3 : Keeps s0 x3 := by
      subst x3
      refine keeps_ite ?_ ?_
      · refine keeps_endLaneRunning ?_
        assumption
      · assumption
    try clear_value x3
    refine keeps_ite ?_ ?_
    · assumption
    · refine keeps_setTask ?_
      assumption
  · assumption

theorem keeps_selfTestFail {s0 : State} {s : State} {p : Nat} (hK : Keeps s0 s) :
    Keeps s0 (State.selfTestFail s p) := by
  rw [show @State.selfTestFail = _ from by delta State.selfTestFail; rfl]
  refine keeps_fault ?_
  refine keeps_setPairSt ?_
  refine keeps_setPair ?_
  assumption

theorem keeps_takeOver {s0 : State} {s : State} {p home : Nat} (hK : Keeps s0 s) :
    Keeps s0 (State.takeOver s p home) := by
  rw [show @State.takeOver = _ from by delta State.takeOver; rfl]
  split
  · extract_lets +onlyGivenNames -underBinder -merge x1
    try clear_value x1
    extract_lets +onlyGivenNames -underBinder -merge x2
    have h2 : Keeps s0 x2 := by
      subst x2
      refine keeps_setPair ?_
      assumption
    try clear_value x2
    extract_lets +onlyGivenNames -underBinder -merge x3
    have h3 : Keeps s0 x3 := by
      subst x3
      refine keeps_put ?_
      assumption
    try clear_value x3
    extract_lets +onlyGivenNames -underBinder -merge x4
    have h4 : Keeps s0 x4 := by
      subst x4
      refine keeps_put ?_
      assumption
    try clear_value x4
    extract_lets +onlyGivenNames -underBinder -merge x5
    have h5 : Keeps s0 x5 := by
      subst x5
      refine keeps_put ?_
      assumption
    try clear_value x5
    refine keeps_setPairSt ?_
    assumption
  · extract_lets +onlyGivenNames -underBinder -merge x6
    try clear_value x6
    extract_lets +onlyGivenNames -underBinder -merge x7
    have h7 : Keeps s0 x7 := by
      subst x7
      refine keeps_loseTasks ?_
      assumption
    try clear_value x7
    extract_lets +onlyGivenNames -underBinder -merge x8
    have h8 : Keeps s0 x8 := by
      subst x8
      refine keeps_put ?_
      assumption
    try clear_value x8
    extract_lets +onlyGivenNames -underBinder -merge x9
    have h9 : Keeps s0 x9 := by
      subst x9
      refine keeps_put ?_
      assumption
    try clear_value x9
    extract_lets +onlyGivenNames -underBinder -merge x10
    have h10 : Keeps s0 x10 := by
      subst x10
      refine keeps_fault ?_
      assumption
    try clear_value x10
    refine keeps_loopL (fun a11_0 y11 h11 => ?_) ?_
    · refine keeps_faultStop ?_
      refine keeps_setCrew ?_
      assumption
    · assumption

theorem keeps_fencePair {s0 : State} {s : State} {p code : Nat} (hK : Keeps s0 s) :
    Keeps s0 (State.fencePair s p code) := by
  rw [show @State.fencePair = _ from by delta State.fencePair; rfl]
  extract_lets +onlyGivenNames -underBinder -merge x1
  try clear_value x1
  extract_lets +onlyGivenNames -underBinder -merge x2
  have h2 : Keeps s0 x2 := by
    subst x2
    refine keeps_incSat ?_
    assumption
  try clear_value x2
  extract_lets +onlyGivenNames -underBinder -merge x3
  have h3 : Keeps s0 x3 := by
    subst x3
    refine keeps_fault ?_
    assumption
  try clear_value x3
  extract_lets +onlyGivenNames -underBinder -merge x4
  have h4 : Keeps s0 x4 := by
    subst x4
    split
    · refine keeps_ite ?_ ?_
      · refine keeps_put ?_
        refine keeps_mk ?_
        assumption
      · assumption
    · assumption
  try clear_value x4
  extract_lets +onlyGivenNames -underBinder -merge x5
  try clear_value x5
  extract_lets +onlyGivenNames -underBinder -merge x6
  have h6 : Keeps s0 x6 := by
    subst x6
    refine keeps_setPair ?_
    assumption
  try clear_value x6
  extract_lets +onlyGivenNames -underBinder -merge x7
  have h7 : Keeps s0 x7 := by
    subst x7
    refine keeps_setPairSt ?_
    assumption
  try clear_value x7
  extract_lets +onlyGivenNames -underBinder -merge x8
  have h8 : Keeps s0 x8 := by
    subst x8
    refine keeps_loopL (fun a9_0 y9 h9 => ?_) ?_
    · extract_lets +onlyGivenNames -underBinder -merge x10
      try clear_value x10
      refine keeps_ite ?_ ?_
      · refine keeps_endLaneRunning ?_
        assumption
      · assumption
    · assumption
  try clear_value x8
  extract_lets +onlyGivenNames -underBinder -merge x11
  have h11 : Keeps s0 x11 := by
    subst x11
    refine keeps_loopL (fun a12_0 y12 h12 => ?_) ?_
    · refine keeps_profFreeze ?_
      refine keeps_setCrew ?_
      assumption
    · assumption
  try clear_value x11
  refine keeps_takeOver ?_
  assumption

theorem keeps_pairFault {s0 : State} {s : State} {p code : Nat} (hK : Keeps s0 s) :
    Keeps s0 (State.pairFault s p code) := by
  rw [show @State.pairFault = _ from by delta State.pairFault; rfl]
  extract_lets +onlyGivenNames -underBinder -merge x1
  try clear_value x1
  refine keeps_ite ?_ ?_
  · assumption
  · refine keeps_ite ?_ ?_
    · refine keeps_fencePair ?_
      assumption
    · refine keeps_ite ?_ ?_
      · refine keeps_selfTestFail ?_
        refine keeps_incSat ?_
        assumption
      · assumption

theorem keeps_buildMem {s0 s t : State} {p home : Nat} (e : State.buildMem s p home = some t) (h : Keeps s0 s) : Keeps s0 t := by
  unfold State.buildMem at e
  dsimp only at e
  split at e
  · exact absurd e (by simp)
  · injection e with e
    subst e
    exact keeps_setPair h

end Sys2Proof.Machine
end

