-- ==== Sys2Proof/Laws/KeepsFieldOps.lean ====
section
/-! SUPPORT. Laws/KeepsFieldOps.lean: what the operations of Machine/FieldOps.lean keep. -/
namespace Sys2Proof.Machine

theorem keeps_subSend {s0 : State} {s : State} {a : Nat} (hK : Keeps s0 s) :
    Keeps s0 (State.subSend s a) := by
  rw [show @State.subSend = _ from by delta State.subSend; rfl]
  extract_lets +onlyGivenNames -underBinder -merge x1
  have h1 : Keeps s0 x1 := by
    subst x1
    refine keeps_mk ?_
    assumption
  try clear_value x1
  refine keeps_event ?_
  assumption

theorem keeps_subChange {s0 : State} {s : State} {a : Nat} (hK : Keeps s0 s) :
    Keeps s0 (State.subChange s a) := by
  rw [show @State.subChange = _ from by delta State.subChange; rfl]
  refine keeps_ite ?_ ?_
  · assumption
  · refine keeps_ite ?_ ?_
    · refine keeps_subSend ?_
      assumption
    · refine keeps_mk ?_
      assumption

theorem keeps_sigChanged {s0 : State} {s : State} {a : Nat} (hK : Keeps s0 s) :
    Keeps s0 (State.sigChanged s a) := by
  rw [show @State.sigChanged = _ from by delta State.sigChanged; rfl]
  refine keeps_subChange ?_
  refine keeps_signalEvent ?_
  assumption

theorem keeps_execSubscriptionReport {s0 : State} {a : BitVec 20} {s : State} (hK : Keeps s0 s) :
    Goes s0 (execSubscriptionReport a s) := by
  rw [show @execSubscriptionReport = _ from by delta execSubscriptionReport; rfl]
  extract_lets +onlyGivenNames -underBinder -merge x1
  try clear_value x1
  refine goes_ite ?_ ?_
  · refine goes_next ?_
    refine keeps_subSend ?_
    refine keeps_until ?_
    assumption
  · refine goes_next ?_
    assumption

theorem keeps_sigTouch {s0 : State} {s : State} {a : Nat} (hK : Keeps s0 s) :
    Keeps s0 (State.sigTouch s a) := by
  rw [show @State.sigTouch = _ from by delta State.sigTouch; rfl]
  extract_lets +onlyGivenNames -underBinder -merge x1
  have h1 : Keeps s0 x1 := by
    subst x1
    refine keeps_correctCe ?_
    assumption
  try clear_value x1
  refine keeps_ite ?_ ?_
  · extract_lets +onlyGivenNames -underBinder -merge x2
    have h2 : Keeps s0 x2 := by
      subst x2
      refine keeps_mk ?_
      assumption
    try clear_value x2
    extract_lets +onlyGivenNames -underBinder -merge x3
    try clear_value x3
    extract_lets +onlyGivenNames -underBinder -merge x4
    have h4 : Keeps s0 x4 := by
      subst x4
      refine keeps_setSig ?_
      refine keeps_fault ?_
      assumption
    try clear_value x4
    refine keeps_sigChanged ?_
    assumption
  · assumption

theorem keeps_sigUpdate {s0 : State} {s : State} {a : Nat} {v : Word} {q typ : Nat} {path : Bool} (hK : Keeps s0 s) :
    Keeps s0 (State.sigUpdate s a v q typ path) := by
  rw [show @State.sigUpdate = _ from by delta State.sigUpdate; rfl]
  extract_lets +onlyGivenNames -underBinder -merge x1
  have h1 : Keeps s0 x1 := by
    subst x1
    refine keeps_sigTouch ?_
    assumption
  try clear_value x1
  extract_lets +onlyGivenNames -underBinder -merge x2
  try clear_value x2
  extract_lets +onlyGivenNames -underBinder -merge x3
  try clear_value x3
  extract_lets +onlyGivenNames -underBinder -merge x4
  have h4 : Keeps s0 x4 := by
    subst x4
    refine keeps_setSig ?_
    assumption
  try clear_value x4
  refine keeps_ite ?_ ?_
  · refine keeps_sigChanged ?_
    assumption
  · assumption

theorem keeps_sigWrite {s0 : State} {s : State} {a : Nat} {v : Word} (hK : Keeps s0 s) :
    Keeps s0 (State.sigWrite s a v).2 := by
  rw [show @State.sigWrite = _ from by delta State.sigWrite; rfl]
  extract_lets +onlyGivenNames -underBinder -merge x1
  try clear_value x1
  extract_lets +onlyGivenNames -underBinder -merge x2
  try clear_value x2
  extract_lets +onlyGivenNames -underBinder -merge x3
  try clear_value x3
  extract_lets +onlyGivenNames -underBinder -merge x4
  try clear_value x4
  extract_lets +onlyGivenNames -underBinder -merge x5
  try clear_value x5
  extract_lets +onlyGivenNames -underBinder -merge x6
  try clear_value x6
  refine keeps_iteP ?_ ?_
  · refine keeps_snd ?_
    refine keeps_fault ?_
    refine keeps_incSat ?_
    assumption
  · extract_lets +onlyGivenNames -underBinder -merge x7
    have h7 : Keeps s0 x7 := by
      subst x7
      refine keeps_sigTouch ?_
      assumption
    try clear_value x7
    extract_lets +onlyGivenNames -underBinder -merge x8
    try clear_value x8
    extract_lets +onlyGivenNames -underBinder -merge x9
    have h9 : Keeps s0 x9 := by
      subst x9
      refine keeps_setSig ?_
      assumption
    try clear_value x9
    refine keeps_snd ?_
    refine keeps_ite ?_ ?_
    · assumption
    · refine keeps_sigChanged ?_
      assumption

theorem keeps_sigSweep {s0 : State} {s : State} {a : Nat} (hK : Keeps s0 s) :
    Keeps s0 (State.sigSweep s a) := by
  rw [show @State.sigSweep = _ from by delta State.sigSweep; rfl]
  extract_lets +onlyGivenNames -underBinder -merge x1
  have h1 : Keeps s0 x1 := by
    subst x1
    refine keeps_sigTouch ?_
    assumption
  try clear_value x1
  extract_lets +onlyGivenNames -underBinder -merge x2
  try clear_value x2
  refine keeps_ite ?_ ?_
  · refine keeps_setSig ?_
    assumption
  · assumption

theorem keeps_execSignalMapSweep {s0 : State} {s : State} (hK : Keeps s0 s) :
    Goes s0 (execSignalMapSweep s) := by
  rw [show @execSignalMapSweep = _ from by delta execSignalMapSweep; rfl]
  extract_lets +onlyGivenNames -underBinder -merge x1
  have h1 : Keeps s0 x1 := by
    subst x1
    refine keeps_until ?_
    assumption
  try clear_value x1
  refine goes_next ?_
  refine keeps_loopL (fun a2_0 y2 h2 => ?_) ?_
  · refine keeps_sigSweep ?_
    assumption
  · refine keeps_mk ?_
    assumption

theorem keeps_execFieldSwrV {s0 : State} {v : Word} {s : State} (hK : Keeps s0 s) :
    Goes s0 (execFieldSwrV v s) := by
  rw [show @execFieldSwrV = _ from by delta execFieldSwrV; rfl]
  refine keeps_onRegW (fun a1_0 y1 h1 => ?_) ?_
  · refine goes_next ?_
    refine keeps_sigWrite ?_
    assumption
  · assumption

theorem keeps_execMapStore {s0 : State} {s : State} (hK : Keeps s0 s) :
    Goes s0 (execMapStore s) := by
  rw [show @execMapStore = _ from by delta execMapStore; rfl]
  refine goes_next ?_
  refine keeps_fault ?_
  assumption

theorem keeps_fieldClear {s0 : State} {s : State} (hK : Keeps s0 s) :
    Keeps s0 (State.fieldClear s) := by
  rw [show @State.fieldClear = _ from by delta State.fieldClear; rfl]
  extract_lets +onlyGivenNames -underBinder -merge x1
  have h1 : Keeps s0 x1 := by
    subst x1
    refine keeps_put ?_
    assumption
  try clear_value x1
  refine keeps_loopN (fun a2_0 y2 h2 => ?_) ?_
  · refine keeps_loopL (fun a3_0 y3 h3 => ?_) ?_
    · refine keeps_put ?_
      assumption
    · assumption
  · assumption

theorem keeps_execFieldClr {s0 : State} {cnt : Bool} {s : State} (hK : Keeps s0 s) :
    Goes s0 (execFieldClr cnt s) := by
  rw [show @execFieldClr = _ from by delta execFieldClr; rfl]
  refine goes_onReg (fun y1 h1 => ?_) ?_
  · refine goes_next ?_
    refine keeps_ite ?_ ?_
    · refine keeps_fieldClear ?_
      assumption
    · assumption
  · assumption

end Sys2Proof.Machine
end

