-- ==== Sys2Proof/Laws/KeepsMaintOps.lean ====
section
/-! SUPPORT. Laws/KeepsMaintOps.lean: what the operations of Machine/MaintOps.lean keep. -/
namespace Sys2Proof.Machine

theorem keeps_showLockQ {s0 : State} {l : List MaintReq} {s : State} {k : Nat} (hK : Keeps s0 s) :
    Keeps s0 (showLockQ l s k) := by
  rw [show @showLockQ = _ from by delta showLockQ; rfl]
  split
  · refine keeps_put ?_
    refine keeps_put ?_
    refine keeps_putB ?_
    assumption
  · refine keeps_wr ?_
    assumption

theorem keeps_showLock {s0 : State} {s : State} (hK : Keeps s0 s) :
    Keeps s0 (State.showLock s) := by
  rw [show @State.showLock = _ from by delta State.showLock; rfl]
  refine keeps_foldl (fun y1 a1_1 h1 => ?_) ?_
  · refine keeps_showLockQ ?_
    assumption
  · refine keeps_put ?_
    refine keeps_put ?_
    refine keeps_put ?_
    assumption

theorem keeps_maintStart {s0 : State} {s : State} {r : MaintReq} (hK : Keeps s0 s) :
    Keeps s0 (State.maintStart s r) := by
  rw [show @State.maintStart = _ from by delta State.maintStart; rfl]
  extract_lets +onlyGivenNames -underBinder -merge x1
  have h1 : Keeps s0 x1 := by
    subst x1
    split
    · refine keeps_put ?_
      assumption
    · assumption
  try clear_value x1
  refine keeps_showLock ?_
  refine keeps_logRec ?_
  refine keeps_mk ?_
  assumption

theorem keeps_maintSubmit {s0 : State} {s : State} {r : MaintReq} (hK : Keeps s0 s) :
    Keeps s0 (State.maintSubmit s r).2 := by
  rw [show @State.maintSubmit = _ from by delta State.maintSubmit; rfl]
  extract_lets +onlyGivenNames -underBinder -merge x1
  try clear_value x1
  split
  · refine keeps_snd ?_
    assumption
  · split
    · refine keeps_snd ?_
      refine keeps_maintStart ?_
      assumption
    · split
      · refine keeps_snd ?_
        refine keeps_showLock ?_
        refine keeps_setMaintQ ?_ ?_
        · exact fun _ => by rw [List.length_append, List.length_singleton]; omega
        · assumption
      · refine keeps_snd ?_
        assumption

theorem maintQ_foldl {α : Type} {f : State → α → State} (hf : ∀ x a, (f x a).maintQ = x.maintQ) (l : List α) (s : State) :
    (l.foldl f s).maintQ = s.maintQ := by
  induction l generalizing s with
  | nil => rfl
  | cons a r ih => exact (ih _).trans (hf _ _)

theorem put_maintQ (s : State) (f : Fld) (v : Nat) : (s.put f v).maintQ = s.maintQ := rfl

theorem putB_maintQ (s : State) (f : Fld) (b : Bool) : (s.putB f b).maintQ = s.maintQ := rfl
theorem wr_maintQ (s : State) (a : Nat) (v : Word) : (s.wr a v).maintQ = s.maintQ := rfl

theorem maintQ_showLockQ (l : List MaintReq) (s : State) (k : Nat) : (showLockQ l s k).maintQ = s.maintQ := by
  unfold showLockQ
  split
  · exact ((put_maintQ _ _ _).trans (put_maintQ _ _ _)).trans (putB_maintQ _ _ _)
  · exact wr_maintQ _ _ _

theorem maintQ_showLock (s : State) : s.showLock.maintQ = s.maintQ :=
  (maintQ_foldl (maintQ_showLockQ _) _ _).trans (((put_maintQ _ _ _).trans (put_maintQ _ _ _)).trans (put_maintQ _ _ _))

theorem maintQ_maintStart (s : State) (r : MaintReq) : (s.maintStart r).maintQ = s.maintQ := by
  unfold State.maintStart
  refine (maintQ_showLock _).trans ?_
  unfold State.logRec
  dsimp only
  split <;> split <;> rfl

theorem keeps_maintScan {s0 s : State} (h : Keeps s0 s) : Keeps s0 s.maintScan := by
  have key : ∀ (l : List MaintReq) (x : State), Keeps s0 x → (s0.Inv → x.maintQ.length + l.length ≤ 4) →
      Keeps s0 (l.foldl (fun (s : State) r => if (s.maintRun ++ s.maintQ).any (maintConflict r)
        then { s with maintQ := s.maintQ ++ [r] } else s.maintStart r) x) := by
    intro l
    induction l with
    | nil => exact fun x hx _ => hx
    | cons r l ih =>
      intro x hx hl
      rw [List.foldl_cons]
      split
      · refine ih _ ?_ ?_
        · refine ⟨hx.pending, hx.now, hx.freeCount, fun i => ?_⟩
          have j := hx.inv i
          have := hl i
          refine ⟨j.mem, j.regs, j.faults, j.logBuf, ?_, j.mpRx, j.reasm, j.accHist⟩
          simp only [List.length_cons, List.length_append, List.length_nil] at *
          omega
        · intro i
          have := hl i
          simp only [List.length_cons, List.length_append, List.length_nil] at *
          omega
      · refine ih _ (keeps_maintStart hx) (fun i => ?_)
        have := hl i
        rw [maintQ_maintStart]
        simp only [List.length_cons] at *
        omega
  unfold State.maintScan
  refine keeps_showLock (key _ _ (keeps_setMaintQ (fun _ => Nat.zero_le _) h) (fun i => ?_))
  have := (h.inv i).maintQ
  simpa using this

theorem keeps_maintSet {s0 : State} {s : State} {act crew : Nat} {f : MaintReq → MaintReq} (hK : Keeps s0 s) :
    Keeps s0 (State.maintSet s act crew f) := by
  rw [show @State.maintSet = _ from by delta State.maintSet; rfl]
  refine keeps_mk ?_
  assumption

theorem keeps_addChunks {s0 : State} {s : State} {owner addr : Nat} {l : List Byte} (hK : Keeps s0 s) :
    Keeps s0 (State.addChunks s owner addr l) := by
  rw [show @State.addChunks = _ from by delta State.addChunks; rfl]
  refine keeps_mk ?_
  assumption

theorem keeps_setWindow {s0 : State} {s : State} {b : Bool} (hK : Keeps s0 s) :
    Keeps s0 (State.setWindow s b) := by
  rw [show @State.setWindow = _ from by delta State.setWindow; rfl]
  refine keeps_putB ?_
  refine keeps_putB ?_
  refine keeps_putB ?_
  assumption

theorem keeps_askCompaction {s0 : State} {s : State} (hK : Keeps s0 s) :
    Keeps s0 (State.askCompaction s) := by
  rw [show @State.askCompaction = _ from by delta State.askCompaction; rfl]
  refine keeps_ite ?_ ?_
  · refine keeps_maintSubmit ?_
    assumption
  · assumption

end Sys2Proof.Machine
end

