-- ==== Sys2Proof/Laws/KeepsPairs.lean ====
section
/-! SUPPORT. Laws/KeepsPairs.lean: what the operations of Machine/Pairs.lean keep. -/
namespace Sys2Proof.Machine

theorem keeps_execSeMismatch {s0 : State} {p : PairNo} {s : State} (hK : Keeps s0 s) :
    Goes s0 (execSeMismatch p s) := by
  rw [show @execSeMismatch = _ from by delta execSeMismatch; rfl]
  refine goes_next ?_
  refine keeps_pairFault ?_
  assumption

theorem keeps_execSeMemUe {s0 : State} {p : PairNo} {s : State} (hK : Keeps s0 s) :
    Goes s0 (execSeMemUe p s) := by
  rw [show @execSeMemUe = _ from by delta execSeMemUe; rfl]
  refine goes_next ?_
  refine keeps_pairFault ?_
  assumption

theorem keeps_abandonRestore {s0 : State} {s : State} {q home : Nat} (hK : Keeps s0 s) :
    Keeps s0 (State.abandonRestore s q home) := by
  rw [show @State.abandonRestore = _ from by delta State.abandonRestore; rfl]
  extract_lets +onlyGivenNames -underBinder -merge x1
  try clear_value x1
  extract_lets +onlyGivenNames -underBinder -merge x2
  have h2 : Keeps s0 x2 := by
    subst x2
    refine keeps_fault ?_
    assumption
  try clear_value x2
  extract_lets +onlyGivenNames -underBinder -merge x3
  try clear_value x3
  extract_lets +onlyGivenNames -underBinder -merge x4
  have h4 : Keeps s0 x4 := by
    subst x4
    refine keeps_setPair ?_
    assumption
  try clear_value x4
  extract_lets +onlyGivenNames -underBinder -merge x5
  have h5 : Keeps s0 x5 := by
    subst x5
    refine keeps_setPairSt ?_
    refine keeps_put ?_
    assumption
  try clear_value x5
  extract_lets +onlyGivenNames -underBinder -merge x6
  have h6 : Keeps s0 x6 := by
    subst x6
    refine keeps_loseTasks ?_
    assumption
  try clear_value x6
  extract_lets +onlyGivenNames -underBinder -merge x7
  have h7 : Keeps s0 x7 := by
    subst x7
    refine keeps_loopL (fun a8_0 y8 h8 => ?_) ?_
    · refine keeps_faultStop ?_
      refine keeps_setCrew ?_
      assumption
    · assumption
  try clear_value x7
  refine keeps_put ?_
  assumption

theorem keeps_restoreCatch {s0 s : State} {q home key : Nat} (h : Keeps s0 s) : Keeps s0 (s.restoreCatch q home key).2.2 := by
  unfold State.restoreCatch
  dsimp only
  split
  · exact keeps_setCrew (keeps_setTask (keeps_setPair h))
  · refine keeps_ite (keeps_startInitial ?_) ?_ <;> exact keeps_faultStop (keeps_setCrew (keeps_fault h))

theorem keeps_restoreStep {s0 : State} {q home : Nat} {a : Nat × Bool × State} {k : Nat} (h : Keeps s0 a.2.2) :
    Keeps s0 (State.restoreStep q home a k).2.2 := by
  unfold State.restoreStep
  dsimp only
  exact keeps_restoreCatch h

theorem keeps_restoreFold {s0 : State} {q home : Nat} (l : List Nat) (a : Nat × Bool × State) (h : Keeps s0 a.2.2) :
    Keeps s0 (l.foldl (State.restoreStep q home) a).2.2 := by
  induction l generalizing a with
  | nil => exact h
  | cons k l ih =>
    rw [List.foldl_cons]
    exact ih _ (keeps_restoreStep h)

theorem keeps_restoreTasks {s0 s : State} {q home : Nat} (h : Keeps s0 s) : Keeps s0 (s.restoreTasks q home).2.2 := by
  unfold State.restoreTasks
  dsimp only
  exact keeps_loopL (fun _ _ h => keeps_startInitial h) (keeps_restoreFold _ _ h)

theorem keeps_restoreEnd {s0 : State} {s : State} {q home b : Nat} {stopped : Bool} (hK : Keeps s0 s) :
    Keeps s0 (State.restoreEnd s q home b stopped) := by
  rw [show @State.restoreEnd = _ from by delta State.restoreEnd; rfl]
  extract_lets +onlyGivenNames -underBinder -merge x1
  try clear_value x1
  extract_lets +onlyGivenNames -underBinder -merge x2
  have h2 : Keeps s0 x2 := by
    subst x2
    refine keeps_setPair ?_
    assumption
  try clear_value x2
  extract_lets +onlyGivenNames -underBinder -merge x3
  have h3 : Keeps s0 x3 := by
    subst x3
    refine keeps_loopL (fun a4_0 y4 h4 => ?_) ?_
    · refine keeps_ite ?_ ?_
      · assumption
      · refine keeps_profResume ?_
        refine keeps_setCrew ?_
        assumption
    · assumption
  try clear_value x3
  extract_lets +onlyGivenNames -underBinder -merge x5
  have h5 : Keeps s0 x5 := by
    subst x5
    refine keeps_put ?_
    assumption
  try clear_value x5
  extract_lets +onlyGivenNames -underBinder -merge x6
  have h6 : Keeps s0 x6 := by
    subst x6
    refine keeps_put ?_
    assumption
  try clear_value x6
  refine keeps_fault ?_
  assumption

theorem keeps_execRestoreComplete {s0 : State} {p : PairNo} {s : State} (hK : Keeps s0 s) :
    Goes s0 (execRestoreComplete p s) := by
  unfold execRestoreComplete
  refine goes_ite (goes_next hK) ?_
  extract_lets home
  split
  · exact goes_next (keeps_abandonRestore hK)
  · rename_i heq
    exact goes_next (keeps_restoreEnd (keeps_restoreTasks (keeps_until (keeps_buildMem heq hK))))

theorem keeps_execDomainReloadComplete {s0 : State} {p : PairNo} {s : State} (hK : Keeps s0 s) :
    Goes s0 (execDomainReloadComplete p s) := by
  rw [show @execDomainReloadComplete = _ from by delta execDomainReloadComplete; rfl]
  extract_lets +onlyGivenNames -underBinder -merge x1
  try clear_value x1
  refine goes_ite ?_ ?_
  · refine goes_next ?_
    assumption
  · extract_lets +onlyGivenNames -underBinder -merge x2
    try clear_value x2
    extract_lets +onlyGivenNames -underBinder -merge x3
    try clear_value x3
    extract_lets +onlyGivenNames -underBinder -merge x4
    have h4 : Keeps s0 x4 := by
      subst x4
      refine keeps_setPair ?_
      assumption
    try clear_value x4
    split
    · extract_lets +onlyGivenNames -underBinder -merge x5
      try clear_value x5
      extract_lets +onlyGivenNames -underBinder -merge x6
      have h6 : Keeps s0 x6 := by
        subst x6
        refine keeps_loseTasks ?_
        refine keeps_fault ?_
        assumption
      try clear_value x6
      refine goes_next ?_
      refine keeps_loopL (fun a7_0 y7 h7 => ?_) ?_
      · refine keeps_faultStopAny ?_
        assumption
      · assumption
    · rename_i heq
      have h8 := keeps_buildMem (s0 := s0) heq (by
        assumption)
      extract_lets +onlyGivenNames -underBinder -merge x9
      try clear_value x9
      extract_lets +onlyGivenNames -underBinder -merge x10
      have h10 : Keeps s0 x10 := by
        subst x10
        refine keeps_until ?_
        assumption
      try clear_value x10
      refine goes_next ?_
      refine keeps_loopL (fun a11_0 y11 h11 => ?_) ?_
      · refine keeps_startInitial ?_
        assumption
      · assumption

theorem keeps_execSeRetest {s0 : State} {v : Word} {s : State} (hK : Keeps s0 s) :
    Goes s0 (execSeRetest v s) := by
  rw [show @execSeRetest = _ from by delta execSeRetest; rfl]
  refine keeps_onRegW (fun a1_0 y1 h1 => ?_) ?_
  · extract_lets +onlyGivenNames -underBinder -merge x2
    try clear_value x2
    extract_lets +onlyGivenNames -underBinder -merge x3
    have h3 : Keeps s0 x3 := by
      subst x3
      refine keeps_put ?_
      assumption
    try clear_value x3
    refine goes_ite ?_ ?_
    · refine goes_next ?_
      refine keeps_setPairSt ?_
      refine keeps_setPair ?_
      assumption
    · refine goes_next ?_
      assumption
  · assumption

theorem keeps_execSpareSelfTest {s0 : State} {p : PairNo} {s : State} (hK : Keeps s0 s) :
    Goes s0 (execSpareSelfTest p s) := by
  rw [show @execSpareSelfTest = _ from by delta execSpareSelfTest; rfl]
  refine goes_ite ?_ ?_
  · extract_lets +onlyGivenNames -underBinder -merge x1
    have h1 : Keeps s0 x1 := by
      subst x1
      refine keeps_until ?_
      assumption
    try clear_value x1
    refine goes_next ?_
    refine keeps_setPair ?_
    assumption
  · refine goes_next ?_
    assumption

theorem keeps_bootHosts {s0 : State} {s : State} (hK : Keeps s0 s) :
    Keeps s0 (State.bootHosts s) := by
  rw [show @State.bootHosts = _ from by delta State.bootHosts; rfl]
  refine keeps_loopN (fun a1_0 y1 h1 => ?_) ?_
  · refine keeps_ite ?_ ?_
    · assumption
    · split
      · refine keeps_fault ?_
        refine keeps_setPairSt ?_
        refine keeps_put ?_
        assumption
      · refine keeps_fault ?_
        assumption
  · assumption

theorem keeps_bootTest {s0 : State} {s : State} {p : Nat} {pass : Bool} (hK : Keeps s0 s) :
    Keeps s0 (State.bootTest s p pass) := by
  rw [show @State.bootTest = _ from by delta State.bootTest; rfl]
  refine keeps_ite ?_ ?_
  · refine keeps_setPairSt ?_
    refine keeps_setPair ?_
    assumption
  · refine keeps_selfTestFail ?_
    assumption

theorem keeps_execSelfTestComplete {s0 : State} {p : PairNo} {pass : Bool} {s : State} (hK : Keeps s0 s) :
    Goes s0 (execSelfTestComplete p pass s) := by
  rw [show @execSelfTestComplete = _ from by delta execSelfTestComplete; rfl]
  extract_lets +onlyGivenNames -underBinder -merge x1
  try clear_value x1
  extract_lets +onlyGivenNames -underBinder -merge x2
  try clear_value x2
  refine goes_ite ?_ ?_
  · refine goes_ite ?_ ?_
    · extract_lets +onlyGivenNames -underBinder -merge x3
      try clear_value x3
      extract_lets +onlyGivenNames -underBinder -merge x4
      have h4 : Keeps s0 x4 := by
        subst x4
        refine keeps_setPair ?_
        assumption
      try clear_value x4
      refine goes_next ?_
      refine keeps_setPairSt ?_
      refine keeps_put ?_
      assumption
    · refine goes_next ?_
      refine keeps_selfTestFail ?_
      assumption
  · refine goes_ite ?_ ?_
    · refine goes_ite ?_ ?_
      · refine goes_next ?_
        refine keeps_setPair ?_
        assumption
      · refine goes_next ?_
        refine keeps_selfTestFail ?_
        assumption
    · refine goes_ite ?_ ?_
      · extract_lets +onlyGivenNames -underBinder -merge x5
        have h5 : Keeps s0 x5 := by
          subst x5
          refine keeps_bootTest ?_
          assumption
        try clear_value x5
        refine goes_ite ?_ ?_
        · refine goes_next ?_
          refine keeps_bootHosts ?_
          assumption
        · refine goes_next ?_
          assumption
      · refine goes_next ?_
        assumption

theorem keeps_startTask {s0 : State} {s : State} {p k : Nat} (hK : Keeps s0 s) :
    Keeps s0 (State.startTask s p k) := by
  rw [show @State.startTask = _ from by delta State.startTask; rfl]
  split
  · refine keeps_pairFault ?_
    assumption
  · rename_i heq
    have h1 := keeps_of_eqM (s0 := s0) heq (by
      refine keeps_memRead ?_
      assumption)
    refine keeps_runTask ?_
    refine keeps_spend ?_
    assumption

theorem keeps_execTaskDispatch {s0 : State} {p : PairNo} {s : State} (hK : Keeps s0 s) :
    Goes s0 (execTaskDispatch p s) := by
  rw [show @execTaskDispatch = _ from by delta execTaskDispatch; rfl]
  refine goes_ite ?_ ?_
  · split
    · refine goes_next ?_
      refine keeps_startTask ?_
      assumption
    · refine goes_next ?_
      assumption
  · refine goes_next ?_
    assumption

theorem keeps_execTaskPreempt {s0 : State} {p : PairNo} {s : State} (hK : Keeps s0 s) :
    Goes s0 (execTaskPreempt p s) := by
  rw [show @execTaskPreempt = _ from by delta execTaskPreempt; rfl]
  extract_lets +onlyGivenNames -underBinder -merge x1
  have h1 : Keeps s0 x1 := by
    subst x1
    refine keeps_settleClaim ?_
    assumption
  try clear_value x1
  refine goes_ite ?_ ?_
  · split
    · refine goes_ite ?_ ?_
      · refine goes_next ?_
        refine keeps_startTask ?_
        refine keeps_spend ?_
        refine keeps_setTask ?_
        assumption
      · refine goes_next ?_
        assumption
    · refine goes_next ?_
      assumption
  · refine goes_next ?_
    assumption

theorem keeps_execTaskBudget {s0 : State} {p : PairNo} {s : State} (hK : Keeps s0 s) :
    Goes s0 (execTaskBudget p s) := by
  rw [show @execTaskBudget = _ from by delta execTaskBudget; rfl]
  extract_lets +onlyGivenNames -underBinder -merge x1
  have h1 : Keeps s0 x1 := by
    subst x1
    refine keeps_settleClaim ?_
    assumption
  try clear_value x1
  refine goes_ite ?_ ?_
  · split
    · refine goes_ite ?_ ?_
      · refine goes_next ?_
        refine keeps_trap ?_
        assumption
      · refine goes_next ?_
        assumption
    · refine goes_next ?_
      assumption
  · refine goes_next ?_
    assumption

theorem keeps_tmrEn {s0 : State} {s : State} {k : Nat} {en : Bool} (hK : Keeps s0 s) :
    Keeps s0 (State.tmrEn s k en) := by
  rw [show @State.tmrEn = _ from by delta State.tmrEn; rfl]
  extract_lets +onlyGivenNames -underBinder -merge x1
  try clear_value x1
  extract_lets +onlyGivenNames -underBinder -merge x2
  try clear_value x2
  extract_lets +onlyGivenNames -underBinder -merge x3
  have h3 : Keeps s0 x3 := by
    subst x3
    refine keeps_putB ?_
    assumption
  try clear_value x3
  refine keeps_ite ?_ ?_
  · refine keeps_mk ?_
    assumption
  · assumption

theorem keeps_execTimerExpiry {s0 : State} {k : Fin 64} {s : State} (hK : Keeps s0 s) :
    Goes s0 (execTimerExpiry k s) := by
  rw [show @execTimerExpiry = _ from by delta execTimerExpiry; rfl]
  refine goes_ite ?_ ?_
  · extract_lets +onlyGivenNames -underBinder -merge x1
    try clear_value x1
    extract_lets +onlyGivenNames -underBinder -merge x2
    have h2 : Keeps s0 x2 := by
      subst x2
      refine keeps_until ?_
      assumption
    try clear_value x2
    extract_lets +onlyGivenNames -underBinder -merge x3
    have h3 : Keeps s0 x3 := by
      subst x3
      refine keeps_ite ?_ ?_
      · refine keeps_putB ?_
        assumption
      · refine keeps_mk ?_
        assumption
    try clear_value x3
    refine goes_next ?_
    refine keeps_loopL (fun a4_0 y4 h4 => ?_) ?_
    · refine keeps_deliver ?_
      assumption
    · assumption
  · refine goes_next ?_
    assumption

theorem keeps_execCheckpointRecordWrite {s0 : State} {p : PairNo} {s : State} (hK : Keeps s0 s) :
    Goes s0 (execCheckpointRecordWrite p s) := by
  rw [show @execCheckpointRecordWrite = _ from by delta execCheckpointRecordWrite; rfl]
  extract_lets +onlyGivenNames -underBinder -merge x1
  try clear_value x1
  split
  · refine goes_next ?_
    assumption
  · extract_lets +onlyGivenNames -underBinder -merge x2
    have h2 : Keeps s0 x2 := by
      subst x2
      refine keeps_setPair ?_
      assumption
    try clear_value x2
    extract_lets +onlyGivenNames -underBinder -merge x3
    try clear_value x3
    extract_lets +onlyGivenNames -underBinder -merge x4
    try clear_value x4
    extract_lets +onlyGivenNames -underBinder -merge x5
    have h5 : Keeps s0 x5 := by
      subst x5
      refine keeps_ite ?_ ?_
      · refine keeps_setCrew ?_
        assumption
      · assumption
    try clear_value x5
    extract_lets +onlyGivenNames -underBinder -merge x6
    have h6 : Keeps s0 x6 := by
      subst x6
      refine keeps_devWrite ?_
      assumption
    try clear_value x6
    refine goes_next ?_
    refine keeps_devWrite ?_
    assumption

theorem keeps_setSeMemWord {s0 : State} {s : State} {p : Nat} {dmem : Bool} {w : Nat} {v : Word} (hK : Keeps s0 s) :
    Keeps s0 (State.setSeMemWord s p dmem w v) := by
  rw [show @State.setSeMemWord = _ from by delta State.setSeMemWord; rfl]
  extract_lets +onlyGivenNames -underBinder -merge x1
  try clear_value x1
  refine keeps_ite ?_ ?_
  · refine keeps_ite ?_ ?_
    · refine keeps_setPair ?_
      assumption
    · assumption
  · refine keeps_ite ?_ ?_
    · refine keeps_setPair ?_
      assumption
    · extract_lets +onlyGivenNames -underBinder -merge x2
      try clear_value x2
      extract_lets +onlyGivenNames -underBinder -merge x3
      try clear_value x3
      extract_lets +onlyGivenNames -underBinder -merge x4
      try clear_value x4
      extract_lets +onlyGivenNames -underBinder -merge x5
      try clear_value x5
      refine keeps_setTask ?_
      assumption

theorem keeps_seMemAdvance {s0 : State} {s : State} (hK : Keeps s0 s) :
    Keeps s0 (State.seMemAdvance s) := by
  rw [show @State.seMemAdvance = _ from by delta State.seMemAdvance; rfl]
  refine keeps_incWrap ?_
  assumption

theorem keeps_execSeMemDataWrite {s0 : State} {v : Word} {s : State} (hK : Keeps s0 s) :
    Goes s0 (execSeMemDataWrite v s) := by
  rw [show @execSeMemDataWrite = _ from by delta execSeMemDataWrite; rfl]
  refine goes_onReg (fun y1 h1 => ?_) ?_
  · extract_lets +onlyGivenNames -underBinder -merge x2
    try clear_value x2
    extract_lets +onlyGivenNames -underBinder -merge x3
    try clear_value x3
    extract_lets +onlyGivenNames -underBinder -merge x4
    try clear_value x4
    refine goes_ite ?_ ?_
    · refine goes_next ?_
      refine keeps_seMemAdvance ?_
      assumption
    · refine goes_ite ?_ ?_
      · refine goes_next ?_
        refine keeps_seMemAdvance ?_
        refine keeps_setSeMemWord ?_
        refine keeps_getD ?_ ?_
        · refine keeps_memStore ?_
          assumption
        · assumption
      · refine goes_next ?_
        refine keeps_fault ?_
        assumption
  · assumption

theorem keeps_execSeMemDataRead {s0 : State} {s : State} (hK : Keeps s0 s) :
    Goes s0 (execSeMemDataRead s) := by
  rw [show @execSeMemDataRead = _ from by delta execSeMemDataRead; rfl]
  refine goes_onRegRead (fun y1 h1 => ?_) ?_
  · extract_lets +onlyGivenNames -underBinder -merge x2
    try clear_value x2
    extract_lets +onlyGivenNames -underBinder -merge x3
    try clear_value x3
    extract_lets +onlyGivenNames -underBinder -merge x4
    try clear_value x4
    refine goes_ite ?_ ?_
    · refine goes_next ?_
      extract_lets +onlyGivenNames -underBinder -merge x5
      have h5 : Keeps s0 x5 := by
        subst x5
        refine keeps_seMemAdvance ?_
        assumption
      try clear_value x5
      refine keeps_mk ?_
      assumption
    · split
      · rename_i heq
        have h6 := keeps_of_eqM (s0 := s0) heq (by
          refine keeps_memRead ?_
          assumption)
        refine goes_next ?_
        extract_lets +onlyGivenNames -underBinder -merge x7
        have h7 : Keeps s0 x7 := by
          subst x7
          refine keeps_seMemAdvance ?_
          assumption
        try clear_value x7
        refine keeps_mk ?_
        assumption
      · split
        · rename_i heq
          have h8 := keeps_of_eqP (s0 := s0) heq (by
            refine keeps_free ?_
            assumption)
          refine goes_next ?_
          extract_lets +onlyGivenNames -underBinder -merge x9
          have h9 : Keeps s0 x9 := by
            subst x9
            refine keeps_seMemAdvance ?_
            refine keeps_pairFault ?_
            assumption
          try clear_value x9
          refine keeps_mk ?_
          assumption
  · assumption

theorem keeps_swapReq {s0 : State} {s : State} {id : Nat} {b : Bool} (hK : Keeps s0 s) :
    Keeps s0 (State.swapReq s id b) := by
  rw [show @State.swapReq = _ from by delta State.swapReq; rfl]
  extract_lets +onlyGivenNames -underBinder -merge x1
  try clear_value x1
  refine keeps_ite ?_ ?_
  · refine keeps_ite ?_ ?_
    · refine keeps_setLoop ?_
      assumption
    · assumption
  · extract_lets +onlyGivenNames -underBinder -merge x2
    try clear_value x2
    refine keeps_ite ?_ ?_
    · refine keeps_setLoop ?_
      assumption
    · refine keeps_setLoop ?_
      assumption

theorem keeps_catchSwaps {s0 : State} {s : State} {n : Nat} (hK : Keeps s0 s) :
    Keeps s0 (State.catchSwaps s n) := by
  rw [show @State.catchSwaps = _ from by delta State.catchSwaps; rfl]
  refine keeps_loopL (fun a1_0 y1 h1 => ?_) ?_
  · refine keeps_setLoop ?_
    assumption
  · assumption

theorem keeps_execCoefDataWrite {s0 : State} {v : Word} {s : State} (hK : Keeps s0 s) :
    Goes s0 (execCoefDataWrite v s) := by
  rw [show @execCoefDataWrite = _ from by delta execCoefDataWrite; rfl]
  refine goes_onReg (fun y1 h1 => ?_) ?_
  · extract_lets +onlyGivenNames -underBinder -merge x2
    try clear_value x2
    extract_lets +onlyGivenNames -underBinder -merge x3
    try clear_value x3
    extract_lets +onlyGivenNames -underBinder -merge x4
    try clear_value x4
    extract_lets +onlyGivenNames -underBinder -merge x5
    try clear_value x5
    split
    · refine goes_ite ?_ ?_
      · refine goes_next ?_
        refine keeps_fault ?_
        assumption
      · refine goes_next ?_
        refine keeps_setLoop ?_
        assumption
    · split
      · refine goes_next ?_
        refine keeps_setLoop ?_
        assumption
      · refine goes_next ?_
        refine keeps_setLoop ?_
        assumption
      · refine goes_next ?_
        refine keeps_setLoop ?_
        assumption
      · extract_lets +onlyGivenNames -underBinder -merge x6
        have h6 : Keeps s0 x6 := by
          subst x6
          refine keeps_ite ?_ ?_
          · assumption
          · refine keeps_countRsv ?_
            assumption
        try clear_value x6
        refine goes_next ?_
        refine keeps_setLoop ?_
        assumption
      · refine goes_next ?_
        assumption
  · assumption

theorem keeps_execCoefSwap {s0 : State} {v : Word} {s : State} (hK : Keeps s0 s) :
    Goes s0 (execCoefSwap v s) := by
  rw [show @execCoefSwap = _ from by delta execCoefSwap; rfl]
  refine keeps_onRegW (fun a1_0 y1 h1 => ?_) ?_
  · refine goes_next ?_
    refine keeps_swapReq ?_
    assumption
  · assumption

end Sys2Proof.Machine
end

