-- ==== Sys2Proof/Laws/KeepsModulator.lean ====
section
/-! SUPPORT. Laws/KeepsModulator.lean: what the operations of Machine/Modulator.lean keep. -/
namespace Sys2Proof.Machine

theorem keeps_setCar {s0 : State} {s : State} {n j : Nat} {c : CarRec} (hK : Keeps s0 s) :
    Keeps s0 (State.setCar s n j c) := by
  rw [show @State.setCar = _ from by delta State.setCar; rfl]
  refine keeps_setCrew ?_
  assumption

theorem keeps_startCarriers {s0 : State} {s : State} {n : Nat} (hK : Keeps s0 s) :
    Keeps s0 (State.startCarriers s n) := by
  rw [show @State.startCarriers = _ from by delta State.startCarriers; rfl]
  extract_lets +onlyGivenNames -underBinder -merge x1
  try clear_value x1
  extract_lets +onlyGivenNames -underBinder -merge x2
  try clear_value x2
  extract_lets +onlyGivenNames -underBinder -merge x3
  try clear_value x3
  refine keeps_loopN (fun a4_0 y4 h4 => ?_) ?_
  · extract_lets +onlyGivenNames -underBinder -merge x5
    try clear_value x5
    extract_lets +onlyGivenNames -underBinder -merge x6
    try clear_value x6
    extract_lets +onlyGivenNames -underBinder -merge x7
    try clear_value x7
    extract_lets +onlyGivenNames -underBinder -merge x8
    have h8 : Keeps s0 x8 := by
      subst x8
      refine keeps_setCar ?_
      assumption
    try clear_value x8
    refine keeps_setCrew ?_
    assumption
  · assumption

theorem keeps_carrierAt {s0 : State} {s : State} {n j : Nat} {valley : Bool} (hK : Keeps s0 s) :
    OGoes s0 (State.carrierAt s n j valley) := by
  rw [show @State.carrierAt = _ from by delta State.carrierAt; rfl]
  refine ogoes_ite ?_ ?_
  · exact ogoes_none
  · refine ogoes_some ?_
    refine keeps_advanceTb ?_
    assumption

theorem keeps_catchPoint {s0 : State} {s : State} {n : Nat} {valley : Bool} (hK : Keeps s0 s) :
    Keeps s0 (State.catchPoint s n valley) := by
  rw [show @State.catchPoint = _ from by delta State.catchPoint; rfl]
  extract_lets +onlyGivenNames -underBinder -merge x1
  try clear_value x1
  refine keeps_ite ?_ ?_
  · assumption
  · refine keeps_ite ?_ ?_
    · refine keeps_setCrew ?_
      assumption
    · extract_lets +onlyGivenNames -underBinder -merge x2
      try clear_value x2
      extract_lets +onlyGivenNames -underBinder -merge x3
      have h3 : Keeps s0 x3 := by
        subst x3
        refine keeps_setCrew ?_
        assumption
      try clear_value x3
      refine keeps_loopL (fun a4_0 y4 h4 => ?_) ?_
      · refine keeps_setLeg ?_
        assumption
      · assumption

theorem keeps_putCmp {s0 : State} {s : State} {n x c : Nat} (hK : Keeps s0 s) :
    Keeps s0 (State.putCmp s n x c) := by
  rw [show @State.putCmp = _ from by delta State.putCmp; rfl]
  extract_lets +onlyGivenNames -underBinder -merge x1
  have h1 : Keeps s0 x1 := by
    subst x1
    refine keeps_put ?_
    assumption
  try clear_value x1
  refine keeps_ite ?_ ?_
  · refine keeps_setLeg ?_
    assumption
  · assumption

theorem keeps_loadCompares {s0 : State} {s : State} {n j : Nat} (hK : Keeps s0 s) :
    Keeps s0 (State.loadCompares s n j) := by
  rw [show @State.loadCompares = _ from by delta State.loadCompares; rfl]
  extract_lets +onlyGivenNames -underBinder -merge x1
  have h1 : Keeps s0 x1 := by
    subst x1
    refine keeps_loopN (fun a2_0 y2 h2 => ?_) ?_
    · refine keeps_putCmp ?_
      assumption
    · assumption
  try clear_value x1
  refine keeps_setCar ?_
  assumption

theorem keeps_levelNow {s0 : State} {s : State} {n j : Nat} (hK : Keeps s0 s) :
    Keeps s0 (State.levelNow s n j) := by
  rw [show @State.levelNow = _ from by delta State.levelNow; rfl]
  extract_lets +onlyGivenNames -underBinder -merge x1
  try clear_value x1
  refine keeps_loopL (fun a2_0 y2 h2 => ?_) ?_
  · extract_lets +onlyGivenNames -underBinder -merge x3
    try clear_value x3
    extract_lets +onlyGivenNames -underBinder -merge x4
    try clear_value x4
    refine keeps_ite ?_ ?_
    · assumption
    · refine keeps_legTo ?_
      assumption
  · assumption

theorem keeps_setBegin {s0 : State} {s : State} {n j : Nat} (hK : Keeps s0 s) :
    Keeps s0 (State.setBegin s n j) := by
  rw [show @State.setBegin = _ from by delta State.setBegin; rfl]
  refine keeps_ite ?_ ?_
  · refine keeps_setCrew ?_
    assumption
  · assumption

theorem keeps_shareTrim {s0 : State} {s : State} {n j : Nat} (hK : Keeps s0 s) :
    Keeps s0 (State.shareTrim s n j) := by
  rw [show @State.shareTrim = _ from by delta State.shareTrim; rfl]
  extract_lets +onlyGivenNames -underBinder -merge x1
  try clear_value x1
  extract_lets +onlyGivenNames -underBinder -merge x2
  try clear_value x2
  refine keeps_ite ?_ ?_
  · assumption
  · extract_lets +onlyGivenNames -underBinder -merge x3
    try clear_value x3
    extract_lets +onlyGivenNames -underBinder -merge x4
    subst x4
    try dsimp -zeta -proj only
    extract_lets +onlyGivenNames -underBinder -merge x5
    try clear_value x5
    extract_lets +onlyGivenNames -underBinder -merge x6
    try clear_value x6
    refine keeps_loopN (fun a7_0 y7 h7 => ?_) ?_
    · extract_lets +onlyGivenNames -underBinder -merge x8
      try clear_value x8
      refine keeps_ite ?_ ?_
      · assumption
      · extract_lets +onlyGivenNames -underBinder -merge x9
        try clear_value x9
        extract_lets +onlyGivenNames -underBinder -merge x10
        try clear_value x10
        extract_lets +onlyGivenNames -underBinder -merge x11
        try clear_value x11
        extract_lets +onlyGivenNames -underBinder -merge x12
        try clear_value x12
        extract_lets +onlyGivenNames -underBinder -merge x13
        try clear_value x13
        extract_lets +onlyGivenNames -underBinder -merge x14
        try clear_value x14
        extract_lets +onlyGivenNames -underBinder -merge x15
        try clear_value x15
        refine keeps_wr ?_
        assumption
    · assumption

theorem keeps_valleyTrims {s0 : State} {s : State} {n j : Nat} (hK : Keeps s0 s) :
    Keeps s0 (State.valleyTrims s n j) := by
  rw [show @State.valleyTrims = _ from by delta State.valleyTrims; rfl]
  extract_lets +onlyGivenNames -underBinder -merge x1
  have h1 : Keeps s0 x1 := by
    subst x1
    refine keeps_loopL (fun a2_0 y2 h2 => ?_) ?_
    · refine keeps_setLeg ?_
      assumption
    · assumption
  try clear_value x1
  extract_lets +onlyGivenNames -underBinder -merge x3
  try clear_value x3
  extract_lets +onlyGivenNames -underBinder -merge x4
  try clear_value x4
  extract_lets +onlyGivenNames -underBinder -merge x5
  have h5 : Keeps s0 x5 := by
    subst x5
    refine keeps_loopN (fun a6_0 y6 h6 => ?_) ?_
    · refine keeps_ite ?_ ?_
      · refine keeps_loopN (fun a7_0 y7 h7 => ?_) ?_
        · refine keeps_wr ?_
          assumption
        · assumption
      · assumption
    · assumption
  try clear_value x5
  refine keeps_shareTrim ?_
  refine keeps_setCrew ?_
  assumption

theorem keeps_valleyRejoin {s0 : State} {s : State} {n j : Nat} (hK : Keeps s0 s) :
    Keeps s0 (State.valleyRejoin s n j) := by
  rw [show @State.valleyRejoin = _ from by delta State.valleyRejoin; rfl]
  extract_lets +onlyGivenNames -underBinder -merge x1
  try clear_value x1
  split
  · refine keeps_ite ?_ ?_
    · extract_lets +onlyGivenNames -underBinder -merge x2
      have h2 : Keeps s0 x2 := by
        subst x2
        refine keeps_setCrew ?_
        assumption
      try clear_value x2
      refine keeps_ite ?_ ?_
      · refine keeps_setJoin ?_
        assumption
      · refine keeps_loopL (fun a3_0 y3 h3 => ?_) ?_
        · refine keeps_legOff ?_
          assumption
        · assumption
    · assumption
  · assumption

theorem keeps_beginRejoin {s0 : State} {s : State} {n : Nat} {sets : List Nat} (hK : Keeps s0 s) :
    Keeps s0 (State.beginRejoin s n sets) := by
  rw [show @State.beginRejoin = _ from by delta State.beginRejoin; rfl]
  extract_lets +onlyGivenNames -underBinder -merge x1
  try clear_value x1
  extract_lets +onlyGivenNames -underBinder -merge x2
  have h2 : Keeps s0 x2 := by
    subst x2
    refine keeps_setCrew ?_
    assumption
  try clear_value x2
  refine keeps_ite ?_ ?_
  · refine keeps_loopL (fun a3_0 y3 h3 => ?_) ?_
    · refine keeps_loopL (fun a4_0 y4 h4 => ?_) ?_
      · refine keeps_legTo ?_
        assumption
      · assumption
    · assumption
  · assumption

theorem keeps_seamDegrade {s0 : State} {s : State} {n : Nat} (hK : Keeps s0 s) :
    Keeps s0 (State.seamDegrade s n) := by
  rw [show @State.seamDegrade = _ from by delta State.seamDegrade; rfl]
  refine keeps_fault ?_
  refine keeps_put ?_
  assumption

theorem keeps_seamValley {s0 : State} {s : State} {n : Nat} (hK : Keeps s0 s) :
    Keeps s0 (State.seamValley s n) := by
  rw [show @State.seamValley = _ from by delta State.seamValley; rfl]
  extract_lets +onlyGivenNames -underBinder -merge x1
  try clear_value x1
  refine keeps_ite ?_ ?_
  · assumption
  · extract_lets +onlyGivenNames -underBinder -merge x2
    try clear_value x2
    extract_lets +onlyGivenNames -underBinder -merge x3
    try clear_value x3
    extract_lets +onlyGivenNames -underBinder -merge x4
    try clear_value x4
    extract_lets +onlyGivenNames -underBinder -merge x5
    try clear_value x5
    extract_lets +onlyGivenNames -underBinder -merge x6
    try clear_value x6
    extract_lets +onlyGivenNames -underBinder -merge x7
    have h7 : Keeps s0 x7 := by
      subst x7
      refine keeps_wr ?_
      assumption
    try clear_value x7
    extract_lets +onlyGivenNames -underBinder -merge x8
    try clear_value x8
    extract_lets +onlyGivenNames -underBinder -merge x9
    try clear_value x9
    extract_lets +onlyGivenNames -underBinder -merge x10
    try clear_value x10
    extract_lets +onlyGivenNames -underBinder -merge x11
    have h11 : Keeps s0 x11 := by
      subst x11
      refine keeps_setCrew ?_
      assumption
    try clear_value x11
    split
    · refine keeps_ite ?_ ?_
      · refine keeps_raise ?_
        refine keeps_put ?_
        assumption
      · assumption
    · refine keeps_ite ?_ ?_
      · refine keeps_seamDegrade ?_
        assumption
      · assumption
    · refine keeps_ite ?_ ?_
      · refine keeps_seamDegrade ?_
        assumption
      · refine keeps_ite ?_ ?_
        · refine keeps_put ?_
          assumption
        · assumption
    · assumption

theorem keeps_seamLock {s0 : State} {s : State} {locked : Bool} (hK : Keeps s0 s) :
    Keeps s0 (State.seamLock s locked) := by
  rw [show @State.seamLock = _ from by delta State.seamLock; rfl]
  refine keeps_loopN (fun a1_0 y1 h1 => ?_) ?_
  · extract_lets +onlyGivenNames -underBinder -merge x2
    try clear_value x2
    refine keeps_ite ?_ ?_
    · refine keeps_fault ?_
      refine keeps_put ?_
      refine keeps_setCrew ?_
      assumption
    · refine keeps_ite ?_ ?_
      · refine keeps_put ?_
        assumption
      · refine keeps_ite ?_ ?_
        · extract_lets +onlyGivenNames -underBinder -merge x3
          try clear_value x3
          extract_lets +onlyGivenNames -underBinder -merge x4
          have h4 : Keeps s0 x4 := by
            subst x4
            refine keeps_setCrew ?_
            assumption
          try clear_value x4
          refine keeps_raise ?_
          refine keeps_put ?_
          assumption
        · assumption
  · assumption

theorem keeps_legValley {s0 : State} {s : State} {x : Nat} (hK : Keeps s0 s) :
    Keeps s0 (State.legValley s x) := by
  rw [show @State.legValley = _ from by delta State.legValley; rfl]
  extract_lets +onlyGivenNames -underBinder -merge x1
  try clear_value x1
  extract_lets +onlyGivenNames -underBinder -merge x2
  have h2 : Keeps s0 x2 := by
    subst x2
    refine keeps_setLeg ?_
    assumption
  try clear_value x2
  refine keeps_ite ?_ ?_
  · refine keeps_setLeg ?_
    assumption
  · assumption

theorem keeps_carrierUp {s0 : State} {s : State} {n j : Nat} (hK : Keeps s0 s) :
    Keeps s0 (State.carrierUp s n j) := by
  rw [show @State.carrierUp = _ from by delta State.carrierUp; rfl]
  extract_lets +onlyGivenNames -underBinder -merge x1
  try clear_value x1
  extract_lets +onlyGivenNames -underBinder -merge x2
  try clear_value x2
  extract_lets +onlyGivenNames -underBinder -merge x3
  have h3 : Keeps s0 x3 := by
    subst x3
    refine keeps_setCar ?_
    assumption
  try clear_value x3
  refine keeps_setCrew ?_
  assumption

theorem keeps_carrierDown {s0 : State} {s : State} {n j : Nat} (hK : Keeps s0 s) :
    Keeps s0 (State.carrierDown s n j) := by
  rw [show @State.carrierDown = _ from by delta State.carrierDown; rfl]
  extract_lets +onlyGivenNames -underBinder -merge x1
  try clear_value x1
  extract_lets +onlyGivenNames -underBinder -merge x2
  have h2 : Keeps s0 x2 := by
    subst x2
    refine keeps_setCar ?_
    assumption
  try clear_value x2
  refine keeps_setCrew ?_
  assumption

theorem keeps_valleyPrep {s0 : State} {s : State} {n j : Nat} (hK : Keeps s0 s) :
    Keeps s0 (State.valleyPrep s n j) := by
  rw [show @State.valleyPrep = _ from by delta State.valleyPrep; rfl]
  extract_lets +onlyGivenNames -underBinder -merge x1
  have h1 : Keeps s0 x1 := by
    subst x1
    refine keeps_ite ?_ ?_
    · refine keeps_catchPoint ?_
      refine keeps_seamValley ?_
      assumption
    · assumption
  try clear_value x1
  extract_lets +onlyGivenNames -underBinder -merge x2
  have h2 : Keeps s0 x2 := by
    subst x2
    refine keeps_carrierUp ?_
    assumption
  try clear_value x2
  extract_lets +onlyGivenNames -underBinder -merge x3
  have h3 : Keeps s0 x3 := by
    subst x3
    refine keeps_loopL (fun a4_0 y4 h4 => ?_) ?_
    · refine keeps_legValley ?_
      assumption
    · assumption
  try clear_value x3
  refine keeps_valleyRejoin ?_
  refine keeps_valleyTrims ?_
  assumption

theorem keeps_valleyStop {s0 : State} {s : State} {n j : Nat} (hK : Keeps s0 s) :
    Keeps s0 (State.valleyStop s n j) := by
  rw [show @State.valleyStop = _ from by delta State.valleyStop; rfl]
  extract_lets +onlyGivenNames -underBinder -merge x1
  have h1 : Keeps s0 x1 := by
    subst x1
    refine keeps_loopL (fun a2_0 y2 h2 => ?_) ?_
    · refine keeps_legOff ?_
      assumption
    · assumption
  try clear_value x1
  extract_lets +onlyGivenNames -underBinder -merge x3
  try clear_value x3
  extract_lets +onlyGivenNames -underBinder -merge x4
  try clear_value x4
  extract_lets +onlyGivenNames -underBinder -merge x5
  have h5 : Keeps s0 x5 := by
    subst x5
    refine keeps_setCrew ?_
    assumption
  try clear_value x5
  refine keeps_ite ?_ ?_
  · refine keeps_profCrewState ?_
    refine keeps_setCrewState ?_
    refine keeps_crewOff ?_
    assumption
  · assumption

theorem keeps_loadPoint {s0 : State} {s : State} {n j : Nat} (hK : Keeps s0 s) :
    Keeps s0 (State.loadPoint s n j) := by
  rw [show @State.loadPoint = _ from by delta State.loadPoint; rfl]
  extract_lets +onlyGivenNames -underBinder -merge x1
  have h1 : Keeps s0 x1 := by
    subst x1
    refine keeps_setBegin ?_
    refine keeps_loadCompares ?_
    assumption
  try clear_value x1
  refine keeps_ite ?_ ?_
  · refine keeps_levelNow ?_
    assumption
  · assumption

theorem keeps_execCarrierValley {s0 : State} {n : CrewNo} {j : Fin 8} {s : State} (hK : Keeps s0 s) :
    Goes s0 (execCarrierValley n j s) := by
  rw [show @execCarrierValley = _ from by delta execCarrierValley; rfl]
  split
  · refine goes_next ?_
    assumption
  · rename_i heq
    have h1 := keeps_of_eqM (s0 := s0) heq (by
      refine keeps_carrierAt ?_
      assumption)
    extract_lets +onlyGivenNames -underBinder -merge x2
    have h2 : Keeps s0 x2 := by
      subst x2
      refine keeps_valleyPrep ?_
      assumption
    try clear_value x2
    refine goes_ite ?_ ?_
    · refine goes_next ?_
      refine keeps_valleyStop ?_
      assumption
    · refine goes_ite ?_ ?_
      · refine goes_next ?_
        refine keeps_loadPoint ?_
        assumption
      · refine goes_next ?_
        assumption

theorem keeps_peakPrep {s0 : State} {s : State} {n j : Nat} (hK : Keeps s0 s) :
    Keeps s0 (State.peakPrep s n j) := by
  rw [show @State.peakPrep = _ from by delta State.peakPrep; rfl]
  extract_lets +onlyGivenNames -underBinder -merge x1
  have h1 : Keeps s0 x1 := by
    subst x1
    refine keeps_ite ?_ ?_
    · refine keeps_catchPoint ?_
      assumption
    · assumption
  try clear_value x1
  extract_lets +onlyGivenNames -underBinder -merge x2
  have h2 : Keeps s0 x2 := by
    subst x2
    refine keeps_carrierDown ?_
    assumption
  try clear_value x2
  refine keeps_loopL (fun a3_0 y3 h3 => ?_) ?_
  · refine keeps_setLeg ?_
    assumption
  · assumption

theorem keeps_peakGo {s0 : State} {s : State} {n j : Nat} (hK : Keeps s0 s) :
    Keeps s0 (State.peakGo s n j) := by
  rw [show @State.peakGo = _ from by delta State.peakGo; rfl]
  refine keeps_ite ?_ ?_
  · refine keeps_loadPoint ?_
    assumption
  · refine keeps_ite ?_ ?_
    · refine keeps_levelNow ?_
      assumption
    · assumption

theorem keeps_execCarrierPeak {s0 : State} {n : CrewNo} {j : Fin 8} {s : State} (hK : Keeps s0 s) :
    Goes s0 (execCarrierPeak n j s) := by
  rw [show @execCarrierPeak = _ from by delta execCarrierPeak; rfl]
  split
  · refine goes_next ?_
    assumption
  · rename_i heq
    have h1 := keeps_of_eqM (s0 := s0) heq (by
      refine keeps_carrierAt ?_
      assumption)
    extract_lets +onlyGivenNames -underBinder -merge x2
    have h2 : Keeps s0 x2 := by
      subst x2
      refine keeps_peakPrep ?_
      assumption
    try clear_value x2
    refine goes_ite ?_ ?_
    · refine goes_next ?_
      refine keeps_peakGo ?_
      assumption
    · refine goes_next ?_
      assumption

theorem keeps_execSeamHoldExpiry {s0 : State} {n : CrewNo} {s : State} (hK : Keeps s0 s) :
    Goes s0 (execSeamHoldExpiry n s) := by
  rw [show @execSeamHoldExpiry = _ from by delta execSeamHoldExpiry; rfl]
  refine goes_ite ?_ ?_
  · refine goes_next ?_
    refine keeps_seamDegrade ?_
    refine keeps_until ?_
    assumption
  · refine goes_next ?_
    assumption

theorem keeps_cross {s0 : State} {s : State} {n j x : Nat} (hK : Keeps s0 s) :
    Keeps s0 (State.cross s n j x) := by
  rw [show @State.cross = _ from by delta State.cross; rfl]
  extract_lets +onlyGivenNames -underBinder -merge x1
  try clear_value x1
  extract_lets +onlyGivenNames -underBinder -merge x2
  have h2 : Keeps s0 x2 := by
    subst x2
    refine keeps_legTo ?_
    assumption
  try clear_value x2
  refine keeps_setLeg ?_
  assumption

theorem keeps_execEdgeDecision {s0 : State} {x : LegNo} {s : State} (hK : Keeps s0 s) :
    Goes s0 (execEdgeDecision x s) := by
  rw [show @execEdgeDecision = _ from by delta execEdgeDecision; rfl]
  split
  · refine goes_next ?_
    assumption
  · split
    · refine goes_next ?_
      assumption
    · refine goes_ite ?_ ?_
      · refine goes_next ?_
        refine keeps_cross ?_
        refine keeps_advanceTb ?_
        assumption
      · refine goes_next ?_
        assumption

theorem keeps_refreshOn {s0 : State} {s : State} {x : Nat} (hK : Keeps s0 s) :
    Keeps s0 (State.refreshOn s x) := by
  rw [show @State.refreshOn = _ from by delta State.refreshOn; rfl]
  extract_lets +onlyGivenNames -underBinder -merge x1
  try clear_value x1
  extract_lets +onlyGivenNames -underBinder -merge x2
  have h2 : Keeps s0 x2 := by
    subst x2
    refine keeps_setLeg ?_
    assumption
  try clear_value x2
  refine keeps_ite ?_ ?_
  · refine keeps_dropPulse ?_
    assumption
  · refine keeps_ite ?_ ?_
    · refine keeps_edge ?_
      assumption
    · assumption

theorem keeps_execDeadTimeExpiry {s0 : State} {x : LegNo} {s : State} (hK : Keeps s0 s) :
    Goes s0 (execDeadTimeExpiry x s) := by
  rw [show @execDeadTimeExpiry = _ from by delta execDeadTimeExpiry; rfl]
  split
  · refine goes_next ?_
    assumption
  · extract_lets +onlyGivenNames -underBinder -merge x1
    have h1 : Keeps s0 x1 := by
      subst x1
      refine keeps_advanceTb ?_
      assumption
    try clear_value x1
    extract_lets +onlyGivenNames -underBinder -merge x2
    try clear_value x2
    extract_lets +onlyGivenNames -underBinder -merge x3
    have h3 : Keeps s0 x3 := by
      subst x3
      refine keeps_setLeg ?_
      assumption
    try clear_value x3
    extract_lets +onlyGivenNames -underBinder -merge x4
    have h4 : Keeps s0 x4 := by
      subst x4
      refine keeps_putB ?_
      assumption
    try clear_value x4
    refine goes_ite ?_ ?_
    · refine goes_next ?_
      refine keeps_refreshOn ?_
      assumption
    · refine goes_ite ?_ ?_
      · refine goes_next ?_
        refine keeps_edge ?_
        assumption
      · refine goes_next ?_
        assumption

theorem keeps_diagAbort {s0 : State} {s : State} {k : Nat} (hK : Keeps s0 s) :
    Keeps s0 (State.diagAbort s k) := by
  rw [show @State.diagAbort = _ from by delta State.diagAbort; rfl]
  split
  · assumption
  · extract_lets +onlyGivenNames -underBinder -merge x1
    have h1 : Keeps s0 x1 := by
      subst x1
      refine keeps_loopL (fun a2_0 y2 h2 => ?_) ?_
      · extract_lets +onlyGivenNames -underBinder -merge x3
        try clear_value x3
        extract_lets +onlyGivenNames -underBinder -merge x4
        have h4 : Keeps s0 x4 := by
          subst x4
          refine keeps_put ?_
          assumption
        try clear_value x4
        refine keeps_setBitAt ?_
        assumption
      · assumption
    try clear_value x1
    extract_lets +onlyGivenNames -underBinder -merge x5
    try clear_value x5
    extract_lets +onlyGivenNames -underBinder -merge x6
    have h6 : Keeps s0 x6 := by
      subst x6
      refine keeps_setLink ?_
      assumption
    try clear_value x6
    refine keeps_raise ?_
    refine keeps_putB ?_
    assumption

theorem keeps_crewStart {s0 : State} {s : State} {n : Nat} (hK : Keeps s0 s) :
    Keeps s0 (State.crewStart s n) := by
  rw [show @State.crewStart = _ from by delta State.crewStart; rfl]
  refine keeps_ite ?_ ?_
  · assumption
  · split
    · refine keeps_fault ?_
      assumption
    · extract_lets +onlyGivenNames -underBinder -merge x1
      try clear_value x1
      extract_lets +onlyGivenNames -underBinder -merge x2
      have h2 : Keeps s0 x2 := by
        subst x2
        refine keeps_loopL (fun a3_0 y3 h3 => ?_) ?_
        · split
          · refine keeps_ite ?_ ?_
            · refine keeps_diagAbort ?_
              assumption
            · assumption
          · assumption
        · assumption
      try clear_value x2
      extract_lets +onlyGivenNames -underBinder -merge x4
      try clear_value x4
      extract_lets +onlyGivenNames -underBinder -merge x5
      have h5 : Keeps s0 x5 := by
        subst x5
        refine keeps_loopL (fun a6_0 y6 h6 => ?_) ?_
        · refine keeps_loopL (fun a7_0 y7 h7 => ?_) ?_
          · refine keeps_legTo ?_
            assumption
          · assumption
        · assumption
      try clear_value x5
      extract_lets +onlyGivenNames -underBinder -merge x8
      try clear_value x8
      extract_lets +onlyGivenNames -underBinder -merge x9
      have h9 : Keeps s0 x9 := by
        subst x9
        refine keeps_setCrew ?_
        assumption
      try clear_value x9
      refine keeps_profCrewState ?_
      refine keeps_setCrewState ?_
      assumption

theorem keeps_crewStop {s0 : State} {s : State} {n : Nat} (hK : Keeps s0 s) :
    Keeps s0 (State.crewStop s n) := by
  rw [show @State.crewStop = _ from by delta State.crewStop; rfl]
  refine keeps_ite ?_ ?_
  · refine keeps_profCrewState ?_
    refine keeps_setCrewState ?_
    refine keeps_crewOff ?_
    assumption
  · refine keeps_ite ?_ ?_
    · extract_lets +onlyGivenNames -underBinder -merge x1
      try clear_value x1
      refine keeps_ite ?_ ?_
      · refine keeps_profCrewState ?_
        refine keeps_setCrewState ?_
        refine keeps_crewOff ?_
        assumption
      · refine keeps_setCrew ?_
        assumption
    · assumption

theorem keeps_execCrewStart {s0 : State} {n : CrewNo} {s : State} (hK : Keeps s0 s) :
    Goes s0 (execCrewStart n s) := by
  rw [show @execCrewStart = _ from by delta execCrewStart; rfl]
  refine goes_onReg (fun y1 h1 => ?_) ?_
  · refine goes_next ?_
    refine keeps_crewStart ?_
    assumption
  · assumption

theorem keeps_execCrewStop {s0 : State} {n : CrewNo} {s : State} (hK : Keeps s0 s) :
    Goes s0 (execCrewStop n s) := by
  rw [show @execCrewStop = _ from by delta execCrewStop; rfl]
  refine goes_onReg (fun y1 h1 => ?_) ?_
  · refine goes_next ?_
    refine keeps_crewStop ?_
    assumption
  · assumption

theorem keeps_execCmdOfsWrite {s0 : State} {n : CrewNo} {v : Word} {s : State} (hK : Keeps s0 s) :
    Goes s0 (execCmdOfsWrite n v s) := by
  rw [show @execCmdOfsWrite = _ from by delta execCmdOfsWrite; rfl]
  refine keeps_onRegW (fun a1_0 y1 h1 => ?_) ?_
  · refine goes_next ?_
    refine keeps_wr ?_
    assumption
  · assumption

theorem keeps_cmdAmp {s0 : State} {s : State} {n : Nat} {v : Word} (hK : Keeps s0 s) :
    Keeps s0 (State.cmdAmp s n v) := by
  rw [show @State.cmdAmp = _ from by delta State.cmdAmp; rfl]
  extract_lets +onlyGivenNames -underBinder -merge x1
  have h1 : Keeps s0 x1 := by
    subst x1
    refine keeps_wr ?_
    assumption
  try clear_value x1
  extract_lets +onlyGivenNames -underBinder -merge x2
  try clear_value x2
  extract_lets +onlyGivenNames -underBinder -merge x3
  try clear_value x3
  extract_lets +onlyGivenNames -underBinder -merge x4
  try clear_value x4
  refine keeps_setCrew ?_
  assumption

theorem keeps_execCmdAmpWrite {s0 : State} {n : CrewNo} {v : Word} {s : State} (hK : Keeps s0 s) :
    Goes s0 (execCmdAmpWrite n v s) := by
  rw [show @execCmdAmpWrite = _ from by delta execCmdAmpWrite; rfl]
  refine keeps_onRegW (fun a1_0 y1 h1 => ?_) ?_
  · refine goes_next ?_
    refine keeps_cmdAmp ?_
    assumption
  · assumption

theorem keeps_execAngsetWrite {s0 : State} {n : CrewNo} {v : Word} {s : State} (hK : Keeps s0 s) :
    Goes s0 (execAngsetWrite n v s) := by
  rw [show @execAngsetWrite = _ from by delta execAngsetWrite; rfl]
  refine keeps_onRegW (fun a1_0 y1 h1 => ?_) ?_
  · refine goes_next ?_
    refine keeps_setCrew ?_
    assumption
  · assumption

theorem keeps_execTblDataAccess {s0 s : State} {w : Option Word} (h : Keeps s0 s) : Goes s0 (execTblDataAccess w s) := by
  unfold execTblDataAccess
  cases w with
  | none =>
    rw [if_neg (by simp)]
    refine goes_onRegRead (fun x hx => ?_) h
    exact goes_next (keeps_put (f := F.MOD_TBL_ADDR_INDEX) (keeps_put (f := F.MOD_TBL_ADDR_TABLE) (keeps_mk hx)))
  | some v =>
    rw [if_pos (by simp)]
    refine goes_onReg (fun x hx => ?_) h
    dsimp only
    exact goes_ite (goes_next (keeps_fault hx)) (goes_next (keeps_put (keeps_put (keeps_setPtab hx))))

theorem keeps_legMode {s0 : State} {s : State} {x m : Nat} (hK : Keeps s0 s) :
    Keeps s0 (State.legMode s x m) := by
  rw [show @State.legMode = _ from by delta State.legMode; rfl]
  extract_lets +onlyGivenNames -underBinder -merge x1
  try clear_value x1
  refine keeps_ite ?_ ?_
  · refine keeps_fault ?_
    assumption
  · refine keeps_ite ?_ ?_
    · assumption
    · refine keeps_ite ?_ ?_
      · assumption
      · refine keeps_setLeg ?_
        refine keeps_put ?_
        assumption

theorem keeps_execLegModeWrite {s0 : State} {x : LegNo} {m : BitVec 2} {s : State} (hK : Keeps s0 s) :
    Goes s0 (execLegModeWrite x m s) := by
  rw [show @execLegModeWrite = _ from by delta execLegModeWrite; rfl]
  refine goes_onReg (fun y1 h1 => ?_) ?_
  · refine goes_next ?_
    refine keeps_legMode ?_
    assumption
  · assumption

theorem keeps_legRaw {s0 : State} {s : State} {x : Nat} {hs ls : Bool} (hK : Keeps s0 s) :
    Keeps s0 (State.legRaw s x hs ls) := by
  rw [show @State.legRaw = _ from by delta State.legRaw; rfl]
  extract_lets +onlyGivenNames -underBinder -merge x1
  have h1 : Keeps s0 x1 := by
    subst x1
    refine keeps_putB ?_
    refine keeps_putB ?_
    assumption
  try clear_value x1
  refine keeps_setLeg ?_
  assumption

theorem keeps_execLegRawWrite {s0 : State} {x : LegNo} {hs ls : Bool} {s : State} (hK : Keeps s0 s) :
    Goes s0 (execLegRawWrite x hs ls s) := by
  rw [show @execLegRawWrite = _ from by delta execLegRawWrite; rfl]
  refine goes_onReg (fun y1 h1 => ?_) ?_
  · refine goes_next ?_
    refine keeps_legRaw ?_
    assumption
  · assumption

theorem keeps_shoot {s0 : State} {s : State} {x : Nat} (hK : Keeps s0 s) :
    Keeps s0 (State.shoot s x) := by
  rw [show @State.shoot = _ from by delta State.shoot; rfl]
  extract_lets +onlyGivenNames -underBinder -merge x1
  try clear_value x1
  extract_lets +onlyGivenNames -underBinder -merge x2
  try clear_value x2
  extract_lets +onlyGivenNames -underBinder -merge x3
  have h3 : Keeps s0 x3 := by
    subst x3
    refine keeps_legOff ?_
    assumption
  try clear_value x3
  extract_lets +onlyGivenNames -underBinder -merge x4
  have h4 : Keeps s0 x4 := by
    subst x4
    refine keeps_putB ?_
    assumption
  try clear_value x4
  extract_lets +onlyGivenNames -underBinder -merge x5
  have h5 : Keeps s0 x5 := by
    subst x5
    refine keeps_raise ?_
    assumption
  try clear_value x5
  extract_lets +onlyGivenNames -underBinder -merge x6
  have h6 : Keeps s0 x6 := by
    subst x6
    refine keeps_incSat ?_
    refine keeps_incSat ?_
    assumption
  try clear_value x6
  extract_lets +onlyGivenNames -underBinder -merge x7
  have h7 : Keeps s0 x7 := by
    subst x7
    refine keeps_fault ?_
    assumption
  try clear_value x7
  extract_lets +onlyGivenNames -underBinder -merge x8
  try clear_value x8
  extract_lets +onlyGivenNames -underBinder -merge x9
  have h9 : Keeps s0 x9 := by
    subst x9
    refine keeps_setLeg ?_
    assumption
  try clear_value x9
  extract_lets +onlyGivenNames -underBinder -merge x10
  have h10 : Keeps s0 x10 := by
    subst x10
    split
    · refine keeps_raise ?_
      assumption
    · assumption
  try clear_value x10
  refine keeps_ite ?_ ?_
  · extract_lets +onlyGivenNames -underBinder -merge x11
    have h11 : Keeps s0 x11 := by
      subst x11
      refine keeps_legLasting ?_
      refine keeps_fault ?_
      assumption
    try clear_value x11
    split
    · refine keeps_faultStop ?_
      assumption
    · assumption
  · assumption

theorem keeps_legTick {s0 : State} {s : State} {x : Nat} (hK : Keeps s0 s) :
    Keeps s0 (State.legTick s x) := by
  rw [show @State.legTick = _ from by delta State.legTick; rfl]
  extract_lets +onlyGivenNames -underBinder -merge x1
  try clear_value x1
  refine keeps_ite ?_ ?_
  · assumption
  · extract_lets +onlyGivenNames -underBinder -merge x2
    have h2 : Keeps s0 x2 := by
      subst x2
      refine keeps_setLeg ?_
      assumption
    try clear_value x2
    refine keeps_ite ?_ ?_
    · refine keeps_ite ?_ ?_
      · refine keeps_legOff ?_
        assumption
      · assumption
    · extract_lets +onlyGivenNames -underBinder -merge x3
      try clear_value x3
      refine keeps_ite ?_ ?_
      · refine keeps_ite ?_ ?_
        · assumption
        · extract_lets +onlyGivenNames -underBinder -merge x4
          try clear_value x4
          extract_lets +onlyGivenNames -underBinder -merge x5
          try clear_value x5
          refine keeps_ite ?_ ?_
          · refine keeps_shoot ?_
            assumption
          · refine keeps_ite ?_ ?_
            · refine keeps_legTo ?_
              assumption
            · refine keeps_ite ?_ ?_
              · refine keeps_legTo ?_
                assumption
              · refine keeps_legOff ?_
                assumption
      · refine keeps_ite ?_ ?_
        · refine keeps_legOff ?_
          assumption
        · assumption

theorem keeps_execShootLockoutEnd {s0 : State} {x : LegNo} {s : State} (hK : Keeps s0 s) :
    Goes s0 (execShootLockoutEnd x s) := by
  rw [show @execShootLockoutEnd = _ from by delta execShootLockoutEnd; rfl]
  split
  · refine goes_next ?_
    assumption
  · extract_lets +onlyGivenNames -underBinder -merge x1
    have h1 : Keeps s0 x1 := by
      subst x1
      refine keeps_advanceTb ?_
      assumption
    try clear_value x1
    refine goes_next ?_
    refine keeps_putB ?_
    refine keeps_setLeg ?_
    assumption

theorem keeps_legDt {s0 : State} {s : State} {x : Nat} {v : Word} (hK : Keeps s0 s) :
    Keeps s0 (State.legDt s x v) := by
  rw [show @State.legDt = _ from by delta State.legDt; rfl]
  extract_lets +onlyGivenNames -underBinder -merge x1
  try clear_value x1
  extract_lets +onlyGivenNames -underBinder -merge x2
  try clear_value x2
  extract_lets +onlyGivenNames -underBinder -merge x3
  try clear_value x3
  extract_lets +onlyGivenNames -underBinder -merge x4
  try clear_value x4
  refine keeps_ite ?_ ?_
  · refine keeps_fault ?_
    assumption
  · refine keeps_ite ?_ ?_
    · refine keeps_fault ?_
      assumption
    · extract_lets +onlyGivenNames -underBinder -merge x5
      try clear_value x5
      extract_lets +onlyGivenNames -underBinder -merge x6
      have h6 : Keeps s0 x6 := by
        subst x6
        refine keeps_put ?_
        refine keeps_put ?_
        assumption
      try clear_value x6
      refine keeps_ite ?_ ?_
      · refine keeps_setLeg ?_
        assumption
      · assumption

theorem keeps_execLegDtWrite {s0 : State} {x : LegNo} {v : Word} {s : State} (hK : Keeps s0 s) :
    Goes s0 (execLegDtWrite x v s) := by
  rw [show @execLegDtWrite = _ from by delta execLegDtWrite; rfl]
  refine keeps_onRegW (fun a1_0 y1 h1 => ?_) ?_
  · refine goes_next ?_
    refine keeps_legDt ?_
    assumption
  · assumption

theorem keeps_legMinpw {s0 : State} {s : State} {x pw : Nat} (hK : Keeps s0 s) :
    Keeps s0 (State.legMinpw s x pw) := by
  rw [show @State.legMinpw = _ from by delta State.legMinpw; rfl]
  refine keeps_ite ?_ ?_
  · assumption
  · extract_lets +onlyGivenNames -underBinder -merge x1
    try clear_value x1
    refine keeps_ite ?_ ?_
    · refine keeps_fault ?_
      assumption
    · refine keeps_put ?_
      assumption

theorem keeps_execLegMinpwWrite {s0 : State} {x : LegNo} {pw : BitVec 8} {s : State} (hK : Keeps s0 s) :
    Goes s0 (execLegMinpwWrite x pw s) := by
  rw [show @execLegMinpwWrite = _ from by delta execLegMinpwWrite; rfl]
  refine goes_onReg (fun y1 h1 => ?_) ?_
  · refine goes_next ?_
    refine keeps_legMinpw ?_
    assumption
  · assumption

theorem keeps_execBootstrapRefresh {s0 : State} {x : LegNo} {s : State} (hK : Keeps s0 s) :
    Goes s0 (execBootstrapRefresh x s) := by
  rw [show @execBootstrapRefresh = _ from by delta execBootstrapRefresh; rfl]
  refine goes_ite ?_ ?_
  · refine goes_next ?_
    assumption
  · extract_lets +onlyGivenNames -underBinder -merge x1
    have h1 : Keeps s0 x1 := by
      subst x1
      refine keeps_advanceTb ?_
      assumption
    try clear_value x1
    extract_lets +onlyGivenNames -underBinder -merge x2
    have h2 : Keeps s0 x2 := by
      subst x2
      refine keeps_raise ?_
      refine keeps_incSat ?_
      assumption
    try clear_value x2
    extract_lets +onlyGivenNames -underBinder -merge x3
    have h3 : Keeps s0 x3 := by
      subst x3
      split
      · refine keeps_raise ?_
        assumption
      · assumption
    try clear_value x3
    extract_lets +onlyGivenNames -underBinder -merge x4
    have h4 : Keeps s0 x4 := by
      subst x4
      refine keeps_edge ?_
      assumption
    try clear_value x4
    extract_lets +onlyGivenNames -underBinder -merge x5
    try clear_value x5
    extract_lets +onlyGivenNames -underBinder -merge x6
    have h6 : Keeps s0 x6 := by
      subst x6
      refine keeps_setLeg ?_
      assumption
    try clear_value x6
    refine goes_next ?_
    refine keeps_putB ?_
    assumption

theorem keeps_execRefreshPulseEnd {s0 : State} {x : LegNo} {s : State} (hK : Keeps s0 s) :
    Goes s0 (execRefreshPulseEnd x s) := by
  rw [show @execRefreshPulseEnd = _ from by delta execRefreshPulseEnd; rfl]
  refine goes_ite ?_ ?_
  · extract_lets +onlyGivenNames -underBinder -merge x1
    have h1 : Keeps s0 x1 := by
      subst x1
      refine keeps_advanceTb ?_
      assumption
    try clear_value x1
    extract_lets +onlyGivenNames -underBinder -merge x2
    have h2 : Keeps s0 x2 := by
      subst x2
      refine keeps_edge ?_
      assumption
    try clear_value x2
    extract_lets +onlyGivenNames -underBinder -merge x3
    try clear_value x3
    extract_lets +onlyGivenNames -underBinder -merge x4
    have h4 : Keeps s0 x4 := by
      subst x4
      refine keeps_setLeg ?_
      assumption
    try clear_value x4
    refine goes_next ?_
    refine keeps_putB ?_
    assumption
  · refine goes_next ?_
    assumption

theorem keeps_setChop {s0 : State} {s : State} {n : Nat} {b : Bool} {c : ChopRec} (hK : Keeps s0 s) :
    Keeps s0 (State.setChop s n b c) := by
  rw [show @State.setChop = _ from by delta State.setChop; rfl]
  refine keeps_setCrew ?_
  assumption

theorem keeps_chopLatch {s0 : State} {s : State} {n : Nat} {b : Bool} (hK : Keeps s0 s) :
    Keeps s0 (State.chopLatch s n b) := by
  rw [show @State.chopLatch = _ from by delta State.chopLatch; rfl]
  refine keeps_setChop ?_
  assumption

theorem keeps_chopLeg {s0 : State} {s : State} {x : Nat} {hs : Bool} {fin : Option Nat} (hK : Keeps s0 s) :
    Keeps s0 (State.chopLeg s x hs fin) := by
  rw [show @State.chopLeg = _ from by delta State.chopLeg; rfl]
  refine keeps_ite ?_ ?_
  · assumption
  · refine keeps_legTo ?_
    assumption

theorem keeps_chopApply {s0 : State} {s : State} {n : Nat} {b : Bool} (hK : Keeps s0 s) :
    Keeps s0 (State.chopApply s n b) := by
  rw [show @State.chopApply = _ from by delta State.chopApply; rfl]
  extract_lets +onlyGivenNames -underBinder -merge x1
  try clear_value x1
  extract_lets +onlyGivenNames -underBinder -merge x2
  try clear_value x2
  extract_lets +onlyGivenNames -underBinder -merge x3
  try clear_value x3
  extract_lets +onlyGivenNames -underBinder -merge x4
  try clear_value x4
  refine keeps_ite ?_ ?_
  · extract_lets +onlyGivenNames -underBinder -merge x5
    try clear_value x5
    split
    · refine keeps_chopLeg ?_
      refine keeps_chopLeg ?_
      assumption
    · refine keeps_chopLeg ?_
      refine keeps_chopLeg ?_
      assumption
    · refine keeps_chopLeg ?_
      refine keeps_chopLeg ?_
      assumption
  · split
    · refine keeps_chopLeg ?_
      assumption
    · refine keeps_legOff ?_
      assumption
    · refine keeps_chopLeg ?_
      assumption

theorem keeps_chopSlow {s0 : State} {s : State} {n : Nat} {b : Bool} (hK : Keeps s0 s) :
    Keeps s0 (State.chopSlow s n b) := by
  rw [show @State.chopSlow = _ from by delta State.chopSlow; rfl]
  refine keeps_chopApply ?_
  refine keeps_setChop ?_
  assumption

theorem keeps_chopOn {s0 : State} {s : State} {n : Nat} {b : Bool} (hK : Keeps s0 s) :
    Keeps s0 (State.chopOn s n b) := by
  rw [show @State.chopOn = _ from by delta State.chopOn; rfl]
  extract_lets +onlyGivenNames -underBinder -merge x1
  have h1 : Keeps s0 x1 := by
    subst x1
    refine keeps_setChop ?_
    assumption
  try clear_value x1
  refine keeps_ite ?_ ?_
  · refine keeps_chopApply ?_
    assumption
  · refine keeps_legOff ?_
    refine keeps_setChop ?_
    assumption

theorem keeps_chopBegin {s0 : State} {s : State} {n : Nat} {b : Bool} (hK : Keeps s0 s) :
    Keeps s0 (State.chopBegin s n b) := by
  rw [show @State.chopBegin = _ from by delta State.chopBegin; rfl]
  refine keeps_ite ?_ ?_
  · refine keeps_chopOn ?_
    assumption
  · refine keeps_chopSlow ?_
    refine keeps_setChop ?_
    assumption

theorem keeps_execChopFastDecayEnd {s0 : State} {n : CrewNo} {b : Bool} {s : State} (hK : Keeps s0 s) :
    Goes s0 (execChopFastDecayEnd n b s) := by
  rw [show @execChopFastDecayEnd = _ from by delta execChopFastDecayEnd; rfl]
  extract_lets +onlyGivenNames -underBinder -merge x1
  try clear_value x1
  refine goes_ite ?_ ?_
  · refine goes_next ?_
    refine keeps_chopSlow ?_
    refine keeps_advanceTb ?_
    assumption
  · refine goes_next ?_
    assumption

theorem keeps_execChopOffTimeEnd {s0 : State} {n : CrewNo} {b : Bool} {s : State} (hK : Keeps s0 s) :
    Goes s0 (execChopOffTimeEnd n b s) := by
  rw [show @execChopOffTimeEnd = _ from by delta execChopOffTimeEnd; rfl]
  extract_lets +onlyGivenNames -underBinder -merge x1
  try clear_value x1
  refine goes_ite ?_ ?_
  · extract_lets +onlyGivenNames -underBinder -merge x2
    have h2 : Keeps s0 x2 := by
      subst x2
      refine keeps_ite ?_ ?_
      · refine keeps_advanceTb ?_
        assumption
      · assumption
    try clear_value x2
    refine goes_ite ?_ ?_
    · refine goes_next ?_
      refine keeps_chopOn ?_
      assumption
    · refine goes_next ?_
      refine keeps_setChop ?_
      assumption
  · refine goes_next ?_
    assumption

theorem keeps_applyCmd {s0 : State} {s : State} {n : Nat} {c : PhaseCmd} (hK : Keeps s0 s) :
    Keeps s0 (State.applyCmd s n c) := by
  rw [show @State.applyCmd = _ from by delta State.applyCmd; rfl]
  extract_lets +onlyGivenNames -underBinder -merge x1
  try clear_value x1
  extract_lets +onlyGivenNames -underBinder -merge x2
  have h2 : Keeps s0 x2 := by
    subst x2
    refine keeps_ite ?_ ?_
    · refine keeps_fault ?_
      refine keeps_incSat ?_
      assumption
    · assumption
  try clear_value x2
  extract_lets +onlyGivenNames -underBinder -merge x3
  have h3 : Keeps s0 x3 := by
    subst x3
    refine keeps_wr ?_
    assumption
  try clear_value x3
  refine keeps_ite ?_ ?_
  · extract_lets +onlyGivenNames -underBinder -merge x4
    have h4 : Keeps s0 x4 := by
      subst x4
      refine keeps_wr ?_
      assumption
    try clear_value x4
    refine keeps_fault ?_
    refine keeps_raise ?_
    refine keeps_incSat ?_
    assumption
  · refine keeps_wr ?_
    assumption

theorem keeps_applyCmds {s0 : State} {s : State} {n : Nat} (hK : Keeps s0 s) :
    Keeps s0 (State.applyCmds s n) := by
  rw [show @State.applyCmds = _ from by delta State.applyCmds; rfl]
  extract_lets +onlyGivenNames -underBinder -merge x1
  try clear_value x1
  extract_lets +onlyGivenNames -underBinder -merge x2
  have h2 : Keeps s0 x2 := by
    subst x2
    refine keeps_loopL (fun a3_0 y3 h3 => ?_) ?_
    · refine keeps_applyCmd ?_
      assumption
    · assumption
  try clear_value x2
  extract_lets +onlyGivenNames -underBinder -merge x4
  try clear_value x4
  refine keeps_setCrew ?_
  assumption

theorem keeps_angleTick {s0 : State} {s : State} {n : Nat} {inc : Int} (hK : Keeps s0 s) :
    Keeps s0 (State.angleTick s n inc) := by
  rw [show @State.angleTick = _ from by delta State.angleTick; rfl]
  extract_lets +onlyGivenNames -underBinder -merge x1
  try clear_value x1
  split
  · refine keeps_setCrew ?_
    refine keeps_wr ?_
    assumption
  · extract_lets +onlyGivenNames -underBinder -merge x2
    try clear_value x2
    refine keeps_setCrew ?_
    refine keeps_wr ?_
    assumption

theorem keeps_crewTickEdges {s0 : State} {s : State} {n : Nat} (hK : Keeps s0 s) :
    Keeps s0 (State.crewTickEdges s n) := by
  rw [show @State.crewTickEdges = _ from by delta State.crewTickEdges; rfl]
  extract_lets +onlyGivenNames -underBinder -merge x1
  try clear_value x1
  extract_lets +onlyGivenNames -underBinder -merge x2
  have h2 : Keeps s0 x2 := by
    subst x2
    refine keeps_ite ?_ ?_
    · assumption
    · refine keeps_loopN (fun a3_0 y3 h3 => ?_) ?_
      · refine keeps_ite ?_ ?_
        · refine keeps_loopL (fun a4_0 y4 h4 => ?_) ?_
          · refine keeps_legOff ?_
            assumption
          · assumption
        · assumption
      · assumption
  try clear_value x2
  extract_lets +onlyGivenNames -underBinder -merge x5
  have h5 : Keeps s0 x5 := by
    subst x5
    refine keeps_ite ?_ ?_
    · refine keeps_ite ?_ ?_
      · refine keeps_loopL (fun a6_0 y6 h6 => ?_) ?_
        · refine keeps_legShort ?_
          assumption
        · assumption
      · refine keeps_crewOff ?_
        assumption
    · assumption
  try clear_value x5
  refine keeps_setCrew ?_
  assumption

theorem keeps_crossNow {s0 : State} {s : State} {n j : Nat} (hK : Keeps s0 s) :
    Keeps s0 (State.crossNow s n j) := by
  rw [show @State.crossNow = _ from by delta State.crossNow; rfl]
  refine keeps_loopL (fun a1_0 y1 h1 => ?_) ?_
  · refine keeps_ite ?_ ?_
    · refine keeps_cross ?_
      assumption
    · assumption
  · assumption

theorem keeps_immediateTick {s0 : State} {s : State} {n : Nat} (hK : Keeps s0 s) :
    Keeps s0 (State.immediateTick s n) := by
  rw [show @State.immediateTick = _ from by delta State.immediateTick; rfl]
  refine keeps_ite ?_ ?_
  · refine keeps_loopN (fun a1_0 y1 h1 => ?_) ?_
    · refine keeps_ite ?_ ?_
      · refine keeps_crossNow ?_
        refine keeps_loadCompares ?_
        assumption
      · refine keeps_loadPoint ?_
        assumption
    · assumption
  · assumption

end Sys2Proof.Machine
end

