-- ==== Sys2Proof/Laws/KeepsRing.lean ====
section
/-! SUPPORT. Laws/KeepsRing.lean: what the operations of Machine/Ring.lean keep. -/
namespace Sys2Proof.Machine

theorem keeps_setPtpPort {s0 : State} {s : State} {p : Nat} {v : PtpPort} (hK : Keeps s0 s) :
    Keeps s0 (State.setPtpPort s p v) := by
  rw [show @State.setPtpPort = _ from by delta State.setPtpPort; rfl]
  refine keeps_ite ?_ ?_
  · refine keeps_mk ?_
    assumption
  · refine keeps_mk ?_
    assumption

theorem keeps_setEgress {s0 : State} {s : State} {p : Nat} {e : EgressRec} (hK : Keeps s0 s) :
    Keeps s0 (State.setEgress s p e) := by
  rw [show @State.setEgress = _ from by delta State.setEgress; rfl]
  refine keeps_ite ?_ ?_
  · refine keeps_mk ?_
    assumption
  · refine keeps_mk ?_
    assumption

theorem keeps_egressPut {s0 : State} {s : State} {p : Nat} {f : TxFrame} (hK : Keeps s0 s) :
    Keeps s0 (State.egressPut s p f) := by
  rw [show @State.egressPut = _ from by delta State.egressPut; rfl]
  refine keeps_ite ?_ ?_
  · assumption
  · extract_lets +onlyGivenNames -underBinder -merge x1
    try clear_value x1
    refine keeps_ite ?_ ?_
    · refine keeps_fault ?_
      refine keeps_incSat ?_
      assumption
    · refine keeps_setEgress ?_
      assumption

theorem keeps_ptpStarted {s0 : State} {s : State} {p : Nat} {x : PtpTx} (hK : Keeps s0 s) :
    Keeps s0 (State.ptpStarted s p x) := by
  rw [show @State.ptpStarted = _ from by delta State.ptpStarted; rfl]
  extract_lets +onlyGivenNames -underBinder -merge x1
  try clear_value x1
  extract_lets +onlyGivenNames -underBinder -merge x2
  try clear_value x2
  extract_lets +onlyGivenNames -underBinder -merge x3
  try clear_value x3
  refine keeps_ite ?_ ?_
  · refine keeps_ite ?_ ?_
    · refine keeps_setPtpPort ?_
      assumption
    · assumption
  · refine keeps_ite ?_ ?_
    · split
      · refine keeps_ite ?_ ?_
        · refine keeps_setPtpPort ?_
          assumption
        · assumption
      · assumption
    · refine keeps_ite ?_ ?_
      · refine keeps_egressPut ?_
        assumption
      · refine keeps_ite ?_ ?_
        · refine keeps_egressPut ?_
          assumption
        · assumption

theorem keeps_egressStart {s0 : State} {s : State} {p : Nat} {f : TxFrame} (hK : Keeps s0 s) :
    Keeps s0 (State.egressStart s p f) := by
  rw [show @State.egressStart = _ from by delta State.egressStart; rfl]
  extract_lets +onlyGivenNames -underBinder -merge x1
  try clear_value x1
  extract_lets +onlyGivenNames -underBinder -merge x2
  try clear_value x2
  extract_lets +onlyGivenNames -underBinder -merge x3
  have h3 : Keeps s0 x3 := by
    subst x3
    refine keeps_setEgress ?_
    assumption
  try clear_value x3
  extract_lets +onlyGivenNames -underBinder -merge x4
  have h4 : Keeps s0 x4 := by
    subst x4
    refine keeps_incSat ?_
    assumption
  try clear_value x4
  split
  · refine keeps_ptpStarted ?_
    assumption
  · assumption

theorem keeps_execEgressFrameStart {s0 : State} {p : RingPort} {s : State} (hK : Keeps s0 s) :
    Goes s0 (execEgressFrameStart p s) := by
  rw [show @execEgressFrameStart = _ from by delta execEgressFrameStart; rfl]
  refine goes_ite ?_ ?_
  · refine goes_next ?_
    assumption
  · extract_lets +onlyGivenNames -underBinder -merge x1
    have h1 : Keeps s0 x1 := by
      subst x1
      refine keeps_until ?_
      assumption
    try clear_value x1
    split
    · refine goes_next ?_
      refine keeps_egressStart ?_
      refine keeps_setEgress ?_
      assumption
    · refine goes_next ?_
      assumption

theorem keeps_residence {s0 : State} {s : State} (hK : Keeps s0 s) :
    Keeps s0 (State.residence s).2 := by
  rw [show @State.residence = _ from by delta State.residence; rfl]
  refine keeps_iteP ?_ ?_
  · refine keeps_freeIn ?_
    assumption
  · refine keeps_freeIn ?_
    assumption

theorem keeps_ringSend {s0 : State} {s : State} {express : Bool} {dst etype : Nat} {payload : List Byte} (hK : Keeps s0 s) :
    Keeps s0 (State.ringSend s express dst etype payload) := by
  rw [show @State.ringSend = _ from by delta State.ringSend; rfl]
  extract_lets +onlyGivenNames -underBinder -merge x1
  try clear_value x1
  extract_lets +onlyGivenNames -underBinder -merge x2
  try clear_value x2
  extract_lets +onlyGivenNames -underBinder -merge x3
  have h3 : Keeps s0 x3 := by
    subst x3
    refine keeps_mk ?_
    assumption
  try clear_value x3
  refine keeps_loopN (fun a4_0 y4 h4 => ?_) ?_
  · refine keeps_egressPut ?_
    assumption
  · assumption

theorem keeps_ringFwd {s0 s : State} {p : Nat} {e : Bool} {f : RingFrame} (h : Keeps s0 s) :
    Keeps s0 (State.ringRx.fwd p e f s) := keeps_egressPut (keeps_residence h)

theorem keeps_ringRx {s0 s : State} {p : Nat} {e : Bool} {f : RingFrame} (h : Keeps s0 s) : Keeps s0 (s.ringRx p e f).2 := by
  unfold State.ringRx
  refine keeps_iteP h (keeps_iteP (keeps_incSat h) ?_)
  have g := keeps_incSat (f := F.RING_PORT_RXCNT_COUNT p) h
  refine keeps_iteP g (keeps_iteP (keeps_iteP ?_ ?_) (keeps_ringFwd g))
  · exact keeps_incSat g
  · exact keeps_ite (keeps_ringFwd (keeps_mk g)) (keeps_mk g)

theorem keeps_execRingFrame {s0 : State} {p : RingPort} {f : RingFrame} {s : State} (hK : Keeps s0 s) :
    Goes s0 (execRingFrame p f s) := by
  rw [show @execRingFrame = _ from by delta execRingFrame; rfl]
  refine goes_next ?_
  refine keeps_ringRx ?_
  assumption

theorem keeps_setNodes {s0 : State} {s : State} {l : List HsrNode} (hK : Keeps s0 s) :
    Keeps s0 (State.setNodes s l) := by
  rw [show @State.setNodes = _ from by delta State.setNodes; rfl]
  refine keeps_put ?_
  refine keeps_mk ?_
  assumption

theorem keeps_supHeard {s0 : State} {s : State} {p m : Nat} (hK : Keeps s0 s) :
    Keeps s0 (State.supHeard s p m) := by
  rw [show @State.supHeard = _ from by delta State.supHeard; rfl]
  extract_lets +onlyGivenNames -underBinder -merge x1
  try clear_value x1
  extract_lets +onlyGivenNames -underBinder -merge x2
  have h2 : Keeps s0 x2 := by
    subst x2
    refine keeps_ite ?_ ?_
    · refine keeps_fault ?_
      refine keeps_putB ?_
      assumption
    · assumption
  try clear_value x2
  extract_lets +onlyGivenNames -underBinder -merge x3
  try clear_value x3
  extract_lets +onlyGivenNames -underBinder -merge x4
  have h4 : Keeps s0 x4 := by
    subst x4
    refine keeps_ite ?_ ?_
    · assumption
    · refine keeps_ite ?_ ?_
      · refine keeps_setNodes ?_
        assumption
      · refine keeps_ite ?_ ?_
        · refine keeps_fault ?_
          assumption
        · refine keeps_setNodes ?_
          assumption
  try clear_value x4
  refine keeps_ite ?_ ?_
  · refine keeps_putB ?_
    assumption
  · assumption

theorem keeps_execSupervisionFrame {s0 : State} {p : RingPort} {f : RingFrame} {named : BitVec 48} {s : State} (hK : Keeps s0 s) :
    Goes s0 (execSupervisionFrame p f named s) := by
  rw [show @execSupervisionFrame = _ from by delta execSupervisionFrame; rfl]
  refine goes_ite ?_ ?_
  · refine goes_next ?_
    refine keeps_ringRx ?_
    assumption
  · refine goes_next ?_
    refine keeps_supHeard ?_
    refine keeps_ringRx ?_
    assumption

theorem keeps_execSupervisionSend {s0 : State} {s : State} (hK : Keeps s0 s) :
    Goes s0 (execSupervisionSend s) := by
  rw [show @execSupervisionSend = _ from by delta execSupervisionSend; rfl]
  refine goes_ite ?_ ?_
  · refine goes_next ?_
    assumption
  · extract_lets +onlyGivenNames -underBinder -merge x1
    have h1 : Keeps s0 x1 := by
      subst x1
      refine keeps_until ?_
      assumption
    try clear_value x1
    extract_lets +onlyGivenNames -underBinder -merge x2
    try clear_value x2
    extract_lets +onlyGivenNames -underBinder -merge x3
    have h3 : Keeps s0 x3 := by
      subst x3
      refine keeps_ite ?_ ?_
      · refine keeps_advance ?_
        assumption
      · assumption
    try clear_value x3
    extract_lets +onlyGivenNames -underBinder -merge x4
    try clear_value x4
    extract_lets +onlyGivenNames -underBinder -merge x5
    try clear_value x5
    extract_lets +onlyGivenNames -underBinder -merge x6
    have h6 : Keeps s0 x6 := by
      subst x6
      refine keeps_mk ?_
      assumption
    try clear_value x6
    refine goes_next ?_
    refine keeps_ringSend ?_
    assumption

theorem keeps_untilFirst {s0 : State} {s : State} {l : List Nat} (hK : Keeps s0 s) :
    Keeps s0 (State.untilFirst s l) := by
  rw [show @State.untilFirst = _ from by delta State.untilFirst; rfl]
  split
  · assumption
  · refine keeps_until ?_
    assumption

theorem keeps_execRingBroken {s0 : State} {s : State} (hK : Keeps s0 s) :
    Goes s0 (execRingBroken s) := by
  rw [show @execRingBroken = _ from by delta execRingBroken; rfl]
  refine goes_ite ?_ ?_
  · refine goes_next ?_
    assumption
  · extract_lets +onlyGivenNames -underBinder -merge x1
    have h1 : Keeps s0 x1 := by
      subst x1
      refine keeps_ite ?_ ?_
      · assumption
      · refine keeps_untilFirst ?_
        assumption
    try clear_value x1
    refine goes_ite ?_ ?_
    · refine goes_next ?_
      refine keeps_fault ?_
      refine keeps_raise ?_
      refine keeps_putB ?_
      assumption
    · refine goes_next ?_
      assumption

theorem keeps_execNodeForget {s0 : State} {s : State} (hK : Keeps s0 s) :
    Goes s0 (execNodeForget s) := by
  rw [show @execNodeForget = _ from by delta execNodeForget; rfl]
  extract_lets +onlyGivenNames -underBinder -merge x1
  have h1 : Keeps s0 x1 := by
    subst x1
    refine keeps_untilFirst ?_
    assumption
  try clear_value x1
  refine goes_next ?_
  refine keeps_setNodes ?_
  assumption

theorem keeps_execRingLinkChange {s0 : State} {p : RingPort} {up : Bool} {s : State} (hK : Keeps s0 s) :
    Goes s0 (execRingLinkChange p up s) := by
  rw [show @execRingLinkChange = _ from by delta execRingLinkChange; rfl]
  refine goes_ite ?_ ?_
  · refine goes_next ?_
    assumption
  · extract_lets +onlyGivenNames -underBinder -merge x1
    have h1 : Keeps s0 x1 := by
      subst x1
      refine keeps_putB ?_
      refine keeps_putB ?_
      assumption
    try clear_value x1
    extract_lets +onlyGivenNames -underBinder -merge x2
    have h2 : Keeps s0 x2 := by
      subst x2
      refine keeps_ite ?_ ?_
      · refine keeps_raise ?_
        refine keeps_putB ?_
        assumption
      · refine keeps_raise ?_
        refine keeps_putB ?_
        assumption
    try clear_value x2
    refine goes_next ?_
    refine keeps_ite ?_ ?_
    · assumption
    · refine keeps_fault ?_
      refine keeps_setEgress ?_
      assumption

theorem keeps_execProtectedWindowOpen {s0 : State} {s : State} (hK : Keeps s0 s) :
    Goes s0 (execProtectedWindowOpen s) := by
  rw [show @execProtectedWindowOpen = _ from by delta execProtectedWindowOpen; rfl]
  refine goes_ite ?_ ?_
  · refine goes_next ?_
    assumption
  · extract_lets +onlyGivenNames -underBinder -merge x1
    try clear_value x1
    extract_lets +onlyGivenNames -underBinder -merge x2
    have h2 : Keeps s0 x2 := by
      subst x2
      refine keeps_ite ?_ ?_
      · assumption
      · refine keeps_advance ?_
        assumption
    try clear_value x2
    refine goes_next ?_
    refine keeps_mk ?_
    assumption

theorem keeps_execProtectedWindowClose {s0 : State} {s : State} (hK : Keeps s0 s) :
    Goes s0 (execProtectedWindowClose s) := by
  rw [show @execProtectedWindowClose = _ from by delta execProtectedWindowClose; rfl]
  refine goes_ite ?_ ?_
  · refine goes_next ?_
    assumption
  · extract_lets +onlyGivenNames -underBinder -merge x1
    try clear_value x1
    extract_lets +onlyGivenNames -underBinder -merge x2
    have h2 : Keeps s0 x2 := by
      subst x2
      refine keeps_ite ?_ ?_
      · refine keeps_advance ?_
        assumption
      · assumption
    try clear_value x2
    refine goes_next ?_
    refine keeps_mk ?_
    assumption

theorem keeps_execPhyrstnWrite {s0 : State} {p : RingPort} {v : Bool} {s : State} (hK : Keeps s0 s) :
    Goes s0 (execPhyrstnWrite p v s) := by
  rw [show @execPhyrstnWrite = _ from by delta execPhyrstnWrite; rfl]
  refine goes_onReg (fun y1 h1 => ?_) ?_
  · refine goes_next ?_
    refine keeps_putB ?_
    assumption
  · assumption

theorem keeps_execTxenWrite {s0 : State} {p : RingPort} {v : Bool} {s : State} (hK : Keeps s0 s) :
    Goes s0 (execTxenWrite p v s) := by
  rw [show @execTxenWrite = _ from by delta execTxenWrite; rfl]
  refine goes_onReg (fun y1 h1 => ?_) ?_
  · refine goes_next ?_
    refine keeps_putB ?_
    assumption
  · assumption

theorem keeps_mdioWrite {s0 : State} {s : State} {v : Word} (hK : Keeps s0 s) :
    Keeps s0 (State.mdioWrite s v) := by
  rw [show @State.mdioWrite = _ from by delta State.mdioWrite; rfl]
  refine keeps_ite ?_ ?_
  · assumption
  · extract_lets +onlyGivenNames -underBinder -merge x1
    have h1 : Keeps s0 x1 := by
      subst x1
      refine keeps_wr ?_
      assumption
    try clear_value x1
    refine keeps_ite ?_ ?_
    · extract_lets +onlyGivenNames -underBinder -merge x2
      have h2 : Keeps s0 x2 := by
        subst x2
        refine keeps_putB ?_
        assumption
      try clear_value x2
      refine keeps_mk ?_
      assumption
    · assumption

theorem keeps_execMdioOperation {s0 : State} {v : Word} {s : State} (hK : Keeps s0 s) :
    Goes s0 (execMdioOperation v s) := by
  rw [show @execMdioOperation = _ from by delta execMdioOperation; rfl]
  refine keeps_onRegW (fun a1_0 y1 h1 => ?_) ?_
  · refine goes_next ?_
    refine keeps_mdioWrite ?_
    assumption
  · assumption

theorem keeps_execMdioComplete {s0 : State} {data : BitVec 16} {ack : Bool} {s : State} (hK : Keeps s0 s) :
    Goes s0 (execMdioComplete data ack s) := by
  rw [show @execMdioComplete = _ from by delta execMdioComplete; rfl]
  refine goes_ite ?_ ?_
  · refine goes_next ?_
    assumption
  · extract_lets +onlyGivenNames -underBinder -merge x1
    have h1 : Keeps s0 x1 := by
      subst x1
      refine keeps_putB ?_
      refine keeps_until ?_
      assumption
    try clear_value x1
    extract_lets +onlyGivenNames -underBinder -merge x2
    try clear_value x2
    refine goes_ite ?_ ?_
    · refine goes_ite ?_ ?_
      · refine goes_next ?_
        refine keeps_put ?_
        assumption
      · refine goes_next ?_
        refine keeps_fault ?_
        refine keeps_raise ?_
        refine keeps_put ?_
        assumption
    · refine goes_next ?_
      assumption

theorem keeps_bypCheck {s0 : State} {s : State} (hK : Keeps s0 s) :
    Keeps s0 (State.bypCheck s) := by
  rw [show @State.bypCheck = _ from by delta State.bypCheck; rfl]
  refine keeps_ite ?_ ?_
  · refine keeps_putB ?_
    refine keeps_mk ?_
    assumption
  · refine keeps_ite ?_ ?_
    · refine keeps_mk ?_
      assumption
    · assumption

theorem keeps_setHold {s0 : State} {s : State} {b : Bool} (hK : Keeps s0 s) :
    Keeps s0 (State.setHold s b) := by
  rw [show @State.setHold = _ from by delta State.setHold; rfl]
  refine keeps_bypCheck ?_
  refine keeps_putB ?_
  assumption

theorem keeps_sendLeave {s0 : State} {s : State} {reason : Nat} (hK : Keeps s0 s) :
    Keeps s0 (State.sendLeave s reason) := by
  rw [show @State.sendLeave = _ from by delta State.sendLeave; rfl]
  extract_lets +onlyGivenNames -underBinder -merge x1
  try clear_value x1
  refine keeps_ringSend ?_
  assumption

theorem keeps_bypInsert {s0 : State} {s : State} {v : Bool} (hK : Keeps s0 s) :
    Keeps s0 (State.bypInsert s v) := by
  rw [show @State.bypInsert = _ from by delta State.bypInsert; rfl]
  extract_lets +onlyGivenNames -underBinder -merge x1
  have h1 : Keeps s0 x1 := by
    subst x1
    refine keeps_putB ?_
    assumption
  try clear_value x1
  refine keeps_ite ?_ ?_
  · refine keeps_setHold ?_
    assumption
  · refine keeps_setHold ?_
    refine keeps_mk ?_
    assumption

theorem keeps_execBypInsertWrite {s0 : State} {v : Bool} {s : State} (hK : Keeps s0 s) :
    Goes s0 (execBypInsertWrite v s) := by
  rw [show @execBypInsertWrite = _ from by delta execBypInsertWrite; rfl]
  refine goes_onReg (fun y1 h1 => ?_) ?_
  · refine goes_next ?_
    refine keeps_bypInsert ?_
    assumption
  · assumption

theorem keeps_bypLeave {s0 : State} {s : State} (hK : Keeps s0 s) :
    Keeps s0 (State.bypLeave s) := by
  rw [show @State.bypLeave = _ from by delta State.bypLeave; rfl]
  refine keeps_ite ?_ ?_
  · assumption
  · refine keeps_putB ?_
    extract_lets +onlyGivenNames -underBinder -merge x1
    have h1 : Keeps s0 x1 := by
      subst x1
      refine keeps_sendLeave ?_
      assumption
    try clear_value x1
    refine keeps_mk ?_
    assumption

theorem keeps_execBypLeaveWrite {s0 : State} {s : State} (hK : Keeps s0 s) :
    Goes s0 (execBypLeaveWrite s) := by
  rw [show @execBypLeaveWrite = _ from by delta execBypLeaveWrite; rfl]
  refine goes_onReg (fun y1 h1 => ?_) ?_
  · refine goes_next ?_
    refine keeps_bypLeave ?_
    assumption
  · assumption

theorem keeps_execLeaveExpiry {s0 : State} {s : State} (hK : Keeps s0 s) :
    Goes s0 (execLeaveExpiry s) := by
  rw [show @execLeaveExpiry = _ from by delta execLeaveExpiry; rfl]
  split
  · refine goes_next ?_
    assumption
  · extract_lets +onlyGivenNames -underBinder -merge x1
    have h1 : Keeps s0 x1 := by
      subst x1
      refine keeps_until ?_
      assumption
    try clear_value x1
    refine goes_next ?_
    refine keeps_setHold ?_
    refine keeps_putB ?_
    refine keeps_mk ?_
    assumption

theorem keeps_execBypSenseChange {s0 : State} {level : Bool} {s : State} (hK : Keeps s0 s) :
    Goes s0 (execBypSenseChange level s) := by
  rw [show @execBypSenseChange = _ from by delta execBypSenseChange; rfl]
  refine goes_ite ?_ ?_
  · refine goes_next ?_
    assumption
  · refine goes_next ?_
    refine keeps_bypCheck ?_
    refine keeps_raise ?_
    refine keeps_putB ?_
    assumption

theorem keeps_execBypMismatch {s0 : State} {s : State} (hK : Keeps s0 s) :
    Goes s0 (execBypMismatch s) := by
  rw [show @execBypMismatch = _ from by delta execBypMismatch; rfl]
  split
  · refine goes_ite ?_ ?_
    · refine goes_next ?_
      assumption
    · extract_lets +onlyGivenNames -underBinder -merge x1
      have h1 : Keeps s0 x1 := by
        subst x1
        refine keeps_until ?_
        assumption
      try clear_value x1
      refine goes_next ?_
      refine keeps_fault ?_
      refine keeps_putB ?_
      assumption
  · refine goes_next ?_
    assumption

theorem keeps_execLeaveAnnouncement {s0 : State} {p : RingPort} {f : RingFrame} {s : State} (hK : Keeps s0 s) :
    Goes s0 (execLeaveAnnouncement p f s) := by
  rw [show @execLeaveAnnouncement = _ from by delta execLeaveAnnouncement; rfl]
  split
  · rename_i heq
    have h1 := keeps_of_eqP (s0 := s0) heq (by
      refine keeps_ringRx ?_
      assumption)
    refine goes_ite ?_ ?_
    · extract_lets +onlyGivenNames -underBinder -merge x2
      have h2 : Keeps s0 x2 := by
        subst x2
        refine keeps_raise ?_
        assumption
      try clear_value x2
      extract_lets +onlyGivenNames -underBinder -merge x3
      have h3 : Keeps s0 x3 := by
        subst x3
        refine keeps_put ?_
        assumption
      try clear_value x3
      extract_lets +onlyGivenNames -underBinder -merge x4
      have h4 : Keeps s0 x4 := by
        subst x4
        refine keeps_put ?_
        assumption
      try clear_value x4
      refine goes_next ?_
      refine keeps_fault ?_
      assumption
    · refine goes_next ?_
      assumption

theorem keeps_lqArmNow {s0 : State} {s : State} {e : Nat} (hK : Keeps s0 s) :
    Keeps s0 (State.lqArmNow s e) := by
  rw [show @State.lqArmNow = _ from by delta State.lqArmNow; rfl]
  refine keeps_ite ?_ ?_
  · refine keeps_fault ?_
    refine keeps_putB ?_
    refine keeps_put ?_
    assumption
  · refine keeps_putB ?_
    refine keeps_put ?_
    assumption

theorem keeps_lqCtlWrite {s0 : State} {s : State} {e owner : Nat} {v : Word} (hK : Keeps s0 s) :
    Keeps s0 (State.lqCtlWrite s e owner v) := by
  rw [show @State.lqCtlWrite = _ from by delta State.lqCtlWrite; rfl]
  refine keeps_ite ?_ ?_
  · assumption
  · extract_lets +onlyGivenNames -underBinder -merge x1
    try clear_value x1
    extract_lets +onlyGivenNames -underBinder -merge x2
    have h2 : Keeps s0 x2 := by
      subst x2
      refine keeps_ite ?_ ?_
      · refine keeps_put ?_
        assumption
      · assumption
    try clear_value x2
    extract_lets +onlyGivenNames -underBinder -merge x3
    have h3 : Keeps s0 x3 := by
      subst x3
      refine keeps_ite ?_ ?_
      · refine keeps_putB ?_
        assumption
      · assumption
    try clear_value x3
    extract_lets +onlyGivenNames -underBinder -merge x4
    have h4 : Keeps s0 x4 := by
      subst x4
      refine keeps_ite ?_ ?_
      · refine keeps_putB ?_
        assumption
      · assumption
    try clear_value x4
    refine keeps_ite ?_ ?_
    · assumption
    · extract_lets +onlyGivenNames -underBinder -merge x5
      try clear_value x5
      extract_lets +onlyGivenNames -underBinder -merge x6
      try clear_value x6
      extract_lets +onlyGivenNames -underBinder -merge x7
      try clear_value x7
      extract_lets +onlyGivenNames -underBinder -merge x8
      try clear_value x8
      refine keeps_ite ?_ ?_
      · refine keeps_lqArmNow ?_
        assumption
      · assumption

theorem keeps_lqWrite {s0 : State} {s : State} {e addr : Nat} {v : Word} (hK : Keeps s0 s) :
    Keeps s0 (State.lqWrite s e addr v) := by
  rw [show @State.lqWrite = _ from by delta State.lqWrite; rfl]
  refine keeps_ite ?_ ?_
  · assumption
  · refine keeps_wr ?_
    assumption

theorem keeps_execLqArm {s0 : State} {e : LegNo} {v : Word} {s : State} (hK : Keeps s0 s) :
    Goes s0 (execLqArm e v s) := by
  rw [show @execLqArm = _ from by delta execLqArm; rfl]
  refine keeps_onRegW (fun a1_0 y1 h1 => ?_) ?_
  · refine goes_next ?_
    refine keeps_lqCtlWrite ?_
    assumption
  · assumption

theorem keeps_lqSeq {s0 : State} {s : State} {e : Nat} (hK : Keeps s0 s) :
    Keeps s0 (State.lqSeq s e).2 := by
  rw [show @State.lqSeq = _ from by delta State.lqSeq; rfl]
  extract_lets +onlyGivenNames -underBinder -merge x1
  try clear_value x1
  extract_lets +onlyGivenNames -underBinder -merge x2
  try clear_value x2
  extract_lets +onlyGivenNames -underBinder -merge x3
  subst x3
  try dsimp -zeta -proj only
  refine keeps_iteP ?_ ?_
  · split
    · refine keeps_snd ?_
      refine keeps_mk ?_
      assumption
    · refine keeps_snd ?_
      refine keeps_mk ?_
      assumption
  · refine keeps_snd ?_
    refine keeps_mk ?_
    assumption

theorem keeps_dmaLoad {s0 : State} {s : State} {a n : Nat} (hK : Keeps s0 s) :
    Keeps s0 (State.dmaLoad s a n).2 := by
  rw [show @State.dmaLoad = _ from by delta State.dmaLoad; rfl]
  extract_lets +onlyGivenNames -underBinder -merge x1
  have h1 : Keeps s0 x1 := by
    subst x1
    refine keeps_correctCe ?_
    assumption
  try clear_value x1
  refine keeps_snd ?_
  refine keeps_loopL (fun a2_0 y2 h2 => ?_) ?_
  · refine keeps_fault ?_
    assumption
  · assumption

theorem keeps_lqAwait {s0 : State} {s : State} {e : Nat} (hK : Keeps s0 s) :
    Keeps s0 (State.lqAwait s e) := by
  rw [show @State.lqAwait = _ from by delta State.lqAwait; rfl]
  extract_lets +onlyGivenNames -underBinder -merge x1
  have h1 : Keeps s0 x1 := by
    subst x1
    refine keeps_advance ?_
    assumption
  try clear_value x1
  extract_lets +onlyGivenNames -underBinder -merge x2
  try clear_value x2
  refine keeps_ite ?_ ?_
  · refine keeps_raise ?_
    refine keeps_until ?_
    assumption
  · assumption

theorem keeps_lqSend {s0 : State} {s : State} {e : Nat} (hK : Keeps s0 s) :
    Keeps s0 (State.lqSend s e) := by
  rw [show @State.lqSend = _ from by delta State.lqSend; rfl]
  extract_lets +onlyGivenNames -underBinder -merge x1
  try clear_value x1
  extract_lets +onlyGivenNames -underBinder -merge x2
  have h2 : Keeps s0 x2.2 := by
    subst x2
    refine keeps_lqSeq ?_
    assumption
  try clear_value x2
  split
  · rename_i heq
    have h3 := keeps_of_eqP (s0 := s0) heq (by
      refine keeps_iteP ?_ ?_
      · refine keeps_snd ?_
        assumption
      · refine keeps_dmaLoad ?_
        assumption)
    extract_lets +onlyGivenNames -underBinder -merge x4
    try clear_value x4
    extract_lets +onlyGivenNames -underBinder -merge x5
    have h5 : Keeps s0 x5 := by
      subst x5
      refine keeps_ite ?_ ?_
      · refine keeps_egressStart ?_
        assumption
      · assumption
    try clear_value x5
    refine keeps_putB ?_
    refine keeps_put ?_
    assumption

theorem keeps_execLqLaunch {s0 : State} {e : LegNo} {s : State} (hK : Keeps s0 s) :
    Goes s0 (execLqLaunch e s) := by
  rw [show @execLqLaunch = _ from by delta execLqLaunch; rfl]
  refine goes_ite ?_ ?_
  · refine goes_next ?_
    assumption
  · refine goes_next ?_
    refine keeps_lqSend ?_
    refine keeps_lqAwait ?_
    assumption

theorem keeps_seamStore {s0 : State} {s : State} {n g : Nat} {l : List Byte} (hK : Keeps s0 s) :
    Keeps s0 (State.seamStore s n g l) := by
  rw [show @State.seamStore = _ from by delta State.seamStore; rfl]
  extract_lets +onlyGivenNames -underBinder -merge x1
  have h1 : Keeps s0 x1 := by
    subst x1
    refine keeps_put ?_
    assumption
  try clear_value x1
  extract_lets +onlyGivenNames -underBinder -merge x2
  have h2 : Keeps s0 x2 := by
    subst x2
    refine keeps_put ?_
    assumption
  try clear_value x2
  extract_lets +onlyGivenNames -underBinder -merge x3
  have h3 : Keeps s0 x3 := by
    subst x3
    refine keeps_put ?_
    assumption
  try clear_value x3
  extract_lets +onlyGivenNames -underBinder -merge x4
  subst x4
  try dsimp -zeta -proj only
  extract_lets +onlyGivenNames -underBinder -merge x5
  have h5 : Keeps s0 x5 := by
    subst x5
    refine keeps_wr ?_
    assumption
  try clear_value x5
  extract_lets +onlyGivenNames -underBinder -merge x6
  have h6 : Keeps s0 x6 := by
    subst x6
    refine keeps_wr ?_
    assumption
  try clear_value x6
  extract_lets +onlyGivenNames -underBinder -merge x7
  have h7 : Keeps s0 x7 := by
    subst x7
    refine keeps_wr ?_
    assumption
  try clear_value x7
  refine keeps_loopN (fun a8_0 y8 h8 => ?_) ?_
  · refine keeps_wr ?_
    assumption
  · assumption

theorem keeps_seamPrepare {s0 : State} {s : State} {n : Nat} (hK : Keeps s0 s) :
    Keeps s0 (State.seamPrepare s n) := by
  rw [show @State.seamPrepare = _ from by delta State.seamPrepare; rfl]
  extract_lets +onlyGivenNames -underBinder -merge x1
  try clear_value x1
  extract_lets +onlyGivenNames -underBinder -merge x2
  try clear_value x2
  extract_lets +onlyGivenNames -underBinder -merge x3
  try clear_value x3
  extract_lets +onlyGivenNames -underBinder -merge x4
  try clear_value x4
  extract_lets +onlyGivenNames -underBinder -merge x5
  have h5 : Keeps s0 x5 := by
    subst x5
    refine keeps_setSeam ?_
    assumption
  try clear_value x5
  extract_lets +onlyGivenNames -underBinder -merge x6
  have h6 : Keeps s0 x6 := by
    subst x6
    refine keeps_seamStore ?_
    assumption
  try clear_value x6
  extract_lets +onlyGivenNames -underBinder -merge x7
  try clear_value x7
  extract_lets +onlyGivenNames -underBinder -merge x8
  try clear_value x8
  extract_lets +onlyGivenNames -underBinder -merge x9
  have h9 : Keeps s0 x9 := by
    subst x9
    refine keeps_putB ?_
    assumption
  try clear_value x9
  refine keeps_loopL (fun a10_0 y10 h10 => ?_) ?_
  · extract_lets +onlyGivenNames -underBinder -merge x11
    have h11 : Keeps s0 x11 := by
      subst x11
      refine keeps_put ?_
      refine keeps_put ?_
      assumption
    try clear_value x11
    refine keeps_put ?_
    refine keeps_putB ?_
    refine keeps_putB ?_
    assumption
  · assumption

theorem keeps_execSeamPayloadRead {s0 : State} {n : CrewNo} {s : State} (hK : Keeps s0 s) :
    Goes s0 (execSeamPayloadRead n s) := by
  rw [show @execSeamPayloadRead = _ from by delta execSeamPayloadRead; rfl]
  refine goes_ite ?_ ?_
  · refine goes_next ?_
    assumption
  · extract_lets +onlyGivenNames -underBinder -merge x1
    try clear_value x1
    refine goes_next ?_
    refine keeps_seamPrepare ?_
    refine keeps_ite ?_ ?_
    · refine keeps_advance ?_
      assumption
    · assumption

theorem keeps_seamTake {s0 : State} {s : State} {n : Nat} {l : List Byte} (hK : Keeps s0 s) :
    Keeps s0 (State.seamTake s n l) := by
  rw [show @State.seamTake = _ from by delta State.seamTake; rfl]
  extract_lets +onlyGivenNames -underBinder -merge x1
  try clear_value x1
  refine keeps_ite ?_ ?_
  · assumption
  · extract_lets +onlyGivenNames -underBinder -merge x2
    try clear_value x2
    refine keeps_ite ?_ ?_
    · refine keeps_setSeam ?_
      assumption
    · extract_lets +onlyGivenNames -underBinder -merge x3
      have h3 : Keeps s0 x3 := by
        subst x3
        refine keeps_incSat ?_
        assumption
      try clear_value x3
      refine keeps_ite ?_ ?_
      · refine keeps_fault ?_
        refine keeps_setSeam ?_
        assumption
      · assumption

theorem keeps_execSeamFrame {s0 : State} {p : RingPort} {f : RingFrame} {s : State} (hK : Keeps s0 s) :
    Goes s0 (execSeamFrame p f s) := by
  rw [show @execSeamFrame = _ from by delta execSeamFrame; rfl]
  split
  · rename_i heq
    have h1 := keeps_of_eqP (s0 := s0) heq (by
      refine keeps_ringRx ?_
      assumption)
    refine goes_ite ?_ ?_
    · refine goes_next ?_
      assumption
    · refine goes_next ?_
      refine keeps_loopN (fun a2_0 y2 h2 => ?_) ?_
      · refine keeps_seamTake ?_
        assumption
      · assumption

theorem keeps_seamClose {s0 : State} {s : State} {n : Nat} (hK : Keeps s0 s) :
    Keeps s0 (State.seamClose s n) := by
  rw [show @State.seamClose = _ from by delta State.seamClose; rfl]
  extract_lets +onlyGivenNames -underBinder -merge x1
  try clear_value x1
  extract_lets +onlyGivenNames -underBinder -merge x2
  try clear_value x2
  extract_lets +onlyGivenNames -underBinder -merge x3
  try clear_value x3
  extract_lets +onlyGivenNames -underBinder -merge x4
  have h4 : Keeps s0 x4 := by
    subst x4
    refine keeps_loopL (fun a5_0 y5 h5 => ?_) ?_
    · refine keeps_seamStore ?_
      assumption
    · assumption
  try clear_value x4
  extract_lets +onlyGivenNames -underBinder -merge x6
  have h6 : Keeps s0 x6 := by
    subst x6
    refine keeps_put ?_
    refine keeps_put ?_
    assumption
  try clear_value x6
  extract_lets +onlyGivenNames -underBinder -merge x7
  try clear_value x7
  extract_lets +onlyGivenNames -underBinder -merge x8
  have h8 : Keeps s0 x8 := by
    subst x8
    refine keeps_loopN (fun a9_0 y9 h9 => ?_) ?_
    · refine keeps_ite ?_ ?_
      · assumption
      · extract_lets +onlyGivenNames -underBinder -merge x10
        try clear_value x10
        extract_lets +onlyGivenNames -underBinder -merge x11
        try clear_value x11
        refine keeps_ite ?_ ?_
        · refine keeps_setBitAt ?_
          refine keeps_incSat ?_
          refine keeps_retryT ?_
          assumption
        · refine keeps_ite ?_ ?_
          · extract_lets +onlyGivenNames -underBinder -merge x12
            have h12 : Keeps s0 x12 := by
              subst x12
              refine keeps_setBitAt ?_
              refine keeps_incSat ?_
              refine keeps_retryL ?_
              assumption
            try clear_value x12
            extract_lets +onlyGivenNames -underBinder -merge x13
            have h13 : Keeps s0 x13 := by
              subst x13
              refine keeps_fault ?_
              assumption
            try clear_value x13
            extract_lets +onlyGivenNames -underBinder -merge x14
            try clear_value x14
            refine keeps_ite ?_ ?_
            · refine keeps_seamDegrade ?_
              assumption
            · assumption
          · assumption
    · assumption
  try clear_value x8
  refine keeps_setSeam ?_
  assumption

theorem keeps_execSeamDeadline {s0 : State} {n : CrewNo} {s : State} (hK : Keeps s0 s) :
    Goes s0 (execSeamDeadline n s) := by
  rw [show @execSeamDeadline = _ from by delta execSeamDeadline; rfl]
  refine goes_ite ?_ ?_
  · refine goes_next ?_
    assumption
  · extract_lets +onlyGivenNames -underBinder -merge x1
    try clear_value x1
    refine goes_next ?_
    refine keeps_seamClose ?_
    refine keeps_ite ?_ ?_
    · refine keeps_advance ?_
      assumption
    · assumption

end Sys2Proof.Machine
end

