-- ==== Sys2Proof/Laws/KeepsTime.lean ====
section
/-! SUPPORT. Laws/KeepsTime.lean: what the operations of Machine/Time.lean keep. -/
namespace Sys2Proof.Machine

theorem keeps_showLdiff {s0 : State} {s : State} (hK : Keeps s0 s) :
    Keeps s0 (State.showLdiff s) := by
  rw [show @State.showLdiff = _ from by delta State.showLdiff; rfl]
  extract_lets +onlyGivenNames -underBinder -merge x1
  try clear_value x1
  refine keeps_putB ?_
  refine keeps_wr ?_
  assumption

theorem keeps_firstLock {s0 : State} {s : State} (hK : Keeps s0 s) :
    Keeps s0 (State.firstLock s) := by
  rw [show @State.firstLock = _ from by delta State.firstLock; rfl]
  refine keeps_ite ?_ ?_
  · assumption
  · extract_lets +onlyGivenNames -underBinder -merge x1
    try clear_value x1
    extract_lets +onlyGivenNames -underBinder -merge x2
    have h2 : Keeps s0 x2 := by
      subst x2
      refine keeps_ite ?_ ?_
      · refine keeps_fault ?_
        refine keeps_logRec ?_
        assumption
      · refine keeps_logRec ?_
        assumption
    try clear_value x2
    extract_lets +onlyGivenNames -underBinder -merge x3
    have h3 : Keeps s0 x3 := by
      subst x3
      refine keeps_mk ?_
      assumption
    try clear_value x3
    refine keeps_showLdiff ?_
    refine keeps_putB ?_
    refine keeps_logRec ?_
    assumption

theorem keeps_setTimeSt {s0 : State} {s : State} {st : Nat} (hK : Keeps s0 s) :
    Keeps s0 (State.setTimeSt s st) := by
  rw [show @State.setTimeSt = _ from by delta State.setTimeSt; rfl]
  extract_lets +onlyGivenNames -underBinder -merge x1
  try clear_value x1
  extract_lets +onlyGivenNames -underBinder -merge x2
  have h2 : Keeps s0 x2 := by
    subst x2
    refine keeps_put ?_
    assumption
  try clear_value x2
  extract_lets +onlyGivenNames -underBinder -merge x3
  try clear_value x3
  extract_lets +onlyGivenNames -underBinder -merge x4
  have h4 : Keeps s0 x4 := by
    subst x4
    refine keeps_mk ?_
    assumption
  try clear_value x4
  extract_lets +onlyGivenNames -underBinder -merge x5
  try clear_value x5
  refine keeps_ite ?_ ?_
  · refine keeps_seamLock ?_
    assumption
  · assumption

theorem keeps_steer {s0 : State} {s : State} (hK : Keeps s0 s) :
    Keeps s0 (State.steer s) := by
  rw [show @State.steer = _ from by delta State.steer; rfl]
  extract_lets +onlyGivenNames -underBinder -merge x1
  have h1 : Keeps s0 x1 := by
    subst x1
    refine keeps_showLdiff ?_
    assumption
  try clear_value x1
  extract_lets +onlyGivenNames -underBinder -merge x2
  try clear_value x2
  extract_lets +onlyGivenNames -underBinder -merge x3
  try clear_value x3
  extract_lets +onlyGivenNames -underBinder -merge x4
  try clear_value x4
  extract_lets +onlyGivenNames -underBinder -merge x5
  try clear_value x5
  refine keeps_mk ?_
  assumption

theorem keeps_becomeMaster {s0 : State} {s : State} (hK : Keeps s0 s) :
    Keeps s0 (State.becomeMaster s) := by
  rw [show @State.becomeMaster = _ from by delta State.becomeMaster; rfl]
  extract_lets +onlyGivenNames -underBinder -merge x1
  have h1 : Keeps s0 x1 := by
    subst x1
    refine keeps_wr ?_
    assumption
  try clear_value x1
  extract_lets +onlyGivenNames -underBinder -merge x2
  have h2 : Keeps s0 x2 := by
    subst x2
    refine keeps_setTimeSt ?_
    assumption
  try clear_value x2
  extract_lets +onlyGivenNames -underBinder -merge x3
  try clear_value x3
  extract_lets +onlyGivenNames -underBinder -merge x4
  have h4 : Keeps s0 x4 := by
    subst x4
    refine keeps_wr ?_
    refine keeps_wr ?_
    assumption
  try clear_value x4
  refine keeps_firstLock ?_
  assumption

theorem keeps_clockLost {s0 : State} {s : State} (hK : Keeps s0 s) :
    Keeps s0 (State.clockLost s) := by
  rw [show @State.clockLost = _ from by delta State.clockLost; rfl]
  extract_lets +onlyGivenNames -underBinder -merge x1
  try clear_value x1
  refine keeps_ite ?_ ?_
  · refine keeps_fault ?_
    refine keeps_setTimeSt ?_
    assumption
  · assumption

theorem keeps_useOffset {s0 : State} {s : State} {oz : Int} (hK : Keeps s0 s) :
    Keeps s0 (State.useOffset s oz) := by
  rw [show @State.useOffset = _ from by delta State.useOffset; rfl]
  extract_lets +onlyGivenNames -underBinder -merge x1
  try clear_value x1
  refine keeps_ite ?_ ?_
  · assumption
  · extract_lets +onlyGivenNames -underBinder -merge x2
    try clear_value x2
    extract_lets +onlyGivenNames -underBinder -merge x3
    try clear_value x3
    extract_lets +onlyGivenNames -underBinder -merge x4
    subst x4
    try dsimp -zeta -proj only
    extract_lets +onlyGivenNames -underBinder -merge x5
    have h5 : Keeps s0 x5 := by
      subst x5
      refine keeps_mk ?_
      assumption
    try clear_value x5
    extract_lets +onlyGivenNames -underBinder -merge x6
    try clear_value x6
    extract_lets +onlyGivenNames -underBinder -merge x7
    subst x7
    try dsimp -zeta -proj only
    extract_lets +onlyGivenNames -underBinder -merge x8
    try clear_value x8
    extract_lets +onlyGivenNames -underBinder -merge x9
    try clear_value x9
    extract_lets +onlyGivenNames -underBinder -merge x10
    have h10 : Keeps s0 x10 := by
      subst x10
      refine keeps_mk ?_
      assumption
    try clear_value x10
    extract_lets +onlyGivenNames -underBinder -merge x11
    have h11 : Keeps s0 x11 := by
      subst x11
      refine keeps_ite ?_ ?_
      · refine keeps_fault ?_
        refine keeps_incSat ?_
        assumption
      · refine keeps_wr ?_
        assumption
    try clear_value x11
    extract_lets +onlyGivenNames -underBinder -merge x12
    have h12 : Keeps s0 x12 := by
      subst x12
      refine keeps_incWrap ?_
      refine keeps_wr ?_
      assumption
    try clear_value x12
    extract_lets +onlyGivenNames -underBinder -merge x13
    try clear_value x13
    extract_lets +onlyGivenNames -underBinder -merge x14
    have h14 : Keeps s0 x14 := by
      subst x14
      refine keeps_mk ?_
      assumption
    try clear_value x14
    refine keeps_ite ?_ ?_
    · refine keeps_setTimeSt ?_
      assumption
    · refine keeps_ite ?_ ?_
      · extract_lets +onlyGivenNames -underBinder -merge x15
        try clear_value x15
        extract_lets +onlyGivenNames -underBinder -merge x16
        try clear_value x16
        extract_lets +onlyGivenNames -underBinder -merge x17
        have h17 : Keeps s0 x17 := by
          subst x17
          refine keeps_mk ?_
          assumption
        try clear_value x17
        refine keeps_ite ?_ ?_
        · refine keeps_steer ?_
          refine keeps_firstLock ?_
          refine keeps_setTimeSt ?_
          assumption
        · assumption
      · extract_lets +onlyGivenNames -underBinder -merge x18
        try clear_value x18
        extract_lets +onlyGivenNames -underBinder -merge x19
        try clear_value x19
        extract_lets +onlyGivenNames -underBinder -merge x20
        have h20 : Keeps s0 x20 := by
          subst x20
          refine keeps_mk ?_
          assumption
        try clear_value x20
        extract_lets +onlyGivenNames -underBinder -merge x21
        have h21 : Keeps s0 x21 := by
          subst x21
          refine keeps_steer ?_
          assumption
        try clear_value x21
        refine keeps_ite ?_ ?_
        · refine keeps_fault ?_
          refine keeps_setTimeSt ?_
          assumption
        · assumption

theorem keeps_pickPort {s0 : State} {s : State} (hK : Keeps s0 s) :
    Keeps s0 (State.pickPort s) := by
  rw [show @State.pickPort = _ from by delta State.pickPort; rfl]
  extract_lets +onlyGivenNames -underBinder -merge x1
  try clear_value x1
  refine keeps_ite ?_ ?_
  · refine keeps_put ?_
    assumption
  · refine keeps_ite ?_ ?_
    · assumption
    · extract_lets +onlyGivenNames -underBinder -merge x2
      try clear_value x2
      extract_lets +onlyGivenNames -underBinder -merge x3
      try clear_value x3
      extract_lets +onlyGivenNames -underBinder -merge x4
      subst x4
      try dsimp -zeta -proj only
      refine keeps_ite ?_ ?_
      · refine keeps_put ?_
        refine keeps_mk ?_
        assumption
      · refine keeps_ite ?_ ?_
        · refine keeps_put ?_
          refine keeps_mk ?_
          assumption
        · refine keeps_ite ?_ ?_
          · refine keeps_put ?_
            refine keeps_mk ?_
            assumption
          · assumption

theorem keeps_syncUsed {s0 : State} {s : State} {p : Nat} {t2 t1 corr : Int} (hK : Keeps s0 s) :
    Keeps s0 (State.syncUsed s p t2 t1 corr) := by
  rw [show @State.syncUsed = _ from by delta State.syncUsed; rfl]
  extract_lets +onlyGivenNames -underBinder -merge x1
  try clear_value x1
  extract_lets +onlyGivenNames -underBinder -merge x2
  have h2 : Keeps s0 x2 := by
    subst x2
    refine keeps_setPtpPort ?_
    assumption
  try clear_value x2
  extract_lets +onlyGivenNames -underBinder -merge x3
  have h3 : Keeps s0 x3 := by
    subst x3
    refine keeps_pickPort ?_
    assumption
  try clear_value x3
  refine keeps_ite ?_ ?_
  · refine keeps_useOffset ?_
    assumption
  · assumption

theorem keeps_ptpHeard {s0 : State} {s : State} {p : Nat} {m : PtpMsg} (hK : Keeps s0 s) :
    Keeps s0 (State.ptpHeard s p m).2 := by
  rw [show @State.ptpHeard = _ from by delta State.ptpHeard; rfl]
  refine keeps_iteP ?_ ?_
  · refine keeps_snd ?_
    assumption
  · extract_lets +onlyGivenNames -underBinder -merge x1
    have h1 : Keeps s0 x1 := by
      subst x1
      refine keeps_incSat ?_
      assumption
    try clear_value x1
    refine keeps_snd ?_
    assumption

theorem keeps_ptpForward {s0 : State} {s : State} {p kind : Nat} {m : PtpMsg} (hK : Keeps s0 s) :
    Keeps s0 (State.ptpForward s p kind m) := by
  rw [show @State.ptpForward = _ from by delta State.ptpForward; rfl]
  extract_lets +onlyGivenNames -underBinder -merge x1
  try clear_value x1
  split
  · rename_i heq
    have h2 := keeps_of_eqP (s0 := s0) heq (by
      refine keeps_residence ?_
      assumption)
    refine keeps_egressPut ?_
    assumption

theorem keeps_execSync {s0 : State} {p : RingPort} {m : PtpMsg} {s : State} (hK : Keeps s0 s) :
    Goes s0 (execSync p m s) := by
  rw [show @execSync = _ from by delta execSync; rfl]
  split
  · rename_i heq
    have h1 := keeps_of_eqP (s0 := s0) heq (by
      refine keeps_ptpHeard ?_
      assumption)
    refine goes_ite ?_ ?_
    · refine goes_next ?_
      assumption
    · extract_lets +onlyGivenNames -underBinder -merge x2
      try clear_value x2
      extract_lets +onlyGivenNames -underBinder -merge x3
      have h3 : Keeps s0 x3 := by
        subst x3
        refine keeps_ptpForward ?_
        assumption
      try clear_value x3
      refine goes_ite ?_ ?_
      · refine goes_next ?_
        assumption
      · refine goes_ite ?_ ?_
        · refine goes_next ?_
          refine keeps_setPtpPort ?_
          assumption
        · refine goes_next ?_
          refine keeps_syncUsed ?_
          assumption

theorem keeps_execFollowUp {s0 : State} {p : RingPort} {m : PtpMsg} {s : State} (hK : Keeps s0 s) :
    Goes s0 (execFollowUp p m s) := by
  rw [show @execFollowUp = _ from by delta execFollowUp; rfl]
  split
  · rename_i heq
    have h1 := keeps_of_eqP (s0 := s0) heq (by
      refine keeps_ptpHeard ?_
      assumption)
    refine goes_ite ?_ ?_
    · refine goes_next ?_
      assumption
    · extract_lets +onlyGivenNames -underBinder -merge x2
      have h2 : Keeps s0 x2 := by
        subst x2
        refine keeps_ptpForward ?_
        assumption
      try clear_value x2
      refine goes_ite ?_ ?_
      · refine goes_next ?_
        assumption
      · split
        · refine goes_ite ?_ ?_
          · refine goes_next ?_
            refine keeps_syncUsed ?_
            assumption
          · refine goes_next ?_
            assumption
        · refine goes_next ?_
          assumption

theorem keeps_selectSelf {s0 : State} {s : State} (hK : Keeps s0 s) :
    Keeps s0 (State.selectSelf s) := by
  rw [show @State.selectSelf = _ from by delta State.selectSelf; rfl]
  extract_lets +onlyGivenNames -underBinder -merge x1
  try clear_value x1
  extract_lets +onlyGivenNames -underBinder -merge x2
  try clear_value x2
  extract_lets +onlyGivenNames -underBinder -merge x3
  have h3 : Keeps s0 x3 := by
    subst x3
    refine keeps_mk ?_
    assumption
  try clear_value x3
  refine keeps_ite ?_ ?_
  · assumption
  · refine keeps_ite ?_ ?_
    · refine keeps_becomeMaster ?_
      assumption
    · assumption

theorem keeps_offerGm {s0 : State} {s : State} {g : GmRec} {utc : Nat} (hK : Keeps s0 s) :
    Keeps s0 (State.offerGm s g utc) := by
  rw [show @State.offerGm = _ from by delta State.offerGm; rfl]
  extract_lets +onlyGivenNames -underBinder -merge x1
  try clear_value x1
  refine keeps_ite ?_ ?_
  · assumption
  · refine keeps_ite ?_ ?_
    · refine keeps_selectSelf ?_
      assumption
    · extract_lets +onlyGivenNames -underBinder -merge x2
      try clear_value x2
      extract_lets +onlyGivenNames -underBinder -merge x3
      try clear_value x3
      extract_lets +onlyGivenNames -underBinder -merge x4
      have h4 : Keeps s0 x4 := by
        subst x4
        refine keeps_mk ?_
        assumption
      try clear_value x4
      extract_lets +onlyGivenNames -underBinder -merge x5
      have h5 : Keeps s0 x5 := by
        subst x5
        refine keeps_put ?_
        assumption
      try clear_value x5
      extract_lets +onlyGivenNames -underBinder -merge x6
      have h6 : Keeps s0 x6 := by
        subst x6
        refine keeps_wr ?_
        refine keeps_wr ?_
        assumption
      try clear_value x6
      extract_lets +onlyGivenNames -underBinder -merge x7
      try clear_value x7
      refine keeps_ite ?_ ?_
      · refine keeps_setTimeSt ?_
        assumption
      · refine keeps_ite ?_ ?_
        · refine keeps_fault ?_
          refine keeps_setTimeSt ?_
          assumption
        · assumption

theorem keeps_heardAnnounce {s0 : State} {s : State} (hK : Keeps s0 s) :
    Keeps s0 (State.heardAnnounce s) := by
  rw [show @State.heardAnnounce = _ from by delta State.heardAnnounce; rfl]
  refine keeps_mk ?_
  assumption

theorem keeps_execAnnounce {s0 : State} {p : RingPort} {m : PtpMsg} {c : PtpClock} {s : State} (hK : Keeps s0 s) :
    Goes s0 (execAnnounce p m c s) := by
  rw [show @execAnnounce = _ from by delta execAnnounce; rfl]
  split
  · rename_i heq
    have h1 := keeps_of_eqP (s0 := s0) heq (by
      refine keeps_ptpHeard ?_
      assumption)
    refine goes_ite ?_ ?_
    · refine goes_next ?_
      assumption
    · extract_lets +onlyGivenNames -underBinder -merge x2
      have h2 : Keeps s0 x2 := by
        subst x2
        refine keeps_ptpForward ?_
        assumption
      try clear_value x2
      refine goes_ite ?_ ?_
      · refine goes_next ?_
        assumption
      · refine goes_next ?_
        refine keeps_offerGm ?_
        refine keeps_heardAnnounce ?_
        assumption

theorem keeps_execAnnounceTimeout {s0 : State} {s : State} (hK : Keeps s0 s) :
    Goes s0 (execAnnounceTimeout s) := by
  rw [show @execAnnounceTimeout = _ from by delta execAnnounceTimeout; rfl]
  refine goes_next ?_
  refine keeps_selectSelf ?_
  refine keeps_clockLost ?_
  refine keeps_until ?_
  assumption

theorem keeps_clockMiss {s0 : State} {s : State} (hK : Keeps s0 s) :
    Keeps s0 (State.clockMiss s) := by
  rw [show @State.clockMiss = _ from by delta State.clockMiss; rfl]
  extract_lets +onlyGivenNames -underBinder -merge x1
  have h1 : Keeps s0 x1 := by
    subst x1
    refine keeps_until ?_
    assumption
  try clear_value x1
  refine keeps_mk ?_
  assumption

theorem keeps_execSyncLoss {s0 : State} {s : State} (hK : Keeps s0 s) :
    Goes s0 (execSyncLoss s) := by
  rw [show @execSyncLoss = _ from by delta execSyncLoss; rfl]
  extract_lets +onlyGivenNames -underBinder -merge x1
  have h1 : Keeps s0 x1 := by
    subst x1
    refine keeps_clockMiss ?_
    assumption
  try clear_value x1
  extract_lets +onlyGivenNames -underBinder -merge x2
  try clear_value x2
  extract_lets +onlyGivenNames -underBinder -merge x3
  try clear_value x3
  extract_lets +onlyGivenNames -underBinder -merge x4
  have h4 : Keeps s0 x4 := by
    subst x4
    refine keeps_ite ?_ ?_
    · refine keeps_put ?_
      refine keeps_mk ?_
      assumption
    · assumption
  try clear_value x4
  refine goes_ite ?_ ?_
  · refine goes_next ?_
    refine keeps_clockLost ?_
    assumption
  · refine goes_next ?_
    assumption

theorem keeps_ptpSend {s0 : State} {s : State} {p kind seq : Nat} {corr t : Int} (hK : Keeps s0 s) :
    Keeps s0 (State.ptpSend s p kind seq corr t) := by
  rw [show @State.ptpSend = _ from by delta State.ptpSend; rfl]
  refine keeps_ite ?_ ?_
  · assumption
  · extract_lets +onlyGivenNames -underBinder -merge x1
    try clear_value x1
    refine keeps_egressPut ?_
    assumption

theorem keeps_execPdelayReq {s0 : State} {p : RingPort} {m : PtpMsg} {s : State} (hK : Keeps s0 s) :
    Goes s0 (execPdelayReq p m s) := by
  rw [show @execPdelayReq = _ from by delta execPdelayReq; rfl]
  refine goes_ite ?_ ?_
  · refine goes_next ?_
    assumption
  · extract_lets +onlyGivenNames -underBinder -merge x1
    have h1 : Keeps s0 x1 := by
      subst x1
      refine keeps_incSat ?_
      assumption
    try clear_value x1
    refine goes_ite ?_ ?_
    · refine goes_next ?_
      assumption
    · refine goes_next ?_
      refine keeps_ptpSend ?_
      assumption

theorem keeps_execPdelayReqSend {s0 : State} {p : RingPort} {s : State} (hK : Keeps s0 s) :
    Goes s0 (execPdelayReqSend p s) := by
  rw [show @execPdelayReqSend = _ from by delta execPdelayReqSend; rfl]
  refine goes_ite ?_ ?_
  · refine goes_next ?_
    assumption
  · extract_lets +onlyGivenNames -underBinder -merge x1
    have h1 : Keeps s0 x1 := by
      subst x1
      refine keeps_until ?_
      assumption
    try clear_value x1
    extract_lets +onlyGivenNames -underBinder -merge x2
    try clear_value x2
    extract_lets +onlyGivenNames -underBinder -merge x3
    have h3 : Keeps s0 x3 := by
      subst x3
      refine keeps_setPtpPort ?_
      assumption
    try clear_value x3
    refine goes_next ?_
    refine keeps_ptpSend ?_
    assumption

theorem keeps_pdFail {s0 : State} {s : State} {p : Nat} (hK : Keeps s0 s) :
    Keeps s0 (State.pdFail s p) := by
  rw [show @State.pdFail = _ from by delta State.pdFail; rfl]
  extract_lets +onlyGivenNames -underBinder -merge x1
  try clear_value x1
  extract_lets +onlyGivenNames -underBinder -merge x2
  have h2 : Keeps s0 x2 := by
    subst x2
    refine keeps_setPtpPort ?_
    assumption
  try clear_value x2
  refine keeps_ite ?_ ?_
  · extract_lets +onlyGivenNames -underBinder -merge x3
    have h3 : Keeps s0 x3 := by
      subst x3
      refine keeps_fault ?_
      refine keeps_putB ?_
      assumption
    try clear_value x3
    extract_lets +onlyGivenNames -underBinder -merge x4
    have h4 : Keeps s0 x4 := by
      subst x4
      refine keeps_pickPort ?_
      assumption
    try clear_value x4
    refine keeps_ite ?_ ?_
    · refine keeps_clockLost ?_
      assumption
    · assumption
  · assumption

theorem keeps_execPdelayResp {s0 : State} {p : RingPort} {m : PtpMsg} {s : State} (hK : Keeps s0 s) :
    Goes s0 (execPdelayResp p m s) := by
  rw [show @execPdelayResp = _ from by delta execPdelayResp; rfl]
  refine goes_ite ?_ ?_
  · refine goes_next ?_
    assumption
  · extract_lets +onlyGivenNames -underBinder -merge x1
    have h1 : Keeps s0 x1 := by
      subst x1
      refine keeps_incSat ?_
      assumption
    try clear_value x1
    split
    · refine goes_ite ?_ ?_
      · refine goes_next ?_
        refine keeps_setPtpPort ?_
        assumption
      · refine goes_next ?_
        assumption
    · refine goes_next ?_
      assumption

theorem keeps_pdTaken {s0 : State} {s : State} {p : RingPort} {r : PtpPort} {d t3 t4 : Int} (hK : Keeps s0 s) :
    Keeps s0 (State.pdTaken s p r d t3 t4) := by
  rw [show @State.pdTaken = _ from by delta State.pdTaken; rfl]
  extract_lets +onlyGivenNames -underBinder -merge x1
  have h1 : Keeps s0 x1 := by
    subst x1
    refine keeps_put ?_
    assumption
  try clear_value x1
  extract_lets +onlyGivenNames -underBinder -merge x2
  have h2 : Keeps s0 x2 := by
    subst x2
    split
    · refine keeps_ite ?_ ?_
      · refine keeps_putI ?_
        assumption
      · assumption
    · assumption
  try clear_value x2
  extract_lets +onlyGivenNames -underBinder -merge x3
  try clear_value x3
  extract_lets +onlyGivenNames -underBinder -merge x4
  have h4 : Keeps s0 x4 := by
    subst x4
    refine keeps_setPtpPort ?_
    assumption
  try clear_value x4
  refine keeps_ite ?_ ?_
  · extract_lets +onlyGivenNames -underBinder -merge x5
    try clear_value x5
    extract_lets +onlyGivenNames -underBinder -merge x6
    have h6 : Keeps s0 x6 := by
      subst x6
      refine keeps_setPtpPort ?_
      assumption
    try clear_value x6
    refine keeps_ite ?_ ?_
    · refine keeps_putB ?_
      assumption
    · assumption
  · refine keeps_pdFail ?_
    assumption

theorem keeps_execPdelayRespFollowUp {s0 : State} {p : RingPort} {m : PtpMsg} {s : State} (hK : Keeps s0 s) :
    Goes s0 (execPdelayRespFollowUp p m s) := by
  rw [show @execPdelayRespFollowUp = _ from by delta execPdelayRespFollowUp; rfl]
  refine goes_ite ?_ ?_
  · refine goes_next ?_
    assumption
  · extract_lets +onlyGivenNames -underBinder -merge x1
    have h1 : Keeps s0 x1 := by
      subst x1
      refine keeps_incSat ?_
      assumption
    try clear_value x1
    extract_lets +onlyGivenNames -underBinder -merge x2
    try clear_value x2
    split
    · refine goes_ite ?_ ?_
      · extract_lets +onlyGivenNames -underBinder -merge x3
        try clear_value x3
        refine goes_next ?_
        refine keeps_pdTaken ?_
        assumption
      · refine goes_next ?_
        assumption
    · refine goes_next ?_
      assumption

theorem keeps_execPdelayTimeout {s0 : State} {p : RingPort} {s : State} (hK : Keeps s0 s) :
    Goes s0 (execPdelayTimeout p s) := by
  rw [show @execPdelayTimeout = _ from by delta execPdelayTimeout; rfl]
  split
  · refine goes_next ?_
    refine keeps_pdFail ?_
    refine keeps_until ?_
    assumption
  · refine goes_next ?_
    assumption

theorem keeps_execSyncSend {s0 : State} {s : State} (hK : Keeps s0 s) :
    Goes s0 (execSyncSend s) := by
  rw [show @execSyncSend = _ from by delta execSyncSend; rfl]
  refine goes_ite ?_ ?_
  · refine goes_next ?_
    assumption
  · extract_lets +onlyGivenNames -underBinder -merge x1
    have h1 : Keeps s0 x1 := by
      subst x1
      refine keeps_until ?_
      assumption
    try clear_value x1
    extract_lets +onlyGivenNames -underBinder -merge x2
    try clear_value x2
    extract_lets +onlyGivenNames -underBinder -merge x3
    try clear_value x3
    extract_lets +onlyGivenNames -underBinder -merge x4
    have h4 : Keeps s0 x4 := by
      subst x4
      refine keeps_mk ?_
      assumption
    try clear_value x4
    refine goes_next ?_
    refine keeps_steer ?_
    refine keeps_loopN (fun a5_0 y5 h5 => ?_) ?_
    · refine keeps_ptpSend ?_
      assumption
    · assumption

theorem keeps_execAnnounceSend {s0 : State} {s : State} (hK : Keeps s0 s) :
    Goes s0 (execAnnounceSend s) := by
  rw [show @execAnnounceSend = _ from by delta execAnnounceSend; rfl]
  refine goes_ite ?_ ?_
  · refine goes_next ?_
    assumption
  · extract_lets +onlyGivenNames -underBinder -merge x1
    have h1 : Keeps s0 x1 := by
      subst x1
      refine keeps_until ?_
      assumption
    try clear_value x1
    extract_lets +onlyGivenNames -underBinder -merge x2
    try clear_value x2
    extract_lets +onlyGivenNames -underBinder -merge x3
    try clear_value x3
    extract_lets +onlyGivenNames -underBinder -merge x4
    have h4 : Keeps s0 x4 := by
      subst x4
      refine keeps_mk ?_
      assumption
    try clear_value x4
    refine goes_next ?_
    refine keeps_loopN (fun a5_0 y5 h5 => ?_) ?_
    · refine keeps_ptpSend ?_
      assumption
    · assumption

theorem keeps_execRtcUpdate {s0 : State} {s : State} (hK : Keeps s0 s) :
    Goes s0 (execRtcUpdate s) := by
  rw [show @execRtcUpdate = _ from by delta execRtcUpdate; rfl]
  refine goes_ite ?_ ?_
  · extract_lets +onlyGivenNames -underBinder -merge x1
    have h1 : Keeps s0 x1 := by
      subst x1
      refine keeps_until ?_
      assumption
    try clear_value x1
    refine goes_next ?_
    refine keeps_mk ?_
    assumption
  · refine goes_next ?_
    assumption

theorem keeps_readRtcL {s0 : State} {s : State} (hK : Keeps s0 s) :
    Keeps s0 (State.readRtcL s).2 := by
  rw [show @State.readRtcL = _ from by delta State.readRtcL; rfl]
  extract_lets +onlyGivenNames -underBinder -merge x1
  try clear_value x1
  refine keeps_snd ?_
  refine keeps_put ?_
  assumption

theorem keeps_readCt {s0 : State} {s : State} (hK : Keeps s0 s) :
    Keeps s0 (State.readCt s).2 := by
  rw [show @State.readCt = _ from by delta State.readCt; rfl]
  extract_lets +onlyGivenNames -underBinder -merge x1
  try clear_value x1
  refine keeps_snd ?_
  refine keeps_put ?_
  refine keeps_put ?_
  refine keeps_put ?_
  assumption

theorem keeps_readLt {s0 : State} {s : State} (hK : Keeps s0 s) :
    Keeps s0 (State.readLt s).2 := by
  rw [show @State.readLt = _ from by delta State.readLt; rfl]
  extract_lets +onlyGivenNames -underBinder -merge x1
  try clear_value x1
  refine keeps_snd ?_
  refine keeps_put ?_
  refine keeps_put ?_
  refine keeps_put ?_
  assumption

theorem keeps_execRtcLRead {s0 : State} {s : State} (hK : Keeps s0 s) :
    Goes s0 (execRtcLRead s) := by
  rw [show @execRtcLRead = _ from by delta execRtcLRead; rfl]
  refine goes_onRegRead (fun y1 h1 => ?_) ?_
  · split
    · rename_i heq
      have h2 := keeps_of_eqP (s0 := s0) heq (by
        refine keeps_readRtcL ?_
        assumption)
      refine goes_next ?_
      refine keeps_mk ?_
      assumption
  · assumption

theorem keeps_execCtSlRead {s0 : State} {s : State} (hK : Keeps s0 s) :
    Goes s0 (execCtSlRead s) := by
  rw [show @execCtSlRead = _ from by delta execCtSlRead; rfl]
  refine goes_onRegRead (fun y1 h1 => ?_) ?_
  · split
    · rename_i heq
      have h2 := keeps_of_eqP (s0 := s0) heq (by
        refine keeps_readCt ?_
        assumption)
      refine goes_next ?_
      refine keeps_mk ?_
      assumption
  · assumption

theorem keeps_execLtSlRead {s0 : State} {s : State} (hK : Keeps s0 s) :
    Goes s0 (execLtSlRead s) := by
  rw [show @execLtSlRead = _ from by delta execLtSlRead; rfl]
  refine goes_onRegRead (fun y1 h1 => ?_) ?_
  · split
    · rename_i heq
      have h2 := keeps_of_eqP (s0 := s0) heq (by
        refine keeps_readLt ?_
        assumption)
      refine goes_next ?_
      refine keeps_mk ?_
      assumption
  · assumption

end Sys2Proof.Machine
end

