-- ==== Sys2Proof/Laws/KeepsField.lean ====
section
/-! SUPPORT. Laws/KeepsField.lean: what the operations of Machine/Field.lean keep. -/
namespace Sys2Proof.Machine

theorem keeps_lineIdle {s0 : State} {s : State} {j : Nat} (hK : Keeps s0 s) :
    Keeps s0 (State.lineIdle s j) := by
  rw [show @State.lineIdle = _ from by delta State.lineIdle; rfl]
  refine keeps_setFport ?_
  assumption

theorem keeps_fieldSettle {s0 : State} {s : State} {j : Nat} (hK : Keeps s0 s) :
    Keeps s0 (State.fieldSettle s j) := by
  rw [show @State.fieldSettle = _ from by delta State.fieldSettle; rfl]
  extract_lets +onlyGivenNames -underBinder -merge x1
  try clear_value x1
  refine keeps_ite ?_ ?_
  · extract_lets +onlyGivenNames -underBinder -merge x2
    try clear_value x2
    refine keeps_setFport ?_
    assumption
  · assumption

theorem keeps_lineReady {s0 : State} {s : State} {j : Nat} {t : FTxn} (hK : Keeps s0 s) :
    Keeps s0 (State.lineReady s j t) := by
  rw [show @State.lineReady = _ from by delta State.lineReady; rfl]
  extract_lets +onlyGivenNames -underBinder -merge x1
  try clear_value x1
  extract_lets +onlyGivenNames -underBinder -merge x2
  try clear_value x2
  extract_lets +onlyGivenNames -underBinder -merge x3
  have h3 : Keeps s0 x3 := by
    subst x3
    refine keeps_until ?_
    assumption
  try clear_value x3
  refine keeps_ite ?_ ?_
  · refine keeps_advance ?_
    assumption
  · assumption

theorem keeps_fieldSend {s0 : State} {s : State} {j typ : Nat} (hK : Keeps s0 s) :
    Keeps s0 (State.fieldSend s j typ) := by
  rw [show @State.fieldSend = _ from by delta State.fieldSend; rfl]
  split
  · assumption
  · refine keeps_ite ?_ ?_
    · assumption
    · extract_lets +onlyGivenNames -underBinder -merge x1
      have h1 : Keeps s0 x1 := by
        subst x1
        refine keeps_lineReady ?_
        assumption
      try clear_value x1
      extract_lets +onlyGivenNames -underBinder -merge x2
      have h2 : Keeps s0 x2 := by
        subst x2
        refine keeps_ite ?_ ?_
        · refine keeps_incSat ?_
          assumption
        · assumption
      try clear_value x2
      extract_lets +onlyGivenNames -underBinder -merge x3
      try clear_value x3
      extract_lets +onlyGivenNames -underBinder -merge x4
      try clear_value x4
      extract_lets +onlyGivenNames -underBinder -merge x5
      try clear_value x5
      extract_lets +onlyGivenNames -underBinder -merge x6
      try clear_value x6
      extract_lets +onlyGivenNames -underBinder -merge x7
      try clear_value x7
      refine keeps_fieldSettle ?_
      refine keeps_setFport ?_
      assumption

theorem keeps_execCyclic {s0 : State} {j : Port16} {s : State} (hK : Keeps s0 s) :
    Goes s0 (execCyclic j s) := by
  rw [show @execCyclic = _ from by delta execCyclic; rfl]
  refine goes_next ?_
  refine keeps_fieldSend ?_
  assumption

theorem keeps_execChange {s0 : State} {j : Port16} {s : State} (hK : Keeps s0 s) :
    Goes s0 (execChange j s) := by
  rw [show @execChange = _ from by delta execChange; rfl]
  refine goes_next ?_
  refine keeps_fieldSend ?_
  assumption

theorem keeps_execRead {s0 : State} {j : Port16} {s : State} (hK : Keeps s0 s) :
    Goes s0 (execRead j s) := by
  rw [show @execRead = _ from by delta execRead; rfl]
  refine goes_next ?_
  refine keeps_fieldSend ?_
  assumption

theorem keeps_execWrite {s0 : State} {j : Port16} {s : State} (hK : Keeps s0 s) :
    Goes s0 (execWrite j s) := by
  rw [show @execWrite = _ from by delta execWrite; rfl]
  refine goes_next ?_
  refine keeps_fieldSend ?_
  assumption

theorem keeps_execAssign {s0 : State} {j : Port16} {s : State} (hK : Keeps s0 s) :
    Goes s0 (execAssign j s) := by
  rw [show @execAssign = _ from by delta execAssign; rfl]
  refine goes_next ?_
  refine keeps_fieldSend ?_
  assumption

theorem keeps_execCap {s0 : State} {j : Port16} {s : State} (hK : Keeps s0 s) :
    Goes s0 (execCap j s) := by
  rw [show @execCap = _ from by delta execCap; rfl]
  refine goes_next ?_
  refine keeps_fieldSend ?_
  assumption

theorem keeps_execDiscover {s0 : State} {j : Port16} {s : State} (hK : Keeps s0 s) :
    Goes s0 (execDiscover j s) := by
  rw [show @execDiscover = _ from by delta execDiscover; rfl]
  refine goes_next ?_
  refine keeps_fieldSend ?_
  assumption

theorem keeps_execFreeze {s0 : State} {j : Port16} {s : State} (hK : Keeps s0 s) :
    Goes s0 (execFreeze j s) := by
  rw [show @execFreeze = _ from by delta execFreeze; rfl]
  refine goes_next ?_
  refine keeps_fieldSend ?_
  assumption

theorem keeps_setNodeSt {s0 : State} {s : State} {j a st : Nat} (hK : Keeps s0 s) :
    Keeps s0 (State.setNodeSt s j a st) := by
  rw [show @State.setNodeSt = _ from by delta State.setNodeSt; rfl]
  extract_lets +onlyGivenNames -underBinder -merge x1
  try clear_value x1
  extract_lets +onlyGivenNames -underBinder -merge x2
  have h2 : Keeps s0 x2 := by
    subst x2
    refine keeps_put ?_
    assumption
  try clear_value x2
  extract_lets +onlyGivenNames -underBinder -merge x3
  try clear_value x3
  refine keeps_ite ?_ ?_
  · assumption
  · extract_lets +onlyGivenNames -underBinder -merge x4
    subst x4
    try dsimp -zeta -proj only
    refine keeps_put ?_
    refine keeps_put ?_
    assumption

theorem keeps_nodeEntries {s0 s : State} {h a : Nat} {f : Nat → Nat → State → State}
    (hf : ∀ q d y, Keeps s0 y → Keeps s0 (f q d y)) (g : Keeps s0 s) : Keeps s0 (s.nodeEntries h a f) :=
  keeps_loopL (fun _ _ h => hf _ _ _ h) g

theorem keeps_nodeReady {s0 : State} {s : State} {j a : Nat} (hK : Keeps s0 s) :
    Keeps s0 (State.nodeReady s j a) := by
  rw [show @State.nodeReady = _ from by delta State.nodeReady; rfl]
  extract_lets +onlyGivenNames -underBinder -merge x1
  try clear_value x1
  extract_lets +onlyGivenNames -underBinder -merge x2
  try clear_value x2
  extract_lets +onlyGivenNames -underBinder -merge x3
  have h3 : Keeps s0 x3 := by
    subst x3
    refine keeps_setFnode ?_
    assumption
  try clear_value x3
  extract_lets +onlyGivenNames -underBinder -merge x4
  have h4 : Keeps s0 x4 := by
    subst x4
    refine keeps_ite ?_ ?_
    · refine keeps_putB ?_
      assumption
    · refine keeps_putB ?_
      assumption
  try clear_value x4
  refine keeps_ite ?_ ?_
  · assumption
  · extract_lets +onlyGivenNames -underBinder -merge x5
    have h5 : Keeps s0 x5 := by
      subst x5
      refine keeps_put ?_
      refine keeps_setNodeSt ?_
      assumption
    try clear_value x5
    refine keeps_nodeEntries (fun a6_0 a6_1 y6 h6 => ?_) ?_
    · extract_lets +onlyGivenNames -underBinder -merge x7
      try clear_value x7
      refine keeps_ite ?_ ?_
      · extract_lets +onlyGivenNames -underBinder -merge x8
        have h8 : Keeps s0 x8 := by
          subst x8
          refine keeps_sigUpdate ?_
          assumption
        try clear_value x8
        refine keeps_setSig ?_
        assumption
      · split
        · refine keeps_sigUpdate ?_
          assumption
        · refine keeps_sigUpdate ?_
          assumption
    · assumption

theorem keeps_nodeLose {s0 : State} {s : State} {h a : Nat} (hK : Keeps s0 s) :
    Keeps s0 (State.nodeLose s h a) := by
  rw [show @State.nodeLose = _ from by delta State.nodeLose; rfl]
  extract_lets +onlyGivenNames -underBinder -merge x1
  have h1 : Keeps s0 x1 := by
    subst x1
    refine keeps_fault ?_
    refine keeps_setNodeSt ?_
    assumption
  try clear_value x1
  extract_lets +onlyGivenNames -underBinder -merge x2
  subst x2
  try dsimp -zeta -proj only
  extract_lets +onlyGivenNames -underBinder -merge x3
  have h3 : Keeps s0 x3 := by
    subst x3
    refine keeps_nodeEntries (fun a4_0 a4_1 y4 h4 => ?_) ?_
    · extract_lets +onlyGivenNames -underBinder -merge x5
      try clear_value x5
      refine keeps_sigUpdate ?_
      assumption
    · assumption
  try clear_value x3
  extract_lets +onlyGivenNames -underBinder -merge x6
  try clear_value x6
  extract_lets +onlyGivenNames -underBinder -merge x7
  have h7 : Keeps s0 x7 := by
    subst x7
    refine keeps_setFnode ?_
    assumption
  try clear_value x7
  refine keeps_ite ?_ ?_
  · refine keeps_setFnode ?_
    assumption
  · assumption

theorem keeps_nodeRelease {s0 : State} {s : State} {j a st : Nat} (hK : Keeps s0 s) :
    Keeps s0 (State.nodeRelease s j a st) := by
  rw [show @State.nodeRelease = _ from by delta State.nodeRelease; rfl]
  extract_lets +onlyGivenNames -underBinder -merge x1
  try clear_value x1
  extract_lets +onlyGivenNames -underBinder -merge x2
  try clear_value x2
  extract_lets +onlyGivenNames -underBinder -merge x3
  try clear_value x3
  extract_lets +onlyGivenNames -underBinder -merge x4
  have h4 : Keeps s0 x4 := by
    subst x4
    refine keeps_setFport ?_
    assumption
  try clear_value x4
  extract_lets +onlyGivenNames -underBinder -merge x5
  try clear_value x5
  extract_lets +onlyGivenNames -underBinder -merge x6
  have h6 : Keeps s0 x6 := by
    subst x6
    refine keeps_setFnode ?_
    assumption
  try clear_value x6
  extract_lets +onlyGivenNames -underBinder -merge x7
  try clear_value x7
  refine keeps_ite ?_ ?_
  · assumption
  · extract_lets +onlyGivenNames -underBinder -merge x8
    have h8 : Keeps s0 x8 := by
      subst x8
      refine keeps_setNodeSt ?_
      assumption
    try clear_value x8
    refine keeps_ite ?_ ?_
    · refine keeps_wr ?_
      refine keeps_wr ?_
      assumption
    · assumption

theorem keeps_checkSlots {s0 : State} {s : State} {j a : Nat} (hK : Keeps s0 s) :
    Keeps s0 (State.checkSlots s j a) := by
  rw [show @State.checkSlots = _ from by delta State.checkSlots; rfl]
  extract_lets +onlyGivenNames -underBinder -merge x1
  try clear_value x1
  extract_lets +onlyGivenNames -underBinder -merge x2
  try clear_value x2
  extract_lets +onlyGivenNames -underBinder -merge x3
  try clear_value x3
  refine keeps_loopN (fun a4_0 y4 h4 => ?_) ?_
  · split
    · refine keeps_ite ?_ ?_
      · extract_lets +onlyGivenNames -underBinder -merge x5
        try clear_value x5
        extract_lets +onlyGivenNames -underBinder -merge x6
        try clear_value x6
        extract_lets +onlyGivenNames -underBinder -merge x7
        try clear_value x7
        refine keeps_ite ?_ ?_
        · refine keeps_fault ?_
          refine keeps_mk ?_
          assumption
        · refine keeps_mk ?_
          assumption
      · assumption
  · assumption

theorem keeps_setupStep {s0 : State} {s : State} {j a : Nat} (hK : Keeps s0 s) :
    Keeps s0 (State.setupStep s j a) := by
  rw [show @State.setupStep = _ from by delta State.setupStep; rfl]
  extract_lets +onlyGivenNames -underBinder -merge x1
  try clear_value x1
  extract_lets +onlyGivenNames -underBinder -merge x2
  try clear_value x2
  extract_lets +onlyGivenNames -underBinder -merge x3
  try clear_value x3
  extract_lets +onlyGivenNames -underBinder -merge x4
  try clear_value x4
  extract_lets +onlyGivenNames -underBinder -merge x5
  try clear_value x5
  extract_lets +onlyGivenNames -underBinder -merge x6
  try clear_value x6
  extract_lets +onlyGivenNames -underBinder -merge x7
  have h7 : Keeps s0 x7 := by
    subst x7
    refine keeps_setFnode ?_
    assumption
  try clear_value x7
  extract_lets +onlyGivenNames -underBinder -merge x8
  have h8 : Keeps s0 x8 := by
    subst x8
    refine keeps_put ?_
    assumption
  try clear_value x8
  extract_lets +onlyGivenNames -underBinder -merge x9
  have h9 : Keeps s0 x9 := by
    subst x9
    refine keeps_put ?_
    assumption
  try clear_value x9
  extract_lets +onlyGivenNames -underBinder -merge x10
  have h10 : Keeps s0 x10 := by
    subst x10
    refine keeps_putB ?_
    assumption
  try clear_value x10
  extract_lets +onlyGivenNames -underBinder -merge x11
  have h11 : Keeps s0 x11 := by
    subst x11
    refine keeps_ite ?_ ?_
    · refine keeps_ite ?_ ?_
      · refine keeps_put ?_
        assumption
      · refine keeps_fault ?_
        refine keeps_nodeRelease ?_
        assumption
    · assumption
  try clear_value x11
  extract_lets +onlyGivenNames -underBinder -merge x12
  try clear_value x12
  refine keeps_ite ?_ ?_
  · refine keeps_nodeReady ?_
    refine keeps_checkSlots ?_
    assumption
  · assumption

theorem keeps_discovered {s0 : State} {s : State} {j ser : Nat} (hK : Keeps s0 s) :
    Keeps s0 (State.discovered s j ser) := by
  rw [show @State.discovered = _ from by delta State.discovered; rfl]
  extract_lets +onlyGivenNames -underBinder -merge x1
  try clear_value x1
  extract_lets +onlyGivenNames -underBinder -merge x2
  try clear_value x2
  extract_lets +onlyGivenNames -underBinder -merge x3
  try clear_value x3
  extract_lets +onlyGivenNames -underBinder -merge x4
  try clear_value x4
  extract_lets +onlyGivenNames -underBinder -merge x5
  subst x5
  try dsimp -zeta -proj only
  split
  · extract_lets +onlyGivenNames -underBinder -merge x6
    try clear_value x6
    extract_lets +onlyGivenNames -underBinder -merge x7
    try clear_value x7
    refine keeps_ite ?_ ?_
    · refine keeps_setFport ?_
      assumption
    · refine keeps_ite ?_ ?_
      · assumption
      · refine keeps_ite ?_ ?_
        · refine keeps_setFport ?_
          assumption
        · assumption
  · split
    · refine keeps_ite ?_ ?_
      · refine keeps_setFport ?_
        assumption
      · assumption
    · extract_lets +onlyGivenNames -underBinder -merge x8
      subst x8
      try dsimp -zeta -proj only
      extract_lets +onlyGivenNames -underBinder -merge x9
      try clear_value x9
      split
      · refine keeps_setFport ?_
        assumption
      · extract_lets +onlyGivenNames -underBinder -merge x10
        have h10 : Keeps s0 x10 := by
          subst x10
          refine keeps_incSat ?_
          assumption
        try clear_value x10
        refine keeps_ite ?_ ?_
        · assumption
        · refine keeps_fault ?_
          refine keeps_setFport ?_
          assumption

theorem keeps_assigned {s0 : State} {s : State} {j ser a : Nat} (hK : Keeps s0 s) :
    Keeps s0 (State.assigned s j ser a) := by
  rw [show @State.assigned = _ from by delta State.assigned; rfl]
  extract_lets +onlyGivenNames -underBinder -merge x1
  try clear_value x1
  extract_lets +onlyGivenNames -underBinder -merge x2
  have h2 : Keeps s0 x2 := by
    subst x2
    refine keeps_wr ?_
    assumption
  try clear_value x2
  extract_lets +onlyGivenNames -underBinder -merge x3
  have h3 : Keeps s0 x3 := by
    subst x3
    refine keeps_setFnode ?_
    assumption
  try clear_value x3
  refine keeps_ite ?_ ?_
  · assumption
  · refine keeps_setNodeSt ?_
    assumption

theorem keeps_execDiscoveryRound {s0 : State} {j : Port16} {s : State} (hK : Keeps s0 s) :
    Goes s0 (execDiscoveryRound j s) := by
  rw [show @execDiscoveryRound = _ from by delta execDiscoveryRound; rfl]
  refine goes_ite ?_ ?_
  · refine goes_next ?_
    assumption
  · extract_lets +onlyGivenNames -underBinder -merge x1
    have h1 : Keeps s0 x1 := by
      subst x1
      refine keeps_until ?_
      assumption
    try clear_value x1
    extract_lets +onlyGivenNames -underBinder -merge x2
    try clear_value x2
    refine goes_next ?_
    refine keeps_putB ?_
    refine keeps_setFport ?_
    assumption

theorem keeps_discEnd {s0 : State} {s : State} {j : Nat} (hK : Keeps s0 s) :
    Keeps s0 (State.discEnd s j) := by
  rw [show @State.discEnd = _ from by delta State.discEnd; rfl]
  extract_lets +onlyGivenNames -underBinder -merge x1
  try clear_value x1
  refine keeps_ite ?_ ?_
  · refine keeps_putB ?_
    assumption
  · assumption

theorem keeps_takeInputs {s0 : State} {s : State} {j a : Nat} {vals : List (Nat × Word)} (hK : Keeps s0 s) :
    Keeps s0 (State.takeInputs s j a vals) := by
  rw [show @State.takeInputs = _ from by delta State.takeInputs; rfl]
  extract_lets +onlyGivenNames -underBinder -merge x1
  try clear_value x1
  extract_lets +onlyGivenNames -underBinder -merge x2
  try clear_value x2
  extract_lets +onlyGivenNames -underBinder -merge x3
  try clear_value x3
  extract_lets +onlyGivenNames -underBinder -merge x4
  try clear_value x4
  refine keeps_ite ?_ ?_
  · assumption
  · extract_lets +onlyGivenNames -underBinder -merge x5
    have h5 : Keeps s0 x5 := by
      subst x5
      refine keeps_setFnode ?_
      assumption
    try clear_value x5
    refine keeps_loopL (fun a6_0 y6 h6 => ?_) ?_
    · refine keeps_sigUpdate ?_
      assumption
    · assumption

theorem keeps_confirm {s0 : State} {s : State} {h a : Nat} {vals : List (Nat × Word)} (hK : Keeps s0 s) :
    Keeps s0 (State.confirm s h a vals) := by
  rw [show @State.confirm = _ from by delta State.confirm; rfl]
  refine keeps_loopL (fun a1_0 y1 h1 => ?_) ?_
  · extract_lets +onlyGivenNames -underBinder -merge x2
    try clear_value x2
    extract_lets +onlyGivenNames -underBinder -merge x3
    try clear_value x3
    refine keeps_ite ?_ ?_
    · refine keeps_setSig ?_
      assumption
    · assumption
  · assumption

theorem keeps_nodeGood {s0 : State} {s : State} {j a : Nat} (hK : Keeps s0 s) :
    Keeps s0 (State.nodeGood s j a) := by
  rw [show @State.nodeGood = _ from by delta State.nodeGood; rfl]
  extract_lets +onlyGivenNames -underBinder -merge x1
  try clear_value x1
  extract_lets +onlyGivenNames -underBinder -merge x2
  try clear_value x2
  extract_lets +onlyGivenNames -underBinder -merge x3
  have h3 : Keeps s0 x3 := by
    subst x3
    refine keeps_setFnode ?_
    assumption
  try clear_value x3
  extract_lets +onlyGivenNames -underBinder -merge x4
  have h4 : Keeps s0 x4 := by
    subst x4
    refine keeps_ite ?_ ?_
    · refine keeps_putB ?_
      assumption
    · refine keeps_putB ?_
      assumption
  try clear_value x4
  refine keeps_put ?_
  assumption

theorem keeps_fieldGood {s0 : State} {s : State} {j : Nat} {t : FTxn} {pl : List Byte} (hK : Keeps s0 s) :
    Keeps s0 (State.fieldGood s j t pl) := by
  rw [show @State.fieldGood = _ from by delta State.fieldGood; rfl]
  extract_lets +onlyGivenNames -underBinder -merge x1
  try clear_value x1
  extract_lets +onlyGivenNames -underBinder -merge x2
  try clear_value x2
  extract_lets +onlyGivenNames -underBinder -merge x3
  have h3 : Keeps s0 x3 := by
    subst x3
    refine keeps_ite ?_ ?_
    · refine keeps_retryT ?_
      assumption
    · assumption
  try clear_value x3
  extract_lets +onlyGivenNames -underBinder -merge x4
  have h4 : Keeps s0 x4 := by
    subst x4
    refine keeps_lineIdle ?_
    assumption
  try clear_value x4
  split
  · extract_lets +onlyGivenNames -underBinder -merge x5
    have h5 : Keeps s0 x5 := by
      subst x5
      refine keeps_nodeGood ?_
      assumption
    try clear_value x5
    extract_lets +onlyGivenNames -underBinder -merge x6
    have h6 : Keeps s0 x6 := by
      subst x6
      refine keeps_takeInputs ?_
      assumption
    try clear_value x6
    refine keeps_confirm ?_
    assumption
  · extract_lets +onlyGivenNames -underBinder -merge x7
    have h7 : Keeps s0 x7 := by
      subst x7
      refine keeps_nodeGood ?_
      assumption
    try clear_value x7
    extract_lets +onlyGivenNames -underBinder -merge x8
    try clear_value x8
    extract_lets +onlyGivenNames -underBinder -merge x9
    have h9 : Keeps s0 x9 := by
      subst x9
      refine keeps_setFnode ?_
      assumption
    try clear_value x9
    refine keeps_takeInputs ?_
    assumption
  · extract_lets +onlyGivenNames -underBinder -merge x10
    have h10 : Keeps s0 x10 := by
      subst x10
      refine keeps_nodeGood ?_
      assumption
    try clear_value x10
    extract_lets +onlyGivenNames -underBinder -merge x11
    try clear_value x11
    extract_lets +onlyGivenNames -underBinder -merge x12
    try clear_value x12
    extract_lets +onlyGivenNames -underBinder -merge x13
    try clear_value x13
    extract_lets +onlyGivenNames -underBinder -merge x14
    have h14 : Keeps s0 x14 := by
      subst x14
      refine keeps_setFnode ?_
      assumption
    try clear_value x14
    refine keeps_setupStep ?_
    assumption
  · refine keeps_confirm ?_
    refine keeps_nodeGood ?_
    assumption
  · extract_lets +onlyGivenNames -underBinder -merge x15
    try clear_value x15
    refine keeps_ite ?_ ?_
    · refine keeps_assigned ?_
      refine keeps_setFport ?_
      assumption
    · refine keeps_setFport ?_
      assumption
  · extract_lets +onlyGivenNames -underBinder -merge x16
    try clear_value x16
    extract_lets +onlyGivenNames -underBinder -merge x17
    have h17 : Keeps s0 x17 := by
      subst x17
      refine keeps_nodeGood ?_
      assumption
    try clear_value x17
    extract_lets +onlyGivenNames -underBinder -merge x18
    try clear_value x18
    extract_lets +onlyGivenNames -underBinder -merge x19
    have h19 : Keeps s0 x19 := by
      subst x19
      refine keeps_setFnode ?_
      assumption
    try clear_value x19
    refine keeps_setupStep ?_
    assumption
  · refine keeps_ite ?_ ?_
    · assumption
    · refine keeps_discovered ?_
      assumption

theorem keeps_fieldLasting {s0 : State} {s : State} {j : Nat} {t : FTxn} (hK : Keeps s0 s) :
    Keeps s0 (State.fieldLasting s j t) := by
  rw [show @State.fieldLasting = _ from by delta State.fieldLasting; rfl]
  extract_lets +onlyGivenNames -underBinder -merge x1
  try clear_value x1
  extract_lets +onlyGivenNames -underBinder -merge x2
  try clear_value x2
  extract_lets +onlyGivenNames -underBinder -merge x3
  have h3 : Keeps s0 x3 := by
    subst x3
    refine keeps_put ?_
    refine keeps_put ?_
    refine keeps_retryL ?_
    assumption
  try clear_value x3
  extract_lets +onlyGivenNames -underBinder -merge x4
  have h4 : Keeps s0 x4 := by
    subst x4
    refine keeps_lineIdle ?_
    refine keeps_fault ?_
    assumption
  try clear_value x4
  extract_lets +onlyGivenNames -underBinder -merge x5
  subst x5
  try dsimp -zeta -proj only
  split
  · extract_lets +onlyGivenNames -underBinder -merge x6
    try clear_value x6
    refine keeps_ite ?_ ?_
    · refine keeps_setFport ?_
      assumption
    · refine keeps_setFport ?_
      assumption
  · refine keeps_nodeRelease ?_
    assumption
  · refine keeps_ite ?_ ?_
    · refine keeps_nodeRelease ?_
      assumption
    · refine keeps_setFnode ?_
      assumption
  · refine keeps_setFnode ?_
    assumption

theorem keeps_fieldFail {s0 : State} {s : State} {j : Nat} {t : FTxn} (hK : Keeps s0 s) :
    Keeps s0 (State.fieldFail s j t) := by
  rw [show @State.fieldFail = _ from by delta State.fieldFail; rfl]
  refine keeps_ite ?_ ?_
  · refine keeps_fieldLasting ?_
    assumption
  · extract_lets +onlyGivenNames -underBinder -merge x1
    have h1 : Keeps s0 x1 := by
      subst x1
      refine keeps_lineIdle ?_
      refine keeps_incSat ?_
      assumption
    try clear_value x1
    refine keeps_setFport ?_
    assumption

theorem keeps_discSplit {s0 : State} {s : State} {j : Nat} {t : FTxn} (hK : Keeps s0 s) :
    Keeps s0 (State.discSplit s j t) := by
  rw [show @State.discSplit = _ from by delta State.discSplit; rfl]
  extract_lets +onlyGivenNames -underBinder -merge x1
  have h1 : Keeps s0 x1 := by
    subst x1
    refine keeps_lineIdle ?_
    assumption
  try clear_value x1
  extract_lets +onlyGivenNames -underBinder -merge x2
  try clear_value x2
  refine keeps_ite ?_ ?_
  · assumption
  · refine keeps_ite ?_ ?_
    · refine keeps_fault ?_
      assumption
    · refine keeps_setFport ?_
      assumption

theorem keeps_execFieldResponse {s0 : State} {j : Port16} {l : List Byte} {lineErr : Bool} {dt : Nat} {s : State} (hK : Keeps s0 s) :
    Goes s0 (execFieldResponse j l lineErr dt s) := by
  rw [show @execFieldResponse = _ from by delta execFieldResponse; rfl]
  split
  · refine goes_next ?_
    assumption
  · refine goes_ite ?_ ?_
    · refine goes_next ?_
      assumption
    · extract_lets +onlyGivenNames -underBinder -merge x1
      have h1 : Keeps s0 x1 := by
        subst x1
        refine keeps_until ?_
        assumption
      try clear_value x1
      extract_lets +onlyGivenNames -underBinder -merge x2
      try clear_value x2
      extract_lets +onlyGivenNames -underBinder -merge x3
      have h3 : Keeps s0 x3 := by
        subst x3
        split
        · refine keeps_fieldGood ?_
          assumption
        · refine keeps_ite ?_ ?_
          · refine keeps_discSplit ?_
            refine keeps_fault ?_
            assumption
          · refine keeps_fieldFail ?_
            refine keeps_fault ?_
            assumption
        · refine keeps_ite ?_ ?_
          · refine keeps_discSplit ?_
            assumption
          · refine keeps_fieldFail ?_
            assumption
      try clear_value x3
      refine goes_next ?_
      refine keeps_discEnd ?_
      refine keeps_fieldSettle ?_
      assumption

theorem keeps_execFieldTimeout {s0 : State} {j : Port16} {s : State} (hK : Keeps s0 s) :
    Goes s0 (execFieldTimeout j s) := by
  rw [show @execFieldTimeout = _ from by delta execFieldTimeout; rfl]
  split
  · refine goes_next ?_
    assumption
  · refine goes_ite ?_ ?_
    · refine goes_next ?_
      assumption
    · extract_lets +onlyGivenNames -underBinder -merge x1
      have h1 : Keeps s0 x1 := by
        subst x1
        refine keeps_incSat ?_
        refine keeps_until ?_
        assumption
      try clear_value x1
      extract_lets +onlyGivenNames -underBinder -merge x2
      have h2 : Keeps s0 x2 := by
        subst x2
        refine keeps_ite ?_ ?_
        · refine keeps_lineIdle ?_
          assumption
        · refine keeps_fieldFail ?_
          assumption
      try clear_value x2
      refine goes_next ?_
      refine keeps_discEnd ?_
      refine keeps_fieldSettle ?_
      assumption

theorem keeps_countMiss {s0 : State} {s : State} {h a : Nat} (hK : Keeps s0 s) :
    Keeps s0 (State.countMiss s h a) := by
  rw [show @State.countMiss = _ from by delta State.countMiss; rfl]
  extract_lets +onlyGivenNames -underBinder -merge x1
  try clear_value x1
  extract_lets +onlyGivenNames -underBinder -merge x2
  try clear_value x2
  extract_lets +onlyGivenNames -underBinder -merge x3
  try clear_value x3
  extract_lets +onlyGivenNames -underBinder -merge x4
  try clear_value x4
  extract_lets +onlyGivenNames -underBinder -merge x5
  try clear_value x5
  extract_lets +onlyGivenNames -underBinder -merge x6
  try clear_value x6
  extract_lets +onlyGivenNames -underBinder -merge x7
  have h7 : Keeps s0 x7 := by
    subst x7
    refine keeps_setFnode ?_
    assumption
  try clear_value x7
  extract_lets +onlyGivenNames -underBinder -merge x8
  have h8 : Keeps s0 x8 := by
    subst x8
    refine keeps_ite ?_ ?_
    · refine keeps_setFnode ?_
      assumption
    · assumption
  try clear_value x8
  refine keeps_ite ?_ ?_
  · assumption
  · extract_lets +onlyGivenNames -underBinder -merge x9
    try clear_value x9
    extract_lets +onlyGivenNames -underBinder -merge x10
    subst x10
    try dsimp -zeta -proj only
    extract_lets +onlyGivenNames -underBinder -merge x11
    try clear_value x11
    extract_lets +onlyGivenNames -underBinder -merge x12
    have h12 : Keeps s0 x12 := by
      subst x12
      refine keeps_setFnode ?_
      assumption
    try clear_value x12
    extract_lets +onlyGivenNames -underBinder -merge x13
    have h13 : Keeps s0 x13 := by
      subst x13
      refine keeps_ite ?_ ?_
      · refine keeps_ite ?_ ?_
        · refine keeps_fault ?_
          refine keeps_putB ?_
          assumption
        · assumption
      · assumption
    try clear_value x13
    extract_lets +onlyGivenNames -underBinder -merge x14
    try clear_value x14
    extract_lets +onlyGivenNames -underBinder -merge x15
    have h15 : Keeps s0 x15 := by
      subst x15
      refine keeps_setFnode ?_
      assumption
    try clear_value x15
    extract_lets +onlyGivenNames -underBinder -merge x16
    have h16 : Keeps s0 x16 := by
      subst x16
      refine keeps_ite ?_ ?_
      · refine keeps_ite ?_ ?_
        · refine keeps_fault ?_
          refine keeps_putB ?_
          assumption
        · assumption
      · assumption
    try clear_value x16
    refine keeps_ite ?_ ?_
    · extract_lets +onlyGivenNames -underBinder -merge x17
      try clear_value x17
      extract_lets +onlyGivenNames -underBinder -merge x18
      have h18 : Keeps s0 x18 := by
        subst x18
        refine keeps_put ?_
        assumption
      try clear_value x18
      refine keeps_ite ?_ ?_
      · refine keeps_nodeLose ?_
        assumption
      · assumption
    · assumption

theorem keeps_cycleStart {s0 : State} {s : State} {j : Nat} (hK : Keeps s0 s) :
    Keeps s0 (State.cycleStart s j) := by
  rw [show @State.cycleStart = _ from by delta State.cycleStart; rfl]
  extract_lets +onlyGivenNames -underBinder -merge x1
  try clear_value x1
  extract_lets +onlyGivenNames -underBinder -merge x2
  try clear_value x2
  extract_lets +onlyGivenNames -underBinder -merge x3
  try clear_value x3
  extract_lets +onlyGivenNames -underBinder -merge x4
  have h4 : Keeps s0 x4 := by
    subst x4
    refine keeps_ite ?_ ?_
    · assumption
    · refine keeps_until ?_
      assumption
  try clear_value x4
  extract_lets +onlyGivenNames -underBinder -merge x5
  try clear_value x5
  extract_lets +onlyGivenNames -underBinder -merge x6
  try clear_value x6
  extract_lets +onlyGivenNames -underBinder -merge x7
  have h7 : Keeps s0 x7 := by
    subst x7
    refine keeps_ite ?_ ?_
    · refine keeps_put ?_
      assumption
    · assumption
  try clear_value x7
  extract_lets +onlyGivenNames -underBinder -merge x8
  try clear_value x8
  extract_lets +onlyGivenNames -underBinder -merge x9
  have h9 : Keeps s0 x9 := by
    subst x9
    refine keeps_putB ?_
    assumption
  try clear_value x9
  extract_lets +onlyGivenNames -underBinder -merge x10
  have h10 : Keeps s0 x10 := by
    subst x10
    refine keeps_incSat ?_
    assumption
  try clear_value x10
  extract_lets +onlyGivenNames -underBinder -merge x11
  have h11 : Keeps s0 x11 := by
    subst x11
    refine keeps_ite ?_ ?_
    · refine keeps_ite ?_ ?_
      · refine keeps_fault ?_
        assumption
      · assumption
    · assumption
  try clear_value x11
  extract_lets +onlyGivenNames -underBinder -merge x12
  have h12 : Keeps s0 x12 := by
    subst x12
    refine keeps_incWrap ?_
    assumption
  try clear_value x12
  extract_lets +onlyGivenNames -underBinder -merge x13
  have h13 : Keeps s0 x13 := by
    subst x13
    refine keeps_loopL (fun a14_0 y14 h14 => ?_) ?_
    · refine keeps_ite ?_ ?_
      · refine keeps_countMiss ?_
        assumption
      · assumption
    · assumption
  try clear_value x13
  extract_lets +onlyGivenNames -underBinder -merge x15
  try clear_value x15
  refine keeps_fieldSettle ?_
  refine keeps_setFport ?_
  assumption

theorem keeps_execFieldCycleStart {s0 : State} {j : Port16} {s : State} (hK : Keeps s0 s) :
    Goes s0 (execFieldCycleStart j s) := by
  rw [show @execFieldCycleStart = _ from by delta execFieldCycleStart; rfl]
  extract_lets +onlyGivenNames -underBinder -merge x1
  try clear_value x1
  refine goes_ite ?_ ?_
  · refine goes_next ?_
    refine keeps_loopL (fun a2_0 y2 h2 => ?_) ?_
    · refine keeps_cycleStart ?_
      assumption
    · assumption
  · refine goes_next ?_
    assumption

theorem keeps_fieldRelease {s0 : State} {s : State} (hK : Keeps s0 s) :
    Keeps s0 (State.fieldRelease s) := by
  rw [show @State.fieldRelease = _ from by delta State.fieldRelease; rfl]
  extract_lets +onlyGivenNames -underBinder -merge x1
  have h1 : Keeps s0 x1 := by
    subst x1
    refine keeps_mk ?_
    assumption
  try clear_value x1
  extract_lets +onlyGivenNames -underBinder -merge x2
  have h2 : Keeps s0 x2 := by
    subst x2
    refine keeps_setRegs ?_ ?_
    · exact mwf_filter _ _ _
    · assumption
  try clear_value x2
  extract_lets +onlyGivenNames -underBinder -merge x3
  have h3 : Keeps s0 x3 := by
    subst x3
    refine keeps_put ?_
    assumption
  try clear_value x3
  refine keeps_loopN (fun a4_0 y4 h4 => ?_) ?_
  · refine keeps_putB ?_
    refine keeps_put ?_
    assumption
  · assumption

theorem keeps_fieldStart {s0 : State} {s : State} (hK : Keeps s0 s) :
    Keeps s0 (State.fieldStart s) := by
  rw [show @State.fieldStart = _ from by delta State.fieldStart; rfl]
  refine keeps_loopN (fun a1_0 y1 h1 => ?_) ?_
  · refine keeps_ite ?_ ?_
    · refine keeps_putB ?_
      refine keeps_putB ?_
      refine keeps_setFport ?_
      assumption
    · assumption
  · assumption

theorem keeps_fieldForget {s0 : State} {s : State} {a : Nat} (hK : Keeps s0 s) :
    Keeps s0 (State.fieldForget s a) := by
  rw [show @State.fieldForget = _ from by delta State.fieldForget; rfl]
  refine keeps_loopN (fun a1_0 y1 h1 => ?_) ?_
  · refine keeps_ite ?_ ?_
    · refine keeps_wr ?_
      refine keeps_wr ?_
      assumption
    · assumption
  · assumption

end Sys2Proof.Machine
end

