-- ==== Sys2Proof/Laws/KeepsYilos.lean ====
section
/-! SUPPORT. Laws/KeepsYilos.lean: what the operations of Machine/Yilos.lean keep. -/
namespace Sys2Proof.Machine

theorem keeps_showMops {s0 : State} {s : State} {k : Nat} (hK : Keeps s0 s) :
    Keeps s0 (State.showMops s k) := by
  rw [show @State.showMops = _ from by delta State.showMops; rfl]
  refine keeps_put ?_
  assumption

theorem keeps_putLine {s0 : State} {s : State} {k S : Nat} {l : List (Bool × Byte)} (hK : Keeps s0 s) :
    Keeps s0 (State.putLine s k S l) := by
  rw [show @State.putLine = _ from by delta State.putLine; rfl]
  split
  · refine keeps_setLink ?_
    assumption

theorem keeps_sendFrame {s0 : State} {s : State} {k : Nat} (hK : Keeps s0 s) :
    Keeps s0 (State.sendFrame s k) := by
  rw [show @State.sendFrame = _ from by delta State.sendFrame; rfl]
  split
  · extract_lets +onlyGivenNames -underBinder -merge x1
    have h1 : Keeps s0 x1 := by
      subst x1
      refine keeps_advanceTb ?_
      assumption
    try clear_value x1
    extract_lets +onlyGivenNames -underBinder -merge x2
    try clear_value x2
    split
    · split
      · extract_lets +onlyGivenNames -underBinder -merge x3
        try clear_value x3
        extract_lets +onlyGivenNames -underBinder -merge x4
        try clear_value x4
        extract_lets +onlyGivenNames -underBinder -merge x5
        try clear_value x5
        split
        · extract_lets +onlyGivenNames -underBinder -merge x6
          try clear_value x6
          extract_lets +onlyGivenNames -underBinder -merge x7
          try clear_value x7
          extract_lets +onlyGivenNames -underBinder -merge x8
          have h8 : Keeps s0 x8 := by
            subst x8
            refine keeps_setLink ?_
            assumption
          try clear_value x8
          extract_lets +onlyGivenNames -underBinder -merge x9
          have h9 : Keeps s0 x9 := by
            subst x9
            refine keeps_setQueue ?_
            refine keeps_putLine ?_
            assumption
          try clear_value x9
          extract_lets +onlyGivenNames -underBinder -merge x10
          have h10 : Keeps s0 x10 := by
            subst x10
            refine keeps_wr ?_
            assumption
          try clear_value x10
          extract_lets +onlyGivenNames -underBinder -merge x11
          have h11 : Keeps s0 x11 := by
            subst x11
            refine keeps_showMops ?_
            refine keeps_put ?_
            assumption
          try clear_value x11
          refine keeps_wr ?_
          assumption

theorem keeps_sendTrain {s0 : State} {s : State} {k tt b1 : Nat} (hK : Keeps s0 s) :
    Keeps s0 (State.sendTrain s k tt b1) := by
  rw [show @State.sendTrain = _ from by delta State.sendTrain; rfl]
  extract_lets +onlyGivenNames -underBinder -merge x1
  try clear_value x1
  refine keeps_putLine ?_
  refine keeps_advanceTb ?_
  assumption

theorem keeps_downFrame {s0 : State} {s : State} {k : Nat} (hK : Keeps s0 s) :
    Keeps s0 (State.downFrame s k) := by
  rw [show @State.downFrame = _ from by delta State.downFrame; rfl]
  extract_lets +onlyGivenNames -underBinder -merge x1
  try clear_value x1
  extract_lets +onlyGivenNames -underBinder -merge x2
  try clear_value x2
  refine keeps_ite ?_ ?_
  · refine keeps_sendFrame ?_
    assumption
  · refine keeps_ite ?_ ?_
    · refine keeps_sendTrain ?_
      assumption
    · refine keeps_ite ?_ ?_
      · refine keeps_sendTrain ?_
        assumption
      · refine keeps_ite ?_ ?_
        · refine keeps_sendTrain ?_
          refine keeps_setLink ?_
          assumption
        · refine keeps_ite ?_ ?_
          · refine keeps_ite ?_ ?_
            · refine keeps_sendTrain ?_
              assumption
            · refine keeps_ite ?_ ?_
              · assumption
              · refine keeps_sendTrain ?_
                refine keeps_setLink ?_
                assumption
          · refine keeps_ite ?_ ?_
            · refine keeps_ite ?_ ?_
              · refine keeps_sendFrame ?_
                assumption
              · refine keeps_ite ?_ ?_
                · assumption
                · refine keeps_sendTrain ?_
                  refine keeps_setLink ?_
                  assumption
            · assumption

theorem keeps_execDownlinkFrame {s0 : State} {k : TileNo} {s : State} (hK : Keeps s0 s) :
    Goes s0 (execDownlinkFrame k s) := by
  rw [show @execDownlinkFrame = _ from by delta execDownlinkFrame; rfl]
  refine goes_next ?_
  refine keeps_downFrame ?_
  assumption

theorem keeps_linkLost {s0 : State} {s : State} {k : Nat} (hK : Keeps s0 s) :
    Keeps s0 (State.linkLost s k) := by
  rw [show @State.linkLost = _ from by delta State.linkLost; rfl]
  extract_lets +onlyGivenNames -underBinder -merge x1
  have h1 : Keeps s0 x1 := by
    subst x1
    refine keeps_fault ?_
    assumption
  try clear_value x1
  extract_lets +onlyGivenNames -underBinder -merge x2
  have h2 : Keeps s0 x2 := by
    subst x2
    refine keeps_raise ?_
    assumption
  try clear_value x2
  extract_lets +onlyGivenNames -underBinder -merge x3
  have h3 : Keeps s0 x3 := by
    subst x3
    refine keeps_diagAbort ?_
    assumption
  try clear_value x3
  refine keeps_tileSetsFail ?_
  refine keeps_linkDown ?_
  assumption

theorem keeps_classify {s0 : State} {s : State} {k j : Nat} {b0 b1 : Bool} (hK : Keeps s0 s) :
    Keeps s0 (State.classify s k j b0 b1) := by
  rw [show @State.classify = _ from by delta State.classify; rfl]
  extract_lets +onlyGivenNames -underBinder -merge x1
  try clear_value x1
  refine keeps_ite ?_ ?_
  · assumption
  · refine keeps_ite ?_ ?_
    · refine keeps_loopN (fun a2_0 y2 h2 => ?_) ?_
      · refine keeps_incSat ?_
        refine keeps_retryT ?_
        assumption
      · assumption
    · extract_lets +onlyGivenNames -underBinder -merge x3
      have h3 : Keeps s0 x3 := by
        subst x3
        refine keeps_loopN (fun a4_0 y4 h4 => ?_) ?_
        · refine keeps_incSat ?_
          refine keeps_retryL ?_
          assumption
        · assumption
      try clear_value x3
      refine keeps_ite ?_ ?_
      · refine keeps_fault ?_
        assumption
      · assumption

theorem keeps_swfClass {s0 : State} {s : State} {k u old swf : Nat} (hK : Keeps s0 s) :
    Keeps s0 (State.swfClass s k u old swf) := by
  rw [show @State.swfClass = _ from by delta State.swfClass; rfl]
  refine keeps_loopN (fun a1_0 y1 h1 => ?_) ?_
  · extract_lets +onlyGivenNames -underBinder -merge x2
    try clear_value x2
    extract_lets +onlyGivenNames -underBinder -merge x3
    try clear_value x3
    extract_lets +onlyGivenNames -underBinder -merge x4
    try clear_value x4
    extract_lets +onlyGivenNames -underBinder -merge x5
    subst x5
    try dsimp -zeta -proj only
    split
    · refine keeps_ite ?_ ?_
      · extract_lets +onlyGivenNames -underBinder -merge x6
        try clear_value x6
        refine keeps_setLink ?_
        refine keeps_fault ?_
        assumption
      · assumption
    · assumption
    · refine keeps_ite ?_ ?_
      · extract_lets +onlyGivenNames -underBinder -merge x7
        try clear_value x7
        extract_lets +onlyGivenNames -underBinder -merge x8
        have h8 : Keeps s0 x8 := by
          subst x8
          refine keeps_setLink ?_
          refine keeps_incSat ?_
          refine keeps_fault ?_
          assumption
        try clear_value x8
        extract_lets +onlyGivenNames -underBinder -merge x9
        try clear_value x9
        refine keeps_legSetFails ?_
        refine keeps_legLasting ?_
        assumption
      · split
        · refine keeps_ite ?_ ?_
          · extract_lets +onlyGivenNames -underBinder -merge x10
            try clear_value x10
            extract_lets +onlyGivenNames -underBinder -merge x11
            have h11 : Keeps s0 x11 := by
              subst x11
              refine keeps_setLink ?_
              refine keeps_incSat ?_
              assumption
            try clear_value x11
            refine keeps_ite ?_ ?_
            · refine keeps_fault ?_
              assumption
            · assumption
          · assumption
        · assumption
  · assumption

theorem keeps_setVerdict {s0 : State} {s : State} {k p v : Nat} (hK : Keeps s0 s) :
    Keeps s0 (State.setVerdict s k p v) := by
  rw [show @State.setVerdict = _ from by delta State.setVerdict; rfl]
  extract_lets +onlyGivenNames -underBinder -merge x1
  try clear_value x1
  extract_lets +onlyGivenNames -underBinder -merge x2
  have h2 : Keeps s0 x2 := by
    subst x2
    refine keeps_put ?_
    assumption
  try clear_value x2
  extract_lets +onlyGivenNames -underBinder -merge x3
  have h3 : Keeps s0 x3 := by
    subst x3
    refine keeps_setBitAt ?_
    assumption
  try clear_value x3
  refine keeps_ite ?_ ?_
  · refine keeps_fault ?_
    assumption
  · assumption

theorem keeps_diagWrite {s0 : State} {s : State} {k v : Nat} (hK : Keeps s0 s) :
    Keeps s0 (State.diagWrite s k v) := by
  rw [show @State.diagWrite = _ from by delta State.diagWrite; rfl]
  refine keeps_setLink ?_
  assumption

theorem keeps_diagMode {s0 : State} {s : State} {k : Nat} {d : DiagRec} (hK : Keeps s0 s) :
    Keeps s0 (State.diagMode s k d) := by
  rw [show @State.diagMode = _ from by delta State.diagMode; rfl]
  refine keeps_diagWrite ?_
  refine keeps_setLink ?_
  assumption

theorem keeps_diagEnd {s0 : State} {s : State} {k : Nat} (hK : Keeps s0 s) :
    Keeps s0 (State.diagEnd s k) := by
  rw [show @State.diagEnd = _ from by delta State.diagEnd; rfl]
  extract_lets +onlyGivenNames -underBinder -merge x1
  try clear_value x1
  extract_lets +onlyGivenNames -underBinder -merge x2
  have h2 : Keeps s0 x2 := by
    subst x2
    refine keeps_diagWrite ?_
    refine keeps_setLink ?_
    assumption
  try clear_value x2
  refine keeps_raise ?_
  refine keeps_putB ?_
  assumption

theorem keeps_diagStart {s0 : State} {s : State} {k : Nat} (hK : Keeps s0 s) :
    Keeps s0 (State.diagStart s k) := by
  rw [show @State.diagStart = _ from by delta State.diagStart; rfl]
  extract_lets +onlyGivenNames -underBinder -merge x1
  try clear_value x1
  extract_lets +onlyGivenNames -underBinder -merge x2
  have h2 : Keeps s0 x2 := by
    subst x2
    refine keeps_put ?_
    assumption
  try clear_value x2
  extract_lets +onlyGivenNames -underBinder -merge x3
  subst x3
  try dsimp -zeta -proj only
  refine keeps_ite ?_ ?_
  · refine keeps_ite ?_ ?_
    · extract_lets +onlyGivenNames -underBinder -merge x4
      have h4 : Keeps s0 x4 := by
        subst x4
        refine keeps_loopL (fun a5_0 y5 h5 => ?_) ?_
        · refine keeps_setVerdict ?_
          assumption
        · assumption
      try clear_value x4
      refine keeps_raise ?_
      refine keeps_putB ?_
      assumption
    · split
      · refine keeps_raise ?_
        assumption
      · refine keeps_putB ?_
        refine keeps_diagMode ?_
        assumption
  · refine keeps_raise ?_
    refine keeps_loopL (fun a6_0 y6 h6 => ?_) ?_
    · refine keeps_setVerdict ?_
      assumption
    · assumption

theorem keeps_execDiagStart {s0 : State} {k : TileNo} {v : Word} {s : State} (hK : Keeps s0 s) :
    Goes s0 (execDiagStart k v s) := by
  rw [show @execDiagStart = _ from by delta execDiagStart; rfl]
  refine keeps_onRegW (fun a1_0 y1 h1 => ?_) ?_
  · extract_lets +onlyGivenNames -underBinder -merge x2
    have h2 : Keeps s0 x2 := by
      subst x2
      refine keeps_put ?_
      refine keeps_put ?_
      assumption
    try clear_value x2
    refine goes_ite ?_ ?_
    · refine goes_next ?_
      refine keeps_diagStart ?_
      assumption
    · refine goes_next ?_
      assumption
  · assumption

theorem keeps_diagSettle {s0 : State} {s : State} {k : Nat} {d : DiagRec} {ratios : List Nat} (hK : Keeps s0 s) :
    Keeps s0 (State.diagSettle s k d ratios) := by
  rw [show @State.diagSettle = _ from by delta State.diagSettle; rfl]
  extract_lets +onlyGivenNames -underBinder -merge x1
  try clear_value x1
  refine keeps_ite ?_ ?_
  · refine keeps_diagMode ?_
    assumption
  · refine keeps_ite ?_ ?_
    · refine keeps_diagMode ?_
      assumption
    · extract_lets +onlyGivenNames -underBinder -merge x2
      try clear_value x2
      extract_lets +onlyGivenNames -underBinder -merge x3
      have h3 : Keeps s0 x3 := by
        subst x3
        refine keeps_put ?_
        refine keeps_put ?_
        assumption
      try clear_value x3
      extract_lets +onlyGivenNames -underBinder -merge x4
      have h4 : Keeps s0 x4 := by
        subst x4
        refine keeps_put ?_
        refine keeps_put ?_
        assumption
      try clear_value x4
      extract_lets +onlyGivenNames -underBinder -merge x5
      have h5 : Keeps s0 x5 := by
        subst x5
        refine keeps_setVerdict ?_
        assumption
      try clear_value x5
      split
      · refine keeps_diagEnd ?_
        assumption
      · refine keeps_diagMode ?_
        assumption

theorem keeps_diagNext {s0 : State} {s : State} {k : Nat} {d : DiagRec} (hK : Keeps s0 s) :
    Keeps s0 (State.diagNext s k d) := by
  rw [show @State.diagNext = _ from by delta State.diagNext; rfl]
  split
  · refine keeps_diagSettle ?_
    assumption
  · refine keeps_diagWrite ?_
    refine keeps_setLink ?_
    assumption

theorem keeps_diagSettled {s0 : State} {s : State} {k t : Nat} {l : List Nat} (hK : Keeps s0 s) :
    Keeps s0 (State.diagSettled s k t l) := by
  rw [show @State.diagSettled = _ from by delta State.diagSettled; rfl]
  extract_lets +onlyGivenNames -underBinder -merge x1
  have h1 : Keeps s0 x1 := by
    subst x1
    refine keeps_advanceTb ?_
    assumption
  try clear_value x1
  extract_lets +onlyGivenNames -underBinder -merge x2
  try clear_value x2
  extract_lets +onlyGivenNames -underBinder -merge x3
  have h3 : Keeps s0 x3 := by
    subst x3
    refine keeps_setTile ?_
    assumption
  try clear_value x3
  split
  · refine keeps_diagNext ?_
    assumption
  · assumption

theorem keeps_execDiagSettleEnd {s0 : State} {k : TileNo} {r0 r1 r2 r3 : BitVec 16} {s : State} (hK : Keeps s0 s) :
    Goes s0 (execDiagSettleEnd k r0 r1 r2 r3 s) := by
  rw [show @execDiagSettleEnd = _ from by delta execDiagSettleEnd; rfl]
  split
  · refine goes_next ?_
    assumption
  · refine goes_next ?_
    refine keeps_diagSettled ?_
    assumption

theorem keeps_diagTel {s0 : State} {s : State} {k j v : Nat} (hK : Keeps s0 s) :
    Keeps s0 (State.diagTel s k j v) := by
  rw [show @State.diagTel = _ from by delta State.diagTel; rfl]
  split
  · assumption
  · split
    · refine keeps_ite ?_ ?_
      · refine keeps_diagNext ?_
        assumption
      · assumption
    · assumption

theorem keeps_stoTrack {s0 : State} {s : State} {k : Nat} (hK : Keeps s0 s) :
    Keeps s0 (State.stoTrack s k) := by
  rw [show @State.stoTrack = _ from by delta State.stoTrack; rfl]
  extract_lets +onlyGivenNames -underBinder -merge x1
  try clear_value x1
  refine keeps_ite ?_ ?_
  · refine keeps_setLink ?_
    assumption
  · refine keeps_ite ?_ ?_
    · assumption
    · refine keeps_setLink ?_
      assumption

theorem keeps_execStoDisagree {s0 : State} {k : TileNo} {s : State} (hK : Keeps s0 s) :
    Goes s0 (execStoDisagree k s) := by
  rw [show @execStoDisagree = _ from by delta execStoDisagree; rfl]
  extract_lets +onlyGivenNames -underBinder -merge x1
  try clear_value x1
  split
  · refine goes_ite ?_ ?_
    · refine goes_next ?_
      assumption
    · refine goes_next ?_
      refine keeps_fault ?_
      refine keeps_setLink ?_
      refine keeps_advanceTb ?_
      assumption
  · refine goes_next ?_
    assumption

theorem keeps_uplinkGood {s0 : State} {s : State} {k j w : Nat} {dl : Bool} {l : LinkRec} (hK : Keeps s0 s) :
    Keeps s0 (State.uplinkGood s k j w dl l) := by
  rw [show @State.uplinkGood = _ from by delta State.uplinkGood; rfl]
  extract_lets +onlyGivenNames -underBinder -merge x1
  have h1 : Keeps s0 x1 := by
    subst x1
    refine keeps_ite ?_ ?_
    · refine keeps_incSat ?_
      assumption
    · assumption
  try clear_value x1
  extract_lets +onlyGivenNames -underBinder -merge x2
  have h2 : Keeps s0 x2 := by
    subst x2
    split
    · refine keeps_classify ?_
      assumption
    · assumption
  try clear_value x2
  extract_lets +onlyGivenNames -underBinder -merge x3
  try clear_value x3
  extract_lets +onlyGivenNames -underBinder -merge x4
  try clear_value x4
  extract_lets +onlyGivenNames -underBinder -merge x5
  have h5 : Keeps s0 x5 := by
    subst x5
    refine keeps_wr ?_
    assumption
  try clear_value x5
  extract_lets +onlyGivenNames -underBinder -merge x6
  have h6 : Keeps s0 x6 := by
    subst x6
    split
    · refine keeps_ite ?_ ?_
      · extract_lets +onlyGivenNames -underBinder -merge x7
        try clear_value x7
        extract_lets +onlyGivenNames -underBinder -merge x8
        try clear_value x8
        extract_lets +onlyGivenNames -underBinder -merge x9
        have h9 : Keeps s0 x9 := by
          subst x9
          refine keeps_setLink ?_
          assumption
        try clear_value x9
        refine keeps_putB ?_
        refine keeps_put ?_
        assumption
      · assumption
    · assumption
  try clear_value x6
  extract_lets +onlyGivenNames -underBinder -merge x10
  have h10 : Keeps s0 x10 := by
    subst x10
    refine keeps_ite ?_ ?_
    · refine keeps_diagTel ?_
      assumption
    · assumption
  try clear_value x10
  extract_lets +onlyGivenNames -underBinder -merge x11
  try clear_value x11
  extract_lets +onlyGivenNames -underBinder -merge x12
  try clear_value x12
  extract_lets +onlyGivenNames -underBinder -merge x13
  have h13 : Keeps s0 x13 := by
    subst x13
    refine keeps_ite ?_ ?_
    · refine keeps_raise ?_
      assumption
    · assumption
  try clear_value x13
  extract_lets +onlyGivenNames -underBinder -merge x14
  have h14 : Keeps s0 x14 := by
    subst x14
    refine keeps_put ?_
    assumption
  try clear_value x14
  extract_lets +onlyGivenNames -underBinder -merge x15
  have h15 : Keeps s0 x15 := by
    subst x15
    refine keeps_swfClass ?_
    assumption
  try clear_value x15
  extract_lets +onlyGivenNames -underBinder -merge x16
  try clear_value x16
  extract_lets +onlyGivenNames -underBinder -merge x17
  have h17 : Keeps s0 x17 := by
    subst x17
    refine keeps_ite ?_ ?_
    · refine keeps_raise ?_
      assumption
    · assumption
  try clear_value x17
  extract_lets +onlyGivenNames -underBinder -merge x18
  have h18 : Keeps s0 x18 := by
    subst x18
    refine keeps_stoTrack ?_
    refine keeps_putB ?_
    assumption
  try clear_value x18
  extract_lets +onlyGivenNames -underBinder -merge x19
  have h19 : Keeps s0 x19 := by
    subst x19
    refine keeps_ite ?_ ?_
    · refine keeps_fault ?_
      refine keeps_incSat ?_
      refine keeps_raise ?_
      assumption
    · assumption
  try clear_value x19
  extract_lets +onlyGivenNames -underBinder -merge x20
  have h20 : Keeps s0 x20 := by
    subst x20
    refine keeps_ite ?_ ?_
    · refine keeps_fault ?_
      refine keeps_incSat ?_
      refine keeps_raise ?_
      assumption
    · assumption
  try clear_value x20
  extract_lets +onlyGivenNames -underBinder -merge x21
  have h21 : Keeps s0 x21 := by
    subst x21
    refine keeps_ite ?_ ?_
    · refine keeps_fault ?_
      refine keeps_incSat ?_
      refine keeps_raise ?_
      assumption
    · assumption
  try clear_value x21
  extract_lets +onlyGivenNames -underBinder -merge x22
  try clear_value x22
  extract_lets +onlyGivenNames -underBinder -merge x23
  have h23 : Keeps s0 x23 := by
    subst x23
    refine keeps_ite ?_ ?_
    · refine keeps_fault ?_
      refine keeps_raise ?_
      assumption
    · assumption
  try clear_value x23
  refine keeps_putB ?_
  assumption

theorem keeps_upRx {s0 : State} {s : State} {k : Nat} {rx : Option (BitVec 80)} (hK : Keeps s0 s) :
    Keeps s0 (State.upRx s k rx).2 := by
  rw [show @State.upRx = _ from by delta State.upRx; rfl]
  extract_lets +onlyGivenNames -underBinder -merge x1
  try clear_value x1
  extract_lets +onlyGivenNames -underBinder -merge x2
  try clear_value x2
  split
  · refine keeps_snd ?_
    refine keeps_setTile ?_
    refine keeps_setLink ?_
    assumption

theorem keeps_uplinkTake {s0 : State} {s : State} {k : Nat} {f : Option (BitVec 64)} (hK : Keeps s0 s) :
    Keeps s0 (State.uplinkTake s k f) := by
  rw [show @State.uplinkTake = _ from by delta State.uplinkTake; rfl]
  extract_lets +onlyGivenNames -underBinder -merge x1
  try clear_value x1
  extract_lets +onlyGivenNames -underBinder -merge x2
  try clear_value x2
  extract_lets +onlyGivenNames -underBinder -merge x3
  try clear_value x3
  extract_lets +onlyGivenNames -underBinder -merge x4
  try clear_value x4
  extract_lets +onlyGivenNames -underBinder -merge x5
  have h5 : Keeps s0 x5 := by
    subst x5
    refine keeps_setLink ?_
    assumption
  try clear_value x5
  extract_lets +onlyGivenNames -underBinder -merge x6
  have h6 : Keeps s0 x6 := by
    subst x6
    split
    · refine keeps_uplinkGood ?_
      assumption
    · refine keeps_incSat ?_
      assumption
  try clear_value x6
  refine keeps_ite ?_ ?_
  · refine keeps_linkLost ?_
    assumption
  · assumption

theorem keeps_execUplinkFrame {s0 : State} {k : TileNo} {other : Bool} {f : BitVec 80} {s : State} (hK : Keeps s0 s) :
    Goes s0 (execUplinkFrame k other f s) := by
  rw [show @execUplinkFrame = _ from by delta execUplinkFrame; rfl]
  refine goes_ite ?_ ?_
  · refine goes_next ?_
    assumption
  · split
    · rename_i heq
      have h1 := keeps_of_eqP (s0 := s0) heq (by
        refine keeps_upRx ?_
        assumption)
      refine goes_next ?_
      refine keeps_uplinkTake ?_
      assumption

theorem keeps_tileOn {s0 : State} {s : State} {k w at_ : Nat} {edge : Bool} (hK : Keeps s0 s) :
    Keeps s0 (State.tileOn s k w at_ edge) := by
  rw [show @State.tileOn = _ from by delta State.tileOn; rfl]
  extract_lets +onlyGivenNames -underBinder -merge x1
  try clear_value x1
  refine keeps_ite ?_ ?_
  · assumption
  · extract_lets +onlyGivenNames -underBinder -merge x2
    try clear_value x2
    extract_lets +onlyGivenNames -underBinder -merge x3
    try clear_value x3
    extract_lets +onlyGivenNames -underBinder -merge x4
    try clear_value x4
    extract_lets +onlyGivenNames -underBinder -merge x5
    try clear_value x5
    refine keeps_ite ?_ ?_
    · refine keeps_setTile ?_
      assumption
    · refine keeps_setTile ?_
      assumption

theorem keeps_tileEv {s0 : State} {s : State} {k : Nat} {e : EvKind} {at_ : Nat} (hK : Keeps s0 s) :
    Keeps s0 (State.tileEv s k e at_) := by
  rw [show @State.tileEv = _ from by delta State.tileEv; rfl]
  split
  · refine keeps_setTile ?_
    assumption
  · refine keeps_setTile ?_
    assumption
  · refine keeps_tileOn ?_
    assumption

theorem keeps_tileDue {s0 : State} {s : State} {k t : Nat} (hK : Keeps s0 s) :
    Keeps s0 (State.tileDue s k t) := by
  rw [show @State.tileDue = _ from by delta State.tileDue; rfl]
  extract_lets +onlyGivenNames -underBinder -merge x1
  try clear_value x1
  extract_lets +onlyGivenNames -underBinder -merge x2
  have h2 : Keeps s0 x2 := by
    subst x2
    refine keeps_setTile ?_
    assumption
  try clear_value x2
  refine keeps_loopL (fun a3_0 y3 h3 => ?_) ?_
  · refine keeps_tileEv ?_
    assumption
  · assumption

theorem keeps_tileMop {s0 : State} {s : State} {k mop md : Nat} (hK : Keeps s0 s) :
    Keeps s0 (State.tileMop s k mop md) := by
  rw [show @State.tileMop = _ from by delta State.tileMop; rfl]
  extract_lets +onlyGivenNames -underBinder -merge x1
  try clear_value x1
  split
  · refine keeps_setTile ?_
    assumption
  · refine keeps_setTile ?_
    assumption
  · extract_lets +onlyGivenNames -underBinder -merge x2
    try clear_value x2
    refine keeps_setTile ?_
    assumption
  · assumption

theorem keeps_tileSnap {s0 : State} {s : State} {k w P : Nat} (hK : Keeps s0 s) :
    Keeps s0 (State.tileSnap s k w P) := by
  rw [show @State.tileSnap = _ from by delta State.tileSnap; rfl]
  extract_lets +onlyGivenNames -underBinder -merge x1
  try clear_value x1
  extract_lets +onlyGivenNames -underBinder -merge x2
  try clear_value x2
  extract_lets +onlyGivenNames -underBinder -merge x3
  have h3 : Keeps s0 x3 := by
    subst x3
    refine keeps_setTile ?_
    assumption
  try clear_value x3
  extract_lets +onlyGivenNames -underBinder -merge x4
  have h4 : Keeps s0 x4 := by
    subst x4
    refine keeps_loopN (fun a5_0 y5 h5 => ?_) ?_
    · refine keeps_ite ?_ ?_
      · refine keeps_tileOn ?_
        assumption
      · assumption
    · assumption
  try clear_value x4
  extract_lets +onlyGivenNames -underBinder -merge x6
  try clear_value x6
  refine keeps_setTile ?_
  assumption

theorem keeps_tileGood {s0 : State} {s : State} {k w n : Nat} {state : Bool} {anchor : Nat} {t : TileRec} (hK : Keeps s0 s) :
    Keeps s0 (State.tileGood s k w n state anchor t) := by
  rw [show @State.tileGood = _ from by delta State.tileGood; rfl]
  extract_lets +onlyGivenNames -underBinder -merge x1
  subst x1
  try dsimp -zeta -proj only
  extract_lets +onlyGivenNames -underBinder -merge x2
  try clear_value x2
  extract_lets +onlyGivenNames -underBinder -merge x3
  try clear_value x3
  extract_lets +onlyGivenNames -underBinder -merge x4
  try clear_value x4
  extract_lets +onlyGivenNames -underBinder -merge x5
  try clear_value x5
  extract_lets +onlyGivenNames -underBinder -merge x6
  try clear_value x6
  extract_lets +onlyGivenNames -underBinder -merge x7
  have h7 : Keeps s0 x7 := by
    subst x7
    refine keeps_setTile ?_
    assumption
  try clear_value x7
  extract_lets +onlyGivenNames -underBinder -merge x8
  have h8 : Keeps s0 x8 := by
    subst x8
    refine keeps_tileDue ?_
    assumption
  try clear_value x8
  extract_lets +onlyGivenNames -underBinder -merge x9
  have h9 : Keeps s0 x9 := by
    subst x9
    refine keeps_loopL (fun a10_0 y10 h10 => ?_) ?_
    · refine keeps_tileEv ?_
      assumption
    · assumption
  try clear_value x9
  refine keeps_ite ?_ ?_
  · refine keeps_tileMop ?_
    refine keeps_tileSnap ?_
    assumption
  · assumption

theorem keeps_tilePut {s0 : State} {s : State} {k : Nat} {l : List (Bool × Byte)} (hK : Keeps s0 s) :
    Keeps s0 (State.tilePut s k l) := by
  rw [show @State.tilePut = _ from by delta State.tilePut; rfl]
  extract_lets +onlyGivenNames -underBinder -merge x1
  try clear_value x1
  split
  · refine keeps_setTile ?_
    assumption

theorem keeps_tileUplink {s0 : State} {s : State} {k anchor : Nat} (hK : Keeps s0 s) :
    Keeps s0 (State.tileUplink s k anchor) := by
  rw [show @State.tileUplink = _ from by delta State.tileUplink; rfl]
  extract_lets +onlyGivenNames -underBinder -merge x1
  have h1 : Keeps s0 x1 := by
    subst x1
    refine keeps_tileDue ?_
    refine keeps_advanceTb ?_
    assumption
  try clear_value x1
  split
  · rename_i heq
    have h2 := keeps_of_eqP (s0 := s0) heq (by
      refine keeps_free ?_
      assumption)
    split
    · rename_i heq
      have h3 := keeps_of_eqP (s0 := s0) heq (by
        refine keeps_free ?_
        assumption)
      split
      · rename_i heq
        have h4 := keeps_of_eqP (s0 := s0) heq (by
          refine keeps_free ?_
          assumption)
        extract_lets +onlyGivenNames -underBinder -merge x5
        try clear_value x5
        extract_lets +onlyGivenNames -underBinder -merge x6
        try clear_value x6
        refine keeps_tilePut ?_
        refine keeps_setTile ?_
        assumption

theorem keeps_tileTrain {s0 : State} {s : State} {k tt b1 : Nat} {b : List Byte} (hK : Keeps s0 s) :
    Keeps s0 (State.tileTrain s k tt b1 b) := by
  rw [show @State.tileTrain = _ from by delta State.tileTrain; rfl]
  extract_lets +onlyGivenNames -underBinder -merge x1
  try clear_value x1
  refine keeps_ite ?_ ?_
  · refine keeps_tilePut ?_
    refine keeps_setTile ?_
    assumption
  · refine keeps_ite ?_ ?_
    · refine keeps_setTile ?_
      assumption
    · refine keeps_ite ?_ ?_
      · assumption
      · split
        · refine keeps_tilePut ?_
          refine keeps_setTile ?_
          assumption
        · refine keeps_tilePut ?_
          assumption
        · refine keeps_tilePut ?_
          refine keeps_setTile ?_
          assumption
        · refine keeps_ite ?_ ?_
          · assumption
          · refine keeps_setTile ?_
            assumption
        · assumption

theorem keeps_downRx {s0 : State} {s : State} {k : Nat} {rx : Option (BitVec 80)} (hK : Keeps s0 s) :
    Keeps s0 (State.downRx s k rx).2 := by
  rw [show @State.downRx = _ from by delta State.downRx; rfl]
  extract_lets +onlyGivenNames -underBinder -merge x1
  try clear_value x1
  split
  · refine keeps_snd ?_
    refine keeps_setTile ?_
    assumption

theorem keeps_tileRun {s0 : State} {s : State} {k : Nat} {f : RxFrame} (hK : Keeps s0 s) :
    Keeps s0 (State.tileRun s k f) := by
  rw [show @State.tileRun = _ from by delta State.tileRun; rfl]
  extract_lets +onlyGivenNames -underBinder -merge x1
  try clear_value x1
  extract_lets +onlyGivenNames -underBinder -merge x2
  try clear_value x2
  extract_lets +onlyGivenNames -underBinder -merge x3
  try clear_value x3
  extract_lets +onlyGivenNames -underBinder -merge x4
  have h4 : Keeps s0 x4 := by
    subst x4
    refine keeps_advanceTb ?_
    assumption
  try clear_value x4
  extract_lets +onlyGivenNames -underBinder -merge x5
  try clear_value x5
  extract_lets +onlyGivenNames -underBinder -merge x6
  subst x6
  try dsimp -zeta -proj only
  extract_lets +onlyGivenNames -underBinder -merge x7
  have h7 : Keeps s0 x7 := by
    subst x7
    split
    · refine keeps_ite ?_ ?_
      · refine keeps_setTile ?_
        assumption
      · refine keeps_tileGood ?_
        assumption
    · refine keeps_ite ?_ ?_
      · refine keeps_setTile ?_
        assumption
      · refine keeps_setTile ?_
        assumption
    · refine keeps_setTile ?_
      assumption
  try clear_value x7
  refine keeps_ite ?_ ?_
  · assumption
  · refine keeps_tileUplink ?_
    assumption

theorem keeps_execTileFrameReceive {s0 : State} {k : TileNo} {err other : Bool} {f : BitVec 80} {s : State} (hK : Keeps s0 s) :
    Goes s0 (execTileFrameReceive k err other f s) := by
  rw [show @execTileFrameReceive = _ from by delta execTileFrameReceive; rfl]
  extract_lets +onlyGivenNames -underBinder -merge x1
  try clear_value x1
  split
  · rename_i heq
    have h2 := keeps_of_eqP (s0 := s0) heq (by
      refine keeps_downRx ?_
      assumption)
    refine goes_ite ?_ ?_
    · split
      · refine goes_next ?_
        refine keeps_tileTrain ?_
        assumption
      · refine goes_next ?_
        assumption
    · refine goes_next ?_
      refine keeps_tileRun ?_
      assumption

theorem keeps_execTileEventApply {s0 : State} {k : TileNo} {s : State} (hK : Keeps s0 s) :
    Goes s0 (execTileEventApply k s) := by
  rw [show @execTileEventApply = _ from by delta execTileEventApply; rfl]
  extract_lets +onlyGivenNames -underBinder -merge x1
  try clear_value x1
  split
  · refine goes_next ?_
    assumption
  · extract_lets +onlyGivenNames -underBinder -merge x2
    try clear_value x2
    refine goes_next ?_
    refine keeps_tileDue ?_
    refine keeps_advanceTb ?_
    assumption

theorem keeps_execTileStoInput {s0 : State} {k : TileNo} {b off : Bool} {s : State} (hK : Keeps s0 s) :
    Goes s0 (execTileStoInput k b off s) := by
  rw [show @execTileStoInput = _ from by delta execTileStoInput; rfl]
  extract_lets +onlyGivenNames -underBinder -merge x1
  try clear_value x1
  extract_lets +onlyGivenNames -underBinder -merge x2
  try clear_value x2
  refine goes_ite ?_ ?_
  · refine goes_next ?_
    refine keeps_setTile ?_
    assumption
  · refine goes_ite ?_ ?_
    · refine goes_next ?_
      refine keeps_setTile ?_
      assumption
    · refine goes_next ?_
      assumption

theorem keeps_tileLatch {s0 : State} {s : State} {k w cause : Nat} {stands : Bool} (hK : Keeps s0 s) :
    Keeps s0 (State.tileLatch s k w cause stands) := by
  rw [show @State.tileLatch = _ from by delta State.tileLatch; rfl]
  extract_lets +onlyGivenNames -underBinder -merge x1
  try clear_value x1
  refine keeps_setTile ?_
  assumption

theorem keeps_tileCauseGone {s0 : State} {s : State} {k w cause : Nat} (hK : Keeps s0 s) :
    Keeps s0 (State.tileCauseGone s k w cause) := by
  rw [show @State.tileCauseGone = _ from by delta State.tileCauseGone; rfl]
  extract_lets +onlyGivenNames -underBinder -merge x1
  try clear_value x1
  refine keeps_setTile ?_
  assumption

theorem keeps_execTileUvlo {s0 : State} {k : TileNo} {high : Option (Fin 4)} {below : Bool} {s : State} (hK : Keeps s0 s) :
    Goes s0 (execTileUvlo k high below s) := by
  rw [show @execTileUvlo = _ from by delta execTileUvlo; rfl]
  extract_lets +onlyGivenNames -underBinder -merge x1
  try clear_value x1
  extract_lets +onlyGivenNames -underBinder -merge x2
  try clear_value x2
  extract_lets +onlyGivenNames -underBinder -merge x3
  try clear_value x3
  refine goes_next ?_
  refine keeps_loopL (fun a4_0 y4 h4 => ?_) ?_
  · extract_lets +onlyGivenNames -underBinder -merge x5
    have h5 : Keeps s0 x5 := by
      subst x5
      refine keeps_ite ?_ ?_
      · refine keeps_tileLatch ?_
        assumption
      · refine keeps_tileCauseGone ?_
        assumption
    try clear_value x5
    refine keeps_setTile ?_
    assumption
  · assumption

theorem keeps_execTileDidtTrip {s0 : State} {k : TileNo} {w : Fin 8} {s : State} (hK : Keeps s0 s) :
    Goes s0 (execTileDidtTrip k w s) := by
  rw [show @execTileDidtTrip = _ from by delta execTileDidtTrip; rfl]
  extract_lets +onlyGivenNames -underBinder -merge x1
  have h1 : Keeps s0 x1 := by
    subst x1
    refine keeps_tileLatch ?_
    assumption
  try clear_value x1
  refine goes_next ?_
  refine keeps_setTile ?_
  assumption

theorem keeps_execTileOvertempShutdown {s0 : State} {k : TileNo} {w : Fin 8} {driver isOver : Bool} {s : State} (hK : Keeps s0 s) :
    Goes s0 (execTileOvertempShutdown k w driver isOver s) := by
  rw [show @execTileOvertempShutdown = _ from by delta execTileOvertempShutdown; rfl]
  extract_lets +onlyGivenNames -underBinder -merge x1
  try clear_value x1
  refine goes_next ?_
  refine keeps_ite ?_ ?_
  · refine keeps_tileLatch ?_
    assumption
  · refine keeps_tileCauseGone ?_
    assumption

theorem keeps_execTilePowerUp {s0 : State} {k : TileNo} {s : State} (hK : Keeps s0 s) :
    Goes s0 (execTilePowerUp k s) := by
  rw [show @execTilePowerUp = _ from by delta execTilePowerUp; rfl]
  extract_lets +onlyGivenNames -underBinder -merge x1
  try clear_value x1
  refine goes_next ?_
  refine keeps_setTile ?_
  assumption

theorem keeps_execTileInterlockRelease {s0 : State} {k : TileNo} {w : Fin 8} {s : State} (hK : Keeps s0 s) :
    Goes s0 (execTileInterlockRelease k w s) := by
  rw [show @execTileInterlockRelease = _ from by delta execTileInterlockRelease; rfl]
  extract_lets +onlyGivenNames -underBinder -merge x1
  try clear_value x1
  extract_lets +onlyGivenNames -underBinder -merge x2
  try clear_value x2
  refine goes_ite ?_ ?_
  · extract_lets +onlyGivenNames -underBinder -merge x3
    have h3 : Keeps s0 x3 := by
      subst x3
      refine keeps_advanceTb ?_
      assumption
    try clear_value x3
    refine goes_next ?_
    refine keeps_setTile ?_
    assumption
  · refine goes_next ?_
    assumption

theorem keeps_stopPort {s0 : State} {s : State} {k : Nat} (hK : Keeps s0 s) :
    Keeps s0 (State.stopPort s k) := by
  rw [show @State.stopPort = _ from by delta State.stopPort; rfl]
  extract_lets +onlyGivenNames -underBinder -merge x1
  try clear_value x1
  refine keeps_ite ?_ ?_
  · extract_lets +onlyGivenNames -underBinder -merge x2
    have h2 : Keeps s0 x2 := by
      subst x2
      refine keeps_diagAbort ?_
      assumption
    try clear_value x2
    extract_lets +onlyGivenNames -underBinder -merge x3
    have h3 : Keeps s0 x3 := by
      subst x3
      refine keeps_loopN (fun a4_0 y4 h4 => ?_) ?_
      · refine keeps_legOff ?_
        assumption
      · assumption
    try clear_value x3
    extract_lets +onlyGivenNames -underBinder -merge x5
    try clear_value x5
    extract_lets +onlyGivenNames -underBinder -merge x6
    have h6 : Keeps s0 x6 := by
      subst x6
      refine keeps_setQueue ?_
      assumption
    try clear_value x6
    extract_lets +onlyGivenNames -underBinder -merge x7
    try clear_value x7
    extract_lets +onlyGivenNames -underBinder -merge x8
    have h8 : Keeps s0 x8 := by
      subst x8
      refine keeps_putB ?_
      refine keeps_setLink ?_
      assumption
    try clear_value x8
    extract_lets +onlyGivenNames -underBinder -merge x9
    have h9 : Keeps s0 x9 := by
      subst x9
      refine keeps_loopN (fun a10_0 y10 h10 => ?_) ?_
      · refine keeps_putB ?_
        assumption
      · assumption
    try clear_value x9
    refine keeps_stage ?_
    assumption
  · refine keeps_ite ?_ ?_
    · assumption
    · refine keeps_linkDown ?_
      assumption

theorem keeps_yilosEn {s0 : State} {s : State} {k : Nat} {en : Bool} (hK : Keeps s0 s) :
    Keeps s0 (State.yilosEn s k en) := by
  rw [show @State.yilosEn = _ from by delta State.yilosEn; rfl]
  extract_lets +onlyGivenNames -underBinder -merge x1
  have h1 : Keeps s0 x1 := by
    subst x1
    refine keeps_putB ?_
    assumption
  try clear_value x1
  refine keeps_ite ?_ ?_
  · refine keeps_ite ?_ ?_
    · refine keeps_startTraining ?_
      assumption
    · assumption
  · refine keeps_stopPort ?_
    assumption

theorem keeps_execYilosEn {s0 : State} {k : TileNo} {en : Bool} {s : State} (hK : Keeps s0 s) :
    Goes s0 (execYilosEn k en s) := by
  rw [show @execYilosEn = _ from by delta execYilosEn; rfl]
  refine goes_onReg (fun y1 h1 => ?_) ?_
  · refine goes_next ?_
    refine keeps_yilosEn ?_
    assumption
  · assumption

theorem keeps_yilosRetrain {s0 : State} {s : State} {k : Nat} (hK : Keeps s0 s) :
    Keeps s0 (State.yilosRetrain s k) := by
  rw [show @State.yilosRetrain = _ from by delta State.yilosRetrain; rfl]
  extract_lets +onlyGivenNames -underBinder -merge x1
  try clear_value x1
  refine keeps_ite ?_ ?_
  · refine keeps_startTraining ?_
    assumption
  · assumption

theorem keeps_execYilosRetrain {s0 : State} {k : TileNo} {s : State} (hK : Keeps s0 s) :
    Goes s0 (execYilosRetrain k s) := by
  rw [show @execYilosRetrain = _ from by delta execYilosRetrain; rfl]
  refine goes_onReg (fun y1 h1 => ?_) ?_
  · refine goes_next ?_
    refine keeps_yilosRetrain ?_
    assumption
  · assumption

theorem keeps_takeCap {s0 : State} {s : State} {k : Nat} {b : List Byte} (hK : Keeps s0 s) :
    Keeps s0 (State.takeCap s k b) := by
  rw [show @State.takeCap = _ from by delta State.takeCap; rfl]
  extract_lets +onlyGivenNames -underBinder -merge x1
  have h1 : Keeps s0 x1 := by
    subst x1
    refine keeps_loopN (fun a2_0 y2 h2 => ?_) ?_
    · refine keeps_wr ?_
      assumption
    · assumption
  try clear_value x1
  extract_lets +onlyGivenNames -underBinder -merge x3
  have h3 : Keeps s0 x3 := by
    subst x3
    refine keeps_loopN (fun a4_0 y4 h4 => ?_) ?_
    · refine keeps_put ?_
      assumption
    · assumption
  try clear_value x3
  refine keeps_setLink ?_
  assumption

theorem keeps_trainFail {s0 : State} {s : State} {k code : Nat} (hK : Keeps s0 s) :
    Keeps s0 (State.trainFail s k code) := by
  rw [show @State.trainFail = _ from by delta State.trainFail; rfl]
  refine keeps_fault ?_
  refine keeps_linkDown ?_
  assumption

theorem keeps_takeSync {s0 : State} {s : State} {k : Nat} {ok : Bool} (hK : Keeps s0 s) :
    Keeps s0 (State.takeSync s k ok) := by
  rw [show @State.takeSync = _ from by delta State.takeSync; rfl]
  extract_lets +onlyGivenNames -underBinder -merge x1
  try clear_value x1
  refine keeps_ite ?_ ?_
  · refine keeps_setLink ?_
    assumption
  · refine keeps_ite ?_ ?_
    · refine keeps_stage ?_
      refine keeps_setLink ?_
      assumption
    · refine keeps_setLink ?_
      assumption

theorem keeps_takeCapFrame {s0 : State} {s : State} {k ofs : Nat} {d : List Byte} (hK : Keeps s0 s) :
    Keeps s0 (State.takeCapFrame s k ofs d) := by
  rw [show @State.takeCapFrame = _ from by delta State.takeCapFrame; rfl]
  extract_lets +onlyGivenNames -underBinder -merge x1
  try clear_value x1
  extract_lets +onlyGivenNames -underBinder -merge x2
  try clear_value x2
  extract_lets +onlyGivenNames -underBinder -merge x3
  try clear_value x3
  extract_lets +onlyGivenNames -underBinder -merge x4
  try clear_value x4
  refine keeps_ite ?_ ?_
  · refine keeps_setLink ?_
    assumption
  · refine keeps_ite ?_ ?_
    · refine keeps_ite ?_ ?_
      · refine keeps_trainFail ?_
        assumption
      · refine keeps_stage ?_
        refine keeps_setLink ?_
        refine keeps_takeCap ?_
        assumption
    · refine keeps_setLink ?_
      assumption

theorem keeps_takeDelay {s0 : State} {s : State} {k rt : Nat} (hK : Keeps s0 s) :
    Keeps s0 (State.takeDelay s k rt) := by
  rw [show @State.takeDelay = _ from by delta State.takeDelay; rfl]
  extract_lets +onlyGivenNames -underBinder -merge x1
  try clear_value x1
  extract_lets +onlyGivenNames -underBinder -merge x2
  try clear_value x2
  refine keeps_ite ?_ ?_
  · refine keeps_setLink ?_
    assumption
  · extract_lets +onlyGivenNames -underBinder -merge x3
    try clear_value x3
    extract_lets +onlyGivenNames -underBinder -merge x4
    try clear_value x4
    extract_lets +onlyGivenNames -underBinder -merge x5
    try clear_value x5
    refine keeps_ite ?_ ?_
    · refine keeps_trainFail ?_
      assumption
    · extract_lets +onlyGivenNames -underBinder -merge x6
      have h6 : Keeps s0 x6 := by
        subst x6
        refine keeps_put ?_
        refine keeps_put ?_
        assumption
      try clear_value x6
      extract_lets +onlyGivenNames -underBinder -merge x7
      have h7 : Keeps s0 x7 := by
        subst x7
        refine keeps_setLink ?_
        assumption
      try clear_value x7
      refine keeps_ite ?_ ?_
      · refine keeps_trainFail ?_
        assumption
      · refine keeps_stage ?_
        assumption

theorem keeps_trainingFrame {s0 : State} {s : State} {k : Nat} {f : RxFrame} {rt : Nat} (hK : Keeps s0 s) :
    Keeps s0 (State.trainingFrame s k f rt) := by
  rw [show @State.trainingFrame = _ from by delta State.trainingFrame; rfl]
  extract_lets +onlyGivenNames -underBinder -merge x1
  try clear_value x1
  extract_lets +onlyGivenNames -underBinder -merge x2
  try clear_value x2
  split
  · extract_lets +onlyGivenNames -underBinder -merge x3
    try clear_value x3
    refine keeps_ite ?_ ?_
    · refine keeps_takeSync ?_
      assumption
    · refine keeps_ite ?_ ?_
      · refine keeps_takeCapFrame ?_
        assumption
      · refine keeps_ite ?_ ?_
        · refine keeps_takeDelay ?_
          assumption
        · refine keeps_ite ?_ ?_
          · refine keeps_setLink ?_
            refine keeps_put ?_
            assumption
          · assumption
  · refine keeps_ite ?_ ?_
    · refine keeps_takeSync ?_
      assumption
    · assumption

theorem keeps_execTrainingFrame {s0 : State} {k : TileNo} {err other : Bool} {f : BitVec 80} {sent came : Nat} {s : State} (hK : Keeps s0 s) :
    Goes s0 (execTrainingFrame k err other f sent came s) := by
  rw [show @execTrainingFrame = _ from by delta execTrainingFrame; rfl]
  extract_lets +onlyGivenNames -underBinder -merge x1
  try clear_value x1
  refine goes_ite ?_ ?_
  · split
    · rename_i heq
      have h2 := keeps_of_eqP (s0 := s0) heq (by
        refine keeps_upRx ?_
        assumption)
      refine goes_next ?_
      refine keeps_trainingFrame ?_
      assumption
  · refine goes_next ?_
    assumption

theorem keeps_execTrainingTimeout {s0 : State} {k : TileNo} {s : State} (hK : Keeps s0 s) :
    Goes s0 (execTrainingTimeout k s) := by
  rw [show @execTrainingTimeout = _ from by delta execTrainingTimeout; rfl]
  split
  · refine goes_next ?_
    refine keeps_trainFail ?_
    refine keeps_advanceTb ?_
    assumption
  · refine goes_next ?_
    assumption

theorem keeps_tilePreload {s0 : State} {s : State} {k : Nat} (hK : Keeps s0 s) :
    Keeps s0 (State.tilePreload s k) := by
  rw [show @State.tilePreload = _ from by delta State.tilePreload; rfl]
  split
  · assumption
  · extract_lets +onlyGivenNames -underBinder -merge x1
    try clear_value x1
    extract_lets +onlyGivenNames -underBinder -merge x2
    try clear_value x2
    refine keeps_showMops ?_
    refine keeps_setLink ?_
    assumption

theorem keeps_execLinkUp {s0 : State} {k : TileNo} {s : State} (hK : Keeps s0 s) :
    Goes s0 (execLinkUp k s) := by
  rw [show @execLinkUp = _ from by delta execLinkUp; rfl]
  refine goes_ite ?_ ?_
  · extract_lets +onlyGivenNames -underBinder -merge x1
    try clear_value x1
    extract_lets +onlyGivenNames -underBinder -merge x2
    try clear_value x2
    extract_lets +onlyGivenNames -underBinder -merge x3
    try clear_value x3
    extract_lets +onlyGivenNames -underBinder -merge x4
    try clear_value x4
    extract_lets +onlyGivenNames -underBinder -merge x5
    have h5 : Keeps s0 x5 := by
      subst x5
      refine keeps_put ?_
      refine keeps_linkDown ?_
      assumption
    try clear_value x5
    extract_lets +onlyGivenNames -underBinder -merge x6
    try clear_value x6
    extract_lets +onlyGivenNames -underBinder -merge x7
    have h7 : Keeps s0 x7 := by
      subst x7
      refine keeps_setLink ?_
      assumption
    try clear_value x7
    extract_lets +onlyGivenNames -underBinder -merge x8
    have h8 : Keeps s0 x8 := by
      subst x8
      refine keeps_wr ?_
      assumption
    try clear_value x8
    refine goes_next ?_
    refine keeps_raise ?_
    refine keeps_tilePreload ?_
    assumption
  · refine goes_next ?_
    assumption

theorem keeps_execParkComplete {s0 : State} {k : TileNo} {s : State} (hK : Keeps s0 s) :
    Goes s0 (execParkComplete k s) := by
  rw [show @execParkComplete = _ from by delta execParkComplete; rfl]
  refine goes_ite ?_ ?_
  · extract_lets +onlyGivenNames -underBinder -merge x1
    have h1 : Keeps s0 x1 := by
      subst x1
      refine keeps_linkDown ?_
      assumption
    try clear_value x1
    refine goes_next ?_
    refine keeps_ite ?_ ?_
    · refine keeps_startTraining ?_
      assumption
    · assumption
  · refine goes_next ?_
    assumption

theorem keeps_yilosClr {s0 : State} {s : State} {k : Nat} (hK : Keeps s0 s) :
    Keeps s0 (State.yilosClr s k) := by
  rw [show @State.yilosClr = _ from by delta State.yilosClr; rfl]
  extract_lets +onlyGivenNames -underBinder -merge x1
  have h1 : Keeps s0 x1 := by
    subst x1
    refine keeps_loopN (fun a2_0 y2 h2 => ?_) ?_
    · refine keeps_wr ?_
      assumption
    · assumption
  try clear_value x1
  refine keeps_put ?_
  assumption

theorem keeps_execYilosClr {s0 : State} {k : TileNo} {s : State} (hK : Keeps s0 s) :
    Goes s0 (execYilosClr k s) := by
  rw [show @execYilosClr = _ from by delta execYilosClr; rfl]
  refine goes_onReg (fun y1 h1 => ?_) ?_
  · refine goes_next ?_
    refine keeps_yilosClr ?_
    assumption
  · assumption

theorem keeps_yilosMwr {s0 : State} {s : State} {k : Nat} {rd : Bool} {addr data : Nat} (hK : Keeps s0 s) :
    Keeps s0 (State.yilosMwr s k rd addr data) := by
  rw [show @State.yilosMwr = _ from by delta State.yilosMwr; rfl]
  extract_lets +onlyGivenNames -underBinder -merge x1
  try clear_value x1
  refine keeps_ite ?_ ?_
  · refine keeps_raise ?_
    assumption
  · extract_lets +onlyGivenNames -underBinder -merge x2
    have h2 : Keeps s0 x2 := by
      subst x2
      refine keeps_setLink ?_
      assumption
    try clear_value x2
    extract_lets +onlyGivenNames -underBinder -merge x3
    have h3 : Keeps s0 x3 := by
      subst x3
      refine keeps_ite ?_ ?_
      · refine keeps_putB ?_
        assumption
      · assumption
    try clear_value x3
    refine keeps_showMops ?_
    assumption

theorem keeps_execYilosMwr {s0 : State} {k : TileNo} {rd : Bool} {addr data : Byte} {s : State} (hK : Keeps s0 s) :
    Goes s0 (execYilosMwr k rd addr data s) := by
  rw [show @execYilosMwr = _ from by delta execYilosMwr; rfl]
  refine goes_onReg (fun y1 h1 => ?_) ?_
  · refine goes_next ?_
    refine keeps_yilosMwr ?_
    assumption
  · assumption

end Sys2Proof.Machine
end

