-- ==== Sys2Proof/Laws/KeepsSinc.lean ====
section
/-! SUPPORT. Laws/KeepsSinc.lean: what the operations of Machine/Sinc.lean keep. -/
namespace Sys2Proof.Machine

theorem keeps_resultAt {s0 : State} {s : State} {l d : Nat} (hK : Keeps s0 s) :
    Keeps s0 (State.resultAt s l d) := by
  rw [show @State.resultAt = _ from by delta State.resultAt; rfl]
  refine keeps_advanceTb ?_
  assumption

theorem keeps_storeCtl {s0 : State} {s : State} {x : Nat} {r : SincRes} (hK : Keeps s0 s) :
    Keeps s0 (State.storeCtl s x r) := by
  rw [show @State.storeCtl = _ from by delta State.storeCtl; rfl]
  extract_lets +onlyGivenNames -underBinder -merge x1
  try clear_value x1
  extract_lets +onlyGivenNames -underBinder -merge x2
  try clear_value x2
  extract_lets +onlyGivenNames -underBinder -merge x3
  have h3 : Keeps s0 x3 := by
    subst x3
    refine keeps_setSinc ?_
    assumption
  try clear_value x3
  refine keeps_ite ?_ ?_
  · assumption
  · extract_lets +onlyGivenNames -underBinder -merge x4
    try clear_value x4
    extract_lets +onlyGivenNames -underBinder -merge x5
    have h5 : Keeps s0 x5 := by
      subst x5
      refine keeps_putB ?_
      refine keeps_putB ?_
      assumption
    try clear_value x5
    refine keeps_putI ?_
    assumption

theorem keeps_execSincSampleEntry {s0 : State} {k : TileNo} {s : State} (hK : Keeps s0 s) :
    Goes s0 (execSincSampleEntry k s) := by
  rw [show @execSincSampleEntry = _ from by delta execSincSampleEntry; rfl]
  refine goes_ite ?_ ?_
  · refine goes_next ?_
    assumption
  · extract_lets +onlyGivenNames -underBinder -merge x1
    try clear_value x1
    extract_lets +onlyGivenNames -underBinder -merge x2
    try clear_value x2
    refine goes_ite ?_ ?_
    · refine goes_next ?_
      assumption
    · extract_lets +onlyGivenNames -underBinder -merge x3
      try clear_value x3
      extract_lets +onlyGivenNames -underBinder -merge x4
      subst x4
      try dsimp -zeta -proj only
      refine goes_ite ?_ ?_
      · refine goes_next ?_
        assumption
      · refine goes_next ?_
        refine keeps_loopL (fun a5_0 y5 h5 => ?_) ?_
        · refine keeps_setSinc ?_
          assumption
        · refine keeps_advanceTb ?_
          assumption

theorem keeps_formCtl {s0 : State} {s : State} {x l d : Nat} (hK : Keeps s0 s) :
    Keeps s0 (State.formCtl s x l d) := by
  rw [show @State.formCtl = _ from by delta State.formCtl; rfl]
  extract_lets +onlyGivenNames -underBinder -merge x1
  try clear_value x1
  refine keeps_ite ?_ ?_
  · assumption
  · extract_lets +onlyGivenNames -underBinder -merge x2
    have h2 : Keeps s0 x2 := by
      subst x2
      refine keeps_resultAt ?_
      refine keeps_setSinc ?_
      assumption
    try clear_value x2
    extract_lets +onlyGivenNames -underBinder -merge x3
    try clear_value x3
    extract_lets +onlyGivenNames -underBinder -merge x4
    have h4 : Keeps s0 x4 := by
      subst x4
      refine keeps_ite ?_ ?_
      · refine keeps_incSat ?_
        assumption
      · assumption
    try clear_value x4
    refine keeps_storeCtl ?_
    assumption

theorem keeps_execControlResult {s0 : State} {x : StreamNo} {d : Nat} {s : State} (hK : Keeps s0 s) :
    Goes s0 (execControlResult x d s) := by
  rw [show @execControlResult = _ from by delta execControlResult; rfl]
  extract_lets +onlyGivenNames -underBinder -merge x1
  try clear_value x1
  extract_lets +onlyGivenNames -underBinder -merge x2
  try clear_value x2
  refine goes_ite ?_ ?_
  · split
    · refine goes_next ?_
      assumption
    · refine goes_ite ?_ ?_
      · refine goes_next ?_
        refine keeps_formCtl ?_
        assumption
      · refine goes_next ?_
        refine keeps_formCtl ?_
        assumption
  · refine goes_next ?_
    refine keeps_formCtl ?_
    assumption

theorem keeps_overcurrent {s0 : State} {s : State} {n x : Nat} {i : Int} (hK : Keeps s0 s) :
    Keeps s0 (State.overcurrent s n x i) := by
  rw [show @State.overcurrent = _ from by delta State.overcurrent; rfl]
  extract_lets +onlyGivenNames -underBinder -merge x1
  try clear_value x1
  extract_lets +onlyGivenNames -underBinder -merge x2
  try clear_value x2
  extract_lets +onlyGivenNames -underBinder -merge x3
  try clear_value x3
  extract_lets +onlyGivenNames -underBinder -merge x4
  try clear_value x4
  extract_lets +onlyGivenNames -underBinder -merge x5
  try clear_value x5
  extract_lets +onlyGivenNames -underBinder -merge x6
  try clear_value x6
  extract_lets +onlyGivenNames -underBinder -merge x7
  have h7 : Keeps s0 x7 := by
    subst x7
    refine keeps_setSinc ?_
    assumption
  try clear_value x7
  refine keeps_ite ?_ ?_
  · refine keeps_faultStop ?_
    refine keeps_fault ?_
    assumption
  · assumption

theorem keeps_chopFast {s0 : State} {s : State} {n : Nat} {b : Bool} {i : Int} (hK : Keeps s0 s) :
    Keeps s0 (State.chopFast s n b i) := by
  rw [show @State.chopFast = _ from by delta State.chopFast; rfl]
  extract_lets +onlyGivenNames -underBinder -merge x1
  try clear_value x1
  extract_lets +onlyGivenNames -underBinder -merge x2
  try clear_value x2
  split
  · refine keeps_ite ?_ ?_
    · refine keeps_chopApply ?_
      refine keeps_setChop ?_
      assumption
    · refine keeps_ite ?_ ?_
      · refine keeps_chopSlow ?_
        refine keeps_setChop ?_
        assumption
      · assumption
  · refine keeps_ite ?_ ?_
    · refine keeps_chopSlow ?_
      assumption
    · assumption
  · assumption

theorem keeps_dumpSwitch {s0 : State} {s : State} {n : Nat} {v : Int} (hK : Keeps s0 s) :
    Keeps s0 (State.dumpSwitch s n v) := by
  rw [show @State.dumpSwitch = _ from by delta State.dumpSwitch; rfl]
  refine keeps_ite ?_ ?_
  · assumption
  · extract_lets +onlyGivenNames -underBinder -merge x1
    try clear_value x1
    extract_lets +onlyGivenNames -underBinder -merge x2
    try clear_value x2
    refine keeps_ite ?_ ?_
    · extract_lets +onlyGivenNames -underBinder -merge x3
      try clear_value x3
      extract_lets +onlyGivenNames -underBinder -merge x4
      have h4 : Keeps s0 x4 := by
        subst x4
        refine keeps_chopLatch ?_
        refine keeps_setChop ?_
        assumption
      try clear_value x4
      refine keeps_ite ?_ ?_
      · refine keeps_chopBegin ?_
        assumption
      · refine keeps_chopLeg ?_
        assumption
    · refine keeps_ite ?_ ?_
      · refine keeps_legOff ?_
        assumption
      · assumption

theorem keeps_dcCheck {s0 : State} {s : State} {k : Nat} {v : Int} (hK : Keeps s0 s) :
    Keeps s0 (State.dcCheck s k v) := by
  rw [show @State.dcCheck = _ from by delta State.dcCheck; rfl]
  refine keeps_ite ?_ ?_
  · assumption
  · extract_lets +onlyGivenNames -underBinder -merge x1
    try clear_value x1
    extract_lets +onlyGivenNames -underBinder -merge x2
    try clear_value x2
    extract_lets +onlyGivenNames -underBinder -merge x3
    try clear_value x3
    extract_lets +onlyGivenNames -underBinder -merge x4
    try clear_value x4
    extract_lets +onlyGivenNames -underBinder -merge x5
    try clear_value x5
    extract_lets +onlyGivenNames -underBinder -merge x6
    have h6 : Keeps s0 x6 := by
      subst x6
      refine keeps_setSinc ?_
      assumption
    try clear_value x6
    extract_lets +onlyGivenNames -underBinder -merge x7
    subst x7
    try dsimp -zeta -proj only
    extract_lets +onlyGivenNames -underBinder -merge x8
    have h8 : Keeps s0 x8 := by
      subst x8
      refine keeps_fault ?_
      assumption
    try clear_value x8
    extract_lets +onlyGivenNames -underBinder -merge x9
    have h9 : Keeps s0 x9 := by
      subst x9
      refine keeps_ite ?_ ?_
      · refine keeps_ite ?_ ?_
        · refine keeps_loopL (fun a10_0 y10 h10 => ?_) ?_
          · refine keeps_faultStop ?_
            assumption
          · assumption
        · assumption
      · assumption
    try clear_value x9
    refine keeps_ite ?_ ?_
    · extract_lets +onlyGivenNames -underBinder -merge x11
      have h11 : Keeps s0 x11 := by
        subst x11
        refine keeps_fault ?_
        assumption
      try clear_value x11
      refine keeps_ite ?_ ?_
      · refine keeps_loopL (fun a12_0 y12 h12 => ?_) ?_
        · refine keeps_faultStop ?_
          assumption
        · assumption
      · assumption
    · assumption

theorem keeps_fastChop {s0 : State} {s : State} {n x : Nat} {i : Int} (hK : Keeps s0 s) :
    Keeps s0 (State.fastChop s n x i) := by
  rw [show @State.fastChop = _ from by delta State.fastChop; rfl]
  refine keeps_ite ?_ ?_
  · assumption
  · refine keeps_ite ?_ ?_
    · refine keeps_chopFast ?_
      assumption
    · extract_lets +onlyGivenNames -underBinder -merge x1
      subst x1
      try dsimp -zeta -proj only
      refine keeps_ite ?_ ?_
      · refine keeps_chopFast ?_
        assumption
      · refine keeps_ite ?_ ?_
        · refine keeps_chopFast ?_
          assumption
        · assumption

theorem keeps_fastLeg {s0 : State} {s : State} {n x skip : Nat} (hK : Keeps s0 s) :
    Keeps s0 (State.fastLeg s n x skip) := by
  rw [show @State.fastLeg = _ from by delta State.fastLeg; rfl]
  extract_lets +onlyGivenNames -underBinder -merge x1
  try clear_value x1
  extract_lets +onlyGivenNames -underBinder -merge x2
  try clear_value x2
  extract_lets +onlyGivenNames -underBinder -merge x3
  have h3 : Keeps s0 x3 := by
    subst x3
    refine keeps_putI ?_
    assumption
  try clear_value x3
  extract_lets +onlyGivenNames -underBinder -merge x4
  try clear_value x4
  extract_lets +onlyGivenNames -underBinder -merge x5
  have h5 : Keeps s0 x5 := by
    subst x5
    refine keeps_setSinc ?_
    assumption
  try clear_value x5
  extract_lets +onlyGivenNames -underBinder -merge x6
  try clear_value x6
  extract_lets +onlyGivenNames -underBinder -merge x7
  have h7 : Keeps s0 x7 := by
    subst x7
    refine keeps_setLeg ?_
    assumption
  try clear_value x7
  refine keeps_fastChop ?_
  refine keeps_overcurrent ?_
  assumption

theorem keeps_fastTile {s0 : State} {s : State} {k skip : Nat} (hK : Keeps s0 s) :
    Keeps s0 (State.fastTile s k skip) := by
  rw [show @State.fastTile = _ from by delta State.fastTile; rfl]
  extract_lets +onlyGivenNames -underBinder -merge x1
  try clear_value x1
  extract_lets +onlyGivenNames -underBinder -merge x2
  try clear_value x2
  extract_lets +onlyGivenNames -underBinder -merge x3
  have h3 : Keeps s0 x3 := by
    subst x3
    refine keeps_putI ?_
    assumption
  try clear_value x3
  extract_lets +onlyGivenNames -underBinder -merge x4
  try clear_value x4
  extract_lets +onlyGivenNames -underBinder -merge x5
  have h5 : Keeps s0 x5 := by
    subst x5
    refine keeps_setSinc ?_
    assumption
  try clear_value x5
  extract_lets +onlyGivenNames -underBinder -merge x6
  have h6 : Keeps s0 x6 := by
    subst x6
    refine keeps_dcCheck ?_
    assumption
  try clear_value x6
  refine keeps_loopL (fun a7_0 y7 h7 => ?_) ?_
  · refine keeps_dumpSwitch ?_
    assumption
  · assumption

theorem keeps_formFast {s0 : State} {s : State} {x l d : Nat} (hK : Keeps s0 s) :
    Keeps s0 (State.formFast s x l d) := by
  rw [show @State.formFast = _ from by delta State.formFast; rfl]
  extract_lets +onlyGivenNames -underBinder -merge x1
  try clear_value x1
  refine keeps_ite ?_ ?_
  · assumption
  · extract_lets +onlyGivenNames -underBinder -merge x2
    try clear_value x2
    extract_lets +onlyGivenNames -underBinder -merge x3
    have h3 : Keeps s0 x3 := by
      subst x3
      refine keeps_resultAt ?_
      refine keeps_setSinc ?_
      assumption
    try clear_value x3
    refine keeps_ite ?_ ?_
    · split
      · assumption
      · refine keeps_fastLeg ?_
        assumption
    · refine keeps_fastTile ?_
      assumption

theorem keeps_execFastResult {s0 : State} {x : StreamNo} {d : Nat} {s : State} (hK : Keeps s0 s) :
    Goes s0 (execFastResult x d s) := by
  rw [show @execFastResult = _ from by delta execFastResult; rfl]
  refine goes_next ?_
  refine keeps_formFast ?_
  assumption

theorem keeps_catchMeasure {s0 : State} {s : State} {n seq : Nat} (hK : Keeps s0 s) :
    Keeps s0 (State.catchMeasure s n seq) := by
  rw [show @State.catchMeasure = _ from by delta State.catchMeasure; rfl]
  extract_lets +onlyGivenNames -underBinder -merge x1
  try clear_value x1
  extract_lets +onlyGivenNames -underBinder -merge x2
  try clear_value x2
  extract_lets +onlyGivenNames -underBinder -merge x3
  try clear_value x3
  extract_lets +onlyGivenNames -underBinder -merge x4
  try clear_value x4
  extract_lets +onlyGivenNames -underBinder -merge x5
  have h5 : Keeps s0 x5 := by
    subst x5
    refine keeps_loopL (fun a6_0 y6 h6 => ?_) ?_
    · extract_lets +onlyGivenNames -underBinder -merge x7
      have h7 : Keeps s0 x7 := by
        subst x7
        refine keeps_ite ?_ ?_
        · refine keeps_storeCtl ?_
          assumption
        · assumption
      try clear_value x7
      extract_lets +onlyGivenNames -underBinder -merge x8
      try clear_value x8
      extract_lets +onlyGivenNames -underBinder -merge x9
      try clear_value x9
      refine keeps_wr ?_
      assumption
    · assumption
  try clear_value x5
  extract_lets +onlyGivenNames -underBinder -merge x10
  have h10 : Keeps s0 x10 := by
    subst x10
    refine keeps_loopN (fun a11_0 y11 h11 => ?_) ?_
    · extract_lets +onlyGivenNames -underBinder -merge x12
      try clear_value x12
      refine keeps_wr ?_
      assumption
    · assumption
  try clear_value x10
  extract_lets +onlyGivenNames -underBinder -merge x13
  try clear_value x13
  extract_lets +onlyGivenNames -underBinder -merge x14
  have h14 : Keeps s0 x14 := by
    subst x14
    refine keeps_putB ?_
    assumption
  try clear_value x14
  extract_lets +onlyGivenNames -underBinder -merge x15
  try clear_value x15
  extract_lets +onlyGivenNames -underBinder -merge x16
  have h16 : Keeps s0 x16 := by
    subst x16
    refine keeps_put ?_
    assumption
  try clear_value x16
  extract_lets +onlyGivenNames -underBinder -merge x17
  try clear_value x17
  extract_lets +onlyGivenNames -underBinder -merge x18
  try clear_value x18
  extract_lets +onlyGivenNames -underBinder -merge x19
  have h19 : Keeps s0 x19 := by
    subst x19
    refine keeps_ite ?_ ?_
    · assumption
    · refine keeps_putI ?_
      assumption
  try clear_value x19
  extract_lets +onlyGivenNames -underBinder -merge x20
  try clear_value x20
  extract_lets +onlyGivenNames -underBinder -merge x21
  have h21 : Keeps s0 x21 := by
    subst x21
    refine keeps_putB ?_
    assumption
  try clear_value x21
  extract_lets +onlyGivenNames -underBinder -merge x22
  try clear_value x22
  extract_lets +onlyGivenNames -underBinder -merge x23
  have h23 : Keeps s0 x23 := by
    subst x23
    refine keeps_wr ?_
    assumption
  try clear_value x23
  extract_lets +onlyGivenNames -underBinder -merge x24
  have h24 : Keeps s0 x24 := by
    subst x24
    refine keeps_wr ?_
    assumption
  try clear_value x24
  refine keeps_ite ?_ ?_
  · refine keeps_faultStop ?_
    refine keeps_fault ?_
    assumption
  · assumption

theorem keeps_catchLimits {s0 : State} {s : State} {n : Nat} (hK : Keeps s0 s) :
    Keeps s0 (State.catchLimits s n) := by
  rw [show @State.catchLimits = _ from by delta State.catchLimits; rfl]
  extract_lets +onlyGivenNames -underBinder -merge x1
  try clear_value x1
  extract_lets +onlyGivenNames -underBinder -merge x2
  try clear_value x2
  extract_lets +onlyGivenNames -underBinder -merge x3
  try clear_value x3
  extract_lets +onlyGivenNames -underBinder -merge x4
  try clear_value x4
  extract_lets +onlyGivenNames -underBinder -merge x5
  try clear_value x5
  refine keeps_wr ?_
  refine keeps_wr ?_
  assumption

theorem keeps_catchMeter {s0 : State} {s : State} {n : Nat} {prevTs : Word} (hK : Keeps s0 s) :
    Keeps s0 (State.catchMeter s n prevTs) := by
  rw [show @State.catchMeter = _ from by delta State.catchMeter; rfl]
  extract_lets +onlyGivenNames -underBinder -merge x1
  try clear_value x1
  refine keeps_ite ?_ ?_
  · refine keeps_wr ?_
    assumption
  · refine keeps_ite ?_ ?_
    · assumption
    · extract_lets +onlyGivenNames -underBinder -merge x2
      try clear_value x2
      extract_lets +onlyGivenNames -underBinder -merge x3
      try clear_value x3
      extract_lets +onlyGivenNames -underBinder -merge x4
      try clear_value x4
      extract_lets +onlyGivenNames -underBinder -merge x5
      try clear_value x5
      extract_lets +onlyGivenNames -underBinder -merge x6
      have h6 : Keeps s0 x6 := by
        subst x6
        refine keeps_wr ?_
        assumption
      try clear_value x6
      extract_lets +onlyGivenNames -underBinder -merge x7
      try clear_value x7
      split
      · extract_lets +onlyGivenNames -underBinder -merge x8
        try clear_value x8
        extract_lets +onlyGivenNames -underBinder -merge x9
        try clear_value x9
        refine keeps_ite ?_ ?_
        · refine keeps_setCrew ?_
          assumption
        · refine keeps_setCrew ?_
          assumption
      · assumption

theorem keeps_eclr {s0 : State} {s : State} {n : Nat} {clr : Bool} (hK : Keeps s0 s) :
    Keeps s0 (State.eclr s n clr) := by
  rw [show @State.eclr = _ from by delta State.eclr; rfl]
  refine keeps_ite ?_ ?_
  · refine keeps_setCrew ?_
    assumption
  · assumption

theorem keeps_execEclrWrite {s0 : State} {n : CrewNo} {clr : Bool} {s : State} (hK : Keeps s0 s) :
    Goes s0 (execEclrWrite n clr s) := by
  rw [show @execEclrWrite = _ from by delta execEclrWrite; rfl]
  refine goes_onReg (fun y1 h1 => ?_) ?_
  · refine goes_next ?_
    refine keeps_eclr ?_
    assumption
  · assumption

theorem keeps_readEnergy {s0 : State} {s : State} {n : Nat} {neg : Bool} (hK : Keeps s0 s) :
    Keeps s0 (State.readEnergy s n neg).2 := by
  rw [show @State.readEnergy = _ from by delta State.readEnergy; rfl]
  extract_lets +onlyGivenNames -underBinder -merge x1
  try clear_value x1
  extract_lets +onlyGivenNames -underBinder -merge x2
  try clear_value x2
  refine keeps_snd ?_
  refine keeps_wr ?_
  assumption

theorem keeps_execEposLRead {s0 : State} {n : CrewNo} {s : State} (hK : Keeps s0 s) :
    Goes s0 (execEposLRead n s) := by
  rw [show @execEposLRead = _ from by delta execEposLRead; rfl]
  refine goes_onRegRead (fun y1 h1 => ?_) ?_
  · split
    · rename_i heq
      have h2 := keeps_of_eqP (s0 := s0) heq (by
        refine keeps_readEnergy ?_
        assumption)
      refine goes_next ?_
      refine keeps_mk ?_
      assumption
  · assumption

theorem keeps_execEnegLRead {s0 : State} {n : CrewNo} {s : State} (hK : Keeps s0 s) :
    Goes s0 (execEnegLRead n s) := by
  rw [show @execEnegLRead = _ from by delta execEnegLRead; rfl]
  refine goes_onRegRead (fun y1 h1 => ?_) ?_
  · split
    · rename_i heq
      have h2 := keeps_of_eqP (s0 := s0) heq (by
        refine keeps_readEnergy ?_
        assumption)
      refine goes_next ?_
      refine keeps_mk ?_
      assumption
  · assumption

theorem keeps_guardTick {s0 : State} {s : State} {n : Nat} (hK : Keeps s0 s) :
    Keeps s0 (State.guardTick s n) := by
  rw [show @State.guardTick = _ from by delta State.guardTick; rfl]
  refine keeps_ite ?_ ?_
  · assumption
  · extract_lets +onlyGivenNames -underBinder -merge x1
    try clear_value x1
    extract_lets +onlyGivenNames -underBinder -merge x2
    try clear_value x2
    extract_lets +onlyGivenNames -underBinder -merge x3
    try clear_value x3
    extract_lets +onlyGivenNames -underBinder -merge x4
    try clear_value x4
    extract_lets +onlyGivenNames -underBinder -merge x5
    try clear_value x5
    extract_lets +onlyGivenNames -underBinder -merge x6
    try clear_value x6
    extract_lets +onlyGivenNames -underBinder -merge x7
    try clear_value x7
    extract_lets +onlyGivenNames -underBinder -merge x8
    try clear_value x8
    extract_lets +onlyGivenNames -underBinder -merge x9
    try clear_value x9
    extract_lets +onlyGivenNames -underBinder -merge x10
    try clear_value x10
    extract_lets +onlyGivenNames -underBinder -merge x11
    try clear_value x11
    extract_lets +onlyGivenNames -underBinder -merge x12
    try clear_value x12
    extract_lets +onlyGivenNames -underBinder -merge x13
    have h13 : Keeps s0 x13 := by
      subst x13
      refine keeps_wr ?_
      assumption
    try clear_value x13
    extract_lets +onlyGivenNames -underBinder -merge x14
    have h14 : Keeps s0 x14 := by
      subst x14
      refine keeps_ite ?_ ?_
      · refine keeps_wr ?_
        assumption
      · assumption
    try clear_value x14
    extract_lets +onlyGivenNames -underBinder -merge x15
    try clear_value x15
    extract_lets +onlyGivenNames -underBinder -merge x16
    try clear_value x16
    extract_lets +onlyGivenNames -underBinder -merge x17
    try clear_value x17
    extract_lets +onlyGivenNames -underBinder -merge x18
    try clear_value x18
    extract_lets +onlyGivenNames -underBinder -merge x19
    try clear_value x19
    extract_lets +onlyGivenNames -underBinder -merge x20
    have h20 : Keeps s0 x20 := by
      subst x20
      refine keeps_setCrew ?_
      assumption
    try clear_value x20
    refine keeps_ite ?_ ?_
    · extract_lets +onlyGivenNames -underBinder -merge x21
      have h21 : Keeps s0 x21 := by
        subst x21
        refine keeps_wr ?_
        assumption
      try clear_value x21
      extract_lets +onlyGivenNames -underBinder -merge x22
      have h22 : Keeps s0 x22 := by
        subst x22
        refine keeps_raise ?_
        refine keeps_incSat ?_
        assumption
      try clear_value x22
      refine keeps_ite ?_ ?_
      · split
        · extract_lets +onlyGivenNames -underBinder -merge x23
          try clear_value x23
          extract_lets +onlyGivenNames -underBinder -merge x24
          try clear_value x24
          extract_lets +onlyGivenNames -underBinder -merge x25
          have h25 : Keeps s0 x25 := by
            subst x25
            refine keeps_setCrew ?_
            assumption
          try clear_value x25
          refine keeps_put ?_
          refine keeps_fault ?_
          assumption
        · refine keeps_guardRender ?_
          assumption
        · refine keeps_guardTrip ?_
          assumption
        · assumption
      · refine keeps_ite ?_ ?_
        · refine keeps_ite ?_ ?_
          · refine keeps_guardTrip ?_
            assumption
          · refine keeps_fault ?_
            refine keeps_raise ?_
            assumption
        · assumption
    · assumption

theorem keeps_guardStart {s0 : State} {s : State} {n : Nat} (hK : Keeps s0 s) :
    Keeps s0 (State.guardStart s n) := by
  rw [show @State.guardStart = _ from by delta State.guardStart; rfl]
  refine keeps_ite ?_ ?_
  · extract_lets +onlyGivenNames -underBinder -merge x1
    try clear_value x1
    extract_lets +onlyGivenNames -underBinder -merge x2
    have h2 : Keeps s0 x2 := by
      subst x2
      refine keeps_setCrew ?_
      assumption
    try clear_value x2
    refine keeps_put ?_
    refine keeps_wr ?_
    assumption
  · assumption

theorem keeps_execGuardHoldEnd {s0 : State} {n : CrewNo} {s : State} (hK : Keeps s0 s) :
    Goes s0 (execGuardHoldEnd n s) := by
  rw [show @execGuardHoldEnd = _ from by delta execGuardHoldEnd; rfl]
  refine goes_ite ?_ ?_
  · extract_lets +onlyGivenNames -underBinder -merge x1
    have h1 : Keeps s0 x1 := by
      subst x1
      refine keeps_until ?_
      assumption
    try clear_value x1
    extract_lets +onlyGivenNames -underBinder -merge x2
    have h2 : Keeps s0 x2 := by
      subst x2
      refine keeps_raise ?_
      assumption
    try clear_value x2
    extract_lets +onlyGivenNames -underBinder -merge x3
    try clear_value x3
    extract_lets +onlyGivenNames -underBinder -merge x4
    try clear_value x4
    extract_lets +onlyGivenNames -underBinder -merge x5
    have h5 : Keeps s0 x5 := by
      subst x5
      refine keeps_setCrew ?_
      assumption
    try clear_value x5
    refine goes_next ?_
    refine keeps_put ?_
    assumption
  · refine goes_next ?_
    assumption

theorem keeps_execGuardCoolEnd {s0 : State} {n : CrewNo} {s : State} (hK : Keeps s0 s) :
    Goes s0 (execGuardCoolEnd n s) := by
  rw [show @execGuardCoolEnd = _ from by delta execGuardCoolEnd; rfl]
  refine goes_ite ?_ ?_
  · extract_lets +onlyGivenNames -underBinder -merge x1
    try clear_value x1
    extract_lets +onlyGivenNames -underBinder -merge x2
    try clear_value x2
    extract_lets +onlyGivenNames -underBinder -merge x3
    try clear_value x3
    refine goes_next ?_
    refine keeps_guardArm ?_
    refine keeps_until ?_
    assumption
  · refine goes_next ?_
    assumption

theorem keeps_execGuardRenderLimit {s0 : State} {n : CrewNo} {s : State} (hK : Keeps s0 s) :
    Goes s0 (execGuardRenderLimit n s) := by
  rw [show @execGuardRenderLimit = _ from by delta execGuardRenderLimit; rfl]
  extract_lets +onlyGivenNames -underBinder -merge x1
  try clear_value x1
  refine goes_ite ?_ ?_
  · refine goes_next ?_
    refine keeps_guardTrip ?_
    refine keeps_until ?_
    assumption
  · refine goes_next ?_
    assumption

theorem keeps_execGuardRecover {s0 : State} {n : CrewNo} {s : State} (hK : Keeps s0 s) :
    Goes s0 (execGuardRecover n s) := by
  rw [show @execGuardRecover = _ from by delta execGuardRecover; rfl]
  extract_lets +onlyGivenNames -underBinder -merge x1
  try clear_value x1
  split
  · extract_lets +onlyGivenNames -underBinder -merge x2
    try clear_value x2
    refine goes_ite ?_ ?_
    · extract_lets +onlyGivenNames -underBinder -merge x3
      have h3 : Keeps s0 x3 := by
        subst x3
        refine keeps_until ?_
        assumption
      try clear_value x3
      refine goes_next ?_
      refine keeps_guardBack ?_
      refine keeps_raise ?_
      assumption
    · refine goes_next ?_
      assumption
  · refine goes_next ?_
    assumption

theorem keeps_emgCrew {s0 : State} {s : State} {new0 new1 : Bool} {n : Nat} (hK : Keeps s0 s) :
    Keeps s0 (State.emgCrew s new0 new1 n) := by
  rw [show @State.emgCrew = _ from by delta State.emgCrew; rfl]
  extract_lets +onlyGivenNames -underBinder -merge x1
  try clear_value x1
  extract_lets +onlyGivenNames -underBinder -merge x2
  have h2 : Keeps s0 x2 := by
    subst x2
    refine keeps_ite ?_ ?_
    · refine keeps_fault ?_
      assumption
    · assumption
  try clear_value x2
  extract_lets +onlyGivenNames -underBinder -merge x3
  have h3 : Keeps s0 x3 := by
    subst x3
    refine keeps_putB ?_
    assumption
  try clear_value x3
  extract_lets +onlyGivenNames -underBinder -merge x4
  have h4 : Keeps s0 x4 := by
    subst x4
    refine keeps_crashCheck ?_
    assumption
  try clear_value x4
  extract_lets +onlyGivenNames -underBinder -merge x5
  try clear_value x5
  extract_lets +onlyGivenNames -underBinder -merge x6
  try clear_value x6
  refine keeps_ite ?_ ?_
  · refine keeps_guardRender ?_
    assumption
  · refine keeps_ite ?_ ?_
    · refine keeps_guardBack ?_
      refine keeps_raise ?_
      assumption
    · assumption

theorem keeps_execEmgSample {s0 : State} {low0 low1 : Bool} {s : State} (hK : Keeps s0 s) :
    Goes s0 (execEmgSample low0 low1 s) := by
  rw [show @execEmgSample = _ from by delta execEmgSample; rfl]
  extract_lets +onlyGivenNames -underBinder -merge x1
  have h1 : Keeps s0 x1 := by
    subst x1
    refine keeps_until ?_
    assumption
  try clear_value x1
  extract_lets +onlyGivenNames -underBinder -merge x2
  have h2 : Keeps s0 x2 := by
    subst x2
    refine keeps_mk ?_
    assumption
  try clear_value x2
  extract_lets +onlyGivenNames -underBinder -merge x3
  try clear_value x3
  extract_lets +onlyGivenNames -underBinder -merge x4
  try clear_value x4
  extract_lets +onlyGivenNames -underBinder -merge x5
  have h5 : Keeps s0 x5 := by
    subst x5
    refine keeps_mk ?_
    assumption
  try clear_value x5
  refine goes_next ?_
  refine keeps_loopL (fun a6_0 y6 h6 => ?_) ?_
  · refine keeps_emgCrew ?_
    assumption
  · assumption

theorem keeps_execSlessLowspeed {s0 : State} {n : CrewNo} {s : State} (hK : Keeps s0 s) :
    Goes s0 (execSlessLowspeed n s) := by
  rw [show @execSlessLowspeed = _ from by delta execSlessLowspeed; rfl]
  split
  · refine goes_next ?_
    refine keeps_faultStop ?_
    refine keeps_fault ?_
    refine keeps_until ?_
    assumption
  · refine goes_next ?_
    assumption

theorem keeps_posLossTick {s0 : State} {s : State} {n : Nat} (hK : Keeps s0 s) :
    Keeps s0 (State.posLossTick s n) := by
  rw [show @State.posLossTick = _ from by delta State.posLossTick; rfl]
  refine keeps_ite ?_ ?_
  · assumption
  · extract_lets +onlyGivenNames -underBinder -merge x1
    try clear_value x1
    extract_lets +onlyGivenNames -underBinder -merge x2
    have h2 : Keeps s0 x2 := by
      subst x2
      refine keeps_setCrew ?_
      assumption
    try clear_value x2
    refine keeps_ite ?_ ?_
    · refine keeps_fault ?_
      refine keeps_slessTrack ?_
      refine keeps_putB ?_
      refine keeps_putB ?_
      assumption
    · refine keeps_faultStop ?_
      refine keeps_fault ?_
      assumption

end Sys2Proof.Machine
end

