-- ==== Sys2Proof/Laws/KeepsPosition.lean ====
section
/-! SUPPORT. Laws/KeepsPosition.lean: what the operations of Machine/Position.lean keep. -/
namespace Sys2Proof.Machine

theorem keeps_portLost {s0 : State} {s : State} {j code : Nat} (hK : Keeps s0 s) :
    Keeps s0 (State.portLost s j code) := by
  rw [show @State.portLost = _ from by delta State.portLost; rfl]
  extract_lets +onlyGivenNames -underBinder -merge x1
  have h1 : Keeps s0 x1 := by
    subst x1
    refine keeps_put ?_
    assumption
  try clear_value x1
  extract_lets +onlyGivenNames -underBinder -merge x2
  have h2 : Keeps s0 x2 := by
    subst x2
    refine keeps_fault ?_
    refine keeps_retryL ?_
    assumption
  try clear_value x2
  extract_lets +onlyGivenNames -underBinder -merge x3
  try clear_value x3
  extract_lets +onlyGivenNames -underBinder -merge x4
  have h4 : Keeps s0 x4 := by
    subst x4
    refine keeps_setPos ?_
    assumption
  try clear_value x4
  refine keeps_loopL (fun a5_0 y5 h5 => ?_) ?_
  · refine keeps_setCrew ?_
    assumption
  · assumption

theorem keeps_posState {s0 : State} {s : State} {j : Nat} (hK : Keeps s0 s) :
    Keeps s0 (State.posState s j) := by
  rw [show @State.posState = _ from by delta State.posState; rfl]
  refine keeps_ite ?_ ?_
  · assumption
  · refine keeps_ite ?_ ?_
    · refine keeps_setPos ?_
      refine keeps_put ?_
      assumption
    · refine keeps_ite ?_ ?_
      · refine keeps_setPos ?_
        refine keeps_put ?_
        assumption
      · assumption

theorem keeps_posTake {s0 : State} {s : State} {j : Nat} (hK : Keeps s0 s) :
    Keeps s0 (State.posTake s j) := by
  rw [show @State.posTake = _ from by delta State.posTake; rfl]
  refine keeps_posState ?_
  refine keeps_setPos ?_
  assumption

theorem keeps_posWritten {s0 : State} {s : State} {j : Nat} (hK : Keeps s0 s) :
    Keeps s0 (State.posWritten s j) := by
  rw [show @State.posWritten = _ from by delta State.posWritten; rfl]
  refine keeps_ite ?_ ?_
  · assumption
  · refine keeps_posTake ?_
    assumption

theorem keeps_execQuadratureEdge {s0 : State} {j : Port16} {e : Sampled} {s : State} (hK : Keeps s0 s) :
    Goes s0 (execQuadratureEdge j e s) := by
  rw [show @execQuadratureEdge = _ from by delta execQuadratureEdge; rfl]
  refine goes_ite ?_ ?_
  · extract_lets +onlyGivenNames -underBinder -merge x1
    try clear_value x1
    refine goes_next ?_
    refine keeps_setPos ?_
    assumption
  · refine goes_next ?_
    assumption

theorem keeps_execZCapture {s0 : State} {j : Port16} {s : State} (hK : Keeps s0 s) :
    Goes s0 (execZCapture j s) := by
  rw [show @execZCapture = _ from by delta execZCapture; rfl]
  refine goes_ite ?_ ?_
  · refine goes_next ?_
    refine keeps_raise ?_
    refine keeps_setPos ?_
    assumption
  · refine goes_next ?_
    assumption

theorem keeps_execIllegalTransition {s0 : State} {e : PortSeen} {s : State} (hK : Keeps s0 s) :
    Goes s0 (execIllegalTransition e s) := by
  rw [show @execIllegalTransition = _ from by delta execIllegalTransition; rfl]
  extract_lets +onlyGivenNames -underBinder -merge x1
  try clear_value x1
  refine goes_ite ?_ ?_
  · extract_lets +onlyGivenNames -underBinder -merge x2
    try clear_value x2
    extract_lets +onlyGivenNames -underBinder -merge x3
    have h3 : Keeps s0 x3 := by
      subst x3
      refine keeps_incSat ?_
      assumption
    try clear_value x3
    extract_lets +onlyGivenNames -underBinder -merge x4
    try clear_value x4
    extract_lets +onlyGivenNames -underBinder -merge x5
    have h5 : Keeps s0 x5 := by
      subst x5
      refine keeps_setPos ?_
      assumption
    try clear_value x5
    refine goes_ite ?_ ?_
    · refine goes_ite ?_ ?_
      · refine goes_next ?_
        refine keeps_portLost ?_
        assumption
      · refine goes_next ?_
        assumption
    · refine goes_next ?_
      refine keeps_retryT ?_
      assumption
  · refine goes_next ?_
    assumption

theorem keeps_execLineFault {s0 : State} {j : Port16} {on : Bool} {s : State} (hK : Keeps s0 s) :
    Goes s0 (execLineFault j on s) := by
  rw [show @execLineFault = _ from by delta execLineFault; rfl]
  refine goes_ite ?_ ?_
  · refine goes_next ?_
    assumption
  · extract_lets +onlyGivenNames -underBinder -merge x1
    have h1 : Keeps s0 x1 := by
      subst x1
      refine keeps_putB ?_
      assumption
    try clear_value x1
    refine goes_ite ?_ ?_
    · refine goes_next ?_
      refine keeps_setPos ?_
      refine keeps_incSat ?_
      assumption
    · refine goes_ite ?_ ?_
      · refine goes_next ?_
        refine keeps_retryT ?_
        assumption
      · refine goes_next ?_
        assumption

theorem keeps_execPosLine {s0 : State} {j : Port16} {s : State} (hK : Keeps s0 s) :
    Goes s0 (execPosLine j s) := by
  rw [show @execPosLine = _ from by delta execPosLine; rfl]
  refine goes_ite ?_ ?_
  · refine goes_next ?_
    refine keeps_portLost ?_
    refine keeps_until ?_
    assumption
  · refine goes_next ?_
    assumption

theorem keeps_startRead {s0 : State} {s : State} {j : Nat} {retry : Bool} (hK : Keeps s0 s) :
    Keeps s0 (State.startRead s j retry) := by
  rw [show @State.startRead = _ from by delta State.startRead; rfl]
  refine keeps_setPos ?_
  assumption

theorem keeps_posTrigger {s0 : State} {s : State} {j : Nat} (hK : Keeps s0 s) :
    OGoes s0 (State.posTrigger s j) := by
  rw [show @State.posTrigger = _ from by delta State.posTrigger; rfl]
  extract_lets +onlyGivenNames -underBinder -merge x1
  try clear_value x1
  refine ogoes_ite ?_ ?_
  · extract_lets +onlyGivenNames -underBinder -merge x2
    try clear_value x2
    refine ogoes_some ?_
    refine keeps_setPos ?_
    refine keeps_until ?_
    assumption
  · extract_lets +onlyGivenNames -underBinder -merge x3
    try clear_value x3
    extract_lets +onlyGivenNames -underBinder -merge x4
    try clear_value x4
    refine ogoes_ite ?_ ?_
    · exact ogoes_none
    · refine ogoes_some ?_
      refine keeps_setPos ?_
      refine keeps_advanceTb ?_
      assumption

theorem keeps_execPosReadTrigger {s0 : State} {j : Port16} {s : State} (hK : Keeps s0 s) :
    Goes s0 (execPosReadTrigger j s) := by
  rw [show @execPosReadTrigger = _ from by delta execPosReadTrigger; rfl]
  refine goes_ite ?_ ?_
  · refine goes_next ?_
    assumption
  · split
    · refine goes_next ?_
      assumption
    · rename_i heq
      have h1 := keeps_of_eqM (s0 := s0) heq (by
        refine keeps_posTrigger ?_
        assumption)
      refine goes_ite ?_ ?_
      · refine goes_next ?_
        assumption
      · extract_lets +onlyGivenNames -underBinder -merge x2
        have h2 : Keeps s0 x2 := by
          subst x2
          refine keeps_posTake ?_
          assumption
        try clear_value x2
        refine goes_ite ?_ ?_
        · refine goes_next ?_
          refine keeps_startRead ?_
          assumption
        · refine goes_next ?_
          assumption

theorem keeps_takeRead {s0 : State} {s : State} {j : Nat} {i : SerialIn} (hK : Keeps s0 s) :
    Keeps s0 (State.takeRead s j i) := by
  rw [show @State.takeRead = _ from by delta State.takeRead; rfl]
  extract_lets +onlyGivenNames -underBinder -merge x1
  try clear_value x1
  extract_lets +onlyGivenNames -underBinder -merge x2
  try clear_value x2
  extract_lets +onlyGivenNames -underBinder -merge x3
  try clear_value x3
  extract_lets +onlyGivenNames -underBinder -merge x4
  try clear_value x4
  extract_lets +onlyGivenNames -underBinder -merge x5
  try clear_value x5
  extract_lets +onlyGivenNames -underBinder -merge x6
  try clear_value x6
  extract_lets +onlyGivenNames -underBinder -merge x7
  have h7 : Keeps s0 x7 := by
    subst x7
    refine keeps_setPos ?_
    assumption
  try clear_value x7
  extract_lets +onlyGivenNames -underBinder -merge x8
  have h8 : Keeps s0 x8 := by
    subst x8
    refine keeps_wr ?_
    assumption
  try clear_value x8
  split
  · rename_i heq
    have h9 := keeps_of_eqP (s0 := s0) heq (by
      refine keeps_freeIn ?_
      assumption)
    refine keeps_wr ?_
    assumption

theorem keeps_execSerialReadComplete {s0 : State} {j : Port16} {i : SerialIn} {s : State} (hK : Keeps s0 s) :
    Goes s0 (execSerialReadComplete j i s) := by
  rw [show @execSerialReadComplete = _ from by delta execSerialReadComplete; rfl]
  extract_lets +onlyGivenNames -underBinder -merge x1
  try clear_value x1
  refine goes_ite ?_ ?_
  · refine goes_next ?_
    assumption
  · extract_lets +onlyGivenNames -underBinder -merge x2
    try clear_value x2
    extract_lets +onlyGivenNames -underBinder -merge x3
    try clear_value x3
    extract_lets +onlyGivenNames -underBinder -merge x4
    have h4 : Keeps s0 x4 := by
      subst x4
      refine keeps_setPos ?_
      assumption
    try clear_value x4
    extract_lets +onlyGivenNames -underBinder -merge x5
    have h5 : Keeps s0 x5 := by
      subst x5
      refine keeps_ite ?_ ?_
      · refine keeps_fault ?_
        assumption
      · assumption
    try clear_value x5
    extract_lets +onlyGivenNames -underBinder -merge x6
    have h6 : Keeps s0 x6 := by
      subst x6
      refine keeps_ite ?_ ?_
      · refine keeps_putB ?_
        refine keeps_putB ?_
        assumption
      · assumption
    try clear_value x6
    refine goes_ite ?_ ?_
    · extract_lets +onlyGivenNames -underBinder -merge x7
      have h7 : Keeps s0 x7 := by
        subst x7
        refine keeps_takeRead ?_
        assumption
      try clear_value x7
      refine goes_ite ?_ ?_
      · refine goes_next ?_
        refine keeps_retryT ?_
        assumption
      · refine goes_next ?_
        assumption
    · refine goes_ite ?_ ?_
      · refine goes_next ?_
        refine keeps_portLost ?_
        assumption
      · refine goes_next ?_
        refine keeps_incSat ?_
        assumption

theorem keeps_execSerialReadRetry {s0 : State} {j : Port16} {s : State} (hK : Keeps s0 s) :
    Goes s0 (execSerialReadRetry j s) := by
  rw [show @execSerialReadRetry = _ from by delta execSerialReadRetry; rfl]
  refine goes_ite ?_ ?_
  · refine goes_next ?_
    refine keeps_startRead ?_
    refine keeps_until ?_
    assumption
  · refine goes_next ?_
    assumption

theorem keeps_posRearm {s0 : State} {s : State} {j : Nat} (hK : Keeps s0 s) :
    Keeps s0 (State.posRearm s j) := by
  rw [show @State.posRearm = _ from by delta State.posRearm; rfl]
  extract_lets +onlyGivenNames -underBinder -merge x1
  try clear_value x1
  extract_lets +onlyGivenNames -underBinder -merge x2
  have h2 : Keeps s0 x2 := by
    subst x2
    refine keeps_setPos ?_
    assumption
  try clear_value x2
  refine keeps_ite ?_ ?_
  · refine keeps_posState ?_
    refine keeps_put ?_
    assumption
  · assumption

theorem keeps_execPosRearm {s0 : State} {j : Port16} {s : State} (hK : Keeps s0 s) :
    Goes s0 (execPosRearm j s) := by
  rw [show @execPosRearm = _ from by delta execPosRearm; rfl]
  refine goes_onReg (fun y1 h1 => ?_) ?_
  · refine goes_next ?_
    refine keeps_posRearm ?_
    assumption
  · assumption

theorem keeps_posClr {s0 : State} {s : State} {j : Nat} (hK : Keeps s0 s) :
    Keeps s0 (State.posClr s j) := by
  rw [show @State.posClr = _ from by delta State.posClr; rfl]
  refine keeps_wr ?_
  refine keeps_wr ?_
  refine keeps_wr ?_
  assumption

theorem keeps_execPosClr {s0 : State} {j : Port16} {s : State} (hK : Keeps s0 s) :
    Goes s0 (execPosClr j s) := by
  rw [show @execPosClr = _ from by delta execPosClr; rfl]
  refine goes_onReg (fun y1 h1 => ?_) ?_
  · refine goes_next ?_
    refine keeps_posClr ?_
    assumption
  · assumption

theorem keeps_readLatch {s0 : State} {s : State} {z : Int} {hiReg : Nat} (hK : Keeps s0 s) :
    Keeps s0 (State.readLatch s z hiReg).2 := by
  rw [show @State.readLatch = _ from by delta State.readLatch; rfl]
  extract_lets +onlyGivenNames -underBinder -merge x1
  try clear_value x1
  refine keeps_snd ?_
  refine keeps_wr ?_
  assumption

theorem keeps_execPosCntLRead {s0 : State} {j : Port16} {s : State} (hK : Keeps s0 s) :
    Goes s0 (execPosCntLRead j s) := by
  rw [show @execPosCntLRead = _ from by delta execPosCntLRead; rfl]
  refine goes_onRegRead (fun y1 h1 => ?_) ?_
  · split
    · rename_i heq
      have h2 := keeps_of_eqP (s0 := s0) heq (by
        refine keeps_readLatch ?_
        assumption)
      refine goes_next ?_
      refine keeps_mk ?_
      assumption
  · assumption

theorem keeps_execPosZcapLRead {s0 : State} {j : Port16} {s : State} (hK : Keeps s0 s) :
    Goes s0 (execPosZcapLRead j s) := by
  rw [show @execPosZcapLRead = _ from by delta execPosZcapLRead; rfl]
  refine goes_onRegRead (fun y1 h1 => ?_) ?_
  · split
    · rename_i heq
      have h2 := keeps_of_eqP (s0 := s0) heq (by
        refine keeps_readLatch ?_
        assumption)
      refine goes_next ?_
      refine keeps_mk ?_
      assumption
  · assumption

end Sys2Proof.Machine
end

