-- ==== Sys2Proof/Laws/KeepsProfile.lean ====
section
/-! SUPPORT. Laws/KeepsProfile.lean: what the operations of Machine/Profile.lean keep. -/
namespace Sys2Proof.Machine

theorem keeps_profOut {s0 : State} {s : State} {n : Nat} {v : Int} {sp : Nat} (hK : Keeps s0 s) :
    Keeps s0 (State.profOut s n v sp) := by
  rw [show @State.profOut = _ from by delta State.profOut; rfl]
  extract_lets +onlyGivenNames -underBinder -merge x1
  try clear_value x1
  extract_lets +onlyGivenNames -underBinder -merge x2
  try clear_value x2
  extract_lets +onlyGivenNames -underBinder -merge x3
  have h3 : Keeps s0 x3 := by
    subst x3
    refine keeps_setProf ?_
    assumption
  try clear_value x3
  extract_lets +onlyGivenNames -underBinder -merge x4
  have h4 : Keeps s0 x4 := by
    subst x4
    refine keeps_wr ?_
    assumption
  try clear_value x4
  extract_lets +onlyGivenNames -underBinder -merge x5
  have h5 : Keeps s0 x5 := by
    subst x5
    refine keeps_putB ?_
    assumption
  try clear_value x5
  refine keeps_ite ?_ ?_
  · assumption
  · refine keeps_putB ?_
    assumption

theorem keeps_seg {s0 : State} {s : State} {n k : Nat} (hK : Keeps s0 s) :
    Keeps s0 (State.seg s n k) := by
  rw [show @State.seg = _ from by delta State.seg; rfl]
  refine keeps_put ?_
  assumption

theorem keeps_stopDone {s0 : State} {s : State} {n : Nat} (hK : Keeps s0 s) :
    Keeps s0 (State.stopDone s n) := by
  rw [show @State.stopDone = _ from by delta State.stopDone; rfl]
  extract_lets +onlyGivenNames -underBinder -merge x1
  try clear_value x1
  extract_lets +onlyGivenNames -underBinder -merge x2
  have h2 : Keeps s0 x2 := by
    subst x2
    refine keeps_ite ?_ ?_
    · assumption
    · refine keeps_profNoGoal ?_
      assumption
  try clear_value x2
  refine keeps_setProf ?_
  assumption

theorem keeps_moveStopped {s0 : State} {s : State} {n : Nat} (hK : Keeps s0 s) :
    Keeps s0 (State.moveStopped s n) := by
  rw [show @State.moveStopped = _ from by delta State.moveStopped; rfl]
  extract_lets +onlyGivenNames -underBinder -merge x1
  try clear_value x1
  extract_lets +onlyGivenNames -underBinder -merge x2
  try clear_value x2
  extract_lets +onlyGivenNames -underBinder -merge x3
  have h3 : Keeps s0 x3 := by
    subst x3
    refine keeps_putB ?_
    assumption
  try clear_value x3
  refine keeps_ite ?_ ?_
  · refine keeps_setPf ?_
    refine keeps_stopDone ?_
    assumption
  · extract_lets +onlyGivenNames -underBinder -merge x4
    try clear_value x4
    extract_lets +onlyGivenNames -underBinder -merge x5
    have h5 : Keeps s0 x5 := by
      subst x5
      refine keeps_ite ?_ ?_
      · refine keeps_raise ?_
        assumption
      · assumption
    try clear_value x5
    split
    · refine keeps_setPf ?_
      assumption
    · refine keeps_ite ?_ ?_
      · refine keeps_setPf ?_
        assumption
      · refine keeps_setProf ?_
        assumption

theorem keeps_moveArrived {s0 : State} {s : State} {n : Nat} (hK : Keeps s0 s) :
    Keeps s0 (State.moveArrived s n) := by
  rw [show @State.moveArrived = _ from by delta State.moveArrived; rfl]
  extract_lets +onlyGivenNames -underBinder -merge x1
  have h1 : Keeps s0 x1 := by
    subst x1
    refine keeps_putB ?_
    assumption
  try clear_value x1
  refine keeps_setPf ?_
  refine keeps_raise ?_
  assumption

theorem keeps_iarTick {s0 : State} {s : State} {n : Nat} (hK : Keeps s0 s) :
    Keeps s0 (State.iarTick s n) := by
  rw [show @State.iarTick = _ from by delta State.iarTick; rfl]
  extract_lets +onlyGivenNames -underBinder -merge x1
  try clear_value x1
  extract_lets +onlyGivenNames -underBinder -merge x2
  try clear_value x2
  extract_lets +onlyGivenNames -underBinder -merge x3
  try clear_value x3
  extract_lets +onlyGivenNames -underBinder -merge x4
  try clear_value x4
  extract_lets +onlyGivenNames -underBinder -merge x5
  try clear_value x5
  extract_lets +onlyGivenNames -underBinder -merge x6
  try clear_value x6
  extract_lets +onlyGivenNames -underBinder -merge x7
  try clear_value x7
  extract_lets +onlyGivenNames -underBinder -merge x8
  try clear_value x8
  extract_lets +onlyGivenNames -underBinder -merge x9
  try clear_value x9
  extract_lets +onlyGivenNames -underBinder -merge x10
  have h10 : Keeps s0 x10 := by
    subst x10
    refine keeps_setProf ?_
    assumption
  try clear_value x10
  extract_lets +onlyGivenNames -underBinder -merge x11
  try clear_value x11
  extract_lets +onlyGivenNames -underBinder -merge x12
  have h12 : Keeps s0 x12 := by
    subst x12
    refine keeps_profOut ?_
    assumption
  try clear_value x12
  extract_lets +onlyGivenNames -underBinder -merge x13
  have h13 : Keeps s0 x13 := by
    subst x13
    refine keeps_seg ?_
    assumption
  try clear_value x13
  extract_lets +onlyGivenNames -underBinder -merge x14
  try clear_value x14
  refine keeps_ite ?_ ?_
  · refine keeps_setPf ?_
    assumption
  · assumption

theorem keeps_startTick {s0 : State} {s : State} {n : Nat} (hK : Keeps s0 s) :
    Keeps s0 (State.startTick s n) := by
  rw [show @State.startTick = _ from by delta State.startTick; rfl]
  extract_lets +onlyGivenNames -underBinder -merge x1
  try clear_value x1
  extract_lets +onlyGivenNames -underBinder -merge x2
  have h2 : Keeps s0 x2 := by
    subst x2
    refine keeps_setProf ?_
    assumption
  try clear_value x2
  refine keeps_ite ?_ ?_
  · refine keeps_iarTick ?_
    refine keeps_ite ?_ ?_
    · assumption
    · refine keeps_setPf ?_
      assumption
  · split
    · refine keeps_setPf ?_
      refine keeps_profOut ?_
      assumption
    · extract_lets +onlyGivenNames -underBinder -merge x3
      try clear_value x3
      extract_lets +onlyGivenNames -underBinder -merge x4
      have h4 : Keeps s0 x4 := by
        subst x4
        refine keeps_setProf ?_
        assumption
      try clear_value x4
      extract_lets +onlyGivenNames -underBinder -merge x5
      try clear_value x5
      extract_lets +onlyGivenNames -underBinder -merge x6
      try clear_value x6
      extract_lets +onlyGivenNames -underBinder -merge x7
      try clear_value x7
      extract_lets +onlyGivenNames -underBinder -merge x8
      have h8 : Keeps s0 x8 := by
        subst x8
        refine keeps_ite ?_ ?_
        · assumption
        · refine keeps_setPf ?_
          assumption
      try clear_value x8
      extract_lets +onlyGivenNames -underBinder -merge x9
      have h9 : Keeps s0 x9 := by
        subst x9
        refine keeps_seg ?_
        assumption
      try clear_value x9
      extract_lets +onlyGivenNames -underBinder -merge x10
      try clear_value x10
      extract_lets +onlyGivenNames -underBinder -merge x11
      subst x11
      try dsimp -zeta -proj only
      refine keeps_ite ?_ ?_
      · refine keeps_moveArrived ?_
        refine keeps_profOut ?_
        assumption
      · refine keeps_profOut ?_
        assumption

theorem keeps_moveTick {s0 : State} {s : State} {n : Nat} (hK : Keeps s0 s) :
    Keeps s0 (State.moveTick s n) := by
  rw [show @State.moveTick = _ from by delta State.moveTick; rfl]
  extract_lets +onlyGivenNames -underBinder -merge x1
  try clear_value x1
  extract_lets +onlyGivenNames -underBinder -merge x2
  try clear_value x2
  refine keeps_ite ?_ ?_
  · refine keeps_ite ?_ ?_
    · refine keeps_setPf ?_
      refine keeps_stopDone ?_
      refine keeps_setProf ?_
      assumption
    · refine keeps_startTick ?_
      assumption
  · refine keeps_ite ?_ ?_
    · refine keeps_iarTick ?_
      assumption
    · extract_lets +onlyGivenNames -underBinder -merge x3
      try clear_value x3
      extract_lets +onlyGivenNames -underBinder -merge x4
      try clear_value x4
      extract_lets +onlyGivenNames -underBinder -merge x5
      try clear_value x5
      extract_lets +onlyGivenNames -underBinder -merge x6
      try clear_value x6
      extract_lets +onlyGivenNames -underBinder -merge x7
      try clear_value x7
      extract_lets +onlyGivenNames -underBinder -merge x8
      subst x8
      try dsimp -zeta -proj only
      extract_lets +onlyGivenNames -underBinder -merge x9
      try clear_value x9
      extract_lets +onlyGivenNames -underBinder -merge x10
      try clear_value x10
      extract_lets +onlyGivenNames -underBinder -merge x11
      try clear_value x11
      extract_lets +onlyGivenNames -underBinder -merge x12
      try clear_value x12
      extract_lets +onlyGivenNames -underBinder -merge x13
      have h13 : Keeps s0 x13 := by
        subst x13
        refine keeps_ite ?_ ?_
        · refine keeps_fault ?_
          refine keeps_raise ?_
          refine keeps_incSat ?_
          refine keeps_putB ?_
          assumption
        · assumption
      try clear_value x13
      extract_lets +onlyGivenNames -underBinder -merge x14
      try clear_value x14
      extract_lets +onlyGivenNames -underBinder -merge x15
      try clear_value x15
      extract_lets +onlyGivenNames -underBinder -merge x16
      try clear_value x16
      extract_lets +onlyGivenNames -underBinder -merge x17
      try clear_value x17
      extract_lets +onlyGivenNames -underBinder -merge x18
      try clear_value x18
      refine keeps_ite ?_ ?_
      · extract_lets +onlyGivenNames -underBinder -merge x19
        try clear_value x19
        extract_lets +onlyGivenNames -underBinder -merge x20
        try clear_value x20
        refine keeps_ite ?_ ?_
        · refine keeps_moveStopped ?_
          refine keeps_profOut ?_
          refine keeps_seg ?_
          assumption
        · refine keeps_profOut ?_
          refine keeps_seg ?_
          assumption
      · extract_lets +onlyGivenNames -underBinder -merge x21
        try clear_value x21
        extract_lets +onlyGivenNames -underBinder -merge x22
        try clear_value x22
        refine keeps_ite ?_ ?_
        · extract_lets +onlyGivenNames -underBinder -merge x23
          have h23 : Keeps s0 x23 := by
            subst x23
            refine keeps_putB ?_
            assumption
          try clear_value x23
          extract_lets +onlyGivenNames -underBinder -merge x24
          try clear_value x24
          extract_lets +onlyGivenNames -underBinder -merge x25
          try clear_value x25
          extract_lets +onlyGivenNames -underBinder -merge x26
          try clear_value x26
          extract_lets +onlyGivenNames -underBinder -merge x27
          try clear_value x27
          extract_lets +onlyGivenNames -underBinder -merge x28
          try clear_value x28
          extract_lets +onlyGivenNames -underBinder -merge x29
          try clear_value x29
          extract_lets +onlyGivenNames -underBinder -merge x30
          have h30 : Keeps s0 x30 := by
            subst x30
            refine keeps_seg ?_
            assumption
          try clear_value x30
          refine keeps_ite ?_ ?_
          · refine keeps_moveArrived ?_
            refine keeps_profOut ?_
            assumption
          · refine keeps_profOut ?_
            assumption
        · extract_lets +onlyGivenNames -underBinder -merge x31
          try clear_value x31
          extract_lets +onlyGivenNames -underBinder -merge x32
          try clear_value x32
          extract_lets +onlyGivenNames -underBinder -merge x33
          try clear_value x33
          extract_lets +onlyGivenNames -underBinder -merge x34
          have h34 : Keeps s0 x34 := by
            subst x34
            refine keeps_seg ?_
            assumption
          try clear_value x34
          refine keeps_profOut ?_
          assumption

theorem keeps_addPayout {s0 : State} {s : State} {n : Nat} {d : Int} (hK : Keeps s0 s) :
    Keeps s0 (State.addPayout s n d) := by
  rw [show @State.addPayout = _ from by delta State.addPayout; rfl]
  extract_lets +onlyGivenNames -underBinder -merge x1
  try clear_value x1
  refine keeps_wr ?_
  refine keeps_setProf ?_
  assumption

theorem keeps_followTick {s0 : State} {s : State} {n : Nat} {angInc : Int} (hK : Keeps s0 s) :
    Keeps s0 (State.followTick s n angInc) := by
  rw [show @State.followTick = _ from by delta State.followTick; rfl]
  extract_lets +onlyGivenNames -underBinder -merge x1
  try clear_value x1
  extract_lets +onlyGivenNames -underBinder -merge x2
  have h2 : Keeps s0 x2 := by
    subst x2
    refine keeps_addPayout ?_
    assumption
  try clear_value x2
  extract_lets +onlyGivenNames -underBinder -merge x3
  try clear_value x3
  extract_lets +onlyGivenNames -underBinder -merge x4
  try clear_value x4
  extract_lets +onlyGivenNames -underBinder -merge x5
  have h5 : Keeps s0 x5 := by
    subst x5
    refine keeps_setProf ?_
    assumption
  try clear_value x5
  extract_lets +onlyGivenNames -underBinder -merge x6
  have h6 : Keeps s0 x6 := by
    subst x6
    refine keeps_wr ?_
    assumption
  try clear_value x6
  extract_lets +onlyGivenNames -underBinder -merge x7
  have h7 : Keeps s0 x7 := by
    subst x7
    refine keeps_putB ?_
    assumption
  try clear_value x7
  refine keeps_ite ?_ ?_
  · refine keeps_setProf ?_
    assumption
  · refine keeps_putB ?_
    assumption

theorem keeps_standTick {s0 : State} {s : State} {n : Nat} (hK : Keeps s0 s) :
    Keeps s0 (State.standTick s n) := by
  rw [show @State.standTick = _ from by delta State.standTick; rfl]
  extract_lets +onlyGivenNames -underBinder -merge x1
  try clear_value x1
  extract_lets +onlyGivenNames -underBinder -merge x2
  try clear_value x2
  extract_lets +onlyGivenNames -underBinder -merge x3
  have h3 : Keeps s0 x3 := by
    subst x3
    refine keeps_ite ?_ ?_
    · refine keeps_stopDone ?_
      assumption
    · assumption
  try clear_value x3
  extract_lets +onlyGivenNames -underBinder -merge x4
  try clear_value x4
  extract_lets +onlyGivenNames -underBinder -merge x5
  have h5 : Keeps s0 x5 := by
    subst x5
    refine keeps_setProf ?_
    assumption
  try clear_value x5
  extract_lets +onlyGivenNames -underBinder -merge x6
  have h6 : Keeps s0 x6 := by
    subst x6
    refine keeps_wr ?_
    assumption
  try clear_value x6
  split
  · extract_lets +onlyGivenNames -underBinder -merge x7
    try clear_value x7
    extract_lets +onlyGivenNames -underBinder -merge x8
    have h8 : Keeps s0 x8 := by
      subst x8
      refine keeps_setProf ?_
      assumption
    try clear_value x8
    refine keeps_ite ?_ ?_
    · refine keeps_setPf ?_
      assumption
    · assumption
  · refine keeps_ite ?_ ?_
    · extract_lets +onlyGivenNames -underBinder -merge x9
      have h9 : Keeps s0 x9 := by
        subst x9
        refine keeps_ite ?_ ?_
        · refine keeps_setHoldk ?_
          assumption
        · assumption
      try clear_value x9
      refine keeps_ite ?_ ?_
      · refine keeps_setPf ?_
        assumption
      · refine keeps_startTick ?_
        refine keeps_setPf ?_
        assumption
    · refine keeps_ite ?_ ?_
      · refine keeps_ite ?_ ?_
        · refine keeps_startTick ?_
          refine keeps_setPf ?_
          assumption
        · assumption
      · refine keeps_ite ?_ ?_
        · refine keeps_ite ?_ ?_
          · refine keeps_setPf ?_
            refine keeps_setBrake ?_
            assumption
          · assumption
        · refine keeps_ite ?_ ?_
          · refine keeps_setPf ?_
            refine keeps_setHoldk ?_
            assumption
          · assumption

theorem keeps_rampTick {s0 : State} {s : State} {n : Nat} (hK : Keeps s0 s) :
    Keeps s0 (State.rampTick s n) := by
  rw [show @State.rampTick = _ from by delta State.rampTick; rfl]
  extract_lets +onlyGivenNames -underBinder -merge x1
  try clear_value x1
  extract_lets +onlyGivenNames -underBinder -merge x2
  try clear_value x2
  extract_lets +onlyGivenNames -underBinder -merge x3
  try clear_value x3
  extract_lets +onlyGivenNames -underBinder -merge x4
  have h4 : Keeps s0 x4 := by
    subst x4
    refine keeps_setProf ?_
    assumption
  try clear_value x4
  refine keeps_setHoldk ?_
  assumption

theorem keeps_iarStart {s0 : State} {s : State} {n : Nat} (hK : Keeps s0 s) :
    Keeps s0 (State.iarStart s n) := by
  rw [show @State.iarStart = _ from by delta State.iarStart; rfl]
  extract_lets +onlyGivenNames -underBinder -merge x1
  try clear_value x1
  refine keeps_ite ?_ ?_
  · refine keeps_setProf ?_
    assumption
  · assumption

theorem keeps_profTick {s0 : State} {s : State} {n : Nat} {angInc : Int} (hK : Keeps s0 s) :
    Keeps s0 (State.profTick s n angInc) := by
  rw [show @State.profTick = _ from by delta State.profTick; rfl]
  extract_lets +onlyGivenNames -underBinder -merge x1
  have h1 : Keeps s0 x1 := by
    subst x1
    refine keeps_crashCheck ?_
    refine keeps_iarStart ?_
    assumption
  try clear_value x1
  extract_lets +onlyGivenNames -underBinder -merge x2
  have h2 : Keeps s0 x2 := by
    subst x2
    refine keeps_noticeTick ?_
    assumption
  try clear_value x2
  extract_lets +onlyGivenNames -underBinder -merge x3
  try clear_value x3
  extract_lets +onlyGivenNames -underBinder -merge x4
  try clear_value x4
  extract_lets +onlyGivenNames -underBinder -merge x5
  have h5 : Keeps s0 x5 := by
    subst x5
    refine keeps_ite ?_ ?_
    · refine keeps_addPayout ?_
      assumption
    · assumption
  try clear_value x5
  extract_lets +onlyGivenNames -underBinder -merge x6
  have h6 : Keeps s0 x6 := by
    subst x6
    refine keeps_standTick ?_
    assumption
  try clear_value x6
  extract_lets +onlyGivenNames -underBinder -merge x7
  have h7 : Keeps s0 x7 := by
    subst x7
    refine keeps_ite ?_ ?_
    · assumption
    · refine keeps_ite ?_ ?_
      · refine keeps_setProf ?_
        assumption
      · refine keeps_ite ?_ ?_
        · refine keeps_moveTick ?_
          assumption
        · refine keeps_ite ?_ ?_
          · refine keeps_followTick ?_
            assumption
          · refine keeps_ite ?_ ?_
            · refine keeps_rampTick ?_
              assumption
            · assumption
  try clear_value x7
  refine keeps_setProf ?_
  assumption

theorem keeps_dwellOver {s0 : State} {s : State} {n : Nat} (hK : Keeps s0 s) :
    Keeps s0 (State.dwellOver s n) := by
  rw [show @State.dwellOver = _ from by delta State.dwellOver; rfl]
  split
  · refine keeps_setPf ?_
    refine keeps_setProf ?_
    assumption
  · refine keeps_setPf ?_
    assumption

theorem keeps_execDwellEnd {s0 : State} {n : CrewNo} {s : State} (hK : Keeps s0 s) :
    Goes s0 (execDwellEnd n s) := by
  rw [show @execDwellEnd = _ from by delta execDwellEnd; rfl]
  refine goes_ite ?_ ?_
  · refine goes_next ?_
    refine keeps_dwellOver ?_
    refine keeps_until ?_
    assumption
  · refine goes_next ?_
    assumption

theorem keeps_standPolicy {s0 : State} {s : State} {n : Nat} (hK : Keeps s0 s) :
    Keeps s0 (State.standPolicy s n) := by
  rw [show @State.standPolicy = _ from by delta State.standPolicy; rfl]
  split
  · refine keeps_setPf ?_
    refine keeps_setHoldk ?_
    assumption
  · extract_lets +onlyGivenNames -underBinder -merge x1
    have h1 : Keeps s0 x1 := by
      subst x1
      refine keeps_raise ?_
      refine keeps_setBrake ?_
      assumption
    try clear_value x1
    refine keeps_setPf ?_
    refine keeps_setProf ?_
    assumption
  · assumption

theorem keeps_execStandstillDelayEnd {s0 : State} {n : CrewNo} {s : State} (hK : Keeps s0 s) :
    Goes s0 (execStandstillDelayEnd n s) := by
  rw [show @execStandstillDelayEnd = _ from by delta execStandstillDelayEnd; rfl]
  refine goes_ite ?_ ?_
  · refine goes_next ?_
    refine keeps_standPolicy ?_
    refine keeps_until ?_
    assumption
  · refine goes_next ?_
    assumption

theorem keeps_startRamp {s0 : State} {s : State} {n : Nat} (hK : Keeps s0 s) :
    Keeps s0 (State.startRamp s n) := by
  rw [show @State.startRamp = _ from by delta State.startRamp; rfl]
  refine keeps_setPf ?_
  refine keeps_setProf ?_
  assumption

theorem keeps_brakeOpen {s0 : State} {s : State} {n : Nat} (hK : Keeps s0 s) :
    Keeps s0 (State.brakeOpen s n) := by
  rw [show @State.brakeOpen = _ from by delta State.brakeOpen; rfl]
  refine keeps_profGo ?_
  refine keeps_raise ?_
  assumption

theorem keeps_execBrakeTsetEnd {s0 : State} {n : CrewNo} {s : State} (hK : Keeps s0 s) :
    Goes s0 (execBrakeTsetEnd n s) := by
  rw [show @execBrakeTsetEnd = _ from by delta execBrakeTsetEnd; rfl]
  refine goes_ite ?_ ?_
  · extract_lets +onlyGivenNames -underBinder -merge x1
    have h1 : Keeps s0 x1 := by
      subst x1
      refine keeps_until ?_
      assumption
    try clear_value x1
    refine goes_ite ?_ ?_
    · refine goes_next ?_
      refine keeps_startRamp ?_
      assumption
    · extract_lets +onlyGivenNames -underBinder -merge x2
      have h2 : Keeps s0 x2 := by
        subst x2
        refine keeps_fault ?_
        refine keeps_raise ?_
        assumption
      try clear_value x2
      refine goes_next ?_
      refine keeps_setProf ?_
      assumption
  · refine goes_next ?_
    assumption

theorem keeps_execBrakeTpreEnd {s0 : State} {n : CrewNo} {s : State} (hK : Keeps s0 s) :
    Goes s0 (execBrakeTpreEnd n s) := by
  rw [show @execBrakeTpreEnd = _ from by delta execBrakeTpreEnd; rfl]
  refine goes_ite ?_ ?_
  · extract_lets +onlyGivenNames -underBinder -merge x1
    have h1 : Keeps s0 x1 := by
      subst x1
      refine keeps_until ?_
      assumption
    try clear_value x1
    refine goes_next ?_
    refine keeps_setProf ?_
    refine keeps_setBrake ?_
    assumption
  · refine goes_next ?_
    assumption

theorem keeps_execBrakeTopenEnd {s0 : State} {n : CrewNo} {s : State} (hK : Keeps s0 s) :
    Goes s0 (execBrakeTopenEnd n s) := by
  rw [show @execBrakeTopenEnd = _ from by delta execBrakeTopenEnd; rfl]
  refine goes_ite ?_ ?_
  · extract_lets +onlyGivenNames -underBinder -merge x1
    have h1 : Keeps s0 x1 := by
      subst x1
      refine keeps_until ?_
      assumption
    try clear_value x1
    refine goes_ite ?_ ?_
    · refine goes_next ?_
      refine keeps_brakeOpen ?_
      assumption
    · extract_lets +onlyGivenNames -underBinder -merge x2
      have h2 : Keeps s0 x2 := by
        subst x2
        refine keeps_fault ?_
        refine keeps_raise ?_
        assumption
      try clear_value x2
      extract_lets +onlyGivenNames -underBinder -merge x3
      have h3 : Keeps s0 x3 := by
        subst x3
        refine keeps_profNoGoal ?_
        refine keeps_setBrake ?_
        assumption
      try clear_value x3
      refine goes_next ?_
      refine keeps_startRamp ?_
      assumption
  · refine goes_next ?_
    assumption

theorem keeps_execBrakeFeedback {s0 : State} {n : CrewNo} {level : Bool} {s : State} (hK : Keeps s0 s) :
    Goes s0 (execBrakeFeedback n level s) := by
  rw [show @execBrakeFeedback = _ from by delta execBrakeFeedback; rfl]
  refine goes_ite ?_ ?_
  · refine goes_next ?_
    assumption
  · extract_lets +onlyGivenNames -underBinder -merge x1
    have h1 : Keeps s0 x1 := by
      subst x1
      refine keeps_setBitAt ?_
      assumption
    try clear_value x1
    extract_lets +onlyGivenNames -underBinder -merge x2
    try clear_value x2
    extract_lets +onlyGivenNames -underBinder -merge x3
    have h3 : Keeps s0 x3 := by
      subst x3
      refine keeps_putB ?_
      assumption
    try clear_value x3
    refine goes_ite ?_ ?_
    · refine goes_next ?_
      refine keeps_startRamp ?_
      assumption
    · refine goes_ite ?_ ?_
      · refine goes_next ?_
        refine keeps_brakeOpen ?_
        assumption
      · refine goes_next ?_
        assumption

theorem keeps_execTrelRampEnd {s0 : State} {n : CrewNo} {s : State} (hK : Keeps s0 s) :
    Goes s0 (execTrelRampEnd n s) := by
  rw [show @execTrelRampEnd = _ from by delta execTrelRampEnd; rfl]
  refine goes_ite ?_ ?_
  · extract_lets +onlyGivenNames -underBinder -merge x1
    have h1 : Keeps s0 x1 := by
      subst x1
      refine keeps_setPf ?_
      refine keeps_setHoldk ?_
      assumption
    try clear_value x1
    refine goes_ite ?_ ?_
    · refine goes_next ?_
      refine keeps_crewStop ?_
      assumption
    · refine goes_next ?_
      assumption
  · refine goes_next ?_
    assumption

theorem keeps_crashIgn {s0 s : State} {n : Nat} {f : State → State} (hf : ∀ y, Keeps s0 y → Keeps s0 (f y)) (h : Keeps s0 s) :
    Keeps s0 (s.crashIgn n f) := keeps_ite (keeps_raise h) (hf _ h)

theorem keeps_goalWritten {s0 : State} {s : State} {n : Nat} (hK : Keeps s0 s) :
    Keeps s0 (State.goalWritten s n) := by
  rw [show @State.goalWritten = _ from by delta State.goalWritten; rfl]
  extract_lets +onlyGivenNames -underBinder -merge x1
  try clear_value x1
  refine keeps_setProf ?_
  assumption

theorem keeps_profTgtH {s0 : State} {s : State} {n : Nat} {v : Word} (hK : Keeps s0 s) :
    Keeps s0 (State.profTgtH s n v) := by
  rw [show @State.profTgtH = _ from by delta State.profTgtH; rfl]
  refine keeps_crashIgn (fun y1 h1 => ?_) ?_
  · extract_lets +onlyGivenNames -underBinder -merge x2
    have h2 : Keeps s0 x2 := by
      subst x2
      refine keeps_wr ?_
      assumption
    try clear_value x2
    extract_lets +onlyGivenNames -underBinder -merge x3
    try clear_value x3
    refine keeps_goalWritten ?_
    refine keeps_putB ?_
    refine keeps_setProf ?_
    assumption
  · assumption

theorem keeps_execProfTgtHWrite {s0 : State} {n : CrewNo} {v : Word} {s : State} (hK : Keeps s0 s) :
    Goes s0 (execProfTgtHWrite n v s) := by
  rw [show @execProfTgtHWrite = _ from by delta execProfTgtHWrite; rfl]
  refine keeps_onRegW (fun a1_0 y1 h1 => ?_) ?_
  · refine goes_next ?_
    refine keeps_profTgtH ?_
    assumption
  · assumption

theorem keeps_profVtgt {s0 : State} {s : State} {n : Nat} {v : Word} (hK : Keeps s0 s) :
    Keeps s0 (State.profVtgt s n v) := by
  rw [show @State.profVtgt = _ from by delta State.profVtgt; rfl]
  refine keeps_crashIgn (fun y1 h1 => ?_) ?_
  · refine keeps_goalWritten ?_
    refine keeps_wr ?_
    assumption
  · assumption

theorem keeps_execProfVtgtWrite {s0 : State} {n : CrewNo} {v : Word} {s : State} (hK : Keeps s0 s) :
    Goes s0 (execProfVtgtWrite n v s) := by
  rw [show @execProfVtgtWrite = _ from by delta execProfVtgtWrite; rfl]
  refine keeps_onRegW (fun a1_0 y1 h1 => ?_) ?_
  · refine goes_next ?_
    refine keeps_profVtgt ?_
    assumption
  · assumption

theorem keeps_profModeWr {s0 : State} {s : State} {n m : Nat} (hK : Keeps s0 s) :
    Keeps s0 (State.profModeWr s n m) := by
  rw [show @State.profModeWr = _ from by delta State.profModeWr; rfl]
  refine keeps_crashIgn (fun y1 h1 => ?_) ?_
  · refine keeps_ite ?_ ?_
    · assumption
    · extract_lets +onlyGivenNames -underBinder -merge x2
      have h2 : Keeps s0 x2 := by
        subst x2
        refine keeps_put ?_
        assumption
      try clear_value x2
      extract_lets +onlyGivenNames -underBinder -merge x3
      try clear_value x3
      extract_lets +onlyGivenNames -underBinder -merge x4
      have h4 : Keeps s0 x4 := by
        subst x4
        refine keeps_ite ?_ ?_
        · refine keeps_setProf ?_
          assumption
        · assumption
      try clear_value x4
      refine keeps_goalWritten ?_
      assumption
  · assumption

theorem keeps_execProfModeWrite {s0 : State} {n : CrewNo} {m : BitVec 2} {s : State} (hK : Keeps s0 s) :
    Goes s0 (execProfModeWrite n m s) := by
  rw [show @execProfModeWrite = _ from by delta execProfModeWrite; rfl]
  refine goes_onReg (fun y1 h1 => ?_) ?_
  · refine goes_next ?_
    refine keeps_profModeWr ?_
    assumption
  · assumption

theorem keeps_profHalt {s0 : State} {s : State} {n : Nat} {quick : Bool} (hK : Keeps s0 s) :
    Keeps s0 (State.profHalt s n quick) := by
  rw [show @State.profHalt = _ from by delta State.profHalt; rfl]
  refine keeps_crashIgn (fun y1 h1 => ?_) ?_
  · extract_lets +onlyGivenNames -underBinder -merge x2
    try clear_value x2
    refine keeps_freezeRef ?_
    refine keeps_setProf ?_
    assumption
  · assumption

theorem keeps_execProfStop {s0 : State} {n : CrewNo} {s : State} (hK : Keeps s0 s) :
    Goes s0 (execProfStop n s) := by
  rw [show @execProfStop = _ from by delta execProfStop; rfl]
  refine goes_onReg (fun y1 h1 => ?_) ?_
  · refine goes_next ?_
    refine keeps_profHalt ?_
    assumption
  · assumption

theorem keeps_execProfHaltq {s0 : State} {n : CrewNo} {s : State} (hK : Keeps s0 s) :
    Goes s0 (execProfHaltq n s) := by
  rw [show @execProfHaltq = _ from by delta execProfHaltq; rfl]
  refine goes_onReg (fun y1 h1 => ?_) ?_
  · refine goes_next ?_
    refine keeps_profHalt ?_
    assumption
  · assumption

theorem keeps_profParam {s0 : State} {s : State} {n i : Nat} {v : Word} (hK : Keeps s0 s) :
    Keeps s0 (State.profParam s n i v) := by
  rw [show @State.profParam = _ from by delta State.profParam; rfl]
  extract_lets +onlyGivenNames -underBinder -merge x1
  try clear_value x1
  extract_lets +onlyGivenNames -underBinder -merge x2
  try clear_value x2
  extract_lets +onlyGivenNames -underBinder -merge x3
  have h3 : Keeps s0 x3 := by
    subst x3
    refine keeps_wr ?_
    assumption
  try clear_value x3
  refine keeps_ite ?_ ?_
  · assumption
  · refine keeps_fault ?_
    assumption

theorem keeps_execProfParamWrite {s0 : State} {n : CrewNo} {i : Fin 10} {v : Word} {s : State} (hK : Keeps s0 s) :
    Goes s0 (execProfParamWrite n i v s) := by
  rw [show @execProfParamWrite = _ from by delta execProfParamWrite; rfl]
  refine keeps_onRegW (fun a1_0 y1 h1 => ?_) ?_
  · refine goes_next ?_
    refine keeps_profParam ?_
    assumption
  · assumption

theorem keeps_iarPer {s0 : State} {s : State} {n v : Nat} (hK : Keeps s0 s) :
    Keeps s0 (State.iarPer s n v) := by
  rw [show @State.iarPer = _ from by delta State.iarPer; rfl]
  refine keeps_ite ?_ ?_
  · refine keeps_put ?_
    assumption
  · refine keeps_fault ?_
    assumption

theorem keeps_execIarPerWrite {s0 : State} {n : CrewNo} {us : BitVec 10} {s : State} (hK : Keeps s0 s) :
    Goes s0 (execIarPerWrite n us s) := by
  rw [show @execIarPerWrite = _ from by delta execIarPerWrite; rfl]
  refine goes_onReg (fun y1 h1 => ?_) ?_
  · refine goes_next ?_
    refine keeps_iarPer ?_
    assumption
  · assumption

theorem keeps_setpH {s0 : State} {s : State} {n : Nat} {v : Word} (hK : Keeps s0 s) :
    Keeps s0 (State.setpH s n v) := by
  rw [show @State.setpH = _ from by delta State.setpH; rfl]
  extract_lets +onlyGivenNames -underBinder -merge x1
  have h1 : Keeps s0 x1 := by
    subst x1
    refine keeps_wr ?_
    assumption
  try clear_value x1
  extract_lets +onlyGivenNames -underBinder -merge x2
  try clear_value x2
  refine keeps_setProf ?_
  assumption

theorem keeps_execSetpHWrite {s0 : State} {n : CrewNo} {v : Word} {s : State} (hK : Keeps s0 s) :
    Goes s0 (execSetpHWrite n v s) := by
  rw [show @execSetpHWrite = _ from by delta execSetpHWrite; rfl]
  refine keeps_onRegW (fun a1_0 y1 h1 => ?_) ?_
  · refine goes_next ?_
    refine keeps_setpH ?_
    assumption
  · assumption

theorem keeps_execIarumPeriodBoundary {s0 : State} {n : CrewNo} {s : State} (hK : Keeps s0 s) :
    Goes s0 (execIarumPeriodBoundary n s) := by
  rw [show @execIarumPeriodBoundary = _ from by delta execIarumPeriodBoundary; rfl]
  split
  · refine goes_next ?_
    assumption
  · refine goes_ite ?_ ?_
    · refine goes_next ?_
      assumption
    · extract_lets +onlyGivenNames -underBinder -merge x1
      have h1 : Keeps s0 x1 := by
        subst x1
        refine keeps_advanceTb ?_
        assumption
      try clear_value x1
      extract_lets +onlyGivenNames -underBinder -merge x2
      try clear_value x2
      extract_lets +onlyGivenNames -underBinder -merge x3
      have h3 : Keeps s0 x3 := by
        subst x3
        refine keeps_ite ?_ ?_
        · assumption
        · refine keeps_fault ?_
          assumption
      try clear_value x3
      extract_lets +onlyGivenNames -underBinder -merge x4
      have h4 : Keeps s0 x4 := by
        subst x4
        refine keeps_ite ?_ ?_
        · refine keeps_putB ?_
          refine keeps_raise ?_
          refine keeps_incSat ?_
          assumption
        · refine keeps_putB ?_
          assumption
      try clear_value x4
      extract_lets +onlyGivenNames -underBinder -merge x5
      try clear_value x5
      split
      · refine goes_next ?_
        refine keeps_setProf ?_
        assumption
      · refine goes_ite ?_ ?_
        · extract_lets +onlyGivenNames -underBinder -merge x6
          have h6 : Keeps s0 x6 := by
            subst x6
            refine keeps_setProf ?_
            assumption
          try clear_value x6
          refine goes_next ?_
          refine keeps_raise ?_
          refine keeps_incSat ?_
          assumption
        · refine goes_ite ?_ ?_
          · refine goes_next ?_
            refine keeps_fault ?_
            refine keeps_setProf ?_
            assumption
          · refine goes_next ?_
            refine keeps_setProf ?_
            assumption

theorem keeps_readProfPos {s0 : State} {s : State} {n : Nat} (hK : Keeps s0 s) :
    Keeps s0 (State.readProfPos s n).2 := by
  rw [show @State.readProfPos = _ from by delta State.readProfPos; rfl]
  extract_lets +onlyGivenNames -underBinder -merge x1
  try clear_value x1
  extract_lets +onlyGivenNames -underBinder -merge x2
  have h2 : Keeps s0 x2 := by
    subst x2
    refine keeps_wr ?_
    assumption
  try clear_value x2
  refine keeps_readLatch ?_
  assumption

theorem keeps_execProfPosLRead {s0 : State} {n : CrewNo} {s : State} (hK : Keeps s0 s) :
    Goes s0 (execProfPosLRead n s) := by
  rw [show @execProfPosLRead = _ from by delta execProfPosLRead; rfl]
  refine goes_onRegRead (fun y1 h1 => ?_) ?_
  · split
    · rename_i heq
      have h2 := keeps_of_eqP (s0 := s0) heq (by
        refine keeps_readProfPos ?_
        assumption)
      refine goes_next ?_
      refine keeps_mk ?_
      assumption
  · assumption

end Sys2Proof.Machine
end

