-- ==== Sys2Proof/Laws/KeepsCatch.lean ====
section
/-! SUPPORT. Laws/KeepsCatch.lean: what the operations of Machine/Catch.lean keep. -/
namespace Sys2Proof.Machine

theorem keeps_ledgerComplete {s0 : State} {s : State} {n : Nat} (hK : Keeps s0 s) :
    Keeps s0 (State.ledgerComplete s n) := by
  rw [show @State.ledgerComplete = _ from by delta State.ledgerComplete; rfl]
  extract_lets +onlyGivenNames -underBinder -merge x1
  try clear_value x1
  refine keeps_ite ?_ ?_
  · assumption
  · extract_lets +onlyGivenNames -underBinder -merge x2
    try clear_value x2
    extract_lets +onlyGivenNames -underBinder -merge x3
    try clear_value x3
    extract_lets +onlyGivenNames -underBinder -merge x4
    try clear_value x4
    extract_lets +onlyGivenNames -underBinder -merge x5
    try clear_value x5
    extract_lets +onlyGivenNames -underBinder -merge x6
    have h6 : Keeps s0 x6 := by
      subst x6
      refine keeps_wr ?_
      assumption
    try clear_value x6
    extract_lets +onlyGivenNames -underBinder -merge x7
    have h7 : Keeps s0 x7 := by
      subst x7
      refine keeps_wr ?_
      assumption
    try clear_value x7
    extract_lets +onlyGivenNames -underBinder -merge x8
    have h8 : Keeps s0 x8 := by
      subst x8
      refine keeps_wr ?_
      assumption
    try clear_value x8
    refine keeps_put ?_
    assumption

theorem keeps_ledgerOpen {s0 : State} {s : State} {n seq : Nat} {take : Bool} (hK : Keeps s0 s) :
    Keeps s0 (State.ledgerOpen s n seq take) := by
  rw [show @State.ledgerOpen = _ from by delta State.ledgerOpen; rfl]
  extract_lets +onlyGivenNames -underBinder -merge x1
  have h1 : Keeps s0 x1 := by
    subst x1
    refine keeps_wr ?_
    assumption
  try clear_value x1
  extract_lets +onlyGivenNames -underBinder -merge x2
  try clear_value x2
  extract_lets +onlyGivenNames -underBinder -merge x3
  have h3 : Keeps s0 x3 := by
    subst x3
    refine keeps_wr ?_
    assumption
  try clear_value x3
  extract_lets +onlyGivenNames -underBinder -merge x4
  have h4 : Keeps s0 x4 := by
    subst x4
    refine keeps_wr ?_
    assumption
  try clear_value x4
  refine keeps_setCrew ?_
  assumption

theorem keeps_enterRun {s0 : State} {s : State} {n : Nat} (hK : Keeps s0 s) :
    Keeps s0 (State.enterRun s n) := by
  rw [show @State.enterRun = _ from by delta State.enterRun; rfl]
  extract_lets +onlyGivenNames -underBinder -merge x1
  have h1 : Keeps s0 x1 := by
    subst x1
    refine keeps_setCrewState ?_
    assumption
  try clear_value x1
  extract_lets +onlyGivenNames -underBinder -merge x2
  have h2 : Keeps s0 x2 := by
    subst x2
    refine keeps_profCrewState ?_
    assumption
  try clear_value x2
  refine keeps_ite ?_ ?_
  · refine keeps_loopL (fun a3_0 y3 h3 => ?_) ?_
    · refine keeps_levelNow ?_
      refine keeps_setCrew ?_
      assumption
    · assumption
  · extract_lets +onlyGivenNames -underBinder -merge x4
    try clear_value x4
    extract_lets +onlyGivenNames -underBinder -merge x5
    have h5 : Keeps s0 x5 := by
      subst x5
      refine keeps_setCrew ?_
      assumption
    try clear_value x5
    extract_lets +onlyGivenNames -underBinder -merge x6
    have h6 : Keeps s0 x6 := by
      subst x6
      refine keeps_chopLatch ?_
      refine keeps_chopLatch ?_
      assumption
    try clear_value x6
    refine keeps_ite ?_ ?_
    · extract_lets +onlyGivenNames -underBinder -merge x7
      have h7 : Keeps s0 x7 := by
        subst x7
        refine keeps_chopBegin ?_
        assumption
      try clear_value x7
      refine keeps_ite ?_ ?_
      · refine keeps_chopBegin ?_
        assumption
      · assumption
    · assumption

theorem keeps_takeLead {s0 : State} {s : State} {n : Nat} (hK : Keeps s0 s) :
    Keeps s0 (State.takeLead s n) := by
  rw [show @State.takeLead = _ from by delta State.takeLead; rfl]
  refine keeps_ite ?_ ?_
  · extract_lets +onlyGivenNames -underBinder -merge x1
    have h1 : Keeps s0 x1 := by
      subst x1
      refine keeps_loopL (fun a2_0 y2 h2 => ?_) ?_
      · refine keeps_putB ?_
        assumption
      · assumption
    try clear_value x1
    extract_lets +onlyGivenNames -underBinder -merge x3
    have h3 : Keeps s0 x3 := by
      subst x3
      refine keeps_raise ?_
      refine keeps_putB ?_
      assumption
    try clear_value x3
    refine keeps_setCrew ?_
    assumption
  · assumption

theorem keeps_tandemInputs {s0 : State} {s : State} {n : Nat} (hK : Keeps s0 s) :
    Keeps s0 (State.tandemInputs s n) := by
  rw [show @State.tandemInputs = _ from by delta State.tandemInputs; rfl]
  refine keeps_ite ?_ ?_
  · extract_lets +onlyGivenNames -underBinder -merge x1
    subst x1
    try dsimp -zeta -proj only
    refine keeps_loopL (fun a2_0 y2 h2 => ?_) ?_
    · extract_lets +onlyGivenNames -underBinder -merge x3
      try clear_value x3
      extract_lets +onlyGivenNames -underBinder -merge x4
      try clear_value x4
      refine keeps_wr ?_
      assumption
    · assumption
  · assumption

theorem keeps_wakeCatch {s0 : State} {s : State} {n seq prev : Nat} (hK : Keeps s0 s) :
    Keeps s0 (State.wakeCatch s n seq prev) := by
  rw [show @State.wakeCatch = _ from by delta State.wakeCatch; rfl]
  split
  · assumption
  · extract_lets +onlyGivenNames -underBinder -merge x1
    try clear_value x1
    refine keeps_ite ?_ ?_
    · assumption
    · extract_lets +onlyGivenNames -underBinder -merge x2
      have h2 : Keeps s0 x2 := by
        subst x2
        refine keeps_ite ?_ ?_
        · refine keeps_profResume ?_
          refine keeps_setCrew ?_
          assumption
        · refine keeps_setCrew ?_
          assumption
      try clear_value x2
      extract_lets +onlyGivenNames -underBinder -merge x3
      try clear_value x3
      extract_lets +onlyGivenNames -underBinder -merge x4
      try clear_value x4
      refine keeps_ite ?_ ?_
      · assumption
      · refine keeps_ite ?_ ?_
        · refine keeps_setTask ?_
          assumption
        · refine keeps_ite ?_ ?_
          · assumption
          · refine keeps_fault ?_
            refine keeps_setTask ?_
            assumption

theorem keeps_catchLatch {s0 : State} {s : State} {n seq : Nat} (hK : Keeps s0 s) :
    Keeps s0 (State.catchLatch s n seq) := by
  rw [show @State.catchLatch = _ from by delta State.catchLatch; rfl]
  extract_lets +onlyGivenNames -underBinder -merge x1
  have h1 : Keeps s0 x1 := by
    subst x1
    refine keeps_ledgerOpen ?_
    assumption
  try clear_value x1
  extract_lets +onlyGivenNames -underBinder -merge x2
  try clear_value x2
  extract_lets +onlyGivenNames -underBinder -merge x3
  have h3 : Keeps s0 x3 := by
    subst x3
    refine keeps_setCrew ?_
    assumption
  try clear_value x3
  extract_lets +onlyGivenNames -underBinder -merge x4
  try clear_value x4
  extract_lets +onlyGivenNames -underBinder -merge x5
  have h5 : Keeps s0 x5 := by
    subst x5
    refine keeps_catchMeter ?_
    refine keeps_catchMeasure ?_
    assumption
  try clear_value x5
  extract_lets +onlyGivenNames -underBinder -merge x6
  have h6 : Keeps s0 x6 := by
    subst x6
    refine keeps_catchSwaps ?_
    refine keeps_auxCatch ?_
    assumption
  try clear_value x6
  extract_lets +onlyGivenNames -underBinder -merge x7
  have h7 : Keeps s0 x7 := by
    subst x7
    refine keeps_tandemInputs ?_
    refine keeps_takeLead ?_
    assumption
  try clear_value x7
  extract_lets +onlyGivenNames -underBinder -merge x8
  have h8 : Keeps s0 x8 := by
    subst x8
    refine keeps_catchLimits ?_
    assumption
  try clear_value x8
  refine keeps_ite ?_ ?_
  · refine keeps_enterRun ?_
    assumption
  · assumption

theorem keeps_catchRun {s0 : State} {s : State} {n : Nat} (hK : Keeps s0 s) :
    Keeps s0 (State.catchRun s n) := by
  rw [show @State.catchRun = _ from by delta State.catchRun; rfl]
  extract_lets +onlyGivenNames -underBinder -merge x1
  try clear_value x1
  extract_lets +onlyGivenNames -underBinder -merge x2
  have h2 : Keeps s0 x2 := by
    subst x2
    refine keeps_setCrew ?_
    assumption
  try clear_value x2
  extract_lets +onlyGivenNames -underBinder -merge x3
  try clear_value x3
  extract_lets +onlyGivenNames -underBinder -merge x4
  have h4 : Keeps s0 x4 := by
    subst x4
    refine keeps_ledgerComplete ?_
    assumption
  try clear_value x4
  refine keeps_wakeCatch ?_
  refine keeps_catchLatch ?_
  assumption

theorem keeps_execCatch {s0 : State} {n : CrewNo} {s : State} (hK : Keeps s0 s) :
    Goes s0 (execCatch n s) := by
  rw [show @execCatch = _ from by delta execCatch; rfl]
  split
  · refine goes_next ?_
    assumption
  · refine goes_next ?_
    refine keeps_catchRun ?_
    refine keeps_advanceTb ?_
    assumption

theorem keeps_idleTick {s0 : State} {s : State} {n : Nat} (hK : Keeps s0 s) :
    Keeps s0 (State.idleTick s n) := by
  rw [show @State.idleTick = _ from by delta State.idleTick; rfl]
  extract_lets +onlyGivenNames -underBinder -merge x1
  have h1 : Keeps s0 x1 := by
    subst x1
    refine keeps_ite ?_ ?_
    · refine keeps_angleTick ?_
      assumption
    · assumption
  try clear_value x1
  refine keeps_applyCmds ?_
  assumption

theorem keeps_crewTick {s0 : State} {s : State} {n : Nat} (hK : Keeps s0 s) :
    Keeps s0 (State.crewTick s n) := by
  rw [show @State.crewTick = _ from by delta State.crewTick; rfl]
  extract_lets +onlyGivenNames -underBinder -merge x1
  have h1 : Keeps s0 x1 := by
    subst x1
    refine keeps_posLossTick ?_
    assumption
  try clear_value x1
  extract_lets +onlyGivenNames -underBinder -merge x2
  try clear_value x2
  extract_lets +onlyGivenNames -underBinder -merge x3
  have h3 : Keeps s0 x3 := by
    subst x3
    refine keeps_profTick ?_
    assumption
  try clear_value x3
  extract_lets +onlyGivenNames -underBinder -merge x4
  try clear_value x4
  extract_lets +onlyGivenNames -underBinder -merge x5
  have h5 : Keeps s0 x5 := by
    subst x5
    refine keeps_angleTick ?_
    assumption
  try clear_value x5
  extract_lets +onlyGivenNames -underBinder -merge x6
  have h6 : Keeps s0 x6 := by
    subst x6
    refine keeps_applyCmds ?_
    assumption
  try clear_value x6
  extract_lets +onlyGivenNames -underBinder -merge x7
  have h7 : Keeps s0 x7 := by
    subst x7
    refine keeps_crewTickEdges ?_
    assumption
  try clear_value x7
  extract_lets +onlyGivenNames -underBinder -merge x8
  have h8 : Keeps s0 x8 := by
    subst x8
    refine keeps_immediateTick ?_
    assumption
  try clear_value x8
  refine keeps_guardTick ?_
  assumption

theorem keeps_execTasTick {s0 : State} {s : State} (hK : Keeps s0 s) :
    Goes s0 (execTasTick s) := by
  rw [show @execTasTick = _ from by delta execTasTick; rfl]
  refine goes_ite ?_ ?_
  · refine goes_next ?_
    assumption
  · extract_lets +onlyGivenNames -underBinder -merge x1
    try clear_value x1
    extract_lets +onlyGivenNames -underBinder -merge x2
    have h2 : Keeps s0 x2 := by
      subst x2
      refine keeps_advanceTb ?_
      assumption
    try clear_value x2
    extract_lets +onlyGivenNames -underBinder -merge x3
    have h3 : Keeps s0 x3 := by
      subst x3
      refine keeps_mk ?_
      assumption
    try clear_value x3
    extract_lets +onlyGivenNames -underBinder -merge x4
    have h4 : Keeps s0 x4 := by
      subst x4
      refine keeps_loopN (fun a5_0 y5 h5 => ?_) ?_
      · refine keeps_ite ?_ ?_
        · refine keeps_idleTick ?_
          assumption
        · refine keeps_crewTick ?_
          assumption
      · assumption
    try clear_value x4
    refine goes_next ?_
    refine keeps_loopN (fun a6_0 y6 h6 => ?_) ?_
    · refine keeps_legTick ?_
      assumption
    · assumption

theorem keeps_returnSets {s0 : State} {s : State} {n : Nat} (hK : Keeps s0 s) :
    Keeps s0 (State.returnSets s n) := by
  rw [show @State.returnSets = _ from by delta State.returnSets; rfl]
  refine keeps_loopN (fun a1_0 y1 h1 => ?_) ?_
  · refine keeps_ite ?_ ?_
    · assumption
    · refine keeps_setJoin ?_
      assumption
  · refine keeps_setCrew ?_
    assumption

theorem keeps_crewToIdle {s0 : State} {s : State} {n : Nat} (hK : Keeps s0 s) :
    Keeps s0 (State.crewToIdle s n) := by
  rw [show @State.crewToIdle = _ from by delta State.crewToIdle; rfl]
  refine keeps_setCrewState ?_
  refine keeps_returnSets ?_
  refine keeps_wr ?_
  assumption

theorem keeps_crewSto {s0 : State} {s : State} {n : Nat} {sto : Bool} (hK : Keeps s0 s) :
    Keeps s0 (State.crewSto s n sto) := by
  rw [show @State.crewSto = _ from by delta State.crewSto; rfl]
  refine keeps_ite ?_ ?_
  · refine keeps_crewSafe ?_
    assumption
  · refine keeps_ite ?_ ?_
    · refine keeps_ite ?_ ?_
      · refine keeps_setCrewState ?_
        assumption
      · refine keeps_crewToIdle ?_
        assumption
    · assumption

theorem keeps_execStoLineChange {s0 : State} {g : Oct} {s : State} (hK : Keeps s0 s) :
    Goes s0 (execStoLineChange g s) := by
  rw [show @execStoLineChange = _ from by delta execStoLineChange; rfl]
  extract_lets +onlyGivenNames -underBinder -merge x1
  have h1 : Keeps s0 x1 := by
    subst x1
    refine keeps_loopL (fun a2_0 y2 h2 => ?_) ?_
    · refine keeps_crewSto ?_
      assumption
    · assumption
  try clear_value x1
  refine goes_next ?_
  refine keeps_loopN (fun a3_0 y3 h3 => ?_) ?_
  · refine keeps_stoTrack ?_
    assumption
  · assumption

end Sys2Proof.Machine
end

