-- ==== Sys2Proof/Laws/KeepsIslands.lean ====
section
/-! SUPPORT. Laws/KeepsIslands.lean: what the operations of Machine/Islands.lean keep. -/
namespace Sys2Proof.Machine

theorem keeps_mirrorGrp {s0 : State} {s : State} {g : Nat} (hK : Keeps s0 s) :
    Keeps s0 (State.mirrorGrp s g) := by
  rw [show @State.mirrorGrp = _ from by delta State.mirrorGrp; rfl]
  extract_lets +onlyGivenNames -underBinder -merge x1
  try clear_value x1
  extract_lets +onlyGivenNames -underBinder -merge x2
  try clear_value x2
  extract_lets +onlyGivenNames -underBinder -merge x3
  have h3 : Keeps s0 x3 := by
    subst x3
    refine keeps_put ?_
    refine keeps_put ?_
    assumption
  try clear_value x3
  extract_lets +onlyGivenNames -underBinder -merge x4
  have h4 : Keeps s0 x4 := by
    subst x4
    refine keeps_putB ?_
    refine keeps_putB ?_
    assumption
  try clear_value x4
  extract_lets +onlyGivenNames -underBinder -merge x5
  have h5 : Keeps s0 x5 := by
    subst x5
    refine keeps_putB ?_
    refine keeps_putB ?_
    assumption
  try clear_value x5
  refine keeps_put ?_
  assumption

theorem keeps_mirrorSbo {s0 : State} {s : State} (hK : Keeps s0 s) :
    Keeps s0 (State.mirrorSbo s) := by
  rw [show @State.mirrorSbo = _ from by delta State.mirrorSbo; rfl]
  refine keeps_loopN (fun a1_0 y1 h1 => ?_) ?_
  · refine keeps_putB ?_
    refine keeps_putB ?_
    assumption
  · assumption

theorem keeps_setGrp {s0 : State} {s : State} {b : Island} {g : Nat} {x : IslGrp} (hK : Keeps s0 s) :
    Keeps s0 (State.setGrp s b g x) := by
  rw [show @State.setGrp = _ from by delta State.setGrp; rfl]
  refine keeps_mirrorGrp ?_
  refine keeps_setIsl ?_
  assumption

theorem keeps_latchBoth {s0 : State} {s : State} {g code : Nat} (hK : Keeps s0 s) :
    Keeps s0 (State.latchBoth s g code) := by
  rw [show @State.latchBoth = _ from by delta State.latchBoth; rfl]
  extract_lets +onlyGivenNames -underBinder -merge x1
  subst x1
  try dsimp -zeta -proj only
  extract_lets +onlyGivenNames -underBinder -merge x2
  try clear_value x2
  extract_lets +onlyGivenNames -underBinder -merge x3
  try clear_value x3
  refine keeps_ite ?_ ?_
  · extract_lets +onlyGivenNames -underBinder -merge x4
    try clear_value x4
    refine keeps_ite ?_ ?_
    · assumption
    · refine keeps_setGrp ?_
      assumption
  · refine keeps_setGrp ?_
    extract_lets +onlyGivenNames -underBinder -merge x5
    try clear_value x5
    refine keeps_ite ?_ ?_
    · assumption
    · refine keeps_setGrp ?_
      assumption

theorem keeps_showDemand {s0 : State} {s : State} {i : Nat} (hK : Keeps s0 s) :
    Keeps s0 (State.showDemand s i) := by
  rw [show @State.showDemand = _ from by delta State.showDemand; rfl]
  refine keeps_putB ?_
  assumption

theorem keeps_resetLatches {s0 : State} {s : State} {i : Nat} (hK : Keeps s0 s) :
    Keeps s0 (State.resetLatches s i) := by
  rw [show @State.resetLatches = _ from by delta State.resetLatches; rfl]
  split
  · assumption
  · refine keeps_loopN (fun a1_0 y1 h1 => ?_) ?_
    · extract_lets +onlyGivenNames -underBinder -merge x2
      try clear_value x2
      refine keeps_ite ?_ ?_
      · refine keeps_showDemand ?_
        refine keeps_putB ?_
        refine keeps_putB ?_
        assumption
      · assumption
    · assumption

theorem keeps_siRaw {s0 : State} {s : State} {i : Nat} {b run : Bool} (hK : Keeps s0 s) :
    Keeps s0 (State.siRaw s i b run) := by
  rw [show @State.siRaw = _ from by delta State.siRaw; rfl]
  refine keeps_putB ?_
  assumption

theorem keeps_siFilter {s0 : State} {s : State} {i : Nat} {b high : Bool} (hK : Keeps s0 s) :
    Keeps s0 (State.siFilter s i b high) := by
  rw [show @State.siFilter = _ from by delta State.siFilter; rfl]
  extract_lets +onlyGivenNames -underBinder -merge x1
  try clear_value x1
  extract_lets +onlyGivenNames -underBinder -merge x2
  try clear_value x2
  extract_lets +onlyGivenNames -underBinder -merge x3
  try clear_value x3
  extract_lets +onlyGivenNames -underBinder -merge x4
  have h4 : Keeps s0 x4 := by
    subst x4
    refine keeps_putB ?_
    refine keeps_siRaw ?_
    assumption
  try clear_value x4
  extract_lets +onlyGivenNames -underBinder -merge x5
  try clear_value x5
  extract_lets +onlyGivenNames -underBinder -merge x6
  try clear_value x6
  split
  · extract_lets +onlyGivenNames -underBinder -merge x7
    have h7 : Keeps s0 x7 := by
      subst x7
      refine keeps_setSi ?_
      assumption
    try clear_value x7
    extract_lets +onlyGivenNames -underBinder -merge x8
    have h8 : Keeps s0 x8 := by
      subst x8
      refine keeps_ite ?_ ?_
      · assumption
      · refine keeps_putB ?_
        assumption
    try clear_value x8
    extract_lets +onlyGivenNames -underBinder -merge x9
    have h9 : Keeps s0 x9 := by
      subst x9
      refine keeps_showDemand ?_
      assumption
    try clear_value x9
    refine keeps_ite ?_ ?_
    · refine keeps_resetLatches ?_
      assumption
    · assumption

theorem keeps_execSiFilterChange {s0 : State} {i : Oct} {b : Island} {e : Sampled} {s : State} (hK : Keeps s0 s) :
    Goes s0 (execSiFilterChange i b e s) := by
  rw [show @execSiFilterChange = _ from by delta execSiFilterChange; rfl]
  refine goes_ite ?_ ?_
  · refine goes_next ?_
    assumption
  · refine goes_ite ?_ ?_
    · refine goes_next ?_
      refine keeps_siRaw ?_
      assumption
    · refine goes_next ?_
      refine keeps_siFilter ?_
      assumption

theorem keeps_execResetHeld {s0 : State} {i : Oct} {s : State} (hK : Keeps s0 s) :
    Goes s0 (execResetHeld i s) := by
  rw [show @execResetHeld = _ from by delta execResetHeld; rfl]
  split
  · refine goes_ite ?_ ?_
    · extract_lets +onlyGivenNames -underBinder -merge x1
      have h1 : Keeps s0 x1 := by
        subst x1
        refine keeps_until ?_
        assumption
      try clear_value x1
      refine goes_next ?_
      refine keeps_fault ?_
      refine keeps_putB ?_
      assumption
    · refine goes_next ?_
      assumption
  · refine goes_next ?_
    assumption

theorem keeps_latchSi {s0 : State} {s : State} {i : Nat} {f : Fld} {code : Nat} (hK : Keeps s0 s) :
    Keeps s0 (State.latchSi s i f code) := by
  rw [show @State.latchSi = _ from by delta State.latchSi; rfl]
  extract_lets +onlyGivenNames -underBinder -merge x1
  have h1 : Keeps s0 x1 := by
    subst x1
    refine keeps_fault ?_
    refine keeps_putB ?_
    assumption
  try clear_value x1
  extract_lets +onlyGivenNames -underBinder -merge x2
  try clear_value x2
  extract_lets +onlyGivenNames -underBinder -merge x3
  have h3 : Keeps s0 x3 := by
    subst x3
    refine keeps_setSi ?_
    assumption
  try clear_value x3
  refine keeps_showDemand ?_
  assumption

theorem keeps_execSiDiscrep {s0 : State} {i : Oct} {s : State} (hK : Keeps s0 s) :
    Goes s0 (execSiDiscrep i s) := by
  rw [show @execSiDiscrep = _ from by delta execSiDiscrep; rfl]
  split
  · refine goes_ite ?_ ?_
    · refine goes_next ?_
      assumption
    · refine goes_next ?_
      refine keeps_latchSi ?_
      refine keeps_until ?_
      assumption
  · refine goes_next ?_
    assumption

theorem keeps_tpoCheck {s0 : State} {s : State} {j : Nat} {follows : Bool} (hK : Keeps s0 s) :
    Keeps s0 (State.tpoCheck s j follows) := by
  rw [show @State.tpoCheck = _ from by delta State.tpoCheck; rfl]
  extract_lets +onlyGivenNames -underBinder -merge x1
  have h1 : Keeps s0 x1 := by
    subst x1
    refine keeps_setBitAt ?_
    assumption
  try clear_value x1
  extract_lets +onlyGivenNames -underBinder -merge x2
  have h2 : Keeps s0 x2 := by
    subst x2
    refine keeps_loopN (fun a3_0 y3 h3 => ?_) ?_
    · refine keeps_showDemand ?_
      assumption
    · assumption
  try clear_value x2
  refine keeps_ite ?_ ?_
  · assumption
  · extract_lets +onlyGivenNames -underBinder -merge x4
    have h4 : Keeps s0 x4 := by
      subst x4
      refine keeps_fault ?_
      assumption
    try clear_value x4
    split
    · assumption
    · refine keeps_loopN (fun a5_0 y5 h5 => ?_) ?_
      · refine keeps_ite ?_ ?_
        · refine keeps_latchBoth ?_
          assumption
        · assumption
      · assumption

theorem keeps_tpoBegin {s0 : State} {s : State} {j t : Nat} {follows : Bool} (hK : Keeps s0 s) :
    Keeps s0 (State.tpoBegin s j t follows) := by
  rw [show @State.tpoBegin = _ from by delta State.tpoBegin; rfl]
  extract_lets +onlyGivenNames -underBinder -merge x1
  have h1 : Keeps s0 x1 := by
    subst x1
    refine keeps_until ?_
    assumption
  try clear_value x1
  extract_lets +onlyGivenNames -underBinder -merge x2
  have h2 : Keeps s0 x2 := by
    subst x2
    refine keeps_setBitAt ?_
    refine keeps_mk ?_
    assumption
  try clear_value x2
  extract_lets +onlyGivenNames -underBinder -merge x3
  have h3 : Keeps s0 x3 := by
    subst x3
    refine keeps_loopN (fun a4_0 y4 h4 => ?_) ?_
    · extract_lets +onlyGivenNames -underBinder -merge x5
      try clear_value x5
      refine keeps_ite ?_ ?_
      · refine keeps_putB ?_
        refine keeps_setSi ?_
        assumption
      · assumption
    · assumption
  try clear_value x3
  refine keeps_tpoCheck ?_
  assumption

theorem keeps_execTpoPulse {s0 : State} {j : Fin 4} {follows : Bool} {s : State} (hK : Keeps s0 s) :
    Goes s0 (execTpoPulse j follows s) := by
  rw [show @execTpoPulse = _ from by delta execTpoPulse; rfl]
  split
  · refine goes_next ?_
    assumption
  · refine goes_ite ?_ ?_
    · refine goes_next ?_
      assumption
    · refine goes_next ?_
      refine keeps_tpoBegin ?_
      assumption

theorem keeps_execTpoPulseEnd {s0 : State} {j : Fin 4} {follows : Bool} {s : State} (hK : Keeps s0 s) :
    Goes s0 (execTpoPulseEnd j follows s) := by
  rw [show @execTpoPulseEnd = _ from by delta execTpoPulseEnd; rfl]
  refine goes_ite ?_ ?_
  · refine goes_next ?_
    assumption
  · extract_lets +onlyGivenNames -underBinder -merge x1
    try clear_value x1
    refine goes_next ?_
    refine keeps_tpoCheck ?_
    refine keeps_setBitAt ?_
    refine keeps_until ?_
    assumption

theorem keeps_execTestPulseWindowEnd {s0 : State} {i : Oct} {n : Nat} {s : State} (hK : Keeps s0 s) :
    Goes s0 (execTestPulseWindowEnd i n s) := by
  rw [show @execTestPulseWindowEnd = _ from by delta execTestPulseWindowEnd; rfl]
  split
  · refine goes_next ?_
    assumption
  · extract_lets +onlyGivenNames -underBinder -merge x1
    try clear_value x1
    extract_lets +onlyGivenNames -underBinder -merge x2
    have h2 : Keeps s0 x2 := by
      subst x2
      refine keeps_until ?_
      assumption
    try clear_value x2
    extract_lets +onlyGivenNames -underBinder -merge x3
    try clear_value x3
    extract_lets +onlyGivenNames -underBinder -merge x4
    have h4 : Keeps s0 x4 := by
      subst x4
      refine keeps_putB ?_
      refine keeps_setSi ?_
      assumption
    try clear_value x4
    refine goes_ite ?_ ?_
    · refine goes_next ?_
      assumption
    · refine goes_next ?_
      refine keeps_latchSi ?_
      assumption

theorem keeps_sboEval {s0 : State} {s : State} {isl : Island} (hK : Keeps s0 s) :
    Keeps s0 (State.sboEval s isl) := by
  rw [show @State.sboEval = _ from by delta State.sboEval; rfl]
  extract_lets +onlyGivenNames -underBinder -merge x1
  try clear_value x1
  split
  · refine keeps_mirrorSbo ?_
    refine keeps_setIsl ?_
    assumption
  · extract_lets +onlyGivenNames -underBinder -merge x2
    have h2 : Keeps s0 x2 := by
      subst x2
      refine keeps_loopN (fun a3_0 y3 h3 => ?_) ?_
      · refine keeps_putB ?_
        assumption
      · assumption
    try clear_value x2
    extract_lets +onlyGivenNames -underBinder -merge x4
    try clear_value x4
    refine keeps_mirrorSbo ?_
    refine keeps_setIsl ?_
    assumption

theorem keeps_grpDown {s0 : State} {s : State} {isl : Island} {g st : Nat} (hK : Keeps s0 s) :
    Keeps s0 (State.grpDown s isl g st) := by
  rw [show @State.grpDown = _ from by delta State.grpDown; rfl]
  extract_lets +onlyGivenNames -underBinder -merge x1
  try clear_value x1
  extract_lets +onlyGivenNames -underBinder -merge x2
  try clear_value x2
  extract_lets +onlyGivenNames -underBinder -merge x3
  have h3 : Keeps s0 x3 := by
    subst x3
    refine keeps_setGrp ?_
    assumption
  try clear_value x3
  refine keeps_sboEval ?_
  assumption

theorem keeps_readbacks {s0 : State} {s : State} {isl : Island} {rb : Readback} (hK : Keeps s0 s) :
    Keeps s0 (State.readbacks s isl rb) := by
  rw [show @State.readbacks = _ from by delta State.readbacks; rfl]
  extract_lets +onlyGivenNames -underBinder -merge x1
  try clear_value x1
  extract_lets +onlyGivenNames -underBinder -merge x2
  try clear_value x2
  extract_lets +onlyGivenNames -underBinder -merge x3
  have h3 : Keeps s0 x3 := by
    subst x3
    refine keeps_loopN (fun a4_0 y4 h4 => ?_) ?_
    · extract_lets +onlyGivenNames -underBinder -merge x5
      try clear_value x5
      extract_lets +onlyGivenNames -underBinder -merge x6
      try clear_value x6
      extract_lets +onlyGivenNames -underBinder -merge x7
      have h7 : Keeps s0 x7 := by
        subst x7
        refine keeps_setGrp ?_
        assumption
      try clear_value x7
      extract_lets +onlyGivenNames -underBinder -merge x8
      have h8 : Keeps s0 x8 := by
        subst x8
        refine keeps_ite ?_ ?_
        · refine keeps_latchBoth ?_
          refine keeps_fault ?_
          assumption
        · assumption
      try clear_value x8
      refine keeps_ite ?_ ?_
      · refine keeps_mk ?_
        assumption
      · split
        · refine keeps_mk ?_
          assumption
        · refine keeps_ite ?_ ?_
          · refine keeps_latchBoth ?_
            refine keeps_fault ?_
            assumption
          · assumption
    · assumption
  try clear_value x3
  refine keeps_loopN (fun a9_0 y9 h9 => ?_) ?_
  · extract_lets +onlyGivenNames -underBinder -merge x10
    try clear_value x10
    extract_lets +onlyGivenNames -underBinder -merge x11
    try clear_value x11
    extract_lets +onlyGivenNames -underBinder -merge x12
    have h12 : Keeps s0 x12 := by
      subst x12
      refine keeps_setIsl ?_
      assumption
    try clear_value x12
    refine keeps_ite ?_ ?_
    · extract_lets +onlyGivenNames -underBinder -merge x13
      have h13 : Keeps s0 x13 := by
        subst x13
        refine keeps_fault ?_
        refine keeps_putB ?_
        assumption
      try clear_value x13
      split
      · refine keeps_loopN (fun a14_0 y14 h14 => ?_) ?_
        · refine keeps_ite ?_ ?_
          · refine keeps_latchBoth ?_
            assumption
          · assumption
        · assumption
      · assumption
    · assumption
  · assumption

theorem keeps_served {s0 : State} {s : State} {isl : Island} {g code inst : Nat} (hK : Keeps s0 s) :
    Keeps s0 (State.served s isl g code inst) := by
  rw [show @State.served = _ from by delta State.served; rfl]
  refine keeps_ite ?_ ?_
  · refine keeps_fault ?_
    refine keeps_incSat ?_
    assumption
  · assumption

theorem keeps_ss1Start {s0 : State} {s : State} {isl : Island} {g : Nat} {cfg : GrpCfg} {thermal : Bool} (hK : Keeps s0 s) :
    Keeps s0 (State.ss1Start s isl g cfg thermal) := by
  rw [show @State.ss1Start = _ from by delta State.ss1Start; rfl]
  extract_lets +onlyGivenNames -underBinder -merge x1
  try clear_value x1
  refine keeps_ite ?_ ?_
  · extract_lets +onlyGivenNames -underBinder -merge x2
    have h2 : Keeps s0 x2 := by
      subst x2
      refine keeps_fault ?_
      assumption
    try clear_value x2
    refine keeps_grpDown ?_
    refine keeps_setGrp ?_
    assumption
  · extract_lets +onlyGivenNames -underBinder -merge x3
    have h3 : Keeps s0 x3 := by
      subst x3
      refine keeps_setGrp ?_
      assumption
    try clear_value x3
    refine keeps_wr ?_
    assumption

theorem keeps_ss1Eval {s0 : State} {s : State} {isl : Island} {g : Nat} {cfg : GrpCfg} (hK : Keeps s0 s) :
    Keeps s0 (State.ss1Eval s isl g cfg) := by
  rw [show @State.ss1Eval = _ from by delta State.ss1Eval; rfl]
  extract_lets +onlyGivenNames -underBinder -merge x1
  try clear_value x1
  extract_lets +onlyGivenNames -underBinder -merge x2
  try clear_value x2
  extract_lets +onlyGivenNames -underBinder -merge x3
  have h3 : Keeps s0 x3 := by
    subst x3
    refine keeps_put ?_
    assumption
  try clear_value x3
  extract_lets +onlyGivenNames -underBinder -merge x4
  subst x4
  try dsimp -zeta -proj only
  refine keeps_ite ?_ ?_
  · refine keeps_grpDown ?_
    assumption
  · refine keeps_ite ?_ ?_
    · split
      · extract_lets +onlyGivenNames -underBinder -merge x5
        have h5 : Keeps s0 x5 := by
          subst x5
          refine keeps_fault ?_
          assumption
        try clear_value x5
        refine keeps_grpDown ?_
        refine keeps_setGrp ?_
        assumption
      · refine keeps_ite ?_ ?_
        · extract_lets +onlyGivenNames -underBinder -merge x6
          have h6 : Keeps s0 x6 := by
            subst x6
            refine keeps_fault ?_
            assumption
          try clear_value x6
          refine keeps_grpDown ?_
          refine keeps_setGrp ?_
          assumption
        · extract_lets +onlyGivenNames -underBinder -merge x7
          try clear_value x7
          extract_lets +onlyGivenNames -underBinder -merge x8
          have h8 : Keeps s0 x8 := by
            subst x8
            refine keeps_setGrp ?_
            assumption
          try clear_value x8
          refine keeps_ite ?_ ?_
          · refine keeps_grpDown ?_
            assumption
          · assumption
    · assumption

theorem keeps_grpEval {s0 : State} {s : State} {isl : Island} {c : SealSec} {g : Nat} (hK : Keeps s0 s) :
    Keeps s0 (State.grpEval s isl c g) := by
  rw [show @State.grpEval = _ from by delta State.grpEval; rfl]
  extract_lets +onlyGivenNames -underBinder -merge x1
  try clear_value x1
  extract_lets +onlyGivenNames -underBinder -merge x2
  try clear_value x2
  extract_lets +onlyGivenNames -underBinder -merge x3
  try clear_value x3
  extract_lets +onlyGivenNames -underBinder -merge x4
  try clear_value x4
  extract_lets +onlyGivenNames -underBinder -merge x5
  try clear_value x5
  extract_lets +onlyGivenNames -underBinder -merge x6
  try clear_value x6
  extract_lets +onlyGivenNames -underBinder -merge x7
  try clear_value x7
  extract_lets +onlyGivenNames -underBinder -merge x8
  try clear_value x8
  extract_lets +onlyGivenNames -underBinder -merge x9
  try clear_value x9
  extract_lets +onlyGivenNames -underBinder -merge x10
  try clear_value x10
  extract_lets +onlyGivenNames -underBinder -merge x11
  subst x11
  try dsimp -zeta -proj only
  refine keeps_ite ?_ ?_
  · refine keeps_grpDown ?_
    assumption
  · split
    · refine keeps_ite ?_ ?_
      · assumption
      · refine keeps_ite ?_ ?_
        · refine keeps_setGrp ?_
          assumption
        · refine keeps_setGrp ?_
          assumption
    · refine keeps_ite ?_ ?_
      · refine keeps_setGrp ?_
        assumption
      · refine keeps_ite ?_ ?_
        · refine keeps_setGrp ?_
          assumption
        · assumption
    · refine keeps_ite ?_ ?_
      · refine keeps_grpDown ?_
        refine keeps_served ?_
        assumption
      · refine keeps_ite ?_ ?_
        · refine keeps_ss1Start ?_
          refine keeps_served ?_
          assumption
        · split
          · refine keeps_ss1Start ?_
            refine keeps_served ?_
            assumption
          · refine keeps_ite ?_ ?_
            · refine keeps_ss1Start ?_
              refine keeps_served ?_
              assumption
            · assumption
    · refine keeps_ite ?_ ?_
      · refine keeps_grpDown ?_
        refine keeps_served ?_
        assumption
      · refine keeps_ss1Eval ?_
        assumption
    · refine keeps_ite ?_ ?_
      · refine keeps_setGrp ?_
        assumption
      · assumption

theorem keeps_execIslandEvaluation {s0 : State} {isl : Island} {rb : Readback} {s : State} (hK : Keeps s0 s) :
    Goes s0 (execIslandEvaluation isl rb s) := by
  rw [show @execIslandEvaluation = _ from by delta execIslandEvaluation; rfl]
  refine goes_ite ?_ ?_
  · refine goes_next ?_
    assumption
  · split
    · refine goes_next ?_
      assumption
    · extract_lets +onlyGivenNames -underBinder -merge x1
      have h1 : Keeps s0 x1 := by
        subst x1
        refine keeps_readbacks ?_
        refine keeps_until ?_
        assumption
      try clear_value x1
      extract_lets +onlyGivenNames -underBinder -merge x2
      have h2 : Keeps s0 x2 := by
        subst x2
        refine keeps_loopN (fun a3_0 y3 h3 => ?_) ?_
        · refine keeps_grpEval ?_
          assumption
        · assumption
      try clear_value x2
      extract_lets +onlyGivenNames -underBinder -merge x4
      have h4 : Keeps s0 x4 := by
        subst x4
        refine keeps_sboEval ?_
        assumption
      try clear_value x4
      extract_lets +onlyGivenNames -underBinder -merge x5
      have h5 : Keeps s0 x5 := by
        subst x5
        refine keeps_loopN (fun a6_0 y6 h6 => ?_) ?_
        · refine keeps_setSi ?_
          assumption
        · assumption
      try clear_value x5
      refine goes_next ?_
      refine keeps_setIsl ?_
      assumption

theorem keeps_islSpeed {s0 : State} {s : State} {b : Island} {g : Nat} {v : Option Nat} {o : SpeedObs} (hK : Keeps s0 s) :
    Keeps s0 (State.islSpeed s b g v o) := by
  rw [show @State.islSpeed = _ from by delta State.islSpeed; rfl]
  refine keeps_ite ?_ ?_
  · refine keeps_setGrp ?_
    assumption
  · assumption

theorem keeps_speedCompare {s0 : State} {s : State} {g tol : Nat} {va vb : Option Nat} (hK : Keeps s0 s) :
    Keeps s0 (State.speedCompare s g tol va vb) := by
  rw [show @State.speedCompare = _ from by delta State.speedCompare; rfl]
  extract_lets +onlyGivenNames -underBinder -merge x1
  try clear_value x1
  extract_lets +onlyGivenNames -underBinder -merge x2
  have h2 : Keeps s0 x2 := by
    subst x2
    refine keeps_mk ?_
    assumption
  try clear_value x2
  refine keeps_ite ?_ ?_
  · refine keeps_latchBoth ?_
    refine keeps_fault ?_
    assumption
  · assumption

theorem keeps_speedWindow {s0 : State} {s : State} {g : Nat} {cfg : GrpCfg} {oa ob : SpeedObs} (hK : Keeps s0 s) :
    Keeps s0 (State.speedWindow s g cfg oa ob) := by
  rw [show @State.speedWindow = _ from by delta State.speedWindow; rfl]
  extract_lets +onlyGivenNames -underBinder -merge x1
  try clear_value x1
  extract_lets +onlyGivenNames -underBinder -merge x2
  try clear_value x2
  extract_lets +onlyGivenNames -underBinder -merge x3
  have h3 : Keeps s0 x3 := by
    subst x3
    refine keeps_islSpeed ?_
    refine keeps_islSpeed ?_
    assumption
  try clear_value x3
  extract_lets +onlyGivenNames -underBinder -merge x4
  have h4 : Keeps s0 x4 := by
    subst x4
    refine keeps_put ?_
    refine keeps_put ?_
    assumption
  try clear_value x4
  refine keeps_speedCompare ?_
  assumption

theorem keeps_execSpeedWindowEnd {s0 : State} {g : Oct} {oa ob : SpeedObs} {s : State} (hK : Keeps s0 s) :
    Goes s0 (execSpeedWindowEnd g oa ob s) := by
  rw [show @execSpeedWindowEnd = _ from by delta execSpeedWindowEnd; rfl]
  split
  · refine goes_next ?_
    assumption
  · extract_lets +onlyGivenNames -underBinder -merge x1
    try clear_value x1
    refine goes_ite ?_ ?_
    · refine goes_next ?_
      assumption
    · refine goes_next ?_
      refine keeps_speedWindow ?_
      refine keeps_until ?_
      assumption

theorem keeps_execSs1TimerExpiry {s0 : State} {isl : Island} {g : Oct} {s : State} (hK : Keeps s0 s) :
    Goes s0 (execSs1TimerExpiry isl g s) := by
  rw [show @execSs1TimerExpiry = _ from by delta execSs1TimerExpiry; rfl]
  split
  · refine goes_next ?_
    assumption
  · extract_lets +onlyGivenNames -underBinder -merge x1
    try clear_value x1
    refine goes_ite ?_ ?_
    · extract_lets +onlyGivenNames -underBinder -merge x2
      try clear_value x2
      extract_lets +onlyGivenNames -underBinder -merge x3
      have h3 : Keeps s0 x3 := by
        subst x3
        refine keeps_until ?_
        assumption
      try clear_value x3
      extract_lets +onlyGivenNames -underBinder -merge x4
      have h4 : Keeps s0 x4 := by
        subst x4
        refine keeps_put ?_
        assumption
      try clear_value x4
      refine goes_next ?_
      refine keeps_grpDown ?_
      assumption
    · refine goes_next ?_
      assumption

theorem keeps_execSbcDelayEnd {s0 : State} {isl : Island} {g : Oct} {s : State} (hK : Keeps s0 s) :
    Goes s0 (execSbcDelayEnd isl g s) := by
  rw [show @execSbcDelayEnd = _ from by delta execSbcDelayEnd; rfl]
  extract_lets +onlyGivenNames -underBinder -merge x1
  try clear_value x1
  refine goes_ite ?_ ?_
  · extract_lets +onlyGivenNames -underBinder -merge x2
    try clear_value x2
    refine goes_next ?_
    refine keeps_sboEval ?_
    refine keeps_setGrp ?_
    refine keeps_until ?_
    assumption
  · refine goes_next ?_
    assumption

theorem keeps_execStoTestPulse {s0 : State} {isl : Island} {g : Oct} {seen : Bool} {s : State} (hK : Keeps s0 s) :
    Goes s0 (execStoTestPulse isl g seen s) := by
  rw [show @execStoTestPulse = _ from by delta execStoTestPulse; rfl]
  extract_lets +onlyGivenNames -underBinder -merge x1
  try clear_value x1
  refine goes_ite ?_ ?_
  · extract_lets +onlyGivenNames -underBinder -merge x2
    try clear_value x2
    extract_lets +onlyGivenNames -underBinder -merge x3
    try clear_value x3
    extract_lets +onlyGivenNames -underBinder -merge x4
    have h4 : Keeps s0 x4 := by
      subst x4
      refine keeps_setGrp ?_
      refine keeps_until ?_
      assumption
    try clear_value x4
    refine goes_ite ?_ ?_
    · refine goes_next ?_
      assumption
    · refine goes_next ?_
      refine keeps_latchBoth ?_
      refine keeps_fault ?_
      assumption
  · refine goes_next ?_
    assumption

theorem keeps_execSboTestPulse {s0 : State} {isl : Island} {b : Oct} {seen : Bool} {s : State} (hK : Keeps s0 s) :
    Goes s0 (execSboTestPulse isl b seen s) := by
  rw [show @execSboTestPulse = _ from by delta execSboTestPulse; rfl]
  extract_lets +onlyGivenNames -underBinder -merge x1
  try clear_value x1
  refine goes_ite ?_ ?_
  · extract_lets +onlyGivenNames -underBinder -merge x2
    try clear_value x2
    extract_lets +onlyGivenNames -underBinder -merge x3
    have h3 : Keeps s0 x3 := by
      subst x3
      refine keeps_setIsl ?_
      refine keeps_until ?_
      assumption
    try clear_value x3
    refine goes_ite ?_ ?_
    · refine goes_next ?_
      assumption
    · extract_lets +onlyGivenNames -underBinder -merge x4
      have h4 : Keeps s0 x4 := by
        subst x4
        refine keeps_fault ?_
        refine keeps_putB ?_
        assumption
      try clear_value x4
      split
      · refine goes_next ?_
        refine keeps_loopN (fun a5_0 y5 h5 => ?_) ?_
        · refine keeps_ite ?_ ?_
          · refine keeps_latchBoth ?_
            assumption
          · assumption
        · assumption
      · refine goes_next ?_
        assumption
  · refine goes_next ?_
    assumption

theorem keeps_islLow {s0 : State} {s : State} {isl : Island} (hK : Keeps s0 s) :
    Keeps s0 (State.islLow s isl) := by
  rw [show @State.islLow = _ from by delta State.islLow; rfl]
  extract_lets +onlyGivenNames -underBinder -merge x1
  try clear_value x1
  extract_lets +onlyGivenNames -underBinder -merge x2
  have h2 : Keeps s0 x2 := by
    subst x2
    refine keeps_setIsl ?_
    assumption
  try clear_value x2
  refine keeps_mirrorSbo ?_
  refine keeps_loopN (fun a3_0 y3 h3 => ?_) ?_
  · refine keeps_mirrorGrp ?_
    assumption
  · assumption

theorem keeps_setIslSt {s0 : State} {s : State} {isl : Island} {st : Nat} (hK : Keeps s0 s) :
    Keeps s0 (State.setIslSt s isl st) := by
  rw [show @State.setIslSt = _ from by delta State.setIslSt; rfl]
  refine keeps_put ?_
  assumption

theorem keeps_islOff {s0 : State} {s : State} {isl : Island} (hK : Keeps s0 s) :
    Keeps s0 (State.islOff s isl) := by
  rw [show @State.islOff = _ from by delta State.islOff; rfl]
  extract_lets +onlyGivenNames -underBinder -merge x1
  have h1 : Keeps s0 x1 := by
    subst x1
    refine keeps_setIsl ?_
    assumption
  try clear_value x1
  extract_lets +onlyGivenNames -underBinder -merge x2
  have h2 : Keeps s0 x2 := by
    subst x2
    refine keeps_putB ?_
    assumption
  try clear_value x2
  refine keeps_setIslSt ?_
  refine keeps_islLow ?_
  assumption

theorem keeps_islTake {s0 : State} {s : State} {isl : Island} {r : Nat} (hK : Keeps s0 s) :
    Keeps s0 (State.islTake s isl r) := by
  rw [show @State.islTake = _ from by delta State.islTake; rfl]
  extract_lets +onlyGivenNames -underBinder -merge x1
  subst x1
  try dsimp -zeta -proj only
  extract_lets +onlyGivenNames -underBinder -merge x2
  have h2 : Keeps s0 x2 := by
    subst x2
    refine keeps_wr ?_
    assumption
  try clear_value x2
  split
  · extract_lets +onlyGivenNames -underBinder -merge x3
    try clear_value x3
    extract_lets +onlyGivenNames -underBinder -merge x4
    have h4 : Keeps s0 x4 := by
      subst x4
      refine keeps_islLow ?_
      refine keeps_setIsl ?_
      assumption
    try clear_value x4
    extract_lets +onlyGivenNames -underBinder -merge x5
    have h5 : Keeps s0 x5 := by
      subst x5
      refine keeps_wr ?_
      assumption
    try clear_value x5
    refine keeps_loopN (fun a6_0 y6 h6 => ?_) ?_
    · refine keeps_showDemand ?_
      assumption
    · refine keeps_putB ?_
      assumption
  · extract_lets +onlyGivenNames -underBinder -merge x7
    try clear_value x7
    extract_lets +onlyGivenNames -underBinder -merge x8
    have h8 : Keeps s0 x8 := by
      subst x8
      refine keeps_islLow ?_
      refine keeps_setIsl ?_
      assumption
    try clear_value x8
    refine keeps_fault ?_
    refine keeps_putB ?_
    assumption

theorem keeps_execIslandStart {s0 : State} {isl : Island} {s : State} (hK : Keeps s0 s) :
    Goes s0 (execIslandStart isl s) := by
  rw [show @execIslandStart = _ from by delta execIslandStart; rfl]
  refine goes_ite ?_ ?_
  · refine goes_next ?_
    refine keeps_setIslSt ?_
    refine keeps_islLow ?_
    assumption
  · refine goes_next ?_
    assumption

theorem keeps_execIslandStartComplete {s0 : State} {isl : Island} {pass : Bool} {s : State} (hK : Keeps s0 s) :
    Goes s0 (execIslandStartComplete isl pass s) := by
  rw [show @execIslandStartComplete = _ from by delta execIslandStartComplete; rfl]
  refine goes_ite ?_ ?_
  · refine goes_next ?_
    assumption
  · refine goes_ite ?_ ?_
    · refine goes_next ?_
      refine keeps_fault ?_
      refine keeps_setIslSt ?_
      assumption
    · extract_lets +onlyGivenNames -underBinder -merge x1
      try clear_value x1
      extract_lets +onlyGivenNames -underBinder -merge x2
      have h2 : Keeps s0 x2 := by
        subst x2
        refine keeps_setIsl ?_
        refine keeps_setIslSt ?_
        assumption
      try clear_value x2
      split
      · refine goes_next ?_
        refine keeps_islTake ?_
        assumption
      · refine goes_next ?_
        assumption

end Sys2Proof.Machine
end

