-- ==== Sys2Proof/Laws/KeepsDomains.lean ====
section
/-! SUPPORT. Laws/KeepsDomains.lean: what the operations of Machine/Domains.lean keep. -/
namespace Sys2Proof.Machine

theorem keeps_setPw {s0 : State} {s : State} {st : Nat} (hK : Keeps s0 s) :
    Keeps s0 (State.setPw s st) := by
  rw [show @State.setPw = _ from by delta State.setPw; rfl]
  refine keeps_put ?_
  assumption

theorem keeps_showDomains {s0 : State} {s : State} (hK : Keeps s0 s) :
    Keeps s0 (State.showDomains s) := by
  rw [show @State.showDomains = _ from by delta State.showDomains; rfl]
  refine keeps_showPairs ?_
  refine keeps_putB ?_
  refine keeps_put ?_
  assumption

theorem keeps_domainUp {s0 : State} {s : State} {d : Nat} (hK : Keeps s0 s) :
    Keeps s0 (State.domainUp s d) := by
  rw [show @State.domainUp = _ from by delta State.domainUp; rfl]
  refine keeps_mk ?_
  assumption

theorem keeps_domainDown {s0 : State} {s : State} {d : Nat} {ret : Bool} (hK : Keeps s0 s) :
    Keeps s0 (State.domainDown s d ret) := by
  rw [show @State.domainDown = _ from by delta State.domainDown; rfl]
  refine keeps_mk ?_
  assumption

theorem keeps_domainLost {s0 : State} {s : State} {d : Nat} (hK : Keeps s0 s) :
    Keeps s0 (State.domainLost s d) := by
  rw [show @State.domainLost = _ from by delta State.domainLost; rfl]
  extract_lets +onlyGivenNames -underBinder -merge x1
  have h1 : Keeps s0 x1 := by
    subst x1
    refine keeps_setRegs ?_ ?_
    · exact mwf_filter _ _ _
    · assumption
  try clear_value x1
  refine keeps_ite ?_ ?_
  · refine keeps_mk ?_
    assumption
  · assumption

theorem keeps_engineLost {s0 : State} {s : State} {d : Nat} (hK : Keeps s0 s) :
    Keeps s0 (State.engineLost s d) := by
  rw [show @State.engineLost = _ from by delta State.engineLost; rfl]
  refine keeps_loopL (fun a1_0 y1 h1 => ?_) ?_
  · extract_lets +onlyGivenNames -underBinder -merge x2
    try clear_value x2
    extract_lets +onlyGivenNames -underBinder -merge x3
    have h3 : Keeps s0 x3 := by
      subst x3
      refine keeps_setPair ?_
      assumption
    try clear_value x3
    refine keeps_ite ?_ ?_
    · refine keeps_loopL (fun a4_0 y4 h4 => ?_) ?_
      · extract_lets +onlyGivenNames -underBinder -merge x5
        try clear_value x5
        refine keeps_ite ?_ ?_
        · assumption
        · refine keeps_setTask ?_
          assumption
      · assumption
    · assumption
  · assumption

theorem keeps_listenDomains {s0 : State} {s : State} (hK : Keeps s0 s) :
    Keeps s0 (State.listenDomains s) := by
  rw [show @State.listenDomains = _ from by delta State.listenDomains; rfl]
  extract_lets +onlyGivenNames -underBinder -merge x1
  have h1 : Keeps s0 x1 := by
    subst x1
    refine keeps_domainDown ?_
    assumption
  try clear_value x1
  extract_lets +onlyGivenNames -underBinder -merge x2
  have h2 : Keeps s0 x2 := by
    subst x2
    refine keeps_loopN (fun a3_0 y3 h3 => ?_) ?_
    · refine keeps_ite ?_ ?_
      · refine keeps_domainDown ?_
        assumption
      · refine keeps_engineLost ?_
        refine keeps_domainDown ?_
        assumption
    · assumption
  try clear_value x2
  refine keeps_showDomains ?_
  assumption

theorem keeps_crewsUnused {s0 : State} {s : State} (hK : Keeps s0 s) :
    Keeps s0 (State.crewsUnused s) := by
  rw [show @State.crewsUnused = _ from by delta State.crewsUnused; rfl]
  refine keeps_loopN (fun a1_0 y1 h1 => ?_) ?_
  · refine keeps_ite ?_ ?_
    · assumption
    · extract_lets +onlyGivenNames -underBinder -merge x2
      have h2 : Keeps s0 x2 := by
        subst x2
        refine keeps_setCrewState ?_
        refine keeps_crewOff ?_
        assumption
      try clear_value x2
      refine keeps_profCrewState ?_
      refine keeps_setCrew ?_
      assumption
  · assumption

theorem keeps_crewAwake {s0 : State} {s : State} {n : Nat} (hK : Keeps s0 s) :
    Keeps s0 (State.crewAwake s n) := by
  rw [show @State.crewAwake = _ from by delta State.crewAwake; rfl]
  refine keeps_ite ?_ ?_
  · assumption
  · extract_lets +onlyGivenNames -underBinder -merge x1
    try clear_value x1
    extract_lets +onlyGivenNames -underBinder -merge x2
    have h2 : Keeps s0 x2 := by
      subst x2
      refine keeps_wr ?_
      assumption
    try clear_value x2
    extract_lets +onlyGivenNames -underBinder -merge x3
    try clear_value x3
    extract_lets +onlyGivenNames -underBinder -merge x4
    have h4 : Keeps s0 x4 := by
      subst x4
      refine keeps_setCrew ?_
      assumption
    try clear_value x4
    extract_lets +onlyGivenNames -underBinder -merge x5
    have h5 : Keeps s0 x5 := by
      subst x5
      refine keeps_startCarriers ?_
      assumption
    try clear_value x5
    extract_lets +onlyGivenNames -underBinder -merge x6
    have h6 : Keeps s0 x6 := by
      subst x6
      refine keeps_loopN (fun a7_0 y7 h7 => ?_) ?_
      · refine keeps_wr ?_
        refine keeps_wr ?_
        refine keeps_wr ?_
        assumption
      · assumption
    try clear_value x6
    extract_lets +onlyGivenNames -underBinder -merge x8
    have h8 : Keeps s0 x8 := by
      subst x8
      refine keeps_wr ?_
      assumption
    try clear_value x8
    extract_lets +onlyGivenNames -underBinder -merge x9
    have h9 : Keeps s0 x9 := by
      subst x9
      refine keeps_setCrewState ?_
      assumption
    try clear_value x9
    extract_lets +onlyGivenNames -underBinder -merge x10
    have h10 : Keeps s0 x10 := by
      subst x10
      split
      · refine keeps_faultStop ?_
        assumption
      · assumption
    try clear_value x10
    split
    · refine keeps_ite ?_ ?_
      · refine keeps_crewSafe ?_
        assumption
      · assumption
    · assumption

theorem keeps_powerUp {s0 : State} {s : State} (hK : Keeps s0 s) :
    Keeps s0 (State.powerUp s) := by
  rw [show @State.powerUp = _ from by delta State.powerUp; rfl]
  extract_lets +onlyGivenNames -underBinder -merge x1
  try clear_value x1
  extract_lets +onlyGivenNames -underBinder -merge x2
  have h2 : Keeps s0 x2 := by
    subst x2
    refine keeps_loopL (fun a3_0 y3 h3 => ?_) ?_
    · refine keeps_domainUp ?_
      assumption
    · assumption
  try clear_value x2
  extract_lets +onlyGivenNames -underBinder -merge x4
  have h4 : Keeps s0 x4 := by
    subst x4
    refine keeps_loopL (fun a5_0 y5 h5 => ?_) ?_
    · refine keeps_setPair ?_
      assumption
    · assumption
  try clear_value x4
  refine keeps_trainPorts ?_
  refine keeps_servePend ?_
  refine keeps_showDomains ?_
  assumption

theorem keeps_demand {s0 : State} {s : State} {by_ : Option Nat} (hK : Keeps s0 s) :
    Keeps s0 (State.demand s by_) := by
  rw [show @State.demand = _ from by delta State.demand; rfl]
  refine keeps_ite ?_ ?_
  · refine keeps_powerUp ?_
    refine keeps_mk ?_
    assumption
  · refine keeps_mk ?_
    assumption

end Sys2Proof.Machine
end

