-- ==== Sys2Proof/Laws/KeepsOrders.lean ====
section
/-! SUPPORT. Laws/KeepsOrders.lean: what the operations of Machine/Orders.lean keep. -/
namespace Sys2Proof.Machine

theorem keeps_refuse {s0 : State} {s : State} {f : FrameParts} {status : Nat} (hK : Keeps s0 s) :
    Keeps s0 (State.refuse s f status) := by
  rw [show @State.refuse = _ from by delta State.refuse; rfl]
  extract_lets +onlyGivenNames -underBinder -merge x1
  have h1 : Keeps s0 x1 := by
    subst x1
    refine keeps_incSat ?_
    assumption
  try clear_value x1
  refine keeps_formReport ?_
  assumption

theorem keeps_reportSent {s0 : State} {s : State} {r : ReportRec} (hK : Keeps s0 s) :
    Keeps s0 (State.reportSent s r) := by
  rw [show @State.reportSent = _ from by delta State.reportSent; rfl]
  extract_lets +onlyGivenNames -underBinder -merge x1
  subst x1
  try dsimp -zeta -proj only
  refine keeps_ite ?_ ?_
  · refine keeps_mk ?_
    assumption
  · refine keeps_mk ?_
    assumption

theorem keeps_dupRseq {s0 : State} {s : State} {a : AccRec} (hK : Keeps s0 s) :
    Keeps s0 (State.dupRseq s a).2 := by
  rw [show @State.dupRseq = _ from by delta State.dupRseq; rfl]
  refine keeps_iteP ?_ ?_
  · refine keeps_newRseq ?_
    assumption
  · refine keeps_snd ?_
    assumption

theorem keeps_duplicate {s0 s : State} {a : AccRec} (hK : Keeps s0 s) : Keeps s0 (s.duplicate a) := by
  rw [show @State.duplicate = _ from by delta State.duplicate; rfl]
  exact keeps_ite (keeps_mk (keeps_incSat hK)) (keeps_mk (keeps_dupRseq (keeps_incSat hK)))

theorem keeps_placeOrder {s0 : State} {s : State} {f : FrameParts} {frame mac : List Byte} (hK : Keeps s0 s) :
    Keeps s0 (State.placeOrder s f frame mac) := by
  rw [show @State.placeOrder = _ from by delta State.placeOrder; rfl]
  extract_lets +onlyGivenNames -underBinder -merge x1
  try clear_value x1
  extract_lets +onlyGivenNames -underBinder -merge x2
  try clear_value x2
  extract_lets +onlyGivenNames -underBinder -merge x3
  have h3 : Keeps s0 x3 := by
    subst x3
    refine keeps_mk ?_
    assumption
  try clear_value x3
  extract_lets +onlyGivenNames -underBinder -merge x4
  have h4 : Keeps s0 x4 := by
    subst x4
    refine keeps_put ?_
    assumption
  try clear_value x4
  refine keeps_showOrders ?_
  refine keeps_jAdd ?_
  assumption

theorem keeps_ackRep {s0 : State} {s : State} {body : List Byte} (hK : Keeps s0 s) :
    Keeps s0 (State.ackRep s body) := by
  rw [show @State.ackRep = _ from by delta State.ackRep; rfl]
  extract_lets +onlyGivenNames -underBinder -merge x1
  try clear_value x1
  extract_lets +onlyGivenNames -underBinder -merge x2
  try clear_value x2
  extract_lets +onlyGivenNames -underBinder -merge x3
  try clear_value x3
  extract_lets +onlyGivenNames -underBinder -merge x4
  try clear_value x4
  refine keeps_ite ?_ ?_
  · assumption
  · extract_lets +onlyGivenNames -underBinder -merge x5
    have h5 : Keeps s0 x5 := by
      subst x5
      refine keeps_put ?_
      refine keeps_put ?_
      assumption
    try clear_value x5
    extract_lets +onlyGivenNames -underBinder -merge x6
    try clear_value x6
    extract_lets +onlyGivenNames -underBinder -merge x7
    have h7 : Keeps s0 x7 := by
      subst x7
      refine keeps_mk ?_
      assumption
    try clear_value x7
    extract_lets +onlyGivenNames -underBinder -merge x8
    have h8 : Keeps s0 x8 := by
      subst x8
      refine keeps_put ?_
      assumption
    try clear_value x8
    extract_lets +onlyGivenNames -underBinder -merge x9
    have h9 : Keeps s0 x9 := by
      subst x9
      refine keeps_loopL (fun a10_0 y10 h10 => ?_) ?_
      · refine keeps_jAdd ?_
        assumption
      · assumption
    try clear_value x9
    refine keeps_flushLost ?_
    assumption

theorem keeps_ordCancel {s0 : State} {s : State} {q : Nat} (hK : Keeps s0 s) :
    Keeps s0 (State.ordCancel s q) := by
  rw [show @State.ordCancel = _ from by delta State.ordCancel; rfl]
  extract_lets +onlyGivenNames -underBinder -merge x1
  subst x1
  try dsimp -zeta -proj only
  split
  · refine keeps_ite ?_ ?_
    · refine keeps_event ?_
      refine keeps_endOrder ?_
      assumption
    · refine keeps_ite ?_ ?_
      · refine keeps_event ?_
        assumption
      · refine keeps_ite ?_ ?_
        · refine keeps_event ?_
          refine keeps_mapOrders ?_
          assumption
        · refine keeps_event ?_
          assumption
  · refine keeps_event ?_
    assumption

theorem keeps_heartbeat {s0 : State} {s : State} {body : List Byte} (hK : Keeps s0 s) :
    Keeps s0 (State.heartbeat s body) := by
  rw [show @State.heartbeat = _ from by delta State.heartbeat; rfl]
  refine keeps_event ?_
  assumption

theorem keeps_heard {s0 : State} {s : State} (hK : Keeps s0 s) :
    Keeps s0 (State.heard s) := by
  rw [show @State.heard = _ from by delta State.heard; rfl]
  refine keeps_mk ?_
  assumption

theorem keeps_takeFrame {s0 : State} {s : State} {path : Nat} {l mac : List Byte} (hK : Keeps s0 s) :
    Keeps s0 (State.takeFrame s path l mac) := by
  rw [show @State.takeFrame = _ from by delta State.takeFrame; rfl]
  refine keeps_ite ?_ ?_
  · refine keeps_fault ?_
    refine keeps_incSat ?_
    assumption
  · refine keeps_ite ?_ ?_
    · refine keeps_fault ?_
      refine keeps_incSat ?_
      assumption
    · extract_lets +onlyGivenNames -underBinder -merge x1
      try clear_value x1
      split
      · extract_lets +onlyGivenNames -underBinder -merge x2
        have h2 : Keeps s0 x2 := by
          subst x2
          refine keeps_ite ?_ ?_
          · refine keeps_fault ?_
            refine keeps_incSat ?_
            assumption
          · assumption
        try clear_value x2
        refine keeps_refuse ?_
        assumption
      · refine keeps_ite ?_ ?_
        · refine keeps_ite ?_ ?_
          · refine keeps_refuse ?_
            assumption
          · extract_lets +onlyGivenNames -underBinder -merge x3
            have h3 : Keeps s0 x3 := by
              subst x3
              refine keeps_heard ?_
              assumption
            try clear_value x3
            refine keeps_ite ?_ ?_
            · refine keeps_ordCancel ?_
              assumption
            · refine keeps_ite ?_ ?_
              · refine keeps_ackRep ?_
                assumption
              · refine keeps_heartbeat ?_
                assumption
        · refine keeps_ite ?_ ?_
          · split
            · refine keeps_ite ?_ ?_
              · refine keeps_duplicate ?_
                refine keeps_heard ?_
                assumption
              · refine keeps_refuse ?_
                assumption
            · refine keeps_fault ?_
              refine keeps_refuse ?_
              assumption
          · refine keeps_ite ?_ ?_
            · refine keeps_refuse ?_
              assumption
            · split
              · refine keeps_ite ?_ ?_
                · refine keeps_fault ?_
                  refine keeps_refuse ?_
                  assumption
                · refine keeps_refuse ?_
                  assumption
              · refine keeps_placeOrder ?_
                refine keeps_heard ?_
                assumption

theorem keeps_execMasterFrame {s0 : State} {ring : Bool} {s : State} (hK : Keeps s0 s) :
    Goes s0 (execMasterFrame ring s) := by
  rw [show @execMasterFrame = _ from by delta execMasterFrame; rfl]
  refine goes_ite ?_ ?_
  · refine goes_next ?_
    assumption
  · refine goes_ite ?_ ?_
    · split
      · refine goes_next ?_
        assumption
      · extract_lets +onlyGivenNames -underBinder -merge x1
        have h1 : Keeps s0 x1 := by
          subst x1
          refine keeps_mk ?_
          assumption
        try clear_value x1
        refine goes_next ?_
        refine keeps_ite ?_ ?_
        · refine keeps_takeFrame ?_
          assumption
        · refine keeps_incSat ?_
          assumption
    · split
      · refine goes_next ?_
        assumption
      · extract_lets +onlyGivenNames -underBinder -merge x2
        have h2 : Keeps s0 x2 := by
          subst x2
          refine keeps_setMpRx ?_ ?_
          · exact fun i => by simp_all; omega
          · assumption
        try clear_value x2
        refine goes_next ?_
        refine keeps_ite ?_ ?_
        · refine keeps_incSat ?_
          assumption
        · refine keeps_takeFrame ?_
          assumption

theorem keeps_fragment {s0 : State} {s : State} {mac pay : List Byte} (hK : Keeps s0 s) :
    Keeps s0 (State.fragment s mac pay) := by
  rw [show @State.fragment = _ from by delta State.fragment; rfl]
  extract_lets +onlyGivenNames -underBinder -merge x1
  try clear_value x1
  extract_lets +onlyGivenNames -underBinder -merge x2
  try clear_value x2
  extract_lets +onlyGivenNames -underBinder -merge x3
  try clear_value x3
  extract_lets +onlyGivenNames -underBinder -merge x4
  try clear_value x4
  refine keeps_ite ?_ ?_
  · refine keeps_incSat ?_
    assumption
  · extract_lets +onlyGivenNames -underBinder -merge x5
    subst x5
    try dsimp -zeta -proj only
    extract_lets +onlyGivenNames -underBinder -merge x6
    try clear_value x6
    extract_lets +onlyGivenNames -underBinder -merge x7
    try clear_value x7
    refine keeps_ite ?_ ?_
    · extract_lets +onlyGivenNames -underBinder -merge x8
      try clear_value x8
      extract_lets +onlyGivenNames -underBinder -merge x9
      have h9 : Keeps s0 x9 := by
        subst x9
        refine keeps_mk ?_
        assumption
      try clear_value x9
      refine keeps_setReasm ?_ ?_
      · exact Nat.le_trans (List.length_filter_le _ _)
      · assumption
    · refine keeps_ite ?_ ?_
      · refine keeps_setReasm ?_ ?_
        · exact fun i => by rw [List.length_map]; exact i
        · assumption
      · refine keeps_setReasm ?_ ?_
        · exact length_shift _ _
        · assumption

theorem keeps_execRingFragment {s0 : State} {p : RingPort} {f : RingFrame} {s : State} (hK : Keeps s0 s) :
    Goes s0 (execRingFragment p f s) := by
  rw [show @execRingFragment = _ from by delta execRingFragment; rfl]
  split
  · rename_i heq
    have h1 := keeps_of_eqP (s0 := s0) heq (by
      refine keeps_ringRx ?_
      assumption)
    split
    · refine goes_next ?_
      assumption
    · split
      · refine goes_next ?_
        refine keeps_incSat ?_
        assumption
      · refine goes_next ?_
        refine keeps_fragment ?_
        assumption

theorem keeps_execReassemblyTimeout {s0 : State} {s : State} (hK : Keeps s0 s) :
    Goes s0 (execReassemblyTimeout s) := by
  rw [show @execReassemblyTimeout = _ from by delta execReassemblyTimeout; rfl]
  split
  · refine goes_next ?_
    assumption
  · extract_lets +onlyGivenNames -underBinder -merge x1
    have h1 : Keeps s0 x1 := by
      subst x1
      refine keeps_setReasm ?_ ?_
      · rename_i e; exact fun i => by rw [e] at i; rw [List.length_cons] at i; omega
      · assumption
    try clear_value x1
    refine goes_next ?_
    refine keeps_fault ?_
    refine keeps_incSat ?_
    refine keeps_until ?_
    assumption

theorem keeps_batchClose {s0 : State} {s : State} (hK : Keeps s0 s) :
    Keeps s0 (State.batchClose s) := by
  rw [show @State.batchClose = _ from by delta State.batchClose; rfl]
  extract_lets +onlyGivenNames -underBinder -merge x1
  try clear_value x1
  refine keeps_ite ?_ ?_
  · assumption
  · extract_lets +onlyGivenNames -underBinder -merge x2
    try clear_value x2
    extract_lets +onlyGivenNames -underBinder -merge x3
    have h3 : Keeps s0 x3 := by
      subst x3
      refine keeps_ite ?_ ?_
      · assumption
      · refine keeps_until ?_
        assumption
    try clear_value x3
    split
    · rename_i heq
      have h4 := keeps_of_eqP (s0 := s0) heq (by
        refine keeps_foldlP (fun acc5 a5 h5 => ?_) ?_
        · split
          · refine keeps_iteP ?_ ?_
            · split
              · rename_i heq
                have h7 := keeps_of_eqP (s0 := s0) heq (by
                  refine keeps_newRseq ?_
                  assumption)
                refine keeps_snd ?_
                assumption
            · refine keeps_snd ?_
              assumption
        · refine keeps_snd ?_
          assumption)
      refine keeps_putB ?_
      refine keeps_mk ?_
      assumption

theorem keeps_execBatchClose {s0 : State} {s : State} (hK : Keeps s0 s) :
    Goes s0 (execBatchClose s) := by
  rw [show @execBatchClose = _ from by delta execBatchClose; rfl]
  refine goes_next ?_
  refine keeps_batchClose ?_
  assumption

theorem keeps_committed {s0 : State} {s : State} {r : JRec} (hK : Keeps s0 s) :
    Keeps s0 (State.committed s r) := by
  rw [show @State.committed = _ from by delta State.committed; rfl]
  refine keeps_ite ?_ ?_
  · split
    · assumption
    · extract_lets +onlyGivenNames -underBinder -merge x1
      have h1 : Keeps s0 x1 := by
        subst x1
        refine keeps_mapOrders ?_
        assumption
      try clear_value x1
      extract_lets +onlyGivenNames -underBinder -merge x2
      have h2 : Keeps s0 x2 := by
        subst x2
        refine keeps_incSat ?_
        assumption
      try clear_value x2
      extract_lets +onlyGivenNames -underBinder -merge x3
      have h3 : Keeps s0 x3 := by
        subst x3
        refine keeps_ite ?_ ?_
        · assumption
        · refine keeps_mk ?_
          assumption
      try clear_value x3
      extract_lets +onlyGivenNames -underBinder -merge x4
      try clear_value x4
      extract_lets +onlyGivenNames -underBinder -merge x5
      try clear_value x5
      extract_lets +onlyGivenNames -underBinder -merge x6
      have h6 : Keeps s0 x6 := by
        subst x6
        refine keeps_setAccHist ?_ ?_
        · exact List.length_take_le _ _
        · assumption
      try clear_value x6
      refine keeps_addReport ?_
      assumption
  · refine keeps_recReport ?_
    assumption

theorem keeps_batchDiscard {s0 : State} {s : State} (hK : Keeps s0 s) :
    Keeps s0 (State.batchDiscard s) := by
  rw [show @State.batchDiscard = _ from by delta State.batchDiscard; rfl]
  extract_lets +onlyGivenNames -underBinder -merge x1
  try clear_value x1
  extract_lets +onlyGivenNames -underBinder -merge x2
  try clear_value x2
  extract_lets +onlyGivenNames -underBinder -merge x3
  subst x3
  try dsimp -zeta -proj only
  extract_lets +onlyGivenNames -underBinder -merge x4
  have h4 : Keeps s0 x4 := by
    subst x4
    refine keeps_mk ?_
    assumption
  try clear_value x4
  extract_lets +onlyGivenNames -underBinder -merge x5
  have h5 : Keeps s0 x5 := by
    subst x5
    split
    · refine keeps_put ?_
      assumption
    · assumption
  try clear_value x5
  refine keeps_showOrders ?_
  refine keeps_putB ?_
  assumption

theorem keeps_loseMacro {s0 : State} {s : State} {m : Nat} (hK : Keeps s0 s) :
    Keeps s0 (State.loseMacro s m) := by
  rw [show @State.loseMacro = _ from by delta State.loseMacro; rfl]
  extract_lets +onlyGivenNames -underBinder -merge x1
  have h1 : Keeps s0 x1 := by
    subst x1
    refine keeps_fault ?_
    refine keeps_retryL ?_
    assumption
  try clear_value x1
  extract_lets +onlyGivenNames -underBinder -merge x2
  have h2 : Keeps s0 x2 := by
    subst x2
    refine keeps_putB ?_
    assumption
  try clear_value x2
  refine keeps_event ?_
  refine keeps_fault ?_
  assumption

theorem keeps_batchWritten {s0 : State} {s : State} {j : JournalRec} {good : Nat → Bool} (hK : Keeps s0 s) :
    Keeps s0 (State.batchWritten s j good) := by
  rw [show @State.batchWritten = _ from by delta State.batchWritten; rfl]
  extract_lets +onlyGivenNames -underBinder -merge x1
  try clear_value x1
  extract_lets +onlyGivenNames -underBinder -merge x2
  try clear_value x2
  extract_lets +onlyGivenNames -underBinder -merge x3
  try clear_value x3
  extract_lets +onlyGivenNames -underBinder -merge x4
  have h4 : Keeps s0 x4 := by
    subst x4
    refine keeps_loopN (fun a5_0 y5 h5 => ?_) ?_
    · refine keeps_ite ?_ ?_
      · refine keeps_jPut ?_
        assumption
      · assumption
    · assumption
  try clear_value x4
  extract_lets +onlyGivenNames -underBinder -merge x6
  try clear_value x6
  extract_lets +onlyGivenNames -underBinder -merge x7
  try clear_value x7
  extract_lets +onlyGivenNames -underBinder -merge x8
  have h8 : Keeps s0 x8 := by
    subst x8
    refine keeps_mk ?_
    assumption
  try clear_value x8
  extract_lets +onlyGivenNames -underBinder -merge x9
  have h9 : Keeps s0 x9 := by
    subst x9
    refine keeps_putB ?_
    assumption
  try clear_value x9
  extract_lets +onlyGivenNames -underBinder -merge x10
  try clear_value x10
  extract_lets +onlyGivenNames -underBinder -merge x11
  have h11 : Keeps s0 x11 := by
    subst x11
    refine keeps_ite ?_ ?_
    · refine keeps_put ?_
      assumption
    · assumption
  try clear_value x11
  extract_lets +onlyGivenNames -underBinder -merge x12
  have h12 : Keeps s0 x12 := by
    subst x12
    refine keeps_showFree ?_
    assumption
  try clear_value x12
  extract_lets +onlyGivenNames -underBinder -merge x13
  have h13 : Keeps s0 x13 := by
    subst x13
    refine keeps_loopL (fun a14_0 y14 h14 => ?_) ?_
    · refine keeps_committed ?_
      assumption
    · assumption
  try clear_value x13
  refine keeps_jKick ?_
  refine keeps_askCompaction ?_
  assumption

theorem keeps_batchCommit {s0 : State} {s : State} {r0 r1 : WrRes} {dur : Nat} (hK : Keeps s0 s) :
    Keeps s0 (State.batchCommit s r0 r1 dur) := by
  rw [show @State.batchCommit = _ from by delta State.batchCommit; rfl]
  extract_lets +onlyGivenNames -underBinder -merge x1
  try clear_value x1
  refine keeps_ite ?_ ?_
  · assumption
  · extract_lets +onlyGivenNames -underBinder -merge x2
    have h2 : Keeps s0 x2 := by
      subst x2
      refine keeps_putB ?_
      refine keeps_until ?_
      assumption
    try clear_value x2
    extract_lets +onlyGivenNames -underBinder -merge x3
    subst x3
    try dsimp -zeta -proj only
    extract_lets +onlyGivenNames -underBinder -merge x4
    subst x4
    try dsimp -zeta -proj only
    extract_lets +onlyGivenNames -underBinder -merge x5
    subst x5
    try dsimp -zeta -proj only
    extract_lets +onlyGivenNames -underBinder -merge x6
    have h6 : Keeps s0 x6 := by
      subst x6
      refine keeps_loopN (fun a7_0 y7 h7 => ?_) ?_
      · refine keeps_ite ?_ ?_
        · assumption
        · split
          · assumption
          · refine keeps_retryT ?_
            assumption
          · refine keeps_loseMacro ?_
            assumption
      · assumption
    try clear_value x6
    refine keeps_ite ?_ ?_
    · extract_lets +onlyGivenNames -underBinder -merge x8
      have h8 : Keeps s0 x8 := by
        subst x8
        refine keeps_batchDiscard ?_
        assumption
      try clear_value x8
      extract_lets +onlyGivenNames -underBinder -merge x9
      have h9 : Keeps s0 x9 := by
        subst x9
        refine keeps_fault ?_
        refine keeps_putB ?_
        assumption
      try clear_value x9
      extract_lets +onlyGivenNames -underBinder -merge x10
      try clear_value x10
      extract_lets +onlyGivenNames -underBinder -merge x11
      try clear_value x11
      extract_lets +onlyGivenNames -underBinder -merge x12
      have h12 : Keeps s0 x12 := by
        subst x12
        refine keeps_mk ?_
        assumption
      try clear_value x12
      refine keeps_loopL (fun a13_0 y13 h13 => ?_) ?_
      · refine keeps_jAdd ?_
        assumption
      · assumption
    · refine keeps_ite ?_ ?_
      · refine keeps_jKick ?_
        refine keeps_batchDiscard ?_
        assumption
      · refine keeps_batchWritten ?_
        assumption

theorem keeps_execBatchCommit {s0 : State} {r0 r1 : WrRes} {dur : Nat} {s : State} (hK : Keeps s0 s) :
    Goes s0 (execBatchCommit r0 r1 dur s) := by
  rw [show @execBatchCommit = _ from by delta execBatchCommit; rfl]
  refine goes_next ?_
  refine keeps_batchCommit ?_
  assumption

theorem keeps_orderStart {s0 : State} {s : State} (hK : Keeps s0 s) :
    Keeps s0 (State.orderStart s) := by
  rw [show @State.orderStart = _ from by delta State.orderStart; rfl]
  split
  · assumption
  · refine keeps_ite ?_ ?_
    · assumption
    · refine keeps_ite ?_ ?_
      · refine keeps_endOrder ?_
        assumption
      · refine keeps_ite ?_ ?_
        · refine keeps_demand ?_
          assumption
        · extract_lets +onlyGivenNames -underBinder -merge x1
          have h1 : Keeps s0 x1 := by
            subst x1
            refine keeps_mapOrders ?_
            assumption
          try clear_value x1
          refine keeps_jAdd ?_
          assumption

theorem keeps_execOrderStart {s0 : State} {s : State} (hK : Keeps s0 s) :
    Goes s0 (execOrderStart s) := by
  rw [show @execOrderStart = _ from by delta execOrderStart; rfl]
  refine goes_next ?_
  refine keeps_orderStart ?_
  assumption

theorem keeps_execOrdCall {s0 : State} {lane : Fin 33} {s : State} (hK : Keeps s0 s) :
    Goes s0 (execOrdCall lane s) := by
  rw [show @execOrdCall = _ from by delta execOrdCall; rfl]
  split
  · refine goes_next ?_
    assumption
  · refine goes_ite ?_ ?_
    · refine goes_next ?_
      assumption
    · split
      · refine goes_next ?_
        refine keeps_endOrder ?_
        assumption
      · split
        · refine goes_next ?_
          refine keeps_endOrder ?_
          assumption
        · extract_lets +onlyGivenNames -underBinder -merge x1
          have h1 : Keeps s0 x1 := by
            subst x1
            refine keeps_mapOrders ?_
            assumption
          try clear_value x1
          extract_lets +onlyGivenNames -underBinder -merge x2
          try clear_value x2
          extract_lets +onlyGivenNames -underBinder -merge x3
          have h3 : Keeps s0 x3 := by
            subst x3
            refine keeps_setTask ?_
            assumption
          try clear_value x3
          refine goes_next ?_
          refine keeps_deliver ?_
          assumption
        · refine goes_next ?_
          assumption

theorem keeps_execReportSend {s0 : State} {s : State} (hK : Keeps s0 s) :
    Goes s0 (execReportSend s) := by
  rw [show @execReportSend = _ from by delta execReportSend; rfl]
  refine goes_ite ?_ ?_
  · refine goes_next ?_
    assumption
  · split
    · refine goes_next ?_
      assumption
    · extract_lets +onlyGivenNames -underBinder -merge x1
      try clear_value x1
      extract_lets +onlyGivenNames -underBinder -merge x2
      try clear_value x2
      extract_lets +onlyGivenNames -underBinder -merge x3
      try clear_value x3
      extract_lets +onlyGivenNames -underBinder -merge x4
      try clear_value x4
      extract_lets +onlyGivenNames -underBinder -merge x5
      try clear_value x5
      extract_lets +onlyGivenNames -underBinder -merge x6
      have h6 : Keeps s0 x6 := by
        subst x6
        refine keeps_mk ?_
        assumption
      try clear_value x6
      extract_lets +onlyGivenNames -underBinder -merge x7
      have h7 : Keeps s0 x7 := by
        subst x7
        refine keeps_loopL (fun a8_0 y8 h8 => ?_) ?_
        · refine keeps_ringSend ?_
          assumption
        · assumption
      try clear_value x7
      refine goes_next ?_
      refine keeps_reportSent ?_
      assumption

theorem keeps_execReportResendTimeout {s0 : State} {s : State} (hK : Keeps s0 s) :
    Goes s0 (execReportResendTimeout s) := by
  rw [show @execReportResendTimeout = _ from by delta execReportResendTimeout; rfl]
  extract_lets +onlyGivenNames -underBinder -merge x1
  try clear_value x1
  extract_lets +onlyGivenNames -underBinder -merge x2
  subst x2
  try dsimp -zeta -proj only
  extract_lets +onlyGivenNames -underBinder -merge x3
  try clear_value x3
  refine goes_ite ?_ ?_
  · refine goes_next ?_
    refine keeps_mk ?_
    assumption
  · split
    · refine goes_next ?_
      assumption
    · extract_lets +onlyGivenNames -underBinder -merge x4
      have h4 : Keeps s0 x4 := by
        subst x4
        refine keeps_until ?_
        assumption
      try clear_value x4
      refine goes_next ?_
      refine keeps_mk ?_
      assumption

theorem keeps_execMasterSilent {s0 : State} {s : State} (hK : Keeps s0 s) :
    Goes s0 (execMasterSilent s) := by
  rw [show @execMasterSilent = _ from by delta execMasterSilent; rfl]
  extract_lets +onlyGivenNames -underBinder -merge x1
  try clear_value x1
  refine goes_ite ?_ ?_
  · refine goes_next ?_
    assumption
  · extract_lets +onlyGivenNames -underBinder -merge x2
    have h2 : Keeps s0 x2 := by
      subst x2
      refine keeps_until ?_
      assumption
    try clear_value x2
    extract_lets +onlyGivenNames -underBinder -merge x3
    have h3 : Keeps s0 x3 := by
      subst x3
      refine keeps_mk ?_
      assumption
    try clear_value x3
    extract_lets +onlyGivenNames -underBinder -merge x4
    have h4 : Keeps s0 x4 := by
      subst x4
      refine keeps_event ?_
      refine keeps_fault ?_
      assumption
    try clear_value x4
    refine goes_ite ?_ ?_
    · extract_lets +onlyGivenNames -underBinder -merge x5
      try clear_value x5
      extract_lets +onlyGivenNames -underBinder -merge x6
      have h6 : Keeps s0 x6 := by
        subst x6
        refine keeps_loopL (fun a7_0 y7 h7 => ?_) ?_
        · refine keeps_endOrder ?_
          assumption
        · assumption
      try clear_value x6
      refine goes_next ?_
      refine keeps_mapOrders ?_
      assumption
    · refine goes_next ?_
      assumption

theorem keeps_execMpWrite {s0 : State} {l : List Byte} {s : State} (hK : Keeps s0 s) :
    Goes s0 (execMpWrite l s) := by
  rw [show @execMpWrite = _ from by delta execMpWrite; rfl]
  split
  · refine goes_next ?_
    assumption
  · split
    · refine goes_next ?_
      refine keeps_incSat ?_
      assumption
    · split
      · refine goes_next ?_
        refine keeps_incSat ?_
        assumption
      · split
        · refine goes_next ?_
          refine keeps_fault ?_
          refine keeps_incSat ?_
          assumption
        · refine goes_next ?_
          refine keeps_setMpRx ?_ ?_
          · exact fun _ => by rw [List.length_append, List.length_singleton]; omega
          · assumption

theorem keeps_execMpRead {s0 : State} {n : Nat} {s : State} (hK : Keeps s0 s) :
    Goes s0 (execMpRead n s) := by
  rw [show @execMpRead = _ from by delta execMpRead; rfl]
  refine goes_ite ?_ ?_
  · refine goes_next ?_
    refine keeps_mk ?_
    assumption
  · split
    · refine goes_next ?_
      refine keeps_mk ?_
      assumption
    · extract_lets +onlyGivenNames -underBinder -merge x1
      try clear_value x1
      extract_lets +onlyGivenNames -underBinder -merge x2
      have h2 : Keeps s0 x2 := by
        subst x2
        refine keeps_mk ?_
        assumption
      try clear_value x2
      refine goes_next ?_
      refine keeps_ite ?_ ?_
      · refine keeps_reportSent ?_
        assumption
      · assumption

theorem keeps_execMpStatus {s0 : State} {s : State} (hK : Keeps s0 s) :
    Goes s0 (execMpStatus s) := by
  rw [show @execMpStatus = _ from by delta execMpStatus; rfl]
  refine goes_ite ?_ ?_
  · refine goes_next ?_
    refine keeps_mk ?_
    assumption
  · extract_lets +onlyGivenNames -underBinder -merge x1
    try clear_value x1
    refine goes_next ?_
    refine keeps_mk ?_
    assumption

theorem keeps_cntClr {s0 : State} {s : State} {v : Word} (hK : Keeps s0 s) :
    Keeps s0 (State.cntClr s v) := by
  rw [show @State.cntClr = _ from by delta State.cntClr; rfl]
  extract_lets +onlyGivenNames -underBinder -merge x1
  have h1 : Keeps s0 x1 := by
    subst x1
    refine keeps_loopN (fun a2_0 y2 h2 => ?_) ?_
    · refine keeps_ite ?_ ?_
      · refine keeps_put ?_
        assumption
      · assumption
    · assumption
  try clear_value x1
  refine keeps_ite ?_ ?_
  · refine keeps_put ?_
    assumption
  · assumption

theorem keeps_execMasterCntclr {s0 : State} {v : Word} {s : State} (hK : Keeps s0 s) :
    Goes s0 (execMasterCntclr v s) := by
  rw [show @execMasterCntclr = _ from by delta execMasterCntclr; rfl]
  refine keeps_onRegW (fun a1_0 y1 h1 => ?_) ?_
  · refine goes_next ?_
    refine keeps_cntClr ?_
    assumption
  · assumption

end Sys2Proof.Machine
end

