-- ==== Sys2Proof/Laws/KeepsOperands.lean ====
section
/-! SUPPORT. Laws/KeepsOperands.lean: what the operations of Machine/Operands.lean keep. -/
namespace Sys2Proof.Machine

theorem goes_runI {s0 s : State} {p : PairNo} {word : Word} {legal v2 : Bool} {f : State → Nat → Ctx → IRes}
    (hf : ∀ y key c, Keeps s0 y → IGoes s0 (f y key c)) (h : Keeps s0 s) : Goes s0 (runI p word legal v2 f s) := by
  have k := keeps_settleClaim (p := p) h
  unfold runI
  dsimp only
  split
  · split
    · exact goes_next k
    · rename_i key _
      refine goes_ite (goes_next k) ?_
      split
      · exact goes_next (keeps_pairFault k)
      · rename_i u e
        have m := keeps_of_eqM e (keeps_memRead k)
        refine goes_ite (goes_next (keeps_trap m)) ?_
        have g := hf u key (u.task key).ctx m
        revert g
        generalize f u key (u.task key).ctx = r
        intro g
        cases g with
        | ok t c n pc g => exact goes_next (keeps_retire g)
        | fin t c g => exact goes_next (keeps_endActivation (keeps_retire g))
        | trap t a b w g => exact goes_next (keeps_trap g)
        | wait t g => exact goes_next g
        | ue => exact goes_next (keeps_pairFault m)
  · exact goes_next k

theorem keeps_runReg {s0 : State} {p : PairNo} {word : Word} {legal v2 : Bool} {cyc : Nat} {f : Ctx → Ctx} {s : State} (hK : Keeps s0 s) :
    Goes s0 (runReg p word legal v2 cyc f s) := by
  rw [show @runReg = _ from by delta runReg; rfl]
  refine goes_runI (fun y1 a1_1 a1_2 h1 => ?_) ?_
  · refine igoes_ok ?_
    assumption
  · assumption

end Sys2Proof.Machine
end

