-- ==== Sys2Proof/Laws/KeepsOnnusInt.lean ====
section
/-! SUPPORT. Laws/KeepsOnnusInt.lean: what the operations of Machine/OnnusInt.lean keep. -/
namespace Sys2Proof.Machine

theorem keeps_intA {s0 : State} {op func cyc : Nat} {g2 : Bool} {f : Word → Word → Word} {p : PairNo} {gd gs1 gs2 : BitVec 5} {s : State} (hK : Keeps s0 s) :
    Goes s0 (intA op func cyc g2 f p gd gs1 gs2 s) := by
  rw [show @intA = _ from by delta intA; rfl]
  refine keeps_runReg ?_
  assumption

theorem keeps_intB {s0 : State} {op : Nat} {ok : Bool} {f : Word → Word} {p : PairNo} {gd gs1 : BitVec 5} {imm : BitVec 15} {s : State} (hK : Keeps s0 s) :
    Goes s0 (intB op ok f p gd gs1 imm s) := by
  rw [show @intB = _ from by delta intB; rfl]
  refine keeps_runReg ?_
  assumption

theorem keeps_execAdd {s0 s : State} {p : PairNo} {gd gs1 gs2 : BitVec 5} (h : Keeps s0 s) : Goes s0 (execAdd p gd gs1 gs2 s) := keeps_intA h

theorem keeps_execSub {s0 s : State} {p : PairNo} {gd gs1 gs2 : BitVec 5} (h : Keeps s0 s) : Goes s0 (execSub p gd gs1 gs2 s) := keeps_intA h

theorem keeps_execAnd {s0 s : State} {p : PairNo} {gd gs1 gs2 : BitVec 5} (h : Keeps s0 s) : Goes s0 (execAnd p gd gs1 gs2 s) := keeps_intA h

theorem keeps_execOr {s0 s : State} {p : PairNo} {gd gs1 gs2 : BitVec 5} (h : Keeps s0 s) : Goes s0 (execOr p gd gs1 gs2 s) := keeps_intA h

theorem keeps_execXor {s0 s : State} {p : PairNo} {gd gs1 gs2 : BitVec 5} (h : Keeps s0 s) : Goes s0 (execXor p gd gs1 gs2 s) := keeps_intA h

theorem keeps_execSll {s0 s : State} {p : PairNo} {gd gs1 gs2 : BitVec 5} (h : Keeps s0 s) : Goes s0 (execSll p gd gs1 gs2 s) := keeps_intA h

theorem keeps_execSrl {s0 s : State} {p : PairNo} {gd gs1 gs2 : BitVec 5} (h : Keeps s0 s) : Goes s0 (execSrl p gd gs1 gs2 s) := keeps_intA h

theorem keeps_execSra {s0 s : State} {p : PairNo} {gd gs1 gs2 : BitVec 5} (h : Keeps s0 s) : Goes s0 (execSra p gd gs1 gs2 s) := keeps_intA h

theorem keeps_execSlt {s0 s : State} {p : PairNo} {gd gs1 gs2 : BitVec 5} (h : Keeps s0 s) : Goes s0 (execSlt p gd gs1 gs2 s) := keeps_intA h

theorem keeps_execSltu {s0 s : State} {p : PairNo} {gd gs1 gs2 : BitVec 5} (h : Keeps s0 s) : Goes s0 (execSltu p gd gs1 gs2 s) := keeps_intA h

theorem keeps_execMin {s0 s : State} {p : PairNo} {gd gs1 gs2 : BitVec 5} (h : Keeps s0 s) : Goes s0 (execMin p gd gs1 gs2 s) := keeps_intA h

theorem keeps_execMax {s0 s : State} {p : PairNo} {gd gs1 gs2 : BitVec 5} (h : Keeps s0 s) : Goes s0 (execMax p gd gs1 gs2 s) := keeps_intA h

theorem keeps_execMinu {s0 s : State} {p : PairNo} {gd gs1 gs2 : BitVec 5} (h : Keeps s0 s) : Goes s0 (execMinu p gd gs1 gs2 s) := keeps_intA h

theorem keeps_execMaxu {s0 s : State} {p : PairNo} {gd gs1 gs2 : BitVec 5} (h : Keeps s0 s) : Goes s0 (execMaxu p gd gs1 gs2 s) := keeps_intA h

theorem keeps_execClz {s0 s : State} {p : PairNo} {gd gs1 gs2 : BitVec 5} (h : Keeps s0 s) : Goes s0 (execClz p gd gs1 gs2 s) := keeps_intA h

theorem keeps_execMul {s0 s : State} {p : PairNo} {gd gs1 gs2 : BitVec 5} (h : Keeps s0 s) : Goes s0 (execMul p gd gs1 gs2 s) := keeps_intA h

theorem keeps_execMulh {s0 s : State} {p : PairNo} {gd gs1 gs2 : BitVec 5} (h : Keeps s0 s) : Goes s0 (execMulh p gd gs1 gs2 s) := keeps_intA h

theorem keeps_execMulhu {s0 s : State} {p : PairNo} {gd gs1 gs2 : BitVec 5} (h : Keeps s0 s) : Goes s0 (execMulhu p gd gs1 gs2 s) := keeps_intA h

theorem keeps_execDiv {s0 s : State} {p : PairNo} {gd gs1 gs2 : BitVec 5} (h : Keeps s0 s) : Goes s0 (execDiv p gd gs1 gs2 s) := keeps_intA h

theorem keeps_execDivu {s0 s : State} {p : PairNo} {gd gs1 gs2 : BitVec 5} (h : Keeps s0 s) : Goes s0 (execDivu p gd gs1 gs2 s) := keeps_intA h

theorem keeps_execRem {s0 s : State} {p : PairNo} {gd gs1 gs2 : BitVec 5} (h : Keeps s0 s) : Goes s0 (execRem p gd gs1 gs2 s) := keeps_intA h

theorem keeps_execRemu {s0 s : State} {p : PairNo} {gd gs1 gs2 : BitVec 5} (h : Keeps s0 s) : Goes s0 (execRemu p gd gs1 gs2 s) := keeps_intA h

theorem keeps_execAddi {s0 : State} {p : PairNo} {gd gs1 : BitVec 5} {imm : BitVec 15} {s : State} (hK : Keeps s0 s) :
    Goes s0 (execAddi p gd gs1 imm s) := by
  rw [show @execAddi = _ from by delta execAddi; rfl]
  refine keeps_intB ?_
  assumption

theorem keeps_execAndi {s0 : State} {p : PairNo} {gd gs1 : BitVec 5} {imm : BitVec 15} {s : State} (hK : Keeps s0 s) :
    Goes s0 (execAndi p gd gs1 imm s) := by
  rw [show @execAndi = _ from by delta execAndi; rfl]
  refine keeps_intB ?_
  assumption

theorem keeps_execOri {s0 : State} {p : PairNo} {gd gs1 : BitVec 5} {imm : BitVec 15} {s : State} (hK : Keeps s0 s) :
    Goes s0 (execOri p gd gs1 imm s) := by
  rw [show @execOri = _ from by delta execOri; rfl]
  refine keeps_intB ?_
  assumption

theorem keeps_execXori {s0 : State} {p : PairNo} {gd gs1 : BitVec 5} {imm : BitVec 15} {s : State} (hK : Keeps s0 s) :
    Goes s0 (execXori p gd gs1 imm s) := by
  rw [show @execXori = _ from by delta execXori; rfl]
  refine keeps_intB ?_
  assumption

theorem keeps_execSlti {s0 : State} {p : PairNo} {gd gs1 : BitVec 5} {imm : BitVec 15} {s : State} (hK : Keeps s0 s) :
    Goes s0 (execSlti p gd gs1 imm s) := by
  rw [show @execSlti = _ from by delta execSlti; rfl]
  refine keeps_intB ?_
  assumption

theorem keeps_execSltiu {s0 : State} {p : PairNo} {gd gs1 : BitVec 5} {imm : BitVec 15} {s : State} (hK : Keeps s0 s) :
    Goes s0 (execSltiu p gd gs1 imm s) := by
  rw [show @execSltiu = _ from by delta execSltiu; rfl]
  refine keeps_intB ?_
  assumption

theorem keeps_execSlli {s0 : State} {p : PairNo} {gd gs1 : BitVec 5} {imm : BitVec 15} {s : State} (hK : Keeps s0 s) :
    Goes s0 (execSlli p gd gs1 imm s) := by
  rw [show @execSlli = _ from by delta execSlli; rfl]
  refine keeps_intB ?_
  assumption

theorem keeps_execSrli {s0 : State} {p : PairNo} {gd gs1 : BitVec 5} {imm : BitVec 15} {s : State} (hK : Keeps s0 s) :
    Goes s0 (execSrli p gd gs1 imm s) := by
  rw [show @execSrli = _ from by delta execSrli; rfl]
  refine keeps_intB ?_
  assumption

theorem keeps_execSrai {s0 : State} {p : PairNo} {gd gs1 : BitVec 5} {imm : BitVec 15} {s : State} (hK : Keeps s0 s) :
    Goes s0 (execSrai p gd gs1 imm s) := by
  rw [show @execSrai = _ from by delta execSrai; rfl]
  refine keeps_intB ?_
  assumption

theorem keeps_execLui {s0 : State} {p : PairNo} {gd : BitVec 5} {imm : BitVec 20} {s : State} (hK : Keeps s0 s) :
    Goes s0 (execLui p gd imm s) := by
  rw [show @execLui = _ from by delta execLui; rfl]
  refine keeps_runReg ?_
  assumption

theorem keeps_fixA {s0 : State} {func : Nat} {g2 : Bool} {f : Int → Int → Int} {p : PairNo} {gd gs1 gs2 : BitVec 5} {s : State} (hK : Keeps s0 s) :
    Goes s0 (fixA func g2 f p gd gs1 gs2 s) := by
  rw [show @fixA = _ from by delta fixA; rfl]
  refine keeps_runReg ?_
  assumption

theorem keeps_fixH {s0 : State} {func : Nat} {f : Int → Int → Int} {p : PairNo} {gd gs1 gs2 : BitVec 5} {s : State} (hK : Keeps s0 s) :
    Goes s0 (fixH func f p gd gs1 gs2 s) := by
  rw [show @fixH = _ from by delta fixH; rfl]
  refine keeps_runReg ?_
  assumption

theorem keeps_execQadd {s0 s : State} {p : PairNo} {gd gs1 gs2 : BitVec 5} (h : Keeps s0 s) : Goes s0 (execQadd p gd gs1 gs2 s) := keeps_fixA h

theorem keeps_execQsub {s0 s : State} {p : PairNo} {gd gs1 gs2 : BitVec 5} (h : Keeps s0 s) : Goes s0 (execQsub p gd gs1 gs2 s) := keeps_fixA h

theorem keeps_execQmul {s0 : State} {p : PairNo} {gd gs1 gs2 : BitVec 5} {s : State} (hK : Keeps s0 s) :
    Goes s0 (execQmul p gd gs1 gs2 s) := by
  rw [show @execQmul = _ from by delta execQmul; rfl]
  refine goes_runI (fun y1 a1_1 a1_2 h1 => ?_) ?_
  · extract_lets +onlyGivenNames -underBinder -merge x2
    try clear_value x2
    refine igoes_ok ?_
    assumption
  · assumption

theorem keeps_execQneg {s0 s : State} {p : PairNo} {gd gs1 gs2 : BitVec 5} (h : Keeps s0 s) : Goes s0 (execQneg p gd gs1 gs2 s) := keeps_fixA h

theorem keeps_execQabs {s0 s : State} {p : PairNo} {gd gs1 gs2 : BitVec 5} (h : Keeps s0 s) : Goes s0 (execQabs p gd gs1 gs2 s) := keeps_fixA h

theorem keeps_execQshl {s0 s : State} {p : PairNo} {gd gs1 gs2 : BitVec 5} (h : Keeps s0 s) : Goes s0 (execQshl p gd gs1 gs2 s) := keeps_fixA h

theorem keeps_execQshr {s0 s : State} {p : PairNo} {gd gs1 gs2 : BitVec 5} (h : Keeps s0 s) : Goes s0 (execQshr p gd gs1 gs2 s) := keeps_fixA h

theorem keeps_execQadd2 {s0 s : State} {p : PairNo} {gd gs1 gs2 : BitVec 5} (h : Keeps s0 s) : Goes s0 (execQadd2 p gd gs1 gs2 s) := keeps_fixH h

theorem keeps_execQsub2 {s0 s : State} {p : PairNo} {gd gs1 gs2 : BitVec 5} (h : Keeps s0 s) : Goes s0 (execQsub2 p gd gs1 gs2 s) := keeps_fixH h

theorem keeps_execQmul2 {s0 : State} {p : PairNo} {gd gs1 gs2 : BitVec 5} {s : State} (hK : Keeps s0 s) :
    Goes s0 (execQmul2 p gd gs1 gs2 s) := by
  rw [show @execQmul2 = _ from by delta execQmul2; rfl]
  refine goes_runI (fun y1 a1_1 a1_2 h1 => ?_) ?_
  · extract_lets +onlyGivenNames -underBinder -merge x2
    try clear_value x2
    refine igoes_ok ?_
    assumption
  · assumption

theorem keeps_execQpack {s0 : State} {p : PairNo} {gd gs1 gs2 : BitVec 5} {s : State} (hK : Keeps s0 s) :
    Goes s0 (execQpack p gd gs1 gs2 s) := by
  rw [show @execQpack = _ from by delta execQpack; rfl]
  refine keeps_runReg ?_
  assumption

theorem keeps_accA {s0 : State} {func : Nat} {v2 : Bool} {f : Int → Word → Word → Int} {p : PairNo} {gd gs1 gs2 : BitVec 5} {s : State} (hK : Keeps s0 s) :
    Goes s0 (accA func v2 f p gd gs1 gs2 s) := by
  rw [show @accA = _ from by delta accA; rfl]
  refine keeps_runReg ?_
  assumption

theorem keeps_execMac {s0 s : State} {p : PairNo} {gd gs1 gs2 : BitVec 5} (h : Keeps s0 s) : Goes s0 (execMac p gd gs1 gs2 s) := keeps_accA h

theorem keeps_execMsu {s0 s : State} {p : PairNo} {gd gs1 gs2 : BitVec 5} (h : Keeps s0 s) : Goes s0 (execMsu p gd gs1 gs2 s) := keeps_accA h

theorem keeps_execMacz {s0 s : State} {p : PairNo} {gd gs1 gs2 : BitVec 5} (h : Keeps s0 s) : Goes s0 (execMacz p gd gs1 gs2 s) := keeps_accA h

theorem keeps_execMac2 {s0 s : State} {p : PairNo} {gd gs1 gs2 : BitVec 5} (h : Keeps s0 s) : Goes s0 (execMac2 p gd gs1 gs2 s) := keeps_accA h

theorem keeps_execAclr {s0 : State} {p : PairNo} {gd gs1 gs2 : BitVec 5} {s : State} (hK : Keeps s0 s) :
    Goes s0 (execAclr p gd gs1 gs2 s) := by
  rw [show @execAclr = _ from by delta execAclr; rfl]
  refine keeps_runReg ?_
  assumption

theorem keeps_execAwr {s0 : State} {p : PairNo} {gd gs1 gs2 : BitVec 5} {s : State} (hK : Keeps s0 s) :
    Goes s0 (execAwr p gd gs1 gs2 s) := by
  rw [show @execAwr = _ from by delta execAwr; rfl]
  refine keeps_runReg ?_
  assumption

theorem keeps_execArd {s0 : State} {p : PairNo} {gd gs1 : BitVec 5} {imm : BitVec 15} {s : State} (hK : Keeps s0 s) :
    Goes s0 (execArd p gd gs1 imm s) := by
  rw [show @execArd = _ from by delta execArd; rfl]
  refine keeps_runReg ?_
  assumption

end Sys2Proof.Machine
end

