-- ==== Sys2Proof/Laws/KeepsOnnusFloat.lean ====
section
/-! SUPPORT. Laws/KeepsOnnusFloat.lean: what the operations of Machine/OnnusFloat.lean keep. -/
namespace Sys2Proof.Machine

theorem keeps_floatA {s0 : State} {func cyc : Nat} {f : Word → Word → FRes} {p : PairNo} {gd gs1 gs2 : BitVec 5} {s : State} (hK : Keeps s0 s) :
    Goes s0 (floatA func cyc f p gd gs1 gs2 s) := by
  rw [show @floatA = _ from by delta floatA; rfl]
  refine keeps_runReg ?_
  assumption

theorem keeps_floatU {s0 : State} {func cyc : Nat} {f : Word → FRes} {p : PairNo} {gd gs1 gs2 : BitVec 5} {s : State} (hK : Keeps s0 s) :
    Goes s0 (floatU func cyc f p gd gs1 gs2 s) := by
  rw [show @floatU = _ from by delta floatU; rfl]
  refine keeps_runReg ?_
  assumption

theorem keeps_execFadd {s0 s : State} {p : PairNo} {gd gs1 gs2 : BitVec 5} (h : Keeps s0 s) : Goes s0 (execFadd p gd gs1 gs2 s) := keeps_floatA h

theorem keeps_execFsub {s0 s : State} {p : PairNo} {gd gs1 gs2 : BitVec 5} (h : Keeps s0 s) : Goes s0 (execFsub p gd gs1 gs2 s) := keeps_floatA h

theorem keeps_execFmul {s0 s : State} {p : PairNo} {gd gs1 gs2 : BitVec 5} (h : Keeps s0 s) : Goes s0 (execFmul p gd gs1 gs2 s) := keeps_floatA h

theorem keeps_execFdiv {s0 s : State} {p : PairNo} {gd gs1 gs2 : BitVec 5} (h : Keeps s0 s) : Goes s0 (execFdiv p gd gs1 gs2 s) := keeps_floatA h

theorem keeps_execFsqrt {s0 s : State} {p : PairNo} {gd gs1 gs2 : BitVec 5} (h : Keeps s0 s) : Goes s0 (execFsqrt p gd gs1 gs2 s) := keeps_floatU h

theorem keeps_fmaI {s0 : State} {func : Nat} {neg : Bool} {p : PairNo} {gd gs1 gs2 : BitVec 5} {s : State} (hK : Keeps s0 s) :
    Goes s0 (fmaI func neg p gd gs1 gs2 s) := by
  rw [show @fmaI = _ from by delta fmaI; rfl]
  refine goes_runI (fun y1 a1_1 a1_2 h1 => ?_) ?_
  · extract_lets +onlyGivenNames -underBinder -merge x2
    try clear_value x2
    extract_lets +onlyGivenNames -underBinder -merge x3
    try clear_value x3
    extract_lets +onlyGivenNames -underBinder -merge x4
    try clear_value x4
    extract_lets +onlyGivenNames -underBinder -merge x5
    try clear_value x5
    refine igoes_ok ?_
    assumption
  · assumption

theorem keeps_execFma {s0 s : State} {p : PairNo} {gd gs1 gs2 : BitVec 5} (h : Keeps s0 s) : Goes s0 (execFma p gd gs1 gs2 s) := keeps_fmaI h

theorem keeps_execFnms {s0 s : State} {p : PairNo} {gd gs1 gs2 : BitVec 5} (h : Keeps s0 s) : Goes s0 (execFnms p gd gs1 gs2 s) := keeps_fmaI h

theorem keeps_execFmin {s0 s : State} {p : PairNo} {gd gs1 gs2 : BitVec 5} (h : Keeps s0 s) : Goes s0 (execFmin p gd gs1 gs2 s) := keeps_floatA h

theorem keeps_execFmax {s0 s : State} {p : PairNo} {gd gs1 gs2 : BitVec 5} (h : Keeps s0 s) : Goes s0 (execFmax p gd gs1 gs2 s) := keeps_floatA h

theorem keeps_execFabs {s0 s : State} {p : PairNo} {gd gs1 gs2 : BitVec 5} (h : Keeps s0 s) : Goes s0 (execFabs p gd gs1 gs2 s) := keeps_floatU h

theorem keeps_execFneg {s0 s : State} {p : PairNo} {gd gs1 gs2 : BitVec 5} (h : Keeps s0 s) : Goes s0 (execFneg p gd gs1 gs2 s) := keeps_floatU h

theorem keeps_execFsat {s0 : State} {p : PairNo} {gd gs1 gs2 : BitVec 5} {s : State} (hK : Keeps s0 s) :
    Goes s0 (execFsat p gd gs1 gs2 s) := by
  rw [show @execFsat = _ from by delta execFsat; rfl]
  refine keeps_runReg ?_
  assumption

theorem keeps_cvtGF {s0 : State} {func : Nat} {f : Word → Word × FFlags} {p : PairNo} {gd gs1 gs2 : BitVec 5} {s : State} (hK : Keeps s0 s) :
    Goes s0 (cvtGF func f p gd gs1 gs2 s) := by
  rw [show @cvtGF = _ from by delta cvtGF; rfl]
  refine keeps_runReg ?_
  assumption

theorem keeps_cvtFG {s0 : State} {func : Nat} {f : Word → FRes} {p : PairNo} {gd gs1 gs2 : BitVec 5} {s : State} (hK : Keeps s0 s) :
    Goes s0 (cvtFG func f p gd gs1 gs2 s) := by
  rw [show @cvtFG = _ from by delta cvtFG; rfl]
  refine keeps_runReg ?_
  assumption

theorem keeps_execFcvtSW {s0 s : State} {p : PairNo} {gd gs1 gs2 : BitVec 5} (h : Keeps s0 s) : Goes s0 (execFcvtSW p gd gs1 gs2 s) := keeps_cvtFG h

theorem keeps_execFcvtWS {s0 s : State} {p : PairNo} {gd gs1 gs2 : BitVec 5} (h : Keeps s0 s) : Goes s0 (execFcvtWS p gd gs1 gs2 s) := keeps_cvtGF h

theorem keeps_execFcvtSQ {s0 s : State} {p : PairNo} {gd gs1 gs2 : BitVec 5} (h : Keeps s0 s) : Goes s0 (execFcvtSQ p gd gs1 gs2 s) := keeps_cvtFG h

theorem keeps_execFcvtQS {s0 s : State} {p : PairNo} {gd gs1 gs2 : BitVec 5} (h : Keeps s0 s) : Goes s0 (execFcvtQS p gd gs1 gs2 s) := keeps_cvtGF h

theorem keeps_execFmvGF {s0 s : State} {p : PairNo} {gd gs1 gs2 : BitVec 5} (h : Keeps s0 s) : Goes s0 (execFmvGF p gd gs1 gs2 s) := keeps_cvtGF h

theorem keeps_execFmvFG {s0 s : State} {p : PairNo} {gd gs1 gs2 : BitVec 5} (h : Keeps s0 s) : Goes s0 (execFmvFG p gd gs1 gs2 s) := keeps_cvtFG h

theorem keeps_cmpF {s0 : State} {func : Nat} {quiet : Bool} {f : Word → Word → Bool} {p : PairNo} {gd gs1 gs2 : BitVec 5} {s : State} (hK : Keeps s0 s) :
    Goes s0 (cmpF func quiet f p gd gs1 gs2 s) := by
  rw [show @cmpF = _ from by delta cmpF; rfl]
  refine keeps_runReg ?_
  assumption

theorem keeps_execFeq {s0 s : State} {p : PairNo} {gd gs1 gs2 : BitVec 5} (h : Keeps s0 s) : Goes s0 (execFeq p gd gs1 gs2 s) := keeps_cmpF h

theorem keeps_execFlt {s0 s : State} {p : PairNo} {gd gs1 gs2 : BitVec 5} (h : Keeps s0 s) : Goes s0 (execFlt p gd gs1 gs2 s) := keeps_cmpF h

theorem keeps_execFle {s0 s : State} {p : PairNo} {gd gs1 gs2 : BitVec 5} (h : Keeps s0 s) : Goes s0 (execFle p gd gs1 gs2 s) := keeps_cmpF h

theorem keeps_execClarke {s0 : State} {p : PairNo} {gd gs1 gs2 : BitVec 5} {s : State} (hK : Keeps s0 s) :
    Goes s0 (execClarke p gd gs1 gs2 s) := by
  rw [show @execClarke = _ from by delta execClarke; rfl]
  refine keeps_runReg ?_
  assumption

theorem keeps_execPark {s0 : State} {p : PairNo} {gd gs1 gs2 : BitVec 5} {s : State} (hK : Keeps s0 s) :
    Goes s0 (execPark p gd gs1 gs2 s) := by
  rw [show @execPark = _ from by delta execPark; rfl]
  refine keeps_runReg ?_
  assumption

theorem keeps_execIpark {s0 : State} {p : PairNo} {gd gs1 gs2 : BitVec 5} {s : State} (hK : Keeps s0 s) :
    Goes s0 (execIpark p gd gs1 gs2 s) := by
  rw [show @execIpark = _ from by delta execIpark; rfl]
  refine keeps_runReg ?_
  assumption

theorem keeps_execSincos {s0 : State} {p : PairNo} {gd gs1 gs2 : BitVec 5} {s : State} (hK : Keeps s0 s) :
    Goes s0 (execSincos p gd gs1 gs2 s) := by
  rw [show @execSincos = _ from by delta execSincos; rfl]
  refine keeps_runReg ?_
  assumption

theorem keeps_execAtan2 {s0 : State} {p : PairNo} {gd gs1 gs2 : BitVec 5} {s : State} (hK : Keeps s0 s) :
    Goes s0 (execAtan2 p gd gs1 gs2 s) := by
  rw [show @execAtan2 = _ from by delta execAtan2; rfl]
  refine keeps_runReg ?_
  assumption

theorem keeps_execBiq {s0 : State} {p : PairNo} {gd gs1 gs2 : BitVec 5} {s : State} (hK : Keeps s0 s) :
    Goes s0 (execBiq p gd gs1 gs2 s) := by
  rw [show @execBiq = _ from by delta execBiq; rfl]
  refine goes_runI (fun y1 a1_1 a1_2 h1 => ?_) ?_
  · extract_lets +onlyGivenNames -underBinder -merge x2
    try clear_value x2
    refine igoes_ite ?_ ?_
    · refine igoes_trap ?_
      assumption
    · refine igoes_ite ?_ ?_
      · refine igoes_trap ?_
        assumption
      · split
        · exact igoes_ue
        · rename_i heq
          have h3 := keeps_of_eqM (s0 := s0) heq (by
            refine keeps_memRead ?_
            assumption)
          extract_lets +onlyGivenNames -underBinder -merge x4
          try clear_value x4
          extract_lets +onlyGivenNames -underBinder -merge x5
          subst x5
          try dsimp -zeta -proj only
          extract_lets +onlyGivenNames -underBinder -merge x6
          try clear_value x6
          extract_lets +onlyGivenNames -underBinder -merge x7
          try clear_value x7
          extract_lets +onlyGivenNames -underBinder -merge x8
          try clear_value x8
          extract_lets +onlyGivenNames -underBinder -merge x9
          try clear_value x9
          extract_lets +onlyGivenNames -underBinder -merge x10
          try clear_value x10
          extract_lets +onlyGivenNames -underBinder -merge x11
          try clear_value x11
          extract_lets +onlyGivenNames -underBinder -merge x12
          have h12 : Keeps s0 x12 := by
            subst x12
            refine keeps_setPair ?_
            assumption
          try clear_value x12
          refine igoes_ok ?_
          assumption
  · assumption

theorem keeps_execLim2 {s0 : State} {p : PairNo} {gd gs1 gs2 : BitVec 5} {s : State} (hK : Keeps s0 s) :
    Goes s0 (execLim2 p gd gs1 gs2 s) := by
  rw [show @execLim2 = _ from by delta execLim2; rfl]
  refine keeps_runReg ?_
  assumption

theorem keeps_execLim2d {s0 : State} {p : PairNo} {gd gs1 gs2 : BitVec 5} {s : State} (hK : Keeps s0 s) :
    Goes s0 (execLim2d p gd gs1 gs2 s) := by
  rw [show @execLim2d = _ from by delta execLim2d; rfl]
  refine keeps_runReg ?_
  assumption

theorem keeps_piInstr {s0 : State} {id : Nat} {gd gs1 : BitVec 5} {s : State} {key : Nat} {c : Ctx} (hK : Keeps s0 s) :
    IGoes s0 (piInstr id gd gs1 s key c) := by
  rw [show @piInstr = _ from by delta piInstr; rfl]
  extract_lets +onlyGivenNames -underBinder -merge x1
  try clear_value x1
  refine igoes_ite ?_ ?_
  · refine igoes_trap ?_
    assumption
  · split
    · rename_i heq
      have h2 := keeps_of_eqP (s0 := s0) heq (by
        refine keeps_freeIn ?_
        assumption)
      extract_lets +onlyGivenNames -underBinder -merge x3
      try clear_value x3
      refine igoes_ite ?_ ?_
      · refine igoes_ok ?_
        assumption
      · split
        · refine igoes_ok ?_
          refine keeps_setLoop ?_
          assumption

theorem keeps_execPistep {s0 : State} {p : PairNo} {gd gs1 : BitVec 5} {imm : BitVec 15} {s : State} (hK : Keeps s0 s) :
    Goes s0 (execPistep p gd gs1 imm s) := by
  rw [show @execPistep = _ from by delta execPistep; rfl]
  refine goes_runI (fun y1 a1_1 a1_2 h1 => ?_) ?_
  · refine keeps_piInstr ?_
    assumption
  · assumption

theorem keeps_execPistepr {s0 : State} {p : PairNo} {gd gs1 gs2 : BitVec 5} {s : State} (hK : Keeps s0 s) :
    Goes s0 (execPistepr p gd gs1 gs2 s) := by
  rw [show @execPistepr = _ from by delta execPistepr; rfl]
  refine goes_runI (fun y1 a1_1 a1_2 h1 => ?_) ?_
  · refine keeps_piInstr ?_
    assumption
  · assumption

end Sys2Proof.Machine
end

