-- ==== Sys2Proof/Laws/KeepsPowerOps.lean ====
section
/-! SUPPORT. Laws/KeepsPowerOps.lean: what the operations of Machine/PowerOps.lean keep. -/
namespace Sys2Proof.Machine

theorem keeps_toListen {s0 : State} {s : State} (hK : Keeps s0 s) :
    Keeps s0 (State.toListen s) := by
  rw [show @State.toListen = _ from by delta State.toListen; rfl]
  extract_lets +onlyGivenNames -underBinder -merge x1
  have h1 : Keeps s0 x1 := by
    subst x1
    refine keeps_crewsUnused ?_
    assumption
  try clear_value x1
  extract_lets +onlyGivenNames -underBinder -merge x2
  have h2 : Keeps s0 x2 := by
    subst x2
    refine keeps_loopN (fun a3_0 y3 h3 => ?_) ?_
    · refine keeps_stopPort ?_
      assumption
    · assumption
  try clear_value x2
  extract_lets +onlyGivenNames -underBinder -merge x4
  have h4 : Keeps s0 x4 := by
    subst x4
    refine keeps_listenDomains ?_
    assumption
  try clear_value x4
  refine keeps_setPw ?_
  refine keeps_mk ?_
  assumption

theorem keeps_saveSettings {s0 : State} {s : State} (hK : Keeps s0 s) :
    Keeps s0 (State.saveSettings s) := by
  rw [show @State.saveSettings = _ from by delta State.saveSettings; rfl]
  extract_lets +onlyGivenNames -underBinder -merge x1
  try clear_value x1
  refine keeps_mramTry ?_
  refine keeps_mramTry ?_
  assumption

theorem keeps_restoreSettings {s0 : State} {s : State} (hK : Keeps s0 s) :
    Keeps s0 (State.restoreSettings s) := by
  rw [show @State.restoreSettings = _ from by delta State.restoreSettings; rfl]
  extract_lets +onlyGivenNames -underBinder -merge x1
  subst x1
  try dsimp -zeta -proj only
  split
  · assumption
  · extract_lets +onlyGivenNames -underBinder -merge x2
    try clear_value x2
    extract_lets +onlyGivenNames -underBinder -merge x3
    have h3 : Keeps s0 x3 := by
      subst x3
      refine keeps_wr ?_
      assumption
    try clear_value x3
    refine keeps_put ?_
    refine keeps_put ?_
    refine keeps_put ?_
    assumption

theorem keeps_resetDomains {s0 s : State} (h : Keeps s0 s) : Keeps s0 s.resetDomains :=
  ⟨h.pending, h.now, h.freeCount, fun i => let j := h.inv i
    ⟨mwf_filter _ _ _ j.mem, mwf_filter _ _ _ j.regs, Nat.zero_le _, Nat.zero_le _, Nat.zero_le _, Nat.zero_le _, Nat.zero_le _,
      Nat.zero_le _⟩⟩

theorem keeps_settleBatch {s0 : State} {s : State} (hK : Keeps s0 s) :
    Keeps s0 (State.settleBatch s) := by
  rw [show @State.settleBatch = _ from by delta State.settleBatch; rfl]
  refine keeps_ite ?_ ?_
  · split
    · rename_i heq
      have h1 := keeps_of_eqP (s0 := s0) heq (by
        refine keeps_freeIn ?_
        assumption)
      refine keeps_ite ?_ ?_
      · refine keeps_batchCommit ?_
        assumption
      · refine keeps_batchDiscard ?_
        assumption
  · assumption

theorem keeps_assertReset {s0 : State} {s : State} (hK : Keeps s0 s) :
    Keeps s0 (State.assertReset s) := by
  rw [show @State.assertReset = _ from by delta State.assertReset; rfl]
  extract_lets +onlyGivenNames -underBinder -merge x1
  have h1 : Keeps s0 x1 := by
    subst x1
    refine keeps_resetDomains ?_
    refine keeps_settleBatch ?_
    assumption
  try clear_value x1
  refine keeps_showDomains ?_
  refine keeps_setPw ?_
  refine keeps_mk ?_
  assumption

theorem keeps_noteReset {s0 : State} {s : State} {code : Nat} (hK : Keeps s0 s) :
    Keeps s0 (State.noteReset s code) := by
  rw [show @State.noteReset = _ from by delta State.noteReset; rfl]
  extract_lets +onlyGivenNames -underBinder -merge x1
  have h1 : Keeps s0 x1 := by
    subst x1
    refine keeps_ite ?_ ?_
    · refine keeps_put ?_
      assumption
    · assumption
  try clear_value x1
  refine keeps_incSat ?_
  assumption

theorem keeps_keyWrite {s0 : State} {s : State} {o : Nat} {l : List Byte} (hK : Keeps s0 s) :
    Keeps s0 (State.keyWrite s o l) := by
  rw [show @State.keyWrite = _ from by delta State.keyWrite; rfl]
  refine keeps_mramTry ?_
  refine keeps_mramTry ?_
  assumption

theorem keeps_showFw {s0 : State} {s : State} (hK : Keeps s0 s) :
    Keeps s0 (State.showFw s) := by
  rw [show @State.showFw = _ from by delta State.showFw; rfl]
  extract_lets +onlyGivenNames -underBinder -merge x1
  try clear_value x1
  extract_lets +onlyGivenNames -underBinder -merge x2
  have h2 : Keeps s0 x2 := by
    subst x2
    refine keeps_put ?_
    refine keeps_put ?_
    assumption
  try clear_value x2
  extract_lets +onlyGivenNames -underBinder -merge x3
  have h3 : Keeps s0 x3 := by
    subst x3
    refine keeps_put ?_
    refine keeps_putB ?_
    assumption
  try clear_value x3
  refine keeps_put ?_
  refine keeps_put ?_
  assumption

theorem keeps_setFwState {s0 : State} {s : State} {f : FwState} (hK : Keeps s0 s) :
    Keeps s0 (State.setFwState s f) := by
  rw [show @State.setFwState = _ from by delta State.setFwState; rfl]
  refine keeps_showFw ?_
  refine keeps_keyWrite ?_
  assumption

theorem keeps_logFw {s0 : State} {s : State} {code slot : Nat} (hK : Keeps s0 s) :
    Keeps s0 (State.logFw s code slot) := by
  rw [show @State.logFw = _ from by delta State.logFw; rfl]
  refine keeps_logRec ?_
  assumption

theorem keeps_chooseSlot {s0 : State} {s : State} (hK : Keeps s0 s) :
    Keeps s0 (State.chooseSlot s).2 := by
  rw [show @State.chooseSlot = _ from by delta State.chooseSlot; rfl]
  extract_lets +onlyGivenNames -underBinder -merge x1
  try clear_value x1
  extract_lets +onlyGivenNames -underBinder -merge x2
  try clear_value x2
  extract_lets +onlyGivenNames -underBinder -merge x3
  subst x3
  try dsimp -zeta -proj only
  extract_lets +onlyGivenNames -underBinder -merge x4
  have h4 : Keeps s0 x4 := by
    subst x4
    refine keeps_putB ?_
    refine keeps_putB ?_
    assumption
  try clear_value x4
  extract_lets +onlyGivenNames -underBinder -merge x5
  try clear_value x5
  refine keeps_iteP ?_ ?_
  · refine keeps_snd ?_
    refine keeps_setFwState ?_
    assumption
  · extract_lets +onlyGivenNames -underBinder -merge x6
    have h6 : Keeps s0 x6 := by
      subst x6
      refine keeps_ite ?_ ?_
      · refine keeps_fault ?_
        refine keeps_logFw ?_
        refine keeps_setFwState ?_
        assumption
      · assumption
    try clear_value x6
    refine keeps_iteP ?_ ?_
    · refine keeps_snd ?_
      assumption
    · refine keeps_iteP ?_ ?_
      · refine keeps_snd ?_
        refine keeps_fault ?_
        assumption
      · refine keeps_snd ?_
        assumption

theorem keeps_newNonce {s0 : State} {s : State} (hK : Keeps s0 s) :
    Keeps s0 (State.newNonce s) := by
  rw [show @State.newNonce = _ from by delta State.newNonce; rfl]
  refine keeps_loopN (fun a1_0 y1 h1 => ?_) ?_
  · split
    · rename_i heq
      have h2 := keeps_of_eqP (s0 := s0) heq (by
        refine keeps_free ?_
        assumption)
      refine keeps_put ?_
      assumption
  · assumption

theorem keeps_findHead {s0 : State} {s : State} (hK : Keeps s0 s) :
    Keeps s0 (State.findHead s) := by
  rw [show @State.findHead = _ from by delta State.findHead; rfl]
  refine keeps_put ?_
  refine keeps_put ?_
  assumption

theorem keeps_saveWear {s0 : State} {s : State} (hK : Keeps s0 s) :
    Keeps s0 (State.saveWear s) := by
  rw [show @State.saveWear = _ from by delta State.saveWear; rfl]
  split
  · rename_i heq
    have h1 := keeps_of_eqP (s0 := s0) heq (by
      refine keeps_freeIn ?_
      assumption)
    split
    · refine keeps_mk ?_
      assumption
    · extract_lets +onlyGivenNames -underBinder -merge x2
      have h2 : Keeps s0 x2 := by
        subst x2
        refine keeps_retryT ?_
        assumption
      try clear_value x2
      refine keeps_mk ?_
      assumption
    · refine keeps_fault ?_
      refine keeps_retryL ?_
      assumption

theorem keeps_enterRest {s0 : State} {s : State} {thermal : Bool} (hK : Keeps s0 s) :
    Keeps s0 (State.enterRest s thermal) := by
  rw [show @State.enterRest = _ from by delta State.enterRest; rfl]
  extract_lets +onlyGivenNames -underBinder -merge x1
  have h1 : Keeps s0 x1 := by
    subst x1
    refine keeps_ite ?_ ?_
    · refine keeps_toListen ?_
      assumption
    · assumption
  try clear_value x1
  extract_lets +onlyGivenNames -underBinder -merge x2
  have h2 : Keeps s0 x2 := by
    subst x2
    refine keeps_putB ?_
    assumption
  try clear_value x2
  extract_lets +onlyGivenNames -underBinder -merge x3
  have h3 : Keeps s0 x3 := by
    subst x3
    refine keeps_saveWear ?_
    refine keeps_saveSettings ?_
    refine keeps_sendLeave ?_
    assumption
  try clear_value x3
  refine keeps_setPw ?_
  refine keeps_mk ?_
  assumption

theorem keeps_restRequest {s0 : State} {s : State} (hK : Keeps s0 s) :
    Keeps s0 (State.restRequest s).2 := by
  rw [show @State.restRequest = _ from by delta State.restRequest; rfl]
  refine keeps_iteP ?_ ?_
  · refine keeps_snd ?_
    refine keeps_enterRest ?_
    assumption
  · refine keeps_iteP ?_ ?_
    · refine keeps_snd ?_
      refine keeps_fault ?_
      assumption
    · refine keeps_snd ?_
      assumption

theorem keeps_readyWrite {s0 : State} {s : State} {b : Bool} (hK : Keeps s0 s) :
    Keeps s0 (State.readyWrite s b) := by
  rw [show @State.readyWrite = _ from by delta State.readyWrite; rfl]
  extract_lets +onlyGivenNames -underBinder -merge x1
  have h1 : Keeps s0 x1 := by
    subst x1
    refine keeps_putB ?_
    refine keeps_mk ?_
    assumption
  try clear_value x1
  refine keeps_ite ?_ ?_
  · refine keeps_demand ?_
    assumption
  · assumption

theorem keeps_kick {s0 : State} {s : State} (hK : Keeps s0 s) :
    Keeps s0 (State.kick s) := by
  rw [show @State.kick = _ from by delta State.kick; rfl]
  refine keeps_mk ?_
  assumption

end Sys2Proof.Machine
end

