-- ==== Sys2Proof/Laws/KeepsImages.lean ====
section
/-! SUPPORT. Laws/KeepsImages.lean: what the operations of Machine/Images.lean keep. -/
namespace Sys2Proof.Machine

theorem keeps_storeImage {s0 : State} {s : State} {ok : Bool} {home : Nat} {l : List Byte} (hK : Keeps s0 s) :
    Keeps s0 (State.storeImage s ok home l) := by
  rw [show @State.storeImage = _ from by delta State.storeImage; rfl]
  extract_lets +onlyGivenNames -underBinder -merge x1
  have h1 : Keeps s0 x1 := by
    subst x1
    refine keeps_ite ?_ ?_
    · refine keeps_devWrite ?_
      refine keeps_devWrite ?_
      assumption
    · assumption
  try clear_value x1
  refine keeps_setImage ?_
  assumption

theorem keeps_raiseRoll {s0 : State} {s : State} {i : ImgInfo} (hK : Keeps s0 s) :
    Keeps s0 (State.raiseRoll s i) := by
  rw [show @State.raiseRoll = _ from by delta State.raiseRoll; rfl]
  extract_lets +onlyGivenNames -underBinder -merge x1
  subst x1
  try dsimp -zeta -proj only
  refine keeps_ite ?_ ?_
  · assumption
  · split
    · refine keeps_ite ?_ ?_
      · refine keeps_keyWrite ?_
        assumption
      · assumption
    · split
      · refine keeps_keyWrite ?_
        assumption
      · refine keeps_fault ?_
        assumption

end Sys2Proof.Machine
end

