-- ==== Sys2Proof/Laws/KeepsCoxOps.lean ====
section
/-! SUPPORT. Laws/KeepsCoxOps.lean: what the operations of Machine/CoxOps.lean keep. -/
namespace Sys2Proof.Machine

theorem keeps_mboxReq {s0 : State} {s : State} {p : Nat} {v : Word} (hK : Keeps s0 s) :
    Keeps s0 (State.mboxReq s p v) := by
  rw [show @State.mboxReq = _ from by delta State.mboxReq; rfl]
  refine keeps_ite ?_ ?_
  · refine keeps_raise ?_
    assumption
  · refine keeps_put ?_
    refine keeps_put ?_
    assumption

theorem keeps_mboxAnswer {s0 : State} {s : State} {p res : Nat} (hK : Keeps s0 s) :
    Keeps s0 (State.mboxAnswer s p res) := by
  rw [show @State.mboxAnswer = _ from by delta State.mboxAnswer; rfl]
  refine keeps_put ?_
  refine keeps_put ?_
  assumption

theorem keeps_showJtag {s0 : State} {s : State} (hK : Keeps s0 s) :
    Keeps s0 (State.showJtag s) := by
  rw [show @State.showJtag = _ from by delta State.showJtag; rfl]
  refine keeps_putB ?_
  assumption

theorem keeps_lcsWrite {s0 : State} {s : State} {v : Word} (hK : Keeps s0 s) :
    Keeps s0 (State.lcsWrite s v) := by
  rw [show @State.lcsWrite = _ from by delta State.lcsWrite; rfl]
  refine keeps_ite ?_ ?_
  · refine keeps_showJtag ?_
    refine keeps_showFw ?_
    refine keeps_logRec ?_
    refine keeps_keyWrite ?_
    assumption
  · assumption

theorem keeps_fwConfirm {s0 : State} {s : State} (hK : Keeps s0 s) :
    Keeps s0 (State.fwConfirm s) := by
  rw [show @State.fwConfirm = _ from by delta State.fwConfirm; rfl]
  extract_lets +onlyGivenNames -underBinder -merge x1
  try clear_value x1
  extract_lets +onlyGivenNames -underBinder -merge x2
  try clear_value x2
  extract_lets +onlyGivenNames -underBinder -merge x3
  have h3 : Keeps s0 x3 := by
    subst x3
    refine keeps_keyWrite ?_
    assumption
  try clear_value x3
  refine keeps_logFw ?_
  refine keeps_setFwState ?_
  assumption

theorem keeps_seSwap {s0 : State} {s : State} {v : Word} (hK : Keeps s0 s) :
    Keeps s0 (State.seSwap s v) := by
  rw [show @State.seSwap = _ from by delta State.seSwap; rfl]
  extract_lets +onlyGivenNames -underBinder -merge x1
  try clear_value x1
  extract_lets +onlyGivenNames -underBinder -merge x2
  have h2 : Keeps s0 x2 := by
    subst x2
    refine keeps_put ?_
    assumption
  try clear_value x2
  refine keeps_ite ?_ ?_
  · assumption
  · extract_lets +onlyGivenNames -underBinder -merge x3
    try clear_value x3
    extract_lets +onlyGivenNames -underBinder -merge x4
    try clear_value x4
    extract_lets +onlyGivenNames -underBinder -merge x5
    try clear_value x5
    extract_lets +onlyGivenNames -underBinder -merge x6
    try clear_value x6
    extract_lets +onlyGivenNames -underBinder -merge x7
    try clear_value x7
    refine keeps_ite ?_ ?_
    · refine keeps_wr ?_
      refine keeps_mk ?_
      assumption
    · refine keeps_fault ?_
      refine keeps_put ?_
      assumption

end Sys2Proof.Machine
end

