-- ==== Sys2Proof/Laws/KeepsRigStore.lean ====
section
/-! SUPPORT. Laws/KeepsRigStore.lean: what the operations of Machine/RigStore.lean keep. -/
namespace Sys2Proof.Machine

theorem keeps_rigRepair {s0 : State} {s : State} {r m : Nat} (hK : Keeps s0 s) :
    Keeps s0 (State.rigRepair s r m) := by
  rw [show @State.rigRepair = _ from by delta State.rigRepair; rfl]
  refine keeps_maintSubmit ?_
  assumption

theorem keeps_rigTake {s0 : State} {s : State} {r : Nat} (hK : Keeps s0 s) :
    Keeps s0 (State.rigTake s r).2 := by
  rw [show @State.rigTake = _ from by delta State.rigTake; rfl]
  split
  · refine keeps_iteP ?_ ?_
    · refine keeps_snd ?_
      assumption
    · refine keeps_snd ?_
      refine keeps_fault ?_
      assumption
  · refine keeps_snd ?_
    refine keeps_rigRepair ?_
    refine keeps_fault ?_
    assumption
  · refine keeps_snd ?_
    refine keeps_rigRepair ?_
    refine keeps_fault ?_
    assumption
  · refine keeps_snd ?_
    refine keeps_fault ?_
    assumption

end Sys2Proof.Machine
end

