-- ==== Sys2Proof/Laws/KeepsBoot.lean ====
section
/-! SUPPORT. Laws/KeepsBoot.lean: what the operations of Machine/Boot.lean keep. -/
namespace Sys2Proof.Machine

theorem keeps_bootDomains {s0 : State} {s : State} (hK : Keeps s0 s) :
    Keeps s0 (State.bootDomains s) := by
  rw [show @State.bootDomains = _ from by delta State.bootDomains; rfl]
  refine keeps_showDomains ?_
  refine keeps_mk ?_
  assumption

theorem keeps_bootSlot {s0 : State} {s : State} {resume : Bool} (hK : Keeps s0 s) :
    Keeps s0 (State.bootSlot s resume).2 := by
  rw [show @State.bootSlot = _ from by delta State.bootSlot; rfl]
  extract_lets +onlyGivenNames -underBinder -merge x1
  try clear_value x1
  split
  · refine keeps_snd ?_
    assumption
  · refine keeps_chooseSlot ?_
    assumption

theorem keeps_bootRig {s0 : State} {s : State} {resume : Bool} (hK : Keeps s0 s) :
    Keeps s0 (State.bootRig s resume) := by
  rw [show @State.bootRig = _ from by delta State.bootRig; rfl]
  extract_lets +onlyGivenNames -underBinder -merge x1
  try clear_value x1
  refine keeps_ite ?_ ?_
  · refine keeps_mk ?_
    assumption
  · extract_lets +onlyGivenNames -underBinder -merge x2
    have h2 : Keeps s0 x2 := by
      subst x2
      refine keeps_putB ?_
      assumption
    try clear_value x2
    split
    · rename_i heq
      have h3 := keeps_of_eqP (s0 := s0) heq (by
        refine keeps_rigTake ?_
        assumption)
      refine keeps_mk ?_
      assumption
    · rename_i heq
      have h4 := keeps_of_eqP (s0 := s0) heq (by
        refine keeps_rigTake ?_
        assumption)
      refine keeps_fault ?_
      refine keeps_mk ?_
      assumption

theorem keeps_enterRecovery {s0 : State} {s : State} (hK : Keeps s0 s) :
    Keeps s0 (State.enterRecovery s) := by
  rw [show @State.enterRecovery = _ from by delta State.enterRecovery; rfl]
  refine keeps_showDomains ?_
  refine keeps_mk ?_
  assumption

theorem keeps_boot {s0 : State} {s : State} {vaonLost resume : Bool} (hK : Keeps s0 s) :
    Keeps s0 (State.boot s vaonLost resume) := by
  rw [show @State.boot = _ from by delta State.boot; rfl]
  extract_lets +onlyGivenNames -underBinder -merge x1
  have h1 : Keeps s0 x1 := by
    subst x1
    refine keeps_mk ?_
    assumption
  try clear_value x1
  extract_lets +onlyGivenNames -underBinder -merge x2
  have h2 : Keeps s0 x2 := by
    subst x2
    refine keeps_bootDomains ?_
    refine keeps_setPw ?_
    assumption
  try clear_value x2
  extract_lets +onlyGivenNames -underBinder -merge x3
  have h3 : Keeps s0 x3 := by
    subst x3
    refine keeps_ite ?_ ?_
    · refine keeps_restoreSettings ?_
      assumption
    · assumption
  try clear_value x3
  extract_lets +onlyGivenNames -underBinder -merge x4
  have h4 : Keeps s0 x4 := by
    subst x4
    refine keeps_ite ?_ ?_
    · assumption
    · refine keeps_put ?_
      assumption
  try clear_value x4
  extract_lets +onlyGivenNames -underBinder -merge x5
  try clear_value x5
  extract_lets +onlyGivenNames -underBinder -merge x6
  have h6 : Keeps s0 x6 := by
    subst x6
    refine keeps_mk ?_
    assumption
  try clear_value x6
  extract_lets +onlyGivenNames -underBinder -merge x7
  have h7 : Keeps s0 x7 := by
    subst x7
    refine keeps_showJtag ?_
    refine keeps_showFw ?_
    refine keeps_newNonce ?_
    refine keeps_findHead ?_
    assumption
  try clear_value x7
  refine keeps_ite ?_ ?_
  · refine keeps_enterRecovery ?_
    assumption
  · split
    · rename_i heq
      have h8 := keeps_of_eqP (s0 := s0) heq (by
        refine keeps_bootSlot ?_
        assumption)
      refine keeps_enterRecovery ?_
      assumption
    · rename_i heq
      have h9 := keeps_of_eqP (s0 := s0) heq (by
        refine keeps_bootSlot ?_
        assumption)
      extract_lets +onlyGivenNames -underBinder -merge x10
      have h10 : Keeps s0 x10 := by
        subst x10
        refine keeps_put ?_
        assumption
      try clear_value x10
      extract_lets +onlyGivenNames -underBinder -merge x11
      have h11 : Keeps s0 x11 := by
        subst x11
        refine keeps_mk ?_
        assumption
      try clear_value x11
      refine keeps_bootRig ?_
      assumption

theorem keeps_coldBoot {s0 : State} {s : State} {vaonLost : Bool} (hK : Keeps s0 s) :
    Keeps s0 (State.coldBoot s vaonLost) := by
  rw [show @State.coldBoot = _ from by delta State.coldBoot; rfl]
  refine keeps_ite ?_ ?_
  · refine keeps_boot ?_
    assumption
  · assumption

theorem keeps_startReset {s0 : State} {s : State} {code : Nat} (hK : Keeps s0 s) :
    Keeps s0 (State.startReset s code) := by
  rw [show @State.startReset = _ from by delta State.startReset; rfl]
  refine keeps_ite ?_ ?_
  · refine keeps_coldBoot ?_
    refine keeps_assertReset ?_
    refine keeps_noteReset ?_
    assumption
  · assumption

theorem keeps_holdReset {s0 : State} {s : State} {code : Nat} (hK : Keeps s0 s) :
    Keeps s0 (State.holdReset s code) := by
  rw [show @State.holdReset = _ from by delta State.holdReset; rfl]
  extract_lets +onlyGivenNames -underBinder -merge x1
  have h1 : Keeps s0 x1 := by
    subst x1
    refine keeps_ite ?_ ?_
    · assumption
    · refine keeps_noteReset ?_
      assumption
  try clear_value x1
  refine keeps_ite ?_ ?_
  · assumption
  · extract_lets +onlyGivenNames -underBinder -merge x2
    have h2 : Keeps s0 x2 := by
      subst x2
      refine keeps_assertReset ?_
      assumption
    try clear_value x2
    refine keeps_mk ?_
    assumption

theorem keeps_releaseReset {s0 : State} {s : State} {code : Nat} (hK : Keeps s0 s) :
    Keeps s0 (State.releaseReset s code) := by
  rw [show @State.releaseReset = _ from by delta State.releaseReset; rfl]
  refine keeps_ite ?_ ?_
  · refine keeps_coldBoot ?_
    refine keeps_mk ?_
    assumption
  · assumption

end Sys2Proof.Machine
end

