-- ==== Sys2Proof/Laws/KeepsPinOps.lean ====
section
/-! SUPPORT. Laws/KeepsPinOps.lean: what the operations of Machine/PinOps.lean keep. -/
namespace Sys2Proof.Machine

theorem keeps_claimReq {s0 : State} {s : State} {release : Bool} {owner res : Nat} (hK : Keeps s0 s) :
    Keeps s0 (State.claimReq s release owner res) := by
  rw [show @State.claimReq = _ from by delta State.claimReq; rfl]
  refine keeps_ite ?_ ?_
  · assumption
  · refine keeps_ite ?_ ?_
    · refine keeps_fault ?_
      refine keeps_put ?_
      refine keeps_put ?_
      assumption
    · refine keeps_putB ?_
      refine keeps_mk ?_
      assumption

theorem keeps_dmaSel {s0 : State} {s : State} {d : Nat} (hK : Keeps s0 s) :
    Keeps s0 (State.dmaSel s d) := by
  rw [show @State.dmaSel = _ from by delta State.dmaSel; rfl]
  extract_lets +onlyGivenNames -underBinder -merge x1
  have h1 : Keeps s0 x1 := by
    subst x1
    refine keeps_put ?_
    assumption
  try clear_value x1
  split
  · refine keeps_wr ?_
    refine keeps_wr ?_
    assumption

theorem keeps_dmaLen {s0 : State} {s : State} {len : Nat} (hK : Keeps s0 s) :
    Keeps s0 (State.dmaLen s len) := by
  rw [show @State.dmaLen = _ from by delta State.dmaLen; rfl]
  extract_lets +onlyGivenNames -underBinder -merge x1
  try clear_value x1
  extract_lets +onlyGivenNames -underBinder -merge x2
  try clear_value x2
  refine keeps_ite ?_ ?_
  · refine keeps_put ?_
    refine keeps_mk ?_
    assumption
  · refine keeps_fault ?_
    assumption

theorem keeps_clrEcc {s0 : State} {s : State} (hK : Keeps s0 s) :
    Keeps s0 (State.clrEcc s) := by
  rw [show @State.clrEcc = _ from by delta State.clrEcc; rfl]
  refine keeps_wr ?_
  assumption

theorem keeps_clrOvf {s0 : State} {s : State} (hK : Keeps s0 s) :
    Keeps s0 (State.clrOvf s) := by
  rw [show @State.clrOvf = _ from by delta State.clrOvf; rfl]
  refine keeps_wr ?_
  assumption

theorem keeps_clrRetry {s0 : State} {s : State} {k : Nat} (hK : Keeps s0 s) :
    Keeps s0 (State.clrRetry s k) := by
  rw [show @State.clrRetry = _ from by delta State.clrRetry; rfl]
  refine keeps_wr ?_
  refine keeps_wr ?_
  assumption

theorem keeps_gpioShow {s0 : State} {s : State} (hK : Keeps s0 s) :
    Keeps s0 (State.gpioShow s) := by
  rw [show @State.gpioShow = _ from by delta State.gpioShow; rfl]
  extract_lets +onlyGivenNames -underBinder -merge x1
  try clear_value x1
  extract_lets +onlyGivenNames -underBinder -merge x2
  try clear_value x2
  extract_lets +onlyGivenNames -underBinder -merge x3
  try clear_value x3
  extract_lets +onlyGivenNames -underBinder -merge x4
  try clear_value x4
  extract_lets +onlyGivenNames -underBinder -merge x5
  try clear_value x5
  refine keeps_put ?_
  assumption

theorem keeps_gpioWrite {s0 : State} {s : State} {a : Nat} {mine : Nat → Bool} {v : Word} (hK : Keeps s0 s) :
    Keeps s0 (State.gpioWrite s a mine v) := by
  rw [show @State.gpioWrite = _ from by delta State.gpioWrite; rfl]
  extract_lets +onlyGivenNames -underBinder -merge x1
  try clear_value x1
  extract_lets +onlyGivenNames -underBinder -merge x2
  try clear_value x2
  refine keeps_gpioShow ?_
  refine keeps_wr ?_
  assumption

theorem keeps_auxStart {s0 : State} {s : State} {a : Nat} (hK : Keeps s0 s) :
    Keeps s0 (State.auxStart s a) := by
  rw [show @State.auxStart = _ from by delta State.auxStart; rfl]
  refine keeps_ite ?_ ?_
  · refine keeps_auxShow ?_
    refine keeps_setAux ?_
    assumption
  · assumption

theorem keeps_auxCfg {s0 : State} {s : State} {a : Nat} {v : Word} (hK : Keeps s0 s) :
    Keeps s0 (State.auxCfg s a v) := by
  rw [show @State.auxCfg = _ from by delta State.auxCfg; rfl]
  extract_lets +onlyGivenNames -underBinder -merge x1
  try clear_value x1
  extract_lets +onlyGivenNames -underBinder -merge x2
  try clear_value x2
  extract_lets +onlyGivenNames -underBinder -merge x3
  try clear_value x3
  extract_lets +onlyGivenNames -underBinder -merge x4
  try clear_value x4
  extract_lets +onlyGivenNames -underBinder -merge x5
  try clear_value x5
  refine keeps_ite ?_ ?_
  · refine keeps_fault ?_
    assumption
  · extract_lets +onlyGivenNames -underBinder -merge x6
    try clear_value x6
    extract_lets +onlyGivenNames -underBinder -merge x7
    have h7 : Keeps s0 x7 := by
      subst x7
      refine keeps_put ?_
      refine keeps_putB ?_
      assumption
    try clear_value x7
    extract_lets +onlyGivenNames -underBinder -merge x8
    have h8 : Keeps s0 x8 := by
      subst x8
      refine keeps_put ?_
      refine keeps_put ?_
      assumption
    try clear_value x8
    extract_lets +onlyGivenNames -underBinder -merge x9
    have h9 : Keeps s0 x9 := by
      subst x9
      refine keeps_ite ?_ ?_
      · refine keeps_putB ?_
        assumption
      · assumption
    try clear_value x9
    refine keeps_auxShow ?_
    refine keeps_setAux ?_
    assumption

theorem keeps_auxRead {s0 : State} {s : State} {a : Nat} (hK : Keeps s0 s) :
    Keeps s0 (State.auxRead s a).2 := by
  rw [show @State.auxRead = _ from by delta State.auxRead; rfl]
  refine keeps_snd ?_
  refine keeps_putB ?_
  refine keeps_putB ?_
  assumption

end Sys2Proof.Machine
end

