-- ==== Sys2Proof/Laws/KeepsRegIO.lean ====
section
/-! SUPPORT. Laws/KeepsRegIO.lean: what the operations of Machine/RegIO.lean keep. -/
namespace Sys2Proof.Machine

theorem keeps_nextOf {s0 s : State} {o : Out} (h : Goes s0 o) : Keeps s0 (nextOf s o) := by
  obtain ⟨t, rfl, h⟩ := h
  exact h

theorem keeps_plainWrite {s0 : State} {s : State} {r : RegRow} {a : Nat} {v : Word} (hK : Keeps s0 s) :
    Keeps s0 (State.plainWrite s r a v) := by
  rw [show @State.plainWrite = _ from by delta State.plainWrite; rfl]
  extract_lets +onlyGivenNames -underBinder -merge x1
  try clear_value x1
  refine keeps_wr ?_
  assumption

theorem keeps_wrSys {s0 : State} {s : State} {r : RegRow} {a : Nat} {v : Word} (hK : Keeps s0 s) :
    Keeps s0 (State.wrSys s r a v) := by
  rw [show @State.wrSys = _ from by delta State.wrSys; rfl]
  extract_lets +onlyGivenNames -underBinder -merge x1
  try clear_value x1
  refine keeps_ite ?_ ?_
  · refine keeps_claimReq ?_
    assumption
  · refine keeps_ite ?_ ?_
    · refine keeps_dmaSel ?_
      assumption
    · refine keeps_ite ?_ ?_
      · refine keeps_dmaLen ?_
        assumption
      · refine keeps_ite ?_ ?_
        · extract_lets +onlyGivenNames -underBinder -merge x2
          have h2 : Keeps s0 x2 := by
            subst x2
            refine keeps_ite ?_ ?_
            · refine keeps_clrEcc ?_
              assumption
            · assumption
          try clear_value x2
          extract_lets +onlyGivenNames -underBinder -merge x3
          have h3 : Keeps s0 x3 := by
            subst x3
            refine keeps_ite ?_ ?_
            · refine keeps_clrOvf ?_
              assumption
            · assumption
          try clear_value x3
          refine keeps_loopN (fun a4_0 y4 h4 => ?_) ?_
          · refine keeps_ite ?_ ?_
            · refine keeps_clrRetry ?_
              assumption
            · assumption
          · assumption
        · refine keeps_plainWrite ?_
          assumption

theorem keeps_wrAon {s0 : State} {s : State} {r : RegRow} {a : Nat} {v : Word} (hK : Keeps s0 s) :
    Keeps s0 (State.wrAon s r a v) := by
  rw [show @State.wrAon = _ from by delta State.wrAon; rfl]
  refine keeps_ite ?_ ?_
  · refine keeps_saveSettings ?_
    refine keeps_plainWrite ?_
    assumption
  · refine keeps_ite ?_ ?_
    · extract_lets +onlyGivenNames -underBinder -merge x1
      have h1 : Keeps s0 x1 := by
        subst x1
        refine keeps_ite ?_ ?_
        · refine keeps_readyWrite ?_
          assumption
        · assumption
      try clear_value x1
      refine keeps_ite ?_ ?_
      · refine keeps_restRequest ?_
        assumption
      · assumption
    · refine keeps_ite ?_ ?_
      · extract_lets +onlyGivenNames -underBinder -merge x2
        have h2 : Keeps s0 x2 := by
          subst x2
          refine keeps_saveSettings ?_
          refine keeps_plainWrite ?_
          assumption
        try clear_value x2
        refine keeps_ite ?_ ?_
        · refine keeps_kick ?_
          assumption
        · assumption
      · refine keeps_plainWrite ?_
        assumption

theorem keeps_wrReset {s0 : State} {s : State} {r : RegRow} {a : Nat} {v : Word} (hK : Keeps s0 s) :
    Keeps s0 (State.wrReset s r a v) := by
  rw [show @State.wrReset = _ from by delta State.wrReset; rfl]
  refine keeps_ite ?_ ?_
  · refine keeps_ite ?_ ?_
    · refine keeps_startReset ?_
      assumption
    · assumption
  · refine keeps_plainWrite ?_
    assumption

theorem keeps_wrMod {s0 : State} {s : State} {r : RegRow} {a : Nat} {v : Word} (hK : Keeps s0 s) :
    Keeps s0 (State.wrMod s r a v) := by
  rw [show @State.wrMod = _ from by delta State.wrMod; rfl]
  refine keeps_ite ?_ ?_
  · refine keeps_nextOf ?_
    refine keeps_execTblDataAccess ?_
    assumption
  · refine keeps_plainWrite ?_
    assumption

theorem keeps_wrLeg {s0 : State} {s : State} {r : RegRow} {a : Nat} {v : Word} (hK : Keeps s0 s) :
    Keeps s0 (State.wrLeg s r a v) := by
  rw [show @State.wrLeg = _ from by delta State.wrLeg; rfl]
  extract_lets +onlyGivenNames -underBinder -merge x1
  try clear_value x1
  split
  · refine keeps_legMode ?_
    assumption
  · refine keeps_legDt ?_
    assumption
  · refine keeps_legMinpw ?_
    assumption
  · refine keeps_legRaw ?_
    assumption
  · refine keeps_plainWrite ?_
    assumption

theorem keeps_guardWrite {s0 : State} {s : State} {r : RegRow} {n a : Nat} {v : Word} (hK : Keeps s0 s) :
    Keeps s0 (State.guardWrite s r n a v) := by
  rw [show @State.guardWrite = _ from by delta State.guardWrite; rfl]
  refine keeps_ite ?_ ?_
  · extract_lets +onlyGivenNames -underBinder -merge x1
    try clear_value x1
    extract_lets +onlyGivenNames -underBinder -merge x2
    try clear_value x2
    extract_lets +onlyGivenNames -underBinder -merge x3
    try clear_value x3
    refine keeps_setCrew ?_
    assumption
  · refine keeps_plainWrite ?_
    assumption

theorem keeps_wrCrew {s0 : State} {s : State} {r : RegRow} {a : Nat} {v : Word} (hK : Keeps s0 s) :
    Keeps s0 (State.wrCrew s r a v) := by
  rw [show @State.wrCrew = _ from by delta State.wrCrew; rfl]
  extract_lets +onlyGivenNames -underBinder -merge x1
  try clear_value x1
  extract_lets +onlyGivenNames -underBinder -merge x2
  try clear_value x2
  refine keeps_ite ?_ ?_
  · refine keeps_ite ?_ ?_
    · refine keeps_crewStop ?_
      assumption
    · refine keeps_ite ?_ ?_
      · refine keeps_crewStart ?_
        assumption
      · assumption
  · refine keeps_ite ?_ ?_
    · refine keeps_setCrew ?_
      assumption
    · refine keeps_ite ?_ ?_
      · refine keeps_cmdAmp ?_
        assumption
      · refine keeps_ite ?_ ?_
        · refine keeps_guardWrite ?_
          assumption
        · refine keeps_ite ?_ ?_
          · refine keeps_slessTrack ?_
            refine keeps_plainWrite ?_
            assumption
          · refine keeps_plainWrite ?_
            assumption

theorem keeps_wrProf {s0 : State} {s : State} {r : RegRow} {a : Nat} {v : Word} (hK : Keeps s0 s) :
    Keeps s0 (State.wrProf s r a v) := by
  rw [show @State.wrProf = _ from by delta State.wrProf; rfl]
  extract_lets +onlyGivenNames -underBinder -merge x1
  try clear_value x1
  extract_lets +onlyGivenNames -underBinder -merge x2
  try clear_value x2
  refine keeps_ite ?_ ?_
  · extract_lets +onlyGivenNames -underBinder -merge x3
    try clear_value x3
    extract_lets +onlyGivenNames -underBinder -merge x4
    have h4 : Keeps s0 x4 := by
      subst x4
      refine keeps_ite ?_ ?_
      · assumption
      · refine keeps_profModeWr ?_
        assumption
    try clear_value x4
    extract_lets +onlyGivenNames -underBinder -merge x5
    have h5 : Keeps s0 x5 := by
      subst x5
      refine keeps_ite ?_ ?_
      · refine keeps_profHalt ?_
        assumption
      · assumption
    try clear_value x5
    refine keeps_ite ?_ ?_
    · refine keeps_profHalt ?_
      assumption
    · assumption
  · refine keeps_ite ?_ ?_
    · refine keeps_profParam ?_
      assumption
    · refine keeps_ite ?_ ?_
      · refine keeps_profTgtH ?_
        assumption
      · refine keeps_ite ?_ ?_
        · refine keeps_profVtgt ?_
          assumption
        · refine keeps_ite ?_ ?_
          · refine keeps_iarPer ?_
            assumption
          · refine keeps_ite ?_ ?_
            · refine keeps_setpH ?_
              assumption
            · refine keeps_plainWrite ?_
              assumption

theorem keeps_wrSinc {s0 : State} {s : State} {r : RegRow} {a : Nat} {v : Word} (hK : Keeps s0 s) :
    Keeps s0 (State.wrSinc s r a v) := by
  rw [show @State.wrSinc = _ from by delta State.wrSinc; rfl]
  extract_lets +onlyGivenNames -underBinder -merge x1
  try clear_value x1
  refine keeps_ite ?_ ?_
  · refine keeps_eclr ?_
    assumption
  · refine keeps_plainWrite ?_
    assumption

theorem keeps_wrYilos {s0 : State} {s : State} {r : RegRow} {a : Nat} {v : Word} (hK : Keeps s0 s) :
    Keeps s0 (State.wrYilos s r a v) := by
  rw [show @State.wrYilos = _ from by delta State.wrYilos; rfl]
  extract_lets +onlyGivenNames -underBinder -merge x1
  try clear_value x1
  split
  · extract_lets +onlyGivenNames -underBinder -merge x2
    try clear_value x2
    extract_lets +onlyGivenNames -underBinder -merge x3
    try clear_value x3
    extract_lets +onlyGivenNames -underBinder -merge x4
    have h4 : Keeps s0 x4 := by
      subst x4
      refine keeps_plainWrite ?_
      assumption
    try clear_value x4
    extract_lets +onlyGivenNames -underBinder -merge x5
    have h5 : Keeps s0 x5 := by
      subst x5
      refine keeps_put ?_
      assumption
    try clear_value x5
    extract_lets +onlyGivenNames -underBinder -merge x6
    have h6 : Keeps s0 x6 := by
      subst x6
      refine keeps_ite ?_ ?_
      · refine keeps_yilosEn ?_
        assumption
      · assumption
    try clear_value x6
    refine keeps_ite ?_ ?_
    · refine keeps_yilosRetrain ?_
      assumption
    · assumption
  · refine keeps_ite ?_ ?_
    · refine keeps_yilosClr ?_
      assumption
    · assumption
  · refine keeps_yilosMwr ?_
    assumption
  · split
    · refine keeps_nextOf ?_
      refine keeps_execDiagStart ?_
      assumption
    · assumption
  · refine keeps_plainWrite ?_
    assumption

theorem keeps_wrPos {s0 : State} {s : State} {r : RegRow} {a : Nat} {v : Word} (hK : Keeps s0 s) :
    Keeps s0 (State.wrPos s r a v) := by
  rw [show @State.wrPos = _ from by delta State.wrPos; rfl]
  extract_lets +onlyGivenNames -underBinder -merge x1
  try clear_value x1
  split
  · extract_lets +onlyGivenNames -underBinder -merge x2
    have h2 : Keeps s0 x2 := by
      subst x2
      refine keeps_ite ?_ ?_
      · refine keeps_posClr ?_
        assumption
      · assumption
    try clear_value x2
    refine keeps_ite ?_ ?_
    · refine keeps_posRearm ?_
      assumption
    · assumption
  · refine keeps_posWritten ?_
    refine keeps_plainWrite ?_
    assumption

theorem keeps_wrRing {s0 : State} {s : State} {r : RegRow} {a : Nat} {v : Word} (hK : Keeps s0 s) :
    Keeps s0 (State.wrRing s r a v) := by
  rw [show @State.wrRing = _ from by delta State.wrRing; rfl]
  extract_lets +onlyGivenNames -underBinder -merge x1
  try clear_value x1
  refine keeps_ite ?_ ?_
  · refine keeps_mdioWrite ?_
    assumption
  · refine keeps_ite ?_ ?_
    · extract_lets +onlyGivenNames -underBinder -merge x2
      have h2 : Keeps s0 x2 := by
        subst x2
        refine keeps_wr ?_
        assumption
      try clear_value x2
      extract_lets +onlyGivenNames -underBinder -merge x3
      have h3 : Keeps s0 x3 := by
        subst x3
        refine keeps_ite ?_ ?_
        · refine keeps_bypInsert ?_
          assumption
        · assumption
      try clear_value x3
      refine keeps_ite ?_ ?_
      · refine keeps_bypLeave ?_
        assumption
      · assumption
    · refine keeps_ite ?_ ?_
      · extract_lets +onlyGivenNames -underBinder -merge x4
        try clear_value x4
        refine keeps_ite ?_ ?_
        · refine keeps_lqCtlWrite ?_
          assumption
        · refine keeps_lqWrite ?_
          assumption
      · refine keeps_plainWrite ?_
        assumption

theorem keeps_wrTime {s0 : State} {s : State} {r : RegRow} {a : Nat} {v : Word} (hK : Keeps s0 s) :
    Keeps s0 (State.wrTime s r a v) := by
  rw [show @State.wrTime = _ from by delta State.wrTime; rfl]
  refine keeps_ite ?_ ?_
  · refine keeps_ite ?_ ?_
    · refine keeps_wr ?_
      assumption
    · assumption
  · refine keeps_plainWrite ?_
    assumption

theorem keeps_wrField {s0 : State} {s : State} {r : RegRow} {a : Nat} {v : Word} (hK : Keeps s0 s) :
    Keeps s0 (State.wrField s r a v) := by
  rw [show @State.wrField = _ from by delta State.wrField; rfl]
  refine keeps_ite ?_ ?_
  · refine keeps_nextOf ?_
    refine keeps_execFieldSwrV ?_
    assumption
  · refine keeps_ite ?_ ?_
    · refine keeps_ite ?_ ?_
      · refine keeps_fieldClear ?_
        assumption
      · assumption
    · refine keeps_plainWrite ?_
      assumption

theorem keeps_wrMaster {s0 : State} {s : State} {r : RegRow} {a : Nat} {v : Word} (hK : Keeps s0 s) :
    Keeps s0 (State.wrMaster s r a v) := by
  rw [show @State.wrMaster = _ from by delta State.wrMaster; rfl]
  refine keeps_ite ?_ ?_
  · refine keeps_cntClr ?_
    assumption
  · refine keeps_plainWrite ?_
    assumption

theorem keeps_wrSe {s0 : State} {s : State} {r : RegRow} {a : Nat} {v : Word} (hK : Keeps s0 s) :
    Keeps s0 (State.wrSe s r a v) := by
  rw [show @State.wrSe = _ from by delta State.wrSe; rfl]
  extract_lets +onlyGivenNames -underBinder -merge x1
  try clear_value x1
  extract_lets +onlyGivenNames -underBinder -merge x2
  try clear_value x2
  refine keeps_ite ?_ ?_
  · refine keeps_nextOf ?_
    refine keeps_execSeRetest ?_
    assumption
  · refine keeps_ite ?_ ?_
    · refine keeps_ite ?_ ?_
      · assumption
      · refine keeps_plainWrite ?_
        assumption
    · refine keeps_ite ?_ ?_
      · refine keeps_ite ?_ ?_
        · refine keeps_setTask ?_
          assumption
        · assumption
      · refine keeps_ite ?_ ?_
        · refine keeps_ite ?_ ?_
          · refine keeps_setTask ?_
            assumption
          · assumption
        · refine keeps_ite ?_ ?_
          · refine keeps_nextOf ?_
            refine keeps_execSeMemDataWrite ?_
            assumption
          · refine keeps_ite ?_ ?_
            · refine keeps_nextOf ?_
              refine keeps_execCoefDataWrite ?_
              assumption
            · refine keeps_ite ?_ ?_
              · refine keeps_nextOf ?_
                refine keeps_execCoefSwap ?_
                assumption
              · refine keeps_ite ?_ ?_
                · refine keeps_seSwap ?_
                  assumption
                · refine keeps_ite ?_ ?_
                  · extract_lets +onlyGivenNames -underBinder -merge x3
                    try clear_value x3
                    refine keeps_ite ?_ ?_
                    · refine keeps_tmrEn ?_
                      refine keeps_putB ?_
                      assumption
                    · extract_lets +onlyGivenNames -underBinder -merge x4
                      have h4 : Keeps s0 x4 := by
                        subst x4
                        refine keeps_plainWrite ?_
                        assumption
                      try clear_value x4
                      refine keeps_ite ?_ ?_
                      · refine keeps_putB ?_
                        assumption
                      · assumption
                  · refine keeps_plainWrite ?_
                    assumption

theorem keeps_wrCox {s0 : State} {s : State} {r : RegRow} {a : Nat} {v : Word} (hK : Keeps s0 s) :
    Keeps s0 (State.wrCox s r a v) := by
  rw [show @State.wrCox = _ from by delta State.wrCox; rfl]
  extract_lets +onlyGivenNames -underBinder -merge x1
  try clear_value x1
  refine keeps_ite ?_ ?_
  · refine keeps_mboxReq ?_
    assumption
  · refine keeps_plainWrite ?_
    assumption

theorem keeps_wrAux {s0 : State} {s : State} {r : RegRow} {a : Nat} {v : Word} (hK : Keeps s0 s) :
    Keeps s0 (State.wrAux s r a v) := by
  rw [show @State.wrAux = _ from by delta State.wrAux; rfl]
  extract_lets +onlyGivenNames -underBinder -merge x1
  try clear_value x1
  refine keeps_ite ?_ ?_
  · extract_lets +onlyGivenNames -underBinder -merge x2
    try clear_value x2
    refine keeps_ite ?_ ?_
    · refine keeps_auxStart ?_
      refine keeps_auxCfg ?_
      assumption
    · refine keeps_auxCfg ?_
      assumption
  · refine keeps_auxShow ?_
    refine keeps_plainWrite ?_
    assumption

theorem keeps_wrGpio {s0 : State} {s : State} {mine : Nat → Bool} {r : RegRow} {a : Nat} {v : Word} (hK : Keeps s0 s) :
    Keeps s0 (State.wrGpio s mine r a v) := by
  rw [show @State.wrGpio = _ from by delta State.wrGpio; rfl]
  refine keeps_ite ?_ ?_
  · refine keeps_gpioWrite ?_
    assumption
  · refine keeps_plainWrite ?_
    assumption

theorem keeps_wrCrypto {s0 : State} {s : State} {r : RegRow} {a : Nat} {v : Word} (hK : Keeps s0 s) :
    Keeps s0 (State.wrCrypto s r a v) := by
  rw [show @State.wrCrypto = _ from by delta State.wrCrypto; rfl]
  refine keeps_ite ?_ ?_
  · refine keeps_lcsWrite ?_
    assumption
  · refine keeps_ite ?_ ?_
    · refine keeps_ite ?_ ?_
      · refine keeps_fwConfirm ?_
        assumption
      · assumption
    · refine keeps_plainWrite ?_
      assumption

theorem keeps_regWrite {s0 : State} {s : State} {mine : Nat → Bool} {a : Nat} {v : Word} (hK : Keeps s0 s) :
    Keeps s0 (State.regWrite s mine a v) := by
  rw [show @State.regWrite = _ from by delta State.regWrite; rfl]
  split
  · assumption
  · split
    · rename_i heq
      have h1 := keeps_of_eqP (s0 := s0) heq (by
        refine keeps_takeWord ?_
        assumption)
      split
      · refine keeps_wrSys ?_
        assumption
      · refine keeps_wrAon ?_
        assumption
      · refine keeps_wrReset ?_
        assumption
      · refine keeps_wrMod ?_
        assumption
      · refine keeps_wrLeg ?_
        assumption
      · refine keeps_wrCrew ?_
        assumption
      · refine keeps_wrProf ?_
        assumption
      · refine keeps_wrSinc ?_
        assumption
      · refine keeps_wrYilos ?_
        assumption
      · refine keeps_wrPos ?_
        assumption
      · refine keeps_wrRing ?_
        assumption
      · refine keeps_wrTime ?_
        assumption
      · refine keeps_wrField ?_
        assumption
      · refine keeps_wrMaster ?_
        assumption
      · refine keeps_wrSe ?_
        assumption
      · refine keeps_wrCox ?_
        assumption
      · refine keeps_wrAux ?_
        assumption
      · refine keeps_wrGpio ?_
        assumption
      · refine keeps_wrCrypto ?_
        assumption
      · refine keeps_plainWrite ?_
        assumption

theorem keeps_coxWrite {s0 : State} {s : State} {a : Nat} {v : Word} (hK : Keeps s0 s) :
    Keeps s0 (State.coxWrite s a v) := by
  rw [show @State.coxWrite = _ from by delta State.coxWrite; rfl]
  refine keeps_regWrite ?_
  assumption

theorem keeps_regRead {s0 : State} {s : State} {a : Nat} (hK : Keeps s0 s) :
    Keeps s0 (State.regRead s a).2 := by
  rw [show @State.regRead = _ from by delta State.regRead; rfl]
  split
  · refine keeps_snd ?_
    assumption
  · extract_lets +onlyGivenNames -underBinder -merge x1
    try clear_value x1
    extract_lets +onlyGivenNames -underBinder -merge x2
    try clear_value x2
    extract_lets +onlyGivenNames -underBinder -merge x3
    try clear_value x3
    split
    · rename_i heq
      have h4 := keeps_of_eqP (s0 := s0) heq (by
        refine keeps_iteP ?_ ?_
        · refine keeps_readRtcL ?_
          assumption
        · refine keeps_iteP ?_ ?_
          · refine keeps_readCt ?_
            assumption
          · refine keeps_iteP ?_ ?_
            · refine keeps_readLt ?_
              assumption
            · refine keeps_iteP ?_ ?_
              · extract_lets +onlyGivenNames -underBinder -merge x5
                have h5 : Keeps s0 x5 := by
                  subst x5
                  refine keeps_nextOf ?_
                  refine keeps_execTblDataAccess ?_
                  assumption
                try clear_value x5
                refine keeps_snd ?_
                refine keeps_mk ?_
                assumption
              · refine keeps_iteP ?_ ?_
                · extract_lets +onlyGivenNames -underBinder -merge x6
                  have h6 : Keeps s0 x6 := by
                    subst x6
                    refine keeps_nextOf ?_
                    refine keeps_execSeMemDataRead ?_
                    assumption
                  try clear_value x6
                  refine keeps_snd ?_
                  refine keeps_mk ?_
                  assumption
                · refine keeps_iteP ?_ ?_
                  · refine keeps_readProfPos ?_
                    assumption
                  · refine keeps_iteP ?_ ?_
                    · refine keeps_readEnergy ?_
                      assumption
                    · refine keeps_iteP ?_ ?_
                      · refine keeps_readEnergy ?_
                        assumption
                      · refine keeps_iteP ?_ ?_
                        · refine keeps_readLatch ?_
                          assumption
                        · refine keeps_iteP ?_ ?_
                          · refine keeps_readLatch ?_
                            assumption
                          · refine keeps_iteP ?_ ?_
                            · refine keeps_auxRead ?_
                              assumption
                            · refine keeps_iteP ?_ ?_
                              · refine keeps_snd ?_
                                assumption
                              · refine keeps_snd ?_
                                assumption)
      refine keeps_snd ?_
      assumption

end Sys2Proof.Machine
end

