-- ==== Sys2Proof/Laws/KeepsPortSpace.lean ====
section
/-! SUPPORT. Laws/KeepsPortSpace.lean: what the operations of Machine/PortSpace.lean keep. -/
namespace Sys2Proof.Machine

theorem keeps_portWrite {s0 : State} {s : State} {owner a : Nat} {v : Word} (hK : Keeps s0 s) :
    Keeps s0 (State.portWrite s owner a v) := by
  rw [show @State.portWrite = _ from by delta State.portWrite; rfl]
  refine keeps_ite ?_ ?_
  · refine keeps_regWrite ?_
    assumption
  · assumption

theorem keeps_portSet {s0 : State} {s : State} {owner mode a : Nat} {v : Word} (hK : Keeps s0 s) :
    Keeps s0 (State.portSet s owner mode a v) := by
  rw [show @State.portSet = _ from by delta State.portSet; rfl]
  extract_lets +onlyGivenNames -underBinder -merge x1
  try clear_value x1
  extract_lets +onlyGivenNames -underBinder -merge x2
  try clear_value x2
  refine keeps_portWrite ?_
  assumption

theorem keeps_drainEffect {s0 : State} {s : State} {e : OutEntry} (hK : Keeps s0 s) :
    Keeps s0 (State.drainEffect s e) := by
  rw [show @State.drainEffect = _ from by delta State.drainEffect; rfl]
  split
  · refine keeps_sramStore ?_
    assumption
  · refine keeps_portWrite ?_
    assumption
  · refine keeps_portSet ?_
    assumption
  · refine keeps_sigWrite ?_
    assumption
  · refine keeps_signalEvent ?_
    assumption

theorem keeps_drainOne {s0 : State} {s : State} {p : Nat} (hK : Keeps s0 s) :
    Keeps s0 (State.drainOne s p) := by
  rw [show @State.drainOne = _ from by delta State.drainOne; rfl]
  split
  · assumption
  · refine keeps_drainEffect ?_
    refine keeps_setPair ?_
    assumption

theorem keeps_drainN {s0 s : State} {p n : Nat} (h : Keeps s0 s) : Keeps s0 (s.drainN p n) := by
  induction n generalizing s with
  | zero => exact h
  | succ n ih => exact ih (keeps_drainOne h)

theorem keeps_drainTo {s0 : State} {s : State} {p : Nat} {f : OutEntry → Bool} (hK : Keeps s0 s) :
    Keeps s0 (State.drainTo s p f) := by
  rw [show @State.drainTo = _ from by delta State.drainTo; rfl]
  extract_lets +onlyGivenNames -underBinder -merge x1
  try clear_value x1
  extract_lets +onlyGivenNames -underBinder -merge x2
  try clear_value x2
  refine keeps_drainN ?_
  assumption

theorem keeps_post {s0 : State} {s : State} {p : Nat} {e : OutEntry} (hK : Keeps s0 s) :
    Keeps s0 (State.post s p e) := by
  rw [show @State.post = _ from by delta State.post; rfl]
  extract_lets +onlyGivenNames -underBinder -merge x1
  have h1 : Keeps s0 x1 := by
    subst x1
    refine keeps_ite ?_ ?_
    · refine keeps_drainOne ?_
      assumption
    · assumption
  try clear_value x1
  refine keeps_setPair ?_
  assumption

theorem keeps_execOutboundQueueDrain {s0 : State} {p : PairNo} {s : State} (hK : Keeps s0 s) :
    Goes s0 (execOutboundQueueDrain p s) := by
  rw [show @execOutboundQueueDrain = _ from by delta execOutboundQueueDrain; rfl]
  refine goes_next ?_
  refine keeps_drainOne ?_
  assumption

end Sys2Proof.Machine
end

