-- ==== Sys2Proof/Laws/KeepsOnnusMem.lean ====
section
/-! SUPPORT. Laws/KeepsOnnusMem.lean: what the operations of Machine/OnnusMem.lean keep. -/
namespace Sys2Proof.Machine

theorem keeps_dmemSet {s0 : State} {s : State} {p a : Nat} {l : List Byte} (hK : Keeps s0 s) :
    Keeps s0 (State.dmemSet s p a l) := by
  rw [show @State.dmemSet = _ from by delta State.dmemSet; rfl]
  refine keeps_setPair ?_
  assumption

theorem keeps_loadI {s0 : State} {p : PairNo} {n : Nat} {base : Word} {imm : BitVec 15} {set : Ctx → Nat → Ctx} {s : State} {c : Ctx} (hK : Keeps s0 s) :
    IGoes s0 (loadI p n base imm set s c) := by
  rw [show @loadI = _ from by delta loadI; rfl]
  extract_lets +onlyGivenNames -underBinder -merge x1
  try clear_value x1
  extract_lets +onlyGivenNames -underBinder -merge x2
  try clear_value x2
  refine igoes_ite ?_ ?_
  · refine igoes_trap ?_
    assumption
  · split
    · refine igoes_trap ?_
      assumption
    · split
      · rename_i heq
        have h3 := keeps_of_eqM (s0 := s0) heq (by
          refine keeps_memRead ?_
          assumption)
        refine igoes_ok ?_
        assumption
      · exact igoes_ue
    · extract_lets +onlyGivenNames -underBinder -merge x4
      have h4 : Keeps s0 x4 := by
        subst x4
        refine keeps_drainTo ?_
        assumption
      try clear_value x4
      split
      · rename_i heq
        have h5 := keeps_of_eqP (s0 := s0) heq (by
          refine keeps_sramLoad ?_
          assumption)
        split
        · rename_i heq
          have h6 := keeps_of_eqP (s0 := s0) heq (by
            refine keeps_freeIn ?_
            assumption)
          split
          · refine igoes_ok ?_
            assumption
          · refine igoes_trap ?_
            assumption

theorem keeps_storeI {s0 : State} {p : PairNo} {n : Nat} {base : Word} {imm : BitVec 15} {val : Word} {s : State} {key : Nat} {c : Ctx} (hK : Keeps s0 s) :
    IGoes s0 (storeI p n base imm val s key c) := by
  rw [show @storeI = _ from by delta storeI; rfl]
  extract_lets +onlyGivenNames -underBinder -merge x1
  try clear_value x1
  extract_lets +onlyGivenNames -underBinder -merge x2
  try clear_value x2
  refine igoes_ite ?_ ?_
  · refine igoes_trap ?_
    assumption
  · split
    · refine igoes_trap ?_
      assumption
    · split
      · rename_i heq
        have h3 := keeps_of_eqM (s0 := s0) heq (by
          refine keeps_memStore ?_
          assumption)
        refine igoes_ok ?_
        refine keeps_dmemSet ?_
        assumption
      · exact igoes_ue
    · refine igoes_ite ?_ ?_
      · refine igoes_trap ?_
        assumption
      · refine igoes_ok ?_
        refine keeps_post ?_
        assumption

theorem keeps_loadOp {s0 : State} {op n : Nat} {ok : Bool} {set : Ctx → Nat → Ctx} {p : PairNo} {gd gs1 : BitVec 5} {imm : BitVec 15} {s : State} (hK : Keeps s0 s) :
    Goes s0 (loadOp op n ok set p gd gs1 imm s) := by
  rw [show @loadOp = _ from by delta loadOp; rfl]
  refine goes_runI (fun y1 a1_1 a1_2 h1 => ?_) ?_
  · refine keeps_loadI ?_
    assumption
  · assumption

theorem keeps_storeOp {s0 : State} {op n : Nat} {ok : Bool} {val : Ctx → Word} {p : PairNo} {gd gs1 : BitVec 5} {imm : BitVec 15} {s : State} (hK : Keeps s0 s) :
    Goes s0 (storeOp op n ok val p gd gs1 imm s) := by
  rw [show @storeOp = _ from by delta storeOp; rfl]
  refine goes_runI (fun y1 a1_1 a1_2 h1 => ?_) ?_
  · refine keeps_storeI ?_
    assumption
  · assumption

theorem keeps_execLdw {s0 : State} {p : PairNo} {gd gs1 : BitVec 5} {imm : BitVec 15} {s : State} (hK : Keeps s0 s) :
    Goes s0 (execLdw p gd gs1 imm s) := by
  rw [show @execLdw = _ from by delta execLdw; rfl]
  refine keeps_loadOp ?_
  assumption

theorem keeps_execLdh {s0 : State} {p : PairNo} {gd gs1 : BitVec 5} {imm : BitVec 15} {s : State} (hK : Keeps s0 s) :
    Goes s0 (execLdh p gd gs1 imm s) := by
  rw [show @execLdh = _ from by delta execLdh; rfl]
  refine keeps_loadOp ?_
  assumption

theorem keeps_execLdhu {s0 : State} {p : PairNo} {gd gs1 : BitVec 5} {imm : BitVec 15} {s : State} (hK : Keeps s0 s) :
    Goes s0 (execLdhu p gd gs1 imm s) := by
  rw [show @execLdhu = _ from by delta execLdhu; rfl]
  refine keeps_loadOp ?_
  assumption

theorem keeps_execLdb {s0 : State} {p : PairNo} {gd gs1 : BitVec 5} {imm : BitVec 15} {s : State} (hK : Keeps s0 s) :
    Goes s0 (execLdb p gd gs1 imm s) := by
  rw [show @execLdb = _ from by delta execLdb; rfl]
  refine keeps_loadOp ?_
  assumption

theorem keeps_execLdbu {s0 : State} {p : PairNo} {gd gs1 : BitVec 5} {imm : BitVec 15} {s : State} (hK : Keeps s0 s) :
    Goes s0 (execLdbu p gd gs1 imm s) := by
  rw [show @execLdbu = _ from by delta execLdbu; rfl]
  refine keeps_loadOp ?_
  assumption

theorem keeps_execFlw {s0 : State} {p : PairNo} {gd gs1 : BitVec 5} {imm : BitVec 15} {s : State} (hK : Keeps s0 s) :
    Goes s0 (execFlw p gd gs1 imm s) := by
  rw [show @execFlw = _ from by delta execFlw; rfl]
  refine keeps_loadOp ?_
  assumption

theorem keeps_execStw {s0 : State} {p : PairNo} {gd gs1 : BitVec 5} {imm : BitVec 15} {s : State} (hK : Keeps s0 s) :
    Goes s0 (execStw p gd gs1 imm s) := by
  rw [show @execStw = _ from by delta execStw; rfl]
  refine keeps_storeOp ?_
  assumption

theorem keeps_execSth {s0 : State} {p : PairNo} {gd gs1 : BitVec 5} {imm : BitVec 15} {s : State} (hK : Keeps s0 s) :
    Goes s0 (execSth p gd gs1 imm s) := by
  rw [show @execSth = _ from by delta execSth; rfl]
  refine keeps_storeOp ?_
  assumption

theorem keeps_execStb {s0 : State} {p : PairNo} {gd gs1 : BitVec 5} {imm : BitVec 15} {s : State} (hK : Keeps s0 s) :
    Goes s0 (execStb p gd gs1 imm s) := by
  rw [show @execStb = _ from by delta execStb; rfl]
  refine keeps_storeOp ?_
  assumption

theorem keeps_execFsw {s0 : State} {p : PairNo} {gd gs1 : BitVec 5} {imm : BitVec 15} {s : State} (hK : Keeps s0 s) :
    Goes s0 (execFsw p gd gs1 imm s) := by
  rw [show @execFsw = _ from by delta execFsw; rfl]
  refine keeps_storeOp ?_
  assumption

theorem keeps_atomicI {s0 : State} {p : PairNo} {gd gs1 : BitVec 5} {new : Ctx → Word → Option Word} {s : State} {key : Nat} {c : Ctx} (hK : Keeps s0 s) :
    IGoes s0 (atomicI p gd gs1 new s key c) := by
  rw [show @atomicI = _ from by delta atomicI; rfl]
  extract_lets +onlyGivenNames -underBinder -merge x1
  try clear_value x1
  extract_lets +onlyGivenNames -underBinder -merge x2
  try clear_value x2
  refine igoes_ite ?_ ?_
  · refine igoes_trap ?_
    assumption
  · split
    · refine igoes_trap ?_
      assumption
    · split
      · exact igoes_ue
      · rename_i heq
        have h3 := keeps_of_eqM (s0 := s0) heq (by
          refine keeps_memRead ?_
          assumption)
        extract_lets +onlyGivenNames -underBinder -merge x4
        try clear_value x4
        extract_lets +onlyGivenNames -underBinder -merge x5
        have h5 : Keeps s0 x5 := by
          subst x5
          split
          · refine keeps_dmemSet ?_
            assumption
          · assumption
        try clear_value x5
        refine igoes_ok ?_
        assumption
    · refine igoes_ite ?_ ?_
      · refine igoes_trap ?_
        assumption
      · extract_lets +onlyGivenNames -underBinder -merge x6
        have h6 : Keeps s0 x6 := by
          subst x6
          refine keeps_drainN ?_
          assumption
        try clear_value x6
        split
        · rename_i heq
          have h7 := keeps_of_eqP (s0 := s0) heq (by
            refine keeps_sramLoad ?_
            assumption)
          split
          · rename_i heq
            have h8 := keeps_of_eqP (s0 := s0) heq (by
              refine keeps_freeIn ?_
              assumption)
            split
            · refine igoes_trap ?_
              assumption
            · extract_lets +onlyGivenNames -underBinder -merge x9
              try clear_value x9
              extract_lets +onlyGivenNames -underBinder -merge x10
              have h10 : Keeps s0 x10 := by
                subst x10
                split
                · refine keeps_wrN ?_
                  assumption
                · assumption
              try clear_value x10
              refine igoes_ok ?_
              assumption

theorem keeps_execSwapw {s0 : State} {p : PairNo} {gd gs1 gs2 : BitVec 5} {s : State} (hK : Keeps s0 s) :
    Goes s0 (execSwapw p gd gs1 gs2 s) := by
  rw [show @execSwapw = _ from by delta execSwapw; rfl]
  refine goes_runI (fun y1 a1_1 a1_2 h1 => ?_) ?_
  · refine keeps_atomicI ?_
    assumption
  · assumption

theorem keeps_execCasw {s0 : State} {p : PairNo} {gd gs1 gs2 : BitVec 5} {s : State} (hK : Keeps s0 s) :
    Goes s0 (execCasw p gd gs1 gs2 s) := by
  rw [show @execCasw = _ from by delta execCasw; rfl]
  refine goes_runI (fun y1 a1_1 a1_2 h1 => ?_) ?_
  · refine keeps_atomicI ?_
    assumption
  · assumption

end Sys2Proof.Machine
end

