-- ==== Sys2Proof/Laws/KeepsOnnusFlow.lean ====
section
/-! SUPPORT. Laws/KeepsOnnusFlow.lean: what the operations of Machine/OnnusFlow.lean keep. -/
namespace Sys2Proof.Machine

theorem keeps_jumpI {s0 : State} {t : Int} {s : State} {c : Ctx} (hK : Keeps s0 s) :
    IGoes s0 (jumpI t s c) := by
  rw [show @jumpI = _ from by delta jumpI; rfl]
  refine igoes_ite ?_ ?_
  · refine igoes_ok ?_
    assumption
  · refine igoes_trap ?_
    assumption

theorem keeps_branch {s0 : State} {op : Nat} {f : Word → Word → Bool} {p : PairNo} {gs1 gs2 : BitVec 5} {off : BitVec 15} {s : State} (hK : Keeps s0 s) :
    Goes s0 (branch op f p gs1 gs2 off s) := by
  rw [show @branch = _ from by delta branch; rfl]
  refine goes_runI (fun y1 a1_1 a1_2 h1 => ?_) ?_
  · refine igoes_ite ?_ ?_
    · refine keeps_jumpI ?_
      assumption
    · refine igoes_ok ?_
      assumption
  · assumption

theorem keeps_execBeq {s0 : State} {p : PairNo} {gs1 gs2 : BitVec 5} {off : BitVec 15} {s : State} (hK : Keeps s0 s) :
    Goes s0 (execBeq p gs1 gs2 off s) := by
  rw [show @execBeq = _ from by delta execBeq; rfl]
  refine keeps_branch ?_
  assumption

theorem keeps_execBne {s0 : State} {p : PairNo} {gs1 gs2 : BitVec 5} {off : BitVec 15} {s : State} (hK : Keeps s0 s) :
    Goes s0 (execBne p gs1 gs2 off s) := by
  rw [show @execBne = _ from by delta execBne; rfl]
  refine keeps_branch ?_
  assumption

theorem keeps_execBlt {s0 : State} {p : PairNo} {gs1 gs2 : BitVec 5} {off : BitVec 15} {s : State} (hK : Keeps s0 s) :
    Goes s0 (execBlt p gs1 gs2 off s) := by
  rw [show @execBlt = _ from by delta execBlt; rfl]
  refine keeps_branch ?_
  assumption

theorem keeps_execBge {s0 : State} {p : PairNo} {gs1 gs2 : BitVec 5} {off : BitVec 15} {s : State} (hK : Keeps s0 s) :
    Goes s0 (execBge p gs1 gs2 off s) := by
  rw [show @execBge = _ from by delta execBge; rfl]
  refine keeps_branch ?_
  assumption

theorem keeps_execBltu {s0 : State} {p : PairNo} {gs1 gs2 : BitVec 5} {off : BitVec 15} {s : State} (hK : Keeps s0 s) :
    Goes s0 (execBltu p gs1 gs2 off s) := by
  rw [show @execBltu = _ from by delta execBltu; rfl]
  refine keeps_branch ?_
  assumption

theorem keeps_execBgeu {s0 : State} {p : PairNo} {gs1 gs2 : BitVec 5} {off : BitVec 15} {s : State} (hK : Keeps s0 s) :
    Goes s0 (execBgeu p gs1 gs2 off s) := by
  rw [show @execBgeu = _ from by delta execBgeu; rfl]
  refine keeps_branch ?_
  assumption

theorem keeps_execJal {s0 : State} {p : PairNo} {gd : BitVec 5} {imm : BitVec 20} {s : State} (hK : Keeps s0 s) :
    Goes s0 (execJal p gd imm s) := by
  rw [show @execJal = _ from by delta execJal; rfl]
  refine goes_runI (fun y1 a1_1 a1_2 h1 => ?_) ?_
  · refine keeps_jumpI ?_
    assumption
  · assumption

theorem keeps_execJalr {s0 : State} {p : PairNo} {gd gs1 : BitVec 5} {imm : BitVec 15} {s : State} (hK : Keeps s0 s) :
    Goes s0 (execJalr p gd gs1 imm s) := by
  rw [show @execJalr = _ from by delta execJalr; rfl]
  refine goes_runI (fun y1 a1_1 a1_2 h1 => ?_) ?_
  · extract_lets +onlyGivenNames -underBinder -merge x2
    try clear_value x2
    refine igoes_ite ?_ ?_
    · refine igoes_trap ?_
      assumption
    · refine keeps_jumpI ?_
      assumption
  · assumption

theorem keeps_loopI {s0 : State} {word : Word} {count : Word} {n : Nat} {s : State} {key : Nat} {c : Ctx} (hK : Keeps s0 s) :
    IGoes s0 (loopI word count n s key c) := by
  rw [show @loopI = _ from by delta loopI; rfl]
  refine igoes_ite ?_ ?_
  · refine igoes_trap ?_
    assumption
  · extract_lets +onlyGivenNames -underBinder -merge x1
    try clear_value x1
    refine igoes_ite ?_ ?_
    · refine igoes_ok ?_
      assumption
    · refine igoes_ok ?_
      assumption

theorem keeps_execLoop {s0 : State} {p : PairNo} {gd gs1 : BitVec 5} {imm : BitVec 15} {s : State} (hK : Keeps s0 s) :
    Goes s0 (execLoop p gd gs1 imm s) := by
  rw [show @execLoop = _ from by delta execLoop; rfl]
  extract_lets +onlyGivenNames -underBinder -merge x1
  try clear_value x1
  refine goes_runI (fun y2 a2_1 a2_2 h2 => ?_) ?_
  · refine keeps_loopI ?_
    assumption
  · assumption

theorem keeps_execLoopi {s0 : State} {p : PairNo} {gd : BitVec 5} {imm : BitVec 20} {s : State} (hK : Keeps s0 s) :
    Goes s0 (execLoopi p gd imm s) := by
  rw [show @execLoopi = _ from by delta execLoopi; rfl]
  extract_lets +onlyGivenNames -underBinder -merge x1
  try clear_value x1
  refine goes_runI (fun y2 a2_1 a2_2 h2 => ?_) ?_
  · refine keeps_loopI ?_
    assumption
  · assumption

end Sys2Proof.Machine
end

