-- ==== Sys2Proof/Laws/KeepsOnnusPort.lean ====
section
/-! SUPPORT. Laws/KeepsOnnusPort.lean: what the operations of Machine/OnnusPort.lean keep. -/
namespace Sys2Proof.Machine

theorem keeps_portReadI {s0 : State} {p : PairNo} {gd : BitVec 5} {port : BitVec 16} {s : State} {key : Nat} {c : Ctx} (hK : Keeps s0 s) :
    IGoes s0 (portReadI p gd port s key c) := by
  rw [show @portReadI = _ from by delta portReadI; rfl]
  extract_lets +onlyGivenNames -underBinder -merge x1
  try clear_value x1
  extract_lets +onlyGivenNames -underBinder -merge x2
  have h2 : Keeps s0 x2 := by
    subst x2
    refine keeps_drainTo ?_
    assumption
  try clear_value x2
  refine igoes_ite ?_ ?_
  · refine igoes_trap ?_
    assumption
  · split
    · rename_i heq
      have h3 := keeps_of_eqP (s0 := s0) heq (by
        refine keeps_regRead ?_
        assumption)
      split
      · rename_i heq
        have h4 := keeps_of_eqP (s0 := s0) heq (by
          refine keeps_freeIn ?_
          assumption)
        refine igoes_ok ?_
        assumption

theorem keeps_portWriteI {s0 s : State} {port : BitVec 16} {f : State → Nat → Nat → State × Nat} {key : Nat} {c : Ctx}
    (hf : ∀ y a o, Keeps s0 y → Keeps s0 (f y a o).1) (h : Keeps s0 s) : IGoes s0 (portWriteI port f s key c) := by
  unfold portWriteI
  exact igoes_ite (igoes_trap h) (igoes_ite (igoes_trap h) (igoes_ok (hf _ _ _ h)))

theorem keeps_postedI {s0 : State} {p : PairNo} {v : Word} {s : State} {a o : Nat} (hK : Keeps s0 s) :
    Keeps s0 (postedI p v s a o).1 := by
  rw [show @postedI = _ from by delta postedI; rfl]
  refine keeps_fst ?_
  refine keeps_post ?_
  assumption

theorem keeps_postedSetI {s0 : State} {p : PairNo} {mode : Nat} {v : Word} {s : State} {a o : Nat} (hK : Keeps s0 s) :
    Keeps s0 (postedSetI p mode v s a o).1 := by
  rw [show @postedSetI = _ from by delta postedSetI; rfl]
  refine keeps_fst ?_
  refine keeps_post ?_
  assumption

theorem keeps_writtenI {s0 : State} {p : PairNo} {v : Word} {s : State} {a o : Nat} (hK : Keeps s0 s) :
    Keeps s0 (writtenI p v s a o).1 := by
  rw [show @writtenI = _ from by delta writtenI; rfl]
  extract_lets +onlyGivenNames -underBinder -merge x1
  have h1 : Keeps s0 x1 := by
    subst x1
    refine keeps_portWrite ?_
    refine keeps_drainN ?_
    assumption
  try clear_value x1
  split
  · rename_i heq
    have h2 := keeps_of_eqP (s0 := s0) heq (by
      refine keeps_freeIn ?_
      assumption)
    refine keeps_fst ?_
    assumption

theorem keeps_execPin {s0 : State} {p : PairNo} {g : BitVec 5} {port : BitVec 16} {s : State} (hK : Keeps s0 s) :
    Goes s0 (execPin p g port s) := by
  rw [show @execPin = _ from by delta execPin; rfl]
  refine goes_runI (fun y1 a1_1 a1_2 h1 => ?_) ?_
  · refine keeps_portReadI ?_
    assumption
  · assumption

theorem keeps_execPoutMode0 {s0 : State} {p : PairNo} {g : BitVec 5} {port : BitVec 16} {s : State} (hK : Keeps s0 s) :
    Goes s0 (execPoutMode0 p g port s) := by
  rw [show @execPoutMode0 = _ from by delta execPoutMode0; rfl]
  refine goes_runI (fun y1 a1_1 a1_2 h1 => ?_) ?_
  · refine keeps_portWriteI (fun y2 a2_1 a2_2 h2 => ?_) ?_
    · refine keeps_postedI ?_
      assumption
    · assumption
  · assumption

theorem keeps_execPoutMode1 {s0 : State} {p : PairNo} {g : BitVec 5} {port : BitVec 16} {s : State} (hK : Keeps s0 s) :
    Goes s0 (execPoutMode1 p g port s) := by
  rw [show @execPoutMode1 = _ from by delta execPoutMode1; rfl]
  refine goes_runI (fun y1 a1_1 a1_2 h1 => ?_) ?_
  · refine keeps_portWriteI (fun y2 a2_1 a2_2 h2 => ?_) ?_
    · refine keeps_writtenI ?_
      assumption
    · assumption
  · assumption

theorem keeps_execPsetOr {s0 : State} {p : PairNo} {g : BitVec 5} {port : BitVec 16} {s : State} (hK : Keeps s0 s) :
    Goes s0 (execPsetOr p g port s) := by
  rw [show @execPsetOr = _ from by delta execPsetOr; rfl]
  refine goes_runI (fun y1 a1_1 a1_2 h1 => ?_) ?_
  · refine keeps_portWriteI (fun y2 a2_1 a2_2 h2 => ?_) ?_
    · refine keeps_postedSetI ?_
      assumption
    · assumption
  · assumption

theorem keeps_execPsetAndnot {s0 : State} {p : PairNo} {g : BitVec 5} {port : BitVec 16} {s : State} (hK : Keeps s0 s) :
    Goes s0 (execPsetAndnot p g port s) := by
  rw [show @execPsetAndnot = _ from by delta execPsetAndnot; rfl]
  refine goes_runI (fun y1 a1_1 a1_2 h1 => ?_) ?_
  · refine keeps_portWriteI (fun y2 a2_1 a2_2 h2 => ?_) ?_
    · refine keeps_postedSetI ?_
      assumption
    · assumption
  · assumption

theorem keeps_execPsetXor {s0 : State} {p : PairNo} {g : BitVec 5} {port : BitVec 16} {s : State} (hK : Keeps s0 s) :
    Goes s0 (execPsetXor p g port s) := by
  rw [show @execPsetXor = _ from by delta execPsetXor; rfl]
  refine goes_runI (fun y1 a1_1 a1_2 h1 => ?_) ?_
  · refine keeps_portWriteI (fun y2 a2_1 a2_2 h2 => ?_) ?_
    · refine keeps_postedSetI ?_
      assumption
    · assumption
  · assumption

theorem keeps_execPinr {s0 : State} {p : PairNo} {gd gs1 gs2 : BitVec 5} {s : State} (hK : Keeps s0 s) :
    Goes s0 (execPinr p gd gs1 gs2 s) := by
  rw [show @execPinr = _ from by delta execPinr; rfl]
  refine goes_runI (fun y1 a1_1 a1_2 h1 => ?_) ?_
  · refine keeps_portReadI ?_
    assumption
  · assumption

theorem keeps_execPoutr {s0 : State} {p : PairNo} {gd gs1 gs2 : BitVec 5} {s : State} (hK : Keeps s0 s) :
    Goes s0 (execPoutr p gd gs1 gs2 s) := by
  rw [show @execPoutr = _ from by delta execPoutr; rfl]
  refine goes_runI (fun y1 a1_1 a1_2 h1 => ?_) ?_
  · refine keeps_portWriteI (fun y2 a2_1 a2_2 h2 => ?_) ?_
    · refine keeps_postedI ?_
      assumption
    · assumption
  · assumption

theorem keeps_sigReadI {s0 : State} {p : PairNo} {gd : BitVec 5} {addr : Word} {s : State} {key : Nat} {c : Ctx} (hK : Keeps s0 s) :
    IGoes s0 (sigReadI p gd addr s key c) := by
  rw [show @sigReadI = _ from by delta sigReadI; rfl]
  extract_lets +onlyGivenNames -underBinder -merge x1
  try clear_value x1
  refine igoes_ite ?_ ?_
  · refine igoes_trap ?_
    assumption
  · extract_lets +onlyGivenNames -underBinder -merge x2
    try clear_value x2
    extract_lets +onlyGivenNames -underBinder -merge x3
    have h3 : Keeps s0 x3 := by
      subst x3
      refine keeps_drainTo ?_
      assumption
    try clear_value x3
    split
    · rename_i heq
      have h4 := keeps_of_eqP (s0 := s0) heq (by
        refine keeps_freeIn ?_
        assumption)
      extract_lets +onlyGivenNames -underBinder -merge x5
      have h5 : Keeps s0 x5 := by
        subst x5
        refine keeps_correctCe ?_
        assumption
      try clear_value x5
      refine igoes_ite ?_ ?_
      · refine igoes_trap ?_
        refine keeps_sigTouch ?_
        assumption
      · split
        · refine igoes_ok ?_
          assumption

theorem keeps_execSigrd {s0 : State} {p : PairNo} {gd gs1 gs2 : BitVec 5} {s : State} (hK : Keeps s0 s) :
    Goes s0 (execSigrd p gd gs1 gs2 s) := by
  rw [show @execSigrd = _ from by delta execSigrd; rfl]
  extract_lets +onlyGivenNames -underBinder -merge x1
  try clear_value x1
  refine goes_runI (fun y2 a2_1 a2_2 h2 => ?_) ?_
  · refine igoes_ite ?_ ?_
    · refine igoes_trap ?_
      assumption
    · refine keeps_sigReadI ?_
      assumption
  · assumption

theorem keeps_execSigrdi {s0 : State} {p : PairNo} {gd : BitVec 5} {imm : BitVec 20} {s : State} (hK : Keeps s0 s) :
    Goes s0 (execSigrdi p gd imm s) := by
  rw [show @execSigrdi = _ from by delta execSigrdi; rfl]
  refine goes_runI (fun y1 a1_1 a1_2 h1 => ?_) ?_
  · refine keeps_sigReadI ?_
    assumption
  · assumption

theorem keeps_execSigwr {s0 : State} {p : PairNo} {gd gs1 gs2 : BitVec 5} {s : State} (hK : Keeps s0 s) :
    Goes s0 (execSigwr p gd gs1 gs2 s) := by
  rw [show @execSigwr = _ from by delta execSigwr; rfl]
  refine goes_runI (fun y1 a1_1 a1_2 h1 => ?_) ?_
  · extract_lets +onlyGivenNames -underBinder -merge x2
    try clear_value x2
    refine igoes_ite ?_ ?_
    · refine igoes_trap ?_
      assumption
    · refine igoes_ok ?_
      refine keeps_post ?_
      assumption
  · assumption

theorem keeps_execTrigger {s0 : State} {p : PairNo} {gd gs1 gs2 : BitVec 5} {s : State} (hK : Keeps s0 s) :
    Goes s0 (execTrigger p gd gs1 gs2 s) := by
  rw [show @execTrigger = _ from by delta execTrigger; rfl]
  refine goes_runI (fun y1 a1_1 a1_2 h1 => ?_) ?_
  · extract_lets +onlyGivenNames -underBinder -merge x2
    try clear_value x2
    refine igoes_ite ?_ ?_
    · refine igoes_trap ?_
      assumption
    · refine igoes_ok ?_
      refine keeps_post ?_
      assumption
  · assumption

theorem keeps_claimI {s0 : State} {p : PairNo} {release : Bool} {res : Nat} {s : State} {key : Nat} (hK : Keeps s0 s) :
    IGoes s0 (claimI p release res s key) := by
  rw [show @claimI = _ from by delta claimI; rfl]
  extract_lets +onlyGivenNames -underBinder -merge x1
  try clear_value x1
  refine igoes_wait ?_
  refine keeps_setPair ?_
  refine keeps_mk ?_
  assumption

theorem keeps_execClaim {s0 : State} {p : PairNo} {gd gs1 gs2 : BitVec 5} {s : State} (hK : Keeps s0 s) :
    Goes s0 (execClaim p gd gs1 gs2 s) := by
  rw [show @execClaim = _ from by delta execClaim; rfl]
  refine goes_runI (fun y1 a1_1 a1_2 h1 => ?_) ?_
  · refine keeps_claimI ?_
    assumption
  · assumption

theorem keeps_execRelease {s0 : State} {p : PairNo} {gd gs1 gs2 : BitVec 5} {s : State} (hK : Keeps s0 s) :
    Goes s0 (execRelease p gd gs1 gs2 s) := by
  rw [show @execRelease = _ from by delta execRelease; rfl]
  refine goes_runI (fun y1 a1_1 a1_2 h1 => ?_) ?_
  · refine keeps_claimI ?_
    assumption
  · assumption

end Sys2Proof.Machine
end

