-- ==== Sys2Proof/Laws/KeepsOnnusSys.lean ====
section
/-! SUPPORT. Laws/KeepsOnnusSys.lean: what the operations of Machine/OnnusSys.lean keep. -/
namespace Sys2Proof.Machine

theorem keeps_endI {s0 s : State} {word : Word} {src : Nat → Bool} {f : State → Nat → Ctx → State} {key : Nat} {c : Ctx}
    (hf : ∀ y a o, Keeps s0 y → Keeps s0 (f y a o)) (h : Keeps s0 s) : IGoes s0 (endI word src f s key c) :=
  igoes_ite (igoes_trap h) (igoes_ite (igoes_trap h) (igoes_fin (hf _ _ _ h)))

theorem keeps_capture {s0 : State} {s : State} {p : Nat} {key : Nat} {c : Ctx} (hK : Keeps s0 s) :
    Keeps s0 (State.capture s p key c) := by
  rw [show @State.capture = _ from by delta State.capture; rfl]
  extract_lets +onlyGivenNames -underBinder -merge x1
  try clear_value x1
  extract_lets +onlyGivenNames -underBinder -merge x2
  try clear_value x2
  extract_lets +onlyGivenNames -underBinder -merge x3
  try clear_value x3
  extract_lets +onlyGivenNames -underBinder -merge x4
  try clear_value x4
  extract_lets +onlyGivenNames -underBinder -merge x5
  try clear_value x5
  extract_lets +onlyGivenNames -underBinder -merge x6
  try clear_value x6
  refine keeps_ite ?_ ?_
  · refine keeps_fault ?_
    assumption
  · refine keeps_setPair ?_
    assumption

theorem keeps_captureRead {s0 : State} {s : State} {p key : Nat} (hK : Keeps s0 s) :
    OGoes s0 (State.captureRead s p key) := by
  rw [show @State.captureRead = _ from by delta State.captureRead; rfl]
  split
  · refine keeps_memRead ?_
    assumption
  · refine ogoes_some ?_
    assumption

theorem keeps_execWaitcatch {s0 : State} {p : PairNo} {gd : BitVec 5} {imm : BitVec 20} {s : State} (hK : Keeps s0 s) :
    Goes s0 (execWaitcatch p gd imm s) := by
  rw [show @execWaitcatch = _ from by delta execWaitcatch; rfl]
  extract_lets +onlyGivenNames -underBinder -merge x1
  try clear_value x1
  refine goes_runI (fun y2 a2_1 a2_2 h2 => ?_) ?_
  · split
    · refine igoes_ite ?_ ?_
      · refine igoes_trap ?_
        assumption
      · refine igoes_ite ?_ ?_
        · refine igoes_trap ?_
          assumption
        · exact igoes_ue
    · rename_i heq
      have h3 := keeps_of_eqM (s0 := s0) heq (by
        refine keeps_captureRead ?_
        assumption)
      refine keeps_endI (fun y4 a4_1 a4_2 h4 => ?_) ?_
      · refine keeps_capture ?_
        assumption
      · assumption
  · assumption

theorem keeps_execYield {s0 : State} {p : PairNo} {gd : BitVec 5} {imm : BitVec 20} {s : State} (hK : Keeps s0 s) :
    Goes s0 (execYield p gd imm s) := by
  rw [show @execYield = _ from by delta execYield; rfl]
  extract_lets +onlyGivenNames -underBinder -merge x1
  try clear_value x1
  refine goes_runI (fun y2 a2_1 a2_2 h2 => ?_) ?_
  · refine keeps_endI (fun y3 a3_1 a3_2 h3 => ?_) ?_
    · assumption
    · assumption
  · assumption

theorem keeps_execOrdend {s0 : State} {p : PairNo} {gd gs1 : BitVec 5} {imm : BitVec 15} {s : State} (hK : Keeps s0 s) :
    Goes s0 (execOrdend p gd gs1 imm s) := by
  rw [show @execOrdend = _ from by delta execOrdend; rfl]
  extract_lets +onlyGivenNames -underBinder -merge x1
  try clear_value x1
  refine goes_runI (fun y2 a2_1 a2_2 h2 => ?_) ?_
  · refine keeps_endI (fun y3 a3_1 a3_2 h3 => ?_) ?_
    · refine keeps_laneOrdEnd ?_
      assumption
    · assumption
  · assumption

theorem keeps_execOrdarg {s0 : State} {p : PairNo} {gd gs1 : BitVec 5} {imm : BitVec 15} {s : State} (hK : Keeps s0 s) :
    Goes s0 (execOrdarg p gd gs1 imm s) := by
  rw [show @execOrdarg = _ from by delta execOrdarg; rfl]
  extract_lets +onlyGivenNames -underBinder -merge x1
  try clear_value x1
  refine goes_runI (fun y2 a2_1 a2_2 h2 => ?_) ?_
  · refine igoes_ite ?_ ?_
    · refine igoes_trap ?_
      assumption
    · extract_lets +onlyGivenNames -underBinder -merge x3
      try clear_value x3
      refine igoes_ite ?_ ?_
      · refine igoes_trap ?_
        assumption
      · extract_lets +onlyGivenNames -underBinder -merge x4
        try clear_value x4
        extract_lets +onlyGivenNames -underBinder -merge x5
        try clear_value x5
        split
        · rename_i heq
          have h6 := keeps_of_eqP (s0 := s0) heq (by
            refine keeps_freeIn ?_
            assumption)
          refine igoes_ok ?_
          assumption
  · assumption

theorem keeps_execOrdhdr {s0 : State} {p : PairNo} {gd gs1 : BitVec 5} {imm : BitVec 15} {s : State} (hK : Keeps s0 s) :
    Goes s0 (execOrdhdr p gd gs1 imm s) := by
  rw [show @execOrdhdr = _ from by delta execOrdhdr; rfl]
  extract_lets +onlyGivenNames -underBinder -merge x1
  try clear_value x1
  refine goes_runI (fun y2 a2_1 a2_2 h2 => ?_) ?_
  · refine igoes_ite ?_ ?_
    · refine igoes_trap ?_
      assumption
    · extract_lets +onlyGivenNames -underBinder -merge x3
      try clear_value x3
      split
      · rename_i heq
        have h4 := keeps_of_eqP (s0 := s0) heq (by
          refine keeps_freeIn ?_
          assumption)
        refine igoes_ok ?_
        assumption
  · assumption

theorem keeps_idleCycles {s0 : State} {s : State} {p : Nat} (hK : Keeps s0 s) :
    Keeps s0 (State.idleCycles s p) := by
  rw [show @State.idleCycles = _ from by delta State.idleCycles; rfl]
  split
  · rename_i heq
    have h1 := keeps_of_eqP (s0 := s0) heq (by
      refine keeps_free ?_
      assumption)
    refine keeps_spend ?_
    assumption

theorem keeps_execCsrrd {s0 : State} {p : PairNo} {gd gs1 : BitVec 5} {imm : BitVec 15} {s : State} (hK : Keeps s0 s) :
    Goes s0 (execCsrrd p gd gs1 imm s) := by
  rw [show @execCsrrd = _ from by delta execCsrrd; rfl]
  refine goes_runI (fun y1 a1_1 a1_2 h1 => ?_) ?_
  · extract_lets +onlyGivenNames -underBinder -merge x2
    have h2 : Keeps s0 x2 := by
      subst x2
      refine keeps_ite ?_ ?_
      · refine keeps_idleCycles ?_
        assumption
      · assumption
    try clear_value x2
    extract_lets +onlyGivenNames -underBinder -merge x3
    try clear_value x3
    extract_lets +onlyGivenNames -underBinder -merge x4
    try clear_value x4
    refine igoes_ok ?_
    assumption
  · assumption

theorem keeps_execCsrwr {s0 : State} {p : PairNo} {gd gs1 : BitVec 5} {imm : BitVec 15} {s : State} (hK : Keeps s0 s) :
    Goes s0 (execCsrwr p gd gs1 imm s) := by
  rw [show @execCsrwr = _ from by delta execCsrwr; rfl]
  extract_lets +onlyGivenNames -underBinder -merge x1
  try clear_value x1
  refine goes_runI (fun y2 a2_1 a2_2 h2 => ?_) ?_
  · extract_lets +onlyGivenNames -underBinder -merge x3
    try clear_value x3
    extract_lets +onlyGivenNames -underBinder -merge x4
    try clear_value x4
    refine igoes_ok ?_
    assumption
  · assumption

theorem keeps_execTrap {s0 : State} {p : PairNo} {gd : BitVec 5} {imm : BitVec 20} {s : State} (hK : Keeps s0 s) :
    Goes s0 (execTrap p gd imm s) := by
  rw [show @execTrap = _ from by delta execTrap; rfl]
  refine goes_runI (fun y1 a1_1 a1_2 h1 => ?_) ?_
  · refine igoes_trap ?_
    assumption
  · assumption

end Sys2Proof.Machine
end

