-- ==== Sys2Proof/Laws/KeepsSysCmds.lean ====
section
/-! SUPPORT. Laws/KeepsSysCmds.lean: what the operations of Machine/SysCmds.lean keep. -/
namespace Sys2Proof.Machine

theorem keeps_coxStore {s0 : State} {s : State} {a : Nat} {sz : AccSize} {v : Word} (hK : Keeps s0 s) :
    Keeps s0 (State.coxStore s a sz v) := by
  rw [show @State.coxStore = _ from by delta State.coxStore; rfl]
  extract_lets +onlyGivenNames -underBinder -merge x1
  try clear_value x1
  split
  · refine keeps_coxBusFault ?_
    assumption
  · split
    · refine keeps_coxWrite ?_
      assumption
    · refine keeps_fault ?_
      assumption
    · refine keeps_fault ?_
      assumption
    · refine keeps_wrN ?_
      assumption
    · split
      · rename_i heq
        have h2 := keeps_of_eqP (s0 := s0) heq (by
          refine keeps_sramStore ?_
          assumption)
        refine keeps_ite ?_ ?_
        · assumption
        · refine keeps_coxBusFault ?_
          assumption

theorem keeps_coxLoad {s0 : State} {s : State} {a : Nat} {sz : AccSize} (hK : Keeps s0 s) :
    Keeps s0 (State.coxLoad s a sz).2 := by
  rw [show @State.coxLoad = _ from by delta State.coxLoad; rfl]
  extract_lets +onlyGivenNames -underBinder -merge x1
  try clear_value x1
  split
  · refine keeps_snd ?_
    refine keeps_coxBusFault ?_
    assumption
  · split
    · refine keeps_regRead ?_
      assumption
    · split
      · rename_i heq
        have h2 := keeps_of_eqP (s0 := s0) heq (by
          refine keeps_free ?_
          assumption)
        refine keeps_snd ?_
        assumption
    · extract_lets +onlyGivenNames -underBinder -merge x3
      have h3 : Keeps s0 x3 := by
        subst x3
        refine keeps_correctCe ?_
        assumption
      try clear_value x3
      refine keeps_iteP ?_ ?_
      · refine keeps_snd ?_
        refine keeps_coxBusFault ?_
        refine keeps_fault ?_
        assumption
      · refine keeps_snd ?_
        assumption
    · split
      · rename_i heq
        have h4 := keeps_of_eqP (s0 := s0) heq (by
          refine keeps_sramLoad ?_
          assumption)
        refine keeps_snd ?_
        assumption
      · rename_i heq
        have h5 := keeps_of_eqP (s0 := s0) heq (by
          refine keeps_sramLoad ?_
          assumption)
        refine keeps_snd ?_
        refine keeps_coxBusFault ?_
        assumption
    · split
      · rename_i heq
        have h6 := keeps_of_eqP (s0 := s0) heq (by
          refine keeps_sramLoad ?_
          assumption)
        refine keeps_snd ?_
        assumption
      · rename_i heq
        have h7 := keeps_of_eqP (s0 := s0) heq (by
          refine keeps_sramLoad ?_
          assumption)
        refine keeps_snd ?_
        refine keeps_coxBusFault ?_
        assumption
    · refine keeps_snd ?_
      assumption

theorem keeps_execRegisterWrite {s0 : State} {a : Word} {sz : AccSize} {w : Option Word} {s : State} (hK : Keeps s0 s) :
    Goes s0 (execRegisterWrite a sz w s) := by
  rw [show @execRegisterWrite = _ from by delta execRegisterWrite; rfl]
  split
  · refine goes_next ?_
    refine keeps_coxStore ?_
    assumption
  · split
    · rename_i heq
      have h1 := keeps_of_eqP (s0 := s0) heq (by
        refine keeps_coxLoad ?_
        assumption)
      refine goes_next ?_
      refine keeps_mk ?_
      assumption

theorem keeps_execClaimReqClaim {s0 : State} {owner : Byte} {res : BitVec 16} {s : State} (hK : Keeps s0 s) :
    Goes s0 (execClaimReqClaim owner res s) := by
  rw [show @execClaimReqClaim = _ from by delta execClaimReqClaim; rfl]
  refine goes_onReg (fun y1 h1 => ?_) ?_
  · refine goes_next ?_
    refine keeps_claimReq ?_
    assumption
  · assumption

theorem keeps_execClaimReqRelease {s0 : State} {owner : Byte} {res : BitVec 16} {s : State} (hK : Keeps s0 s) :
    Goes s0 (execClaimReqRelease owner res s) := by
  rw [show @execClaimReqRelease = _ from by delta execClaimReqRelease; rfl]
  refine goes_onReg (fun y1 h1 => ?_) ?_
  · refine goes_next ?_
    refine keeps_claimReq ?_
    assumption
  · assumption

theorem keeps_execClaimTableRequest {s0 : State} {s : State} (hK : Keeps s0 s) :
    Goes s0 (execClaimTableRequest s) := by
  rw [show @execClaimTableRequest = _ from by delta execClaimTableRequest; rfl]
  refine goes_next ?_
  refine keeps_takeClaim ?_
  assumption

theorem keeps_execDmaLenWrite {s0 : State} {len : BitVec 21} {s : State} (hK : Keeps s0 s) :
    Goes s0 (execDmaLenWrite len s) := by
  rw [show @execDmaLenWrite = _ from by delta execDmaLenWrite; rfl]
  refine goes_onReg (fun y1 h1 => ?_) ?_
  · refine goes_next ?_
    refine keeps_dmaLen ?_
    assumption
  · assumption

theorem keeps_execCntClrEcc {s0 : State} {s : State} (hK : Keeps s0 s) :
    Goes s0 (execCntClrEcc s) := by
  rw [show @execCntClrEcc = _ from by delta execCntClrEcc; rfl]
  refine goes_onReg (fun y1 h1 => ?_) ?_
  · refine goes_next ?_
    refine keeps_clrEcc ?_
    assumption
  · assumption

theorem keeps_execCntClrOvf {s0 : State} {s : State} (hK : Keeps s0 s) :
    Goes s0 (execCntClrOvf s) := by
  rw [show @execCntClrOvf = _ from by delta execCntClrOvf; rfl]
  refine goes_onReg (fun y1 h1 => ?_) ?_
  · refine goes_next ?_
    refine keeps_clrOvf ?_
    assumption
  · assumption

theorem keeps_execCntClrRetry {s0 : State} {k : Fin 5} {s : State} (hK : Keeps s0 s) :
    Goes s0 (execCntClrRetry k s) := by
  rw [show @execCntClrRetry = _ from by delta execCntClrRetry; rfl]
  refine goes_onReg (fun y1 h1 => ?_) ?_
  · refine goes_next ?_
    refine keeps_clrRetry ?_
    assumption
  · assumption

end Sys2Proof.Machine
end

