-- ==== Sys2Proof/Laws/KeepsRigApply.lean ====
section
/-! SUPPORT. Laws/KeepsRigApply.lean: what the operations of Machine/RigApply.lean keep. -/
namespace Sys2Proof.Machine

theorem ite_none_some {c : Prop} [Decidable c] {α : Type} {a y : α} (e : (if c then none else some a) = some y) : ¬c ∧ a = y := by
  by_cases hc : c
  · rw [if_pos hc] at e; cases e
  · rw [if_neg hc] at e; exact ⟨hc, Option.some.inj e⟩

theorem rigBack_keeps (x y : Nat × Word) (e : rigBack x = some y) (h : x.2 ≠ resetVal x.1) : y.1 = x.1 ∧ y.2 ≠ resetVal x.1 := by
  unfold rigBack at e
  split at e
  · cases e; exact ⟨rfl, h⟩
  · rename_i r hr
    have hz : resetVal x.1 = BitVec.ofNat 32 (r.resetAt x.1) := by unfold resetVal; rw [hr]
    obtain ⟨h1, h2⟩ := ite_none_some e
    rw [hz, ← h2]
    exact ⟨rfl, h1⟩

theorem mwf_rigBack {l : List (Nat × Word)} (h : mwf resetVal l = true) : mwf resetVal (l.filterMap rigBack) = true :=
  mwf_filterMap _ _ _ rigBack_keeps h

theorem keeps_rigReset {s0 : State} {s : State} (hK : Keeps s0 s) :
    Keeps s0 (State.rigReset s) := by
  rw [show @State.rigReset = _ from by delta State.rigReset; rfl]
  extract_lets +onlyGivenNames -underBinder -merge x1
  have h1 : Keeps s0 x1 := by
    subst x1
    refine keeps_setRegs ?_ ?_
    · exact mwf_rigBack
    · assumption
  try clear_value x1
  refine keeps_loopN (fun a2_0 y2 h2 => ?_) ?_
  · refine keeps_posTake ?_
    assumption
  · assumption

theorem keeps_rigLoad {s0 : State} {s : State} {a : Nat} {v : Word} (hK : Keeps s0 s) :
    Keeps s0 (State.rigLoad s a v) := by
  rw [show @State.rigLoad = _ from by delta State.rigLoad; rfl]
  split
  · assumption
  · extract_lets +onlyGivenNames -underBinder -merge x1
    try clear_value x1
    extract_lets +onlyGivenNames -underBinder -merge x2
    try clear_value x2
    extract_lets +onlyGivenNames -underBinder -merge x3
    try clear_value x3
    extract_lets +onlyGivenNames -underBinder -merge x4
    have h4 : Keeps s0 x4 := by
      subst x4
      refine keeps_ite ?_ ?_
      · assumption
      · refine keeps_wr ?_
        assumption
    try clear_value x4
    refine keeps_ite ?_ ?_
    · assumption
    · refine keeps_ite ?_ ?_
      · extract_lets +onlyGivenNames -underBinder -merge x5
        try clear_value x5
        refine keeps_wr ?_
        assumption
      · refine keeps_ite ?_ ?_
        · extract_lets +onlyGivenNames -underBinder -merge x6
          try clear_value x6
          extract_lets +onlyGivenNames -underBinder -merge x7
          try clear_value x7
          refine keeps_posTake ?_
          refine keeps_wr ?_
          assumption
        · refine keeps_ite ?_ ?_
          · refine keeps_gpioWrite ?_
            assumption
          · refine keeps_ite ?_ ?_
            · refine keeps_regWrite ?_
              assumption
            · refine keeps_ite ?_ ?_
              · refine keeps_regWrite ?_
                assumption
              · assumption

theorem keeps_rigLoadAll {s0 : State} {s : State} {l : List (Nat × Word)} (hK : Keeps s0 s) :
    Keeps s0 (State.rigLoadAll s l) := by
  rw [show @State.rigLoadAll = _ from by delta State.rigLoadAll; rfl]
  refine keeps_loopL (fun a1_0 y1 h1 => ?_) ?_
  · refine keeps_rigLoad ?_
    assumption
  · assumption

theorem keeps_rigClaim {s0 : State} {s : State} {l : List (Nat × Nat)} (hK : Keeps s0 s) :
    Keeps s0 (State.rigClaim s l) := by
  rw [show @State.rigClaim = _ from by delta State.rigClaim; rfl]
  extract_lets +onlyGivenNames -underBinder -merge x1
  have h1 : Keeps s0 x1 := by
    subst x1
    refine keeps_loopL (fun a2_0 y2 h2 => ?_) ?_
    · refine keeps_freeRes ?_
      assumption
    · assumption
  try clear_value x1
  refine keeps_loopL (fun a3_0 y3 h3 => ?_) ?_
  · refine keeps_setOwner ?_
    assumption
  · assumption

theorem keeps_rigTaskTable {s0 : State} {s : State} {l : List Byte} (hK : Keeps s0 s) :
    Keeps s0 (State.rigTaskTable s l) := by
  rw [show @State.rigTaskTable = _ from by delta State.rigTaskTable; rfl]
  refine keeps_loopL (fun a1_0 y1 h1 => ?_) ?_
  · refine keeps_setTask ?_
    assumption
  · refine keeps_mk ?_
    assumption

theorem keeps_rigCand {s0 : State} {s : State} {l : List Byte} (hK : Keeps s0 s) :
    Keeps s0 (State.rigCand s l) := by
  rw [show @State.rigCand = _ from by delta State.rigCand; rfl]
  extract_lets +onlyGivenNames -underBinder -merge x1
  have h1 : Keeps s0 x1 := by
    subst x1
    refine keeps_setRegs ?_ ?_
    · exact mwf_rigBack
    · assumption
  try clear_value x1
  refine keeps_rigLoadAll ?_
  refine keeps_rigTaskTable ?_
  refine keeps_rigClaim ?_
  assumption

theorem keeps_rigContent {s0 : State} {s : State} {r : Nat} {l : List Byte} (hK : Keeps s0 s) :
    Keeps s0 (State.rigContent s r l).2 := by
  rw [show @State.rigContent = _ from by delta State.rigContent; rfl]
  extract_lets +onlyGivenNames -underBinder -merge x1
  try clear_value x1
  refine keeps_iteP ?_ ?_
  · refine keeps_snd ?_
    assumption
  · refine keeps_snd ?_
    refine keeps_fault ?_
    refine keeps_loopL (fun a2_0 y2 h2 => ?_) ?_
    · refine keeps_fault ?_
      assumption
    · assumption

theorem keeps_rigClaimCheck {s0 : State} {s : State} {l : List Byte} (hK : Keeps s0 s) :
    Keeps s0 (State.rigClaimCheck s l).2 := by
  rw [show @State.rigClaimCheck = _ from by delta State.rigClaimCheck; rfl]
  extract_lets +onlyGivenNames -underBinder -merge x1
  try clear_value x1
  refine keeps_iteP ?_ ?_
  · refine keeps_snd ?_
    assumption
  · refine keeps_snd ?_
    refine keeps_loopL (fun a2_0 y2 h2 => ?_) ?_
    · refine keeps_fault ?_
      assumption
    · refine keeps_fault ?_
      assumption

theorem keeps_rigStop {s0 : State} {s : State} (hK : Keeps s0 s) :
    Keeps s0 (State.rigStop s) := by
  rw [show @State.rigStop = _ from by delta State.rigStop; rfl]
  extract_lets +onlyGivenNames -underBinder -merge x1
  have h1 : Keeps s0 x1 := by
    subst x1
    refine keeps_loopN (fun a2_0 y2 h2 => ?_) ?_
    · refine keeps_endLaneRunning ?_
      assumption
    · assumption
  try clear_value x1
  extract_lets +onlyGivenNames -underBinder -merge x3
  have h3 : Keeps s0 x3 := by
    subst x3
    refine keeps_mk ?_
    assumption
  try clear_value x3
  extract_lets +onlyGivenNames -underBinder -merge x4
  have h4 : Keeps s0 x4 := by
    subst x4
    refine keeps_crewsUnused ?_
    assumption
  try clear_value x4
  extract_lets +onlyGivenNames -underBinder -merge x5
  have h5 : Keeps s0 x5 := by
    subst x5
    refine keeps_loopN (fun a6_0 y6 h6 => ?_) ?_
    · extract_lets +onlyGivenNames -underBinder -merge x7
      have h7 : Keeps s0 x7 := by
        subst x7
        refine keeps_wr ?_
        refine keeps_putB ?_
        assumption
      try clear_value x7
      extract_lets +onlyGivenNames -underBinder -merge x8
      have h8 : Keeps s0 x8 := by
        subst x8
        refine keeps_setBitAt ?_
        assumption
      try clear_value x8
      refine keeps_setCrew ?_
      refine keeps_wr ?_
      assumption
    · assumption
  try clear_value x5
  refine keeps_loopN (fun a9_0 y9 h9 => ?_) ?_
  · refine keeps_yilosEn ?_
    assumption
  · assumption

theorem keeps_rigUnits {s0 : State} {s : State} (hK : Keeps s0 s) :
    Keeps s0 (State.rigUnits s) := by
  rw [show @State.rigUnits = _ from by delta State.rigUnits; rfl]
  extract_lets +onlyGivenNames -underBinder -merge x1
  have h1 : Keeps s0 x1 := by
    subst x1
    refine keeps_loopN (fun a2_0 y2 h2 => ?_) ?_
    · extract_lets +onlyGivenNames -underBinder -merge x3
      have h3 : Keeps s0 x3 := by
        subst x3
        refine keeps_legOff ?_
        assumption
      try clear_value x3
      extract_lets +onlyGivenNames -underBinder -merge x4
      try clear_value x4
      refine keeps_setLeg ?_
      assumption
    · assumption
  try clear_value x1
  extract_lets +onlyGivenNames -underBinder -merge x5
  have h5 : Keeps s0 x5 := by
    subst x5
    refine keeps_loopN (fun a6_0 y6 h6 => ?_) ?_
    · refine keeps_setProf ?_
      assumption
    · assumption
  try clear_value x5
  refine keeps_rigReset ?_
  refine keeps_mk ?_
  assumption

theorem keeps_rigTable {s0 : State} {s : State} {t : Nat} {c : List Byte} (hK : Keeps s0 s) :
    Keeps s0 (State.rigTable s t c) := by
  rw [show @State.rigTable = _ from by delta State.rigTable; rfl]
  extract_lets +onlyGivenNames -underBinder -merge x1
  try clear_value x1
  refine keeps_mk ?_
  assumption

theorem keeps_rigCoef {s0 : State} {s : State} {c : List Byte} (hK : Keeps s0 s) :
    Keeps s0 (State.rigCoef s c) := by
  rw [show @State.rigCoef = _ from by delta State.rigCoef; rfl]
  extract_lets +onlyGivenNames -underBinder -merge x1
  try clear_value x1
  extract_lets +onlyGivenNames -underBinder -merge x2
  subst x2
  try dsimp -zeta -proj only
  refine keeps_ite ?_ ?_
  · refine keeps_setLoop ?_
    assumption
  · assumption

theorem keeps_rigField {s0 : State} {s : State} {l : List Byte} (hK : Keeps s0 s) :
    Keeps s0 (State.rigField s l) := by
  rw [show @State.rigField = _ from by delta State.rigField; rfl]
  extract_lets +onlyGivenNames -underBinder -merge x1
  have h1 : Keeps s0 x1 := by
    subst x1
    refine keeps_mk ?_
    assumption
  try clear_value x1
  refine keeps_loopN (fun a2_0 y2 h2 => ?_) ?_
  · extract_lets +onlyGivenNames -underBinder -merge x3
    try clear_value x3
    extract_lets +onlyGivenNames -underBinder -merge x4
    have h4 : Keeps s0 x4 := by
      subst x4
      refine keeps_put ?_
      assumption
    try clear_value x4
    refine keeps_loopL (fun a5_0 y5 h5 => ?_) ?_
    · split
      · refine keeps_mk ?_
        assumption
    · assumption
  · assumption

theorem keeps_rigImages {s0 : State} {s : State} {l : List Byte} (hK : Keeps s0 s) :
    Keeps s0 (State.rigImages s l) := by
  rw [show @State.rigImages = _ from by delta State.rigImages; rfl]
  extract_lets +onlyGivenNames -underBinder -merge x1
  try clear_value x1
  refine keeps_loopL (fun a2_0 y2 h2 => ?_) ?_
  · split
    · split
      · assumption
      · extract_lets +onlyGivenNames -underBinder -merge x3
        have h3 : Keeps s0 x3 := by
          subst x3
          refine keeps_storeImage ?_
          assumption
        try clear_value x3
        extract_lets +onlyGivenNames -underBinder -merge x4
        have h4 : Keeps s0 x4 := by
          subst x4
          refine keeps_ite ?_ ?_
          · refine keeps_raiseRoll ?_
            assumption
          · assumption
        try clear_value x4
        split
        · split
          · rename_i heq
            have h5 := keeps_buildMem (s0 := s0) heq (by
              assumption)
            assumption
          · assumption
        · assumption
  · refine keeps_mk ?_
    assumption

theorem keeps_rigStart {s0 : State} {s : State} {l : List Byte} (hK : Keeps s0 s) :
    Keeps s0 (State.rigStart s l) := by
  rw [show @State.rigStart = _ from by delta State.rigStart; rfl]
  extract_lets +onlyGivenNames -underBinder -merge x1
  have h1 : Keeps s0 x1 := by
    subst x1
    refine keeps_rigTaskTable ?_
    assumption
  try clear_value x1
  extract_lets +onlyGivenNames -underBinder -merge x2
  try clear_value x2
  extract_lets +onlyGivenNames -underBinder -merge x3
  have h3 : Keeps s0 x3 := by
    subst x3
    refine keeps_loopL (fun a4_0 y4 h4 => ?_) ?_
    · refine keeps_ite ?_ ?_
      · refine keeps_startInitial ?_
        assumption
      · assumption
    · assumption
  try clear_value x3
  refine keeps_loopL (fun a5_0 y5 h5 => ?_) ?_
  · extract_lets +onlyGivenNames -underBinder -merge x6
    try clear_value x6
    extract_lets +onlyGivenNames -underBinder -merge x7
    have h7 : Keeps s0 x7 := by
      subst x7
      refine keeps_putB ?_
      refine keeps_put ?_
      assumption
    try clear_value x7
    refine keeps_tmrEn ?_
    refine keeps_putB ?_
    assumption
  · assumption

theorem keeps_rigCrews {s0 : State} {s : State} (hK : Keeps s0 s) :
    Keeps s0 (State.rigCrews s) := by
  rw [show @State.rigCrews = _ from by delta State.rigCrews; rfl]
  refine keeps_loopL (fun a1_0 y1 h1 => ?_) ?_
  · extract_lets +onlyGivenNames -underBinder -merge x2
    try clear_value x2
    extract_lets +onlyGivenNames -underBinder -merge x3
    have h3 : Keeps s0 x3 := by
      subst x3
      refine keeps_loopL (fun a4_0 y4 h4 => ?_) ?_
      · refine keeps_put ?_
        assumption
      · assumption
    try clear_value x3
    extract_lets +onlyGivenNames -underBinder -merge x5
    have h5 : Keeps s0 x5 := by
      subst x5
      refine keeps_put ?_
      refine keeps_put ?_
      assumption
    try clear_value x5
    extract_lets +onlyGivenNames -underBinder -merge x6
    have h6 : Keeps s0 x6 := by
      subst x6
      refine keeps_putB ?_
      assumption
    try clear_value x6
    extract_lets +onlyGivenNames -underBinder -merge x7
    have h7 : Keeps s0 x7 := by
      subst x7
      refine keeps_put ?_
      assumption
    try clear_value x7
    extract_lets +onlyGivenNames -underBinder -merge x8
    have h8 : Keeps s0 x8 := by
      subst x8
      refine keeps_guardStart ?_
      refine keeps_crewAwake ?_
      refine keeps_setRate ?_
      assumption
    try clear_value x8
    split
    · refine keeps_ite ?_ ?_
      · refine keeps_faultStop ?_
        assumption
      · assumption
    · assumption
  · assumption

theorem keeps_rigPorts {s0 : State} {s : State} (hK : Keeps s0 s) :
    Keeps s0 (State.rigPorts s) := by
  rw [show @State.rigPorts = _ from by delta State.rigPorts; rfl]
  refine keeps_loopL (fun a1_0 y1 h1 => ?_) ?_
  · refine keeps_yilosEn ?_
    assumption
  · assumption

theorem keeps_rigApply {s0 : State} {s : State} {r : Nat} {l : List Byte} (hK : Keeps s0 s) :
    Keeps s0 (State.rigApply s r l) := by
  rw [show @State.rigApply = _ from by delta State.rigApply; rfl]
  extract_lets +onlyGivenNames -underBinder -merge x1
  have h1 : Keeps s0 x1 := by
    subst x1
    refine keeps_mk ?_
    assumption
  try clear_value x1
  extract_lets +onlyGivenNames -underBinder -merge x2
  have h2 : Keeps s0 x2 := by
    subst x2
    refine keeps_put ?_
    refine keeps_put ?_
    assumption
  try clear_value x2
  extract_lets +onlyGivenNames -underBinder -merge x3
  have h3 : Keeps s0 x3 := by
    subst x3
    refine keeps_saveSettings ?_
    refine keeps_putB ?_
    assumption
  try clear_value x3
  extract_lets +onlyGivenNames -underBinder -merge x4
  have h4 : Keeps s0 x4 := by
    subst x4
    refine keeps_rigStop ?_
    assumption
  try clear_value x4
  extract_lets +onlyGivenNames -underBinder -merge x5
  have h5 : Keeps s0 x5 := by
    subst x5
    refine keeps_auxShow ?_
    refine keeps_rigClaim ?_
    assumption
  try clear_value x5
  extract_lets +onlyGivenNames -underBinder -merge x6
  have h6 : Keeps s0 x6 := by
    subst x6
    refine keeps_rigUnits ?_
    refine keeps_fieldRelease ?_
    assumption
  try clear_value x6
  extract_lets +onlyGivenNames -underBinder -merge x7
  have h7 : Keeps s0 x7 := by
    subst x7
    refine keeps_mk ?_
    assumption
  try clear_value x7
  extract_lets +onlyGivenNames -underBinder -merge x8
  have h8 : Keeps s0 x8 := by
    subst x8
    refine keeps_loopN (fun a9_0 y9 h9 => ?_) ?_
    · refine keeps_put ?_
      assumption
    · assumption
  try clear_value x8
  extract_lets +onlyGivenNames -underBinder -merge x10
  have h10 : Keeps s0 x10 := by
    subst x10
    refine keeps_loopN (fun a11_0 y11 h11 => ?_) ?_
    · refine keeps_putB ?_
      refine keeps_put ?_
      refine keeps_put ?_
      refine keeps_put ?_
      assumption
    · assumption
  try clear_value x10
  extract_lets +onlyGivenNames -underBinder -merge x12
  have h12 : Keeps s0 x12 := by
    subst x12
    refine keeps_rigLoadAll ?_
    assumption
  try clear_value x12
  extract_lets +onlyGivenNames -underBinder -merge x13
  have h13 : Keeps s0 x13 := by
    subst x13
    refine keeps_rigImages ?_
    assumption
  try clear_value x13
  extract_lets +onlyGivenNames -underBinder -merge x14
  have h14 : Keeps s0 x14 := by
    subst x14
    refine keeps_loopN (fun a15_0 y15 h15 => ?_) ?_
    · split
      · refine keeps_rigTable ?_
        assumption
      · assumption
    · assumption
  try clear_value x14
  extract_lets +onlyGivenNames -underBinder -merge x16
  have h16 : Keeps s0 x16 := by
    subst x16
    refine keeps_loopL (fun a17_0 y17 h17 => ?_) ?_
    · refine keeps_rigCoef ?_
      assumption
    · assumption
  try clear_value x16
  extract_lets +onlyGivenNames -underBinder -merge x18
  have h18 : Keeps s0 x18 := by
    subst x18
    refine keeps_rigField ?_
    assumption
  try clear_value x18
  extract_lets +onlyGivenNames -underBinder -merge x19
  have h19 : Keeps s0 x19 := by
    subst x19
    refine keeps_mk ?_
    assumption
  try clear_value x19
  extract_lets +onlyGivenNames -underBinder -merge x20
  have h20 : Keeps s0 x20 := by
    subst x20
    refine keeps_loopL (fun a21_0 y21 h21 => ?_) ?_
    · refine keeps_ite ?_ ?_
      · refine keeps_islTake ?_
        assumption
      · assumption
    · assumption
  try clear_value x20
  extract_lets +onlyGivenNames -underBinder -merge x22
  have h22 : Keeps s0 x22 := by
    subst x22
    refine keeps_gpioShow ?_
    refine keeps_wr ?_
    assumption
  try clear_value x22
  extract_lets +onlyGivenNames -underBinder -merge x23
  have h23 : Keeps s0 x23 := by
    subst x23
    refine keeps_rigStart ?_
    assumption
  try clear_value x23
  refine keeps_rigCrews ?_
  assumption

theorem keeps_rigBoot {s0 : State} {s : State} {r : Nat} (hK : Keeps s0 s) :
    Keeps s0 (State.rigBoot s r).2 := by
  rw [show @State.rigBoot = _ from by delta State.rigBoot; rfl]
  split
  · refine keeps_snd ?_
    assumption
  · split
    · rename_i heq
      have h1 := keeps_of_eqP (s0 := s0) heq (by
        refine keeps_rigContent ?_
        assumption)
      refine keeps_snd ?_
      assumption
    · rename_i heq
      have h2 := keeps_of_eqP (s0 := s0) heq (by
        refine keeps_rigContent ?_
        assumption)
      split
      · rename_i heq
        have h3 := keeps_of_eqP (s0 := s0) heq (by
          refine keeps_rigClaimCheck ?_
          assumption)
        refine keeps_snd ?_
        assumption
      · rename_i heq
        have h4 := keeps_of_eqP (s0 := s0) heq (by
          refine keeps_rigClaimCheck ?_
          assumption)
        refine keeps_snd ?_
        refine keeps_fieldStart ?_
        refine keeps_rigApply ?_
        assumption

end Sys2Proof.Machine
end

