-- ==== Sys2Proof/Laws/KeepsPowerCmds.lean ====
section
/-! SUPPORT. Laws/KeepsPowerCmds.lean: what the operations of Machine/PowerCmds.lean keep. -/
namespace Sys2Proof.Machine

theorem keeps_samplePins {s0 : State} {s : State} {bootMode : Bool} {rigSel : BitVec 3} (hK : Keeps s0 s) :
    Keeps s0 (State.samplePins s bootMode rigSel) := by
  rw [show @State.samplePins = _ from by delta State.samplePins; rfl]
  refine keeps_mk ?_
  assumption

theorem keeps_execVaonPowerOn {s0 : State} {bootMode : Bool} {rigSel : BitVec 3} {s : State} (hK : Keeps s0 s) :
    Goes s0 (execVaonPowerOn bootMode rigSel s) := by
  rw [show @execVaonPowerOn = _ from by delta execVaonPowerOn; rfl]
  refine goes_ite ?_ ?_
  · refine goes_next ?_
    assumption
  · extract_lets +onlyGivenNames -underBinder -merge x1
    have h1 : Keeps s0 x1 := by
      subst x1
      refine keeps_put ?_
      refine keeps_samplePins ?_
      assumption
    try clear_value x1
    extract_lets +onlyGivenNames -underBinder -merge x2
    have h2 : Keeps s0 x2 := by
      subst x2
      refine keeps_incSat ?_
      assumption
    try clear_value x2
    refine goes_next ?_
    refine keeps_coldBoot ?_
    refine keeps_showDomains ?_
    refine keeps_mk ?_
    assumption

theorem keeps_execVaonPowerLoss {s0 : State} {s : State} (hK : Keeps s0 s) :
    Goes s0 (execVaonPowerLoss s) := by
  rw [show @execVaonPowerLoss = _ from by delta execVaonPowerLoss; rfl]
  refine goes_ite ?_ ?_
  · refine goes_next ?_
    assumption
  · extract_lets +onlyGivenNames -underBinder -merge x1
    have h1 : Keeps s0 x1 := by
      subst x1
      refine keeps_resetDomains ?_
      refine keeps_mk ?_
      assumption
    try clear_value x1
    extract_lets +onlyGivenNames -underBinder -merge x2
    have h2 : Keeps s0 x2 := by
      subst x2
      refine keeps_setRegs ?_ ?_
      · exact fun _ => rfl
      · assumption
    try clear_value x2
    refine goes_next ?_
    refine keeps_mk ?_
    assumption

theorem keeps_execRstNLow {s0 : State} {s : State} (hK : Keeps s0 s) :
    Goes s0 (execRstNLow s) := by
  rw [show @execRstNLow = _ from by delta execRstNLow; rfl]
  refine goes_ite ?_ ?_
  · refine goes_next ?_
    assumption
  · extract_lets +onlyGivenNames -underBinder -merge x1
    have h1 : Keeps s0 x1 := by
      subst x1
      refine keeps_mk ?_
      assumption
    try clear_value x1
    refine goes_ite ?_ ?_
    · refine goes_next ?_
      assumption
    · refine goes_next ?_
      refine keeps_holdReset ?_
      assumption

theorem keeps_execRstNRelease {s0 : State} {bootMode : Bool} {rigSel : BitVec 3} {s : State} (hK : Keeps s0 s) :
    Goes s0 (execRstNRelease bootMode rigSel s) := by
  rw [show @execRstNRelease = _ from by delta execRstNRelease; rfl]
  refine goes_ite ?_ ?_
  · refine goes_next ?_
    assumption
  · refine goes_next ?_
    refine keeps_releaseReset ?_
    refine keeps_samplePins ?_
    refine keeps_mk ?_
    assumption

theorem keeps_execStuckReset {s0 : State} {s : State} (hK : Keeps s0 s) :
    Goes s0 (execStuckReset s) := by
  rw [show @execStuckReset = _ from by delta execStuckReset; rfl]
  refine goes_ite ?_ ?_
  · extract_lets +onlyGivenNames -underBinder -merge x1
    have h1 : Keeps s0 x1 := by
      subst x1
      refine keeps_until ?_
      assumption
    try clear_value x1
    extract_lets +onlyGivenNames -underBinder -merge x2
    have h2 : Keeps s0 x2 := by
      subst x2
      refine keeps_ite ?_ ?_
      · refine keeps_put ?_
        assumption
      · assumption
    try clear_value x2
    extract_lets +onlyGivenNames -underBinder -merge x3
    have h3 : Keeps s0 x3 := by
      subst x3
      refine keeps_incSat ?_
      assumption
    try clear_value x3
    extract_lets +onlyGivenNames -underBinder -merge x4
    have h4 : Keeps s0 x4 := by
      subst x4
      refine keeps_raise ?_
      refine keeps_putB ?_
      assumption
    try clear_value x4
    refine goes_next ?_
    refine keeps_releaseReset ?_
    assumption
  · refine goes_next ?_
    assumption

theorem keeps_execStuckIgnoreClear {s0 : State} {s : State} (hK : Keeps s0 s) :
    Goes s0 (execStuckIgnoreClear s) := by
  rw [show @execStuckIgnoreClear = _ from by delta execStuckIgnoreClear; rfl]
  refine goes_ite ?_ ?_
  · refine goes_next ?_
    refine keeps_putB ?_
    refine keeps_until ?_
    assumption
  · refine goes_next ?_
    assumption

theorem keeps_execTestN {s0 : State} {low : Bool} {s : State} (hK : Keeps s0 s) :
    Goes s0 (execTestN low s) := by
  rw [show @execTestN = _ from by delta execTestN; rfl]
  refine goes_next ?_
  refine keeps_ite ?_ ?_
  · refine keeps_holdReset ?_
    assumption
  · refine keeps_releaseReset ?_
    assumption

theorem keeps_execWatchdogExpiry {s0 : State} {s : State} (hK : Keeps s0 s) :
    Goes s0 (execWatchdogExpiry s) := by
  rw [show @execWatchdogExpiry = _ from by delta execWatchdogExpiry; rfl]
  refine goes_ite ?_ ?_
  · refine goes_next ?_
    refine keeps_startReset ?_
    refine keeps_until ?_
    assumption
  · refine goes_next ?_
    assumption

theorem keeps_execAonWdtKick {s0 : State} {s : State} (hK : Keeps s0 s) :
    Goes s0 (execAonWdtKick s) := by
  rw [show @execAonWdtKick = _ from by delta execAonWdtKick; rfl]
  refine goes_onReg (fun y1 h1 => ?_) ?_
  · refine goes_next ?_
    refine keeps_kick ?_
    assumption
  · assumption

theorem keeps_execSoftwareReset {s0 : State} {s : State} (hK : Keeps s0 s) :
    Goes s0 (execSoftwareReset s) := by
  rw [show @execSoftwareReset = _ from by delta execSoftwareReset; rfl]
  refine goes_onReg (fun y1 h1 => ?_) ?_
  · refine goes_next ?_
    refine keeps_startReset ?_
    assumption
  · assumption

theorem keeps_execSupplyUv {s0 : State} {vana : Bool} {s : State} (hK : Keeps s0 s) :
    Goes s0 (execSupplyUv vana s) := by
  rw [show @execSupplyUv = _ from by delta execSupplyUv; rfl]
  refine goes_ite ?_ ?_
  · refine goes_next ?_
    assumption
  · extract_lets +onlyGivenNames -underBinder -merge x1
    have h1 : Keeps s0 x1 := by
      subst x1
      refine keeps_advance ?_
      assumption
    try clear_value x1
    refine goes_next ?_
    refine keeps_holdReset ?_
    refine keeps_mk ?_
    assumption

theorem keeps_execSupplyUvRelease {s0 : State} {s : State} (hK : Keeps s0 s) :
    Goes s0 (execSupplyUvRelease s) := by
  rw [show @execSupplyUvRelease = _ from by delta execSupplyUvRelease; rfl]
  refine goes_ite ?_ ?_
  · refine goes_next ?_
    refine keeps_releaseReset ?_
    refine keeps_advance ?_
    assumption
  · refine goes_next ?_
    assumption

theorem keeps_execBackupTrip {s0 : State} {s : State} (hK : Keeps s0 s) :
    Goes s0 (execBackupTrip s) := by
  rw [show @execBackupTrip = _ from by delta execBackupTrip; rfl]
  refine goes_ite ?_ ?_
  · refine goes_next ?_
    assumption
  · refine goes_next ?_
    refine keeps_holdReset ?_
    refine keeps_putB ?_
    assumption

theorem keeps_execBackupTripClear {s0 : State} {s : State} (hK : Keeps s0 s) :
    Goes s0 (execBackupTripClear s) := by
  rw [show @execBackupTripClear = _ from by delta execBackupTripClear; rfl]
  refine goes_ite ?_ ?_
  · refine goes_next ?_
    refine keeps_releaseReset ?_
    refine keeps_putB ?_
    assumption
  · refine goes_next ?_
    assumption

theorem keeps_execPfailN {s0 : State} {low : Bool} {s : State} (hK : Keeps s0 s) :
    Goes s0 (execPfailN low s) := by
  rw [show @execPfailN = _ from by delta execPfailN; rfl]
  refine goes_ite ?_ ?_
  · refine goes_next ?_
    assumption
  · refine goes_ite ?_ ?_
    · refine goes_next ?_
      refine keeps_putB ?_
      assumption
    · refine goes_ite ?_ ?_
      · refine goes_next ?_
        assumption
      · refine goes_next ?_
        refine keeps_jKick ?_
        refine keeps_putB ?_
        assumption

theorem keeps_causeFaults {s0 : State} {s : State} (hK : Keeps s0 s) :
    Keeps s0 (State.causeFaults s) := by
  rw [show @State.causeFaults = _ from by delta State.causeFaults; rfl]
  extract_lets +onlyGivenNames -underBinder -merge x1
  try clear_value x1
  extract_lets +onlyGivenNames -underBinder -merge x2
  have h2 : Keeps s0 x2 := by
    subst x2
    refine keeps_ite ?_ ?_
    · refine keeps_fault ?_
      assumption
    · refine keeps_ite ?_ ?_
      · refine keeps_fault ?_
        assumption
      · refine keeps_ite ?_ ?_
        · refine keeps_fault ?_
          assumption
        · assumption
  try clear_value x2
  extract_lets +onlyGivenNames -underBinder -merge x3
  have h3 : Keeps s0 x3 := by
    subst x3
    refine keeps_ite ?_ ?_
    · refine keeps_loopN (fun a4_0 y4 h4 => ?_) ?_
      · refine keeps_ite ?_ ?_
        · refine keeps_fault ?_
          assumption
        · assumption
      · assumption
    · assumption
  try clear_value x3
  refine keeps_mk ?_
  assumption

theorem keeps_resetEvent {s0 : State} {s : State} (hK : Keeps s0 s) :
    Keeps s0 (State.resetEvent s) := by
  rw [show @State.resetEvent = _ from by delta State.resetEvent; rfl]
  refine keeps_addReport ?_
  assumption

theorem keeps_bootEnd {s0 : State} {s : State} {tj : BitVec 16} (hK : Keeps s0 s) :
    Keeps s0 (State.bootEnd s tj) := by
  rw [show @State.bootEnd = _ from by delta State.bootEnd; rfl]
  split
  · rename_i heq
    have h1 := keeps_of_eqP (s0 := s0) heq (by
      split
      · refine keeps_rigBoot ?_
        assumption
      · refine keeps_snd ?_
        assumption)
    extract_lets +onlyGivenNames -underBinder -merge x2
    have h2 : Keeps s0 x2 := by
      subst x2
      split
      · refine keeps_fault ?_
        assumption
      · assumption
    try clear_value x2
    extract_lets +onlyGivenNames -underBinder -merge x3
    have h3 : Keeps s0 x3 := by
      subst x3
      refine keeps_ite ?_ ?_
      · assumption
      · refine keeps_putB ?_
        refine keeps_mk ?_
        assumption
    try clear_value x3
    extract_lets +onlyGivenNames -underBinder -merge x4
    have h4 : Keeps s0 x4 := by
      subst x4
      refine keeps_listenDomains ?_
      refine keeps_crewsUnused ?_
      assumption
    try clear_value x4
    extract_lets +onlyGivenNames -underBinder -merge x5
    have h5 : Keeps s0 x5 := by
      subst x5
      refine keeps_ite ?_ ?_
      · refine keeps_rigPorts ?_
        assumption
      · assumption
    try clear_value x5
    extract_lets +onlyGivenNames -underBinder -merge x6
    have h6 : Keeps s0 x6 := by
      subst x6
      refine keeps_loopN (fun a7_0 y7 h7 => ?_) ?_
      · refine keeps_putB ?_
        assumption
      · assumption
    try clear_value x6
    extract_lets +onlyGivenNames -underBinder -merge x8
    have h8 : Keeps s0 x8 := by
      subst x8
      refine keeps_setPw ?_
      refine keeps_mk ?_
      assumption
    try clear_value x8
    extract_lets +onlyGivenNames -underBinder -merge x9
    have h9 : Keeps s0 x9 := by
      subst x9
      refine keeps_resetEvent ?_
      assumption
    try clear_value x9
    extract_lets +onlyGivenNames -underBinder -merge x10
    have h10 : Keeps s0 x10 := by
      subst x10
      refine keeps_logRec ?_
      refine keeps_causeFaults ?_
      assumption
    try clear_value x10
    refine keeps_ite ?_ ?_
    · refine keeps_enterRest ?_
      refine keeps_fault ?_
      assumption
    · assumption

theorem keeps_execBootComplete {s0 : State} {tj : BitVec 16} {s : State} (hK : Keeps s0 s) :
    Goes s0 (execBootComplete tj s) := by
  rw [show @execBootComplete = _ from by delta execBootComplete; rfl]
  refine goes_ite ?_ ?_
  · refine goes_next ?_
    assumption
  · refine goes_next ?_
    refine keeps_bootEnd ?_
    assumption

theorem keeps_execAonReadyWrite {s0 : State} {v : Bool} {s : State} (hK : Keeps s0 s) :
    Goes s0 (execAonReadyWrite v s) := by
  rw [show @execAonReadyWrite = _ from by delta execAonReadyWrite; rfl]
  refine goes_onReg (fun y1 h1 => ?_) ?_
  · refine goes_next ?_
    refine keeps_readyWrite ?_
    assumption
  · assumption

theorem keeps_execReadyReached {s0 : State} {s : State} (hK : Keeps s0 s) :
    Goes s0 (execReadyReached s) := by
  rw [show @execReadyReached = _ from by delta execReadyReached; rfl]
  refine goes_ite ?_ ?_
  · extract_lets +onlyGivenNames -underBinder -merge x1
    have h1 : Keeps s0 x1 := by
      subst x1
      refine keeps_setPw ?_
      refine keeps_mk ?_
      assumption
    try clear_value x1
    refine goes_next ?_
    refine keeps_loopN (fun a2_0 y2 h2 => ?_) ?_
    · refine keeps_crewAwake ?_
      assumption
    · assumption
  · refine goes_next ?_
    assumption

theorem keeps_execReadyTimeout {s0 : State} {s : State} (hK : Keeps s0 s) :
    Goes s0 (execReadyTimeout s) := by
  rw [show @execReadyTimeout = _ from by delta execReadyTimeout; rfl]
  split
  · refine goes_ite ?_ ?_
    · extract_lets +onlyGivenNames -underBinder -merge x1
      have h1 : Keeps s0 x1 := by
        subst x1
        refine keeps_fault ?_
        refine keeps_until ?_
        assumption
      try clear_value x1
      extract_lets +onlyGivenNames -underBinder -merge x2
      have h2 : Keeps s0 x2 := by
        subst x2
        split
        · refine keeps_endOrder ?_
          assumption
        · assumption
      try clear_value x2
      refine goes_next ?_
      refine keeps_toListen ?_
      assumption
    · refine goes_next ?_
      assumption
  · refine goes_next ?_
    assumption

theorem keeps_execIdleTimeout {s0 : State} {s : State} (hK : Keeps s0 s) :
    Goes s0 (execIdleTimeout s) := by
  rw [show @execIdleTimeout = _ from by delta execIdleTimeout; rfl]
  refine goes_ite ?_ ?_
  · refine goes_next ?_
    refine keeps_toListen ?_
    refine keeps_until ?_
    assumption
  · refine goes_next ?_
    assumption

theorem keeps_execAonRestWrite {s0 : State} {s : State} (hK : Keeps s0 s) :
    Goes s0 (execAonRestWrite s) := by
  rw [show @execAonRestWrite = _ from by delta execAonRestWrite; rfl]
  refine goes_onReg (fun y1 h1 => ?_) ?_
  · refine goes_next ?_
    refine keeps_restRequest ?_
    assumption
  · assumption

theorem keeps_execRestEntryEnd {s0 : State} {s : State} (hK : Keeps s0 s) :
    Goes s0 (execRestEntryEnd s) := by
  rw [show @execRestEntryEnd = _ from by delta execRestEntryEnd; rfl]
  refine goes_ite ?_ ?_
  · extract_lets +onlyGivenNames -underBinder -merge x1
    have h1 : Keeps s0 x1 := by
      subst x1
      refine keeps_until ?_
      assumption
    try clear_value x1
    extract_lets +onlyGivenNames -underBinder -merge x2
    have h2 : Keeps s0 x2 := by
      subst x2
      refine keeps_resetDomains ?_
      refine keeps_settleBatch ?_
      refine keeps_setHold ?_
      assumption
    try clear_value x2
    refine goes_next ?_
    refine keeps_showDomains ?_
    refine keeps_mk ?_
    assumption
  · refine goes_next ?_
    assumption

theorem keeps_execWake {s0 : State} {src : Fin 4} {s : State} (hK : Keeps s0 s) :
    Goes s0 (execWake src s) := by
  rw [show @execWake = _ from by delta execWake; rfl]
  extract_lets +onlyGivenNames -underBinder -merge x1
  try clear_value x1
  extract_lets +onlyGivenNames -underBinder -merge x2
  try clear_value x2
  refine goes_ite ?_ ?_
  · refine goes_next ?_
    assumption
  · refine goes_ite ?_ ?_
    · refine goes_next ?_
      assumption
    · extract_lets +onlyGivenNames -underBinder -merge x3
      have h3 : Keeps s0 x3 := by
        subst x3
        refine keeps_ite ?_ ?_
        · refine keeps_until ?_
          assumption
        · assumption
      try clear_value x3
      extract_lets +onlyGivenNames -underBinder -merge x4
      have h4 : Keeps s0 x4 := by
        subst x4
        refine keeps_noteReset ?_
        refine keeps_put ?_
        assumption
      try clear_value x4
      refine goes_next ?_
      refine keeps_boot ?_
      assumption

theorem keeps_execDomainFail {s0 : State} {d : Fin 14} {s : State} (hK : Keeps s0 s) :
    Goes s0 (execDomainFail d s) := by
  rw [show @execDomainFail = _ from by delta execDomainFail; rfl]
  extract_lets +onlyGivenNames -underBinder -merge x1
  try clear_value x1
  extract_lets +onlyGivenNames -underBinder -merge x2
  try clear_value x2
  refine goes_ite ?_ ?_
  · extract_lets +onlyGivenNames -underBinder -merge x3
    have h3 : Keeps s0 x3 := by
      subst x3
      split
      · refine keeps_until ?_
        assumption
      · assumption
    try clear_value x3
    extract_lets +onlyGivenNames -underBinder -merge x4
    have h4 : Keeps s0 x4 := by
      subst x4
      refine keeps_domainLost ?_
      refine keeps_domainDown ?_
      assumption
    try clear_value x4
    extract_lets +onlyGivenNames -underBinder -merge x5
    have h5 : Keeps s0 x5 := by
      subst x5
      refine keeps_ite ?_ ?_
      · refine keeps_engineLost ?_
        assumption
      · assumption
    try clear_value x5
    extract_lets +onlyGivenNames -underBinder -merge x6
    have h6 : Keeps s0 x6 := by
      subst x6
      refine keeps_ite ?_ ?_
      · refine keeps_loopN (fun a7_0 y7 h7 => ?_) ?_
        · refine keeps_linkDown ?_
          assumption
        · assumption
      · assumption
    try clear_value x6
    extract_lets +onlyGivenNames -underBinder -merge x8
    have h8 : Keeps s0 x8 := by
      subst x8
      refine keeps_ite ?_ ?_
      · refine keeps_islOff ?_
        assumption
      · assumption
    try clear_value x8
    refine goes_next ?_
    refine keeps_fault ?_
    refine keeps_showDomains ?_
    assumption
  · refine goes_next ?_
    assumption

theorem keeps_execXtal32Stable {s0 : State} {s : State} (hK : Keeps s0 s) :
    Goes s0 (execXtal32Stable s) := by
  rw [show @execXtal32Stable = _ from by delta execXtal32Stable; rfl]
  refine goes_ite ?_ ?_
  · refine goes_next ?_
    refine keeps_putB ?_
    assumption
  · refine goes_next ?_
    assumption

end Sys2Proof.Machine
end

