-- ==== Sys2Proof/Laws/KeepsOrdExec.lean ====
section
/-! SUPPORT. Laws/KeepsOrdExec.lean: what the operations of Machine/OrdExec.lean keep. -/
namespace Sys2Proof.Machine

theorem keeps_orderDone {s0 : State} {s : State} {o : OrderRec} {data : List Byte} (hK : Keeps s0 s) :
    Keeps s0 (State.orderDone s o data) := by
  rw [show @State.orderDone = _ from by delta State.orderDone; rfl]
  refine keeps_endOrder ?_
  refine keeps_orderStep ?_
  assumption

theorem keeps_markMaint {s0 : State} {s : State} {seq : Nat} (hK : Keeps s0 s) :
    Keeps s0 (State.markMaint s seq) := by
  rw [show @State.markMaint = _ from by delta State.markMaint; rfl]
  refine keeps_mapOrders ?_
  assumption

theorem keeps_execOrdLoadprog {s0 : State} {s : State} (hK : Keeps s0 s) :
    Goes s0 (execOrdLoadprog s) := by
  rw [show @execOrdLoadprog = _ from by delta execOrdLoadprog; rfl]
  split
  · refine goes_next ?_
    assumption
  · refine goes_ite ?_ ?_
    · refine goes_next ?_
      assumption
    · extract_lets +onlyGivenNames -underBinder -merge x1
      try clear_value x1
      refine goes_ite ?_ ?_
      · refine goes_next ?_
        refine keeps_endOrder ?_
        assumption
      · split
        · rename_i heq
          have h2 := keeps_of_eqP (s0 := s0) heq (by
            refine keeps_maintSubmit ?_
            assumption)
          refine goes_next ?_
          refine keeps_markMaint ?_
          assumption
        · rename_i heq
          have h3 := keeps_of_eqP (s0 := s0) heq (by
            refine keeps_maintSubmit ?_
            assumption)
          refine goes_next ?_
          refine keeps_markMaint ?_
          assumption
        · rename_i heq
          have h4 := keeps_of_eqP (s0 := s0) heq (by
            refine keeps_maintSubmit ?_
            assumption)
          refine goes_next ?_
          refine keeps_endOrder ?_
          assumption

theorem keeps_rigSwitchEnd {s0 : State} {s : State} {o : OrderRec} {r : Nat} (hK : Keeps s0 s) :
    Keeps s0 (State.rigSwitchEnd s o r) := by
  rw [show @State.rigSwitchEnd = _ from by delta State.rigSwitchEnd; rfl]
  extract_lets +onlyGivenNames -underBinder -merge x1
  have h1 : Keeps s0 x1 := by
    subst x1
    refine keeps_mk ?_
    assumption
  try clear_value x1
  refine keeps_ite ?_ ?_
  · refine keeps_endOrder ?_
    assumption
  · split
    · refine keeps_endOrder ?_
      assumption
    · refine keeps_fieldStart ?_
      refine keeps_rigPorts ?_
      refine keeps_orderDone ?_
      refine keeps_rigApply ?_
      assumption

theorem keeps_rigSwitchCheck {s0 : State} {s : State} {o : OrderRec} {r : Nat} (hK : Keeps s0 s) :
    Keeps s0 (State.rigSwitchCheck s o r) := by
  rw [show @State.rigSwitchCheck = _ from by delta State.rigSwitchCheck; rfl]
  split
  · refine keeps_endOrder ?_
    refine keeps_fault ?_
    assumption
  · split
    · refine keeps_endOrder ?_
      assumption
    · split
      · rename_i heq
        have h1 := keeps_of_eqP (s0 := s0) heq (by
          refine keeps_rigContent ?_
          assumption)
        refine keeps_endOrder ?_
        assumption
      · rename_i heq
        have h2 := keeps_of_eqP (s0 := s0) heq (by
          refine keeps_rigContent ?_
          assumption)
        split
        · rename_i heq
          have h3 := keeps_of_eqP (s0 := s0) heq (by
            refine keeps_rigClaimCheck ?_
            assumption)
          refine keeps_endOrder ?_
          assumption
        · rename_i heq
          have h4 := keeps_of_eqP (s0 := s0) heq (by
            refine keeps_rigClaimCheck ?_
            assumption)
          refine keeps_mk ?_
          assumption

theorem keeps_execOrdRigswitch {s0 : State} {s : State} (hK : Keeps s0 s) :
    Goes s0 (execOrdRigswitch s) := by
  rw [show @execOrdRigswitch = _ from by delta execOrdRigswitch; rfl]
  split
  · refine goes_next ?_
    assumption
  · extract_lets +onlyGivenNames -underBinder -merge x1
    try clear_value x1
    refine goes_ite ?_ ?_
    · refine goes_next ?_
      assumption
    · refine goes_ite ?_ ?_
      · split
        · rename_i heq
          have h2 := keeps_of_eqP (s0 := s0) heq (by
            refine keeps_rigTake ?_
            assumption)
          refine goes_next ?_
          refine keeps_endOrder ?_
          assumption
        · rename_i heq
          have h3 := keeps_of_eqP (s0 := s0) heq (by
            refine keeps_rigTake ?_
            assumption)
          refine goes_next ?_
          refine keeps_demand ?_
          refine keeps_markMaint ?_
          assumption
      · refine goes_ite ?_ ?_
        · refine goes_next ?_
          refine keeps_demand ?_
          assumption
        · refine goes_ite ?_ ?_
          · refine goes_next ?_
            refine keeps_rigSwitchEnd ?_
            assumption
          · refine goes_next ?_
            refine keeps_rigSwitchCheck ?_
            assumption

theorem keeps_execOrdReadsig {s0 : State} {s : State} (hK : Keeps s0 s) :
    Goes s0 (execOrdReadsig s) := by
  rw [show @execOrdReadsig = _ from by delta execOrdReadsig; rfl]
  split
  · refine goes_next ?_
    assumption
  · extract_lets +onlyGivenNames -underBinder -merge x1
    try clear_value x1
    extract_lets +onlyGivenNames -underBinder -merge x2
    have h2 : Keeps s0 x2 := by
      subst x2
      refine keeps_loopL (fun a3_0 y3 h3 => ?_) ?_
      · refine keeps_sigTouch ?_
        assumption
      · assumption
    try clear_value x2
    refine goes_next ?_
    refine keeps_orderDone ?_
    assumption

theorem keeps_execOrdWritesig {s0 : State} {s : State} (hK : Keeps s0 s) :
    Goes s0 (execOrdWritesig s) := by
  rw [show @execOrdWritesig = _ from by delta execOrdWritesig; rfl]
  split
  · refine goes_next ?_
    assumption
  · refine goes_ite ?_ ?_
    · refine goes_next ?_
      refine keeps_endOrder ?_
      assumption
    · extract_lets +onlyGivenNames -underBinder -merge x1
      try clear_value x1
      extract_lets +onlyGivenNames -underBinder -merge x2
      try clear_value x2
      refine goes_ite ?_ ?_
      · split
        · rename_i heq
          have h3 := keeps_of_eqP (s0 := s0) heq (by
            refine keeps_sigWrite ?_
            assumption)
          refine goes_next ?_
          refine keeps_markMaint ?_
          assumption
        · rename_i heq
          have h4 := keeps_of_eqP (s0 := s0) heq (by
            refine keeps_sigWrite ?_
            assumption)
          refine goes_next ?_
          refine keeps_endOrder ?_
          assumption
      · refine goes_ite ?_ ?_
        · extract_lets +onlyGivenNames -underBinder -merge x5
          have h5 : Keeps s0 x5 := by
            subst x5
            refine keeps_orderStep ?_
            refine keeps_mapOrders ?_
            assumption
          try clear_value x5
          refine goes_ite ?_ ?_
          · refine goes_next ?_
            refine keeps_endOrder ?_
            assumption
          · refine goes_next ?_
            assumption
        · refine goes_ite ?_ ?_
          · refine goes_next ?_
            refine keeps_endOrder ?_
            assumption
          · refine goes_next ?_
            assumption

theorem keeps_setSubs {s0 : State} {s : State} {l : List Nat} (hK : Keeps s0 s) :
    Keeps s0 (State.setSubs s l) := by
  rw [show @State.setSubs = _ from by delta State.setSubs; rfl]
  refine keeps_put ?_
  refine keeps_mk ?_
  assumption

theorem keeps_execOrdSubscribe {s0 : State} {s : State} (hK : Keeps s0 s) :
    Goes s0 (execOrdSubscribe s) := by
  rw [show @execOrdSubscribe = _ from by delta execOrdSubscribe; rfl]
  split
  · refine goes_next ?_
    assumption
  · extract_lets +onlyGivenNames -underBinder -merge x1
    try clear_value x1
    extract_lets +onlyGivenNames -underBinder -merge x2
    try clear_value x2
    extract_lets +onlyGivenNames -underBinder -merge x3
    try clear_value x3
    refine goes_ite ?_ ?_
    · refine goes_ite ?_ ?_
      · refine goes_next ?_
        refine keeps_endOrder ?_
        assumption
      · refine goes_next ?_
        refine keeps_orderDone ?_
        refine keeps_setSubs ?_
        assumption
    · refine goes_ite ?_ ?_
      · refine goes_next ?_
        refine keeps_orderDone ?_
        refine keeps_setSubs ?_
        assumption
      · refine goes_next ?_
        refine keeps_orderDone ?_
        refine keeps_setSubs ?_
        assumption

theorem keeps_execOrdSwapbank {s0 : State} {s : State} (hK : Keeps s0 s) :
    Goes s0 (execOrdSwapbank s) := by
  rw [show @execOrdSwapbank = _ from by delta execOrdSwapbank; rfl]
  split
  · refine goes_next ?_
    assumption
  · extract_lets +onlyGivenNames -underBinder -merge x1
    try clear_value x1
    refine goes_ite ?_ ?_
    · refine goes_next ?_
      refine keeps_endOrder ?_
      assumption
    · extract_lets +onlyGivenNames -underBinder -merge x2
      have h2 : Keeps s0 x2 := by
        subst x2
        refine keeps_swapReq ?_
        assumption
      try clear_value x2
      extract_lets +onlyGivenNames -underBinder -merge x3
      have h3 : Keeps s0 x3 := by
        subst x3
        refine keeps_orderStep ?_
        assumption
      try clear_value x3
      refine goes_ite ?_ ?_
      · refine goes_next ?_
        refine keeps_endOrder ?_
        assumption
      · refine goes_next ?_
        assumption

theorem keeps_execOrdDump {s0 : State} {s : State} (hK : Keeps s0 s) :
    Goes s0 (execOrdDump s) := by
  rw [show @execOrdDump = _ from by delta execOrdDump; rfl]
  split
  · refine goes_next ?_
    assumption
  · refine goes_next ?_
    refine keeps_orderDone ?_
    assumption

theorem keeps_clearLeg {s0 : State} {s : State} {x : Nat} (hK : Keeps s0 s) :
    Keeps s0 (State.clearLeg s x) := by
  rw [show @State.clearLeg = _ from by delta State.clearLeg; rfl]
  extract_lets +onlyGivenNames -underBinder -merge x1
  try clear_value x1
  extract_lets +onlyGivenNames -underBinder -merge x2
  have h2 : Keeps s0 x2 := by
    subst x2
    refine keeps_putB ?_
    assumption
  try clear_value x2
  refine keeps_setLeg ?_
  assumption

theorem keeps_clearTask {s0 : State} {s : State} {k : Nat} (hK : Keeps s0 s) :
    Keeps s0 (State.clearTask s k) := by
  rw [show @State.clearTask = _ from by delta State.clearTask; rfl]
  extract_lets +onlyGivenNames -underBinder -merge x1
  try clear_value x1
  refine keeps_ite ?_ ?_
  · refine keeps_setTask ?_
    assumption
  · assumption

theorem keeps_clearCrew {s0 : State} {s : State} {n : Nat} (hK : Keeps s0 s) :
    Keeps s0 (State.clearCrew s n) := by
  rw [show @State.clearCrew = _ from by delta State.clearCrew; rfl]
  extract_lets +onlyGivenNames -underBinder -merge x1
  try clear_value x1
  extract_lets +onlyGivenNames -underBinder -merge x2
  have h2 : Keeps s0 x2 := by
    subst x2
    refine keeps_ite ?_ ?_
    · assumption
    · refine keeps_slessTrack ?_
      refine keeps_putB ?_
      refine keeps_putB ?_
      assumption
  try clear_value x2
  extract_lets +onlyGivenNames -underBinder -merge x3
  try clear_value x3
  extract_lets +onlyGivenNames -underBinder -merge x4
  have h4 : Keeps s0 x4 := by
    subst x4
    refine keeps_ite ?_ ?_
    · refine keeps_guardArm ?_
      refine keeps_wr ?_
      assumption
    · assumption
  try clear_value x4
  refine keeps_ite ?_ ?_
  · refine keeps_ite ?_ ?_
    · refine keeps_crewToIdle ?_
      refine keeps_putB ?_
      refine keeps_setCrew ?_
      assumption
    · assumption
  · refine keeps_ite ?_ ?_
    · extract_lets +onlyGivenNames -underBinder -merge x5
      try clear_value x5
      refine keeps_beginRejoin ?_
      assumption
    · assumption

theorem keeps_clearEntries {s0 : State} {s : State} {p : FaultRec → Bool} (hK : Keeps s0 s) :
    Keeps s0 (State.clearEntries s p) := by
  rw [show @State.clearEntries = _ from by delta State.clearEntries; rfl]
  extract_lets +onlyGivenNames -underBinder -merge x1
  try clear_value x1
  refine keeps_loopL (fun a2_0 y2 h2 => ?_) ?_
  · refine keeps_fieldForget ?_
    assumption
  · refine keeps_clearFaults ?_
    assumption

theorem keeps_execOrdClearfault {s0 : State} {s : State} (hK : Keeps s0 s) :
    Goes s0 (execOrdClearfault s) := by
  rw [show @execOrdClearfault = _ from by delta execOrdClearfault; rfl]
  split
  · refine goes_next ?_
    assumption
  · extract_lets +onlyGivenNames -underBinder -merge x1
    try clear_value x1
    extract_lets +onlyGivenNames -underBinder -merge x2
    try clear_value x2
    extract_lets +onlyGivenNames -underBinder -merge x3
    try clear_value x3
    extract_lets +onlyGivenNames -underBinder -merge x4
    subst x4
    try dsimp -zeta -proj only
    extract_lets +onlyGivenNames -underBinder -merge x5
    have h5 : Keeps s0 x5 := by
      subst x5
      refine keeps_loopN (fun a6_0 y6 h6 => ?_) ?_
      · refine keeps_clearTask ?_
        assumption
      · refine keeps_loopN (fun a8_0 y8 h8 => ?_) ?_
        · refine keeps_clearLeg ?_
          assumption
        · assumption
    try clear_value x5
    extract_lets +onlyGivenNames -underBinder -merge x9
    have h9 : Keeps s0 x9 := by
      subst x9
      refine keeps_ite ?_ ?_
      · refine keeps_clearEntries ?_
        assumption
      · refine keeps_ite ?_ ?_
        · refine keeps_clearEntries ?_
          refine keeps_ite ?_ ?_
          · refine keeps_clearCrew ?_
            assumption
          · assumption
        · refine keeps_ite ?_ ?_
          · refine keeps_clearEntries ?_
            refine keeps_ite ?_ ?_
            · refine keeps_clearLeg ?_
              assumption
            · assumption
          · refine keeps_ite ?_ ?_
            · refine keeps_clearEntries ?_
              refine keeps_ite ?_ ?_
              · refine keeps_clearTask ?_
                assumption
              · assumption
            · refine keeps_clearEntries ?_
              refine keeps_loopN (fun a10_0 y10 h10 => ?_) ?_
              · refine keeps_clearCrew ?_
                assumption
              · assumption
    try clear_value x9
    refine goes_next ?_
    refine keeps_orderDone ?_
    assumption

theorem keeps_readBatch {s0 : State} {s : State} {b : JBatch} (hK : Keeps s0 s) :
    Keeps s0 (State.readBatch s b).2 := by
  rw [show @State.readBatch = _ from by delta State.readBatch; rfl]
  extract_lets +onlyGivenNames -underBinder -merge x1
  try clear_value x1
  extract_lets +onlyGivenNames -underBinder -merge x2
  subst x2
  try dsimp -zeta -proj only
  extract_lets +onlyGivenNames -underBinder -merge x3
  subst x3
  try dsimp -zeta -proj only
  extract_lets +onlyGivenNames -underBinder -merge x4
  try clear_value x4
  refine keeps_iteP ?_ ?_
  · refine keeps_snd ?_
    assumption
  · refine keeps_iteP ?_ ?_
    · refine keeps_snd ?_
      refine keeps_fault ?_
      refine keeps_jPut ?_
      assumption
    · refine keeps_iteP ?_ ?_
      · refine keeps_snd ?_
        refine keeps_fault ?_
        refine keeps_jPut ?_
        assumption
      · extract_lets +onlyGivenNames -underBinder -merge x5
        try clear_value x5
        extract_lets +onlyGivenNames -underBinder -merge x6
        have h6 : Keeps s0 x6 := by
          subst x6
          refine keeps_loopL (fun a7_0 y7 h7 => ?_) ?_
          · refine keeps_fault ?_
            assumption
          · assumption
        try clear_value x6
        refine keeps_iteP ?_ ?_
        · refine keeps_snd ?_
          assumption
        · refine keeps_snd ?_
          assumption

theorem keeps_readBatches {s0 s : State} {l : List JBatch} (h : Keeps s0 s) : Keeps s0 (s.readBatches l).2 := by
  induction l generalizing s with
  | nil => exact h
  | cons b l ih => exact ih (keeps_readBatch h)

theorem keeps_recoverFrom {s0 : State} {s : State} {good bad : List JRec} (hK : Keeps s0 s) :
    Keeps s0 (State.recoverFrom s good bad) := by
  rw [show @State.recoverFrom = _ from by delta State.recoverFrom; rfl]
  extract_lets +onlyGivenNames -underBinder -merge x1
  try clear_value x1
  extract_lets +onlyGivenNames -underBinder -merge x2
  subst x2
  try dsimp -zeta -proj only
  extract_lets +onlyGivenNames -underBinder -merge x3
  try clear_value x3
  extract_lets +onlyGivenNames -underBinder -merge x4
  try clear_value x4
  extract_lets +onlyGivenNames -underBinder -merge x5
  try clear_value x5
  extract_lets +onlyGivenNames -underBinder -merge x6
  subst x6
  try dsimp -zeta -proj only
  extract_lets +onlyGivenNames -underBinder -merge x7
  try clear_value x7
  extract_lets +onlyGivenNames -underBinder -merge x8
  have h8 : Keeps s0 x8 := by
    subst x8
    refine keeps_put ?_
    assumption
  try clear_value x8
  extract_lets +onlyGivenNames -underBinder -merge x9
  have h9 : Keeps s0 x9 := by
    subst x9
    refine keeps_put ?_
    assumption
  try clear_value x9
  extract_lets +onlyGivenNames -underBinder -merge x10
  have h10 : Keeps s0 x10 := by
    subst x10
    refine keeps_put ?_
    assumption
  try clear_value x10
  extract_lets +onlyGivenNames -underBinder -merge x11
  have h11 : Keeps s0 x11 := by
    subst x11
    split
    · refine keeps_put ?_
      refine keeps_put ?_
      assumption
    · assumption
  try clear_value x11
  extract_lets +onlyGivenNames -underBinder -merge x12
  have h12 : Keeps s0 x12 := by
    subst x12
    refine keeps_mk ?_
    assumption
  try clear_value x12
  extract_lets +onlyGivenNames -underBinder -merge x13
  have h13 : Keeps s0 x13 := by
    subst x13
    refine keeps_setAccHist ?_ ?_
    · exact List.length_take_le _ _
    · assumption
  try clear_value x13
  extract_lets +onlyGivenNames -underBinder -merge x14
  have h14 : Keeps s0 x14 := by
    subst x14
    refine keeps_jAdd ?_
    assumption
  try clear_value x14
  extract_lets +onlyGivenNames -underBinder -merge x15
  have h15 : Keeps s0 x15 := by
    subst x15
    refine keeps_loopL (fun a16_0 y16 h16 => ?_) ?_
    · refine keeps_addReport ?_
      assumption
    · assumption
  try clear_value x15
  extract_lets +onlyGivenNames -underBinder -merge x17
  have h17 : Keeps s0 x17 := by
    subst x17
    refine keeps_loopL (fun a18_0 y18 h18 => ?_) ?_
    · refine keeps_endOrder ?_
      assumption
    · assumption
  try clear_value x17
  extract_lets +onlyGivenNames -underBinder -merge x19
  have h19 : Keeps s0 x19 := by
    subst x19
    refine keeps_ite ?_ ?_
    · refine keeps_fault ?_
      assumption
    · assumption
  try clear_value x19
  refine keeps_showOrders ?_
  refine keeps_showFree ?_
  assumption

theorem keeps_execJournalRecovery {s0 : State} {s : State} (hK : Keeps s0 s) :
    Goes s0 (execJournalRecovery s) := by
  rw [show @execJournalRecovery = _ from by delta execJournalRecovery; rfl]
  refine goes_ite ?_ ?_
  · refine goes_next ?_
    assumption
  · split
    · rename_i heq
      have h1 := keeps_of_eqP (s0 := s0) heq (by
        refine keeps_readBatches ?_
        assumption)
      refine goes_next ?_
      refine keeps_recoverFrom ?_
      assumption

end Sys2Proof.Machine
end

