-- ==== Sys2Proof/Laws/KeepsPockets.lean ====
section
/-! SUPPORT. Laws/KeepsPockets.lean: what the operations of Machine/Pockets.lean keep. -/
namespace Sys2Proof.Machine

theorem keeps_pocketPoint {s0 : State} {s : State} {a reg typ : Nat} {bad : Bool} (hK : Keeps s0 s) :
    Keeps s0 (State.pocketPoint s a reg typ bad) := by
  rw [show @State.pocketPoint = _ from by delta State.pocketPoint; rfl]
  refine keeps_ite ?_ ?_
  · refine keeps_sigUpdate ?_
    assumption
  · refine keeps_ite ?_ ?_
    · assumption
    · refine keeps_sigUpdate ?_
      assumption

theorem keeps_pocketHk {s0 : State} {s : State} (hK : Keeps s0 s) :
    Keeps s0 (State.pocketHk s) := by
  rw [show @State.pocketHk = _ from by delta State.pocketHk; rfl]
  extract_lets +onlyGivenNames -underBinder -merge x1
  have h1 : Keeps s0 x1 := by
    subst x1
    refine keeps_loopN (fun a2_0 y2 h2 => ?_) ?_
    · refine keeps_pocketPoint ?_
      assumption
    · assumption
  try clear_value x1
  refine keeps_loopN (fun a3_0 y3 h3 => ?_) ?_
  · refine keeps_pocketPoint ?_
    assumption
  · assumption

theorem keeps_pocketsRefresh {s0 : State} {s : State} (hK : Keeps s0 s) :
    Keeps s0 (State.pocketsRefresh s) := by
  rw [show @State.pocketsRefresh = _ from by delta State.pocketsRefresh; rfl]
  extract_lets +onlyGivenNames -underBinder -merge x1
  have h1 : Keeps s0 x1 := by
    subst x1
    refine keeps_loopN (fun a2_0 y2 h2 => ?_) ?_
    · extract_lets +onlyGivenNames -underBinder -merge x3
      try clear_value x3
      refine keeps_loopL (fun a4_0 y4 h4 => ?_) ?_
      · refine keeps_pocketPoint ?_
        assumption
      · assumption
    · assumption
  try clear_value x1
  extract_lets +onlyGivenNames -underBinder -merge x5
  have h5 : Keeps s0 x5 := by
    subst x5
    refine keeps_loopN (fun a6_0 y6 h6 => ?_) ?_
    · refine keeps_loopL (fun a7_0 y7 h7 => ?_) ?_
      · refine keeps_pocketPoint ?_
        assumption
      · assumption
    · assumption
  try clear_value x5
  extract_lets +onlyGivenNames -underBinder -merge x8
  have h8 : Keeps s0 x8 := by
    subst x8
    refine keeps_loopN (fun a9_0 y9 h9 => ?_) ?_
    · refine keeps_loopL (fun a10_0 y10 h10 => ?_) ?_
      · refine keeps_pocketPoint ?_
        assumption
      · assumption
    · assumption
  try clear_value x8
  extract_lets +onlyGivenNames -underBinder -merge x11
  have h11 : Keeps s0 x11 := by
    subst x11
    refine keeps_loopL (fun a12_0 y12 h12 => ?_) ?_
    · refine keeps_pocketPoint ?_
      assumption
    · assumption
  try clear_value x11
  refine keeps_loopL (fun a13_0 y13 h13 => ?_) ?_
  · refine keeps_pocketPoint ?_
    assumption
  · assumption

theorem keeps_execInternalPocketRefresh {s0 : State} {s : State} (hK : Keeps s0 s) :
    Goes s0 (execInternalPocketRefresh s) := by
  rw [show @execInternalPocketRefresh = _ from by delta execInternalPocketRefresh; rfl]
  extract_lets +onlyGivenNames -underBinder -merge x1
  have h1 : Keeps s0 x1 := by
    subst x1
    refine keeps_until ?_
    assumption
  try clear_value x1
  refine goes_next ?_
  refine keeps_pocketsRefresh ?_
  refine keeps_mk ?_
  assumption

end Sys2Proof.Machine
end

