-- ==== Sys2Proof/Laws/KeepsCoxCmds.lean ====
section
/-! SUPPORT. Laws/KeepsCoxCmds.lean: what the operations of Machine/CoxCmds.lean keep. -/
namespace Sys2Proof.Machine

theorem keeps_execMboxReqWrite {s0 : State} {p : PairNo} {v : Word} {s : State} (hK : Keeps s0 s) :
    Goes s0 (execMboxReqWrite p v s) := by
  rw [show @execMboxReqWrite = _ from by delta execMboxReqWrite; rfl]
  refine keeps_onRegW (fun a1_0 y1 h1 => ?_) ?_
  · refine goes_next ?_
    refine keeps_mboxReq ?_
    assumption
  · assumption

theorem keeps_mboxServe {s0 s : State} {code : Nat} {f : Nat → State → State} (hf : ∀ p y, Keeps s0 y → Keeps s0 (f p y))
    (h : Keeps s0 s) : Keeps s0 (s.mboxServe code f) := by
  unfold State.mboxServe
  split
  · exact h
  · exact keeps_ite h (keeps_ite (keeps_mboxAnswer h) (keeps_ite (hf _ _ h) h))

theorem keeps_mboxSubmit {s0 : State} {s : State} {p : Nat} {r : MaintReq} (hK : Keeps s0 s) :
    Keeps s0 (State.mboxSubmit s p r) := by
  rw [show @State.mboxSubmit = _ from by delta State.mboxSubmit; rfl]
  split
  · rename_i heq
    have h1 := keeps_of_eqP (s0 := s0) heq (by
      refine keeps_maintSubmit ?_
      assumption)
    refine keeps_mboxAnswer ?_
    assumption
  · rename_i heq
    have h2 := keeps_of_eqP (s0 := s0) heq (by
      refine keeps_maintSubmit ?_
      assumption)
    refine keeps_mboxAnswer ?_
    assumption
  · rename_i heq
    have h3 := keeps_of_eqP (s0 := s0) heq (by
      refine keeps_maintSubmit ?_
      assumption)
    refine keeps_mboxAnswer ?_
    assumption
  · rename_i heq
    have h4 := keeps_of_eqP (s0 := s0) heq (by
      refine keeps_maintSubmit ?_
      assumption)
    refine keeps_mboxAnswer ?_
    assumption

theorem keeps_execMboxMaintenance {s0 : State} {s : State} (hK : Keeps s0 s) :
    Goes s0 (execMboxMaintenance s) := by
  rw [show @execMboxMaintenance = _ from by delta execMboxMaintenance; rfl]
  refine goes_next ?_
  refine keeps_mboxServe (fun a1_0 y1 h1 => ?_) ?_
  · extract_lets +onlyGivenNames -underBinder -merge x2
    try clear_value x2
    extract_lets +onlyGivenNames -underBinder -merge x3
    try clear_value x3
    extract_lets +onlyGivenNames -underBinder -merge x4
    try clear_value x4
    extract_lets +onlyGivenNames -underBinder -merge x5
    try clear_value x5
    refine keeps_ite ?_ ?_
    · refine keeps_mboxAnswer ?_
      assumption
    · refine keeps_mboxSubmit ?_
      assumption
  · assumption

theorem keeps_execMboxUserLog {s0 : State} {s : State} (hK : Keeps s0 s) :
    Goes s0 (execMboxUserLog s) := by
  rw [show @execMboxUserLog = _ from by delta execMboxUserLog; rfl]
  refine goes_next ?_
  refine keeps_mboxServe (fun a1_0 y1 h1 => ?_) ?_
  · refine keeps_mboxAnswer ?_
    refine keeps_logRec ?_
    assumption
  · assumption

theorem keeps_execMboxRest {s0 : State} {s : State} (hK : Keeps s0 s) :
    Goes s0 (execMboxRest s) := by
  rw [show @execMboxRest = _ from by delta execMboxRest; rfl]
  refine goes_next ?_
  refine keeps_mboxServe (fun a1_0 y1 h1 => ?_) ?_
  · split
    · rename_i heq
      have h2 := keeps_of_eqP (s0 := s0) heq (by
        refine keeps_restRequest ?_
        assumption)
      refine keeps_mboxAnswer ?_
      assumption
    · rename_i heq
      have h3 := keeps_of_eqP (s0 := s0) heq (by
        refine keeps_restRequest ?_
        assumption)
      refine keeps_mboxAnswer ?_
      assumption
  · assumption

theorem keeps_execMboxFirmwareChunk {s0 : State} {s : State} (hK : Keeps s0 s) :
    Goes s0 (execMboxFirmwareChunk s) := by
  rw [show @execMboxFirmwareChunk = _ from by delta execMboxFirmwareChunk; rfl]
  refine goes_next ?_
  refine keeps_mboxServe (fun a1_0 y1 h1 => ?_) ?_
  · extract_lets +onlyGivenNames -underBinder -merge x2
    try clear_value x2
    extract_lets +onlyGivenNames -underBinder -merge x3
    try clear_value x3
    extract_lets +onlyGivenNames -underBinder -merge x4
    try clear_value x4
    refine keeps_ite ?_ ?_
    · refine keeps_mboxSubmit ?_
      assumption
    · refine keeps_mboxAnswer ?_
      assumption
  · assumption

theorem keeps_execMboxFirmwareActivate {s0 : State} {s : State} (hK : Keeps s0 s) :
    Goes s0 (execMboxFirmwareActivate s) := by
  rw [show @execMboxFirmwareActivate = _ from by delta execMboxFirmwareActivate; rfl]
  refine goes_next ?_
  refine keeps_mboxServe (fun a1_0 y1 h1 => ?_) ?_
  · extract_lets +onlyGivenNames -underBinder -merge x2
    try clear_value x2
    extract_lets +onlyGivenNames -underBinder -merge x3
    try clear_value x3
    extract_lets +onlyGivenNames -underBinder -merge x4
    have h4 : Keeps s0 x4 := by
      subst x4
      refine keeps_putB ?_
      assumption
    try clear_value x4
    refine keeps_ite ?_ ?_
    · refine keeps_mboxAnswer ?_
      refine keeps_logFw ?_
      refine keeps_setFwState ?_
      assumption
    · refine keeps_mboxAnswer ?_
      assumption
  · assumption

theorem keeps_execMboxDumpSlotLock {s0 : State} {s : State} (hK : Keeps s0 s) :
    Goes s0 (execMboxDumpSlotLock s) := by
  rw [show @execMboxDumpSlotLock = _ from by delta execMboxDumpSlotLock; rfl]
  refine goes_next ?_
  refine keeps_mboxServe (fun a1_0 y1 h1 => ?_) ?_
  · extract_lets +onlyGivenNames -underBinder -merge x2
    try clear_value x2
    extract_lets +onlyGivenNames -underBinder -merge x3
    try clear_value x3
    refine keeps_ite ?_ ?_
    · refine keeps_mboxAnswer ?_
      assumption
    · refine keeps_ite ?_ ?_
      · extract_lets +onlyGivenNames -underBinder -merge x4
        try clear_value x4
        extract_lets +onlyGivenNames -underBinder -merge x5
        try clear_value x5
        refine keeps_mboxAnswer ?_
        refine keeps_mramTry ?_
        assumption
      · refine keeps_mboxAnswer ?_
        assumption
  · assumption

theorem keeps_execHkRound {s0 : State} {s : State} (hK : Keeps s0 s) :
    Goes s0 (execHkRound s) := by
  rw [show @execHkRound = _ from by delta execHkRound; rfl]
  refine goes_ite ?_ ?_
  · refine goes_next ?_
    assumption
  · extract_lets +onlyGivenNames -underBinder -merge x1
    have h1 : Keeps s0 x1 := by
      subst x1
      refine keeps_until ?_
      assumption
    try clear_value x1
    extract_lets +onlyGivenNames -underBinder -merge x2
    have h2 : Keeps s0 x2 := by
      subst x2
      refine keeps_ite ?_ ?_
      · refine keeps_fault ?_
        assumption
      · assumption
    try clear_value x2
    refine goes_next ?_
    refine keeps_pocketHk ?_
    refine keeps_incWrap ?_
    refine keeps_mk ?_
    assumption

theorem keeps_setHkOut {s0 : State} {s : State} {c : Nat} {b : Bool} (hK : Keeps s0 s) :
    Keeps s0 (State.setHkOut s c b) := by
  rw [show @State.setHkOut = _ from by delta State.setHkOut; rfl]
  refine keeps_ite ?_ ?_
  · refine keeps_setBitAt ?_
    assumption
  · refine keeps_setBitAt ?_
    assumption

theorem keeps_hkLimit {s0 : State} {s : State} {c : Nat} (hK : Keeps s0 s) :
    Keeps s0 (State.hkLimit s c) := by
  rw [show @State.hkLimit = _ from by delta State.hkLimit; rfl]
  extract_lets +onlyGivenNames -underBinder -merge x1
  try clear_value x1
  extract_lets +onlyGivenNames -underBinder -merge x2
  try clear_value x2
  refine keeps_ite ?_ ?_
  · refine keeps_fault ?_
    refine keeps_raise ?_
    refine keeps_setHkOut ?_
    assumption
  · refine keeps_ite ?_ ?_
    · assumption
    · refine keeps_setHkOut ?_
      assumption

theorem keeps_hkSetLevel {s0 : State} {s : State} {v : Nat} {tj : Int} (hK : Keeps s0 s) :
    Keeps s0 (State.hkSetLevel s v tj) := by
  rw [show @State.hkSetLevel = _ from by delta State.hkSetLevel; rfl]
  refine keeps_logRec ?_
  refine keeps_raise ?_
  refine keeps_put ?_
  assumption

theorem keeps_hkLevel {s0 : State} {s : State} (hK : Keeps s0 s) :
    Keeps s0 (State.hkLevel s) := by
  rw [show @State.hkLevel = _ from by delta State.hkLevel; rfl]
  extract_lets +onlyGivenNames -underBinder -merge x1
  try clear_value x1
  extract_lets +onlyGivenNames -underBinder -merge x2
  have h2 : Keeps s0 x2 := by
    subst x2
    refine keeps_put ?_
    assumption
  try clear_value x2
  extract_lets +onlyGivenNames -underBinder -merge x3
  try clear_value x3
  refine keeps_ite ?_ ?_
  · extract_lets +onlyGivenNames -underBinder -merge x4
    have h4 : Keeps s0 x4 := by
      subst x4
      refine keeps_putB ?_
      refine keeps_fault ?_
      refine keeps_hkSetLevel ?_
      assumption
    try clear_value x4
    refine keeps_mk ?_
    assumption
  · refine keeps_ite ?_ ?_
    · refine keeps_fault ?_
      refine keeps_hkSetLevel ?_
      assumption
    · refine keeps_ite ?_ ?_
      · refine keeps_fault ?_
        refine keeps_hkSetLevel ?_
        assumption
      · refine keeps_ite ?_ ?_
        · refine keeps_hkSetLevel ?_
          assumption
        · refine keeps_ite ?_ ?_
          · refine keeps_hkSetLevel ?_
            assumption
          · assumption

theorem keeps_hkWindow {s0 : State} {s : State} (hK : Keeps s0 s) :
    Keeps s0 (State.hkWindow s) := by
  rw [show @State.hkWindow = _ from by delta State.hkWindow; rfl]
  extract_lets +onlyGivenNames -underBinder -merge x1
  try clear_value x1
  refine keeps_ite ?_ ?_
  · assumption
  · refine keeps_ite ?_ ?_
    · refine keeps_ite ?_ ?_
      · refine keeps_fault ?_
        refine keeps_raise ?_
        refine keeps_setWindow ?_
        assumption
      · assumption
    · refine keeps_ite ?_ ?_
      · refine keeps_jKick ?_
        refine keeps_raise ?_
        refine keeps_setWindow ?_
        assumption
      · assumption

theorem keeps_execHkSample {s0 : State} {c : Fin 48} {v : BitVec 16} {s : State} (hK : Keeps s0 s) :
    Goes s0 (execHkSample c v s) := by
  rw [show @execHkSample = _ from by delta execHkSample; rfl]
  refine goes_ite ?_ ?_
  · refine goes_next ?_
    assumption
  · extract_lets +onlyGivenNames -underBinder -merge x1
    have h1 : Keeps s0 x1 := by
      subst x1
      refine keeps_until ?_
      assumption
    try clear_value x1
    extract_lets +onlyGivenNames -underBinder -merge x2
    try clear_value x2
    extract_lets +onlyGivenNames -underBinder -merge x3
    try clear_value x3
    refine goes_ite ?_ ?_
    · refine goes_next ?_
      refine keeps_putB ?_
      assumption
    · extract_lets +onlyGivenNames -underBinder -merge x4
      try clear_value x4
      extract_lets +onlyGivenNames -underBinder -merge x5
      have h5 : Keeps s0 x5 := by
        subst x5
        refine keeps_hkLimit ?_
        refine keeps_putB ?_
        refine keeps_put ?_
        assumption
      try clear_value x5
      extract_lets +onlyGivenNames -underBinder -merge x6
      have h6 : Keeps s0 x6 := by
        subst x6
        refine keeps_ite ?_ ?_
        · refine keeps_hkLevel ?_
          assumption
        · assumption
      try clear_value x6
      refine goes_next ?_
      refine keeps_ite ?_ ?_
      · refine keeps_hkWindow ?_
        assumption
      · assumption

theorem keeps_execThermalShutdownRest {s0 : State} {s : State} (hK : Keeps s0 s) :
    Goes s0 (execThermalShutdownRest s) := by
  rw [show @execThermalShutdownRest = _ from by delta execThermalShutdownRest; rfl]
  split
  · refine goes_next ?_
    assumption
  · refine goes_ite ?_ ?_
    · extract_lets +onlyGivenNames -underBinder -merge x1
      have h1 : Keeps s0 x1 := by
        subst x1
        refine keeps_ite ?_ ?_
        · assumption
        · refine keeps_until ?_
          assumption
      try clear_value x1
      refine goes_next ?_
      refine keeps_enterRest ?_
      refine keeps_mk ?_
      assumption
    · refine goes_next ?_
      assumption

theorem keeps_logLostShow {s0 : State} {s : State} (hK : Keeps s0 s) :
    Keeps s0 (State.logLostShow s) := by
  rw [show @State.logLostShow = _ from by delta State.logLostShow; rfl]
  refine keeps_ite ?_ ?_
  · extract_lets +onlyGivenNames -underBinder -merge x1
    try clear_value x1
    refine keeps_fault ?_
    refine keeps_logRec ?_
    refine keeps_mk ?_
    assumption
  · assumption

theorem keeps_logChunk {s0 : State} {s : State} {res : WrRes} (hK : Keeps s0 s) :
    Keeps s0 (State.logChunk s res) := by
  rw [show @State.logChunk = _ from by delta State.logChunk; rfl]
  extract_lets +onlyGivenNames -underBinder -merge x1
  try clear_value x1
  extract_lets +onlyGivenNames -underBinder -merge x2
  try clear_value x2
  extract_lets +onlyGivenNames -underBinder -merge x3
  try clear_value x3
  extract_lets +onlyGivenNames -underBinder -merge x4
  subst x4
  try dsimp -zeta -proj only
  extract_lets +onlyGivenNames -underBinder -merge x5
  have h5 : Keeps s0 x5 := by
    subst x5
    refine keeps_setLogBuf ?_ ?_
    · exact fun i => by rw [List.length_drop]; omega
    · assumption
  try clear_value x5
  split
  · refine keeps_logLostShow ?_
    extract_lets +onlyGivenNames -underBinder -merge x6
    have h6 : Keeps s0 x6 := by
      subst x6
      refine keeps_fault ?_
      refine keeps_retryL ?_
      assumption
    try clear_value x6
    refine keeps_mk ?_
    assumption
  · extract_lets +onlyGivenNames -underBinder -merge x7
    have h7 : Keeps s0 x7 := by
      subst x7
      refine keeps_ite ?_ ?_
      · refine keeps_retryT ?_
        assumption
      · assumption
    try clear_value x7
    extract_lets +onlyGivenNames -underBinder -merge x8
    have h8 : Keeps s0 x8 := by
      subst x8
      refine keeps_loopN (fun a9_0 y9 h9 => ?_) ?_
      · split
        · refine keeps_mramWrite ?_
          assumption
        · assumption
      · assumption
    try clear_value x8
    refine keeps_logLostShow ?_
    refine keeps_put ?_
    refine keeps_put ?_
    assumption

theorem keeps_dataChunk {s0 : State} {s : State} {c : ChunkRec} {res : WrRes} (hK : Keeps s0 s) :
    Keeps s0 (State.dataChunk s c res) := by
  rw [show @State.dataChunk = _ from by delta State.dataChunk; rfl]
  extract_lets +onlyGivenNames -underBinder -merge x1
  have h1 : Keeps s0 x1 := by
    subst x1
    refine keeps_mk ?_
    assumption
  try clear_value x1
  split
  · extract_lets +onlyGivenNames -underBinder -merge x2
    have h2 : Keeps s0 x2 := by
      subst x2
      refine keeps_fault ?_
      refine keeps_retryL ?_
      assumption
    try clear_value x2
    extract_lets +onlyGivenNames -underBinder -merge x3
    try clear_value x3
    refine keeps_ite ?_ ?_
    · assumption
    · refine keeps_maintSet ?_
      assumption
  · refine keeps_mramWrite ?_
    refine keeps_ite ?_ ?_
    · refine keeps_retryT ?_
      assumption
    · assumption

theorem keeps_execNvmChunkWrite {s0 : State} {res : WrRes} {s : State} (hK : Keeps s0 s) :
    Goes s0 (execNvmChunkWrite res s) := by
  rw [show @execNvmChunkWrite = _ from by delta execNvmChunkWrite; rfl]
  extract_lets +onlyGivenNames -underBinder -merge x1
  try clear_value x1
  refine goes_ite ?_ ?_
  · refine goes_next ?_
    assumption
  · extract_lets +onlyGivenNames -underBinder -merge x2
    have h2 : Keeps s0 x2 := by
      subst x2
      refine keeps_until ?_
      assumption
    try clear_value x2
    extract_lets +onlyGivenNames -underBinder -merge x3
    have h3 : Keeps s0 x3 := by
      subst x3
      refine keeps_ite ?_ ?_
      · refine keeps_advance ?_
        assumption
      · assumption
    try clear_value x3
    extract_lets +onlyGivenNames -underBinder -merge x4
    try clear_value x4
    extract_lets +onlyGivenNames -underBinder -merge x5
    have h5 : Keeps s0 x5 := by
      subst x5
      refine keeps_mk ?_
      assumption
    try clear_value x5
    refine goes_ite ?_ ?_
    · refine goes_next ?_
      refine keeps_logChunk ?_
      assumption
    · split
      · refine goes_next ?_
        refine keeps_dataChunk ?_
        assumption
      · refine goes_next ?_
        assumption

theorem keeps_execScrubStepDue {s0 : State} {s : State} (hK : Keeps s0 s) :
    Goes s0 (execScrubStepDue s) := by
  rw [show @execScrubStepDue = _ from by delta execScrubStepDue; rfl]
  refine goes_ite ?_ ?_
  · refine goes_next ?_
    assumption
  · extract_lets +onlyGivenNames -underBinder -merge x1
    try clear_value x1
    extract_lets +onlyGivenNames -underBinder -merge x2
    have h2 : Keeps s0 x2 := by
      subst x2
      refine keeps_until ?_
      assumption
    try clear_value x2
    split
    · rename_i heq
      have h3 := keeps_of_eqP (s0 := s0) heq (by
        refine keeps_maintSubmit ?_
        assumption)
      refine goes_next ?_
      refine keeps_mk ?_
      assumption
    · rename_i heq
      have h4 := keeps_of_eqP (s0 := s0) heq (by
        refine keeps_maintSubmit ?_
        assumption)
      refine goes_next ?_
      refine keeps_mk ?_
      assumption

theorem keeps_execWearSave {s0 : State} {s : State} (hK : Keeps s0 s) :
    Goes s0 (execWearSave s) := by
  rw [show @execWearSave = _ from by delta execWearSave; rfl]
  refine goes_ite ?_ ?_
  · refine goes_next ?_
    assumption
  · extract_lets +onlyGivenNames -underBinder -merge x1
    have h1 : Keeps s0 x1 := by
      subst x1
      refine keeps_until ?_
      assumption
    try clear_value x1
    refine goes_next ?_
    refine keeps_saveWear ?_
    refine keeps_mk ?_
    assumption

theorem keeps_maintBegin {s0 s : State} {act : Nat} {f : MaintReq → State → State} (hf : ∀ r y, Keeps s0 y → Keeps s0 (f r y))
    (h : Keeps s0 s) : Keeps s0 (s.maintBegin act f) := by
  unfold State.maintBegin
  split
  · exact h
  · exact keeps_ite h (hf _ _ (keeps_maintSet h))

theorem keeps_maintFail {s0 : State} {s : State} {r : MaintReq} (hK : Keeps s0 s) :
    Keeps s0 (State.maintFail s r) := by
  rw [show @State.maintFail = _ from by delta State.maintFail; rfl]
  refine keeps_maintSet ?_
  assumption

theorem keeps_coxBytes {s0 : State} {s : State} {a n : Nat} (hK : Keeps s0 s) :
    Keeps s0 (State.coxBytes s a n).2 := by
  rw [show @State.coxBytes = _ from by delta State.coxBytes; rfl]
  extract_lets +onlyGivenNames -underBinder -merge x1
  have h1 : Keeps s0 x1 := by
    subst x1
    refine keeps_correctCe ?_
    assumption
  try clear_value x1
  refine keeps_iteP ?_ ?_
  · refine keeps_snd ?_
    refine keeps_fault ?_
    assumption
  · refine keeps_snd ?_
    assumption

theorem keeps_execFirmwareImageWrite {s0 : State} {s : State} (hK : Keeps s0 s) :
    Goes s0 (execFirmwareImageWrite s) := by
  rw [show @execFirmwareImageWrite = _ from by delta execFirmwareImageWrite; rfl]
  refine goes_next ?_
  refine keeps_maintBegin (fun a1_0 y1 h1 => ?_) ?_
  · split
    · rename_i heq
      have h2 := keeps_of_eqP (s0 := s0) heq (by
        refine keeps_coxBytes ?_
        assumption)
      refine keeps_addChunks ?_
      assumption
    · rename_i heq
      have h3 := keeps_of_eqP (s0 := s0) heq (by
        refine keeps_coxBytes ?_
        assumption)
      refine keeps_maintFail ?_
      assumption
  · assumption

theorem keeps_execRigWrite {s0 : State} {s : State} (hK : Keeps s0 s) :
    Goes s0 (execRigWrite s) := by
  rw [show @execRigWrite = _ from by delta execRigWrite; rfl]
  refine goes_next ?_
  refine keeps_maintBegin (fun a1_0 y1 h1 => ?_) ?_
  · split
    · split
      · extract_lets +onlyGivenNames -underBinder -merge x2
        have h2 : Keeps s0 x2 := by
          subst x2
          refine keeps_addChunks ?_
          assumption
        try clear_value x2
        refine keeps_addChunks ?_
        assumption
      · assumption
    · split
      · refine keeps_addChunks ?_
        assumption
      · assumption
  · assumption

theorem keeps_scrubCe {s0 : State} {s : State} {own m w : Nat} (hK : Keeps s0 s) :
    Keeps s0 (State.scrubCe s own m w) := by
  rw [show @State.scrubCe = _ from by delta State.scrubCe; rfl]
  refine keeps_addChunks ?_
  refine keeps_incSat ?_
  assumption

theorem keeps_scrubUe {s0 : State} {s : State} {own m w : Nat} (hK : Keeps s0 s) :
    Keeps s0 (State.scrubUe s own m w) := by
  rw [show @State.scrubUe = _ from by delta State.scrubUe; rfl]
  extract_lets +onlyGivenNames -underBinder -merge x1
  have h1 : Keeps s0 x1 := by
    subst x1
    refine keeps_fault ?_
    refine keeps_incSat ?_
    assumption
  try clear_value x1
  split
  · refine keeps_ite ?_ ?_
    · assumption
    · refine keeps_addChunks ?_
      assumption
  · assumption

theorem keeps_scrubStep {s0 : State} {s : State} {own : Nat} (hK : Keeps s0 s) :
    Keeps s0 (State.scrubStep s own) := by
  rw [show @State.scrubStep = _ from by delta State.scrubStep; rfl]
  extract_lets +onlyGivenNames -underBinder -merge x1
  try clear_value x1
  extract_lets +onlyGivenNames -underBinder -merge x2
  try clear_value x2
  extract_lets +onlyGivenNames -underBinder -merge x3
  subst x3
  try dsimp -zeta -proj only
  extract_lets +onlyGivenNames -underBinder -merge x4
  have h4 : Keeps s0 x4 := by
    subst x4
    refine keeps_mk ?_
    assumption
  try clear_value x4
  extract_lets +onlyGivenNames -underBinder -merge x5
  have h5 : Keeps s0 x5 := by
    subst x5
    refine keeps_loopL (fun a6_0 y6 h6 => ?_) ?_
    · refine keeps_scrubCe ?_
      assumption
    · assumption
  try clear_value x5
  refine keeps_loopL (fun a7_0 y7 h7 => ?_) ?_
  · refine keeps_scrubUe ?_
    assumption
  · assumption

theorem keeps_execMramScrub {s0 : State} {s : State} (hK : Keeps s0 s) :
    Goes s0 (execMramScrub s) := by
  rw [show @execMramScrub = _ from by delta execMramScrub; rfl]
  refine goes_next ?_
  refine keeps_maintBegin (fun a1_0 y1 h1 => ?_) ?_
  · refine keeps_scrubStep ?_
    assumption
  · assumption

theorem keeps_compWrite {s0 : State} {s : State} {own : Nat} {comp : List JBatch} (hK : Keeps s0 s) :
    Keeps s0 (State.compWrite s own comp) := by
  rw [show @State.compWrite = _ from by delta State.compWrite; rfl]
  extract_lets +onlyGivenNames -underBinder -merge x1
  have h1 : Keeps s0 x1 := by
    subst x1
    refine keeps_loopL (fun a2_0 y2 h2 => ?_) ?_
    · refine keeps_loopL (fun a3_0 y3 h3 => ?_) ?_
      · refine keeps_loopN (fun a4_0 y4 h4 => ?_) ?_
        · refine keeps_ite ?_ ?_
          · assumption
          · refine keeps_addChunks ?_
            assumption
        · assumption
      · assumption
    · assumption
  try clear_value x1
  refine keeps_showFree ?_
  refine keeps_mk ?_
  assumption

theorem keeps_execJournalCompaction {s0 : State} {s : State} (hK : Keeps s0 s) :
    Goes s0 (execJournalCompaction s) := by
  rw [show @execJournalCompaction = _ from by delta execJournalCompaction; rfl]
  refine goes_next ?_
  refine keeps_maintBegin (fun a1_0 y1 h1 => ?_) ?_
  · refine keeps_ite ?_ ?_
    · refine keeps_maintFail ?_
      assumption
    · refine keeps_compWrite ?_
      assumption
  · assumption

theorem keeps_compactionEnd {s0 : State} {s : State} {ok : Bool} (hK : Keeps s0 s) :
    Keeps s0 (State.compactionEnd s ok) := by
  rw [show @State.compactionEnd = _ from by delta State.compactionEnd; rfl]
  split
  · assumption
  · refine keeps_ite ?_ ?_
    · refine keeps_mk ?_
      assumption
    · extract_lets +onlyGivenNames -underBinder -merge x1
      try clear_value x1
      refine keeps_jKick ?_
      refine keeps_showFree ?_
      refine keeps_mk ?_
      assumption

theorem keeps_marchTest {s0 : State} {s : State} {a n : Nat} (hK : Keeps s0 s) :
    Keeps s0 (State.marchTest s a n) := by
  rw [show @State.marchTest = _ from by delta State.marchTest; rfl]
  refine keeps_loopN (fun a1_0 y1 h1 => ?_) ?_
  · split
    · rename_i heq
      have h2 := keeps_of_eqP (s0 := s0) heq (by
        refine keeps_free ?_
        assumption)
      refine keeps_devWrite ?_
      assumption
  · assumption

theorem keeps_execSramBankTest {s0 : State} {bad : Option (Fin 2)} {s : State} (hK : Keeps s0 s) :
    Goes s0 (execSramBankTest bad s) := by
  rw [show @execSramBankTest = _ from by delta execSramBankTest; rfl]
  refine goes_next ?_
  refine keeps_maintBegin (fun a1_0 y1 h1 => ?_) ?_
  · split
    · refine keeps_maintFail ?_
      refine keeps_fault ?_
      refine keeps_marchTest ?_
      assumption
    · refine keeps_marchTest ?_
      assumption
  · assumption

theorem keeps_execLogExport {s0 : State} {s : State} (hK : Keeps s0 s) :
    Goes s0 (execLogExport s) := by
  rw [show @execLogExport = _ from by delta execLogExport; rfl]
  refine goes_next ?_
  refine keeps_maintBegin (fun a1_0 y1 h1 => ?_) ?_
  · refine keeps_loopN (fun a2_0 y2 h2 => ?_) ?_
    · refine keeps_devWrite ?_
      assumption
    · assumption
  · assumption

theorem keeps_execOffStateDiagnostics {s0 : State} {s : State} (hK : Keeps s0 s) :
    Goes s0 (execOffStateDiagnostics s) := by
  rw [show @execOffStateDiagnostics = _ from by delta execOffStateDiagnostics; rfl]
  refine goes_next ?_
  refine keeps_maintBegin (fun a1_0 y1 h1 => ?_) ?_
  · extract_lets +onlyGivenNames -underBinder -merge x2
    try clear_value x2
    refine keeps_ite ?_ ?_
    · refine keeps_diagStart ?_
      refine keeps_put ?_
      assumption
    · refine keeps_maintFail ?_
      refine keeps_coxBusFault ?_
      assumption
  · assumption

theorem keeps_execEncoderCalibration {s0 : State} {s : State} (hK : Keeps s0 s) :
    Goes s0 (execEncoderCalibration s) := by
  rw [show @execEncoderCalibration = _ from by delta execEncoderCalibration; rfl]
  refine goes_next ?_
  refine keeps_maintBegin (fun a1_0 y1 h1 => ?_) ?_
  · split
    · rename_i heq
      have h2 := keeps_of_eqP (s0 := s0) heq (by
        refine keeps_coxBytes ?_
        assumption)
      extract_lets +onlyGivenNames -underBinder -merge x3
      have h3 : Keeps s0 x3 := by
        subst x3
        refine keeps_addChunks ?_
        assumption
      try clear_value x3
      refine keeps_addChunks ?_
      assumption
    · rename_i heq
      have h4 := keeps_of_eqP (s0 := s0) heq (by
        refine keeps_coxBytes ?_
        assumption)
      refine keeps_maintFail ?_
      assumption
  · assumption

theorem keeps_execMaintenanceActivityEnd {s0 : State} {act crew : Byte} {s : State} (hK : Keeps s0 s) :
    Goes s0 (execMaintenanceActivityEnd act crew s) := by
  rw [show @execMaintenanceActivityEnd = _ from by delta execMaintenanceActivityEnd; rfl]
  split
  · refine goes_next ?_
    assumption
  · refine goes_ite ?_ ?_
    · refine goes_next ?_
      assumption
    · extract_lets +onlyGivenNames -underBinder -merge x1
      have h1 : Keeps s0 x1 := by
        subst x1
        refine keeps_mk ?_
        assumption
      try clear_value x1
      extract_lets +onlyGivenNames -underBinder -merge x2
      have h2 : Keeps s0 x2 := by
        subst x2
        refine keeps_logRec ?_
        assumption
      try clear_value x2
      extract_lets +onlyGivenNames -underBinder -merge x3
      have h3 : Keeps s0 x3 := by
        subst x3
        refine keeps_ite ?_ ?_
        · refine keeps_logFw ?_
          assumption
        · assumption
      try clear_value x3
      extract_lets +onlyGivenNames -underBinder -merge x4
      have h4 : Keeps s0 x4 := by
        subst x4
        refine keeps_ite ?_ ?_
        · refine keeps_compactionEnd ?_
          assumption
        · assumption
      try clear_value x4
      extract_lets +onlyGivenNames -underBinder -merge x5
      have h5 : Keeps s0 x5 := by
        subst x5
        split
        · refine keeps_put ?_
          assumption
        · split
          · refine keeps_orderDone ?_
            assumption
          · assumption
        · assumption
      try clear_value x5
      refine goes_next ?_
      refine keeps_askCompaction ?_
      refine keeps_maintScan ?_
      assumption

theorem keeps_execFwConfirm {s0 : State} {v : Word} {s : State} (hK : Keeps s0 s) :
    Goes s0 (execFwConfirm v s) := by
  rw [show @execFwConfirm = _ from by delta execFwConfirm; rfl]
  refine keeps_onRegW (fun a1_0 y1 h1 => ?_) ?_
  · refine goes_next ?_
    refine keeps_ite ?_ ?_
    · refine keeps_fwConfirm ?_
      assumption
    · assumption
  · assumption

theorem keeps_execLcsWrite {s0 : State} {v : Word} {s : State} (hK : Keeps s0 s) :
    Goes s0 (execLcsWrite v s) := by
  rw [show @execLcsWrite = _ from by delta execLcsWrite; rfl]
  refine keeps_onRegW (fun a1_0 y1 h1 => ?_) ?_
  · refine goes_next ?_
    refine keeps_lcsWrite ?_
    assumption
  · assumption

theorem keeps_execSeSwapGo {s0 : State} {v : Word} {s : State} (hK : Keeps s0 s) :
    Goes s0 (execSeSwapGo v s) := by
  rw [show @execSeSwapGo = _ from by delta execSeSwapGo; rfl]
  refine keeps_onRegW (fun a1_0 y1 h1 => ?_) ?_
  · refine goes_next ?_
    refine keeps_seSwap ?_
    assumption
  · assumption

theorem keeps_swapEnd {s0 : State} {s : State} {res : Nat} (hK : Keeps s0 s) :
    Keeps s0 (State.swapEnd s res) := by
  rw [show @State.swapEnd = _ from by delta State.swapEnd; rfl]
  refine keeps_put ?_
  refine keeps_mk ?_
  assumption

theorem keeps_swapSlots {s0 : State} {s : State} {home q : Nat} (hK : Keeps s0 s) :
    Keeps s0 (State.swapSlots s home q) := by
  rw [show @State.swapSlots = _ from by delta State.swapSlots; rfl]
  extract_lets +onlyGivenNames -underBinder -merge x1
  try clear_value x1
  extract_lets +onlyGivenNames -underBinder -merge x2
  try clear_value x2
  refine keeps_mk ?_
  assumption

theorem keeps_swapCatch {s0 : State} {s : State} {q home key oldId : Nat} (hK : Keeps s0 s) :
    Keeps s0 (State.swapCatch s q home key oldId).2 := by
  rw [show @State.swapCatch = _ from by delta State.swapCatch; rfl]
  extract_lets +onlyGivenNames -underBinder -merge x1
  try clear_value x1
  split
  · extract_lets +onlyGivenNames -underBinder -merge x2
    have h2 : Keeps s0 x2 := by
      subst x2
      refine keeps_setTask ?_
      assumption
    try clear_value x2
    split
    · refine keeps_snd ?_
      refine keeps_setPair ?_
      assumption
    · refine keeps_snd ?_
      assumption

theorem keeps_liveReplace {s0 : State} {s : State} {w : SwapRec} (hK : Keeps s0 s) :
    Keeps s0 (State.liveReplace s w) := by
  rw [show @State.liveReplace = _ from by delta State.liveReplace; rfl]
  extract_lets +onlyGivenNames -underBinder -merge x1
  try clear_value x1
  extract_lets +onlyGivenNames -underBinder -merge x2
  try clear_value x2
  extract_lets +onlyGivenNames -underBinder -merge x3
  try clear_value x3
  extract_lets +onlyGivenNames -underBinder -merge x4
  try clear_value x4
  extract_lets +onlyGivenNames -underBinder -merge x5
  try clear_value x5
  extract_lets +onlyGivenNames -underBinder -merge x6
  try clear_value x6
  extract_lets +onlyGivenNames -underBinder -merge x7
  have h7 : Keeps s0 x7 := by
    subst x7
    refine keeps_put ?_
    assumption
  try clear_value x7
  extract_lets +onlyGivenNames -underBinder -merge x8
  have h8 : Keeps s0 x8 := by
    subst x8
    refine keeps_setPairSt ?_
    assumption
  try clear_value x8
  extract_lets +onlyGivenNames -underBinder -merge x9
  have h9 : Keeps s0 x9 := by
    subst x9
    refine keeps_setImage ?_
    refine keeps_swapSlots ?_
    assumption
  try clear_value x9
  extract_lets +onlyGivenNames -underBinder -merge x10
  try clear_value x10
  extract_lets +onlyGivenNames -underBinder -merge x11
  have h11 : Keeps s0 x11 := by
    subst x11
    refine keeps_setPair ?_
    assumption
  try clear_value x11
  split
  · rename_i heq
    have h12 := keeps_of_eqP (s0 := s0) heq (by
      refine keeps_foldlP (fun acc13 a13 h13 => ?_) ?_
      · split
        · rename_i heq
          have h14 := keeps_of_eqP (s0 := s0) heq (by
            refine keeps_swapCatch ?_
            assumption)
          refine keeps_snd ?_
          assumption
      · refine keeps_snd ?_
        assumption)
    extract_lets +onlyGivenNames -underBinder -merge x15
    have h15 : Keeps s0 x15 := by
      subst x15
      refine keeps_advance ?_
      assumption
    try clear_value x15
    extract_lets +onlyGivenNames -underBinder -merge x16
    have h16 : Keeps s0 x16 := by
      subst x16
      refine keeps_setPairSt ?_
      refine keeps_put ?_
      assumption
    try clear_value x16
    extract_lets +onlyGivenNames -underBinder -merge x17
    have h17 : Keeps s0 x17 := by
      subst x17
      refine keeps_loopL (fun a18_0 y18 h18 => ?_) ?_
      · refine keeps_startInitial ?_
        assumption
      · assumption
    try clear_value x17
    refine keeps_fault ?_
    refine keeps_swapEnd ?_
    assumption

theorem keeps_execLiveReplacementInstant {s0 : State} {s : State} (hK : Keeps s0 s) :
    Goes s0 (execLiveReplacementInstant s) := by
  rw [show @execLiveReplacementInstant = _ from by delta execLiveReplacementInstant; rfl]
  split
  · refine goes_next ?_
    assumption
  · refine goes_ite ?_ ?_
    · refine goes_next ?_
      refine keeps_liveReplace ?_
      assumption
    · refine goes_next ?_
      assumption

theorem keeps_execLiveSwapTimeout {s0 : State} {s : State} (hK : Keeps s0 s) :
    Goes s0 (execLiveSwapTimeout s) := by
  rw [show @execLiveSwapTimeout = _ from by delta execLiveSwapTimeout; rfl]
  split
  · refine goes_next ?_
    assumption
  · refine goes_next ?_
    refine keeps_fault ?_
    refine keeps_swapEnd ?_
    refine keeps_until ?_
    assumption

theorem keeps_writeDump {s0 : State} {s : State} {trigger : Nat} {cox stack : List Byte} {res : WrRes} (hK : Keeps s0 s) :
    Keeps s0 (State.writeDump s trigger cox stack res).2 := by
  rw [show @State.writeDump = _ from by delta State.writeDump; rfl]
  refine keeps_iteP ?_ ?_
  · refine keeps_snd ?_
    assumption
  · split
    · refine keeps_snd ?_
      refine keeps_fault ?_
      assumption
    · extract_lets +onlyGivenNames -underBinder -merge x1
      try clear_value x1
      extract_lets +onlyGivenNames -underBinder -merge x2
      try clear_value x2
      extract_lets +onlyGivenNames -underBinder -merge x3
      try clear_value x3
      extract_lets +onlyGivenNames -underBinder -merge x4
      have h4 : Keeps s0 x4 := by
        subst x4
        refine keeps_mramWrite ?_
        refine keeps_mramWrite ?_
        assumption
      try clear_value x4
      split
      · refine keeps_snd ?_
        refine keeps_fault ?_
        refine keeps_retryL ?_
        assumption
      · extract_lets +onlyGivenNames -underBinder -merge x5
        have h5 : Keeps s0 x5 := by
          subst x5
          refine keeps_ite ?_ ?_
          · refine keeps_retryT ?_
            assumption
          · assumption
        try clear_value x5
        extract_lets +onlyGivenNames -underBinder -merge x6
        have h6 : Keeps s0 x6 := by
          subst x6
          refine keeps_mramWrite ?_
          assumption
        try clear_value x6
        refine keeps_snd ?_
        refine keeps_logRec ?_
        refine keeps_fault ?_
        assumption

theorem keeps_fatal {s0 : State} {s : State} {trigger : Nat} {cox stack : List Byte} {res : WrRes} (hK : Keeps s0 s) :
    Keeps s0 (State.fatal s trigger cox stack res) := by
  rw [show @State.fatal = _ from by delta State.fatal; rfl]
  refine keeps_ite ?_ ?_
  · assumption
  · refine keeps_startReset ?_
    refine keeps_writeDump ?_
    assumption

theorem keeps_execCapsizeDump {s0 : State} {cox stack : List Byte} {res : WrRes} {s : State} (hK : Keeps s0 s) :
    Goes s0 (execCapsizeDump cox stack res s) := by
  rw [show @execCapsizeDump = _ from by delta execCapsizeDump; rfl]
  refine goes_ite ?_ ?_
  · refine goes_next ?_
    refine keeps_fatal ?_
    assumption
  · refine goes_next ?_
    refine keeps_maintBegin (fun a1_0 y1 h1 => ?_) ?_
    · split
      · rename_i heq
        have h2 := keeps_of_eqP (s0 := s0) heq (by
          refine keeps_writeDump ?_
          assumption)
        assumption
      · rename_i heq
        have h3 := keeps_of_eqP (s0 := s0) heq (by
          refine keeps_writeDump ?_
          assumption)
        refine keeps_maintFail ?_
        assumption
    · assumption

theorem keeps_execCoxException {s0 : State} {cox stack : List Byte} {res : WrRes} {s : State} (hK : Keeps s0 s) :
    Goes s0 (execCoxException cox stack res s) := by
  rw [show @execCoxException = _ from by delta execCoxException; rfl]
  refine goes_next ?_
  refine keeps_fatal ?_
  assumption

theorem keeps_execFirmwareAssertion {s0 : State} {cox stack : List Byte} {res : WrRes} {s : State} (hK : Keeps s0 s) :
    Goes s0 (execFirmwareAssertion cox stack res s) := by
  rw [show @execFirmwareAssertion = _ from by delta execFirmwareAssertion; rfl]
  refine goes_next ?_
  refine keeps_fatal ?_
  assumption

end Sys2Proof.Machine
end

