-- ==== Sys2Proof/Laws/KeepsPinCmds.lean ====
section
/-! SUPPORT. Laws/KeepsPinCmds.lean: what the operations of Machine/PinCmds.lean keep. -/
namespace Sys2Proof.Machine

theorem keeps_execGpioOutWrite {s0 : State} {owner : Byte} {v : Word} {s : State} (hK : Keeps s0 s) :
    Goes s0 (execGpioOutWrite owner v s) := by
  rw [show @execGpioOutWrite = _ from by delta execGpioOutWrite; rfl]
  refine keeps_onRegW (fun a1_0 y1 h1 => ?_) ?_
  · refine goes_next ?_
    refine keeps_gpioWrite ?_
    assumption
  · assumption

theorem keeps_execGpioOeWrite {s0 : State} {owner : Byte} {v : Word} {s : State} (hK : Keeps s0 s) :
    Goes s0 (execGpioOeWrite owner v s) := by
  rw [show @execGpioOeWrite = _ from by delta execGpioOeWrite; rfl]
  refine keeps_onRegW (fun a1_0 y1 h1 => ?_) ?_
  · refine goes_next ?_
    refine keeps_gpioWrite ?_
    assumption
  · assumption

theorem keeps_execAuxCfgWrite {s0 : State} {a : Oct} {v : Word} {s : State} (hK : Keeps s0 s) :
    Goes s0 (execAuxCfgWrite a v s) := by
  rw [show @execAuxCfgWrite = _ from by delta execAuxCfgWrite; rfl]
  refine keeps_onRegW (fun a1_0 y1 h1 => ?_) ?_
  · refine goes_next ?_
    refine keeps_auxCfg ?_
    assumption
  · assumption

theorem keeps_execAuxStart {s0 : State} {a : Oct} {s : State} (hK : Keeps s0 s) :
    Goes s0 (execAuxStart a s) := by
  rw [show @execAuxStart = _ from by delta execAuxStart; rfl]
  refine goes_onReg (fun y1 h1 => ?_) ?_
  · refine goes_next ?_
    refine keeps_auxStart ?_
    assumption
  · assumption

theorem keeps_auxConvert {s0 : State} {s : State} {a : Nat} (hK : Keeps s0 s) :
    Keeps s0 (State.auxConvert s a) := by
  rw [show @State.auxConvert = _ from by delta State.auxConvert; rfl]
  extract_lets +onlyGivenNames -underBinder -merge x1
  try clear_value x1
  extract_lets +onlyGivenNames -underBinder -merge x2
  have h2 : Keeps s0 x2 := by
    subst x2
    refine keeps_until ?_
    assumption
  try clear_value x2
  extract_lets +onlyGivenNames -underBinder -merge x3
  have h3 : Keeps s0 x3 := by
    subst x3
    refine keeps_mk ?_
    assumption
  try clear_value x3
  refine keeps_wr ?_
  assumption

theorem keeps_auxSample {s0 : State} {s : State} {a v : Nat} (hK : Keeps s0 s) :
    Keeps s0 (State.auxSample s a v) := by
  rw [show @State.auxSample = _ from by delta State.auxSample; rfl]
  extract_lets +onlyGivenNames -underBinder -merge x1
  try clear_value x1
  extract_lets +onlyGivenNames -underBinder -merge x2
  try clear_value x2
  refine keeps_ite ?_ ?_
  · refine keeps_auxShow ?_
    refine keeps_setAux ?_
    assumption
  · refine keeps_auxShow ?_
    refine keeps_setAux ?_
    assumption

theorem keeps_execAuxConversion {s0 : State} {a : Oct} {v : BitVec 16} {s : State} (hK : Keeps s0 s) :
    Goes s0 (execAuxConversion a v s) := by
  rw [show @execAuxConversion = _ from by delta execAuxConversion; rfl]
  refine goes_ite ?_ ?_
  · refine goes_next ?_
    assumption
  · extract_lets +onlyGivenNames -underBinder -merge x1
    try clear_value x1
    refine goes_ite ?_ ?_
    · refine goes_next ?_
      refine keeps_auxShow ?_
      refine keeps_setAux ?_
      refine keeps_incSat ?_
      assumption
    · refine goes_ite ?_ ?_
      · refine goes_next ?_
        assumption
      · refine goes_next ?_
        refine keeps_auxSample ?_
        refine keeps_auxConvert ?_
        assumption

theorem keeps_auxPut {s0 : State} {s : State} {a v : Nat} (hK : Keeps s0 s) :
    Keeps s0 (State.auxPut s a v) := by
  rw [show @State.auxPut = _ from by delta State.auxPut; rfl]
  extract_lets +onlyGivenNames -underBinder -merge x1
  have h1 : Keeps s0 x1 := by
    subst x1
    refine keeps_ite ?_ ?_
    · refine keeps_putB ?_
      assumption
    · assumption
  try clear_value x1
  refine keeps_putB ?_
  refine keeps_putB ?_
  refine keeps_put ?_
  assumption

theorem keeps_auxLimit {s0 : State} {s : State} {a v : Nat} (hK : Keeps s0 s) :
    Keeps s0 (State.auxLimit s a v) := by
  rw [show @State.auxLimit = _ from by delta State.auxLimit; rfl]
  extract_lets +onlyGivenNames -underBinder -merge x1
  have h1 : Keeps s0 x1 := by
    subst x1
    refine keeps_ite ?_ ?_
    · refine keeps_fault ?_
      refine keeps_raiseBit ?_
      assumption
    · assumption
  try clear_value x1
  refine keeps_setAux ?_
  assumption

theorem keeps_auxSeriesEnd {s0 : State} {s : State} {a : Nat} (hK : Keeps s0 s) :
    Keeps s0 (State.auxSeriesEnd s a) := by
  rw [show @State.auxSeriesEnd = _ from by delta State.auxSeriesEnd; rfl]
  refine keeps_auxShow ?_
  refine keeps_ite ?_ ?_
  · refine keeps_putB ?_
    assumption
  · assumption

theorem keeps_execAuxResult {s0 : State} {a : Oct} {s : State} (hK : Keeps s0 s) :
    Goes s0 (execAuxResult a s) := by
  rw [show @execAuxResult = _ from by delta execAuxResult; rfl]
  split
  · refine goes_next ?_
    assumption
  · refine goes_ite ?_ ?_
    · refine goes_next ?_
      refine keeps_auxSeriesEnd ?_
      refine keeps_auxLimit ?_
      refine keeps_auxPut ?_
      refine keeps_until ?_
      assumption
    · refine goes_next ?_
      assumption

theorem keeps_execAuxResRead {s0 : State} {a : Oct} {s : State} (hK : Keeps s0 s) :
    Goes s0 (execAuxResRead a s) := by
  rw [show @execAuxResRead = _ from by delta execAuxResRead; rfl]
  refine goes_onRegRead (fun y1 h1 => ?_) ?_
  · split
    · rename_i heq
      have h2 := keeps_of_eqP (s0 := s0) heq (by
        refine keeps_auxRead ?_
        assumption)
      refine goes_next ?_
      refine keeps_mk ?_
      assumption
  · assumption

end Sys2Proof.Machine
end

