-- ==== Sys2Proof/Laws/KeepsJtagCmds.lean ====
section
/-! SUPPORT. Laws/KeepsJtagCmds.lean: what the operations of Machine/JtagCmds.lean keep. -/
namespace Sys2Proof.Machine

theorem keeps_jtagRelease {s0 : State} {s : State} (hK : Keeps s0 s) :
    Keeps s0 (State.jtagRelease s) := by
  rw [show @State.jtagRelease = _ from by delta State.jtagRelease; rfl]
  refine keeps_releaseReset ?_
  assumption

theorem keeps_jtagIr {s0 : State} {s : State} {code : Nat} (hK : Keeps s0 s) :
    Keeps s0 (State.jtagIr s code) := by
  rw [show @State.jtagIr = _ from by delta State.jtagIr; rfl]
  refine keeps_mk ?_
  assumption

theorem keeps_tapOut {s0 : State} {s : State} {n : Nat} (hK : Keeps s0 s) :
    Keeps s0 (State.tapOut s n) := by
  rw [show @State.tapOut = _ from by delta State.tapOut; rfl]
  refine keeps_mk ?_
  assumption

theorem keeps_tapScan {s0 : State} {s : State} {pins tdi : Nat} (hK : Keeps s0 s) :
    Keeps s0 (State.tapScan s pins tdi) := by
  rw [show @State.tapScan = _ from by delta State.tapScan; rfl]
  refine keeps_mk ?_
  assumption

theorem keeps_jtagBypass {s0 : State} {s : State} {tdi : Nat} (hK : Keeps s0 s) :
    Keeps s0 (State.jtagBypass s tdi) := by
  rw [show @State.jtagBypass = _ from by delta State.jtagBypass; rfl]
  refine keeps_tapOut ?_
  assumption

theorem keeps_execTapReset {s0 : State} {s : State} (hK : Keeps s0 s) :
    Goes s0 (execTapReset s) := by
  rw [show @execTapReset = _ from by delta execTapReset; rfl]
  refine goes_ite ?_ ?_
  · refine goes_next ?_
    refine keeps_jtagIr ?_
    refine keeps_jtagRelease ?_
    assumption
  · refine goes_next ?_
    assumption

theorem keeps_execIdcode {s0 : State} {s : State} (hK : Keeps s0 s) :
    Goes s0 (execIdcode s) := by
  rw [show @execIdcode = _ from by delta execIdcode; rfl]
  refine goes_ite ?_ ?_
  · refine goes_next ?_
    assumption
  · extract_lets +onlyGivenNames -underBinder -merge x1
    have h1 : Keeps s0 x1 := by
      subst x1
      refine keeps_jtagIr ?_
      refine keeps_jtagRelease ?_
      assumption
    try clear_value x1
    refine goes_next ?_
    refine keeps_mk ?_
    assumption

theorem keeps_execSamplePreload {s0 : State} {pins tdi : BitVec 750} {s : State} (hK : Keeps s0 s) :
    Goes s0 (execSamplePreload pins tdi s) := by
  rw [show @execSamplePreload = _ from by delta execSamplePreload; rfl]
  refine goes_ite ?_ ?_
  · refine goes_next ?_
    assumption
  · extract_lets +onlyGivenNames -underBinder -merge x1
    have h1 : Keeps s0 x1 := by
      subst x1
      refine keeps_jtagIr ?_
      refine keeps_jtagRelease ?_
      assumption
    try clear_value x1
    refine goes_ite ?_ ?_
    · refine goes_next ?_
      refine keeps_tapScan ?_
      assumption
    · refine goes_next ?_
      refine keeps_jtagBypass ?_
      assumption

theorem keeps_jtagHold {s0 : State} {s : State} {code : Nat} (hK : Keeps s0 s) :
    Keeps s0 (State.jtagHold s code).2 := by
  rw [show @State.jtagHold = _ from by delta State.jtagHold; rfl]
  refine keeps_iteP ?_ ?_
  · refine keeps_snd ?_
    refine keeps_holdReset ?_
    refine keeps_jtagIr ?_
    assumption
  · refine keeps_snd ?_
    refine keeps_jtagIr ?_
    refine keeps_jtagRelease ?_
    assumption

theorem keeps_execExtest {s0 : State} {pins tdi : BitVec 750} {s : State} (hK : Keeps s0 s) :
    Goes s0 (execExtest pins tdi s) := by
  rw [show @execExtest = _ from by delta execExtest; rfl]
  refine goes_ite ?_ ?_
  · refine goes_next ?_
    assumption
  · split
    · rename_i heq
      have h1 := keeps_of_eqP (s0 := s0) heq (by
        refine keeps_jtagHold ?_
        assumption)
      refine goes_next ?_
      refine keeps_tapScan ?_
      assumption
    · rename_i heq
      have h2 := keeps_of_eqP (s0 := s0) heq (by
        refine keeps_jtagHold ?_
        assumption)
      refine goes_next ?_
      refine keeps_jtagBypass ?_
      assumption

theorem keeps_execClamp {s0 : State} {s : State} (hK : Keeps s0 s) :
    Goes s0 (execClamp s) := by
  rw [show @execClamp = _ from by delta execClamp; rfl]
  refine goes_ite ?_ ?_
  · refine goes_next ?_
    refine keeps_jtagHold ?_
    assumption
  · refine goes_next ?_
    assumption

theorem keeps_execHighz {s0 : State} {s : State} (hK : Keeps s0 s) :
    Goes s0 (execHighz s) := by
  rw [show @execHighz = _ from by delta execHighz; rfl]
  refine goes_ite ?_ ?_
  · refine goes_next ?_
    refine keeps_jtagHold ?_
    assumption
  · refine goes_next ?_
    assumption

theorem keeps_execChal {s0 : State} {s : State} (hK : Keeps s0 s) :
    Goes s0 (execChal s) := by
  rw [show @execChal = _ from by delta execChal; rfl]
  refine goes_ite ?_ ?_
  · refine goes_next ?_
    assumption
  · extract_lets +onlyGivenNames -underBinder -merge x1
    have h1 : Keeps s0 x1 := by
      subst x1
      refine keeps_jtagIr ?_
      refine keeps_jtagRelease ?_
      assumption
    try clear_value x1
    refine goes_next ?_
    refine keeps_tapOut ?_
    assumption

theorem keeps_enterReturned {s0 : State} {s : State} (hK : Keeps s0 s) :
    Keeps s0 (State.enterReturned s) := by
  rw [show @State.enterReturned = _ from by delta State.enterReturned; rfl]
  extract_lets +onlyGivenNames -underBinder -merge x1
  have h1 : Keeps s0 x1 := by
    subst x1
    refine keeps_keyWrite ?_
    refine keeps_keyWrite ?_
    assumption
  try clear_value x1
  refine keeps_showJtag ?_
  refine keeps_showFw ?_
  refine keeps_logRec ?_
  assumption

theorem keeps_jtagAnswer {s0 : State} {s : State} {op : Nat} {r t : List Byte} (hK : Keeps s0 s) :
    Keeps s0 (State.jtagAnswer s op r t) := by
  rw [show @State.jtagAnswer = _ from by delta State.jtagAnswer; rfl]
  refine keeps_ite ?_ ?_
  · assumption
  · extract_lets +onlyGivenNames -underBinder -merge x1
    try clear_value x1
    extract_lets +onlyGivenNames -underBinder -merge x2
    try clear_value x2
    extract_lets +onlyGivenNames -underBinder -merge x3
    have h3 : Keeps s0 x3 := by
      subst x3
      split
      · refine keeps_put ?_
        assumption
      · extract_lets +onlyGivenNames -underBinder -merge x4
        have h4 : Keeps s0 x4 := by
          subst x4
          refine keeps_ite ?_ ?_
          · refine keeps_showJtag ?_
            refine keeps_logRec ?_
            refine keeps_mk ?_
            assumption
          · refine keeps_enterReturned ?_
            assumption
        try clear_value x4
        refine keeps_fault ?_
        assumption
    try clear_value x3
    refine keeps_newNonce ?_
    assumption

theorem keeps_execAnswer {s0 : State} {data : BitVec 776} {s : State} (hK : Keeps s0 s) :
    Goes s0 (execAnswer data s) := by
  rw [show @execAnswer = _ from by delta execAnswer; rfl]
  refine goes_ite ?_ ?_
  · refine goes_next ?_
    assumption
  · extract_lets +onlyGivenNames -underBinder -merge x1
    have h1 : Keeps s0 x1 := by
      subst x1
      refine keeps_jtagIr ?_
      refine keeps_jtagRelease ?_
      assumption
    try clear_value x1
    extract_lets +onlyGivenNames -underBinder -merge x2
    try clear_value x2
    refine goes_ite ?_ ?_
    · refine goes_next ?_
      refine keeps_jtagAnswer ?_
      assumption
    · refine goes_next ?_
      assumption

theorem keeps_rloadWrite {s0 : State} {s : State} {slot off : Nat} {l : List Byte} {res : WrRes} (hK : Keeps s0 s) :
    Keeps s0 (State.rloadWrite s slot off l res) := by
  rw [show @State.rloadWrite = _ from by delta State.rloadWrite; rfl]
  split
  · extract_lets +onlyGivenNames -underBinder -merge x1
    have h1 : Keeps s0 x1 := by
      subst x1
      refine keeps_fault ?_
      refine keeps_retryL ?_
      assumption
    try clear_value x1
    refine keeps_mk ?_
    assumption
  · refine keeps_mramWrite ?_
    refine keeps_retryT ?_
    assumption
  · refine keeps_mramWrite ?_
    assumption

theorem keeps_execRload {s0 : State} {slot : Bool} {off : Word} {data : BitVec 64} {res : WrRes} {s : State} (hK : Keeps s0 s) :
    Goes s0 (execRload slot off data res s) := by
  rw [show @execRload = _ from by delta execRload; rfl]
  refine goes_ite ?_ ?_
  · refine goes_next ?_
    assumption
  · extract_lets +onlyGivenNames -underBinder -merge x1
    have h1 : Keeps s0 x1 := by
      subst x1
      refine keeps_jtagIr ?_
      refine keeps_jtagRelease ?_
      assumption
    try clear_value x1
    extract_lets +onlyGivenNames -underBinder -merge x2
    try clear_value x2
    refine goes_ite ?_ ?_
    · refine goes_next ?_
      refine keeps_jtagBypass ?_
      assumption
    · refine goes_ite ?_ ?_
      · refine goes_next ?_
        refine keeps_tapOut ?_
        assumption
      · refine goes_next ?_
        refine keeps_rloadWrite ?_
        refine keeps_tapOut ?_
        assumption

theorem keeps_execSysrst {s0 : State} {s : State} (hK : Keeps s0 s) :
    Goes s0 (execSysrst s) := by
  rw [show @execSysrst = _ from by delta execSysrst; rfl]
  refine goes_ite ?_ ?_
  · refine goes_next ?_
    assumption
  · extract_lets +onlyGivenNames -underBinder -merge x1
    have h1 : Keeps s0 x1 := by
      subst x1
      refine keeps_jtagIr ?_
      refine keeps_jtagRelease ?_
      assumption
    try clear_value x1
    refine goes_ite ?_ ?_
    · refine goes_next ?_
      refine keeps_startReset ?_
      assumption
    · refine goes_next ?_
      assumption

theorem keeps_execKeywr {s0 : State} {target : Byte} {data : BitVec 768} {s : State} (hK : Keeps s0 s) :
    Goes s0 (execKeywr target data s) := by
  rw [show @execKeywr = _ from by delta execKeywr; rfl]
  refine goes_ite ?_ ?_
  · refine goes_next ?_
    assumption
  · extract_lets +onlyGivenNames -underBinder -merge x1
    have h1 : Keeps s0 x1 := by
      subst x1
      refine keeps_jtagIr ?_
      refine keeps_jtagRelease ?_
      assumption
    try clear_value x1
    refine goes_ite ?_ ?_
    · refine goes_next ?_
      refine keeps_jtagBypass ?_
      assumption
    · extract_lets +onlyGivenNames -underBinder -merge x2
      try clear_value x2
      extract_lets +onlyGivenNames -underBinder -merge x3
      try clear_value x3
      refine goes_ite ?_ ?_
      · refine goes_next ?_
        assumption
      · refine goes_ite ?_ ?_
        · refine goes_next ?_
          refine keeps_fault ?_
          assumption
        · refine goes_ite ?_ ?_
          · refine goes_next ?_
            refine keeps_logRec ?_
            refine keeps_keyWrite ?_
            refine keeps_keyWrite ?_
            assumption
          · refine goes_ite ?_ ?_
            · refine goes_next ?_
              refine keeps_logRec ?_
              refine keeps_keyWrite ?_
              refine keeps_keyWrite ?_
              assumption
            · refine goes_ite ?_ ?_
              · refine goes_next ?_
                refine keeps_logRec ?_
                refine keeps_keyWrite ?_
                assumption
              · refine goes_next ?_
                assumption

theorem keeps_execBypass {s0 : State} {tdi : Bool} {s : State} (hK : Keeps s0 s) :
    Goes s0 (execBypass tdi s) := by
  rw [show @execBypass = _ from by delta execBypass; rfl]
  refine goes_ite ?_ ?_
  · refine goes_next ?_
    refine keeps_jtagBypass ?_
    refine keeps_jtagIr ?_
    refine keeps_jtagRelease ?_
    assumption
  · refine goes_next ?_
    assumption

end Sys2Proof.Machine
end

