-- ==== Sys2Proof/Laws/Words.lean ====
section
/-! SUPPORT. Laws/Words.lean: the words that the statements use, and the operations they stand for. -/
namespace Sys2Proof.Machine

/-- A register write with its domain on reaches the register. -/
theorem onReg_up {s : State} {a : Nat} {f : State → Out} (h : s.up a) : s.onReg a f = f s := by
  unfold State.onReg; exact if_pos h

theorem onRegRead_up {s : State} {a : Nat} {f : State → Out} (h : s.up a) : s.onRegRead a f = f s := by
  unfold State.onRegRead; exact if_pos h

/-- With its domain off it is refused with 0x0104. -/
theorem onReg_down {s : State} {a : Nat} {f : State → Out} (h : ¬ s.up a) : s.onReg a f = .next (s.coxBusFault 0x0104 a) := by
  unfold State.onReg; exact if_neg h

/-- With no claim unanswered there is nothing to settle. -/
theorem settleClaim_answered {s : State} {p : Nat} (h : (s.pair p).claimWait = false) : s.settleClaim p = s := by
  unfold State.settleClaim loopN
  generalize List.range s.claimReqs.length = l
  induction l with
  | nil => rfl
  | cons a r ih =>
    rw [List.foldl_cons]
    dsimp only
    rw [h]
    exact ih

/-- What an issued instruction answers for each way its effect on the task can end. -/
def IRes.out (s0 : State) (p : PairNo) (key : Nat) : IRes → Out
  | .ok s c cyc pc => .next (s.retire p key (c.step pc) cyc)
  | .fin s c =>
    .next ((s.retire p key (c.step .seq) 1).endActivation key (!((s.retire p key (c.step .seq) 1).task key).unclean))
  | .trap s code soft tval => .next (s.trap key code soft tval)
  | .wait s => .next s
  | .ue => .next (s0.pairFault p 0x0202)

/-- An instruction of a pair that issues, with legal fields, is its effect on the task. -/
theorem runI_issues {p : PairNo} {key : Nat} {s : State} {word : Word} {legal v2 : Bool} {f : State → Nat → Ctx → IRes}
    (h : Issues p key s) (hl : legal = true) (hv : (v2 && s.onnus1 key) = false) :
    runI p word legal v2 f s = (f s key (s.task key).ctx).out s p key := by
  unfold runI
  rw [settleClaim_answered h.answered]
  dsimp only
  rw [if_pos h.runs, h.task]
  dsimp only
  rw [h.word]
  refine (if_neg h.left).trans ((if_neg (by rw [hl, hv]; simp)).trans ?_)
  cases f s key (s.task key).ctx <;> rfl

/-- With an illegal field it takes TRAP_ILLEGAL. -/
theorem runI_illegal {p : PairNo} {key : Nat} {s : State} {word : Word} {legal v2 : Bool} {f : State → Nat → Ctx → IRes}
    (h : Issues p key s) (hl : legal = false) : runI p word legal v2 f s = .next (s.trap key 0x0220 0 word) := by
  unfold runI
  rw [settleClaim_answered h.answered]
  dsimp only
  rw [if_pos h.runs, h.task]
  dsimp only
  rw [h.word]
  refine (if_neg h.left).trans (if_pos (by rw [hl]; rfl))

/-- In an image of Onnus 1 an instruction it lacks takes TRAP_ILLEGAL too (R132). -/
theorem runI_missing {p : PairNo} {key : Nat} {s : State} {word : Word} {legal : Bool} {f : State → Nat → Ctx → IRes}
    (h : Issues p key s) (hv : s.onnus1 key = true) : runI p word legal true f s = .next (s.trap key 0x0220 0 word) := by
  unfold runI
  rw [settleClaim_answered h.answered]
  dsimp only
  rw [if_pos h.runs, h.task]
  dsimp only
  rw [h.word]
  refine (if_neg h.left).trans (if_pos (by rw [hv]; simp))

/-- An issued instruction on the task's registers. -/
theorem runReg_issues {p : PairNo} {key : Nat} {s : State} {word : Word} {legal v2 : Bool} {cyc : Nat} {f : Ctx → Ctx}
    (h : Issues p key s) (hl : legal = true) (hv : (v2 && s.onnus1 key) = false) :
    runReg p word legal v2 cyc f s = .next (s.retire p key ((f (s.ctx key)).step .seq) cyc) := by
  unfold runReg; exact runI_issues h hl hv

/-- An issued instruction that completes. -/
theorem runI_ok {p : PairNo} {key : Nat} {s t : State} {word : Word} {legal v2 : Bool} {f : State → Nat → Ctx → IRes} {c : Ctx}
    {cyc : Nat} {pc : PcAct} (h : Issues p key s) (hl : legal = true) (hv : (v2 && s.onnus1 key) = false)
    (hf : f s key (s.ctx key) = .ok t c cyc pc) : runI p word legal v2 f s = .next (t.retire p key (c.step pc) cyc) := by
  rw [runI_issues h hl hv]
  unfold State.ctx at hf
  rw [hf]; rfl

/-- An issued instruction that traps. -/
theorem runI_trap {p : PairNo} {key : Nat} {s t : State} {word : Word} {legal v2 : Bool} {f : State → Nat → Ctx → IRes}
    {code soft : Nat} {tval : Word} (h : Issues p key s) (hl : legal = true) (hv : (v2 && s.onnus1 key) = false)
    (hf : f s key (s.ctx key) = .trap t code soft tval) : runI p word legal v2 f s = .next (t.trap key code soft tval) := by
  rw [runI_issues h hl hv]
  unfold State.ctx at hf
  rw [hf]; rfl

/-- An issued instruction that meets an uncorrectable word of its memories (R44). -/
theorem runI_ue {p : PairNo} {key : Nat} {s : State} {word : Word} {legal v2 : Bool} {f : State → Nat → Ctx → IRes}
    (h : Issues p key s) (hl : legal = true) (hv : (v2 && s.onnus1 key) = false) (hf : f s key (s.ctx key) = .ue) :
    runI p word legal v2 f s = .next (s.pairFault p 0x0202) := by
  rw [runI_issues h hl hv]
  unfold State.ctx at hf
  rw [hf]; rfl

/-- An issued end instruction. -/
theorem runI_fin {p : PairNo} {key : Nat} {s t : State} {word : Word} {legal v2 : Bool} {f : State → Nat → Ctx → IRes} {c : Ctx}
    (h : Issues p key s) (hl : legal = true) (hv : (v2 && s.onnus1 key) = false)
    (hf : f s key (s.ctx key) = .fin t c) : runI p word legal v2 f s =
      .next ((t.retire p key (c.step .seq) 1).endActivation key (!((t.retire p key (c.step .seq) 1).task key).unclean)) := by
  rw [runI_issues h hl hv]
  unfold State.ctx at hf
  rw [hf]; rfl

/-- A flag of a loop's control word, after one of its flags is written (R82). -/
theorem setCtrl_flag (l : LoopRec) (b : Bool) {i : Nat} (j : Nat) (hi : i < 32) :
    (l.setCtrl i b).ctrl.getLsbD j = if j = i then b else l.ctrl.getLsbD j := by
  have h := testBit_setField l.ctrl b.toNat j (Nat.le_refl i) hi
  simp only [BitVec.getLsbD, LoopRec.setCtrl, h]
  by_cases hj : j = i
  · subst hj; cases b <;> simp
  · rw [if_neg (by omega), if_neg hj]

/-- The register reads and the memory are those of a state that differs elsewhere only. -/
theorem rd_setPair (s : State) (p : Nat) (r : PairRec) (a : Nat) : (s.setPair p r).rd a = s.rd a := rfl

/-! ### Engine memories (R44) -/
/-- No word that touches the bytes is left among those taken out. -/
theorem touchW_filter (l : List (Bool × Nat)) (d : Bool) (a n : Nat) :
    touchW (l.filter (fun w => !touchW [w] d a n)) d a n = false := by
  unfold touchW
  rw [List.any_eq_false]
  intro w hw hc
  have h := (List.mem_filter.1 hw).2
  simp only [List.any_cons, List.any_nil, Bool.or_false] at h
  rw [hc] at h
  exact absurd h (by decide)

/-- What a read of an engine memory does. -/
theorem memRead_rule (s : State) (p : Nat) (d : Bool) (a n : Nat) :
    (touchW (s.pair p).ue d a n = true → s.memRead p d a n = none) ∧
    (touchW (s.pair p).ue d a n = false → touchW (s.pair p).ce d a n = false → s.memRead p d a n = some s) ∧
    (touchW (s.pair p).ue d a n = false → touchW (s.pair p).ce d a n = true → ∃ u : State, s.memRead p d a n = some u ∧
      touchW (u.pair p).ce d a n = false ∧ (u.pair p).dmem = (s.pair p).dmem ∧ (u.pair p).imem = (s.pair p).imem ∧
      u.tasks = s.tasks ∧ SameMem s u ∧ SameRegs [R.SE_PAIR_STAT p] s u) := by
  refine ⟨fun h => ?_, memRead_clean, fun h g => ?_⟩
  · unfold State.memRead
    dsimp only
    rw [if_pos h]
  · have e : ∀ (u : State) k, (u.addSat (F.SE_PAIR_STAT_CE p) k).pair p = u.pair p := fun _ _ => rfl
    have e2 : ∀ r : PairRec, (s.setPair p r).pair p = r := fun r => mget_mset_same _ _ _ _
    unfold State.memRead
    dsimp only
    rw [if_neg (by rw [h]; decide), if_pos g]
    refine ⟨_, rfl, ?_, ?_, ?_, rfl, fun b => rfl, fun b hb => ?_⟩
    · rw [e, e2]; exact touchW_filter _ _ _ _
    · rw [e, e2]
    · rw [e, e2]
    · unfold State.addSat
      rw [rd_put_other _ _ _ (by simpa using hb)]; rfl

/-- What a write of an engine memory does to the words it touches. -/
theorem memStore_rule (s : State) (p : Nat) (d : Bool) (a n : Nat) : (n ≠ 4 → s.memStore p d a n = s.memRead p d a n) ∧
    ∃ u : State, s.memStore p d a 4 = some u ∧ touchW (u.pair p).ue d a 4 = false ∧ touchW (u.pair p).ce d a 4 = false ∧
      (u.pair p).dmem = (s.pair p).dmem ∧ (u.pair p).imem = (s.pair p).imem ∧ u.tasks = s.tasks ∧ SameMem s u ∧
      SameRegs [] s u := by
  have e2 : ∀ r : PairRec, (s.setPair p r).pair p = r := fun r => mget_mset_same _ _ _ _
  refine ⟨fun h => ?_, ?_⟩
  · unfold State.memStore
    rw [if_neg h]
  · unfold State.memStore
    rw [if_pos rfl]
    refine ⟨_, rfl, ?_, ?_, ?_, ?_, rfl, fun b => rfl, fun b _ => rfl⟩
    · rw [e2]; exact touchW_filter _ _ _ _
    · rw [e2]; exact touchW_filter _ _ _ _
    · rw [e2]
    · rw [e2]

/-! ### The shown pair states -/
/-- Only words of PAIR_STAT and SE.SPARE follow the kept states. -/
theorem loopN_put_rd (n : Nat) (f : Nat → Fld) (g : Nat → State → Nat) (s : State) (b : Nat) (h : ∀ p, p < n → b ≠ (f p).addr) :
    (loopN n (fun p s => s.put (f p) (g p s)) s).rd b = s.rd b := by
  unfold loopN
  induction n with
  | zero => rfl
  | succ n ih =>
    rw [List.range_succ, List.foldl_append, List.foldl_cons, List.foldl_nil]
    rw [rd_put_other _ _ _ (h n (Nat.lt_succ_self n))]
    exact ih (fun p hp => h p (Nat.lt_succ_of_lt hp))

theorem showPairs_rd (s : State) {b : Nat} (h : ∀ p, p < 9 → b ≠ R.SE_PAIR_STAT p) (h2 : b ≠ R.SE_SPARE) :
    s.showPairs.rd b = s.rd b := by
  have k : ∀ (u : State) f v, f.addr = R.SE_SPARE → (u.put f v).rd b = u.rd b := fun u f v e => rd_put_other u f v (by rw [e]; exact h2)
  unfold State.showPairs State.putB
  dsimp only
  split
  · rw [k _ _ _ rfl, k _ _ _ rfl]; exact loopN_put_rd 9 _ _ s b h
  · rw [k _ _ _ rfl]; exact loopN_put_rd 9 _ _ s b h

theorem showPairs_get (s : State) (f : Fld) (h : ∀ p, p < 9 → f.addr ≠ R.SE_PAIR_STAT p) (h2 : f.addr ≠ R.SE_SPARE) :
    s.showPairs.get f = s.get f := by
  unfold State.get; rw [showPairs_rd s h h2]

theorem loopN_put_pairs (n : Nat) (f : Nat → Fld) (g : Nat → State → Nat) (s : State) :
    (loopN n (fun p s => s.put (f p) (g p s)) s).pairs = s.pairs := by
  unfold loopN
  induction n with
  | zero => rfl
  | succ n ih => rw [List.range_succ, List.foldl_append, List.foldl_cons, List.foldl_nil]; exact ih

@[simp] theorem showPairs_pair (s : State) (p : Nat) : s.showPairs.pair p = s.pair p := by
  have : s.showPairs.pairs = s.pairs := by
    have k : ∀ (u : State) f v, (u.put f v).pairs = u.pairs := fun _ _ _ => rfl
    have l := loopN_put_pairs 9 (fun p => F.SE_PAIR_STAT_STATE p) (fun p s =>
      if s.domOn.testBit (pairDomain p) then s.pairSt p else if s.domRet.testBit (pairDomain p) then 1 else 0) s
    unfold State.showPairs State.putB
    dsimp only
    split
    · rw [k, k]; exact l
    · rw [k]; exact l
  unfold State.pair; rw [this]

end Sys2Proof.Machine
end

