-- ==== Sys2Proof/WellFormed.lean ====
section
/-! DEFINITION. WellFormed.lean: operands that no event can bring. The commands are typed, so that a port, a crew or a register
field is in range by its type; what is left are lengths. A timestamp of 10^9 ns or more can arrive: the receiver rejects it (R5, R383). -/
namespace Sys2Proof

/-- The payload of a ring frame is at most 1,500 bytes (R371). -/
def RingFrame.wf (f : RingFrame) : Bool := f.payload.length ≤ 1500

/-- The longest stack of a capsize dump (R498). -/
def stackMax : Nat := 65536

/-- The operands are such as an event can bring. -/
def Instr.wf : Instr → Bool
  | .ringFragment _ f => f.wf
  | .ringFrame _ f => f.wf
  | .supervisionFrame _ f _ => f.wf
  | .leaveAnnouncement _ f => f.wf
  | .seamFrame _ f => f.wf
  | .capsizeDump _ stack _ => stack.length ≤ stackMax
  | .coxException _ stack _ => stack.length ≤ stackMax
  | .firmwareAssertion _ stack _ => stack.length ≤ stackMax
  | _ => true

end Sys2Proof
end

