-- ==== Sys2Proof/Tests/Slice0.lean ====
section
/-! SUPPORT. Tests/Slice0.lean: the model's own tests: ill-formed operands, Onnus words written out from R97 and R98, reset
values and results written in the spec, and for each statement with hypotheses a witness that meets those of each clause. -/
namespace Sys2Proof.Tests
open Sys2Proof.Machine

/-! Each theorem here waits for the kernel's environment; one after another, they need one thread. -/
set_option Elab.async false

/-! ### Well-formedness refuses -/
theorem test_wf_stack : Instr.wf (.coxException [] (List.replicate 65537 0) .ok) = false := by decide +kernel
theorem test_wf_stack_capsize : Instr.wf (.capsizeDump [] (List.replicate 65537 0) .ok) = false := by decide +kernel
theorem test_wf_stack_assertion : Instr.wf (.firmwareAssertion [] (List.replicate 65537 0) .ok) = false := by decide +kernel
theorem test_wf_frame : Instr.wf (.ringFrame 0 ⟨1, 2, 0, 0, 0, List.replicate 1501 0, true⟩) = false := by decide +kernel
theorem test_wf_frame_long : Instr.wf (.ringFrame 0 ⟨1, 2, 0, 0, 0, List.replicate 1500 0, true⟩) = true := by decide +kernel

/-! ### Onnus words, their fields in the order of R97, opcodes of R98 and functions of the instruction tables -/
theorem test_decode_add : onnusDecode 0 (0x01#7 ++ 31#5 ++ 1#5 ++ 2#5 ++ 0x000#10) = some (.add 0 31 1 2) := by decide
theorem test_decode_mulhu : onnusDecode 0 (0x02#7 ++ 1#5 ++ 2#5 ++ 3#5 ++ 0x002#10) = some (.mulhu 0 1 2 3) := by decide
theorem test_decode_qpack : onnusDecode 0 (0x03#7 ++ 1#5 ++ 2#5 ++ 3#5 ++ 0x013#10) = some (.qpack 0 1 2 3) := by decide
theorem test_decode_awr : onnusDecode 0 (0x04#7 ++ 7#5 ++ 2#5 ++ 4#5 ++ 0x005#10) = some (.awr 0 7 2 4) := by decide
theorem test_decode_fnms : onnusDecode 0 (0x05#7 ++ 1#5 ++ 2#5 ++ 3#5 ++ 0x006#10) = some (.fnms 0 1 2 3) := by decide
theorem test_decode_fle : onnusDecode 0 (0x06#7 ++ 1#5 ++ 2#5 ++ 3#5 ++ 0x008#10) = some (.fle 0 1 2 3) := by decide
theorem test_decode_biq : onnusDecode 0 (0x07#7 ++ 2#5 ++ 4#5 ++ 6#5 ++ 0x005#10) = some (.biq 0 2 4 6) := by decide
theorem test_decode_pistepr : onnusDecode 0 (0x08#7 ++ 1#5 ++ 2#5 ++ 3#5 ++ 0x009#10) = some (.pistepr 0 1 2 3) := by decide
theorem test_decode_addi : onnusDecode 0 (0x10#7 ++ 1#5 ++ 2#5 ++ 0x4000#15) = some (.addi 0 1 2 0x4000) := by decide
theorem test_decode_flw : onnusDecode 0 (0x25#7 ++ 3#5 ++ 2#5 ++ 8#15) = some (.flw 0 3 2 8) := by decide
theorem test_decode_fsw : onnusDecode 0 (0x2B#7 ++ 3#5 ++ 2#5 ++ 8#15) = some (.fsw 0 3 2 8) := by decide
/-- PISTEP f8, f6, 40. -/
theorem test_decode_pistep : onnusDecode 0 (0x68830028#32) = some (.pistep 0 8 6 40) := by decide
theorem test_decode_ordend : onnusDecode 0 (0x38#7 ++ 0#5 ++ 5#5 ++ 0#15) = some (.ordend 0 0 5 0) := by decide
theorem test_decode_sigrdi : onnusDecode 0 (0x43#7 ++ 4#5 ++ 0xFFFFF#20) = some (.sigrdi 0 4 0xFFFFF) := by decide
/-- BEQ g0, g0, −24. -/
theorem test_decode_beq : onnusDecode 0 (0xA0007FE8#32) = some (.beq 0 0 0 0x7FE8) := by decide
/-- PIN g2, 0x3500. -/
theorem test_decode_pin : onnusDecode 0 (0xC0235000#32) = some (.pin 0 2 0x3500) := by decide
theorem test_decode_pset : onnusDecode 0 (0x62#7 ++ 5#5 ++ 0xE001#16 ++ 2#4) = some (.psetXor 0 5 0xE001) := by decide
/-- Opcode 0 is illegal, 0x0F and a function beyond the table reserved. -/
theorem test_decode_reserved : onnusDecode 0 0 = none ∧ onnusDecode 0 (0x0F#7 ++ 0#25) = none ∧
    onnusDecode 0 (0x01#7 ++ 0#5 ++ 0#5 ++ 0#5 ++ 0x00F#10) = none := by decide


/-! ### Values the spec writes out -/
/-- 00_scope, R4: pocket 4,064, point 17. -/
theorem test_signal_entry : sigCell (4064 * 256 + 17) = 0x113F0088 := by decide
/-- 01_architecture, R24. -/
theorem test_register_blocks :
    R.CREW_CTL 13 = 0x40076800 ∧ R.LEG_CTL 63 = 0x4006FC00 ∧ R.YILOS_CTL 11 = 0x400AB000 := by decide
/-- 02_stroke_engines, after R86: the reseed of a swap. -/
theorem test_swap_reseed :
    let l := ({ b := #v[0x40800000, 0, 0, 0x3F666666, 0, 0x3F000000], e := 0x3D4CCCCD, out := 0x3F4CCCCD, ctrl := 0xC7F } :
      LoopRec).swap
    (l.i, l.out, l.ctrl.getLsbD 14, l.ctrl.getLsbD 13, l.actB) = (0x3F000000#32, 0x3F333333#32, true, false, true) := by
  decide +kernel
/-- 04_modulator_crews, the four-set crew: the compares of its three phases, their table entries at 0.5 and −1.0. -/
theorem test_compares :
    let t := ((((((State.reset.setPtab 1365 0x40000000).setPtab 1366 0x40000000).setPtab 12288 0x80000000).setPtab 12289
      0x80000000).setPtab 6826 0x40000000).setPtab 6827 0x40000000)
    let s := ((((t.put (F.CREW_CFG_KIND 2) 1).put (F.CREW_CFG_M 2) 4).put (F.CREW_CPER_PERIOD 2) 200000).wr
      (R.CREW_ANG 2) 0x15555555).wr (R.CREW_AMP_ACT 2) 0x3F4CCCCD
    (s.compareOf 2 0 0, s.compareOf 2 0 1, s.compareOf 2 0 2) = (70000, 10000, 70000) := by decide +kernel
/-- 14_pins_package and R500: a temperature of −1/64 °C. -/
theorem test_hk_signed : hkNum 0 0xFFFF = -1 ∧ hkNum 12 0xFFFF = 65535 := by decide
/-- 14_pins_package, R524: the boundary chain covers 250 balls. -/
theorem test_boundary_balls : boundaryBalls.length = 250 ∧ boundaryBalls.eraseDups.length = 250 := by decide +kernel
/-- 05_yilos_gate_link, R186 and R213: a training frame comes back as it went, from either disparity. -/
theorem test_training_line :
    rxLine true (some (encLine true (trainChars 1 [0, 7, 0xFF])).1) = (.training 1 [0, 7, 0xFF, 0, 0], (encLine true (trainChars 1 [0, 7, 0xFF])).2) ∧
    (rxLine false (some (encLine true (trainChars 1 [0, 7, 0xFF])).1)).1 = .bad := by decide +kernel
/-- 05_yilos_gate_link, R186: a line error makes a frame bad from either disparity, whatever was sent. -/
theorem test_line_error : ∀ b other : Bool, (rxLine b (lineIn true other 5)).1 = .bad := by decide +kernel
/-! ### Witnesses -/
/-- Every power domain on, no reset in force. -/
def on : State := { State.reset with powered := true, domOn := 0x3FFF, rstBy := [] }
/-- A running task with budget left. -/
def runTask : TaskRec := { st := .running, budLeft := 100 }
/-- Pair 0 ACTIVE, its task 0 running with budget left. -/
def run : State := (on.put (F.SE_PAIR_STAT_KEPT 0) pACTIVE).setTask 0 runTask
/-- A context with values in g2 and g3. -/
def cx (a b : Word) : Ctx := (({ : Ctx }.setG 2 a).setG 3 b)
/-- `run` with the running task's context. -/
def runC (c : Ctx) : State := run.setTask 0 { runTask with ctx := c }
/-- `run` where the pair's image names Onnus-1. -/
def run1 (c : Ctx) : State := (runC c).setImage 0 { minisa := 1 }

/-- A frame of content w with the CRC it must carry. -/
def goodF (w : Nat) : BitVec 64 := BitVec.ofNat 64 (w + crc10 w * 2 ^ 54)

theorem issues_of {p : PairNo} {key : Nat} {s : State} (h : s.pairRuns p = true ∧ s.running p = some key ∧
    (s.task key).budLeft ≠ 0 ∧ (s.pair p).claimWait = false ∧ (s.memRead p false (s.task key).ctx.pc.toNat 4).isSome = true ∧
    touchW (s.pair p).ce false (s.task key).ctx.pc.toNat 4 = false) : Issues p key s := by
  obtain ⟨h1, h2, h3, h4, h5, h6⟩ := h
  refine ⟨h1, h2, h3, h4, ?_⟩
  revert h5
  unfold State.memRead
  dsimp only
  split
  · intro h; cases h
  · intro _; exact if_neg (by rw [h6]; decide)

/-- A pair whose first part is a. -/
theorem pair_of {α β : Type} {x : α × β} {a : α} (h : x.1 = a) : x = (a, x.2) := by
  cases x; cases h; rfl

theorem triple_of {α β γ : Type} {x : α × β × γ} : x = (x.1, x.2.1, x.2.2) := rfl

theorem some_of {α : Type} {x : Option α} (h : x.isSome = true) : x = some (x.get h) := by
  cases x with
  | none => cases h
  | some _ => rfl
theorem pair_some {α β : Type} {x : Option α × β} (h : x.1.isSome = true) : x = (some (x.1.get h), x.2) :=
  pair_of (some_of h)

/-- Crew 0 of kind k RUN, one set, leg 0 its own. -/
def crewRun (k : Nat) : State :=
  ((((((on.put (F.CREW_STAT_STATE 0) cRUN).put (F.CREW_CFG_KIND 0) k).put (F.CREW_CFG_M 0) 1).put (F.CREW_CPER_PERIOD 0)
    800).put (F.LEG_CTL_OWNER 0) 0).put (F.LEG_CTL_MODE 0) 0).put (F.LEG_CMP_C 0) 200
/-- The ring enabled, both links up. -/
def ringUp : State := ((on.putB F.RING_CFG_EN true).putB (F.RING_PORT_STAT_LINK 0) true).putB (F.RING_PORT_STAT_LINK 1) true
/-- An island with a sealed section: one reset input, one group of mode m in its SS1 time. -/
def islSec (m : Nat) : IslRec :=
  { sec := some { si := [{ func := 3 }], grp := [{ mode := m }] }, grps := [(0, { st := gsSS1, sbPend := true })], sbo := 1 }


/-- An image of one task, of one word of code. -/
def swapImg : List Byte :=
  leBytes 4 0x534E4E4F ++ [1, 0, 1, 0] ++ leBytes 4 4 ++ leBytes 8 0 ++ [1] ++ List.replicate 11 0 ++
    leBytes 4 (crc32 (List.replicate 20 0)) ++ List.replicate 48 0
/-- Pair 0 ACTIVE on that image, pair 1 the spare with it in its slot. -/
def swapOk : State :=
  let s := ((((on.put (F.SE_PAIR_STAT_KEPT 0) pACTIVE).put F.SE_SPARE_PAIR 1).putB F.SE_SPARE_AVAIL true).putB F.CRYPTO_POL_SIGIMG
    false).setImage 0 (parseImage swapImg)
  s.setBytes (s.imgSlot false 1) swapImg

theorem wit_StepRunsFront :
    (∃ (c : Instr) (l : List Instr) (s : State), s.pending = c :: l) :=
    ⟨(({ on with pending := .hkRound :: [] }).pending).head (by decide +kernel),
     (({ on with pending := .hkRound :: [] }).pending).tail, { on with pending := .hkRound :: [] },
     (List.cons_head_tail _).symm⟩

theorem wit_StepIdlePasses :
    (∃ (s : State), s.pending = []) :=
    ⟨{ on with pending := [] }, by decide +kernel⟩

theorem wit_ResetQueueMemory :
    (∃ (n : _), n < 32) :=
    ⟨0, by decide +kernel⟩

theorem wit_StepKeepsInvariant :
    (∃ (s t : State), s.Inv ∧ step s = .next t) :=
    ⟨State.reset, _,
     ⟨by decide +kernel, by decide +kernel, by decide +kernel, by decide +kernel, by decide +kernel, by decide +kernel, by decide +kernel, by decide +kernel⟩,
     rfl⟩

theorem wit_ClaimTableRule :
    (∃ (res : Nat), validRes res = false) ∧
    (∃ (s : State) (owner : Nat) (res : Nat), validRes res = true ∧ owner ≠ 0 ∧ s.ownerOf res = 0) ∧
    (∃ (s : State) (owner : Nat) (res : Nat), validRes res = true ∧ owner ≠ 0 ∧ s.ownerOf res = owner) ∧
    (∃ (s : State) (owner : Nat) (res : Nat), validRes res = true ∧ owner ≠ 0 ∧ s.ownerOf res ≠ 0 ∧
      s.ownerOf res ≠ owner) ∧
    (∃ (s : State) (owner : Nat) (res : Nat), validRes res = true ∧ owner ≠ 0 ∧ s.ownerOf res ≠ owner) ∧
    (∃ (owner : Nat) (res : Nat) (q : Nat), validRes res = true ∧ owner ≠ 0 ∧ q ≠ res) :=
  ⟨⟨0x1008, by decide +kernel⟩,
    ⟨on, 1, 1, by decide +kernel⟩,
    ⟨(on.setOwner 1 1), 1, 1, by decide +kernel⟩,
    ⟨(on.setOwner 1 0x10), 1, 1, by decide +kernel⟩,
    ⟨on, 1, 1, by decide +kernel⟩,
    ⟨1, 1, 2, by decide +kernel⟩⟩

theorem wit_SysCommands :
    (∃ (s : State) (owner : _), s.up R.SYS_CLAIM_REQ ∧ s.bit F.SYS_CLAIM_STAT_BUSY = false ∧ (owner = 1 ∨ owner = 0x40)) ∧
    (∃ (s : State) (owner : _), s.up R.SYS_CLAIM_REQ ∧ s.bit F.SYS_CLAIM_STAT_BUSY = false ∧ owner ≠ 1 ∧ owner ≠ 0x40) ∧
    (∃ (l : List ClaimReq) (q : _) (x : ClaimReq), firstClaim l = some q ∧ x ∈ l) ∧
    (∃ (s : State) (q : _) (r : _) (u : _), firstClaim s.claimReqs = some q ∧ q.cox = true ∧ q.pair = none ∧
      State.claimOp { s with claimReqs := s.claimReqs.erase q } q.release q.owner q.res = (r, u)) ∧
    (∃ (s : State) (q : ClaimReq) (r : _) (u : _) (p : _), firstClaim s.claimReqs = some q ∧ q.cox = false ∧
      q.pair = some p ∧ State.claimOp { s with claimReqs := s.claimReqs.erase q } q.release q.owner q.res = (r, u) ∧
      (u.auxShow.trainPorts.pair p).claimWait = true) ∧
    (∃ (s : State) (len : Word), s.up R.SYS_DMA_LEN ∧
      s.dmaOk (s.get F.SYS_DMA_SEL_IDX) (s.get F.SYS_DMA_BASE_ADDR * 8) len.toNat = true) ∧
    (∃ (s : State) (len : BitVec 21), s.up R.SYS_DMA_LEN ∧
      s.dmaOk (s.get F.SYS_DMA_SEL_IDX) (s.get F.SYS_DMA_BASE_ADDR * 8) len.toNat = false) ∧
    (∃ (s : State), s.up R.SYS_CNT_CLR) :=
  ⟨⟨(on.putB F.SYS_CLAIM_STAT_BUSY false), 1, by unfold State.up; decide +kernel, by decide +kernel, by decide +kernel⟩,
    ⟨(on.putB F.SYS_CLAIM_STAT_BUSY false), 0x11, by unfold State.up; decide +kernel, by decide +kernel,
     by decide +kernel, by decide +kernel⟩,
    ⟨[{ cox := true, release := false, owner := 1, res := 1 }], _,
     { cox := true, release := false, owner := 1, res := 1 }, some_of (by decide +kernel), by decide +kernel⟩,
    ⟨{ on with claimReqs := [{ cox := true, release := false, owner := 1, res := 1 }] },
     (firstClaim ({ on with claimReqs := [{ cox := true, release := false, owner := 1, res := 1 }] }).claimReqs).get (by decide +kernel),
     _, _, (Option.some_get _).symm, by decide +kernel, by decide +kernel, (Prod.eta _).symm⟩,
    ⟨{ on.setPair 0 { claimWait := true } with claimReqs := [{ cox := false, release := false, owner := 0x30, res := 1, pair := some 0 }] },
     ({ cox := false, release := false, owner := 0x30, res := 1, pair := some 0 } : ClaimReq),
     (State.claimOp { ({ on.setPair 0 { claimWait := true } with claimReqs := [{ cox := false, release := false, owner := 0x30, res := 1, pair := some 0 }] }) with claimReqs := ({ on.setPair 0 { claimWait := true } with claimReqs := [{ cox := false, release := false, owner := 0x30, res := 1, pair := some 0 }] }).claimReqs.erase ({ cox := false, release := false, owner := 0x30, res := 1, pair := some 0 } : ClaimReq) } ({ cox := false, release := false, owner := 0x30, res := 1, pair := some 0 } : ClaimReq).release ({ cox := false, release := false, owner := 0x30, res := 1, pair := some 0 } : ClaimReq).owner ({ cox := false, release := false, owner := 0x30, res := 1, pair := some 0 } : ClaimReq).res).1,
     (State.claimOp { ({ on.setPair 0 { claimWait := true } with claimReqs := [{ cox := false, release := false, owner := 0x30, res := 1, pair := some 0 }] }) with claimReqs := ({ on.setPair 0 { claimWait := true } with claimReqs := [{ cox := false, release := false, owner := 0x30, res := 1, pair := some 0 }] }).claimReqs.erase ({ cox := false, release := false, owner := 0x30, res := 1, pair := some 0 } : ClaimReq) } ({ cox := false, release := false, owner := 0x30, res := 1, pair := some 0 } : ClaimReq).release ({ cox := false, release := false, owner := 0x30, res := 1, pair := some 0 } : ClaimReq).owner ({ cox := false, release := false, owner := 0x30, res := 1, pair := some 0 } : ClaimReq).res).2,
     0, by decide +kernel, by decide +kernel, by decide +kernel, Prod.ext rfl rfl, by decide +kernel⟩,
    ⟨(((on.setOwner 0x7000 0x30).put F.SYS_DMA_SEL_IDX 0).put F.SYS_DMA_BASE_ADDR (0x10500000 / 8)), 8,
     by unfold State.up; decide +kernel, by decide +kernel⟩,
    ⟨on, 0, by unfold State.up; decide +kernel, by decide +kernel⟩,
    ⟨on, by unfold State.up; decide +kernel⟩⟩

theorem wit_PairEvents :
    (∃ (s : State) (p : PairNo), s.domainRun (pairDomain p) = true ∧ (s.pairSt p = pACTIVE ∨ s.pairSt p = pHOST)) ∧
    (∃ (s : State) (p : PairNo), s.domainRun (pairDomain p) = true ∧ (s.pairSt p = pSPARE ∨ s.pairSt p = pTEST)) ∧
    (∃ (s : State) (p : PairNo), s.domainRun (pairDomain p) = true ∧ s.pairSt p = pSPARE ∧ (s.pair p).testing = false) ∧
    (∃ (s : State) (p : PairNo) (t : _) (b : _) (stopped : _) (u : _), s.pairSt p = pHOST ∧
      (s.pair p).restoring = true ∧ s.buildMem p (s.homeOf p) = some t ∧
      State.restoreTasks (t.until ((t.pair p).failedAt + restoreCounts (t.restoreBytes (s.homeOf p)))) p (s.homeOf p) = (b, stopped, u)) ∧
    (∃ (s : State) (p : PairNo), s.pairSt p = pHOST ∧ (s.pair p).restoring = true ∧ s.buildMem p (s.homeOf p) = none) ∧
    (∃ (s : State) (p : PairNo) (t : _), (s.pair p).reloading = true ∧
      (s.setPair p { s.pair p with reloading := false }).buildMem p (s.homeOf p) = some t) ∧
    (∃ (s : State) (p : PairNo), (s.pair p).reloading = true ∧
      (s.setPair p { s.pair p with reloading := false }).buildMem p (s.homeOf p) = none) ∧
    (∃ (s : State) (v : _) (w : _) (u : _), s.up R.SE_CTL ∧ s.takeWord R.SE_CTL v = (w, u) ∧ w.getLsbD 0 = true ∧
      bitsOf w.toNat 7 4 < 9 ∧ (u.put F.SE_CTL_TPAIR (bitsOf w.toNat 7 4)).pairSt (bitsOf w.toNat 7 4) = pFENCED) ∧
    (∃ (s : State) (p : PairNo), s.pairSt p = pTEST) :=
  ⟨⟨(on.put (F.SE_PAIR_STAT_KEPT 0) pACTIVE), 0, by decide +kernel⟩,
    ⟨(on.put (F.SE_PAIR_STAT_KEPT 0) pSPARE), 0, by decide +kernel⟩,
    ⟨((on.put (F.SE_PAIR_STAT_KEPT 0) pSPARE).setPair 0 { testing := false }), 0, by decide +kernel⟩,
    ⟨((on.put (F.SE_PAIR_STAT_KEPT 0) pHOST).setPair 0 { restoring := true }), 0, _, _, _, _, by decide +kernel,
     by decide +kernel, some_of (by decide +kernel), triple_of⟩,
    ⟨{ ((on.put (F.SE_PAIR_STAT_KEPT 0) pHOST).setPair 0 { restoring := true }) with images := [(0, { imemSize := 8 })], eccUe := [on.imgSlot false 0 + 64, on.imgSlot true 0 + 64] },
     0, by decide +kernel⟩,
    ⟨(on.setPair 0 { reloading := true }), 0, _, by decide +kernel, some_of (by decide +kernel)⟩,
    ⟨{ on.setPair 0 { reloading := true } with images := [(0, { imemSize := 8 })], eccUe := [on.imgSlot false 0 + 64, on.imgSlot true 0 + 64] },
     0, by decide +kernel⟩,
    ⟨(on.put (F.SE_PAIR_STAT_KEPT 0) pFENCED), 1, ((on.put (F.SE_PAIR_STAT_KEPT 0) pFENCED).takeWord R.SE_CTL 1).1,
     ((on.put (F.SE_PAIR_STAT_KEPT 0) pFENCED).takeWord R.SE_CTL 1).2, by unfold State.up; decide +kernel,
     Prod.ext rfl rfl, by decide +kernel, by decide +kernel, by decide +kernel⟩,
    ⟨(on.put (F.SE_PAIR_STAT_KEPT 0) pTEST), 0, by decide +kernel⟩⟩

theorem wit_TakeOver :
    (∃ (s : State) (p : Nat) (q : Nat), p < 16 ∧
      (List.range 9).find? (fun q => s.pairSt q == pSPARE && s.domainRun (pairDomain q)) = some q) ∧
    (∃ (s : State), (List.range 9).find? (fun q => s.pairSt q == pSPARE && s.domainRun (pairDomain q)) = none) :=
  ⟨⟨(on.put (F.SE_PAIR_STAT_KEPT 0) pACTIVE |>.put (F.SE_PAIR_STAT_KEPT 1) pSPARE), 0, 1, by decide +kernel,
     by decide +kernel⟩,
    ⟨on, by decide +kernel⟩⟩

theorem wit_TaskScheduling :
    (∃ (s : State) (p : PairNo) (k : _), s.pairRuns p = true ∧ s.running p = none ∧ s.nextReady p = some k ∧
      touchW (s.pair p).ue true (ctxSlot k) 384 = false ∧ touchW (s.pair p).ce true (ctxSlot k) 384 = false) ∧
    (∃ (s : State) (p : PairNo) (k : _) (r : _), (s.pair p).claimWait = false ∧ s.pairRuns p = true ∧
      s.running p = some r ∧ s.nextReady p = some k ∧ k < r ∧ touchW (s.pair p).ue true (ctxSlot k) 384 = false ∧
      touchW (s.pair p).ce true (ctxSlot k) 384 = false) ∧
    (∃ (s : State) (p : PairNo) (k : _) (r : _), (s.pair p).claimWait = false ∧ s.pairRuns p = true ∧
      s.running p = some r ∧ s.nextReady p = some k ∧ (¬ k < r)) ∧
    (∃ (s : State) (p : PairNo) (k : _), s.memRead p true (ctxSlot k) 384 = none) ∧
    (∃ (s : State) (p : PairNo) (k : _), (s.pair p).claimWait = false ∧ s.pairRuns p = true ∧ s.running p = some k ∧
      (s.task k).budLeft = 0) ∧
    (∃ (s : State) (k : Fin 64), s.bit (F.SE_TMR_CTL_EN k) = true ∧ s.bit (F.SE_TMR_CTL_ONESHOT k) = true) ∧
    (∃ (s : State) (k : Fin 64), s.bit (F.SE_TMR_CTL_EN k) = true ∧ s.bit (F.SE_TMR_CTL_ONESHOT k) = false) :=
  ⟨⟨(run.setTask 0 { st := .ready }), 0, 0, by decide +kernel⟩,
    ⟨((run.setTask 0 { st := .ready }).setTask 1 { st := .running }), 0, 0, 1, by decide +kernel⟩,
    ⟨(run.setTask 1 { st := .ready }), 0, 1, 0, by decide +kernel⟩,
    ⟨(run.setPair 0 { ue := [(true, 0x7A00)] }), 0, 0, by decide +kernel⟩,
    ⟨(run.setTask 0 { st := .running }), 0,
     ((run.setTask 0 { st := .running }).running (0 : PairNo)).get (by decide +kernel), by decide +kernel,
     by decide +kernel, (Option.some_get _).symm, by decide +kernel⟩,
    ⟨((on.putB (F.SE_TMR_CTL_EN 0) true).putB (F.SE_TMR_CTL_ONESHOT 0) true), 0, by decide +kernel⟩,
    ⟨((on.putB (F.SE_TMR_CTL_EN 0) true).putB (F.SE_TMR_CTL_ONESHOT 0) false), 0, by decide +kernel⟩⟩

theorem wit_CatchAndCheckpoint :
    (∃ (s : State) (n : CrewNo) (t : _), s.crewState n ≠ cUNUSED ∧ (s.crew n).catchDue = some t) ∧
    (∃ (s : State) (n : _) (key : _) (p : _) (k : _), s.catchTask n = some key ∧ (s.crew n).takeover = false ∧
      (s.task key).st = .waiting ∧ s.execPair (key / 16) = some p ∧ s.pairRuns p = true ∧ k ≠ key) ∧
    (∃ (s : State) (p : PairNo) (c : CkptRec) (rest : List CkptRec), (s.pair p).ckpt = c :: rest) :=
  ⟨⟨((on.put (F.CREW_STAT_STATE 0) (cUNUSED + 1)).setCrew 0 { catchDue := some 0 }), 0, _, by decide +kernel,
     some_of (by decide +kernel)⟩,
    ⟨(run.setTask 0 { st := .waiting, desc0 := 0x90000000#32 }), 0, 0, 0, 1, by decide +kernel⟩,
    ⟨(on.setPair 0 { ckpt := [{ crew := 0, seq := 0, task := 0, home := 0, imageId := 0, ctx := {}, region := [] }] }),
     0, { crew := 0, seq := 0, task := 0, home := 0, imageId := 0, ctx := {}, region := [] }, [], by decide +kernel⟩⟩

theorem wit_CoefficientStore :
    (∃ (s : State), s.up R.SE_MEM_DATA ∧ s.get F.SE_MEM_SEL_PAIR < 9 ∧ s.seMemFree (s.get F.SE_MEM_SEL_PAIR) = true) ∧
    (∃ (s : State), s.up R.SE_MEM_DATA ∧ s.get F.SE_MEM_SEL_PAIR < 9 ∧ s.seMemFree (s.get F.SE_MEM_SEL_PAIR) = false) ∧
    (∃ (s : State) (u : _), s.up R.SE_MEM_DATA ∧ s.get F.SE_MEM_SEL_PAIR < 9 ∧
      s.memRead (s.get F.SE_MEM_SEL_PAIR) (s.bit F.SE_MEM_SEL_SPACE) (4 * s.get F.SE_MEM_ADDR_WORD) 4 = some u) ∧
    (∃ (s : State), s.up R.SE_MEM_DATA ∧ 9 ≤ s.get F.SE_MEM_SEL_PAIR) ∧
    (∃ (s : State) (x : _) (u : _), s.up R.SE_MEM_DATA ∧ s.get F.SE_MEM_SEL_PAIR < 9 ∧ s.free = (x, u) ∧
      s.memRead (s.get F.SE_MEM_SEL_PAIR) (s.bit F.SE_MEM_SEL_SPACE) (4 * s.get F.SE_MEM_ADDR_WORD) 4 = none) ∧
    (∃ (s : State), s.up R.SE_COEF_DATA ∧ 8 ≤ s.get F.SE_COEF_SEL_WORD) ∧
    (∃ (s : State), s.up R.SE_COEF_DATA ∧ s.get F.SE_COEF_SEL_WORD < 6 ∧
      s.bit F.SE_COEF_SEL_BANK ≠ (s.loop (s.get F.SE_COEF_SEL_LOOP)).actB ∧
      (s.loop (s.get F.SE_COEF_SEL_LOOP)).pend = false) ∧
    (∃ (s : State), s.up R.SE_COEF_DATA ∧ s.get F.SE_COEF_SEL_WORD < 6 ∧
      s.bit F.SE_COEF_SEL_BANK = (s.loop (s.get F.SE_COEF_SEL_LOOP)).actB) ∧
    (∃ (s : State), s.up R.SE_COEF_DATA ∧ s.get F.SE_COEF_SEL_WORD = 11) ∧
    (∃ (s : State) (v : _) (w : _) (u : _), s.up R.SE_COEF_SWAP ∧ s.takeWord R.SE_COEF_SWAP v = (w, u)) :=
  ⟨⟨(on.put F.SE_MEM_SEL_PAIR 0), by unfold State.up; decide +kernel, by decide +kernel, by decide +kernel⟩,
    ⟨((run.put F.SE_MEM_SEL_PAIR 0).setTask 0 runTask), by unfold State.up; decide +kernel, by decide +kernel,
     by decide +kernel⟩,
    ⟨(on.put F.SE_MEM_SEL_PAIR 0), _, by unfold State.up; decide +kernel, by decide +kernel, some_of (by decide +kernel)⟩,
    ⟨(on.put F.SE_MEM_SEL_PAIR 9), by unfold State.up; decide +kernel, by decide +kernel⟩,
    ⟨((on.put F.SE_MEM_SEL_PAIR 0).setPair 0 { ue := [(false, 0)] }), _, _, by unfold State.up; decide +kernel,
     by decide +kernel, (Prod.eta _).symm, by decide +kernel⟩,
    ⟨(on.put F.SE_COEF_SEL_WORD 8), by unfold State.up; decide +kernel, by decide +kernel⟩,
    ⟨(((on.put F.SE_COEF_SEL_WORD 5).putB F.SE_COEF_SEL_BANK true).put F.SE_COEF_SEL_LOOP 1023),
     by unfold State.up; decide +kernel, by decide +kernel, by decide +kernel, by decide +kernel⟩,
    ⟨(on.put F.SE_COEF_SEL_WORD 0), by unfold State.up; decide +kernel, by decide +kernel, by decide +kernel⟩,
    ⟨(on.put F.SE_COEF_SEL_WORD 11), by unfold State.up; decide +kernel, by decide +kernel⟩,
    ⟨on, 0, _, _, by unfold State.up; decide +kernel, (Prod.eta _).symm⟩⟩

theorem wit_SwapRequest :
    (∃ (s : State) (id : Nat) (b : Bool), b = (s.loop id).actB ∧ (s.loop id).pend = false) ∧
    (∃ (s : State) (id : Nat) (b : Bool), b = (s.loop id).actB ∧ (s.loop id).pend = true) ∧
    (∃ (s : State) (id : Nat) (b : Bool), b ≠ (s.loop id).actB ∧ (s.loop id).owner < 32 ∧
      s.crewState (s.loop id).owner = cRUN) ∧
    (∃ (s : State) (id : Nat) (b : Bool), b ≠ (s.loop id).actB ∧ (¬((s.loop id).owner < 32 ∧
      s.crewState (s.loop id).owner = cRUN))) ∧
    (∃ (id : Nat) (k : _), k ≠ id) :=
  ⟨⟨((on.put (F.CREW_STAT_STATE 31) cRUN).setLoop 0 { ctrl := 0x7F }), 0, false, by decide +kernel⟩,
    ⟨((on.put (F.CREW_STAT_STATE 31) cRUN).setLoop 0 { ctrl := 0x47F }), 0, false, by decide +kernel⟩,
    ⟨((on.put (F.CREW_STAT_STATE 31) cRUN).setLoop 0 { ctrl := 0x1F }), 0, true, by decide +kernel⟩,
    ⟨((on.put (F.CREW_STAT_STATE 31) cRUN).setLoop 0 { ctrl := 0x20 }), 0, true, by decide +kernel⟩,
    ⟨0, 1, by decide +kernel⟩⟩

theorem wit_OnnusInteger :
    (∃ (s : State) (p : _) (key : _), Issues p key s) ∧
    (∃ (s : State) (p : _) (key : _) (imm : BitVec 15), Issues p key s ∧ imm.toNat < 32) ∧
    (∃ (r : BitVec 5), r ≠ 0) ∧
    (∃ (r : BitVec 5) (q : BitVec 5), q ≠ r) :=
  ⟨⟨run, 0, 0, issues_of (by decide +kernel)⟩,
    ⟨run, 0, 0, 0, issues_of (by decide +kernel), by decide +kernel⟩,
    ⟨1, by decide +kernel⟩,
    ⟨0, 1, by decide +kernel⟩⟩

theorem wit_OnnusMulDiv :
    (∃ (s : State) (p : _) (key : _) (gs2 : _), Issues p key s ∧ ((s.ctx key).gr gs2) = 0) ∧
    (∃ (s : State) (p : _) (key : _) (gs1 : _) (gs2 : _), Issues p key s ∧ ((s.ctx key).gr gs2) ≠ 0 ∧
      (¬(((s.ctx key).gr gs1) = 0x80000000#32 ∧ ((s.ctx key).gr gs2) = 0xFFFFFFFF#32))) ∧
    (∃ (s : State) (p : _) (key : _) (gs1 : _) (gs2 : _), Issues p key s ∧ ((s.ctx key).gr gs1) = 0x80000000#32 ∧
      ((s.ctx key).gr gs2) = 0xFFFFFFFF#32) :=
  ⟨⟨run, 0, 0, 3, issues_of (by decide +kernel), by decide +kernel⟩,
    ⟨(runC (cx 0x80000000 1)), 0, 0, 2, 3, issues_of (by decide +kernel), by decide +kernel, by decide +kernel⟩,
    ⟨(runC (cx 0x80000000 0xFFFFFFFF)), 0, 0, 2, 3, issues_of (by decide +kernel), by decide +kernel, by decide +kernel⟩⟩

theorem wit_OnnusFixed :
    (∃ (s : State) (p : _) (key : _), Issues p key s ∧ s.onnus1 key = false) ∧
    (∃ (z : Int), -(2 ^ 31) ≤ z ∧ z < 2 ^ 31) ∧
    (∃ (z : Int), 2 ^ 31 ≤ z) ∧
    (∃ (z : Int), z < -(2 ^ 31)) :=
  ⟨⟨run, 0, 0, issues_of (by decide +kernel), by decide +kernel⟩,
    ⟨0, by decide +kernel⟩,
    ⟨2 ^ 31, by decide +kernel⟩,
    ⟨-(2 ^ 31) - 1, by decide +kernel⟩⟩

theorem wit_OnnusAccumulator :
    (∃ (s : State) (p : _) (key : _) (ad : BitVec 5), Issues p key s ∧ ad.toNat < 8 ∧ s.onnus1 key = false) ∧
    (∃ (s : State) (p : _) (key : _) (ad : BitVec 5) (imm : BitVec 15), Issues p key s ∧ ad.toNat < 8 ∧ imm.toNat < 64) ∧
    (∃ (r : BitVec 5) (q : BitVec 5) (z : Int), r.toNat < 8 ∧ q.toNat < 8 ∧ -(2 ^ 71) ≤ z ∧ z < 2 ^ 71) ∧
    (∃ (r : BitVec 5) (q : BitVec 5), r.toNat < 8 ∧ q.toNat < 8 ∧ q ≠ r) :=
  ⟨⟨run, 0, 0, 0, issues_of (by decide +kernel), by decide +kernel, by decide +kernel⟩,
    ⟨run, 0, 0, 0, 0, issues_of (by decide +kernel), by decide +kernel, by decide +kernel⟩,
    ⟨0, 1, 0, by decide +kernel⟩,
    ⟨0, 1, by decide +kernel⟩⟩

theorem wit_OnnusFloat :
    (∃ (s : State) (p : _) (key : _) (gd : _) (gs1 : _) (gs2 : _), Issues p key s ∧ fOk gd = true ∧ fOk gs1 = true ∧
      fOk gs2 = true ∧ s.onnus1 key = false) ∧
    (∃ (s : State) (p : _) (key : _) (gd : _) (gs1 : _) (gs2 : _), Issues p key s ∧ fOk gd = true ∧ fOk gs1 = true ∧
      fOk gs2 = true ∧ s.onnus1 key = true) ∧
    (∃ (s : State) (p : _) (key : _) (gs1 : _), Issues p key s ∧ fOk gs1 = true) ∧
    (∃ (s : State) (p : _) (key : _) (gd : _), Issues p key s ∧ fOk gd = true) ∧
    (∃ (s : State) (p : _) (key : _) (gs1 : _) (gs2 : _), Issues p key s ∧ fOk gs1 = true ∧ fOk gs2 = true) :=
  ⟨⟨run, 0, 0, 1, 2, 3, issues_of (by decide +kernel), by decide +kernel, by decide +kernel, by decide +kernel,
     by decide +kernel⟩,
    ⟨(run1 {}), 0, 0, 1, 2, 3, issues_of (by decide +kernel), by decide +kernel, by decide +kernel, by decide +kernel,
     by decide +kernel⟩,
    ⟨run, 0, 0, 2, issues_of (by decide +kernel), by decide +kernel⟩,
    ⟨run, 0, 0, 1, issues_of (by decide +kernel), by decide +kernel⟩,
    ⟨run, 0, 0, 2, 3, issues_of (by decide +kernel), by decide +kernel, by decide +kernel⟩⟩

theorem wit_OnnusDrive :
    (∃ (s : State) (p : _) (key : _) (gd : _) (gs1 : _) (gs2 : _), Issues p key s ∧ fOk gd = true ∧ evenOk gd = true ∧
      fOk gs1 = true ∧ fOk gs2 = true) ∧
    (∃ (s : State) (p : _) (key : _) (gd : _) (gs1 : _), Issues p key s ∧ fOk gd = true ∧ evenOk gd = true ∧
      fOk gs1 = true ∧ evenOk gs1 = true) ∧
    (∃ (s : State) (p : _) (key : _) (gd : _), Issues p key s ∧ fOk gd = true ∧ evenOk gd = true) ∧
    (∃ (s : State) (p : _) (key : _) (gs1 : _) (gs2 : _), Issues p key s ∧ fOk gs1 = true ∧ fOk gs2 = true) ∧
    (∃ (s : State) (p : _) (key : _) (gd : _) (gs1 : _) (gs2 : _), Issues p key s ∧ fOk gd = true ∧ fOk gs1 = true ∧
      (((s.ctx key).gr gs2).toNat) % 4 ≠ 0) ∧
    (∃ (s : State) (p : _) (key : _) (gd : _) (gs1 : _) (gs2 : _), Issues p key s ∧ fOk gd = true ∧ fOk gs1 = true ∧
      (((s.ctx key).gr gs2).toNat) % 4 = 0 ∧ 0x1E800 < (((s.ctx key).gr gs2).toNat) + 28) ∧
    (∃ (s : State) (p : _) (key : _) (gd : _) (gs1 : _) (gs2 : _), Issues p key s ∧ fOk gd = true ∧ fOk gs1 = true ∧
      (((s.ctx key).gr gs2).toNat) % 4 = 0 ∧ (((s.ctx key).gr gs2).toNat) + 28 ≤ 0x1E800 ∧
      s.memRead p true (((s.ctx key).gr gs2).toNat) 28 = none) ∧
    (∃ (s : State) (p : _) (key : _) (gd : _) (gs1 : _) (gs2 : _) (u : State), Issues p key s ∧ fOk gd = true ∧
      fOk gs1 = true ∧ (((s.ctx key).gr gs2).toNat) % 4 = 0 ∧ (((s.ctx key).gr gs2).toNat) + 28 ≤ 0x1E800 ∧
      s.memRead p true (((s.ctx key).gr gs2).toNat) 28 = some u) ∧
    (∃ (s : State) (p : _) (key : _) (gd : _) (gs1 : _), Issues p key s ∧ fOk gd = true ∧ evenOk gd = true ∧
      fOk gs1 = true ∧ s.onnus1 key = false ∧ (fIsNan ((s.ctx key).fr gs1) = true ∨ flt ((s.ctx key).fr gs1) 0 = true)) ∧
    (∃ (s : State) (p : _) (key : _) (gd : _) (gs1 : _), Issues p key s ∧ fOk gd = true ∧ evenOk gd = true ∧
      fOk gs1 = true ∧ s.onnus1 key = false ∧ fIsNan ((s.ctx key).fr gs1) = false ∧ flt ((s.ctx key).fr gs1) 0 = false ∧
      flt (fmul ((s.ctx key).fr gs1) ((s.ctx key).fr gs1)).1 (ffma ((s.ctx key).fr (gd + 1)) ((s.ctx key).fr (gd + 1)) (fmul ((s.ctx key).fr gd) ((s.ctx key).fr gd)).1).1 = false) ∧
    (∃ (s : State) (p : _) (key : _) (gd : _) (gs1 : _), Issues p key s ∧ fOk gd = true ∧ evenOk gd = true ∧
      fOk gs1 = true ∧ s.onnus1 key = false ∧ fIsNan ((s.ctx key).fr gs1) = false ∧ flt ((s.ctx key).fr gs1) 0 = false ∧
      flt (fmul ((s.ctx key).fr gs1) ((s.ctx key).fr gs1)).1 (ffma ((s.ctx key).fr (gd + 1)) ((s.ctx key).fr (gd + 1)) (fmul ((s.ctx key).fr gd) ((s.ctx key).fr gd)).1).1 = true) :=
  ⟨⟨run, 0, 0, 14, 2, 3, issues_of (by decide +kernel), by decide +kernel, by decide +kernel, by decide +kernel,
     by decide +kernel⟩,
    ⟨run, 0, 0, 14, 2, issues_of (by decide +kernel), by decide +kernel, by decide +kernel, by decide +kernel,
     by decide +kernel⟩,
    ⟨run, 0, 0, 14, issues_of (by decide +kernel), by decide +kernel, by decide +kernel⟩,
    ⟨run, 0, 0, 2, 3, issues_of (by decide +kernel), by decide +kernel, by decide +kernel⟩,
    ⟨(runC (cx 0 1)), 0, 0, 1, 2, 3, issues_of (by decide +kernel), by decide +kernel, by decide +kernel,
     by decide +kernel⟩,
    ⟨(runC (cx 0 0x1E7E8)), 0, 0, 1, 2, 3, issues_of (by decide +kernel), by decide +kernel, by decide +kernel,
     by decide +kernel, by decide +kernel⟩,
    ⟨(run.setPair 0 { ue := [(true, 0)] }), 0, 0, 1, 2, 3, issues_of (by decide +kernel), by decide +kernel,
     by decide +kernel, by decide +kernel, by decide +kernel, by decide +kernel⟩,
    ⟨run, 0, 0, 1, 2, 3, _, issues_of (by decide +kernel), by decide +kernel, by decide +kernel, by decide +kernel,
     by decide +kernel, some_of (by decide +kernel)⟩,
    ⟨(runC (({ : Ctx }).setF 2 0xBF800000)), 0, 0, 14, 2, issues_of (by decide +kernel), by decide +kernel,
     by decide +kernel, by decide +kernel, by decide +kernel, by decide +kernel⟩,
    ⟨(runC (({ : Ctx }).setF 2 0x3F800000)), 0, 0, 14, 2, issues_of (by decide +kernel), by decide +kernel,
     by decide +kernel, by decide +kernel, by decide +kernel, by decide +kernel, by decide +kernel, by decide +kernel⟩,
    ⟨(runC ((({ : Ctx }).setF 2 0x3F800000).setF 14 0x40000000)), 0, 0, 14, 2, issues_of (by decide +kernel),
     by decide +kernel, by decide +kernel, by decide +kernel, by decide +kernel, by decide +kernel, by decide +kernel,
     by decide +kernel⟩⟩

theorem wit_OnnusLoads :
    (∃ (s : State) (p : _) (key : _) (gd : _) (gs1 : _) (imm : BitVec 15) (x : _), Issues p key s ∧ fOk gd = true ∧
      x ∈ loadForms p gd gs1 imm ∧ (((s.ctx key).gr gs1 + imm.signExtend 32).toNat) % x.2.1 ≠ 0) ∧
    (∃ (s : State) (p : _) (key : _) (gd : _) (gs1 : _) (imm : BitVec 15) (x : _), Issues p key s ∧ fOk gd = true ∧
      x ∈ loadForms p gd gs1 imm ∧ (((s.ctx key).gr gs1 + imm.signExtend 32).toNat) % x.2.1 = 0 ∧
      s.memTarget (((s.ctx key).gr gs1 + imm.signExtend 32).toNat) x.2.1 = .bad) ∧
    (∃ (s : State) (p : _) (key : _) (gd : _) (gs1 : _) (imm : BitVec 15) (x : _) (u : State), Issues p key s ∧
      fOk gd = true ∧ x ∈ loadForms p gd gs1 imm ∧ (((s.ctx key).gr gs1 + imm.signExtend 32).toNat) % x.2.1 = 0 ∧
      (((s.ctx key).gr gs1 + imm.signExtend 32).toNat) + x.2.1 ≤ 0x1E800 ∧
      s.memRead p true (((s.ctx key).gr gs1 + imm.signExtend 32).toNat) x.2.1 = some u) ∧
    (∃ (s : State) (p : _) (key : _) (gd : _) (gs1 : _) (imm : BitVec 15) (x : _), Issues p key s ∧ fOk gd = true ∧
      x ∈ loadForms p gd gs1 imm ∧ (((s.ctx key).gr gs1 + imm.signExtend 32).toNat) % x.2.1 = 0 ∧
      (((s.ctx key).gr gs1 + imm.signExtend 32).toNat) + x.2.1 ≤ 0x1E800 ∧
      s.memRead p true (((s.ctx key).gr gs1 + imm.signExtend 32).toNat) x.2.1 = none) ∧
    (∃ (s : State) (p : _) (key : _) (gd : _) (gs1 : _) (imm : BitVec 15) (x : _) (v : _) (t : _), Issues p key s ∧
      fOk gd = true ∧ x ∈ loadForms p gd gs1 imm ∧ (((s.ctx key).gr gs1 + imm.signExtend 32).toNat) % x.2.1 = 0 ∧
      s.memTarget (((s.ctx key).gr gs1 + imm.signExtend 32).toNat) x.2.1 = .sram ∧
      (s.drainTo p (fun e => e.touches (((s.ctx key).gr gs1 + imm.signExtend 32).toNat) x.2.1)).sramLoad (((s.ctx key).gr gs1 + imm.signExtend 32).toNat) x.2.1 = (some v, t)) ∧
    (∃ (s : State) (p : _) (key : _) (gd : _) (gs1 : _) (imm : BitVec 15) (x : _) (t : State), Issues p key s ∧
      fOk gd = true ∧ x ∈ loadForms p gd gs1 imm ∧ (((s.ctx key).gr gs1 + imm.signExtend 32).toNat) % x.2.1 = 0 ∧
      s.memTarget (((s.ctx key).gr gs1 + imm.signExtend 32).toNat) x.2.1 = .sram ∧
      (s.drainTo p (fun e => e.touches (((s.ctx key).gr gs1 + imm.signExtend 32).toNat) x.2.1)).sramLoad (((s.ctx key).gr gs1 + imm.signExtend 32).toNat) x.2.1 = (none, t)) ∧
    (∃ (s : State) (p : Nat) (d : Bool) (a : Nat) (n : Nat), touchW (s.pair p).ue d a n = true) ∧
    (∃ (s : State) (p : Nat) (d : Bool) (a : Nat) (n : Nat), touchW (s.pair p).ue d a n = false ∧
      touchW (s.pair p).ce d a n = false) ∧
    (∃ (s : State) (p : Nat) (d : Bool) (a : Nat) (n : Nat), touchW (s.pair p).ue d a n = false ∧
      touchW (s.pair p).ce d a n = true) :=
  ⟨⟨(runC (cx 1 0)), 0, 0, 1, 2, 0, (loadForms 0 1 2 0).head (List.cons_ne_nil _ _), issues_of (by decide +kernel),
     by decide +kernel, List.head_mem _, by decide +kernel⟩,
    ⟨(runC (cx 0x1E800 0)), 0, 0, 1, 2, 0, (loadForms 0 1 2 0).head (List.cons_ne_nil _ _),
     issues_of (by decide +kernel), by decide +kernel, List.head_mem _, by decide +kernel, by decide +kernel⟩,
    ⟨(runC (cx 0x1E7FC 0)), 0, 0, 1, 2, 0, (loadForms 0 1 2 0).head (List.cons_ne_nil _ _), _,
     issues_of (by decide +kernel), by decide +kernel, List.head_mem _, by decide +kernel, by decide +kernel,
     some_of (by decide +kernel)⟩,
    ⟨((runC (cx 0x1E7FC 0)).setPair 0 { ue := [(true, 0x79FF)] }), 0, 0, 1, 2, 0,
     (loadForms 0 1 2 0).head (List.cons_ne_nil _ _), issues_of (by decide +kernel), by decide +kernel, List.head_mem _,
     by decide +kernel, by decide +kernel, by decide +kernel⟩,
    ⟨(runC (cx 0x10500000 0)), 0, 0, 1, 2, 0, (loadForms 0 1 2 0).head (List.cons_ne_nil _ _), _, _,
     issues_of (by decide +kernel), by decide +kernel, List.head_mem _, by decide +kernel, by decide +kernel,
     pair_some (by decide +kernel)⟩,
    ⟨{ runC (cx 0x10500000 0) with eccUe := [0x10500000] }, 0, 0, 1, 2, 0,
     (loadForms 0 1 2 0).head (List.cons_ne_nil _ _), _, issues_of (by decide +kernel), by decide +kernel,
     List.head_mem _, by decide +kernel, by decide +kernel, pair_of (by decide +kernel)⟩,
    ⟨(on.setPair 0 { ue := [(true, 1)] }), 0, true, 4, 2, by decide +kernel⟩,
    ⟨on, 0, true, 4, 4, by decide +kernel⟩,
    ⟨(on.setPair 0 { ce := [(true, 1)] }), 0, true, 4, 2, by decide +kernel⟩⟩

theorem wit_OnnusStores :
    (∃ (s : State) (p : _) (key : _) (gd : _) (gs1 : _) (imm : BitVec 15) (x : _), Issues p key s ∧ fOk gd = true ∧
      x ∈ storeForms p gd gs1 imm ∧ (((s.ctx key).gr gs1 + imm.signExtend 32).toNat) % x.2.1 ≠ 0) ∧
    (∃ (s : State) (p : _) (key : _) (gd : _) (gs1 : _) (imm : BitVec 15) (x : _), Issues p key s ∧ fOk gd = true ∧
      x ∈ storeForms p gd gs1 imm ∧ (((s.ctx key).gr gs1 + imm.signExtend 32).toNat) % x.2.1 = 0 ∧
      s.memTarget (((s.ctx key).gr gs1 + imm.signExtend 32).toNat) x.2.1 = .bad) ∧
    (∃ (s : State) (p : _) (key : _) (gd : _) (gs1 : _) (imm : BitVec 15) (x : _), Issues p key s ∧ fOk gd = true ∧
      x ∈ storeForms p gd gs1 imm ∧ (((s.ctx key).gr gs1 + imm.signExtend 32).toNat) % x.2.1 = 0 ∧
      s.memTarget (((s.ctx key).gr gs1 + imm.signExtend 32).toNat) x.2.1 = .sram ∧
      s.dmaForeign (s.ownerCode key) (((s.ctx key).gr gs1 + imm.signExtend 32).toNat) x.2.1 = true) ∧
    (∃ (s : State) (p : _) (key : _) (gd : _) (gs1 : _) (imm : BitVec 15) (x : _) (u : State), Issues p key s ∧
      fOk gd = true ∧ x ∈ storeForms p gd gs1 imm ∧ (((s.ctx key).gr gs1 + imm.signExtend 32).toNat) % x.2.1 = 0 ∧
      (((s.ctx key).gr gs1 + imm.signExtend 32).toNat) + x.2.1 ≤ 0x1E800 ∧
      s.memStore p true (((s.ctx key).gr gs1 + imm.signExtend 32).toNat) x.2.1 = some u) ∧
    (∃ (s : State) (p : _) (key : _) (gd : _) (gs1 : _) (imm : BitVec 15) (x : _), Issues p key s ∧ fOk gd = true ∧
      x ∈ storeForms p gd gs1 imm ∧ (((s.ctx key).gr gs1 + imm.signExtend 32).toNat) % x.2.1 = 0 ∧
      (((s.ctx key).gr gs1 + imm.signExtend 32).toNat) + x.2.1 ≤ 0x1E800 ∧
      s.memStore p true (((s.ctx key).gr gs1 + imm.signExtend 32).toNat) x.2.1 = none) ∧
    (∃ (s : State) (p : _) (key : _) (gd : _) (gs1 : _) (imm : BitVec 15) (x : _), Issues p key s ∧ fOk gd = true ∧
      x ∈ storeForms p gd gs1 imm ∧ (((s.ctx key).gr gs1 + imm.signExtend 32).toNat) % x.2.1 = 0 ∧
      s.memTarget (((s.ctx key).gr gs1 + imm.signExtend 32).toNat) x.2.1 = .sram ∧
      s.dmaForeign (s.ownerCode key) (((s.ctx key).gr gs1 + imm.signExtend 32).toNat) x.2.1 = false) ∧
    (∃ (a : Nat) (n : Nat) (b : Nat), (b < a ∨ a + n ≤ b)) ∧
    (∃ (p : PairNo) (q : _), q ≠ p.val) ∧
    (∃ (n : _), n ≠ 4) :=
  ⟨⟨(runC (cx 1 0)), 0, 0, 1, 2, 0, (storeForms 0 1 2 0).head (List.cons_ne_nil _ _), issues_of (by decide +kernel),
     by decide +kernel, List.head_mem _, by decide +kernel⟩,
    ⟨(runC (cx 0x1E800 0)), 0, 0, 1, 2, 0, (storeForms 0 1 2 0).head (List.cons_ne_nil _ _),
     issues_of (by decide +kernel), by decide +kernel, List.head_mem _, by decide +kernel, by decide +kernel⟩,
    ⟨{ runC (cx 0x10500000 0) with dma := [(0, 0x10500000, 8)], claims := [(0x7000, 0x31)] }, 0, 0, 1, 2, 0,
     (storeForms 0 1 2 0).head (List.cons_ne_nil _ _), issues_of (by decide +kernel), by decide +kernel, List.head_mem _,
     by decide +kernel, by decide +kernel, by decide +kernel⟩,
    ⟨(runC (cx 0x1E7FC 0)), 0, 0, 1, 2, 0, (storeForms 0 1 2 0).head (List.cons_ne_nil _ _), _,
     issues_of (by decide +kernel), by decide +kernel, List.head_mem _, by decide +kernel, by decide +kernel,
     some_of (by decide +kernel)⟩,
    ⟨((runC (cx 0x1E7FC 0)).setPair 0 { ue := [(true, 0x79FF)] }), 0, 0, 1, 2, 0,
     (storeForms 0 1 2 0).tail.head (List.cons_ne_nil _ _), issues_of (by decide +kernel), by decide +kernel,
     List.mem_of_mem_tail (List.head_mem _), by decide +kernel, by decide +kernel, by decide +kernel⟩,
    ⟨(runC (cx 0x10500000 0)), 0, 0, 1, 2, 0, (storeForms 0 1 2 0).head (List.cons_ne_nil _ _),
     issues_of (by decide +kernel), by decide +kernel, List.head_mem _, by decide +kernel, by decide +kernel,
     by decide +kernel⟩,
    ⟨4, 4, 8, by decide +kernel⟩,
    ⟨0, 1, by decide +kernel⟩,
    ⟨0, by decide +kernel⟩⟩

theorem wit_OnnusAtomics :
    (∃ (s : State) (p : _) (key : _) (gs1 : _), Issues p key s ∧ (((s.ctx key).gr gs1).toNat) % 4 ≠ 0) ∧
    (∃ (s : State) (p : _) (key : _) (gs1 : _), Issues p key s ∧ (((s.ctx key).gr gs1).toNat) % 4 = 0 ∧
      s.memTarget (((s.ctx key).gr gs1).toNat) 4 = .bad) ∧
    (∃ (s : State) (p : _) (key : _) (gs1 : _), Issues p key s ∧ (((s.ctx key).gr gs1).toNat) % 4 = 0 ∧
      (((s.ctx key).gr gs1).toNat) + 4 ≤ 0x1E800 ∧ s.memRead p true (((s.ctx key).gr gs1).toNat) 4 = none) ∧
    (∃ (s : State) (p : _) (key : _) (gd : _) (gs1 : _) (u : State), Issues p key s ∧
      (((s.ctx key).gr gs1).toNat) % 4 = 0 ∧ (((s.ctx key).gr gs1).toNat) + 4 ≤ 0x1E800 ∧
      s.memRead p true (((s.ctx key).gr gs1).toNat) 4 = some u ∧ s.onnus1 key = false ∧
      (BitVec.ofNat 32 (cellWord (u.pair p).dmem (((s.ctx key).gr gs1).toNat) 4)) = (s.ctx key).gr gd) ∧
    (∃ (s : State) (p : _) (key : _) (gd : _) (gs1 : _) (u : State), Issues p key s ∧
      (((s.ctx key).gr gs1).toNat) % 4 = 0 ∧ (((s.ctx key).gr gs1).toNat) + 4 ≤ 0x1E800 ∧
      s.memRead p true (((s.ctx key).gr gs1).toNat) 4 = some u ∧ s.onnus1 key = false ∧
      (BitVec.ofNat 32 (cellWord (u.pair p).dmem (((s.ctx key).gr gs1).toNat) 4)) ≠ (s.ctx key).gr gd) ∧
    (∃ (s : State) (p : _) (key : _) (gs1 : _), Issues p key s ∧ (((s.ctx key).gr gs1).toNat) % 4 = 0 ∧
      s.memTarget (((s.ctx key).gr gs1).toNat) 4 = .sram ∧
      s.dmaForeign (s.ownerCode key) (((s.ctx key).gr gs1).toNat) 4 = true) ∧
    (∃ (s : State) (p : _) (key : _) (gs1 : _) (v : _) (t : _), Issues p key s ∧ (((s.ctx key).gr gs1).toNat) % 4 = 0 ∧
      s.memTarget (((s.ctx key).gr gs1).toNat) 4 = .sram ∧
      s.dmaForeign (s.ownerCode key) (((s.ctx key).gr gs1).toNat) 4 = false ∧
      (s.drainN p (s.pair p).queue.length).sramLoad (((s.ctx key).gr gs1).toNat) 4 = (some v, t)) ∧
    (∃ (a : Nat) (n : Nat) (b : Nat), (b < a ∨ a + n ≤ b)) :=
  ⟨⟨(runC (cx 1 0)), 0, 0, 2, issues_of (by decide +kernel), by decide +kernel⟩,
    ⟨(runC (cx 0x1E800 0)), 0, 0, 2, issues_of (by decide +kernel), by decide +kernel, by decide +kernel⟩,
    ⟨(run.setPair 0 { ue := [(true, 0)] }), 0, 0, 2, issues_of (by decide +kernel), by decide +kernel, by decide +kernel,
     by decide +kernel⟩,
    ⟨run, 0, 0, 1, 2, (run.memRead 0 true (((run.ctx 0).gr 2).toNat) 4).get (by decide +kernel),
     issues_of (by decide +kernel), by decide +kernel, by decide +kernel, (Option.some_get _).symm, by decide +kernel,
     by decide +kernel⟩,
    ⟨(runC (({ : Ctx }).setG 1 1)), 0, 0, 1, 2,
     ((runC (({ : Ctx }).setG 1 1)).memRead 0 true ((((runC (({ : Ctx }).setG 1 1)).ctx 0).gr 2).toNat) 4).get (by decide +kernel),
     issues_of (by decide +kernel), by decide +kernel, by decide +kernel, (Option.some_get _).symm, by decide +kernel,
     by decide +kernel⟩,
    ⟨{ runC (cx 0x10500000 0) with dma := [(0, 0x10500000, 8)], claims := [(0x7000, 0x31)] }, 0, 0, 2,
     issues_of (by decide +kernel), by decide +kernel, by decide +kernel, by decide +kernel⟩,
    ⟨(runC (cx 0x10500000 0)), 0, 0, 2, _, _, issues_of (by decide +kernel), by decide +kernel, by decide +kernel,
     by decide +kernel, pair_some (by decide +kernel)⟩,
    ⟨4, 4, 8, by decide +kernel⟩⟩

theorem wit_OnnusFlow :
    (∃ (s : State) (p : _) (key : _) (gs1 : _) (gs2 : _) (off : BitVec 15) (x : _), Issues p key s ∧
      x ∈ branchForms p gs1 gs2 off ∧ x.2 ((s.ctx key).gr gs1) ((s.ctx key).gr gs2) = false) ∧
    (∃ (s : State) (p : _) (key : _) (gs1 : _) (gs2 : _) (off : BitVec 15) (x : _), Issues p key s ∧
      x ∈ branchForms p gs1 gs2 off ∧ x.2 ((s.ctx key).gr gs1) ((s.ctx key).gr gs2) = true ∧
      0 ≤ ((s.ctx key).pc.toNat + 4 * off.toInt) ∧ ((s.ctx key).pc.toNat + 4 * off.toInt) ≤ 0xFFFC) ∧
    (∃ (s : State) (p : _) (key : _) (gs1 : _) (gs2 : _) (off : BitVec 15) (x : _), Issues p key s ∧
      x ∈ branchForms p gs1 gs2 off ∧ x.2 ((s.ctx key).gr gs1) ((s.ctx key).gr gs2) = true ∧
      (¬(0 ≤ ((s.ctx key).pc.toNat + 4 * off.toInt) ∧ ((s.ctx key).pc.toNat + 4 * off.toInt) ≤ 0xFFFC))) ∧
    (∃ (s : State) (p : _) (key : _) (imm : BitVec 20), Issues p key s ∧ 0 ≤ ((s.ctx key).pc.toNat + 4 * imm.toInt) ∧
      ((s.ctx key).pc.toNat + 4 * imm.toInt) ≤ 0xFFFC) ∧
    (∃ (s : State) (p : _) (key : _) (imm : BitVec 20), Issues p key s ∧ (¬(0 ≤ ((s.ctx key).pc.toNat + 4 * imm.toInt) ∧
      ((s.ctx key).pc.toNat + 4 * imm.toInt) ≤ 0xFFFC))) ∧
    (∃ (s : State) (p : _) (key : _) (gs1 : _) (imm : BitVec 15), Issues p key s ∧
      ((s.ctx key).gr gs1 + imm.signExtend 32).toNat % 4 ≠ 0) ∧
    (∃ (s : State) (p : _) (key : _) (gs1 : _) (imm : BitVec 15), Issues p key s ∧
      ((s.ctx key).gr gs1 + imm.signExtend 32).toNat % 4 = 0 ∧ ((s.ctx key).gr gs1 + imm.signExtend 32).toNat ≤ 0xFFFC) ∧
    (∃ (s : State) (p : _) (key : _) (gs1 : _) (imm : BitVec 15), Issues p key s ∧
      ((s.ctx key).gr gs1 + imm.signExtend 32).toNat % 4 = 0 ∧ 0xFFFC < ((s.ctx key).gr gs1 + imm.signExtend 32).toNat) ∧
    (∃ (s : State) (p : _) (key : _) (imm : BitVec 15), Issues p key s ∧ 1 ≤ imm.toNat ∧ imm.toNat < 4096 ∧
      s.onnus1 key = false ∧ (s.ctx key).lcnt ≠ 0) ∧
    (∃ (s : State) (p : _) (key : _) (gs1 : _) (imm : BitVec 15), Issues p key s ∧ 1 ≤ imm.toNat ∧ imm.toNat < 4096 ∧
      s.onnus1 key = false ∧ (s.ctx key).lcnt = 0 ∧ (s.ctx key).gr gs1 = 0) ∧
    (∃ (s : State) (p : _) (key : _) (gs1 : _) (imm : BitVec 15), Issues p key s ∧ 1 ≤ imm.toNat ∧ imm.toNat < 4096 ∧
      s.onnus1 key = false ∧ (s.ctx key).lcnt = 0 ∧ (s.ctx key).gr gs1 ≠ 0) ∧
    (∃ (s : State) (p : _) (key : _) (imm : BitVec 20), Issues p key s ∧ bitsOf imm.toNat 7 0 ≠ 0 ∧
      s.onnus1 key = false ∧ (s.ctx key).lcnt ≠ 0) ∧
    (∃ (s : State) (p : _) (key : _) (imm : BitVec 20), Issues p key s ∧ bitsOf imm.toNat 7 0 ≠ 0 ∧
      s.onnus1 key = false ∧ (s.ctx key).lcnt = 0 ∧ (BitVec.ofNat 32 (bitsOf imm.toNat 19 8)) = 0) ∧
    (∃ (s : State) (p : _) (key : _) (imm : BitVec 20), Issues p key s ∧ bitsOf imm.toNat 7 0 ≠ 0 ∧
      s.onnus1 key = false ∧ (s.ctx key).lcnt = 0 ∧ (BitVec.ofNat 32 (bitsOf imm.toNat 19 8)) ≠ 0) :=
  ⟨⟨(runC (cx 1 0)), 0, 0, 2, 3, 0, (branchForms 0 2 3 0).head (List.cons_ne_nil _ _), issues_of (by decide +kernel),
     List.head_mem _, by decide +kernel⟩,
    ⟨run, 0, 0, 2, 3, 0, (branchForms 0 2 3 0).head (List.cons_ne_nil _ _), issues_of (by decide +kernel),
     List.head_mem _, by decide +kernel, by decide +kernel, by decide +kernel⟩,
    ⟨run, 0, 0, 2, 3, -1, (branchForms 0 2 3 (-1)).head (List.cons_ne_nil _ _), issues_of (by decide +kernel),
     List.head_mem _, by decide +kernel, by decide +kernel⟩,
    ⟨run, 0, 0, 0, issues_of (by decide +kernel), by decide +kernel, by decide +kernel⟩,
    ⟨run, 0, 0, -1, issues_of (by decide +kernel), by decide +kernel⟩,
    ⟨run, 0, 0, 2, 2, issues_of (by decide +kernel), by decide +kernel⟩,
    ⟨run, 0, 0, 2, 0, issues_of (by decide +kernel), by decide +kernel, by decide +kernel⟩,
    ⟨(runC (cx 0x10000 0)), 0, 0, 2, 0, issues_of (by decide +kernel), by decide +kernel, by decide +kernel⟩,
    ⟨(runC { lcnt := 1 }), 0, 0, 4095, issues_of (by decide +kernel), by decide +kernel, by decide +kernel,
     by decide +kernel, by decide +kernel⟩,
    ⟨run, 0, 0, 2, 1, issues_of (by decide +kernel), by decide +kernel, by decide +kernel, by decide +kernel,
     by decide +kernel, by decide +kernel⟩,
    ⟨(runC (cx 1 0)), 0, 0, 2, 1, issues_of (by decide +kernel), by decide +kernel, by decide +kernel, by decide +kernel,
     by decide +kernel, by decide +kernel⟩,
    ⟨(runC { lcnt := 1 }), 0, 0, 1, issues_of (by decide +kernel), by decide +kernel, by decide +kernel,
     by decide +kernel⟩,
    ⟨run, 0, 0, 255, issues_of (by decide +kernel), by decide +kernel, by decide +kernel, by decide +kernel,
     by decide +kernel⟩,
    ⟨run, 0, 0, 0x101, issues_of (by decide +kernel), by decide +kernel, by decide +kernel, by decide +kernel,
     by decide +kernel⟩⟩

theorem wit_OutboundQueue :
    (∃ (s : State) (p : PairNo), (s.pair p).queue = []) ∧
    (∃ (s : State) (p : PairNo) (e : _) (r : List OutEntry), (s.pair p).queue = e :: r) ∧
    (∃ (s : State) (p : PairNo) (q : _), (s.pair p).queue.length < 8 ∧ q ≠ p.val) :=
  ⟨⟨(on.setPair 0 { queue := [] }), 0, by decide +kernel⟩,
    ⟨(on.setPair 0 { queue := [.trigger 0] }), 0, .trigger 0, [], by decide +kernel⟩,
    ⟨on, 0, 1, by decide +kernel⟩⟩

theorem wit_OnnusPorts :
    (∃ (s : State) (p : _) (key : _) (port : BitVec 16), Issues p key s ∧
      (s.drainTo p (fun e => e.isPort (portTarget (key / 16) port))).windowOn (winOf (portTarget (key / 16) port)) = false) ∧
    (∃ (s : State) (p : PairNo) (key : Nat) (port : BitVec 16) (v : Word) (t : State), Issues p key s ∧
      (s.drainTo p (fun e => e.isPort (portTarget (key / 16) port))).windowOn (winOf (portTarget (key / 16) port)) = true ∧
      (s.drainTo p (fun e => e.isPort (portTarget (key / 16) port))).regRead (portTarget (key / 16) port) = (v, t)) ∧
    (∃ (s : State) (p : _) (key : _) (gs1 : _), Issues p key s ∧
      (s.drainTo p (fun e => e.isPort (portTarget (key / 16) (((s.ctx key).gr gs1).setWidth 16)))).windowOn (winOf (portTarget (key / 16) (((s.ctx key).gr gs1).setWidth 16))) = false) ∧
    (∃ (s : State) (p : PairNo) (key : Nat) (gs1 : BitVec 5) (v : Word) (t : State), Issues p key s ∧
      (s.drainTo p (fun e => e.isPort (portTarget (key / 16) (((s.ctx key).gr gs1).setWidth 16)))).windowOn (winOf (portTarget (key / 16) (((s.ctx key).gr gs1).setWidth 16))) = true ∧
      (s.drainTo p (fun e => e.isPort (portTarget (key / 16) (((s.ctx key).gr gs1).setWidth 16)))).regRead (portTarget (key / 16) (((s.ctx key).gr gs1).setWidth 16)) = (v, t)) ∧
    (∃ (s : State) (p : _) (key : _) (g : _) (port : BitVec 16) (i : Instr), Issues p key s ∧
      i ∈ [.poutMode0 p g port, .poutMode1 p g port, .psetOr p g port, .psetAndnot p g port, .psetXor p g port] ∧
      s.portWritable (key / 16) (portTarget (key / 16) port) = false) ∧
    (∃ (s : State) (p : _) (key : _) (g : _) (port : BitVec 16) (i : Instr), Issues p key s ∧
      i ∈ [.poutMode0 p g port, .poutMode1 p g port, .psetOr p g port, .psetAndnot p g port, .psetXor p g port] ∧
      s.portWritable (key / 16) (portTarget (key / 16) port) = true ∧
      s.windowOn (winOf (portTarget (key / 16) port)) = false) ∧
    (∃ (s : State) (p : _) (key : _) (port : BitVec 16), Issues p key s ∧
      s.portWritable (key / 16) (portTarget (key / 16) port) = true ∧
      s.windowOn (winOf (portTarget (key / 16) port)) = true) ∧
    (∃ (s : State) (p : _) (key : _) (gs1 : _), Issues p key s ∧
      s.portWritable (key / 16) (portTarget (key / 16) (((s.ctx key).gr gs1).setWidth 16)) = false) ∧
    (∃ (s : State) (p : _) (key : _) (gs1 : _), Issues p key s ∧
      s.portWritable (key / 16) (portTarget (key / 16) (((s.ctx key).gr gs1).setWidth 16)) = true ∧
      s.windowOn (winOf (portTarget (key / 16) (((s.ctx key).gr gs1).setWidth 16))) = false) ∧
    (∃ (s : State) (p : _) (key : _) (gs1 : _), Issues p key s ∧
      s.portWritable (key / 16) (portTarget (key / 16) (((s.ctx key).gr gs1).setWidth 16)) = true ∧
      s.windowOn (winOf (portTarget (key / 16) (((s.ctx key).gr gs1).setWidth 16))) = true) :=
  ⟨⟨{ run with domOn := 0x3EFF }, 0, 0, 0x8000, issues_of (by decide +kernel), by decide +kernel⟩,
    ⟨run, 0, 0, 0xE000, _, _, issues_of (by decide +kernel), by decide +kernel, (Prod.eta _).symm⟩,
    ⟨{ runC (cx 0x8000 0) with domOn := 0x3EFF }, 0, 0, 2, issues_of (by decide +kernel), by decide +kernel⟩,
    ⟨(runC (cx 0xE000 0)), 0, 0, 2, _, _, issues_of (by decide +kernel), by decide +kernel, (Prod.eta _).symm⟩,
    ⟨(run.put (F.LEG_CTL_OWNER 0) 32), 0, 0, 0, 0x8000, .poutMode0 0 0 0x8000, issues_of (by decide +kernel),
     by decide +kernel, by decide +kernel⟩,
    ⟨{ (((runC (cx 0x0000 0)).setTask 0 { runTask with desc0 := 0x90000000#32, ctx := cx 0x8000 0 }).put (F.LEG_CTL_OWNER 0) 0) with domOn := 0x3EFF },
     0, 0, 0, 0x8000, .poutMode0 0 0 0x8000, issues_of (by decide +kernel), by decide +kernel, by decide +kernel,
     by decide +kernel⟩,
    ⟨(((runC (cx 0x0000 0)).setTask 0 { runTask with desc0 := 0x90000000#32, ctx := cx 0x8000 0 }).put (F.LEG_CTL_OWNER 0) 0),
     0, 0, 0x8000, issues_of (by decide +kernel), by decide +kernel, by decide +kernel⟩,
    ⟨run, 0, 0, 2, issues_of (by decide +kernel), by decide +kernel⟩,
    ⟨{ (((runC (cx 0x0000 0)).setTask 0 { runTask with desc0 := 0x90000000#32, ctx := cx 0x8000 0 }).put (F.LEG_CTL_OWNER 0) 0) with domOn := 0x3EFF },
     0, 0, 2, issues_of (by decide +kernel), by decide +kernel, by decide +kernel⟩,
    ⟨(((runC (cx 0x0000 0)).setTask 0 { runTask with desc0 := 0x90000000#32, ctx := cx 0x8000 0 }).put (F.LEG_CTL_OWNER 0) 0),
     0, 0, 2, issues_of (by decide +kernel), by decide +kernel, by decide +kernel⟩⟩

theorem wit_OnnusSignals :
    (∃ (s : State) (p : _) (key : _) (gd : _) (gs1 : _), Issues p key s ∧ evenOk gd = true ∧ s.onnus1 key = false ∧
      2 ^ 20 ≤ (((s.ctx key).gr gs1).toNat)) ∧
    (∃ (s : State) (p : _) (key : _) (gd : _) (gs1 : _), Issues p key s ∧ evenOk gd = true ∧ s.onnus1 key = false ∧
      (((s.ctx key).gr gs1).toNat) < 2 ^ 20 ∧
      (State.correctCe { (s.drainTo p (fun e => e.isSig (((s.ctx key).gr gs1).toNat))) with freeCount := (s.drainTo p (fun e => e.isSig (((s.ctx key).gr gs1).toNat))).freeCount + 1 } (sigCell (((s.ctx key).gr gs1).toNat)) 8).eccUe.contains (sigCell (((s.ctx key).gr gs1).toNat)) = true) ∧
    (∃ (s : State) (p : _) (key : _) (gd : _) (gs1 : _), Issues p key s ∧ evenOk gd = true ∧ s.onnus1 key = false ∧
      (((s.ctx key).gr gs1).toNat) < 2 ^ 20 ∧
      (State.correctCe { (s.drainTo p (fun e => e.isSig (((s.ctx key).gr gs1).toNat))) with freeCount := (s.drainTo p (fun e => e.isSig (((s.ctx key).gr gs1).toNat))).freeCount + 1 } (sigCell (((s.ctx key).gr gs1).toNat)) 8).eccUe.contains (sigCell (((s.ctx key).gr gs1).toNat)) = false) ∧
    (∃ (s : State) (p : _) (key : _) (gd : _) (imm : BitVec 20), Issues p key s ∧ evenOk gd = true ∧
      s.onnus1 key = false ∧
      (State.correctCe { (s.drainTo p (fun e => e.isSig ((imm.setWidth 32).toNat))) with freeCount := (s.drainTo p (fun e => e.isSig ((imm.setWidth 32).toNat))).freeCount + 1 } (sigCell ((imm.setWidth 32).toNat)) 8).eccUe.contains (sigCell ((imm.setWidth 32).toNat)) = true) ∧
    (∃ (s : State) (p : _) (key : _) (gd : _) (imm : BitVec 20), Issues p key s ∧ evenOk gd = true ∧
      s.onnus1 key = false ∧
      (State.correctCe { (s.drainTo p (fun e => e.isSig ((imm.setWidth 32).toNat))) with freeCount := (s.drainTo p (fun e => e.isSig ((imm.setWidth 32).toNat))).freeCount + 1 } (sigCell ((imm.setWidth 32).toNat)) 8).eccUe.contains (sigCell ((imm.setWidth 32).toNat)) = false) ∧
    (∃ (s : State) (p : _) (key : _) (gs1 : _), Issues p key s ∧ 4064 * 256 ≤ (((s.ctx key).gr gs1).toNat)) ∧
    (∃ (s : State) (p : _) (key : _) (gs1 : _), Issues p key s ∧ (((s.ctx key).gr gs1).toNat) < 4064 * 256) ∧
    (∃ (s : State) (p : _) (key : _) (gs1 : _), Issues p key s ∧ s.onnus1 key = false ∧
      2 ^ 20 ≤ (((s.ctx key).gr gs1).toNat)) ∧
    (∃ (s : State) (p : _) (key : _) (gs1 : _), Issues p key s ∧ s.onnus1 key = false ∧
      (((s.ctx key).gr gs1).toNat) < 2 ^ 20) ∧
    (∃ (s : State) (p : _) (key : _), Issues p key s ∧ s.onnus1 key = false) ∧
    (∃ (s : State) (p : PairNo) (key : _) (r : ClaimRes), s.running p = some key ∧ r = .done) ∧
    (∃ (s : State) (p : PairNo) (key : _) (r : ClaimRes), s.running p = some key ∧ r = .conflict) ∧
    (∃ (s : State) (p : PairNo) (key : _) (r : ClaimRes), s.running p = some key ∧ r = .notOwner) ∧
    (∃ (s : State) (p : PairNo) (key : _) (r : ClaimRes), s.running p = some key ∧ r = .badId) :=
  ⟨⟨(runC (cx 0x100000 0)), 0, 0, 2, 2, issues_of (by decide +kernel), by decide +kernel, by decide +kernel,
     by decide +kernel⟩,
    ⟨{ run with eccUe := [sigCell 0] }, 0, 0, 2, 2, issues_of (by decide +kernel), by decide +kernel, by decide +kernel,
     by decide +kernel, by decide +kernel⟩,
    ⟨(runC (cx 0xFFFFF 0)), 0, 0, 2, 2, issues_of (by decide +kernel), by decide +kernel, by decide +kernel,
     by decide +kernel, by decide +kernel⟩,
    ⟨{ run with eccUe := [sigCell 0] }, 0, 0, 2, 0, issues_of (by decide +kernel), by decide +kernel, by decide +kernel,
     by decide +kernel⟩,
    ⟨run, 0, 0, 2, 0xFFFFF, issues_of (by decide +kernel), by decide +kernel, by decide +kernel, by decide +kernel⟩,
    ⟨(runC (cx 0xFE000 0)), 0, 0, 2, issues_of (by decide +kernel), by decide +kernel⟩,
    ⟨run, 0, 0, 2, issues_of (by decide +kernel), by decide +kernel⟩,
    ⟨(runC (cx 0x100000 0)), 0, 0, 2, issues_of (by decide +kernel), by decide +kernel, by decide +kernel⟩,
    ⟨run, 0, 0, 2, issues_of (by decide +kernel), by decide +kernel, by decide +kernel⟩,
    ⟨(runC (cx 0xFFFF 0)), 0, 0, issues_of (by decide +kernel), by decide +kernel⟩,
    ⟨run, 0, _, .done, some_of (by decide +kernel), by decide +kernel⟩,
    ⟨run, 0, _, .conflict, some_of (by decide +kernel), by decide +kernel⟩,
    ⟨run, 0, _, .notOwner, some_of (by decide +kernel), by decide +kernel⟩,
    ⟨run, 0, _, .badId, some_of (by decide +kernel), by decide +kernel⟩⟩

theorem wit_OnnusSystem :
    (∃ (s : State) (p : _) (key : _), Issues p key s ∧ (s.ctx key).lcnt ≠ 0) ∧
    (∃ (s : State) (p : _) (key : _), Issues p key s ∧ (s.ctx key).lcnt = 0 ∧ (s.task key).src = srcCatch ∧
      s.captureRead p key = none) ∧
    (∃ (s : State) (p : _) (key : _) (v : _), Issues p key s ∧ (s.ctx key).lcnt = 0 ∧ (s.task key).src = srcCatch ∧
      s.captureRead p key = some v) ∧
    (∃ (s : State) (p : _) (key : _), Issues p key s ∧ (s.ctx key).lcnt = 0 ∧
      ((s.task key).src = srcTimer ∨ (s.task key).src = srcSignal)) ∧
    (∃ (s : State) (p : _) (key : _), Issues p key s ∧ (s.ctx key).lcnt = 0 ∧ (s.task key).src = srcOrder) ∧
    (∃ (s : State) (p : _) (key : _) (gs1 : _) (imm : BitVec 15), Issues p key s ∧ (s.task key).src = srcOrder ∧
      ((s.ctx key).gr gs1 + imm.signExtend 32).toNat % 4 ≠ 0) ∧
    (∃ (s : State) (p : _) (key : _) (gs1 : _) (imm : BitVec 15) (o : _), Issues p key s ∧ (s.task key).src = srcOrder ∧
      s.taskOrder key = some o ∧ ((s.ctx key).gr gs1 + imm.signExtend 32).toNat % 4 = 0) ∧
    (∃ (s : State) (p : _) (key : _) (imm : BitVec 15) (o : _), Issues p key s ∧ (s.task key).src = srcOrder ∧
      s.taskOrder key = some o ∧ imm.toNat < 4) ∧
    (∃ (s : State) (p : _) (key : _) (imm : BitVec 15), Issues p key s ∧ (s.task key).src ≠ srcOrder ∧ imm.toNat < 4) ∧
    (∃ (s : State) (p : _) (key : _) (imm : BitVec 15), Issues p key s ∧ imm.toNat < 4096 ∧ imm.toNat ≠ 2) ∧
    (∃ (s : State) (p : _) (key : _) (n : _) (u : _), Issues p key s ∧ s.free = (n, u)) ∧
    (∃ (s : State) (p : _) (key : _) (imm : BitVec 15), Issues p key s ∧ imm.toNat ≠ 8 ∧ imm.toNat ≠ 9) ∧
    (∃ (s : State) (p : _) (key : _) (imm : BitVec 20), Issues p key s ∧ imm.toNat < 256) :=
  ⟨⟨(runC { lcnt := 1 }), 0, 0, issues_of (by decide +kernel), by decide +kernel⟩,
    ⟨{ (run.setTask 0 { runTask with desc0 := 0x90000000#32 }).setPair 0 { ue := [(true, 0)] } with images := [(0, { tasks := [⟨0, 4, 0, 0, 0⟩] })] },
     0, 0, issues_of (by decide +kernel), by decide +kernel, by decide +kernel, by decide +kernel⟩,
    ⟨(run.setTask 0 { runTask with desc0 := 0x90000000#32 }), 0, 0, _, issues_of (by decide +kernel), by decide +kernel,
     by decide +kernel, some_of (by decide +kernel)⟩,
    ⟨(run.setTask 0 { runTask with desc0 := 0xC0000000#32 }), 0, 0, issues_of (by decide +kernel), by decide +kernel,
     by decide +kernel⟩,
    ⟨(run.setTask 0 { runTask with desc0 := 0xB0000000#32 }), 0, 0, issues_of (by decide +kernel), by decide +kernel,
     by decide +kernel⟩,
    ⟨(run.setTask 0 { runTask with desc0 := 0xB0000000#32 }), 0, 0, 2, 2, issues_of (by decide +kernel),
     by decide +kernel, by decide +kernel⟩,
    ⟨{ (run.setTask 0 { runTask with desc0 := 0xB0000000#32 }) with orders := [⟨1, 0, 0x0100, 0, 2, 0, [], [], [], .running, false, true, false, 0, false, false, false⟩] },
     0, 0, 2, 0, _, issues_of (by decide +kernel), by decide +kernel, some_of (by decide +kernel), by decide +kernel⟩,
    ⟨{ (run.setTask 0 { runTask with desc0 := 0xB0000000#32 }) with orders := [⟨1, 0, 0x0100, 0, 2, 0, [], [], [], .running, false, true, false, 0, false, false, false⟩] },
     0, 0, 3, _, issues_of (by decide +kernel), by decide +kernel, some_of (by decide +kernel), by decide +kernel⟩,
    ⟨run, 0, 0, 0, issues_of (by decide +kernel), by decide +kernel, by decide +kernel⟩,
    ⟨run, 0, 0, 0, issues_of (by decide +kernel), by decide +kernel, by decide +kernel⟩,
    ⟨run, 0, 0, _, _, issues_of (by decide +kernel), (Prod.eta _).symm⟩,
    ⟨run, 0, 0, 0, issues_of (by decide +kernel), by decide +kernel, by decide +kernel⟩,
    ⟨run, 0, 0, 0, issues_of (by decide +kernel), by decide +kernel⟩⟩

theorem wit_TrapTakes :
    (∃ (s : State) (key : Nat), ((s.task key).src = srcTimer ∨ (s.task key).src = srcSignal) ∧
      (s.task key).fcnt + 1 < (s.task key).flim ∧ (s.task key).pend = false) ∧
    (∃ (s : State) (key : Nat), ((s.task key).src = srcTimer ∨ (s.task key).src = srcSignal) ∧
      (s.task key).flim ≤ (s.task key).fcnt + 1) ∧
    (∃ (s : State) (key : Nat) (k : _), ((s.task key).src = srcTimer ∨ (s.task key).src = srcSignal) ∧ k ≠ key) :=
  ⟨⟨(on.setTask 0 { desc0 := 0xA0000000#32 }), 0, by decide +kernel⟩,
    ⟨(on.setTask 0 { desc0 := 0xC0000000#32, fcnt := 2 }), 0, by decide +kernel⟩,
    ⟨(on.setTask 0 { desc0 := 0xA0000000#32 }), 0, 1, by decide +kernel⟩⟩

theorem wit_FaultTable :
    (∃ (s : State), (s.faults.Pairwise (fun e f => e.code ≠ f.code ∨ e.inst ≠ f.inst))) ∧
    (∃ (s : State), s.faults.length ≤ 64) ∧
    (∃ (s : State) (e : _), e ∈ s.faults) ∧
    (∃ (s : State), s.faults.length < 64) :=
  ⟨⟨on, by decide +kernel⟩,
    ⟨on, by decide +kernel⟩,
    ⟨{ on with faults := [⟨1, 0, 1, 0, 0⟩] }, ⟨1, 0, 1, 0, 0⟩, by decide +kernel⟩,
    ⟨on, by decide +kernel⟩⟩

theorem wit_LoopRule :
    (∃ (c : Ctx), (c.lcnt = 0 ∨ c.pc ≠ c.lend)) ∧
    (∃ (c : Ctx), c.lcnt ≠ 0 ∧ c.lcnt ≠ 1 ∧ c.pc = c.lend) ∧
    (∃ (c : Ctx), c.lcnt = 1 ∧ c.pc = c.lend) ∧
    (∃ (c : Ctx) (t : BitVec 16), c.lbeg.toNat ≤ t.toNat ∧ t.toNat ≤ c.lend.toNat) ∧
    (∃ (c : Ctx) (t : BitVec 16), (¬(c.lbeg.toNat ≤ t.toNat ∧ t.toNat ≤ c.lend.toNat))) :=
  ⟨⟨{}, by decide +kernel⟩,
    ⟨{ lcnt := 2, pc := 8, lend := 8 }, by decide +kernel⟩,
    ⟨{ lcnt := 1, pc := 8, lend := 8 }, by decide +kernel⟩,
    ⟨{}, 0, by decide +kernel⟩,
    ⟨{}, 4, by decide +kernel⟩⟩

theorem wit_RetireFrame :
    (∃ (key : Nat) (k : _), k ≠ key) ∧
    (∃ (p : Nat) (q : _), q ≠ p) :=
  ⟨⟨0, 1, by decide +kernel⟩,
    ⟨0, 1, by decide +kernel⟩⟩

theorem wit_OnnusIllegal :
    (∃ (s : State) (p : _) (key : _) (gd : _) (gs1 : _) (gs2 : _), Issues p key s ∧
      (fOk gd = false ∨ fOk gs1 = false ∨ fOk gs2 = false)) ∧
    (∃ (s : State) (p : _) (key : _) (gd : BitVec 5), Issues p key s ∧ 8 ≤ gd.toNat) ∧
    (∃ (s : State) (p : _) (key : _) (gd : _), Issues p key s ∧ evenOk gd = false ∧ s.onnus1 key = false) ∧
    (∃ (s : State) (p : _) (key : _) (gs2 : _) (imm : BitVec 15), Issues p key s ∧ gs2 ≠ 0 ∧ 32 ≤ imm.toNat) ∧
    (∃ (s : State) (p : _) (key : _), Issues p key s ∧ s.onnus1 key = true) :=
  ⟨⟨run, 0, 0, 16, 2, 3, issues_of (by decide +kernel), by decide +kernel⟩,
    ⟨run, 0, 0, 8, issues_of (by decide +kernel), by decide +kernel⟩,
    ⟨run, 0, 0, 1, issues_of (by decide +kernel), by decide +kernel, by decide +kernel⟩,
    ⟨run, 0, 0, 1, 32, issues_of (by decide +kernel), by decide +kernel, by decide +kernel⟩,
    ⟨(run1 {}), 0, 0, issues_of (by decide +kernel), by decide +kernel⟩⟩

theorem wit_OnnusOne :
    (∃ (s : State) (p : _) (key : _), Issues p key s ∧ s.onnus1 key = true) ∧
    (∃ (s : State) (p : _) (key : _) (gs1 : _) (imm : BitVec 15), Issues p key s ∧ s.onnus1 key = true ∧ 1 ≤ imm.toNat ∧
      imm.toNat < 4096 ∧ (s.ctx key).lcnt = 0 ∧ (s.ctx key).gr gs1 = 0) ∧
    (∃ (s : State) (p : _) (key : _) (gs1 : _), Issues p key s ∧ s.onnus1 key = true ∧
      (((s.ctx key).gr gs1).toNat) < 2 ^ 20 ∧
      (State.correctCe { (s.drainTo p (fun e => e.isSig (((s.ctx key).gr gs1).toNat))) with freeCount := (s.drainTo p (fun e => e.isSig (((s.ctx key).gr gs1).toNat))).freeCount + 1 } (sigCell (((s.ctx key).gr gs1).toNat)) 8).eccUe.contains (sigCell (((s.ctx key).gr gs1).toNat)) = false) :=
  ⟨⟨(run1 {}), 0, 0, issues_of (by decide +kernel), by decide +kernel⟩,
    ⟨(run1 {}), 0, 0, 2, 1, issues_of (by decide +kernel), by decide +kernel, by decide +kernel, by decide +kernel,
     by decide +kernel, by decide +kernel⟩,
    ⟨(run1 {}), 0, 0, 2, issues_of (by decide +kernel), by decide +kernel, by decide +kernel, by decide +kernel⟩⟩

theorem wit_OnnusPistep :
    (∃ (s : State) (p : _) (key : _) (gd : _) (gs1 : _) (imm : BitVec 15), Issues p key s ∧ fOk gd = true ∧
      fOk gs1 = true ∧ imm.toNat < 1024 ∧ s.loopAllowed (key / 16) (s.loop imm.toNat).owner = false) ∧
    (∃ (s : State) (p : _) (key : _) (gd : _) (gs1 : _) (imm : BitVec 15), Issues p key s ∧ fOk gd = true ∧
      fOk gs1 = true ∧ imm.toNat < 1024 ∧ s.loopAllowed (key / 16) (s.loop imm.toNat).owner = true ∧
      fIsFinite ((s.ctx key).fr gs1) = false) ∧
    (∃ (s : State) (p : _) (key : _) (gd : _) (gs1 : _) (imm : BitVec 15), Issues p key s ∧ fOk gd = true ∧
      fOk gs1 = true ∧ imm.toNat < 1024 ∧ s.loopAllowed (key / 16) (s.loop imm.toNat).owner = true ∧
      fIsFinite ((s.ctx key).fr gs1) = true) ∧
    (∃ (s : State) (p : _) (key : _) (gd : _) (gs1 : _) (gs2 : _), Issues p key s ∧ fOk gd = true ∧ fOk gs1 = true ∧
      s.onnus1 key = false ∧ s.loopAllowed (key / 16) (s.loop (((s.ctx key).gr gs2).toNat % 1024)).owner = false) ∧
    (∃ (s : State) (p : _) (key : _) (gd : _) (gs1 : _) (gs2 : _), Issues p key s ∧ fOk gd = true ∧ fOk gs1 = true ∧
      s.onnus1 key = false ∧ s.loopAllowed (key / 16) (s.loop (((s.ctx key).gr gs2).toNat % 1024)).owner = true ∧
      fIsFinite ((s.ctx key).fr gs1) = false) ∧
    (∃ (s : State) (p : _) (key : _) (gd : _) (gs1 : _) (gs2 : _), Issues p key s ∧ fOk gd = true ∧ fOk gs1 = true ∧
      s.onnus1 key = false ∧ s.loopAllowed (key / 16) (s.loop (((s.ctx key).gr gs2).toNat % 1024)).owner = true ∧
      fIsFinite ((s.ctx key).fr gs1) = true) :=
  ⟨⟨run, 0, 0, 1, 2, 0, issues_of (by decide +kernel), by decide +kernel, by decide +kernel, by decide +kernel,
     by decide +kernel⟩,
    ⟨((runC (({ : Ctx }).setF 2 0x7F800000)).setLoop 0 { ctrl := 0x20 }), 0, 0, 1, 2, 0, issues_of (by decide +kernel),
     by decide +kernel, by decide +kernel, by decide +kernel, by decide +kernel, by decide +kernel⟩,
    ⟨(run.setLoop 1023 { ctrl := 0x20 }), 0, 0, 1, 2, 1023, issues_of (by decide +kernel), by decide +kernel,
     by decide +kernel, by decide +kernel, by decide +kernel, by decide +kernel⟩,
    ⟨run, 0, 0, 1, 2, 3, issues_of (by decide +kernel), by decide +kernel, by decide +kernel, by decide +kernel,
     by decide +kernel⟩,
    ⟨((runC ((cx 0 0).setF 2 0x7F800000)).setLoop 0 { ctrl := 0x20 }), 0, 0, 1, 2, 3, issues_of (by decide +kernel),
     by decide +kernel, by decide +kernel, by decide +kernel, by decide +kernel, by decide +kernel⟩,
    ⟨((runC (cx 0 0)).setLoop 0 { ctrl := 0x20 }), 0, 0, 1, 2, 3, issues_of (by decide +kernel), by decide +kernel,
     by decide +kernel, by decide +kernel, by decide +kernel, by decide +kernel⟩⟩

theorem wit_ModulatorTick :
    (∃ (s : State), s.bit F.MOD_STAT_ON = true) ∧
    (∃ (s : State) (n : CrewNo) (j : Fin 8), s.crewState n ≠ cUNUSED ∧ j.val < s.crewM n ∧ s.rising n j = false ∧
      (((s.advanceTb (s.car n j).next).valleyPrep n j).crew n).stopSets.testBit j = true) ∧
    (∃ (s : State) (n : CrewNo) (j : Fin 8), s.crewState n ≠ cUNUSED ∧ j.val < s.crewM n ∧ s.rising n j = false ∧
      (((s.advanceTb (s.car n j).next).valleyPrep n j).crew n).stopSets.testBit j = false ∧
      ((s.advanceTb (s.car n j).next).valleyPrep n j).carrierCrew n = true) ∧
    (∃ (s : State) (n : CrewNo) (j : Fin 8), s.crewState n ≠ cUNUSED ∧ j.val < s.crewM n ∧ s.rising n j = false ∧
      (((s.advanceTb (s.car n j).next).valleyPrep n j).crew n).stopSets.testBit j = false ∧
      ((s.advanceTb (s.car n j).next).valleyPrep n j).carrierCrew n = false) ∧
    (∃ (s : State) (n : CrewNo) (j : Fin 8), s.crewState n ≠ cUNUSED ∧ j.val < s.crewM n ∧ s.rising n j = true) ∧
    (∃ (s : State) (n : Nat) (j : Nat), 1 ≤ s.get (F.CREW_CFG_CATCH n) ∧ s.get (F.CREW_CFG_CATCH n) ≤ 2 ∧ j = 0 ∧
      (s.crew n).catchN = 0) ∧
    (∃ (s : State) (n : Nat) (j : Nat), 1 ≤ s.get (F.CREW_CFG_CATCH n) ∧ s.get (F.CREW_CFG_CATCH n) ≤ 2 ∧ j = 0 ∧
      (s.crew n).catchN ≠ 0) ∧
    (∃ (n : Nat) (m : _), m ≠ n) ∧
    (∃ (s : State) (n : CrewNo), s.get (F.CREW_STAT_SEAMST n) = 3) ∧
    (∃ (s : State) (x : LegNo) (n : _) (j : _) (i : _), s.legCrew x = some n ∧ s.legSet n x = some (j, i) ∧
      s.setRuns n j = true ∧ s.legModulated x = true ∧ s.carrierCrew n = true ∧ (s.leg x).changed = false ∧
      (s.leg x).want ≠ some (!s.rising n j) ∧ (s.get (F.LEG_CMP_C x)) ≠ (if s.rising n j then s.crewH n else 0)) ∧
    (∃ (s : State) (x : LegNo) (hs : Bool), (s.leg x).pendOn = some hs ∧
      (((((s.advanceTb (max (s.leg x).pendAt (s.freeAt x hs))).setLeg x { (s.advanceTb (max (s.leg x).pendAt (s.freeAt x hs))).leg x with pendOn := none }).putB (F.LEG_LVL_DTW x) false).leg x).refresh && !hs) = true) ∧
    (∃ (s : State) (x : LegNo) (hs : Bool), (s.leg x).pendOn = some hs ∧
      (((((s.advanceTb (max (s.leg x).pendAt (s.freeAt x hs))).setLeg x { (s.advanceTb (max (s.leg x).pendAt (s.freeAt x hs))).leg x with pendOn := none }).putB (F.LEG_LVL_DTW x) false).leg x).refresh && !hs) = false) :=
  ⟨⟨(on.putB F.MOD_STAT_ON true), by decide +kernel⟩,
    ⟨(((crewRun 5)).setCrew 0 { stopSets := 1 }), 0, 0, by decide +kernel⟩,
    ⟨(crewRun 1), 0, 0, by decide +kernel⟩,
    ⟨(crewRun 5), 0, 0, by decide +kernel⟩,
    ⟨((crewRun 1).setCrew 0 { upSets := 1 }), 0, 0, by decide +kernel⟩,
    ⟨((on.put (F.CREW_CFG_CATCH 0) 1).setCrew 0 { catchN := 0 }), 0, 0, by decide +kernel⟩,
    ⟨((on.put (F.CREW_CFG_CATCH 0) 1).setCrew 0 { catchN := 1 }), 0, 0, by decide +kernel⟩,
    ⟨0, 1, by decide +kernel⟩,
    ⟨(on.put (F.CREW_STAT_SEAMST 0) 3), 0, by decide +kernel⟩,
    ⟨(((crewRun 3)).setCrew 0 { runSets := 1 }), 0, 0, 0, 0, by decide +kernel⟩,
    ⟨(on.setLeg 0 { pendOn := some false, refresh := true }), 0, false, by decide +kernel⟩,
    ⟨(on.setLeg 0 { pendOn := some true }), 0, true, by decide +kernel⟩⟩

theorem wit_ModulatorRegs :
    (∃ (s : State) (n : CrewNo), s.up (R.CREW_CTL n) ∧ s.crewState n ≠ cIDLE) ∧
    (∃ (s : State) (n : CrewNo), s.up (R.CREW_CTL n) ∧ s.crewState n = cIDLE ∧ s.actLock = true) ∧
    (∃ (s : State) (n : CrewNo) (x : _), s.up (R.CREW_CTL n) ∧ s.crewState n = cIDLE ∧ s.actLock = false ∧
      (s.crewLegs n).find? (fun x => !s.legModulated x) = some x) ∧
    (∃ (s : State) (n : CrewNo), s.up (R.CREW_CTL n) ∧ s.crewState n = cARMED) ∧
    (∃ (s : State) (n : CrewNo), s.up (R.CREW_CTL n) ∧ s.crewState n = cRUN ∧ s.get (F.CREW_STAT_SETS n) ≠ 0) ∧
    (∃ (s : State) (n : CrewNo) (v : _) (w : _) (u : _), s.up (R.CREW_CMD_OFS n) ∧
      s.takeWord (R.CREW_CMD_OFS n) v = (w, u)) ∧
    (∃ (s : State) (n : CrewNo) (v : _) (w : _) (u : _), s.up (R.CREW_CMD_AMP n) ∧
      s.takeWord (R.CREW_CMD_AMP n) v = (w, u)) ∧
    (∃ (s : State) (n : CrewNo) (v : _) (w : _) (u : _), s.up (R.CREW_ANGSET n) ∧
      s.takeWord (R.CREW_ANGSET n) v = (w, u)) ∧
    (∃ (s : State), s.up R.MOD_TBL_DATA ∧
      s.bitAt F.MOD_TBUSE_USE ((s.get F.MOD_TBL_ADDR_TABLE * 16384 + s.get F.MOD_TBL_ADDR_INDEX) / 16384) = true) ∧
    (∃ (s : State), s.up R.MOD_TBL_DATA ∧
      s.bitAt F.MOD_TBUSE_USE ((s.get F.MOD_TBL_ADDR_TABLE * 16384 + s.get F.MOD_TBL_ADDR_INDEX) / 16384) = false) ∧
    (∃ (s : State) (x : LegNo) (m : BitVec 2), s.up (R.LEG_CTL x) ∧ s.legCrew x = none ∧ m.toNat ≠ 3 ∧
      m.toNat ≠ s.get (F.LEG_CTL_MODE x)) ∧
    (∃ (s : State) (x : LegNo) (n : _), s.up (R.LEG_CTL x) ∧ s.legCrew x = some n ∧
      (s.crewState n = cARMED ∨ s.crewState n = cRUN)) ∧
    (∃ (s : State) (x : LegNo), s.up (R.LEG_RAW x)) ∧
    (∃ (s : State) (x : LegNo), s.bit (F.LEG_LVL_LOCK x) = true ∧ s.legCrew x = none) ∧
    (∃ (s : State) (x : LegNo) (n : _) (t : _), s.bit (F.LEG_LVL_LOCK x) = true ∧ s.legCrew x = some n ∧
      (s.leg x).lockEnd = some t) ∧
    (∃ (s : State) (x : LegNo) (v : Word) (w : _) (r : _), s.up (R.LEG_DT x) ∧ s.takeWord (R.LEG_DT x) v = (w, r) ∧
      ((bitsOf w.toNat 25 16) < r.legDtMin x ∨ (bitsOf w.toNat 9 0) < r.legDtMin x)) ∧
    (∃ (s : State) (x : LegNo) (v : Word) (w : _) (r : _), s.up (R.LEG_DT x) ∧ s.takeWord (R.LEG_DT x) v = (w, r) ∧
      r.legDtMin x ≤ (bitsOf w.toNat 25 16) ∧ r.legDtMin x ≤ (bitsOf w.toNat 9 0) ∧
      ((bitsOf w.toNat 25 16) + (r.get (F.LEG_MINPW_PW x)) < 176 ∨ (bitsOf w.toNat 9 0) + (r.get (F.LEG_MINPW_PW x)) < 176)) ∧
    (∃ (s : State) (x : LegNo) (v : Word) (w : _) (r : _), s.up (R.LEG_DT x) ∧ s.takeWord (R.LEG_DT x) v = (w, r) ∧
      r.legDtMin x ≤ (bitsOf w.toNat 25 16) ∧ r.legDtMin x ≤ (bitsOf w.toNat 9 0) ∧
      176 ≤ (bitsOf w.toNat 25 16) + (r.get (F.LEG_MINPW_PW x)) ∧
      176 ≤ (bitsOf w.toNat 9 0) + (r.get (F.LEG_MINPW_PW x)) ∧
      ((r.put (F.LEG_DT_DT_HL x) (bitsOf w.toNat 25 16)).put (F.LEG_DT_DT_LH x) (bitsOf w.toNat 9 0)).legCrew x = none) ∧
    (∃ (s : State) (x : LegNo) (v : Word) (w : _) (r : _), s.up (R.LEG_DT x) ∧ s.takeWord (R.LEG_DT x) v = (w, r) ∧
      r.legDtMin x ≤ (bitsOf w.toNat 25 16) ∧ r.legDtMin x ≤ (bitsOf w.toNat 9 0) ∧
      176 ≤ (bitsOf w.toNat 25 16) + (r.get (F.LEG_MINPW_PW x)) ∧
      176 ≤ (bitsOf w.toNat 9 0) + (r.get (F.LEG_MINPW_PW x)) ∧
      ((r.put (F.LEG_DT_DT_HL x) (bitsOf w.toNat 25 16)).put (F.LEG_DT_DT_LH x) (bitsOf w.toNat 9 0)).legCrew x ≠ none) ∧
    (∃ (s : State) (x : LegNo) (pw : BitVec 8), s.up (R.LEG_MINPW x) ∧ 40 ≤ pw.toNat ∧
      176 ≤ bitsOf (s.rd (R.LEG_DT x)).toNat 25 16 + pw.toNat ∧ 176 ≤ bitsOf (s.rd (R.LEG_DT x)).toNat 9 0 + pw.toNat) ∧
    (∃ (s : State) (x : LegNo) (pw : BitVec 8), s.up (R.LEG_MINPW x) ∧ 40 ≤ pw.toNat ∧
      (bitsOf (s.rd (R.LEG_DT x)).toNat 25 16 + pw.toNat < 176 ∨ bitsOf (s.rd (R.LEG_DT x)).toNat 9 0 + pw.toNat < 176)) ∧
    (∃ (s : State) (x : LegNo), s.bit (F.LEG_CTL_CPEN x) = false ∧ s.get (F.LEG_BOOT_TBMAX x) ≠ 0 ∧
      s.getLvl x true = true) ∧
    (∃ (s : State) (x : LegNo), (s.leg x).refresh = true ∧ (s.leg x).pendOn = none) ∧
    (∃ (s : State) (n : CrewNo) (b : Bool), s.crewState n = cRUN ∧ s.chopCrew n = true ∧ (s.chop n b).st = .fast) ∧
    (∃ (s : State) (n : CrewNo) (b : Bool), s.crewState n = cRUN ∧ s.chopCrew n = true ∧ (s.chop n b).st = .slow) :=
  ⟨⟨(on.put (F.CREW_STAT_STATE 0) (cIDLE + 1)), 0, by unfold State.up; decide +kernel, by decide +kernel⟩,
    ⟨({ (on.put (F.CREW_STAT_STATE 0) cIDLE) with actLock := true }.setLvl 0 true true), 0,
     by unfold State.up; decide +kernel, by decide +kernel, by decide +kernel⟩,
    ⟨(((crewRun 1).put (F.CREW_STAT_STATE 0) cIDLE).put (F.LEG_CTL_MODE 0) 1), 0, _, by unfold State.up; decide +kernel,
     by decide +kernel, by decide +kernel, some_of (by decide +kernel)⟩,
    ⟨(on.put (F.CREW_STAT_STATE 0) cARMED), 0, by unfold State.up; decide +kernel, by decide +kernel⟩,
    ⟨((on.put (F.CREW_STAT_STATE 0) cRUN).put (F.CREW_STAT_SETS 0) 1), 0, by unfold State.up; decide +kernel,
     by decide +kernel, by decide +kernel⟩,
    ⟨on, 0, 0, _, _, by unfold State.up; decide +kernel, (Prod.eta _).symm⟩,
    ⟨on, 0, 0, _, _, by unfold State.up; decide +kernel, (Prod.eta _).symm⟩,
    ⟨on, 0, 0, _, _, by unfold State.up; decide +kernel, (Prod.eta _).symm⟩,
    ⟨(on.setBitAt F.MOD_TBUSE_USE 0 true), by unfold State.up; decide +kernel, by decide +kernel⟩,
    ⟨on, by unfold State.up; decide +kernel, by decide +kernel⟩,
    ⟨(on.put (F.LEG_CTL_OWNER 0) 32), 0, 1, by unfold State.up; decide +kernel, by decide +kernel, by decide +kernel,
     by decide +kernel⟩,
    ⟨((on.put (F.CREW_STAT_STATE 0) cARMED).put (F.LEG_CTL_OWNER 0) 0), 0,
     (((on.put (F.CREW_STAT_STATE 0) cARMED).put (F.LEG_CTL_OWNER 0) 0).legCrew (0 : LegNo)).get (by decide +kernel),
     by unfold State.up; decide +kernel, (Option.some_get _).symm, by decide +kernel⟩,
    ⟨on, 0, by unfold State.up; decide +kernel⟩,
    ⟨(on.putB (F.LEG_LVL_LOCK 0) true), 0, by decide +kernel⟩,
    ⟨(((on.putB (F.LEG_LVL_LOCK 0) true).put (F.LEG_CTL_OWNER 0) 0).setLeg 0 { lockEnd := some 0 }), 0, _, _,
     by decide +kernel, some_of (by decide +kernel), some_of (by decide +kernel)⟩,
    ⟨(on.setLink 0 { dtMin := [1, 0, 0, 0] }), 0, 0,
     ((on.setLink 0 { dtMin := [1, 0, 0, 0] }).takeWord (R.LEG_DT (0 : LegNo)) (0 : Word)).1,
     ((on.setLink 0 { dtMin := [1, 0, 0, 0] }).takeWord (R.LEG_DT (0 : LegNo)) (0 : Word)).2,
     by unfold State.up; decide +kernel, Prod.ext rfl rfl, by decide +kernel⟩,
    ⟨on, 0, 0, (on.takeWord (R.LEG_DT (0 : LegNo)) (0 : Word)).1, (on.takeWord (R.LEG_DT (0 : LegNo)) (0 : Word)).2,
     by unfold State.up; decide +kernel, Prod.ext rfl rfl, by decide +kernel, by decide +kernel, by decide +kernel⟩,
    ⟨(on.put (F.LEG_CTL_OWNER 0) 32), 0, 0x00B000B0,
     ((on.put (F.LEG_CTL_OWNER 0) 32).takeWord (R.LEG_DT (0 : LegNo)) (0x00B000B0 : Word)).1,
     ((on.put (F.LEG_CTL_OWNER 0) 32).takeWord (R.LEG_DT (0 : LegNo)) (0x00B000B0 : Word)).2,
     by unfold State.up; decide +kernel, Prod.ext rfl rfl, by decide +kernel, by decide +kernel, by decide +kernel,
     by decide +kernel, by decide +kernel⟩,
    ⟨(on.put (F.LEG_CTL_OWNER 0) 0), 0, 0x00B000B0,
     ((on.put (F.LEG_CTL_OWNER 0) 0).takeWord (R.LEG_DT (0 : LegNo)) (0x00B000B0 : Word)).1,
     ((on.put (F.LEG_CTL_OWNER 0) 0).takeWord (R.LEG_DT (0 : LegNo)) (0x00B000B0 : Word)).2,
     by unfold State.up; decide +kernel, Prod.ext rfl rfl, by decide +kernel, by decide +kernel, by decide +kernel,
     by decide +kernel, by decide +kernel⟩,
    ⟨(on.wr (R.LEG_DT 0) 0x00B000B0), 0, 40, by unfold State.up; decide +kernel, by decide +kernel, by decide +kernel,
     by decide +kernel⟩,
    ⟨(on.wr (R.LEG_DT 0) 0), 0, 40, by unfold State.up; decide +kernel, by decide +kernel, by decide +kernel⟩,
    ⟨(((on.putB (F.LEG_CTL_CPEN 0) false).put (F.LEG_BOOT_TBMAX 0) 1).setLvl 0 true true), 0, by decide +kernel⟩,
    ⟨((on.setLeg 0 { refresh := true, pendOn := none }).setLvl 0 false true), 0, by decide +kernel⟩,
    ⟨(((crewRun 4)).setChop 0 true { st := .fast }), 0, true, by decide +kernel⟩,
    ⟨(((crewRun 4)).setChop 0 false { st := .slow }), 0, false, by decide +kernel⟩⟩

theorem wit_YilosLink :
    (∃ (s : State) (k : TileNo), s.linkState k = lSYNC) ∧
    (∃ (s : State) (k : TileNo), s.linkState k = lCAP) ∧
    (∃ (s : State) (k : TileNo), (s.linkState k = lOFF ∨ s.linkState k = lLOST ∨ s.linkState k = lFAILED)) ∧
    (∃ (s : State) (k : TileNo), s.linkState k ≠ lUP) ∧
    (∃ (s : State) (k : TileNo) (o : Bool) (g : BitVec 80) (f : _) (u : _), s.linkState k = lUP ∧
      s.upRx k (lineIn false o g) = (f, u)) ∧
    (∃ (w : BitVec 64), w.getLsbD 42 = false) ∧
    (∃ (s : State) (k : TileNo), (s.link k).badRow + 1 < 3) ∧
    (∃ (s : State) (k : TileNo), 3 ≤ (s.link k).badRow + 1) ∧
    (∃ (s : State) (k : TileNo) (d : _), (s.link k).stoDiff = some d ∧ (s.link k).stoSaid = false) ∧
    (∃ (s : State) (k : TileNo), (s.link k).stoDiff = none) ∧
    (∃ (s : State) (k : TileNo), s.bit (F.YILOS_STAT_STOIN k) = s.tileSto k) ∧
    (∃ (s : State) (k : TileNo), s.linkState k = lUP ∧ s.bit (F.YILOS_STAT_STOIN k) ≠ s.tileSto k ∧
      (s.link k).stoDiff = none) ∧
    (∃ (s : State) (k : TileNo), s.up (R.YILOS_CTL k)) ∧
    (∃ (s : State) (k : TileNo) (e : Bool) (o : Bool) (g : BitVec 80) (f : _) (u : _), (s.linkState k = lSYNC ∨ s.linkState k = lCAP ∨ s.linkState k = lDELAY ∨ s.linkState k = lVER) ∧
      s.upRx k (lineIn e o g) = (f, u)) ∧
    (∃ (s : State) (k : TileNo), s.linkState k = lSYNC ∧ 63 ≤ (s.link k).syncN) ∧
    (∃ (s : State) (k : TileNo), s.linkState k = lDELAY) ∧
    (∃ (s : State) (k : TileNo), s.linkState k = lVER ∧ s.get (F.YILOS_STAT_VER k) = 0) ∧
    (∃ (s : State) (k : TileNo), s.linkState k = lVER ∧ s.get (F.YILOS_STAT_VER k) ≠ 0 ∧ (s.link k).startLeft = 0) ∧
    (∃ (s : State) (k : TileNo), s.linkState k = lPARK ∧ (s.link k).queue = [] ∧ (s.link k).parkLeft = 0) ∧
    (∃ (s : State) (k : TileNo), s.up (R.YILOS_CLR k)) ∧
    (∃ (s : State) (k : TileNo), s.up (R.YILOS_MWR k) ∧ 16 < (s.link k).mops.length + 2) ∧
    (∃ (s : State) (k : TileNo), s.up (R.YILOS_MWR k) ∧ (s.link k).mops.length + 2 ≤ 16) ∧
    (∃ (s : State) (k : TileNo) (v : _) (w : _) (t : _), s.up (R.YILOS_DIAG_CTL k) ∧
      s.takeWord (R.YILOS_DIAG_CTL k) v = (w, t)) ∧
    (∃ (s : State) (k : TileNo) (t : _), (s.link k).diag.bind (·.sent) = some t) ∧
    (∃ (d : DiagRec), d.mode = 3) :=
  ⟨⟨(on.put (F.YILOS_STAT_STATE 0) lSYNC), 0, by decide +kernel⟩,
    ⟨(on.put (F.YILOS_STAT_STATE 0) lCAP), 0, by decide +kernel⟩,
    ⟨(on.put (F.YILOS_STAT_STATE 0) lOFF), 0, by decide +kernel⟩,
    ⟨(on.put (F.YILOS_STAT_STATE 0) (lUP + 1)), 0, by decide +kernel⟩,
    ⟨(on.put (F.YILOS_STAT_STATE 0) lUP), 0, false, 0, _, _, by decide +kernel, (Prod.eta _).symm⟩,
    ⟨0, by decide +kernel⟩,
    ⟨on, 0, by decide +kernel⟩,
    ⟨(on.setLink 0 { badRow := 2 }), 0, by decide +kernel⟩,
    ⟨(on.setLink 0 { stoDiff := some 0, stoSaid := false }), 0, _, some_of (by decide +kernel), by decide +kernel⟩,
    ⟨(on.setLink 0 { stoDiff := none }), 0, by decide +kernel⟩,
    ⟨(on.putB (F.YILOS_STAT_STOIN 0) true), 0, by decide +kernel⟩,
    ⟨((on.put (F.YILOS_STAT_STATE 0) lUP).setLink 0 { stoDiff := none }), 0, by decide +kernel⟩,
    ⟨on, 0, by unfold State.up; decide +kernel⟩,
    ⟨(on.put (F.YILOS_STAT_STATE 0) lSYNC), 0, false, false, 0, _, _, by decide +kernel, (Prod.eta _).symm⟩,
    ⟨((on.put (F.YILOS_STAT_STATE 0) lSYNC).setLink 0 { syncN := 63 }), 0, by decide +kernel⟩,
    ⟨(on.put (F.YILOS_STAT_STATE 0) lDELAY), 0, by decide +kernel⟩,
    ⟨((on.put (F.YILOS_STAT_STATE 0) lVER).put (F.YILOS_STAT_VER 0) 0), 0, by decide +kernel⟩,
    ⟨(((on.put (F.YILOS_STAT_STATE 0) lVER).put (F.YILOS_STAT_VER 0) 1).setLink 0 { startLeft := 0 }), 0,
     by decide +kernel⟩,
    ⟨((on.put (F.YILOS_STAT_STATE 0) lPARK).setLink 0 { queue := [], parkLeft := 0 }), 0, by decide +kernel⟩,
    ⟨on, 0, by unfold State.up; decide +kernel⟩,
    ⟨(on.setLink 0 { mops := List.replicate 15 (0, 0) }), 0, by unfold State.up; decide +kernel, by decide +kernel⟩,
    ⟨(on.setLink 0 { mops := List.replicate 14 (0, 0) }), 0, by unfold State.up; decide +kernel, by decide +kernel⟩,
    ⟨on, 0, 0, _, _, by unfold State.up; decide +kernel, (Prod.eta _).symm⟩,
    ⟨(on.setLink 0 { diag := some { legs := [0], leg := 0, mode := 3, sent := some 0 } }), 0, _,
     some_of (by decide +kernel)⟩,
    ⟨{ legs := [0], leg := 0, mode := 3 }, by decide +kernel⟩⟩

theorem wit_YilosTile :
    (∃ (s : State) (k : TileNo) (e : Bool) (o : Bool) (g : BitVec 80) (f : RxFrame) (u : _) (w : BitVec 64), s.downRx k (lineIn e o g) = (f, u) ∧
      (u.tile k).waiting = true ∧ (f = .payload w ∨ f = .bad)) ∧
    (∃ (s : State) (k : TileNo) (e : Bool) (o : Bool) (g : BitVec 80) (f : RxFrame) (u : _) (tt : Byte) (b : List Byte), s.downRx k (lineIn e o g) = (f, u) ∧
      (u.tile k).waiting = true ∧ f = .training tt b) ∧
    (∃ (s : State) (k : TileNo) (e : Bool) (o : Bool) (g : BitVec 80) (f : _) (u : _), s.downRx k (lineIn e o g) = (f, u) ∧
      (u.tile k).waiting = false) ∧
    (∃ (s : State) (k : Nat) (w : BitVec 64), tileBad (s.tile k) w.toNat (((s.tile k).frameNo) % 32 = 31) = true) ∧
    (∃ (s : State) (k : Nat) (w : BitVec 64), tileBad (s.tile k) w.toNat (((s.tile k).frameNo) % 32 = 31) = false) ∧
    (∃ (t : TileRec), t.bad + 1 < 3) ∧
    (∃ (t : TileRec), 3 ≤ t.bad + 1) ∧
    (∃ (s : State) (k : TileNo) (e : _) (r : List LinkEv), (s.tile k).pend = e :: r) ∧
    (∃ (s : State) (k : TileNo) (b : Bool), s.tileWire k b = true) ∧
    (∃ (s : State) (k : TileNo) (b : Bool), s.tileWire k b = false) ∧
    (∃ (w : Nat), w < 8) ∧
    (∃ (s : State) (k : Nat) (w : Nat), ((s.tile k).uvHold.testBit w = true ∨ ((s.tile k).latch.testBit w = true ∧
      mget 0 (s.tile k).present w ≠ 0))) ∧
    (∃ (s : State) (k : Nat) (w : Nat), ((s.tile k).latch.testBit w = true ∨ (s.tile k).stoHold.testBit w = true)) ∧
    (∃ (s : State) (k : TileNo) (w : Fin 8), (s.tile k).defer.testBit w = true ∧
      (s.tile k).lvl.testBit (partner w) = false ∧ (s.tile k).sto = false) ∧
    (∃ (s : State) (k : TileNo) (w : Fin 8), (s.tile k).lvl.testBit (partner w) = true) :=
  ⟨⟨on, 0, false, false, 0, _, _, 0, (Prod.eta _).symm, by decide +kernel, by decide +kernel⟩,
    ⟨on, 0, false, true, (encLine true (trainChars 1 [])).1, _, _, 1, [0, 0, 0, 0, 0], (Prod.eta _).symm,
     by decide +kernel, by decide +kernel⟩,
    ⟨(on.setTile 0 { waiting := false }), 0, false, false, 0,
     ((on.setTile 0 { waiting := false }).downRx (0 : TileNo) (lineIn false false (0 : BitVec 80))).1,
     ((on.setTile 0 { waiting := false }).downRx (0 : TileNo) (lineIn false false (0 : BitVec 80))).2, Prod.ext rfl rfl,
     by decide +kernel⟩,
    ⟨on, 0, 0x3FF, by decide +kernel⟩,
    ⟨on, 0, goodF 0, by decide +kernel⟩,
    ⟨{}, by decide +kernel⟩,
    ⟨{ bad := 2 }, by decide +kernel⟩,
    ⟨(on.setTile 0 { pend := [⟨100, .groupOff 0⟩] }), 0, ⟨100, .groupOff 0⟩, [], by decide +kernel⟩,
    ⟨{ on.putB (F.SAFETY_GRP_STAT_STOA 0) true with islA := { sec := some { grp := [{ tiles := 1 }] } } }, 0, false,
     by decide +kernel⟩,
    ⟨on, 0, false, by decide +kernel⟩,
    ⟨0, by decide +kernel⟩,
    ⟨(on.setTile 0 { uvHold := 1 }), 0, 0, by decide +kernel⟩,
    ⟨on, 0, 0, by decide +kernel⟩,
    ⟨(on.setTile 0 { defer := 128, stoA := false, stoB := false }), 0, 7, by decide +kernel⟩,
    ⟨(on.setTile 0 { lvl := 2 }), 0, 0, by decide +kernel⟩⟩

theorem wit_SincResults :
    (∃ (s : State) (k : TileNo), (s.linkState k ≠ lUP ∨ (s.link k).upNum = 0)) ∧
    (∃ (s : State) (k : TileNo), s.linkState k = lUP ∧ (s.link k).upNum ≠ 0 ∧
      (s.sinc (64 + k.val)).newest < ((s.link k).s0 + ((s.link k).upNum - 1) * 80 + 160)) ∧
    (∃ (s : State) (x : Nat) (l : Nat), (s.sinc x).newest < l) ∧
    (∃ (s : State) (x : Nat) (l : Nat) (n : _), l ≤ (s.sinc x).newest ∧ x < 64 ∧ s.legCrew x = some n) ∧
    (∃ (s : State) (x : Nat) (l : Nat), l ≤ (s.sinc x).newest ∧ x < 64 ∧ s.legCrew x = none) ∧
    (∃ (s : State) (x : Nat) (l : Nat) (d : Nat), let z := (s.setSinc x { s.sinc x with fastL := l }).resultAt l d; let q := ((s.sinc x).newest - l) / 40; l ≤ (s.sinc x).newest ∧
      64 ≤ x) ∧
    (∃ (s : State) (x : StreamNo) (n : _), x.val < 64 ∧ s.legCrew x = some n) ∧
    (∃ (s : State) (x : StreamNo), x.val < 64 ∧ s.legCrew x = none) ∧
    (∃ (x : StreamNo), 64 ≤ x.val) ∧
    (∃ (s : State) (x : Nat) (l : Nat), ((s.sinc x).newest < l ∨ l ≤ (s.sinc x).ctlL)) ∧
    (∃ (s : State) (x : Nat) (l : Nat), l ≤ (s.sinc x).newest ∧ (s.sinc x).ctlL < l) ∧
    (∃ (s : State) (n : Nat) (i : Int), i.natAbs ≤ s.get (F.CREW_OCLIM_LIM n)) ∧
    (∃ (s : State) (n : Nat) (x : Nat) (i : Int) (j : _) (q : _), s.legSet n x = some (j, q) ∧ s.setActive n j = true ∧
      s.crewState n = cRUN ∧ s.get (F.CREW_OCLIM_LIM n) < i.natAbs ∧
      max 1 (s.get (F.CREW_OCLIM_OCN n)) ≤ (s.sinc x).oc + 1) ∧
    (∃ (s : State) (n : CrewNo), s.up (R.SINC_CREW_ECLR n)) ∧
    (∃ (s : State) (n : CrewNo), s.up (R.SINC_CREW_EPOS_L n)) ∧
    (∃ (s : State) (n : CrewNo), s.up (R.SINC_CREW_ENEG_L n)) :=
  ⟨⟨(on.put (F.YILOS_STAT_STATE 0) (lUP + 1)), 0, by decide +kernel⟩,
    ⟨((on.put (F.YILOS_STAT_STATE 0) lUP).setLink 0 { upNum := 1 }), 0, by decide +kernel⟩,
    ⟨on, 0, 1, by decide +kernel⟩,
    ⟨(on.put (F.LEG_CTL_OWNER 0) 0), 0, 0, _, by decide +kernel, by decide +kernel, some_of (by decide +kernel)⟩,
    ⟨(on.put (F.LEG_CTL_OWNER 63) 0x3F), 63, 0, by decide +kernel⟩,
    ⟨on, 64, 0, 0, by dsimp only; decide +kernel⟩,
    ⟨((on.put (F.LEG_CTL_OWNER 0) 0).put (F.CREW_CFG_KIND 0) 1), 0, 0, by decide +kernel⟩,
    ⟨on, 0, by decide +kernel⟩,
    ⟨64, by decide +kernel⟩,
    ⟨on, 0, 1, by decide +kernel⟩,
    ⟨(on.setSinc 64 { newest := 5 }), 64, 1, by decide +kernel⟩,
    ⟨on, 0, 0, by decide +kernel⟩,
    ⟨(((crewRun 1).put (F.CREW_OCLIM_LIM 0) 0).put (F.CREW_OCLIM_OCN 0) 0).put (F.CREW_STAT_SETS 0) 1, 0, 0, 1, 0, 0,
     by decide +kernel⟩,
    ⟨on, 0, by unfold State.up; decide +kernel⟩,
    ⟨on, 0, by unfold State.up; decide +kernel⟩,
    ⟨on, 0, by unfold State.up; decide +kernel⟩⟩

theorem wit_SnatchGuard :
    (∃ (s : State) (n : CrewNo), s.guardSt n = gHOLD) ∧
    (∃ (s : State) (n : CrewNo), s.guardSt n = gCOOL ∧ s.get (F.CREW_G_TIME_COOL n) ≠ 0) ∧
    (∃ (s : State) (n : CrewNo), s.guardSt n = gCOOL ∧ s.get (F.CREW_G_TIME_COOL n) = 0) ∧
    (∃ (s : State) (n : CrewNo) (z : _), s.guardSt n = gRENDER ∧ (s.crew n).guard.byEmg = false ∧
      (s.crew n).guard.since = some z ∧
      z + s.get (F.CREW_G_RTIME_RDWELL n) * msCounts < (s.crew n).guard.t0 + s.get (F.CREW_G_RTIME_RMAX n) * 1000 * msCounts) ∧
    (∃ (s : State) (n : CrewNo), s.guardSt n = gRENDER ∧ (s.crew n).guard.byEmg = true) ∧
    (∃ (p : EmgPin) (low : Bool), low = p.on) ∧
    (∃ (p : EmgPin) (low : Bool), low ≠ p.on ∧ 9 ≤ p.n) ∧
    (∃ (p : EmgPin) (low : Bool), low ≠ p.on ∧ p.n < 9) ∧
    (∃ (s : State) (n : CrewNo) (x : _), (s.crew n).slowAt = some x) ∧
    (∃ (s : State) (n : CrewNo), (s.crew n).slowAt = none) :=
  ⟨⟨(on.put (F.CREW_G_STAT_STATE 0) gHOLD), 0, by decide +kernel⟩,
    ⟨((on.put (F.CREW_G_STAT_STATE 0) gCOOL).put (F.CREW_G_TIME_COOL 0) 1), 0, by decide +kernel⟩,
    ⟨((on.put (F.CREW_G_STAT_STATE 0) gCOOL).put (F.CREW_G_TIME_COOL 0) 0), 0, by decide +kernel⟩,
    ⟨((on.put (F.CREW_G_STAT_STATE 0) gRENDER).setCrew 0 { guard := { since := some 5 } }), 0, 5, by decide +kernel⟩,
    ⟨((on.put (F.CREW_G_STAT_STATE 0) gRENDER).setCrew 0 { guard := { byEmg := true } }), 0, by decide +kernel⟩,
    ⟨{ n := 9 }, false, by decide +kernel⟩,
    ⟨{ n := 9 }, true, by decide +kernel⟩,
    ⟨{ n := 8 }, true, by decide +kernel⟩,
    ⟨(on.setCrew 0 { slowAt := some 0 }), 0, _, some_of (by decide +kernel)⟩,
    ⟨((((on.putB (F.CREW_LSTAT_SLESS 0) true).put (F.CREW_STAT_STATE 0) cRUN).wr (R.CREW_SPD 0) 255).put (F.CREW_SLESS_VMIN 0) 1),
     0, by decide +kernel⟩⟩

theorem wit_ProfileUnit :
    (∃ (s : State) (n : CrewNo), s.pf n = pfDWELL) ∧
    (∃ (s : State) (n : Nat) (b : _), s.motionReq n = some b) ∧
    (∃ (s : State) (n : Nat), s.motionReq n = none) ∧
    (∃ (s : State) (n : CrewNo), s.pf n = pfSTILL) ∧
    (∃ (s : State) (n : Nat), s.get (F.PROF_STILL_POLICY n) = 0) ∧
    (∃ (s : State) (n : Nat), s.get (F.PROF_STILL_POLICY n) = 1) ∧
    (∃ (s : State) (n : Nat), s.get (F.PROF_STILL_POLICY n) = 2) ∧
    (∃ (s : State) (n : CrewNo), s.pf n = pfBSET ∧ (s.prof n).setFail = false ∧
      ((s.until ((s.prof n).since + s.get (F.PROF_BRKT_TSET n) * 2 * msCounts)).bit (F.PROF_BRK_FBEN n) = false ∨ (s.until ((s.prof n).since + s.get (F.PROF_BRKT_TSET n) * 2 * msCounts)).fbSet n = true)) ∧
    (∃ (s : State) (n : CrewNo), s.pf n = pfBSET ∧ (s.prof n).setFail = false ∧
      (s.until ((s.prof n).since + s.get (F.PROF_BRKT_TSET n) * 2 * msCounts)).bit (F.PROF_BRK_FBEN n) = true ∧
      (s.until ((s.prof n).since + s.get (F.PROF_BRKT_TSET n) * 2 * msCounts)).fbSet n = false) ∧
    (∃ (s : State) (n : CrewNo), s.pf n = pfBOPEN ∧ s.bit (F.PROF_PSTAT_BRKOUT n) = true ∧ s.guardSt n ≠ gRENDER) ∧
    (∃ (s : State) (n : CrewNo), s.pf n = pfBOPEN ∧ s.bit (F.PROF_PSTAT_BRKOUT n) = true ∧ s.guardSt n = gRENDER) ∧
    (∃ (s : State) (n : CrewNo), s.pf n = pfBOPEN ∧ s.bit (F.PROF_PSTAT_BRKOUT n) = false ∧
      ((s.until ((s.prof n).since + s.get (F.PROF_BRKT_TOPEN n) * 2 * msCounts)).bit (F.PROF_BRK_FBEN n) = false ∨ (s.until ((s.prof n).since + s.get (F.PROF_BRKT_TOPEN n) * 2 * msCounts)).fbSet n = false)) ∧
    (∃ (s : State) (n : CrewNo), s.pf n = pfBOPEN ∧ s.bit (F.PROF_PSTAT_BRKOUT n) = false ∧
      (s.until ((s.prof n).since + s.get (F.PROF_BRKT_TOPEN n) * 2 * msCounts)).bit (F.PROF_BRK_FBEN n) = true ∧
      (s.until ((s.prof n).since + s.get (F.PROF_BRKT_TOPEN n) * 2 * msCounts)).fbSet n = true) ∧
    (∃ (s : State) (n : CrewNo), s.bit (F.PROF_BRK_FBEN n) = true) ∧
    (∃ (s : State) (n : CrewNo), s.pf n = pfTREL ∧ s.rd (R.PROF_HOLDK n) = 0) ∧
    (∃ (s : State) (n : CrewNo) (v : _) (w : _) (u : _), s.up (R.PROF_TGT_H n) ∧
      s.takeWord (R.PROF_TGT_H n) v = (w, u) ∧ u.pfCrash n = false) ∧
    (∃ (s : State) (n : CrewNo) (v : _) (w : _) (u : _), s.up (R.PROF_TGT_H n) ∧
      s.takeWord (R.PROF_TGT_H n) v = (w, u) ∧ u.pfCrash n = true) ∧
    (∃ (s : State) (n : CrewNo) (v : _) (w : _) (u : _), s.up (R.PROF_VTGT n) ∧ s.takeWord (R.PROF_VTGT n) v = (w, u) ∧
      u.pfCrash n = false) ∧
    (∃ (s : State) (n : CrewNo) (v : _) (w : _) (u : _), s.up (R.PROF_VTGT n) ∧ s.takeWord (R.PROF_VTGT n) v = (w, u) ∧
      u.pfCrash n = true) ∧
    (∃ (s : State) (n : CrewNo), s.up (R.PROF_CTL n) ∧ s.pfCrash n = false) ∧
    (∃ (s : State) (n : CrewNo), s.up (R.PROF_CTL n) ∧ s.pfCrash n = true) ∧
    (∃ (s : State) (n : CrewNo) (i : Fin 10) (v : _) (w : _) (u : _), s.up (R.PROF_VSTART n + 4 * i.val) ∧
      s.takeWord (R.PROF_VSTART n + 4 * i.val) v = (w, u)) ∧
    (∃ (s : State) (n : CrewNo), s.up (R.PROF_IAR_PER n)) ∧
    (∃ (s : State) (n : CrewNo) (v : _) (w : _) (u : _), s.up (R.PROF_SETP_H n) ∧
      s.takeWord (R.PROF_SETP_H n) v = (w, u)) ∧
    (∃ (s : State) (n : CrewNo), s.up (R.PROF_POS_L n)) :=
  ⟨⟨(on.put (F.PROF_PSTAT_STATE 0) pfDWELL), 0, by decide +kernel⟩,
    ⟨((on.put (F.PROF_CTL_MODE 0) 1).wr (R.PROF_VTGT 0) 5), 0, _, some_of (by decide +kernel)⟩,
    ⟨on, 0, by decide +kernel⟩,
    ⟨(on.put (F.PROF_PSTAT_STATE 0) pfSTILL), 0, by decide +kernel⟩,
    ⟨(on.put (F.PROF_STILL_POLICY 0) 0), 0, by decide +kernel⟩,
    ⟨(on.put (F.PROF_STILL_POLICY 0) 1), 0, by decide +kernel⟩,
    ⟨(on.put (F.PROF_STILL_POLICY 0) 2), 0, by decide +kernel⟩,
    ⟨((on.put (F.PROF_PSTAT_STATE 0) pfBSET).setProf 0 { setFail := false }), 0, by decide +kernel⟩,
    ⟨(((on.put (F.PROF_PSTAT_STATE 0) pfBSET).put (F.PROF_BRKT_TSET 0) 0).putB (F.PROF_BRK_FBEN 0) true), 0,
     by decide +kernel⟩,
    ⟨(((on.put (F.PROF_PSTAT_STATE 0) pfBOPEN).putB (F.PROF_PSTAT_BRKOUT 0) true).put (F.CREW_G_STAT_STATE 0) (gRENDER + 1)),
     0, by decide +kernel⟩,
    ⟨(((on.put (F.PROF_PSTAT_STATE 0) pfBOPEN).putB (F.PROF_PSTAT_BRKOUT 0) true).put (F.CREW_G_STAT_STATE 0) gRENDER),
     0, by decide +kernel⟩,
    ⟨((on.put (F.PROF_PSTAT_STATE 0) pfBOPEN).putB (F.PROF_PSTAT_BRKOUT 0) false), 0, by decide +kernel⟩,
    ⟨(((((on.put (F.PROF_PSTAT_STATE 0) pfBOPEN).put (F.PROF_BRKT_TOPEN 0) 0).putB (F.PROF_PSTAT_BRKOUT 0) false).putB (F.PROF_BRK_FBEN 0) true).putB (F.PROF_PSTAT_BRKFB 0) true),
     0, by decide +kernel⟩,
    ⟨(on.putB (F.PROF_BRK_FBEN 0) true), 0, by decide +kernel⟩,
    ⟨((on.put (F.PROF_PSTAT_STATE 0) pfTREL).wr (R.PROF_HOLDK 0) 0), 0, by decide +kernel⟩,
    ⟨on, 0, 0, (on.takeWord (R.PROF_TGT_H (0 : CrewNo)) 0).1, (on.takeWord (R.PROF_TGT_H (0 : CrewNo)) 0).2,
     by unfold State.up; decide +kernel, Prod.ext rfl rfl, by decide +kernel⟩,
    ⟨(on.putB (F.PROF_PSTAT_CRASH 0) true), 0, 0,
     ((on.putB (F.PROF_PSTAT_CRASH 0) true).takeWord (R.PROF_TGT_H (0 : CrewNo)) 0).1,
     ((on.putB (F.PROF_PSTAT_CRASH 0) true).takeWord (R.PROF_TGT_H (0 : CrewNo)) 0).2,
     by unfold State.up; decide +kernel, Prod.ext rfl rfl, by decide +kernel⟩,
    ⟨on, 0, 0, (on.takeWord (R.PROF_VTGT (0 : CrewNo)) 0).1, (on.takeWord (R.PROF_VTGT (0 : CrewNo)) 0).2,
     by unfold State.up; decide +kernel, Prod.ext rfl rfl, by decide +kernel⟩,
    ⟨(on.putB (F.PROF_PSTAT_CRASH 0) true), 0, 0,
     ((on.putB (F.PROF_PSTAT_CRASH 0) true).takeWord (R.PROF_VTGT (0 : CrewNo)) 0).1,
     ((on.putB (F.PROF_PSTAT_CRASH 0) true).takeWord (R.PROF_VTGT (0 : CrewNo)) 0).2, by unfold State.up; decide +kernel,
     Prod.ext rfl rfl, by decide +kernel⟩,
    ⟨(on.putB (F.PROF_PSTAT_CRASH 0) false), 0, by unfold State.up; decide +kernel, by decide +kernel⟩,
    ⟨(on.putB (F.PROF_PSTAT_CRASH 0) true), 0, by unfold State.up; decide +kernel, by decide +kernel⟩,
    ⟨on, 0, 0, 0, _, _, by unfold State.up; decide +kernel, (Prod.eta _).symm⟩,
    ⟨on, 0, by unfold State.up; decide +kernel⟩,
    ⟨on, 0, 0, _, _, by unfold State.up; decide +kernel, (Prod.eta _).symm⟩,
    ⟨on, 0, by unfold State.up; decide +kernel⟩⟩

theorem wit_IarumPeriod :
    (∃ (s : State) (n : CrewNo), ((s.prof n).perStart = none ∨ s.pfMode n ≠ 2)) ∧
    (∃ (s : State) (n : CrewNo) (t0 : _) (z : _), (s.prof n).perStart = some t0 ∧ s.pfMode n = 2 ∧
      (s.prof n).setp = some z) ∧
    (∃ (s : State) (n : CrewNo) (t0 : _), (s.prof n).perStart = some t0 ∧ s.pfMode n = 2 ∧ (s.prof n).setp = none ∧
      (s.prof n).misses = 0) ∧
    (∃ (s : State) (n : CrewNo) (t0 : _), (s.prof n).perStart = some t0 ∧ s.pfMode n = 2 ∧ (s.prof n).setp = none ∧
      (s.prof n).misses = 1) :=
  ⟨⟨(on.setProf 0 { perStart := none }), 0, by decide +kernel⟩,
    ⟨((on.put (F.PROF_CTL_MODE 0) 2).setProf 0 { perStart := some 0, setp := some 0 }), 0, _, _,
     some_of (by decide +kernel), by decide +kernel, some_of (by decide +kernel)⟩,
    ⟨((on.put (F.PROF_CTL_MODE 0) 2).setProf 0 { perStart := some 0, setp := none, misses := 0 }), 0, _,
     some_of (by decide +kernel), by decide +kernel, by decide +kernel, by decide +kernel⟩,
    ⟨((on.put (F.PROF_CTL_MODE 0) 2).setProf 0 { perStart := some 0, setp := none, misses := 1 }), 0, _,
     some_of (by decide +kernel), by decide +kernel, by decide +kernel, by decide +kernel⟩⟩

theorem wit_PositionPorts :
    (∃ (s : State) (j : Port16) (n : _), s.posMode j = 1 ∧ s.posSt j = poOK ∧ s.posStable j n = true) ∧
    (∃ (s : State) (j : Port16) (n : _), s.posStable j n = false) ∧
    (∃ (s : State) (j : Port16), s.posMode j = 1 ∧ wordFld (s.pos j).cfg (F.POS_CFG_ZEN j) = 1) ∧
    (∃ (s : State) (j : Port16), s.posMode j ≠ 1) ∧
    (∃ (s : State) (j : Port16) (n : _), s.posMode j = 1 ∧ s.posStable j n = true ∧ (s.pos j).lastIll = none) ∧
    (∃ (s : State) (j : Port16) (n : _) (a : _), s.posMode j = 1 ∧ s.posStable j n = true ∧ (s.pos j).lastIll = some a ∧
      (s.incSat (F.POS_ILLCNT_COUNT j)).now ≤ a + msCounts ∧
      ((s.incSat (F.POS_ILLCNT_COUNT j)).setPos j { s.pos j with lastIll := some (s.incSat (F.POS_ILLCNT_COUNT j)).now }).posSt j = poOK) ∧
    (∃ (s : State) (j : Port16), s.posMode j ≠ 0 ∧ s.bit (F.POS_STAT_LINEF j) = false) ∧
    (∃ (s : State) (j : Port16), s.posMode j = 1 ∧ s.bit (F.POS_STAT_LINEF j) = true ∧ s.posSt j = poOK) ∧
    (∃ (s : State) (j : Port16) (u : _), s.posSt j = poOK ∧ s.posTrigger j = some u ∧
      ((u.pos j).busy = true ∨ (u.pos j).due = true ∨ u.now < (u.pos j).pause)) ∧
    (∃ (s : State) (j : Port16) (u : _), s.posSt j = poOK ∧ s.posTrigger j = some u ∧ (u.pos j).busy = false ∧
      (u.pos j).due = false ∧ (u.pos j).pause ≤ u.now) ∧
    (∃ (s : State) (j : Nat), wordFld (s.pos j).trg (F.POS_TRIG_SRC j) = 0) ∧
    (∃ (s : State) (j : Nat), wordFld (s.pos j).trg (F.POS_TRIG_SRC j) ≠ 0 ∧
      s.crewState (wordFld (s.pos j).trg (F.POS_TRIG_CREW j)) ≠ cUNUSED ∧
      ((s.crew (wordFld (s.pos j).trg (F.POS_TRIG_CREW j))).tc + 480) ≠ (s.pos j).trigTs) ∧
    (∃ (s : State) (j : Port16), (s.posSt j ≠ poOK ∨ s.posTrigger j = none)) ∧
    (∃ (s : State) (j : Nat), s.posSt j = poOK) ∧
    (∃ (s : State) (j : Nat), s.posSt j = poLOST) ∧
    (∃ (s : State) (j : Port16) (i : _), (s.pos j).busy = true ∧ s.readGood j i = false ∧
      ((wordFld (s.pos j).ser (F.POS_SER_EW j) == 1 && wordFld (s.pos j).cfg (F.POS_CFG_MODE j) = 3) = false ∨ i.ack = false)) ∧
    (∃ (s : State) (j : Port16) (i : _), (s.pos j).busy = true ∧ s.readGood j i = true ∧
      (wordFld (s.pos j).ser (F.POS_SER_EW j) == 1 && wordFld (s.pos j).cfg (F.POS_CFG_MODE j) = 3) = false) ∧
    (∃ (s : State) (j : Port16) (i : SerialIn), (s.pos j).busy = true ∧ s.readGood j i = true ∧
      (wordFld (s.pos j).ser (F.POS_SER_EW j) == 1 && wordFld (s.pos j).cfg (F.POS_CFG_MODE j) = 3) = true ∧ i.ack = true) ∧
    (∃ (s : State) (j : Port16), (s.pos j).busy = false) ∧
    (∃ (s : State) (j : Port16), (s.pos j).due = true) ∧
    (∃ (s : State) (j : Port16), s.up (R.POS_CTL j) ∧ s.posSt j = poLOST) ∧
    (∃ (s : State) (j : Nat), s.posSt j = poOFF ∧ s.posMode j ≠ 0) ∧
    (∃ (s : State) (j : Port16), s.up (R.POS_CNT_L j)) ∧
    (∃ (s : State) (j : Port16), s.up (R.POS_ZCAP_L j)) :=
  ⟨⟨((on.put (F.POS_STAT_STATE 0) poOK).setPos 0 { cfg := 0x111 }), 0, 2, by decide +kernel⟩,
    ⟨on, 0, 0, by decide +kernel⟩,
    ⟨((on.put (F.POS_STAT_STATE 0) poOK).setPos 0 { cfg := 0x111 }), 0, by decide +kernel⟩,
    ⟨(on.put (F.POS_CFG_MODE 0) (1 + 1)), 0, by decide +kernel⟩,
    ⟨((on.put (F.POS_STAT_STATE 0) poOK).setPos 0 { cfg := 0x111, lastIll := none }), 0, 2, by decide +kernel⟩,
    ⟨((on.put (F.POS_STAT_STATE 0) poOK).setPos 0 { cfg := 0x111, lastIll := some 0 }), 0, 2,
     ((((on.put (F.POS_STAT_STATE 0) poOK).setPos 0 { cfg := 0x111, lastIll := some 0 }).pos (0 : Port16)).lastIll).get (by decide +kernel),
     by decide +kernel, by decide +kernel, (Option.some_get _).symm, by decide +kernel, by decide +kernel⟩,
    ⟨(((on.put (F.POS_STAT_STATE 0) poOK).setPos 0 { cfg := 0x111 }).putB (F.POS_STAT_LINEF 0) false), 0,
     by decide +kernel⟩,
    ⟨(((on.put (F.POS_STAT_STATE 0) poOK).setPos 0 { cfg := 0x111 }).putB (F.POS_STAT_LINEF 0) true), 0,
     by decide +kernel⟩,
    ⟨((on.put (F.POS_STAT_STATE 0) poOK).setPos 0 { cfg := 0x111, busy := true }), 0,
     (((on.put (F.POS_STAT_STATE 0) poOK).setPos 0 { cfg := 0x111, busy := true }).posTrigger (0 : Port16)).get (by decide +kernel),
     by decide +kernel, (Option.some_get _).symm, by decide +kernel⟩,
    ⟨((on.put (F.POS_CFG_MODE 0) 2).put (F.POS_STAT_STATE 0) poOK), 0,
     (((on.put (F.POS_CFG_MODE 0) 2).put (F.POS_STAT_STATE 0) poOK).posTrigger (0 : Port16)).get (by decide +kernel),
     by decide +kernel, (Option.some_get _).symm, by decide +kernel, by decide +kernel, by decide +kernel⟩,
    ⟨on, 0, by decide +kernel⟩,
    ⟨((on.put (F.CREW_STAT_STATE 0) cRUN).setPos 0 { trg := 1 }), 0, by decide +kernel⟩,
    ⟨(on.put (F.POS_STAT_STATE 0) (poOK + 1)), 0, by decide +kernel⟩,
    ⟨(on.put (F.POS_STAT_STATE 0) poOK), 0, by decide +kernel⟩,
    ⟨(on.put (F.POS_STAT_STATE 0) poLOST), 0, by decide +kernel⟩,
    ⟨(((on.put (F.POS_CFG_MODE 0) 2).putB (F.POS_SER_PAR 0) true).setPos 0 { busy := true }), 0,
     ⟨0, false, false, 1, false, true⟩, by decide +kernel⟩,
    ⟨(((on.put (F.POS_CFG_MODE 0) 2).putB (F.POS_SER_PAR 0) true).setPos 0 { busy := true }), 0,
     ⟨0, false, false, 0, true, true⟩, by decide +kernel⟩,
    ⟨(on.setPos 0 { busy := true, cfg := 3, ser := 0x28270118 }), 0, ⟨0, false, false, 0, true, true⟩, by decide +kernel⟩,
    ⟨(on.setPos 0 { busy := false }), 0, by decide +kernel⟩,
    ⟨(on.setPos 0 { due := true }), 0, by decide +kernel⟩,
    ⟨(on.put (F.POS_STAT_STATE 0) poLOST), 0, by unfold State.up; decide +kernel, by decide +kernel⟩,
    ⟨((on.put (F.POS_STAT_STATE 0) poOFF).setPos 0 { cfg := 1 }), 0, by decide +kernel⟩,
    ⟨on, 0, by unfold State.up; decide +kernel⟩,
    ⟨on, 0, by unfold State.up; decide +kernel⟩⟩

theorem wit_SafetyInputs :
    (∃ (s : State) (i : Oct) (b : Bool) (n : _), s.islSt b = iACTIVE ∧ 10 * (s.siCfg i).filt ≤ n) ∧
    (∃ (s : State) (i : Oct) (b : Bool) (n : _), s.islSt b = iACTIVE ∧ n < 10 * (s.siCfg i).filt) ∧
    (∃ (s : State) (b : Bool), s.islSt b ≠ iACTIVE) ∧
    (∃ (b : _), b = false) ∧
    (∃ (s : State) (i : Nat), (s.siCfg i).flags % 2 = 1) ∧
    (∃ (r : SiRec) (fa : _) (fb : _) (was : _) (hold : _) (fn : _) (now : _), (r.filtered fa fb was hold fn now).2 = true) ∧
    (∃ (fa : Bool) (fb : Bool), fa = fb) ∧
    (∃ (fa : Bool) (fb : Bool), fa ≠ fb) ∧
    (∃ (fa : _) (fb : _), fa = false ∧ fb = false) ∧
    (∃ (s : State) (i : Oct) (a : _), (s.si i).runAt = some a ∧ (s.siCfg i).func = 3 ∧
      s.bit (F.SAFETY_SI_RSTHOLD i) = false) ∧
    (∃ (s : State) (i : Oct) (a : _), (s.si i).disAt = some a ∧ (s.siCfg i).func ≠ 0) ∧
    (∃ (s : State) (i : Oct), (s.si i).disAt = none) ∧
    (∃ (s : State) (j : Fin 4) (w : _) (tpp : _), s.tpoCfg j = some (w, tpp) ∧ s.islSt (tpoIsland j) = iACTIVE ∧
      s.bitAt F.SAFETY_MISC_TPOACT j = true) ∧
    (∃ (s : State) (j : Fin 4), s.bitAt F.SAFETY_MISC_TPOACT j = false) ∧
    (∃ (s : State) (i : Oct) (n : _) (j : _) (z : _), (s.si i).win = some (j, z) ∧ (((s.tpoCfg j).getD (1, 10)).1) ≤ n) ∧
    (∃ (s : State) (i : Oct) (n : _) (j : _) (z : _), (s.si i).win = some (j, z) ∧ n < (((s.tpoCfg j).getD (1, 10)).1)) ∧
    (∃ (s : State) (i : Oct), (s.si i).win = none) :=
  ⟨⟨((on.put F.SAFETY_ISL_AST iACTIVE).put F.SAFETY_ISL_BST iACTIVE), 0, false, 10, by decide +kernel⟩,
    ⟨((on.put F.SAFETY_ISL_AST iACTIVE).put F.SAFETY_ISL_BST iACTIVE), 0, true, 0, by decide +kernel⟩,
    ⟨(on.put F.SAFETY_ISL_AST iACTIVE), true, by decide +kernel⟩,
    ⟨false, by decide +kernel⟩,
    ⟨{ on with islA := { sec := some { si := [{ flags := 1 }] } } }, 0, by decide +kernel⟩,
    ⟨{ pulse := true }, false, false, false, false, 0, 0, by decide +kernel⟩,
    ⟨true, true, by decide +kernel⟩,
    ⟨true, false, by decide +kernel⟩,
    ⟨false, false, by decide +kernel⟩,
    ⟨{ on.setSi 0 { runAt := some 5 } with islA := islSec 1 }, 0, _, some_of (by decide +kernel), by decide +kernel,
     by decide +kernel⟩,
    ⟨{ on.setSi 0 { disAt := some 5 } with islA := islSec 1 }, 0, _, some_of (by decide +kernel), by decide +kernel⟩,
    ⟨(on.setSi 0 { disAt := none }), 0, by decide +kernel⟩,
    ⟨{ ((on.put F.SAFETY_ISL_AST iACTIVE).put F.SAFETY_ISL_BST iACTIVE).setBitAt F.SAFETY_MISC_TPOACT 0 true with islA := { sec := some { tpo := [(1, 10)] } } },
     0, _, _, rfl, by decide +kernel, by decide +kernel⟩,
    ⟨(on.setBitAt F.SAFETY_MISC_TPOACT 0 false), 0, by decide +kernel⟩,
    ⟨(on.setSi 0 { win := some (0, 0) }), 0, 1, 0, 0, by decide +kernel⟩,
    ⟨(on.setSi 0 { win := some (0, 0) }), 0, 0, 0, 0, by decide +kernel⟩,
    ⟨(on.setSi 0 { win := none }), 0, by decide +kernel⟩⟩

theorem wit_SafetyIslands :
    (∃ (s : State) (isl : _), s.domainRun (if isl then 2 else 1) = true ∧ s.islSt isl = iOFF) ∧
    (∃ (s : State) (isl : _) (r : _), s.islSt isl = iBOOT ∧ s.rigSel = some r) ∧
    (∃ (s : State) (isl : _), s.islSt isl = iBOOT ∧ s.rigSel = none) ∧
    (∃ (s : State) (isl : Bool) (c : _), s.islSt isl = iACTIVE ∧ (s.isl isl).sec = some c) ∧
    (∃ (s : State) (isl : _), (s.islSt isl ≠ iACTIVE ∨ (s.isl isl).sec = none)) ∧
    (∃ (s : State) (g : Oct) (c : SealSec), s.seal = some c ∧ (c.grp.getD g {}).mode % 2 = 1) ∧
    (∃ (s : State) (g : Oct) (c : SealSec), s.seal = some c ∧ (c.grp.getD g {}).mode % 2 = 0) ∧
    (∃ (s : State) (b : Bool) (o : SpeedObs), (s.islSt b ≠ iACTIVE ∨ o.line = true ∨ o.ill = true)) ∧
    (∃ (s : State) (b : Bool) (port : Nat) (o : SpeedObs), s.islSt b = iACTIVE ∧ o.line = false ∧ o.ill = false ∧
      s.posMode port = 1) ∧
    (∃ (va : Option Nat) (vb : Option Nat), (va = none ∨ vb = none)) ∧
    (∃ (s : State) (g : Nat) (tol : Nat) (va : Option Nat) (vb : Option Nat) (x : Nat) (y : Nat), va = some x ∧
      vb = some y ∧ tol < max x y - min x y ∧ mget 0 s.spdDiff g = 9) ∧
    (∃ (s : State) (isl : Bool) (g : Oct) (c : _), (s.isl isl).sec = some c ∧ ((s.isl isl).grp g).st = gsSS1) ∧
    (∃ (s : State) (isl : Bool) (g : Oct), ((s.isl isl).grp g).sbPend = true) ∧
    (∃ (s : State) (isl : Bool) (g : Oct), s.islSt isl = iACTIVE ∧ ((s.isl isl).grp g).high = true) ∧
    (∃ (s : State) (isl : _) (g : Oct), ((s.isl isl).grp g).high = false) ∧
    (∃ (s : State) (isl : Bool) (b : Oct), s.islSt isl = iACTIVE ∧ (s.isl isl).sbo.testBit b = true ∧
      ((((s.until (nextMult 800000000 (mget 0 (s.isl isl).sboAt b) s.now)).setIsl isl { s.isl isl with sboAt := mset 0 (s.isl isl).sboAt b (nextMult 800000000 (mget 0 (s.isl isl).sboAt b) s.now) }).putB (F.SAFETY_SBO_FLT b) true).fault 0x0705 b).seal = none) ∧
    (∃ (s : State) (isl : Bool) (b : Oct) (c : _), s.islSt isl = iACTIVE ∧ (s.isl isl).sbo.testBit b = true ∧
      ((((s.until (nextMult 800000000 (mget 0 (s.isl isl).sboAt b) s.now)).setIsl isl { s.isl isl with sboAt := mset 0 (s.isl isl).sboAt b (nextMult 800000000 (mget 0 (s.isl isl).sboAt b) s.now) }).putB (F.SAFETY_SBO_FLT b) true).fault 0x0705 b).seal = some c) :=
  ⟨⟨(on.put (if false then F.SAFETY_ISL_BST else F.SAFETY_ISL_AST) iOFF), false, by decide +kernel⟩,
    ⟨{ (on.put (if false then F.SAFETY_ISL_BST else F.SAFETY_ISL_AST) iBOOT) with rigSel := some 0 }, false, _,
     by decide +kernel, some_of (by decide +kernel)⟩,
    ⟨{ (on.put (if false then F.SAFETY_ISL_BST else F.SAFETY_ISL_AST) iBOOT) with rigSel := none }, false,
     by decide +kernel⟩,
    ⟨{ (on.put F.SAFETY_ISL_AST iACTIVE) with islA := islSec 1 }, false, _, by decide +kernel,
     some_of (by decide +kernel)⟩,
    ⟨(on.put (if false then F.SAFETY_ISL_BST else F.SAFETY_ISL_AST) (iACTIVE + 1)), false, by decide +kernel⟩,
    ⟨{ (on.put F.SAFETY_ISL_AST iACTIVE) with islA := islSec 1 }, 0, { si := [{ func := 3 }], grp := [{ mode := 1 }] },
     by decide +kernel⟩,
    ⟨{ (on.put F.SAFETY_ISL_AST iACTIVE) with islA := islSec 0 }, 0, { si := [{ func := 3 }], grp := [{ mode := 0 }] },
     by decide +kernel⟩,
    ⟨((on.put F.SAFETY_ISL_AST iACTIVE).put F.SAFETY_ISL_BST iACTIVE), false, ⟨true, false, 0, none⟩, by decide +kernel⟩,
    ⟨(((on.put F.SAFETY_ISL_AST iACTIVE).put F.SAFETY_ISL_BST iACTIVE).setPos 0 { cfg := 1 }), false, 0,
     ⟨false, false, 0, none⟩, by decide +kernel⟩,
    ⟨none, some 0, by decide +kernel⟩,
    ⟨{ on with spdDiff := [(0, 9)] }, 0, 0, some 1, some 0, 1, 0, rfl, rfl, by decide +kernel, by decide +kernel⟩,
    ⟨{ (on.put F.SAFETY_ISL_AST iACTIVE) with islA := islSec 0 }, false, 0, _, some_of (by decide +kernel),
     by decide +kernel⟩,
    ⟨{ (on.put F.SAFETY_ISL_AST iACTIVE) with islA := islSec 0 }, false, 0, by decide +kernel⟩,
    ⟨{ ((on.put F.SAFETY_ISL_AST iACTIVE).put F.SAFETY_ISL_BST iACTIVE) with islA := islSec 0 }, false, 0,
     by decide +kernel⟩,
    ⟨on, false, 0, by decide +kernel⟩,
    ⟨{ (on.put F.SAFETY_ISL_AST iACTIVE) with islA := { sbo := 1 } }, false, 0, by decide +kernel⟩,
    ⟨{ (on.put F.SAFETY_ISL_AST iACTIVE) with islA := islSec 0 }, false, 0, _, by decide +kernel, by decide +kernel,
     some_of (by decide +kernel)⟩⟩

theorem wit_MasterFrames :
    (∃ (s : State) (p : RingPort) (f : RingFrame), (s.ringRx p false f).1 = true ∧
      f.etype.toNat = (s.ringRx p false f).2.get F.MASTER_CFG_ETYPE) ∧
    (∃ (s : State) (p : RingPort) (f : RingFrame), (s.ringRx p false f).1 = false) ∧
    (∃ (s : State) (r : _) (l : List ReasmRec), s.reasm = r :: l) ∧
    (∃ (s : State), s.epochOpen = false) ∧
    (∃ (s : State) (mac : _) (l : _) (r : _), s.epochOpen = true ∧ s.ringRxQ = (mac, l) :: r) ∧
    (∃ (s : State) (l : _) (r : _), s.epochOpen = true ∧ s.mpRx = l :: r) ∧
    (∃ (l : _), frameLenOk l = false) ∧
    (∃ (l : _), frameLenOk l = true ∧ frameCrcOk l = false) ∧
    (∃ (s : State) (r : _), s.pathRing = true ∧ s.ringEn = true ∧ s.nextDue = some r) ∧
    (∃ (s : State), (s.pathRing = false ∨ s.nextDue = none)) ∧
    (∃ (s : State) (r : _) (a : _), r ∈ s.reports ∧ r.due = false ∧ r.once = false ∧ r.sentAt = some a ∧
      a + s.get F.MASTER_RTO_MS * msCounts ≤ s.now) ∧
    (∃ (s : State), (s.get F.MASTER_HBTO_MS = 0 ∨ s.mSilent = true)) ∧
    (∃ (s : State), s.get F.MASTER_HBTO_MS ≠ 0 ∧ s.mSilent = false ∧
      (((({ s.until (s.mLast + s.get F.MASTER_HBTO_MS * msCounts) with mSilent := true } : State)).fault 0x080A (({ s.until (s.mLast + s.get F.MASTER_HBTO_MS * msCounts) with mSilent := true } : State)).pathRing.toNat).event 7 (leBytes 2 (s.get F.MASTER_HBTO_MS) ++ [0, 0])).bit F.MASTER_CFG_HBSTOP = false) ∧
    (∃ (s : State), s.get F.MASTER_HBTO_MS ≠ 0 ∧ s.mSilent = false ∧
      (((({ s.until (s.mLast + s.get F.MASTER_HBTO_MS * msCounts) with mSilent := true } : State)).fault 0x080A (({ s.until (s.mLast + s.get F.MASTER_HBTO_MS * msCounts) with mSilent := true } : State)).pathRing.toNat).event 7 (leBytes 2 (s.get F.MASTER_HBTO_MS) ++ [0, 0])).bit F.MASTER_CFG_HBSTOP = true) ∧
    (∃ (pay : List Byte), (pay.length < 4 ∨ leAt pay 3 1 = 0 ∨ 3 < leAt pay 3 1 ∨ leAt pay 3 1 ≤ leAt pay 2 1)) ∧
    (∃ (s : State), s.domainRun 7 = true ∧ s.pathRing = true) ∧
    (∃ (s : State), s.domainRun 7 = true ∧ s.pathRing = false ∧ 2 ≤ s.mpRx.length) ∧
    (∃ (s : State) (l : List Byte), s.domainRun 7 = true ∧ s.pathRing = false ∧ s.mpRx.length < 2 ∧ l.length < 16) ∧
    (∃ (s : State) (l : _), s.domainRun 7 = true ∧ s.pathRing = false ∧ s.mpRx.length < 2 ∧ frameLenOk l = true) ∧
    (∃ (s : State), s.domainRun 7 = true ∧ (s.pathRing = true ∨ s.nextDue = none)) ∧
    (∃ (s : State) (r : _), s.domainRun 7 = true ∧ s.pathRing = false ∧ s.nextDue = some r) ∧
    (∃ (s : State), s.domainRun 7 = true) ∧
    (∃ (s : State), s.domainRun 7 = false) ∧
    (∃ (s : State) (v : _) (w : _) (u : _), s.up R.MASTER_CNTCLR ∧ s.takeWord R.MASTER_CNTCLR v = (w, u)) :=
  ⟨⟨ringUp, 0, ⟨1, 0x112233445566, 0, 1, BitVec.ofNat 16 (on.get F.MASTER_CFG_ETYPE), [], true⟩, by decide +kernel⟩,
    ⟨ringUp, 0, ⟨0x010000000000, 0x112233445566, 0, 1, 0, [], false⟩, by decide +kernel⟩,
    ⟨{ on with reasm := [⟨[], 0, 2, [], 0⟩] }, ⟨[], 0, 2, [], 0⟩, [], by decide +kernel⟩,
    ⟨{ on with epochOpen := false }, by decide +kernel⟩,
    ⟨{ on with epochOpen := true, ringRxQ := [([], List.replicate 16 0)] }, [], List.replicate 16 0, [],
     by decide +kernel⟩,
    ⟨{ on with epochOpen := true, mpRx := [List.replicate 16 0] }, List.replicate 16 0, [], by decide +kernel⟩,
    ⟨[], by decide +kernel⟩,
    ⟨List.replicate 16 0, by decide +kernel⟩,
    ⟨{ (((ringUp.putB F.MASTER_CFG_PATH true).putB F.AON_RIG_NONE false).put F.AON_PWRSTAT_STATE 2) with reports := [{ typ := .event, epoch := 0, rseq := 2, body := [] }] },
     _, by decide +kernel, by decide +kernel, some_of (by decide +kernel)⟩,
    ⟨on, by decide +kernel⟩,
    ⟨{ (on.put F.MASTER_RTO_MS 1) with reports := [{ typ := .event, epoch := 0, rseq := 2, body := [], sentAt := some 0, due := false }], now := 800000 },
     { typ := .event, epoch := 0, rseq := 2, body := [], sentAt := some 0, due := false }, 0, by decide +kernel⟩,
    ⟨(on.put F.MASTER_HBTO_MS 0), by decide +kernel⟩,
    ⟨{ (on.put F.MASTER_HBTO_MS 1) with mSilent := false }, by decide +kernel⟩,
    ⟨{ ((on.put F.MASTER_HBTO_MS 1).putB F.MASTER_CFG_HBSTOP true) with now := 800000 }, by decide +kernel⟩,
    ⟨[], by decide +kernel⟩,
    ⟨((on.putB F.MASTER_CFG_PATH true).putB F.AON_RIG_NONE false), by decide +kernel⟩,
    ⟨{ on with mpRx := [[], []] }, by decide +kernel⟩,
    ⟨on, [], by decide +kernel⟩,
    ⟨{ on with mpRx := [[]] }, List.replicate 16 0, by decide +kernel⟩,
    ⟨on, by decide +kernel⟩,
    ⟨{ (on.put F.AON_PWRSTAT_STATE 2) with reports := [{ typ := .event, epoch := 0, rseq := 2, body := [] }] }, _,
     by decide +kernel, by decide +kernel, some_of (by decide +kernel)⟩,
    ⟨((on.putB F.MASTER_CFG_PATH true).putB F.AON_RIG_NONE false), by decide +kernel⟩,
    ⟨State.reset, by decide +kernel⟩,
    ⟨on, 0, _, _, by unfold State.up; decide +kernel, (Prod.eta _).symm⟩⟩

theorem wit_JournalBatches :
    (∃ (s : State), s.jnl.phase ≠ 1) ∧
    (∃ (s : State), s.jnl.phase = 1) ∧
    (∃ (s : State), s.jnl.phase ≠ 2) ∧
    (∃ (s : State) (d : _), s.jnl.phase = 2 ∧
      ((s.until (s.jnl.closeAt + min d 38400)).putB F.NVM_STAT_URGENT false).macroLost 0 = false ∧
      ((s.until (s.jnl.closeAt + min d 38400)).putB F.NVM_STAT_URGENT false).macroLost 1 = false ∧ d ≤ 38400) ∧
    (∃ (s : State) (d : _), s.jnl.phase = 2 ∧
      ((s.until (s.jnl.closeAt + min d 38400)).putB F.NVM_STAT_URGENT false).macroLost 0 = false ∧
      ((s.until (s.jnl.closeAt + min d 38400)).putB F.NVM_STAT_URGENT false).macroLost 1 = false ∧ 38400 < d) ∧
    (∃ (s : State), s.pw = pwBOOT ∧ s.domainRun 7 = true ∧ s.domainRun 4 = true ∧ s.epochOpen = false ∧ s.rstBy = [] ∧
      s.recovery = false) ∧
    (∃ (s : State), (s.epochOpen = true ∨ s.pw ≠ pwBOOT)) :=
  ⟨⟨on, by decide +kernel⟩,
    ⟨{ on with jnl := { phase := 1 } }, by decide +kernel⟩,
    ⟨on, by decide +kernel⟩,
    ⟨{ on with jnl := { phase := 2 }, now := 38400 }, 38400, by decide +kernel⟩,
    ⟨{ on with jnl := { phase := 2 }, now := 38400 }, 38401, by decide +kernel⟩,
    ⟨{ (on.put F.AON_PWRSTAT_STATE pwBOOT) with epochOpen := false, rstBy := [], recovery := false }, by decide +kernel⟩,
    ⟨{ on with epochOpen := true }, by decide +kernel⟩⟩

theorem wit_OrderExecution :
    (∃ (s : State), s.orders.find? OrderRec.waiting = none) ∧
    (∃ (s : State) (o : OrderRec), s.orders.find? OrderRec.waiting = some o ∧ o.st ≠ .placed ∧
      (s.laneOrder o.lane) = none ∧ s.heldOrder o.lane = none ∧ s.laneLocked o.lane = false ∧
      s.get F.AON_PWRSTAT_STATE = 2 ∧ o.classM = true ∧ s.laneTask o.lane = none) ∧
    (∃ (s : State) (o : OrderRec), s.orders.find? OrderRec.waiting = some o ∧ o.st ≠ .placed ∧
      (s.laneOrder o.lane) = none ∧ s.heldOrder o.lane = none ∧ s.laneLocked o.lane = false ∧
      s.get F.AON_PWRSTAT_STATE = 2 ∧ (o.classM = false ∨ s.laneTask o.lane ≠ none)) ∧
    (∃ (s : State) (lane : Fin 33) (o : OrderRec) (k : _), s.laneOrder lane = some o ∧ o.classM = true ∧
      o.st = .running ∧ o.held = false ∧ s.laneTask lane = some k ∧ (s.task k).st = .disabled) ∧
    (∃ (s : State) (lane : Fin 33) (o : OrderRec) (k : _), s.laneOrder lane = some o ∧ o.classM = true ∧
      o.st = .running ∧ o.held = false ∧ s.laneTask lane = some k ∧ (s.task k).st = .waiting) ∧
    (∃ (s : State) (o : OrderRec), s.builtin 2 = some o ∧ o.maint = false ∧ s.bit F.AON_RIG_NONE = false ∧
      s.get F.AON_RIG_ACTIVE = leAt o.body 0 1) ∧
    (∃ (s : State) (o : OrderRec), s.builtin 2 = some o ∧ o.maint = false ∧ s.bit F.AON_RIG_NONE = true) ∧
    (∃ (s : State) (o : OrderRec), s.builtin 3 = some o ∧ s.pw ≠ pwBOOT ∧ s.pw ≠ pwRESTENTRY ∧ o.maint = false ∧
      (s.rigTake (leAt o.body 0 1)).1 = none) ∧
    (∃ (s : State) (o : OrderRec), s.builtin 3 = some o ∧ s.pw ≠ pwBOOT ∧ s.pw ≠ pwRESTENTRY ∧ o.maint = true ∧
      s.pw ≠ pwLISTEN) ∧
    (∃ (s : State) (n : _), s.notAtRest = some n) ∧
    (∃ (s : State) (o : OrderRec), s.builtin 4 = some o) ∧
    (∃ (s : State) (o : OrderRec), s.builtin 5 = some o ∧ leAt o.body 0 2 ≤ o.step) ∧
    (∃ (s : State) (o : OrderRec), s.builtin 5 = some o ∧ o.step < leAt o.body 0 2 ∧ o.maint = false) ∧
    (∃ (s : State) (o : OrderRec), s.builtin 6 = some o ∧ leAt o.body 0 1 = 0) ∧
    (∃ (s : State) (o : OrderRec), s.builtin 6 = some o ∧ leAt o.body 0 1 = 1) ∧
    (∃ (s : State) (o : OrderRec), s.builtin 6 = some o ∧ leAt o.body 0 1 = 2) ∧
    (∃ (s : State) (o : OrderRec), s.builtin 7 = some o ∧ leAt o.body 0 2 ≤ o.step) ∧
    (∃ (s : State) (o : OrderRec), s.builtin 7 = some o ∧ o.step < leAt o.body 0 2) ∧
    (∃ (s : State) (o : OrderRec), s.builtin 9 = some o ∧ leAt o.body 0 1 = 0) ∧
    (∃ (s : State) (o : OrderRec), s.builtin 9 = some o ∧ leAt o.body 0 1 = 4) ∧
    (∃ (s : State) (o : OrderRec), s.builtin 12 = some o) ∧
    (∃ (s : State), s.builtin 2 = none) ∧
    (∃ (s : State), s.builtin 3 = none) ∧
    (∃ (s : State), s.builtin 4 = none) ∧
    (∃ (s : State), s.builtin 5 = none) ∧
    (∃ (s : State), s.builtin 6 = none) ∧
    (∃ (s : State), s.builtin 7 = none) ∧
    (∃ (s : State), s.builtin 9 = none) ∧
    (∃ (s : State), s.builtin 12 = none) :=
  ⟨⟨on, by decide +kernel⟩,
    ⟨{ (on.put F.AON_PWRSTAT_STATE 2) with orders := [{ seq := 1, lane := 0, opcode := 1, flags := 0, ver := 2, crc := 0, frame := [], body := [], st := .queued }] },
     { seq := 1, lane := 0, opcode := 1, flags := 0, ver := 2, crc := 0, frame := [], body := [], st := .queued },
     by decide +kernel⟩,
    ⟨{ (on.put F.AON_PWRSTAT_STATE 2) with orders := [{ seq := 1, lane := 0, opcode := 2, flags := 0, ver := 2, crc := 0, frame := [], body := [], st := .queued }] },
     { seq := 1, lane := 0, opcode := 2, flags := 0, ver := 2, crc := 0, frame := [], body := [], st := .queued },
     by decide +kernel⟩,
    ⟨{ (on.setTask 0 { desc0 := 0xB0000000#32, st := .disabled }) with orders := [{ seq := 1, lane := 0, opcode := 1, flags := 0, ver := 2, crc := 0, frame := [], body := [], st := .running }] },
     0, { seq := 1, lane := 0, opcode := 1, flags := 0, ver := 2, crc := 0, frame := [], body := [], st := .running }, 0,
     by decide +kernel⟩,
    ⟨{ (on.setTask 0 { desc0 := 0xB0000000#32, st := .waiting }) with orders := [{ seq := 1, lane := 0, opcode := 1, flags := 0, ver := 2, crc := 0, frame := [], body := [], st := .running }] },
     0, { seq := 1, lane := 0, opcode := 1, flags := 0, ver := 2, crc := 0, frame := [], body := [], st := .running }, 0,
     by decide +kernel⟩,
    ⟨{ ((on.putB F.AON_RIG_NONE false).put F.AON_RIG_ACTIVE 1) with orders := [{ seq := 1, lane := 0, opcode := 2, flags := 0, ver := 2, crc := 0, frame := [], body := [1], st := .running }] },
     { seq := 1, lane := 0, opcode := 2, flags := 0, ver := 2, crc := 0, frame := [], body := [1], st := .running },
     by decide +kernel⟩,
    ⟨{ (on.putB F.AON_RIG_NONE true) with orders := [{ seq := 1, lane := 0, opcode := 2, flags := 0, ver := 2, crc := 0, frame := [], body := [1], st := .running }] },
     { seq := 1, lane := 0, opcode := 2, flags := 0, ver := 2, crc := 0, frame := [], body := [1], st := .running },
     by decide +kernel⟩,
    ⟨{ (on.put F.AON_PWRSTAT_STATE pwREADY) with orders := [{ seq := 1, lane := 0, opcode := 3, flags := 0, ver := 2, crc := 0, frame := [], body := [1], st := .running }] },
     { seq := 1, lane := 0, opcode := 3, flags := 0, ver := 2, crc := 0, frame := [], body := [1], st := .running },
     by decide +kernel⟩,
    ⟨{ (on.put F.AON_PWRSTAT_STATE pwREADY) with orders := [{ seq := 1, lane := 0, opcode := 3, flags := 0, ver := 2, crc := 0, frame := [], body := [1], st := .running, maint := true }] },
     { seq := 1, lane := 0, opcode := 3, flags := 0, ver := 2, crc := 0, frame := [], body := [1], st := .running, maint := true },
     by decide +kernel⟩,
    ⟨(on.put (F.CREW_STAT_STATE 31) cRUN), _, some_of (by decide +kernel)⟩,
    ⟨{ on with orders := [{ seq := 1, lane := 0, opcode := 4, flags := 0, ver := 2, crc := 0, frame := [], body := [], st := .running }] },
     _, some_of (by decide +kernel)⟩,
    ⟨{ on with orders := [{ seq := 1, lane := 0, opcode := 5, flags := 0, ver := 2, crc := 0, frame := [], body := [0, 0], st := .running }] },
     { seq := 1, lane := 0, opcode := 5, flags := 0, ver := 2, crc := 0, frame := [], body := [0, 0], st := .running },
     by decide +kernel⟩,
    ⟨{ on with orders := [{ seq := 1, lane := 0, opcode := 5, flags := 0, ver := 2, crc := 0, frame := [], body := [1, 0], st := .running }] },
     { seq := 1, lane := 0, opcode := 5, flags := 0, ver := 2, crc := 0, frame := [], body := [1, 0], st := .running },
     by decide +kernel⟩,
    ⟨{ on with orders := [{ seq := 1, lane := 0, opcode := 6, flags := 0, ver := 2, crc := 0, frame := [], body := [0], st := .running }] },
     { seq := 1, lane := 0, opcode := 6, flags := 0, ver := 2, crc := 0, frame := [], body := [0], st := .running },
     by decide +kernel⟩,
    ⟨{ on with orders := [{ seq := 1, lane := 0, opcode := 6, flags := 0, ver := 2, crc := 0, frame := [], body := [1], st := .running }] },
     { seq := 1, lane := 0, opcode := 6, flags := 0, ver := 2, crc := 0, frame := [], body := [1], st := .running },
     by decide +kernel⟩,
    ⟨{ on with orders := [{ seq := 1, lane := 0, opcode := 6, flags := 0, ver := 2, crc := 0, frame := [], body := [2], st := .running }] },
     { seq := 1, lane := 0, opcode := 6, flags := 0, ver := 2, crc := 0, frame := [], body := [2], st := .running },
     by decide +kernel⟩,
    ⟨{ on with orders := [{ seq := 1, lane := 0, opcode := 7, flags := 0, ver := 2, crc := 0, frame := [], body := [0, 0], st := .running }] },
     { seq := 1, lane := 0, opcode := 7, flags := 0, ver := 2, crc := 0, frame := [], body := [0, 0], st := .running },
     by decide +kernel⟩,
    ⟨{ on with orders := [{ seq := 1, lane := 0, opcode := 7, flags := 0, ver := 2, crc := 0, frame := [], body := [1, 0], st := .running }] },
     { seq := 1, lane := 0, opcode := 7, flags := 0, ver := 2, crc := 0, frame := [], body := [1, 0], st := .running },
     by decide +kernel⟩,
    ⟨{ on with orders := [{ seq := 1, lane := 0, opcode := 9, flags := 0, ver := 2, crc := 0, frame := [], body := [0], st := .running }] },
     { seq := 1, lane := 0, opcode := 9, flags := 0, ver := 2, crc := 0, frame := [], body := [0], st := .running },
     by decide +kernel⟩,
    ⟨{ on with orders := [{ seq := 1, lane := 0, opcode := 9, flags := 0, ver := 2, crc := 0, frame := [], body := [4], st := .running }] },
     { seq := 1, lane := 0, opcode := 9, flags := 0, ver := 2, crc := 0, frame := [], body := [4], st := .running },
     by decide +kernel⟩,
    ⟨{ on with orders := [{ seq := 1, lane := 0, opcode := 12, flags := 0, ver := 2, crc := 0, frame := [], body := [], st := .running }] },
     _, some_of (by decide +kernel)⟩,
    ⟨on, by decide +kernel⟩,
    ⟨on, by decide +kernel⟩,
    ⟨on, by decide +kernel⟩,
    ⟨on, by decide +kernel⟩,
    ⟨on, by decide +kernel⟩,
    ⟨on, by decide +kernel⟩,
    ⟨on, by decide +kernel⟩,
    ⟨on, by decide +kernel⟩⟩

theorem wit_RingPorts :
    (∃ (s : State) (p : RingPort) (f : RingFrame), s.ringEn = true ∧ s.ringLink p = true ∧ f.good = false) ∧
    (∃ (s : State) (p : RingPort), (s.ringEn = false ∨ s.ringLink p = false)) ∧
    (∃ (s : State) (p : RingPort) (f : RingFrame), s.ringEn = true ∧ s.ringLink p = true ∧ f.good = true ∧
      f.src.toNat ≠ s.ownMac) ∧
    (∃ (s : State), s.ringEn = true) ∧
    (∃ (s : State), s.bit F.RING_STAT_BROKEN = false ∧ s.ring.nodes.any (fun n => n.oneSided s.now) = true) ∧
    (∃ (s : State), s.bit F.RING_STAT_BROKEN = false ∧ s.ring.nodes.any (fun n => n.oneSided s.now) = false ∧
      (s.untilFirst s.brokenDues).ring.nodes.any (fun n => n.oneSided (s.untilFirst s.brokenDues).now) = true) ∧
    (∃ (s : State) (p : RingPort) (up : _), s.ringEn = true ∧ s.ringLink p ≠ up) ∧
    (∃ (s : State) (p : RingPort) (f : TxFrame), s.ringEn = true ∧ s.ringLink p = true ∧
      s.bit (F.RING_PORT_CTL_TXEN p) = true ∧ (s.until (s.egress p).startAt).egressPick p = some f) ∧
    (∃ (s : State) (p : RingPort), s.ringEn = true ∧ s.ringLink p = true ∧ s.bit (F.RING_PORT_CTL_TXEN p) = true ∧
      (s.until (s.egress p).startAt).egressPick p = none) ∧
    (∃ (s : State) (p : Nat) (f : TxFrame), ((s.egress p).wait.filter (fun f => f.at0 ≤ s.now)).find? (·.express) = some f) ∧
    (∃ (s : State) (p : Nat), ((s.egress p).wait.filter (fun f => f.at0 ≤ s.now)).find? (·.express) = none) ∧
    (∃ (s : State) (p : RingPort), s.bit (F.RING_PORT_CTL_TXEN p) = false) ∧
    (∃ (s : State), s.ringEn = true ∧ s.bit F.RING_WIN_EN = true ∧ s.ring.winOpen = false) ∧
    (∃ (s : State), s.ring.winOpen = true) ∧
    (∃ (s : State) (p : RingPort), s.up (R.RING_PORT_CTL p)) ∧
    (∃ (s : State) (v : _) (w : _) (u : _), s.up R.RING_MDIO_CMD ∧ s.takeWord R.RING_MDIO_CMD v = (w, u)) ∧
    (∃ (s : State), s.bit F.RING_MDIO_STAT_BUSY = true ∧
      ((s.until (s.ring.mdioAt + s.mdioTime)).putB F.RING_MDIO_STAT_BUSY false).get F.RING_MDIO_CMD_OP = 2) ∧
    (∃ (s : State), s.bit F.RING_MDIO_STAT_BUSY = true ∧
      ((s.until (s.ring.mdioAt + s.mdioTime)).putB F.RING_MDIO_STAT_BUSY false).get F.RING_MDIO_CMD_OP = 1) ∧
    (∃ (s : State), s.up R.RING_BYP) ∧
    (∃ (s : State) (a : _), s.ring.leaveAt = some a) ∧
    (∃ (s : State) (lv : Bool), s.bit F.RING_BYP_SENSE ≠ lv) ∧
    (∃ (s : State) (a : _), s.ring.bypDiff = some a ∧ s.bit F.RING_BYP_MISMATCH = false) ∧
    (∃ (s : State) (p : RingPort) (f : RingFrame), (s.ringRx p true f).1 = true ∧
      f.etype.toNat = (s.ringRx p true f).2.get F.RING_CFG_RETYPE ∧ leAt f.payload 0 1 = 2) :=
  ⟨⟨ringUp, 0, ⟨1, 0x112233445566, 0, 1, 0, [], false⟩, by decide +kernel⟩,
    ⟨(on.putB F.RING_CFG_EN false), 0, by decide +kernel⟩,
    ⟨ringUp, 0, ⟨1, 0x112233445566, 0, 1, 0, [], true⟩, by decide +kernel⟩,
    ⟨(on.putB F.RING_CFG_EN true), by decide +kernel⟩,
    ⟨{ (on.putB F.RING_STAT_BROKEN false) with ring := { nodes := [⟨1, 1, 0⟩] }, now := heardFor }, by decide +kernel⟩,
    ⟨{ on.putB F.RING_STAT_BROKEN false with ring := { nodes := [⟨1, heardFor, 1⟩] }, now := heardFor },
     by decide +kernel⟩,
    ⟨(on.putB F.RING_CFG_EN true), 0, true, by decide +kernel⟩,
    ⟨{ (ringUp.putB (F.RING_PORT_CTL_TXEN 0) true) with ring := { eg0 := { wait := [{ express := true }] } } }, 0,
     { express := true }, by decide +kernel⟩,
    ⟨(ringUp.putB (F.RING_PORT_CTL_TXEN 0) true), 0, by decide +kernel⟩,
    ⟨{ on with ring := { eg0 := { wait := [{ express := true }] } } }, 0, { express := true }, by decide +kernel⟩,
    ⟨on, 0, by decide +kernel⟩,
    ⟨(on.putB (F.RING_PORT_CTL_TXEN 0) false), 0, by decide +kernel⟩,
    ⟨((on.putB F.RING_CFG_EN true).putB F.RING_WIN_EN true), by decide +kernel⟩,
    ⟨{ on with ring := { winOpen := true } }, by decide +kernel⟩,
    ⟨on, 0, by unfold State.up; decide +kernel⟩,
    ⟨on, 0, _, _, by unfold State.up; decide +kernel, (Prod.eta _).symm⟩,
    ⟨((on.putB F.RING_MDIO_STAT_BUSY true).put F.RING_MDIO_CMD_OP 2), by decide +kernel⟩,
    ⟨((on.putB F.RING_MDIO_STAT_BUSY true).put F.RING_MDIO_CMD_OP 1), by decide +kernel⟩,
    ⟨on, by unfold State.up; decide +kernel⟩,
    ⟨{ on with ring := { leaveAt := some 5 } }, _, some_of (by decide +kernel)⟩,
    ⟨(on.putB F.RING_BYP_SENSE false), true, by decide +kernel⟩,
    ⟨{ (on.putB F.RING_BYP_MISMATCH false) with ring := { bypDiff := some 5 } }, _, some_of (by decide +kernel),
     by decide +kernel⟩,
    ⟨ringUp, 0, ⟨1, 0x112233445566, 0, 1, BitVec.ofNat 16 (on.get F.RING_CFG_RETYPE), [2], true⟩, by decide +kernel⟩⟩

theorem wit_NetworkTime :
    (∃ (s : State) (p : RingPort), (s.ringEn = false ∨ s.ringLink p = false)) ∧
    (∃ (s : State) (p : RingPort) (m : PtpMsg), s.ringEn = true ∧ s.ringLink p = true ∧ timeBad m = true) ∧
    (∃ (s : State) (p : RingPort) (m : PtpMsg), s.ringEn = true ∧ s.ringLink p = true ∧ m.src.toNat ≠ s.ownMac ∧
      timeBad m = false ∧ ((s.incSat (F.RING_PORT_RXCNT_COUNT p)).ptpForward p 0 m).ptpOurs m = false) ∧
    (∃ (s : State) (p : RingPort) (m : PtpMsg), s.ringEn = true ∧ s.ringLink p = true ∧ m.src.toNat ≠ s.ownMac ∧
      timeBad m = false ∧ ((s.incSat (F.RING_PORT_RXCNT_COUNT p)).ptpForward p 0 m).ptpOurs m = true ∧ m.twoStep = true) ∧
    (∃ (s : State) (p : RingPort) (m : PtpMsg), s.ringEn = true ∧ s.ringLink p = true ∧ m.src.toNat ≠ s.ownMac ∧
      timeBad m = false ∧ ((s.incSat (F.RING_PORT_RXCNT_COUNT p)).ptpForward p 0 m).ptpOurs m = true ∧ m.twoStep = false) ∧
    (∃ (s : State) (p : RingPort) (m : PtpMsg) (q : _) (a : _) (c : _), s.ringEn = true ∧ s.ringLink p = true ∧
      m.src.toNat ≠ s.ownMac ∧ timeBad m = false ∧
      ((s.incSat (F.RING_PORT_RXCNT_COUNT p)).ptpForward p 8 m).ptpOurs m = true ∧
      (((s.incSat (F.RING_PORT_RXCNT_COUNT p)).ptpForward p 8 m).ptpPort p).sync = some (q, a, c)) ∧
    (∃ (s : State) (p : RingPort) (m : PtpMsg), s.ringEn = true ∧ s.ringLink p = true ∧ m.src.toNat ≠ s.ownMac ∧
      timeBad m = false) ∧
    (∃ (s : State) (p : RingPort) (m : PtpMsg), s.ringEn = true ∧ s.ringLink p = true ∧ timeBad m = false) ∧
    (∃ (s : State) (p : RingPort) (m : PtpMsg) (q : _) (a : _) (b : _) (x : _) (y : _), s.ringEn = true ∧
      s.ringLink p = true ∧ timeBad m = false ∧ ((s.incSat (F.RING_PORT_RXCNT_COUNT p)).ptpPort p).req = some (q, a, b) ∧
      q = m.seq.toNat ∧ (s.incSat (F.RING_PORT_RXCNT_COUNT p)).now ≤ a + 10 * msCounts ∧
      ((s.incSat (F.RING_PORT_RXCNT_COUNT p)).ptpPort p).resp = some (x, y)) ∧
    (∃ (s : State), s.ringEn = true) ∧
    (∃ (x : PtpTx), x.own = true ∧ x.kind = 0) ∧
    (∃ (x : PtpTx), x.own = true ∧ x.kind = 3) ∧
    (∃ (x : PtpTx), x.own = false ∧ x.kind = 0 ∧ x.two = false) ∧
    (∃ (s : State) (p : RingPort) (q : _) (a : _) (b : _), (s.ptpPort p).req = some (q, a, b)) ∧
    (∃ (s : State), s.timeSt ≠ tMASTER) ∧
    (∃ (s : State), s.timeSt = tMASTER) ∧
    (∃ (s : State), s.clock.miss + 1 < s.get F.TIME_SYNCLOSS_N ∧ s.clock.selMiss + 1 < 3) ∧
    (∃ (s : State), s.clock.selMiss + 1 < 3 ∧ s.get F.TIME_SYNCLOSS_N ≤ s.clock.miss + 1) ∧
    (∃ (s : State), (s.timeSt = tACQ ∨ s.timeSt = tLOCKED)) ∧
    (∃ (s : State), s.timeSt = tLOCKED) ∧
    (∃ (s : State), s.timeSt ≠ tLOCKED) ∧
    (∃ (s : State), s.up R.TIME_CT_SL) ∧
    (∃ (s : State), s.up R.TIME_LT_SL) ∧
    (∃ (s : State), s.up R.AON_RTC_L) ∧
    (∃ (s : State) (e : LegNo) (v : _) (w : _) (u : _), s.up (R.RING_LQ_CTL e) ∧
      s.takeWord (R.RING_LQ_CTL e) v = (w, u) ∧ u.get (F.RING_LQ_CTL_ST e) = 1) ∧
    (∃ (s : State) (e : LegNo), s.get (F.RING_LQ_CTL_ST e) = 1) ∧
    (∃ (s : State) (e : LegNo), s.get (F.RING_LQ_CTL_ST e) ≠ 1) ∧
    (∃ (s : State) (n : CrewNo), s.seamOn n = true ∧ s.ringEn = true) ∧
    (∃ (s : State) (p : RingPort) (f : RingFrame), (s.ringRx p true f).1 = true ∧
      f.etype.toNat = (s.ringRx p true f).2.get F.RING_CFG_RETYPE ∧ leAt f.payload 0 1 = 1 ∧ leAt f.payload 1 1 = 1) ∧
    (∃ (s : State) (n : Nat) (l : _), s.seamOn n = true ∧ leAt l 2 2 = s.get (F.RING_SEAM_CFG_GROUP n) ∧
      leAt l 4 1 = s.seamMidx n) :=
  ⟨⟨(on.putB F.RING_CFG_EN false), 0, by decide +kernel⟩,
    ⟨ringUp, 0, ⟨1, 2, 0, false, 0, 0, 0, ⟨0, 1000000000⟩⟩, by decide +kernel⟩,
    ⟨ringUp, 0, ⟨0x112233445566, 1, BitVec.ofNat 8 (on.get F.TIME_PTP_DOMAIN) + 1, false, 7, 1, 0, ⟨0, 0⟩⟩,
     by decide +kernel⟩,
    ⟨ringUp, 0, ⟨0x112233445566, 1, BitVec.ofNat 8 (on.get F.TIME_PTP_DOMAIN), true, 7, 1, 0, ⟨0, 0⟩⟩, by decide +kernel⟩,
    ⟨ringUp, 0, ⟨0x112233445566, 1, BitVec.ofNat 8 (on.get F.TIME_PTP_DOMAIN), false, 7, 1, 0, ⟨0, 0⟩⟩, by decide +kernel⟩,
    ⟨{ ringUp with clock := { p0 := { sync := some (7, 0, 0) } } }, 0,
     ⟨0x112233445566, 1, BitVec.ofNat 8 (on.get F.TIME_PTP_DOMAIN), false, 7, 1, 0, ⟨0, 0⟩⟩, 7, 0, 0, by decide +kernel⟩,
    ⟨ringUp, 0, ⟨0x112233445566, 1, BitVec.ofNat 8 (on.get F.TIME_PTP_DOMAIN), false, 7, 1, 0, ⟨0, 0⟩⟩, by decide +kernel⟩,
    ⟨ringUp, 0, ⟨1, 2, 0, false, 0, 0, 0, ⟨0, 0⟩⟩, by decide +kernel⟩,
    ⟨{ ringUp with clock := { p0 := { req := some (7, 0, 5), resp := some (1, 2) } } }, 0,
     ⟨0x112233445566, 1, BitVec.ofNat 8 (on.get F.TIME_PTP_DOMAIN), false, 7, 1, 0, ⟨0, 0⟩⟩, 7, 0, 5, 1, 2,
     by decide +kernel⟩,
    ⟨(on.putB F.RING_CFG_EN true), by decide +kernel⟩,
    ⟨{ kind := 0, seq := 0, corr := 0, sec := 0, ns := 0, own := true }, by decide +kernel⟩,
    ⟨{ kind := 3, seq := 0, corr := 0, sec := 0, ns := 0, own := true }, by decide +kernel⟩,
    ⟨{ kind := 0, seq := 0, corr := 0, sec := 0, ns := 0, own := false }, by decide +kernel⟩,
    ⟨{ on with clock := { p0 := { req := some (7, 0, 5) } } }, 0, 7, 0, 5, by decide +kernel⟩,
    ⟨on, by decide +kernel⟩,
    ⟨(on.put F.TIME_STAT_STATE tMASTER), by decide +kernel⟩,
    ⟨on, by decide +kernel⟩,
    ⟨(on.put F.TIME_SYNCLOSS_N 1), by decide +kernel⟩,
    ⟨(on.put F.TIME_STAT_STATE tACQ), by decide +kernel⟩,
    ⟨(on.put F.TIME_STAT_STATE tLOCKED), by decide +kernel⟩,
    ⟨on, by decide +kernel⟩,
    ⟨on, by unfold State.up; decide +kernel⟩,
    ⟨on, by unfold State.up; decide +kernel⟩,
    ⟨on, by unfold State.up; decide +kernel⟩,
    ⟨(on.put (F.RING_LQ_CTL_ST 0) 1), 0, 0, ((on.put (F.RING_LQ_CTL_ST 0) 1).takeWord (R.RING_LQ_CTL (0 : LegNo)) 0).1,
     ((on.put (F.RING_LQ_CTL_ST 0) 1).takeWord (R.RING_LQ_CTL (0 : LegNo)) 0).2, by unfold State.up; decide +kernel,
     Prod.ext rfl rfl, by decide +kernel⟩,
    ⟨(on.put (F.RING_LQ_CTL_ST 0) 1), 0, by decide +kernel⟩,
    ⟨(on.put (F.RING_LQ_CTL_ST 0) 0), 0, by decide +kernel⟩,
    ⟨((((on.putB (F.CREW_SEAM_EN 0) true).putB (F.RING_SEAM_CFG_EN 0) true).put (F.CREW_CPER_PERIOD 0) 800).putB F.RING_CFG_EN true),
     0, by decide +kernel⟩,
    ⟨ringUp, 0, ⟨1, 0x112233445566, 0, 1, BitVec.ofNat 16 (on.get F.RING_CFG_RETYPE), [1, 1], true⟩, by decide +kernel⟩,
    ⟨((((((on.putB (F.CREW_SEAM_EN 0) true).putB (F.RING_SEAM_CFG_EN 0) true).put (F.CREW_CPER_PERIOD 0) 800).putB F.RING_CFG_EN true).put (F.RING_SEAM_CFG_GROUP 0) 3).put (F.RING_SEAM_CFG_MIDX 0) 2),
     0, [0, 0, 3, 0, 2], by decide +kernel⟩⟩

theorem wit_FieldPorts :
    (∃ (s : State) (j : Port16) (a : _) (i : _), (a, i) ∈ [(0, Instr.cyclic j), (1, .change j), (2, .read j), (3, .write j), (4, .assign j), (5, .cap j), (6, .discover j), (7, .freeze j)] ∧
      (∀ x, s.nextTxn j = some x → x.typ ≠ a)) ∧
    (∃ (s : State) (j : Port16) (a : _) (i : _) (x : _), (a, i) ∈ [(0, Instr.cyclic j), (1, .change j), (2, .read j), (3, .write j), (4, .assign j), (5, .cap j), (6, .discover j), (7, .freeze j)] ∧
      s.nextTxn j = some x ∧ x.typ = a) ∧
    (∃ (s : State) (j : Port16), (∀ x, (s.fport j).txn = some x → x.sent = false)) ∧
    (∃ (s : State) (j : Port16) (x : _) (l : _) (d : _) (p : _), (s.fport j).txn = some x ∧ x.sent = true ∧
      (s.until ((s.fport j).reqEnd + d)).fieldCheck j x l = .good p) ∧
    (∃ (s : State) (j : Port16) (x : _) (l : _) (d : _) (e : Bool), (s.fport j).txn = some x ∧ x.sent = true ∧
      (e = true ∨ (s.until ((s.fport j).reqEnd + d)).fieldCheck j x l = .bad) ∧ x.typ ≠ 6) ∧
    (∃ (s : State) (j : Port16) (x : _) (l : _) (d : _) (e : Bool), (s.fport j).txn = some x ∧ x.sent = true ∧
      (e = true ∨ (s.until ((s.fport j).reqEnd + d)).fieldCheck j x l = .bad) ∧ x.typ = 6) ∧
    (∃ (s : State) (j : Port16) (x : _) (l : _) (d : _) (c : _), (s.fport j).txn = some x ∧ x.sent = true ∧
      (s.until ((s.fport j).reqEnd + d)).fieldCheck j x l = .err c ∧ x.typ ≠ 6) ∧
    (∃ (s : State) (j : Port16) (x : FTxn) (l : _) (d : _) (c : _), (s.fport j).txn = some x ∧ x.sent = true ∧
      (s.until ((s.fport j).reqEnd + d)).fieldCheck j x l = .err c ∧ x.typ = 6) ∧
    (∃ (s : State) (j : Port16) (x : FTxn), (s.fport j).txn = some x ∧ x.sent = true) ∧
    (∃ (x : FTxn), x.retry = false) ∧
    (∃ (x : FTxn), x.retry = true) ∧
    (∃ (s : State) (j : Port16), s.fieldRunning j = false) ∧
    (∃ (s : State) (j : Port16), s.fieldRunning j = true) ∧
    (∃ (s : State) (j : Port16), s.bitAt F.FIELD_CTL_PAIR (j.val % 8) = false) ∧
    (∃ (s : State) (j : Port16), s.bitAt F.FIELD_CTL_PAIR (j.val % 8) = true ∧ s.fieldRunning (j.val % 8) = true ∧
      s.cycleFree (j.val % 8) = true ∧ s.fieldRunning (j.val % 8 + 8) = true ∧ s.cycleFree (j.val % 8 + 8) = true) ∧
    (∃ (s : State) (v : _) (u : _) (w : _), s.up R.FIELD_SWR_V ∧ s.takeWord R.FIELD_SWR_V v = (w, u)) ∧
    (∃ (a : _), 4064 ≤ a / 256) ∧
    (∃ (s : State), s.up R.FIELD_CLR) ∧
    (∃ (s : State) (a : _), ((s.sigTouch a).sigAt a).q ≠ 0 ∧
      32768 ≤ ((s.sigTouch a).stampNow + 65536 - ((s.sigTouch a).sigAt a).stamp % 65536) % 65536) ∧
    (∃ (s : State) (a : BitVec 20), (mget (0, false) s.subT a.toNat).2 = true ∧ s.subscribed a.toNat = true) ∧
    (∃ (s : State) (a : BitVec 20), ((mget (0, false) s.subT a.toNat).2 = false ∨ s.subscribed a.toNat = false)) :=
  ⟨⟨on, 0, 0, .cyclic 0, by decide +kernel,
     fun x h => by rw [show on.nextTxn ((0 : Port16) : Nat) = none by decide +kernel] at h; cases h⟩,
    ⟨((on.putB (F.FIELD_PORT_STAT_RUN 0) true).setFport 0 { txn := some { typ := 3, addr := 5 } }), 0, 3, .write 0,
     (((on.putB (F.FIELD_PORT_STAT_RUN 0) true).setFport 0 { txn := some { typ := 3, addr := 5 } }).nextTxn (0 : Port16)).get (by decide +kernel),
     by decide +kernel, (Option.some_get _).symm, by decide +kernel⟩,
    ⟨on, 0, by decide +kernel⟩,
    ⟨((on.putB (F.FIELD_PORT_STAT_RUN 0) true).setFport 0 { txn := some { typ := 3, addr := 5, sent := true } }), 0,
     { typ := 3, addr := 5, sent := true }, (0xD5 :: [5, 0xB1, 0] ++ beBytes 2 (fieldCrc [5, 0xB1, 0])), 1, [],
     by decide +kernel⟩,
    ⟨((on.putB (F.FIELD_PORT_STAT_RUN 0) true).setFport 0 { txn := some { typ := 3, addr := 5, sent := true } }), 0,
     { typ := 3, addr := 5, sent := true }, [], 1, false, by decide +kernel⟩,
    ⟨((on.putB (F.FIELD_PORT_STAT_RUN 0) true).setFport 0 { txn := some { typ := 6, addr := 0, sent := true } }), 0,
     { typ := 6, addr := 0, sent := true }, [], 1, true, by decide +kernel⟩,
    ⟨((on.putB (F.FIELD_PORT_STAT_RUN 0) true).setFport 0 { txn := some { typ := 5, addr := 0, sent := true } }), 0,
     { typ := 5, addr := 0, sent := true }, (0xD5 :: [0, 0xD9, 1, 2] ++ beBytes 2 (fieldCrc [0, 0xD9, 1, 2])), 1, 2,
     by decide +kernel⟩,
    ⟨((on.putB (F.FIELD_PORT_STAT_RUN 0) true).setFport 0 { txn := some { typ := 6, addr := 0, sent := true } }), 0,
     { typ := 6, addr := 0, sent := true }, (0xD5 :: [0, 0xE9, 1, 2] ++ beBytes 2 (fieldCrc [0, 0xE9, 1, 2])), 0, 2,
     by decide +kernel⟩,
    ⟨(on.setFport 0 { txn := some { typ := 3, addr := 5, sent := true } }), 0, { typ := 3, addr := 5, sent := true },
     by decide +kernel⟩,
    ⟨{ typ := 3, addr := 5, retry := false }, by decide +kernel⟩,
    ⟨{ typ := 3, addr := 5, retry := true }, by decide +kernel⟩,
    ⟨on, 0, by decide +kernel⟩,
    ⟨(on.putB (F.FIELD_PORT_STAT_RUN 0) true), 0, by decide +kernel⟩,
    ⟨(on.setBitAt F.FIELD_CTL_PAIR 0 false), 0, by decide +kernel⟩,
    ⟨(((on.putB (F.FIELD_PORT_STAT_RUN 0) true).setBitAt F.FIELD_CTL_PAIR 0 true).putB (F.FIELD_PORT_STAT_RUN 8) true),
     0, by decide +kernel⟩,
    ⟨on, 0, _, _, by unfold State.up; decide +kernel, (Prod.eta _).symm⟩,
    ⟨0xFE000, by decide +kernel⟩,
    ⟨on, by unfold State.up; decide +kernel⟩,
    ⟨{ on.setSig 0 { q := 3, stamp := 0 } with ltime := ⟨32, 768000000, 0⟩ }, 0, by decide +kernel⟩,
    ⟨{ on with subT := [(5, (0, true))], subs := [5] }, 5, by decide +kernel⟩,
    ⟨{ on with subT := [(5, (0, false))], subs := [5] }, 5, by decide +kernel⟩⟩

theorem wit_PointValues :
    (∃ (d : Nat) (l : List Byte), d % 4 ≠ 3 ∧ l.length = descSize d ∧ descType d = 0) ∧
    (∃ (d : Nat) (l : List Byte), d % 4 ≠ 3 ∧ l.length = descSize d ∧ descType d = 3 ∧ leNat l = 0) ∧
    (∃ (d : Nat) (l : List Byte), d % 4 ≠ 3 ∧ l.length = descSize d ∧ descType d = 3 ∧ leNat l ≠ 0) ∧
    (∃ (d : Nat) (l : List Byte), d % 4 ≠ 3 ∧ l.length = descSize d ∧ descType d = 1) ∧
    (∃ (d : Nat) (l : List Byte), d % 4 ≠ 3 ∧ l.length = descSize d ∧ descType d = 2 ∧ d % 4 = 2) ∧
    (∃ (d : Nat) (a : _), a < descSize d) :=
  ⟨⟨0, [0xFF], by decide +kernel⟩,
    ⟨24, [0], by decide +kernel⟩,
    ⟨24, [1], by decide +kernel⟩,
    ⟨9, [0xFF, 0x80], by decide +kernel⟩,
    ⟨18, [0, 0, 0x80, 0x3F], by decide +kernel⟩,
    ⟨0, 0, by decide +kernel⟩⟩

theorem wit_PowerAndReset :
    (∃ (s : State) (c : Nat), c < 2 ^ 16 ∧ s.rstBy.filter (· != 0) = []) ∧
    (∃ (s : State) (c : Nat), c < 2 ^ 16 ∧ s.rstBy.filter (· != 0) ≠ []) ∧
    (∃ (s : State) (c : Nat), c ≠ 0 ∧ c ∉ s.rstBy) ∧
    (∃ (s : State), 0 ∉ s.rstBy) ∧
    (∃ (s : State) (c : Nat), s.rstBy = [c] ∧ s.powered = true) ∧
    (∃ (s : State), s.powered = true) ∧
    (∃ (s : State), s.powered = false) ∧
    (∃ (s : State), s.rstLow = false) ∧
    (∃ (s : State), s.rstLow = true) ∧
    (∃ (s : State), s.powered = true ∧ s.rstLow = true ∧ s.rstBy = [2] ∧ s.bit F.AON_SET_STUCK_EN = true) ∧
    (∃ (s : State), (s.bit F.AON_SET_STUCK_EN = false ∨ 0 ∈ s.rstBy)) ∧
    (∃ (s : State), s.bit F.RESET_STUCK_IGN = true ∧ s.rstLow = false) ∧
    (∃ (s : State), s.powered = true ∧ s.rstBy = [] ∧ s.inRest = false ∧ s.recovery = false) ∧
    (∃ (s : State), (s.inRest = true ∨ s.recovery = true)) ∧
    (∃ (s : State), s.up R.AON_WDT) ∧
    (∃ (s : State), s.up R.RESET_CTL) ∧
    (∃ (s : State), 6 ∈ s.rstBy) ∧
    (∃ (s : State), s.powered = true ∧ s.inRest = false) ∧
    (∃ (s : State), s.bit F.AON_TRIP_BTRIP = true) ∧
    (∃ (s : State), s.bootDone = true) ∧
    (∃ (s : State), s.bootDone = false) ∧
    (∃ (s : State), s.domainRun 7 = true ∧ s.pfLatch = false) ∧
    (∃ (s : State), s.domainRun 7 = true ∧ s.pfLatch = true) ∧
    (∃ (s : State), s.up R.AON_PWRCTL) ∧
    (∃ (s : State), s.up R.AON_PWRCTL ∧ s.restOk = true) ∧
    (∃ (s : State), s.up R.AON_PWRCTL ∧ s.restOk = false ∧ (s.pw = pwLISTEN ∨ s.pw = pwREADY ∨ s.pw = pwRUN)) ∧
    (∃ (s : State), s.pw = pwLISTEN ∧ s.demandAt.isSome = true ∧ s.readyOk = true) ∧
    (∃ (s : State), (s.pw ≠ pwLISTEN ∨ s.demandAt = none ∨ s.readyOk = false)) ∧
    (∃ (s : State) (a : _), s.demandAt = some a ∧ s.pw = pwLISTEN) ∧
    (∃ (s : State), s.pw = pwREADY ∧ s.isIdle = true ∧ s.get F.AON_IDLE_MS ≠ 0) ∧
    (∃ (s : State), (s.pw ≠ pwREADY ∨ s.isIdle = false ∨ s.get F.AON_IDLE_MS = 0)) ∧
    (∃ (s : State), s.pw = pwRESTENTRY) ∧
    (∃ (s : State) (i : Fin 4), i.val ≠ 3 ∧ s.inRest = true ∧ s.bitAt F.AON_WAKE_EN i = true ∧
      (i.val = 0 ∨ s.bit F.AON_TRIP_THREST = false)) ∧
    (∃ (s : State) (i : Fin 4), (s.inRest = false ∨ s.bitAt F.AON_WAKE_EN i = false ∨ (s.bit F.AON_TRIP_THREST = true ∧
      (i.val = 1 ∨ i.val = 2)))) ∧
    (∃ (s : State), s.inRest = true ∧ s.bitAt F.AON_WAKE_EN 3 = true ∧
      (s.get F.AON_ALARM_L_S + 2 ^ 32 * s.get F.AON_ALARM_H_S) ≠ 0 ∧
      s.rtc ≤ (s.get F.AON_ALARM_L_S + 2 ^ 32 * s.get F.AON_ALARM_H_S)) ∧
    (∃ (s : State) (d : Fin 14), d.val ≠ 0 ∧ s.domainRun d = true ∧ (s.pw = pwBOOT ∨ (s.demandAt.isSome = true ∧
      8 ≤ d.val ∧ d.val ≤ 11))) :=
  ⟨⟨on, 0, by decide +kernel⟩,
    ⟨{ on with rstBy := [3] }, 65535, by decide +kernel⟩,
    ⟨on, 1, by decide +kernel⟩,
    ⟨on, by decide +kernel⟩,
    ⟨{ on with rstBy := [0], powered := true }, 0, by decide +kernel⟩,
    ⟨{ on with powered := true }, by decide +kernel⟩,
    ⟨{ on with powered := false }, by decide +kernel⟩,
    ⟨{ on with rstLow := false }, by decide +kernel⟩,
    ⟨{ on with rstLow := true }, by decide +kernel⟩,
    ⟨{ (on.putB F.AON_SET_STUCK_EN true) with powered := true, rstLow := true, rstBy := [2] }, by decide +kernel⟩,
    ⟨(on.putB F.AON_SET_STUCK_EN false), by decide +kernel⟩,
    ⟨{ (on.putB F.RESET_STUCK_IGN true) with rstLow := false }, by decide +kernel⟩,
    ⟨{ on with powered := true, rstBy := [], inRest := false, recovery := false }, by decide +kernel⟩,
    ⟨{ on with inRest := true }, by decide +kernel⟩,
    ⟨on, by unfold State.up; decide +kernel⟩,
    ⟨on, by unfold State.up; decide +kernel⟩,
    ⟨{ on with rstBy := [6] }, by decide +kernel⟩,
    ⟨{ on with powered := true, inRest := false }, by decide +kernel⟩,
    ⟨(on.putB F.AON_TRIP_BTRIP true), by decide +kernel⟩,
    ⟨{ (on.put F.AON_PWRSTAT_STATE pwBOOT) with epochOpen := true, domOn := 1 }, by decide +kernel⟩,
    ⟨on, by decide +kernel⟩,
    ⟨{ on with pfLatch := false }, by decide +kernel⟩,
    ⟨{ on with pfLatch := true }, by decide +kernel⟩,
    ⟨on, by unfold State.up; decide +kernel⟩,
    ⟨{ on.put F.AON_PWRSTAT_STATE pwLISTEN with orders := [] }, by unfold State.up; decide +kernel, by decide +kernel⟩,
    ⟨{ (on.put F.AON_PWRSTAT_STATE pwRUN) with maintRun := [{ act := 2 }] }, by unfold State.up; decide +kernel,
     by decide +kernel, by decide +kernel⟩,
    ⟨{ on.put F.AON_PWRSTAT_STATE pwLISTEN with demandAt := some 5 }, by decide +kernel⟩,
    ⟨on, by decide +kernel⟩,
    ⟨{ (on.put F.AON_PWRSTAT_STATE pwLISTEN) with demandAt := some 0 }, _, some_of (by decide +kernel), by decide +kernel⟩,
    ⟨((on.put F.AON_PWRSTAT_STATE pwREADY).put F.AON_IDLE_MS 1), by decide +kernel⟩,
    ⟨on, by decide +kernel⟩,
    ⟨(on.put F.AON_PWRSTAT_STATE pwRESTENTRY), by decide +kernel⟩,
    ⟨{ (on.setBitAt F.AON_WAKE_EN 0 true) with inRest := true }, 0, by decide +kernel⟩,
    ⟨{ on with inRest := false }, 0, by decide +kernel⟩,
    ⟨{ (on.setBitAt F.AON_WAKE_EN 3 true).put F.AON_ALARM_L_S 5 with inRest := true }, by decide +kernel⟩,
    ⟨(on.put F.AON_PWRSTAT_STATE pwBOOT), 7, by decide +kernel⟩⟩

theorem wit_MaintenanceAndMailbox :
    (∃ (s : State) (u : _) (p : PairNo) (v : _) (w : _), s.up (R.MBOX_REQ p) ∧ s.takeWord (R.MBOX_REQ p) v = (w, u) ∧
      u.mboxPending p = true) ∧
    (∃ (s : State) (u : _) (p : PairNo) (v : _) (w : _), s.up (R.MBOX_REQ p) ∧ s.takeWord (R.MBOX_REQ p) v = (w, u) ∧
      u.mboxPending p = false) ∧
    (∃ (s : State) (i : Instr), i ∈ [Instr.mboxMaintenance, .mboxUserLog, .mboxRest, .mboxFirmwareChunk, .mboxFirmwareActivate, .mboxDumpSlotLock] ∧
      (s.mboxNext = none ∨ s.coxUp = false)) ∧
    (∃ (s : State) (i : Instr) (p : _), i ∈ [Instr.mboxMaintenance, .mboxUserLog, .mboxRest, .mboxFirmwareChunk, .mboxFirmwareActivate, .mboxDumpSlotLock] ∧
      s.mboxNext = some p ∧ s.coxUp = true ∧ (s.get (F.MBOX_REQ_CODE p) = 0 ∨ 6 < s.get (F.MBOX_REQ_CODE p))) ∧
    (∃ (s : State) (p : Nat), s.mboxNext = some p ∧ s.coxUp = true ∧ s.get (F.MBOX_REQ_CODE p) = 1) ∧
    (∃ (s : State) (p : Nat), s.mboxNext = some p ∧ s.coxUp = true ∧ s.get (F.MBOX_REQ_CODE p) = 2) ∧
    (∃ (s : State) (p : Nat), s.mboxNext = some p ∧ s.coxUp = true ∧ s.get (F.MBOX_REQ_CODE p) = 3) ∧
    (∃ (s : State) (p : Nat), s.mboxNext = some p ∧ s.coxUp = true ∧ s.get (F.MBOX_REQ_CODE p) = 4 ∧
      s.mboxArg p 1 % 8 = 0 ∧ 8 ≤ s.mboxArg p 1 ∧ s.mboxArg p 1 ≤ 65536 ∧ s.mboxArg p 2 + s.mboxArg p 1 ≤ 1048576 ∧
      rangeInSram (s.mboxArg p 0) (s.mboxArg p 1) = true) ∧
    (∃ (s : State) (p : Nat), s.mboxNext = some p ∧ s.coxUp = true ∧ s.get (F.MBOX_REQ_CODE p) = 5) ∧
    (∃ (s : State) (p : Nat), s.mboxNext = some p ∧ s.coxUp = true ∧ s.get (F.MBOX_REQ_CODE p) = 6 ∧ s.mboxArg p 0 < 4 ∧
      s.mboxArg p 1 < 2 ∧ s.dumpValid (s.mboxArg p 0) = true) ∧
    (∃ (s : State) (r : MaintReq), (s.maintRun ++ s.maintQ).any (fun x => x.act == r.act && x.crew == r.crew) = true) ∧
    (∃ (s : State) (r : MaintReq), (s.maintRun ++ s.maintQ).any (fun x => x.act == r.act && x.crew == r.crew) = false ∧
      (s.maintRun ++ s.maintQ).any (maintConflict r) = false) ∧
    (∃ (s : State) (r : MaintReq), (s.maintRun ++ s.maintQ).any (fun x => x.act == r.act && x.crew == r.crew) = false ∧
      (s.maintRun ++ s.maintQ).any (maintConflict r) = true ∧ s.maintQ.length < 4) ∧
    (∃ (s : State) (r : MaintReq), (s.maintRun ++ s.maintQ).any (fun x => x.act == r.act && x.crew == r.crew) = false ∧
      (s.maintRun ++ s.maintQ).any (maintConflict r) = true ∧ 4 ≤ s.maintQ.length) ∧
    (∃ (s : State) (i : Instr) (a : Nat), (a, i) ∈ [(1, Instr.firmwareImageWrite), (2, .rigWrite), (3, .mramScrub), (4, .journalCompaction), (6, .logExport), (16, .offStateDiagnostics), (17, .encoderCalibration)] ∧
      (s.maintReady a = none ∨ s.coxUp = false)) ∧
    (∃ (s : State) (r : MaintReq) (l : _) (z : _), s.maintReady 1 = some r ∧ s.coxUp = true ∧
      (s.maintSet 1 r.crew (fun x => { x with began := true })).coxBytes r.a1 r.a2 = (some l, z)) ∧
    (∃ (s : State) (r : MaintReq) (q : Nat) (x : OrderRec), s.maintReady 2 = some r ∧ s.coxUp = true ∧
      r.src = .order q ∧ (s.maintSet 2 r.crew (fun x => { x with began := true })).orderOf q = some x) ∧
    (∃ (s : State) (r : MaintReq), s.maintReady 3 = some r ∧ s.coxUp = true) ∧
    (∃ (s : State), s.eccCe = [] ∧ s.eccUe = []) ∧
    (∃ (s : State) (r : MaintReq), s.maintReady 4 = some r ∧ s.coxUp = true) ∧
    (∃ (s : State) (r : MaintReq), s.maintReady 5 = some r ∧ s.coxUp = true) ∧
    (∃ (s : State) (r : MaintReq), s.maintReady 6 = some r ∧ s.coxUp = true) ∧
    (∃ (s : State) (r : MaintReq) (l : List Byte) (k : List Byte) (z : WrRes), s.maintReady 7 = some r ∧
      s.coxUp = true ∧ s.bit F.MASTER_JSTAT_HALT = false ∧
      (s.maintSet 7 r.crew (fun x => { x with began := true })).writeDump 4 l k z = (true, ((s.maintSet 7 r.crew (fun x => { x with began := true })).writeDump 4 l k z).2)) ∧
    (∃ (s : State) (r : MaintReq), s.maintReady 16 = some r ∧ s.coxUp = true ∧
      (s.maintSet 16 r.crew (fun x => { x with began := true })).up (R.YILOS_DIAG_CTL (r.a2 % 16))) ∧
    (∃ (s : State) (r : MaintReq) (l : _) (z : _), s.maintReady 17 = some r ∧ s.coxUp = true ∧
      (s.maintSet 17 r.crew (fun x => { x with began := true })).coxBytes r.a2 256 = (some l, z)) ∧
    (∃ (s : State) (a : Byte) (c : Byte), s.maintRun.find? (fun r => r.act == a.toNat && r.crew == c.toNat) = none) ∧
    (∃ (s : State) (a : Byte) (c : Byte) (r : MaintReq), s.maintRun.find? (fun r => r.act == a.toNat && r.crew == c.toNat) = some r ∧
      s.maintDone r = true ∧ r.act ≠ 1 ∧ r.act ≠ 4 ∧ r.src = .auto) ∧
    (∃ (s : State) (a : Byte) (c : Byte) (r : MaintReq) (p : _), s.maintRun.find? (fun r => r.act == a.toNat && r.crew == c.toNat) = some r ∧
      s.maintDone r = true ∧ r.act ≠ 1 ∧ r.act ≠ 4 ∧ r.src = .mbox p) :=
  ⟨⟨(on.put (F.MBOX_REQ_SEQ 8) 1), ((on.put (F.MBOX_REQ_SEQ 8) 1).takeWord (R.MBOX_REQ (8 : PairNo)) 0).2, 8, 0,
     ((on.put (F.MBOX_REQ_SEQ 8) 1).takeWord (R.MBOX_REQ (8 : PairNo)) 0).1, by unfold State.up; decide +kernel,
     Prod.ext rfl rfl, by decide +kernel⟩,
    ⟨on, (on.takeWord (R.MBOX_REQ (0 : PairNo)) 0).2, 0, 0, (on.takeWord (R.MBOX_REQ (0 : PairNo)) 0).1,
     by unfold State.up; decide +kernel, Prod.ext rfl rfl, by decide +kernel⟩,
    ⟨on, .mboxRest, by decide +kernel⟩,
    ⟨((((on.put F.AON_PWRSTAT_STATE pwREADY).put (F.MBOX_REQ_SEQ 8) 1).put (F.MBOX_REQ_CODE 8) 7)), .mboxRest,
     (((((on.put F.AON_PWRSTAT_STATE pwREADY).put (F.MBOX_REQ_SEQ 8) 1).put (F.MBOX_REQ_CODE 8) 7)).mboxNext).get (by decide +kernel),
     by decide +kernel, (Option.some_get _).symm, by decide +kernel, by decide +kernel⟩,
    ⟨((((on.put F.AON_PWRSTAT_STATE pwREADY).put (F.MBOX_REQ_SEQ 8) 1).put (F.MBOX_REQ_CODE 8) 1)), 8, by decide +kernel⟩,
    ⟨((((on.put F.AON_PWRSTAT_STATE pwREADY).put (F.MBOX_REQ_SEQ 8) 1).put (F.MBOX_REQ_CODE 8) 2)), 8, by decide +kernel⟩,
    ⟨((((on.put F.AON_PWRSTAT_STATE pwREADY).put (F.MBOX_REQ_SEQ 8) 1).put (F.MBOX_REQ_CODE 8) 3)), 8, by decide +kernel⟩,
    ⟨((((on.put F.AON_PWRSTAT_STATE pwREADY).put (F.MBOX_REQ_SEQ 8) 1).put (F.MBOX_REQ_CODE 8) 4).wr (R.MBOX_ARG 8 0) 0x10500000 |>.wr (R.MBOX_ARG 8 1) 65536 |>.wr (R.MBOX_ARG 8 2) 983040),
     8, by decide +kernel⟩,
    ⟨((((on.put F.AON_PWRSTAT_STATE pwREADY).put (F.MBOX_REQ_SEQ 8) 1).put (F.MBOX_REQ_CODE 8) 5)), 8, by decide +kernel⟩,
    ⟨((((((on.put F.AON_PWRSTAT_STATE pwREADY).put (F.MBOX_REQ_SEQ 8) 1).put (F.MBOX_REQ_CODE 8) 6))).setBytes (dumpAt 0) ((leBytes 4 0x4B535043 ++ leBytes 2 1 ++ List.replicate 54 0) ++ leBytes 4 (crc32 (leBytes 4 0x4B535043 ++ leBytes 2 1 ++ List.replicate 54 0)))),
     8, by decide +kernel⟩,
    ⟨{ on with maintRun := [{ act := 7 }], maintQ := [] }, { act := 7 }, by decide +kernel⟩,
    ⟨{ on with maintRun := [], maintQ := [] }, { act := 7 }, by decide +kernel⟩,
    ⟨{ on with maintRun := [{ act := 7 }], maintQ := [{ act := 2 }, { act := 3 }, { act := 4 }] }, { act := 6 },
     by decide +kernel⟩,
    ⟨{ on with maintRun := [{ act := 7 }], maintQ := [{ act := 2 }, { act := 3 }, { act := 4 }, { act := 5 }] },
     { act := 6 }, by decide +kernel⟩,
    ⟨on, .rigWrite, 2, by decide +kernel⟩,
    ⟨{ (on.put F.AON_PWRSTAT_STATE pwREADY) with maintRun := [{ act := 1, a1 := 0x10500000, a2 := 64 }] },
     { act := 1, a1 := 0x10500000, a2 := 64 }, _, _, by decide +kernel, by decide +kernel, pair_some (by decide +kernel)⟩,
    ⟨{ (on.put F.AON_PWRSTAT_STATE pwREADY) with maintRun := [{ act := 2, src := .order 1 }], orders := [{ seq := 1, lane := 0, opcode := 3, flags := 0, ver := 2, crc := 0, frame := [], body := [1], st := .running }] },
     { act := 2, src := .order 1 }, 1,
     { seq := 1, lane := 0, opcode := 3, flags := 0, ver := 2, crc := 0, frame := [], body := [1], st := .running },
     by decide +kernel⟩,
    ⟨{ (on.put F.AON_PWRSTAT_STATE pwREADY) with maintRun := [{ act := 3 }] }, _, some_of (by decide +kernel),
     by decide +kernel⟩,
    ⟨{ on with eccCe := [], eccUe := [] }, by decide +kernel⟩,
    ⟨{ (on.put F.AON_PWRSTAT_STATE pwREADY) with maintRun := [{ act := 4 }] }, _, some_of (by decide +kernel),
     by decide +kernel⟩,
    ⟨{ (on.put F.AON_PWRSTAT_STATE pwREADY) with maintRun := [{ act := 5 }] }, _, some_of (by decide +kernel),
     by decide +kernel⟩,
    ⟨{ (on.put F.AON_PWRSTAT_STATE pwREADY) with maintRun := [{ act := 6 }] }, _, some_of (by decide +kernel),
     by decide +kernel⟩,
    ⟨{ ((on.put F.AON_PWRSTAT_STATE pwREADY).putB F.NVM_STAT_WIN true) with maintRun := [{ act := 7 }] }, { act := 7 },
     [], [], .ok, by decide +kernel, by decide +kernel, by decide +kernel, pair_of (by decide +kernel)⟩,
    ⟨{ (on.put F.AON_PWRSTAT_STATE pwREADY) with maintRun := [{ act := 16 }] }, { act := 16 }, by decide +kernel,
     by decide +kernel, by unfold State.up; decide +kernel⟩,
    ⟨{ (on.put F.AON_PWRSTAT_STATE pwREADY) with maintRun := [{ act := 17, crew := 0, a2 := 0x10500000 }] },
     { act := 17, crew := 0, a2 := 0x10500000 }, _, _, by decide +kernel, by decide +kernel,
     pair_some (by decide +kernel)⟩,
    ⟨on, 2, 255, by decide +kernel⟩,
    ⟨{ on with maintRun := [{ act := 2, began := true }] }, 2, 255, { act := 2, began := true }, by decide +kernel⟩,
    ⟨{ on with maintRun := [{ act := 2, began := true, src := .mbox 8 }] }, 2, 255,
     { act := 2, began := true, src := .mbox 8 }, 8, by decide +kernel⟩⟩

theorem wit_CoxHousekeeping :
    (∃ (s : State) (i : Instr), s.domainRun 3 = false ∧ (i = Instr.hkRound ∨ (∃ c v, i = .hkSample c v))) ∧
    (∃ (s : State), s.domainRun 3 = true) ∧
    (∃ (s : State) (c : Fin 48), s.domainRun 3 = true ∧ c.val < 12) ∧
    (∃ (s : State) (c : Fin 48), s.domainRun 3 = true ∧ 12 ≤ c.val ∧ (c.val < 28 ∨ c.val = 44 ∨ c.val = 45)) ∧
    (∃ (s : State) (c : Fin 48), s.domainRun 3 = true ∧ 28 ≤ c.val ∧ c.val < 44 ∧
      (s.until (s.hkAt - hkPeriod + 32000 * c.val)).linkState (c.val - 28) ≠ lUP) ∧
    (∃ (s : State) (c : Fin 48), s.domainRun 3 = true ∧ 28 ≤ c.val ∧ c.val < 44 ∧
      (s.until (s.hkAt - hkPeriod + 32000 * c.val)).linkState (c.val - 28) = lUP) ∧
    (∃ (s : State) (c : Nat), ((hkNum c (s.get (F.HK_CH_V c))) < hkNum c (s.get (F.HK_LIM_LO c)) ∨ hkNum c (s.get (F.HK_LIM_HI c)) < (hkNum c (s.get (F.HK_CH_V c)))) ∧
      s.hkOut c = false) ∧
    (∃ (s : State) (c : Nat), ((hkNum c (s.get (F.HK_CH_V c))) < hkNum c (s.get (F.HK_LIM_LO c)) ∨ hkNum c (s.get (F.HK_LIM_HI c)) < (hkNum c (s.get (F.HK_CH_V c)))) ∧
      s.hkOut c = true) ∧
    (∃ (s : State) (c : Nat), hkNum c (s.get (F.HK_LIM_LO c)) ≤ (hkNum c (s.get (F.HK_CH_V c))) ∧
      (hkNum c (s.get (F.HK_CH_V c))) ≤ hkNum c (s.get (F.HK_LIM_HI c))) ∧
    (∃ (s : State), ((s.put F.HK_TMAX_T (wrapInt 16 (maxOf (s.hkTemps (List.range 12))))).get F.HK_STAT_LEVEL) < 3 ∧
      130 * 64 ≤ (maxOf (s.hkTemps (List.range 12)))) ∧
    (∃ (s : State), ((s.put F.HK_TMAX_T (wrapInt 16 (maxOf (s.hkTemps (List.range 12))))).get F.HK_STAT_LEVEL) < 2 ∧
      118 * 64 ≤ (maxOf (s.hkTemps (List.range 12))) ∧ (maxOf (s.hkTemps (List.range 12))) < 130 * 64) ∧
    (∃ (s : State), ((s.put F.HK_TMAX_T (wrapInt 16 (maxOf (s.hkTemps (List.range 12))))).get F.HK_STAT_LEVEL) = 0 ∧
      110 * 64 ≤ (maxOf (s.hkTemps (List.range 12))) ∧ (maxOf (s.hkTemps (List.range 12))) < 118 * 64) ∧
    (∃ (s : State), ((s.put F.HK_TMAX_T (wrapInt 16 (maxOf (s.hkTemps (List.range 12))))).get F.HK_STAT_LEVEL) = 1 ∧
      (maxOf (s.hkTemps (List.range 12))) ≤ 105 * 64) ∧
    (∃ (s : State), ((s.put F.HK_TMAX_T (wrapInt 16 (maxOf (s.hkTemps (List.range 12))))).get F.HK_STAT_LEVEL) = 2 ∧
      (maxOf (s.hkTemps (List.range 12))) ≤ 113 * 64) ∧
    (∃ (s : State), ((s.put F.HK_TMAX_T (wrapInt 16 (maxOf (s.hkTemps (List.range 12))))).get F.HK_STAT_LEVEL) = 3) ∧
    (∃ (s : State), (s.hkTemps (List.range 12 ++ [46, 47])) ≠ [] ∧ s.bit F.HK_STAT_WIN = true ∧
      (120 * 64 < maxOf (s.hkTemps (List.range 12 ++ [46, 47])) ∨ minOf (s.hkTemps (List.range 12 ++ [46, 47])) < -(40 * 64))) ∧
    (∃ (s : State), (s.hkTemps (List.range 12 ++ [46, 47])) ≠ [] ∧ s.bit F.HK_STAT_WIN = false ∧
      maxOf (s.hkTemps (List.range 12 ++ [46, 47])) ≤ 118 * 64 ∧
      -(38 * 64) ≤ minOf (s.hkTemps (List.range 12 ++ [46, 47]))) ∧
    (∃ (s : State) (a : _), s.thrAt = some a ∧ (s.pw = pwLISTEN ∨ s.pw = pwREADY ∨ s.pw = pwRUN)) ∧
    (∃ (s : State), s.thrAt = none) ∧
    (∃ (s : State), s.nvmFree = false) ∧
    (∃ (s : State), s.nvmFree = true ∧ 32 ≤ s.logBuf.length ∧ s.coxUp = true) ∧
    (∃ (s : State) (c : ChunkRec) (l : List ChunkRec), s.nvmFree = true ∧ s.logBuf.length < 32 ∧ s.chunks = c :: l) ∧
    (∃ (s : State), s.nvmFree = true) ∧
    (∃ (s : State) (z : State), s.coxUp = true ∧ s.domainRun 4 = true ∧
      ((s.until (s.scrubAt + s.get F.NVM_SCRUB_HOURS * 703125000)).maintSubmit { act := 3 } = (.started, z) ∨ (s.until (s.scrubAt + s.get F.NVM_SCRUB_HOURS * 703125000)).maintSubmit { act := 3 } = (.queued, z))) ∧
    (∃ (s : State) (u : _) (v : _) (w : _), s.up R.CRYPTO_FW ∧ s.takeWord R.CRYPTO_FW v = (w, u)) ∧
    (∃ (s : State) (u : _) (v : _) (w : _), s.up R.CRYPTO_LCS ∧ s.takeWord R.CRYPTO_LCS v = (w, u) ∧
      bitsOf w.toNat 15 8 = 0x3C ∧ bitsOf w.toNat 1 0 = 2 ∧ u.lcs = 1) ∧
    (∃ (s : State) (u : _) (v : _) (w : _), s.up R.CRYPTO_LCS ∧ s.takeWord R.CRYPTO_LCS v = (w, u) ∧
      (bitsOf w.toNat 15 8 ≠ 0x3C ∨ bitsOf w.toNat 1 0 ≠ 2 ∨ u.lcs ≠ 1)) ∧
    (∃ (s : State) (z : _) (v : _) (w : _), s.up R.SE_SWAP ∧ s.takeWord R.SE_SWAP v = (w, z) ∧
      (w.getLsbD 31 = false ∨ (z.put F.SE_SWAP_PAIR (bitsOf w.toNat 3 0)).swap.isSome = true)) ∧
    (∃ (s : State) (z : _) (v : _) (w : _), s.up R.SE_SWAP ∧ s.takeWord R.SE_SWAP v = (w, z) ∧ w.getLsbD 31 = true ∧
      (z.put F.SE_SWAP_PAIR (bitsOf w.toNat 3 0)).swap.isSome = false ∧
      (z.put F.SE_SWAP_PAIR (bitsOf w.toNat 3 0)).bit F.SE_SPARE_AVAIL = false) ∧
    (∃ (s : State) (z : _) (v : Word) (w : _), s.up R.SE_SWAP ∧ s.takeWord R.SE_SWAP v = (w, z) ∧ w.getLsbD 31 = true ∧
      (z.put F.SE_SWAP_PAIR (bitsOf w.toNat 3 0)).swap.isSome = false ∧ (bitsOf w.toNat 3 0) < 9 ∧
      (z.put F.SE_SWAP_PAIR (bitsOf w.toNat 3 0)).bit F.SE_SPARE_AVAIL = true ∧
      ((z.put F.SE_SWAP_PAIR (bitsOf w.toNat 3 0)).pairSt (bitsOf w.toNat 3 0) = pACTIVE ∨ (z.put F.SE_SWAP_PAIR (bitsOf w.toNat 3 0)).pairSt (bitsOf w.toNat 3 0) = pHOST) ∧
      (z.put F.SE_SWAP_PAIR (bitsOf w.toNat 3 0)).orders = [] ∧
      (z.put F.SE_SWAP_PAIR (bitsOf w.toNat 3 0)).imageFault ((z.put F.SE_SWAP_PAIR (bitsOf w.toNat 3 0)).slotImage ((z.put F.SE_SWAP_PAIR (bitsOf w.toNat 3 0)).get F.SE_SPARE_PAIR)) ((z.put F.SE_SWAP_PAIR (bitsOf w.toNat 3 0)).bit F.CRYPTO_POL_SIGIMG) ((z.put F.SE_SWAP_PAIR (bitsOf w.toNat 3 0)).bit F.CRYPTO_POL_ROLLIMG) = none ∧
      swapTables (z.put F.SE_SWAP_PAIR (bitsOf w.toNat 3 0)) ((z.put F.SE_SWAP_PAIR (bitsOf w.toNat 3 0)).homeOf (bitsOf w.toNat 3 0)) ((z.put F.SE_SWAP_PAIR (bitsOf w.toNat 3 0)).image ((z.put F.SE_SWAP_PAIR (bitsOf w.toNat 3 0)).homeOf (bitsOf w.toNat 3 0))) (parseImage ((z.put F.SE_SWAP_PAIR (bitsOf w.toNat 3 0)).slotImage ((z.put F.SE_SWAP_PAIR (bitsOf w.toNat 3 0)).get F.SE_SPARE_PAIR))) = true) ∧
    (∃ (s : State) (w : _), s.swap = some w ∧ s.swapReady w = true) ∧
    (∃ (s : State), s.swap = none) ∧
    (∃ (s : State), s.coxUp = true ∧ s.bit F.MASTER_JSTAT_HALT = true) :=
  ⟨⟨State.reset, .hkRound, by decide +kernel, Or.inl rfl⟩,
    ⟨on, by decide +kernel⟩,
    ⟨on, 0, by decide +kernel⟩,
    ⟨on, 45, by decide +kernel⟩,
    ⟨on, 43, by decide +kernel⟩,
    ⟨(on.put (F.YILOS_STAT_STATE 0) lUP), 28, by decide +kernel⟩,
    ⟨(((on.put (F.HK_CH_V 0) 5).put (F.HK_LIM_LO 0) 6).setHkOut 0 false), 0, by decide +kernel⟩,
    ⟨(((on.put (F.HK_CH_V 0) 5).put (F.HK_LIM_LO 0) 6).setHkOut 0 true), 0, by decide +kernel⟩,
    ⟨(((on.put (F.HK_CH_V 0) 5).put (F.HK_LIM_LO 0) 5).put (F.HK_LIM_HI 0) 5), 0, by decide +kernel⟩,
    ⟨(((on.put (F.HK_CH_V 0) 8320).putB (F.HK_CH_VALID 0) true).put F.HK_STAT_LEVEL 2), by decide +kernel⟩,
    ⟨(((on.put (F.HK_CH_V 0) 7552).putB (F.HK_CH_VALID 0) true).put F.HK_STAT_LEVEL 1), by decide +kernel⟩,
    ⟨(((on.put (F.HK_CH_V 0) 7040).putB (F.HK_CH_VALID 0) true).put F.HK_STAT_LEVEL 0), by decide +kernel⟩,
    ⟨(((on.put (F.HK_CH_V 0) 6720).putB (F.HK_CH_VALID 0) true).put F.HK_STAT_LEVEL 1), by decide +kernel⟩,
    ⟨(((on.put (F.HK_CH_V 0) 7232).putB (F.HK_CH_VALID 0) true).put F.HK_STAT_LEVEL 2), by decide +kernel⟩,
    ⟨(((on.put (F.HK_CH_V 0) 0).putB (F.HK_CH_VALID 0) true).put F.HK_STAT_LEVEL 3), by decide +kernel⟩,
    ⟨(((on.put (F.HK_CH_V 0) 7681).putB (F.HK_CH_VALID 0) true).putB F.HK_STAT_WIN true), by decide +kernel⟩,
    ⟨(((on.put (F.HK_CH_V 0) 7552).putB (F.HK_CH_VALID 0) true).putB F.HK_STAT_WIN false), by decide +kernel⟩,
    ⟨{ (on.put F.AON_PWRSTAT_STATE pwLISTEN) with thrAt := some 0 }, _, some_of (by decide +kernel), by decide +kernel⟩,
    ⟨{ on with thrAt := none }, by decide +kernel⟩,
    ⟨on, by decide +kernel⟩,
    ⟨{ (((on.put F.AON_PWRSTAT_STATE pwREADY).putB F.NVM_STAT_WIN true).put F.HK_STAT_LEVEL 1) with logBuf := List.replicate 32 ⟨0, 0, 0, 0, 0, 0⟩ },
     by decide +kernel⟩,
    ⟨{ (((on.put F.AON_PWRSTAT_STATE pwREADY).putB F.NVM_STAT_WIN true).put F.HK_STAT_LEVEL 1) with chunks := [⟨0x20000000, [1], 0, 0⟩] },
     ⟨0x20000000, [1], 0, 0⟩, [], by decide +kernel⟩,
    ⟨(((on.put F.AON_PWRSTAT_STATE pwREADY).putB F.NVM_STAT_WIN true).put F.HK_STAT_LEVEL 1), by decide +kernel⟩,
    ⟨((on.put F.AON_PWRSTAT_STATE pwREADY).put F.NVM_SCRUB_HOURS 0), _, by decide +kernel, by decide +kernel,
     Or.inl (pair_of (by decide +kernel))⟩,
    ⟨on, _, 0, _, by unfold State.up; decide +kernel, (Prod.eta _).symm⟩,
    ⟨(on.setByte (keysAt on.keysMacro + 4) 1), ((on.setByte (keysAt on.keysMacro + 4) 1).takeWord R.CRYPTO_LCS 0x3C02).2,
     0x3C02, ((on.setByte (keysAt on.keysMacro + 4) 1).takeWord R.CRYPTO_LCS 0x3C02).1,
     by unfold State.up; decide +kernel, Prod.ext rfl rfl, by decide +kernel, by decide +kernel, by decide +kernel⟩,
    ⟨(on.setByte (keysAt on.keysMacro + 4) 3), ((on.setByte (keysAt on.keysMacro + 4) 3).takeWord R.CRYPTO_LCS 0x3C02).2,
     0x3C02, ((on.setByte (keysAt on.keysMacro + 4) 3).takeWord R.CRYPTO_LCS 0x3C02).1,
     by unfold State.up; decide +kernel, Prod.ext rfl rfl, by decide +kernel⟩,
    ⟨on, (on.takeWord R.SE_SWAP 0).2, 0, (on.takeWord R.SE_SWAP 0).1, by unfold State.up; decide +kernel,
     Prod.ext rfl rfl, by decide +kernel⟩,
    ⟨on, (on.takeWord R.SE_SWAP 0x80000000).2, 0x80000000, (on.takeWord R.SE_SWAP 0x80000000).1,
     by unfold State.up; decide +kernel, Prod.ext rfl rfl, by decide +kernel, by decide +kernel, by decide +kernel⟩,
    ⟨swapOk, (swapOk.takeWord R.SE_SWAP (0x80000000#32 : Word)).2, 0x80000000#32,
     (swapOk.takeWord R.SE_SWAP (0x80000000#32 : Word)).1, by unfold State.up; decide +kernel, Prod.ext rfl rfl,
     by decide +kernel, by decide +kernel, by decide +kernel, by decide +kernel, by decide +kernel, by decide +kernel,
     by decide +kernel, by decide +kernel⟩,
    ⟨{ ((on.put (F.SE_PAIR_STAT_KEPT 0) pACTIVE).put (F.SE_PAIR_STAT_KEPT 1) pSPARE) with swap := some ⟨0, 1, 0⟩ },
     ⟨0, 1, 0⟩, by decide +kernel⟩,
    ⟨{ on with swap := none }, by decide +kernel⟩,
    ⟨((on.put F.AON_PWRSTAT_STATE pwREADY).putB F.MASTER_JSTAT_HALT true), by decide +kernel⟩⟩

theorem wit_PinsAndTap :
    (∃ (s : State) (u : _) (v : _) (w : _), s.up R.GPIO_OUT ∧ s.takeWord R.GPIO_OUT v = (w, u)) ∧
    (∃ (s : State) (u : _) (v : _) (w : _), s.up R.GPIO_OUT ∧ s.takeWord R.GPIO_OE v = (w, u)) ∧
    (∃ (a : Nat) (g : Nat), (a = R.GPIO_OUT ∨ a = R.GPIO_OE) ∧ g < 32) ∧
    (∃ (s : State) (u : _) (a : Oct) (v : _) (w : _), s.up (R.AUXADC_CH_CFG a) ∧
      s.takeWord (R.AUXADC_CH_CFG a) v = (w, u)) ∧
    (∃ (s : State) (a : Nat) (v : _), s.auxRefused a v = false) ∧
    (∃ (s : State) (a : Nat) (v : Word) (m : Nat), m = (if bitsOf v.toNat 2 1 = 3 then s.get (F.AUXADC_CH_CFG_MODE a) else bitsOf v.toNat 2 1) ∧
      s.auxBad a (v.toNat.testBit 0) m (bitsOf v.toNat 9 5) = true) ∧
    (∃ (s : State) (a : Oct), s.up (R.AUXADC_CH_CFG a) ∧ s.get (F.AUXADC_CH_CFG_MODE a) = 2 ∧
      s.bit (F.AUXADC_CH_CFG_EN a) = true) ∧
    (∃ (s : State) (a : Oct), s.up (R.AUXADC_CH_CFG a) ∧
      (s.get (F.AUXADC_CH_CFG_MODE a) ≠ 2 ∨ s.bit (F.AUXADC_CH_CFG_EN a) = false)) ∧
    (∃ (s : State) (a : Oct), (s.domainRun 3 = false ∨ s.auxOn a = false)) ∧
    (∃ (s : State) (a : Oct), s.domainRun 3 = true ∧ s.auxOn a = true ∧ s.get (F.AUXADC_CH_CFG_MODE a) = 1 ∧
      s.auxCarrier a = false) ∧
    (∃ (s : State) (a : Oct), s.domainRun 3 = true ∧ s.auxOn a = true ∧
      (s.get (F.AUXADC_CH_CFG_MODE a) ≠ 1 ∨ s.auxCarrier a = true) ∧ s.auxTurn a = true) ∧
    (∃ (s : State) (a : Oct), s.domainRun 3 = true ∧ s.auxOn a = true ∧
      (s.get (F.AUXADC_CH_CFG_MODE a) ≠ 1 ∨ s.auxCarrier a = true) ∧ s.auxTurn a = false) ∧
    (∃ (s : State) (a : Nat), (s.aux a).n + 1 < 2 ^ (s.get (F.AUXADC_CH_CFG_OSR a))) ∧
    (∃ (s : State) (a : Nat), 2 ^ (s.get (F.AUXADC_CH_CFG_OSR a)) ≤ (s.aux a).n + 1) ∧
    (∃ (s : State) (a : Oct), (s.aux a).done = none) ∧
    (∃ (s : State) (a : Oct) (v : _), (s.aux a).done = some v ∧ s.domainRun 3 = true) ∧
    (∃ (s : State) (a : Nat) (v : Nat), s.get (F.AUXADC_CH_LIM_LO a) ≤ v ∧ v ≤ s.get (F.AUXADC_CH_LIM_HI a)) ∧
    (∃ (s : State) (a : Nat) (v : Nat), (v < s.get (F.AUXADC_CH_LIM_LO a) ∨ s.get (F.AUXADC_CH_LIM_HI a) < v) ∧
      (s.aux a).out = true) ∧
    (∃ (s : State) (a : Oct), s.up (R.AUXADC_CH_RES a)) ∧
    (∃ (s : State), s.powered = true) ∧
    (∃ (s : State), s.powered = true ∧ ((s.jtagRelease).jtagIr 0x21).domainRun 3 = true) ∧
    (∃ (s : State), s.powered = true ∧ s.jtagFree = true) ∧
    (∃ (s : State), s.powered = true ∧ s.jtagFree = false) ∧
    (∃ (s : State), s.powered = true ∧ (s.jtagRelease.jtagIr 0x30).jtagFree = false) ∧
    (∃ (s : State) (a : Word), s.powered = true ∧ (s.jtagRelease.jtagIr 0x30).jtagFree = true ∧
      (s.jtagRelease.jtagIr 0x30).rloadOk a.toNat = false) ∧
    (∃ (s : State) (a : Word), s.powered = true ∧ (s.jtagRelease.jtagIr 0x30).jtagFree = true ∧
      (s.jtagRelease.jtagIr 0x30).rloadOk a.toNat = true) ∧
    (∃ (s : State), s.powered = true ∧ (s.jtagRelease.jtagIr 0x32).jtagFree = false) ∧
    (∃ (s : State), s.powered = true ∧ (s.jtagRelease.jtagIr 0x32).jtagFree = true ∧
      (s.jtagRelease.jtagIr 0x32).domainRun 3 = true ∧ (s.jtagRelease.jtagIr 0x32).lcs = 3) ∧
    (∃ (s : State) (a : Byte), s.powered = true ∧ (s.jtagRelease.jtagIr 0x32).jtagFree = true ∧
      (s.jtagRelease.jtagIr 0x32).lcs ≠ 3 ∧ (s.jtagRelease.jtagIr 0x32).domainRun 3 = true ∧ a.toNat < 4) ∧
    (∃ (s : State) (b : Ball), (b = .bypHold ∨ (∃ x i, b = .sto x i) ∨ (∃ x i, b = .sbo x i)) ∧
      (s.cellsDrive = true ∨ s.cellsOff = true)) ∧
    (∃ (s : State) (b : Ball), s.cellsOff = true ∧ b.heldLow = false) ∧
    (∃ (s : State), s.cellsDrive = false ∧ s.cellsOff = false) :=
  ⟨⟨on, _, 0, _, by unfold State.up; decide +kernel, (Prod.eta _).symm⟩,
    ⟨on, _, 0, _, by unfold State.up; decide +kernel, (Prod.eta _).symm⟩,
    ⟨R.GPIO_OE, 31, by decide +kernel⟩,
    ⟨on, _, 0, 0, _, by unfold State.up; decide +kernel, (Prod.eta _).symm⟩,
    ⟨on, 0, 0, by decide +kernel⟩,
    ⟨on, 0, 1, 0, by decide +kernel⟩,
    ⟨((on.put (F.AUXADC_CH_CFG_MODE 0) 2).putB (F.AUXADC_CH_CFG_EN 0) true), 0, by unfold State.up; decide +kernel,
     by decide +kernel, by decide +kernel⟩,
    ⟨(on.put (F.AUXADC_CH_CFG_MODE 0) 0), 0, by unfold State.up; decide +kernel, by decide +kernel⟩,
    ⟨on, 0, by decide +kernel⟩,
    ⟨((((on.putB F.AUXADC_CTL_EN true).putB (F.AUXADC_CH_CFG_EN 7) true).setOwner 0x1007 1).put (F.AUXADC_CH_CFG_MODE 7) 1),
     7, by decide +kernel⟩,
    ⟨((((on.putB F.AUXADC_CTL_EN true).putB (F.AUXADC_CH_CFG_EN 7) true).setOwner 0x1007 1).put (F.AUXADC_CH_CFG_MODE 7) 0),
     7, by decide +kernel⟩,
    ⟨((((on.putB F.AUXADC_CTL_EN true).putB (F.AUXADC_CH_CFG_EN 7) true).setOwner 0x1007 1).put (F.AUXADC_CH_CFG_MODE 7) 2),
     7, by decide +kernel⟩,
    ⟨(on.put (F.AUXADC_CH_CFG_OSR 0) 1), 0, by decide +kernel⟩,
    ⟨on, 0, by decide +kernel⟩,
    ⟨(on.setAux 0 { done := none }), 0, by decide +kernel⟩,
    ⟨(on.setAux 0 { done := some 0 }), 0, _, some_of (by decide +kernel), by decide +kernel⟩,
    ⟨(on.put (F.AUXADC_CH_LIM_HI 0) 0), 0, 0, by decide +kernel⟩,
    ⟨((on.put (F.AUXADC_CH_LIM_LO 0) 1).setAux 0 { out := true }), 0, 0, by decide +kernel⟩,
    ⟨on, 0, by unfold State.up; decide +kernel⟩,
    ⟨{ on with powered := true }, by decide +kernel⟩,
    ⟨{ on with powered := true }, by decide +kernel⟩,
    ⟨{ (on.setByte (keysAt on.keysMacro + 4) 1) with powered := true }, by decide +kernel⟩,
    ⟨{ on with powered := true }, by decide +kernel⟩,
    ⟨{ on with powered := true }, by decide +kernel⟩,
    ⟨{ (on.setByte (keysAt on.keysMacro + 4) 1) with powered := true }, 0, by decide +kernel⟩,
    ⟨{ ((on.setByte (keysAt on.keysMacro + 4) 1)).putB F.NVM_STAT_WIN true with powered := true, recovery := true },
     1048568, by decide +kernel⟩,
    ⟨{ on with powered := true }, by decide +kernel⟩,
    ⟨{ (on.setByte (keysAt on.keysMacro + 4) 3) with powered := true }, by decide +kernel⟩,
    ⟨{ (on.setByte (keysAt on.keysMacro + 4) 1) with powered := true }, 3, by decide +kernel⟩,
    ⟨{ on with rstBy := [9], tap := { ir := 5 } }, .bypHold, Or.inl rfl, Or.inr (by decide +kernel)⟩,
    ⟨{ on with rstBy := [9], tap := { ir := 5 } }, .rstN, by decide +kernel⟩,
    ⟨on, by decide +kernel⟩⟩

theorem wit_RegisterWrites :
    (∃ (a : Nat) (z : AccSize), regionOf a ≠ .periph ∧
      (regionOf a = .unmapped ∨ regionOf (a + accBytes z - 1) = .unmapped)) ∧
    (∃ (a : Nat) (z : AccSize), regionOf a = .periph ∧ (z ≠ .word ∨ a % 4 ≠ 0)) ∧
    (∃ (s : State) (a : Nat) (z : AccSize), regionOf a = .periph ∧ z = .word ∧ a % 4 = 0 ∧ s.windowOn (winOf a) = false) ∧
    (∃ (s : State) (a : Nat) (z : AccSize), regionOf a = .periph ∧ z = .word ∧ a % 4 = 0 ∧ s.windowOn (winOf a) = true ∧
      winOf a = 4) ∧
    (∃ (s : State) (a : Nat) (z : AccSize), regionOf a = .periph ∧ z = .word ∧ a % 4 = 0 ∧ s.windowOn (winOf a) = true ∧
      winOf a ≠ 4) ∧
    (∃ (s : State) (a : Nat) (z : AccSize), regionOf a ≠ .periph ∧ regionOf a ≠ .unmapped ∧
      regionOf (a + accBytes z - 1) = regionOf a ∧ s.domainOn (regionDomain (regionOf a)) = false) ∧
    (∃ (s : State) (a : Nat) (z : AccSize), regionOf a ≠ .periph ∧ regionOf a ≠ .unmapped ∧
      regionOf (a + accBytes z - 1) = regionOf a ∧ s.domainOn (regionDomain (regionOf a)) = true ∧
      (regionOf a = .bootRom ∨ regionOf a = .mram0 ∨ regionOf a = .mram1)) ∧
    (∃ (s : State) (a : Nat) (z : AccSize), regionOf a ≠ .periph ∧ regionOf a ≠ .unmapped ∧
      regionOf (a + accBytes z - 1) = regionOf a ∧ s.domainOn (regionDomain (regionOf a)) = true ∧
      (regionOf a = .mram0 ∨ regionOf a = .mram1 ∨ regionOf a = .coxRam)) ∧
    (∃ (s : State) (a : Nat) (z : AccSize), regionOf a ≠ .periph ∧ regionOf a ≠ .unmapped ∧
      regionOf (a + accBytes z - 1) = regionOf a ∧ s.domainOn (regionDomain (regionOf a)) = true ∧ regionOf a = .sigMap) ∧
    (∃ (s : State) (a : Nat) (z : AccSize), regionOf a ≠ .periph ∧ regionOf a ≠ .unmapped ∧
      regionOf (a + accBytes z - 1) = regionOf a ∧ s.domainOn (regionDomain (regionOf a)) = true ∧ regionOf a = .coxRam) ∧
    (∃ (s : State) (a : Nat) (z : AccSize) (v : Word), regionOf a ≠ .periph ∧ regionOf a ≠ .unmapped ∧
      regionOf (a + accBytes z - 1) = regionOf a ∧ s.domainOn (regionDomain (regionOf a)) = true ∧
      (regionOf a = .sramL ∨ regionOf a = .sramH) ∧ (s.sramStore a (accBytes z) v.toNat).1 = true) ∧
    (∃ (s : State) (a : Nat) (z : AccSize), regionOf a ≠ .periph ∧ regionOf a ≠ .unmapped ∧
      regionOf (a + accBytes z - 1) = regionOf a ∧ s.domainOn (regionDomain (regionOf a)) = true ∧
      (regionOf a = .sramL ∨ regionOf a = .sramH) ∧ (s.sramLoad a (accBytes z)).1 = none) ∧
    (∃ (s : State) (a : Nat) (z : AccSize) (x : _), regionOf a ≠ .periph ∧ regionOf a ≠ .unmapped ∧
      regionOf (a + accBytes z - 1) = regionOf a ∧ s.domainOn (regionDomain (regionOf a)) = true ∧
      (regionOf a = .sramL ∨ regionOf a = .sramH) ∧ (s.sramLoad a (accBytes z)).1 = some x) ∧
    (∃ (a : Nat), findRow a = none) ∧
    (∃ (a : Nat) (r : _), findRow a = some r ∧ (winOf a = 3 ∨ winOf a = 16)) ∧
    (∃ (a : Nat) (v : Word) (r : _), findRow a = some r ∧ v &&& BitVec.ofNat 32 r.rsv = 0) ∧
    (∃ (a : Nat) (v : Word) (r : _), findRow a = some r ∧ v &&& BitVec.ofNat 32 r.rsv ≠ 0) ∧
    (∃ (a : Nat) (r : _) (k : Nat), findRow a = some r ∧ k < 32) ∧
    (∃ (r : RegRow) (k : Nat), k < 32 ∧ r.rw.testBit k = true ∧ r.w1c.testBit k = false) ∧
    (∃ (r : RegRow) (k : Nat), k < 32 ∧ r.rw.testBit k = false ∧ r.w1c.testBit k = true) ∧
    (∃ (r : RegRow) (k : Nat), k < 32 ∧ r.rw.testBit k = false ∧ r.w1c.testBit k = false) ∧
    (∃ (a : Nat) (b : Nat), b ≠ a) :=
  ⟨⟨0x50000000, .word, by decide +kernel⟩,
    ⟨0x40000000, .half, by decide +kernel⟩,
    ⟨State.reset, 0x40000000, .word, by decide +kernel⟩,
    ⟨on, 0x40040000, .word, by decide +kernel⟩,
    ⟨on, 0x40000000, .word, by decide +kernel⟩,
    ⟨State.reset, 0x20000000, .word, by decide +kernel⟩,
    ⟨on, 0x20FFFFFC, .word, by decide +kernel⟩,
    ⟨on, 0x20000000, .word, by decide +kernel⟩,
    ⟨on, 0x10C00000, .word, by decide +kernel⟩,
    ⟨on, 0x08000000, .word, by decide +kernel⟩,
    ⟨on, 0x10000000, .word, 0, by decide +kernel⟩,
    ⟨{ on with eccUe := [0x10000000] }, 0x10000000, .word, by decide +kernel⟩,
    ⟨on, 0x10000000, .word, _, by decide +kernel, by decide +kernel, by decide +kernel, by decide +kernel,
     by decide +kernel, some_of (by decide +kernel)⟩,
    ⟨0, by decide +kernel⟩,
    ⟨0x40030008, _, some_of (by decide +kernel), by decide +kernel⟩,
    ⟨0x40030008, 0, (findRow (0x40030008 : Nat)).get (by decide +kernel), (Option.some_get _).symm, by decide +kernel⟩,
    ⟨0x40100004, 0xFFFFFFFF, (findRow (0x40100004 : Nat)).get (by decide +kernel), (Option.some_get _).symm,
     by decide +kernel⟩,
    ⟨0x40030008, _, 31, some_of (by decide +kernel), by decide +kernel⟩,
    ⟨⟨0, [], 0x80000000, 0, 0, 0, 0, 0, 0⟩, 31, by decide +kernel⟩,
    ⟨⟨0, [], 0, 0, 0x80000000, 0, 0, 0, 0⟩, 31, by decide +kernel⟩,
    ⟨⟨0, [], 0, 0, 0, 0, 0, 0, 0⟩, 31, by decide +kernel⟩,
    ⟨0, 4, by decide +kernel⟩⟩

theorem wit_TableRead :
    (∃ (z : Word), ((z.extractLsb' 2 16).toNat) = 0) :=
    ⟨0, by decide +kernel⟩

theorem wit_OnnusWordsDecode :
    (∃ (r : _), r ∈ rowsA) ∧
    (∃ (r : _), r ∈ rowsB) ∧
    (∃ (r : _), r ∈ rowsC) ∧
    (∃ (r : _), r ∈ rowsE) :=
  ⟨⟨rowsA.head (List.cons_ne_nil _ _), List.head_mem _⟩,
    ⟨rowsB.head (List.cons_ne_nil _ _), List.head_mem _⟩,
    ⟨rowsC.head (List.cons_ne_nil _ _), List.head_mem _⟩,
    ⟨rowsE.head (List.cons_ne_nil _ _), List.head_mem _⟩⟩

end Sys2Proof.Tests
end

/-! The proofs of the statements on the scope of the model (spec/00_scope.md): what one step runs, what reset leaves, that every
command completes, and what an access by the Cox does. -/
section
namespace Sys2Proof.Machine

/-! ### Every command completes (R13) -/
/-- The case split over the commands: each meaning has its own lemma under Laws/. -/
theorem goes_exec {s0 s : State} (i : Instr) (h : Keeps s0 s) : Goes s0 (exec i s) :=
  match i with
  | .registerWrite .. => keeps_execRegisterWrite h
  | .claimReqClaim .. => keeps_execClaimReqClaim h
  | .claimReqRelease .. => keeps_execClaimReqRelease h
  | .claimTableRequest => keeps_execClaimTableRequest h
  | .dmaLenWrite .. => keeps_execDmaLenWrite h
  | .cntClrEcc => keeps_execCntClrEcc h
  | .cntClrOvf => keeps_execCntClrOvf h
  | .cntClrRetry .. => keeps_execCntClrRetry h
  | .seMismatch .. => keeps_execSeMismatch h
  | .seMemUe .. => keeps_execSeMemUe h
  | .restoreComplete .. => keeps_execRestoreComplete h
  | .domainReloadComplete .. => keeps_execDomainReloadComplete h
  | .seRetest .. => keeps_execSeRetest h
  | .spareSelfTest .. => keeps_execSpareSelfTest h
  | .selfTestComplete .. => keeps_execSelfTestComplete h
  | .taskDispatch .. => keeps_execTaskDispatch h
  | .taskPreempt .. => keeps_execTaskPreempt h
  | .taskBudget .. => keeps_execTaskBudget h
  | .timerExpiry .. => keeps_execTimerExpiry h
  | .crewCatch .. => keeps_execCatch h
  | .checkpointRecordWrite .. => keeps_execCheckpointRecordWrite h
  | .seMemDataWrite .. => keeps_execSeMemDataWrite h
  | .seMemDataRead => keeps_execSeMemDataRead h
  | .coefDataWrite .. => keeps_execCoefDataWrite h
  | .coefSwap .. => keeps_execCoefSwap h
  | .outboundQueueDrain .. => keeps_execOutboundQueueDrain h
  | .add .. => keeps_execAdd h
  | .sub .. => keeps_execSub h
  | .and .. => keeps_execAnd h
  | .or .. => keeps_execOr h
  | .xor .. => keeps_execXor h
  | .sll .. => keeps_execSll h
  | .srl .. => keeps_execSrl h
  | .sra .. => keeps_execSra h
  | .slt .. => keeps_execSlt h
  | .sltu .. => keeps_execSltu h
  | .min .. => keeps_execMin h
  | .max .. => keeps_execMax h
  | .minu .. => keeps_execMinu h
  | .maxu .. => keeps_execMaxu h
  | .clz .. => keeps_execClz h
  | .mul .. => keeps_execMul h
  | .mulh .. => keeps_execMulh h
  | .mulhu .. => keeps_execMulhu h
  | .div .. => keeps_execDiv h
  | .divu .. => keeps_execDivu h
  | .rem .. => keeps_execRem h
  | .remu .. => keeps_execRemu h
  | .addi .. => keeps_execAddi h
  | .andi .. => keeps_execAndi h
  | .ori .. => keeps_execOri h
  | .xori .. => keeps_execXori h
  | .slti .. => keeps_execSlti h
  | .sltiu .. => keeps_execSltiu h
  | .slli .. => keeps_execSlli h
  | .srli .. => keeps_execSrli h
  | .srai .. => keeps_execSrai h
  | .lui .. => keeps_execLui h
  | .qadd .. => keeps_execQadd h
  | .qsub .. => keeps_execQsub h
  | .qmul .. => keeps_execQmul h
  | .qneg .. => keeps_execQneg h
  | .qabs .. => keeps_execQabs h
  | .qshl .. => keeps_execQshl h
  | .qshr .. => keeps_execQshr h
  | .qadd2 .. => keeps_execQadd2 h
  | .qsub2 .. => keeps_execQsub2 h
  | .qmul2 .. => keeps_execQmul2 h
  | .qpack .. => keeps_execQpack h
  | .mac .. => keeps_execMac h
  | .msu .. => keeps_execMsu h
  | .macz .. => keeps_execMacz h
  | .mac2 .. => keeps_execMac2 h
  | .aclr .. => keeps_execAclr h
  | .awr .. => keeps_execAwr h
  | .ard .. => keeps_execArd h
  | .fadd .. => keeps_execFadd h
  | .fsub .. => keeps_execFsub h
  | .fmul .. => keeps_execFmul h
  | .fdiv .. => keeps_execFdiv h
  | .fsqrt .. => keeps_execFsqrt h
  | .fma .. => keeps_execFma h
  | .fnms .. => keeps_execFnms h
  | .fmin .. => keeps_execFmin h
  | .fmax .. => keeps_execFmax h
  | .fabs .. => keeps_execFabs h
  | .fneg .. => keeps_execFneg h
  | .fsat .. => keeps_execFsat h
  | .fcvtSW .. => keeps_execFcvtSW h
  | .fcvtWS .. => keeps_execFcvtWS h
  | .fcvtSQ .. => keeps_execFcvtSQ h
  | .fcvtQS .. => keeps_execFcvtQS h
  | .fmvGF .. => keeps_execFmvGF h
  | .fmvFG .. => keeps_execFmvFG h
  | .feq .. => keeps_execFeq h
  | .flt .. => keeps_execFlt h
  | .fle .. => keeps_execFle h
  | .clarke .. => keeps_execClarke h
  | .park .. => keeps_execPark h
  | .ipark .. => keeps_execIpark h
  | .sincos .. => keeps_execSincos h
  | .atan2 .. => keeps_execAtan2 h
  | .biq .. => keeps_execBiq h
  | .lim2 .. => keeps_execLim2 h
  | .lim2d .. => keeps_execLim2d h
  | .ldw .. => keeps_execLdw h
  | .ldh .. => keeps_execLdh h
  | .ldhu .. => keeps_execLdhu h
  | .ldb .. => keeps_execLdb h
  | .ldbu .. => keeps_execLdbu h
  | .flw .. => keeps_execFlw h
  | .stw .. => keeps_execStw h
  | .sth .. => keeps_execSth h
  | .stb .. => keeps_execStb h
  | .fsw .. => keeps_execFsw h
  | .swapw .. => keeps_execSwapw h
  | .casw .. => keeps_execCasw h
  | .beq .. => keeps_execBeq h
  | .bne .. => keeps_execBne h
  | .blt .. => keeps_execBlt h
  | .bge .. => keeps_execBge h
  | .bltu .. => keeps_execBltu h
  | .bgeu .. => keeps_execBgeu h
  | .jal .. => keeps_execJal h
  | .jalr .. => keeps_execJalr h
  | .loop .. => keeps_execLoop h
  | .loopi .. => keeps_execLoopi h
  | .pin .. => keeps_execPin h
  | .poutMode0 .. => keeps_execPoutMode0 h
  | .poutMode1 .. => keeps_execPoutMode1 h
  | .psetOr .. => keeps_execPsetOr h
  | .psetAndnot .. => keeps_execPsetAndnot h
  | .psetXor .. => keeps_execPsetXor h
  | .pinr .. => keeps_execPinr h
  | .poutr .. => keeps_execPoutr h
  | .sigrd .. => keeps_execSigrd h
  | .sigrdi .. => keeps_execSigrdi h
  | .sigwr .. => keeps_execSigwr h
  | .trigger .. => keeps_execTrigger h
  | .waitcatch .. => keeps_execWaitcatch h
  | .yield .. => keeps_execYield h
  | .ordend .. => keeps_execOrdend h
  | .ordarg .. => keeps_execOrdarg h
  | .ordhdr .. => keeps_execOrdhdr h
  | .claim .. => keeps_execClaim h
  | .release .. => keeps_execRelease h
  | .csrrd .. => keeps_execCsrrd h
  | .csrwr .. => keeps_execCsrwr h
  | .trap .. => keeps_execTrap h
  | .pistep .. => keeps_execPistep h
  | .pistepr .. => keeps_execPistepr h
  | .tasTick => keeps_execTasTick h
  | .carrierValley .. => keeps_execCarrierValley h
  | .carrierPeak .. => keeps_execCarrierPeak h
  | .seamHoldExpiry .. => keeps_execSeamHoldExpiry h
  | .edgeDecision .. => keeps_execEdgeDecision h
  | .deadTimeExpiry .. => keeps_execDeadTimeExpiry h
  | .crewStart .. => keeps_execCrewStart h
  | .crewStop .. => keeps_execCrewStop h
  | .stoLineChange .. => keeps_execStoLineChange h
  | .cmdOfsWrite .. => keeps_execCmdOfsWrite h
  | .cmdAmpWrite .. => keeps_execCmdAmpWrite h
  | .angsetWrite .. => keeps_execAngsetWrite h
  | .tblDataAccess .. => keeps_execTblDataAccess h
  | .legModeWrite .. => keeps_execLegModeWrite h
  | .legRawWrite .. => keeps_execLegRawWrite h
  | .shootLockoutEnd .. => keeps_execShootLockoutEnd h
  | .legDtWrite .. => keeps_execLegDtWrite h
  | .legMinpwWrite .. => keeps_execLegMinpwWrite h
  | .bootstrapRefresh .. => keeps_execBootstrapRefresh h
  | .refreshPulseEnd .. => keeps_execRefreshPulseEnd h
  | .chopFastDecayEnd .. => keeps_execChopFastDecayEnd h
  | .chopOffTimeEnd .. => keeps_execChopOffTimeEnd h
  | .downlinkFrame .. => keeps_execDownlinkFrame h
  | .uplinkFrame .. => keeps_execUplinkFrame h
  | .stoDisagree .. => keeps_execStoDisagree h
  | .tileFrameReceive .. => keeps_execTileFrameReceive h
  | .tileEventApply .. => keeps_execTileEventApply h
  | .tileStoInput .. => keeps_execTileStoInput h
  | .tileUvlo .. => keeps_execTileUvlo h
  | .tileDidtTrip .. => keeps_execTileDidtTrip h
  | .tilePowerUp .. => keeps_execTilePowerUp h
  | .yilosEn .. => keeps_execYilosEn h
  | .yilosRetrain .. => keeps_execYilosRetrain h
  | .trainingFrame .. => keeps_execTrainingFrame h
  | .trainingTimeout .. => keeps_execTrainingTimeout h
  | .linkUp .. => keeps_execLinkUp h
  | .parkComplete .. => keeps_execParkComplete h
  | .yilosClr .. => keeps_execYilosClr h
  | .yilosMwr .. => keeps_execYilosMwr h
  | .diagStart .. => keeps_execDiagStart h
  | .diagSettleEnd .. => keeps_execDiagSettleEnd h
  | .sincSampleEntry .. => keeps_execSincSampleEntry h
  | .fastResult .. => keeps_execFastResult h
  | .controlResult .. => keeps_execControlResult h
  | .guardHoldEnd .. => keeps_execGuardHoldEnd h
  | .guardCoolEnd .. => keeps_execGuardCoolEnd h
  | .guardRenderLimit .. => keeps_execGuardRenderLimit h
  | .guardRecover .. => keeps_execGuardRecover h
  | .emgSample .. => keeps_execEmgSample h
  | .slessLowspeed .. => keeps_execSlessLowspeed h
  | .eclrWrite .. => keeps_execEclrWrite h
  | .eposLRead .. => keeps_execEposLRead h
  | .enegLRead .. => keeps_execEnegLRead h
  | .dwellEnd .. => keeps_execDwellEnd h
  | .standstillDelayEnd .. => keeps_execStandstillDelayEnd h
  | .brakeTsetEnd .. => keeps_execBrakeTsetEnd h
  | .brakeTpreEnd .. => keeps_execBrakeTpreEnd h
  | .brakeTopenEnd .. => keeps_execBrakeTopenEnd h
  | .brakeFeedback .. => keeps_execBrakeFeedback h
  | .trelRampEnd .. => keeps_execTrelRampEnd h
  | .profTgtHWrite .. => keeps_execProfTgtHWrite h
  | .profVtgtWrite .. => keeps_execProfVtgtWrite h
  | .profModeWrite .. => keeps_execProfModeWrite h
  | .profStop .. => keeps_execProfStop h
  | .profHaltq .. => keeps_execProfHaltq h
  | .profParamWrite .. => keeps_execProfParamWrite h
  | .iarPerWrite .. => keeps_execIarPerWrite h
  | .setpHWrite .. => keeps_execSetpHWrite h
  | .iarumPeriodBoundary .. => keeps_execIarumPeriodBoundary h
  | .profPosLRead .. => keeps_execProfPosLRead h
  | .zCapture .. => keeps_execZCapture h
  | .illegalTransition .. => keeps_execIllegalTransition h
  | .lineFault .. => keeps_execLineFault h
  | .posLine .. => keeps_execPosLine h
  | .posReadTrigger .. => keeps_execPosReadTrigger h
  | .serialReadComplete .. => keeps_execSerialReadComplete h
  | .serialReadRetry .. => keeps_execSerialReadRetry h
  | .posRearm .. => keeps_execPosRearm h
  | .posClr .. => keeps_execPosClr h
  | .posCntLRead .. => keeps_execPosCntLRead h
  | .posZcapLRead .. => keeps_execPosZcapLRead h
  | .siFilterChange .. => keeps_execSiFilterChange h
  | .resetHeld .. => keeps_execResetHeld h
  | .siDiscrep .. => keeps_execSiDiscrep h
  | .tpoPulse .. => keeps_execTpoPulse h
  | .tpoPulseEnd .. => keeps_execTpoPulseEnd h
  | .testPulseWindowEnd .. => keeps_execTestPulseWindowEnd h
  | .islandEvaluation .. => keeps_execIslandEvaluation h
  | .speedWindowEnd .. => keeps_execSpeedWindowEnd h
  | .ss1TimerExpiry .. => keeps_execSs1TimerExpiry h
  | .sbcDelayEnd .. => keeps_execSbcDelayEnd h
  | .stoTestPulse .. => keeps_execStoTestPulse h
  | .sboTestPulse .. => keeps_execSboTestPulse h
  | .islandStart .. => keeps_execIslandStart h
  | .islandStartComplete .. => keeps_execIslandStartComplete h
  | .ringFragment .. => keeps_execRingFragment h
  | .reassemblyTimeout => keeps_execReassemblyTimeout h
  | .masterFrame .. => keeps_execMasterFrame h
  | .batchClose => keeps_execBatchClose h
  | .batchCommit .. => keeps_execBatchCommit h
  | .orderStart => keeps_execOrderStart h
  | .ordCall .. => keeps_execOrdCall h
  | .ordLoadprog => keeps_execOrdLoadprog h
  | .ordRigswitch => keeps_execOrdRigswitch h
  | .ordReadsig => keeps_execOrdReadsig h
  | .ordWritesig => keeps_execOrdWritesig h
  | .ordSubscribe => keeps_execOrdSubscribe h
  | .ordSwapbank => keeps_execOrdSwapbank h
  | .ordClearfault => keeps_execOrdClearfault h
  | .ordDump => keeps_execOrdDump h
  | .reportSend => keeps_execReportSend h
  | .reportResendTimeout => keeps_execReportResendTimeout h
  | .masterSilent => keeps_execMasterSilent h
  | .mpWrite .. => keeps_execMpWrite h
  | .mpRead .. => keeps_execMpRead h
  | .mpStatus => keeps_execMpStatus h
  | .journalRecovery => keeps_execJournalRecovery h
  | .ringFrame .. => keeps_execRingFrame h
  | .supervisionFrame .. => keeps_execSupervisionFrame h
  | .supervisionSend => keeps_execSupervisionSend h
  | .ringBroken => keeps_execRingBroken h
  | .nodeForget => keeps_execNodeForget h
  | .ringLinkChange .. => keeps_execRingLinkChange h
  | .egressFrameStart .. => keeps_execEgressFrameStart h
  | .protectedWindowOpen => keeps_execProtectedWindowOpen h
  | .protectedWindowClose => keeps_execProtectedWindowClose h
  | .phyrstnWrite .. => keeps_execPhyrstnWrite h
  | .txenWrite .. => keeps_execTxenWrite h
  | .mdioOperation .. => keeps_execMdioOperation h
  | .mdioComplete .. => keeps_execMdioComplete h
  | .bypInsertWrite .. => keeps_execBypInsertWrite h
  | .bypLeaveWrite => keeps_execBypLeaveWrite h
  | .leaveExpiry => keeps_execLeaveExpiry h
  | .bypSenseChange .. => keeps_execBypSenseChange h
  | .bypMismatch => keeps_execBypMismatch h
  | .leaveAnnouncement .. => keeps_execLeaveAnnouncement h
  | .sync .. => keeps_execSync h
  | .followUp .. => keeps_execFollowUp h
  | .announce .. => keeps_execAnnounce h
  | .pdelayReq .. => keeps_execPdelayReq h
  | .pdelayResp .. => keeps_execPdelayResp h
  | .pdelayRespFollowUp .. => keeps_execPdelayRespFollowUp h
  | .pdelayReqSend .. => keeps_execPdelayReqSend h
  | .pdelayTimeout .. => keeps_execPdelayTimeout h
  | .syncSend => keeps_execSyncSend h
  | .announceSend => keeps_execAnnounceSend h
  | .syncLoss => keeps_execSyncLoss h
  | .announceTimeout => keeps_execAnnounceTimeout h
  | .rtcUpdate => keeps_execRtcUpdate h
  | .ctSlRead => keeps_execCtSlRead h
  | .ltSlRead => keeps_execLtSlRead h
  | .lqArm .. => keeps_execLqArm h
  | .lqLaunch .. => keeps_execLqLaunch h
  | .seamPayloadRead .. => keeps_execSeamPayloadRead h
  | .seamFrame .. => keeps_execSeamFrame h
  | .seamDeadline .. => keeps_execSeamDeadline h
  | .fieldCycleStart .. => keeps_execFieldCycleStart h
  | .cyclic .. => keeps_execCyclic h
  | .change .. => keeps_execChange h
  | .read .. => keeps_execRead h
  | .write .. => keeps_execWrite h
  | .assign .. => keeps_execAssign h
  | .cap .. => keeps_execCap h
  | .discover .. => keeps_execDiscover h
  | .freeze .. => keeps_execFreeze h
  | .fieldResponse .. => keeps_execFieldResponse h
  | .fieldTimeout .. => keeps_execFieldTimeout h
  | .discoveryRound .. => keeps_execDiscoveryRound h
  | .signalMapSweep => keeps_execSignalMapSweep h
  | .internalPocketRefresh => keeps_execInternalPocketRefresh h
  | .subscriptionReport .. => keeps_execSubscriptionReport h
  | .fieldSwrV .. => keeps_execFieldSwrV h
  | .fieldClr .. => keeps_execFieldClr h
  | .mapStore => keeps_execMapStore h
  | .vaonPowerOn .. => keeps_execVaonPowerOn h
  | .vaonPowerLoss => keeps_execVaonPowerLoss h
  | .rstNLow => keeps_execRstNLow h
  | .rstNRelease .. => keeps_execRstNRelease h
  | .bootComplete .. => keeps_execBootComplete h
  | .stuckReset => keeps_execStuckReset h
  | .stuckIgnoreClear => keeps_execStuckIgnoreClear h
  | .watchdogExpiry => keeps_execWatchdogExpiry h
  | .aonWdtKick => keeps_execAonWdtKick h
  | .softwareReset => keeps_execSoftwareReset h
  | .supplyUv .. => keeps_execSupplyUv h
  | .supplyUvRelease => keeps_execSupplyUvRelease h
  | .backupTrip => keeps_execBackupTrip h
  | .backupTripClear => keeps_execBackupTripClear h
  | .pfailN .. => keeps_execPfailN h
  | .aonReadyWrite .. => keeps_execAonReadyWrite h
  | .readyReached => keeps_execReadyReached h
  | .readyTimeout => keeps_execReadyTimeout h
  | .idleTimeout => keeps_execIdleTimeout h
  | .aonRestWrite => keeps_execAonRestWrite h
  | .restEntryEnd => keeps_execRestEntryEnd h
  | .wake .. => keeps_execWake h
  | .domainFail .. => keeps_execDomainFail h
  | .mboxReqWrite .. => keeps_execMboxReqWrite h
  | .mboxMaintenance => keeps_execMboxMaintenance h
  | .mboxUserLog => keeps_execMboxUserLog h
  | .mboxRest => keeps_execMboxRest h
  | .mboxFirmwareChunk => keeps_execMboxFirmwareChunk h
  | .mboxFirmwareActivate => keeps_execMboxFirmwareActivate h
  | .mboxDumpSlotLock => keeps_execMboxDumpSlotLock h
  | .hkRound => keeps_execHkRound h
  | .hkSample .. => keeps_execHkSample h
  | .thermalShutdownRest => keeps_execThermalShutdownRest h
  | .nvmChunkWrite .. => keeps_execNvmChunkWrite h
  | .scrubStepDue => keeps_execScrubStepDue h
  | .wearSave => keeps_execWearSave h
  | .firmwareImageWrite => keeps_execFirmwareImageWrite h
  | .rigWrite => keeps_execRigWrite h
  | .mramScrub => keeps_execMramScrub h
  | .journalCompaction => keeps_execJournalCompaction h
  | .sramBankTest .. => keeps_execSramBankTest h
  | .logExport => keeps_execLogExport h
  | .capsizeDump .. => keeps_execCapsizeDump h
  | .offStateDiagnostics => keeps_execOffStateDiagnostics h
  | .encoderCalibration => keeps_execEncoderCalibration h
  | .maintenanceActivityEnd .. => keeps_execMaintenanceActivityEnd h
  | .fwConfirm .. => keeps_execFwConfirm h
  | .lcsWrite .. => keeps_execLcsWrite h
  | .seSwapGo .. => keeps_execSeSwapGo h
  | .liveReplacementInstant => keeps_execLiveReplacementInstant h
  | .liveSwapTimeout => keeps_execLiveSwapTimeout h
  | .coxException .. => keeps_execCoxException h
  | .firmwareAssertion .. => keeps_execFirmwareAssertion h
  | .gpioOutWrite .. => keeps_execGpioOutWrite h
  | .gpioOeWrite .. => keeps_execGpioOeWrite h
  | .auxCfgWrite .. => keeps_execAuxCfgWrite h
  | .auxStart .. => keeps_execAuxStart h
  | .auxConversion .. => keeps_execAuxConversion h
  | .auxResult .. => keeps_execAuxResult h
  | .auxResRead .. => keeps_execAuxResRead h
  | .tapReset => keeps_execTapReset h
  | .idcode => keeps_execIdcode h
  | .samplePreload .. => keeps_execSamplePreload h
  | .extest .. => keeps_execExtest h
  | .clamp => keeps_execClamp h
  | .highz => keeps_execHighz h
  | .chal => keeps_execChal h
  | .answer .. => keeps_execAnswer h
  | .rload .. => keeps_execRload h
  | .sysrst => keeps_execSysrst h
  | .keywr .. => keeps_execKeywr h
  | .bypass .. => keeps_execBypass h
  | .rtcLRead => keeps_execRtcLRead h
  | .masterCntclr .. => keeps_execMasterCntclr h
  | .testN .. => keeps_execTestN h
  | .xtal32Stable => keeps_execXtal32Stable h
  | .quadratureEdge .. => keeps_execQuadratureEdge h
  | .tileInterlockRelease .. => keeps_execTileInterlockRelease h
  | .tileOvertempShutdown .. => keeps_execTileOvertempShutdown h

/-- Settles O6: each command's meaning goes to a next state that keeps the queue, the clock and the bounds. -/
theorem everyCommandCompletes : Obligations.EveryCommandCompletes := by
  intro c s
  obtain ⟨t, ht, hk⟩ := goes_exec c (Keeps.refl s)
  exact ⟨t, ht, hk.pending, hk.now, hk.inv⟩

/-! ### Which accesses of the Cox are refused (R8, R21, R25, assumption log 73) -/
section
variable {s : State} {a : Nat} {z : AccSize} {v : Word} {store : Bool}

theorem coxRefused_outside (hp : regionOf a ≠ .periph)
    (hu : regionOf a = .unmapped ∨ regionOf (a + accBytes z - 1) = .unmapped) : s.coxRefused a z store = some 0x0102 := by
  unfold State.coxRefused
  exact (if_neg hp).trans (if_pos (by simpa using hu))

theorem coxRefused_part (hp : regionOf a = .periph) (hz : z ≠ .word ∨ a % 4 ≠ 0) :
    s.coxRefused a z store = some 0x0101 := by
  unfold State.coxRefused
  exact (if_pos hp).trans (if_pos (by simpa using hz))

/-- An aligned word access to a register; window 4 is read-only (R25). -/
theorem coxRefused_register (hp : regionOf a = .periph) (ha : a % 4 = 0) :
    s.coxRefused a .word store =
      if s.windowOn (winOf a) = false then some 0x0104
      else if store = true ∧ winOf a = 4 then some 0x0103 else none := by
  unfold State.coxRefused
  simp [hp, ha]

/-- An access that lies in one region of memory; boot ROM and MRAM are read-only. -/
theorem coxRefused_memory (hp : regionOf a ≠ .periph) (hu : regionOf a ≠ .unmapped)
    (he : regionOf (a + accBytes z - 1) = regionOf a) :
    s.coxRefused a z store =
      if s.domainOn (regionDomain (regionOf a)) = false then some 0x0104
      else if store = true ∧ (regionOf a = .bootRom ∨ regionOf a = .mram0 ∨ regionOf a = .mram1) then some 0x0103
      else none := by
  unfold State.coxRefused
  simp [hp, hu, he, or_assoc]

/-! ### What a store and a load do, by their region (R25 to R27, R434) -/
theorem coxStore_refused {c : Nat} (h : s.coxRefused a z true = some c) : s.coxStore a z v = s.coxBusFault c a := by
  unfold State.coxStore
  rw [h]

theorem coxLoad_refused {c : Nat} (h : s.coxRefused a z false = some c) : s.coxLoad a z = (0, s.coxBusFault c a) := by
  unfold State.coxLoad
  rw [h]

/-- An access that is refused as a store and as a load. -/
theorem cox_refused {c : Nat} (h : ∀ store, s.coxRefused a z store = some c) :
    s.coxStore a z v = s.coxBusFault c a ∧ s.coxLoad a z = (0, s.coxBusFault c a) :=
  ⟨coxStore_refused (h true), coxLoad_refused (h false)⟩

theorem coxStore_register (h : s.coxRefused a z true = none) (hp : regionOf a = .periph) :
    s.coxStore a z v = s.regWrite s.coxPin a v := by
  unfold State.coxStore
  rw [h, hp]
  rfl

theorem coxLoad_register (h : s.coxRefused a z false = none) (hp : regionOf a = .periph) :
    s.coxLoad a z = s.regRead a := by
  unfold State.coxLoad
  rw [h, hp]

theorem coxStore_sigMap (h : s.coxRefused a z true = none) (hr : regionOf a = .sigMap) :
    s.coxStore a z v = s.fault 0x0A0D 0 := by
  unfold State.coxStore
  rw [h, hr]

theorem coxStore_coxRam (h : s.coxRefused a z true = none) (hr : regionOf a = .coxRam)
    (he : regionOf (a + accBytes z - 1) = regionOf a) : s.coxStore a z v = s.wrN a (accBytes z) v.toNat := by
  unfold State.coxStore
  dsimp only
  rw [h, he, hr]

theorem coxStore_sram (h : s.coxRefused a z true = none) (hr : regionOf a = .sramL ∨ regionOf a = .sramH)
    (he : regionOf (a + accBytes z - 1) = regionOf a) (hok : (s.sramStore a (accBytes z) v.toNat).1 = true) :
    s.coxStore a z v = (s.sramStore a (accBytes z) v.toNat).2 := by
  unfold State.coxStore
  dsimp only
  rw [h, he]
  rcases hr with hr | hr <;> rw [hr] <;> exact if_pos hok

theorem coxLoad_plain (h : s.coxRefused a z false = none)
    (hr : regionOf a = .mram0 ∨ regionOf a = .mram1 ∨ regionOf a = .coxRam) :
    s.coxLoad a z = (BitVec.ofNat 32 (s.rdN a (accBytes z)), s) := by
  unfold State.coxLoad
  rw [h]
  rcases hr with hr | hr | hr <;> rw [hr]

/-- A load from SRAM returns the value, or 0 where an uncorrectable word is touched (R27). -/
theorem coxLoad_sram (h : s.coxRefused a z false = none) (hr : regionOf a = .sramL ∨ regionOf a = .sramH) :
    s.coxLoad a z = (((s.sramLoad a (accBytes z)).1.map (BitVec.ofNat 32)).getD 0,
      if (s.sramLoad a (accBytes z)).1.isSome then (s.sramLoad a (accBytes z)).2
      else (s.sramLoad a (accBytes z)).2.coxBusFault 0x0106 a) := by
  unfold State.coxLoad
  rw [h]
  dsimp only
  generalize s.sramLoad a (accBytes z) = r
  obtain ⟨x, t⟩ := r
  rcases hr with hr | hr <;> rw [hr] <;> cases x <;> rfl

/-! ### What a write does to the words of registers (R9 to R11) -/
theorem regWrite_noRegister {m : Nat → Bool} (h : findRow a = none) : s.regWrite m a v = s := by
  unfold State.regWrite
  rw [h]

theorem regRead_noRegister (h : findRow a = none) : s.regRead a = (0, s) := by
  unfold State.regRead
  rw [h]

/-- The windows without side effects. -/
theorem regWrite_plainWindow {m : Nat → Bool} {r : RegRow} (h : findRow a = some r) (hw : winOf a = 3 ∨ winOf a = 16) :
    s.regWrite m a v = (s.takeWord a v).2.plainWrite r a (s.takeWord a v).1 := by
  unfold State.regWrite
  rw [h]
  rcases hw with hw | hw <;> rw [hw] <;> rfl

theorem takeWord_row {r : RegRow} (h : findRow a = some r) :
    s.takeWord a v = (v &&& ~~~(BitVec.ofNat 32 r.rsv ||| BitVec.ofNat 32 (r.w1c &&& mget 0 s.raised a)),
      if v &&& BitVec.ofNat 32 r.rsv = 0 then s else s.countRsv (winOf a)) := by
  unfold State.takeWord
  rw [h]

/-- A write is counted where a reserved field is not 0 (R10). -/
theorem takeWord_counts {r : RegRow} (h : findRow a = some r) :
    (v &&& BitVec.ofNat 32 r.rsv = 0 → (s.takeWord a v).2 = s) ∧
    (v &&& BitVec.ofNat 32 r.rsv ≠ 0 → (s.takeWord a v).2 = s.countRsv (winOf a)) := by
  rw [takeWord_row h]
  exact ⟨fun hz => if_pos hz, fun hz => if_neg hz⟩

theorem getLsbD_takeWord {r : RegRow} (h : findRow a = some r) {k : Nat} (hk : k < 32) :
    (s.takeWord a v).1.getLsbD k =
      (v.getLsbD k && !(r.rsv.testBit k || r.w1c.testBit k && (mget 0 s.raised a).testBit k)) := by
  rw [takeWord_row h]
  simp only [BitVec.getLsbD_and, BitVec.getLsbD_or, BitVec.getLsbD_not, BitVec.getLsbD_ofNat, Nat.testBit_and, hk,
    decide_true, Bool.true_and]

theorem getLsbD_plain (r : RegRow) (x y : Word) {k : Nat} (hk : k < 32) :
    (r.plain x y).getLsbD k =
      (x.getLsbD k && !(r.rw.testBit k || r.w1c.testBit k) || y.getLsbD k && r.rw.testBit k ||
        x.getLsbD k && r.w1c.testBit k && !y.getLsbD k) := by
  unfold RegRow.plain
  simp only [BitVec.getLsbD_and, BitVec.getLsbD_or, BitVec.getLsbD_not, BitVec.getLsbD_ofNat, hk, decide_true,
    Bool.true_and]

/-- A bit of a written word, by its access code (R9). -/
theorem getLsbD_plain_rules (r : RegRow) (x y : Word) {k : Nat} (hk : k < 32) :
    (r.rw.testBit k = true → r.w1c.testBit k = false → (r.plain x y).getLsbD k = y.getLsbD k) ∧
    (r.rw.testBit k = false → r.w1c.testBit k = true → (r.plain x y).getLsbD k = (x.getLsbD k && !y.getLsbD k)) ∧
    (r.rw.testBit k = false → r.w1c.testBit k = false → (r.plain x y).getLsbD k = x.getLsbD k) := by
  rw [getLsbD_plain r x y hk]
  exact ⟨fun h g => by simp [h, g], fun h g => by simp [h, g], fun h g => by simp [h, g]⟩

theorem rd_plainWrite_other {r : RegRow} {b : Nat} (h : b ≠ a) : (s.plainWrite r a v).rd b = s.rd b :=
  rd_wr_other s _ h

/-! ### Accesses with the domain on -/
theorem cox_register_access (hp : regionOf a = .periph) (ha : a % 4 = 0) (hw : s.windowOn (winOf a) = true) :
    (winOf a = 4 → s.coxStore a .word v = s.coxBusFault 0x0103 a) ∧
    (winOf a ≠ 4 → s.coxStore a .word v = s.regWrite s.coxPin a v) ∧ s.coxLoad a .word = s.regRead a := by
  refine ⟨fun h4 => coxStore_refused ?_, fun h4 => coxStore_register ?_ hp, coxLoad_register ?_ hp⟩
  · rw [coxRefused_register hp ha, if_neg (by simp [hw]), if_pos ⟨rfl, h4⟩]
  · rw [coxRefused_register hp ha, if_neg (by simp [hw]), if_neg (fun h => h4 h.2)]
  · rw [coxRefused_register hp ha, if_neg (by simp [hw]), if_neg (by simp)]

/-- With its domain on, a load is never refused, and a store only where memory is read-only. -/
theorem coxRefused_memory_on (hp : regionOf a ≠ .periph) (hu : regionOf a ≠ .unmapped)
    (he : regionOf (a + accBytes z - 1) = regionOf a) (hd : s.domainOn (regionDomain (regionOf a)) = true)
    (hs : store = true → regionOf a ≠ .bootRom ∧ regionOf a ≠ .mram0 ∧ regionOf a ≠ .mram1) :
    s.coxRefused a z store = none := by
  rw [coxRefused_memory hp hu he, if_neg (by simp [hd]), if_neg]
  rintro ⟨ht, hr⟩
  obtain ⟨h0, h1, h2⟩ := hs ht
  simp [h0, h1, h2] at hr

theorem coxStore_readOnly (hp : regionOf a ≠ .periph) (hu : regionOf a ≠ .unmapped)
    (he : regionOf (a + accBytes z - 1) = regionOf a) (hd : s.domainOn (regionDomain (regionOf a)) = true)
    (hr : regionOf a = .bootRom ∨ regionOf a = .mram0 ∨ regionOf a = .mram1) :
    s.coxStore a z v = s.coxBusFault 0x0103 a :=
  coxStore_refused (by rw [coxRefused_memory hp hu he, if_neg (by simp [hd]), if_pos ⟨rfl, hr⟩])

end

/-- Settles O58: whether the access is refused comes first, then what its region or its register's row does with it. -/
theorem registerWrites : Obligations.RegisterWrites := by
  refine ⟨fun _ _ _ _ => rfl, fun _ _ _ => rfl, fun s a z v hp hu => cox_refused fun _ => coxRefused_outside hp hu,
    fun s a z v hp => ⟨fun hz => cox_refused fun _ => coxRefused_part hp hz, ?windowOff, ?windowOn⟩,
    fun s a z v hp hu he => ⟨fun hd => cox_refused fun _ => ?memoryOff, fun hd => ?memoryOn⟩,
    fun s m a v h => ⟨regWrite_noRegister h, regRead_noRegister h⟩,
    fun s m a v r h hw => regWrite_plainWindow h hw, fun s a v r h => ?written,
    fun r x y k hk => getLsbD_plain_rules r x y hk, fun s r a b v h => rd_plainWrite_other h⟩
  case windowOff =>
    rintro rfl ha hw
    exact cox_refused fun _ => by rw [coxRefused_register hp ha, if_pos hw]
  case windowOn =>
    rintro rfl ha hw
    exact cox_register_access hp ha hw
  case memoryOff => rw [coxRefused_memory hp hu he, if_pos hd]
  case memoryOn =>
    have load : s.coxRefused a z false = none := coxRefused_memory_on hp hu he hd (by simp)
    have store (r : Region) (hr : regionOf a = r) (h : r ≠ .bootRom ∧ r ≠ .mram0 ∧ r ≠ .mram1) :
        s.coxRefused a z true = none := coxRefused_memory_on hp hu he hd (fun _ => hr ▸ h)
    refine ⟨coxStore_readOnly hp hu he hd, coxLoad_plain load, fun hr => coxStore_sigMap (store _ hr (by decide)) hr,
      fun hr => coxStore_coxRam (store _ hr (by decide)) hr he, fun hr => ⟨fun hok => ?_, fun h => ?_, fun x h => ?_⟩⟩
    · have hs : s.coxRefused a z true = none := hr.elim (store _ · (by decide)) (store _ · (by decide))
      exact coxStore_sram hs hr he hok
    · simp [coxLoad_sram load hr, h]
    · simp [coxLoad_sram load hr, h]
  case written =>
    obtain ⟨hzero, hcount⟩ := takeWord_counts (s := s) (v := v) h
    exact ⟨hzero, hcount, fun k hk => getLsbD_takeWord h hk⟩

/-! ### A step -/
/-- Settles O1: a step looks at the queue and nothing else. -/
theorem stepRunsFront : Obligations.StepRunsFront := by
  intro c l s h
  unfold step
  rw [h]

/-! ### What reset leaves -/
/-- No register has been written (R11). -/
theorem rd_reset (a : Nat) : State.reset.rd a = resetVal a := rfl

/-- No resource is claimed (R32). -/
theorem ownerOf_reset (r : Nat) : State.reset.ownerOf r = 0 := rfl

/-- Settles O3: the register list is empty, so a register reads its table's reset value. -/
theorem resetQueueMemory : Obligations.ResetQueueMemory := by
  refine ⟨rfl, rfl, rd_reset, ownerOf_reset, ?pair, ?crews, ?id⟩
  case pair => decide
  case crews => decide
  case id => decide

end Sys2Proof.Machine
end

/-! The proofs of the statements on the architecture (spec/01_architecture.md): the invariant of a step, the claim table, the
DMA descriptors, the fault table, and the stores, signal accesses and claims of the engines. -/
section
namespace Sys2Proof.Machine

/-! ### The invariant (R38, R327, R337, R362, R480, R483) -/
/-- Settles O4: at reset every list of the invariant is empty. -/
theorem resetInvariant : Obligations.ResetInvariant :=
  { mem := reset_wf, regs := rfl, faults := Nat.zero_le _, logBuf := Nat.zero_le _, maintQ := Nat.zero_le _
    mpRx := Nat.zero_le _, reasm := Nat.zero_le _, accHist := Nat.zero_le _ }

theorem step_idle {s : State} (h : s.pending = []) : step s = .next (s.advance 1) := by
  unfold step
  rw [h]

/-- Settles O2: the queue is empty, so that no command acts. -/
theorem stepIdlePasses : Obligations.StepIdlePasses :=
  fun s h => ⟨step_idle h, advance_now s 1⟩

/-- A step completes, and keeps from the state without its front command what every command keeps. -/
theorem goes_step (s : State) : Goes { s with pending := s.pending.drop 1 } (step s) := by
  cases hp : s.pending with
  | nil =>
    rw [step_idle hp]
    refine goes_next (keeps_advance ⟨?_, Nat.le_refl _, Nat.le_refl _, fun i => ?_⟩)
    · exact hp
    · exact ⟨i.mem, i.regs, i.faults, i.logBuf, i.maintQ, i.mpRx, i.reasm, i.accHist⟩
  | cons c l =>
    rw [stepRunsFront c l s hp]
    exact goes_exec c (Keeps.refl _)

/-- Settles O5: taking the front command off the queue touches no other field, and what follows is one command or the passing
of time. -/
theorem stepKeepsInvariant : Obligations.StepKeepsInvariant := by
  intro s t hs ht
  obtain ⟨u, hu, hk⟩ := goes_step s
  obtain rfl : u = t := Host.Outcome.next.inj (hu.symm.trans ht)
  have hs' : State.Inv { s with pending := s.pending.drop 1 } :=
    ⟨hs.mem, hs.regs, hs.faults, hs.logBuf, hs.maintQ, hs.mpRx, hs.reasm, hs.accHist⟩
  exact ⟨hk.inv hs', hk.now, hk.freeCount, hk.pending⟩

/-! ### The claim table (R32 to R34) -/
@[simp] theorem ownerOf_setOwner_same (s : State) (r o : Nat) : (s.setOwner r o).ownerOf r = o :=
  mget_mset_same 0 s.claims r o

theorem ownerOf_setOwner_other (s : State) {r q : Nat} (o : Nat) (h : q ≠ r) : (s.setOwner r o).ownerOf q = s.ownerOf q :=
  mget_mset_other 0 0 s.claims o h

/-- Freeing a resource, a DMA descriptor too, leaves its owner cleared and no other owner changed. -/
theorem ownerOf_freeRes (s : State) (r q : Nat) : (s.freeRes r).ownerOf q = (s.setOwner r 0).ownerOf q := by
  unfold State.freeRes
  dsimp only
  split
  · rfl
  · split <;> rfl

section
variable {s : State} {owner res : Nat}

theorem claimOp_invalid (release : Bool) (h : validRes res = false) : s.claimOp release owner res = (.badId, s) :=
  if_pos (by rw [h]; rfl)

theorem claimOp_valid (release : Bool) (h : validRes res = true) : s.claimOp release owner res =
    if release then (if s.ownerOf res = owner then (.done, s.freeRes res) else (.notOwner, s))
    else if s.ownerOf res = 0 then (.done, s.setOwner res owner)
    else if s.ownerOf res = owner then (.done, s) else (.conflict, s) :=
  if_neg (by rw [h]; decide)

variable (h : validRes res = true)
include h

theorem claimOp_release_held (ho : s.ownerOf res = owner) : s.claimOp true owner res = (.done, s.freeRes res) := by
  rw [claimOp_valid true h, if_pos rfl, if_pos ho]

theorem claimOp_release_notHeld (ho : s.ownerOf res ≠ owner) : s.claimOp true owner res = (.notOwner, s) := by
  rw [claimOp_valid true h, if_pos rfl, if_neg ho]

theorem claimOp_claim_free (hf : s.ownerOf res = 0) : s.claimOp false owner res = (.done, s.setOwner res owner) := by
  rw [claimOp_valid false h, if_neg (by decide), if_pos hf]

theorem claimOp_claim_held (hf : s.ownerOf res ≠ 0) (ho : s.ownerOf res = owner) : s.claimOp false owner res = (.done, s) := by
  rw [claimOp_valid false h, if_neg (by decide), if_neg hf, if_pos ho]

theorem claimOp_claim_conflict (hf : s.ownerOf res ≠ 0) (ho : s.ownerOf res ≠ owner) :
    s.claimOp false owner res = (.conflict, s) := by
  rw [claimOp_valid false h, if_neg (by decide), if_neg hf, if_neg ho]
end

/-- What a request leaves: the state as it was, or its resource with another owner. -/
theorem claimOp_state (s : State) (release : Bool) (owner res : Nat) :
    (s.claimOp release owner res).2 = s ∨ (s.claimOp release owner res).2 = s.freeRes res ∨
      (s.claimOp release owner res).2 = s.setOwner res owner := by
  cases h : validRes res with
  | false => exact .inl (by rw [claimOp_invalid release h])
  | true =>
    rw [claimOp_valid release h]
    split
    · split
      · exact .inr (.inl rfl)
      · exact .inl rfl
    · split
      · exact .inr (.inr rfl)
      · split <;> exact .inl rfl

theorem ownerOf_claimOp_other (s : State) (release : Bool) (owner : Nat) {res q : Nat} (h : q ≠ res) :
    (s.claimOp release owner res).2.ownerOf q = s.ownerOf q := by
  obtain e | e | e := claimOp_state s release owner res <;> rw [e]
  · rw [ownerOf_freeRes, ownerOf_setOwner_other s 0 h]
  · exact ownerOf_setOwner_other s owner h

/-- Settles O7: one lemma for each answer of the table. -/
theorem claimTableRule : Obligations.ClaimTableRule := by
  refine ⟨fun s release owner res h => claimOp_invalid release h, fun s owner res h hne => ⟨fun hf => ?free, fun ho => ?again,
    fun hf ho => claimOp_claim_conflict h hf ho, fun ho => claimOp_release_notHeld h ho, fun ho => ?release,
    fun release q hq => ownerOf_claimOp_other s release owner hq⟩⟩
  case free =>
    rw [claimOp_claim_free h hf]
    exact ⟨rfl, ownerOf_setOwner_same s res owner⟩
  case again => exact claimOp_claim_held h (ho ▸ hne) ho
  case release =>
    rw [claimOp_release_held h ho]
    exact ⟨rfl, (ownerOf_freeRes s res res).trans (ownerOf_setOwner_same s res 0)⟩

/-! ### The fault table (R38) -/
/-- An entry of the fault table counts one more occurrence where `p` holds. -/
def FaultRec.countWhere (p : FaultRec → Bool) (e : FaultRec) : FaultRec :=
  if p e then { e with count := min 255 (e.count + 1) } else e

/-- Counting changes no other field of an entry, and never counts down below 255. -/
theorem countWhere_fields (p : FaultRec → Bool) (e : FaultRec) :
    (e.countWhere p).code = e.code ∧ (e.countWhere p).inst = e.inst ∧ (e.countWhere p).sec = e.sec ∧
      (e.countWhere p).ns = e.ns ∧ (e.count ≤ 255 → e.count ≤ (e.countWhere p).count ∧ (e.countWhere p).count ≤ 255) := by
  unfold FaultRec.countWhere
  split
  · exact ⟨rfl, rfl, rfl, rfl, fun h => ⟨Nat.le_min.2 ⟨h, Nat.le_succ _⟩, Nat.min_le_left _ _⟩⟩
  · exact ⟨rfl, rfl, rfl, rfl, fun h => ⟨Nat.le_refl _, h⟩⟩

@[simp] theorem countWhere_code (p : FaultRec → Bool) (e : FaultRec) : (e.countWhere p).code = e.code :=
  (countWhere_fields p e).1

@[simp] theorem countWhere_inst (p : FaultRec → Bool) (e : FaultRec) : (e.countWhere p).inst = e.inst :=
  (countWhere_fields p e).2.1

@[simp] theorem logRec_faults (s : State) (k c i d : Nat) : (s.logRec k c i d).faults = s.faults := by
  unfold State.logRec; split <;> rfl

@[simp] theorem logRec_tasks (s : State) (k c i d : Nat) : (s.logRec k c i d).tasks = s.tasks := by
  unfold State.logRec; split <;> rfl

theorem hasFault_iff (s : State) (code inst : Nat) :
    s.faults.any (fun e => e.code == code && e.inst == inst) = true ↔ s.hasFault code inst := by
  simp only [State.hasFault, List.any_eq_true, Bool.and_eq_true, beq_iff_eq]

theorem not_hasFault_iff (s : State) (code inst : Nat) :
    ¬ s.hasFault code inst ↔ ∀ e ∈ s.faults, e.code ≠ code ∨ e.inst ≠ inst := by
  constructor
  · intro h e he
    exact Decidable.not_and_iff_not_or_not.1 fun hc => h ⟨e, he, hc⟩
  · rintro h ⟨e, he, hcode, hinst⟩
    exact (h e he).elim (fun hn => hn hcode) (fun hn => hn hinst)

/-- What entering a fault does to the fault table: with room and no entry of that fault it appends one and answers true, else
it answers false and only counts. -/
theorem enterFault_cases (s : State) (code inst : Nat) :
    (¬ s.hasFault code (inst % 256) ∧ s.faults.length < 64 ∧ (s.enterFault code inst).1 = true ∧
      ∃ e : FaultRec, e.code = code ∧ e.inst = inst % 256 ∧ (s.enterFault code inst).2.faults = s.faults ++ [e]) ∨
    ((s.hasFault code (inst % 256) ∨ 64 ≤ s.faults.length) ∧ (s.enterFault code inst).1 = false ∧
      ∃ p, (s.enterFault code inst).2.faults = s.faults.map (FaultRec.countWhere p)) := by
  unfold State.enterFault
  dsimp only
  split
  · next hk => exact .inr ⟨.inl ((hasFault_iff s _ _).1 hk), rfl, _, rfl⟩
  · next hk =>
    split
    · next hroom => exact .inl ⟨fun h => hk ((hasFault_iff s _ _).2 h), hroom, rfl, _, rfl, rfl, logRec_faults _ _ _ _ _⟩
    · next hfull =>
      have full : 64 ≤ s.faults.length := Nat.le_of_not_lt hfull
      split
      · exact .inr ⟨.inr full, rfl, _, rfl⟩
      · refine .inr ⟨.inr full, rfl, fun _ => false, ?_⟩
        have same : s.faults.map (FaultRec.countWhere fun _ => false) = s.faults := List.map_id _
        rw [same]
        split <;> rfl

theorem enterFault_new_iff (s : State) (code inst : Nat) : (s.enterFault code inst).1 = true ↔
    s.faults.length < 64 ∧ ∀ e ∈ s.faults, e.code ≠ code ∨ e.inst ≠ inst % 256 := by
  rw [← not_hasFault_iff]
  obtain ⟨hk, hroom, hnew, -⟩ | ⟨h, hnew, -⟩ := enterFault_cases s code inst <;> rw [hnew]
  · exact ⟨fun _ => ⟨hroom, hk⟩, fun _ => rfl⟩
  · exact ⟨fun h => Bool.noConfusion h, fun ⟨hroom, hk⟩ => (h.elim hk (Nat.not_le.2 hroom)).elim⟩

theorem enterFault_pairwise (s : State) (code inst : Nat)
    (h : s.faults.Pairwise (fun e f => e.code ≠ f.code ∨ e.inst ≠ f.inst)) :
    (s.enterFault code inst).2.faults.Pairwise (fun e f => e.code ≠ f.code ∨ e.inst ≠ f.inst) := by
  obtain ⟨-, -, hnew, e, hcode, hinst, hl⟩ | ⟨-, -, p, hl⟩ := enterFault_cases s code inst <;> rw [hl]
  · have other := ((enterFault_new_iff s code inst).1 hnew).2
    rw [List.pairwise_append]
    refine ⟨h, List.pairwise_singleton _ _, fun x hx y hy => ?_⟩
    rw [List.mem_singleton.1 hy, hcode, hinst]
    exact other x hx
  · rw [List.pairwise_map]
    simpa only [countWhere_code, countWhere_inst] using h

theorem enterFault_bound (s : State) (code inst : Nat) (h : s.faults.length ≤ 64) :
    (s.enterFault code inst).2.faults.length ≤ 64 := by
  obtain ⟨-, hroom, -, e, -, -, hl⟩ | ⟨-, -, p, hl⟩ := enterFault_cases s code inst <;> rw [hl]
  · rw [List.length_append, List.length_singleton]; omega
  · rw [List.length_map]; exact h

/-- No entry is lost: it stands on as it was, or with one occurrence more. -/
theorem enterFault_mem_of_mem (s : State) (code inst : Nat) {e : FaultRec} (he : e ∈ s.faults) :
    ∃ p, e.countWhere p ∈ (s.enterFault code inst).2.faults := by
  obtain ⟨-, -, -, x, -, -, hl⟩ | ⟨-, -, p, hl⟩ := enterFault_cases s code inst <;> rw [hl]
  · exact ⟨fun _ => false, List.mem_append_left _ he⟩
  · exact ⟨p, List.mem_map_of_mem he⟩

theorem enterFault_hasFault (s : State) (code inst : Nat) (hroom : s.faults.length < 64) :
    (s.enterFault code inst).2.hasFault code (inst % 256) := by
  obtain ⟨-, -, -, e, hcode, hinst, hl⟩ | ⟨h, -⟩ := enterFault_cases s code inst
  · exact ⟨e, hl ▸ List.mem_append_right _ (List.mem_singleton_self e), hcode, hinst⟩
  · obtain ⟨e, he, hcode, hinst⟩ := h.resolve_right (Nat.not_le.2 hroom)
    obtain ⟨p, hp⟩ := enterFault_mem_of_mem s code inst he
    exact ⟨_, hp, (countWhere_code p e).trans hcode, (countWhere_inst p e).trans hinst⟩

@[simp] theorem enterFault_tasks (s : State) (code inst : Nat) : (s.enterFault code inst).2.tasks = s.tasks := by
  unfold State.enterFault
  dsimp only
  split
  · rfl
  · split
    · exact logRec_tasks _ _ _ _ _
    · split
      · rfl
      · split <;> rfl

/-- Settles O30: a fault is appended or counted, and counting keeps the code, the source number and the time of an entry. -/
theorem faultTable : Obligations.FaultTable := by
  intro s code inst
  refine ⟨enterFault_pairwise s code inst, enterFault_bound s code inst, enterFault_new_iff s code inst,
    enterFault_hasFault s code inst, fun e he => ?_, enterFault_tasks s code inst, enterFault_mem s code inst⟩
  obtain ⟨p, hp⟩ := enterFault_mem_of_mem s code inst he
  exact ⟨_, hp, countWhere_fields p e⟩

/-! ### Requests at the claim table (R34, R35, R40) -/
theorem firstClaim_append_none {l : List ClaimReq} (x : ClaimReq) (h : firstClaim l = none) :
    firstClaim (l ++ [x]) = some x := by
  unfold firstClaim at h ⊢
  rw [List.foldl_append, h]
  rfl

theorem firstClaim_append_some {l : List ClaimReq} (x : ClaimReq) {y : ClaimReq} (h : firstClaim l = some y) :
    firstClaim (l ++ [x]) =
      if x.at0 < y.at0 || (x.at0 == y.at0 && x.owner < y.owner) then some x else some y := by
  unfold firstClaim at h ⊢
  rw [List.foldl_append, h]
  rfl

/-- Request q is not later than x, nor, come in the same cycle, of a higher owner code. -/
def ClaimReq.NotAfter (q x : ClaimReq) : Prop := q.at0 < x.at0 ∨ (q.at0 = x.at0 ∧ q.owner ≤ x.owner)

theorem ClaimReq.NotAfter.refl (q : ClaimReq) : q.NotAfter q := .inr ⟨rfl, Nat.le_refl _⟩

theorem ClaimReq.NotAfter.trans {a b c : ClaimReq} (h : a.NotAfter b) (g : b.NotAfter c) : a.NotAfter c := by
  unfold ClaimReq.NotAfter at *
  omega

/-- Of a request that has been chosen and a later one of the list, the choice takes the one that is not after the other. -/
theorem firstClaim_append_chosen {l : List ClaimReq} (x : ClaimReq) {y q : ClaimReq} (h : firstClaim l = some y)
    (hq : firstClaim (l ++ [x]) = some q) : (q = x ∧ x.NotAfter y) ∨ (q = y ∧ y.NotAfter x) := by
  rw [firstClaim_append_some x h] at hq
  unfold ClaimReq.NotAfter
  split at hq
  · next hlt =>
    simp only [Bool.or_eq_true, Bool.and_eq_true, decide_eq_true_eq, beq_iff_eq] at hlt
    exact .inl ⟨(Option.some.inj hq).symm, by omega⟩
  · next hge =>
    simp only [Bool.or_eq_true, Bool.and_eq_true, decide_eq_true_eq, beq_iff_eq] at hge
    exact .inr ⟨(Option.some.inj hq).symm, by omega⟩

theorem firstClaim_none {r : List ClaimReq} (h : firstClaim r.reverse = none) : r = [] := by
  cases r with
  | nil => rfl
  | cons x r =>
    rw [List.reverse_cons] at h
    cases hr : firstClaim r.reverse with
    | none => rw [firstClaim_append_none x hr] at h; cases h
    | some y => rw [firstClaim_append_some x hr] at h; split at h <;> cases h

/-- The induction is over the list from its end, as the choice goes through it from its front. -/
theorem firstClaim_reverse_first {r : List ClaimReq} {q : ClaimReq} (h : firstClaim r.reverse = some q) :
    q ∈ r ∧ ∀ x ∈ r, q.NotAfter x := by
  induction r generalizing q with
  | nil => cases h
  | cons x r ih =>
    rw [List.reverse_cons] at h
    rw [List.forall_mem_cons]
    cases hr : firstClaim r.reverse with
    | none =>
      obtain rfl : x = q := Option.some.inj ((firstClaim_append_none x hr).symm.trans h)
      rw [firstClaim_none hr]
      exact ⟨List.mem_cons_self, .refl x, fun z hz => absurd hz List.not_mem_nil⟩
    | some y =>
      obtain ⟨hy, hmin⟩ := ih hr
      obtain ⟨rfl, hxy⟩ | ⟨rfl, hyx⟩ := firstClaim_append_chosen x hr h
      · exact ⟨List.mem_cons_self, .refl q, fun z hz => hxy.trans (hmin z hz)⟩
      · exact ⟨List.mem_cons_of_mem x hy, hyx, hmin⟩

/-- The table takes a request that waits, and none that waits comes before it. -/
theorem firstClaim_first {l : List ClaimReq} {q : ClaimReq} (h : firstClaim l = some q) : q ∈ l ∧ ∀ x ∈ l, q.NotAfter x := by
  rw [← List.reverse_reverse l] at h
  obtain ⟨hq, hmin⟩ := firstClaim_reverse_first h
  exact ⟨List.mem_reverse.1 hq, fun x hx => hmin x (List.mem_reverse.2 hx)⟩

section
variable {s : State}

/-- A request of the Cox under one of its own codes waits, with BUSY set. -/
theorem claimReq_waits (release : Bool) {owner : Byte} (res : Nat) (hb : s.bit F.SYS_CLAIM_STAT_BUSY = false)
    (ho : owner = 1 ∨ owner = 0x40) : s.claimReq release owner.toNat res = State.putB { s with claimReqs := s.claimReqs ++
      [{ cox := true, release := release, owner := owner.toNat, res := res, at0 := s.now }] } F.SYS_CLAIM_STAT_BUSY true := by
  unfold State.claimReq
  rw [if_neg (by rw [hb]; decide), if_neg]
  rcases ho with rfl | rfl <;> decide

/-- Under another code it is refused at once. -/
theorem claimReq_refused (release : Bool) {owner : Byte} (res : Nat) (hb : s.bit F.SYS_CLAIM_STAT_BUSY = false)
    (h1 : owner ≠ 1) (h40 : owner ≠ 0x40) : s.claimReq release owner.toNat res =
      ((s.put F.SYS_CLAIM_STAT_RESULT 3).put F.SYS_CLAIM_STAT_HOLDER (s.ownerOf res)).fault 0x0112 res := by
  have n1 : owner.toNat ≠ 1 := fun h => h1 (BitVec.eq_of_toNat_eq h)
  have n40 : owner.toNat ≠ 0x40 := fun h => h40 (BitVec.eq_of_toNat_eq h)
  unfold State.claimReq
  rw [if_neg (by rw [hb]; decide), if_pos (by rw [decide_eq_true n1, decide_eq_true n40]; rfl)]

variable {q : ClaimReq} {r : ClaimRes} {u : State} (hq : firstClaim s.claimReqs = some q)
  (hr : State.claimOp { s with claimReqs := s.claimReqs.erase q } q.release q.owner q.res = (r, u))
include hq hr

/-- The request of the Cox is answered in SYS.CLAIM_STAT, and a refusal enters its fault. -/
theorem takeClaim_cox (hc : q.cox = true) (hp : q.pair = none) : s.takeClaim =
    let v := u.auxShow.trainPorts
    let t := ((v.putB F.SYS_CLAIM_STAT_BUSY false).put F.SYS_CLAIM_STAT_RESULT r.code).put F.SYS_CLAIM_STAT_HOLDER
      (v.ownerOf q.res)
    if r = .done then t else t.fault r.faultCode q.res := by
  unfold State.takeClaim
  rw [hq]
  dsimp only
  rw [hr]
  dsimp only
  rw [if_pos hc, hp]

/-- The request of a task whose pair waits for it is answered to the task. -/
theorem takeClaim_task {p : Nat} (hc : q.cox = false) (hp : q.pair = some p)
    (hw : (u.auxShow.trainPorts.pair p).claimWait = true) : s.takeClaim = u.auxShow.trainPorts.claimEnd p r q.res := by
  unfold State.takeClaim
  rw [hq]
  dsimp only
  rw [hr]
  dsimp only
  rw [if_neg (by rw [hc]; decide), hp]
  exact if_pos hw
end

/-! With the domain of its register on, a command of SYS is its operation. -/
section
variable {s : State}

theorem exec_claimReq (hu : s.up R.SYS_CLAIM_REQ) (owner : Byte) (res : BitVec 16) :
    exec (.claimReqClaim owner res) s = .next (s.claimReq false owner.toNat res.toNat) ∧
    exec (.claimReqRelease owner res) s = .next (s.claimReq true owner.toNat res.toNat) := by
  show execClaimReqClaim owner res s = _ ∧ execClaimReqRelease owner res s = _
  exact ⟨onReg_up hu, onReg_up hu⟩

theorem exec_dmaLenWrite (hu : s.up R.SYS_DMA_LEN) (len : BitVec 21) : exec (.dmaLenWrite len) s = .next (s.dmaLen len.toNat) := by
  show execDmaLenWrite len s = _
  exact onReg_up hu

theorem exec_cntClr (hu : s.up R.SYS_CNT_CLR) : exec .cntClrEcc s = .next s.clrEcc ∧ exec .cntClrOvf s = .next s.clrOvf ∧
    ∀ k, exec (.cntClrRetry k) s = .next (s.clrRetry k) := by
  show execCntClrEcc s = _ ∧ execCntClrOvf s = _ ∧ ∀ k, execCntClrRetry k s = _
  exact ⟨onReg_up hu, onReg_up hu, fun k => onReg_up hu⟩

/-- A length that meets the rules of R37 is committed with the staged base. -/
theorem dmaLen_ok {len : Nat} (h : s.dmaOk (s.get F.SYS_DMA_SEL_IDX) (s.get F.SYS_DMA_BASE_ADDR * 8) len = true) :
    s.dmaLen len = State.put
      { s with dma := mset (0, 0) s.dma (s.get F.SYS_DMA_SEL_IDX) (s.get F.SYS_DMA_BASE_ADDR * 8, len) } F.SYS_DMA_LEN_LEN len :=
  if_pos h

theorem dmaLen_refused {len : Nat} (h : s.dmaOk (s.get F.SYS_DMA_SEL_IDX) (s.get F.SYS_DMA_BASE_ADDR * 8) len = false) :
    s.dmaLen len = s.fault 0x0113 (s.get F.SYS_DMA_SEL_IDX) :=
  if_neg (by rw [h]; decide)
end

/-- Settles O8: with its domain on each command is its register's operation, and the table's choice is firstClaim's. -/
theorem sysCommands : Obligations.SysCommands := by
  refine ⟨fun s owner res hu hb ho => ?_, fun s owner res hu hb h1 h40 => ?_, fun l q h => firstClaim_first h,
    fun s q r u hq hc hp hr => congrArg _ (takeClaim_cox hq hr hc hp),
    fun s q r u p hq hc hp hr hw => congrArg _ (takeClaim_task hq hr hc hp hw),
    fun s len hu hok => ?_, fun s len hu hbad => ?_, fun s hu => exec_cntClr hu⟩
  · obtain ⟨hclaim, hrelease⟩ := exec_claimReq hu owner res
    exact ⟨by rw [hclaim, claimReq_waits false _ hb ho], by rw [hrelease, claimReq_waits true _ hb ho]⟩
  · rw [(exec_claimReq hu owner res).1, claimReq_refused false _ hb h1 h40]
  · rw [exec_dmaLenWrite hu, dmaLen_ok hok]
  · rw [exec_dmaLenWrite hu, dmaLen_refused hbad]

/-! ### Stores of the engines (R37, R44, R101, R102, R118) -/
theorem memTarget_dmem (s : State) {a n : Nat} (h : a + n ≤ 0x1E800) : s.memTarget a n = .dmem := if_pos h

section
variable {p : PairNo} {n : Nat} {base : Word} {imm : BitVec 15} {val : Word} {s : State} {key : Nat} {c : Ctx}

theorem storeI_misaligned (h : (base + sext15 imm).toNat % n ≠ 0) :
    storeI p n base imm val s key c = .trap s 0x0221 0 (base + sext15 imm) :=
  if_pos h

variable (h : (base + sext15 imm).toNat % n = 0)
include h

theorem storeI_noTarget (ht : s.memTarget (base + sext15 imm).toNat n = .bad) :
    storeI p n base imm val s key c = .trap s 0x0222 0 (base + sext15 imm) := by
  unfold storeI
  rw [if_neg (fun hne => hne h), ht]

theorem storeI_dmem {u : State} (ht : s.memTarget (base + sext15 imm).toNat n = .dmem)
    (hu : s.memStore p true (base + sext15 imm).toNat n = some u) :
    storeI p n base imm val s key c = .ok (u.dmemSet p (base + sext15 imm).toNat (leBytes n val.toNat)) c 1 .seq := by
  unfold storeI
  rw [if_neg (fun hne => hne h), ht]
  dsimp only
  rw [hu]

theorem storeI_uncorrectable (ht : s.memTarget (base + sext15 imm).toNat n = .dmem)
    (hu : s.memStore p true (base + sext15 imm).toNat n = none) : storeI p n base imm val s key c = .ue := by
  unfold storeI
  rw [if_neg (fun hne => hne h), ht]
  dsimp only
  rw [hu]

theorem storeI_foreign (ht : s.memTarget (base + sext15 imm).toNat n = .sram)
    (hf : s.dmaForeign (s.ownerCode key) (base + sext15 imm).toNat n = true) :
    storeI p n base imm val s key c = .trap s 0x0222 0 (base + sext15 imm) := by
  unfold storeI
  rw [if_neg (fun hne => hne h), ht]
  exact if_pos hf

theorem storeI_posted (ht : s.memTarget (base + sext15 imm).toNat n = .sram)
    (hf : s.dmaForeign (s.ownerCode key) (base + sext15 imm).toNat n = false) :
    storeI p n base imm val s key c = .ok (s.post p (.store (base + sext15 imm).toNat n val)) c 1 .seq := by
  unfold storeI
  rw [if_neg (fun hne => hne h), ht]
  exact if_neg (by rw [hf]; decide)
end

/-- Each form of R118 is the store of its width from its register; the float field of FSW is legal. -/
theorem exec_storeForms {p : PairNo} {gd gs1 : BitVec 5} {imm : BitVec 15} {x : Instr × Nat × (Ctx → Word)} (hf : fOk gd = true)
    (hx : x ∈ storeForms p gd gs1 imm) : ∃ op, ∀ s, exec x.1 s = storeOp op x.2.1 true x.2.2 p gd gs1 imm s := by
  simp only [storeForms, List.mem_cons, List.not_mem_nil, or_false] at hx
  rcases hx with rfl | rfl | rfl | rfl
  · exact ⟨0x28, fun s => rfl⟩
  · exact ⟨0x29, fun s => rfl⟩
  · exact ⟨0x2A, fun s => rfl⟩
  · exact ⟨0x2B, fun s => hf ▸ rfl⟩

section
variable (s : State) (p : PairNo)

theorem pair_dmemSet_same (a : Nat) (l : List Byte) :
    (s.dmemSet p a l).pair p = { s.pair p with dmem := memPut (s.pair p).dmem a l } :=
  mget_mset_same _ _ _ _

theorem pair_dmemSet_other (a : Nat) (l : List Byte) {q : Nat} (h : q ≠ p.val) : (s.dmemSet p a l).pair q = s.pair q :=
  mget_mset_other _ _ _ _ h

theorem cellAt_dmemSet_outside (a : Nat) (l : List Byte) {b : Nat} (h : b < a ∨ a + l.length ≤ b) :
    cellAt ((s.dmemSet p a l).pair p).dmem b = cellAt (s.pair p).dmem b := by
  rw [pair_dmemSet_same]
  exact mget_memPut_outside _ a l h

/-- The number that is stored is read back, cut to its bytes. -/
theorem cellWord_dmemSet (a n v : Nat) : cellWord ((s.dmemSet p a (leBytes n v)).pair p).dmem a n = v % 256 ^ n := by
  have stored : (List.range n).map (fun i => cellAt (memPut (s.pair p).dmem a (leBytes n v)) (a + i)) = leBytes n v := by
    refine List.ext_getElem (by rw [List.length_map, List.length_range, leBytes_length]) fun i h1 h2 => ?_
    rw [List.getElem_map, List.getElem_range]
    exact mget_memPut_inside _ a _ h2
  rw [pair_dmemSet_same]
  unfold cellWord
  rw [stored, leNat_leBytes]
end

/-- Settles O22: every form is a storeOp, whose effect is storeI's; DMEM is read back by the laws of memPut. -/
theorem onnusStores : Obligations.OnnusStores := by
  refine ⟨fun s p key gd gs1 imm hi hf x hx => ?forms, fun s p a n v => ?bytes, memStore_rule⟩
  case forms =>
    obtain ⟨op, hop⟩ := exec_storeForms hf hx
    unfold Traps Does
    simp only [hop]
    exact ⟨fun ha => runI_trap hi rfl rfl (storeI_misaligned ha),
      fun ha ht => runI_trap hi rfl rfl (storeI_noTarget ha ht),
      fun ha ht hd => runI_trap hi rfl rfl (storeI_foreign ha ht hd),
      fun ha hb u hu => runI_ok hi rfl rfl (storeI_dmem ha (memTarget_dmem s hb) hu),
      fun ha hb hu => runI_ue hi rfl rfl (storeI_uncorrectable ha (memTarget_dmem s hb) hu),
      fun ha ht hd => runI_ok hi rfl rfl (storeI_posted ha ht hd)⟩
  case bytes =>
    exact ⟨fun b hb => cellAt_dmemSet_outside s p a _ (by rw [leBytes_length]; exact hb), cellWord_dmemSet s p a n v,
      fun _ => rfl, fun _ _ => rfl, fun q hq => pair_dmemSet_other s p a _ hq⟩

/-! ### The signal map and claims of the engines (R35, R103, R126, R130) -/
/-- A free value lies in its range. -/
theorem freeIn_range (s : State) {lo hi : Nat} (h : lo ≤ hi) : lo ≤ (s.freeIn lo hi).1 ∧ (s.freeIn lo hi).1 ≤ hi := by
  have hlt : Config.freeNat s.freeCount % (hi - lo + 1) < hi - lo + 1 := Nat.mod_lt _ (Nat.succ_pos _)
  unfold State.freeIn
  dsimp only
  omega

/-- The state in which SIGRD and SIGRDI meet the entry at a: the queue has drained up to the last access to it, the number of
cycles is taken, and a single-bit error is corrected (R27, R103). -/
def State.sigArrive (s : State) (p a : Nat) : State :=
  ((s.drainTo p (fun e => e.isSig a)).freeIn 20 60).2.correctCe (sigCell a) 8

section
variable {p : PairNo} {gd : BitVec 5} {addr : Word} {s : State} {key : Nat} {c : Ctx}

theorem sigReadI_outside (h : 2 ^ 20 ≤ addr.toNat) : sigReadI p gd addr s key c = .trap s 0x0228 0 addr := if_pos h

variable (h : addr.toNat < 2 ^ 20)
include h

theorem sigReadI_uncorrectable (hu : (s.sigArrive p addr.toNat).eccUe.contains (sigCell addr.toNat) = true) :
    sigReadI p gd addr s key c = .trap ((s.sigArrive p addr.toNat).sigTouch addr.toNat) 0x0106 0 addr := by
  unfold sigReadI
  rw [if_neg (Nat.not_le.2 h)]
  exact if_pos hu

/-- Under Onnus 2 both words of the entry are read. -/
theorem sigReadI_words (hu : (s.sigArrive p addr.toNat).eccUe.contains (sigCell addr.toNat) = false) (ho : s.onnus1 key = false) :
    ∃ k, 20 ≤ k ∧ k ≤ 60 ∧ sigReadI p gd addr s key c = .ok (s.sigArrive p addr.toNat)
      ((c.setG gd ((s.sigArrive p addr.toNat).sigWords addr.toNat).1).setG (gd + 1)
        ((s.sigArrive p addr.toNat).sigWords addr.toNat).2) k .seq := by
  obtain ⟨hlo, hhi⟩ := freeIn_range (s.drainTo p (fun e => e.isSig addr.toNat)) (show 20 ≤ 60 by decide)
  refine ⟨_, hlo, hhi, ?_⟩
  unfold sigReadI
  rw [if_neg (Nat.not_le.2 h)]
  refine (if_neg (fun hc => Bool.false_ne_true (hu.symm.trans hc))).trans ?_
  dsimp only
  rw [ho]
  rfl
end

section
variable {s : State} {p : PairNo} {key : Nat} (hi : Issues p key s)
include hi

/-- SIGRD that names an even register. -/
theorem exec_sigrd {gd : BitVec 5} (gs1 : BitVec 5) (he : evenOk gd = true) : exec (.sigrd p gd gs1 0) s =
    (sigReadI p gd ((s.ctx key).gr gs1) s key (s.ctx key)).out s p key := by
  show execSigrd p gd gs1 0 s = _
  unfold execSigrd
  dsimp only
  rw [runI_issues hi (decide_eq_true rfl) (Bool.false_and _), if_neg (by rw [he, Bool.not_true, Bool.and_false]; decide)]
  rfl

theorem exec_sigrdi {gd : BitVec 5} (imm : BitVec 20) (he : evenOk gd = true) (ho : s.onnus1 key = false) :
    exec (.sigrdi p gd imm) s = (sigReadI p gd (imm.setWidth 32) s key (s.ctx key)).out s p key := by
  show execSigrdi p gd imm s = _
  exact runI_issues hi he ho

theorem exec_sigwr (gs1 gs2 : BitVec 5) :
    (4064 * 256 ≤ ((s.ctx key).gr gs1).toNat → Traps key (.sigwr p 0 gs1 gs2) s 0x0228 0 ((s.ctx key).gr gs1)) ∧
    (((s.ctx key).gr gs1).toNat < 4064 * 256 → Does p key (.sigwr p 0 gs1 gs2) s
      (s.post p (.sigwr ((s.ctx key).gr gs1).toNat ((s.ctx key).gr gs2))) (s.ctx key) 1) := by
  show (_ → execSigwr p 0 gs1 gs2 s = _) ∧ (_ → execSigwr p 0 gs1 gs2 s = _)
  exact ⟨fun ha => runI_trap hi rfl rfl (if_pos ha), fun ha => runI_ok hi rfl rfl (if_neg (Nat.not_le.2 ha))⟩

theorem exec_trigger (gs1 : BitVec 5) (ho : s.onnus1 key = false) :
    (2 ^ 20 ≤ ((s.ctx key).gr gs1).toNat → Traps key (.trigger p 0 gs1 0) s 0x0228 0 ((s.ctx key).gr gs1)) ∧
    (((s.ctx key).gr gs1).toNat < 2 ^ 20 → Does p key (.trigger p 0 gs1 0) s
      (s.post p (.trigger ((s.ctx key).gr gs1).toNat)) (s.ctx key) 1) := by
  show (_ → execTrigger p 0 gs1 0 s = _) ∧ (_ → execTrigger p 0 gs1 0 s = _)
  exact ⟨fun ha => runI_trap hi rfl ho (if_pos ha), fun ha => runI_ok hi rfl ho (if_neg (Nat.not_le.2 ha))⟩

theorem exec_claim (gs1 : BitVec 5) (ho : s.onnus1 key = false) : exec (.claim p 0 gs1 0) s =
    (claimI p false (bitsOf ((s.ctx key).gr gs1).toNat 15 0) s key).out s p key := by
  show execClaim p 0 gs1 0 s = _
  exact runI_issues hi rfl ho

theorem exec_release (gs1 : BitVec 5) (ho : s.onnus1 key = false) : exec (.release p 0 gs1 0) s =
    (claimI p true (bitsOf ((s.ctx key).gr gs1).toNat 15 0) s key).out s p key := by
  show execRelease p 0 gs1 0 s = _
  exact runI_issues hi rfl ho
end

section
variable {s : State} {p : PairNo} {key : Nat} (h : s.running p = some key) (res : Nat)
include h

/-- A claim that the table has taken completes in 10 to 40 cycles. -/
theorem claimEnd_done : ∃ k, 10 ≤ k ∧ k ≤ 40 ∧ s.claimEnd p .done res =
    State.retire { s.setPair p { s.pair p with claimWait := false } with freeCount := s.freeCount + 1 } p key
      ((s.ctx key).step .seq) k := by
  obtain ⟨hlo, hhi⟩ := freeIn_range (s.setPair p { s.pair p with claimWait := false }) (show 10 ≤ 40 by decide)
  refine ⟨_, hlo, hhi, ?_⟩
  have hrun : (s.setPair p { s.pair p with claimWait := false }).running p = some key := h
  unfold State.claimEnd
  dsimp only
  rw [hrun]
  rfl

/-- A claim that the table has refused traps. -/
theorem claimEnd_refused : let u := s.setPair p { s.pair p with claimWait := false }
    s.claimEnd p .conflict res = u.trap key 0x0224 0 (BitVec.ofNat 32 res) ∧
    s.claimEnd p .notOwner res = u.trap key 0x0111 0 (BitVec.ofNat 32 res) ∧
    s.claimEnd p .badId res = u.trap key 0x0112 0 (BitVec.ofNat 32 res) := by
  have hrun : (s.setPair p { s.pair p with claimWait := false }).running p = some key := h
  unfold State.claimEnd
  dsimp only
  rw [hrun]
  exact ⟨rfl, rfl, rfl⟩
end

/-- Settles O27: the effects of a signal access and of a claim, carried through the frame of an instruction that issues. -/
theorem onnusSignals : Obligations.OnnusSignals := by
  refine ⟨fun s p key gd gs1 hi he ho => ?sigrd, fun s p key gd imm hi he ho => ?sigrdi, fun s p key gs1 gs2 hi => ?writes,
    fun s p key gs1 hi ho => ?claims, fun s p key r res h => ?answers⟩
  case sigrd =>
    unfold Traps Does
    rw [exec_sigrd hi gs1 he]
    refine ⟨fun ha => ?_, fun ha hu => ?_, fun ha hu => ?_⟩
    · rw [sigReadI_outside ha]; rfl
    · rw [sigReadI_uncorrectable ha hu]; rfl
    · obtain ⟨k, hlo, hhi, hk⟩ := sigReadI_words (gd := gd) (c := s.ctx key) ha hu ho
      exact ⟨k, hlo, hhi, by rw [hk]; rfl⟩
  case sigrdi =>
    have ha : (imm.setWidth 32).toNat < 2 ^ 20 := by
      rw [BitVec.toNat_setWidth_of_le (by decide)]; exact imm.isLt
    unfold Does
    rw [exec_sigrdi hi imm he ho]
    refine ⟨fun hu => ?_, fun hu => ?_⟩
    · rw [sigReadI_uncorrectable ha hu]; rfl
    · obtain ⟨k, hlo, hhi, hk⟩ := sigReadI_words (gd := gd) (c := s.ctx key) ha hu ho
      exact ⟨k, hlo, hhi, by rw [hk]; rfl⟩
  case writes =>
    obtain ⟨hsigOut, hsig⟩ := exec_sigwr hi gs1 gs2
    exact ⟨hsigOut, hsig, fun ho => (exec_trigger hi gs1 ho).1, fun ho => (exec_trigger hi gs1 ho).2⟩
  case claims => exact ⟨exec_claim hi gs1 ho, exec_release hi gs1 ho⟩
  case answers =>
    obtain ⟨hconflict, hnotOwner, hbadId⟩ := claimEnd_refused h res
    exact ⟨fun hr => hr ▸ claimEnd_done h res, fun hr => hr ▸ hconflict, fun hr => hr ▸ hnotOwner, fun hr => hr ▸ hbadId⟩

end Sys2Proof.Machine
end

/-! The proofs of the statements on the Stroke engines (spec/02_stroke_engines.md), first part: retiring and trapping of
instructions, and swap requests of the coefficient store. -/
section
namespace Sys2Proof.Machine

/-! ### Records of tasks, pairs and loops: what a write leaves in each -/
@[simp] theorem task_setTask_same (s : State) (k : Nat) (v : TaskRec) : (s.setTask k v).task k = v :=
  mget_mset_same _ _ _ _

theorem task_setTask_other (s : State) {k j : Nat} (v : TaskRec) (h : j ≠ k) : (s.setTask k v).task j = s.task j :=
  mget_mset_other _ _ _ _ h

@[simp] theorem pair_setPair_same (s : State) (p : Nat) (v : PairRec) : (s.setPair p v).pair p = v :=
  mget_mset_same _ _ _ _

theorem pair_setPair_other (s : State) {p q : Nat} (v : PairRec) (h : q ≠ p) : (s.setPair p v).pair q = s.pair q :=
  mget_mset_other _ _ _ _ h

@[simp] theorem loop_setLoop_same (s : State) (i : Nat) (v : LoopRec) : (s.setLoop i v).loop i = v :=
  mget_mset_same _ _ _ _

theorem loop_setLoop_other (s : State) {i j : Nat} (v : LoopRec) (h : j ≠ i) : (s.setLoop i v).loop j = s.loop j :=
  mget_mset_other _ _ _ _ h

/-! ### Retiring an instruction (R54, R100) -/
section
variable (s : State) (p key : Nat) (c : Ctx) (cyc : Nat)

theorem task_retire_same : (s.retire p key c cyc).task key =
    { s.task key with ctx := c, budLeft := (s.task key).budLeft - cyc } :=
  task_setTask_same _ _ _

theorem task_retire_other {k : Nat} (h : k ≠ key) : (s.retire p key c cyc).task k = s.task k :=
  task_setTask_other _ _ h

theorem pair_retire_same : (s.retire p key c cyc).pair p = { s.pair p with cycle := (s.pair p).cycle + cyc } :=
  pair_setPair_same _ _ _

theorem pair_retire_other {q : Nat} (h : q ≠ p) : (s.retire p key c cyc).pair q = s.pair q :=
  pair_setPair_other _ _ h
end

/-- Settles O32: retiring writes the record of its task and that of its pair, and nothing else. -/
theorem retireFrame : Obligations.RetireFrame := by
  intro s p key c cyc
  unfold State.ctx
  rw [task_retire_same, pair_retire_same]
  exact ⟨rfl, rfl, rfl, fun k hk => task_retire_other s p key c cyc hk, fun q hq => pair_retire_other s p key c cyc hq,
    fun _ => rfl, fun _ _ => rfl, rfl, rfl, rfl⟩

/-! ### Traps (R55, R56, R104) -/
@[simp] theorem dropEvent_tasks (s : State) : s.dropEvent.tasks = s.tasks := by
  unfold State.dropEvent
  dsimp only
  split
  · exact (enterFault_tasks _ _ _).trans (enterFault_tasks { s with repLost := s.repLost + 1 } _ _)
  · exact enterFault_tasks { s with repLost := s.repLost + 1 } _ _

@[simp] theorem event_tasks (s : State) (k : Nat) (l : List Byte) : (s.event k l).tasks = s.tasks := by
  have flush : s.flushLost.tasks = s.tasks := by unfold State.flushLost; split <;> rfl
  unfold State.event
  dsimp only
  split
  · rfl
  · split
    · exact (dropEvent_tasks _).trans flush
    · exact flush

@[simp] theorem fault_tasks (s : State) (c i : Nat) : (s.fault c i).tasks = s.tasks := by
  unfold State.fault
  dsimp only
  split
  · exact (event_tasks _ _ _).trans (enterFault_tasks _ _ _)
  · exact enterFault_tasks _ _ _

theorem task_of_tasks {s t : State} (h : t.tasks = s.tasks) (k : Nat) : t.task k = s.task k := by unfold State.task; rw [h]

/-- The context that a trap leaves: TCAUSE, TPC and TVAL, the PC at RESUME, no loop (R104). -/
def Ctx.trapped (c : Ctx) (code soft : Nat) (tval : Word) : Ctx :=
  { c with tcause := BitVec.ofNat 32 (soft % 256 * 65536 + code), tpc := c.pc.setWidth 32, tval := tval,
           pc := c.resume.setWidth 16, lcnt := 0 }

/-- A task that has trapped, its activation not yet ended. -/
def TaskRec.trapped (t : TaskRec) (code soft : Nat) (tval : Word) : TaskRec :=
  { t with ctx := t.ctx.trapped code soft tval, lastFlt := code }

/-- A task whose activation has ended unclean at `now` (R52, R56, R57): one more in FCNT, and at FLIM it is disabled; below it
takes the event that is pending or waits for its next one. -/
def TaskRec.failed (t : TaskRec) (now : Nat) : TaskRec :=
  let u := { t with fcnt := min 15 (t.fcnt + 1), initial := false, unclean := false, lastEnd := now }
  if t.flim ≤ t.fcnt + 1 then { u with st := .disabled, lastFlt := 0x0213 }
  else if t.pend then ({ u with pend := false }).wake
  else { u with st := .waiting }

@[simp] theorem failed_ctx (t : TaskRec) (now : Nat) : (t.failed now).ctx = t.ctx := by
  unfold TaskRec.failed
  dsimp only
  split
  · rfl
  · split <;> rfl

theorem failed_limit {t : TaskRec} (now : Nat) (h : t.flim ≤ t.fcnt + 1) : (t.failed now).st = .disabled := by
  unfold TaskRec.failed
  rw [if_pos h]

theorem failed_below {t : TaskRec} (now : Nat) (h : t.fcnt + 1 < t.flim) :
    (t.failed now).fcnt = min 15 (t.fcnt + 1) ∧ (t.pend = false → (t.failed now).st = .waiting) := by
  unfold TaskRec.failed
  rw [if_neg (Nat.not_le.2 h)]
  refine ⟨?_, fun hp => ?_⟩
  · split <;> rfl
  · rw [if_neg (by rw [hp]; decide)]

section
variable {s : State} {key : Nat} (ho : (s.task key).src ≠ srcOrder) (hc : (s.task key).src ≠ srcCatch)
include ho hc

/-- The unclean end of an activation of a timer's or a signal's task changes that task alone. -/
theorem tasks_endActivation_unclean :
    (s.endActivation key false).tasks = (s.setTask key ((s.task key).failed s.now)).tasks := by
  unfold State.endActivation TaskRec.failed
  by_cases hl : (s.task key).flim ≤ (s.task key).fcnt + 1
  · rw [if_pos hl]
    refine (congrArg State.tasks ((if_pos (decide_eq_true hl)).trans ((if_neg hc).trans (if_neg ho)))).trans ?_
    rw [fault_tasks]
    rfl
  · rw [if_neg hl, apply_ite (s.setTask key)]
    refine congrArg State.tasks ((if_neg (fun h => hl (of_decide_eq_true h))).trans ?_)
    rfl

/-- Its trap writes the context as well. -/
theorem tasks_trap (code soft : Nat) (tval : Word) : ∃ now, (s.trap key code soft tval).tasks =
    ((s.setTask key ((s.task key).trapped code soft tval)).setTask key
      (((s.task key).trapped code soft tval).failed now)).tasks := by
  have ends : ∃ u : State, s.trap key code soft tval = u.endActivation key false ∧
      u.tasks = (s.setTask key ((s.task key).trapped code soft tval)).tasks := by
    refine ⟨(s.setTask key ((s.task key).trapped code soft tval)).fault code key, ?_, fault_tasks _ _ _⟩
    unfold State.trap
    exact congrArg (State.endActivation · key false) (if_neg ho)
  obtain ⟨u, htrap, hu⟩ := ends
  have trapped : u.task key = (s.task key).trapped code soft tval := (task_of_tasks hu key).trans (task_setTask_same _ _ _)
  refine ⟨u.now, ?_⟩
  rw [htrap, tasks_endActivation_unclean (by rw [trapped]; exact ho) (by rw [trapped]; exact hc), trapped]
  exact congrArg (mset {} · key _) hu
end

/-- Settles O29: a timer's or a signal's trap writes its task's context and ends the activation unclean. -/
theorem trapTakes : Obligations.TrapTakes := by
  intro s key code soft tval hsrc
  have ho : (s.task key).src ≠ srcOrder := by rcases hsrc with h | h <;> rw [h] <;> decide
  have hc : (s.task key).src ≠ srcCatch := by rcases hsrc with h | h <;> rw [h] <;> decide
  obtain ⟨now, tasks⟩ := tasks_trap ho hc code soft tval
  have self : (s.trap key code soft tval).task key = ((s.task key).trapped code soft tval).failed now :=
    (task_of_tasks tasks key).trans (task_setTask_same _ _ _)
  refine ⟨?ctx, fun hl => ?below, fun hl => ?limit, fun k hk => ?other⟩
  case ctx =>
    unfold State.ctx
    rw [self, failed_ctx]
    rfl
  case below =>
    rw [self]
    exact failed_below now hl
  case limit =>
    rw [self]
    exact failed_limit now hl
  case other => exact (task_of_tasks tasks k).trans ((task_setTask_other _ _ hk).trans (task_setTask_other _ _ hk))

/-! ### The coefficient store (R82, R84, R85) -/
section
variable (l : LoopRec) {i : Nat} (b : Bool) (hi : i < 32)
include hi

@[simp] theorem setCtrl_actB : (l.setCtrl i b).actB = if 9 = i then b else l.actB := setCtrl_flag l b 9 hi
@[simp] theorem setCtrl_pend : (l.setCtrl i b).pend = if 10 = i then b else l.pend := setCtrl_flag l b 10 hi
@[simp] theorem setCtrl_pbankB : (l.setCtrl i b).pbankB = if 11 = i then b else l.pbankB := setCtrl_flag l b 11 hi

theorem setCtrl_owner (h : 6 < i) : (l.setCtrl i b).owner = l.owner :=
  bitsOf_setField_apart _ _ (Nat.le_refl i) hi (.inl h)
end

/-- SATI and SATO stand apart from the other flags and the owner. -/
theorem saturation_flags (l : LoopRec) (sati sato : Bool) : ((l.setCtrl 14 sati).setCtrl 13 sato).actB = l.actB ∧
    ((l.setCtrl 14 sati).setCtrl 13 sato).pend = l.pend ∧ ((l.setCtrl 14 sati).setCtrl 13 sato).owner = l.owner := by
  refine ⟨by simp, by simp, ?_⟩
  rw [setCtrl_owner _ _ (by decide) (by decide), setCtrl_owner _ _ (by decide) (by decide)]

/-- A bumpless swap makes PBANK the active bank and takes PEND away, whatever KEEP says: the two bits that it sets beside are
SATI and SATO. -/
theorem swap_flags (l : LoopRec) : l.swap.actB = l.pbankB ∧ l.swap.pend = false := by
  have taken : ((l.setCtrl 9 l.pbankB).setCtrl 10 false).actB = l.pbankB ∧
      ((l.setCtrl 9 l.pbankB).setCtrl 10 false).pend = false := by simp
  unfold LoopRec.swap
  generalize (l.setCtrl 9 l.pbankB).setCtrl 10 false = m at taken ⊢
  dsimp only
  split
  · exact taken
  · obtain ⟨hact, hpend, -⟩ := saturation_flags { m with i := _, out := _ } _ _
    exact ⟨hact.trans taken.1, hpend.trans taken.2⟩

/-- A loop with a swap to bank b pending. -/
def LoopRec.request (l : LoopRec) (b : Bool) : LoopRec := (l.setCtrl 10 true).setCtrl 11 b

theorem request_owner (l : LoopRec) (b : Bool) : (l.request b).owner = l.owner :=
  (setCtrl_owner _ b (by decide) (by decide)).trans (setCtrl_owner l true (by decide) (by decide))

theorem request_flags (l : LoopRec) (b : Bool) : (l.request b).pend = true ∧ (l.request b).pbankB = b ∧ (l.request b).actB = l.actB := by
  unfold LoopRec.request
  simp

section
variable {s : State} {id : Nat} {b : Bool}

theorem swapReq_active (h : b = (s.loop id).actB) :
    s.swapReq id b = if (s.loop id).pend then s.setLoop id ((s.loop id).setCtrl 10 false) else s :=
  if_pos h

variable (h : b ≠ (s.loop id).actB)
include h

theorem swapReq_run (hr : (s.loop id).owner < 32 ∧ s.crewState (s.loop id).owner = cRUN) :
    s.swapReq id b = s.setLoop id ((s.loop id).request b) := by
  have owner : ((s.loop id).request b).owner = (s.loop id).owner := request_owner _ _
  unfold State.swapReq LoopRec.request at *
  dsimp only
  rw [if_neg h, owner, if_pos (by simpa using hr)]

theorem swapReq_atOnce (hr : ¬((s.loop id).owner < 32 ∧ s.crewState (s.loop id).owner = cRUN)) :
    s.swapReq id b = s.setLoop id ((s.loop id).request b).swap := by
  have owner : ((s.loop id).request b).owner = (s.loop id).owner := request_owner _ _
  unfold State.swapReq LoopRec.request at *
  dsimp only
  rw [if_neg h, owner, if_neg (by simpa using hr)]
end

/-- Whichever way a request is answered, it writes its own loop alone. -/
theorem swapReq_writes (s : State) (id : Nat) (b : Bool) : s.swapReq id b = s ∨ ∃ l, s.swapReq id b = s.setLoop id l := by
  by_cases h : b = (s.loop id).actB
  · rw [swapReq_active h]
    split
    · exact .inr ⟨_, rfl⟩
    · exact .inl rfl
  · by_cases hr : (s.loop id).owner < 32 ∧ s.crewState (s.loop id).owner = cRUN
    · exact .inr ⟨_, swapReq_run h hr⟩
    · exact .inr ⟨_, swapReq_atOnce h hr⟩

/-- Settles O14: one equation for each of the ways a request is answered, and the flags of the loop that it writes. -/
theorem swapRequest : Obligations.SwapRequest := by
  intro s id b
  refine ⟨fun h hp => ?same, fun h hp => ?cancel, fun h ho hr => ?wait, fun h hr => ?atOnce, fun k hk => ?other⟩
  case same => rw [swapReq_active h, if_neg (by rw [hp]; decide)]
  case cancel =>
    rw [swapReq_active h, if_pos hp, loop_setLoop_same]
    simp
  case wait =>
    rw [swapReq_run h ⟨ho, hr⟩, loop_setLoop_same]
    exact request_flags (s.loop id) b
  case atOnce =>
    rw [swapReq_atOnce h hr, loop_setLoop_same]
    obtain ⟨-, hpbank, -⟩ := request_flags (s.loop id) b
    obtain ⟨hact, hpend⟩ := swap_flags ((s.loop id).request b)
    exact ⟨hact.trans hpbank, hpend⟩
  case other =>
    obtain e | ⟨l, e⟩ := swapReq_writes s id b
    · rw [e]
    · rw [e, loop_setLoop_other _ l hk]

end Sys2Proof.Machine
end

/-! The proofs of the statements on the Stroke engines, second part: the takeover, the scheduling of tasks, the crew catch and the
checkpoint writer. -/
section
namespace Sys2Proof.Machine

/-! ### The takeover (R73, R74, R78, R91) -/
theorem pair_put (s : State) (f : Fld) (v k : Nat) : (s.put f v).pair k = s.pair k := rfl

@[simp] theorem setPairSt_pair (s : State) (q st k : Nat) : (s.setPairSt q st).pair k = s.pair k := by
  unfold State.setPairSt
  rw [showPairs_pair, pair_put]

/-- A pair's new state shows in the PAIR_STAT words and in SE.SPARE, in no other register. -/
theorem setPairSt_get (s : State) {q : Nat} (st : Nat) {f : Fld} (hq : q < 9) (hp : ∀ p, p < 9 → f.addr ≠ R.SE_PAIR_STAT p)
    (hs : f.addr ≠ R.SE_SPARE) : (s.setPairSt q st).get f = s.get f := by
  unfold State.setPairSt
  rw [showPairs_get _ f hp hs]
  unfold State.get
  rw [rd_put_other _ _ _ (hp q hq)]

theorem takeLast_apart {p : Nat} (hp : p < 9) : R.SE_TAKE_LAST ≠ R.SE_PAIR_STAT p := by unfold R.SE_TAKE_LAST R.SE_PAIR_STAT; omega

section
variable {s : State} {p home : Nat}

/-- The lowest spare becomes the host of the home pair, its restore begun (R73, R74). -/
theorem takeOver_spare {q : Nat}
    (h : (List.range 9).find? (fun q => s.pairSt q == pSPARE && s.domainRun (pairDomain q)) = some q) : s.takeOver p home =
      State.setPairSt (State.put (State.put (State.put
        (s.setPair q { s.pair q with testing := false, restoring := true, failed := p, failedAt := s.now })
        (F.SE_PAIR_STAT_HOME q) home) F.SE_TAKE_LAST_HOST q) F.SE_TAKE_LAST_HOME p) q pHOST := by
  unfold State.takeOver
  rw [h]

/-- Without a spare the home pair's tasks are lost and its crews stop (R78). -/
theorem takeOver_noSpare
    (h : (List.range 9).find? (fun q => s.pairSt q == pSPARE && s.domainRun (pairDomain q)) = none) : s.takeOver p home =
      loopL (s.homeCrews home) (fun n s => (s.setCrew n { s.crew n with takeover := false }).faultStop n 0x0205)
        ((((s.loseTasks home).put F.SE_TAKE_LAST_RESULT 2).put F.SE_TAKE_LAST_HOME p).fault 0x0205 p) := by
  unfold State.takeOver
  rw [h]
end

/-- SE.TAKE_LAST after both of its numbers have been written. -/
theorem get_takeLast (s : State) {host failed : Nat} (hh : host < 16) (hf : failed < 16) :
    ((s.put F.SE_TAKE_LAST_HOST host).put F.SE_TAKE_LAST_HOME failed).get F.SE_TAKE_LAST_HOST = host ∧
    ((s.put F.SE_TAKE_LAST_HOST host).put F.SE_TAKE_LAST_HOME failed).get F.SE_TAKE_LAST_HOME = failed := by
  have okHost : F.SE_TAKE_LAST_HOST.ok := ⟨by decide, by decide⟩
  have okHome : F.SE_TAKE_LAST_HOME.ok := ⟨by decide, by decide⟩
  refine ⟨?_, get_put_fits _ _ okHome hf⟩
  rw [get_put_apart _ _ _ _ okHome (.inr (.inl (by decide)))]
  exact get_put_fits _ _ okHost hh

/-- Settles O10: the two ways of a takeover, and what SE.TAKE_LAST and the host's record read after the first. -/
theorem takeOver : Obligations.TakeOver := by
  refine ⟨fun s p home q hp h => ?_, fun s p home h => takeOver_noSpare h⟩
  have hq : q < 9 := List.mem_range.1 (List.mem_of_find?_eq_some h)
  obtain ⟨hhost, hhome⟩ := get_takeLast (State.put
    (s.setPair q { s.pair q with testing := false, restoring := true, failed := p, failedAt := s.now })
    (F.SE_PAIR_STAT_HOME q) home) (show q < 16 by omega) hp
  have host : (s.takeOver p home).pair q =
      { s.pair q with testing := false, restoring := true, failed := p, failedAt := s.now } := by
    rw [takeOver_spare h, setPairSt_pair]
    exact pair_setPair_same _ _ _
  rw [host, takeOver_spare h]
  refine ⟨rfl, rfl, rfl, ?_, ?_⟩
  · rw [setPairSt_get _ _ hq (fun _ => takeLast_apart) (by decide)]
    exact hhost
  · rw [setPairSt_get _ _ hq (fun _ => takeLast_apart) (by decide)]
    exact hhome

/-! ### Scheduling (R51, R54, R57, R58, R60) -/
@[simp] theorem pair_spend_same (s : State) (p n : Nat) :
    (s.spend p n).pair p = { s.pair p with cycle := (s.pair p).cycle + n } :=
  pair_setPair_same _ _ _

theorem pair_spend_other (s : State) {p q : Nat} (n : Nat) (h : q ≠ p) : (s.spend p n).pair q = s.pair q :=
  pair_setPair_other _ _ h

@[simp] theorem task_spend (s : State) (p n k : Nat) : (s.spend p n).task k = s.task k := rfl

theorem startTask_clean {s : State} {p k : Nat} (hu : touchW (s.pair p).ue true (ctxSlot k) 384 = false)
    (hc : touchW (s.pair p).ce true (ctxSlot k) 384 = false) : s.startTask p k = (s.spend p 12).runTask k := by
  unfold State.startTask
  rw [memRead_clean hu hc]

theorem startTask_uncorrectable {s : State} {p k : Nat} (h : s.memRead p true (ctxSlot k) 384 = none) :
    s.startTask p k = s.pairFault p 0x0202 := by
  unfold State.startTask
  rw [h]

section
variable {s : State} {p : PairNo}

theorem exec_taskDispatch {k : Nat} (hr : s.pairRuns p = true) (hn : s.running p = none) (hk : s.nextReady p = some k) :
    exec (.taskDispatch p) s = .next (s.startTask p k) := by
  show execTaskDispatch p s = _
  unfold execTaskDispatch
  rw [if_pos (by rw [hr, hn]; rfl), hk]

variable (hw : (s.pair p).claimWait = false) (hr : s.pairRuns p = true)
include hw hr

theorem exec_taskPreempt {k r : Nat} (hrun : s.running p = some r) (hk : s.nextReady p = some k) : exec (.taskPreempt p) s =
    .next (if k < r then ((s.setTask r { s.task r with st := .ready }).spend p 12).startTask p k else s) := by
  show execTaskPreempt p s = _
  unfold execTaskPreempt
  rw [settleClaim_answered hw]
  dsimp only
  rw [if_pos hr, hrun, hk]
  dsimp only
  split <;> rfl

theorem exec_taskBudget {k : Nat} (hrun : s.running p = some k) (hb : (s.task k).budLeft = 0) :
    exec (.taskBudget p) s = .next (s.trap k 0x0211 0 0) := by
  show execTaskBudget p s = _
  unfold execTaskBudget
  rw [settleClaim_answered hw]
  dsimp only
  rw [if_pos hr, hrun]
  exact if_pos hb
end

/-- The state in which task k has preempted task r: both contexts have moved, in 24 cycles (R54, R58). -/
def State.preempted (s : State) (p r k : Nat) : State :=
  (((s.setTask r { s.task r with st := .ready }).spend p 12).spend p 12).runTask k

section
variable (s : State) {p r k : Nat} (h : k < r)
include h

theorem task_preempted : (s.preempted p r k).task r = { s.task r with st := .ready } ∧
    (s.preempted p r k).task k = { s.task k with st := .running, begun := true, budLeft := (s.task k).budLeft - 12 } ∧
    ∀ j, j ≠ r → j ≠ k → (s.preempted p r k).task j = s.task j := by
  have resumed : (s.setTask r { s.task r with st := .ready }).task k = s.task k := task_setTask_other s _ (Nat.ne_of_lt h)
  refine ⟨?_, ?_, fun j hr hk => ?_⟩
  · exact (task_setTask_other _ _ (Nat.ne_of_gt h)).trans (task_setTask_same s r _)
  · refine (task_setTask_same _ k _).trans ?_
    rw [task_spend, task_spend, resumed]
  · exact (task_setTask_other _ _ hk).trans (task_setTask_other s _ hr)
end

theorem mem_preempted (s : State) (p r k : Nat) : (s.preempted p r k).mem = s.mem := by
  unfold State.preempted
  rw [runTask_mem, spend_mem, spend_mem, setTask_mem]

theorem regs_preempted (s : State) (p r k : Nat) : (s.preempted p r k).regs = s.regs := by
  unfold State.preempted
  rw [runTask_regs, spend_regs, spend_regs, setTask_regs]

theorem pair_preempted (s : State) (p r k : Nat) : ((s.preempted p r k).pair p).cycle = (s.pair p).cycle + 24 ∧
    ∀ q, q ≠ p → (s.preempted p r k).pair q = s.pair q := by
  refine ⟨?_, fun q hq => (pair_spend_other _ 12 hq).trans (pair_spend_other _ 12 hq)⟩
  show ((State.spend _ p 12).pair p).cycle = _
  rw [pair_spend_same, pair_spend_same]
  rfl

/-- At its instant an enabled timer is stopped, or set for its next period, and each task bound to it gets the event (R60). -/
theorem exec_timerExpiry {s : State} {k : Fin 64} (he : s.bit (F.SE_TMR_CTL_EN k) = true) : exec (.timerExpiry k) s =
    let v := s.until (mget 0 s.tmrDue k.val)
    let u := if s.bit (F.SE_TMR_CTL_ONESHOT k) then v.putB (F.SE_TMR_CTL_EN k) false
      else { v with tmrDue := mset 0 v.tmrDue k.val (mget 0 s.tmrDue k.val + v.tmrPeriod k) }
    .next (loopL (u.tasksOf srcTimer (fun t => t.idx == k.val)) (fun t s => s.deliver t) u) := by
  show execTimerExpiry k s = _
  unfold execTimerExpiry
  rw [if_pos he]
  dsimp only
  rw [until_bit]

theorem tmrEn_ok (k : Nat) : (F.SE_TMR_CTL_EN k).ok := ⟨Nat.le_refl 31, show 31 < 32 by decide⟩

/-- Settles O11: each command of the scheduler is one lemma; a preemption is two context moves over different tasks. -/
theorem taskScheduling : Obligations.TaskScheduling := by
  refine ⟨fun s p k hr hn hk hu hc => ?dispatch, fun s p k r hw hr hrun hk hlt hu hc => ?preempt,
    fun s p k r hw hr hrun hk hge => ?stay, fun s p k h => startTask_uncorrectable h,
    fun s p k hw hr hrun hb => exec_taskBudget hw hr hrun hb, fun s k he ho => ?oneShot, fun s k he ho => ?periodic⟩
  case dispatch =>
    rw [exec_taskDispatch hr hn hk, startTask_clean hu hc]
    rfl
  case preempt =>
    have same : ((s.setTask r { s.task r with st := .ready }).spend p 12).pair p =
        { s.pair p with cycle := (s.pair p).cycle + 12 } := pair_spend_same _ _ _
    obtain ⟨hready, hrunning, hothers⟩ := task_preempted s (p := p.val) hlt
    obtain ⟨hcycles, hpairs⟩ := pair_preempted s p r k
    refine ⟨s.preempted p r k, ?_, hready, hrunning, hcycles, hpairs, hothers,
      byteAt_of_mem (mem_preempted s p r k), fun a _ => rd_of_regs (regs_preempted s p r k) a⟩
    rw [exec_taskPreempt hw hr hrun hk, if_pos hlt, startTask_clean (by rw [same]; exact hu) (by rw [same]; exact hc)]
    rfl
  case stay => rw [exec_taskPreempt hw hr hrun hk, if_neg hge]
  case oneShot =>
    refine ⟨_, rfl, bit_putB _ _ _ (tmrEn_ok k), ?_⟩
    rw [exec_timerExpiry he]
    dsimp only
    rw [if_pos ho]
  case periodic =>
    refine ⟨_, rfl, ?_⟩
    rw [exec_timerExpiry he]
    dsimp only
    rw [if_neg (by rw [ho]; decide)]

/-! ### The crew catch and the checkpoint writer (R53, R62, R70, R71, R145) -/
@[simp] theorem crew_setCrew_same (s : State) (n : Nat) (c : CrewRec) : (s.setCrew n c).crew n = c := mget_mset_same _ _ _ _
theorem task_setCrew (s : State) (n : Nat) (c : CrewRec) (k : Nat) : (s.setCrew n c).task k = s.task k := rfl
theorem execPair_setCrew (s : State) (n : Nat) (c : CrewRec) (h : Nat) : (s.setCrew n c).execPair h = s.execPair h := rfl
theorem pairRuns_setCrew (s : State) (n : Nat) (c : CrewRec) (p : Nat) : (s.setCrew n c).pairRuns p = s.pairRuns p := rfl
theorem rd_setCrew (s : State) (n : Nat) (c : CrewRec) (a : Nat) : (s.setCrew n c).rd a = s.rd a := rfl

/-- The instant of crew n's catch: the one that was due is taken. -/
def State.atCatch (s : State) (n t : Nat) : State := (s.advanceTb t).setCrew n { (s.advanceTb t).crew n with catchDue := none }

theorem catchSeqNext_atCatch (s : State) (n t : Nat) : (s.atCatch n t).catchSeqNext n = s.catchSeqNext n := by
  unfold State.catchSeqNext State.atCatch
  rw [crew_setCrew_same, rd_setCrew, advanceTb_rd, advanceTb_crew]

theorem exec_crewCatch {s : State} {n : CrewNo} {t : Nat} (hu : s.crewState n ≠ cUNUSED) (hd : (s.crew n).catchDue = some t) :
    exec (.crewCatch n) s = let u := (s.atCatch n t).ledgerComplete n
      .next ((u.catchLatch n (s.catchSeqNext n)).wakeCatch n (s.catchSeqNext n) (u.prevAp n)) := by
  have due : s.catchAt n = some t := by
    unfold State.catchAt
    rw [if_neg hu, hd]
  show execCatch n s = _
  unfold execCatch
  rw [due, ← catchSeqNext_atCatch s n t]
  rfl

/-- A catch wakes a WAITING task whose pair runs, outside a takeover (R53). -/
theorem wakeCatch_waiting {s : State} {n key p : Nat} (seq prev : Nat) (hk : s.catchTask n = some key)
    (ht : (s.crew n).takeover = false) (hst : (s.task key).st = .waiting) (hp : s.execPair (key / 16) = some p)
    (hr : s.pairRuns p = true) : s.wakeCatch n seq prev =
      (s.setCrew n { s.crew n with resume := false }).setTask key (TaskRec.wake { s.task key with
        catchT := BitVec.ofNat 32 s.tb, catchSeq := BitVec.ofNat 32 seq, prevAp := BitVec.ofNat 32 prev }) := by
  unfold State.wakeCatch
  simp only [hk, ht, Bool.false_and, Bool.false_eq_true, if_false, task_setCrew, execPair_setCrew, pairRuns_setCrew, hp, hr, hst,
    reduceCtorEq, decide_false, Bool.not_true, Bool.or_false, if_true]
  rfl

/-- The oldest record leaves the buffer, counts as captured where the activation is still the crew's, and goes to both banks. -/
theorem exec_checkpointRecordWrite {s : State} {p : PairNo} {c : CkptRec} {rest : List CkptRec} (h : (s.pair p).ckpt = c :: rest) :
    exec (.checkpointRecordWrite p) s =
      let u := s.setPair p { s.pair p with ckpt := rest }
      let v := if c.gen = (u.crew c.crew).gen then u.setCrew c.crew { u.crew c.crew with
        caps := c.seq :: (u.crew c.crew).caps.filter (fun q => q.getLsbD 0 != c.seq.getLsbD 0) } else u
      let w := v.devWrite (ckptSlot (v.rd R.SE_CKPT_BASE_L).toNat c.crew c.seq.toNat) c.bytes
      .next (w.devWrite (ckptSlot (w.rd R.SE_CKPT_BASE_H).toNat c.crew c.seq.toNat) c.bytes) := by
  show execCheckpointRecordWrite p s = _
  unfold execCheckpointRecordWrite
  dsimp only
  rw [h]

/-- Settles O12: the catch runs at its instant with the crew's next sequence, and a waking catch writes the crew and the task. -/
theorem catchAndCheckpoint : Obligations.CatchAndCheckpoint := by
  refine ⟨fun s n t hu hd => ?runs, fun s n seq prev key p hk ht hst hp hr => ?wake,
    fun s p c rest h => exec_checkpointRecordWrite h⟩
  case runs =>
    exact ⟨_, s.catchSeqNext n, rfl, fun h => if_pos h, fun h => if_neg (by rw [h]; decide), exec_crewCatch hu hd⟩
  case wake =>
    dsimp only
    rw [wakeCatch_waiting seq prev hk ht hst hp hr, task_setTask_same]
    exact ⟨rfl, rfl, rfl, rfl, rfl, fun k hk => task_setTask_other _ _ hk, fun _ => rfl, fun _ _ => rfl⟩

end Sys2Proof.Machine
end

/-! The proofs of the statements on the Stroke engines, third part: faults and self-tests of the pairs, restores and reloads, the
engine memories and the writes of the coefficient store. -/
section
namespace Sys2Proof.Machine

/-! ### Pair faults (R44, R48, R73) -/
section
variable {s : State} {p : Nat} (code : Nat) (hd : s.domainRun (pairDomain p) = true)
include hd

theorem pairFault_fences (h : s.pairSt p = pACTIVE ∨ s.pairSt p = pHOST) : s.pairFault p code = s.fencePair p code := by
  unfold State.pairFault
  dsimp only
  rw [if_neg (by rw [hd]; decide), if_pos (by simpa using h)]

theorem pairFault_failsTest (h : s.pairSt p = pSPARE ∨ s.pairSt p = pTEST) :
    s.pairFault p code = (s.incSat (F.SE_PAIR_STAT_MISM p)).selfTestFail p := by
  have idle : ¬(s.pairSt p = pACTIVE ∨ s.pairSt p = pHOST) := by
    rcases h with h | h <;> rw [h] <;> decide
  unfold State.pairFault
  dsimp only
  rw [if_neg (by rw [hd]; decide), if_neg (by simpa using idle), if_pos (by simpa using h)]
end

theorem exec_seMismatch (s : State) (p : PairNo) : exec (.seMismatch p) s = .next (s.pairFault p 0x0201) := rfl
theorem exec_seMemUe (s : State) (p : PairNo) : exec (.seMemUe p) s = .next (s.pairFault p 0x0202) := rfl

/-! ### Restores and reloads (R45, R74, R75, R559) -/
section
variable {s : State} {p : PairNo}

theorem exec_restoreComplete_built {t : State} (hst : s.pairSt p = pHOST) (hr : (s.pair p).restoring = true)
    (ht : s.buildMem p (s.homeOf p) = some t) : exec (.restoreComplete p) s =
      let r := State.restoreTasks (t.until ((t.pair p).failedAt + restoreCounts (t.restoreBytes (s.homeOf p)))) p (s.homeOf p)
      .next (r.2.2.restoreEnd p (s.homeOf p) r.1 r.2.1) := by
  show execRestoreComplete p s = _
  unfold execRestoreComplete
  dsimp only
  rw [if_neg (by rw [hst, hr]; decide), ht]

theorem exec_restoreComplete_unreadable (hst : s.pairSt p = pHOST) (hr : (s.pair p).restoring = true)
    (ht : s.buildMem p (s.homeOf p) = none) : exec (.restoreComplete p) s = .next (s.abandonRestore p (s.homeOf p)) := by
  show execRestoreComplete p s = _
  unfold execRestoreComplete
  dsimp only
  rw [if_neg (by rw [hst, hr]; decide), ht]

/-- With its memories built, the lost tasks start at ENTRY at the instant the reload ends. -/
theorem exec_domainReloadComplete_built {t : State} (hr : (s.pair p).reloading = true)
    (ht : (s.setPair p { s.pair p with reloading := false }).buildMem p (s.homeOf p) = some t) :
    exec (.domainReloadComplete p) s =
      let u := t.until ((t.pair p).failedAt +
        restoreCounts ((t.image (s.homeOf p)).imemSize + (t.image (s.homeOf p)).dmemSize + (t.image (s.homeOf p)).bssSize))
      .next (loopL ((homeTasks (s.homeOf p)).filter (fun k => (u.task k).lost)) (fun k s => s.startInitial k) u) := by
  show execDomainReloadComplete p s = _
  unfold execDomainReloadComplete
  dsimp only
  rw [if_neg (by rw [hr]; decide), ht]

/-- Without its image the tasks are lost and the crews stop. -/
theorem exec_domainReloadComplete_unreadable (hr : (s.pair p).reloading = true)
    (ht : (s.setPair p { s.pair p with reloading := false }).buildMem p (s.homeOf p) = none) :
    exec (.domainReloadComplete p) s =
      let u := s.setPair p { s.pair p with reloading := false }
      .next (loopL (u.homeCrews (s.homeOf p)) (fun n s => s.faultStopAny n 0x0209)
        ((u.fault 0x0209 (s.homeOf p)).loseTasks (s.homeOf p))) := by
  show execDomainReloadComplete p s = _
  unfold execDomainReloadComplete
  dsimp only
  rw [if_neg (by rw [hr]; decide), ht]
end

/-- The end of a restore gives RESULT, and 0x0203 names the pair that failed. -/
theorem restoreEnd_result (s : State) (q home b : Nat) (stopped : Bool) : ∃ u : State,
    s.restoreEnd q home b stopped = u.fault 0x0203 (u.pair q).failed ∧
      u.get F.SE_TAKE_LAST_RESULT = (if stopped then 3 else 1) := by
  refine ⟨_, rfl, ?_⟩
  refine get_put_fits _ F.SE_TAKE_LAST_RESULT ⟨by decide, by decide⟩ ?_
  split <;> decide

/-! ### Self-tests (R79, R80, R81) -/
section
variable {s : State}

theorem onRegW_up {a : Nat} {v w : Word} {u : State} {f : Word → State → Out} (hu : s.up a) (ht : s.takeWord a v = (w, u)) :
    s.onRegW a v f = f w u := by
  unfold State.onRegW
  rw [onReg_up hu, ht]

theorem exec_seRetest {v w : Word} {u : State} (hu : s.up R.SE_CTL) (ht : s.takeWord R.SE_CTL v = (w, u))
    (hr : w.getLsbD 0 = true) (hp : bitsOf w.toNat 7 4 < 9)
    (hf : (u.put F.SE_CTL_TPAIR (bitsOf w.toNat 7 4)).pairSt (bitsOf w.toNat 7 4) = pFENCED) :
    exec (.seRetest v) s =
      let t := u.put F.SE_CTL_TPAIR (bitsOf w.toNat 7 4)
      .next ((t.setPair (bitsOf w.toNat 7 4) { t.pair (bitsOf w.toNat 7 4) with testing := true }).setPairSt
        (bitsOf w.toNat 7 4) pTEST) := by
  show execSeRetest v s = _
  unfold execSeRetest
  rw [onRegW_up hu ht]
  dsimp only
  rw [if_pos (by simp [hr, hp, hf])]

variable {p : PairNo}

theorem exec_spareSelfTest (hd : s.domainRun (pairDomain p) = true) (hst : s.pairSt p = pSPARE)
    (ht : (s.pair p).testing = false) : exec (.spareSelfTest p) s =
      let u := s.until ((s.pair p).testAt + 1000 * msCounts)
      .next (u.setPair p { s.pair p with testing := true, testAt := u.now }) := by
  show execSpareSelfTest p s = _
  unfold execSpareSelfTest
  rw [if_pos (by rw [hst, hd, ht]; decide)]
  dsimp only
  rw [until_pair]

theorem exec_selfTestComplete (hst : s.pairSt p = pTEST) :
    exec (.selfTestComplete p true) s = .next (((s.setPair p { s.pair p with testing := false, testAt := s.now }).put
      (F.SE_PAIR_STAT_HOME p) p.val).setPairSt p pSPARE) ∧
    exec (.selfTestComplete p false) s = .next (s.selfTestFail p) := by
  show execSelfTestComplete p true s = _ ∧ execSelfTestComplete p false s = _
  unfold execSelfTestComplete
  exact ⟨if_pos hst, if_pos hst⟩
end

/-- Settles O9: an equation for each command of a pair in the state that the statement names. -/
theorem pairEvents : Obligations.PairEvents := by
  refine ⟨fun s p hd h => ?fence, fun s p hd h => ?fail, fun s p hd hst ht => exec_spareSelfTest hd hst ht,
    fun s p t b stopped u hst hr ht hu => ?restore, restoreEnd_result, fun s p hst hr ht => exec_restoreComplete_unreadable hst hr ht,
    fun s p t hr ht => exec_domainReloadComplete_built hr ht, fun s p hr ht => exec_domainReloadComplete_unreadable hr ht,
    fun s v w u hu ht hr hp hf => exec_seRetest hu ht hr hp hf, fun s p hst => exec_selfTestComplete hst, fun _ _ => rfl⟩
  case fence => rw [exec_seMismatch, exec_seMemUe, pairFault_fences _ hd h, pairFault_fences _ hd h]; exact ⟨rfl, rfl⟩
  case fail => rw [exec_seMismatch, exec_seMemUe, pairFault_failsTest _ hd h, pairFault_failsTest _ hd h]; exact ⟨rfl, rfl⟩
  case restore => rw [exec_restoreComplete_built hst hr ht]; dsimp only; rw [hu]

/-! ### Engine memories (R44, R89, R91) -/
section
variable {s : State}

theorem exec_seMemDataWrite (hu : s.up R.SE_MEM_DATA) (v : Word) : exec (.seMemDataWrite v) s =
    let p := s.get F.SE_MEM_SEL_PAIR
    let d := s.bit F.SE_MEM_SEL_SPACE
    let w := s.get F.SE_MEM_ADDR_WORD
    if p ≥ 9 then .next (s.incWrap F.SE_MEM_ADDR_WORD)
    else if s.seMemFree p then .next ((((s.memStore p d (4 * w) 4).getD s).setSeMemWord p d w v).incWrap F.SE_MEM_ADDR_WORD)
    else .next (s.fault 0x0233 p) := by
  show execSeMemDataWrite v s = _
  exact onReg_up hu

theorem exec_seMemDataRead_noPair (hu : s.up R.SE_MEM_DATA) (hp : 9 ≤ s.get F.SE_MEM_SEL_PAIR) :
    exec .seMemDataRead s = .next { s.incWrap F.SE_MEM_ADDR_WORD with rdata := 0 } := by
  show execSeMemDataRead s = _
  unfold execSeMemDataRead
  rw [onRegRead_up hu]
  exact if_pos hp

variable (hu : s.up R.SE_MEM_DATA) (hp : s.get F.SE_MEM_SEL_PAIR < 9)
include hu hp

theorem exec_seMemDataRead_word {u : State} (hm : s.memRead (s.get F.SE_MEM_SEL_PAIR) (s.bit F.SE_MEM_SEL_SPACE)
      (4 * s.get F.SE_MEM_ADDR_WORD) 4 = some u) : exec .seMemDataRead s =
    .next { u.incWrap F.SE_MEM_ADDR_WORD with
      rdata := u.seMemWord (s.get F.SE_MEM_SEL_PAIR) (s.bit F.SE_MEM_SEL_SPACE) (s.get F.SE_MEM_ADDR_WORD) } := by
  show execSeMemDataRead s = _
  unfold execSeMemDataRead
  rw [onRegRead_up hu]
  dsimp only
  rw [if_neg (Nat.not_le.2 hp), hm]
  rfl

theorem exec_seMemDataRead_uncorrectable {x : Nat} {u : State} (hx : s.free = (x, u))
    (hm : s.memRead (s.get F.SE_MEM_SEL_PAIR) (s.bit F.SE_MEM_SEL_SPACE) (4 * s.get F.SE_MEM_ADDR_WORD) 4 = none) :
    exec .seMemDataRead s = .next { (u.pairFault (s.get F.SE_MEM_SEL_PAIR) 0x0202).incWrap F.SE_MEM_ADDR_WORD with
      rdata := BitVec.ofNat 32 x } := by
  show execSeMemDataRead s = _
  unfold execSeMemDataRead
  rw [onRegRead_up hu]
  dsimp only
  rw [if_neg (Nat.not_le.2 hp), hm, hx]
  rfl
end

/-! ### Words of the coefficient store (R82, R86) -/
/-- A loop with word w of its state written; of CTRL a write sets FRZ alone. -/
def LoopRec.setWord (l : LoopRec) (w : Nat) (v : Word) : LoopRec :=
  match w with
  | 8 => { l with i := v }
  | 9 => { l with e := v }
  | 10 => { l with out := v }
  | 11 => l.setCtrl 12 (v.getLsbD 12)
  | _ => l

section
variable {s : State} (hu : s.up R.SE_COEF_DATA) (v : Word)
include hu

/-- A word above the banks is written into the loop's state; reserved bits of CTRL that are not 0 are counted (R10). -/
theorem exec_coefDataWrite_state (hw : 8 ≤ s.get F.SE_COEF_SEL_WORD) : ∃ t : State, exec (.coefDataWrite v) s = .next t ∧
    t.loop (s.get F.SE_COEF_SEL_LOOP) = (s.loop (s.get F.SE_COEF_SEL_LOOP)).setWord (s.get F.SE_COEF_SEL_WORD) v ∧
    (∀ k, k ≠ s.get F.SE_COEF_SEL_LOOP → t.loop k = s.loop k) ∧ t.mem = s.mem ∧ t.regs = s.regs ∧
    (v &&& 0xFFFF8180#32 = 0 → t.rsvWrites = s.rsvWrites) := by
  show ∃ t, execCoefDataWrite v s = _ ∧ _
  unfold execCoefDataWrite
  rw [onReg_up hu]
  dsimp only
  generalize s.get F.SE_COEF_SEL_WORD = w at hw ⊢
  rw [dif_neg (by omega)]
  obtain h12 | rfl | h10 : 12 ≤ w ∨ w = 11 ∨ w = 8 ∨ w = 9 ∨ w = 10 := by omega
  · obtain ⟨k, rfl⟩ := Nat.exists_eq_add_of_le' h12
    exact ⟨s, rfl, rfl, fun _ _ => rfl, rfl, rfl, fun _ => rfl⟩
  · refine ⟨_, rfl, loop_setLoop_same _ _ _, fun k hk => (loop_setLoop_other _ _ hk).trans ?_, ?_, ?_, fun h => ?_⟩
    · split <;> rfl
    · split <;> rfl
    · split <;> rfl
    · rw [if_pos h]; rfl
  · rcases h10 with rfl | rfl | rfl <;>
      exact ⟨_, rfl, loop_setLoop_same _ _ _, fun k hk => loop_setLoop_other _ _ hk, rfl, rfl, fun _ => rfl⟩

/-- A word of a bank that is neither active nor pending. -/
theorem exec_coefDataWrite_bank (hw : s.get F.SE_COEF_SEL_WORD < 6)
    (hb : s.bit F.SE_COEF_SEL_BANK ≠ (s.loop (s.get F.SE_COEF_SEL_LOOP)).actB)
    (hp : (s.loop (s.get F.SE_COEF_SEL_LOOP)).pend = false) : ∃ l : LoopRec,
    exec (.coefDataWrite v) s = .next (s.setLoop (s.get F.SE_COEF_SEL_LOOP) l) ∧
      (l.bank (s.bit F.SE_COEF_SEL_BANK))[s.get F.SE_COEF_SEL_WORD] = v := by
  show ∃ l, execCoefDataWrite v s = _ ∧ _
  unfold execCoefDataWrite
  rw [onReg_up hu]
  dsimp only
  rw [dif_pos hw, if_neg (by simp [hb, hp])]
  refine ⟨_, rfl, ?_⟩
  cases s.bit F.SE_COEF_SEL_BANK <;> exact Vector.getElem_set_self _

theorem exec_coefDataWrite_active (hw : s.get F.SE_COEF_SEL_WORD < 6)
    (hb : s.bit F.SE_COEF_SEL_BANK = (s.loop (s.get F.SE_COEF_SEL_LOOP)).actB) :
    exec (.coefDataWrite v) s = .next (s.fault 0x0240 (s.get F.SE_COEF_SEL_LOOP)) := by
  show execCoefDataWrite v s = _
  unfold execCoefDataWrite
  rw [onReg_up hu]
  dsimp only
  rw [dif_pos hw, if_pos (by simp [hb])]
end

theorem exec_coefSwap {s u : State} {v w : Word} (hu : s.up R.SE_COEF_SWAP) (ht : s.takeWord R.SE_COEF_SWAP v = (w, u)) :
    exec (.coefSwap v) s = .next (u.swapReq (bitsOf w.toNat 9 0) (w.getLsbD 10)) := by
  show execCoefSwap v s = _
  exact onRegW_up hu ht

/-- Settles O13: each access is its equation above; the word that is written reads back in its loop. -/
theorem coefficientStore : Obligations.CoefficientStore := by
  refine ⟨fun s v hu hp hf => ?free, fun s v hu hp hf => ?held, fun s u hu hp hm => ?read,
    fun s v hu hp => ⟨?absent, exec_seMemDataRead_noPair hu hp⟩,
    fun s x u hu hp hx hm => exec_seMemDataRead_uncorrectable hu hp hx hm, fun s v hu hw => ?state,
    fun s v hu hw hb hp => ?bank, fun s v hu hw hb => exec_coefDataWrite_active hu v hw hb, fun s v hu hw => ?ctrl,
    fun s v w u hu ht => exec_coefSwap hu ht⟩
  case free =>
    obtain ⟨-, u, hm, -⟩ := memStore_rule s (s.get F.SE_MEM_SEL_PAIR) (s.bit F.SE_MEM_SEL_SPACE) (4 * s.get F.SE_MEM_ADDR_WORD) 4
    refine ⟨u, hm, ?_⟩
    rw [exec_seMemDataWrite hu]
    dsimp only
    rw [if_neg (Nat.not_le.2 hp), if_pos hf, hm]
    rfl
  case held =>
    rw [exec_seMemDataWrite hu]
    dsimp only
    rw [if_neg (Nat.not_le.2 hp), if_neg (by rw [hf]; decide)]
  case read =>
    refine ⟨_, exec_seMemDataRead_word hu hp hm, rfl, fun _ => rfl, fun a ha => ?_⟩
    exact rd_put_other u F.SE_MEM_ADDR_WORD _ (List.ne_of_not_mem_cons ha)
  case state =>
    obtain ⟨t, ht, hl, hother, hmem, hregs, -⟩ := exec_coefDataWrite_state hu v hw
    refine ⟨t, ht, fun h => ?_, fun h => ?_, fun h => ?_, hother, byteAt_of_mem hmem, fun a _ => rd_of_regs hregs a⟩ <;>
      rw [hl, h] <;> rfl
  case bank =>
    obtain ⟨l, ht, hl⟩ := exec_coefDataWrite_bank hu v hw hb hp
    refine ⟨_, ht, ?_, fun k hk => loop_setLoop_other _ _ hk, fun _ => rfl, fun _ _ => rfl⟩
    simp only [loop_setLoop_same]
    exact hl
  case ctrl =>
    obtain ⟨t, ht, hl, hother, -, -, hrsv⟩ := exec_coefDataWrite_state hu v (by omega)
    refine ⟨t, ht, ?_, hrsv, hother⟩
    rw [hl, hw]
    rfl
  case absent =>
    rw [exec_seMemDataWrite hu]
    exact if_pos hp

end Sys2Proof.Machine
end

/-! The proofs of the statements on the Stroke engines, fourth part: loads, port accesses, end instructions, order words, CSRs, and
the steps of the loops. -/
section
namespace Sys2Proof.Machine

/-! ### Loads (R44, R101, R103, R118) -/
section
variable {p : PairNo} {n : Nat} {base : Word} {imm : BitVec 15} {set : Ctx → Nat → Ctx} {s : State} {c : Ctx}

theorem loadI_misaligned (h : (base + sext15 imm).toNat % n ≠ 0) :
    loadI p n base imm set s c = .trap s 0x0221 0 (base + sext15 imm) :=
  if_pos h

variable (h : (base + sext15 imm).toNat % n = 0)
include h

theorem loadI_noTarget (ht : s.memTarget (base + sext15 imm).toNat n = .bad) :
    loadI p n base imm set s c = .trap s 0x0222 0 (base + sext15 imm) := by
  unfold loadI
  rw [if_neg (fun hne => hne h), ht]

theorem loadI_dmem {u : State} (ht : s.memTarget (base + sext15 imm).toNat n = .dmem)
    (hu : s.memRead p true (base + sext15 imm).toNat n = some u) :
    loadI p n base imm set s c = .ok u (set c (cellWord (u.pair p).dmem (base + sext15 imm).toNat n)) 1 .seq := by
  unfold loadI
  rw [if_neg (fun hne => hne h), ht]
  dsimp only
  rw [hu]

theorem loadI_uncorrectable (ht : s.memTarget (base + sext15 imm).toNat n = .dmem)
    (hu : s.memRead p true (base + sext15 imm).toNat n = none) : loadI p n base imm set s c = .ue := by
  unfold loadI
  rw [if_neg (fun hne => hne h), ht]
  dsimp only
  rw [hu]

variable (ht : s.memTarget (base + sext15 imm).toNat n = .sram)
include ht

/-- A word of shared SRAM comes in 20 to 60 cycles. -/
theorem loadI_sram {v : Nat} {t : State} (hv : (s.drainTo p (fun e => e.touches (base + sext15 imm).toNat n)).sramLoad
      (base + sext15 imm).toNat n = (some v, t)) :
    ∃ k, 20 ≤ k ∧ k ≤ 60 ∧ loadI p n base imm set s c = .ok { t with freeCount := t.freeCount + 1 } (set c v) k .seq := by
  obtain ⟨hlo, hhi⟩ := freeIn_range t (show 20 ≤ 60 by decide)
  refine ⟨_, hlo, hhi, ?_⟩
  unfold loadI
  rw [if_neg (fun hne => hne h), ht]
  dsimp only
  rw [hv]
  rfl

theorem loadI_sramError {t : State} (hv : (s.drainTo p (fun e => e.touches (base + sext15 imm).toNat n)).sramLoad
      (base + sext15 imm).toNat n = (none, t)) :
    loadI p n base imm set s c = .trap { t with freeCount := t.freeCount + 1 } 0x0106 0 (base + sext15 imm) := by
  unfold loadI
  rw [if_neg (fun hne => hne h), ht]
  dsimp only
  rw [hv]
  rfl
end

/-- Each form of R118 is the load of its width into its register; the float field of FLW is legal. -/
theorem exec_loadForms {p : PairNo} {gd gs1 : BitVec 5} {imm : BitVec 15} {x : Instr × Nat × (Ctx → Nat → Ctx)} (hf : fOk gd = true)
    (hx : x ∈ loadForms p gd gs1 imm) : ∃ op, ∀ s, exec x.1 s = loadOp op x.2.1 true x.2.2 p gd gs1 imm s := by
  simp only [loadForms, List.mem_cons, List.not_mem_nil, or_false] at hx
  rcases hx with rfl | rfl | rfl | rfl | rfl | rfl
  · exact ⟨0x20, fun s => rfl⟩
  · exact ⟨0x21, fun s => rfl⟩
  · exact ⟨0x22, fun s => rfl⟩
  · exact ⟨0x23, fun s => rfl⟩
  · exact ⟨0x24, fun s => rfl⟩
  · exact ⟨0x25, fun s => hf ▸ rfl⟩

/-- Settles O21: every form is a loadOp, whose effect is loadI's. -/
theorem onnusLoads : Obligations.OnnusLoads := by
  refine ⟨fun s p key gd gs1 imm hi hf x hx => ?_, memRead_rule⟩
  obtain ⟨op, hop⟩ := exec_loadForms hf hx
  unfold Traps Does
  simp only [hop]
  refine ⟨fun ha => runI_trap hi rfl rfl (loadI_misaligned ha), fun ha ht => runI_trap hi rfl rfl (loadI_noTarget ha ht),
    fun ha hb u hu => runI_ok hi rfl rfl (loadI_dmem ha (memTarget_dmem s hb) hu),
    fun ha hb hu => runI_ue hi rfl rfl (loadI_uncorrectable ha (memTarget_dmem s hb) hu), fun v t ha ht hv => ?_,
    fun t ha ht hv => runI_trap hi rfl rfl (loadI_sramError ha ht hv)⟩
  obtain ⟨k, hlo, hhi, hk⟩ := loadI_sram (set := x.2.2) (c := s.ctx key) ha ht hv
  exact ⟨k, hlo, hhi, runI_ok hi rfl rfl hk⟩

/-! ### Ports (R68, R103, R104, R123 to R125) -/
section
variable {p : PairNo} {g : BitVec 5} {port : BitVec 16} {s : State} {key : Nat} {c : Ctx}

/-- The state in which a port read meets its register: the queue has drained up to the last access to it. -/
def State.portArrive (s : State) (p a : Nat) : State := s.drainTo p (fun e => e.isPort a)

theorem portReadI_off (h : (s.portArrive p (portTarget (key / 16) port)).windowOn (winOf (portTarget (key / 16) port)) = false) :
    portReadI p g port s key c = .trap (s.portArrive p (portTarget (key / 16) port)) 0x0104 0 (port.setWidth 32) :=
 by
  unfold State.portArrive at *
  unfold portReadI
  dsimp only
  rw [if_pos (by rw [h]; rfl)]

theorem portReadI_on {v : Word} {t : State}
    (h : (s.portArrive p (portTarget (key / 16) port)).windowOn (winOf (portTarget (key / 16) port)) = true)
    (hv : (s.portArrive p (portTarget (key / 16) port)).regRead (portTarget (key / 16) port) = (v, t)) :
    ∃ k, 10 ≤ k ∧ k ≤ 40 ∧ portReadI p g port s key c = .ok { t with freeCount := t.freeCount + 1 } (c.setG g v) k .seq := by
  obtain ⟨hlo, hhi⟩ := freeIn_range t (show 10 ≤ 40 by decide)
  refine ⟨_, hlo, hhi, ?_⟩
  unfold State.portArrive at h hv
  unfold portReadI
  dsimp only
  rw [if_neg (by rw [h]; decide), hv]
  rfl

variable {f : State → Nat → Nat → State × Nat}

theorem portWriteI_refused (h : s.portWritable (key / 16) (portTarget (key / 16) port) = false) :
    portWriteI port f s key c = .trap s 0x0223 0 (port.setWidth 32) :=
  if_pos (by rw [h]; rfl)

variable (h : s.portWritable (key / 16) (portTarget (key / 16) port) = true)
include h

theorem portWriteI_off (hw : s.windowOn (winOf (portTarget (key / 16) port)) = false) :
    portWriteI port f s key c = .trap s 0x0104 0 (port.setWidth 32) :=
  (if_neg (by rw [h]; decide)).trans (if_pos (by rw [hw]; rfl))

theorem portWriteI_on (hw : s.windowOn (winOf (portTarget (key / 16) port)) = true) : portWriteI port f s key c =
    .ok (f s (portTarget (key / 16) port) (s.ownerCode key)).1 c (f s (portTarget (key / 16) port) (s.ownerCode key)).2 .seq := by
  unfold portWriteI
  dsimp only
  rw [if_neg (by rw [h]; decide), if_neg (by rw [hw]; decide)]
end

/-! Every port instruction is portReadI or portWriteI with its own way to write. -/
section
variable (p : PairNo) (g gs1 : BitVec 5) (port : BitVec 16) (s : State)

theorem exec_pin : exec (.pin p g port) s = runI p (encE 0x60 g port 0) true false (portReadI p g port) s := rfl
theorem exec_pinr : exec (.pinr p g gs1 0) s =
    runI p (encA 8 g gs1 0 2) true false (fun s key c => portReadI p g ((c.gr gs1).setWidth 16) s key c) s := rfl
theorem exec_poutr : exec (.poutr p 0 gs1 g) s = runI p (encA 8 0 gs1 g 3) true false
    (fun s key c => portWriteI ((c.gr gs1).setWidth 16) (postedI p (c.gr g)) s key c) s := rfl
theorem exec_poutMode0 : exec (.poutMode0 p g port) s = runI p (encE 0x61 g port 0) true false
    (fun s key c => portWriteI port (postedI p (c.gr g)) s key c) s := rfl
theorem exec_poutMode1 : exec (.poutMode1 p g port) s = runI p (encE 0x61 g port 1) true false
    (fun s key c => portWriteI port (writtenI p (c.gr g)) s key c) s := rfl
theorem exec_psetOr : exec (.psetOr p g port) s = runI p (encE 0x62 g port 0) true false
    (fun s key c => portWriteI port (postedSetI p 0 (c.gr g)) s key c) s := rfl
theorem exec_psetAndnot : exec (.psetAndnot p g port) s = runI p (encE 0x62 g port 1) true false
    (fun s key c => portWriteI port (postedSetI p 1 (c.gr g)) s key c) s := rfl
theorem exec_psetXor : exec (.psetXor p g port) s = runI p (encE 0x62 g port 2) true false
    (fun s key c => portWriteI port (postedSetI p 2 (c.gr g)) s key c) s := rfl

variable {p g port}

theorem exec_portForms {i : Instr}
    (h : i ∈ [.poutMode0 p g port, .poutMode1 p g port, .psetOr p g port, .psetAndnot p g port, .psetXor p g port]) :
    ∃ (word : Word) (f : Ctx → State → Nat → Nat → State × Nat),
      exec i s = runI p word true false (fun s key c => portWriteI port (f c) s key c) s := by
  simp only [List.mem_cons, List.not_mem_nil, or_false] at h
  rcases h with rfl | rfl | rfl | rfl | rfl
  · exact ⟨_, fun c => postedI p (c.gr g), exec_poutMode0 p g port s⟩
  · exact ⟨_, fun c => writtenI p (c.gr g), exec_poutMode1 p g port s⟩
  · exact ⟨_, fun c => postedSetI p 0 (c.gr g), exec_psetOr p g port s⟩
  · exact ⟨_, fun c => postedSetI p 1 (c.gr g), exec_psetAndnot p g port s⟩
  · exact ⟨_, fun c => postedSetI p 2 (c.gr g), exec_psetXor p g port s⟩
end

/-- Settles O26: a port read is portReadI, a port write portWriteI with its way to write. -/
theorem onnusPorts : Obligations.OnnusPorts := by
  refine ⟨fun s p key g port gs1 hi => ?reads, fun s p key g port hi i hf => ?refused, fun s p key g port gs1 hi => ?writes⟩
  case reads =>
    dsimp only
    unfold Does
    simp only [exec_pin, exec_pinr]
    refine ⟨fun h => runI_trap hi rfl rfl (portReadI_off h), fun v t h hv => ?_,
      fun h => runI_trap hi rfl rfl (portReadI_off h), fun v t h hv => ?_⟩
    · obtain ⟨k, hlo, hhi, hk⟩ := portReadI_on (g := g) (c := s.ctx key) h hv
      exact ⟨k, hlo, hhi, runI_ok hi rfl rfl hk⟩
    · obtain ⟨k, hlo, hhi, hk⟩ := portReadI_on (g := g) (c := s.ctx key) h hv
      exact ⟨k, hlo, hhi, runI_ok hi rfl rfl hk⟩
  case refused =>
    obtain ⟨word, f, he⟩ := exec_portForms s hf
    unfold Traps
    rw [he]
    exact ⟨fun h => runI_trap hi rfl rfl (portWriteI_refused h), fun h hw => runI_trap hi rfl rfl (portWriteI_off h hw)⟩
  case writes =>
    dsimp only
    unfold Traps Does
    simp only [exec_poutr, exec_poutMode0, exec_poutMode1, exec_psetOr, exec_psetAndnot, exec_psetXor]
    refine ⟨fun h hw => ⟨runI_ok hi rfl rfl (portWriteI_on h hw), runI_ok hi rfl rfl (portWriteI_on h hw),
      runI_ok hi rfl rfl (portWriteI_on h hw), runI_ok hi rfl rfl (portWriteI_on h hw), ?_⟩,
      fun h => runI_trap hi rfl rfl (portWriteI_refused h), fun h hw => runI_trap hi rfl rfl (portWriteI_off h hw),
      fun h hw => runI_ok hi rfl rfl (portWriteI_on h hw)⟩
    obtain ⟨hlo, hhi⟩ := freeIn_range ((s.drainN p (s.pair p).queue.length).portWrite (s.ownerCode key)
      (portTarget (key / 16) port) ((s.ctx key).gr g)) (show 10 ≤ 40 by decide)
    exact ⟨_, hlo, hhi, runI_ok hi rfl rfl (portWriteI_on h hw)⟩

/-! ### Steps of a loop (R83, R117) -/
section
variable {id : Nat} {gd gs1 : BitVec 5} {s : State} {key : Nat} {c : Ctx}

theorem piInstr_refused (h : s.loopAllowed (key / 16) (s.loop id).owner = false) :
    piInstr id gd gs1 s key c = .trap s 0x0225 0 (BitVec.ofNat 32 id) :=
  if_pos (by rw [h]; rfl)

variable (h : s.loopAllowed (key / 16) (s.loop id).owner = true)
include h

/-- An error that is not finite leaves the loop as it was. -/
theorem piInstr_notFinite (he : fIsFinite (c.fr gs1) = false) : ∃ k, 4 ≤ k ∧ k ≤ 42 ∧ piInstr id gd gs1 s key c =
    .ok { s with freeCount := s.freeCount + 1 } ((c.setF gd (s.loop id).out).flags fNV) k .seq := by
  obtain ⟨hlo, hhi⟩ := freeIn_range s (show 4 ≤ 42 by decide)
  refine ⟨_, hlo, hhi, ?_⟩
  unfold piInstr
  dsimp only
  rw [if_neg (by rw [h]; decide), if_pos (by rw [he]; rfl)]
  rfl

theorem piInstr_steps (he : fIsFinite (c.fr gs1) = true) : ∃ k, 4 ≤ k ∧ k ≤ 42 ∧ piInstr id gd gs1 s key c =
    .ok (State.setLoop { s with freeCount := s.freeCount + 1 } id ((s.loop id).piStep (c.fr gs1)).1)
      (c.setFR gd ((s.loop id).piStep (c.fr gs1)).2) k .seq := by
  obtain ⟨hlo, hhi⟩ := freeIn_range s (show 4 ≤ 42 by decide)
  refine ⟨_, hlo, hhi, ?_⟩
  unfold piInstr
  dsimp only
  rw [if_neg (by rw [h]; decide), if_neg (by rw [he]; decide)]
  rfl
end

/-- An instruction whose effect is a step of loop `id` answers in one of the three ways of R83. -/
theorem exec_piInstr {s : State} {p : PairNo} {key id : Nat} {gd gs1 : BitVec 5} {i : Instr} {word : Word} {v2 : Bool}
    {f : State → Nat → Ctx → IRes} (hi : Issues p key s) (hv : (v2 && s.onnus1 key) = false)
    (he : exec i s = runI p word true v2 f s) (hf : f s key (s.ctx key) = piInstr id gd gs1 s key (s.ctx key)) :
    let c := s.ctx key; let l := s.loop id; let e := c.fr gs1; let t : State := { s with freeCount := s.freeCount + 1 }
    (s.loopAllowed (key / 16) l.owner = false → Traps key i s 0x0225 0 (BitVec.ofNat 32 id)) ∧
    (s.loopAllowed (key / 16) l.owner = true → fIsFinite e = false → ∃ k, 4 ≤ k ∧ k ≤ 42 ∧
      Does p key i s t ((c.setF gd l.out).flags fNV) k) ∧
    (s.loopAllowed (key / 16) l.owner = true → fIsFinite e = true → ∃ k, 4 ≤ k ∧ k ≤ 42 ∧
      Does p key i s (t.setLoop id (l.piStep e).1) (c.setFR gd (l.piStep e).2) k) := by
  unfold Traps Does
  rw [he]
  refine ⟨fun h => runI_trap hi rfl hv (hf.trans (piInstr_refused h)), fun h hn => ?_, fun h hn => ?_⟩
  · obtain ⟨k, hlo, hhi, hk⟩ := piInstr_notFinite (gd := gd) h hn
    exact ⟨k, hlo, hhi, runI_ok hi rfl hv (hf.trans hk)⟩
  · obtain ⟨k, hlo, hhi, hk⟩ := piInstr_steps (gd := gd) h hn
    exact ⟨k, hlo, hhi, runI_ok hi rfl hv (hf.trans hk)⟩

/-- A step keeps the error and the result; of CTRL it writes SATI and SATO alone. -/
theorem piStep_frame (l : LoopRec) (e : Word) : (l.piStep e).1.e = e ∧ (l.piStep e).1.out = (l.piStep e).2.1 ∧
    (l.piStep e).1.a = l.a ∧ (l.piStep e).1.b = l.b ∧ (l.piStep e).1.actB = l.actB ∧ (l.piStep e).1.pend = l.pend ∧
    (l.piStep e).1.owner = l.owner := by
  have ctrl : ∃ sati sato, (l.piStep e).1.ctrl = ((l.setCtrl 14 sati).setCtrl 13 sato).ctrl := ⟨_, _, rfl⟩
  obtain ⟨sati, sato, hc⟩ := ctrl
  have flags := saturation_flags l sati sato
  unfold LoopRec.actB LoopRec.pend LoopRec.owner at flags ⊢
  rw [hc]
  exact ⟨rfl, rfl, rfl, rfl, flags⟩

/-- Settles O35: both forms are a piInstr, whose step writes two flags beside I, E and OUT. -/
theorem onnusPistep : Obligations.OnnusPistep := by
  refine ⟨fun s p key gd gs1 imm hi hd h1 himm => ?pistep, fun s p key gd gs1 gs2 hi hd h1 ho => ?pistepr, piStep_frame⟩
  case pistep =>
    refine exec_piInstr hi (word := encB 0x34 gd gs1 imm) (f := piInstr imm.toNat gd gs1) (Bool.false_and _) ?_ rfl
    show execPistep p gd gs1 imm s = _
    unfold execPistep
    rw [hd, h1, decide_eq_true himm, Nat.mod_eq_of_lt himm]
    rfl
  case pistepr =>
    refine exec_piInstr hi (word := encA 8 gd gs1 gs2 0x009) (v2 := true)
      (f := fun s key c => piInstr ((c.gr gs2).toNat % 1024) gd gs1 s key c) ho ?_ rfl
    show execPistepr p gd gs1 gs2 s = _
    unfold execPistepr
    rw [hd, h1]
    rfl

/-! ### End instructions (R69, R104, R122, R128) -/
section
variable {word : Word} {src : Nat → Bool} {f : State → Nat → Ctx → State} {s : State} {key : Nat} {c : Ctx}

theorem endI_loopRuns (h : c.lcnt ≠ 0) : endI word src f s key c = .trap s 0x0220 0 word := if_pos h

variable (h : c.lcnt = 0)
include h

theorem endI_otherSource (hs : src (s.task key).src = false) : endI word src f s key c = .trap s 0x0227 0 word :=
  (if_neg (fun hne => hne h)).trans (if_pos (by rw [hs]; rfl))

theorem endI_ends (hs : src (s.task key).src = true) : endI word src f s key c = .fin (f s key c) c :=
  (if_neg (fun hne => hne h)).trans (if_neg (by rw [hs]; decide))
end

/-- What WAITCATCH does to its task: where the capture meets no uncorrectable word, it is an end instruction of a catch task;
where it does, the checks of an end instruction come first. -/
def waitcatchI (p : PairNo) (s : State) (key : Nat) (c : Ctx) : IRes :=
  match s.captureRead p key with
  | none =>
    if c.lcnt ≠ 0 then .trap s tILLEGAL 0 (encC 0x45 0 0)
    else if (s.task key).src ≠ srcCatch then .trap s tCONTEXT 0 (encC 0x45 0 0) else .ue
  | some u => endI (encC 0x45 0 0) (· == srcCatch) (fun _ key c => u.capture p key c) s key c

section
variable {p : PairNo} {s : State} {key : Nat} {c : Ctx}

theorem waitcatchI_loopRuns (h : c.lcnt ≠ 0) : waitcatchI p s key c = .trap s 0x0220 0 (encC 0x45 0 0) := by
  unfold waitcatchI
  split
  · exact if_pos h
  · exact endI_loopRuns h

variable (h : c.lcnt = 0)
include h

theorem waitcatchI_otherSource (hs : (s.task key).src ≠ srcCatch) : waitcatchI p s key c = .trap s 0x0227 0 (encC 0x45 0 0) := by
  unfold waitcatchI
  split
  · exact (if_neg (fun hne => hne h)).trans (if_pos hs)
  · exact endI_otherSource h (beq_eq_false_iff_ne.2 hs)

variable (hs : (s.task key).src = srcCatch)
include hs

theorem waitcatchI_uncorrectable (hc : s.captureRead p key = none) : waitcatchI p s key c = .ue := by
  unfold waitcatchI
  rw [hc]
  exact (if_neg (fun hne => hne h)).trans (if_neg (fun hne => hne hs))

theorem waitcatchI_ends {v : State} (hc : s.captureRead p key = some v) : waitcatchI p s key c = .fin (v.capture p key c) c := by
  unfold waitcatchI
  rw [hc]
  exact endI_ends h (beq_iff_eq.2 hs)
end

section
variable (p : PairNo) (s : State)

theorem exec_waitcatch : exec (.waitcatch p 0 0) s = runI p (encC 0x45 0 0) true false (waitcatchI p) s := rfl
theorem exec_yield : exec (.yield p 0 0) s = runI p (encC 0x46 0 0) true false
    (endI (encC 0x46 0 0) (fun x => x == srcTimer || x == srcSignal) (fun s _ _ => s)) s := rfl
theorem exec_ordend (gs1 : BitVec 5) : exec (.ordend p 0 gs1 0) s = runI p (encB 0x38 0 gs1 0) true false
    (endI (encB 0x38 0 gs1 0) (· == srcOrder) (fun s key c => s.laneOrdEnd (s.task key).idx (bitsOf (c.gr gs1).toNat 7 0))) s := rfl
end

section
variable {p : PairNo} {key : Nat} {s : State} (hi : Issues p key s)
include hi

/-- WAITCATCH and YIELD inside a loop (R122). -/
theorem end_loopRuns (h : (s.ctx key).lcnt ≠ 0) :
    Traps key (.waitcatch p 0 0) s 0x0220 0 (encC 0x45 0 0) ∧ Traps key (.yield p 0 0) s 0x0220 0 (encC 0x46 0 0) := by
  unfold Traps
  rw [exec_waitcatch, exec_yield]
  exact ⟨runI_trap hi rfl rfl (waitcatchI_loopRuns h), runI_trap hi rfl rfl (endI_loopRuns h)⟩

variable (h : (s.ctx key).lcnt = 0)
include h

theorem waitcatch_otherSource (hs : (s.task key).src ≠ srcCatch) : Traps key (.waitcatch p 0 0) s 0x0227 0 (encC 0x45 0 0) := by
  unfold Traps
  rw [exec_waitcatch]
  exact runI_trap hi rfl rfl (waitcatchI_otherSource h hs)

theorem waitcatch_uncorrectable (hs : (s.task key).src = srcCatch) (hc : s.captureRead p key = none) :
    exec (.waitcatch p 0 0) s = .next (s.pairFault p 0x0202) := by
  rw [exec_waitcatch]
  exact runI_ue hi rfl rfl (waitcatchI_uncorrectable h hs hc)

theorem waitcatch_ends (hs : (s.task key).src = srcCatch) {v : State} (hc : s.captureRead p key = some v) :
    exec (.waitcatch p 0 0) s = let u := (v.capture p key (s.ctx key)).retire p key ((s.ctx key).step .seq) 1
      .next (u.endActivation key (!(u.task key).unclean)) := by
  rw [exec_waitcatch]
  exact runI_fin hi rfl rfl (waitcatchI_ends h hs hc)

theorem yield_otherSource (hs : (s.task key).src ≠ srcTimer) (hg : (s.task key).src ≠ srcSignal) :
    Traps key (.yield p 0 0) s 0x0227 0 (encC 0x46 0 0) := by
  unfold Traps
  rw [exec_yield]
  exact runI_trap hi rfl rfl (endI_otherSource h (by simp [hs, hg]))

theorem yield_ends (hs : (s.task key).src = srcTimer ∨ (s.task key).src = srcSignal) :
    exec (.yield p 0 0) s = let u := s.retire p key ((s.ctx key).step .seq) 1
      .next (u.endActivation key (!(u.task key).unclean)) := by
  rw [exec_yield]
  exact runI_fin hi rfl rfl (endI_ends h (by simpa using hs))

theorem ordend_ends (gs1 : BitVec 5) (hs : (s.task key).src = srcOrder) : exec (.ordend p 0 gs1 0) s =
    let u := (s.laneOrdEnd (s.task key).idx (bitsOf ((s.ctx key).gr gs1).toNat 7 0)).retire p key ((s.ctx key).step .seq) 1
    .next (u.endActivation key (!(u.task key).unclean)) := by
  rw [exec_ordend]
  exact runI_fin hi rfl rfl (endI_ends h (beq_iff_eq.2 hs))
end

/-! ### Words of an order (R129) -/
section
variable {p : PairNo} {key : Nat} {s : State} (hi : Issues p key s) (gd gs1 : BitVec 5) (imm : BitVec 15)
include hi

theorem order_otherSource (hs : (s.task key).src ≠ srcOrder) : Traps key (.ordarg p gd gs1 imm) s 0x0227 0 (encB 0x35 gd gs1 imm) ∧
    (imm.toNat < 4 → Traps key (.ordhdr p gd 0 imm) s 0x0227 0 (encB 0x36 gd 0 imm)) := by
  show execOrdarg p gd gs1 imm s = _ ∧ (_ → execOrdhdr p gd 0 imm s = _)
  unfold execOrdarg execOrdhdr
  exact ⟨runI_trap hi rfl rfl (if_pos hs), fun h => runI_trap hi (by simp [h]) rfl (if_pos hs)⟩

variable (hs : (s.task key).src = srcOrder)
include hs

theorem ordarg_misaligned (ha : ((s.ctx key).gr gs1 + sext15 imm).toNat % 4 ≠ 0) :
    Traps key (.ordarg p gd gs1 imm) s 0x0221 0 ((s.ctx key).gr gs1 + sext15 imm) := by
  show execOrdarg p gd gs1 imm s = _
  unfold execOrdarg
  exact runI_trap hi rfl rfl ((if_neg (fun hne => hne hs)).trans (if_pos ha))

variable {o : OrderRec} (ho : s.taskOrder key = some o)
include ho

/-- A word of the order's arguments, 0 beyond them, comes in 20 to 60 cycles. -/
theorem ordarg_reads (ha : ((s.ctx key).gr gs1 + sext15 imm).toNat % 4 = 0) : ∃ k, 20 ≤ k ∧ k ≤ 60 ∧
    Does p key (.ordarg p gd gs1 imm) s { s with freeCount := s.freeCount + 1 } ((s.ctx key).setG gd (BitVec.ofNat 32
      (if ((s.ctx key).gr gs1 + sext15 imm).toNat < 4096 then leAt o.body ((s.ctx key).gr gs1 + sext15 imm).toNat 4 else 0))) k := by
  obtain ⟨hlo, hhi⟩ := freeIn_range s (show 20 ≤ 60 by decide)
  refine ⟨_, hlo, hhi, ?_⟩
  show execOrdarg p gd gs1 imm s = _
  unfold execOrdarg
  refine runI_ok hi rfl rfl ((if_neg (fun hne => hne hs)).trans ((if_neg (fun hne => hne ha)).trans ?_))
  rw [ho]
  rfl

theorem ordhdr_reads (hn : imm.toNat < 4) : ∃ k, 20 ≤ k ∧ k ≤ 60 ∧
    Does p key (.ordhdr p gd 0 imm) s { s with freeCount := s.freeCount + 1 } ((s.ctx key).setG gd (BitVec.ofNat 32
      (if imm.toNat = 0 then o.opcode else if imm.toNat = 1 then o.body.length else if imm.toNat = 2 then o.lane else o.flags))) k := by
  obtain ⟨hlo, hhi⟩ := freeIn_range s (show 20 ≤ 60 by decide)
  refine ⟨_, hlo, hhi, ?_⟩
  show execOrdhdr p gd 0 imm s = _
  unfold execOrdhdr
  refine runI_ok hi (by simp [hn]) rfl ((if_neg (fun hne => hne hs)).trans ?_)
  rw [ho]
  dsimp only
  generalize imm.toNat = n at hn ⊢
  obtain rfl | rfl | rfl | rfl : n = 0 ∨ n = 1 ∨ n = 2 ∨ n = 3 := by omega
  all_goals rfl
end

/-! ### CSRs and TRAP (R90, R131) -/
section
variable {p : PairNo} {key : Nat} {s : State} (hi : Issues p key s) (gd gs1 : BitVec 5)
include hi

theorem csrrd_reads {imm : BitVec 15} (hn : imm.toNat < 4096) (h2 : imm.toNat ≠ 2) :
    Does p key (.csrrd p gd 0 imm) s s ((s.ctx key).setG gd (s.csr p key (s.ctx key) imm.toNat)) 1 := by
  show execCsrrd p gd 0 imm s = _
  refine runI_ok hi (by simp [hn]) rfl ?_
  dsimp only
  rw [if_neg h2, if_neg h2]

/-- A read of CYCLE comes after the idle cycles and latches CYCLEH. -/
theorem csrrd_cycle {n : Nat} {u : State} (hf : s.free = (n, u)) : Does p key (.csrrd p gd 0 2) s (u.spend p n)
    ({ s.ctx key with cycleh := BitVec.ofNat 32 (((u.spend p n).pair p).cycle / 2 ^ 32) }.setG gd
      (BitVec.ofNat 32 ((u.spend p n).pair p).cycle)) 1 := by
  have idle : s.idleCycles p = u.spend p n := by
    unfold State.idleCycles
    rw [hf]
  show execCsrrd p gd 0 2 s = _
  refine runI_ok hi rfl rfl ?_
  rw [← idle]
  rfl

theorem csrwr_writes :
    Does p key (.csrwr p 0 gs1 8) s s { s.ctx key with resume := (s.ctx key).gr gs1 &&& 0xFFFC#32 } 1 ∧
    Does p key (.csrwr p 0 gs1 9) s s { s.ctx key with fstat := (s.ctx key).gr gs1 &&& 0x3F#32 } 1 := by
  show execCsrwr p 0 gs1 8 s = _ ∧ execCsrwr p 0 gs1 9 s = _
  unfold execCsrwr
  exact ⟨runI_ok hi rfl rfl rfl, runI_ok hi rfl rfl rfl⟩

theorem csrwr_readOnly {imm : BitVec 15} (h8 : imm.toNat ≠ 8) (h9 : imm.toNat ≠ 9) :
    Traps key (.csrwr p 0 gs1 imm) s 0x0220 0 (encB 0x33 0 gs1 imm) := by
  show execCsrwr p 0 gs1 imm s = _
  unfold execCsrwr
  exact runI_illegal hi (by simp [h8, h9])

theorem trap_soft {imm : BitVec 20} (h : imm.toNat < 256) : Traps key (.trap p 0 imm) s 0x0226 imm.toNat 0 := by
  show execTrap p 0 imm s = _
  exact runI_trap hi (by simp [h]) rfl rfl
end

/-- Settles O28: one lemma for each instruction in each of the cases that its checks tell apart. -/
theorem onnusSystem : Obligations.OnnusSystem := by
  refine ⟨fun s p key hi => ?ends, fun s p key gd gs1 imm hi hs => ?order,
    fun s p key gd gs1 imm hi hs => order_otherSource hi gd gs1 imm hs, fun s p key gd gs1 imm hi => ?csr,
    fun s p key imm hi h => trap_soft hi h⟩
  case ends =>
    refine ⟨end_loopRuns hi, fun h hs => ⟨waitcatch_uncorrectable hi h hs, fun v hc => waitcatch_ends hi h hs hc, ?_⟩,
      fun h hs => ⟨yield_ends hi h hs, ?_⟩, fun gs1 h hs => ordend_ends hi h gs1 hs⟩
    · exact yield_otherSource hi h (by rw [hs]; decide) (by rw [hs]; decide)
    · exact waitcatch_otherSource hi h (by rcases hs with hs | hs <;> rw [hs] <;> decide)
  case order =>
    exact ⟨ordarg_misaligned hi gd gs1 imm hs, fun o ho ha => ordarg_reads hi gd gs1 imm hs ho ha,
      fun o ho hn => ordhdr_reads hi gd imm hs ho hn⟩
  case csr =>
    obtain ⟨hresume, hfstat⟩ := csrwr_writes hi gs1
    exact ⟨fun hn h2 => csrrd_reads hi gd hn h2, fun n u hf => csrrd_cycle hi gd hf, hresume, hfstat,
      fun h8 h9 => csrwr_readOnly hi gs1 h8 h9⟩

end Sys2Proof.Machine
end

/-! The proofs of the statements on the Onnus instruction set (spec/03_onnus_isa.md), first part: the words of instructions and
the rule of loops. -/
section
namespace Sys2Proof.Machine

/-! ### The fields of an instruction word (R97) -/
section
open BitVec
variable {op func mode : Nat} (x y z : BitVec 5)

theorem fields_encA (hop : op < 0x80) (hfunc : func < 0x400) :
    wordOp (encA op x y z func) = op ∧ wordFunc (encA op x y z func) = func ∧ wordGd (encA op x y z func) = x ∧
    wordGs1 (encA op x y z func) = y ∧ wordGs2 (encA op x y z func) = z := by
  unfold wordOp wordFunc wordGd wordGs1 wordGs2 encA
  refine ⟨?_, ?_, ?_, ?_, ?_⟩
  · iterate 4 rw [extractLsb'_append_eq_of_le (by decide)]
    simp [hop]
  · rw [extractLsb'_append_eq_of_add_le (by decide)]
    simp [hfunc]
  · iterate 3 rw [extractLsb'_append_eq_of_le (by decide)]
    rw [extractLsb'_append_eq_of_add_le (by decide)]
    exact extractLsb'_eq_self
  · iterate 2 rw [extractLsb'_append_eq_of_le (by decide)]
    rw [extractLsb'_append_eq_of_add_le (by decide)]
    exact extractLsb'_eq_self
  · rw [extractLsb'_append_eq_of_le (by decide), extractLsb'_append_eq_of_add_le (by decide)]
    exact extractLsb'_eq_self

theorem fields_encB (imm : BitVec 15) (hop : op < 0x80) :
    wordOp (encB op x y imm) = op ∧ wordGd (encB op x y imm) = x ∧ wordGs1 (encB op x y imm) = y ∧
    wordImm15 (encB op x y imm) = imm := by
  unfold wordOp wordGd wordGs1 wordImm15 encB
  refine ⟨?_, ?_, ?_, ?_⟩
  · iterate 3 rw [extractLsb'_append_eq_of_le (by decide)]
    simp [hop]
  · iterate 2 rw [extractLsb'_append_eq_of_le (by decide)]
    rw [extractLsb'_append_eq_of_add_le (by decide)]
    exact extractLsb'_eq_self
  · rw [extractLsb'_append_eq_of_le (by decide), extractLsb'_append_eq_of_add_le (by decide)]
    exact extractLsb'_eq_self
  · rw [extractLsb'_append_eq_of_add_le (by decide)]
    exact extractLsb'_eq_self

theorem fields_encC (imm : BitVec 20) (hop : op < 0x80) :
    wordOp (encC op x imm) = op ∧ wordGd (encC op x imm) = x ∧ wordImm20 (encC op x imm) = imm := by
  unfold wordOp wordGd wordImm20 encC
  refine ⟨?_, ?_, ?_⟩
  · iterate 2 rw [extractLsb'_append_eq_of_le (by decide)]
    simp [hop]
  · rw [extractLsb'_append_eq_of_le (by decide), extractLsb'_append_eq_of_add_le (by decide)]
    exact extractLsb'_eq_self
  · rw [extractLsb'_append_eq_of_add_le (by decide)]
    exact extractLsb'_eq_self

theorem fields_encE (port : BitVec 16) (hop : op < 0x80) (hmode : mode < 0x10) :
    wordOp (encE op x port mode) = op ∧ wordMode (encE op x port mode) = mode ∧ wordGd (encE op x port mode) = x ∧
    wordPort (encE op x port mode) = port := by
  unfold wordOp wordMode wordGd wordPort encE
  refine ⟨?_, ?_, ?_, ?_⟩
  · iterate 3 rw [extractLsb'_append_eq_of_le (by decide)]
    simp [hop]
  · rw [extractLsb'_append_eq_of_add_le (by decide)]
    simp [hmode]
  · iterate 2 rw [extractLsb'_append_eq_of_le (by decide)]
    rw [extractLsb'_append_eq_of_add_le (by decide)]
    exact extractLsb'_eq_self
  · rw [extractLsb'_append_eq_of_le (by decide), extractLsb'_append_eq_of_add_le (by decide)]
    exact extractLsb'_eq_self
end

/-! ### The rows of the opcode map (R98): each format has opcodes of its own, and no two rows share opcode and function or mode -/
theorem rowsA_range : ∀ r ∈ rowsA, r.op < 0x10 ∧ r.func < 0x400 := by decide
theorem rowsB_range : ∀ r ∈ rowsB, 0x10 ≤ r.op ∧ r.op < 0x40 ∨ 0x50 ≤ r.op ∧ r.op < 0x60 := by decide
theorem rowsC_range : ∀ r ∈ rowsC, 0x40 ≤ r.op ∧ r.op < 0x50 := by decide
theorem rowsE_range : ∀ r ∈ rowsE, 0x60 ≤ r.op ∧ r.op < 0x80 ∧ r.mode < 0x10 := by decide

theorem rowsA_keys : (rowsA.map fun r => (r.op, r.func)).Nodup := by decide
theorem rowsB_keys : (rowsB.map RowB.op).Nodup := by decide
theorem rowsC_keys : (rowsC.map RowC.op).Nodup := by decide
theorem rowsE_keys : (rowsE.map fun r => (r.op, r.mode)).Nodup := by decide

/-- Where no two elements of a list share a key, a search for the key of one finds that one. -/
theorem find?_key {α β : Type} {l : List α} {key : α → β} (hn : (l.map key).Nodup) {q : α → Bool} {r : α} (hr : r ∈ l)
    (hq : ∀ x, q x = true ↔ key x = key r) : l.find? q = some r := by
  induction l with
  | nil => cases hr
  | cons y l ih =>
    obtain ⟨hy, hn⟩ := List.nodup_cons.1 hn
    rcases List.mem_cons.1 hr with rfl | hr
    · exact List.find?_cons_of_pos ((hq r).2 rfl)
    · have apart : ¬q y = true := fun h => hy ((hq y).1 h ▸ List.mem_map_of_mem hr)
      rw [List.find?_cons_of_neg apart]
      exact ih hn hr

section
variable (p : PairNo) {w : Word}

/-- A word whose opcode is one of format A is decoded by the rows of that format, and so on for the others. -/
theorem onnusDecode_A {r : RowA} (hr : r ∈ rowsA) (hop : wordOp w = r.op) (hfunc : wordFunc w = r.func) :
    onnusDecode p w = some (r.ins p (wordGd w) (wordGs1 w) (wordGs2 w)) := by
  unfold onnusDecode
  rw [find?_key rowsA_keys hr (fun x => by simp [hop, hfunc])]

theorem find?_rowsA_none (h : 0x10 ≤ wordOp w) : rowsA.find? (fun r => r.op == wordOp w && r.func == wordFunc w) = none := by
  refine List.find?_eq_none.2 fun r hr he => ?_
  have := rowsA_range r hr
  simp only [Bool.and_eq_true, beq_iff_eq] at he
  omega

theorem onnusDecode_B {r : RowB} (hr : r ∈ rowsB) (hop : wordOp w = r.op) :
    onnusDecode p w = some (r.ins p (wordGd w) (wordGs1 w) (wordImm15 w)) := by
  have := rowsB_range r hr
  unfold onnusDecode
  rw [find?_rowsA_none (by omega), find?_key rowsB_keys hr (fun x => by simp [hop])]

theorem find?_rowsB_none (h : 0x40 ≤ wordOp w ∧ wordOp w < 0x50 ∨ 0x60 ≤ wordOp w) :
    rowsB.find? (fun r => r.op == wordOp w) = none := by
  refine List.find?_eq_none.2 fun r hr he => ?_
  have := rowsB_range r hr
  rw [beq_iff_eq] at he
  omega

theorem onnusDecode_C {r : RowC} (hr : r ∈ rowsC) (hop : wordOp w = r.op) :
    onnusDecode p w = some (r.ins p (wordGd w) (wordImm20 w)) := by
  have := rowsC_range r hr
  unfold onnusDecode
  rw [find?_rowsA_none (by omega), find?_rowsB_none (by omega), find?_key rowsC_keys hr (fun x => by simp [hop])]

theorem find?_rowsC_none (h : 0x50 ≤ wordOp w) : rowsC.find? (fun r => r.op == wordOp w) = none := by
  refine List.find?_eq_none.2 fun r hr he => ?_
  have := rowsC_range r hr
  rw [beq_iff_eq] at he
  omega

theorem onnusDecode_E {r : RowE} (hr : r ∈ rowsE) (hop : wordOp w = r.op) (hmode : wordMode w = r.mode) :
    onnusDecode p w = some (r.ins p (wordGd w) (wordPort w)) := by
  have := rowsE_range r hr
  unfold onnusDecode
  rw [find?_rowsA_none (by omega), find?_rowsB_none (by omega), find?_rowsC_none (by omega),
    find?_key rowsE_keys hr (fun x => by simp [hop, hmode])]
end

/-- Settles O60: the fields of a word are those it was built from, and its opcode, with its function or mode, names one row. -/
theorem onnusWordsDecode : Obligations.OnnusWordsDecode := by
  refine fun p => ⟨fun r hr x y z => ?formatA, fun r hr x y z => ?formatB, fun r hr x z => ?formatC, fun r hr x z => ?formatE⟩
  case formatA =>
    obtain ⟨hop, hfunc⟩ := rowsA_range r hr
    obtain ⟨eop, efunc, egd, egs1, egs2⟩ := fields_encA x y z (show r.op < 0x80 by omega) hfunc
    rw [onnusDecode_A p hr eop efunc, egd, egs1, egs2]
  case formatB =>
    have hop := rowsB_range r hr
    obtain ⟨eop, egd, egs1, eimm⟩ := fields_encB x y z (show r.op < 0x80 by omega)
    rw [onnusDecode_B p hr eop, egd, egs1, eimm]
  case formatC =>
    obtain ⟨-, hop⟩ := rowsC_range r hr
    obtain ⟨eop, egd, eimm⟩ := fields_encC x z (show r.op < 0x80 by omega)
    rw [onnusDecode_C p hr eop, egd, eimm]
  case formatE =>
    obtain ⟨-, hop, hmode⟩ := rowsE_range r hr
    obtain ⟨eop, emode, egd, eport⟩ := fields_encE x z hop hmode
    rw [onnusDecode_E p hr eop emode, egd, eport]

/-! ### The loop state (R122) -/
section
variable (c : Ctx)

theorem step_seq_on (h : c.lcnt = 0 ∨ c.pc ≠ c.lend) : c.step .seq = { c with pc := c.pc + 4 } := by
  refine if_neg fun hc => ?_
  simp only [Bool.and_eq_true, decide_eq_true_eq] at hc
  exact h.elim hc.1 (fun hne => hne hc.2)

theorem step_seq_lend (h : c.lcnt ≠ 0) (hp : c.pc = c.lend) :
    c.step .seq = { c with lcnt := c.lcnt - 1, pc := if c.lcnt - 1 = 0 then c.pc + 4 else c.lbeg } :=
  if_pos (by rw [decide_eq_true h, decide_eq_true hp]; rfl)

theorem step_jump (t : BitVec 16) : c.step (.jump t) =
    { c with pc := t, lcnt := if c.lbeg.toNat ≤ t.toNat ∧ t.toNat ≤ c.lend.toNat then c.lcnt else 0 } := by
  simp only [Ctx.step, Bool.and_eq_true, decide_eq_true_eq]
end

/-- Settles O31: a step on at LEND of a running loop, one elsewhere, and a jump. -/
theorem loopRule : Obligations.LoopRule := by
  refine fun c => ⟨step_seq_on c, fun h0 h1 hp => ?again, fun h1 hp => ?last, fun t hlo hhi => ?inside, fun t ht => ?outside⟩
  case again =>
    have left : c.lcnt - 1 ≠ 0 := fun h => h1 ((BitVec.sub_eq_iff_eq_add.1 h).trans (BitVec.zero_add 1))
    rw [step_seq_lend c h0 hp, if_neg left]
  case last =>
    have none : c.lcnt - 1 = 0 := by rw [h1]; rfl
    rw [step_seq_lend c (by rw [h1]; decide) hp, none, if_pos rfl]
  case inside => rw [step_jump, if_pos ⟨hlo, hhi⟩]
  case outside => rw [step_jump, if_neg ht]

end Sys2Proof.Machine
end

/-! The proofs of the statements on the Onnus instruction set, second part: integer, multiply, divide, fixed-point, accumulator
and binary32 instructions. -/
section
namespace Sys2Proof.Machine

/-! ### Registers of a context: reading after writing (R93, R95) -/
section
variable (c : Ctx)

theorem setG_zero (v : Word) : c.setG 0 v = c := if_pos rfl

theorem setG_nonzero {r : BitVec 5} (v : Word) (h : r ≠ 0) : c.setG r v = { c with g := c.g.set r.toNat v r.isLt } := if_neg h

theorem gr_setG_same {r : BitVec 5} (v : Word) (h : r ≠ 0) : (c.setG r v).gr r = v := by
  rw [setG_nonzero c v h]
  exact Vector.getElem_set_self _

theorem gr_setG_other {r q : BitVec 5} (v : Word) (h : q ≠ r) : (c.setG r v).gr q = c.gr q := by
  by_cases hr : r = 0
  · rw [hr, setG_zero]
  · rw [setG_nonzero c v hr]
    exact Vector.getElem_set_ne r.isLt q.isLt (fun e => h (BitVec.eq_of_toNat_eq e.symm))

/-- A write to a g register leaves the float registers, the accumulators and FSTAT. -/
theorem setG_frame (r : BitVec 5) (v : Word) : (c.setG r v).f = c.f ∧ (c.setG r v).a = c.a ∧ (c.setG r v).fstat = c.fstat := by
  by_cases hr : r = 0
  · rw [hr, setG_zero]
    exact ⟨rfl, rfl, rfl⟩
  · rw [setG_nonzero c v hr]
    exact ⟨rfl, rfl, rfl⟩

theorem ar_setA_same (r : BitVec 5) (v : Acc) : (c.setA r v).ar r = v := Vector.getElem_set_self _

theorem ar_setA_other {r q : BitVec 5} (v : Acc) (hr : r.toNat < 8) (hq : q.toNat < 8) (h : q ≠ r) :
    (c.setA r v).ar q = c.ar q := by
  refine Vector.getElem_set_ne (Nat.mod_lt _ (by decide)) (Nat.mod_lt _ (by decide)) fun e => h (BitVec.eq_of_toNat_eq ?_)
  omega
end

/-! ### Integer instructions (R97, R109) -/
section
variable {s : State} {p : PairNo} {key : Nat} (hi : Issues p key s) (gd gs1 gs2 : BitVec 5) (imm : BitVec 15)
include hi

theorem intA_issues (op func cyc : Nat) (f : Word → Word → Word) : intA op func cyc true f p gd gs1 gs2 s =
    .next (s.retire p key (((s.ctx key).setG gd (f ((s.ctx key).gr gs1) ((s.ctx key).gr gs2))).step .seq) cyc) :=
  runReg_issues hi rfl rfl

theorem intB_issues (op : Nat) {ok : Bool} (hok : ok = true) (f : Word → Word) : intB op ok f p gd gs1 imm s =
    .next (s.retire p key (((s.ctx key).setG gd (f ((s.ctx key).gr gs1))).step .seq) 1) :=
  runReg_issues hi hok rfl

/-- The shifts by an immediate: bits above the count are 0. -/
theorem shift_does (h : imm.toNat < 32) : let c := s.ctx key; let a := c.gr gs1
    Does p key (.slli p gd gs1 imm) s s (c.setG gd (a <<< imm.toNat)) 1 ∧
    Does p key (.srli p gd gs1 imm) s s (c.setG gd (a >>> imm.toNat)) 1 ∧
    Does p key (.srai p gd gs1 imm) s s (c.setG gd (a.sshiftRight imm.toNat)) 1 := by
  have count : imm.toNat % 32 = imm.toNat := Nat.mod_eq_of_lt h
  have legal : shOk imm = true := decide_eq_true h
  show execSlli p gd gs1 imm s = _ ∧ execSrli p gd gs1 imm s = _ ∧ execSrai p gd gs1 imm s = _
  unfold execSlli execSrli execSrai
  rw [count]
  exact ⟨intB_issues hi gd gs1 imm _ legal _, intB_issues hi gd gs1 imm _ legal _, intB_issues hi gd gs1 imm _ legal _⟩

theorem clz_does : Does p key (.clz p gd gs1 0) s s ((s.ctx key).setG gd (BitVec.ofNat 32 (clz32 ((s.ctx key).gr gs1)))) 1 := by
  show execClz p gd gs1 0 s = _
  unfold execClz intA
  exact runReg_issues hi (beq_self_eq_true _) rfl
end

theorem lui_does {s : State} {p : PairNo} {key : Nat} (hi : Issues p key s) (gd : BitVec 5) (imm : BitVec 20) :
    Does p key (.lui p gd imm) s s ((s.ctx key).setG gd (imm ++ 0#12)) 1 := by
  show execLui p gd imm s = _
  exact runReg_issues hi rfl rfl

/-- Settles O15: each instruction is its operation on the sources, and what writing gd leaves is said of setG. -/
theorem onnusInteger : Obligations.OnnusInteger := by
  refine ⟨fun s p key gd gs1 gs2 hi => ?registers, fun s p key gd gs1 imm hi => ?immediates,
    fun s p key gd imm hi => lui_does hi gd imm, fun c r q v => ?frame⟩
  case registers =>
    have does := intA_issues hi gd gs1 gs2 1
    show execAdd p gd gs1 gs2 s = _ ∧ execSub p gd gs1 gs2 s = _ ∧ execAnd p gd gs1 gs2 s = _ ∧ execOr p gd gs1 gs2 s = _ ∧
      execXor p gd gs1 gs2 s = _ ∧ execSll p gd gs1 gs2 s = _ ∧ execSrl p gd gs1 gs2 s = _ ∧ execSra p gd gs1 gs2 s = _ ∧
      execSlt p gd gs1 gs2 s = _ ∧ execSltu p gd gs1 gs2 s = _ ∧ execMin p gd gs1 gs2 s = _ ∧ execMax p gd gs1 gs2 s = _ ∧
      execMinu p gd gs1 gs2 s = _ ∧ execMaxu p gd gs1 gs2 s = _ ∧ Does p key (.clz p gd gs1 0) s s _ 1
    exact ⟨does _ _ _, does _ _ _, does _ _ _, does _ _ _, does _ _ _, does _ _ _, does _ _ _, does _ _ _, does _ _ _,
      does _ _ _, does _ _ _, does _ _ _, does _ _ _, does _ _ _, clz_does hi gd gs1⟩
  case immediates =>
    have does (op : Nat) := intB_issues hi gd gs1 imm op rfl
    show execAddi p gd gs1 imm s = _ ∧ execAndi p gd gs1 imm s = _ ∧ execOri p gd gs1 imm s = _ ∧ execXori p gd gs1 imm s = _ ∧
      execSlti p gd gs1 imm s = _ ∧ execSltiu p gd gs1 imm s = _ ∧ (_ → _)
    exact ⟨does _ _, does _ _, does _ _, does _ _, does _ _, does _ _, shift_does hi gd gs1 imm⟩
  case frame =>
    exact ⟨setG_zero c v, gr_setG_same c v, gr_setG_other c v, setG_frame c r v⟩

/-! ### Division (R109) -/
section
variable {a b : Word}

theorem divide_by_zero (h : b = 0) : divS a b = 0xFFFFFFFF#32 ∧ divU a b = 0xFFFFFFFF#32 ∧ remS a b = a ∧ remU a b = a :=
  ⟨if_pos h, if_pos h, if_pos h, if_pos h⟩

theorem divide_overflow (ha : a = 0x80000000#32) (hb : b = 0xFFFFFFFF#32) : divS a b = 0x80000000#32 ∧ remS a b = 0 := by
  subst ha hb
  exact ⟨rfl, rfl⟩

variable (h : b ≠ 0)
include h

theorem divide_signed (hn : ¬(a = 0x80000000#32 ∧ b = 0xFFFFFFFF#32)) : divS a b = a.sdiv b ∧ remS a b = a.srem b := by
  have no : ¬((decide (a = 0x80000000#32) && decide (b = 0xFFFFFFFF#32)) = true) := fun hc => hn (by simpa using hc)
  exact ⟨(if_neg h).trans (if_neg no), (if_neg h).trans (if_neg no)⟩

theorem divide_unsigned : divU a b = a / b ∧ remU a b = a % b := ⟨if_neg h, if_neg h⟩
end

section
variable {s : State} {p : PairNo} {key : Nat} (hi : Issues p key s) (gd gs1 gs2 : BitVec 5)
include hi

theorem multiply_does : let c := s.ctx key; let a := c.gr gs1; let b := c.gr gs2
    Does p key (.mul p gd gs1 gs2) s s (c.setG gd (a * b)) 1 ∧
    Does p key (.mulh p gd gs1 gs2) s s (c.setG gd (BitVec.ofInt 32 (a.toInt * b.toInt / 2 ^ 32))) 1 ∧
    Does p key (.mulhu p gd gs1 gs2) s s (c.setG gd (BitVec.ofNat 32 (a.toNat * b.toNat / 2 ^ 32))) 1 := by
  have does (func : Nat) := intA_issues hi gd gs1 gs2 2 func 1
  show execMul p gd gs1 gs2 s = _ ∧ execMulh p gd gs1 gs2 s = _ ∧ execMulhu p gd gs1 gs2 s = _
  exact ⟨does _ _, does _ _, does _ _⟩

theorem divide_does : let c := s.ctx key; let a := c.gr gs1; let b := c.gr gs2
    Does p key (.div p gd gs1 gs2) s s (c.setG gd (divS a b)) 12 ∧
    Does p key (.divu p gd gs1 gs2) s s (c.setG gd (divU a b)) 12 ∧
    Does p key (.rem p gd gs1 gs2) s s (c.setG gd (remS a b)) 12 ∧
    Does p key (.remu p gd gs1 gs2) s s (c.setG gd (remU a b)) 12 := by
  have does (func : Nat) := intA_issues hi gd gs1 gs2 2 func 12
  show execDiv p gd gs1 gs2 s = _ ∧ execDivu p gd gs1 gs2 s = _ ∧ execRem p gd gs1 gs2 s = _ ∧ execRemu p gd gs1 gs2 s = _
  exact ⟨does _ _, does _ _, does _ _, does _ _⟩
end

/-- Settles O16: an instruction is its operation on the sources, and the divisions have their corner cases. -/
theorem onnusMulDiv : Obligations.OnnusMulDiv := by
  intro s p key gd gs1 gs2 hi
  obtain ⟨hmul, hmulh, hmulhu⟩ := multiply_does hi gd gs1 gs2
  obtain ⟨hdiv, hdivu, hrem, hremu⟩ := divide_does hi gd gs1 gs2
  refine ⟨hmul, hmulh, hmulhu, fun hb => ?zero, fun hb hn => ?signed, fun ha hb => ?overflow, fun hb => ?unsigned⟩
  case zero =>
    obtain ⟨ediv, edivu, erem, eremu⟩ := divide_by_zero (a := (s.ctx key).gr gs1) hb
    exact ⟨ediv ▸ hdiv, edivu ▸ hdivu, erem ▸ hrem, eremu ▸ hremu⟩
  case signed =>
    obtain ⟨ediv, erem⟩ := divide_signed hb hn
    exact ⟨ediv ▸ hdiv, erem ▸ hrem⟩
  case overflow =>
    obtain ⟨ediv, erem⟩ := divide_overflow ha hb
    exact ⟨ediv ▸ hdiv, erem ▸ hrem⟩
  case unsigned =>
    obtain ⟨edivu, eremu⟩ := divide_unsigned (a := (s.ctx key).gr gs1) hb
    exact ⟨edivu ▸ hdivu, eremu ▸ hremu⟩

end Sys2Proof.Machine
end

/-! The proofs of the statements on the Onnus instruction set, third part: saturating fixed point and the accumulators. -/
section
namespace Sys2Proof.Machine

/-! ### Saturation (R90, R110) -/
section
variable {w : Nat} {z : Int}

theorem satTo_inside (hlo : -(2 ^ (w - 1)) ≤ z) (hhi : z < 2 ^ (w - 1)) : satTo w z = z := by
  unfold satTo clampInt
  rw [if_neg (by omega), if_neg (by omega)]

theorem satTo_above (h : 2 ^ (w - 1) ≤ z) : satTo w z = 2 ^ (w - 1) - 1 := by
  have pos : (0 : Int) < 2 ^ (w - 1) := Int.pow_pos (by decide)
  unfold satTo clampInt
  rw [if_neg (by omega), if_pos (by omega)]

theorem satTo_below (h : z < -(2 ^ (w - 1))) : satTo w z = -(2 ^ (w - 1)) := if_pos h

theorem satFlag_same (h : satTo w z = z) : satFlag w z = fNone := by
  unfold satFlag
  rw [h, bne_self_eq_false]
  rfl

theorem satFlag_changed (h : satTo w z ≠ z) : satFlag w z = fQSAT := by
  unfold satFlag
  rw [bne_iff_ne.2 h]
  rfl
end

@[simp] theorem flags_none (c : Ctx) : c.flags fNone = c := by
  unfold Ctx.flags
  rw [show BitVec.ofNat 32 fNone.toNat = 0#32 from rfl, BitVec.or_zero]

section
variable (c : Ctx) (gd : BitVec 5) {z : Int}

theorem setGSat_inside (hlo : -(2 ^ 31) ≤ z) (hhi : z < 2 ^ 31) : c.setGSat gd z = c.setG gd (BitVec.ofInt 32 z) := by
  have same : satTo 32 z = z := satTo_inside hlo hhi
  unfold Ctx.setGSat
  rw [satFlag_same same, same, flags_none]

theorem setGSat_above (h : 2 ^ 31 ≤ z) : c.setGSat gd z = (c.setG gd 0x7FFFFFFF#32).flags fQSAT := by
  have top : satTo 32 z = 2 ^ 31 - 1 := satTo_above h
  unfold Ctx.setGSat
  rw [satFlag_changed (by omega), top]
  rfl

theorem setGSat_below (h : z < -(2 ^ 31)) : c.setGSat gd z = (c.setG gd 0x80000000#32).flags fQSAT := by
  have bottom : satTo 32 z = -(2 ^ 31) := satTo_below h
  unfold Ctx.setGSat
  rw [satFlag_changed (by omega), bottom]
  rfl
end

/-! ### Saturating fixed point (R110, R132) -/
/-- A shift count, the low 5 bits of a word, is the same of the word read signed. -/
theorem toInt_mod_32 (w : Word) : (w.toInt % 32).toNat = w.toNat % 32 := by
  rw [BitVec.toInt_eq_toNat_cond]
  split <;> omega

section
variable {s : State} {p : PairNo} {key : Nat} (hi : Issues p key s) (gd gs1 gs2 : BitVec 5)
include hi

theorem fixA_issues (func : Nat) {g2 : Bool} (hg : (g2 || gs2 == 0) = true) (f : Int → Int → Int) :
    fixA func g2 f p gd gs1 gs2 s = .next (s.retire p key
      (((s.ctx key).setGSat gd (f ((s.ctx key).gr gs1).toInt ((s.ctx key).gr gs2).toInt)).step .seq) 1) :=
  runReg_issues hi hg rfl

theorem fixH_issues (func : Nat) (f : Int → Int → Int) : fixH func f p gd gs1 gs2 s = .next (s.retire p key
    (((s.ctx key).setHalves gd (f (hiHalf ((s.ctx key).gr gs1)) (hiHalf ((s.ctx key).gr gs2)))
      (f (loHalf ((s.ctx key).gr gs1)) (loHalf ((s.ctx key).gr gs2)))).step .seq) 1) :=
  runReg_issues hi rfl rfl

theorem fixed_does : let c := s.ctx key; let a := (c.gr gs1).toInt; let b := (c.gr gs2).toInt
    Does p key (.qadd p gd gs1 gs2) s s (c.setGSat gd (a + b)) 1 ∧
    Does p key (.qsub p gd gs1 gs2) s s (c.setGSat gd (a - b)) 1 ∧
    Does p key (.qneg p gd gs1 0) s s (c.setGSat gd (-a)) 1 ∧
    Does p key (.qabs p gd gs1 0) s s (c.setGSat gd a.natAbs) 1 := by
  show execQadd p gd gs1 gs2 s = _ ∧ execQsub p gd gs1 gs2 s = _ ∧ execQneg p gd gs1 0 s = _ ∧ execQabs p gd gs1 0 s = _
  exact ⟨fixA_issues hi gd gs1 gs2 _ (Bool.true_or _) _, fixA_issues hi gd gs1 gs2 _ (Bool.true_or _) _,
    fixA_issues hi gd gs1 0 _ (beq_self_eq_true _) _, fixA_issues hi gd gs1 0 _ (beq_self_eq_true _) _⟩

theorem fixedShift_does : let c := s.ctx key; let a := (c.gr gs1).toInt; let n := (c.gr gs2).toNat % 32
    Does p key (.qshl p gd gs1 gs2) s s (c.setGSat gd (a * 2 ^ n)) 1 ∧
    Does p key (.qshr p gd gs1 gs2) s s (c.setGSat gd (if n = 0 then a else (a + 2 ^ (n - 1)) / 2 ^ n)) 1 := by
  dsimp only
  rw [← toInt_mod_32]
  show execQshl p gd gs1 gs2 s = _ ∧ execQshr p gd gs1 gs2 s = _
  exact ⟨fixA_issues hi gd gs1 gs2 _ (Bool.true_or _) _, fixA_issues hi gd gs1 gs2 _ (Bool.true_or _) _⟩

theorem fixedHalves_does : let c := s.ctx key
    let h1 := hiHalf (c.gr gs1); let h2 := hiHalf (c.gr gs2); let l1 := loHalf (c.gr gs1); let l2 := loHalf (c.gr gs2)
    Does p key (.qadd2 p gd gs1 gs2) s s (c.setHalves gd (h1 + h2) (l1 + l2)) 1 ∧
    Does p key (.qsub2 p gd gs1 gs2) s s (c.setHalves gd (h1 - h2) (l1 - l2)) 1 := by
  show execQadd2 p gd gs1 gs2 s = _ ∧ execQsub2 p gd gs1 gs2 s = _
  exact ⟨fixH_issues hi gd gs1 gs2 _ _, fixH_issues hi gd gs1 gs2 _ _⟩

/-- The products, with what is added before the shift in an image of each version. -/
theorem fixedProduct_does : let c := s.ctx key
    let h1 := hiHalf (c.gr gs1); let h2 := hiHalf (c.gr gs2); let l1 := loHalf (c.gr gs1); let l2 := loHalf (c.gr gs2)
    let half (k : Nat) : Int := if s.onnus1 key then 0 else 2 ^ k
    Does p key (.qmul p gd gs1 gs2) s s (c.setGSat gd (((c.gr gs1).toInt * (c.gr gs2).toInt + half 30) / 2 ^ 31)) 1 ∧
    Does p key (.qmul2 p gd gs1 gs2) s s (c.setHalves gd ((h1 * h2 + half 14) / 2 ^ 15) ((l1 * l2 + half 14) / 2 ^ 15)) 1 := by
  show execQmul p gd gs1 gs2 s = _ ∧ execQmul2 p gd gs1 gs2 s = _
  exact ⟨runI_ok hi rfl rfl rfl, runI_ok hi rfl rfl rfl⟩

theorem qpack_does (ho : s.onnus1 key = false) : let c := s.ctx key
    Does p key (.qpack p gd gs1 gs2) s s
      (c.setHalves gd (((c.gr gs1).toInt + 2 ^ 15) / 2 ^ 16) (((c.gr gs2).toInt + 2 ^ 15) / 2 ^ 16)) 1 := by
  show execQpack p gd gs1 gs2 s = _
  exact runReg_issues hi rfl ho
end

/-- Settles O17: each instruction saturates its exact result, and a clamp is seen where the result lies outside 32 bits. -/
theorem onnusFixed : Obligations.OnnusFixed := by
  refine ⟨fun s p key gd gs1 gs2 hi => ?does, fun c gd z =>
    ⟨fun hlo hhi => setGSat_inside c gd hlo hhi, fun h => setGSat_above c gd h, fun h => setGSat_below c gd h⟩⟩
  case does =>
    obtain ⟨hadd, hsub, hneg, habs⟩ := fixed_does hi gd gs1 gs2
    obtain ⟨hshl, hshr⟩ := fixedShift_does hi gd gs1 gs2
    obtain ⟨hadd2, hsub2⟩ := fixedHalves_does hi gd gs1 gs2
    refine ⟨hadd, hsub, hneg, habs, hshl, hshr, hadd2, hsub2, fun ho => ?_⟩
    obtain ⟨hmul, hmul2⟩ := fixedProduct_does hi gd gs1 gs2
    simp only [ho, Bool.false_eq_true, if_false] at hmul hmul2
    exact ⟨hmul, hmul2, qpack_does hi gd gs1 gs2 ho⟩

/-! ### Accumulators (R110, R111) -/
section
variable {s : State} {p : PairNo} {key : Nat} (hi : Issues p key s) (ad gs1 gs2 : BitVec 5) (ha : ad.toNat < 8)
include hi ha

theorem accA_issues (func : Nat) {v2 : Bool} (hv : (v2 && s.onnus1 key) = false) (f : Int → Word → Word → Int) :
    accA func v2 f p ad gs1 gs2 s = .next (s.retire p key (((s.ctx key).setASat ad
      (f ((s.ctx key).ar ad).toInt ((s.ctx key).gr gs1) ((s.ctx key).gr gs2))).step .seq) 1) :=
  runReg_issues hi (decide_eq_true ha) hv

theorem accumulate_does : let c := s.ctx key; let acc := (c.ar ad).toInt; let a := c.gr gs1; let b := c.gr gs2
    Does p key (.mac p ad gs1 gs2) s s (c.setASat ad (acc + a.toInt * b.toInt)) 1 ∧
    Does p key (.msu p ad gs1 gs2) s s (c.setASat ad (acc - a.toInt * b.toInt)) 1 ∧
    Does p key (.macz p ad gs1 gs2) s s (c.setASat ad (a.toInt * b.toInt)) 1 ∧
    (s.onnus1 key = false →
      Does p key (.mac2 p ad gs1 gs2) s s (c.setASat ad (acc + hiHalf a * hiHalf b + loHalf a * loHalf b)) 1) := by
  have does (func : Nat) := accA_issues hi ad gs1 gs2 ha func (Bool.false_and _)
  show execMac p ad gs1 gs2 s = _ ∧ execMsu p ad gs1 gs2 s = _ ∧ execMacz p ad gs1 gs2 s = _ ∧ (_ → execMac2 p ad gs1 gs2 s = _)
  exact ⟨does _ _, does _ _, does _ _, fun ho => accA_issues hi ad gs1 gs2 ha _ (v2 := true) ho _⟩

/-- Setting an accumulator, and reading it out with a shift that rounds. -/
theorem accumulator_does : let c := s.ctx key; let acc := (c.ar ad).toInt
    Does p key (.aclr p ad 0 0) s s (c.setA ad 0) 1 ∧
    Does p key (.awr p ad gs1 0) s s (c.setA ad (BitVec.ofInt 72 ((c.gr gs1).toInt * 2 ^ 31))) 1 ∧
    (∀ (gd : BitVec 5) (imm : BitVec 15), imm.toNat < 64 → Does p key (.ard p gd ad imm) s s
      (c.setGSat gd (if imm.toNat = 0 then acc else (acc + 2 ^ (imm.toNat - 1)) / 2 ^ imm.toNat)) 1) := by
  have legal : aOk ad = true := decide_eq_true ha
  show execAclr p ad 0 0 s = _ ∧ execAwr p ad gs1 0 s = _ ∧ ∀ gd imm, _ → execArd p gd ad imm s = _
  unfold execAclr execAwr execArd
  rw [legal]
  refine ⟨runReg_issues hi rfl rfl, runReg_issues hi rfl rfl, fun gd imm himm => ?_⟩
  rw [Nat.mod_eq_of_lt himm]
  exact runReg_issues hi (decide_eq_true himm) rfl
end

section
variable (c : Ctx) {r q : BitVec 5} {z : Int}

theorem toInt_ar_setASat (hlo : -(2 ^ 71) ≤ z) (hhi : z < 2 ^ 71) : ((c.setASat r z).ar r).toInt = z := by
  have same : satTo 72 z = z := satTo_inside hlo hhi
  unfold Ctx.setASat
  rw [satFlag_same same, same, flags_none, ar_setA_same]
  exact BitVec.toInt_ofInt_eq_self (by decide) hlo hhi

theorem ar_setASat_other (z : Int) (hr : r.toNat < 8) (hq : q.toNat < 8) (h : q ≠ r) : (c.setASat r z).ar q = c.ar q :=
  ar_setA_other c _ hr hq h
end

/-- Settles O18: each instruction writes its one accumulator or gd, and a saturated write reads back where it fits. -/
theorem onnusAccumulator : Obligations.OnnusAccumulator := by
  refine ⟨fun s p key ad gs1 gs2 hi ha => ?does, fun c r q z hr hq =>
    ⟨fun hlo hhi => toInt_ar_setASat c hlo hhi, fun h => ar_setASat_other c z hr hq h, rfl, rfl⟩⟩
  case does =>
    obtain ⟨hmac, hmsu, hmacz, hmac2⟩ := accumulate_does hi ad gs1 gs2 ha
    obtain ⟨haclr, hawr, hard⟩ := accumulator_does hi ad gs1 ha
    exact ⟨hmac, hmsu, hmacz, haclr, hawr, hmac2, hard⟩

end Sys2Proof.Machine
end

/-! The proofs of the statements on the Onnus instruction set, fourth part: binary32 and the drive operations. -/
section
namespace Sys2Proof.Machine

/-! ### Binary32 (R95, R107, R108, R132) -/
section
variable {s : State} {p : PairNo} {key : Nat} (hi : Issues p key s) (gd gs1 gs2 : BitVec 5)
include hi

section
variable (hd : fOk gd = true) (h1 : fOk gs1 = true)
include hd h1

theorem floatU_issues (func cyc : Nat) (f : Word → FRes) : floatU func cyc f p gd gs1 0 s =
    .next (s.retire p key (((s.ctx key).setFR gd (f ((s.ctx key).fr gs1))).step .seq) cyc) :=
  runReg_issues hi (by rw [hd, h1]; rfl) rfl

theorem float1_does : let c := s.ctx key; let a := c.fr gs1
    Does p key (.fsqrt p gd gs1 0) s s (c.setFR gd (fsqrt a)) 12 ∧
    Does p key (.fabs p gd gs1 0) s s ((c.setF gd (fabs a)).flags fNone) 1 ∧
    Does p key (.fneg p gd gs1 0) s s ((c.setF gd (fneg a)).flags fNone) 1 := by
  show execFsqrt p gd gs1 0 s = _ ∧ execFabs p gd gs1 0 s = _ ∧ execFneg p gd gs1 0 s = _
  exact ⟨floatU_issues hi gd gs1 hd h1 _ _ _, floatU_issues hi gd gs1 hd h1 _ _ _, floatU_issues hi gd gs1 hd h1 _ _ _⟩

variable (h2 : fOk gs2 = true)
include h2

theorem floatA_issues (func cyc : Nat) (f : Word → Word → FRes) : floatA func cyc f p gd gs1 gs2 s =
    .next (s.retire p key (((s.ctx key).setFR gd (f ((s.ctx key).fr gs1) ((s.ctx key).fr gs2))).step .seq) cyc) :=
  runReg_issues hi (by rw [hd, h1, h2]; rfl) rfl

theorem float2_does : let c := s.ctx key; let a := c.fr gs1; let b := c.fr gs2
    Does p key (.fadd p gd gs1 gs2) s s (c.setFR gd (fadd a b)) 1 ∧
    Does p key (.fsub p gd gs1 gs2) s s (c.setFR gd (fsub a b)) 1 ∧
    Does p key (.fmul p gd gs1 gs2) s s (c.setFR gd (fmul a b)) 1 ∧
    Does p key (.fdiv p gd gs1 gs2) s s (c.setFR gd (fdiv a b)) 12 ∧
    Does p key (.fmin p gd gs1 gs2) s s (c.setFR gd (fmin a b)) 1 ∧
    Does p key (.fmax p gd gs1 gs2) s s (c.setFR gd (fmax a b)) 1 := by
  have does := floatA_issues hi gd gs1 gs2 hd h1 h2
  show execFadd p gd gs1 gs2 s = _ ∧ execFsub p gd gs1 gs2 s = _ ∧ execFmul p gd gs1 gs2 s = _ ∧ execFdiv p gd gs1 gs2 s = _ ∧
    execFmin p gd gs1 gs2 s = _ ∧ execFmax p gd gs1 gs2 s = _
  exact ⟨does _ _ _, does _ _ _, does _ _ _, does _ _ _, does _ _ _, does _ _ _⟩

theorem fsat_does (ho : s.onnus1 key = false) : Does p key (.fsat p gd gs1 gs2) s s
    ((s.ctx key).setFR gd (fsat ((s.ctx key).fr gs1) ((s.ctx key).fr gs2))) 1 := by
  show execFsat p gd gs1 gs2 s = _
  exact runReg_issues hi (by rw [hd, h1, h2]; rfl) ho
end
end

/-- x × y + z, in one rounded step, or with the product rounded before the sum. -/
def multiplyAdd (two : Bool) (x y z : Word) : FRes :=
  if two then ((fadd (fmul x y).1 z).1, (fmul x y).2.or (fadd (fmul x y).1 z).2) else ffma x y z

section
variable {s : State} {p : PairNo} {key : Nat} (hi : Issues p key s) (gd gs1 gs2 : BitVec 5)
include hi

section
variable (hd : fOk gd = true) (h1 : fOk gs1 = true) (h2 : fOk gs2 = true)
include hd h1 h2

/-- An image of Onnus 1 rounds twice, one of Onnus 2 once. -/
theorem fmaI_issues (func : Nat) (neg : Bool) : let c := s.ctx key; fmaI func neg p gd gs1 gs2 s =
    .next (s.retire p key ((c.setFR gd (multiplyAdd (s.onnus1 key) (if neg then fneg (c.fr gs1) else c.fr gs1)
      (c.fr gs2) (c.fr gd))).step .seq) 1) := by
  unfold fmaI multiplyAdd
  exact runI_ok hi (by rw [hd, h1, h2]; rfl) (Bool.false_and _) rfl

theorem multiplyAdd_does : let c := s.ctx key; let a := c.fr gs1; let b := c.fr gs2; let d := c.fr gd
    Does p key (.fma p gd gs1 gs2) s s (c.setFR gd (multiplyAdd (s.onnus1 key) a b d)) 1 ∧
    Does p key (.fnms p gd gs1 gs2) s s (c.setFR gd (multiplyAdd (s.onnus1 key) (fneg a) b d)) 1 := by
  have does := fmaI_issues hi gd gs1 gs2 hd h1 h2
  show execFma p gd gs1 gs2 s = _ ∧ execFnms p gd gs1 gs2 s = _
  exact ⟨does _ false, does _ true⟩
end

theorem cvtGF_issues (h1 : fOk gs1 = true) (func : Nat) (f : Word → Word × FFlags) : cvtGF func f p gd gs1 0 s =
    .next (s.retire p key
      ((((s.ctx key).setG gd (f ((s.ctx key).fr gs1)).1).flags (f ((s.ctx key).fr gs1)).2).step .seq) 1) :=
  runReg_issues hi (by rw [h1]; rfl) rfl

theorem cvtFG_issues (hd : fOk gd = true) (func : Nat) (f : Word → FRes) : cvtFG func f p gd gs1 0 s =
    .next (s.retire p key (((s.ctx key).setFR gd (f ((s.ctx key).gr gs1))).step .seq) 1) :=
  runReg_issues hi (by rw [hd]; rfl) rfl

theorem cmpF_issues (h1 : fOk gs1 = true) (h2 : fOk gs2 = true) (func : Nat) (quiet : Bool) (f : Word → Word → Bool) :
    let c := s.ctx key; let a := c.fr gs1; let b := c.fr gs2
    cmpF func quiet f p gd gs1 gs2 s = .next (s.retire p key (((c.setG gd (if f a b then 1 else 0)).flags
      { nv := if quiet then fIsSNan a || fIsSNan b else fIsNan a || fIsNan b }).step .seq) 1) :=
  runReg_issues hi (by rw [h1, h2]; rfl) rfl

theorem convertToG_does (h1 : fOk gs1 = true) : let c := s.ctx key; let a := c.fr gs1
    Does p key (.fcvtWS p gd gs1 0) s s ((c.setG gd (fcvtWS a).1).flags (fcvtWS a).2) 1 ∧
    Does p key (.fcvtQS p gd gs1 0) s s ((c.setG gd (fcvtQS a).1).flags (fcvtQS a).2) 1 ∧
    Does p key (.fmvGF p gd gs1 0) s s ((c.setG gd a).flags fNone) 1 := by
  have does := cvtGF_issues hi gd gs1 h1
  show execFcvtWS p gd gs1 0 s = _ ∧ execFcvtQS p gd gs1 0 s = _ ∧ execFmvGF p gd gs1 0 s = _
  exact ⟨does _ _, does _ _, does _ _⟩

theorem convertToF_does (hd : fOk gd = true) : let c := s.ctx key; let v := c.gr gs1
    Does p key (.fcvtSW p gd gs1 0) s s (c.setFR gd (w32 (f32.ofInt v.toInt 0))) 1 ∧
    Does p key (.fcvtSQ p gd gs1 0) s s (c.setFR gd (w32 (f32.ofInt v.toInt (-31)))) 1 ∧
    Does p key (.fmvFG p gd gs1 0) s s ((c.setF gd v).flags fNone) 1 := by
  have does := cvtFG_issues hi gd gs1 hd
  show execFcvtSW p gd gs1 0 s = _ ∧ execFcvtSQ p gd gs1 0 s = _ ∧ execFmvFG p gd gs1 0 s = _
  exact ⟨does _ _, does _ _, does _ _⟩

theorem compare_does (h1 : fOk gs1 = true) (h2 : fOk gs2 = true) : let c := s.ctx key; let a := c.fr gs1; let b := c.fr gs2
    Does p key (.feq p gd gs1 gs2) s s ((c.setG gd (if feq a b then 1 else 0)).flags { nv := fIsSNan a || fIsSNan b }) 1 ∧
    Does p key (.flt p gd gs1 gs2) s s ((c.setG gd (if flt a b then 1 else 0)).flags { nv := fIsNan a || fIsNan b }) 1 ∧
    Does p key (.fle p gd gs1 gs2) s s ((c.setG gd (if fle a b then 1 else 0)).flags { nv := fIsNan a || fIsNan b }) 1 := by
  have does := cmpF_issues hi gd gs1 gs2 h1 h2
  show execFeq p gd gs1 gs2 s = _ ∧ execFlt p gd gs1 gs2 s = _ ∧ execFle p gd gs1 gs2 s = _
  exact ⟨does _ true _, does _ false _, does _ false _⟩
end

/-- Settles O19: each form with legal fields is its rounded operation. -/
theorem onnusFloat : Obligations.OnnusFloat := by
  refine ⟨fun s p key gd gs1 gs2 hi hd h1 h2 => ?arithmetic, fun s p key gd gs1 hi h1 => convertToG_does hi gd gs1 h1,
    fun s p key gd gs1 hi hd => convertToF_does hi gd gs1 hd, fun s p key gd gs1 gs2 hi h1 h2 => compare_does hi gd gs1 gs2 h1 h2⟩
  case arithmetic =>
    obtain ⟨hadd, hsub, hmul, hdiv, hmin, hmax⟩ := float2_does hi gd gs1 gs2 hd h1 h2
    obtain ⟨hsqrt, habs, hneg⟩ := float1_does hi gd gs1 hd h1
    obtain ⟨hfma, hfnms⟩ := multiplyAdd_does hi gd gs1 gs2 hd h1 h2
    refine ⟨hadd, hsub, hmul, hdiv, hmin, hmax, hsqrt, habs, hneg, fun ho => ?_, fun ho => ?_⟩
    · rw [ho] at hfma hfnms
      exact ⟨hfma, hfnms, fsat_does hi gd gs1 gs2 hd h1 h2 ho⟩
    · rw [ho] at hfma hfnms
      exact ⟨hfma, hfnms⟩

/-! ### Drive operations (R112 to R116) -/
/-- The fields of LIM2 and LIM2D. -/
theorem limit_legal {gd gs1 : BitVec 5} (hd : fOk gd = true) (he : evenOk gd = true) (h1 : fOk gs1 = true) :
    (fOk gd && evenOk gd && fOk gs1 && (0 : BitVec 5) == 0) = true := by
  rw [hd, he, h1]
  rfl

section
variable {s : State} {p : PairNo} {key : Nat} (hi : Issues p key s) (gd gs1 gs2 : BitVec 5)
include hi

theorem atan2_does (h1 : fOk gs1 = true) (h2 : fOk gs2 = true) : let c := s.ctx key; let r := atan2 (c.fr gs1) (c.fr gs2)
    Does p key (.atan2 p gd gs1 gs2) s s ((c.setG gd r.1).flags r.2) 8 := by
  show execAtan2 p gd gs1 gs2 s = _
  exact runReg_issues hi (by rw [h1, h2]; rfl) rfl

section
variable (hd : fOk gd = true) (he : evenOk gd = true)
include hd he

theorem sincos_does : let c := s.ctx key
    Does p key (.sincos p gd gs1 0) s s (c.setFPair gd (sinCos (c.gr gs1)).1 (sinCos (c.gr gs1)).2) 2 := by
  show execSincos p gd gs1 0 s = _
  exact runReg_issues hi (by rw [hd, he]; rfl) rfl

variable (h1 : fOk gs1 = true)
include h1

theorem clarke_does (h2 : fOk gs2 = true) : let c := s.ctx key; let a := c.fr gs1; let b := c.fr gs2
    let t := fadd a b; let u := fadd t.1 b; let r := fmul u.1 clarkeK
    Does p key (.clarke p gd gs1 gs2) s s (c.setFPair gd (a, fNone) (r.1, (t.2.or u.2).or r.2)) 2 := by
  show execClarke p gd gs1 gs2 s = _
  exact runReg_issues hi (by rw [hd, he, h1, h2]; rfl) rfl

theorem rotate_does (he1 : evenOk gs1 = true) : let c := s.ctx key; let sc := sinCos (c.gr gs2)
    let x := c.fr gs1; let y := c.fr (nextReg gs1); let xs := fmul x sc.1.1; let xc := fmul x sc.2.1
    let fl := (xc.2.or xs.2).or (sc.1.2.or sc.2.2)
    Does p key (.park p gd gs1 gs2) s s
      ((c.setFPair gd (ffma y sc.1.1 xc.1) (ffma y sc.2.1 (fneg xs.1))).flags fl) 3 ∧
    Does p key (.ipark p gd gs1 gs2) s s
      ((c.setFPair gd (ffma (fneg y) sc.1.1 xc.1) (ffma y sc.2.1 xs.1)).flags fl) 3 := by
  have legal : (fOk gd && evenOk gd && fOk gs1 && evenOk gs1) = true := by rw [hd, he, h1, he1]; rfl
  show execPark p gd gs1 gs2 s = _ ∧ execIpark p gd gs1 gs2 s = _
  exact ⟨runReg_issues hi legal rfl, runReg_issues hi legal rfl⟩
end

/-- An issued instruction on the task's registers, by what it makes of its context. -/
theorem runReg_ok {word : Word} {legal v2 : Bool} {cyc : Nat} {f : Ctx → Ctx} {c : Ctx} (hl : legal = true)
    (hv : (v2 && s.onnus1 key) = false) (hf : f (s.ctx key) = c) :
    runReg p word legal v2 cyc f s = .next (s.retire p key (c.step .seq) cyc) :=
  hf ▸ runReg_issues hi hl hv

section
variable (legal : (fOk gd && evenOk gd && fOk gs1 && (0 : BitVec 5) == 0) = true) (ho : s.onnus1 key = false)
include legal ho

/-- A radius that is NaN or negative sets NV and changes nothing else. -/
theorem limit_badRadius (h : limBad ((s.ctx key).fr gs1) = true) :
    Does p key (.lim2 p gd gs1 0) s s ((s.ctx key).flags fNV) 6 ∧
    Does p key (.lim2d p gd gs1 0) s s ((s.ctx key).flags fNV) 6 := by
  show execLim2 p gd gs1 0 s = _ ∧ execLim2d p gd gs1 0 s = _
  exact ⟨runReg_ok hi legal ho (if_pos h), runReg_ok hi legal ho (if_pos h)⟩

variable (h : limBad ((s.ctx key).fr gs1) = false)
include h

theorem lim2_does : let c := s.ctx key; let r := c.fr gs1; let x := c.fr gd; let y := c.fr (nextReg gd)
    let xx := fmul x x; let m := ffma y y xx.1; let rr := fmul r r; let q := fsqrt m.1; let h := fdiv r q.1
    let fl := ((xx.2.or m.2).or rr.2).or { nv := fIsNan m.1 || fIsNan rr.1 }
    (flt rr.1 m.1 = false → Does p key (.lim2 p gd gs1 0) s s (c.flags fl) 6) ∧
    (flt rr.1 m.1 = true → Does p key (.lim2 p gd gs1 0) s s
      ((c.setFPair gd (fmul x h.1) (fmul y h.1)).flags (fl.or (q.2.or h.2))) 6) := by
  have good : ¬limBad ((s.ctx key).fr gs1) = true := by rw [h]; decide
  show (_ → execLim2 p gd gs1 0 s = _) ∧ (_ → execLim2 p gd gs1 0 s = _)
  exact ⟨fun hin => runReg_ok hi legal ho ((if_neg good).trans (if_neg (by rw [hin]; decide))),
    fun hout => runReg_ok hi legal ho ((if_neg good).trans (if_pos hout))⟩

theorem lim2d_does : let c := s.ctx key; let r := c.fr gs1; let x := c.fr gd; let y := c.fr (nextReg gd)
    let x0 := fmax x (fneg r); let x1 := fmin x0.1 r; let rr := fmul r r; let d := ffma (fneg x1.1) x1.1 rr.1
    let z := fmax d.1 0; let w := fsqrt z.1; let y0 := fmax y (fneg w.1); let y1 := fmin y0.1 w.1
    Does p key (.lim2d p gd gs1 0) s s
      ((c.setFPair gd x1 y1).flags ((x0.2.or rr.2).or ((d.2.or z.2).or (w.2.or y0.2)))) 6 := by
  have good : ¬limBad ((s.ctx key).fr gs1) = true := by rw [h]; decide
  show execLim2d p gd gs1 0 s = _
  exact runReg_ok hi legal ho (if_neg good)
end

/-! BIQ on a block at the address in gs2. -/
section
variable (hd : fOk gd = true) (h1 : fOk gs1 = true)
include hd h1

theorem biq_misaligned (ha : ((s.ctx key).gr gs2).toNat % 4 ≠ 0) :
    Traps key (.biq p gd gs1 gs2) s 0x0221 0 ((s.ctx key).gr gs2) := by
  show execBiq p gd gs1 gs2 s = _
  exact runI_trap hi (by rw [hd, h1]; rfl) rfl (if_pos ha)

variable (ha : ((s.ctx key).gr gs2).toNat % 4 = 0)
include ha

theorem biq_outside (hb : 0x1E800 < ((s.ctx key).gr gs2).toNat + 28) :
    Traps key (.biq p gd gs1 gs2) s 0x0222 0 ((s.ctx key).gr gs2) := by
  show execBiq p gd gs1 gs2 s = _
  exact runI_trap hi (by rw [hd, h1]; rfl) rfl ((if_neg (fun hne => hne ha)).trans (if_pos hb))

variable (hb : ((s.ctx key).gr gs2).toNat + 28 ≤ 0x1E800)
include hb

theorem biq_uncorrectable (hu : s.memRead p true ((s.ctx key).gr gs2).toNat 28 = none) :
    exec (.biq p gd gs1 gs2) s = .next (s.pairFault p 0x0202) := by
  show execBiq p gd gs1 gs2 s = _
  refine runI_ue hi (by rw [hd, h1]; rfl) rfl ((if_neg (fun hne => hne ha)).trans ((if_neg (Nat.not_lt.2 hb)).trans ?_))
  rw [hu]

theorem biq_does {u : State} (hu : s.memRead p true ((s.ctx key).gr gs2).toNat 28 = some u) :
    let c := s.ctx key; let a := (c.gr gs2).toNat; let x := c.fr gs1
    let w (i : Nat) := BitVec.ofNat 32 (cellWord (u.pair p).dmem (a + 4 * i) 4)
    let y := ffma (w 0) x (w 5); let n1 := ffma (fneg (w 3)) y.1 (ffma (w 1) x (w 6)).1
    let n2 := ffma (fneg (w 4)) y.1 (fmul (w 2) x).1
    Does p key (.biq p gd gs1 gs2) s (u.dmemSet p (a + 20) (leBytes 4 n1.1.toNat ++ leBytes 4 n2.1.toNat))
      ((c.setF gd y.1).flags ((y.2.or ((ffma (w 1) x (w 6)).2.or n1.2)).or ((fmul (w 2) x).2.or n2.2))) 6 := by
  show execBiq p gd gs1 gs2 s = _
  refine runI_ok hi (by rw [hd, h1]; rfl) rfl ((if_neg (fun hne => hne ha)).trans ((if_neg (Nat.not_lt.2 hb)).trans ?_))
  rw [hu]
  rfl
end
end

/-- Settles O20: each operation is its steps on the registers, LIM2 and BIQ by the cases that their checks tell apart. -/
theorem onnusDrive : Obligations.OnnusDrive := by
  refine ⟨fun s p key gd gs1 gs2 hi hd he h1 h2 => clarke_does hi gd gs1 gs2 hd he h1 h2,
    fun s p key gd gs1 gs2 hi hd he h1 he1 => rotate_does hi gd gs1 gs2 hd he h1 he1,
    fun s p key gd gs1 hi hd he => sincos_does hi gd gs1 hd he, fun s p key gd gs1 gs2 hi h1 h2 => atan2_does hi gd gs1 gs2 h1 h2,
    fun s p key gd gs1 gs2 hi hd h1 => ?biq, fun s p key gd gs1 hi hd he h1 ho => ?limit⟩
  case biq =>
    exact ⟨fun ha => biq_misaligned hi gd gs1 gs2 hd h1 ha, fun ha hb => biq_outside hi gd gs1 gs2 hd h1 ha hb,
      fun ha hb hu => biq_uncorrectable hi gd gs1 gs2 hd h1 ha hb hu, fun ha hb u hu => biq_does hi gd gs1 gs2 hd h1 ha hb hu⟩
  case limit =>
    have legal := limit_legal hd he h1
    refine ⟨fun hbad => limit_badRadius hi gd gs1 legal ho (Bool.or_eq_true_iff.2 hbad), fun hnan hneg => ?_⟩
    have good : limBad ((s.ctx key).fr gs1) = false := Bool.or_eq_false_iff.2 ⟨hnan, hneg⟩
    exact ⟨lim2d_does hi gd gs1 legal ho good, lim2_does hi gd gs1 legal ho good⟩

end Sys2Proof.Machine
end

/-! The proofs of the statements on the Onnus instruction set, fifth part: atomics, branches, jumps and loops, the outbound queue,
and what an image of Onnus 1 does differently. -/
section
namespace Sys2Proof.Machine

/-! ### Atomics (R44, R101, R103, R119) -/
section
variable {p : PairNo} {gd gs1 : BitVec 5} {new : Ctx → Word → Option Word} {s : State} {key : Nat} {c : Ctx}

theorem atomicI_misaligned (h : (c.gr gs1).toNat % 4 ≠ 0) :
    atomicI p gd gs1 new s key c = .trap s 0x0221 0 (c.gr gs1) :=
  if_pos h

variable (h : (c.gr gs1).toNat % 4 = 0)
include h

theorem atomicI_noTarget (ht : s.memTarget (c.gr gs1).toNat 4 = .bad) :
    atomicI p gd gs1 new s key c = .trap s 0x0222 0 (c.gr gs1) := by
  unfold atomicI
  rw [if_neg (fun hne => hne h), ht]

section
variable (ht : s.memTarget (c.gr gs1).toNat 4 = .dmem)
include ht

theorem atomicI_uncorrectable (hu : s.memRead p true (c.gr gs1).toNat 4 = none) : atomicI p gd gs1 new s key c = .ue := by
  unfold atomicI
  rw [if_neg (fun hne => hne h), ht]
  dsimp only
  rw [hu]

/-- In DMEM the word is replaced by what `new` says of the old one, or kept. -/
theorem atomicI_dmem {u : State} (hu : s.memRead p true (c.gr gs1).toNat 4 = some u) :
    let old := BitVec.ofNat 32 (cellWord (u.pair p).dmem (c.gr gs1).toNat 4)
    atomicI p gd gs1 new s key c =
      .ok ((new c old).elim u fun v => u.dmemSet p (c.gr gs1).toNat (leBytes 4 v.toNat)) (c.setG gd old) 1 .seq := by
  unfold atomicI
  rw [if_neg (fun hne => hne h), ht]
  dsimp only
  rw [hu]
  dsimp only
  cases new c (BitVec.ofNat 32 (cellWord (u.pair p).dmem (c.gr gs1).toNat 4)) <;> rfl
end

section
variable (ht : s.memTarget (c.gr gs1).toNat 4 = .sram)
include ht

theorem atomicI_foreign (hf : s.dmaForeign (s.ownerCode key) (c.gr gs1).toNat 4 = true) :
    atomicI p gd gs1 new s key c = .trap s 0x0222 0 (c.gr gs1) := by
  unfold atomicI
  rw [if_neg (fun hne => hne h), ht]
  exact if_pos hf

/-- In shared SRAM the queue has drained, and the old word comes after a number of cycles that is free. -/
theorem atomicI_sram {v : Nat} {t : State} (hf : s.dmaForeign (s.ownerCode key) (c.gr gs1).toNat 4 = false)
    (hv : (s.drainN p (s.pair p).queue.length).sramLoad (c.gr gs1).toNat 4 = (some v, t)) :
    let u : State := { t with freeCount := t.freeCount + 1 }
    atomicI p gd gs1 new s key c = .ok ((new c (BitVec.ofNat 32 v)).elim u fun x => u.wrN (c.gr gs1).toNat 4 x.toNat)
      (c.setG gd (BitVec.ofNat 32 v)) (t.freeIn 20 60).1 .seq := by
  unfold atomicI
  rw [if_neg (fun hne => hne h), ht]
  refine (if_neg (by rw [hf]; decide)).trans ?_
  dsimp only
  rw [hv]
  dsimp only
  cases new c (BitVec.ofNat 32 v) <;> rfl
end
end

/-- What SWAPW stores for an old word. -/
def swapNew (gs2 : BitVec 5) (c : Ctx) (_ : Word) : Option Word := some (c.gr gs2)
/-- What CASW stores for an old word. -/
def casNew (gd gs2 : BitVec 5) (c : Ctx) (old : Word) : Option Word := if old = c.gr gd then some (c.gr gs2) else none

section
variable (p : PairNo) (gd gs1 gs2 : BitVec 5) (s : State)

theorem exec_swapw : exec (.swapw p gd gs1 gs2) s =
    runI p (encA 8 gd gs1 gs2 0) true false (atomicI p gd gs1 (swapNew gs2)) s := rfl
theorem exec_casw : exec (.casw p gd gs1 gs2) s =
    runI p (encA 8 gd gs1 gs2 1) true true (atomicI p gd gs1 (casNew gd gs2)) s := rfl
end

section
variable {p : PairNo} {gd gs1 : BitVec 5} {s : State} {key : Nat} (hi : Issues p key s) (gs2 : BitVec 5)
include hi

/-- Where the access completes with an old word, SWAPW stores, and CASW stores or keeps as the old word says. -/
theorem atomics_do {old : Word} {kept : State} {stored : Word → State} {k : Nat}
    (h : ∀ new, atomicI p gd gs1 new s key (s.ctx key) = .ok ((new (s.ctx key) old).elim kept stored)
      ((s.ctx key).setG gd old) k .seq) : let c := s.ctx key
    Does p key (.swapw p gd gs1 gs2) s (stored (c.gr gs2)) (c.setG gd old) k ∧
    (s.onnus1 key = false → old = c.gr gd → Does p key (.casw p gd gs1 gs2) s (stored (c.gr gs2)) (c.setG gd old) k) ∧
    (s.onnus1 key = false → old ≠ c.gr gd → Does p key (.casw p gd gs1 gs2) s kept (c.setG gd old) k) := by
  unfold Does
  rw [exec_swapw, exec_casw]
  refine ⟨runI_ok hi rfl rfl (h _), fun ho he => runI_ok hi rfl ho ((h _).trans ?_),
    fun ho hne => runI_ok hi rfl ho ((h _).trans ?_)⟩
  · rw [casNew, if_pos he]
    rfl
  · rw [casNew, if_neg hne]
    rfl
end

/-- Settles O23: SWAPW and CASW are one access with two ways to choose the new word. -/
theorem onnusAtomics : Obligations.OnnusAtomics := by
  refine ⟨fun s p key gd gs1 gs2 hi => ?access,
    fun s a n v => ⟨rdN_wrN_same s a n v, fun b hb => byteAt_wrN_outside s a n v hb⟩⟩
  case access =>
    dsimp only
    unfold Traps
    rw [exec_swapw]
    refine ⟨fun ha => runI_trap hi rfl rfl (atomicI_misaligned ha), fun ha ht => runI_trap hi rfl rfl (atomicI_noTarget ha ht),
      fun ha hb hu => runI_ue hi rfl rfl (atomicI_uncorrectable ha (memTarget_dmem s hb) hu),
      fun ha hb u hu => atomics_do hi gs2 fun _ => atomicI_dmem ha (memTarget_dmem s hb) hu,
      fun ha ht hf => runI_trap hi rfl rfl (atomicI_foreign ha ht hf), fun v t ha ht hf hv => ?_⟩
    obtain ⟨hlo, hhi⟩ := freeIn_range t (show 20 ≤ 60 by decide)
    exact ⟨_, hlo, hhi, atomics_do hi gs2 fun _ => atomicI_sram ha ht hf hv⟩

/-! ### Branches and jumps (R104, R120, R121) -/
section
variable {t : Int} (s : State) (c : Ctx)

theorem jumpI_inside (hlo : 0 ≤ t) (hhi : t ≤ 0xFFFC) : jumpI t s c = .ok s c 2 (.jump (BitVec.ofInt 16 t)) :=
  if_pos (by rw [decide_eq_true hlo, decide_eq_true hhi]; rfl)

theorem jumpI_outside (h : ¬(0 ≤ t ∧ t ≤ 0xFFFC)) : jumpI t s c = .trap s 0x0222 0 (BitVec.ofInt 32 t) :=
  if_neg fun hc => h (by simpa using hc)
end

theorem exec_branchForms {p : PairNo} {gs1 gs2 : BitVec 5} {off : BitVec 15} {x : Instr × (Word → Word → Bool)}
    (hx : x ∈ branchForms p gs1 gs2 off) : ∃ op, ∀ s, exec x.1 s = branch op x.2 p gs1 gs2 off s := by
  simp only [branchForms, List.mem_cons, List.not_mem_nil, or_false] at hx
  rcases hx with rfl | rfl | rfl | rfl | rfl | rfl
  · exact ⟨0x50, fun s => rfl⟩
  · exact ⟨0x51, fun s => rfl⟩
  · exact ⟨0x52, fun s => rfl⟩
  · exact ⟨0x53, fun s => rfl⟩
  · exact ⟨0x54, fun s => rfl⟩
  · exact ⟨0x55, fun s => rfl⟩

section
variable {s : State} {p : PairNo} {key : Nat} (hi : Issues p key s)
include hi

theorem branch_does {gs1 gs2 : BitVec 5} {off : BitVec 15} {x : Instr × (Word → Word → Bool)}
    (hx : x ∈ branchForms p gs1 gs2 off) :
    let c := s.ctx key; let t : Int := c.pc.toNat + 4 * off.toInt
    (x.2 (c.gr gs1) (c.gr gs2) = false → Does p key x.1 s s c 1) ∧
    (x.2 (c.gr gs1) (c.gr gs2) = true → 0 ≤ t → t ≤ 0xFFFC → Jumps p key x.1 s c (BitVec.ofInt 16 t)) ∧
    (x.2 (c.gr gs1) (c.gr gs2) = true → ¬(0 ≤ t ∧ t ≤ 0xFFFC) → Traps key x.1 s 0x0222 0 (BitVec.ofInt 32 t)) := by
  obtain ⟨op, hop⟩ := exec_branchForms hx
  unfold Does Jumps Traps
  rw [hop]
  exact ⟨fun hf => runI_ok hi rfl rfl (if_neg (by rw [hf]; decide)),
    fun ht hlo hhi => runI_ok hi rfl rfl ((if_pos ht).trans (jumpI_inside s _ hlo hhi)),
    fun ht h => runI_trap hi rfl rfl ((if_pos ht).trans (jumpI_outside s _ h))⟩

theorem jal_does (gd : BitVec 5) (imm : BitVec 20) : let c := s.ctx key; let t : Int := c.pc.toNat + 4 * imm.toInt
    (0 ≤ t → t ≤ 0xFFFC → Jumps p key (.jal p gd imm) s (c.setG gd c.link) (BitVec.ofInt 16 t)) ∧
    (¬(0 ≤ t ∧ t ≤ 0xFFFC) → Traps key (.jal p gd imm) s 0x0222 0 (BitVec.ofInt 32 t)) := by
  show (_ → _ → execJal p gd imm s = _) ∧ (_ → execJal p gd imm s = _)
  exact ⟨fun hlo hhi => runI_ok hi rfl rfl (jumpI_inside s _ hlo hhi), fun h => runI_trap hi rfl rfl (jumpI_outside s _ h)⟩

theorem jalr_does (gd gs1 : BitVec 5) (imm : BitVec 15) : let c := s.ctx key; let t := c.gr gs1 + sext15 imm
    (t.toNat % 4 ≠ 0 → Traps key (.jalr p gd gs1 imm) s 0x0221 0 t) ∧
    (t.toNat % 4 = 0 → t.toNat ≤ 0xFFFC →
      Jumps p key (.jalr p gd gs1 imm) s (c.setG gd c.link) (BitVec.ofNat 16 t.toNat)) ∧
    (t.toNat % 4 = 0 → 0xFFFC < t.toNat → Traps key (.jalr p gd gs1 imm) s 0x0222 0 t) := by
  show (_ → execJalr p gd gs1 imm s = _) ∧ (_ → _ → execJalr p gd gs1 imm s = _) ∧ (_ → _ → execJalr p gd gs1 imm s = _)
  refine ⟨fun ha => runI_trap hi rfl rfl (if_pos ha),
    fun ha ht => runI_ok hi rfl rfl ((if_neg (fun hne => hne ha)).trans (jumpI_inside s _ (Int.natCast_nonneg _) (by omega))),
    fun ha ht => ?_⟩
  have word (t : Word) : BitVec.ofInt 32 t.toNat = t := by rw [BitVec.ofInt_natCast, BitVec.ofNat_toNat, BitVec.setWidth_eq]
  refine runI_trap hi rfl rfl ((if_neg (fun hne => hne ha)).trans ((jumpI_outside s _ (by omega)).trans ?_))
  rw [word]
end

/-! ### Loops (R122, R132) -/
/-- The count that a loop starts with: under Onnus 1 a count of 0 is 1. -/
def loopCount (one : Bool) (count : Word) : Word := if count = 0 && one then 1 else count

@[simp] theorem loopCount_two (count : Word) : loopCount false count = count := if_neg (by rw [Bool.and_false]; decide)
@[simp] theorem loopCount_one_zero : loopCount true 0 = 1 := rfl

/-- The context in a loop of a body of n instructions that starts with a count. -/
def Ctx.inLoop (c : Ctx) (count : Word) (n : Nat) : Ctx :=
  { c with lcnt := count, lbeg := c.pc + 4, lend := c.pc + BitVec.ofNat 16 (4 * n) }

section
variable {word count : Word} {n : Nat} {s : State} {key : Nat} {c : Ctx}

theorem loopI_runs (h : c.lcnt ≠ 0) : loopI word count n s key c = .trap s 0x0220 0 word := if_pos h

variable (h : c.lcnt = 0)
include h

theorem loopI_skips (hc : loopCount (s.onnus1 key) count = 0) :
    loopI word count n s key c = .ok s c 1 (.set (c.pc + BitVec.ofNat 16 (4 * (n + 1)))) :=
  (if_neg (fun hne => hne h)).trans (if_pos hc)

theorem loopI_enters (hc : loopCount (s.onnus1 key) count ≠ 0) :
    loopI word count n s key c = .ok s (c.inLoop (loopCount (s.onnus1 key) count) n) 1 (.set (c.pc + 4)) :=
  (if_neg (fun hne => hne h)).trans (if_neg hc)
end

section
variable (p : PairNo) (s : State)

/-- LOOP and LOOPI with a body that is not empty. -/
theorem exec_loop (gs1 : BitVec 5) {imm : BitVec 15} (h1 : 1 ≤ imm.toNat) (h2 : imm.toNat < 4096) :
    exec (.loop p 0 gs1 imm) s = runI p (encB 0x31 0 gs1 imm) true false
      (fun s key c => loopI (encB 0x31 0 gs1 imm) (c.gr gs1) imm.toNat s key c) s := by
  show execLoop p 0 gs1 imm s = _
  unfold execLoop
  rw [decide_eq_true h1, decide_eq_true h2]
  rfl

theorem exec_loopi {imm : BitVec 20} (hn : bitsOf imm.toNat 7 0 ≠ 0) :
    exec (.loopi p 0 imm) s = runI p (encC 0x42 0 imm) true true
      (loopI (encC 0x42 0 imm) (BitVec.ofNat 32 (bitsOf imm.toNat 19 8)) (bitsOf imm.toNat 7 0)) s := by
  show execLoopi p 0 imm s = _
  unfold execLoopi
  rw [decide_eq_true hn]
  rfl
end

/-- An instruction that starts a loop, issued in an image of Onnus 2. -/
theorem loopI_does {s : State} {p : PairNo} {key : Nat} {i : Instr} {word : Word} {count : Ctx → Word} {n : Nat} {v2 : Bool}
    (hi : Issues p key s) (ho : s.onnus1 key = false)
    (he : exec i s = runI p word true v2 (fun s key c => loopI word (count c) n s key c) s) :
    let c := s.ctx key; let k := count c
    (c.lcnt ≠ 0 → Traps key i s 0x0220 0 word) ∧
    (c.lcnt = 0 → k = 0 → exec i s = .next (s.retire p key { c with pc := c.pc + BitVec.ofNat 16 (4 * (n + 1)) } 1)) ∧
    (c.lcnt = 0 → k ≠ 0 → exec i s = .next (s.retire p key { c.inLoop k n with pc := c.pc + 4 } 1)) := by
  have v : (v2 && s.onnus1 key) = false := by rw [ho, Bool.and_false]
  have two (k : Word) : loopCount (s.onnus1 key) k = k := by rw [ho, loopCount_two]
  unfold Traps
  rw [he]
  refine ⟨fun h => runI_trap hi rfl v (loopI_runs h), fun h hc => ?_, fun h hc => ?_⟩
  · exact runI_ok (pc := .set _) (c := s.ctx key) hi rfl v (loopI_skips h ((two _).trans hc))
  · have enters := loopI_enters (word := word) (n := n) h (fun h0 => hc ((two _).symm.trans h0))
    rw [two] at enters
    exact runI_ok (pc := .set _) (c := (s.ctx key).inLoop (count (s.ctx key)) n) hi rfl v enters

/-- Settles O24: the branches are one instruction with six conditions, LOOP and LOOPI one with two sources of the count. -/
theorem onnusFlow : Obligations.OnnusFlow := by
  refine ⟨fun s p key gs1 gs2 off hi x hx => branch_does hi hx, fun s p key gd imm hi => jal_does hi gd imm,
    fun s p key gd gs1 imm hi => jalr_does hi gd gs1 imm, fun s p key gs1 imm hi h1 h2 ho => ?loop,
    fun s p key imm hi hn ho => ?loopi⟩
  case loop =>
    exact loopI_does hi ho (exec_loop p s gs1 h1 h2)
  case loopi =>
    exact loopI_does hi ho (exec_loopi p s hn)

/-! ### The outbound queue (R102) -/
section
variable {s : State} {p : Nat}

theorem drainOne_empty (h : (s.pair p).queue = []) : s.drainOne p = s := by
  unfold State.drainOne
  rw [h]

theorem drainOne_front {e : OutEntry} {r : List OutEntry} (h : (s.pair p).queue = e :: r) :
    s.drainOne p = (s.setPair p { s.pair p with queue := r }).drainEffect e := by
  unfold State.drainOne
  rw [h]

theorem post_slotFree (e : OutEntry) (h : (s.pair p).queue.length < 8) :
    s.post p e = s.setPair p { s.pair p with queue := (s.pair p).queue ++ [e] } := by
  unfold State.post
  rw [if_neg (Nat.not_le.2 h)]
end

/-- Settles O25: a drain takes the front entry, and a post into a free slot writes the pair's record alone. -/
theorem outboundQueue : Obligations.OutboundQueue := by
  refine ⟨fun s p h => congrArg _ (drainOne_empty h), fun s p e r h => congrArg _ (drainOne_front h), fun s p e h => ?posted⟩
  case posted =>
    rw [post_slotFree e h, pair_setPair_same]
    exact ⟨rfl, fun _ => rfl, fun _ _ => rfl, fun q hq => pair_setPair_other s _ hq⟩

/-! ### Onnus 1 (R132) -/
section
variable {s : State} {p : PairNo} {key : Nat} (hi : Issues p key s) (ho : s.onnus1 key = true)
include hi ho

theorem product_truncates (gd gs1 gs2 : BitVec 5) : let c := s.ctx key
    Does p key (.qmul p gd gs1 gs2) s s (c.setGSat gd ((c.gr gs1).toInt * (c.gr gs2).toInt / 2 ^ 31)) 1 ∧
    Does p key (.qmul2 p gd gs1 gs2) s s (c.setHalves gd (hiHalf (c.gr gs1) * hiHalf (c.gr gs2) / 2 ^ 15)
      (loHalf (c.gr gs1) * loHalf (c.gr gs2) / 2 ^ 15)) 1 := by
  have does := fixedProduct_does hi gd gs1 gs2
  simpa only [ho, if_true, Int.add_zero] using does

theorem loop_once (gs1 : BitVec 5) {imm : BitVec 15} (h1 : 1 ≤ imm.toNat) (h2 : imm.toNat < 4096) (h : (s.ctx key).lcnt = 0)
    (hc : (s.ctx key).gr gs1 = 0) : exec (.loop p 0 gs1 imm) s =
      .next (s.retire p key { (s.ctx key).inLoop 1 imm.toNat with pc := (s.ctx key).pc + 4 } 1) := by
  have one : loopCount (s.onnus1 key) ((s.ctx key).gr gs1) = 1 := by rw [ho, hc, loopCount_one_zero]
  have enters := loopI_enters (word := encB 0x31 0 gs1 imm) (n := imm.toNat) h (by rw [one]; decide)
  rw [one] at enters
  rw [exec_loop p s gs1 h1 h2]
  exact runI_ok (pc := .set _) (c := (s.ctx key).inLoop 1 imm.toNat) hi rfl (Bool.false_and _) enters

theorem sigrd_value (gd gs1 : BitVec 5) (ha : ((s.ctx key).gr gs1).toNat < 2 ^ 20)
    (hu : (s.sigArrive p ((s.ctx key).gr gs1).toNat).eccUe.contains (sigCell ((s.ctx key).gr gs1).toNat) = false) :
    ∃ k, 20 ≤ k ∧ k ≤ 60 ∧ Does p key (.sigrd p gd gs1 0) s (s.sigArrive p ((s.ctx key).gr gs1).toNat)
      ((s.ctx key).setG gd ((s.sigArrive p ((s.ctx key).gr gs1).toNat).sigWords ((s.ctx key).gr gs1).toNat).1) k := by
  obtain ⟨hlo, hhi⟩ := freeIn_range (s.drainTo p (fun e => e.isSig ((s.ctx key).gr gs1).toNat)) (show 20 ≤ 60 by decide)
  refine ⟨_, hlo, hhi, ?_⟩
  show execSigrd p gd gs1 0 s = _
  have anyGd : ¬(!s.onnus1 key && !evenOk gd) = true := by
    rw [ho]
    exact Bool.false_ne_true
  unfold execSigrd
  dsimp only
  refine runI_ok hi (decide_eq_true rfl) (Bool.false_and _) ((if_neg anyGd).trans ?_)
  unfold sigReadI
  refine (if_neg (Nat.not_le.2 ha)).trans ((if_neg (fun hc => Bool.false_ne_true (hu.symm.trans hc))).trans ?_)
  dsimp only
  rw [ho]
  rfl
end

/-- Settles O34: the product and the count of a loop that the version chooses, and the value word of a signal. -/
theorem onnusOne : Obligations.OnnusOne :=
  ⟨fun _ _ _ gd gs1 gs2 hi ho => product_truncates hi ho gd gs1 gs2,
    fun _ _ _ gs1 _ hi ho h1 h2 h hc => loop_once hi ho gs1 h1 h2 h hc,
    fun _ _ _ gd gs1 hi ho ha hu => sigrd_value hi ho gd gs1 ha hu⟩

end Sys2Proof.Machine
end

/-! The proofs of the statements on the modulator and its crews (spec/04_modulator_crews.md), first part: how a table is read. -/
section
namespace Sys2Proof.Machine

/-! ### Reading a table (R151) -/
/-- The part k / 65536 of a difference lies between 0 and the difference, rounded down too. -/
theorem interpolated_between (d : Int) {k : Int} (h0 : 0 ≤ k) (h1 : k ≤ 65536) :
    min 0 d ≤ d * k / 65536 ∧ d * k / 65536 ≤ max 0 d := by
  obtain hd | hd := Int.le_total 0 d
  · have low : 0 ≤ d * k / 65536 := Int.ediv_nonneg (Int.mul_nonneg hd h0) (by decide)
    have high : d * k / 65536 ≤ d := Int.ediv_le_of_le_mul (by decide) (Int.mul_le_mul_of_nonneg_left h1 hd)
    omega
  · have low : d ≤ d * k / 65536 := Int.le_ediv_of_mul_le (by decide) (Int.mul_le_mul_of_nonpos_left hd h1)
    have high : d * k / 65536 ≤ 0 := Int.ediv_nonpos_of_nonpos_of_neg (Int.mul_nonpos_of_nonpos_of_nonneg hd h0) (by decide)
    omega

/-- The entry and the fraction that an angle word selects. -/
theorem angle_parts (z : Word) :
    (z.extractLsb' 18 14).toNat = z.toNat / 2 ^ 18 ∧ (z.extractLsb' 2 16).toNat = bitsOf z.toNat 17 2 := by
  have hz : z.toNat < 2 ^ 32 := z.isLt
  rw [BitVec.extractLsb'_toNat, BitVec.extractLsb'_toNat, Nat.shiftRight_eq_div_pow, Nat.shiftRight_eq_div_pow]
  exact ⟨Nat.mod_eq_of_lt (by omega), rfl⟩

theorem tableRead_interpolates (s : State) (a : Nat) (z : Word) : let i := (z.extractLsb' 18 14).toNat
    let x := (s.ptabAt (16384 * a + i)).toInt
    let y := (s.ptabAt (16384 * a + (i + 1) % 16384)).toInt
    s.tableRead a z = x + (y - x) * ((z.extractLsb' 2 16).toNat : Int) / 65536 := by
  obtain ⟨entry, fraction⟩ := angle_parts z
  rw [entry, fraction]
  rfl

/-- Settles O59: the part of the step between the entries that is added lies between nothing and the whole step. -/
theorem tableRead : Obligations.TableRead := by
  intro s a z i k x y
  have read : s.tableRead a z = x + (y - x) * (k : Int) / 65536 := tableRead_interpolates s a z
  have hk : (k : Int) < 65536 := Int.ofNat_lt.2 (z.extractLsb' 2 16).isLt
  obtain ⟨low, high⟩ := interpolated_between (y - x) (Int.natCast_nonneg k) (Int.le_of_lt hk)
  refine ⟨?shift, fun hz => ?entry, ?lowest, ?highest⟩
  case shift => rw [read, Int.shiftRight_eq_div_pow]; rfl
  case entry => rw [read, hz, Int.natCast_zero, Int.mul_zero, Int.zero_ediv, Int.add_zero]
  case lowest => omega
  case highest => omega

end Sys2Proof.Machine
end

/-! The proofs of the statements on the modulator and its crews, second part: what the commands of the modulator do in time. -/
section
namespace Sys2Proof.Machine

/-! ### The records of crews and legs -/
theorem crew_setCrew_other (s : State) {n m : Nat} (c : CrewRec) (h : m ≠ n) : (s.setCrew n c).crew m = s.crew m :=
  mget_mset_other _ _ _ c h

/-- A loop that writes records of legs leaves the registers and the records of the crews. -/
theorem regs_legLoop (l : List Nat) (r : Nat → State → LegRec) (s : State) :
    (loopL l (fun x s => s.setLeg x (r x s)) s).regs = s.regs :=
  loopL_same (f := fun x s => s.setLeg x (r x s)) State.regs (fun _ _ => rfl) s

theorem crew_legLoop (l : List Nat) (r : Nat → State → LegRec) (s : State) (m : Nat) :
    (loopL l (fun x s => s.setLeg x (r x s)) s).crew m = s.crew m :=
  loopL_same (f := fun x s => s.setLeg x (r x s)) (State.crew · m) (fun _ _ => rfl) s

theorem crew_setCar_same (s : State) (n j : Nat) (c : CarRec) :
    (s.setCar n j c).crew n = { s.crew n with cars := mset {} (s.crew n).cars j c } :=
  crew_setCrew_same s n _

theorem crew_setCar_other (s : State) {n m : Nat} (j : Nat) (c : CarRec) (h : m ≠ n) : (s.setCar n j c).crew m = s.crew m :=
  crew_setCrew_other s _ h

/-! ### Carrier points (R143, R145, R156) -/
section
variable {s : State} {n j : Nat}

theorem carrierAt_due {valley : Bool} (hu : s.crewState n ≠ cUNUSED) (hj : j < s.crewM n) (hr : s.rising n j ≠ valley) :
    s.carrierAt n j valley = some (s.advanceTb (s.car n j).next) :=
  if_neg (by simp [hu, hj, hr])

/-- Where CFG.CATCH is 1 or 2, a peak is a catch point that CFG.CDIV skips while it counts. -/
theorem catchPoint_skips (h1 : 1 ≤ s.get (F.CREW_CFG_CATCH n)) (h2 : s.get (F.CREW_CFG_CATCH n) ≤ 2)
    (hd : (s.crew n).catchN ≠ 0) :
    s.catchPoint n false = s.setCrew n { s.crew n with catchN := (s.crew n).catchN - 1 } := by
  unfold State.catchPoint
  dsimp only
  rw [if_neg (by simp; omega), if_pos hd]

/-- A catch point that is kept notes the compares of the crew's legs in their records and the catch in the crew's. -/
theorem crew_catchPoint_kept (h1 : 1 ≤ s.get (F.CREW_CFG_CATCH n)) (h2 : s.get (F.CREW_CFG_CATCH n) ≤ 2)
    (hd : (s.crew n).catchN = 0) :
    (s.catchPoint n false).crew n = { s.crew n with
      tc := s.tb, catchDue := some (s.tb + s.get (F.CREW_CDLY_DLY n)), catchN := s.get (F.CREW_CFG_CDIV n) } := by
  unfold State.catchPoint
  dsimp only
  rw [if_neg (by simp; omega), if_neg (not_not_intro hd), crew_legLoop, crew_setCrew_same]
end

/-- A catch point writes no register, and of the crews' records only that of its crew, whose carriers count on. -/
theorem catchPoint_frame (s : State) (n : Nat) (valley : Bool) : (s.catchPoint n valley).regs = s.regs ∧
    ((s.catchPoint n valley).crew n).upSets = (s.crew n).upSets ∧
    ∀ m, m ≠ n → (s.catchPoint n valley).crew m = s.crew m := by
  unfold State.catchPoint
  dsimp only
  split
  · exact ⟨rfl, rfl, fun _ _ => rfl⟩
  · split
    · exact ⟨rfl, by rw [crew_setCrew_same], fun _ h => crew_setCrew_other s _ h⟩
    · rw [regs_legLoop, crew_legLoop]
      exact ⟨rfl, by rw [crew_setCrew_same], fun m h => by rw [crew_legLoop, crew_setCrew_other s _ h]⟩

/-- The set's carrier falls: of its crew's record the carrier and its direction change, and nothing else. -/
theorem carrierDown_frame (s : State) (n j : Nat) : (s.carrierDown n j).regs = s.regs ∧
    (∃ cars, (s.carrierDown n j).crew n =
      { s.crew n with cars := cars, upSets := natBit (s.crew n).upSets j false }) ∧
    ∀ m, m ≠ n → (s.carrierDown n j).crew m = s.crew m := by
  obtain ⟨c, down⟩ : ∃ c, s.carrierDown n j = (s.setCar n j c).setCrew n
    { (s.setCar n j c).crew n with upSets := natBit ((s.setCar n j c).crew n).upSets j false } := ⟨_, rfl⟩
  rw [down, crew_setCrew_same, crew_setCar_same]
  exact ⟨rfl, ⟨_, rfl⟩, fun m h => by rw [crew_setCrew_other _ _ h, crew_setCar_other s j c h]⟩

/-- Set 0's catch at a peak; the other sets have none (R145). -/
def State.peakCatch (s : State) (n j : Nat) : State := if j = 0 then s.catchPoint n false else s

theorem peakCatch_frame (s : State) (n j : Nat) : (s.peakCatch n j).regs = s.regs ∧
    ((s.peakCatch n j).crew n).upSets = (s.crew n).upSets ∧ ∀ m, m ≠ n → (s.peakCatch n j).crew m = s.crew m := by
  unfold State.peakCatch
  split
  · exact catchPoint_frame s n false
  · exact ⟨rfl, rfl, fun _ _ => rfl⟩

/-- A peak: the catch and the carrier; beside them it writes records of legs alone. -/
theorem peakPrep_parts (s : State) (n j : Nat) : (s.peakPrep n j).regs = ((s.peakCatch n j).carrierDown n j).regs ∧
    ∀ m, (s.peakPrep n j).crew m = ((s.peakCatch n j).carrierDown n j).crew m :=
  ⟨regs_legLoop _ _ _, crew_legLoop _ _ _⟩

theorem crew_peakPrep_same (s : State) (n j : Nat) : ∃ cars, (s.peakPrep n j).crew n =
    { (s.peakCatch n j).crew n with cars := cars, upSets := natBit (s.crew n).upSets j false } := by
  obtain ⟨-, ⟨cars, down⟩, -⟩ := carrierDown_frame (s.peakCatch n j) n j
  obtain ⟨-, same, -⟩ := peakCatch_frame s n j
  refine ⟨cars, ?_⟩
  rw [(peakPrep_parts s n j).2, down, same]

theorem crew_peakPrep_other (s : State) {n m : Nat} (j : Nat) (h : m ≠ n) : (s.peakPrep n j).crew m = s.crew m := by
  obtain ⟨-, -, catchOther⟩ := peakCatch_frame s n j
  obtain ⟨-, -, downOther⟩ := carrierDown_frame (s.peakCatch n j) n j
  rw [(peakPrep_parts s n j).2, downOther m h, catchOther m h]

theorem regs_peakPrep (s : State) (n j : Nat) : (s.peakPrep n j).regs = s.regs := by
  rw [(peakPrep_parts s n j).1, (carrierDown_frame _ n j).1, (peakCatch_frame s n j).1]

section
variable {s : State} {n : CrewNo} {j : Fin 8} (hu : s.crewState n ≠ cUNUSED) (hj : j.val < s.crewM n)
include hu hj

/-- A falling carrier's next point is its valley: a stopping set ends there, and for a crew with compares it is a load point. -/
theorem exec_carrierValley (hr : s.rising n j = false) : let v := (s.advanceTb (s.car n j).next).valleyPrep n j
    exec (.carrierValley n j) s = if (v.crew n).stopSets.testBit j then .next (v.valleyStop n j)
      else if v.carrierCrew n then .next (v.loadPoint n j) else .next v := by
  show execCarrierValley n j s = _
  unfold execCarrierValley
  rw [carrierAt_due hu hj (by rw [hr]; decide)]

theorem exec_carrierPeak (hr : s.rising n j = true) : let v := (s.advanceTb (s.car n j).next).peakPrep n j
    exec (.carrierPeak n j) s = .next (if v.carrierCrew n then v.peakGo n j else v) := by
  show execCarrierPeak n j s = _
  unfold execCarrierPeak
  rw [carrierAt_due hu hj (by rw [hr]; decide)]
  exact (apply_ite Host.Outcome.next _ _ _).symm
end

/-! ### Ticks, seams, edges and dead times (R148, R155, R157, R159, R161, R181) -/
/-- The count of the next tick: a multiple of 128 after the latest tick, and not before the present. -/
def State.nextTick (s : State) : Nat := max ((s.lastTick / 128 + 1) * 128) ((s.tb + 127) / 128 * 128)

theorem exec_tasTick {s : State} (h : s.bit F.MOD_STAT_ON = true) : exec .tasTick s =
    .next (loopN 64 (fun x s => s.legTick x)
      (loopN 32 (fun n s => if s.crewState n = cUNUSED then s.idleTick n else s.crewTick n)
        { s.advanceTb s.nextTick with lastTick := s.nextTick })) := by
  show execTasTick s = _
  unfold execTasTick
  rw [if_neg (by rw [h]; decide)]
  rfl

theorem exec_seamHoldExpiry {s : State} {n : CrewNo} (h : s.get (F.CREW_STAT_SEAMST n) = 3) : exec (.seamHoldExpiry n) s =
    .next ((s.until ((s.crew n).seamHold + s.get (F.CREW_SEAM_HOLD_MS n) * msCounts)).seamDegrade n) := by
  show execSeamHoldExpiry n s = _
  exact if_pos h

/-- A modulated leg of a running set whose carrier is still to cross the compare in this half-period. -/
theorem crosses_due {s : State} {n j x : Nat} (hs : s.setRuns n j = true) (hm : s.legModulated x = true)
    (hc : s.carrierCrew n = true) (hd : (s.leg x).changed = false) (hw : (s.leg x).want ≠ some (!s.rising n j))
    (hv : s.get (F.LEG_CMP_C x) ≠ if s.rising n j then s.crewH n else 0) : s.crosses n j x = true := by
  have compare : s.get (F.LEG_CMP_C x) ≠ if (!s.rising n j) = true then 0 else s.crewH n := by
    cases hr : s.rising n j <;> simpa [hr] using hv
  unfold State.crosses
  dsimp only
  rw [hs, hm, hc, hd, bne_iff_ne.2 hw, bne_iff_ne.2 compare]
  rfl

theorem exec_edgeDecision {s : State} {x : LegNo} {n j i : Nat} (hn : s.legCrew x = some n) (hj : s.legSet n x = some (j, i))
    (h : s.crosses n j x = true) :
    exec (.edgeDecision x) s = .next ((s.advanceTb (s.crossAt n j (s.get (F.LEG_CMP_C x)))).cross n j x) := by
  show execEdgeDecision x s = _
  unfold execEdgeDecision
  rw [hn]
  dsimp only
  rw [hj]
  exact if_pos h

/-- An on-edge that waits is decided at the end of its dead time, and no sooner than its side is free. -/
theorem exec_deadTimeExpiry {s : State} {x : LegNo} {hs : Bool} (h : (s.leg x).pendOn = some hs) :
    let u := s.advanceTb (max (s.leg x).pendAt (s.freeAt x hs))
    let v := (u.setLeg x { u.leg x with pendOn := none }).putB (F.LEG_LVL_DTW x) false
    exec (.deadTimeExpiry x) s = if ((v.leg x).refresh && !hs) = true then .next (v.refreshOn x)
      else .next (if v.mayOn x hs then v.edge x hs true else v) := by
  show execDeadTimeExpiry x s = _
  unfold execDeadTimeExpiry
  rw [h]
  dsimp only
  rw [apply_ite Host.Outcome.next]

/-- Settles O36: each command is its equation above; what a peak leaves is said of its catch and of its carrier. -/
theorem modulatorTick : Obligations.ModulatorTick := by
  refine ⟨fun s h => exec_tasTick h, fun s n j hu hj hr => ?valley, fun s n j hu hj hr => exec_carrierPeak hu hj hr,
    fun s n j => ?peak, fun s n h => exec_seamHoldExpiry h,
    fun s x n j i hn hi hs hm hc hd hw hv => ?edge, fun s x hs h => ?deadTime, fun s g => rfl⟩
  case valley =>
    intro v
    rw [exec_carrierValley hu hj hr]
    refine ⟨fun hstop => if_pos hstop, fun hstop hcar => ?_, fun hstop hcar => ?_⟩
    · exact (if_neg (by rw [hstop]; decide)).trans (if_pos hcar)
    · exact (if_neg (by rw [hstop]; decide)).trans (if_neg (by rw [hcar]; decide))
  case peak =>
    obtain ⟨cars, crew⟩ := crew_peakPrep_same s n j
    dsimp only
    rw [crew]
    refine ⟨rfl, ?kept, ?skipped, fun m hm => crew_peakPrep_other s j hm, fun a _ => rd_of_regs (regs_peakPrep s n j) a⟩
    case kept =>
      rintro h1 h2 rfl hd
      have caught : (s.peakCatch n 0).crew n = _ := crew_catchPoint_kept h1 h2 hd
      rw [caught]
      exact ⟨rfl, rfl, rfl⟩
    case skipped =>
      rintro h1 h2 rfl hd
      have passed : s.peakCatch n 0 = _ := catchPoint_skips h1 h2 hd
      rw [passed, crew_setCrew_same]
      exact ⟨rfl, rfl⟩
  case edge => exact ⟨_, _, _, rfl, rfl, rfl, exec_edgeDecision hn hi (crosses_due hs hm hc hd hw hv)⟩
  case deadTime =>
    rw [exec_deadTimeExpiry h]
    exact ⟨fun hp => if_pos hp, fun hp => if_neg (by rw [hp]; decide)⟩

end Sys2Proof.Machine
end

/-! The proofs of the statements on the modulator and its crews, third part: the registers of crews, tables and legs, and the
instants of lockouts, refreshes and the chopper. -/
section
namespace Sys2Proof.Machine

/-! ### START and STOP (R138, R448) -/
section
variable {s : State} {n : Nat}

theorem crewStart_ignored (h : s.crewState n ≠ cIDLE ∨ s.actLock = true) : s.crewStart n = s := by
  unfold State.crewStart
  exact if_pos (by simpa using h)

theorem crewStart_refused {x : Nat} (hi : s.crewState n = cIDLE) (hl : s.actLock = false)
    (hx : (s.crewLegs n).find? (fun x => !s.legModulated x) = some x) : s.crewStart n = s.fault 0x030C x := by
  unfold State.crewStart
  rw [if_neg (by simp [hi, hl]), hx]

theorem crewStop_armed (h : s.crewState n = cARMED) : s.crewStop n = profCrewState n ((s.crewOff n).setCrewState n cIDLE) := by
  unfold State.crewStop
  exact if_pos h

theorem crewStop_run (h : s.crewState n = cRUN) (hs : s.get (F.CREW_STAT_SETS n) ≠ 0) :
    s.crewStop n = s.setCrew n { s.crew n with stopSets := s.get (F.CREW_STAT_SETS n) } := by
  unfold State.crewStop
  rw [if_neg (by rw [h]; decide), if_pos h]
  exact if_neg hs
end

section
variable {s : State} {n : CrewNo}

theorem exec_crewStart (hu : s.up (R.CREW_CTL n)) : exec (.crewStart n) s = .next (s.crewStart n) := by
  show execCrewStart n s = _
  exact onReg_up hu

theorem exec_crewStop (hu : s.up (R.CREW_CTL n)) : exec (.crewStop n) s = .next (s.crewStop n) := by
  show execCrewStop n s = _
  exact onReg_up hu

/-! ### Phase commands and angles (R149, R153) -/
variable {v w : Word} {u : State}

theorem exec_cmdOfsWrite (hu : s.up (R.CREW_CMD_OFS n)) (ht : s.takeWord (R.CREW_CMD_OFS n) v = (w, u)) :
    exec (.cmdOfsWrite n v) s = .next (u.wr (R.CREW_CMD_OFS n) w) := by
  show execCmdOfsWrite n v s = _
  exact onRegW_up hu ht

theorem exec_cmdAmpWrite (hu : s.up (R.CREW_CMD_AMP n)) (ht : s.takeWord (R.CREW_CMD_AMP n) v = (w, u)) :
    exec (.cmdAmpWrite n v) s = .next (u.cmdAmp n w) := by
  show execCmdAmpWrite n v s = _
  exact onRegW_up hu ht

theorem exec_angsetWrite (hu : s.up (R.CREW_ANGSET n)) (ht : s.takeWord (R.CREW_ANGSET n) v = (w, u)) :
    exec (.angsetWrite n v) s = .next (u.setCrew n { u.crew n with angSet := some w }) := by
  show execAngsetWrite n v s = _
  exact onRegW_up hu ht
end

/-- The phase command that an amplitude completes: it takes the offset written before. -/
def State.phaseCmd (s : State) (n : Nat) (v : Word) : PhaseCmd :=
  { arrival := s.tb, ofs := (s.wr (R.CREW_CMD_AMP n) v).rd (R.CREW_CMD_OFS n), amp := v, load := (s.crew n).load }

/-- An amplitude writes its register and its crew's record, which gains the command at its end; the ledger's entry that is open
does not touch the commands. -/
theorem cmdAmp_writes (s : State) (n : Nat) (v : Word) : ∃ c : CrewRec, c.cmds = (s.crew n).cmds ++ [s.phaseCmd n v] ∧
    s.cmdAmp n v = (s.wr (R.CREW_CMD_AMP n) v).setCrew n c := by
  refine ⟨_, ?_, rfl⟩
  split
  · rfl
  · split <;> rfl

/-! ### Tables (R150) -/
/-- The word of the tables that TBL_ADDR selects. -/
def State.tblAddr (s : State) : Nat := s.get F.MOD_TBL_ADDR_TABLE * 16384 + s.get F.MOD_TBL_ADDR_INDEX

/-- TBL_ADDR steps on from word a, after the last word to the first. -/
def State.tblStep (s : State) (a : Nat) : State :=
  (s.put F.MOD_TBL_ADDR_TABLE ((a + 1) % 262144 / 16384)).put F.MOD_TBL_ADDR_INDEX ((a + 1) % 262144 % 16384)

section
variable {s : State} (hu : s.up R.MOD_TBL_DATA)
include hu

theorem exec_tblDataAccess_read :
    exec (.tblDataAccess none) s = .next (State.tblStep { s with rdata := s.ptabAt s.tblAddr } s.tblAddr) := by
  show execTblDataAccess none s = _
  unfold execTblDataAccess
  rw [if_neg (Option.not_isSome_iff_eq_none.2 rfl), onRegRead_up hu]
  rfl

/-- A table in use takes no write. -/
theorem exec_tblDataAccess_write (v : Word) : exec (.tblDataAccess (some v)) s =
    if s.bitAt F.MOD_TBUSE_USE (s.tblAddr / 16384) then .next (s.fault 0x0307 (s.tblAddr / 16384))
    else .next ((s.setPtab s.tblAddr v).tblStep s.tblAddr) := by
  show execTblDataAccess (some v) s = _
  unfold execTblDataAccess
  rw [if_pos Option.isSome_some, onReg_up hu]
  rfl
end

/-! ### Modes and raw levels of a leg (R162) -/
theorem leg_put (s : State) (f : Fld) (v x : Nat) : (s.put f v).leg x = s.leg x := by
  unfold State.leg
  rw [put_legs]

section
variable {s : State}

theorem legMode_unowned {x m : Nat} (hn : s.legCrew x = none) (h3 : m ≠ 3) (hm : m ≠ s.get (F.LEG_CTL_MODE x)) :
    s.legMode x m = (s.put (F.LEG_CTL_MODE x) m).setLeg x { s.leg x with modePend := true } := by
  unfold State.legMode
  rw [hn]
  exact (if_neg Bool.false_ne_true).trans ((if_neg h3).trans (if_neg hm))

theorem legMode_busy {x n : Nat} (m : Nat) (hn : s.legCrew x = some n) (h : s.crewState n = cARMED ∨ s.crewState n = cRUN) :
    s.legMode x m = s.fault 0x030C x := by
  unfold State.legMode
  rw [hn]
  exact if_pos (by simpa using h)

/-- The raw levels are put, and wait for the next tick. -/
theorem legRaw_waits (x : Nat) (hs ls : Bool) : s.legRaw x hs ls =
    ((s.putB (F.LEG_RAW_HS x) hs).putB (F.LEG_RAW_LS x) ls).setLeg x { s.leg x with rawPend := true } := by
  unfold State.legRaw State.putB
  dsimp only
  rw [leg_put, leg_put]

variable {x : LegNo}

theorem exec_legModeWrite (hu : s.up (R.LEG_CTL x)) (m : BitVec 2) :
    exec (.legModeWrite x m) s = .next (s.legMode x m.toNat) := by
  show execLegModeWrite x m s = _
  exact onReg_up hu

theorem exec_legRawWrite (hu : s.up (R.LEG_RAW x)) (hs ls : Bool) : exec (.legRawWrite x hs ls) s = .next (s.legRaw x hs ls) := by
  show execLegRawWrite x hs ls s = _
  exact onReg_up hu

/-! ### Shoot lockouts (R162) -/
theorem lockoutEnd_unowned {x : Nat} (hl : s.bit (F.LEG_LVL_LOCK x) = true) (hn : s.legCrew x = none) :
    s.lockoutEnd x = some ((s.leg x).lockAt + 80000 + max (s.dtLH x) (s.dtHL x)) := by
  unfold State.lockoutEnd
  rw [if_neg (by rw [hl]; decide), hn]
  rfl

theorem lockoutEnd_owned {x n : Nat} (hl : s.bit (F.LEG_LVL_LOCK x) = true) (hn : s.legCrew x = some n) :
    s.lockoutEnd x = (s.leg x).lockEnd := by
  unfold State.lockoutEnd
  rw [if_neg (by rw [hl]; decide), hn]
  rfl

theorem exec_shootLockoutEnd {t : Nat} (h : s.lockoutEnd x = some t) : let u := s.advanceTb t
    exec (.shootLockoutEnd x) s =
      .next ((u.setLeg x { u.leg x with lockEnd := none }).putB (F.LEG_LVL_LOCK x) false) := by
  show execShootLockoutEnd x s = _
  unfold execShootLockoutEnd
  rw [h]
end

/-! ### Dead times and the shortest pulse (R159, R160, R207) -/
/-- The dead times that a word for LEG_DT holds are put. -/
def State.putDt (s : State) (x : Nat) (w : Word) : State :=
  (s.put (F.LEG_DT_DT_HL x) (bitsOf w.toNat 25 16)).put (F.LEG_DT_DT_LH x) (bitsOf w.toNat 9 0)

theorem leg_putDt (s : State) (x : Nat) (w : Word) (y : Nat) : (s.putDt x w).leg y = s.leg y := by
  unfold State.putDt
  rw [leg_put, leg_put]

section
variable {s : State} {x : Nat} {w : Word}

theorem legDt_belowTile (h : bitsOf w.toNat 25 16 < s.legDtMin x ∨ bitsOf w.toNat 9 0 < s.legDtMin x) :
    s.legDt x w = s.fault 0x030A x := by
  unfold State.legDt
  exact if_pos (by simpa using h)

variable (hhl : s.legDtMin x ≤ bitsOf w.toNat 25 16) (hlh : s.legDtMin x ≤ bitsOf w.toNat 9 0)
include hhl hlh

theorem legDt_belowPulse (h : bitsOf w.toNat 25 16 + s.get (F.LEG_MINPW_PW x) < 176 ∨
    bitsOf w.toNat 9 0 + s.get (F.LEG_MINPW_PW x) < 176) : s.legDt x w = s.fault 0x040A x := by
  unfold State.legDt
  dsimp only
  rw [if_neg (by simp [hhl, hlh]), if_pos (by simpa using h)]

/-- Dead times that meet both rules are put; where the leg has a crew, the old ones are kept until the next valley. -/
theorem legDt_taken (phl : 176 ≤ bitsOf w.toNat 25 16 + s.get (F.LEG_MINPW_PW x))
    (plh : 176 ≤ bitsOf w.toNat 9 0 + s.get (F.LEG_MINPW_PW x)) : s.legDt x w =
      if ((s.putDt x w).legCrew x).isSome then (s.putDt x w).setLeg x { (s.putDt x w).leg x with
        dtAct := some ((s.leg x).dtAct.getD (s.rd (R.LEG_DT x))) }
      else s.putDt x w := by
  unfold State.legDt
  dsimp only
  rw [if_neg (by simp [hhl, hlh]), if_neg (by simp [phl, plh])]
  rfl
end

/-- A pulse width of 40 counts or more is put where both dead times leave room for it. -/
theorem legMinpw_legal (s : State) (x : Nat) {pw : Nat} (h : 40 ≤ pw) : s.legMinpw x pw =
    if bitsOf (s.rd (R.LEG_DT x)).toNat 25 16 + pw < 176 ∨ bitsOf (s.rd (R.LEG_DT x)).toNat 9 0 + pw < 176 then
      s.fault 0x040A x
    else s.put (F.LEG_MINPW_PW x) pw := by
  unfold State.legMinpw
  rw [if_neg (Nat.not_lt.2 h)]
  simp only [Bool.or_eq_true, decide_eq_true_eq]

section
variable {s : State} {x : LegNo}

theorem exec_legDtWrite {v w : Word} {u : State} (hu : s.up (R.LEG_DT x)) (ht : s.takeWord (R.LEG_DT x) v = (w, u)) :
    exec (.legDtWrite x v) s = .next (u.legDt x w) := by
  show execLegDtWrite x v s = _
  exact onRegW_up hu ht

theorem exec_legMinpwWrite (hu : s.up (R.LEG_MINPW x)) (pw : BitVec 8) :
    exec (.legMinpwWrite x pw) s = .next (s.legMinpw x pw.toNat) := by
  show execLegMinpwWrite x pw s = _
  exact onReg_up hu

/-! ### The bootstrap refresh (R163) -/
/-- A refresh is counted, and shown to the leg and to its crew. -/
def State.noteRefresh (s : State) (x : Nat) : State :=
  let s := (s.incSat (F.LEG_REFCNT_COUNT x)).raise (F.LEG_EVT_BOOTCAP x)
  match s.legCrew x with
  | some n => s.raise (F.CREW_EVT_BOOTCAP n)
  | none => s

theorem exec_bootstrapRefresh (hc : s.bit (F.LEG_CTL_CPEN x) = false) (ht : s.get (F.LEG_BOOT_TBMAX x) ≠ 0)
    (hl : s.getLvl x true = true) :
    let u := ((s.advanceTb ((s.leg x).hsOn + s.get (F.LEG_BOOT_TBMAX x) * 800)).noteRefresh x).edge x true false
    exec (.bootstrapRefresh x) s = .next ((u.setLeg x { u.leg x with
      refresh := true, pendOn := some false, pendAt := u.tb + u.dtHL x }).putB (F.LEG_LVL_DTW x) true) := by
  show execBootstrapRefresh x s = _
  exact if_neg (by simp [hc, ht, hl])

theorem exec_refreshPulseEnd (hr : (s.leg x).refresh = true) (hp : (s.leg x).pendOn = none) :
    let u := State.edge (s.advanceTb ((s.leg x).refAt + max 1 (s.get (F.LEG_BOOT_REFW x)))) x false false
    exec (.refreshPulseEnd x) s = .next ((u.setLeg x { u.leg x with
      refresh := false, pendOn := some true, pendAt := u.tb + u.dtLH x }).putB (F.LEG_LVL_DTW x) true) := by
  show execRefreshPulseEnd x s = _
  exact if_pos (by rw [hr, hp]; rfl)
end

/-! ### The chopper (R171, R172) -/
section
variable {s : State} {n : CrewNo} {b : Bool} (hr : s.crewState n = cRUN) (hc : s.chopCrew n = true)
include hr hc

theorem exec_chopFastDecayEnd (hst : (s.chop n b).st = .fast) : exec (.chopFastDecayEnd n b) s =
    .next ((s.advanceTb ((s.chop n b).offAt + (s.chop n b).fastLen n)).chopSlow n b) := by
  show execChopFastDecayEnd n b s = _
  exact if_pos (by simp [hr, hc, hst])

/-- The instant that ends the off time: that of the off timer, and at once where none runs (assumption log 77). -/
theorem exec_chopOffTimeEnd (hst : (s.chop n b).st = .slow) :
    let u := if (s.chop n b).offRun then s.advanceTb ((s.chop n b).offAt + (s.chop n b).toff n) else s
    exec (.chopOffTimeEnd n b) s = .next (if u.chopRef n b ≠ 0 then u.chopOn n b
      else u.setChop n b { s.chop n b with offRun := false }) := by
  intro u
  rw [apply_ite Host.Outcome.next]
  show execChopOffTimeEnd n b s = _
  exact if_pos (by simp [hr, hc, hst])
end

/-- Settles O37: with its domain on each write is its register's operation, and each instant's command its equation above. -/
theorem modulatorRegs : Obligations.ModulatorRegs := by
  refine ⟨fun s n hu => ⟨exec_crewStart hu, exec_crewStop hu⟩, fun s n hu hi => ?notIdle, fun s n hu hi hl => ?locked,
    fun s n x hu hi hl hx => ?refused, fun s n hu ha => ?stopArmed, fun s n hu hr hs => ?stopRun,
    fun s n v w u hu ht => exec_cmdOfsWrite hu ht, fun s n v w u hu ht => ?amplitude,
    fun s n v w u hu ht => exec_angsetWrite hu ht, fun s hu => ?table, fun s x m hu hn h3 hm => ?modeUnowned,
    fun s x m n hu hn h => ?modeBusy, fun s x hs ls hu => ?raw,
    fun s x hl hn => exec_shootLockoutEnd (lockoutEnd_unowned hl hn),
    fun s x n t hl hn ht => exec_shootLockoutEnd ((lockoutEnd_owned hl hn).trans ht), fun s x v w r hu ht => ?deadTimes,
    fun s x pw hu h phl plh => ?pulse, fun s x pw hu h hp => ?pulseRefused,
    fun s x hc ht hl => exec_bootstrapRefresh hc ht hl, fun s x hr hp => exec_refreshPulseEnd hr hp,
    fun s n b hr hc hst => exec_chopFastDecayEnd hr hc hst, fun s n b hr hc hst => exec_chopOffTimeEnd hr hc hst⟩
  case notIdle => rw [exec_crewStart hu, crewStart_ignored (.inl hi)]
  case locked => rw [exec_crewStart hu, crewStart_ignored (.inr hl)]
  case refused => rw [exec_crewStart hu, crewStart_refused hi hl hx]
  case stopArmed => rw [exec_crewStop hu, crewStop_armed ha]
  case stopRun => rw [exec_crewStop hu, crewStop_run hr hs]
  case amplitude =>
    obtain ⟨c, cmds, writes⟩ := cmdAmp_writes u n w
    refine ⟨u.cmdAmp n w, exec_cmdAmpWrite hu ht, ?_⟩
    rw [writes, crew_setCrew_same]
    exact ⟨rd_wr_same u _ w, ⟨u.phaseCmd n w, cmds, rfl, rfl, rfl, rfl⟩, fun m hm => crew_setCrew_other _ c hm,
      fun a ha => rd_wr_other u w (List.ne_of_not_mem_cons ha), fun _ => rfl⟩
  case table =>
    refine ⟨⟨_, exec_tblDataAccess_read hu, rfl, rfl, fun _ => rfl⟩, fun v hb => ?_, fun v hb => ?_⟩
    · exact (exec_tblDataAccess_write hu v).trans (if_pos hb)
    · exact (exec_tblDataAccess_write hu v).trans (if_neg (ne_true_of_eq_false hb))
  case modeUnowned => rw [exec_legModeWrite hu, legMode_unowned hn h3 hm]
  case modeBusy => rw [exec_legModeWrite hu, legMode_busy _ hn h]
  case raw => rw [exec_legRawWrite hu, legRaw_waits]
  case deadTimes =>
    rw [exec_legDtWrite hu ht]
    refine ⟨fun h => by rw [legDt_belowTile h], fun hhl hlh h => by rw [legDt_belowPulse hhl hlh h],
      fun hhl hlh phl plh => ?_⟩
    rw [legDt_taken hhl hlh phl plh, leg_putDt]
    exact ⟨fun hn => congrArg _ (if_neg (by rw [Option.not_isSome_iff_eq_none]; exact hn)),
      fun hn => congrArg _ (if_pos (Option.isSome_iff_ne_none.2 hn))⟩
  case pulse => rw [exec_legMinpwWrite hu, legMinpw_legal s x h, if_neg (by omega)]
  case pulseRefused => rw [exec_legMinpwWrite hu, legMinpw_legal s x h, if_pos hp]

end Sys2Proof.Machine
end

/-! The proofs of the statements on the gate link (spec/05_yilos_gate_link.md), first part: the port of a link. -/
section
namespace Sys2Proof.Machine

/-! ### The record of a port: what the other operations leave of it -/
@[simp] theorem link_setLink_same (s : State) (k : Nat) (l : LinkRec) : (s.setLink k l).link k = l := mget_mset_same _ _ _ _
@[simp] theorem link_wr (s : State) (a : Nat) (v : Word) (k : Nat) : (s.wr a v).link k = s.link k := rfl
@[simp] theorem link_put (s : State) (f : Fld) (v k : Nat) : (s.put f v).link k = s.link k := rfl
@[simp] theorem link_putB (s : State) (f : Fld) (b : Bool) (k : Nat) : (s.putB f b).link k = s.link k := rfl
@[simp] theorem link_showMops (s : State) (k m : Nat) : (s.showMops k).link m = s.link m := rfl

@[simp] theorem link_advanceTb (s : State) (t k : Nat) : (s.advanceTb t).link k = s.link k := by
  unfold State.advanceTb
  split <;> rfl

@[simp] theorem link_setQueue (s : State) (k : Nat) (q : List LinkEv) :
    (s.setQueue k q).link k = { s.link k with queue := q } := by
  unfold State.setQueue
  rw [link_put, link_put, link_setLink_same]

/-- A frame on the downlink: its line bits, the disparity after them and its slot. -/
@[simp] theorem link_putLine (s : State) (k S : Nat) (l : List (Bool × Byte)) : (s.putLine k S l).link k = { s.link k with
    line := some (encLine (s.link k).txNeg l).1, txNeg := (encLine (s.link k).txNeg l).2, slot := S } :=
  link_setLink_same _ _ _

/-! ### Downlink frames (R187, R188, R205, R213) -/
/-- A payload frame writes the record of its link, whose next frame is one later, then the line and the queue, and the registers
that show them. -/
theorem sendFrame_writes (s : State) (k : Nat) : let f := (s.nextFrame k).1
    let S := (s.nextFrame k).2
    let u := s.advanceTb (S - 33)
    ∃ (l : LinkRec) (chars : List (Bool × Byte)) (cmd : Nat) (evcnt : Word), s.sendFrame k =
      ((((((u.setLink k l).putLine k S chars).setQueue k (frameTake f S (u.link k).queue).2).wr (R.YILOS_FNUM k)
        (BitVec.ofNat 32 f)).put (F.YILOS_LVL_CMD k) cmd).showMops k).wr (R.YILOS_EVCNT k) evcnt ∧ l.next = f + 1 :=
  ⟨_, _, _, _, rfl, rfl⟩

theorem link_sendFrame (s : State) (k : Nat) : ((s.sendFrame k).link k).slot = (s.nextFrame k).2 ∧
    ((s.sendFrame k).link k).next = (s.nextFrame k).1 + 1 ∧
    ((s.sendFrame k).link k).queue =
      (frameTake (s.nextFrame k).1 (s.nextFrame k).2 ((s.advanceTb ((s.nextFrame k).2 - 33)).link k).queue).2 := by
  obtain ⟨l, chars, cmd, evcnt, writes, next⟩ := sendFrame_writes s k
  rw [writes, link_wr, link_showMops, link_put, link_wr, link_setQueue, link_putLine, link_setLink_same]
  exact ⟨rfl, next, rfl⟩

theorem fnum_sendFrame (s : State) (k : Nat) : (s.sendFrame k).rd (R.YILOS_FNUM k) = BitVec.ofNat 32 (s.nextFrame k).1 := by
  obtain ⟨l, chars, cmd, evcnt, writes, -⟩ := sendFrame_writes s k
  have evcntApart : R.YILOS_FNUM k ≠ R.YILOS_EVCNT k := by unfold R.YILOS_FNUM R.YILOS_EVCNT; omega
  have mstatApart : R.YILOS_FNUM k ≠ R.YILOS_MSTAT k := by unfold R.YILOS_FNUM R.YILOS_MSTAT; omega
  have lvlApart : R.YILOS_FNUM k ≠ R.YILOS_LVL k := by unfold R.YILOS_FNUM R.YILOS_LVL; omega
  rw [writes, rd_wr_other _ _ evcntApart, State.showMops, rd_put_other _ _ _ mstatApart, rd_put_other _ _ _ lvlApart,
    rd_wr_same]

theorem exec_downlinkFrame (s : State) (k : TileNo) : exec (.downlinkFrame k) s = .next (s.downFrame k) := rfl

section
variable {s : State} {k : Nat}

theorem downFrame_up (h : s.linkState k = lUP) : s.downFrame k = s.sendFrame k := if_pos h

theorem downFrame_sync (h : s.linkState k = lSYNC) : s.downFrame k = s.sendTrain k 1 0 := by
  unfold State.downFrame
  rw [h]
  rfl

theorem downFrame_cap (h : s.linkState k = lCAP) : s.downFrame k = s.sendTrain k 2 0 := by
  unfold State.downFrame
  rw [h]
  rfl

theorem downFrame_idle (h : s.linkState k = lOFF ∨ s.linkState k = lLOST ∨ s.linkState k = lFAILED) : s.downFrame k = s := by
  unfold State.downFrame
  rcases h with h | h | h <;> rw [h] <;> rfl
end

theorem link_sendTrain (s : State) (k tt b1 : Nat) : ((s.sendTrain k tt b1).link k).slot = s.trainSlot k ∧
    ((s.sendTrain k tt b1).link k).line =
      some (encLine (s.link k).txNeg (trainChars (BitVec.ofNat 8 tt) [BitVec.ofNat 8 b1])).1 := by
  unfold State.sendTrain
  rw [link_putLine, link_advanceTb]
  exact ⟨rfl, rfl⟩

/-! ### Uplink frames (R197, R200, R212) -/
/-- A good frame without DLBAD ends the row of bad frames. -/
theorem uplinkTake_good {s : State} {k : Nat} {w : BitVec 64} (h : w.getLsbD 42 = false) : s.uplinkTake k (some w) =
    (s.setLink k { s.link k with upNum := (s.link k).upNum + 1, badRow := 0, prevBad := some false, up := some w }).uplinkGood
      k (s.link k).upNum w.toNat (w.getLsbD 42) (s.link k) := by
  unfold State.uplinkTake
  simp only [Option.map_some, h, if_true]
  exact if_neg (by decide)

/-- A bad frame is counted, and the third in a row is the loss of the link. -/
theorem uplinkTake_bad (s : State) (k : Nat) : let u := (s.setLink k { s.link k with
      upNum := (s.link k).upNum + 1, badRow := (s.link k).badRow + 1, prevBad := none, up := none }).incSat (F.YILOS_ULBADCNT_COUNT k)
    s.uplinkTake k none = if 3 ≤ (s.link k).badRow + 1 then u.linkLost k else u := rfl

section
variable {s : State} {k : TileNo} {o : Bool} {g : BitVec 80}

theorem exec_uplinkFrame_idle (h : s.linkState k ≠ lUP) : exec (.uplinkFrame k o g) s = .next s := by
  show execUplinkFrame k o g s = _
  exact if_pos h

theorem exec_uplinkFrame {f : RxFrame} {u : State} (h : s.linkState k = lUP) (hr : s.upRx k (lineIn false o g) = (f, u)) :
    exec (.uplinkFrame k o g) s = .next (u.uplinkTake k f.good) := by
  show execUplinkFrame k o g s = _
  unfold execUplinkFrame
  rw [if_neg (not_not_intro h), hr]
end

/-! ### STOIN against the STO group (R230) -/
section
variable {s : State} {k : TileNo}

theorem exec_stoDisagree {d : Nat} (hd : (s.link k).stoDiff = some d) (hs : (s.link k).stoSaid = false) :
    let u := s.advanceTb (d + 16001)
    exec (.stoDisagree k) s = .next ((u.setLink k { s.link k with stoSaid := true }).fault 0x0409 k) := by
  show execStoDisagree k s = _
  unfold execStoDisagree
  dsimp only
  rw [hd]
  exact if_neg (by simp [hs])

theorem exec_stoDisagree_agrees (hd : (s.link k).stoDiff = none) : exec (.stoDisagree k) s = .next s := by
  show execStoDisagree k s = _
  unfold execStoDisagree
  dsimp only
  rw [hd]
end

section
variable {s : State} {k : Nat}

theorem stoTrack_agrees (h : s.bit (F.YILOS_STAT_STOIN k) = s.tileSto k) :
    s.stoTrack k = s.setLink k { s.link k with stoDiff := none, stoSaid := false } := by
  unfold State.stoTrack
  exact if_pos (by simp [h])

/-- A difference in UP is timed from its first instant. -/
theorem stoTrack_differs (hu : s.linkState k = lUP) (h : s.bit (F.YILOS_STAT_STOIN k) ≠ s.tileSto k)
    (hd : (s.link k).stoDiff = none) : s.stoTrack k = s.setLink k { s.link k with stoDiff := some s.tb } := by
  unfold State.stoTrack
  dsimp only
  rw [if_neg (by simp [hu, h]), if_neg (by simp [hd])]
end

/-! ### EN, RETRAIN, training and time-outs (R213, R218) -/
section
variable {s : State} {k : TileNo}

theorem exec_yilosEn (hu : s.up (R.YILOS_CTL k)) (en : Bool) : exec (.yilosEn k en) s = .next (s.yilosEn k en) := by
  show execYilosEn k en s = _
  exact onReg_up hu

theorem exec_yilosRetrain (hu : s.up (R.YILOS_CTL k)) : exec (.yilosRetrain k) s = .next (s.yilosRetrain k) := by
  show execYilosRetrain k s = _
  exact onReg_up hu

theorem exec_trainingFrame {e o : Bool} {g : BitVec 80} {t1 t2 : Nat} {f : RxFrame} {u : State}
    (h : s.linkState k = lSYNC ∨ s.linkState k = lCAP ∨ s.linkState k = lDELAY ∨ s.linkState k = lVER)
    (hr : s.upRx k (lineIn e o g) = (f, u)) : exec (.trainingFrame k e o g t1 t2) s = .next (u.trainingFrame k f (t2 - t1)) := by
  show execTrainingFrame k e o g t1 t2 s = _
  unfold execTrainingFrame
  dsimp only
  rw [if_pos (by simpa [or_assoc] using h), hr]

theorem exec_trainingTimeout {t code : Nat} (h : s.stageLimit k = some (t, code)) :
    exec (.trainingTimeout k) s = .next ((s.advanceTb t).trainFail k code) := by
  show execTrainingTimeout k s = _
  unfold execTrainingTimeout
  rw [h]
end

section
variable {s : State} {k : Nat}

theorem linkState_stage (s : State) (k : Nat) {st : Nat} (h : st < 16) : (s.stage k st).linkState k = st :=
  get_put_fits _ (F.YILOS_STAT_STATE k) ⟨by simp, by simp⟩ h

/-- The 64th good SYNC frame in a row ends the stage. -/
theorem trainingFrame_sync_last (h : s.linkState k = lSYNC) (hn : 63 ≤ (s.link k).syncN) (b : List Byte) (rt : Nat) :
    (s.trainingFrame k (.training 1 b) rt).linkState k = lCAP := by
  unfold State.trainingFrame State.takeSync
  dsimp only
  rw [if_pos h, if_neg (by decide), if_pos (by omega)]
  exact linkState_stage _ k (by decide)

theorem trainingFrame_sync_bad (h : s.linkState k = lSYNC) (rt : Nat) :
    s.trainingFrame k .bad rt = s.setLink k { s.link k with syncN := 0 } :=
  if_pos h

theorem stageLimit_sync (h : s.linkState k = lSYNC) : s.stageLimit k = some ((s.link k).stAt + 80000, 0x0402) := if_pos h

theorem stageLimit_cap (h : s.linkState k = lCAP) : s.stageLimit k = some ((s.link k).stAt + 16000, 0x0403) := by
  unfold State.stageLimit
  rw [h]
  rfl

theorem stageLimit_delay (h : s.linkState k = lDELAY) : s.stageLimit k = some ((s.link k).stAt + 8000, 0x0405) := by
  unfold State.stageLimit
  rw [h]
  rfl

theorem stageLimit_version (h : s.linkState k = lVER) (hv : s.get (F.YILOS_STAT_VER k) = 0) :
    s.stageLimit k = some ((s.link k).stAt + 8000, 0x0404) := by
  unfold State.stageLimit
  rw [h, hv]
  rfl
end

/-! ### The link comes up and the port parks (R188, R218) -/
/-- The tile's preloads enter the maintenance queue, and nothing else of the port changes. -/
theorem link_tilePreload (s : State) (k : Nat) :
    ((s.tilePreload k).link k).s0 = (s.link k).s0 ∧ ((s.tilePreload k).link k).upNum = (s.link k).upNum := by
  unfold State.tilePreload
  split
  · exact ⟨rfl, rfl⟩
  · dsimp only
    rw [link_showMops, link_setLink_same]
    exact ⟨rfl, rfl⟩

section
variable {s : State} {k : TileNo}

/-- The port goes UP: its frame 0 takes the next training slot, and its uplink frames count from 0. -/
theorem exec_linkUp (h : s.linkState k = lVER) (hv : s.get (F.YILOS_STAT_VER k) ≠ 0) (hl : (s.link k).startLeft = 0) :
    ∃ t : State, exec (.linkUp k) s = .next (t.raise (F.YILOS_EVT_TRAINED k)) ∧ (t.link k).s0 = s.trainSlot k ∧
      (t.link k).upNum = 0 := by
  obtain ⟨u, l, writes, first, uplink⟩ : ∃ (u : State) (l : LinkRec), exec (.linkUp k) s =
      .next ((((u.setLink k l).wr (R.YILOS_FNUM k) 0).tilePreload k).raise (F.YILOS_EVT_TRAINED k)) ∧
        l.s0 = s.trainSlot k ∧ l.upNum = 0 := by
    show ∃ _ _, execLinkUp k s = _ ∧ _ ∧ _
    unfold execLinkUp
    rw [if_pos (by simp [h, hv, hl])]
    exact ⟨_, _, rfl, rfl, rfl⟩
  obtain ⟨s0, upNum⟩ := link_tilePreload ((u.setLink k l).wr (R.YILOS_FNUM k) 0) k
  rw [link_wr, link_setLink_same] at s0 upNum
  exact ⟨_, writes, s0.trans first, upNum.trans uplink⟩

theorem exec_parkComplete (h : s.linkState k = lPARK) (hq : (s.link k).queue = []) (hl : (s.link k).parkLeft = 0) :
    exec (.parkComplete k) s = .next (if (s.linkDown k lOFF).portReady k then (s.linkDown k lOFF).startTraining k
      else s.linkDown k lOFF) := by
  show execParkComplete k s = _
  exact if_pos (by simp [h, hq, hl])

/-! ### Counters and maintenance requests (R234) -/
theorem exec_yilosClr (hu : s.up (R.YILOS_CLR k)) : exec (.yilosClr k) s = .next (s.yilosClr k) := by
  show execYilosClr k s = _
  exact onReg_up hu

theorem exec_yilosMwr (hu : s.up (R.YILOS_MWR k)) (rd : Bool) (a d : Byte) :
    exec (.yilosMwr k rd a d) s = .next (s.yilosMwr k rd a.toNat d.toNat) := by
  show execYilosMwr k rd a d s = _
  exact onReg_up hu
end

theorem qmax_yilosClr (s : State) (k : Nat) : (s.yilosClr k).get (F.YILOS_QSTAT_QMAX k) = 0 :=
  get_put_fits _ (F.YILOS_QSTAT_QMAX k) ⟨by simp, by simp⟩ (Nat.two_pow_pos _)

theorem yilosMwr_full {s : State} {k : Nat} (h : 16 < (s.link k).mops.length + 2) (rd : Bool) (a d : Nat) :
    s.yilosMwr k rd a d = s.raise (F.YILOS_MSTAT_OVF k) :=
  if_pos h

theorem mops_yilosMwr {s : State} {k : Nat} (h : (s.link k).mops.length + 2 ≤ 16) (rd : Bool) (a d : Nat) :
    ((s.yilosMwr k rd a d).link k).mops = (s.link k).mops ++ [(1, a), (if rd then 3 else 2, if rd then 0 else d)] := by
  unfold State.yilosMwr
  dsimp only
  rw [if_neg (Nat.not_lt.2 h), link_showMops]
  split
  · rw [link_putB, link_setLink_same]
  · rw [link_setLink_same]

/-! ### Off-state diagnostics (R231, R232) -/
section
variable {s : State} {k : TileNo}

theorem exec_diagStart {v w : Word} {t : State} (hu : s.up (R.YILOS_DIAG_CTL k))
    (ht : s.takeWord (R.YILOS_DIAG_CTL k) v = (w, t)) :
    let u := (t.put (F.YILOS_DIAG_CTL_LEGS k) (bitsOf w.toNat 3 0)).put (F.YILOS_DIAG_CTL_SETTLE k) (bitsOf w.toNat 23 16)
    exec (.diagStart k v) s = .next (if w.getLsbD 8 then u.diagStart k else u) := by
  intro u
  rw [apply_ite Host.Outcome.next]
  show execDiagStart k v s = _
  exact onRegW_up hu ht

theorem exec_diagSettleEnd {t : Nat} (h : (s.link k).diag.bind (·.sent) = some t) (r0 r1 r2 r3 : BitVec 16) :
    exec (.diagSettleEnd k r0 r1 r2 r3) s = .next (s.diagSettled k t [r0.toNat, r1.toNat, r2.toNat, r3.toNat]) := by
  show execDiagSettleEnd k r0 r1 r2 r3 s = _
  unfold execDiagSettleEnd
  rw [h]
end

/-- After the measurement of a leg comes the source current. -/
theorem diagSettle_measured (s : State) (k : Nat) {d : DiagRec} (h : d.mode = 3) (v0 : List Nat) : s.diagSettle k d v0 =
    (s.setLink k { s.link k with diag := some { d with
      mode := 1, v0 := v0, sent := none, qs := [], sel := none, cur := [] } }).diagWrite k (1 + 4 * d.leg) :=
  if_pos h

/-- Settles O38: each command is its operation in the port's state, and the lemmas above say what that leaves. -/
theorem yilosLink : Obligations.YilosLink := by
  refine ⟨fun s k h => ?payload, fun s k => ⟨fun h => ?sync, fun h => ?cap, fun h => ?idle⟩,
    fun s k tt b1 => link_sendTrain s k tt b1, fun s k o g => ⟨exec_uplinkFrame_idle, fun f u => exec_uplinkFrame⟩,
    fun s k w => uplinkTake_good,
    fun s k => ⟨fun h => (uplinkTake_bad s k).trans (if_neg (Nat.not_le.2 h)), fun h => (uplinkTake_bad s k).trans (if_pos h)⟩,
    fun w => rfl, rfl, fun s k => rfl, fun s k => ⟨fun d => exec_stoDisagree, exec_stoDisagree_agrees⟩,
    fun s k h => ?agrees, fun s k hu h hd => ?differs, fun s k hu => ⟨exec_yilosEn hu, exec_yilosRetrain hu⟩,
    fun s k e o g t1 t2 f u => exec_trainingFrame,
    fun s k b rt h => ⟨fun hn => trainingFrame_sync_last h hn b rt, trainingFrame_sync_bad h rt⟩,
    fun s k => ⟨fun h => exec_trainingTimeout (stageLimit_sync h), fun h => exec_trainingTimeout (stageLimit_cap h),
      fun h => exec_trainingTimeout (stageLimit_delay h), fun h hv => exec_trainingTimeout (stageLimit_version h hv)⟩,
    fun s k => exec_linkUp, fun s k => exec_parkComplete, fun s k hu => ⟨_, exec_yilosClr hu, qmax_yilosClr s k⟩,
    fun s k rd a d hu => ⟨fun h => ?full, fun h => ⟨_, exec_yilosMwr hu rd a d, mops_yilosMwr h rd a.toNat d.toNat⟩⟩,
    fun s k v w t => exec_diagStart, fun s k r0 r1 r2 r3 t h => exec_diagSettleEnd h r0 r1 r2 r3,
    fun s k d v0 h => diagSettle_measured s k h v0⟩
  case payload =>
    obtain ⟨slot, next, queue⟩ := link_sendFrame s k
    refine ⟨s.sendFrame k, ?_, slot, next, fnum_sendFrame s k, queue⟩
    rw [exec_downlinkFrame, downFrame_up h]
  case sync => rw [exec_downlinkFrame, downFrame_sync h]
  case cap => rw [exec_downlinkFrame, downFrame_cap h]
  case idle => rw [exec_downlinkFrame, downFrame_idle h]
  case agrees => rw [stoTrack_agrees h, link_setLink_same]
  case differs => rw [stoTrack_differs hu h hd, link_setLink_same]
  case full => rw [exec_yilosMwr hu, yilosMwr_full h]

end Sys2Proof.Machine
end

/-! The proofs of the statements on the gate link, second part: the tile. -/
section
namespace Sys2Proof.Machine

/-! ### The record of a tile -/
@[simp] theorem tile_setTile_same (s : State) (k : Nat) (t : TileRec) : (s.setTile k t).tile k = t := mget_mset_same _ _ _ _

@[simp] theorem tile_advanceTb (s : State) (t k : Nat) : (s.advanceTb t).tile k = s.tile k := by
  unfold State.advanceTb
  split <;> rfl

/-! ### Frames at the tile (R196, R199, R210, R212, R213, R228) -/
section
variable {s u : State} {k : TileNo} {e o : Bool} {g : BitVec 80}

section
variable {f : RxFrame} (hr : s.downRx k (lineIn e o g) = (f, u))
include hr

/-- A tile that waits takes no payload frame. -/
theorem exec_tileFrameReceive_ignored (hw : (u.tile k).waiting = true) {w : BitVec 64} (hf : f = .payload w ∨ f = .bad) :
    exec (.tileFrameReceive k e o g) s = .next u := by
  show execTileFrameReceive k e o g s = _
  unfold execTileFrameReceive
  dsimp only
  rw [hr]
  dsimp only
  rw [if_pos hw]
  rcases hf with rfl | rfl <;> rfl

theorem exec_tileFrameReceive_runs (hw : (u.tile k).waiting = false) :
    exec (.tileFrameReceive k e o g) s = .next (u.tileRun k f) := by
  show execTileFrameReceive k e o g s = _
  unfold execTileFrameReceive
  dsimp only
  rw [hr]
  exact if_neg (ne_true_of_eq_false hw)
end

theorem exec_tileFrameReceive_trains {tt : Byte} {b : List Byte} (hr : s.downRx k (lineIn e o g) = (.training tt b, u))
    (hw : (u.tile k).waiting = true) :
    exec (.tileFrameReceive k e o g) s = .next (u.tileTrain k tt.toNat (leAt b 0 1) b) := by
  show execTileFrameReceive k e o g s = _
  unfold execTileFrameReceive
  dsimp only
  rw [hr]
  exact if_pos hw
end

theorem tileTrain_sync (s : State) (k b1 : Nat) (b : List Byte) : s.tileTrain k 1 b1 b =
    (s.setTile k { s.tile k with synced := true, capOfs := 0, ver := 0 }).tilePut k (trainChars 1 []) := rfl

theorem tileTrain_park (s : State) (k b1 : Nat) (b : List Byte) :
    s.tileTrain k 7 b1 b = s.setTile k ((s.tile k).park s.tb) := rfl

/-- The instant of the anchor of the frame that tile k expects. -/
def State.tileAnchor (s : State) (k : Nat) : Nat := (s.link k).s0 + 80 * (s.tile k).frameNo + 160

/-- The tile answers with its uplink frame, unless it waits for training. -/
def State.tileAnswer (s : State) (k a : Nat) : State := if (s.tile k).waiting then s else s.tileUplink k a

/-- A payload frame is judged when it has been received, 40 ns after its anchor. -/
theorem tileRun_payload (s : State) (k : Nat) (w : BitVec 64) : let n := (s.tile k).frameNo
    let u := s.advanceTb (s.tileAnchor k + 32)
    s.tileRun k (.payload w) = State.tileAnswer
      (if tileBad (s.tile k) w.toNat (n % 32 = 31) then u.setTile k ((s.tile k).badFrame u.tb)
        else u.tileGood k w.toNat n (n % 32 = 31) (s.tileAnchor k) (s.tile k)) k (s.tileAnchor k) := rfl

/-- A parked tile waits, and answers no more. -/
theorem tileRun_park (s : State) (k : Nat) (b : List Byte) : let u := s.advanceTb (s.tileAnchor k + 32)
    s.tileRun k (.training 7 b) = u.setTile k ((s.tile k).park u.tb) := by
  have waits (u : State) (at_ : Nat) : (u.setTile k ((s.tile k).park at_)).tileAnswer k (s.tileAnchor k) =
      u.setTile k ((s.tile k).park at_) := if_pos (by rw [tile_setTile_same]; rfl)
  exact waits _ _

theorem park_clears (t : TileRec) (at_ : Nat) : (t.park at_).lvl = (t.off 255 at_).lvl ∧ (t.park at_).latch = 0 ∧
    (t.park at_).pend = [] ∧ (t.park at_).waiting = true :=
  ⟨rfl, rfl, rfl, rfl⟩

section
variable {t : TileRec}

theorem badFrame_counts (h : t.bad + 1 < 3) (at_ : Nat) : t.badFrame at_ =
    { t with bad := t.bad + 1, prevGood := false, prevFmt := none, dlbad := true, frameNo := t.frameNo + 1 } :=
  if_neg (Nat.not_le.2 h)

/-- The third bad frame in a row is the loss of the link at the tile. -/
theorem badFrame_third (h : 3 ≤ t.bad + 1) (at_ : Nat) : t.badFrame at_ = t.toWait at_ := if_pos h
end

/-! ### Events and commands at the tile (R190, R221, R226, R227) -/
theorem exec_tileEventApply {s : State} {k : TileNo} {e : LinkEv} {r : List LinkEv} (h : (s.tile k).pend = e :: r) :
    let m := r.foldl (fun m x => min m x.td) e.td
    exec (.tileEventApply k) s = .next ((s.advanceTb m).tileDue k m) := by
  show execTileEventApply k s = _
  unfold execTileEventApply
  dsimp only
  rw [h]

section
variable {s : State} {k w : Nat}

/-- A barred switch does not turn on, at an edge or by a level. -/
theorem tileOn_barred {edge : Bool} (h : (s.tile k).barred w edge = true) (at_ : Nat) : s.tileOn k w at_ edge = s :=
  if_pos (by simp [h])

theorem barred_edge (h : (s.tile k).uvHold.testBit w = true ∨
    ((s.tile k).latch.testBit w = true ∧ mget 0 (s.tile k).present w ≠ 0)) : (s.tile k).barred w true = true := by
  simpa [TileRec.barred] using h

theorem barred_level (h : (s.tile k).latch.testBit w = true) : (s.tile k).barred w false = true := by
  simp [TileRec.barred, h]

/-- After an STO a level turns no switch on before its next on-event. -/
theorem tileOn_held (h : (s.tile k).stoHold.testBit w = true) (at_ : Nat) : s.tileOn k w at_ false = s :=
  if_pos (by simp [h])
end

/-! ### The STO inputs (R227) -/
/-- An input that goes off. -/
def TileRec.stoOff (t : TileRec) (b : Bool) (at_ : Nat) : TileRec :=
  { (if b then { t with stoB := true } else { t with stoA := true } : TileRec).off 255 at_ with
    stoSeen := true, stoHold := 255, pend := t.pend.filter (fun e => e.kind.rank < 2) }

theorem exec_tileStoInput_off (s : State) (k : TileNo) (b : Bool) :
    exec (.tileStoInput k b true) s = .next (s.setTile k ((s.tile k).stoOff b s.tb)) := by
  cases b <;> rfl

theorem stoOff_fields (t : TileRec) (b : Bool) (at_ : Nat) :
    (if b then (t.stoOff b at_).stoB else (t.stoOff b at_).stoA) = true ∧ (t.stoOff b at_).lvl = (t.off 255 at_).lvl ∧
    (t.stoOff b at_).stoHold = 255 ∧ (t.stoOff b at_).stoSeen = true ∧ ∀ e ∈ (t.stoOff b at_).pend, e.kind.rank < 2 := by
  have dropped (e : LinkEv) (h : e ∈ (t.stoOff b at_).pend) : e.kind.rank < 2 :=
    of_decide_eq_true (List.mem_filter.1 h).2
  refine ⟨?_, ?_, rfl, rfl, dropped⟩ <;> cases b <;> rfl

section
variable {s : State} {k : TileNo} {b : Bool}

theorem exec_tileStoInput_on (h : s.tileWire k b = true) : exec (.tileStoInput k b false) s =
    .next (s.setTile k (if b then { s.tile k with stoB := false } else { s.tile k with stoA := false })) := by
  show execTileStoInput k b false s = _
  exact if_pos h

theorem exec_tileStoInput_held (h : s.tileWire k b = false) : exec (.tileStoInput k b false) s = .next s := by
  show execTileStoInput k b false s = _
  exact if_neg (ne_true_of_eq_false h)
end

/-! ### Protections (R203, R223, R224, R226) -/
theorem tileLatch_sets (s : State) (k w c : Nat) (st : Bool) :
    ((s.tileLatch k w c st).tile k).latch = natBit (s.tile k).latch w true ∧
    ((s.tileLatch k w c st).tile k).lvl = ((s.tile k).off (2 ^ w) s.tb).lvl ∧
    mget 0 ((s.tileLatch k w c st).tile k).cause w = c := by
  unfold State.tileLatch
  dsimp only
  rw [tile_setTile_same]
  exact ⟨rfl, rfl, mget_mset_same _ _ _ _⟩

section
variable (s : State) (k : TileNo) (w : Fin 8)

theorem exec_tileOvertempShutdown (d : Bool) :
    exec (.tileOvertempShutdown k w d true) s = .next (s.tileLatch k w (if d then 6 else 4) true) ∧
    exec (.tileOvertempShutdown k w d false) s = .next (s.tileCauseGone k w (if d then 6 else 4)) :=
  ⟨rfl, rfl⟩

/-- A low high-side supply latches its own switch and holds it off. -/
theorem exec_tileUvlo_low (p : Fin 4) : let u := s.tileLatch k (2 * p.val + 1) 3 true
    exec (.tileUvlo k (some p) true) s =
      .next (u.setTile k { u.tile k with uvHold := natBit (u.tile k).uvHold (2 * p.val + 1) true }) := rfl

theorem exec_tileUvlo_back (p : Fin 4) : let v := s.tileCauseGone k (2 * p.val + 1) 3
    exec (.tileUvlo k (some p) false) s =
      .next (v.setTile k { v.tile k with uvHold := natBit (v.tile k).uvHold (2 * p.val + 1) false }) := rfl

theorem exec_tileDidtTrip : let u := s.tileLatch k w (if (s.tile k).ver = 2 then 1 else 6) false
    exec (.tileDidtTrip k w) s = .next (u.setTile k { u.tile k with trip := some (w.val, u.tb) }) := rfl

theorem exec_tilePowerUp :
    exec (.tilePowerUp k) s = .next (s.setTile k { stoA := (s.tile k).stoA, stoB := (s.tile k).stoB }) := rfl
end

/-! ### The interlock (R222) -/
section
variable {s : State} {k : TileNo} {w : Fin 8}

theorem exec_tileInterlockRelease (hd : (s.tile k).defer.testBit w = true)
    (hp : (s.tile k).lvl.testBit (partner w) = false) (hs : (s.tile k).sto = false) :
    let u := s.advanceTb (mget 0 (s.tile k).offAt (partner w) + tileDt k w)
    exec (.tileInterlockRelease k w) s = .next (u.setTile k { u.tile k with
      defer := natBit (s.tile k).defer w false, lvl := natBit (s.tile k).lvl w true }) := by
  show execTileInterlockRelease k w s = _
  exact if_pos (by simp [hd, hp, hs])

theorem exec_tileInterlockRelease_partnerOn (hp : (s.tile k).lvl.testBit (partner w) = true) :
    exec (.tileInterlockRelease k w) s = .next s := by
  show execTileInterlockRelease k w s = _
  exact if_neg (by simp [hp])
end

/-- Settles O39: each command is its operation on the tile's record, and the lemmas above say what that leaves. -/
theorem yilosTile : Obligations.YilosTile := by
  refine ⟨fun s k e o g f u hr => ⟨fun hw => ⟨fun w => exec_tileFrameReceive_ignored hr hw, fun tt b hf => ?trains⟩,
      exec_tileFrameReceive_runs hr⟩,
    fun s k b1 b => ⟨tileTrain_sync s k b1 b, tileTrain_park s k b1 b⟩,
    fun s k w => ⟨fun h => ?bad, fun h => ?good, tileRun_park s k⟩, park_clears,
    fun t at_ => ⟨fun h => badFrame_counts h at_, fun h => ?third⟩, fun s k e r => exec_tileEventApply, fun s k t => rfl,
    fun s k b => ⟨_, exec_tileStoInput_off s k b, ?off⟩, fun s k b => ⟨exec_tileStoInput_on, exec_tileStoInput_held⟩,
    fun s k w => exec_tileOvertempShutdown s k w, fun s k w c st _ => tileLatch_sets s k w c st,
    fun s k w at_ h => tileOn_barred (barred_edge h) at_,
    fun s k w at_ h => h.elim (fun h => tileOn_barred (barred_level h) at_) (fun h => tileOn_held h at_),
    fun s k p => ⟨exec_tileUvlo_low s k p, exec_tileUvlo_back s k p⟩, exec_tileDidtTrip, exec_tilePowerUp,
    fun s k w => exec_tileInterlockRelease, fun s k w => exec_tileInterlockRelease_partnerOn⟩
  case trains =>
    subst hf
    exact exec_tileFrameReceive_trains hr hw
  case bad => exact (tileRun_payload s k w).trans (by rw [if_pos h]; rfl)
  case good => exact (tileRun_payload s k w).trans (by rw [if_neg (ne_true_of_eq_false h)]; rfl)
  case third =>
    rw [badFrame_third h]
    exact ⟨rfl, rfl, rfl, rfl⟩
  case off =>
    rw [tile_setTile_same]
    exact stoOff_fields (s.tile k) b s.tb

end Sys2Proof.Machine
end

/-! The proofs of the statements on current measurement (spec/06_current_and_loops.md), first part: samples, results and energy. -/
section
namespace Sys2Proof.Machine

/-! ### Samples (R236, R237) -/
/-- No frame of a link that is not up, and none before the first, brings samples. -/
theorem exec_sincSampleEntry_idle {s : State} {k : TileNo} (h : s.linkState k ≠ lUP ∨ (s.link k).upNum = 0) :
    exec (.sincSampleEntry k) s = .next s := by
  show execSincSampleEntry k s = _
  unfold execSincSampleEntry
  by_cases hu : s.linkState k = lUP
  · rw [if_neg (not_not_intro hu)]
    exact if_pos (h.resolve_left (not_not_intro hu))
  · exact if_pos hu

theorem exec_sincSampleEntry_up {s : State} {k : TileNo} (hu : s.linkState k = lUP) (hn : (s.link k).upNum ≠ 0) :
    let a := (s.link k).s0 + ((s.link k).upNum - 1) * 80 + 160
    let bit := fun (i : Nat) => (s.link k).up.map (fun f => f.toNat.testBit i)
    (s.sinc (64 + k.val)).newest < a →
    exec (.sincSampleEntry k) s = .next (loopL ((List.range 4).map (fun p => (4 * k.val + p, 2 * p)) ++ [(64 + k.val, 8)])
      (fun q u => u.setSinc q.1 (((u.sinc q.1).push (a - 40) (bit q.2)).push a (bit (q.2 + 1)))) (s.advanceTb (a + 224))) := by
  intro a bit new
  show execSincSampleEntry k s = _
  unfold execSincSampleEntry
  rw [if_neg (not_not_intro hu)]
  dsimp only
  rw [if_neg hn]
  exact if_neg (Nat.not_le.2 new)

/-- A missing sample repeats the last good one and is marked. -/
theorem push_missing (r : SincRec) (t : Nat) :
    (r.push t none).bits.head? = some (r.lastGood, true) ∧ (r.push t none).lastGood = r.lastGood := ⟨rfl, rfl⟩

theorem push_sample (r : SincRec) (t : Nat) (b : Bool) :
    (r.push t (some b)).bits.head? = some (b, false) ∧ (r.push t (some b)).lastGood = b := ⟨rfl, rfl⟩

/-! ### Results (R238 to R240) -/
theorem clampInt_between {lo hi : Int} (h : lo ≤ hi) (z : Int) : lo ≤ clampInt lo hi z ∧ clampInt lo hi z ≤ hi := by
  unfold clampInt
  split
  · exact ⟨Int.le_refl lo, h⟩
  · split
    · exact ⟨h, Int.le_refl hi⟩
    · omega

/-- The second clamp of a result bounds it, whatever its calibration. -/
theorem sincResult_between (r : SincRec) (taps : List Nat) (tot skip ofs gain : Nat) :
    -32767 ≤ (sincResult r taps tot skip ofs gain).i ∧ (sincResult r taps tot skip ofs gain).i ≤ 32767 :=
  clampInt_between (by decide) _

/-- A result that becomes available leaves the owners of the legs. -/
theorem legCrew_resultAt_setSinc (s : State) (x l d y : Nat) (r : SincRec) :
    ((s.setSinc x r).resultAt l d).legCrew y = s.legCrew y := by
  unfold State.legCrew State.resultAt
  rw [advanceTb_get]
  rfl

theorem exec_fastResult (s : State) (x : StreamNo) (d : Nat) :
    exec (.fastResult x d) s = .next (s.formFast x ((s.sinc x).nextL (s.sinc x).fastL 40) d) := rfl

/-! The fast result of a stream, once the sample at its instant has come. -/
section
variable {s : State} {x l : Nat}

theorem formFast_early (h : (s.sinc x).newest < l) (d : Nat) : s.formFast x l d = s := if_pos h

theorem formFast_leg {n : Nat} (h : l ≤ (s.sinc x).newest) (hx : x < 64) (hn : s.legCrew x = some n) (d : Nat) :
    s.formFast x l d =
      ((s.setSinc x { s.sinc x with fastL := l }).resultAt l d).fastLeg n x (((s.sinc x).newest - l) / 40) := by
  unfold State.formFast
  dsimp only
  rw [if_neg (Nat.not_lt.2 h), if_pos hx, legCrew_resultAt_setSinc, hn]

/-- A leg without an owner has no crew decimation: nothing is shown of its samples. -/
theorem formFast_unowned (h : l ≤ (s.sinc x).newest) (hx : x < 64) (hn : s.legCrew x = none) (d : Nat) :
    s.formFast x l d = (s.setSinc x { s.sinc x with fastL := l }).resultAt l d := by
  unfold State.formFast
  dsimp only
  rw [if_neg (Nat.not_lt.2 h), if_pos hx, legCrew_resultAt_setSinc, hn]

theorem formFast_tile (h : l ≤ (s.sinc x).newest) (hx : 64 ≤ x) (d : Nat) :
    s.formFast x l d =
      ((s.setSinc x { s.sinc x with fastL := l }).resultAt l d).fastTile (x - 64) (((s.sinc x).newest - l) / 40) := by
  unfold State.formFast
  dsimp only
  rw [if_neg (Nat.not_lt.2 h), if_neg (Nat.not_lt.2 hx)]
end

/-! The control result of a stream: its instant, and what forms there. -/
theorem exec_controlResult_leg {s : State} {x : StreamNo} {n : Nat} (hx : x.val < 64) (hn : s.legCrew x = some n) (d : Nat) :
    exec (.controlResult x d) s = .next (s.formCtl x
      (if s.bit (F.SINC_CREW_CFG_CEN n) then s.alignedAt n
        else (s.sinc x).nextL (s.sinc x).ctlL (40 * s.get (F.SINC_CREW_CFG_R n))) d) := by
  show execControlResult x d s = _
  unfold execControlResult
  dsimp only
  rw [if_pos hx, hn]
  dsimp only
  split <;> rfl

theorem exec_controlResult_unowned {s : State} {x : StreamNo} (hx : x.val < 64) (hn : s.legCrew x = none) (d : Nat) :
    exec (.controlResult x d) s = .next s := by
  show execControlResult x d s = _
  unfold execControlResult
  dsimp only
  rw [if_pos hx, hn]

theorem exec_controlResult_tile {s : State} {x : StreamNo} (hx : 64 ≤ x.val) (d : Nat) : exec (.controlResult x d) s =
    .next (s.formCtl x ((s.sinc x).nextL (s.sinc x).ctlL (40 * s.get F.SINC_CTL_RV)) d) :=
  if_neg (Nat.not_lt.2 hx)

section
variable {s : State} {x l : Nat}

/-- Before its samples have come, and once it has been formed, no result forms. -/
theorem formCtl_kept (h : (s.sinc x).newest < l ∨ l ≤ (s.sinc x).ctlL) (d : Nat) : s.formCtl x l d = s :=
  if_pos (by simpa using h)

theorem formCtl_forms (h : l ≤ (s.sinc x).newest) (hl : (s.sinc x).ctlL < l) (d : Nat) :
    let z := (s.setSinc x { s.sinc x with ctlL := l }).resultAt l d
    let r := z.ctlResult x (((s.sinc x).newest - l) / 40)
    s.formCtl x l d = (if r.sat && x < 64 then z.incSat (F.SINC_LEG_SATCNT_COUNT x) else z).storeCtl x r :=
  if_neg (by simp [h, hl])
end

/-! ### Overcurrent (R249) -/
section
variable {s : State} {n x : Nat} {i : Int}

/-- A result within the limit ends the row. -/
theorem overcurrent_within (h : i.natAbs ≤ s.get (F.CREW_OCLIM_LIM n)) :
    s.overcurrent n x i = s.setSinc x { s.sinc x with oc := 0, ocHit := false } := by
  have below : decide (i.natAbs > s.get (F.CREW_OCLIM_LIM n)) = false := decide_eq_false (Nat.not_lt.2 h)
  have short : ¬ max 1 (s.get (F.CREW_OCLIM_OCN n)) ≤ 0 := by omega
  unfold State.overcurrent
  simp only [below, Bool.and_false, Bool.false_eq_true, if_false, ne_eq, not_true_eq_false, decide_false, short, Bool.or_false,
    Bool.false_and]

/-- The OCN-th result in a row above the limit stops a crew that runs, also where the row has stopped it before. -/
theorem overcurrent_stops {j q : Nat} (hj : s.legSet n x = some (j, q)) (ha : s.setActive n j = true)
    (hr : s.crewState n = cRUN) (hi : s.get (F.CREW_OCLIM_LIM n) < i.natAbs)
    (hc : max 1 (s.get (F.CREW_OCLIM_OCN n)) ≤ (s.sinc x).oc + 1) : s.overcurrent n x i =
      ((s.setSinc x { s.sinc x with oc := (s.sinc x).oc + 1, ocHit := true }).fault 0x0503 x).faultStop n 0x0503 x := by
  have above : decide (i.natAbs > s.get (F.CREW_OCLIM_LIM n)) = true := decide_eq_true hi
  unfold State.overcurrent
  simp [hj, ha, hr, above, hc]
end

/-! ### The energy counters (R262) -/
section
variable {s : State} {n : CrewNo}

theorem exec_eclrWrite (hu : s.up (R.SINC_CREW_ECLR n)) (clr : Bool) : exec (.eclrWrite n clr) s = .next (s.eclr n clr) := by
  show execEclrWrite n clr s = _
  exact onReg_up hu

theorem exec_eposLRead (hu : s.up (R.SINC_CREW_EPOS_L n)) : exec (.eposLRead n) s =
    .next { (s.readEnergy n false).2 with rdata := (s.readEnergy n false).1 } := by
  show execEposLRead n s = _
  exact onRegRead_up hu

theorem exec_enegLRead (hu : s.up (R.SINC_CREW_ENEG_L n)) : exec (.enegLRead n) s =
    .next { (s.readEnergy n true).2 with rdata := (s.readEnergy n true).1 } := by
  show execEnegLRead n s = _
  exact onRegRead_up hu
end

/-- A read of the low word latches the high word of the same count. -/
theorem readEnergy_positive (s : State) (n : Nat) : (s.readEnergy n false).1 = BitVec.ofNat 32 (energyMj (s.crew n).epos) ∧
    (s.readEnergy n false).2.rd (R.SINC_CREW_EPOS_H n) = BitVec.ofNat 32 (energyMj (s.crew n).epos / 2 ^ 32) :=
  ⟨rfl, rd_wr_same s _ _⟩

theorem readEnergy_negative (s : State) (n : Nat) : (s.readEnergy n true).1 = BitVec.ofNat 32 (energyMj (s.crew n).eneg) ∧
    (s.readEnergy n true).2.rd (R.SINC_CREW_ENEG_H n) = BitVec.ofNat 32 (energyMj (s.crew n).eneg / 2 ^ 32) :=
  ⟨rfl, rd_wr_same s _ _⟩

/-- Settles O40: each command is its operation on the stream or the crew, whose cases are the lemmas above. -/
theorem sincResults : Obligations.SincResults :=
  ⟨fun _ _ => exec_sincSampleEntry_idle, fun _ _ => exec_sincSampleEntry_up,
    fun r t => ⟨(push_missing r t).1, (push_missing r t).2, push_sample r t⟩, sincResult_between, exec_fastResult,
    fun _ _ _ d => ⟨fun h => formFast_early h d, fun _ h hx hn => formFast_leg h hx hn d,
      fun h hx hn => formFast_unowned h hx hn d, fun h hx => formFast_tile h hx d⟩,
    fun _ _ _ _ => rfl, fun _ _ _ => rfl, fun _ _ d _ hx hn => exec_controlResult_leg hx hn d,
    fun _ _ d => ⟨fun hx hn => exec_controlResult_unowned hx hn d, fun hx => exec_controlResult_tile hx d⟩,
    fun _ _ _ d => ⟨fun h => formCtl_kept h d, fun h hl => formCtl_forms h hl d⟩,
    fun _ _ _ _ => ⟨overcurrent_within, fun _ _ => overcurrent_stops⟩,
    fun _ _ hu => ⟨exec_eclrWrite hu true, exec_eclrWrite hu false⟩,
    fun s n hu => ⟨_, exec_eposLRead hu, readEnergy_positive s n⟩,
    fun s n hu => ⟨_, exec_enegLRead hu, readEnergy_negative s n⟩⟩

end Sys2Proof.Machine
end

/-! The proofs of the statements on current measurement (spec/06_current_and_loops.md), second part: the snatch guard and the EMG
pins. -/
section
namespace Sys2Proof.Machine

/-! ### The snatch guard (R257) -/
/-- The guard enters COOL at the present instant, and tells it with HOLDEND. -/
def State.guardCool (s : State) (n : Nat) : State :=
  let u := s.raise (F.CREW_G_EVT_HOLDEND n)
  (u.setCrew n { u.crew n with guard := { (u.crew n).guard with t0 := u.now } }).put (F.CREW_G_STAT_STATE n) gCOOL

theorem guardSt_guardCool (s : State) (n : Nat) : (s.guardCool n).guardSt n = gCOOL :=
  get_put_fits _ (F.CREW_G_STAT_STATE n) ⟨by simp, by simp⟩ (by decide : gCOOL < 2 ^ 3)

theorem t0_guardCool (s : State) (n : Nat) : ((s.guardCool n).crew n).guard.t0 = s.now :=
  congrArg (·.guard.t0) (crew_setCrew_same (s.raise (F.CREW_G_EVT_HOLDEND n)) n _)

section
variable {s : State} {n : CrewNo}

theorem exec_guardHoldEnd (h : s.guardSt n = gHOLD) : exec (.guardHoldEnd n) s =
    .next ((s.until ((s.crew n).guard.t0 + s.get (F.CREW_G_TIME_HOLD n) * msCounts)).guardCool n) :=
  if_pos h

/-- The end of COOL: after its time, and of a time of 0 at the tick after the entry. -/
theorem exec_guardCoolEnd (h : s.guardSt n = gCOOL) : exec (.guardCoolEnd n) s =
    .next ((s.until ((s.crew n).guard.t0 + if s.get (F.CREW_G_TIME_COOL n) = 0
      then 128 - (s.tb - (s.now - (s.crew n).guard.t0)) % 128 else s.get (F.CREW_G_TIME_COOL n) * msCounts)).guardArm n) :=
  if_pos h

theorem exec_guardRenderLimit (h : s.guardSt n = gRENDER) (he : (s.crew n).guard.byEmg = false) :
    exec (.guardRenderLimit n) s =
      .next ((s.until ((s.crew n).guard.t0 + s.get (F.CREW_G_RTIME_RMAX n) * 1000 * msCounts)).guardTrip n) :=
  if_pos (by simp [h, he])

/-- A recovery ends a render only before its limit does. -/
theorem exec_guardRecover {z : Nat} (h : s.guardSt n = gRENDER) (he : (s.crew n).guard.byEmg = false)
    (hz : (s.crew n).guard.since = some z) (first : z + s.get (F.CREW_G_RTIME_RDWELL n) * msCounts <
      (s.crew n).guard.t0 + s.get (F.CREW_G_RTIME_RMAX n) * 1000 * msCounts) : exec (.guardRecover n) s =
    .next (((s.until (z + s.get (F.CREW_G_RTIME_RDWELL n) * msCounts)).raise (F.CREW_G_EVT_RECOVER n)).guardBack n) := by
  show execGuardRecover n s = _
  unfold execGuardRecover
  dsimp only
  rw [hz]
  exact if_pos (by simp [h, he, first])

/-! A render that an EMG pin began lasts until the pin's release. -/
theorem exec_guardRenderLimit_byEmg (he : (s.crew n).guard.byEmg = true) : exec (.guardRenderLimit n) s = .next s :=
  if_neg (by simp [he])

theorem exec_guardRecover_byEmg (he : (s.crew n).guard.byEmg = true) : exec (.guardRecover n) s = .next s := by
  show execGuardRecover n s = _
  unfold execGuardRecover
  dsimp only
  split
  · exact if_neg (by simp [he])
  · rfl
end

/-! ### The EMG pins (R259, R260) -/
section
variable {p : EmgPin} {low : Bool}

theorem sample_same (h : low = p.on) : p.sample low = { p with n := 0 } := if_pos h

theorem sample_tenth (h : low ≠ p.on) (hn : 9 ≤ p.n) : p.sample low = { n := 0, on := low } := by
  unfold EmgPin.sample
  rw [if_neg h, if_pos (Nat.succ_le_succ hn)]

theorem sample_earlier (h : low ≠ p.on) (hn : p.n < 9) : p.sample low = { p with n := p.n + 1 } := by
  unfold EmgPin.sample
  rw [if_neg h, if_neg (by omega)]
end

@[simp] theorem until_emg0 (s : State) (t : Nat) : (s.until t).emg0 = s.emg0 := by
  unfold State.until
  split <;> rfl

@[simp] theorem until_emg1 (s : State) (t : Nat) : (s.until t).emg1 = s.emg1 := by
  unfold State.until
  split <;> rfl

theorem exec_emgSample (s : State) (l0 l1 : Bool) : let w := s.until (s.emgAt + 80000)
    let u : State := { w with emgAt := w.now, emg0 := s.emg0.sample l0, emg1 := s.emg1.sample l1 }
    exec (.emgSample l0 l1) s = .next (loopL ((List.range 32).filter (fun n => u.crewState n != cUNUSED))
      (fun n v => v.emgCrew (u.emg0.on && !s.emg0.on) (u.emg1.on && !s.emg1.on) n) u) := by
  show execEmgSample l0 l1 s = _
  unfold execEmgSample
  simp only [until_emg0, until_emg1]

/-! ### The crew without sensor (R261) -/
section
variable {s : State} {n : CrewNo}

theorem exec_slessLowspeed {x : Nat} (h : (s.crew n).slowAt = some x) : exec (.slessLowspeed n) s =
    .next (((s.until (x + s.get (F.CREW_SLESS_TLOW n) * msCounts)).fault 0x0522 n).faultStop n 0x0522) := by
  show execSlessLowspeed n s = _
  unfold execSlessLowspeed
  rw [h]

theorem exec_slessLowspeed_fast (h : (s.crew n).slowAt = none) : exec (.slessLowspeed n) s = .next s := by
  show execSlessLowspeed n s = _
  unfold execSlessLowspeed
  rw [h]
end

/-- Settles O41: each command in the guard's state that it ends, and the three cases of a pin's sample. -/
theorem snatchGuard : Obligations.SnatchGuard := by
  refine ⟨fun s n h => ⟨_, exec_guardHoldEnd h, guardSt_guardCool _ n, ?instant⟩, fun s n h => ⟨fun hc => ?cools, fun hc => ?tick⟩,
    fun s n h he => ⟨exec_guardRenderLimit h he, fun z => exec_guardRecover h he⟩,
    fun s n _ he => ⟨exec_guardRenderLimit_byEmg he, exec_guardRecover_byEmg he⟩,
    fun p low => ⟨sample_same, fun h hn => congrArg EmgPin.on (sample_tenth h hn),
      fun h hn => (congrArg EmgPin.on (sample_earlier h hn) :)⟩,
    exec_emgSample, fun s n x => exec_slessLowspeed, fun s n => exec_slessLowspeed_fast⟩
  case instant => rw [t0_guardCool, until_now]
  case cools => rw [exec_guardCoolEnd h, if_neg hc]
  case tick => rw [exec_guardCoolEnd h, if_pos hc]

end Sys2Proof.Machine
end

/-! The proofs of the statements on motion profiles (spec/07_motion_profiles.md), first part: the profile unit and the Iarum
set-points. -/
section
namespace Sys2Proof.Machine

/-! ### The record of a profile unit: what the other operations leave of it -/
@[simp] theorem prof_setProf_same (s : State) (n : Nat) (r : ProfRec) : (s.setProf n r).prof n = r := mget_mset_same _ _ _ _
@[simp] theorem prof_wr (s : State) (a : Nat) (v : Word) (n : Nat) : (s.wr a v).prof n = s.prof n := rfl
@[simp] theorem prof_put (s : State) (f : Fld) (v n : Nat) : (s.put f v).prof n = s.prof n := rfl
@[simp] theorem prof_putB (s : State) (f : Fld) (b : Bool) (n : Nat) : (s.putB f b).prof n = s.prof n := rfl
@[simp] theorem prof_raise (s : State) (f : Fld) (n : Nat) : (s.raise f).prof n = s.prof n := rfl

@[simp] theorem prof_advanceTb (s : State) (t n : Nat) : (s.advanceTb t).prof n = s.prof n := by
  unfold State.advanceTb
  split <;> rfl

/-! ### The boundary of a servo period (R284 to R286) -/
/-- Clamping in the period that ends is told and counted, with a fault where the period before was free of it. -/
def State.tellLag (s : State) (n : Nat) : State :=
  if (s.prof n).lag then
    (((if s.bit (F.PROF_PSTAT_IARLAG n) then s else s.fault 0x0608 n).incSat (F.PROF_IARLAGCNT_COUNT n)).raise
      (F.PROF_EVT_IARLAG n)).putB (F.PROF_PSTAT_IARLAG n) true
  else s.putB (F.PROF_PSTAT_IARLAG n) false

/-- The state at the end of the period that began at t0, before the reference moves on. -/
def State.periodEnd (s : State) (n t0 : Nat) : State := (s.advanceTb (t0 + s.get (F.PROF_IAR_PER_US n) * 800)).tellLag n

section
variable {s : State} {n : CrewNo}

theorem exec_iarumPeriodBoundary_idle (h : (s.prof n).perStart = none ∨ s.pfMode n ≠ 2) :
    exec (.iarumPeriodBoundary n) s = .next s := by
  show execIarumPeriodBoundary n s = _
  unfold execIarumPeriodBoundary
  cases hs : (s.prof n).perStart with
  | none => rfl
  | some t0 => exact if_pos (h.resolve_left (by simp [hs]))

section
variable {t0 : Nat} (hs : (s.prof n).perStart = some t0) (hm : s.pfMode n = 2)
include hs hm

theorem exec_iarumPeriodBoundary_setp {z : Int} (hz : (s.prof n).setp = some z) : let u := s.periodEnd n t0
    let r := { s.prof n with lag := false, perStart := some u.tb }
    exec (.iarumPeriodBoundary n) s = .next (u.setProf n { r with
      sPrev := r.hold.getD r.sNew, sNew := z * 2 ^ 18, setp := none, misses := 0, hold := none }) := by
  show execIarumPeriodBoundary n s = _
  unfold execIarumPeriodBoundary State.periodEnd State.tellLag
  rw [hs]
  dsimp only
  rw [if_neg (not_not_intro hm), prof_advanceTb, hz]

/-- The first period without a set-point goes on at the speed of the one before, the second in a row holds the reference. -/
theorem exec_iarumPeriodBoundary_miss (hz : (s.prof n).setp = none) : let u := s.periodEnd n t0
    let r := { s.prof n with lag := false, perStart := some u.tb }
    exec (.iarumPeriodBoundary n) s =
      if (s.prof n).misses = 0 then .next (((u.setProf n { r with
        sPrev := r.sNew, sNew := r.sNew + (r.sNew - r.sPrev), misses := 1 }).incSat (F.PROF_IARMISSCNT_COUNT n)).raise
          (F.PROF_EVT_IARMISS n))
      else if (s.prof n).misses = 1 then
        .next ((u.setProf n { r with hold := some (r.hold.getD r.sNew), misses := 2 }).fault 0x0606 n)
      else .next (u.setProf n r) := by
  show execIarumPeriodBoundary n s = _
  unfold execIarumPeriodBoundary State.periodEnd State.tellLag
  rw [hs]
  dsimp only
  rw [if_neg (not_not_intro hm), prof_advanceTb, hz]
end
end

/-- Settles O43: what each way to end a period leaves in the unit's record. -/
theorem iarumPeriod : Obligations.IarumPeriod := by
  refine ⟨fun s n => exec_iarumPeriodBoundary_idle,
    fun s n t0 z hs hm hz => ⟨_, exec_iarumPeriodBoundary_setp hs hm hz, ?setPoint⟩,
    fun s n t0 hs hm hz h => ⟨_, (exec_iarumPeriodBoundary_miss hs hm hz).trans (if_pos h), ?firstMiss⟩,
    fun s n t0 hs hm hz h => ⟨_, (exec_iarumPeriodBoundary_miss hs hm hz).trans
      ((if_neg (by simp [h])).trans (if_pos h)), ?secondMiss⟩⟩
  case setPoint =>
    rw [prof_setProf_same]
    exact ⟨rfl, rfl, rfl, rfl, rfl⟩
  case firstMiss =>
    rw [prof_raise, State.incSat, prof_put, prof_setProf_same]
    exact ⟨rfl, rfl, bit_raise _ (F.PROF_EVT_IARMISS n) ⟨by simp, by simp⟩⟩
  case secondMiss =>
    rw [prof_setProf_same]
    exact ⟨rfl, rfl⟩

/-! ### Dwell and standstill (R272, R278) -/
section
variable {s : State} {n : CrewNo}

theorem exec_dwellEnd (h : s.pf n = pfDWELL) :
    exec (.dwellEnd n) s = .next ((s.until ((s.prof n).t0 + s.dwellMs n * msCounts)).dwellOver n) := if_pos h

theorem exec_standstillDelayEnd (h : s.pf n = pfSTILL) : exec (.standstillDelayEnd n) s =
    .next ((s.until ((s.prof n).since + s.get (F.PROF_STILL_STDLY n) * msCounts)).standPolicy n) := if_pos h
end

section
variable {s : State} {n : Nat}

theorem dwellOver_requested {b : Bool} (h : s.motionReq n = some b) :
    s.dwellOver n = (s.setProf n { s.prof n with start := true }).setPf n pfMOVE := by
  unfold State.dwellOver
  rw [h]

theorem dwellOver_still (h : s.motionReq n = none) : s.dwellOver n = s.setPf n pfSTILL := by
  unfold State.dwellOver
  rw [h]

theorem standPolicy_none (h : s.get (F.PROF_STILL_POLICY n) = 0) : s.standPolicy n = s := by
  unfold State.standPolicy
  rw [h]
  rfl

theorem standPolicy_reduces (h : s.get (F.PROF_STILL_POLICY n) = 1) :
    s.standPolicy n = (s.setHoldk n (fOfDyadic (s.get (F.PROF_STILL_HOLDF n)) (-12))).setPf n pfREDUCED := by
  unfold State.standPolicy
  rw [h]
  rfl

theorem standPolicy_brakes (h : s.get (F.PROF_STILL_POLICY n) = 2) :
    let v := (s.setBrake n true).raise (F.PROF_EVT_BRKSET n)
    s.standPolicy n = (v.setProf n { v.prof n with setFail := false }).setPf n pfBSET := by
  unfold State.standPolicy
  rw [h]
  rfl
end

/-! ### The brake handshake (R279, R280) -/
section
variable {s : State} {n : CrewNo}

/-- The brake has had its time to set: without feedback it counts as set. -/
theorem exec_brakeTsetEnd (h : s.pf n = pfBSET) (hf : (s.prof n).setFail = false) :
    let u := s.until ((s.prof n).since + s.get (F.PROF_BRKT_TSET n) * 2 * msCounts)
    let v := (u.raise (F.PROF_EVT_BRKFAIL n)).fault 0x0604 n
    exec (.brakeTsetEnd n) s =
      if !u.bit (F.PROF_BRK_FBEN n) || u.fbSet n then .next (u.startRamp n)
      else .next (v.setProf n { v.prof n with setFail := true }) :=
  if_pos (by simp [h, hf])

theorem exec_brakeTpreEnd (h : s.pf n = pfBOPEN) (ho : s.bit (F.PROF_PSTAT_BRKOUT n) = true) (hg : s.guardSt n ≠ gRENDER) :
    let u := s.until ((s.prof n).since + s.get (F.PROF_BRKT_TPRE n) * 2 * msCounts)
    exec (.brakeTpreEnd n) s = .next ((u.setBrake n false).setProf n { u.prof n with since := u.now }) :=
  if_pos (by simp [h, ho, hg])

theorem exec_brakeTpreEnd_render (hg : s.guardSt n = gRENDER) : exec (.brakeTpreEnd n) s = .next s :=
  if_neg (by simp [hg])

/-- The brake has had its time to open: without feedback it counts as open. -/
theorem exec_brakeTopenEnd (h : s.pf n = pfBOPEN) (ho : s.bit (F.PROF_PSTAT_BRKOUT n) = false) :
    let u := s.until ((s.prof n).since + s.get (F.PROF_BRKT_TOPEN n) * 2 * msCounts)
    exec (.brakeTopenEnd n) s =
      if !u.bit (F.PROF_BRK_FBEN n) || !u.fbSet n then .next (u.brakeOpen n)
      else .next (((((u.raise (F.PROF_EVT_BRKFAIL n)).fault 0x0605 n).setBrake n true).profNoGoal n).startRamp n) :=
  if_pos (by simp [h, ho])

theorem exec_brakeFeedback (he : s.bit (F.PROF_BRK_FBEN n) = true) (lv : Bool) :
    let u := s.setBitAt F.GPIO_IN_IN (s.get (F.PROF_BRK_FBIDX n)) lv
    let set := lv == u.bit (F.PROF_BRK_FBPOL n)
    let v := u.putB (F.PROF_PSTAT_BRKFB n) set
    exec (.brakeFeedback n lv) s = .next (if v.pf n = pfBSET && set then v.startRamp n
      else if v.pf n = pfBOPEN && !set && !v.bit (F.PROF_PSTAT_BRKOUT n) then v.brakeOpen n else v) := by
  intro u set v
  rw [apply_ite Host.Outcome.next, apply_ite Host.Outcome.next]
  exact if_neg (by simp [he])

theorem exec_trelRampEnd (h : s.pf n = pfTREL) (hk : s.rd (R.PROF_HOLDK n) = 0) :
    let u := (s.setHoldk n 0).setPf n pfBRAKED
    exec (.trelRampEnd n) s = .next (if u.bit (F.PROF_BRK_OFFSTOP n) then u.crewStop n else u) := by
  intro u
  rw [apply_ite Host.Outcome.next]
  exact if_pos (by simp [h, hk])
end

/-! ### Goals and stops (R274, R277, R283) -/
section
variable {s : State} {n : Nat} {f : State → State}

theorem crashIgn_ignored (h : s.pfCrash n = true) : s.crashIgn n f = s.raise (F.PROF_EVT_CRIGN n) := if_pos h

theorem crashIgn_acts (h : s.pfCrash n = false) : s.crashIgn n f = f s := if_neg (ne_true_of_eq_false h)
end

section
variable {s u : State} {n : CrewNo} {v w : Word}

theorem exec_profTgtHWrite (hu : s.up (R.PROF_TGT_H n)) (ht : s.takeWord (R.PROF_TGT_H n) v = (w, u)) :
    exec (.profTgtHWrite n v) s = .next (u.profTgtH n w) := by
  show execProfTgtHWrite n v s = _
  exact onRegW_up hu ht

theorem exec_profVtgtWrite (hu : s.up (R.PROF_VTGT n)) (ht : s.takeWord (R.PROF_VTGT n) v = (w, u)) :
    exec (.profVtgtWrite n v) s = .next (u.profVtgt n w) := by
  show execProfVtgtWrite n v s = _
  exact onRegW_up hu ht

theorem exec_profModeWrite (hu : s.up (R.PROF_CTL n)) (m : BitVec 2) :
    exec (.profModeWrite n m) s = .next (s.profModeWr n m.toNat) := by
  show execProfModeWrite n m s = _
  exact onReg_up hu

theorem exec_profStop (hu : s.up (R.PROF_CTL n)) : exec (.profStop n) s = .next (s.profHalt n false) := by
  show execProfStop n s = _
  exact onReg_up hu

theorem exec_profHaltq (hu : s.up (R.PROF_CTL n)) : exec (.profHaltq n) s = .next (s.profHalt n true) := by
  show execProfHaltq n s = _
  exact onReg_up hu
end

section
variable {s : State} {n : Nat} (hc : s.pfCrash n = false)
include hc

/-- Both words commit as the target, and the approach to the one before is over. -/
theorem profTgtH_commits (w : Word) : ∃ t : State, s.profTgtH n w = t.goalWritten n ∧
    (t.prof n).tgt = sextNat 64 (((s.wr (R.PROF_TGT_H n) w).rd (R.PROF_TGT_L n)).toNat + w.toNat * 2 ^ 32) ∧
    t.bit (F.PROF_PSTAT_APPR n) = false := by
  refine ⟨_, crashIgn_acts hc, ?_, bit_putB _ (F.PROF_PSTAT_APPR n) false ⟨by simp, by simp⟩⟩
  rw [prof_putB, prof_setProf_same]

theorem profModeWr_reserved : s.profModeWr n 3 = s := crashIgn_acts hc

theorem profModeWr_velocity : s.profModeWr n 1 = (s.put (F.PROF_CTL_MODE n) 1).goalWritten n := crashIgn_acts hc

/-- A stop joins those that are commanded; in MODE 2 it holds the reference at the position. -/
theorem prof_profHalt (quick : Bool) : (s.profHalt n quick).prof n =
    let r := s.prof n
    let r := { r with
      keep := r.keep || r.goalTick == some (s.tb / 128), stop := r.stop || !quick, haltq := r.haltq || quick }
    if s.pfMode n = 2 then { r with hold := some r.pos, sPrev := r.pos, sNew := r.pos } else r := by
  unfold State.profHalt
  rw [crashIgn_acts hc]
  unfold State.freezeRef
  dsimp only
  rw [apply_ite (State.prof · n), prof_setProf_same, prof_setProf_same]
  rfl

theorem stop_profHalt (quick : Bool) : ((s.profHalt n quick).prof n).stop = ((s.prof n).stop || !quick) := by
  rw [prof_profHalt hc]
  split <;> rfl

theorem haltq_profHalt (quick : Bool) : ((s.profHalt n quick).prof n).haltq = ((s.prof n).haltq || quick) := by
  rw [prof_profHalt hc]
  split <;> rfl

theorem hold_profHalt (quick : Bool) : ((s.profHalt n quick).prof n).hold =
    if s.pfMode n = 2 then some (s.prof n).pos else (s.prof n).hold := by
  rw [prof_profHalt hc]
  split <;> rfl
end

/-! ### Parameters, set-points and the position read (R269, R284, R286, R294) -/
section
variable {s : State} {n : CrewNo}

theorem exec_profParamWrite {i : Fin 10} {v w : Word} {u : State} (hu : s.up (R.PROF_VSTART n + 4 * i.val))
    (ht : s.takeWord (R.PROF_VSTART n + 4 * i.val) v = (w, u)) :
    exec (.profParamWrite n i v) s = .next (u.profParam n i w) := by
  show execProfParamWrite n i v s = _
  exact onRegW_up hu ht

theorem exec_iarPerWrite (hu : s.up (R.PROF_IAR_PER n)) (us : BitVec 10) :
    exec (.iarPerWrite n us) s = .next (s.iarPer n us.toNat) := by
  show execIarPerWrite n us s = _
  exact onReg_up hu

theorem exec_setpHWrite {v w : Word} {u : State} (hu : s.up (R.PROF_SETP_H n))
    (ht : s.takeWord (R.PROF_SETP_H n) v = (w, u)) : exec (.setpHWrite n v) s = .next (u.setpH n w) := by
  show execSetpHWrite n v s = _
  exact onRegW_up hu ht

theorem exec_profPosLRead (hu : s.up (R.PROF_POS_L n)) :
    exec (.profPosLRead n) s = .next { (s.readProfPos n).2 with rdata := (s.readProfPos n).1 } := by
  show execProfPosLRead n s = _
  exact onRegRead_up hu
end

theorem setp_setpH (s : State) (n : Nat) (w : Word) : ((s.setpH n w).prof n).setp =
    some (sextNat 64 (((s.wr (R.PROF_SETP_H n) w).rd (R.PROF_SETP_L n)).toNat + w.toNat * 2 ^ 32)) :=
  congrArg ProfRec.setp (prof_setProf_same _ n _)

/-- A number's low word is the answer of its read, and its high word is latched. -/
theorem readLatch_words (s : State) (z : Int) (a : Nat) : (s.readLatch z a).1 = BitVec.ofNat 32 (wrapInt 64 z) ∧
    (s.readLatch z a).2.rd a = BitVec.ofNat 32 (wrapInt 64 z / 2 ^ 32) :=
  ⟨rfl, rd_wr_same s a _⟩

/-- Settles O42: an equation for each command, and what a goal, a stop or a set-point leaves in the unit's record. -/
theorem profileUnit : Obligations.ProfileUnit := by
  refine ⟨fun s n => exec_dwellEnd, fun s n => ⟨fun b => dwellOver_requested, dwellOver_still⟩,
    fun s n => exec_standstillDelayEnd, fun s n => ⟨standPolicy_none, standPolicy_reduces, standPolicy_brakes⟩,
    fun s n h hf => ⟨fun set => ?brakeSet, fun he fb => ?setFails⟩,
    fun s n h ho => ⟨exec_brakeTpreEnd h ho, exec_brakeTpreEnd_render⟩,
    fun s n h ho => ⟨fun opened => ?brakeOpens, fun he fb => ?openFails⟩, fun s n lv he => exec_brakeFeedback he lv,
    fun s n => exec_trelRampEnd, fun s n v w u hu ht => ⟨fun hc => ?target, fun hc => ?targetIgnored⟩,
    fun s n v w u hu ht => ⟨fun hc => ?velocity, fun hc => ?velocityIgnored⟩,
    fun s n hu hc => ⟨?modeReserved, ?modeVelocity⟩,
    fun s n hu hc => ⟨_, _, exec_profStop hu, (stop_profHalt hc false).trans (Bool.or_true _),
      (haltq_profHalt hc false).trans (Bool.or_false _), fun hm => (hold_profHalt hc false).trans (if_pos hm),
      fun hm => (hold_profHalt hc false).trans (if_neg hm), exec_profHaltq hu,
      (haltq_profHalt hc true).trans (Bool.or_true _), (stop_profHalt hc true).trans (Bool.or_false _)⟩,
    fun s n hu hc => ?modeIgnored, fun s n i v w u hu ht => exec_profParamWrite hu ht,
    fun s n us hu => exec_iarPerWrite hu us, fun s n v w u hu ht => ⟨_, exec_setpHWrite hu ht, setp_setpH u n w⟩,
    fun s n hu => ⟨_, exec_profPosLRead hu, readLatch_words _ _ _⟩⟩
  case brakeSet => exact (exec_brakeTsetEnd h hf).trans (if_pos (by simpa using set))
  case setFails => exact (exec_brakeTsetEnd h hf).trans (if_neg (by simp [he, fb]))
  case brakeOpens => exact (exec_brakeTopenEnd h ho).trans (if_pos (by simpa using opened))
  case openFails => exact (exec_brakeTopenEnd h ho).trans (if_neg (by simp [he, fb]))
  case target =>
    rw [exec_profTgtHWrite hu ht]
    obtain ⟨t, written, committed⟩ := profTgtH_commits hc w
    exact ⟨t, congrArg _ written, committed⟩
  case targetIgnored => exact (exec_profTgtHWrite hu ht).trans (congrArg _ (crashIgn_ignored hc))
  case velocity => exact (exec_profVtgtWrite hu ht).trans (congrArg _ (crashIgn_acts hc))
  case velocityIgnored => exact (exec_profVtgtWrite hu ht).trans (congrArg _ (crashIgn_ignored hc))
  case modeReserved => exact (exec_profModeWrite hu 3).trans (congrArg _ (profModeWr_reserved hc))
  case modeVelocity => exact (exec_profModeWrite hu 1).trans (congrArg _ (profModeWr_velocity hc))
  case modeIgnored => exact (exec_profModeWrite hu 1).trans (congrArg _ (crashIgn_ignored hc))

end Sys2Proof.Machine
end

/-! The proofs of the statements on motion profiles (spec/07_motion_profiles.md), second part: the position ports. -/
section
namespace Sys2Proof.Machine

/-! ### The record of a port: what the other operations leave of it -/
@[simp] theorem pos_setPos_same (s : State) (j : Nat) (r : PosRec) : (s.setPos j r).pos j = r := mget_mset_same _ _ _ _
@[simp] theorem pos_wr (s : State) (a : Nat) (v : Word) (j : Nat) : (s.wr a v).pos j = s.pos j := rfl
@[simp] theorem pos_put (s : State) (f : Fld) (v j : Nat) : (s.put f v).pos j = s.pos j := rfl
@[simp] theorem posSt_setPos (s : State) (i j : Nat) (r : PosRec) : (s.setPos i r).posSt j = s.posSt j := rfl

theorem posSt_put (s : State) (j : Nat) {st : Nat} (h : st < 4) : (s.put (F.POS_STAT_STATE j) st).posSt j = st :=
  get_put_fits _ (F.POS_STAT_STATE j) ⟨by simp, by simp⟩ h

/-! ### Counting in MODE 1 (R289) -/
section
variable {s : State} {j : Port16} {n : Nat}

section
variable (hm : s.posMode j = 1)
include hm

theorem exec_quadratureEdge (ho : s.posSt j = poOK) (hn : s.posStable j n = true) (up : Bool) :
    exec (.quadratureEdge j ⟨up, n⟩) s = .next (s.setPos j { s.pos j with
      cnt := cntWrap ((s.pos j).cnt + if up != (wordFld (s.pos j).cfg (F.POS_CFG_INV j) == 1) then 1 else -1) }) :=
  if_pos (by simp [hm, ho, hn])

theorem exec_zCapture (hz : wordFld (s.pos j).cfg (F.POS_CFG_ZEN j) = 1) : exec (.zCapture j) s =
    .next ((s.setPos j { s.pos j with zcap := (s.pos j).cnt }).raise (F.POS_STAT_ZSEEN j)) :=
  if_pos (by simp [hm, hz])

theorem exec_illegalTransition_first (hn : s.posStable j n = true) (hl : (s.pos j).lastIll = none) :
    let u := s.incSat (F.POS_ILLCNT_COUNT j)
    exec (.illegalTransition ⟨j, n⟩) s = .next ((u.setPos j { s.pos j with lastIll := some u.now }).retryT 3) := by
  show execIllegalTransition ⟨j, n⟩ s = _
  unfold execIllegalTransition
  dsimp only
  rw [if_pos (by simp [hm, hn]), hl]
  rfl

/-- A second illegal transition within 1 ms is a loss (R293). -/
theorem exec_illegalTransition_second {a : Nat} (hn : s.posStable j n = true) (hl : (s.pos j).lastIll = some a) :
    let u := s.incSat (F.POS_ILLCNT_COUNT j)
    let v := u.setPos j { s.pos j with lastIll := some u.now }
    u.now ≤ a + msCounts → v.posSt j = poOK → exec (.illegalTransition ⟨j, n⟩) s = .next (v.portLost j 0x0613) := by
  intro u v soon ok
  show execIllegalTransition ⟨j, n⟩ s = _
  unfold execIllegalTransition
  dsimp only
  rw [if_pos (by simp [hm, hn]), hl]
  dsimp only
  rw [if_pos (decide_eq_true soon)]
  exact if_pos ok

theorem exec_posLine (hl : s.bit (F.POS_STAT_LINEF j) = true) (ho : s.posSt j = poOK) :
    exec (.posLine j) s = .next ((s.until ((s.pos j).lineAt + 1600)).portLost j 0x0612) :=
  if_pos (by simp [hm, hl, ho])
end

/-- A level that fewer samples have seen does not count. -/
theorem exec_quadratureEdge_ignored (h : s.posMode j ≠ 1 ∨ s.posStable j n = false) (up : Bool) :
    exec (.quadratureEdge j ⟨up, n⟩) s = .next s :=
  if_neg (by rcases h with h | h <;> simp [h])

theorem exec_illegalTransition_ignored (h : s.posMode j ≠ 1 ∨ s.posStable j n = false) :
    exec (.illegalTransition ⟨j, n⟩) s = .next s :=
  if_neg (by rcases h with h | h <;> simp [h])

section
variable (hm : s.posMode j ≠ 1)
include hm

theorem exec_zCapture_ignored : exec (.zCapture j) s = .next s := if_neg (by simp [hm])

theorem exec_posLine_ignored : exec (.posLine j) s = .next s := if_neg (by simp [hm])
end

/-! ### Line faults (R293) -/
theorem exec_lineFault_asserts (hm : s.posMode j ≠ 0) (hl : s.bit (F.POS_STAT_LINEF j) = false) :
    let u := s.putB (F.POS_STAT_LINEF j) true
    exec (.lineFault j true) s = .next ((u.incSat (F.POS_LINECNT_COUNT j)).setPos j { u.pos j with
      lineAt := u.now, lineSeen := true }) :=
  if_neg (by simp [hm, hl])
end

/-! ### Triggers (R290, R295) -/
section
variable {s : State} {j : Nat}

theorem posTrigger_periodic (h : wordFld (s.pos j).trg (F.POS_TRIG_SRC j) = 0) :
    let d := (s.pos j).trigAt + wordFld (s.pos j).trg (F.POS_TRIG_PER j) * 800
    s.posTrigger j = some ((s.until d).setPos j { s.pos j with trigAt := d }) :=
  if_pos h

/-- A catch of the crew that TRIG names triggers once. -/
theorem posTrigger_catch (h : wordFld (s.pos j).trg (F.POS_TRIG_SRC j) ≠ 0) :
    let n := wordFld (s.pos j).trg (F.POS_TRIG_CREW j)
    let d := (s.crew n).tc + 480
    s.crewState n ≠ cUNUSED → d ≠ (s.pos j).trigTs →
      s.posTrigger j = some ((s.advanceTb d).setPos j { s.pos j with trigTs := d }) := by
  intro n d used new
  exact (if_neg h).trans (if_neg (by simpa using ⟨used, new⟩))

/-- In OK what has been written waits for a trigger. -/
theorem posWritten_waits (h : s.posSt j = poOK) : s.posWritten j = s := if_pos h

theorem posState_lost (h : s.posSt j = poLOST) : s.posState j = s := if_pos h

/-- A port in a mode enters OK, where its first read sets the count. -/
theorem posState_enters (h : s.posSt j = poOFF) (hm : s.posMode j ≠ 0) : s.posState j =
    (s.put (F.POS_STAT_STATE j) poOK).setPos j { s.pos j with rebase := true, trigAt := s.now } := by
  unfold State.posState
  rw [if_neg (by simp [h]), if_neg hm]
  exact if_pos h
end

section
variable {s : State} {j : Port16}

theorem exec_posReadTrigger_ignored (h : s.posSt j ≠ poOK ∨ s.posTrigger j = none) :
    exec (.posReadTrigger j) s = .next s := by
  show execPosReadTrigger j s = _
  unfold execPosReadTrigger
  split
  · rfl
  · next ok => rw [h.resolve_left ok]

section
variable {u : State} (ho : s.posSt j = poOK) (ht : s.posTrigger j = some u)
include ho ht

theorem exec_posReadTrigger_dropped (h : (u.pos j).busy = true ∨ (u.pos j).due = true ∨ u.now < (u.pos j).pause) :
    exec (.posReadTrigger j) s = .next u := by
  show execPosReadTrigger j s = _
  unfold execPosReadTrigger
  rw [if_neg (not_not_intro ho), ht]
  exact if_pos (by simpa [or_assoc] using h)

theorem exec_posReadTrigger_starts (hb : (u.pos j).busy = false) (hd : (u.pos j).due = false)
    (hp : (u.pos j).pause ≤ u.now) : let v := u.posTake j
    exec (.posReadTrigger j) s = .next (if 2 ≤ v.posMode j then v.startRead j false else v) := by
  intro v
  show execPosReadTrigger j s = _
  unfold execPosReadTrigger
  rw [if_neg (not_not_intro ho), ht, apply_ite Host.Outcome.next]
  exact if_neg (by simp [hb, hd, hp])
end

/-! ### The end of a serial read (R291, R292) -/
/-- The port's reads bring nE and nW: BiSS with EW. -/
def State.readsEw (s : State) (j : Nat) : Bool :=
  wordFld (s.pos j).ser (F.POS_SER_EW j) == 1 && wordFld (s.pos j).cfg (F.POS_CFG_MODE j) = 3

/-- The read is over: its pause begins, and a failed one that is not itself the retry is due again. -/
def State.endRead (s : State) (j : Nat) (good : Bool) : State :=
  s.setPos j { s.pos j with
    busy := false, pause := s.now + wordFld (s.pos j).ser (F.POS_SER_TOUT j) * 800, due := !good && !(s.pos j).retry }

/-- STAT shows the nE and nW that a read brought. -/
def State.showEw (s : State) (j : Nat) (i : SerialIn) : State :=
  ((if i.warn && !s.bit (F.POS_STAT_WBIT j) then s.fault 0x0614 j else s).putB (F.POS_STAT_EBIT j) i.err).putB
    (F.POS_STAT_WBIT j) i.warn

theorem exec_serialReadComplete_idle (h : (s.pos j).busy = false) (i : SerialIn) :
    exec (.serialReadComplete j i) s = .next s :=
  if_pos (by simp [h])

theorem exec_serialReadComplete {i : SerialIn} (h : (s.pos j).busy = true) :
    let u := s.endRead j (s.readGood j i)
    let v := if s.readsEw j && i.ack then u.showEw j i else u
    exec (.serialReadComplete j i) s = .next (
      if s.readGood j i then (if (s.pos j).retry then (v.takeRead j i).retryT 3 else v.takeRead j i)
      else if (s.pos j).retry then v.portLost j 0x0611 else v.incSat (F.POS_ERRCNT_COUNT j)) := by
  intro u v
  simp only [apply_ite Host.Outcome.next]
  exact if_neg (by simp [h])

section
variable {i : SerialIn} (hb : (s.pos j).busy = true)
include hb

section
variable (h : s.readsEw j = false ∨ i.ack = false)
include h

theorem exec_serialReadComplete_bad (hg : s.readGood j i = false) : let u := s.endRead j false
    exec (.serialReadComplete j i) s =
      .next (if (s.pos j).retry then u.portLost j 0x0611 else u.incSat (F.POS_ERRCNT_COUNT j)) := by
  rw [exec_serialReadComplete hb, hg, Bool.and_eq_false_iff.2 h]
  rfl

theorem exec_serialReadComplete_good (hg : s.readGood j i = true) : let u := s.endRead j true
    exec (.serialReadComplete j i) s =
      .next (if (s.pos j).retry then (u.takeRead j i).retryT 3 else u.takeRead j i) := by
  rw [exec_serialReadComplete hb, hg, Bool.and_eq_false_iff.2 h]
  rfl
end

theorem exec_serialReadComplete_goodEw (hg : s.readGood j i = true) (he : s.readsEw j = true) (ha : i.ack = true) :
    let w := (s.endRead j true).showEw j i
    exec (.serialReadComplete j i) s =
      .next (if (s.pos j).retry then (w.takeRead j i).retryT 3 else w.takeRead j i) := by
  rw [exec_serialReadComplete hb, hg, he, ha]
  rfl
end

theorem exec_serialReadRetry (h : (s.pos j).due = true) :
    exec (.serialReadRetry j) s = .next ((s.until (s.pos j).pause).startRead j true) :=
  if_pos h

/-! ### REARM, CLR and reads of the counts (R293, R295) -/
theorem exec_posRearm (hu : s.up (R.POS_CTL j)) : exec (.posRearm j) s = .next (s.posRearm j) := by
  show execPosRearm j s = _
  exact onReg_up hu

theorem exec_posClr (hu : s.up (R.POS_CTL j)) : exec (.posClr j) s = .next (s.posClr j) := by
  show execPosClr j s = _
  exact onReg_up hu

theorem exec_posCntLRead (hu : s.up (R.POS_CNT_L j)) : let r := s.readLatch (s.pos j).cnt (R.POS_CNT_H j)
    exec (.posCntLRead j) s = .next { r.2 with rdata := r.1 } := by
  show execPosCntLRead j s = _
  exact onRegRead_up hu

theorem exec_posZcapLRead (hu : s.up (R.POS_ZCAP_L j)) : let r := s.readLatch (s.pos j).zcap (R.POS_ZCAP_H j)
    exec (.posZcapLRead j) s = .next { r.2 with rdata := r.1 } := by
  show execPosZcapLRead j s = _
  exact onRegRead_up hu
end

theorem posRearm_lost {s : State} {j : Nat} (h : s.posSt j = poLOST) : s.posRearm j =
    ((s.setPos j { s.pos j with rebase := true, lastIll := none }).put (F.POS_STAT_STATE j) poOFF).posState j :=
  if_pos h

theorem rd_wr (s : State) (a b : Nat) (v : Word) : (s.wr a v).rd b = if b = a then v else s.rd b := by
  split
  · next same => rw [same, rd_wr_same]
  · next other => exact rd_wr_other s v other

/-- CLR clears the three error counts, and no other register. -/
theorem rd_posClr (s : State) (j a : Nat) : (s.posClr j).rd a =
    if a ∈ [R.POS_ERRCNT j, R.POS_ILLCNT j, R.POS_LINECNT j] then 0 else s.rd a := by
  unfold State.posClr
  rw [rd_wr, rd_wr, rd_wr]
  grind

/-- Settles O44: an equation for each command in each of the port's states, and what CLR and the reads leave. -/
theorem positionPorts : Obligations.PositionPorts := by
  refine ⟨fun s j up n hm ho hn => exec_quadratureEdge hm ho hn up,
    fun s j up n hn => ⟨exec_quadratureEdge_ignored (.inr hn) up, exec_illegalTransition_ignored (.inr hn)⟩,
    fun s j n => rfl, fun s j => exec_zCapture,
    fun s j hm => ⟨exec_zCapture_ignored hm, fun n => exec_illegalTransition_ignored (.inl hm),
      fun up n => exec_quadratureEdge_ignored (.inl hm) up, exec_posLine_ignored hm⟩,
    fun s j n hm hn => ⟨exec_illegalTransition_first hm hn, fun a => exec_illegalTransition_second hm hn⟩,
    fun s j => exec_lineFault_asserts, fun s j => exec_posLine,
    fun s j u ho ht => ⟨exec_posReadTrigger_dropped ho ht, exec_posReadTrigger_starts ho ht⟩,
    fun s j => posTrigger_periodic, fun s j => posTrigger_catch, fun s j => exec_posReadTrigger_ignored,
    fun s j => posWritten_waits, fun s j => posState_lost,
    fun s j i hb hg h => exec_serialReadComplete_bad hb h hg,
    fun s j i hb hg => ⟨fun h => exec_serialReadComplete_good hb (.inl h) hg,
      exec_serialReadComplete_goodEw hb hg⟩,
    fun s j i hb => exec_serialReadComplete_idle hb i, fun s j => exec_serialReadRetry, fun s j hu h => ?rearms,
    fun s j h hm => ?enters, fun s j hu => ⟨_, exec_posClr hu, ?errors, ?illegal, ?lines, fun a ha => ?others, rfl⟩,
    fun s j hu => ⟨_, exec_posCntLRead hu, readLatch_words s _ _⟩,
    fun s j hu => ⟨_, exec_posZcapLRead hu, readLatch_words s _ _⟩⟩
  case rearms =>
    rw [exec_posRearm hu, posRearm_lost h]
  case enters =>
    rw [posState_enters h hm, posSt_setPos, pos_setPos_same]
    exact ⟨posSt_put s j (by decide), rfl⟩
  case others => exact (rd_posClr s j a).trans (if_neg ha)
  all_goals exact (rd_posClr s j _).trans (if_pos (by simp))

end Sys2Proof.Machine
end

/-! The proofs of the statements on the safety islands (spec/08_safety.md), first part: inputs, test pulses and resets. -/
section
namespace Sys2Proof.Machine

/-! ### The level of a channel (R297, R301) -/
section
variable {s : State} {i : Oct} {b : Island} {n : Nat}

theorem exec_siFilterChange_ignored (h : s.islSt b ≠ iACTIVE) (hi : Bool) :
    exec (.siFilterChange i b ⟨hi, n⟩) s = .next s :=
  if_pos h

section
variable (h : s.islSt b = iACTIVE)
include h

theorem exec_siFilterChange_filtered (hn : 10 * (s.siCfg i).filt ≤ n) (hi : Bool) :
    exec (.siFilterChange i b ⟨hi, n⟩) s = .next (s.siFilter i b hi) :=
  (if_neg (not_not_intro h)).trans (if_neg (Nat.not_lt.2 hn))

/-- A level that has not held for its filter time is raw only. -/
theorem exec_siFilterChange_raw (hn : n < 10 * (s.siCfg i).filt) (hi : Bool) :
    exec (.siFilterChange i b ⟨hi, n⟩) s = .next (s.siRaw i b (s.siRun i b hi)) :=
  (if_neg (not_not_intro h)).trans (if_pos hn)
end
end

theorem siRun_channelA (s : State) (i : Nat) (hi : Bool) : s.siRun i false hi = hi := rfl

theorem siRun_anti {s : State} {i : Nat} (h : (s.siCfg i).flags % 2 = 1) (hi : Bool) : s.siRun i true hi = !hi := by
  simp [State.siRun, h]

/-! ### The record of an input as its filtered channels change (R303, R312) -/
/-- The run that ends at `now` has the length of a reset, and RSTHOLD has not come. -/
def SiRec.resetRun (r : SiRec) (hold : Bool) (now : Nat) : Bool :=
  match r.runAt with
  | some t => decide (t + 80000000 ≤ now) && decide (now ≤ t + 1600000000) && !hold
  | none => false

theorem resetRun_iff {r : SiRec} {hold : Bool} {now : Nat} : r.resetRun hold now = true ↔
    hold = false ∧ ∃ a, r.runAt = some a ∧ a + 80000000 ≤ now ∧ now ≤ a + 1600000000 := by
  unfold SiRec.resetRun
  split
  · next t ht => simp [ht, and_comm]
  · next ht => simp [ht]

/-- A reset pulse has ended: with the run of both channels that ends now, or on one channel before. -/
def SiRec.resetPulse (r : SiRec) (was hold : Bool) (fn now : Nat) : Bool :=
  if was && fn = 3 then r.resetRun hold now else r.pulse

section
variable (r : SiRec) (was hold : Bool) (fn now : Nat)

theorem filtered_run : r.filtered true true was hold fn now =
    ({ r with disAt := none, runAt := some (r.runAt.getD now), pulse := false }, false) := rfl

theorem filtered_differ {fa fb : Bool} (h : fa ≠ fb) : r.filtered fa fb was hold fn now =
    ({ r with disAt := some (r.disAt.getD now), runAt := none, pulse := r.resetPulse was hold fn now }, false) := by
  obtain rfl : fa = !fb := Bool.eq_not_of_ne h
  unfold SiRec.filtered SiRec.resetPulse
  cases was && decide (fn = 3) <;> cases fb <;> rfl

theorem filtered_demand : r.filtered false false was hold fn now =
    let p := r.resetPulse was hold fn now
    ({ r with disAt := none, runAt := none, both := true, pulse := false, rstA := r.rstA || p, rstB := r.rstB || p },
      p) := by
  unfold SiRec.filtered SiRec.resetPulse
  cases was && decide (fn = 3)
  · cases r.pulse <;> simp
  · change (ite (r.resetRun hold now = true) _ _, r.resetRun hold now) = _
    cases r.resetRun hold now <;> simp
end

theorem disAt_filtered_agree (r : SiRec) (f was hold : Bool) (fn now : Nat) :
    (r.filtered f f was hold fn now).1.disAt = none := by
  cases f
  · rw [filtered_demand]
  · rw [filtered_run]

theorem demand_of_reset_filtered {r : SiRec} {fa fb was hold : Bool} {fn now : Nat}
    (h : (r.filtered fa fb was hold fn now).2 = true) : fa = false ∧ fb = false := by
  by_cases same : fa = fb
  · subst same
    cases fa
    · exact ⟨rfl, rfl⟩
    · rw [filtered_run] at h
      contradiction
  · rw [filtered_differ _ _ _ _ _ same] at h
    contradiction

/-- A reset needs a pulse: one that ended on one channel before, or a run of a reset's length that ends now. -/
theorem pulse_of_reset_filtered {r : SiRec} {was hold : Bool} {fn now : Nat}
    (h : (r.filtered false false was hold fn now).2 = true) : r.pulse = true ∨ (fn = 3 ∧ was = true ∧ hold = false ∧
      ∃ a, r.runAt = some a ∧ a + 80000000 ≤ now ∧ now ≤ a + 1600000000) := by
  rw [filtered_demand] at h
  unfold SiRec.resetPulse at h
  split at h
  · next ran =>
    obtain ⟨hwas, hfn⟩ : was = true ∧ fn = 3 := by simpa using ran
    exact .inr ⟨hfn, hwas, resetRun_iff.1 h⟩
  · exact .inl h

/-! ### The faults of an input (R303, R305, R312) -/
section
variable {s : State} {i : Oct}

theorem exec_resetHeld {a : Nat} (hr : (s.si i).runAt = some a) (hf : (s.siCfg i).func = 3)
    (hh : s.bit (F.SAFETY_SI_RSTHOLD i) = false) : exec (.resetHeld i) s =
      .next (((s.until (a + 1600000001)).putB (F.SAFETY_SI_RSTHOLD i) true).fault 0x070D i) := by
  show execResetHeld i s = _
  unfold execResetHeld
  rw [hr]
  exact if_pos (by simp [hf, hh])

theorem exec_siDiscrep_latches {a : Nat} (hd : (s.si i).disAt = some a) (hf : (s.siCfg i).func ≠ 0) :
    exec (.siDiscrep i) s =
      .next ((s.until (a + (s.siCfg i).disc * msCounts + 1)).latchSi i (F.SAFETY_SI_DISC i) 0x0701) := by
  show execSiDiscrep i s = _
  unfold execSiDiscrep
  rw [hd]
  exact if_neg hf

theorem exec_siDiscrep_agreed (hd : (s.si i).disAt = none) : exec (.siDiscrep i) s = .next s := by
  show execSiDiscrep i s = _
  unfold execSiDiscrep
  rw [hd]

theorem exec_testPulseWindowEnd_closed (hw : (s.si i).win = none) (n : Nat) :
    exec (.testPulseWindowEnd i n) s = .next s := by
  show execTestPulseWindowEnd i n s = _
  unfold execTestPulseWindowEnd
  rw [hw]

/-- The window closes at its end; too few low samples latch the fault. -/
theorem exec_testPulseWindowEnd {j z : Nat} (hw : (s.si i).win = some (j, z)) (n : Nat) :
    let w := ((s.tpoCfg j).getD (1, 10)).1
    let u := s.until (z + (w + 1) * 80000)
    let v := (u.setSi i { u.si i with win := none }).putB (F.SAFETY_SI_PULSE i) false
    exec (.testPulseWindowEnd i n) s = if w ≤ n then .next v else .next (v.latchSi i (F.SAFETY_SI_TPFLT i) 0x0702) := by
  show execTestPulseWindowEnd i n s = _
  unfold execTestPulseWindowEnd
  rw [hw]
end

/-! ### The pulses of a test output (R304, R305) -/
section
variable {s : State} {j : Fin 4}

theorem exec_tpoPulse {w tpp : Nat} (hc : s.tpoCfg j = some (w, tpp)) (ha : s.islSt (tpoIsland j) = iACTIVE)
    (hp : s.bitAt F.SAFETY_MISC_TPOACT j = true) (follows : Bool) :
    exec (.tpoPulse j follows) s = .next (s.tpoBegin j (s.tpoStart j tpp) follows) := by
  show execTpoPulse j follows s = _
  unfold execTpoPulse
  rw [hc]
  exact if_neg (by simp [ha, hp])

theorem exec_tpoPulseEnd (hp : s.bitAt F.SAFETY_MISC_TPOACT j = false) (follows : Bool) :
    let w := ((s.tpoCfg j).getD (1, 10)).1
    exec (.tpoPulseEnd j follows) s = .next (((s.until (mget 0 s.tpoAt j + w * 80000)).setBitAt
      F.SAFETY_MISC_TPOACT j true).tpoCheck j follows) :=
  if_neg (by simp [hp])
end

/-- Settles O45: an equation for each command, and what a change of the filtered channels leaves in the input's record. -/
theorem safetyInputs : Obligations.SafetyInputs := by
  refine ⟨fun s i b hi n h =>
      ⟨fun hn => exec_siFilterChange_filtered h hn hi, fun hn => exec_siFilterChange_raw h hn hi⟩,
    fun s i b hi n h => exec_siFilterChange_ignored h hi,
    fun s i b hi => ⟨fun channel => channel ▸ siRun_channelA s i hi, fun anti => siRun_anti anti hi⟩,
    fun r fa fb was hold fn now valid => ?reset,
    fun r fa fb was hold fn now => ⟨fun same => ?agree, fun differ => ?disagree, fun ha hb => ?demand⟩,
    fun s i a => exec_resetHeld, fun s i a => exec_siDiscrep_latches, fun s i => exec_siDiscrep_agreed,
    fun s j fol w tpp hc ha hp => exec_tpoPulse hc ha hp fol, fun s j z fol => rfl,
    fun s j fol hp => exec_tpoPulseEnd hp fol, fun s i n j z hw => ⟨fun low => ?passes, fun high => ?latches⟩,
    fun s i n hw => exec_testPulseWindowEnd_closed hw n⟩
  case reset =>
    obtain ⟨rfl, rfl⟩ := demand_of_reset_filtered valid
    exact ⟨rfl, rfl, pulse_of_reset_filtered valid⟩
  case agree => rw [same, disAt_filtered_agree]
  case disagree => rw [filtered_differ _ _ _ _ _ differ]
  case demand => rw [ha, hb, filtered_demand]
  case passes => rw [exec_testPulseWindowEnd hw, if_pos low]
  case latches => rw [exec_testPulseWindowEnd hw, if_neg (Nat.not_le.2 high)]

end Sys2Proof.Machine
end

/-! The proofs of the statements on the safety islands (spec/08_safety.md), second part: start, evaluation, speeds
and outputs. -/
section
namespace Sys2Proof.Machine

/-! ### The start of an island (R299) -/
section
variable {s : State} {isl : Island}

theorem exec_islandStart (hd : s.domainRun (if isl then 2 else 1) = true) (h : s.islSt isl = iOFF) :
    exec (.islandStart isl) s = .next ((s.islLow isl).setIslSt isl iBOOT) :=
  if_pos (by rw [hd, h]; rfl)

@[simp] theorem rigSel_setIslSt (s : State) (isl : Island) (st : Nat) : (s.setIslSt isl st).rigSel = s.rigSel := rfl

@[simp] theorem rigSel_setIsl (s : State) (isl : Island) (r : IslRec) : (s.setIsl isl r).rigSel = s.rigSel := by
  cases isl <;> rfl

section
variable (h : s.islSt isl = iBOOT)
include h

theorem exec_islandStartComplete_fails :
    exec (.islandStartComplete isl false) s = .next ((s.setIslSt isl iHALT).fault 0x070C isl.toNat) :=
  if_neg (not_not_intro h)

/-- An island that passes evaluates from now on, and takes the section of the selected rig where there is one. -/
theorem exec_islandStartComplete_passes :
    let v := (s.setIslSt isl iACTIVE).setIsl isl { s.isl isl with evalAt := s.now }
    exec (.islandStartComplete isl true) s = .next (s.rigSel.elim v (v.islTake isl)) := by
  show execIslandStartComplete isl true s = _
  unfold execIslandStartComplete
  rw [if_neg (not_not_intro h), if_neg (by decide)]
  dsimp only
  rw [rigSel_setIsl, rigSel_setIslSt]
  cases s.rigSel <;> rfl
end
end

/-! ### The evaluation (R300) -/
section
variable {s : State} {isl : Island}

theorem exec_islandEvaluation {c : SealSec} (h : s.islSt isl = iACTIVE) (hc : (s.isl isl).sec = some c) (rb : Readback) :
    let u := (loopN 8 (fun g v => v.grpEval isl c g) ((s.until ((s.isl isl).evalAt + 100000)).readbacks isl rb)).sboEval isl
    let v := loopN 8 (fun i v => v.setSi i (if isl then { v.si i with rstB := false } else { v.si i with rstA := false })) u
    exec (.islandEvaluation isl rb) s = .next (v.setIsl isl { v.isl isl with
      req := v.get F.SAFETY_GREQ_REQ, thr := v.bit F.SAFETY_MISC_THREQ, evalAt := v.now }) := by
  show execIslandEvaluation isl rb s = _
  unfold execIslandEvaluation
  rw [if_neg (not_not_intro h), hc]

theorem exec_islandEvaluation_ignored (h : s.islSt isl ≠ iACTIVE ∨ (s.isl isl).sec = none) (rb : Readback) :
    exec (.islandEvaluation isl rb) s = .next s := by
  show execIslandEvaluation isl rb s = _
  unfold execIslandEvaluation
  split
  · rfl
  · next active => rw [h.resolve_left active]
end

/-! ### Speed windows (R310) -/
section
variable {s : State} {g : Oct} {c : SealSec} (hc : s.seal = some c) (oa ob : SpeedObs)
include hc

theorem exec_speedWindowEnd (hm : (c.grp.getD g {}).mode % 2 = 1) : exec (.speedWindowEnd g oa ob) s = .next ((s.until
    (nextMult msCounts (max (s.islA.grp g).winEnd (s.islB.grp g).winEnd) s.now)).speedWindow g (c.grp.getD g {}) oa ob) := by
  show execSpeedWindowEnd g oa ob s = _
  unfold execSpeedWindowEnd
  rw [hc]
  exact if_neg (by rw [hm]; decide)

/-- A group whose SS1 watches no speed has no windows. -/
theorem exec_speedWindowEnd_unwatched (hm : (c.grp.getD g {}).mode % 2 = 0) :
    exec (.speedWindowEnd g oa ob) s = .next s := by
  show execSpeedWindowEnd g oa ob s = _
  unfold execSpeedWindowEnd
  rw [hc]
  exact if_pos hm
end

section
variable {s : State} {b : Island} {port : Nat} {o : SpeedObs}

theorem islMeasure_invalid (h : s.islSt b ≠ iACTIVE ∨ o.line = true ∨ o.ill = true) (g : Nat) :
    s.islMeasure b g port o = none :=
  if_pos (by simpa [or_assoc] using h)

theorem islMeasure_counts (h : s.islSt b = iACTIVE) (hl : o.line = false) (hi : o.ill = false) (hm : s.posMode port = 1)
    (g : Nat) : s.islMeasure b g port o = some o.diff.toInt.natAbs :=
  (if_neg (by simp [h, hl, hi])).trans (if_pos hm)
end

section
variable {s : State} {g : Nat}

theorem speedsDiffer_invalid (tol : Nat) {va vb : Option Nat} (h : va = none ∨ vb = none) :
    speedsDiffer tol va vb = false := by
  unfold speedsDiffer
  split
  · simp at h
  · rfl

/-- A window whose speeds do not differ ends the row. -/
theorem speedCompare_agree {tol : Nat} {va vb : Option Nat} (h : speedsDiffer tol va vb = false) :
    s.speedCompare g tol va vb = { s with spdDiff := mset 0 s.spdDiff g 0 } := by
  unfold State.speedCompare
  rw [h]
  rfl

theorem speedCompare_tenth {tol x y : Nat} (h : tol < max x y - min x y) (h9 : mget 0 s.spdDiff g = 9) :
    s.speedCompare g tol (some x) (some y) =
      (({ s with spdDiff := mset 0 s.spdDiff g 10 } : State).fault 0x0707 g).latchBoth g 0x0707 := by
  have differ : speedsDiffer tol (some x) (some y) = true := decide_eq_true h
  unfold State.speedCompare
  rw [differ, h9]
  rfl
end

/-! ### SS1 and the brake delay (R309, R311) -/
section
variable {s : State} {isl : Island} {g : Oct}

theorem exec_ss1TimerExpiry {c : SealSec} (hc : (s.isl isl).sec = some c) (h : ((s.isl isl).grp g).st = gsSS1) :
    let t0 := ss1Tmax (c.grp.getD g {}) ((s.isl isl).grp g)
    exec (.ss1TimerExpiry isl g) s = .next (((s.until (((s.isl isl).grp g).ss1At + t0 * msCounts)).put
      (F.SAFETY_GRP_SS1T_MS g) t0).grpDown isl g gsSTO) := by
  show execSs1TimerExpiry isl g s = _
  unfold execSs1TimerExpiry
  rw [hc]
  exact if_pos h

/-- SBDLY of a group, as the island's section gives it. -/
def IslRec.sbDelay (r : IslRec) (g : Nat) : Nat :=
  match r.sec with
  | some c => (c.grp.getD g {}).sbdly
  | none => 0

theorem exec_sbcDelayEnd (h : ((s.isl isl).grp g).sbPend = true) : exec (.sbcDelayEnd isl g) s =
    .next (((s.until (((s.isl isl).grp g).sbAt + (s.isl isl).sbDelay g * 10 * msCounts)).setGrp isl g
      { (s.isl isl).grp g with sbPend := false }).sboEval isl) :=
  if_pos h

/-! ### Test pulses of the outputs (R315) -/
theorem exec_stoTestPulse (ha : s.islSt isl = iACTIVE) (h : ((s.isl isl).grp g).high = true) (seen : Bool) :
    let o := if isl then 40000000 else 0
    let z := nextMult 80000000 (((s.isl isl).grp g).pulseAt - o) (s.now - o) + o
    let u := (s.until z).setGrp isl g { (s.isl isl).grp g with pulseAt := z }
    exec (.stoTestPulse isl g seen) s = .next (if seen then u else (u.fault 0x0704 g).latchBoth g 0x0704) := by
  intro o z u
  rw [apply_ite Host.Outcome.next]
  exact if_pos (by simp [ha, h])

theorem exec_stoTestPulse_low (h : ((s.isl isl).grp g).high = false) (seen : Bool) :
    exec (.stoTestPulse isl g seen) s = .next s :=
  if_neg (by simp [h])
end

/-- Brake output `b` of the island pulses, at the next multiple of 1 s. -/
def State.sboPulse (s : State) (isl : Island) (b : Nat) : State :=
  let z := nextMult 800000000 (mget 0 (s.isl isl).sboAt b) s.now
  (s.until z).setIsl isl { s.isl isl with sboAt := mset 0 (s.isl isl).sboAt b z }

/-- The readback has not shown that pulse. -/
def State.sboMissing (s : State) (isl : Island) (b : Nat) : State :=
  ((s.sboPulse isl b).putB (F.SAFETY_SBO_FLT b) true).fault 0x0705 b

section
variable {s : State} {isl : Island} {b : Oct} (ha : s.islSt isl = iACTIVE) (h : (s.isl isl).sbo.testBit b = true)
include ha h

theorem exec_sboTestPulse_seen : exec (.sboTestPulse isl b true) s = .next (s.sboPulse isl b) :=
  if_pos (by simp [ha, h])

/-- A missing pulse latches on the groups that the output serves, which the section names. -/
theorem exec_sboTestPulse_missing : exec (.sboTestPulse isl b false) s =
    match (s.sboMissing isl b).seal with
    | some c => .next (loopN 8 (fun g w => if (c.grp.getD g {}).sbmask.testBit b then w.latchBoth g 0x0705 else w)
        (s.sboMissing isl b))
    | none => .next (s.sboMissing isl b) :=
  if_pos (by simp [ha, h])

theorem exec_sboTestPulse_unsealed (hv : (s.sboMissing isl b).seal = none) :
    exec (.sboTestPulse isl b false) s = .next (s.sboMissing isl b) := by
  rw [exec_sboTestPulse_missing ha h, hv]

theorem exec_sboTestPulse_sealed {c : SealSec} (hv : (s.sboMissing isl b).seal = some c) :
    exec (.sboTestPulse isl b false) s = .next (loopN 8
      (fun g w => if (c.grp.getD g {}).sbmask.testBit b then w.latchBoth g 0x0705 else w) (s.sboMissing isl b)) := by
  rw [exec_sboTestPulse_missing ha h, hv]
end

/-- Settles O46: each command is its equation in the island's state, and a speed window the two lemmas of its comparison. -/
theorem safetyIslands : Obligations.SafetyIslands := by
  refine ⟨fun s isl => exec_islandStart,
    fun s isl h => ⟨exec_islandStartComplete_fails h, fun r hr => ?takes, fun hr => ?waits⟩,
    fun s isl rb c h hc => exec_islandEvaluation h hc rb, fun s isl rb h => exec_islandEvaluation_ignored h rb,
    fun s g oa ob c hc => ⟨exec_speedWindowEnd hc oa ob, exec_speedWindowEnd_unwatched hc oa ob⟩,
    fun s b g port o => ⟨fun h => islMeasure_invalid h g, fun h hl hi hm => islMeasure_counts h hl hi hm g⟩,
    fun s g tol va vb => ⟨fun h => ?row, fun x y hx hy h h9 => ?tenth⟩,
    fun s isl g c => exec_ss1TimerExpiry, fun s isl g => exec_sbcDelayEnd,
    fun s isl g seen ha h => exec_stoTestPulse ha h seen, fun s isl g seen h => exec_stoTestPulse_low h seen,
    fun s isl b ha h => ⟨exec_sboTestPulse_seen ha h, exec_sboTestPulse_unsealed ha h,
      fun c => exec_sboTestPulse_sealed ha h⟩⟩
  case takes =>
    rw [exec_islandStartComplete_passes h, hr]
    rfl
  case waits =>
    rw [exec_islandStartComplete_passes h, hr]
    rfl
  case row =>
    rw [speedCompare_agree (speedsDiffer_invalid tol h)]
    exact mget_mset_same 0 s.spdDiff g 0
  case tenth =>
    rw [hx, hy]
    exact speedCompare_tenth h h9

end Sys2Proof.Machine
end

/-! The proofs of the statements on orders and the journal (spec/09_orders_journal.md), first part: the master path. -/
section
namespace Sys2Proof.Machine

/-! ### Fragments on the ring (R325, R327) -/
section
variable {s : State} {p : RingPort} {f : RingFrame}

theorem exec_ringFragment_notTaken (h : (s.ringRx p false f).1 = false) :
    exec (.ringFragment p f) s = .next (s.ringRx p false f).2 := by
  show execRingFragment p f s = _
  unfold execRingFragment
  generalize s.ringRx p false f = x at h ⊢
  obtain ⟨_, u⟩ := x
  subst h
  exact if_pos rfl

theorem exec_ringFragment (h : (s.ringRx p false f).1 = true)
    (he : f.etype.toNat = (s.ringRx p false f).2.get F.MASTER_CFG_ETYPE) :
    let u := (s.ringRx p false f).2
    exec (.ringFragment p f) s = .next (if u.pathRing then u.fragment (macBytes f.src.toNat) f.payload
      else u.incSat (F.MASTER_CNT_COUNT 6)) := by
  show execRingFragment p f s = _
  unfold execRingFragment
  generalize s.ringRx p false f = x at h he ⊢
  obtain ⟨_, u⟩ := x
  subst h
  refine (if_neg (by simp [he])).trans ?_
  dsimp only
  cases u.pathRing <;> rfl
end

/-- A header that breaks a limit drops the fragment whole (R31). -/
theorem fragment_limit {s : State} {mac pay : List Byte}
    (h : pay.length < 4 ∨ leAt pay 3 1 = 0 ∨ 3 < leAt pay 3 1 ∨ leAt pay 3 1 ≤ leAt pay 2 1) :
    s.fragment mac pay = s.incSat (F.MASTER_CNT_COUNT 1) :=
  if_pos (by simpa [or_assoc] using h)

theorem exec_reassemblyTimeout {s : State} {r : ReasmRec} {l : List ReasmRec} (h : s.reasm = r :: l) :
    exec .reassemblyTimeout s =
      .next (((State.until { s with reasm := l } (r.at0 + msCounts)).incSat (F.MASTER_CNT_COUNT 7)).fault 0x0809 0) := by
  show execReassemblyTimeout s = _
  unfold execReassemblyTimeout
  rw [h]

/-! ### Frames of the two paths (R326, R333) -/
section
variable {s : State}

theorem exec_masterFrame_closed (h : s.epochOpen = false) (ring : Bool) : exec (.masterFrame ring) s = .next s :=
  if_pos (by simp [h])

theorem exec_masterFrame_ring {mac l : List Byte} {r : List (List Byte × List Byte)} (ho : s.epochOpen = true)
    (hq : s.ringRxQ = (mac, l) :: r) :
    let u : State := { s with ringRxQ := r }
    exec (.masterFrame true) s = .next (if u.pathRing then u.takeFrame 1 l mac else u.incSat (F.MASTER_CNT_COUNT 6)) := by
  show execMasterFrame true s = _
  unfold execMasterFrame
  rw [if_neg (by simp [ho]), if_pos rfl, hq]

theorem exec_masterFrame_local {l : List Byte} {r : List (List Byte)} (ho : s.epochOpen = true) (hq : s.mpRx = l :: r) :
    let u : State := { s with mpRx := r }
    exec (.masterFrame false) s = .next (if u.pathRing then u.incSat (F.MASTER_CNT_COUNT 6) else u.takeFrame 0 l []) := by
  show execMasterFrame false s = _
  unfold execMasterFrame
  rw [if_neg (by simp [ho]), if_neg Bool.false_ne_true, hq]

theorem takeFrame_length {l : List Byte} (h : frameLenOk l = false) (path : Nat) (mac : List Byte) :
    s.takeFrame path l mac = (s.incSat (F.MASTER_CNT_COUNT 1)).fault 0x0802 path :=
  if_pos (by simp [h])

theorem takeFrame_crc {l : List Byte} (h : frameLenOk l = true) (hc : frameCrcOk l = false) (path : Nat) (mac : List Byte) :
    s.takeFrame path l mac = (s.incSat (F.MASTER_CNT_COUNT 0)).fault 0x0801 path :=
  (if_neg (by simp [h])).trans (if_pos (by simp [hc]))
end

/-! ### Reports on the way (R327, R353) -/
section
variable {s : State}

theorem exec_reportSend_idle (h : s.pathRing = false ∨ s.nextDue = none) : exec .reportSend s = .next s := by
  rcases h with h | h
  · exact if_pos (by simp [h])
  · show execReportSend s = _
    rw [execReportSend, h]
    exact ite_self _

/-- Where a report goes: MMAC, or the MAC of the last accepted order. -/
def State.reportMac (s : State) : Nat :=
  let m := s.get F.MASTER_MMAC_L_MAC + 2 ^ 32 * s.get F.MASTER_MMAC_H_MAC
  if m ≠ 0 then m else leNat s.lastMac

/-- The fragments of a report, under the next XID. -/
def State.reportFragments (s : State) (r : ReportRec) : List (List Byte) :=
  let cnt := ((s.reportFrame r).length + 1495) / 1496
  fragments s.txXid cnt cnt (s.reportFrame r)

theorem exec_reportSend {r : ReportRec} (hp : s.pathRing = true) (hr : s.ringEn = true) (hd : s.nextDue = some r) :
    exec .reportSend s = .next ((loopL (s.reportFragments r)
      (fun p v => v.ringSend false s.reportMac (v.get F.MASTER_CFG_ETYPE) p)
      { s with txXid := (s.txXid + 1) % 65536 }).reportSent r) := by
  show execReportSend s = _
  unfold execReportSend
  rw [if_neg (by simp [hp, hr]), hd]
  rfl

/-- A report that waits for its acknowledgement longer than RTO is due again. -/
theorem exec_reportResendTimeout {r : ReportRec} {a : Nat} (hr : r ∈ s.reports) (hd : r.due = false) (ho : r.once = false)
    (ha : r.sentAt = some a) (ht : a + s.get F.MASTER_RTO_MS * msCounts ≤ s.now) :
    ∃ t : State, exec .reportResendTimeout s = .next t ∧ r.again ∈ t.reports := by
  have old : (!r.due && !r.once && (match r.sentAt with
      | some a => decide (a + s.get F.MASTER_RTO_MS * msCounts ≤ s.now)
      | none => false)) = true := by
    simp [hd, ho, ha, ht]
  exact ⟨_, if_pos (List.any_eq_true.2 ⟨r, hr, old⟩), List.mem_map.2 ⟨r, hr, if_pos old⟩⟩
end

/-! ### A silent master (R355) -/
section
variable {s : State}

theorem exec_masterSilent_heard (h : s.get F.MASTER_HBTO_MS = 0 ∨ s.mSilent = true) : exec .masterSilent s = .next s :=
  if_pos (by simpa using h)

/-- The time without a valid frame is over. -/
def State.silentDue (s : State) : State :=
  { s.until (s.mLast + s.get F.MASTER_HBTO_MS * msCounts) with mSilent := true }

/-- It is entered and reported. -/
def State.silentReported (s : State) : State :=
  (s.silentDue.fault 0x080A s.silentDue.pathRing.toNat).event 7 (leBytes 2 (s.get F.MASTER_HBTO_MS) ++ [0, 0])

variable (h : s.get F.MASTER_HBTO_MS ≠ 0) (hs : s.mSilent = false)
include h hs

theorem exec_masterSilent_continues (hb : s.silentReported.bit F.MASTER_CFG_HBSTOP = false) :
    exec .masterSilent s = .next s.silentReported :=
  (if_neg (by simp [h, hs])).trans (if_neg (ne_true_of_eq_false hb))

theorem exec_masterSilent_stops (hb : s.silentReported.bit F.MASTER_CFG_HBSTOP = true) :
    exec .masterSilent s = .next ((loopL (s.silentReported.orders.filter (fun o => o.st == .queued && o.classM))
      (fun o w => w.endOrder o.seq 0x40 []) s.silentReported).mapOrders (fun o => o.isRunning && o.classM)
      (fun o => { o with cancelReq := true })) :=
  (if_neg (by simp [h, hs])).trans (if_pos hb)
end

/-! ### The local master port (R362, R363) -/
theorem le_length_of_frameLenOk {l : List Byte} (h : frameLenOk l = true) : 16 ≤ l.length := by
  simp only [frameLenOk, Bool.and_eq_true, decide_eq_true_eq] at h
  exact h.1.1

section
variable {s : State}

section
variable (hd : s.domainRun 7 = true)
include hd

theorem exec_mpWrite_otherPath (hp : s.pathRing = true) (l : List Byte) :
    exec (.mpWrite l) s = .next (s.incSat (F.MASTER_CNT_COUNT 6)) :=
  (if_neg (by simp [hd])).trans (if_pos hp)

section
variable (hp : s.pathRing = false)
include hp

theorem exec_mpWrite_full (hn : 2 ≤ s.mpRx.length) (l : List Byte) :
    exec (.mpWrite l) s = .next (s.incSat (F.MASTER_CNT_COUNT 1)) :=
  (if_neg (by simp [hd])).trans ((if_neg (by simp [hp])).trans (if_pos hn))

section
variable {l : List Byte} (hn : s.mpRx.length < 2)
include hn

theorem exec_mpWrite_room : exec (.mpWrite l) s = if l.length < 16 || (leAt l 8 2 ≤ 4096 && !frameLenOk l) then
    .next ((s.incSat (F.MASTER_CNT_COUNT 1)).fault 0x080D 0) else .next { s with mpRx := s.mpRx ++ [l] } :=
  (if_neg (by simp [hd])).trans ((if_neg (by simp [hp])).trans (if_neg (by simpa using hn)))

theorem exec_mpWrite_short (hl : l.length < 16) :
    exec (.mpWrite l) s = .next ((s.incSat (F.MASTER_CNT_COUNT 1)).fault 0x080D 0) := by
  rw [exec_mpWrite_room hd hp hn]
  exact if_pos (by simp [hl])

theorem exec_mpWrite_taken (hl : frameLenOk l = true) : exec (.mpWrite l) s = .next { s with mpRx := s.mpRx ++ [l] } := by
  rw [exec_mpWrite_room hd hp hn]
  exact if_neg (by simpa [hl] using le_length_of_frameLenOk hl)
end
end

theorem exec_mpRead_nothing (h : s.pathRing = true ∨ s.nextDue = none) (n : Nat) :
    exec (.mpRead n) s = .next { s with mpOut := List.replicate n 0 } := by
  have hr : (if s.pathRing = true then none else s.nextDue) = none := by
    rcases h with h | h <;> simp [h]
  show execMpRead n s = _
  unfold execMpRead
  rw [if_neg (by simp [hd]), hr]

theorem exec_mpRead_report {r : ReportRec} (hp : s.pathRing = false) (h : s.nextDue = some r) (n : Nat) :
    let u : State := { s with mpOut := slice (s.reportFrame r) 0 n }
    exec (.mpRead n) s = .next (if n ≥ (s.reportFrame r).length then u.reportSent r else u) := by
  show execMpRead n s = _
  unfold execMpRead
  rw [if_neg (by simp [hd]), if_neg (by simp [hp]), h]

theorem exec_mpStatus : exec .mpStatus s = .next { s with
    mpOut := leBytes 4 (s.get F.MASTER_NEXTSEQ_SEQ) ++
      leBytes 1 (2 - s.mpRx.length) ++ leBytes 1 ((s.rd R.MASTER_JSTAT).toNat % 256) ++ leBytes 2 s.dueCount } :=
  if_neg (by simp [hd])

theorem mpAttnN_low_iff : s.mpAttnN = false ↔ s.dueCount ≠ 0 := by
  simp [State.mpAttnN, hd]
end

/-- While PD7 is off the port takes nothing and every byte reads 0xFF. -/
theorem exec_mp_off (hd : s.domainRun 7 = false) (l : List Byte) (n : Nat) : exec (.mpWrite l) s = .next s ∧
    exec (.mpRead n) s = .next { s with mpOut := List.replicate n 0xFF } ∧
    exec .mpStatus s = .next { s with mpOut := List.replicate 8 0xFF } ∧ s.mpAttnN = false :=
  ⟨if_pos (by simp [hd]), if_pos (by simp [hd]), if_pos (by simp [hd]), by simp [State.mpAttnN, hd]⟩

theorem exec_masterCntclr {v w : Word} {u : State} (hu : s.up R.MASTER_CNTCLR) (ht : s.takeWord R.MASTER_CNTCLR v = (w, u)) :
    exec (.masterCntclr v) s = .next (u.cntClr w) := by
  show execMasterCntclr v s = _
  exact onRegW_up hu ht
end

/-- Settles O47: an equation for each command in each state of the path, the port and the reports. -/
theorem masterFrames : Obligations.MasterFrames :=
  ⟨fun _ _ _ => exec_ringFragment, fun _ _ _ => exec_ringFragment_notTaken, fun _ _ _ => exec_reassemblyTimeout,
    fun _ => exec_masterFrame_closed, fun _ _ _ _ => exec_masterFrame_ring, fun _ _ _ => exec_masterFrame_local,
    fun _ path _ mac => ⟨fun h => takeFrame_length h path mac, fun h hc => takeFrame_crc h hc path mac⟩,
    fun _ _ => exec_reportSend, fun _ => exec_reportSend_idle,
    fun _ _ hr hd ho _ => exec_reportResendTimeout hr hd ho,
    fun _ => exec_masterSilent_heard,
    fun _ h hs => ⟨exec_masterSilent_continues h hs, exec_masterSilent_stops h hs⟩,
    fun _ _ _ => fragment_limit,
    fun _ l hd => ⟨fun hp => exec_mpWrite_otherPath hd hp l, fun hp hn => exec_mpWrite_full hd hp hn l,
      fun hp hn => exec_mpWrite_short hd hp hn, fun hp hn => exec_mpWrite_taken hd hp hn⟩,
    fun _ n hd h => exec_mpRead_nothing hd h n, fun _ n _ hd hp h => exec_mpRead_report hd hp h n,
    fun _ => exec_mpStatus, fun _ l n hd => exec_mp_off hd l n, fun _ => mpAttnN_low_iff,
    fun _ _ _ _ => exec_masterCntclr⟩

end Sys2Proof.Machine
end

/-! The proofs of the statements on orders and the journal (spec/09_orders_journal.md), second part: commit batches and
recovery. -/
section
namespace Sys2Proof.Machine

/-! ### The close of a batch (R341, R476) -/
section
variable {s : State}

theorem exec_batchClose_notOpen (h : s.jnl.phase ≠ 1) : exec .batchClose s = .next s := congrArg _ (if_pos h)

/-- Whatever time passes and whatever RSEQ its records take, an open batch is then closed and urgent. -/
theorem batchClose_open (h : s.jnl.phase = 1) : ∃ (u : State) (recs : List JRec), s.batchClose =
    State.putB { u with jnl := { u.jnl with batch := recs, phase := 2, closeAt := u.now } } F.NVM_STAT_URGENT true :=
  ⟨_, _, if_neg (not_not_intro h)⟩

theorem exec_batchClose (h : s.jnl.phase = 1) : ∃ t : State, exec .batchClose s = .next t ∧ t.jnl.phase = 2 ∧
    t.jnl.closeAt = t.now ∧ t.bit F.NVM_STAT_URGENT = true := by
  obtain ⟨u, recs, hu⟩ := batchClose_open h
  refine ⟨s.batchClose, rfl, ?_⟩
  rw [hu]
  exact ⟨rfl, rfl, bit_putB _ _ _ ⟨by decide, by decide⟩⟩
end

/-! ### Its commit (R339, R341) -/
section
variable {s : State} {d : Nat}

theorem exec_batchCommit_notClosed (h : s.jnl.phase ≠ 2) (r0 r1 : WrRes) (d : Nat) :
    exec (.batchCommit r0 r1 d) s = .next s :=
  congrArg _ (if_pos h)

/-- The instant at which a write that takes `d` counts from the close ends, or is given up. -/
def State.commitDue (s : State) (d : Nat) : State :=
  (s.until (s.jnl.closeAt + min d 38400)).putB F.NVM_STAT_URGENT false

theorem macroLost_eq_false (h0 : s.macroLost 0 = false) (h1 : s.macroLost 1 = false) (m : Nat) : s.macroLost m = false :=
  match m with
  | 0 => h0
  | _ + 1 => h1

theorem loopN_fixed {f : Nat → State → State} (h : ∀ i, f i s = s) (n : Nat) : loopN n f s = s := by
  unfold loopN
  induction List.range n with
  | nil => rfl
  | cons i r ih => rw [List.foldl_cons, h, ih]

variable {u : State} (h : s.jnl.phase = 2) (hu : s.commitDue d = u) (h0 : u.macroLost 0 = false) (h1 : u.macroLost 1 = false)
include h hu h0 h1

/-- Two good writes lose neither copy of the journal, so that the time alone decides. -/
theorem batchCommit_good : s.batchCommit .ok .ok d = if 38400 < d then u.batchDiscard.jKick
    else u.batchWritten s.jnl (fun m => !u.macroLost m && (if m = 0 then WrRes.ok else .ok) != .failed) := by
  have kept := macroLost_eq_false h0 h1
  unfold State.commitDue at hu
  unfold State.batchCommit
  rw [if_neg (not_not_intro h), hu]
  dsimp only
  rw [loopN_fixed (fun m => by simp [kept m]), if_neg (by simp [h0])]

theorem exec_batchCommit_inTime (hd : d ≤ 38400) : exec (.batchCommit .ok .ok d) s = .next (u.batchWritten s.jnl
    (fun m => !u.macroLost m && (if m = 0 then WrRes.ok else .ok) != .failed)) :=
  congrArg _ ((batchCommit_good h hu h0 h1).trans (if_neg (Nat.not_lt.2 hd)))

theorem exec_batchCommit_late (hd : 38400 < d) : exec (.batchCommit .ok .ok d) s = .next u.batchDiscard.jKick :=
  congrArg _ ((batchCommit_good h hu h0 h1).trans (if_pos hd))
end

/-! ### Recovery (R356) -/
section
variable {s : State}

theorem exec_journalRecovery (hp : s.pw = pwBOOT) (h7 : s.domainRun 7 = true) (h4 : s.domainRun 4 = true)
    (he : s.epochOpen = false) (hb : s.rstBy = []) (hr : s.recovery = false) : exec .journalRecovery s =
      .next ((s.readBatches s.jnl.done).2.recoverFrom (s.readBatches s.jnl.done).1.1 (s.readBatches s.jnl.done).1.2) :=
  if_neg (by simp [hp, h7, h4, he, hb, hr])

theorem exec_journalRecovery_over (h : s.epochOpen = true ∨ s.pw ≠ pwBOOT) : exec .journalRecovery s = .next s :=
  if_pos (by rcases h with h | h <;> simp [h])
end

/-- Settles O48: what a close leaves, and for two good writes that the time alone decides between commit and discard. -/
theorem journalBatches : Obligations.JournalBatches :=
  ⟨fun _ => exec_batchClose_notOpen, fun _ => exec_batchClose, fun _ r0 r1 d h => exec_batchCommit_notClosed h r0 r1 d,
    fun _ _ h h0 h1 => ⟨exec_batchCommit_inTime h rfl h0 h1, exec_batchCommit_late h rfl h0 h1⟩,
    fun _ => exec_journalRecovery, fun _ => exec_journalRecovery_over⟩

end Sys2Proof.Machine
end

/-! The proofs of the statements on orders and the journal (spec/09_orders_journal.md), third part: starting and executing
orders. -/
section
namespace Sys2Proof.Machine

/-! ### The start of an order (R344, R345) -/
section
variable {s : State}

theorem exec_orderStart_none (h : s.orders.find? OrderRec.waiting = none) : exec .orderStart s = .next s := by
  show Host.Outcome.next s.orderStart = _
  rw [State.orderStart, h]

/-- The order starts: it is no longer queued. -/
def State.markStarting (s : State) (o : OrderRec) : State :=
  s.mapOrders (fun x => x.seq == o.seq && x.st == .queued) (fun x => { x with st := .starting })

/-- Its START record. -/
def State.startRec (s : State) (o : OrderRec) : JRec :=
  { typ := 2, lane := o.lane, seq := o.seq, epoch := s.get F.MASTER_EPOCH_E, tag := 0
    payload := leBytes 4 o.seq ++ leBytes 1 o.restarted.toNat ++ [0, 0, 0] ++ s.ltime.bytes12 }

variable {o : OrderRec} (ho : s.orders.find? OrderRec.waiting = some o) (hp : o.st ≠ .placed)
  (hl : s.laneOrder o.lane = none) (hh : s.heldOrder o.lane = none) (hk : s.laneLocked o.lane = false)
  (hw : s.get F.AON_PWRSTAT_STATE = 2)
include ho hp hl hh hk hw

/-- Its lane is free and the device in Ready, so that only a missing task keeps it from starting. -/
theorem orderStart_free : s.orderStart = if o.classM && (s.laneTask o.lane).isNone then s.endOrder o.seq 0x0A []
    else (s.markStarting o).jAdd ((s.markStarting o).startRec o) := by
  rw [State.orderStart, ho]
  refine (if_neg (by simp [hp, hl, hh, hk, hw])).trans ?_
  exact ite_congr rfl (fun _ => rfl) (fun _ => if_neg (by simp [hw]))

theorem exec_orderStart_noTask (hc : o.classM = true) (ht : s.laneTask o.lane = none) :
    exec .orderStart s = .next (s.endOrder o.seq 0x0A []) :=
  congrArg _ ((orderStart_free ho hp hl hh hk hw).trans (if_pos (by simp [hc, ht])))

theorem exec_orderStart_starts (h : o.classM = false ∨ s.laneTask o.lane ≠ none) :
    exec .orderStart s = .next ((s.markStarting o).jAdd ((s.markStarting o).startRec o)) :=
  congrArg _ ((orderStart_free ho hp hl hh hk hw).trans (if_neg (by rcases h with h | h <;> simp [h])))
end

/-! ### ORD_CALL (R345) -/
section
variable {s : State} {lane : Fin 33} {o : OrderRec} {k : Nat} (hl : s.laneOrder lane = some o) (hc : o.classM = true)
  (hr : o.st = .running) (hh : o.held = false) (ht : s.laneTask lane = some k)
include hl hc hr hh ht

theorem exec_ordCall_disabled (hs : (s.task k).st = .disabled) : exec (.ordCall lane) s = .next (s.endOrder o.seq 0x52 []) := by
  show execOrdCall lane s = _
  unfold execOrdCall
  rw [hl]
  dsimp only
  rw [if_neg (by simp [hc, hr, hh]), ht]
  dsimp only
  rw [hs]

theorem exec_ordCall_delivers (hs : (s.task k).st = .waiting) :
    let u := s.mapOrders (fun x => x.seq == o.seq) (fun x => { x with delivered := true, held := true })
    exec (.ordCall lane) s = .next ((u.setTask k { u.task k with ordSeq := BitVec.ofNat 32 o.seq }).deliver k) := by
  show execOrdCall lane s = _
  unfold execOrdCall
  rw [hl]
  dsimp only
  rw [if_neg (by simp [hc, hr, hh]), ht]
  dsimp only
  rw [hs]
end

/-! ### ORD_LOADPROG and ORD_RIGSWITCH (R349, R447) -/
section
variable {s : State} {o : OrderRec}

section
variable (h : s.builtin 2 = some o) (hm : o.maint = false)
include h hm

theorem exec_ordLoadprog_active (hn : s.bit F.AON_RIG_NONE = false) (ha : s.get F.AON_RIG_ACTIVE = leAt o.body 0 1) :
    exec .ordLoadprog s = .next (s.endOrder o.seq 0x06 []) := by
  show execOrdLoadprog s = _
  rw [execOrdLoadprog, h]
  exact (if_neg (by simp [hm])).trans (if_pos (by simp [hn, ha]))

theorem exec_ordLoadprog_asks (hn : s.bit F.AON_RIG_NONE = true) :
    let x := s.maintSubmit { act := 2, a1 := leAt o.body 0 1, src := .order o.seq }
    exec .ordLoadprog s = .next (if x.1 = .started ∨ x.1 = .queued then x.2.markMaint o.seq else x.2.endOrder o.seq 0x07 []) := by
  show execOrdLoadprog s = _
  rw [execOrdLoadprog, h]
  refine (if_neg (by simp [hm])).trans ((if_neg (by simp [hn])).trans ?_)
  obtain ⟨answer, u⟩ := s.maintSubmit { act := 2, a1 := leAt o.body 0 1, src := .order o.seq }
  cases answer <;> rfl
end

section
variable (h : s.builtin 3 = some o) (hb : s.pw ≠ pwBOOT) (hr : s.pw ≠ pwRESTENTRY)
include h hb hr

theorem exec_ordRigswitch_unreadable (hm : o.maint = false) (ht : (s.rigTake (leAt o.body 0 1)).1 = none) :
    exec .ordRigswitch s = .next ((s.rigTake (leAt o.body 0 1)).2.endOrder o.seq 0x02 []) := by
  show execOrdRigswitch s = _
  rw [execOrdRigswitch, h]
  refine (if_neg (by simp [hb, hr])).trans ((if_pos (by simp [hm])).trans ?_)
  generalize s.rigTake (leAt o.body 0 1) = x at ht ⊢
  obtain ⟨_, u⟩ := x
  subst ht
  rfl

theorem exec_ordRigswitch_taken (hm : o.maint = true) (hl : s.pw ≠ pwLISTEN) : exec .ordRigswitch s =
    .next (if s.actLock then s.rigSwitchEnd o (leAt o.body 0 1) else s.rigSwitchCheck o (leAt o.body 0 1)) := by
  show execOrdRigswitch s = _
  rw [execOrdRigswitch, h]
  refine (if_neg (by simp [hb, hr])).trans ((if_neg (by simp [hm])).trans ((if_neg hl).trans ?_))
  rw [apply_ite Host.Outcome.next]
end

theorem rigSwitchCheck_notAtRest {n : Nat} (h : s.notAtRest = some n) (r : Nat) :
    s.rigSwitchCheck o r = (s.fault 0x0B05 n).endOrder o.seq 0x01 [] := by
  rw [State.rigSwitchCheck, h]
end

/-! ### Orders on signals and faults (R349, R433, R437) -/
section
variable {s : State} {o : OrderRec}

theorem exec_ordReadsig (h : s.builtin 4 = some o) :
    let l := (List.range (leAt o.body 0 2)).map (fun i => leAt o.body (4 + 4 * i) 4)
    let u := loopL l (fun a s => s.sigTouch a) s
    exec .ordReadsig s = .next (u.orderDone o (l.flatMap u.sigBytes)) := by
  show execOrdReadsig s = _
  rw [execOrdReadsig, h]

section
variable (h : s.builtin 5 = some o)
include h

theorem exec_ordWritesig_done (hn : leAt o.body 0 2 ≤ o.step) : exec .ordWritesig s = .next (s.endOrder o.seq 0 []) := by
  show execOrdWritesig s = _
  rw [execOrdWritesig, h]
  exact if_pos hn

theorem exec_ordWritesig_asks (hn : o.step < leAt o.body 0 2) (hm : o.maint = false) :
    let x := s.sigWrite (leAt o.body (4 + 8 * o.step) 4) (BitVec.ofNat 32 (leAt o.body (8 + 8 * o.step) 4))
    exec .ordWritesig s = .next (if x.1 then x.2.markMaint o.seq else x.2.endOrder o.seq 0x09 []) := by
  show execOrdWritesig s = _
  rw [execOrdWritesig, h]
  refine (if_neg (Nat.not_le.2 hn)).trans ((if_pos (by simp [hm])).trans ?_)
  obtain ⟨taken, u⟩ := s.sigWrite (leAt o.body (4 + 8 * o.step) 4) (BitVec.ofNat 32 (leAt o.body (8 + 8 * o.step) 4))
  cases taken <;> rfl
end

section
variable (h : s.builtin 6 = some o)
include h

theorem exec_ordSubscribe_add (hk : leAt o.body 0 1 = 0) :
    let l := (List.range (leAt o.body 2 2)).map (fun i => leAt o.body (4 + 4 * i) 4)
    let add := s.subs ++ (l.eraseDups.filter (fun k => !s.subs.contains k))
    exec .ordSubscribe s =
      .next (if 4096 < add.length then s.endOrder o.seq 0x08 [] else (s.setSubs add).orderDone o []) := by
  show execOrdSubscribe s = _
  rw [execOrdSubscribe, h, apply_ite Host.Outcome.next]
  exact if_pos hk

theorem exec_ordSubscribe_remove (hk : leAt o.body 0 1 = 1) :
    let l := (List.range (leAt o.body 2 2)).map (fun i => leAt o.body (4 + 4 * i) 4)
    exec .ordSubscribe s = .next ((s.setSubs (s.subs.filter (fun k => !l.contains k))).orderDone o []) := by
  show execOrdSubscribe s = _
  rw [execOrdSubscribe, h]
  exact (if_neg (by simp [hk])).trans (if_pos hk)

theorem exec_ordSubscribe_clear (hk : leAt o.body 0 1 = 2) : exec .ordSubscribe s = .next ((s.setSubs []).orderDone o []) := by
  show execOrdSubscribe s = _
  rw [execOrdSubscribe, h]
  exact (if_neg (by simp [hk])).trans (if_neg (by simp [hk]))
end

section
variable (h : s.builtin 7 = some o)
include h

theorem exec_ordSwapbank_done (hn : leAt o.body 0 2 ≤ o.step) : exec .ordSwapbank s = .next (s.endOrder o.seq 0 []) := by
  show execOrdSwapbank s = _
  rw [execOrdSwapbank, h]
  exact if_pos hn

theorem exec_ordSwapbank_step (hn : o.step < leAt o.body 0 2) :
    let u := (s.swapReq (leAt o.body (4 + 4 * o.step) 2) (leAt o.body (6 + 4 * o.step) 1 == 1)).orderStep o
    exec .ordSwapbank s = .next (if leAt o.body 0 2 ≤ o.step + 1 then u.endOrder o.seq 0 [] else u) := by
  show execOrdSwapbank s = _
  rw [execOrdSwapbank, h, apply_ite Host.Outcome.next]
  exact if_neg (Nat.not_le.2 hn)
end

section
variable (h : s.builtin 9 = some o)
include h

theorem exec_ordClearfault_entry (hk : leAt o.body 0 1 = 0) : exec .ordClearfault s =
    .next ((s.clearEntries (fun e => e.code == leAt o.body 2 2 && e.inst == leAt o.body 4 4)).orderDone o []) := by
  show execOrdClearfault s = _
  rw [execOrdClearfault, h]
  exact congrArg (fun u : State => Host.Outcome.next (u.orderDone o [])) (if_pos hk)

theorem exec_ordClearfault_all (hk : leAt o.body 0 1 = 4) :
    let u := loopN 144 (fun k s => s.clearTask k) (loopN 64 (fun x s => s.clearLeg x) s)
    exec .ordClearfault s =
      .next (((loopN 32 (fun n s => s.clearCrew n) u).clearEntries (fun _ => true)).orderDone o []) := by
  show execOrdClearfault s = _
  rw [execOrdClearfault, h]
  exact congrArg (fun u : State => Host.Outcome.next (u.orderDone o [])) ((if_neg (by omega)).trans
    ((if_neg (by omega)).trans ((if_neg (by omega)).trans (if_neg (by omega)))))
end

theorem exec_ordDump (h : s.builtin 12 = some o) : exec .ordDump s =
    .next (s.orderDone o (s.bytes (dumpAt (leAt o.body 0 1) + leAt o.body 4 4) (leAt o.body 8 4))) := by
  show execOrdDump s = _
  rw [execOrdDump, h]

/-- Where no order of its opcode runs, a command has nothing to do. -/
theorem exec_builtin_none (s : State) : (s.builtin 2 = none → exec .ordLoadprog s = .next s) ∧
    (s.builtin 3 = none → exec .ordRigswitch s = .next s) ∧ (s.builtin 4 = none → exec .ordReadsig s = .next s) ∧
    (s.builtin 5 = none → exec .ordWritesig s = .next s) ∧ (s.builtin 6 = none → exec .ordSubscribe s = .next s) ∧
    (s.builtin 7 = none → exec .ordSwapbank s = .next s) ∧ (s.builtin 9 = none → exec .ordClearfault s = .next s) ∧
    (s.builtin 12 = none → exec .ordDump s = .next s) := by
  refine ⟨fun h => ?_, fun h => ?_, fun h => ?_, fun h => ?_, fun h => ?_, fun h => ?_, fun h => ?_, fun h => ?_⟩
  · show execOrdLoadprog s = _; rw [execOrdLoadprog, h]
  · show execOrdRigswitch s = _; rw [execOrdRigswitch, h]
  · show execOrdReadsig s = _; rw [execOrdReadsig, h]
  · show execOrdWritesig s = _; rw [execOrdWritesig, h]
  · show execOrdSubscribe s = _; rw [execOrdSubscribe, h]
  · show execOrdSwapbank s = _; rw [execOrdSwapbank, h]
  · show execOrdClearfault s = _; rw [execOrdClearfault, h]
  · show execOrdDump s = _; rw [execOrdDump, h]
end

/-- Settles O49: an equation for each command in the state that its order has reached. -/
theorem orderExecution : Obligations.OrderExecution :=
  ⟨fun _ => ⟨exec_orderStart_none, fun _ ho hp hl hh hk hw =>
      ⟨exec_orderStart_noTask ho hp hl hh hk hw, exec_orderStart_starts ho hp hl hh hk hw⟩⟩,
    fun _ _ _ _ hl hc hr hh ht => ⟨exec_ordCall_disabled hl hc hr hh ht, exec_ordCall_delivers hl hc hr hh ht⟩,
    fun _ _ => exec_ordLoadprog_active, fun _ _ => exec_ordLoadprog_asks,
    fun _ _ h hb hr => ⟨exec_ordRigswitch_unreadable h hb hr, exec_ordRigswitch_taken h hb hr⟩,
    fun _ o _ h => rigSwitchCheck_notAtRest h (leAt o.body 0 1),
    fun _ _ => exec_ordReadsig, fun _ _ h => ⟨exec_ordWritesig_done h, exec_ordWritesig_asks h⟩,
    fun _ _ h => ⟨exec_ordSubscribe_add h, exec_ordSubscribe_remove h, exec_ordSubscribe_clear h⟩,
    fun _ _ h => ⟨exec_ordSwapbank_done h, exec_ordSwapbank_step h⟩,
    fun _ _ => exec_ordClearfault_entry, fun _ _ => exec_ordClearfault_all, fun _ _ => exec_ordDump, exec_builtin_none⟩

end Sys2Proof.Machine
end

/-! The proofs of the statements on rigs, reset and power (spec/12_rigs_reset_power.md), first part: resets, boot, Ready,
Listen and Rest. -/
section
namespace Sys2Proof.Machine

@[simp] theorem until_rstBy (s : State) (t : Nat) : (s.until t).rstBy = s.rstBy := by
  unfold State.until; split <;> rfl

/-! ### The code of a reset, and the resets in force (R450) -/
section
variable {s : State} {c : Nat}

theorem noteReset_first (h : s.rstBy.filter (· != 0) = []) :
    s.noteReset c = (s.put F.RESET_CAUSE_CODE c).incSat (F.RESET_CNT_COUNT c) := by
  rw [State.noteReset, h]
  rfl

theorem noteReset_later (h : s.rstBy.filter (· != 0) ≠ []) : s.noteReset c = s.incSat (F.RESET_CNT_COUNT c) := by
  rw [State.noteReset, if_neg (by simpa using h)]

/-- The counters stand behind RESET.CAUSE. -/
theorem cause_incSat_count (s : State) (c : Nat) :
    (s.incSat (F.RESET_CNT_COUNT c)).get F.RESET_CAUSE_CODE = s.get F.RESET_CAUSE_CODE :=
  get_put_apart _ _ _ _ ⟨Nat.zero_le _, by simp⟩ (.inl (show 0x40020040 + 4 * c ≠ 0x40020000 by omega))

theorem cause_noteReset_first (hc : c < 2 ^ 16) (h : s.rstBy.filter (· != 0) = []) :
    (s.noteReset c).get F.RESET_CAUSE_CODE = c := by
  rw [noteReset_first h, cause_incSat_count]
  exact get_put_fits _ _ ⟨by decide, by decide⟩ hc

theorem cause_noteReset_later (h : s.rstBy.filter (· != 0) ≠ []) :
    (s.noteReset c).get F.RESET_CAUSE_CODE = s.get F.RESET_CAUSE_CODE := by
  rw [noteReset_later h, cause_incSat_count]

@[simp] theorem rstBy_noteReset (s : State) (c : Nat) : (s.noteReset c).rstBy = s.rstBy := by
  rw [State.noteReset]
  split <;> rfl

theorem holdReset_new (hc : c ≠ 0) (h : c ∉ s.rstBy) :
    s.holdReset c = { (s.noteReset c).assertReset with rstBy := c :: (s.noteReset c).rstBy } := by
  have noted : (if (decide (c = 0) || s.rstBy.contains c) = true then s else s.noteReset c) = s.noteReset c :=
    if_neg (by simp [hc, h])
  unfold State.holdReset
  rw [noted]
  exact if_neg (by simp [h])

/-- TEST_N holds the domains without a code. -/
theorem holdReset_test (h : 0 ∉ s.rstBy) : s.holdReset 0 = { s.assertReset with rstBy := 0 :: s.rstBy } := by
  have silent : (if (decide (0 = 0) || s.rstBy.contains 0) = true then s else s.noteReset 0) = s := if_pos rfl
  unfold State.holdReset
  rw [silent]
  exact if_neg (by simpa using h)

theorem exec_testN_low (h : 0 ∉ s.rstBy) : exec (.testN true) s = .next { s.assertReset with rstBy := 0 :: s.rstBy } :=
  congrArg _ (holdReset_test h)

theorem coldBoot_clear (hp : s.powered = true) (h : s.rstBy = []) (v : Bool) : s.coldBoot v = s.boot v false :=
  if_pos (by simp [hp, h])

theorem releaseReset_last (h : s.rstBy = [c]) (hp : s.powered = true) :
    s.releaseReset c = ({ s with rstBy := [] } : State).boot false false := by
  have hf : s.rstBy.filter (· != c) = [] := by simp [h]
  rw [State.releaseReset, if_pos (by simp [h]), hf]
  exact coldBoot_clear (s := { s with rstBy := [] }) hp rfl false

theorem startReset_powered (hp : s.powered = true) : s.startReset c = (s.noteReset c).assertReset.coldBoot false :=
  if_pos hp
end

/-! ### VAON and RST_N (R450 to R452) -/
section
variable {s : State}

theorem exec_vaonPowerOn_off (h : s.powered = false) (b : Bool) (r : BitVec 3) :
    let u := (State.put { s with bootMode := b, rigPins := r.toNat } F.RESET_CAUSE_CODE 1).incSat (F.RESET_CNT_COUNT 1)
    exec (.vaonPowerOn b r) s = .next ((State.showDomains { u with
      powered := true, rstBy := s.rstBy.filter (· != 1), kickAt := s.now, rtcSec := 0, rtcAt := s.now
      domOn := 1 }).coldBoot true) :=
  if_neg (by simp [h])

theorem exec_vaonPowerOn_on (h : s.powered = true) (b : Bool) (r : BitVec 3) : exec (.vaonPowerOn b r) s = .next s := if_pos h

theorem exec_vaonPowerLoss (h : s.powered = true) : ∃ t : State, exec .vaonPowerLoss s = .next t ∧ t.powered = false ∧
    t.regs = [] ∧ t.domOn = 0 ∧ 1 ∈ t.rstBy :=
  ⟨_, if_neg (by simp [h]), rfl, rfl, rfl, List.mem_cons_self⟩

theorem exec_rstNLow (h : s.rstLow = false) :
    let u : State := { s with rstLow := true, rstAt := s.now }
    exec .rstNLow s = .next (if s.bit F.RESET_STUCK_IGN = true then u else u.holdReset 2) := by
  intro u
  rw [apply_ite Host.Outcome.next]
  exact if_neg (by simp [h])

theorem exec_rstNRelease (h : s.rstLow = true) (b : Bool) (r : BitVec 3) : exec (.rstNRelease b r) s =
    .next (State.releaseReset { s with rstLow := false, rstAt := s.now, bootMode := b, rigPins := r.toNat } 2) :=
  if_neg (by simp [h])

theorem exec_stuckReset (hp : s.powered = true) (hl : s.rstLow = true) (hb : s.rstBy = [2])
    (he : s.bit F.AON_SET_STUCK_EN = true) :
    let u := (((s.until (s.rstAt + s.get F.AON_SET_STUCK_S * 1000 * msCounts)).put F.RESET_CAUSE_CODE 3).incSat
      (F.RESET_CNT_COUNT 3))
    exec .stuckReset s = .next (((u.putB F.RESET_STUCK_IGN true).raise F.RESET_STUCK_STUCKSEEN).releaseReset 2) := by
  show execStuckReset s = _
  rw [execStuckReset, if_pos (by simp [hp, hl, hb, he])]
  dsimp only
  rw [if_pos (by simp [hb])]

theorem exec_stuckReset_ignored (h : s.bit F.AON_SET_STUCK_EN = false ∨ 0 ∈ s.rstBy) : exec .stuckReset s = .next s :=
  if_neg (by rcases h with h | h <;> simp [h])

theorem exec_stuckIgnoreClear (hi : s.bit F.RESET_STUCK_IGN = true) (hl : s.rstLow = false) :
    exec .stuckIgnoreClear s = .next ((s.until (s.rstAt + 100 * msCounts)).putB F.RESET_STUCK_IGN false) :=
  if_pos (by simp [hi, hl])
end

/-! ### Watchdog, software reset, supplies and the backup trip (R450, R454, R455) -/
section
variable {s : State}

theorem exec_watchdogExpiry (hp : s.powered = true) (hb : s.rstBy = []) (hi : s.inRest = false) (hr : s.recovery = false) :
    exec .watchdogExpiry s =
      .next ((s.until (s.kickAt + (if s.kicked then s.get F.AON_WDT_PERIOD else 2000) * msCounts)).startReset 4) :=
  if_pos (by simp [hp, hb, hi, hr])

theorem exec_watchdogExpiry_served (h : s.inRest = true ∨ s.recovery = true) : exec .watchdogExpiry s = .next s :=
  if_neg (by rcases h with h | h <;> simp [h])

theorem exec_aonWdtKick (hu : s.up R.AON_WDT) : exec .aonWdtKick s = .next { s with kickAt := s.now, kicked := true } := by
  show execAonWdtKick s = _
  exact onReg_up hu

theorem exec_softwareReset (hu : s.up R.RESET_CTL) : exec .softwareReset s = .next (s.startReset 5) := by
  show execSoftwareReset s = _
  exact onReg_up hu

theorem exec_supplyUv (h : s.powered = true) (v : Bool) : exec (.supplyUv v) s =
    .next (State.holdReset { s.advance 1600 with uvRails := natBit (s.uvRails % 4) v.toNat true } 6) :=
  if_neg (by simp [h])

theorem exec_supplyUvRelease (h : 6 ∈ s.rstBy) : exec .supplyUvRelease s = .next ((s.advance 80000).releaseReset 6) :=
  if_pos (by simpa using h)

theorem exec_backupTrip (hp : s.powered = true) (hr : s.inRest = false) :
    exec .backupTrip s = .next ((s.putB F.AON_TRIP_BTRIP true).holdReset 7) :=
  if_neg (by simp [hp, hr])

theorem exec_backupTrip_rest (h : s.inRest = true) : exec .backupTrip s = .next s := if_pos (by simp [h])

theorem exec_backupTripClear (h : s.bit F.AON_TRIP_BTRIP = true) :
    exec .backupTripClear s = .next ((s.putB F.AON_TRIP_BTRIP false).releaseReset 7) :=
  if_pos h

theorem exec_bootComplete (h : s.bootDone = true) (v : BitVec 16) : exec (.bootComplete v) s = .next (s.bootEnd v) :=
  if_neg (by simp [h])

theorem exec_bootComplete_waits (h : s.bootDone = false) (v : BitVec 16) : exec (.bootComplete v) s = .next s :=
  if_pos (by simp [h])

/-- PFAIL_N closes the journal, and opens it again where no batch was refused meanwhile (R343). -/
theorem exec_pfailN (hd : s.domainRun 7 = true) : exec (.pfailN true) s = .next (s.putB F.MASTER_JSTAT_PFAIL true) ∧
    (s.pfLatch = false → exec (.pfailN false) s = .next (s.putB F.MASTER_JSTAT_PFAIL false).jKick) ∧
    (s.pfLatch = true → exec (.pfailN false) s = .next s) := by
  have on : ¬ (!s.domainRun 7) = true := by simp [hd]
  exact ⟨(if_neg on).trans (if_pos rfl),
    fun h => (if_neg on).trans ((if_neg Bool.false_ne_true).trans (if_neg (by simp [h]))),
    fun h => (if_neg on).trans ((if_neg Bool.false_ne_true).trans (if_pos h))⟩
end

/-! ### Ready and Listen (R457, R458) -/
section
variable {s : State}

theorem exec_aonReadyWrite (hu : s.up R.AON_PWRCTL) (b : Bool) :
    let u := State.putB { s with idleAt := s.now } F.AON_PWRCTL_READY b
    exec (.aonReadyWrite b) s = .next (if b = true then u.demand none else u) := by
  show execAonReadyWrite b s = _
  exact onReg_up hu

theorem exec_readyReached (hl : s.pw = pwLISTEN) (hd : s.demandAt.isSome = true) (hr : s.readyOk = true) :
    exec .readyReached s = .next (loopN 32 (fun n u => u.crewAwake n)
      (State.setPw { s with demandAt := none, demandBy := none, idleAt := s.now } pwREADY)) :=
  if_pos (by simp [hl, hd, hr])

theorem exec_readyReached_ignored (h : s.pw ≠ pwLISTEN ∨ s.demandAt = none ∨ s.readyOk = false) :
    exec .readyReached s = .next s :=
  if_neg (by rcases h with h | h | h <;> simp [h])

/-- An order that made the demand ends with it. -/
def State.endDemand (s : State) : State :=
  match s.demandBy with
  | some q => s.endOrder q 0x52 []
  | none => s

theorem endDemand_order {q : Nat} (h : s.demandBy = some q) : s.endDemand = s.endOrder q 0x52 [] := by
  rw [State.endDemand, h]

theorem endDemand_none (h : s.demandBy = none) : s.endDemand = s := by
  rw [State.endDemand, h]

theorem exec_readyTimeout {a : Nat} {u : State} (hd : s.demandAt = some a) (hl : s.pw = pwLISTEN)
    (hu : (s.until (a + msCounts)).fault 0x0B22 0 = u) : exec .readyTimeout s = .next u.endDemand.toListen := by
  show execReadyTimeout s = _
  rw [execReadyTimeout, hd]
  refine (if_pos hl).trans ?_
  rw [hu]
  dsimp only
  cases h : u.demandBy with
  | some q => rw [endDemand_order h]
  | none => rw [endDemand_none h]

theorem exec_idleTimeout (hr : s.pw = pwREADY) (hi : s.isIdle = true) (hn : s.get F.AON_IDLE_MS ≠ 0) :
    exec .idleTimeout s = .next (s.until (s.idleAt + s.get F.AON_IDLE_MS * msCounts)).toListen :=
  if_pos (by simp [hr, hi, hn])

theorem exec_idleTimeout_ignored (h : s.pw ≠ pwREADY ∨ s.isIdle = false ∨ s.get F.AON_IDLE_MS = 0) :
    exec .idleTimeout s = .next s :=
  if_neg (by rcases h with h | h | h <;> simp [h])
end

/-! ### Rest and wake (R457, R459 to R461) -/
section
variable {s : State}

section
variable (hu : s.up R.AON_PWRCTL)
include hu

theorem exec_aonRestWrite : exec .aonRestWrite s = .next s.restRequest.2 := by
  show execAonRestWrite s = _
  exact onReg_up hu

theorem exec_aonRestWrite_taken (h : s.restOk = true) : exec .aonRestWrite s = .next (s.enterRest false) := by
  rw [exec_aonRestWrite hu, State.restRequest, if_pos h]

theorem exec_aonRestWrite_refused (h : s.restOk = false) (hp : s.pw = pwLISTEN ∨ s.pw = pwREADY ∨ s.pw = pwRUN) :
    exec .aonRestWrite s = .next (s.fault 0x0B20 0) := by
  rw [exec_aonRestWrite hu, State.restRequest, if_neg (by simp [h]), if_pos (by simpa [or_assoc] using hp)]
end

theorem exec_restEntryEnd (h : s.pw = pwRESTENTRY) :
    let u := (((s.until (s.restAt + 5 * msCounts)).setHold false).settleBatch).resetDomains
    exec .restEntryEnd s = .next (State.showDomains { u with inRest := true, restAt := u.now }) :=
  if_pos h

/-- A source that is not the alarm wakes at once. -/
theorem exec_wake_pin {i : Fin 4} (hi : i.val ≠ 3) (hr : s.inRest = true) (he : s.bitAt F.AON_WAKE_EN i = true)
    (ht : i.val = 0 ∨ s.bit F.AON_TRIP_THREST = false) :
    exec (.wake i) s = .next (((s.put F.AON_WAKE_LAST (i + 1)).noteReset 8).boot false true) := by
  show execWake i s = _
  rw [execWake]
  dsimp only
  rw [if_neg (by simp only [hr, he]; rcases ht with h | h <;> simp [h]), if_neg (by simp [hi]), if_neg hi]

theorem exec_wake_ignored {i : Fin 4} (h : s.inRest = false ∨ s.bitAt F.AON_WAKE_EN i = false ∨
    (s.bit F.AON_TRIP_THREST = true ∧ (i.val = 1 ∨ i.val = 2))) : exec (.wake i) s = .next s :=
  if_pos (by rcases h with h | h | ⟨h, hi⟩ <;> simp [*])

/-- The alarm wakes when the real-time counter reaches it. -/
theorem exec_wake_alarm {a : Nat} (hr : s.inRest = true) (he : s.bitAt F.AON_WAKE_EN 3 = true)
    (ha : s.get F.AON_ALARM_L_S + 2 ^ 32 * s.get F.AON_ALARM_H_S = a) (h0 : a ≠ 0) (hn : s.rtc ≤ a) : exec (.wake 3) s =
      .next ((((s.until (s.rtcAt + (a - s.rtcSec) * 1000 * msCounts)).put F.AON_WAKE_LAST 4).noteReset 8).boot false true) := by
  have third : ((3 : Fin 4) : Nat) = 3 := rfl
  show execWake 3 s = _
  unfold execWake
  rw [ha, third]
  dsimp only
  rw [if_neg (by simp [hr, he]), if_neg (by simpa using ⟨h0, hn⟩), if_pos rfl]
end

/-! ### A domain that fails (R463) -/
section
variable {s : State}

/-- A demand's domains have 100 µs to come up; those of a boot fail at once. -/
def State.untilPowerGood (s : State) : State :=
  match s.demandAt with
  | some a => s.until (a + 80000)
  | none => s

/-- What domain d held: the engines, the links or the island. -/
def State.failBlocks (s : State) (d : Nat) : State :=
  if 9 ≤ d ∧ d ≤ 11 then s.engineLost d
  else if d = 8 then loopN 16 (fun p z => z.linkDown p lOFF) s
  else if d = 1 ∨ d = 2 then s.islOff (d == 2)
  else s

/-- A domain holds one of them, so that the three steps of DOMAIN_FAIL are one. -/
theorem failBlocks_steps (s : State) (d : Nat) :
    (let u := if 9 ≤ d && d ≤ 11 then s.engineLost d else s
     let v := if d = 8 then loopN 16 (fun p z => z.linkDown p lOFF) u else u
     if d = 1 || d = 2 then v.islOff (d == 2) else v) = s.failBlocks d := by
  unfold State.failBlocks
  by_cases he : 9 ≤ d ∧ d ≤ 11
  · have h8 : d ≠ 8 := by omega
    have hi : ¬ (d = 1 ∨ d = 2) := by omega
    simp [he, h8, hi]
  · by_cases h8 : d = 8
    · simp [h8]
    · simp [he, h8]

theorem exec_domainFail {d : Fin 14} (h0 : d.val ≠ 0) (hd : s.domainRun d = true)
    (ht : s.pw = pwBOOT ∨ (s.demandAt.isSome = true ∧ 8 ≤ d.val ∧ d.val ≤ 11)) :
    exec (.domainFail d) s =
      .next ((((s.untilPowerGood.domainDown d false).domainLost d).failBlocks d).showDomains.fault 0x0B21 d) := by
  have turning : (s.pw == pwBOOT || (s.demandAt.isSome && 8 ≤ d.val && d.val ≤ 11)) = true := by
    rcases ht with h | ⟨h, h8, h11⟩
    · simp [h]
    · simp [h, h8, h11]
  rw [← failBlocks_steps]
  exact if_pos (by simp [h0, hd, turning])

theorem exec_xtal32Stable (h : s.powered = true) : exec .xtal32Stable s = .next (s.putB F.AON_RTC_H_SYNC true) := if_pos h
end

/-- Settles O54: an equation for each command in each of the device's states, and the code that a reset leaves. -/
theorem powerAndReset : Obligations.PowerAndReset := by
  refine ⟨fun _ _ hc => ⟨cause_noteReset_first hc, cause_noteReset_later⟩, fun _ _ => holdReset_new,
    fun _ => exec_testN_low, fun _ _ => releaseReset_last, fun _ => rfl, fun _ _ => startReset_powered,
    fun _ b r h => exec_vaonPowerOn_off h b r, fun _ b r h => exec_vaonPowerOn_on h b r, fun _ => exec_vaonPowerLoss,
    fun _ => exec_rstNLow, fun _ b r h => exec_rstNRelease h b r, fun _ => exec_stuckReset,
    fun _ => exec_stuckReset_ignored, fun _ => exec_stuckIgnoreClear, fun _ => exec_watchdogExpiry,
    fun _ => exec_watchdogExpiry_served, fun _ => exec_aonWdtKick, fun _ => exec_softwareReset,
    fun _ v h => exec_supplyUv h v, fun _ => exec_supplyUvRelease, fun _ => exec_backupTrip, fun _ => exec_backupTrip_rest,
    fun _ => exec_backupTripClear, fun _ v h => exec_bootComplete h v, fun _ v h => exec_bootComplete_waits h v,
    fun _ => exec_pfailN, fun _ b hu => exec_aonReadyWrite hu b,
    fun _ hu => ⟨exec_aonRestWrite_taken hu, exec_aonRestWrite_refused hu⟩, fun _ => exec_readyReached,
    fun _ => exec_readyReached_ignored, fun s a hd hl => ?timeout, fun _ => exec_idleTimeout,
    fun _ => exec_idleTimeout_ignored, fun _ => exec_restEntryEnd, fun _ _ => exec_wake_pin, fun _ _ => exec_wake_ignored,
    fun _ hr he => exec_wake_alarm hr he rfl, fun _ _ => exec_domainFail, fun _ => exec_xtal32Stable⟩
  case timeout =>
    -- the match on DEMANDBY is taken apart for any state in place of the one after the fault
    generalize hu : (s.until (a + msCounts)).fault 0x0B22 0 = u
    intro _
    rw [exec_readyTimeout hd hl hu]
    cases h : u.demandBy with
    | some q => rw [endDemand_order h]
    | none => rw [endDemand_none h]

end Sys2Proof.Machine
end

/-! The proofs of the statements on the ring and on time (spec/10_ring_and_time.md), first part: frames, nodes, egress ports,
windows, MDIO and the bypass. -/
section
namespace Sys2Proof.Machine

/-! ### Frames received (R372) -/
section
variable {s : State} {p : RingPort} {f : RingFrame}

theorem ringRx_unheard {e : Bool} (h : s.ringEn = false ∨ s.ringLink p = false) : s.ringRx p e f = (false, s) :=
  if_pos (by simpa using h)

theorem ringRx_bad {e : Bool} (hn : s.ringEn = true) (hl : s.ringLink p = true) (hg : f.good = false) :
    s.ringRx p e f = (false, s.incSat (F.RING_PORT_RXERR_COUNT p)) :=
  (if_neg (by simp [hn, hl])).trans (if_pos (by simp [hg]))

theorem exec_supervisionFrame {nm : BitVec 48} (hn : s.ringEn = true) (hl : s.ringLink p = true) (hg : f.good = true)
    (hs : f.src.toNat ≠ s.ownMac) :
    exec (.supervisionFrame p f nm) s = .next ((s.ringRx p false f).2.supHeard p nm.toNat) :=
  if_neg (by simp [hn, hl, hg, hs])

theorem exec_leaveAnnouncement (hd : (s.ringRx p true f).1 = true)
    (ht : f.etype.toNat = (s.ringRx p true f).2.get F.RING_CFG_RETYPE) (hk : leAt f.payload 0 1 = 2) :
    exec (.leaveAnnouncement p f) s = .next (((((s.ringRx p true f).2.raise F.RING_EVT_LEAVE).put F.RING_LEAVE_L_MAC
      (f.src.toNat % 2 ^ 32)).put F.RING_LEAVE_H_MAC (f.src.toNat / 2 ^ 32)).fault 0x0908 p) := by
  show execLeaveAnnouncement p f s = _
  rw [execLeaveAnnouncement]
  generalize s.ringRx p true f = x at hd ht ⊢
  obtain ⟨_, u⟩ := x
  cases hd
  exact if_pos (by simp [ht, hk])
end

/-! ### Supervision and the node table (R371, R373) -/
section
variable {s : State}

theorem exec_supervisionSend (h : s.ringEn = true) : let u := s.until (s.ring.supAt + 2000 * msCounts)
    let w := if u.get F.HK_STAT_LEVEL ≥ 2 then u.advance (u.get F.HK_THR_PAUSE * 800) else u
    let v : State := { w with ring := { w.ring with supAt := u.now, supSeq := (w.ring.supSeq + 1) % 65536 } }
    exec .supervisionSend s = .next (v.ringSend false 0x0001004E1501 0x88FB
      (beBytes 2 1 ++ beBytes 2 w.ring.supSeq ++ [23, 6] ++ macBytes v.ownMac ++ [0, 0])) :=
  if_neg (by simp [h])

/-- The command looks at the nodes now, and where none is one-sided yet, at the first instant at which one can be. -/
theorem exec_ringBroken {u : State} (hb : s.bit F.RING_STAT_BROKEN = false)
    (hu : (if s.ring.nodes.any (fun n => n.oneSided s.now) then s else s.untilFirst s.brokenDues) = u)
    (h : u.ring.nodes.any (fun n => n.oneSided u.now) = true) :
    exec .ringBroken s = .next (((u.putB F.RING_STAT_BROKEN true).raise F.RING_EVT_BROKEN).fault 0x0902 0) := by
  subst hu
  exact (if_neg (by simp [hb])).trans (if_pos h)

theorem exec_ringBroken_now (hb : s.bit F.RING_STAT_BROKEN = false)
    (h : s.ring.nodes.any (fun n => n.oneSided s.now) = true) :
    exec .ringBroken s = .next (((s.putB F.RING_STAT_BROKEN true).raise F.RING_EVT_BROKEN).fault 0x0902 0) :=
  exec_ringBroken hb (if_pos h) h

theorem exec_ringBroken_later (hb : s.bit F.RING_STAT_BROKEN = false) : let u := s.untilFirst s.brokenDues
    s.ring.nodes.any (fun n => n.oneSided s.now) = false → u.ring.nodes.any (fun n => n.oneSided u.now) = true →
    exec .ringBroken s = .next (((u.putB F.RING_STAT_BROKEN true).raise F.RING_EVT_BROKEN).fault 0x0902 0) :=
  fun hn h => exec_ringBroken hb (if_neg (by simp [hn])) h
end

/-! ### Links and egress ports (R374 to R376) -/
section
variable {s : State} {p : RingPort}

theorem exec_ringLinkChange {up : Bool} (hn : s.ringEn = true) (hl : s.ringLink p ≠ up) :
    let u := (s.putB (F.RING_PORT_STAT_LINK p) up).putB (F.RING_PORT_STAT_PCS p) up
    let v := if p.val = 0 then (u.putB F.RING_STAT_LNKA up).raise F.RING_EVT_LINKA
      else (u.putB F.RING_STAT_LNKB up).raise F.RING_EVT_LINKB
    exec (.ringLinkChange p up) s =
      .next (if up then v else (v.setEgress p { v.egress p with wait := [] }).fault 0x0901 p) :=
  if_neg (by simp [hn, hl])

theorem exec_egressFrameStart_silent (h : s.bit (F.RING_PORT_CTL_TXEN p) = false) :
    exec (.egressFrameStart p) s = .next s :=
  if_pos (by simp [h])

section
variable (hn : s.ringEn = true) (hl : s.ringLink p = true) (hx : s.bit (F.RING_PORT_CTL_TXEN p) = true)
include hn hl hx

theorem exec_egressFrameStart_sends {f : TxFrame} : let u := s.until (s.egress p).startAt
    u.egressPick p = some f → exec (.egressFrameStart p) s =
      .next ((u.setEgress p { u.egress p with wait := (u.egress p).wait.erase f }).egressStart p f) := by
  intro u h
  refine (if_neg (by simp [hn, hl, hx])).trans ?_
  dsimp only
  rw [h]

theorem exec_egressFrameStart_waits (h : (s.until (s.egress p).startAt).egressPick p = none) :
    exec (.egressFrameStart p) s = .next s := by
  refine (if_neg (by simp [hn, hl, hx])).trans ?_
  dsimp only
  rw [h]
end

/-- A waiting express frame goes first. -/
theorem egressPick_express {p : Nat} {f : TxFrame}
    (h : ((s.egress p).wait.filter (fun f => f.at0 ≤ s.now)).find? (·.express) = some f) : s.egressPick p = some f := by
  unfold State.egressPick
  dsimp only
  rw [h]

/-- Else the oldest frame goes, if it may start. -/
theorem egressPick_bulk {p : Nat} : let w := (s.egress p).wait.filter (fun f => f.at0 ≤ s.now)
    w.find? (·.express) = none → s.egressPick p = w.head?.filter s.bulkMayStart := by
  intro w h
  unfold State.egressPick
  dsimp only
  rw [h]
end

/-! ### The protected window (R377) -/
section
variable {s : State}

theorem exec_protectedWindowOpen (hn : s.ringEn = true) (he : s.bit F.RING_WIN_EN = true) (hw : s.ring.winOpen = false) :
    ∃ t : State, exec .protectedWindowOpen s = .next t ∧ t.ring.winOpen = true :=
  ⟨_, if_neg (by simp [hn, he, hw]), rfl⟩

theorem exec_protectedWindowClose (hw : s.ring.winOpen = true) :
    ∃ t : State, exec .protectedWindowClose s = .next t ∧ t.ring.winOpen = false :=
  ⟨_, if_neg (by simp [hw]), rfl⟩
end

/-! ### PHYs and MDIO (R369, R370) -/
section
variable {s : State}

theorem exec_phyrstnWrite {p : RingPort} (hu : s.up (R.RING_PORT_CTL p)) (v : Bool) :
    exec (.phyrstnWrite p v) s = .next (s.putB (F.RING_PORT_CTL_PHYRSTN p) v) := by
  show execPhyrstnWrite p v s = _
  exact onReg_up hu

theorem exec_txenWrite {p : RingPort} (hu : s.up (R.RING_PORT_CTL p)) (v : Bool) :
    exec (.txenWrite p v) s = .next (s.putB (F.RING_PORT_CTL_TXEN p) v) := by
  show execTxenWrite p v s = _
  exact onReg_up hu

theorem exec_mdioOperation {v w : Word} {u : State} (hu : s.up R.RING_MDIO_CMD)
    (ht : s.takeWord R.RING_MDIO_CMD v = (w, u)) : exec (.mdioOperation v) s = .next (u.mdioWrite w) := by
  show execMdioOperation v s = _
  exact onRegW_up hu ht

section
variable {u : State} (hb : s.bit F.RING_MDIO_STAT_BUSY = true)
  (hu : (s.until (s.ring.mdioAt + s.mdioTime)).putB F.RING_MDIO_STAT_BUSY false = u)
include hb hu

theorem exec_mdioComplete_answered (ho : u.get F.RING_MDIO_CMD_OP = 2) (d : BitVec 16) :
    exec (.mdioComplete d true) s = .next (u.put F.RING_MDIO_STAT_RDATA d.toNat) := by
  subst hu
  exact (if_neg (by simp [hb])).trans (if_pos (by simp [ho]))

theorem exec_mdioComplete_unanswered (ho : u.get F.RING_MDIO_CMD_OP = 2) (d : BitVec 16) :
    exec (.mdioComplete d false) s = .next (((u.put F.RING_MDIO_STAT_RDATA 0xFFFF).raise F.RING_MDIO_STAT_NOACK).fault
      0x0904 (u.get F.RING_MDIO_CMD_PHYAD)) := by
  subst hu
  exact (if_neg (by simp [hb])).trans (if_pos (by simp [ho]))

theorem exec_mdioComplete_written (ho : u.get F.RING_MDIO_CMD_OP = 1) (d : BitVec 16) (a : Bool) :
    exec (.mdioComplete d a) s = .next u := by
  subst hu
  exact (if_neg (by simp [hb])).trans (if_neg (by simp [ho]))
end
end

/-! ### Bypass (R378 to R380) -/
section
variable {s : State}

theorem exec_bypInsertWrite (hu : s.up R.RING_BYP) (v : Bool) : exec (.bypInsertWrite v) s = .next (s.bypInsert v) := by
  show execBypInsertWrite v s = _
  exact onReg_up hu

theorem exec_bypLeaveWrite (hu : s.up R.RING_BYP) : exec .bypLeaveWrite s = .next s.bypLeave := by
  show execBypLeaveWrite s = _
  exact onReg_up hu

theorem exec_leaveExpiry {a : Nat} (h : s.ring.leaveAt = some a) : let u := s.until (a + 5 * msCounts)
    exec .leaveExpiry s = .next
      ((State.putB { u with ring := { u.ring with leaveAt := none } } F.RING_BYP_INSERT false).setHold false) := by
  show execLeaveExpiry s = _
  rw [execLeaveExpiry, h]

theorem exec_bypSenseChange {lv : Bool} (h : s.bit F.RING_BYP_SENSE ≠ lv) :
    exec (.bypSenseChange lv) s = .next ((s.putB F.RING_BYP_SENSE lv).raise F.RING_EVT_BYP).bypCheck :=
  if_neg (by simp [h])

theorem exec_bypMismatch {a : Nat} (ha : s.ring.bypDiff = some a) (hm : s.bit F.RING_BYP_MISMATCH = false) :
    exec .bypMismatch s = .next (((s.until (a + s.get F.RING_BYP_TSET * msCounts + 1)).putB F.RING_BYP_MISMATCH true).fault
      0x0903 0) := by
  show execBypMismatch s = _
  rw [execBypMismatch, ha]
  exact if_neg (by simp [hm])
end

/-- Settles O50: an equation for each command where its conditions hold, and for the choice of the frame that goes next. -/
theorem ringPorts : Obligations.RingPorts :=
  ⟨fun _ _ _ => rfl, fun _ _ _ => ringRx_bad, fun _ _ _ => ringRx_unheard, fun _ _ _ _ => exec_supervisionFrame,
    fun _ => exec_supervisionSend, fun _ hb => ⟨exec_ringBroken_now hb, exec_ringBroken_later hb⟩, fun _ => rfl,
    fun _ _ _ => exec_ringLinkChange,
    fun _ _ hn hl hx => ⟨fun _ => exec_egressFrameStart_sends hn hl hx, exec_egressFrameStart_waits hn hl hx⟩,
    fun _ _ => ⟨fun _ => egressPick_express, egressPick_bulk⟩, fun _ _ => exec_egressFrameStart_silent,
    fun _ => exec_protectedWindowOpen, fun _ => exec_protectedWindowClose,
    fun _ _ v hu => ⟨exec_phyrstnWrite hu v, exec_txenWrite hu v⟩, fun _ _ _ _ => exec_mdioOperation, fun _ => rfl,
    fun _ d hb => ⟨fun ho => ⟨exec_mdioComplete_answered hb rfl ho d, exec_mdioComplete_unanswered hb rfl ho d⟩,
      fun ho => exec_mdioComplete_written hb rfl ho d⟩,
    fun _ v hu => ⟨exec_bypInsertWrite hu v, exec_bypLeaveWrite hu⟩, fun _ _ => exec_leaveExpiry,
    fun _ _ => exec_bypSenseChange, fun _ _ => exec_bypMismatch, fun _ _ _ => exec_leaveAnnouncement⟩

end Sys2Proof.Machine
end

/-! The proofs of the statements on the ring and on time (spec/10_ring_and_time.md), second part: PTP messages, the time states,
time reads, the launch queue and the seam frames. -/
section
namespace Sys2Proof.Machine

/-! ### Whether a PTP message is heard (R5, R383) -/
section
variable {s u : State} {p : RingPort} {m : PtpMsg}

theorem ptpHeard_unlinked (h : s.ringEn = false ∨ s.ringLink p = false) : s.ptpHeard p m = (false, s) :=
  if_pos (by simpa using h)

theorem ptpHeard_linked (hn : s.ringEn = true) (hl : s.ringLink p = true) : s.ptpHeard p m =
    ((m.src.toNat != (s.incSat (F.RING_PORT_RXCNT_COUNT p)).ownMac && !timeBad m), s.incSat (F.RING_PORT_RXCNT_COUNT p)) :=
  if_neg (by simp [hn, hl])

theorem ptpHeard_bad (hn : s.ringEn = true) (hl : s.ringLink p = true) (hb : timeBad m = true) :
    s.ptpHeard p m = (false, s.incSat (F.RING_PORT_RXCNT_COUNT p)) := by
  rw [ptpHeard_linked hn hl]
  simp [hb]

/-- The counter of received frames is no part of the own address. -/
theorem ownMac_incSat_rxcnt (s : State) (p : RingPort) : (s.incSat (F.RING_PORT_RXCNT_COUNT p)).ownMac = s.ownMac := by
  have kept (g : Fld) (hg : R.RING_PORT_RXCNT p ≠ g.addr) : (s.incSat (F.RING_PORT_RXCNT_COUNT p)).get g = s.get g :=
    get_put_apart _ _ _ _ ⟨by simp, by simp⟩ (.inl hg)
  unfold State.ownMac
  rw [kept F.RING_MAC_L_MAC (by show 0x400C0054 + 0x40 * p.val ≠ 0x400C0004; omega),
    kept F.RING_MAC_H_MAC (by show 0x400C0054 + 0x40 * p.val ≠ 0x400C0008; omega)]

theorem ptpHeard_good (hn : s.ringEn = true) (hl : s.ringLink p = true) (hs : m.src.toNat ≠ s.ownMac)
    (hb : timeBad m = false) : s.ptpHeard p m = (true, s.incSat (F.RING_PORT_RXCNT_COUNT p)) := by
  rw [ptpHeard_linked hn hl, ownMac_incSat_rxcnt]
  simp [hs, hb]

/-! ### A message that is not heard -/
section
variable (h : s.ptpHeard p m = (false, u))
include h

theorem exec_sync_unheard : exec (.sync p m) s = .next u := by
  show execSync p m s = _
  rw [execSync, h]
  exact if_pos rfl

theorem exec_followUp_unheard : exec (.followUp p m) s = .next u := by
  show execFollowUp p m s = _
  rw [execFollowUp, h]
  exact if_pos rfl

theorem exec_announce_unheard (c : PtpClock) : exec (.announce p m c) s = .next u := by
  show execAnnounce p m c s = _
  rw [execAnnounce, h]
  exact if_pos rfl
end

/-! ### Sync, Follow_Up and Announce (R384, R387, R388) -/
section
variable (h : s.ptpHeard p m = (true, u))
include h

theorem exec_sync_heard : exec (.sync p m) s =
    let v := u.ptpForward p 0 m
    if v.ptpOurs m = false then .next v
    else if m.twoStep then
      .next (v.setPtpPort p { v.ptpPort p with sync := some (m.seq.toNat, u.rxStamp p, corrFine m.corr) })
    else .next (v.syncUsed p (u.rxStamp p) (ptpFine m.time) (corrFine m.corr)) := by
  show execSync p m s = _
  rw [execSync, h]
  exact (if_neg (by simp)).trans (by simp)

theorem exec_followUp_ours {q : Nat} {a c : Int} : let v := u.ptpForward p 8 m
    v.ptpOurs m = true → (v.ptpPort p).sync = some (q, a, c) → exec (.followUp p m) s =
      .next (if q = m.seq.toNat then v.syncUsed p a (ptpFine m.time) (c + corrFine m.corr) else v) := by
  intro v ho hs
  show execFollowUp p m s = _
  rw [execFollowUp, h, apply_ite Host.Outcome.next]
  refine (if_neg (by simp)).trans ((if_neg (by simpa using ho)).trans ?_)
  rw [hs]

theorem exec_announce_heard (c : PtpClock) : let v := u.ptpForward p 0xB m
    exec (.announce p m c) s =
      .next (if v.ptpOurs m then v.heardAnnounce.offerGm (gmOf c) c.utcOfs.toNat else v) := by
  show execAnnounce p m c s = _
  rw [execAnnounce, h]
  refine (if_neg (by simp)).trans ?_
  dsimp only
  cases (u.ptpForward p 0xB m).ptpOurs m <;> rfl
end
end

/-! ### Link delays (R385) -/
section
variable {s : State} {p : RingPort} {m : PtpMsg}

theorem exec_pdelay_unlinked (h : s.ringEn = false ∨ s.ringLink p = false) : exec (.pdelayReq p m) s = .next s ∧
    exec (.pdelayResp p m) s = .next s ∧ exec (.pdelayRespFollowUp p m) s = .next s := by
  have off : (!s.ringEn || !s.ringLink p) = true := by simpa using h
  exact ⟨if_pos off, if_pos off, if_pos off⟩

section
variable (hn : s.ringEn = true) (hl : s.ringLink p = true)
include hn hl

theorem exec_pdelayReq_bad (hb : timeBad m = true) :
    exec (.pdelayReq p m) s = .next (s.incSat (F.RING_PORT_RXCNT_COUNT p)) :=
  (if_neg (by simp [hn, hl])).trans (if_pos hb)

theorem exec_pdelayReq (hb : timeBad m = false) : let u := s.incSat (F.RING_PORT_RXCNT_COUNT p)
    exec (.pdelayReq p m) s = .next (u.ptpSend p 3 m.seq.toNat 0 (u.rxStamp p)) :=
  (if_neg (by simp [hn, hl])).trans (if_neg (by simp [hb]))

section
variable {u : State} {q a : Nat} {b : Int} (hb : timeBad m = false) (hu : s.incSat (F.RING_PORT_RXCNT_COUNT p) = u)
  (hr : (u.ptpPort p).req = some (q, a, b)) (hq : q = m.seq.toNat) (ht : u.now ≤ a + 10 * msCounts)
include hb hu hr hq ht

theorem exec_pdelayResp : exec (.pdelayResp p m) s =
    .next (u.setPtpPort p { u.ptpPort p with resp := some (u.rxStamp p, ptpFine m.time) }) := by
  subst hu
  refine (if_neg (by simp [hn, hl])).trans ?_
  dsimp only
  rw [hr]
  exact if_pos (by simp [hq, ht, hb])

theorem exec_pdelayRespFollowUp {x y : Int} (hx : (u.ptpPort p).resp = some (x, y)) :
    exec (.pdelayRespFollowUp p m) s = .next (u.pdTaken p (u.ptpPort p)
      (((x - b) - (ptpFine m.time - y) + corrFine m.corr * -1) / 2) (ptpFine m.time) x) := by
  subst hu
  refine (if_neg (by simp [hn, hl])).trans ?_
  dsimp only
  rw [hr, hx]
  exact if_pos (by simp [hq, ht, hb])
end
end

theorem exec_pdelayReqSend (hn : s.ringEn = true) : let v := s.until ((s.ptpPort p).reqAt + 1000 * msCounts)
    let r := v.ptpPort p
    exec (.pdelayReqSend p) s = .next ((v.setPtpPort p { r with
      req := some (r.pdSeq, v.now, v.txStamp p), resp := none, pdSeq := (r.pdSeq + 1) % 65536
      reqAt := v.now }).ptpSend p 2 r.pdSeq 0 0) :=
  if_neg (by simp [hn])

theorem exec_pdelayTimeout {q a : Nat} {b : Int} (h : (s.ptpPort p).req = some (q, a, b)) :
    exec (.pdelayTimeout p) s = .next ((s.until (a + 10 * msCounts)).pdFail p) := by
  show execPdelayTimeout p s = _
  rw [execPdelayTimeout, h]
end

/-! ### The start of a PTP frame (R383, R384) -/
section
variable {s : State} {p : Nat} {x : PtpTx}

/-- The message that carries the send time of the one that starts now. -/
def State.sendTime (s : State) (p kind seq : Nat) : TxFrame :=
  { express := true
    ptp := some { kind := kind, seq := seq, corr := 0, sec := (TimeVal.ofFine (s.txStamp p)).sec
                  ns := (TimeVal.ofFine (s.txStamp p)).ns } }

theorem ptpStarted_sync (ho : x.own = true) (hk : x.kind = 0) : s.ptpStarted p x = s.egressPut p (s.sendTime p 8 x.seq) := by
  simp [State.ptpStarted, ho, hk, State.sendTime]

theorem ptpStarted_pdelayResp (ho : x.own = true) (hk : x.kind = 3) :
    s.ptpStarted p x = s.egressPut p (s.sendTime p 0xA x.seq) := by
  simp [State.ptpStarted, ho, hk, State.sendTime]

theorem ptpOut_oneStep_corr (ho : x.own = false) (hk : x.kind = 0) (ht : x.two = false) :
    (s.ptpOut p x).corr = x.corr + s.ptpAdd p x := by
  simp [State.ptpOut, ho, hk, ht]
end

/-! ### The master's messages and the loss of the clock (R383, R386, R389, R390) -/
section
variable {s : State}

theorem exec_masterSend_other (h : s.timeSt ≠ tMASTER) : exec .syncSend s = .next s ∧ exec .announceSend s = .next s :=
  ⟨if_pos h, if_pos h⟩

theorem exec_announceSend (h : s.timeSt = tMASTER) : let w := s.until (s.clock.annTx + 1000 * msCounts)
    let u : State := { w with clock := { w.clock with annSeq := (w.clock.annSeq + 1) % 65536, annTx := w.now } }
    exec .announceSend s = .next (loopN 2 (fun p v => v.ptpSend p 0xB w.clock.annSeq 0 v.ctime.fine) u) :=
  if_neg (fun hn => hn h)

theorem exec_syncSend (h : s.timeSt = tMASTER) : let w := s.until (s.clock.syncTx + syncInterval)
    let u : State := { w with clock := { w.clock with syncSeq := (w.clock.syncSeq + 1) % 65536, syncTx := w.now } }
    exec .syncSend s = .next (loopN 2 (fun p v => v.ptpSend p 0 w.clock.syncSeq 0 0) u).steer :=
  if_neg (fun hn => hn h)

@[simp] theorem until_clock (s : State) (t : Nat) : (s.until t).clock = s.clock := by
  unfold State.until; split <;> rfl

@[simp] theorem clockMiss_regs (s : State) : s.clockMiss.regs = s.regs := by
  simp only [State.clockMiss, until_regs]

@[simp] theorem clockMiss_miss (s : State) : s.clockMiss.clock.miss = s.clock.miss + 1 := by
  simp [State.clockMiss]

@[simp] theorem clockMiss_selMiss (s : State) : s.clockMiss.clock.selMiss = s.clock.selMiss + 1 := by
  simp [State.clockMiss]

/-- Before the third miss in a row the port that feeds the clock stays. -/
theorem exec_syncLoss (h : s.clock.selMiss + 1 < 3) : exec .syncLoss s =
    .next (if s.get F.TIME_SYNCLOSS_N ≤ s.clock.miss + 1 then s.clockMiss.clockLost else s.clockMiss) := by
  have hk : ¬ 3 ≤ s.clock.selMiss + 1 := Nat.not_le.2 h
  have hg : s.clockMiss.get F.TIME_SYNCLOSS_N = s.get F.TIME_SYNCLOSS_N := by
    unfold State.get
    rw [rd_of_regs (clockMiss_regs s)]
  show execSyncLoss s = _
  simp [execSyncLoss, hk, hg, apply_ite Host.Outcome.next]

theorem clockLost_hold (h : s.timeSt = tACQ ∨ s.timeSt = tLOCKED) :
    s.clockLost = (s.setTimeSt tHOLD).fault 0x0910 0 :=
  if_pos (by simpa using h)
end

/-! ### The real-time counter and time reads (R387, R403, R465) -/
section
variable {s : State}

theorem exec_rtcUpdate (h : s.timeSt = tLOCKED) : let u := s.until (s.clock.rtcAt + 1000 * msCounts)
    exec .rtcUpdate s = .next { u with rtcSec := u.ltime.sec, rtcAt := u.now, clock := { u.clock with rtcAt := u.now } } :=
  if_pos h

theorem exec_rtcUpdate_unlocked (h : s.timeSt ≠ tLOCKED) : exec .rtcUpdate s = .next s := if_neg h

theorem exec_ctSlRead (hu : s.up R.TIME_CT_SL) : exec .ctSlRead s = .next { s.readCt.2 with rdata := s.readCt.1 } := by
  show execCtSlRead s = _
  exact onRegRead_up hu

theorem exec_ltSlRead (hu : s.up R.TIME_LT_SL) : exec .ltSlRead s = .next { s.readLt.2 with rdata := s.readLt.1 } := by
  show execLtSlRead s = _
  exact onRegRead_up hu

theorem exec_rtcLRead (hu : s.up R.AON_RTC_L) :
    exec .rtcLRead s = .next { s.readRtcL.2 with rdata := s.readRtcL.1 } := by
  show execRtcLRead s = _
  exact onRegRead_up hu

/-- A read of the low seconds latches the high ones. -/
theorem readRtcL_latched (s : State) : s.readRtcL.2.get F.AON_RTC_H_S = s.rtc / 2 ^ 32 % 2 ^ 16 :=
  get_put_same s F.AON_RTC_H_S (s.rtc / 2 ^ 32) ⟨by decide, by decide⟩
end

/-! ### The launch queue (R393, R394) -/
section
variable {s : State} {e : LegNo}

theorem exec_lqArm {v w : Word} {u : State} (hu : s.up (R.RING_LQ_CTL e)) (ht : s.takeWord (R.RING_LQ_CTL e) v = (w, u)) :
    exec (.lqArm e v) s = .next (u.lqCtlWrite e 0x01 w) := by
  show execLqArm e v s = _
  exact onRegW_up hu ht

/-- An armed entry keeps its control word. -/
theorem lqCtlWrite_armed {e owner : Nat} {v : Word} (h : s.get (F.RING_LQ_CTL_ST e) = 1) : s.lqCtlWrite e owner v = s :=
  if_pos h

theorem exec_lqLaunch (h : s.get (F.RING_LQ_CTL_ST e) = 1) : exec (.lqLaunch e) s = .next ((s.lqAwait e).lqSend e) :=
  if_neg (fun hn => hn h)

theorem exec_lqLaunch_unarmed (h : s.get (F.RING_LQ_CTL_ST e) ≠ 1) : exec (.lqLaunch e) s = .next s := if_pos h

/-- What the end of a launch leaves in the control word, whatever was sent. -/
theorem lqSend_sent (s : State) (e : Nat) :
    (s.lqSend e).get (F.RING_LQ_CTL_ST e) = 2 ∧ (s.lqSend e).bit (F.RING_LQ_CTL_ARM e) = false := by
  have hs : (F.RING_LQ_CTL_ST e).ok := ⟨by simp, by simp⟩
  have ha : (F.RING_LQ_CTL_ARM e).ok := ⟨by simp, by simp⟩
  refine ⟨?_, bit_putB _ _ _ ha⟩
  exact (get_put_apart _ _ _ _ ha (.inr (.inr (by simp)))).trans (get_put_fits _ _ hs (by simp))
end

/-! ### Seam frames (R398 to R400) -/
section
variable {s : State}

section
variable {n : CrewNo} (ho : s.seamOn n = true) (hn : s.ringEn = true)
include ho hn

theorem exec_seamPayloadRead : exec (.seamPayloadRead n) s = .next (if 1600 < s.seamPeriod n - s.seamSince n then
    (s.advance (s.seamPeriod n - s.seamSince n - 1600)).seamPrepare n else s.seamPrepare n) := by
  rw [← apply_ite (fun x : State => x.seamPrepare n)]
  exact if_neg (by simp [ho, hn])

theorem exec_seamDeadline : exec (.seamDeadline n) s = .next (if s.seamSince n < s.get (F.RING_SEAM_DL_C n) then
    (s.advance (s.get (F.RING_SEAM_DL_C n) - s.seamSince n)).seamClose n else s.seamClose n) := by
  rw [← apply_ite (fun x : State => x.seamClose n)]
  exact if_neg (by simp [ho, hn])
end

theorem exec_seamFrame {p : RingPort} {f : RingFrame} (hd : (s.ringRx p true f).1 = true)
    (ht : f.etype.toNat = (s.ringRx p true f).2.get F.RING_CFG_RETYPE) (hk : leAt f.payload 0 1 = 1)
    (hv : leAt f.payload 1 1 = 1) :
    exec (.seamFrame p f) s = .next (loopN 32 (fun n u => u.seamTake n f.payload) (s.ringRx p true f).2) := by
  show execSeamFrame p f s = _
  rw [execSeamFrame]
  generalize s.ringRx p true f = x at hd ht ⊢
  obtain ⟨_, u⟩ := x
  cases hd
  exact if_neg (by simp [ht, hk, hv])

/-- A payload of the own member index is bad. -/
theorem seamTake_own {n : Nat} {l : List Byte} (ho : s.seamOn n = true)
    (hg : leAt l 2 2 = s.get (F.RING_SEAM_CFG_GROUP n)) (hm : leAt l 4 1 = s.seamMidx n) :
    s.seamTake n l = (let u := s.incSat (F.RING_SEAM_BADCNT_COUNT n)
      if (s.seam n).good then (u.setSeam n { s.seam n with good := false }).fault 0x0923 n else u) :=
  (if_neg (by simp [ho, hg])).trans (if_neg (by simp [hm]))
end

/-- Settles O51: an equation for each command where its conditions hold, with those of a PTP message in two steps: whether it is
heard, and what a message that is heard does. -/
theorem networkTime : Obligations.NetworkTime := by
  refine ⟨fun s p m h => ?unlinked, fun s p m hn hl hb => ?bad, fun _ => rfl, fun s p m hn hl hs hb => ?sync,
    fun _ _ _ _ _ _ hn hl hs hb => exec_followUp_ours (ptpHeard_good hn hl hs hb),
    fun _ _ _ c hn hl hs hb => exec_announce_heard (ptpHeard_good hn hl hs hb) c,
    fun _ _ _ => exec_pdelayReq,
    fun _ _ _ _ _ _ hn hl hb hr hq ht =>
      ⟨exec_pdelayResp hn hl hb rfl hr hq ht, fun _ _ => exec_pdelayRespFollowUp hn hl hb rfl hr hq ht⟩,
    fun _ _ => exec_pdelayReqSend, fun _ _ _ ho => ⟨ptpStarted_sync ho, ptpStarted_pdelayResp ho⟩,
    fun _ _ _ => ptpOut_oneStep_corr, fun _ _ _ _ _ => exec_pdelayTimeout, fun _ => exec_masterSend_other,
    fun _ => exec_announceSend, fun _ => exec_syncSend,
    fun _ hm hs => (exec_syncLoss hs).trans (congrArg _ (if_neg (Nat.not_le.2 hm))),
    fun _ hs hm => (exec_syncLoss hs).trans (congrArg _ (if_pos hm)), fun _ => rfl, fun _ => clockLost_hold,
    fun _ => ⟨exec_rtcUpdate, exec_rtcUpdate_unlocked⟩, fun _ => exec_ctSlRead, fun _ => exec_ltSlRead,
    fun s hu => ⟨_, exec_rtcLRead hu, rfl, readRtcL_latched s⟩,
    fun _ _ _ _ _ hu ht => ⟨exec_lqArm hu ht, fun ha => (exec_lqArm hu ht).trans (congrArg _ (lqCtlWrite_armed ha))⟩,
    fun _ _ => exec_lqLaunch, lqSend_sent, fun _ _ => exec_lqLaunch_unarmed,
    fun _ _ ho hn => ⟨exec_seamPayloadRead ho hn, exec_seamDeadline ho hn⟩, fun _ _ _ => exec_seamFrame,
    fun _ _ _ => seamTake_own⟩
  case unlinked =>
    have hh := ptpHeard_unlinked (m := m) h
    exact ⟨exec_sync_unheard hh, exec_followUp_unheard hh, exec_announce_unheard hh, exec_pdelay_unlinked h⟩
  case bad =>
    have hh := ptpHeard_bad hn hl hb
    exact ⟨exec_sync_unheard hh, exec_followUp_unheard hh, exec_announce_unheard hh, exec_pdelayReq_bad hn hl hb⟩
  case sync =>
    have hx := exec_sync_heard (ptpHeard_good hn hl hs hb)
    exact ⟨fun ho => hx.trans (if_pos ho), fun ho ht => hx.trans ((if_neg (by simp [ho])).trans (if_pos ht)),
      fun ho ht => hx.trans ((if_neg (by simp [ho])).trans (if_neg (by simp [ht])))⟩

end Sys2Proof.Machine
end

/-! The proofs of the statements on the field ports and the signal map (spec/11_field_ports_signal_map.md), first part: how the
value of a point stands in its value word. -/
section
namespace Sys2Proof.Machine

/-! ### Bytes of a number (R7) -/
theorem leNat_lt (l : List Byte) : leNat l < 256 ^ l.length := by
  induction l with
  | nil => exact Nat.one_pos
  | cons b r ih =>
    have hb := b.isLt
    rw [leNat, List.length_cons, Nat.pow_succ]
    omega

theorem leBytes_getElem? {n a : Nat} (v : Nat) (h : a < n) : (leBytes n v)[a]? = some (BitVec.ofNat 8 (v / 256 ^ a)) := by
  induction n generalizing v a with
  | zero => exact absurd h (Nat.not_lt_zero a)
  | succ n ih =>
    cases a with
    | zero => simp [leBytes]
    | succ a =>
      rw [leBytes, List.getElem?_cons_succ, ih _ (by omega), Nat.div_div_eq_div_mul, Nat.pow_succ, Nat.mul_comm]

/-! ### Point values (R430) -/
section
variable {d : Nat} {l : List Byte}

/-- A point has 1, 2 or 4 bytes. -/
theorem descSize_cases (d : Nat) : descSize d = 1 ∨ descSize d = 2 ∨ descSize d = 4 := by
  unfold descSize
  split
  · exact .inl rfl
  · split
    · exact .inr (.inl rfl)
    · exact .inr (.inr rfl)

/-- The bytes of a point fit its SIZE, and a SIZE fits the value word. -/
theorem leNat_point (hl : l.length = descSize d) : leNat l < 2 ^ (8 * descSize d) := by
  have h := leNat_lt l
  rwa [hl, show (256 : Nat) = 2 ^ 8 from rfl, ← Nat.pow_mul] at h

theorem leNat_point_word (hl : l.length = descSize d) : leNat l < 2 ^ 32 :=
  Nat.lt_of_lt_of_le (leNat_point hl)
    (Nat.pow_le_pow_right Nat.two_pos (by have := descSize_cases d; omega))

/-- Points that are neither signed nor bool are zero-extended. -/
theorem pointWord_zeroExtended (hl : l.length = descSize d) (hs : descType d ≠ 1) (hb : descType d ≠ 3) :
    (pointWord d l).toNat = leNat l := by
  rw [pointWord, if_neg hs, if_neg hb, BitVec.toNat_ofNat, Nat.mod_eq_of_lt (leNat_point_word hl)]

theorem pointWord_bool (hb : descType d = 3) : pointWord d l = if leNat l = 0 then 0 else 1 := by
  rw [pointWord, if_neg (by omega), if_pos hb]

/-- A number of w bits as a two's complement reading. -/
theorem sextNat_fits {w n : Nat} (h : n < 2 ^ w) : sextNat w n = if n < 2 ^ (w - 1) then (n : Int) else (n : Int) - 2 ^ w := by
  rw [sextNat, Nat.mod_eq_of_lt h]

theorem pointWord_signed (hl : l.length = descSize d) (hs : descType d = 1) : (pointWord d l).toInt =
    if leNat l < 2 ^ (8 * descSize d - 1) then (leNat l : Int) else (leNat l : Int) - 2 ^ (8 * descSize d) := by
  have hn := leNat_point hl
  rw [pointWord, if_pos hs, BitVec.toInt_ofInt, sextNat_fits hn]
  obtain h | h | h := descSize_cases d <;> rw [h] at hn ⊢ <;> refine Int.bmod_eq_of_le ?_ ?_ <;> split <;> omega
end

/-- The bytes that a request carries are the low ones of the value word. -/
theorem valBytes_byte {d a : Nat} (v : Word) (h : a < descSize d) : (valBytes d v)[a]? = some (v.extractLsb' (8 * a) 8) := by
  rw [valBytes, leBytes_getElem? _ h, BitVec.extractLsb', Nat.shiftRight_eq_div_pow, Nat.pow_mul]

/-- Settles O53: by TYPE for a value that comes in, by its bytes for one that goes out. -/
theorem pointValues : Obligations.PointValues :=
  ⟨fun _ _ _ hl => ⟨fun h => pointWord_zeroExtended hl (by omega) (by omega),
      fun h => ⟨fun h0 => (pointWord_bool h).trans (if_pos h0), fun h0 => (pointWord_bool h).trans (if_neg h0)⟩,
      pointWord_signed hl, fun h _ => pointWord_zeroExtended hl (by omega) (by omega)⟩,
    fun _ v => ⟨leBytes_length _ _, fun _ => valBytes_byte v⟩⟩

end Sys2Proof.Machine
end

/-! The proofs of the statements on the field ports and the signal map (spec/11_field_ports_signal_map.md), second part:
transactions, cycles, and the upkeep of the map. -/
section
namespace Sys2Proof.Machine

/-! ### The record of a port: what the other operations leave of it -/
@[simp] theorem fport_setFport_same (s : State) (j : Nat) (r : FieldPort) : (s.setFport j r).fport j = r := mget_mset_same _ _ _ _

/-- The end of the slots moves the port to its acyclic phase, and changes nothing else of it. -/
theorem fieldSettle_fport (s : State) (j : Nat) : ∃ p t l,
    (s.fieldSettle j).fport j = { s.fport j with phase := p, acycAt := t, lastAt := l } := by
  unfold State.fieldSettle
  dsimp only
  split
  · exact ⟨_, _, _, fport_setFport_same _ _ _⟩
  · exact ⟨_, _, _, rfl⟩

/-! ### Requests (R411, R412) -/
/-- The port with transaction x on its line, which ends at `fin` and leaves the line idle until `idle`: a broadcast is over with
its request, and a probe leaves the stack. -/
def FieldPort.sends (f : FieldPort) (x : FTxn) (fin idle : Nat) : FieldPort :=
  let f := { f with out := x.frame, txn := some { x with sent := true }, reqEnd := fin, freeAt := idle }
  if x.typ = 4 && x.addr = 0 then { f with relAll := false, txn := none, lastAt := fin }
  else if x.typ = 7 then { f with frz := false, txn := none, lastAt := fin }
  else if x.typ = 6 then { f with stack := f.stack.drop 1 }
  else if x.typ ≤ 1 then { f with slot := x.slot + 1 }
  else f

section
variable (f : FieldPort) (x : FTxn) (fin idle : Nat)

theorem sends_out : (f.sends x fin idle).out = x.frame := by
  simp only [FieldPort.sends, apply_ite FieldPort.out, ite_self]

theorem sends_reqEnd : (f.sends x fin idle).reqEnd = fin := by
  simp only [FieldPort.sends, apply_ite FieldPort.reqEnd, ite_self]

theorem sends_txn (h7 : x.typ ≠ 7) (h0 : x.addr ≠ 0) : (f.sends x fin idle).txn = some { x with sent := true } := by
  have noBroadcast : ¬ (decide (x.typ = 4) && decide (x.addr = 0)) = true := by simp [h0]
  simp only [FieldPort.sends, if_neg noBroadcast, if_neg h7, apply_ite FieldPort.txn, ite_self]
end

/-- The state in which transaction x begins: a probe counts. -/
def State.requestStart (s : State) (j : Nat) (x : FTxn) : State :=
  if x.typ = 6 then (s.lineReady j x).incSat (F.FIELD_PORT_DISCCNT_COUNT j) else s.lineReady j x

section
variable {s : State} {j a : Nat} {x : FTxn}

theorem fieldSend_notDue (h : ∀ x, s.nextTxn j = some x → x.typ ≠ a) : s.fieldSend j a = s := by
  unfold State.fieldSend
  cases hx : s.nextTxn j with
  | none => rfl
  | some x => exact if_pos (h x hx)

theorem fieldSend_due (hx : s.nextTxn j = some x) (ha : x.typ = a) : s.fieldSend j a =
    let u := s.requestStart j x
    let fin := u.now + u.bitTimes j (1 + 10 * (6 + x.payload.length))
    (u.setFport j ((u.fport j).sends x fin (fin + u.bitTimes j 30))).fieldSettle j := by
  subst ha
  unfold State.fieldSend
  rw [hx]
  exact if_neg (fun h => h rfl)

/-- What the port sends, when its request ends, and the transaction that it then awaits. -/
theorem fieldSend_port (hx : s.nextTxn j = some x) (ha : x.typ = a) : let t := s.fieldSend j a
    (t.fport j).out = x.frame ∧
    (a ≠ 6 → (t.fport j).reqEnd = (s.lineReady j x).now + (s.lineReady j x).bitTimes j (1 + 10 * (6 + x.payload.length))) ∧
    (a ≠ 7 → x.addr ≠ 0 → (t.fport j).txn = some { x with sent := true }) := by
  intro t
  obtain ⟨_, _, _, settled⟩ := fieldSettle_fport (State.setFport _ j _) j
  rw [show t = _ from fieldSend_due hx ha, settled, fport_setFport_same]
  refine ⟨sends_out _ _ _ _, fun h6 => ?_, fun h7 => sends_txn _ _ _ _ (ha ▸ h7)⟩
  refine (sends_reqEnd _ _ _ _).trans ?_
  rw [State.requestStart, if_neg (ha ▸ h6)]
end

theorem exec_request {s : State} {j : Port16} {a : Nat} {i : Instr} (h : (a, i) ∈ [(0, Instr.cyclic j), (1, .change j),
    (2, .read j), (3, .write j), (4, .assign j), (5, .cap j), (6, .discover j), (7, .freeze j)]) :
    exec i s = .next (s.fieldSend j a) := by
  simp only [List.mem_cons, Prod.mk.injEq, List.not_mem_nil, or_false] at h
  rcases h with ⟨rfl, rfl⟩ | ⟨rfl, rfl⟩ | ⟨rfl, rfl⟩ | ⟨rfl, rfl⟩ | ⟨rfl, rfl⟩ | ⟨rfl, rfl⟩ | ⟨rfl, rfl⟩ | ⟨rfl, rfl⟩ <;> rfl

/-! ### Responses and time-outs (R411, R413, R414) -/
section
variable {s : State} {j : Port16} {l : List Byte} {e : Bool} {d : Nat}

theorem exec_fieldResponse_silent (h : ∀ x, (s.fport j).txn = some x → x.sent = false) :
    exec (.fieldResponse j l e d) s = .next s := by
  show execFieldResponse j l e d s = _
  unfold execFieldResponse
  cases hx : (s.fport j).txn with
  | none => rfl
  | some x => exact if_pos (by simp [h x hx])

theorem exec_fieldTimeout_silent (h : ∀ x, (s.fport j).txn = some x → x.sent = false) :
    exec (.fieldTimeout j) s = .next s := by
  show execFieldTimeout j s = _
  unfold execFieldTimeout
  cases hx : (s.fport j).txn with
  | none => rfl
  | some x => exact if_pos (by simp [h x hx])

/-- A failed attempt of transaction x; that of a probe splits what it asked for (R416). -/
def State.attemptFails (s : State) (j : Nat) (x : FTxn) : State := if x.typ = 6 then s.discSplit j x else s.fieldFail j x

/-- What a response frame does, once it is judged. -/
def State.responseTaken (s : State) (j : Nat) (x : FTxn) : FRsp → State
  | .good p => s.fieldGood j x p
  | .err _ => (s.fault 0x0A09 x.addr).attemptFails j x
  | .bad => s.attemptFails j x

section
variable {x : FTxn} (hx : (s.fport j).txn = some x) (hs : x.sent = true)
include hx hs

theorem exec_fieldResponse : let u := s.until ((s.fport j).reqEnd + d)
    exec (.fieldResponse j l e d) s = .next
      (((u.responseTaken j x (if e then .bad else u.fieldCheck j x l)).fieldSettle j).discEnd j) := by
  intro u
  show execFieldResponse j l e d s = _
  unfold execFieldResponse
  rw [hx]
  refine (if_neg (by simp [hs])).trans ?_
  dsimp only
  generalize (if e = true then FRsp.bad else State.fieldCheck _ _ _ _) = r
  cases r <;> rfl

theorem exec_fieldResponse_good {p : List Byte} : let u := s.until ((s.fport j).reqEnd + d)
    u.fieldCheck j x l = .good p →
    exec (.fieldResponse j l false d) s = .next (((u.fieldGood j x p).fieldSettle j).discEnd j) := by
  intro u h
  rw [exec_fieldResponse hx hs, if_neg Bool.false_ne_true, h]
  rfl

/-- A response with ERR is a failed attempt that names its fault. -/
theorem exec_fieldResponse_err {c : Nat} : let u := s.until ((s.fport j).reqEnd + d)
    u.fieldCheck j x l = .err c → exec (.fieldResponse j l false d) s =
      .next ((((u.fault 0x0A09 x.addr).attemptFails j x).fieldSettle j).discEnd j) := by
  intro u h
  rw [exec_fieldResponse hx hs, if_neg Bool.false_ne_true, h]
  rfl

theorem exec_fieldResponse_bad : let u := s.until ((s.fport j).reqEnd + d)
    e = true ∨ u.fieldCheck j x l = .bad →
    exec (.fieldResponse j l e d) s = .next (((u.attemptFails j x).fieldSettle j).discEnd j) := by
  intro u h
  have bad : (if e then .bad else u.fieldCheck j x l) = .bad := by
    rcases h with rfl | h
    · rfl
    · rw [h, ite_self]
  rw [exec_fieldResponse hx hs, bad]
  rfl

theorem exec_fieldTimeout : let u := (s.until ((s.fport j).reqEnd + 9600)).incSat (F.FIELD_PORT_TOCNT_COUNT j)
    exec (.fieldTimeout j) s =
      .next (((if x.typ = 6 then u.lineIdle j else u.fieldFail j x).fieldSettle j).discEnd j) := by
  show execFieldTimeout j s = _
  unfold execFieldTimeout
  rw [hx]
  exact if_neg (by simp [hs])
end

section
variable {j : Nat} {x : FTxn}

theorem attemptFails_probe (h : x.typ = 6) : s.attemptFails j x = s.discSplit j x := if_pos h
theorem attemptFails_other (h : x.typ ≠ 6) : s.attemptFails j x = s.fieldFail j x := if_neg h

/-- A first failure makes the transaction due again. -/
theorem fieldFail_repeats (h : x.retry = false) : (s.fieldFail j x).fport j =
    let u := s.incSat (F.FIELD_PORT_ERRCNT_COUNT j)
    { u.fport j with
      txn := some { x with retry := true, sent := false }, lastAt := u.now, freeAt := u.now + u.bitTimes j 30 } := by
  unfold State.fieldFail
  rw [if_neg (by simp [h])]
  simp only [State.lineIdle, fport_setFport_same]

theorem fieldFail_lasting (h : x.retry = true) : s.fieldFail j x = s.fieldLasting j x := if_pos h
end
end

/-! ### Discovery and cycles (R416, R423, R426) -/
section
variable {s : State} {j : Port16}

theorem exec_discoveryRound_stopped (h : s.fieldRunning j = false) : exec (.discoveryRound j) s = .next s :=
  if_pos (by simp [h])

theorem exec_discoveryRound (h : s.fieldRunning j = true) : let u := s.until ((s.fport j).discAt + 1000 * msCounts)
    exec (.discoveryRound j) s = .next ((u.setFport j { u.fport j with
      stack := [(0, 0)], asg := none, discAt := u.now
      txn := (u.fport j).txn.map (fun x => { x with stale := x.typ == 6 }) }).putB (F.FIELD_PORT_STAT_DISC j) true) :=
  if_neg (by simp [h])

theorem exec_fieldCycleStart_single (h : s.bitAt F.FIELD_CTL_PAIR (j.val % 8) = false) : exec (.fieldCycleStart j) s =
    .next (if s.fieldRunning j = true ∧ s.cycleFree j = true then s.cycleStart j else s) := by
  show execFieldCycleStart j s = _
  unfold execFieldCycleStart
  rw [h, apply_ite Host.Outcome.next]
  simp [loopL]

theorem loopL_pair {α : Type} (a b : α) (f : α → State → State) (s : State) : loopL [a, b] f s = f b (f a s) := rfl

/-- Both ports of a pair start, or neither. -/
theorem exec_fieldCycleStart_pair (h : s.bitAt F.FIELD_CTL_PAIR (j.val % 8) = true)
    (hr : s.fieldRunning (j.val % 8) = true) (hf : s.cycleFree (j.val % 8) = true)
    (hr' : s.fieldRunning (j.val % 8 + 8) = true) (hf' : s.cycleFree (j.val % 8 + 8) = true) :
    exec (.fieldCycleStart j) s = .next ((s.cycleStart (j.val % 8)).cycleStart (j.val % 8 + 8)) := by
  show execFieldCycleStart j s = _
  unfold execFieldCycleStart
  rw [h, if_pos rfl, if_pos (by simp [hr, hf, hr', hf']), loopL_pair]
end

/-! ### The signal map (R431, R433 to R437) -/
section
variable {s : State}

theorem exec_fieldSwrV {v w : Word} {u : State} (hu : s.up R.FIELD_SWR_V) (ht : s.takeWord R.FIELD_SWR_V v = (w, u)) :
    exec (.fieldSwrV v) s = .next (u.sigWrite (u.get F.FIELD_SWR_A_ADDR) w).2 := by
  show execFieldSwrV v s = _
  exact onRegW_up hu ht

/-- The internal pockets take no writes. -/
theorem sigWrite_internal {a : Nat} (h : 4064 ≤ a / 256) (v : Word) :
    s.sigWrite a v = (false, (s.incSat F.FIELD_WRREJ_COUNT).fault 0x0A0C 0) :=
  if_pos (by simp [Nat.not_lt.2 h])

theorem exec_fieldClr (hu : s.up R.FIELD_CLR) (c : Bool) : exec (.fieldClr c) s = .next (if c then s.fieldClear else s) := by
  show execFieldClr c s = _
  exact onReg_up hu

theorem sigSweep_old {a : Nat} : let u := s.sigTouch a
    (u.sigAt a).q ≠ 0 → 32768 ≤ (u.stampNow + 65536 - (u.sigAt a).stamp % 65536) % 65536 →
    s.sigSweep a = u.setSig a { u.sigAt a with old := true } := by
  intro u hq ha
  exact if_pos (by rw [Bool.and_eq_true, decide_eq_true_eq, decide_eq_true_eq]; exact ⟨hq, ha⟩)

section
variable {a : BitVec 20}

theorem exec_subscriptionReport_held (hh : (mget (0, false) s.subT a.toNat).2 = true) (hs : s.subscribed a.toNat = true) :
    exec (.subscriptionReport a) s = .next ((s.until (s.subEnd a.toNat)).subSend a.toNat) :=
  if_pos (by simp [hh, hs])

theorem exec_subscriptionReport_none (h : (mget (0, false) s.subT a.toNat).2 = false ∨ s.subscribed a.toNat = false) :
    exec (.subscriptionReport a) s = .next s :=
  if_neg (by rcases h with h | h <;> simp [h])
end
end

/-- Settles O52: an equation for each command where its conditions hold, with those of a request as the record of its port. -/
theorem fieldPorts : Obligations.FieldPorts :=
  ⟨fun _ j _ _ h => ⟨fun hn => (exec_request (j := j) h).trans (congrArg _ (fieldSend_notDue hn)),
      fun _ hx ha => ⟨_, exec_request (j := j) h, fieldSend_port hx ha⟩⟩,
    fun _ _ _ _ _ h => ⟨exec_fieldResponse_silent h, exec_fieldTimeout_silent h⟩,
    fun _ _ _ _ _ hx hs => ⟨fun _ => exec_fieldResponse_good hx hs,
      fun _ h ht => attemptFails_other ht ▸ exec_fieldResponse_bad hx hs h,
      fun _ h ht => attemptFails_probe ht ▸ exec_fieldResponse_bad hx hs h,
      fun _ h ht => attemptFails_other ht ▸ exec_fieldResponse_err hx hs h,
      fun _ h ht => attemptFails_probe ht ▸ exec_fieldResponse_err hx hs h⟩,
    fun _ _ _ => exec_fieldTimeout, fun _ _ _ => fieldFail_repeats, fun _ _ _ => fieldFail_lasting,
    fun _ _ => exec_discoveryRound_stopped, fun _ _ => exec_discoveryRound, fun _ _ => exec_fieldCycleStart_single,
    fun _ _ => exec_fieldCycleStart_pair, fun _ => rfl, fun _ _ _ hu _ => exec_fieldSwrV hu, fun _ _ v h => sigWrite_internal h v,
    fun _ hu => ⟨exec_fieldClr hu true, exec_fieldClr hu false⟩, fun _ => rfl, fun _ _ => sigSweep_old, fun _ => rfl,
    fun _ _ => exec_subscriptionReport_held, fun _ _ => exec_subscriptionReport_none⟩

end Sys2Proof.Machine
end

/-! The proofs of the statements on the management processor (spec/13_cox_management.md), first part: the mailbox and the
maintenance activities. -/
section
namespace Sys2Proof.Machine

/-! ### The mailbox (R469) -/
section
variable {s : State}

section
variable {p : PairNo} {v w : Word} {u : State} (hu : s.up (R.MBOX_REQ p)) (ht : s.takeWord (R.MBOX_REQ p) v = (w, u))
include hu ht

theorem exec_mboxReqWrite : exec (.mboxReqWrite p v) s = .next (u.mboxReq p w) := by
  show execMboxReqWrite p v s = _
  exact onRegW_up hu ht

theorem exec_mboxReqWrite_pending (h : u.mboxPending p = true) :
    exec (.mboxReqWrite p v) s = .next (u.raise (F.MBOX_RSP_OVF p)) :=
  (exec_mboxReqWrite hu ht).trans (congrArg _ (if_pos h))

theorem exec_mboxReqWrite_posts (h : u.mboxPending p = false) : exec (.mboxReqWrite p v) s =
    .next ((u.put (F.MBOX_REQ_SEQ p) (bitsOf w.toNat 15 8)).put (F.MBOX_REQ_CODE p) (bitsOf w.toNat 7 0)) :=
  (exec_mboxReqWrite hu ht).trans (congrArg _ (if_neg (by simp [h])))
end

/-- A command of the Cox for one CODE serves the next slot. -/
theorem exec_mbox {i : Instr} (h : i ∈ [Instr.mboxMaintenance, .mboxUserLog, .mboxRest, .mboxFirmwareChunk,
    .mboxFirmwareActivate, .mboxDumpSlotLock]) : ∃ c f, exec i s = .next (s.mboxServe c f) := by
  simp only [List.mem_cons, List.not_mem_nil, or_false] at h
  rcases h with rfl | rfl | rfl | rfl | rfl | rfl <;> exact ⟨_, _, rfl⟩

theorem mboxServe_idle {c : Nat} {f : Nat → State → State} (h : s.mboxNext = none ∨ s.coxUp = false) :
    s.mboxServe c f = s := by
  unfold State.mboxServe
  cases hn : s.mboxNext with
  | none => rfl
  | some p =>
    have hu : s.coxUp = false := h.resolve_left (by simp [hn])
    exact if_pos (by simp [hu])

/-- The request for Rest is taken exactly where its conditions hold. -/
theorem restRequest_taken (s : State) : s.restRequest.1 = s.restOk := by
  unfold State.restRequest
  split
  · next h => exact h.symm
  · next h =>
    rw [Bool.not_eq_true] at h
    split <;> exact h.symm

section
variable {p : Nat} (hn : s.mboxNext = some p) (hu : s.coxUp = true)
include hn hu

theorem mboxServe_unlisted {c : Nat} {f : Nat → State → State}
    (hc : s.get (F.MBOX_REQ_CODE p) = 0 ∨ 6 < s.get (F.MBOX_REQ_CODE p)) : s.mboxServe c f = s.mboxAnswer p 4 := by
  unfold State.mboxServe
  rw [hn]
  exact (if_neg (by simp [hu])).trans (if_pos (by simpa using hc))

theorem mboxServe_listed {c : Nat} {f : Nat → State → State} (hc : s.get (F.MBOX_REQ_CODE p) = c) (h0 : c ≠ 0) (h6 : c ≤ 6) :
    s.mboxServe c f = f p s := by
  unfold State.mboxServe
  rw [hn]
  exact (if_neg (by simp [hu])).trans ((if_neg (by simp [hc, h0, h6])).trans (if_pos hc))

theorem exec_mboxMaintenance (hc : s.get (F.MBOX_REQ_CODE p) = 1) : let a := s.mboxArg p 0
    exec .mboxMaintenance s = .next (if s.mboxMaintOk a (s.mboxArg p 1) (s.mboxArg p 2) (s.mboxArg p 3) = true then
      s.mboxSubmit p { act := a, crew := if a < 16 then devCrew else s.mboxArg p 1, a1 := s.mboxArg p 1
                       a2 := s.mboxArg p 2, a3 := s.mboxArg p 3 }
      else s.mboxAnswer p 4) := by
  intro a
  refine congrArg Host.Outcome.next ((mboxServe_listed hn hu hc (by decide) (by decide)).trans ?_)
  cases h : s.mboxMaintOk a (s.mboxArg p 1) (s.mboxArg p 2) (s.mboxArg p 3)
  · exact if_pos (by simp [a, h])
  · exact if_neg (by simp [a, h])

theorem exec_mboxUserLog (hc : s.get (F.MBOX_REQ_CODE p) = 2) : exec .mboxUserLog s =
    .next ((s.logRec 11 (s.mboxArg p 0 % 65536) p (s.mboxArg p 1 % 65536)).mboxAnswer p 0) :=
  congrArg _ (mboxServe_listed hn hu hc (by decide) (by decide))

theorem exec_mboxRest (hc : s.get (F.MBOX_REQ_CODE p) = 3) :
    exec .mboxRest s = .next (s.restRequest.2.mboxAnswer p (if s.restOk = true then 0 else 6)) := by
  refine congrArg Host.Outcome.next ((mboxServe_listed hn hu hc (by decide) (by decide)).trans ?_)
  rw [← restRequest_taken s]
  obtain ⟨_ | _, u⟩ := s.restRequest <;> rfl

theorem exec_mboxFirmwareChunk (hc : s.get (F.MBOX_REQ_CODE p) = 4) (h8 : s.mboxArg p 1 % 8 = 0) (hl : 8 ≤ s.mboxArg p 1)
    (hm : s.mboxArg p 1 ≤ 65536) (he : s.mboxArg p 2 + s.mboxArg p 1 ≤ 1048576)
    (hr : rangeInSram (s.mboxArg p 0) (s.mboxArg p 1) = true) : exec .mboxFirmwareChunk s =
      .next (s.mboxSubmit p { act := 1, a1 := s.mboxArg p 0, a2 := s.mboxArg p 1, a3 := s.mboxArg p 2 }) :=
  congrArg _ ((mboxServe_listed hn hu hc (by decide) (by decide)).trans (if_pos (by simp [h8, hl, hm, he, hr])))

theorem exec_mboxFirmwareActivate (hc : s.get (F.MBOX_REQ_CODE p) = 5) : let b := 1 - s.get F.CRYPTO_FW_RSLOT
    let u := s.putB (if b = 0 then F.CRYPTO_FW_OKA else F.CRYPTO_FW_OKB) (s.fwOk b)
    exec .mboxFirmwareActivate s = .next (if s.fwOk b = true then
      ((u.setFwState { u.fwState with tslot := b, trialv := true, tries := 0 }).logFw 2 b).mboxAnswer p 0
      else u.mboxAnswer p 6) := by
  intro b u
  show execMboxFirmwareActivate s = _
  rw [execMboxFirmwareActivate, mboxServe_listed hn hu hc (by decide) (by decide)]

theorem exec_mboxDumpSlotLock (hc : s.get (F.MBOX_REQ_CODE p) = 6) (hk : s.mboxArg p 0 < 4) (hv : s.mboxArg p 1 < 2)
    (hd : s.dumpValid (s.mboxArg p 0) = true) :
    let h := (s.bytes (dumpAt (s.mboxArg p 0)) 60).take 6 ++ leBytes 2 (s.mboxArg p 1) ++
      (s.bytes (dumpAt (s.mboxArg p 0)) 60).drop 8
    exec .mboxDumpSlotLock s = .next ((s.mramTry (dumpAt (s.mboxArg p 0)) (h ++ leBytes 4 (crc32 h))).mboxAnswer p 0) := by
  intro h
  show execMboxDumpSlotLock s = _
  rw [execMboxDumpSlotLock, mboxServe_listed hn hu hc (by decide) (by decide)]
  dsimp only
  rw [if_neg (by simp [hk, hv]), if_pos hd]
end
end

/-! ### The lock (R482, R483) -/
section
variable {s : State} {r : MaintReq}

theorem maintSubmit_dup (h : (s.maintRun ++ s.maintQ).any (fun x => x.act == r.act && x.crew == r.crew) = true) :
    s.maintSubmit r = (.dup, s) := if_pos h

section
variable (hd : (s.maintRun ++ s.maintQ).any (fun x => x.act == r.act && x.crew == r.crew) = false)
include hd

theorem maintSubmit_starts (hc : (s.maintRun ++ s.maintQ).any (maintConflict r) = false) :
    s.maintSubmit r = (.started, s.maintStart r) :=
  (if_neg (by rw [hd]; exact Bool.false_ne_true)).trans (if_pos (by rw [hc]; rfl))

theorem maintSubmit_waits (hc : (s.maintRun ++ s.maintQ).any (maintConflict r) = true) : s.maintSubmit r =
    if s.maintQ.length < 4 then (.queued, State.showLock { s with maintQ := s.maintQ ++ [r] }) else (.refused, s) :=
  (if_neg (by rw [hd]; exact Bool.false_ne_true)).trans (if_neg (by rw [hc]; exact Bool.false_ne_true))
end
end

/-! ### The work of the activities (R475 to R489, R231) -/
section
variable {s : State} {a : Nat} {r : MaintReq}

/-- A command that does an activity's work lets the activity begin. -/
theorem exec_maint {i : Instr} (h : (a, i) ∈ [(1, Instr.firmwareImageWrite), (2, .rigWrite), (3, .mramScrub),
    (4, .journalCompaction), (6, .logExport), (16, .offStateDiagnostics), (17, .encoderCalibration)]) :
    ∃ f, exec i s = .next (s.maintBegin a f) := by
  simp only [List.mem_cons, Prod.mk.injEq, List.not_mem_nil, or_false] at h
  rcases h with ⟨rfl, rfl⟩ | ⟨rfl, rfl⟩ | ⟨rfl, rfl⟩ | ⟨rfl, rfl⟩ | ⟨rfl, rfl⟩ | ⟨rfl, rfl⟩ | ⟨rfl, rfl⟩ <;> exact ⟨_, rfl⟩

theorem maintBegin_idle {f : MaintReq → State → State} (h : s.maintReady a = none ∨ s.coxUp = false) :
    s.maintBegin a f = s := by
  unfold State.maintBegin
  cases hr : s.maintReady a with
  | none => rfl
  | some r =>
    have hu : s.coxUp = false := h.resolve_left (by simp [hr])
    exact if_pos (by simp [hu])

/-- The activity's request, its work begun. -/
def MaintReq.begins (r : MaintReq) : MaintReq := { r with began := true }

theorem maintBegin_ready {f : MaintReq → State → State} (hr : s.maintReady a = some r) (hu : s.coxUp = true) :
    s.maintBegin a f = f r (s.maintSet a r.crew MaintReq.begins) := by
  unfold State.maintBegin
  rw [hr]
  exact if_neg (by simp [hu])

section
variable (hu : s.coxUp = true)
include hu

theorem exec_firmwareImageWrite (hr : s.maintReady 1 = some r) {l : List Byte} {z : State}
    (hb : (s.maintSet 1 r.crew MaintReq.begins).coxBytes r.a1 r.a2 = (some l, z)) : exec .firmwareImageWrite s =
      .next (z.addChunks (chunkOwner r) (fwSlot (1 - z.get F.CRYPTO_FW_RSLOT) + r.a3) l) := by
  refine congrArg Host.Outcome.next ((maintBegin_ready hr hu).trans ?_)
  rw [hb]

theorem exec_rigWrite_order (hr : s.maintReady 2 = some r) {q : Nat} {x : OrderRec} (hq : r.src = .order q) :
    let u := s.maintSet 2 r.crew MaintReq.begins
    u.orderOf q = some x → exec .rigWrite s =
      .next ((u.addChunks (chunkOwner r) (rigBase false r.a1 + leAt x.body 4 4) (x.body.drop 8)).addChunks (chunkOwner r)
        (rigBase true r.a1 + leAt x.body 4 4) (x.body.drop 8)) := by
  intro u hx
  refine congrArg Host.Outcome.next ((maintBegin_ready hr hu).trans ?_)
  dsimp only
  rw [hq]
  dsimp only
  rw [hx]

theorem exec_mramScrub (hr : s.maintReady 3 = some r) :
    exec .mramScrub s = .next ((s.maintSet 3 r.crew MaintReq.begins).scrubStep (chunkOwner r)) :=
  congrArg _ (maintBegin_ready hr hu)

theorem exec_journalCompaction (hr : s.maintReady 4 = some r) : let u := s.maintSet 4 r.crew MaintReq.begins
    exec .journalCompaction s = .next (if u.jFree < batchesSize u.compBatches then u.maintFail r
      else u.compWrite (chunkOwner r) u.compBatches) :=
  congrArg _ (maintBegin_ready hr hu)

theorem exec_sramBankTest_bad (hr : s.maintReady 5 = some r) (b : Fin 2) : exec (.sramBankTest (some b)) s =
    .next ((((s.maintSet 5 r.crew MaintReq.begins).marchTest r.a2 r.a3).fault 0x0C50 b.val).maintFail r) :=
  congrArg _ (maintBegin_ready hr hu)

theorem exec_sramBankTest_good (hr : s.maintReady 5 = some r) : exec (.sramBankTest none) s =
    .next ((s.maintSet 5 r.crew MaintReq.begins).marchTest r.a2 r.a3) :=
  congrArg _ (maintBegin_ready hr hu)

theorem exec_logExport (hr : s.maintReady 6 = some r) : exec .logExport s = .next (loopN (r.a3 % 131072)
    (fun a v => v.devWrite (r.a1 + 16 * a) (v.bytes (logAt ((r.a2 + a) % 65536)) 16))
    (s.maintSet 6 r.crew MaintReq.begins)) :=
  congrArg _ (maintBegin_ready hr hu)

theorem exec_capsizeDump_written (hr : s.maintReady 7 = some r) {l k : List Byte} {z : WrRes}
    (hh : s.bit F.MASTER_JSTAT_HALT = false) : let u := s.maintSet 7 r.crew MaintReq.begins
    u.writeDump 4 l k z = (true, (u.writeDump 4 l k z).2) →
    exec (.capsizeDump l k z) s = .next (u.writeDump 4 l k z).2 := by
  intro u hw
  refine (if_neg (by simp [hh])).trans (congrArg Host.Outcome.next ((maintBegin_ready hr hu).trans ?_))
  rw [hw]

theorem exec_offStateDiagnostics (hr : s.maintReady 16 = some r) : let u := s.maintSet 16 r.crew MaintReq.begins
    let k := r.a2 % 16
    u.up (R.YILOS_DIAG_CTL k) → exec .offStateDiagnostics s =
      .next ((u.put (F.YILOS_DIAG_CTL_LEGS k) (bitsOf r.a2 11 8)).diagStart k) :=
  fun h => congrArg Host.Outcome.next ((maintBegin_ready hr hu).trans (if_pos h))

theorem exec_encoderCalibration (hr : s.maintReady 17 = some r) {l : List Byte} {z : State}
    (hb : (s.maintSet 17 r.crew MaintReq.begins).coxBytes r.a2 256 = (some l, z)) : exec .encoderCalibration s =
      .next ((z.addChunks (chunkOwner r) (keysAt 0 + 0x2000 + 256 * r.crew) l).addChunks (chunkOwner r)
        (keysAt 1 + 0x2000 + 256 * r.crew) l) := by
  refine congrArg Host.Outcome.next ((maintBegin_ready hr hu).trans ?_)
  rw [hb]
end

/-- A scrub step over memory without errors moves on. -/
theorem scrubStep_clean (hc : s.eccCe = []) (he : s.eccUe = []) (m : Nat) :
    s.scrubStep m = { s with scrubPos := (s.scrubPos + 1) % 4096 } := by
  unfold State.scrubStep
  dsimp only
  rw [hc, he]
  rfl
end

/-! ### The end of an activity (R483) -/
section
variable {s : State} {a c : Byte} {r : MaintReq}

theorem exec_maintenanceActivityEnd_none
    (h : s.maintRun.find? (fun r => r.act == a.toNat && r.crew == c.toNat) = none) :
    exec (.maintenanceActivityEnd a c) s = .next s := by
  show execMaintenanceActivityEnd a c s = _
  rw [execMaintenanceActivityEnd, h]

/-- The outcome of an activity goes to who asked for it. -/
def State.maintAnswer (s : State) (r : MaintReq) : State :=
  match r.src with
  | .mbox p => s.put (F.MBOX_RSP_RESULT p) (if r.out = 1 then 0 else if r.out = 2 then 5 else 6)
  | .order q => match s.orderOf q with
    | some o => s.orderDone o []
    | none => s
  | .auto => s

/-- An activity that ends, but for what a firmware image and a compaction do besides. -/
theorem exec_maintenanceActivityEnd (hf : s.maintRun.find? (fun r => r.act == a.toNat && r.crew == c.toNat) = some r)
    (hd : s.maintDone r = true) (h1 : r.act ≠ 1) (h4 : r.act ≠ 4) :
    let u := State.logRec { s with maintRun := s.maintRun.filter (fun x => !(x.act == r.act && x.crew == r.crew)) } 5
      r.act r.crew r.out
    exec (.maintenanceActivityEnd a c) s = .next (u.maintAnswer r).maintScan.askCompaction := by
  have noFirmware : ¬ (decide (r.act = 1) && decide (r.out = 1)) = true := by simp [h1]
  show execMaintenanceActivityEnd a c s = _
  rw [execMaintenanceActivityEnd, hf]
  refine (if_neg (by simp [hd])).trans ?_
  simp only [if_neg noFirmware, if_neg h4]
  rfl

theorem maintAnswer_auto (h : r.src = .auto) : s.maintAnswer r = s := by
  rw [State.maintAnswer, h]

theorem maintAnswer_mbox {p : Nat} (h : r.src = .mbox p) :
    s.maintAnswer r = s.put (F.MBOX_RSP_RESULT p) (if r.out = 1 then 0 else if r.out = 2 then 5 else 6) := by
  rw [State.maintAnswer, h]
end

/-- Settles O55: an equation for each command where its conditions hold, and for each answer of the lock. -/
theorem maintenanceAndMailbox : Obligations.MaintenanceAndMailbox := by
  refine ⟨fun _ _ _ _ hu _ ht => ⟨exec_mboxReqWrite_pending hu ht, exec_mboxReqWrite_posts hu ht⟩,
    fun _ _ h => ?serves, fun _ _ => exec_mboxMaintenance, fun _ _ => exec_mboxUserLog, fun _ _ => exec_mboxRest,
    fun _ _ => exec_mboxFirmwareChunk, fun _ _ => exec_mboxFirmwareActivate, fun _ _ => exec_mboxDumpSlotLock,
    fun _ _ => ⟨maintSubmit_dup, fun hd => ⟨maintSubmit_starts hd,
      fun hc hl => (maintSubmit_waits hd hc).trans (if_pos hl),
      fun hc hl => (maintSubmit_waits hd hc).trans (if_neg (Nat.not_lt.2 hl))⟩⟩,
    fun _ _ _ h hi => ?begins, fun _ _ _ _ hr hu => exec_firmwareImageWrite hu hr,
    fun _ _ _ _ hr hu => exec_rigWrite_order hu hr, fun _ _ hr hu => exec_mramScrub hu hr,
    fun _ m hc he => scrubStep_clean hc he m, fun _ _ hr hu => exec_journalCompaction hu hr,
    fun _ _ hr hu => ⟨exec_sramBankTest_bad hu hr, exec_sramBankTest_good hu hr⟩, fun _ _ hr hu => exec_logExport hu hr,
    fun _ _ _ _ _ hr hu => exec_capsizeDump_written hu hr, fun _ _ hr hu => exec_offStateDiagnostics hu hr,
    fun _ _ _ _ hr hu => exec_encoderCalibration hu hr, fun _ _ _ => exec_maintenanceActivityEnd_none,
    fun _ _ _ _ hf hd h1 h4 => ⟨fun h => ?auto, fun _ h => ?mbox⟩⟩
  case serves =>
    obtain ⟨c, f, hi⟩ := exec_mbox h
    exact ⟨fun h => hi.trans (congrArg _ (mboxServe_idle h)),
      fun _ hn hu hc => hi.trans (congrArg _ (mboxServe_unlisted hn hu hc))⟩
  case begins =>
    obtain ⟨f, hf⟩ := exec_maint h
    exact hf.trans (congrArg _ (maintBegin_idle hi))
  case auto => rw [exec_maintenanceActivityEnd hf hd h1 h4, maintAnswer_auto h]
  case mbox => rw [exec_maintenanceActivityEnd hf hd h1 h4, maintAnswer_mbox h]

end Sys2Proof.Machine
end

/-! The proofs of the statements on the management processor (spec/13_cox_management.md), second part: housekeeping, non-urgent
writes, firmware, live replacement and dumps. -/
section
namespace Sys2Proof.Machine

/-! ### Housekeeping (R470, R471) -/
section
variable {s : State}

theorem exec_hk_off (h : s.domainRun 3 = false) : exec .hkRound s = .next s ∧ ∀ c v, exec (.hkSample c v) s = .next s := by
  have off : (!s.domainRun 3) = true := by simp [h]
  exact ⟨if_pos off, fun _ _ => if_pos off⟩

theorem exec_hkRound (h : s.domainRun 3 = true) : let u := s.until s.hkAt
    let v := if 16 < u.hkCe then u.fault 0x0105 0 else u
    exec .hkRound s = .next (State.incWrap { v with hkAt := v.hkAt + hkPeriod, hkCe := 0 } F.HK_ROUNDS_COUNT).pocketHk := by
  show execHkRound s = _
  exact if_neg (by simp [h])

/-- A sample is stored, shows as valid and is held against its limits. -/
def State.hkStored (s : State) (c x : Nat) : State := ((s.put (F.HK_CH_V c) x).putB (F.HK_CH_VALID c) true).hkLimit c

section
variable {c : Fin 48} (hd : s.domainRun 3 = true)
include hd

/-- A sample of a channel that is no tile's: the die's drive the level, and they and the MRAM's the window. -/
theorem exec_hkSample (v : BitVec 16) (ht : c.val < 28 ∨ 44 ≤ c.val) :
    let u := (s.until (s.hkAt - hkPeriod + 32000 * c.val)).hkStored c v.toNat
    let w := if c.val < 12 then u.hkLevel else u
    exec (.hkSample c v) s = .next (if c.val < 12 || 46 ≤ c.val then w.hkWindow else w) := by
  have noTile : (28 ≤ c.val && c.val < 44) = false := by
    rcases ht with h | h <;> simp <;> omega
  show execHkSample c v s = _
  unfold execHkSample
  rw [if_neg (by simp [hd])]
  dsimp only
  rw [noTile]
  rfl

theorem exec_hkSample_die (v : BitVec 16) (hc : c.val < 12) :
    let u := s.until (s.hkAt - hkPeriod + 32000 * c.val)
    exec (.hkSample c v) s = .next (u.hkStored c v.toNat).hkLevel.hkWindow := by
  intro u
  rw [exec_hkSample hd v (.inl (by omega)), if_pos (by simp [hc]), if_pos hc]

theorem exec_hkSample_other (v : BitVec 16) (hl : 12 ≤ c.val) (hc : c.val < 28 ∨ c.val = 44 ∨ c.val = 45) :
    let u := s.until (s.hkAt - hkPeriod + 32000 * c.val)
    exec (.hkSample c v) s = .next (u.hkStored c v.toNat) := by
  intro u
  rw [exec_hkSample hd v (by omega), if_neg (by simp; omega), if_neg (by omega)]

/-- A tile's channel takes what the tile sent, while its link is up. -/
theorem exec_hkSample_tile (v : BitVec 16) (hl : 28 ≤ c.val) (hc : c.val < 44) :
    let u := s.until (s.hkAt - hkPeriod + 32000 * c.val)
    exec (.hkSample c v) s = if u.linkState (c.val - 28) ≠ lUP then .next (u.putB (F.HK_CH_VALID c) false)
      else .next (u.hkStored c (u.get (F.YILOS_TEL_VAL (c.val - 28) 4))) := by
  intro u
  have tile : (28 ≤ c.val && c.val < 44) = true := by simp [hl, hc]
  have noDie : ¬ c.val < 12 := by omega
  have noMram : ¬ (decide (c.val < 12) || decide (46 ≤ c.val)) = true := by simp; omega
  show execHkSample c v s = _
  unfold execHkSample
  rw [if_neg (by simp [hd])]
  dsimp only
  rw [tile, if_neg noMram, if_neg noDie]
  simp [u, State.hkStored]
end

section
variable {c : Nat}

theorem hkLimit_outside (h : hkNum c (s.get (F.HK_CH_V c)) < hkNum c (s.get (F.HK_LIM_LO c)) ∨
    hkNum c (s.get (F.HK_LIM_HI c)) < hkNum c (s.get (F.HK_CH_V c))) : s.hkLimit c =
      if s.hkOut c = true then s else ((s.setHkOut c true).raise F.HK_EVT_LIMIT).fault 0x0C04 c := by
  unfold State.hkLimit
  dsimp only
  rw [decide_eq_true h]
  cases s.hkOut c <;> rfl

theorem hkLimit_inside (hl : hkNum c (s.get (F.HK_LIM_LO c)) ≤ hkNum c (s.get (F.HK_CH_V c)))
    (hh : hkNum c (s.get (F.HK_CH_V c)) ≤ hkNum c (s.get (F.HK_LIM_HI c))) : s.hkLimit c = s.setHkOut c false := by
  unfold State.hkLimit
  dsimp only
  rw [decide_eq_false (not_or.2 ⟨Int.not_lt.2 hl, Int.not_lt.2 hh⟩)]
  rfl
end
end

/-! ### The thermal level and the write window (R472 to R475) -/
section
variable {s : State}

/-- The level machine for a die temperature, TMAX stored. -/
def State.levelStep (s : State) (a : Int) : State :=
  let l := s.get F.HK_STAT_LEVEL
  if l < 3 ∧ 130 * 64 ≤ a then
    { ((s.hkSetLevel 3 a).fault 0x0C03 0).putB F.SAFETY_MISC_THREQ true with thrAt := some s.now }
  else if l < 2 ∧ 118 * 64 ≤ a then (s.hkSetLevel 2 a).fault 0x0C02 0
  else if l = 0 ∧ 110 * 64 ≤ a then (s.hkSetLevel 1 a).fault 0x0C01 0
  else if l = 1 ∧ a ≤ 105 * 64 then s.hkSetLevel 0 a
  else if l = 2 ∧ a ≤ 113 * 64 then s.hkSetLevel 1 a
  else s

theorem hkLevel_step (s : State) : let a := maxOf (s.hkTemps (List.range 12))
    s.hkLevel = (s.put F.HK_TMAX_T (wrapInt 16 a)).levelStep a := by
  intro a
  simp only [State.hkLevel, State.levelStep, Bool.and_eq_true, decide_eq_true_eq]
  rfl

section
variable {a : Int}

theorem levelStep_shutdown (hl : s.get F.HK_STAT_LEVEL < 3) (ha : 130 * 64 ≤ a) : s.levelStep a =
    { ((s.hkSetLevel 3 a).fault 0x0C03 0).putB F.SAFETY_MISC_THREQ true with thrAt := some s.now } := if_pos ⟨hl, ha⟩

theorem levelStep_throttle (hl : s.get F.HK_STAT_LEVEL < 2) (ha : 118 * 64 ≤ a) (hb : a < 130 * 64) :
    s.levelStep a = (s.hkSetLevel 2 a).fault 0x0C02 0 :=
  (if_neg (by omega)).trans (if_pos ⟨hl, ha⟩)

theorem levelStep_warning (hl : s.get F.HK_STAT_LEVEL = 0) (ha : 110 * 64 ≤ a) (hb : a < 118 * 64) :
    s.levelStep a = (s.hkSetLevel 1 a).fault 0x0C01 0 :=
  (if_neg (by omega)).trans ((if_neg (by omega)).trans (if_pos ⟨hl, ha⟩))

theorem levelStep_cool (hl : s.get F.HK_STAT_LEVEL = 1) (ha : a ≤ 105 * 64) : s.levelStep a = s.hkSetLevel 0 a :=
  (if_neg (by omega)).trans ((if_neg (by omega)).trans ((if_neg (by omega)).trans (if_pos ⟨hl, ha⟩)))

theorem levelStep_cooler (hl : s.get F.HK_STAT_LEVEL = 2) (ha : a ≤ 113 * 64) : s.levelStep a = s.hkSetLevel 1 a :=
  (if_neg (by omega)).trans ((if_neg (by omega)).trans ((if_neg (by omega)).trans ((if_neg (by omega)).trans (if_pos ⟨hl, ha⟩))))

/-- SHUTDOWN lasts. -/
theorem levelStep_stays (hl : s.get F.HK_STAT_LEVEL = 3) : s.levelStep a = s :=
  (if_neg (by omega)).trans ((if_neg (by omega)).trans ((if_neg (by omega)).trans ((if_neg (by omega)).trans (if_neg (by omega)))))
end

section
variable {l : List Int} (hl : s.hkTemps (List.range 12 ++ [46, 47]) = l) (hn : l ≠ [])
include hl hn

theorem hkWindow_closes (hw : s.bit F.HK_STAT_WIN = true) (ht : 120 * 64 < maxOf l ∨ minOf l < -(40 * 64)) :
    s.hkWindow = ((s.setWindow false).raise F.HK_EVT_WINCHG).fault 0x0C05 0 := by
  unfold State.hkWindow
  rw [hl]
  exact (if_neg (by simpa using hn)).trans ((if_pos hw).trans (if_pos (by simpa using ht)))

theorem hkWindow_opens (hw : s.bit F.HK_STAT_WIN = false) (hx : maxOf l ≤ 118 * 64) (hm : -(38 * 64) ≤ minOf l) :
    s.hkWindow = ((s.setWindow true).raise F.HK_EVT_WINCHG).jKick := by
  unfold State.hkWindow
  rw [hl]
  refine (if_neg (by simpa using hn)).trans ((if_neg (by simp [hw])).trans (if_pos ?_))
  simpa using ⟨hx, hm⟩
end

theorem exec_thermalShutdownRest {a : Nat} (ha : s.thrAt = some a) (hp : s.pw = pwLISTEN ∨ s.pw = pwREADY ∨ s.pw = pwRUN) :
    let u := if s.thermalQuiet = true then s else s.until (a + 201 * msCounts)
    exec .thermalShutdownRest s = .next (State.enterRest { u with thrAt := none } true) := by
  show execThermalShutdownRest s = _
  rw [execThermalShutdownRest, ha]
  exact if_pos (by simpa [or_assoc] using hp)

theorem exec_thermalShutdownRest_none (h : s.thrAt = none) : exec .thermalShutdownRest s = .next s := by
  show execThermalShutdownRest s = _
  rw [execThermalShutdownRest, h]
end

/-! ### Non-urgent writes, wear and scrub (R473, R475 to R478) -/
section
variable {s : State}

@[simp] theorem until_chunks (s : State) (t : Nat) : (s.until t).chunks = s.chunks := by
  unfold State.until; split <;> rfl

/-- The instant at which the next chunk starts: the one before is written, and under throttle a pause is over. -/
def State.chunkStart (s : State) : State :=
  let u := s.until s.chunkAt
  if 2 ≤ u.get F.HK_STAT_LEVEL then u.advance (u.get F.HK_THR_PAUSE * 800) else u

@[simp] theorem chunkStart_chunks (s : State) : s.chunkStart.chunks = s.chunks := by
  unfold State.chunkStart
  dsimp only
  split
  · exact until_chunks _ _
  · exact until_chunks _ _

theorem exec_nvm_closed (h : s.nvmFree = false) (r : WrRes) : exec (.nvmChunkWrite r) s = .next s ∧ exec .wearSave s = .next s :=
  ⟨if_pos (by simp [h]), if_pos (by simp [h])⟩

/-- A chunk of n bytes begins. -/
def State.chunkBegin (s : State) (n : Nat) (r : WrRes) : State :=
  { s.chunkStart with chunkAt := s.chunkStart.now + chunkTime n r }

@[simp] theorem chunkBegin_chunks (s : State) (n : Nat) (r : WrRes) : (s.chunkBegin n r).chunks = s.chunks :=
  chunkStart_chunks s

section
variable (hn : s.nvmFree = true)
include hn

theorem exec_nvmChunkWrite_log (r : WrRes) (hl : 32 ≤ s.logBuf.length) (hu : s.coxUp = true) :
    exec (.nvmChunkWrite r) s = .next ((s.chunkBegin 512 r).logChunk r) := by
  have logs : (decide (32 ≤ s.logBuf.length) && s.coxUp) = true := by simp [hl, hu]
  show execNvmChunkWrite r s = _
  unfold execNvmChunkWrite
  rw [logs]
  exact if_neg (by simp [hn])

theorem exec_nvmChunkWrite_data (r : WrRes) {c : ChunkRec} {l : List ChunkRec} (hl : s.logBuf.length < 32)
    (hc : s.chunks = c :: l) : exec (.nvmChunkWrite r) s = .next ((s.chunkBegin c.data.length r).dataChunk c r) := by
  have noLogs : (decide (32 ≤ s.logBuf.length) && s.coxUp) = false := by simp [Nat.not_le.2 hl]
  show execNvmChunkWrite r s = _
  unfold execNvmChunkWrite
  rw [noLogs]
  refine (if_neg (by simp [hn, hc])).trans ?_
  have first : (s.chunkBegin (s.chunkStart.chunks.headD { addr := 0, data := [], owner := 0 }).data.length r).chunks
      = c :: l := by rw [chunkBegin_chunks, hc]
  show (match (s.chunkBegin (s.chunkStart.chunks.headD { addr := 0, data := [], owner := 0 }).data.length r).chunks with
    | c :: _ => Host.Outcome.next
        ((s.chunkBegin (s.chunkStart.chunks.headD { addr := 0, data := [], owner := 0 }).data.length r).dataChunk c r)
    | [] => _) = _
  rw [first, chunkStart_chunks, hc]
  rfl

theorem exec_wearSave : let u := s.until (s.wearAt + 3600000 * msCounts)
    exec .wearSave s = .next (State.saveWear { u with wearAt := u.now }) := by
  show execWearSave s = _
  exact if_neg (by simp [hn])
end

/-- A chunk that is written goes to its place, at the second try with a retry counted. -/
theorem dataChunk_written (s : State) (c : ChunkRec) :
    s.dataChunk c .ok = State.mramWrite { s with chunks := s.chunks.drop 1 } c.addr c.data ∧
    s.dataChunk c .rewritten = (State.retryT { s with chunks := s.chunks.drop 1 } 2).mramWrite c.addr c.data := ⟨rfl, rfl⟩

theorem saveWear_outcome (s : State) : let x := s.freeIn 0 2
    s.saveWear = (if x.1 = 0 then { x.2 with wearSaved := x.2.wear }
      else if x.1 = 1 then { x.2.retryT 2 with wearSaved := x.2.wear }
      else (x.2.retryL 2).fault 0x0C06 0) := by
  unfold State.saveWear
  obtain ⟨_ | _ | _, u⟩ := s.freeIn 0 2 <;> rfl

theorem exec_scrubStepDue (hu : s.coxUp = true) (hd : s.domainRun 4 = true) {u z : State}
    (ht : s.until (s.scrubAt + s.get F.NVM_SCRUB_HOURS * 703125000) = u)
    (h : u.maintSubmit { act := 3 } = (.started, z) ∨ u.maintSubmit { act := 3 } = (.queued, z)) :
    exec .scrubStepDue s = .next { z with scrubAt := z.now } := by
  show execScrubStepDue s = _
  unfold execScrubStepDue
  rw [if_neg (by simp [hu, hd])]
  dsimp only
  rw [ht]
  rcases h with h | h <;> rw [h]
end

/-! ### Firmware and the life cycle (R487, R489) -/
section
variable {s u : State} {v w : Word}

theorem exec_fwConfirm (hu : s.up R.CRYPTO_FW) (ht : s.takeWord R.CRYPTO_FW v = (w, u)) :
    exec (.fwConfirm v) s = .next (if w.getLsbD 31 = true then u.fwConfirm else u) := by
  show execFwConfirm v s = _
  exact onRegW_up hu ht

section
variable (hu : s.up R.CRYPTO_LCS) (ht : s.takeWord R.CRYPTO_LCS v = (w, u))
include hu ht

theorem exec_lcsWrite : exec (.lcsWrite v) s = .next (u.lcsWrite w) := by
  show execLcsWrite v s = _
  exact onRegW_up hu ht

theorem exec_lcsWrite_deployed (hk : bitsOf w.toNat 15 8 = 0x3C) (hv : bitsOf w.toNat 1 0 = 2) (hl : u.lcs = 1) :
    exec (.lcsWrite v) s = .next ((u.keyWrite 4 [2]).logRec 9 3 0 2).showFw.showJtag :=
  (exec_lcsWrite hu ht).trans (congrArg _ (if_pos (by simp [hk, hv, hl])))

theorem exec_lcsWrite_ignored (h : bitsOf w.toNat 15 8 ≠ 0x3C ∨ bitsOf w.toNat 1 0 ≠ 2 ∨ u.lcs ≠ 1) :
    exec (.lcsWrite v) s = .next u :=
  (exec_lcsWrite hu ht).trans (congrArg _ (if_neg (by rcases h with h | h | h <;> simp [h])))
end
end

/-! ### Live replacement (R493, R494) -/
section
variable {s : State}

section
variable {z : State} {v w : Word} (hu : s.up R.SE_SWAP) (ht : s.takeWord R.SE_SWAP v = (w, z))
include hu ht

theorem exec_seSwapGo : exec (.seSwapGo v) s = .next (z.seSwap w) := by
  show execSeSwapGo v s = _
  exact onRegW_up hu ht

section
variable {a : Nat} {u : State} (ha : bitsOf w.toNat 3 0 = a) (hz : z.put F.SE_SWAP_PAIR a = u)
include ha hz

theorem exec_seSwapGo_kept (h : w.getLsbD 31 = false ∨ u.swap.isSome = true) : exec (.seSwapGo v) s = .next u := by
  subst ha hz
  exact (exec_seSwapGo hu ht).trans (congrArg _ (if_pos (by rcases h with h | h <;> rw [h] <;> simp)))

section
variable (hg : w.getLsbD 31 = true) (hn : u.swap.isSome = false)
include hg hn

/-- Without a spare there is no live replacement. -/
theorem exec_seSwapGo_noSpare (h : u.bit F.SE_SPARE_AVAIL = false) :
    exec (.seSwapGo v) s = .next ((u.put F.SE_SWAP_STAT_RESULT 3).fault 0x0C30 a) := by
  subst ha hz
  exact (exec_seSwapGo hu ht).trans (congrArg _ ((if_neg (by simp [hg, hn])).trans (if_neg (by simp [h]))))

theorem exec_seSwapGo_starts (h9 : a < 9) (hs : u.bit F.SE_SPARE_AVAIL = true)
    (hp : u.pairSt a = pACTIVE ∨ u.pairSt a = pHOST) (ho : u.orders = [])
    (hi : u.imageFault (u.slotImage (u.get F.SE_SPARE_PAIR)) (u.bit F.CRYPTO_POL_SIGIMG) (u.bit F.CRYPTO_POL_ROLLIMG) = none)
    (hw : swapTables u (u.homeOf a) (u.image (u.homeOf a)) (parseImage (u.slotImage (u.get F.SE_SPARE_PAIR))) = true) :
    exec (.seSwapGo v) s = .next (State.wr { u with
      swap := some { pair := a, spare := u.get F.SE_SPARE_PAIR, goAt := u.now } } R.SE_SWAP_STAT 0) := by
  subst ha hz
  refine (exec_seSwapGo hu ht).trans (congrArg _ ((if_neg (by simp [hg, hn])).trans (if_pos ?_)))
  rw [hi, hw, ho, hs]
  simpa [h9] using hp
end
end
end

theorem exec_liveReplacement_none (h : s.swap = none) :
    exec .liveReplacementInstant s = .next s ∧ exec .liveSwapTimeout s = .next s := by
  show execLiveReplacementInstant s = _ ∧ execLiveSwapTimeout s = _
  rw [execLiveReplacementInstant, execLiveSwapTimeout, h]
  exact ⟨rfl, rfl⟩

section
variable {w : SwapRec} (h : s.swap = some w)
include h

theorem exec_liveReplacementInstant (hr : s.swapReady w = true) :
    exec .liveReplacementInstant s = .next (s.liveReplace w) := by
  show execLiveReplacementInstant s = _
  rw [execLiveReplacementInstant, h]
  exact if_pos hr

theorem exec_liveSwapTimeout :
    exec .liveSwapTimeout s = .next (((s.until (w.goAt + msCounts)).swapEnd 2).fault 0x0C30 w.pair) := by
  show execLiveSwapTimeout s = _
  rw [execLiveSwapTimeout, h]
end

/-- A live replacement ends with RESULT 1 and its fault. -/
theorem liveReplace_ends (s : State) (w : SwapRec) : ∃ t : State, s.liveReplace w = (t.swapEnd 1).fault 0x0C31 w.pair := by
  unfold State.liveReplace
  dsimp only
  exact ⟨_, rfl⟩
end

/-! ### Fatal errors (R496, R497) -/
theorem fatal_resets {s : State} (hu : s.coxUp = true) (c : Nat) (l k : List Byte) (r : WrRes) :
    s.fatal c l k r = (s.writeDump c l k r).2.startReset 5 :=
  if_neg (by simp [hu])

/-- Settles O56: an equation for each command where its conditions hold, and for the limits, the level and the window. -/
theorem coxHousekeeping : Obligations.CoxHousekeeping := by
  refine ⟨fun _ _ h hi => ?off, fun _ => exec_hkRound, fun _ _ v hd hc => exec_hkSample_die hd v hc,
    fun _ _ v hd hl hc => exec_hkSample_other hd v hl hc,
    fun _ _ v hd hl hc => ⟨fun h => (exec_hkSample_tile hd v hl hc).trans (if_pos h),
      fun h => (exec_hkSample_tile hd v hl hc).trans (if_neg (fun hn => hn h))⟩,
    fun _ _ => ⟨fun h => ⟨fun ho => (hkLimit_outside h).trans (if_neg (by simp [ho])),
      fun ho => (hkLimit_outside h).trans (if_pos ho)⟩, hkLimit_inside⟩,
    fun s => ?level, fun _ hn => ⟨hkWindow_closes rfl hn, hkWindow_opens rfl hn⟩, fun _ _ => exec_thermalShutdownRest,
    fun _ => exec_thermalShutdownRest_none, fun _ r h => exec_nvm_closed h r,
    fun _ r hn => exec_nvmChunkWrite_log hn r, fun _ r _ _ hn => exec_nvmChunkWrite_data hn r, dataChunk_written,
    fun _ => exec_wearSave, saveWear_outcome, fun _ hu hd _ => exec_scrubStepDue hu hd rfl,
    fun _ _ _ hu _ => exec_fwConfirm hu,
    fun _ _ _ hu _ ht => ⟨exec_lcsWrite_deployed hu ht, exec_lcsWrite_ignored hu ht⟩,
    fun _ _ _ hu _ ht => ⟨exec_seSwapGo_kept hu ht rfl rfl, fun hg hn => ⟨exec_seSwapGo_noSpare hu ht rfl rfl hg hn,
      exec_seSwapGo_starts hu ht rfl rfl hg hn⟩⟩,
    fun _ w h hr => ⟨exec_liveReplacementInstant h hr, liveReplace_ends _ w⟩, fun _ => exec_liveReplacement_none,
    fun _ _ => exec_liveSwapTimeout,
    fun _ l k r hu => ⟨congrArg _ (fatal_resets hu 1 l k r), congrArg _ (fatal_resets hu 2 l k r),
      fun hh => (if_pos hh).trans (congrArg _ (fatal_resets hu 3 l k r))⟩⟩
  case off =>
    obtain ⟨round, sample⟩ := exec_hk_off h
    rcases hi with rfl | ⟨c, v, rfl⟩
    · exact round
    · exact sample c v
  case level =>
    have h := hkLevel_step s
    exact ⟨fun hl ha => h.trans (levelStep_shutdown hl ha), fun hl ha hb => h.trans (levelStep_throttle hl ha hb),
      fun hl ha hb => h.trans (levelStep_warning hl ha hb), fun hl ha => h.trans (levelStep_cool hl ha),
      fun hl ha => h.trans (levelStep_cooler hl ha), fun hl => h.trans (levelStep_stays hl)⟩

end Sys2Proof.Machine
end

/-! The proofs of the statements on pins and the test access port (spec/14_pins_package.md), first part: GPIO and the auxiliary
converter. -/
section
namespace Sys2Proof.Machine

/-! ### GPIO (R518, R519) -/
section
variable {s : State}

section
variable {u : State} {v w : Word}

theorem exec_gpioOutWrite (hu : s.up R.GPIO_OUT) (ht : s.takeWord R.GPIO_OUT v = (w, u)) (a : Byte) :
    exec (.gpioOutWrite a v) s = .next (u.gpioWrite R.GPIO_OUT (u.pinsOf a.toNat) w) := by
  show execGpioOutWrite a v s = _
  exact onRegW_up hu ht

theorem exec_gpioOeWrite (hu : s.up R.GPIO_OE) (ht : s.takeWord R.GPIO_OE v = (w, u)) (a : Byte) :
    exec (.gpioOeWrite a v) s = .next (u.gpioWrite R.GPIO_OE (u.pinsOf a.toNat) w) := by
  show execGpioOeWrite a v s = _
  exact onRegW_up hu ht
end

/-- Only GPIO.IN shows the levels of the drivers. -/
theorem rd_gpioShow (s : State) {a : Nat} (h : a ≠ R.GPIO_IN) : s.gpioShow.rd a = s.rd a :=
  rd_put_other _ F.GPIO_IN_IN _ h

/-- A write reaches the writer's pins that are no functional brakes. -/
theorem gpioWrite_pin {a g : Nat} (ha : a ≠ R.GPIO_IN) (hg : g < 32) (mine : Nat → Bool) (v : Word) :
    ((s.gpioWrite a mine v).rd a).toNat.testBit g =
      if mine g = true ∧ (s.get F.GPIO_BRK_BRK).testBit g = false then v.getLsbD g else (s.rd a).toNat.testBit g := by
  unfold State.gpioWrite
  rw [rd_gpioShow _ ha, rd_wr_same, BitVec.toNat_ofNat, Nat.testBit_mod_two_pow, testBit_foldl_natBit]
  simp [hg]
end

/-! ### Configuration of the auxiliary converter (R520) -/
section
variable {s : State}

theorem exec_auxCfgWrite {a : Oct} {v w : Word} {u : State} (hu : s.up (R.AUXADC_CH_CFG a))
    (ht : s.takeWord (R.AUXADC_CH_CFG a) v = (w, u)) : exec (.auxCfgWrite a v) s = .next (u.auxCfg a w) := by
  show execAuxCfgWrite a v s = _
  exact onRegW_up hu ht

@[simp] theorem aux_put (s : State) (f : Fld) (v a : Nat) : (s.put f v).aux a = s.aux a := rfl
@[simp] theorem aux_putB (s : State) (f : Fld) (b : Bool) (a : Nat) : (s.putB f b).aux a = s.aux a := rfl
@[simp] theorem aux_setAux_same (s : State) (a : Nat) (x : AuxRec) : (s.setAux a x).aux a = x := mget_mset_same _ _ _ _

/-- What shows in AUXADC.STAT is in its register alone. -/
theorem auxShow_puts (s : State) : ∃ m b, s.auxShow = (s.put F.AUXADC_STAT_FREE m).putB F.AUXADC_STAT_BUSY b := ⟨_, _, rfl⟩

@[simp] theorem aux_auxShow (s : State) (a : Nat) : s.auxShow.aux a = s.aux a := by
  obtain ⟨m, b, h⟩ := auxShow_puts s
  rw [h, aux_putB, aux_put]

/-- A configuration that is taken stops what the channel was doing. -/
theorem auxCfg_taken {a : Nat} {v : Word} (h : s.auxRefused a v = false) :
    (s.auxCfg a v).aux a = { out := (s.aux a).out } := by
  unfold State.auxCfg
  dsimp only
  rw [if_neg (by simp [h]), aux_auxShow, aux_setAux_same]
  split
  · rw [aux_putB, aux_put, aux_put, aux_put, aux_putB]
  · rw [aux_put, aux_put, aux_put, aux_putB]

theorem auxCfg_refused {a m : Nat} {v : Word} (hm : s.auxMode a v = m)
    (h : s.auxBad a (v.getLsbD 0) m (bitsOf v.toNat 9 5) = true) : s.auxCfg a v = s.fault 0x0130 a := by
  subst hm
  exact if_pos h

section
variable {a : Oct} (hu : s.up (R.AUXADC_CH_CFG a))
include hu

theorem exec_auxStart : exec (.auxStart a) s = .next (s.auxStart a) := by
  show execAuxStart a s = _
  exact onReg_up hu

theorem exec_auxStart_starts (hm : s.get (F.AUXADC_CH_CFG_MODE a) = 2) (he : s.bit (F.AUXADC_CH_CFG_EN a) = true) :
    exec (.auxStart a) s = .next (s.setAux a { s.aux a with
      n := 0, sum := 0, due := 2 ^ s.get (F.AUXADC_CH_CFG_OSR a), acq := s.now + 200 }).auxShow :=
  (exec_auxStart hu).trans (congrArg _ (if_pos (by simp [hm, he])))

theorem exec_auxStart_ignored (h : s.get (F.AUXADC_CH_CFG_MODE a) ≠ 2 ∨ s.bit (F.AUXADC_CH_CFG_EN a) = false) :
    exec (.auxStart a) s = .next s :=
  (exec_auxStart hu).trans (congrArg _ (if_neg (by rcases h with h | h <;> simp [h])))
end
end

/-! ### Conversions and results (R520, R521) -/
section
variable {s : State} {a : Oct}

theorem exec_auxConversion_off (h : s.domainRun 3 = false ∨ s.auxOn a = false) (v : BitVec 16) :
    exec (.auxConversion a v) s = .next s :=
  if_pos (by rcases h with h | h <;> simp [h])

section
variable (hd : s.domainRun 3 = true) (ho : s.auxOn a = true)
include hd ho

theorem exec_auxConversion_skipped (v : BitVec 16) (hm : s.get (F.AUXADC_CH_CFG_MODE a) = 1) (hc : s.auxCarrier a = false) :
    exec (.auxConversion a v) s =
      .next ((s.incSat F.AUXADC_SKIPCNT_COUNT).setAux a { s.aux a with n := 0, sum := 0, due := 0 }).auxShow :=
  (if_neg (by simp [hd, ho])).trans (if_pos (by simp [hm, hc]))

theorem exec_auxConversion (v : BitVec 16) (hc : s.get (F.AUXADC_CH_CFG_MODE a) ≠ 1 ∨ s.auxCarrier a = true) :
    exec (.auxConversion a v) s =
      .next (if s.auxTurn a = true then (s.auxConvert a).auxSample a v.toNat else s) := by
  refine (if_neg (by simp [hd, ho])).trans ((if_neg (by rcases hc with h | h <;> simp [h])).trans ?_)
  cases s.auxTurn a <;> rfl
end

section
variable {a v : Nat}

theorem auxSample_enters (h : (s.aux a).n + 1 < 2 ^ s.get (F.AUXADC_CH_CFG_OSR a)) : let x := s.aux a
    s.auxSample a v = (s.setAux a { x with due := x.due - 1, n := x.n + 1, sum := x.sum + v }).auxShow := if_pos h

/-- The last conversion of a series gives the average, ties upward. -/
theorem auxSample_last (h : 2 ^ s.get (F.AUXADC_CH_CFG_OSR a) ≤ (s.aux a).n + 1) : let x := s.aux a
    let k := s.get (F.AUXADC_CH_CFG_OSR a)
    s.auxSample a v = (s.setAux a { x with
      due := x.due - 1, n := 0, sum := 0, done := some ((2 * (x.sum + v) + 2 ^ k) / (2 * 2 ^ k)), doneAt := s.auxAt }).auxShow :=
  if_neg (Nat.not_lt.2 h)

theorem auxOut_iff : s.auxOut a v = true ↔ v < s.get (F.AUXADC_CH_LIM_LO a) ∨ s.get (F.AUXADC_CH_LIM_HI a) < v := by
  simp [State.auxOut]

theorem auxLimit_inside (hl : s.get (F.AUXADC_CH_LIM_LO a) ≤ v) (hh : v ≤ s.get (F.AUXADC_CH_LIM_HI a)) :
    s.auxLimit a v = s.setAux a { s.aux a with done := none, out := false } := by
  have inside : s.auxOut a v = false := by
    rw [← Bool.not_eq_true, auxOut_iff]
    omega
  simp [State.auxLimit, inside]

/-- A value that stays outside enters no second fault. -/
theorem auxLimit_stays (h : v < s.get (F.AUXADC_CH_LIM_LO a) ∨ s.get (F.AUXADC_CH_LIM_HI a) < v) (ho : (s.aux a).out = true) :
    s.auxLimit a v = s.setAux a { s.aux a with done := none, out := true } := by
  simp [State.auxLimit, auxOut_iff.2 h, ho]
end

theorem exec_auxResult_none (h : (s.aux a).done = none) : exec (.auxResult a) s = .next s := by
  show execAuxResult a s = _
  rw [execAuxResult, h]

theorem exec_auxResult {v : Nat} (h : (s.aux a).done = some v) (hd : s.domainRun 3 = true) : exec (.auxResult a) s =
    .next ((((s.until ((s.aux a).doneAt + 160)).auxPut a v).auxLimit a v).auxSeriesEnd a) := by
  show execAuxResult a s = _
  rw [execAuxResult, h]
  exact if_pos hd

theorem bit_of_regs {s t : State} (h : t.regs = s.regs) (f : Fld) : t.bit f = s.bit f := by
  unfold State.bit State.get
  rw [rd_of_regs h]

theorem auxRead_clears (s : State) (a : Nat) :
    (s.auxRead a).2.bit (F.AUXADC_CH_RES_NEW a) = false ∧ (s.auxRead a).2.bit (F.AUXADC_CH_RES_OVR a) = false := by
  have new : (F.AUXADC_CH_RES_NEW a).ok := ⟨by simp, by simp⟩
  have ovr : (F.AUXADC_CH_RES_OVR a).ok := ⟨by simp, by simp⟩
  exact ⟨(bit_putB_apart _ _ _ _ ovr (.inr (.inl (by simp)))).trans (bit_putB _ _ _ new), bit_putB _ _ _ ovr⟩

/-- A read answers v. -/
def State.answers (s : State) (v : Word) : State := { s with rdata := v }

/-- The answer is in no register. -/
theorem answers_bit (s : State) (v : Word) (f : Fld) : (s.answers v).bit f = s.bit f := bit_of_regs rfl f

/-- A read of a result returns it, and clears NEW and OVR. -/
theorem exec_auxResRead (hu : s.up (R.AUXADC_CH_RES a)) : ∃ t : State, exec (.auxResRead a) s = .next t ∧
    t.rdata = s.rd (R.AUXADC_CH_RES a) ∧
    t.bit (F.AUXADC_CH_RES_NEW a) = false ∧ t.bit (F.AUXADC_CH_RES_OVR a) = false := by
  obtain ⟨new, ovr⟩ := auxRead_clears s a
  refine ⟨(s.auxRead a).2.answers (s.auxRead a).1, ?_, rfl, (answers_bit _ _ _).trans new, (answers_bit _ _ _).trans ovr⟩
  show execAuxResRead a s = _
  exact onRegRead_up hu
end

end Sys2Proof.Machine
end

/-! The proofs of the statements on pins and the test access port (spec/14_pins_package.md), second part: the test access port
and the balls. -/
section
namespace Sys2Proof.Machine

/-! ### Instructions of the test access port (R491, R522, R523, R525) -/
section
variable {s : State} (hp : s.powered = true)
include hp

theorem exec_tapReset : exec .tapReset s = .next (s.jtagRelease.jtagIr 0x01) := if_pos hp

/-- IDCODE shows a lasting RLOAD failure once. -/
theorem exec_idcode : ∃ t : State, exec .idcode s = .next t ∧
    t.tap.out = (if s.jtagRelease.tap.idBad = true then 0x106406D6 else 0x106406D7) ∧ t.tap.idBad = false :=
  ⟨_, if_neg (by simp [hp]), rfl, rfl⟩

theorem exec_chal : let u := s.jtagRelease.jtagIr 0x20
    exec .chal s = .next (u.tapOut (leNat (u.nonce ++ u.sysIdBytes))) :=
  if_neg (by simp [hp])

theorem exec_bypass (b : Bool) : exec (.bypass b) s = .next ((s.jtagRelease.jtagIr 0xFF).jtagBypass b.toNat) := if_pos hp

theorem exec_samplePreload (a b : BitVec 750) : let u := s.jtagRelease.jtagIr 0x02
    exec (.samplePreload a b) s =
      .next (if u.jtagFree = true then u.tapScan a.toNat b.toNat else u.jtagBypass b.toNat) := by
  intro u
  rw [apply_ite Host.Outcome.next]
  exact if_neg (by simp [hp])

theorem exec_answer (a : BitVec 776) : let u := s.jtagRelease.jtagIr 0x21
    u.domainRun 3 = true → let l := leBytes 97 a.toNat
    exec (.answer a) s = .next (u.jtagAnswer (leAt l 0 1) (slice l 1 48) (slice l 49 48)) :=
  fun h => (if_neg (by simp [hp])).trans (if_pos h)

theorem exec_sysrst : let u := s.jtagRelease.jtagIr 0x31
    exec .sysrst s = .next (if u.jtagFree = true then u.startReset 9 else u) := by
  intro u
  rw [apply_ite Host.Outcome.next]
  exact if_neg (by simp [hp])

/-- CLAMP, HIGHZ and EXTEST are the same hold with codes of their own; only EXTEST scans. -/
theorem exec_holds : exec .clamp s = .next (s.jtagHold 0x04).2 ∧ exec .highz s = .next (s.jtagHold 0x05).2 ∧
    ∀ a b, exec (.extest a b) s = .next (if (s.jtagHold 0x03).1 = true then (s.jtagHold 0x03).2.tapScan a.toNat b.toNat
      else (s.jtagHold 0x03).2.jtagBypass b.toNat) := by
  refine ⟨if_pos hp, if_pos hp, fun a b => (if_neg (by simp [hp])).trans ?_⟩
  obtain ⟨_ | _, u⟩ := s.jtagHold 0x03 <;> rfl
end

section
variable {s : State}

theorem jtagHold_free (h : s.jtagFree = true) (c : Nat) : s.jtagHold c = (true, (s.jtagIr c).holdReset 9) := if_pos h

theorem jtagHold_locked (h : s.jtagFree = false) (c : Nat) : s.jtagHold c = (false, s.jtagRelease.jtagIr c) :=
  if_neg (by simp [h])

theorem exec_holds_free (hp : s.powered = true) (h : s.jtagFree = true) :
    exec .clamp s = .next ((s.jtagIr 0x04).holdReset 9) ∧ exec .highz s = .next ((s.jtagIr 0x05).holdReset 9) ∧
    ∀ a b, exec (.extest a b) s = .next (((s.jtagIr 0x03).holdReset 9).tapScan a.toNat b.toNat) := by
  simpa only [jtagHold_free h, if_true] using exec_holds hp

theorem exec_holds_locked (hp : s.powered = true) (h : s.jtagFree = false) :
    exec .clamp s = .next (s.jtagRelease.jtagIr 0x04) ∧ exec .highz s = .next (s.jtagRelease.jtagIr 0x05) ∧
    ∀ a b, exec (.extest a b) s = .next ((s.jtagRelease.jtagIr 0x03).jtagBypass b.toNat) := by
  simpa only [jtagHold_locked h, Bool.false_eq_true, if_false] using exec_holds hp
end

/-! ### Firmware words and keys (R492, R526) -/
section
variable {s u : State} (hp : s.powered = true)
include hp

section
variable {b : Bool} {a : Word} {d : BitVec 64} {r : WrRes} (hu : s.jtagRelease.jtagIr 0x30 = u)
include hu

theorem exec_rload_locked (hf : u.jtagFree = false) :
    exec (.rload b a d r) s = .next (u.jtagBypass (b.toNat + 2 * a.toNat + 2 ^ 33 * d.toNat)) := by
  subst hu
  exact (if_neg (by simp [hp])).trans (if_pos (by simp [hf]))

section
variable (hf : u.jtagFree = true)
include hf

theorem exec_rload_refused (ho : u.rloadOk a.toNat = false) :
    exec (.rload b a d r) s = .next (u.tapOut (b.toNat + 2 * a.toNat + 2 ^ 33 * d.toNat)) := by
  subst hu
  exact (if_neg (by simp [hp])).trans ((if_neg (by simp [hf])).trans (if_pos (by simp [ho])))

theorem exec_rload_writes (ho : u.rloadOk a.toNat = true) : exec (.rload b a d r) s =
    .next ((u.tapOut (b.toNat + 2 * a.toNat + 2 ^ 33 * d.toNat)).rloadWrite b.toNat a.toNat (leBytes 8 d.toNat) r) := by
  subst hu
  exact (if_neg (by simp [hp])).trans ((if_neg (by simp [hf])).trans (if_neg (by simp [ho])))
end
end

section
variable {a : Byte} {d : BitVec 768} (hu : s.jtagRelease.jtagIr 0x32 = u)
include hu

theorem exec_keywr_locked (hf : u.jtagFree = false) :
    exec (.keywr a d) s = .next (u.jtagBypass (a.toNat + 256 * d.toNat)) := by
  subst hu
  exact (if_neg (by simp [hp])).trans (if_pos (by simp [hf]))

section
variable (hf : u.jtagFree = true) (hd : u.domainRun 3 = true)
include hf hd

theorem exec_keywr_returned (hl : u.lcs = 3) : exec (.keywr a d) s = .next (u.fault 0x0C27 0) := by
  subst hu
  exact (if_neg (by simp [hp])).trans ((if_neg (by simp [hf])).trans ((if_neg (by simp [hd])).trans (if_pos hl)))

theorem exec_keywr_slot (hl : u.lcs ≠ 3) (ha : a.toNat < 4) : exec (.keywr a d) s =
    .next (((u.keyWrite (0x10 + 128 * a.toNat + 8) (leBytes 96 d.toNat)).keyWrite (0x10 + 128 * a.toNat) [1]).logRec 9 2
      a.toNat u.lcs) := by
  subst hu
  exact (if_neg (by simp [hp])).trans ((if_neg (by simp [hf])).trans ((if_neg (by simp [hd])).trans
    ((if_neg hl).trans (if_pos ha))))
end
end
end

theorem rloadWrite_written (s : State) (a b : Nat) (l : List Byte) : s.rloadWrite b a l .ok = s.mramWrite (fwSlot b + a) l ∧
    s.rloadWrite b a l .rewritten = (s.retryT 2).mramWrite (fwSlot b + a) l := ⟨rfl, rfl⟩

/-! ### Balls (R507, R519, R524) -/
theorem boundaryBalls_length : boundaryBalls.length = 250 := by decide +kernel

/-- No ball stands twice in the order of the boundary register: each pair of the closed list is compared. -/
theorem boundaryBalls_nodup : boundaryBalls.Nodup := by decide +kernel

section
variable {s : State} {b : Ball}

theorem heldLow_of_safety (h : b = .bypHold ∨ (∃ x i, b = .sto x i) ∨ (∃ x i, b = .sbo x i)) : b.heldLow = true := by
  rcases h with rfl | ⟨_, _, rfl⟩ | ⟨_, _, rfl⟩ <;> rfl

theorem ballLevel_heldLow (h : b.heldLow = true) (hc : s.cellsDrive = true ∨ s.cellsOff = true) :
    s.ballLevel b = some false :=
  (if_neg (by rcases hc with h | h <;> simp [h])).trans (if_pos h)

theorem ballLevel_off (hc : s.cellsOff = true) (h : b.heldLow = false) : s.ballLevel b = none :=
  (if_neg (by simp [hc])).trans ((if_neg (by simp [h])).trans (if_pos (by simp [hc])))

theorem ballLevel_func (hd : s.cellsDrive = false) (hc : s.cellsOff = false) : s.ballLevel b = s.ballFunc b :=
  if_pos (by simp [hd, hc])
end

/-- After reset every domain is off, and no instruction of the TAP is in force. -/
theorem reset_ballLevel (b : Ball) : State.reset.ballLevel b = match b with
    | .bypHold | .mpAttnN | .phyrstN _ | .mdc | .fde _ | .sto _ _ | .sbo _ _ | .tpo _ => some false
    | .ftx _ => some true
    | _ => none := by
  have off (d : Nat) : State.reset.domainRun d = false := Nat.zero_testBit d
  have unpowered : State.reset.powered = false := rfl
  rw [ballLevel_func rfl rfl]
  cases b <;> simp [State.ballFunc, State.mpAttnN, State.mdcHigh, State.phyrstN, State.ftxHigh, State.fdeHigh,
    State.gpioDrive, off, unpowered]

/-- Settles O57: an equation for each command where its conditions hold, and the levels of the balls. GPIO.OUT and OE lie in one
window, so that one is up with the other. -/
theorem pinsAndTap : Obligations.PinsAndTap :=
  ⟨fun _ _ a _ hu _ => ⟨fun ht => exec_gpioOutWrite hu ht a, fun ht => exec_gpioOeWrite hu ht a⟩,
    fun _ _ v m _ ha hg => gpioWrite_pin (by rcases ha with rfl | rfl <;> decide) hg m v,
    fun _ _ _ _ hu _ => exec_auxCfgWrite hu, fun _ _ _ => auxCfg_taken, fun _ _ _ _ hm => auxCfg_refused hm.symm,
    fun _ _ hu => ⟨exec_auxStart_starts hu, exec_auxStart_ignored hu⟩, fun _ _ v h => exec_auxConversion_off h v,
    fun _ _ v hd ho => ⟨exec_auxConversion_skipped hd ho v,
      fun hc ht => (exec_auxConversion hd ho v hc).trans (congrArg _ (if_pos ht)),
      fun hc ht => (exec_auxConversion hd ho v hc).trans (congrArg _ (if_neg (by simp [ht])))⟩,
    fun _ _ _ => ⟨auxSample_enters, auxSample_last⟩, fun _ _ => exec_auxResult_none, fun _ _ _ => exec_auxResult,
    fun _ _ _ => ⟨auxLimit_inside, auxLimit_stays⟩, fun _ _ => exec_auxResRead,
    fun _ hp => ⟨exec_tapReset hp, exec_idcode hp, exec_chal hp, exec_bypass hp, exec_samplePreload hp, exec_answer hp,
      exec_sysrst hp⟩,
    fun _ => exec_holds_free, fun _ => exec_holds_locked,
    fun _ _ _ _ _ hp => ⟨exec_rload_locked hp rfl, exec_rload_refused hp rfl, exec_rload_writes hp rfl⟩,
    fun s a b l => rloadWrite_written s a b l,
    fun _ _ _ hp => ⟨exec_keywr_locked hp rfl, fun hf hd => exec_keywr_returned hp rfl hf hd,
      fun hf hl hd => exec_keywr_slot hp rfl hf hd hl⟩,
    ⟨boundaryBalls_length, boundaryBalls_nodup⟩, fun _ _ h => ballLevel_heldLow (heldLow_of_safety h),
    fun _ _ => ballLevel_off, fun _ _ => ballLevel_func, reset_ballLevel⟩

end Sys2Proof.Machine
end
